-- ==== Sys2Proof/Syntax.lean ====
section
/-! DEFINITION. The commands of the block, one constructor for each row of the opcode table, with their operands:
what is written to or read from a register, what the outside world does at a pin or a bus, and the device's own timed events. -/

namespace Sys2Proof

/-- One of the two gate pads of a leg (R54). -/
inductive GatePad where
  | high
  | low
deriving DecidableEq, Repr

/-- One of the two compares of a leg or of a general timer (R50, R136). -/
inductive Cmp where
  | a
  | b
deriving DecidableEq, Repr

/-- A write to the shadow of a leg: one of its seven registers LEG_PERIOD to LEG_MINP, or the 128-bit write of R61. -/
inductive LegShadow where
  | reg (r : Fin 7) (v : Word)
  | quad (period cmpa cmpb fine : Word)
deriving DecidableEq, Repr

/-- An accepted or refused configuration write of the sigma-delta block: SDF_CFG of a channel, or CLK_SRC of a cluster (R81). -/
inductive SdfWrite where
  | cfg (ch : Fin 384) (v : Word)
  | clkSrc (c : Fin 24) (ext : Bool)
deriving DecidableEq, Repr

/-- A write of a comparator's threshold or configuration register (R87). -/
inductive CmpWrite where
  | thr (v : Word)
  | cfg (v : Word)
deriving DecidableEq, Repr

/-- What a serial encoder's frame carried on the wire (R91): the data bits right-aligned, the nE, nW and CDS bits, the measured
line delay and the CRC bits as received. -/
structure SeuFrame where
  data : BitVec 64
  nE : Bool
  nW : Bool
  cds : Bool
  dly : Byte
  crc : Byte
deriving DecidableEq, Repr

/-- The fields of an engine step beside its kind (R103). -/
structure StepW where
  d : Fin 64
  a : Fin 64
  b : Fin 64
  c : Fin 64
  q : Fin 32
  e : Bool
  imm : BitVec 28
deriving DecidableEq, Repr

/-- An engine pair: a cluster's own, or a region's spare (R119, R122). -/
inductive LockUnit where
  | cluster (c : Fin 24)
  | spare (n : Fin 4)
deriving DecidableEq, Repr

/-- A lockstep or residue mismatch: the pair in which it is found, and in which of the two engine cycles of the dot (R119, R122). -/
structure LockPair where
  unit : LockUnit
  half : Fin 2
deriving DecidableEq, Repr

/-- A pad: a general pin, or the two pads of a leg (R457, R459). -/
inductive PadRef where
  | pin (p : Fin 256)
  | gate (l : Fin 144)
deriving DecidableEq, Repr

/-- What the receiver of a port sees in one block time: the sync header and payload of L0, L1 and LS, and the fine step of the dot in
which the first bit arrived (R159, R160). -/
structure CellIn where
  h0 : BitVec 2
  h1 : BitVec 2
  hs : BitVec 2
  d0 : BitVec 64
  d1 : BitVec 64
  ds : BitVec 64
  fine : Fin 32
deriving DecidableEq, Repr

/-- What a NAND target's parameter page reports (R396): page size code of NF_GEOM, spare bytes, blocks, logical units, pages per block. -/
structure NandTarget where
  page : Fin 4
  spare : BitVec 16
  blocks : BitVec 16
  luns : Fin 3
  ppb : BitVec 12
deriving DecidableEq, Repr

/-- A codeword that a read did not find clean (R400): the sector within the command, its block, bits corrected, read-retry attempts, and
whether it was decoded in the end. -/
structure NandCodeword where
  sector : Fin 256
  block : Nat
  bits : Nat
  retries : Nat
  good : Bool
deriving DecidableEq, Repr

/-- An inbound PCI Express memory request (R420): write or read, its offset in BAR0, its length in bytes, the bytes of a write (lowest
first), and whether it arrived poisoned or malformed. -/
structure PcieRequest where
  write : Bool
  offset : BitVec 30
  length : Fin 4097
  data : List Byte
  bad : Bool
deriving DecidableEq, Repr

/-- A CAN FD frame (R425). -/
structure CanFrame where
  id : BitVec 29
  ide : Bool
  rtr : Bool
  fdf : Bool
  dlc : Fin 16
  brs : Bool
  esi : Bool
  data : List Byte
deriving DecidableEq, Repr

/-- A core, by what its CORE.ID says: a host core, the core that serves a cluster, the core of a region's spare pair (R190). -/
inductive CoreId where
  | host (n : Fin 4)
  | loop (c : Fin 24)
  | spare (n : Fin 4)
deriving DecidableEq, Repr

/-- A prefix byte of an instruction (R192): a capability, an element width, an order, repeat. -/
inductive Prefix where
  | cap (k : Fin 16)
  | width8
  | width16
  | width64
  | acquire
  | release
  | acqRel
  | repeat_
deriving DecidableEq, Repr

/-- What every instruction carries: the core that executes it, the prefix bytes in order, and, on a host core, the cycles after the
previous instruction's issue at which it issues at the earliest (R221 to R226). -/
structure Hdr where
  core : CoreId
  pre : List Prefix
  wait : Nat
deriving DecidableEq, Repr

/-- The second source of an ALU or compare instruction: register B, an imm8, an imm32 (R209). -/
inductive Src where
  | reg
  | imm8 (v : Byte)
  | imm32 (v : Word)
deriving DecidableEq, Repr

/-- A displacement of 16 or of 32 bits (R193). -/
inductive Disp where
  | d16 (v : BitVec 16)
  | d32 (v : Word)
deriving DecidableEq, Repr

/-- Where a bit instruction has its bit address: an imm32, or register A (R205). -/
inductive BitAddr where
  | reg
  | imm (v : Word)
deriving DecidableEq, Repr


/-- One command of the block: one constructor for each row of the opcode table. -/
inductive Instr where
  /-- REGISTER_WRITE (R12): A host, DMA or JTAG write to a register field with no row of its own sets, clears or ignores each field by its access code, and applies stop-only and range refusals. -/
  | registerWrite (addr : Nat) (v : Word)
  /-- SYNC_MODE (R36): A write of SWP_CTRL.SYNC_MODE is accepted only while all regions are STOPPED, or refused with MODE_REJECT. -/
  | syncMode (m : Fin 4)
  /-- REF_PORT (R36): A write of SWP_CTRL.REF_PORT is accepted only while all regions are STOPPED, or refused with MODE_REJECT. -/
  | refPort (p : Fin 4)
  /-- LEG_PSTART (R45): A leg's carrier count wraps to 0, the period starts, REF resets, compares are armed and LEG_PSTART is issued. -/
  | legPstart (l : Fin 144)
  /-- LEG_MID (R53): A leg's count reaches half the period and LEG_MID is issued. -/
  | legMid (l : Fin 144)
  /-- COMPARE_FIRE (R51): An armed CMPA or CMPB matches, or is passed by, the count, fires and changes REF. -/
  | compareFire (l : Fin 144) (c : Cmp)
  /-- DEAD_TIME_EXPIRY (R55): A pending dead-time activation expires and the gate pad becomes active. -/
  | deadTimeExpiry (l : Fin 144) (p : GatePad)
  /-- LEG_SHADOW_WRITE (R61): A write to a field of group LG, including the 128-bit write, stores to the shadow and sets PEND. -/
  | legShadowWrite (l : Fin 144) (w : LegShadow)
  /-- LEG_COMMIT_NOW (R58): A write of LEG_CTRL.COMMIT_NOW commits group LG in the dot after it reaches the leg. -/
  | legCommitNow (l : Fin 144)
  /-- FORCE_TRIP (R67): A write of LEG_CTRL.FORCE_TRIP trips the leg, with its pads inactive 2 dots later. -/
  | forceTrip (l : Fin 144)
  /-- TRIPPED_CLEAR (R70): A W1C write to LEG_STAT.TRIPPED clears it unless an enabled line is asserted, and a latched leg then resumes at the next LEG_PSTART. -/
  | trippedClear (l : Fin 144)
  /-- TRIP_PIN_FILTER_PASS (R67): TRIPn_N has read low, or high, for f consecutive dots and its contribution to PTRIPn asserts or ends. -/
  | tripPinFilterPass (n : Fin 8) (low : Bool)
  /-- TRIP_LINE_ASSERT (R68): An enabled trip line is asserted while a leg switches, so the leg enters TRIPPED and parks its pads in the safe state. -/
  | tripLineAssert (l : Fin 144) (line : Fin 16)
  /-- CONVERTER_START (R64): A write of CLG_CONV.STARTk places a stopped converter in its region's start queue, or is refused when the region is stopped. -/
  | converterStart (c : Fin 24) (k : Fin 2)
  /-- CONVERTER_STOP (R64): A write of CLG_CONV.STOPk removes the converter from the queue or stops it, with its pads inactive 2 dots later. -/
  | converterStop (c : Fin 24) (k : Fin 2)
  /-- CONVERTER_RELEASE (R65): The converter at the head of the start queue is released at its lowest leg's first LEG_PSTART at or after its earliest time. -/
  | converterRelease (n : Fin 4)
  /-- SDF_LATCH (R80): A sigma-delta latch slot fires and the channel writes its sinc3 result to SDF_RESk. -/
  | sdfLatch (ch : Fin 384) (k : Fin 2)
  /-- SDF_CFG_WRITE (R81): An accepted write of SDF_CFG or CLK_SRC reconfigures the channel and restarts its window fill. -/
  | sdfCfgWrite (w : SdfWrite)
  /-- SDF_OC_DECISION (R82): The fast sinc2 path makes a high or low decision, sets OC_HI or OC_LO and OC_LIVE, and issues SDF_OCH or SDF_OCL. -/
  | sdfOcDecision (ch : Fin 384) (high : Bool)
  /-- OC_LIVE_FALL (R82): OC_LIVE returns to 0, 2 dots after the first bit at which no fast-path condition holds. -/
  | ocLiveFall (ch : Fin 384)
  /-- SDF_CLKLOST (R79): No external modulator clock edge is detected for 64 dots, so CLK_OK clears, CLK_LOST is set and SDF_CLK is reported. -/
  | sdfClklost (c : Fin 24)
  /-- SAR_TRIGGER (R84): A SAR trigger entry fires and starts a conversion, or sets MISSED and OVERRUN when the converter is busy. -/
  | sarTrigger (v : Fin 16) (e : Fin 16)
  /-- SAR_RESULT (R84): A conversion completes and its result is written to SAR_RESe at dot p + 32. -/
  | sarResult (v : Fin 16) (value : BitVec 16)
  /-- COMPARATOR_CROSSING (R87): An analog input crosses a comparator threshold, and the comparator output changes. -/
  | comparatorCrossing (j : Fin 64) (above : Bool)
  /-- CMP_FABRIC_CHANGE (R87): 16 dots after a crossing the comparator's fabric level changes, setting ROSE or FELL and issuing CMP_RISE or CMP_FALL. -/
  | cmpFabricChange (j : Fin 64) (level : Bool)
  /-- CMP_THR_WRITE (R87): A write of CMP_THR or CMP_CFG reaches the analog die 2 dots later and governs the comparator from then. -/
  | cmpThrWrite (j : Fin 64) (w : CmpWrite)
  /-- QEP_EDGE (R88): A filtered quadrature input changes and the count moves by the selected mode, or ERR is set when A and B change together. -/
  | qepEdge (u : Fin 48) (a b : Bool)
  /-- QEP_INDEX (R90): A rising filtered index edge copies the count and sweep position and optionally clears the count. -/
  | qepIndex (u : Fin 48)
  /-- QEP_LATCH (R89): A quadrature latch slot fires and writes POS, AGE and INT. -/
  | qepLatch (u : Fin 48) (k : Fin 2)
  /-- QEP_POS_WRITE (R88): A write of QEP_POS loads the counter, plus edges counted in the same dot. -/
  | qepPosWrite (u : Fin 48) (v : Word)
  /-- SEU_SLOT_FIRE (R91): A serial-encoder slot fires and starts an SSI or BiSS-C frame, or sets SKIPPED when the unit is busy. -/
  | seuSlotFire (u : Fin 24)
  /-- SEU_RESULT (R92): 3 dots after the last bit the result is written, with SEQ advanced, or CRC_ERR set on a failed BiSS-C CRC. -/
  | seuResult (u : Fin 24) (r : SeuFrame)
  /-- SEU_DEADLINE (R92): A frame not complete by its deadline is ended, MA returns high, TIMEOUT is set and SEU_TMO is reported. -/
  | seuDeadline (u : Fin 24)
  /-- SEU_TIMEOUT_END (R92): The post-frame timeout ends and MA is high, ready for the next frame. -/
  | seuTimeoutEnd (u : Fin 24)
  /-- LPE_SLOT_FIRE (R112): A slot-table entry fires and queues a dispatch of its context, or drops it. -/
  | lpeSlotFire (c : Fin 24) (e : Fin 256)
  /-- LPE_KICK (R113): A write of LPE_KICK.GO queues a dispatch of the named context, or is refused while the region is stopped. -/
  | lpeKick (c : Fin 24) (ctx : Fin 128)
  /-- DISPATCH_START (R113): The engine is free and starts the dispatch at the head of its queue, or discards it if the context is disabled. -/
  | dispatchStart (c : Fin 24)
  /-- RUN_END (R105): A run ends after its E step or at step 2,047, updating CTX_RUNS and CTX_STAMP and applying held host writes. -/
  | runEnd (c : Fin 24)
  /-- STEP_NOP (R108): Engine step NOP does nothing for one cycle. -/
  | stepNop (c : Fin 24) (w : StepW)
  /-- STEP_GETF (R108): Engine step GETF reads a sinc3 result, offsets and scales it into a context word. -/
  | stepGetf (c : Fin 24) (w : StepW)
  /-- STEP_GETS (R108): Engine step GETS reads a SAR result, offsets and scales it into a context word. -/
  | stepGets (c : Fin 24) (w : StepW)
  /-- STEP_GETQ (R108): Engine step GETQ reads a quadrature latch's POS, AGE and INT. -/
  | stepGetq (c : Fin 24) (w : StepW)
  /-- STEP_GETE (R108): Engine step GETE reads a serial-encoder unit's data and status. -/
  | stepGete (c : Fin 24) (w : StepW)
  /-- STEP_GETC (R108): Engine step GETC reads the region's comparator output bits. -/
  | stepGetc (c : Fin 24) (w : StepW)
  /-- STEP_GETT (R108): Engine step GETT reads a general timer count. -/
  | stepGett (c : Fin 24) (w : StepW)
  /-- STEP_GETR (R108): Engine step GETR reads the cluster's 32 context level inputs. -/
  | stepGetr (c : Fin 24) (w : StepW)
  /-- STEP_GETX (R108): Engine step GETX reads a word of another context under the crossing latencies. -/
  | stepGetx (c : Fin 24) (w : StepW)
  /-- STEP_MBXT (R108): Engine step MBXT reads and clears selected MBX_FRESH bits. -/
  | stepMbxt (c : Fin 24) (w : StepW)
  /-- STEP_PUTC (R110): Engine step PUTC forms compares from a duty and writes a leg's group LG in one 128-bit write. -/
  | stepPutc (c : Fin 24) (w : StepW)
  /-- STEP_PUTW (R108): Engine step PUTW writes a word of another context. -/
  | stepPutw (c : Fin 24) (w : StepW)
  /-- STEP_PUTE (R108): Engine step PUTE issues a fabric event LPE_EV. -/
  | stepPute (c : Fin 24) (w : StepW)
  /-- STEP_PUTL (R108): Engine step PUTL sets a fabric level LPE_OUT. -/
  | stepPutl (c : Fin 24) (w : StepW)
  /-- STEP_PUBL (R167): Engine step PUBL hands a value to a publish entry of the link. -/
  | stepPubl (c : Fin 24) (w : StepW)
  /-- STEP_MOV (R108): Engine step MOV copies a context word. -/
  | stepMov (c : Fin 24) (w : StepW)
  /-- STEP_LDK (R108): Engine step LDK loads a scaled immediate constant. -/
  | stepLdk (c : Fin 24) (w : StepW)
  /-- STEP_ADD (R108): Engine step ADD adds two words with saturation. -/
  | stepAdd (c : Fin 24) (w : StepW)
  /-- STEP_SUB (R108): Engine step SUB subtracts two words with saturation. -/
  | stepSub (c : Fin 24) (w : StepW)
  /-- STEP_MUL (R108): Engine step MUL multiplies in Q format with rounding. -/
  | stepMul (c : Fin 24) (w : StepW)
  /-- STEP_MAC (R108): Engine step MAC accumulates a product onto the destination. -/
  | stepMac (c : Fin 24) (w : StepW)
  /-- STEP_DIV (R108): Engine step DIV divides in Q format, setting DIVZ on a zero divisor. -/
  | stepDiv (c : Fin 24) (w : StepW)
  /-- STEP_NEG (R108): Engine step NEG negates with saturation. -/
  | stepNeg (c : Fin 24) (w : StepW)
  /-- STEP_ABS (R108): Engine step ABS takes the absolute value with saturation. -/
  | stepAbs (c : Fin 24) (w : StepW)
  /-- STEP_MIN (R108): Engine step MIN takes the smaller of two words. -/
  | stepMin (c : Fin 24) (w : StepW)
  /-- STEP_MAX (R108): Engine step MAX takes the larger of two words. -/
  | stepMax (c : Fin 24) (w : StepW)
  /-- STEP_SCALE (R108): Engine step SCALE offsets and scales a word. -/
  | stepScale (c : Fin 24) (w : StepW)
  /-- STEP_SHIFT (R108): Engine step SHIFT shifts a word left with saturation or right with rounding. -/
  | stepShift (c : Fin 24) (w : StepW)
  /-- STEP_SQRT (R108): Engine step SQRT forms a square root in Q format. -/
  | stepSqrt (c : Fin 24) (w : StepW)
  /-- STEP_SAT (R108): Engine step SAT clamps a word between two limits and sets LIMIT. -/
  | stepSat (c : Fin 24) (w : StepW)
  /-- STEP_RATE (R108): Engine step RATE moves a word toward a target by at most a limit. -/
  | stepRate (c : Fin 24) (w : StepW)
  /-- STEP_DEAD (R108): Engine step DEAD applies a dead band. -/
  | stepDead (c : Fin 24) (w : StepW)
  /-- STEP_HYST (R108): Engine step HYST applies a hysteresis comparison. -/
  | stepHyst (c : Fin 24) (w : StepW)
  /-- STEP_VLIM (R501): Engine step VLIM scales a vector down to a magnitude limit keeping its angle. -/
  | stepVlim (c : Fin 24) (w : StepW)
  /-- STEP_CMPGT (R108): Engine step CMPGT writes 1 if one word exceeds another. -/
  | stepCmpgt (c : Fin 24) (w : StepW)
  /-- STEP_CMPEQ (R108): Engine step CMPEQ writes 1 if two words are equal. -/
  | stepCmpeq (c : Fin 24) (w : StepW)
  /-- STEP_SEL (R108): Engine step SEL selects one of two words on a condition. -/
  | stepSel (c : Fin 24) (w : StepW)
  /-- STEP_SKIP (R109): Engine step SKIP passes over following steps when a word is zero. -/
  | stepSkip (c : Fin 24) (w : StepW)
  /-- STEP_AND (R108): Engine step AND forms a bitwise AND. -/
  | stepAnd (c : Fin 24) (w : StepW)
  /-- STEP_OR (R108): Engine step OR forms a bitwise OR. -/
  | stepOr (c : Fin 24) (w : StepW)
  /-- STEP_XOR (R108): Engine step XOR forms a bitwise XOR. -/
  | stepXor (c : Fin 24) (w : StepW)
  /-- STEP_PI (R109): Engine step PI runs a PI controller with anti-windup. -/
  | stepPi (c : Fin 24) (w : StepW)
  /-- STEP_PID (R109): Engine step PID runs a PID controller with anti-windup. -/
  | stepPid (c : Fin 24) (w : StepW)
  /-- STEP_BIQ (R108): Engine step BIQ runs one biquad section. -/
  | stepBiq (c : Fin 24) (w : StepW)
  /-- STEP_LPF1 (R108): Engine step LPF1 runs a first-order low-pass filter. -/
  | stepLpf1 (c : Fin 24) (w : StepW)
  /-- STEP_INTG (R108): Engine step INTG integrates with clamping. -/
  | stepIntg (c : Fin 24) (w : StepW)
  /-- STEP_DIFF (R108): Engine step DIFF differences a word against its previous value. -/
  | stepDiff (c : Fin 24) (w : StepW)
  /-- STEP_SS2 (R109): Engine step SS2 runs a second-order state-space model. -/
  | stepSs2 (c : Fin 24) (w : StepW)
  /-- STEP_SS3 (R109): Engine step SS3 runs a third-order state-space model. -/
  | stepSs3 (c : Fin 24) (w : StepW)
  /-- STEP_SS4 (R109): Engine step SS4 runs a fourth-order state-space model. -/
  | stepSs4 (c : Fin 24) (w : StepW)
  /-- STEP_TBL (R109): Engine step TBL interpolates a one-dimensional table. -/
  | stepTbl (c : Fin 24) (w : StepW)
  /-- STEP_TBL2 (R109): Engine step TBL2 interpolates a two-dimensional table. -/
  | stepTbl2 (c : Fin 24) (w : StepW)
  /-- STEP_SINCOS (R108): Engine step SINCOS forms cosine and sine of an angle. -/
  | stepSincos (c : Fin 24) (w : StepW)
  /-- STEP_CLARKE (R108): Engine step CLARKE forms the Clarke transform. -/
  | stepClarke (c : Fin 24) (w : StepW)
  /-- STEP_ICLARKE (R108): Engine step ICLARKE forms the inverse Clarke transform. -/
  | stepIclarke (c : Fin 24) (w : StepW)
  /-- STEP_PARK (R108): Engine step PARK forms the Park transform. -/
  | stepPark (c : Fin 24) (w : StepW)
  /-- STEP_IPARK (R108): Engine step IPARK forms the inverse Park transform. -/
  | stepIpark (c : Fin 24) (w : StepW)
  /-- STEP_DECPL (R108): Engine step DECPL applies dq decoupling terms. -/
  | stepDecpl (c : Fin 24) (w : StepW)
  /-- STEP_SVM (R111): Engine step SVM forms two-level space-vector duties. -/
  | stepSvm (c : Fin 24) (w : StepW)
  /-- STEP_SVM3 (R111): Engine step SVM3 forms three-level space-vector duties. -/
  | stepSvm3 (c : Fin 24) (w : StepW)
  /-- STEP_SPDMT (R109): Engine step SPDMT computes speed by the M/T method. -/
  | stepSpdmt (c : Fin 24) (w : StepW)
  /-- STEP_ANGLE (R108): Engine step ANGLE forms a wrapping multiply-add of angles. -/
  | stepAngle (c : Fin 24) (w : StepW)
  /-- STEP_CORE (R118): Engine step CORE hands a routine to the loop core and waits for LCX_RET. -/
  | stepCore (c : Fin 24) (w : StepW)
  /-- STEP_SYNC (R108): Engine step SYNC waits until a stated cycle of the run. -/
  | stepSync (c : Fin 24) (w : StepW)
  /-- LCX_RET_WRITE (R118): The loop core writes LCX_RET and the engine resumes 4 cycles later. -/
  | lcxRetWrite (c : Fin 24) (n : Nat)
  /-- CORE_BUDGET_EXPIRY (R118): A CORE step's budget runs out without LCX_RET, so the run is cut, the core is sent a fault event and LPE_BUDGET is reported. -/
  | coreBudgetExpiry (c : Fin 24)
  /-- LOCKSTEP_MISMATCH (R119): A lockstep or residue mismatch halts the engine, cuts the run, issues LPE_HALT and reports LPE_LOCK, or sets SPARE_FAIL in a shadowing spare. -/
  | lockstepMismatch (p : LockPair)
  /-- RSP_CFG_WRITE (R120): An accepted write of RSP_CFG that changes EN or DESIG starts or clears the spare's mirror copy. -/
  | rspCfgWrite (n : Fin 4) (v : Word)
  /-- MIRROR_COPY_DONE (R120): The 8,000-dot mirror copy completes and MIRROR_READY sets. -/
  | mirrorCopyDone (n : Fin 4)
  /-- SPARE_TAKEOVER (R121): At the frame boundary after a substitutable LPE_LOCK the spare takes over the cluster and LPE_SUBST is reported. -/
  | spareTakeover (n : Fin 4)
  /-- RETURN (R123): A write of RSP_CTRL.RETURN while STOPPED returns the served cluster to its own pair at the next restart. -/
  | return (n : Fin 4)
  /-- ROUTE_WRITE (R133): A 128-bit write to the route table is checked and governs the sink from the next dot, or is refused. -/
  | routeWrite (sink : Fin 1728) (entry : BitVec 128)
  /-- FAB_SOFT_WRITE (R134): A write to FAB_SOFT0 or FAB_SOFT1 changes soft levels from the next dot. -/
  | fabSoftWrite (k : Fin 2) (v : Word)
  /-- FAB_PULSE_WRITE (R134): A write of 1 to a bit of FAB_PULSE0 or FAB_PULSE1 makes a one-dot soft pulse. -/
  | fabPulseWrite (k : Fin 2) (v : Word)
  /-- TIMER_PER (R135): A timer's count wraps, the next dot is a period start and PER is issued, ending a one-shot timer. -/
  | timerPer (t : Fin 96)
  /-- TIMER_COMPARE_FIRE (R136): A timer's CMP0 or CMP1 fires, issuing its event and changing OUT. -/
  | timerCompareFire (t : Fin 96) (c : Cmp)
  /-- TIMER_RESET (R137): A reset acts on a timer, capturing the count into TMR_CAP and starting a new period. -/
  | timerReset (t : Fin 96)
  /-- TMR_CTRL_RESET (R137): A write of TMR_CTRL.RESET resets the timer in the next dot. -/
  | tmrCtrlReset (t : Fin 96)
  /-- TMR_COMMIT_NOW (R139): A write of TMR_CTRL.COMMIT_NOW commits group TG. -/
  | tmrCommitNow (t : Fin 96)
  /-- REGION_STOP (R143): A write of RGN_CTRL.STOP stops the region, its converters, engines, timers and legs, and parks its pads. -/
  | regionStop (n : Fin 4)
  /-- REGION_START (R144): A write of RGN_CTRL.START sets STARTING for a restart at the next allowed frame boundary, or is refused. -/
  | regionStart (n : Fin 4)
  /-- REGION_RESTART (R144): At the restart dot the region enters RUN, its legs load phase and commit, converters queue and timers and slot tables restart. -/
  | regionRestart (n : Fin 4)
  /-- FAB_LOAD (R151): A write of FAB_CTRL.LOAD starts an image load of the selected slot when all regions are STOPPED. -/
  | fabLoad (k : Fin 4)
  /-- LANE_FAIL (R161): A link lane loses block lock or exceeds the skew limit and fails, reporting LNK_LANE, and the port may go DOWN. -/
  | laneFail (p : Fin 4) (lane : Fin 3)
  /-- LANE_RETURN (R161): A failed lane completes 1,024 good cells and returns to service. -/
  | laneReturn (p : Fin 4) (lane : Fin 3)
  /-- CELL_RECEIVE (R160): A cell is deskewed and taken, rebuilt from parity, or dropped and counted. -/
  | cellReceive (p : Fin 4) (c : CellIn)
  /-- DATA_CELL_RECEIVE (R169): A signal record is received, then discarded or forwarded and queued for lookup. -/
  | dataCellReceive (p : Fin 4) (v : BitVec 128)
  /-- TIMING_PAIR_RECEIVE (R177): A TIMING and GEOM pair is received, used for measurement and relayed. -/
  | timingPairReceive (p : Fin 4) (timing geom : BitVec 128) (fine : Fin 32)
  /-- DLY_REQ_RECEIVE (R165): A DLY_REQ cell is received and a DLY_RESP is due. -/
  | dlyReqReceive (p : Fin 4) (seq : Byte) (fine : Fin 32)
  /-- DLY_RESP_RECEIVE (R178): A DLY_RESP arrives and the port's one-way delay is measured and averaged. -/
  | dlyRespReceive (p : Fin 4) (seq : Byte) (res : Word) (fine : Fin 32)
  /-- HELLO_RECEIVE (R164): A HELLO cell is checked against the wiring rule, bringing the port UP or MISWIRED. -/
  | helloReceive (p : Fin 4) (port : Fin 4) (addr : BitVec 18)
  /-- CELL_SLOT_SEND (R165): A cell slot begins on a port and the highest-precedence due cell is sent in it. -/
  | cellSlotSend (p : Fin 4) (fine : Fin 32)
  /-- PUB_VALUE_WRITE (R167): A write of PUB_VALUE hands a value over to a publish entry and records PPOS. -/
  | pubValueWrite (e : Fin 1024) (v : Word)
  /-- RECORD_STORE_PERFORMED (R266): A record store is performed, so TAIL advances, or on a bus error the queue sets ERR. -/
  | recordStorePerformed (q : Fin 8) (err : Bool)
  /-- EVC_ACK (R262): A write of EVC_ACK clears OUT of the named source. -/
  | evcAck (n : Fin 1024)
  /-- SEV_WRITE (R272): A write of EVC_SEVk raises an arrival of a software event source. -/
  | sevWrite (k : Fin 256) (v : Word)
  /-- EVC_CFG_WRITE (R260): A write of EVC_CFG sets the source configuration, and clearing EN clears ARR and SAT. -/
  | evcCfgWrite (n : Fin 1024) (v : Word)
  /-- EVQ_SIZE_WRITE (R265): A write of EVQ_SIZE sets or disables a queue, resetting HEAD, TAIL, pass and ERR, or is refused. -/
  | evqSizeWrite (q : Fin 8) (v : Word)
  /-- EVQ_HEAD_WRITE (R265): A write of EVQ_HEAD consumes records and may lower the interrupt line, or is refused. -/
  | evqHeadWrite (q : Fin 8) (v : Word)
  /-- EVQ_HOLD_EXPIRY (R267): The hold-off count reaches 0 at a LINE_START and the line may rise. -/
  | evqHoldExpiry (q : Fin 8)
  /-- LCD_ENTRY_FIRE (R269): A core dispatch entry fires and queues a dispatch, waking a waiting loop core, or drops it. -/
  | lcdEntryFire (c : Fin 24) (e : Fin 32)
  /-- LCD_POP (R270): A read of LCD_POP returns the head dispatch and removes it when made by the serving core. -/
  | lcdPop (c : Fin 24) (req : Byte)
  /-- POSTED_STORE_ERROR (R282): A posted store meets an uncorrectable error or bus error, is dropped and reports MEM_PWERR. -/
  | postedStoreError (req : Byte) (a : Word)
  /-- MEM_DISC_GO (R285): A write of MEM_DISC.GO starts clearing valid bits of a range, or is refused. -/
  | memDiscGo (m : Fin 4)
  /-- RAMBLER_STEP (R286): A walker's interval expires, and it rewrites a handed-over or walked block corrected or poisons it. -/
  | ramblerStep (w : Fin 5) (us : List (Nat × Bool))
  /-- MEM_REPAIR (R288): A write of MEM_REPAIR starts repair of a row, or is refused. -/
  | memRepair (code : BitVec 23)
  /-- CH_CTRL_START (R291): A write of CH_CTRL.START sets BUSY and fetches the first descriptor, or is refused. -/
  | chCtrlStart (ch : Fin 64)
  /-- CH_CTRL_STOP (R296): A write of CH_CTRL.STOP ends the channel after issued writes, setting STOPPED. -/
  | chCtrlStop (ch : Fin 64)
  /-- DESCRIPTOR_FETCH (R295): A DMA descriptor arrives and is checked, and its operation begins or the channel stops. -/
  | descriptorFetch (ch : Fin 64)
  /-- DMA_COPY (R291): Descriptor OP 0 copies a source range to a destination range as if read whole first. -/
  | dmaCopy (ch : Fin 64)
  /-- DMA_FILL (R291): Descriptor OP 1 fills a destination range with PATTERN. -/
  | dmaFill (ch : Fin 64)
  /-- DMA_COMPARE (R291): Descriptor OP 2 compares two regions and records the first difference. -/
  | dmaCompare (ch : Fin 64)
  /-- DMA_COMPARE_PATTERN (R291): Descriptor OP 3 compares a region with PATTERN and records the first difference. -/
  | dmaComparePattern (ch : Fin 64)
  /-- DESCRIPTOR_COMPLETE (R291): A descriptor's writes finish, its result words are stored, its event posts and the next descriptor is fetched or the chain ends. -/
  | descriptorComplete (ch : Fin 64)
  /-- DMA_ERROR_STOP (R295): A bus error during a transfer stops the channel with ERR, posts an event and reports DMA_ERR. -/
  | dmaErrorStop (ch : Fin 64) (write : Bool) (a : Word)
  /-- LINE_COMPOSE (R336): An active line is composed from the flat layer, planes, sprites and trace, after applying its raster writes. -/
  | lineCompose (y : Fin 1200) (full : Bool)
  /-- LINE_UNDERRUN (R337): A pixel is not composed by its scan position, so the rest of the line is sent as background and counted. -/
  | lineUnderrun (x : Fin 1920)
  /-- BE_ERROR_STOP (R324): A bus error stops a block engine operation with ERRCODE, BE_ROWS and LAN_BE. -/
  | beErrorStop (write : Bool) (rows : Nat)
  /-- FLATTEN_DONE (R330): A flatten's writes are performed, BUSY clears and its event arrives, or it stops on an error. -/
  | flattenDone (stop : Option (Bool × Nat))
  /-- DP_TRAIN_RESULT (R346): Training ends, setting TRAINED or LINK_LOST with a DP_LINK report. -/
  | dpTrainResult (ok : Bool)
  /-- DP_HPD_CHANGE (R348): The hot-plug detect level changes and event 0x18B arrives. -/
  | dpHpdChange (level : Bool)
  /-- AUX_DONE (R351): An AUX transaction ends, setting AUX_DONE and AUX_ERR if not acknowledged. -/
  | auxDone (ack : Bool) (data : BitVec 128)
  /-- AUDIO_SAMPLE_STROBE (R352): An audio sample strobe makes the previous sample's results take effect and forms the next sample. -/
  | audioSampleStrobe (din : List (BitVec 24))
  /-- PCM_FETCH (R357): A PCM prefetch read returns samples for a voice. -/
  | pcmFetch (v : Fin 32) (i : BitVec 24) (n : Fin 65)
  /-- PCM_READ_FAIL (R357): A PCM read fails, ending the voice with ERR and reporting AUD_PCM. -/
  | pcmReadFail (v : Fin 32)
  /-- IN_CTRL_COMMIT (R363): A write of IN_CTRL.COMMIT commits an input's biquad coefficients at a sample. -/
  | inCtrlCommit (i : Fin 96)
  /-- IN_CTRL_CLEAR (R363): A write of IN_CTRL.CLEAR zeroes an input's biquad states at a sample. -/
  | inCtrlClear (i : Fin 96)
  /-- PEER_FRAME_RECEIVE (R368): A converting port receives a peer frame, feeding its converter and counting toward LOCKED. -/
  | peerFrameReceive (k : Fin 2) (n : Nat)
  /-- ASRC_LOCK_LOST (R369): A converting port loses lock on a missing FSYNC or wrong frame, clears LOCKED and reports AUD_ASRC. -/
  | asrcLockLost (k : Fin 2)
  /-- ERR_OUT_ASSERT (R387): At r + 3 the ERR_OUT_N latch is set and the pin driven low. -/
  | errOutAssert (src : BitVec 10)
  /-- FAULT_TRAP_DELIVERY (R384): At r + 3 a fault event becomes pending at its target core, or is held or discarded. -/
  | faultTrapDelivery (core : Fin 64) (refuge : Bool) (src : BitVec 10)
  /-- BLOCK_RESET (R385): At r + 3 a block reset resets only the named part of its source. -/
  | blockReset (src : BitVec 10) (info0 : Word)
  /-- CHIP_RESET (R386): At r + 64 a chip reset resets the device, keeping the collector's record. -/
  | chipReset (src : BitVec 10)
  /-- TRAIL_ENTRY_CLOSE (R380): An open Trail entry reaches its MERGE_LINES-th LINE_START and closes. -/
  | trailEntryClose (i : Fin 32)
  /-- FLT_ACK (R380): A write of FLT_ACK.ENTRY closes that Trail entry. -/
  | fltAck (i : Fin 32)
  /-- ERR_FORCE (R387): A write of FLT_CTRL.ERR_FORCE holds or releases the forced ERR_OUT_N latch. -/
  | errForce (on : Bool)
  /-- FLT_RCT_WRITE (R382): A write of a reaction entry is checked and governs later reports, or is refused. -/
  | fltRctWrite (src : Fin 512) (v : Word)
  /-- FLT_CFG_WRITE (R390): A write of FLT_CFG sets merging and may lock the reaction table. -/
  | fltCfgWrite (v : Word)
  /-- CFS_LOCK_WRITE (R392): A write of CFS_LOCK sets lock bits until device reset. -/
  | cfsLockWrite (v : Word)
  /-- NF_CTRL_EN (R396): A write of NF_CTRL.EN starts the NAND manager's target discovery. -/
  | nfCtrlEn (on : Bool)
  /-- NAND_INIT_DONE (R396): Discovery and journal reading end with READY, NOVOL or NODEV set. -/
  | nandInitDone (ts : List NandTarget) (tmode : BitVec 12)
  /-- NAND_READ (R398): Command READ moves sectors from the volume to a buffer. -/
  | nandRead (cws : List NandCodeword)
  /-- NAND_WRITE (R399): Command WRITE programs sectors and records them in the journal. -/
  | nandWrite (turns : List (Option Nat))
  /-- NAND_FORMAT (R397): Command FORMAT builds a new volume over the present targets. -/
  | nandFormat (good : Nat)
  /-- NAND_PROGRAM_FAIL (R403): A program or erase reports failure, the block retires, a Canteen or reserve block takes over, and the volume may seal. -/
  | nandProgramFail (b : Nat) (bad : Fin 5)
  /-- PATROL_READ (R401): The patrol reads the next written page, correcting and queuing refresh. -/
  | patrolRead (cws : List NandCodeword)
  /-- Q_PROD_WRITE (R410): A write of Q_PROD hands descriptors to the hardware, or is refused. -/
  | qProdWrite (q : Fin 40) (v : Word)
  /-- Q_SIZE_WRITE (R410): A write of Q_SIZE enables or disables a queue and resets its indices and ERR. -/
  | qSizeWrite (q : Fin 40) (v : Word)
  /-- QUEUE_DESCRIPTOR_COMPLETE (R411): A queue descriptor's buffer writes and write-back are performed, Q_CONS advances and its event may arrive. -/
  | queueDescriptorComplete (q : Fin 40)
  /-- QUEUE_STOP (R411): A failed check or bus error stops a queue with ERRCODE, its error event and a queue fault. -/
  | queueStop (q : Fin 40) (code : Fin 5)
  /-- ETH_FRAME_RECEIVE (R413): A received Ethernet frame is checked, filtered, stamped and written to a receive queue, or dropped and counted. -/
  | ethFrameReceive (k : Fin 2) (frame : List Byte) (fcs : Bool) (fine : Fin 32)
  /-- ETH_FRAME_TRANSMIT (R415): The idle port starts the next eligible frame from the highest queue whose gate, credit and launch allow it. -/
  | ethFrameTransmit (k : Fin 2) (fine : Fin 32)
  /-- ETH_LINK_CHANGE (R432): An Ethernet port's link comes up or goes down, raising its event. -/
  | ethLinkChange (k : Fin 2) (up : Bool) (speed : Fin 4)
  /-- GCL_CYCLE_START (R416): A gate control cycle starts, applying a pending GCL commit. -/
  | gclCycleStart (k : Fin 2)
  /-- GCL_ENTRY_ADVANCE (R416): A gate control entry's duration expires and the next entry's gates apply. -/
  | gclEntryAdvance (k : Fin 2)
  /-- GCL_COMMIT (R416): A write of ETH_GCL_CTRL.COMMIT sets PEND for commit at the next cycle start. -/
  | gclCommit (k : Fin 2)
  /-- MDIO_WRITE (R412): MDIO operation write sends a register write frame. -/
  | mdioWrite (c45 : Bool) (phy : BitVec 5) (reg : BitVec 5) (data : BitVec 16)
  /-- MDIO_READ (R412): MDIO operation read reads a PHY register. -/
  | mdioRead (c45 : Bool) (phy : BitVec 5) (reg : BitVec 5)
  /-- MDIO_ADDRESS (R412): MDIO operation address sends a clause 45 address frame. -/
  | mdioAddress (phy : BitVec 5) (reg : BitVec 5) (data : BitVec 16)
  /-- MDIO_DONE (R418): An MDIO operation ends and DONE sets. -/
  | mdioDone (data : BitVec 16)
  /-- PCIE_INBOUND_REQUEST (R420): An inbound memory request is mapped through a window and checked, or refused and counted. -/
  | pcieInboundRequest (r : PcieRequest)
  /-- PCIE_OUTBOUND_COMPLETION (R421): An outbound read's completion returns data, or an error completion gives a bus error. -/
  | pcieOutboundCompletion (data : Option (BitVec 64))
  /-- PCIE_MSI_SEND (R422): A write of PCIE_MSI_SEND sends a vector by MSI-X or MSI. -/
  | pcieMsiSend (v : Fin 32)
  /-- PCIE_DB_WRITE (R422): A write of a doorbell raises its event with the value. -/
  | pcieDbWrite (i : Fin 8) (v : Word)
  /-- PERST_OR_HOT_RESET (R422): PERST_N assertion or a hot reset resets the link and configuration space. -/
  | perstOrHotReset (perst : Bool)
  /-- PCIE_LINK_CHANGE (R432): LINK_UP changes, raising its event and PCIE_LINK on loss. -/
  | pcieLinkChange (up : Bool) (gen : Fin 4) (width : Fin 3) (msi : Fin 3)
  /-- CAN_FRAME_RECEIVE (R425): A CAN frame is received, filtered, stamped and written to the receive ring, or dropped. -/
  | canFrameReceive (k : Fin 4) (f : CanFrame)
  /-- CAN_FRAME_TRANSMIT (R425): The next transmit descriptor starts its frame on an idle bus at or after its launch position, retrying on lost arbitration. -/
  | canFrameTransmit (k : Fin 4) (won : Bool)
  /-- CAN_STATE_CHANGE (R426): Error counters move the controller between error states, and bus-off reports CAN_BUSOFF. -/
  | canStateChange (k : Fin 4) (tec : BitVec 9) (errs : Byte)
  /-- RECOVER (R426): A write of CAN_CTRL.RECOVER starts recovery from bus-off. -/
  | recover (k : Fin 4)
  /-- BUSOFF_RECOVERY_DONE (R426): 128 occurrences of 11 recessive bits complete and the controller leaves bus-off. -/
  | busoffRecoveryDone (k : Fin 4)
  /-- UART_CHARACTER_RECEIVE (R428): A character is received into the FIFO, with line errors flagged. -/
  | uartCharacterReceive (ch : Byte) (framing : Bool) (parity : Bool) (brk : Bool)
  /-- UART_DATA_WRITE (R431): A write of UART_DATA queues a character, or sets TXFULL. -/
  | uartDataWrite (ch : Byte)
  /-- I2C_TRANSACTION (R429): A write of I2C_CMD.GO runs one I²C transaction. -/
  | i2cTransaction (v : Word)
  /-- I2C_TRANSACTION_END (R429): An I²C transaction ends with RESULT and its event. -/
  | i2cTransactionEnd (result : Fin 4) (done : Fin 64) (data : BitVec 256)
  /-- SPI_TRANSFER (R430): A write of SPI_XFER.GO starts a transfer of COUNT words. -/
  | spiTransfer (v : Word) (miso : List Word)
  /-- SPI_TX_WRITE (R431): A write of SPI_TX queues a word, or sets TXFULL. -/
  | spiTxWrite (w : Word)
  /-- PWR_RUNOFF_WRITE (R437): A write of PWR_RUNOFF switches domains off or wakes them in RUN, or is refused. -/
  | pwrRunoffWrite (v : Word)
  /-- WAKE_PIN (R443): An enabled WAKEk_N has been low for 16 dots and a wake request is made. -/
  | wakePin (k : Fin 4)
  /-- WAKE_ACCEPT (R444): A wake request is accepted, recorded and starts the scheduling of domains. -/
  | wakeAccept (src : Fin 16) (idx : BitVec 10)
  /-- DOMAIN_ON (R444): A domain's ramp ends with its items restored and it is on, starting cores and the image reload when due. -/
  | domainOn (d : Fin 24)
  /-- DOMAIN_RAMP_FAIL (R446): A domain does not come on by the end of its ramp and PWR_RAMP is reported. -/
  | domainRampFail (d : Fin 24)
  /-- PAD_LATCH_OPEN (R448): At the first line boundary after its domain is on and restored, a pad latch opens and hands over to its function. -/
  | padLatchOpen (p : PadRef)
  /-- PAD_CFG_WRITE (R458): A write of PAD_CFGp is checked and waits for the next line boundary, or is refused. -/
  | padCfgWrite (p : Fin 256) (v : Word)
  /-- PAD_HANDOVER (R457): At a line boundary a pad latches its level for one dot and then takes its new pad word. -/
  | padHandover (p : PadRef)
  /-- PAD_OUT_WRITE (R456): A write of PAD_OUTk changes software output bits, driven by SWOUT pins from the next dot. -/
  | padOutWrite (k : Fin 8) (v : Word)
  /-- PAD_LEG_WRITE (R459): A write of PAD_LEGl is accepted only for a PARKED leg and takes effect at the next line boundary. -/
  | padLegWrite (l : Fin 144) (v : Word)
  /-- CORE_START (R479): A write of CORE_START starts the named core, or is refused. -/
  | coreStart (core : Fin 64)
  /-- BIST_CTRL_GO (R481): A write of BIST_CTRL.GO starts a test of a target, or is refused with REFUSE_WHY. -/
  | bistCtrlGo (kind : Fin 2) (target : Fin 64)
  /-- BIST_END (R482): A test's fixed duration ends, its signature is compared and RESULT is recorded. -/
  | bistEnd (sig : BitVec 64)
  /-- EXTEST (R484): JTAG instruction EXTEST selects boundary scan driving the pins, or loads BYPASS while a region runs. -/
  | extest (cells : BitVec 256)
  /-- SAMPLE_PRELOAD (R483): JTAG instruction SAMPLE/PRELOAD selects boundary scan without driving. -/
  | samplePreload (cells : BitVec 256)
  /-- BIST (R481): JTAG instruction BIST starts a self-test through JTAG. -/
  | bist (kind : Fin 2) (target : Fin 64)
  /-- MEMACC (R484): JTAG instruction MEMACC makes a 32-bit access checked against JTAG_CAP. -/
  | memacc (dr : BitVec 72)
  /-- EXCEPTION_ENTRY (R247): An exception is taken at a boundary, its record is pushed through c15 and the handler is entered, or refuge is entered. -/
  | exceptionEntry (core : CoreId) (illegal : Bool)
  /-- REFUGE_ENTRY (R254): A failed push, failed handler fetch or refuge trap writes the refuge record and enters the refuge handler. -/
  | refugeEntry (core : CoreId)
  /-- EXC_CTRL_WRITE (R257): A write of EXC_CTRL sets IE and PRECISE and may lock the refuge handler registers. -/
  | excCtrlWrite (core : Fin 64) (v : Word)
  /-- BIT_CAPTURE (R81): A modulator bit enters a channel's filter in its capture dot, advancing the sinc3 window and clearing FILLING once 3M − 2 bits have been captured. -/
  | bitCapture (ch : Fin 384) (high : Bool)
  /-- EXTERNAL_CLOCK_EDGE (R79): A rising edge of the external modulator clock is detected on SDCcc, arming the loss watch, returning CLK_OK to 1 or setting CLK_FAST when it comes too soon. -/
  | externalClockEdge (c : Fin 24)
  /-- NOP (R209): Instruction NOP does nothing. -/
  | coreNop (h : Hdr)
  /-- WAIT (R212): Instruction WAIT waits for an interrupt line, fault event or dispatch. -/
  | coreWait (h : Hdr)
  /-- BRK (R244): Instruction BRK raises a breakpoint exception. -/
  | coreBrk (h : Hdr)
  /-- FENCER (R232): Instruction FENCER orders earlier loads before later loads. -/
  | coreFencer (h : Hdr)
  /-- FENCEW (R232): Instruction FENCEW orders earlier stores before later stores. -/
  | coreFencew (h : Hdr)
  /-- FENCE (R232): Instruction FENCE orders all earlier accesses before later ones. -/
  | coreFence (h : Hdr)
  /-- RET (R209): Instruction RET jumps to g31. -/
  | coreRet (h : Hdr)
  /-- ERET (R248): Instruction ERET checks and returns from an exception or refuge record. -/
  | coreEret (h : Hdr)
  /-- TRAP (R244): Instruction TRAP raises a software exception carrying imm8. -/
  | coreTrap (h : Hdr) (imm : Byte)
  /-- ADD (R201): Instruction ADD adds modulo 2³². -/
  | coreAdd (h : Hdr) (o : BitVec 16) (src : Src)
  /-- SUB (R201): Instruction SUB subtracts modulo 2³². -/
  | coreSub (h : Hdr) (o : BitVec 16) (src : Src)
  /-- AND (R210): Instruction AND forms a bitwise AND. -/
  | coreAnd (h : Hdr) (o : BitVec 16) (src : Src)
  /-- OR (R210): Instruction OR forms a bitwise OR. -/
  | coreOr (h : Hdr) (o : BitVec 16) (src : Src)
  /-- XOR (R210): Instruction XOR forms a bitwise XOR. -/
  | coreXor (h : Hdr) (o : BitVec 16) (src : Src)
  /-- ANDN (R210): Instruction ANDN forms A AND NOT B. -/
  | coreAndn (h : Hdr) (o : BitVec 16) (src : Src)
  /-- SHL (R210): Instruction SHL shifts left. -/
  | coreShl (h : Hdr) (o : BitVec 16) (src : Src)
  /-- SHR (R210): Instruction SHR shifts right filling with 0. -/
  | coreShr (h : Hdr) (o : BitVec 16) (src : Src)
  /-- SAR (R210): Instruction SAR shifts right filling with the sign. -/
  | coreSar (h : Hdr) (o : BitVec 16) (src : Src)
  /-- ROR (R210): Instruction ROR rotates right. -/
  | coreRor (h : Hdr) (o : BitVec 16) (src : Src)
  /-- ADDS (R201): Instruction ADDS adds with signed saturation, setting SAT. -/
  | coreAdds (h : Hdr) (o : BitVec 16) (src : Src)
  /-- SUBS (R201): Instruction SUBS subtracts with signed saturation, setting SAT. -/
  | coreSubs (h : Hdr) (o : BitVec 16) (src : Src)
  /-- MIN (R210): Instruction MIN takes the signed minimum. -/
  | coreMin (h : Hdr) (o : BitVec 16) (src : Src)
  /-- MAX (R210): Instruction MAX takes the signed maximum. -/
  | coreMax (h : Hdr) (o : BitVec 16) (src : Src)
  /-- MINU (R210): Instruction MINU takes the unsigned minimum. -/
  | coreMinu (h : Hdr) (o : BitVec 16) (src : Src)
  /-- MAXU (R210): Instruction MAXU takes the unsigned maximum. -/
  | coreMaxu (h : Hdr) (o : BitVec 16) (src : Src)
  /-- CEQ (R202): Instruction CEQ writes 1 if equal. -/
  | coreCeq (h : Hdr) (o : BitVec 16) (src : Src)
  /-- CNE (R202): Instruction CNE writes 1 if not equal. -/
  | coreCne (h : Hdr) (o : BitVec 16) (src : Src)
  /-- CLT (R202): Instruction CLT writes 1 if signed less than. -/
  | coreClt (h : Hdr) (o : BitVec 16) (src : Src)
  /-- CLTU (R202): Instruction CLTU writes 1 if unsigned less than. -/
  | coreCltu (h : Hdr) (o : BitVec 16) (src : Src)
  /-- CLE (R202): Instruction CLE writes 1 if signed less or equal. -/
  | coreCle (h : Hdr) (o : BitVec 16) (src : Src)
  /-- CLEU (R202): Instruction CLEU writes 1 if unsigned less or equal. -/
  | coreCleu (h : Hdr) (o : BitVec 16) (src : Src)
  /-- SEL (R202): Instruction SEL writes gB to gD when gA is non-zero. -/
  | coreSel (h : Hdr) (o : BitVec 16)
  /-- DIV (R201): Instruction DIV forms a signed quotient, setting IDZ or IOV. -/
  | coreDiv (h : Hdr) (o : BitVec 16)
  /-- DIVU (R201): Instruction DIVU forms an unsigned quotient, setting IDZ. -/
  | coreDivu (h : Hdr) (o : BitVec 16)
  /-- REM (R201): Instruction REM forms a signed remainder. -/
  | coreRem (h : Hdr) (o : BitVec 16)
  /-- REMU (R201): Instruction REMU forms an unsigned remainder. -/
  | coreRemu (h : Hdr) (o : BitVec 16)
  /-- MUL (R198): Instruction MUL forms a signed 64-bit product in MH:ML. -/
  | coreMul (h : Hdr) (o : BitVec 16)
  /-- MULU (R198): Instruction MULU forms an unsigned 64-bit product in MH:ML. -/
  | coreMulu (h : Hdr) (o : BitVec 16)
  /-- MAC (R198): Instruction MAC adds a signed product to MH:ML. -/
  | coreMac (h : Hdr) (o : BitVec 16)
  /-- MACU (R198): Instruction MACU adds an unsigned product to MH:ML. -/
  | coreMacu (h : Hdr) (o : BitVec 16)
  /-- MFQ (R200): Instruction MFQ extracts a rounded, saturated fixed-point word from MH:ML. -/
  | coreMfq (h : Hdr) (o : BitVec 16)
  /-- MFS (R190): Instruction MFS reads a special register, latching TICK_HI on TICK_LO. -/
  | coreMfs (h : Hdr) (o : BitVec 16)
  /-- MTS (R190): Instruction MTS writes a special register. -/
  | coreMts (h : Hdr) (o : BitVec 16)
  /-- LD (R195): Instruction LD loads memory zero-extended under a capability check. -/
  | coreLd (h : Hdr) (o : BitVec 16) (d : Disp)
  /-- LDS (R197): Instruction LDS loads memory sign-extended. -/
  | coreLds (h : Hdr) (o : BitVec 16) (d : Disp)
  /-- ST (R195): Instruction ST stores a register to memory. -/
  | coreSt (h : Hdr) (o : BitVec 16) (d : Disp)
  /-- SWAP (R209): Instruction SWAP atomically exchanges memory with a register. -/
  | coreSwap (h : Hdr) (o : BitVec 16) (d : BitVec 16)
  /-- CAS (R209): Instruction CAS atomically compares and swaps. -/
  | coreCas (h : Hdr) (o : BitVec 16) (d : BitVec 16)
  /-- AMADD (R209): Instruction AMADD atomically adds to memory. -/
  | coreAmadd (h : Hdr) (o : BitVec 16) (d : BitVec 16)
  /-- AMAND (R209): Instruction AMAND atomically ANDs into memory. -/
  | coreAmand (h : Hdr) (o : BitVec 16) (d : BitVec 16)
  /-- AMOR (R209): Instruction AMOR atomically ORs into memory. -/
  | coreAmor (h : Hdr) (o : BitVec 16) (d : BitVec 16)
  /-- STI (R209): Instruction STI stores an immediate to memory. -/
  | coreSti (h : Hdr) (o : BitVec 16) (d : BitVec 16) (imm : Word)
  /-- BZ (R202): Instruction BZ branches when a register is zero. -/
  | coreBz (h : Hdr) (r : Byte) (d : Disp)
  /-- BNZ (R202): Instruction BNZ branches when a register is non-zero. -/
  | coreBnz (h : Hdr) (r : Byte) (d : Disp)
  /-- JMP (R209): Instruction JMP jumps by a displacement. -/
  | coreJmp (h : Hdr) (d : Word)
  /-- CALL (R209): Instruction CALL saves the return address in g31 and jumps. -/
  | coreCall (h : Hdr) (d : Word)
  /-- JR (R209): Instruction JR jumps to a register. -/
  | coreJr (h : Hdr) (o : BitVec 16)
  /-- JALR (R209): Instruction JALR saves the next PC and jumps to a register. -/
  | coreJalr (h : Hdr) (o : BitVec 16)
  /-- DBNZ (R202): Instruction DBNZ decrements and branches when non-zero. -/
  | coreDbnz (h : Hdr) (r : Byte) (d : BitVec 16)
  /-- BSET (R205): Instruction BSET sets a bit of the bit space. -/
  | coreBset (h : Hdr) (o : BitVec 16) (at_ : BitAddr)
  /-- BCLR (R205): Instruction BCLR clears a bit of the bit space. -/
  | coreBclr (h : Hdr) (o : BitVec 16) (at_ : BitAddr)
  /-- BNOT (R205): Instruction BNOT inverts a bit of the bit space. -/
  | coreBnot (h : Hdr) (o : BitVec 16) (at_ : BitAddr)
  /-- BLD (R205): Instruction BLD loads a bit into a register. -/
  | coreBld (h : Hdr) (o : BitVec 16) (at_ : BitAddr)
  /-- BST (R205): Instruction BST stores a register bit to the bit space. -/
  | coreBst (h : Hdr) (o : BitVec 16) (at_ : BitAddr)
  /-- BTAS (R205): Instruction BTAS atomically tests and sets a bit. -/
  | coreBtas (h : Hdr) (o : BitVec 16) (at_ : BitAddr)
  /-- BMOV (R205): Instruction BMOV copies one bit to another. -/
  | coreBmov (h : Hdr) (o : BitVec 16)
  /-- BAND (R205): Instruction BAND ANDs a source bit into a destination bit. -/
  | coreBand (h : Hdr) (o : BitVec 16)
  /-- BOR (R205): Instruction BOR ORs a source bit into a destination bit. -/
  | coreBor (h : Hdr) (o : BitVec 16)
  /-- BXOR (R205): Instruction BXOR XORs a source bit into a destination bit. -/
  | coreBxor (h : Hdr) (o : BitVec 16)
  /-- BLDW (R205): Instruction BLDW loads 32 bits of the bit space. -/
  | coreBldw (h : Hdr) (o : BitVec 16)
  /-- BSTW (R205): Instruction BSTW stores 32 bits to the bit space. -/
  | coreBstw (h : Hdr) (o : BitVec 16)
  /-- BCPY (R206): Block instruction BCPY copies elements, resumable by registers. -/
  | coreBcpy (h : Hdr) (o : BitVec 16) (k : Byte) (stop : Option Nat)
  /-- BFIL (R206): Block instruction BFIL fills elements with a value. -/
  | coreBfil (h : Hdr) (o : BitVec 16) (k : Byte) (stop : Option Nat)
  /-- TSRCH (R206): Block instruction TSRCH searches elements for a key. -/
  | coreTsrch (h : Hdr) (o : BitVec 16) (k : Byte) (stop : Option Nat)
  /-- BCRC (R206): Block instruction BCRC feeds elements into a CRC-32C state. -/
  | coreBcrc (h : Hdr) (o : BitVec 16) (k : Byte) (stop : Option Nat)
  /-- CLD (R237): Instruction CLD loads a capability with its tag. -/
  | coreCld (h : Hdr) (o : BitVec 16) (d : BitVec 16)
  /-- CST (R237): Instruction CST stores a capability with its tag. -/
  | coreCst (h : Hdr) (o : BitVec 16) (d : BitVec 16)
  /-- CMOV (R240): Instruction CMOV copies a capability register. -/
  | coreCmov (h : Hdr) (o : BitVec 16)
  /-- CBASE (R240): Instruction CBASE advances a capability's base. -/
  | coreCbase (h : Hdr) (o : BitVec 16)
  /-- CLEN (R240): Instruction CLEN reduces a capability's length. -/
  | coreClen (h : Hdr) (o : BitVec 16)
  /-- CPERM (R240): Instruction CPERM masks a capability's permissions. -/
  | coreCperm (h : Hdr) (o : BitVec 16)
  /-- CSEAL (R240): Instruction CSEAL seals a capability with an object type. -/
  | coreCseal (h : Hdr) (o : BitVec 16)
  /-- CUNSEAL (R240): Instruction CUNSEAL unseals a capability. -/
  | coreCunseal (h : Hdr) (o : BitVec 16)
  /-- CGET (R240): Instruction CGET reads a capability field into a register. -/
  | coreCget (h : Hdr) (o : BitVec 16)
  /-- CJR (R240): Instruction CJR loads c14 and jumps. -/
  | coreCjr (h : Hdr) (o : BitVec 16)
  /-- CCLR (R240): Instruction CCLR clears a capability's tag. -/
  | coreCclr (h : Hdr) (o : BitVec 16)
  /-- FADD (R203): Instruction FADD adds binary32 values. -/
  | coreFadd (h : Hdr) (o : BitVec 16)
  /-- FSUB (R203): Instruction FSUB subtracts binary32 values. -/
  | coreFsub (h : Hdr) (o : BitVec 16)
  /-- FMUL (R203): Instruction FMUL multiplies binary32 values. -/
  | coreFmul (h : Hdr) (o : BitVec 16)
  /-- FDIV (R203): Instruction FDIV divides binary32 values. -/
  | coreFdiv (h : Hdr) (o : BitVec 16)
  /-- FSQRT (R203): Instruction FSQRT takes a binary32 square root. -/
  | coreFsqrt (h : Hdr) (o : BitVec 16)
  /-- FMIN (R203): Instruction FMIN takes the binary32 minimum. -/
  | coreFmin (h : Hdr) (o : BitVec 16)
  /-- FMAX (R203): Instruction FMAX takes the binary32 maximum. -/
  | coreFmax (h : Hdr) (o : BitVec 16)
  /-- FNEG (R211): Instruction FNEG inverts the sign bit. -/
  | coreFneg (h : Hdr) (o : BitVec 16)
  /-- FABS (R211): Instruction FABS clears the sign bit. -/
  | coreFabs (h : Hdr) (o : BitVec 16)
  /-- FMA (R203): Instruction FMA forms a fused multiply-add rounded once. -/
  | coreFma (h : Hdr) (o : BitVec 16)
  /-- FCEQ (R203): Instruction FCEQ compares binary32 values for equality. -/
  | coreFceq (h : Hdr) (o : BitVec 16)
  /-- FCLT (R203): Instruction FCLT compares binary32 less than. -/
  | coreFclt (h : Hdr) (o : BitVec 16)
  /-- FCLE (R203): Instruction FCLE compares binary32 less or equal. -/
  | coreFcle (h : Hdr) (o : BitVec 16)
  /-- FCUN (R203): Instruction FCUN writes 1 if either operand is a NaN. -/
  | coreFcun (h : Hdr) (o : BitVec 16)
  /-- FCVTIF (R204): Instruction FCVTIF converts an integer to binary32. -/
  | coreFcvtif (h : Hdr) (o : BitVec 16)
  /-- FCVTFI (R204): Instruction FCVTFI converts binary32 to an integer. -/
  | coreFcvtfi (h : Hdr) (o : BitVec 16)
  /-- FCVTQF (R204): Instruction FCVTQF converts a fixed-point value to binary32. -/
  | coreFcvtqf (h : Hdr) (o : BitVec 16)
  /-- FCVTFQ (R204): Instruction FCVTFQ converts binary32 to fixed point. -/
  | coreFcvtfq (h : Hdr) (o : BitVec 16)
  /-- FADDI (R211): Instruction FADDI adds a binary32 immediate. -/
  | coreFaddi (h : Hdr) (o : BitVec 16) (imm : Word)
  /-- FMULI (R211): Instruction FMULI multiplies by a binary32 immediate. -/
  | coreFmuli (h : Hdr) (o : BitVec 16) (imm : Word)
  /-- FCLTI (R211): Instruction FCLTI compares less than a binary32 immediate. -/
  | coreFclti (h : Hdr) (o : BitVec 16) (imm : Word)
  /-- DEVICE_RESET (R470): RESET_N is driven low and the device is reset. -/
  | deviceReset
  /-- PSU_EN_HIGH (R468): Group 1 supplies have been in tolerance for 25,000 crystal cycles and PSU_EN goes high. -/
  | psuEnHigh
  /-- INTERNAL_RESET_RELEASE (R470): RESET_N high and power-good have held for 16 crystal cycles, so internal reset is released and the root PLL begins to lock. -/
  | internalResetRelease
  /-- SWEEP_START (R470): At the first dot after PLL lock the dividers are released, the sweep runs from 0:0:0, the fault collector leaves reset and ERR_OUT_N is released. -/
  | sweepStart
  /-- PLL_LOCK_RETRY (R470): The PLL has not locked within 200 µs, so the sequence holds and the PLL tries again. -/
  | pllLockRetry
  /-- SWP_PLL (R388): The root PLL loses lock, and the always-on domain reports the fault and applies the ERR and CRESET reactions by crystal edges. -/
  | swpPll
  /-- LINE_START (R23): The dot count reaches the line length, a new line begins, LINE_START is issued and the level crossings clock. -/
  | lineStart
  /-- FRAME_START (R23): The line count reaches the frame length, a new frame begins and FRAME_START is issued. -/
  | frameStart
  /-- GEOM_COMMIT_EFFECT (R26): An accepted geometry commit takes effect at the frame boundary, moves the phase origins and sets GEOM_DONE. -/
  | geomCommitEffect
  /-- MODE_CHANGE_EFFECT (R42): An accepted change of SYNC_MODE or REF_PORT takes effect at the frame boundary, switching the PLL reference without a phase step. -/
  | modeChangeEffect
  /-- GEOM_COMMIT (R25): A write of SWP_CTRL.GEOM_COMMIT checks the staged geometry, then copies it to await the frame boundary or refuses it. -/
  | geomCommit
  /-- STEP_ARM (R40): A write of SWP_CTRL.STEP_ARM arms a pending step when all regions are STOPPED. -/
  | stepArm
  /-- FOLLOWER_STEP (R40): In the step dot the follower takes the master's geometry and frame number, cuts its local frame, begins a new one and enters LOCKING. -/
  | followerStep
  /-- SWP_NOW_LO_READ (R44): A read of SWP_NOW_LO returns the current line and dot and copies the frame number into SWP_NOW_HI. -/
  | swpNowLoRead
  /-- FAB_DEFAULT (R153): A write of FAB_CTRL.DEFAULT loads the factory default image. -/
  | fabDefault
  /-- IMAGE_CHECK_PASS_END (R152): The image check pass ends, passing into the apply pass or failing with WHY and SECTION. -/
  | imageCheckPassEnd
  /-- IMAGE_APPLY_END (R151): The apply pass ends and every loaded value governs, LOAD_DONE sets and AUTORUN applies START. -/
  | imageApplyEnd
  /-- DEFAULT_IMAGE_LOADED (R153): The factory default image finishes loading, setting DEFAULTED and LOAD_DONE, with FAB_LOAD reported after a failure. -/
  | defaultImageLoaded
  /-- DIRECTORY_LOOKUP_DONE (R175): A directory lookup completes, staging values for mailbox words, writing SEEN, or counting a bad entry. -/
  | directoryLookupDone
  /-- PUBLISH_SNAPSHOT (R167): At the window line the link snapshots written publish entries, clears WRITTEN and queues the records. -/
  | publishSnapshot
  /-- EVENT_RECORD_CHOOSE (R261): The controller chooses the earliest eligible source and issues its record store. -/
  | eventRecordChoose
  /-- DISCARD_DONE (R285): The discard has cleared its last unit and DISC_BUSY clears. -/
  | discardDone
  /-- ROW_REPAIR_DONE (R288): A row copy to a spare completes, the row is mapped and recorded, and MEM_REPAIR is reported. -/
  | rowRepairDone
  /-- VBLANK_START (R301): Vertical blanking begins, the pending display commit is checked, the in-effect copy reloads and the raster list is copied. -/
  | vblankStart
  /-- DISPLAY_FRAME_START (R339): A display frame begins, cutting or extending the previous one with MISMATCH, and the trace store takes a new column. -/
  | displayFrameStart
  /-- BE_COPY (R318): Block engine operation COPY copies a rectangle with format conversion. -/
  | beCopy
  /-- BE_FILL (R318): Block engine operation FILL fills a rectangle with BE_COLOUR. -/
  | beFill
  /-- BE_KEY (R318): Block engine operation KEY copies a rectangle except key-matching pixels. -/
  | beKey
  /-- BE_BLEND (R318): Block engine operation BLEND lays a source rectangle over the destination. -/
  | beBlend
  /-- BE_COMPLETE (R324): A block engine operation's writes are performed, BUSY clears and the completion event arrives. -/
  | beComplete
  /-- FL_CTRL_GO (R330): A write of FL_CTRL.GO checks and starts a flatten. -/
  | flCtrlGo
  /-- SCN_CTRL_COMMIT (R343): A write of SCN_CTRL.COMMIT sets PEND for a check of group DISP at the next vertical blanking. -/
  | scnCtrlCommit
  /-- CAPTURE_DONE (R347): The last capture write of a display frame is performed and the capture event arrives. -/
  | captureDone
  /-- TRAIN (R346): A write of DP_CTRL.TRAIN trains the DisplayPort link at the configured lanes and rate. -/
  | train
  /-- DP_LINK_LOSS (R346): The DisplayPort link is lost, LINK_LOST sets, DP_LINK is reported and the stream stops. -/
  | dpLinkLoss
  /-- AUX_GO (R351): A write of DP_CTRL.AUX_GO starts an AUX transaction. -/
  | auxGo
  /-- FAULT_REPORT_LATCH (R379): Reports latched in a dot set fault words and write or merge Trail entries in class order, and take their reactions. -/
  | faultReportLatch
  /-- FLT_ACK_ALL (R380): A write of FLT_ACK.ALL closes every open Trail entry. -/
  | fltAckAll
  /-- UNFREEZE (R381): A write of FLT_CTRL.UNFREEZE ends a freeze and clears LOST. -/
  | unfreeze
  /-- ERR_RELEASE (R387): A write of FLT_CTRL.ERR_RELEASE clears the ERR_OUT_N latch. -/
  | errRelease
  /-- CFS_WORD_PROGRAMMED (R393): A queued configuration-store word is programmed and the write is performed. -/
  | cfsWordProgrammed
  /-- NAND_TRIM (R398): Command TRIM marks sectors unwritten. -/
  | nandTrim
  /-- NAND_FLUSH (R398): Command FLUSH completes once every earlier command is durable. -/
  | nandFlush
  /-- NAND_COMMAND_COMPLETE (R399): A NAND command completes and pushes a record into NF_DONE with event 0x178. -/
  | nandCommandComplete
  /-- NF_DONE1_READ (R408): A read of NF_DONE1 returns word 1 of the head record and removes it. -/
  | nfDone1Read
  /-- BLOCK_REFRESH (R401): A queued block's valid sectors are copied to a free block and the old block erased. -/
  | blockRefresh
  /-- WEAR_MOVE (R402): The erase-count spread exceeds WL_DELTA and the lowest-count block's sectors move to the highest-count free block. -/
  | wearMove
  /-- NF_READY_TIMEOUT (R406): A target gives no ready status within 100 ms and NF_DEV is reported. -/
  | nfReadyTimeout
  /-- PCIE_COMPLETION_TIMEOUT (R421): An outbound read times out after PCIE_CTO and gives a bus error and PCIE_TLP. -/
  | pcieCompletionTimeout
  /-- UART_CHARACTER_SENT (R428): A character finishes transmission and TXLVL falls. -/
  | uartCharacterSent
  /-- UART_DATA_READ (R431): A read of UART_DATA returns and removes the oldest character. -/
  | uartDataRead
  /-- UART_RX_TIMEOUT (R432): Characters wait with none received for four character times and the receive event arrives. -/
  | uartRxTimeout
  /-- I2C_SCL_TIMEOUT (R429): A target holds SCL low for 25 ms, the bus is released and I2C_ERR is reported. -/
  | i2cSclTimeout
  /-- SPI_TRANSFER_END (R430): An SPI transfer ends, DONE sets and its event arrives. -/
  | spiTransferEnd
  /-- SPI_RX_READ (R431): A read of SPI_RX returns and removes the oldest word. -/
  | spiRxRead
  /-- REQUEST_RUN (R438): PWR_REQ code 0 from HOLD requests a wake to RUN. -/
  | requestRun
  /-- REQUEST_HOLD (R438): PWR_REQ code 1 requests entry to HOLD, or is refused. -/
  | requestHold
  /-- REQUEST_DIM (R438): PWR_REQ code 2 requests entry to DIM, or is refused. -/
  | requestDim
  /-- REQUEST_SLEEP (R438): PWR_REQ code 3 requests entry to SLEEP, or is refused. -/
  | requestSleep
  /-- REQUEST_OFF (R438): PWR_REQ code 4 requests entry to OFF, or is refused. -/
  | requestOff
  /-- STATE_ENTRY_DONE (R439): An entry finishes stopping cores, writing back, saving, latching pads and switching domains off, and STATE takes the new code. -/
  | stateEntryDone
  /-- WAKE_ALARM (R443): The alarm position is reached while armed and a wake request is made. -/
  | wakeAlarm
  /-- DOMAIN_START (R444): The lowest waiting domain whose needs are on and whose units fit starts its ramp, or is deferred. -/
  | domainStart
  /-- RUN_REACHED (R445): The last domain is on and the reload has ended, so the state becomes RUN and event 0x1C0 arrives. -/
  | runReached
  /-- PSU_EN_LOW (R449): 64 dots after the always-on domain switches off for OFF, PSU_EN goes low. -/
  | psuEnLow
  /-- OFF_WAKE (R449): An enabled wake pin held low for 1 µs or RESET_N drives PSU_EN high and starts the full sequence. -/
  | offWake
  /-- BOOT_HEADER_READ (R474): When STORE comes on the boot header is read and checked, then the image load or default load starts. -/
  | bootHeaderRead
  /-- IDCODE (R483): JTAG instruction IDCODE selects the 32-bit identification register. -/
  | idcode
  /-- CLAMP (R484): JTAG instruction CLAMP holds the boundary values, or loads BYPASS while a region runs. -/
  | clamp
  /-- HIGHZ (R484): JTAG instruction HIGHZ releases the outputs, or loads BYPASS while a region runs. -/
  | highz
  /-- BISTRES (R483): JTAG instruction BISTRES reads the signature and status. -/
  | bistres
  /-- UID (R483): JTAG instruction UID reads the unique die number. -/
  | uid
  /-- BYPASS (R483): JTAG instruction BYPASS selects the 1-bit bypass register. -/
  | bypass
  /-- PLL_RELOCK (R21): The root PLL regains lock after a loss and SWP_STATUS.PLL_LOCK returns to 1. -/
  | pllRelock
deriving DecidableEq, Repr

end Sys2Proof
end

