-- ==== Sys2Proof/Config.lean ====
section
/-! DEFINITION. What the spec leaves open: values with no body. Nothing can be proved about any of them. Each is named in a row of
the assumption log. A function of a number is applied to the state's counter of free values. -/

namespace Sys2Proof.Config

open Sys2Proof

/-- A byte of the boot ROM (R475: the ROM's contents are not given). -/
opaque romByte : Nat → Byte

/-- The boot ROM's refuge entry, the reset value of REF_PC (R257: the address is not given). -/
opaque romRefugeEntry : Nat

/-- Where within 4 LSB of the exact value a SINCOS result lies, for an angle word: an offset from the nearest value
(R108 gives only the bound). 0 for the cosine, 1 for the sine. -/
opaque sincosOffset : Nat → Nat → Int

/-- A 24-bit sample that a converting port's sample-rate converter gives (R368: the conversion is not given). -/
opaque asrcSample : Nat → Nat

/-- A byte of the flash memory on the SPI chip select 0 (R476: its contents are the board's). -/
opaque spiByte : Nat → Byte

/-- The level that a modulator drives on a channel's SDI pin, as a capture in a dot takes it (R78: the modulator's). -/
opaque sdiLevel : Nat → Nat → Bool

/-- The level of SDCcc in a dot while it is an input (R78, R79: the modulators'). -/
opaque sdcPin : Nat → Nat → Bool

/-- The result of a conversion that no command gives (R84: the outside world's). -/
opaque sarValue : Nat → BitVec 16

/-- A comparator's analog input lies above its threshold: by comparator, AIN, THRESH, HYST and dot (R87: the voltages are the outside
world's). -/
opaque cmpAbove : Nat → Nat → Nat → Nat → Nat → Bool

/-- The level of MA that signals a CDM bit (R91: as the BiSS-C protocol lays down). -/
opaque cdmLevel : Bool → Bool

/-- What drives a general pin from outside in a dot, if anything does (R132, R454: the board's). -/
opaque pinOutside : Nat → Nat → Option Bool

/-- The level of an output function while its interface sends (R453: interface transfers are not tied to the sweep). -/
opaque pinSending : Nat → Nat → Bool

/-- The sample that an audio input takes in from outside at a strobe that no command gives (R352: the outside world's). -/
opaque audioInput : Nat → Nat → BitVec 24

/-- The unique die number (R486: each die has its own). -/
opaque dieNumber : BitVec 64

/-- A word that a target sends on MISO (R430: the target's). -/
opaque spiInput : Nat → Word

/-- The data of an outbound PCI Express read for which the host's completion is not among the commands (R421). -/
opaque pcieData : Nat → BitVec 64

/-- The signature that a self-test forms (R482: the logic's own). -/
opaque bistSignature : Nat → BitVec 64

/-- How many bytes of a copy have been written when a read of its source fails (R295: only that writes already issued complete). -/
opaque dmaIssued : Nat → Nat

/-- How many requests are in flight in a dot, by register field (R279, R293, R298, R300: the times of memory are not tied to the sweep). -/
opaque requests : Nat → Nat → Nat

/-- The flattener's next write is performed in a dot (R331: its duration depends on the memories). -/
opaque flattenMoves : Nat → Bool

/-- The next queued word of the configuration store is programmed by a dot (R393: not tied to the sweep, within a bound). -/
opaque storeMoves : Nat → Bool

/-- Step 5 of an entry, the first domain's going off, has come by a dot (R439: the steps before it depend on memory). -/
opaque entryMoves : Nat → Bool

/-- The oldest line of the capture buffer has been written by a dot (R347: the time of its writes depends on the memories). -/
opaque captureMoves : Nat → Bool

/-- The data that a read through JTAG shows after a bus error (R484: not stated). -/
opaque jtagData : Nat → Word

/-- Where within 4 fine steps of the exact position an Ethernet stamp lies (R414 gives only the bound): taken modulo 9, less 4. -/
opaque stampError : Nat → Int

/-- Whether binary32 tininess is judged before rounding (R203: correctly rounded results, UF not defined further). -/
opaque tinyBefore : Bool

/-- Whether FMA sets NV for infinity times zero when the addend is a quiet NaN (R203: not stated). -/
opaque fmaNanInvalid : Bool

/-- ADDR of the record of a capability exception that no address caused (R246: not stated). -/
opaque capOpAddr : Nat → Word

/-- What CGET gives for a field above 5 (R209, R240: not stated). -/
opaque cgetOther : Nat → Word

/-- The cycles that FMIN and FMAX take beyond one on a loop core, and until their result is ready beyond one on a host core (R217, R223: not
listed). -/
opaque fminLoop : Nat
opaque fminHost : Nat

end Sys2Proof.Config
end

