-- ==== Sys2Proof/Machine/Regs.lean ====
section
/-! DEFINITION. Every register field the spec's register tables give the device, one definition each: its width and
its value at reset (R12, R15, R500); a field of access code SH (R14) has two, the shadow and the value in effect (suffix _E).
The rows at the end say where each register lies and which bits each field takes. -/

namespace Sys2Proof.Machine

/-- One register field: its number in the register file, its width in bits, its value at reset. -/
structure Fld where
  id : Nat
  w : Nat
  rst : Nat
deriving DecidableEq, Repr

/-- The access codes of R12. -/
inductive Acc where
  | rw | ro | wo | w1c | rc | sh
deriving DecidableEq, Repr

/-- One field of a register's row: its lowest bit, its access code, whether it is stop-only (R72, R77, R145), the field. -/
structure FieldRow where
  lo : Nat
  acc : Acc
  stop : Bool
  fld : Fld
  eff : Fld

/-- One register: its name, its address, for an array the count and stride of each index (outermost first), its fields. -/
structure RegRow where
  name : String
  base : Nat
  dims : List (Nat × Nat)
  fields : List FieldRow

/-- A capability slot of a register block: four words of 32 bits and the tag (R257, R300 and the block's own rule). -/
structure CapFld where
  w0 : Fld
  w1 : Fld
  w2 : Fld
  w3 : Fld
  tag : Fld

/-- One capability slot's place in the map. -/
structure CapRow where
  name : String
  base : Nat
  dims : List (Nat × Nat)
  cap : CapFld

/-! ### Registers of file 01 of spec/ (sweep) -/

/-- R43: SWP_CTRL[7:7], WO. -/
def SWP_CTRL_STEP_ARM : Fld := ⟨0, 1, 0⟩
/-- R43: SWP_CTRL[6:6], WO. -/
def SWP_CTRL_GEOM_COMMIT : Fld := ⟨1, 1, 0⟩
/-- R43: SWP_CTRL[5:4], RW. -/
def SWP_CTRL_REF_PORT : Fld := ⟨2, 2, 0⟩
/-- R43: SWP_CTRL[1:0], RW. -/
def SWP_CTRL_SYNC_MODE : Fld := ⟨3, 2, 0⟩
/-- R43: SWP_LINE[13:0], SH (the shadow). -/
def SWP_LINE_DOTS : Fld := ⟨4, 14, 2000⟩
/-- R43: SWP_LINE[13:0], SH (in effect). -/
def SWP_LINE_DOTS_E : Fld := ⟨5, 14, 2000⟩
/-- R43: SWP_FRAME[11:0], SH (the shadow). -/
def SWP_FRAME_LINES : Fld := ⟨6, 12, 200⟩
/-- R43: SWP_FRAME[11:0], SH (in effect). -/
def SWP_FRAME_LINES_E : Fld := ⟨7, 12, 200⟩
/-- R43: SWP_AUDIO[7:0], SH (the shadow). -/
def SWP_AUDIO_K : Fld := ⟨8, 8, 4⟩
/-- R43: SWP_AUDIO[7:0], SH (in effect). -/
def SWP_AUDIO_K_E : Fld := ⟨9, 8, 4⟩
/-- R43: SWP_DISP[7:0], SH (the shadow). -/
def SWP_DISP_FRAMES : Fld := ⟨10, 8, 16⟩
/-- R43: SWP_DISP[7:0], SH (in effect). -/
def SWP_DISP_FRAMES_E : Fld := ⟨11, 8, 16⟩
/-- R43: SWP_STATUS[11:9], RO. -/
def SWP_STATUS_REJECT_WHY : Fld := ⟨12, 3, 0⟩
/-- R43: SWP_STATUS[8:8], W1C. -/
def SWP_STATUS_GEOM_DONE : Fld := ⟨13, 1, 0⟩
/-- R43: SWP_STATUS[7:7], W1C. -/
def SWP_STATUS_GEOM_REJECT : Fld := ⟨14, 1, 0⟩
/-- R43: SWP_STATUS[6:6], W1C. -/
def SWP_STATUS_MODE_REJECT : Fld := ⟨15, 1, 0⟩
/-- R43: SWP_STATUS[5:5], RO. -/
def SWP_STATUS_STEP_PENDING : Fld := ⟨16, 1, 0⟩
/-- R43: SWP_STATUS[4:4], RO. -/
def SWP_STATUS_PLL_LOCK : Fld := ⟨17, 1, 0⟩
/-- R43: SWP_STATUS[1:0], RO. -/
def SWP_STATUS_STATE : Fld := ⟨18, 2, 0⟩
/-- R43: SWP_NOW_LO[25:14], RO. -/
def SWP_NOW_LO_LINE : Fld := ⟨19, 12, 0⟩
/-- R43: SWP_NOW_LO[13:0], RO. -/
def SWP_NOW_LO_DOT : Fld := ⟨20, 14, 0⟩
/-- R43: SWP_NOW_HI, RO. -/
def SWP_NOW_HI_FRAME : Fld := ⟨21, 32, 0⟩
/-- R43: SWP_PHASE_ERR, RO. -/
def SWP_PHASE_ERR_ERR : Fld := ⟨22, 32, 0⟩
/-- R43: SWP_GEOM_EFF0[27:16], RO. -/
def SWP_GEOM_EFF0_LINES : Fld := ⟨23, 12, 200⟩
/-- R43: SWP_GEOM_EFF0[13:0], RO. -/
def SWP_GEOM_EFF0_DOTS : Fld := ⟨24, 14, 2000⟩
/-- R43: SWP_GEOM_EFF1[15:8], RO. -/
def SWP_GEOM_EFF1_FRAMES : Fld := ⟨25, 8, 16⟩
/-- R43: SWP_GEOM_EFF1[7:0], RO. -/
def SWP_GEOM_EFF1_K : Fld := ⟨26, 8, 4⟩
/-! ### Registers of file 02 of spec/ (leg and trip) -/

/-- R73: LEG_CTRL[4:4], WO. -/
def LEG_CTRL_FORCE_TRIP : Fld := ⟨27, 1, 0⟩
/-- R73: LEG_CTRL[1:1], RW. -/
def LEG_CTRL_COMMIT_HOLD : Fld := ⟨28, 1, 0⟩
/-- R73: LEG_CTRL[0:0], WO. -/
def LEG_CTRL_COMMIT_NOW : Fld := ⟨29, 1, 0⟩
/-- R73: LEG_CFG[31:16], RW, stop-only. -/
def LEG_CFG_TRIP_EN : Fld := ⟨30, 16, 0⟩
/-- R73: LEG_CFG[6:6], RW, stop-only. -/
def LEG_CFG_CONV : Fld := ⟨31, 1, 0⟩
/-- R73: LEG_CFG[5:4], RW, stop-only. -/
def LEG_CFG_SAFE : Fld := ⟨32, 2, 0⟩
/-- R73: LEG_CFG[3:3], RW, stop-only. -/
def LEG_CFG_TRIP_MODE : Fld := ⟨33, 1, 0⟩
/-- R73: LEG_CFG[2:1], RW, stop-only. -/
def LEG_CFG_COMMIT_AT : Fld := ⟨34, 2, 0⟩
/-- R73: LEG_CFG[0:0], RW, stop-only. -/
def LEG_CFG_MODE : Fld := ⟨35, 1, 0⟩
/-- R73: LEG_PERIOD, SH (the shadow). -/
def LEG_PERIOD_PERIOD : Fld := ⟨36, 32, 0⟩
/-- R73: LEG_PERIOD, SH (in effect). -/
def LEG_PERIOD_PERIOD_E : Fld := ⟨37, 32, 0⟩
/-- R73: LEG_CMPA, SH (the shadow). -/
def LEG_CMPA_DOTS : Fld := ⟨38, 32, 0⟩
/-- R73: LEG_CMPA, SH (in effect). -/
def LEG_CMPA_DOTS_E : Fld := ⟨39, 32, 0⟩
/-- R73: LEG_CMPB, SH (the shadow). -/
def LEG_CMPB_DOTS : Fld := ⟨40, 32, 0⟩
/-- R73: LEG_CMPB, SH (in effect). -/
def LEG_CMPB_DOTS_E : Fld := ⟨41, 32, 0⟩
/-- R73: LEG_FINE[12:8], SH (the shadow). -/
def LEG_FINE_CMPB_F : Fld := ⟨42, 5, 0⟩
/-- R73: LEG_FINE[12:8], SH (in effect). -/
def LEG_FINE_CMPB_F_E : Fld := ⟨43, 5, 0⟩
/-- R73: LEG_FINE[4:0], SH (the shadow). -/
def LEG_FINE_CMPA_F : Fld := ⟨44, 5, 0⟩
/-- R73: LEG_FINE[4:0], SH (in effect). -/
def LEG_FINE_CMPA_F_E : Fld := ⟨45, 5, 0⟩
/-- R73: LEG_DT_HL[20:16], SH (the shadow). -/
def LEG_DT_HL_FINE : Fld := ⟨46, 5, 0⟩
/-- R73: LEG_DT_HL[20:16], SH (in effect). -/
def LEG_DT_HL_FINE_E : Fld := ⟨47, 5, 0⟩
/-- R73: LEG_DT_HL[11:0], SH (the shadow). -/
def LEG_DT_HL_DOTS : Fld := ⟨48, 12, 0⟩
/-- R73: LEG_DT_HL[11:0], SH (in effect). -/
def LEG_DT_HL_DOTS_E : Fld := ⟨49, 12, 0⟩
/-- R73: LEG_DT_LH[20:16], SH (the shadow). -/
def LEG_DT_LH_FINE : Fld := ⟨50, 5, 0⟩
/-- R73: LEG_DT_LH[20:16], SH (in effect). -/
def LEG_DT_LH_FINE_E : Fld := ⟨51, 5, 0⟩
/-- R73: LEG_DT_LH[11:0], SH (the shadow). -/
def LEG_DT_LH_DOTS : Fld := ⟨52, 12, 0⟩
/-- R73: LEG_DT_LH[11:0], SH (in effect). -/
def LEG_DT_LH_DOTS_E : Fld := ⟨53, 12, 0⟩
/-- R73: LEG_MINP[20:16], SH (the shadow). -/
def LEG_MINP_FINE : Fld := ⟨54, 5, 0⟩
/-- R73: LEG_MINP[20:16], SH (in effect). -/
def LEG_MINP_FINE_E : Fld := ⟨55, 5, 0⟩
/-- R73: LEG_MINP[15:0], SH (the shadow). -/
def LEG_MINP_DOTS : Fld := ⟨56, 16, 0⟩
/-- R73: LEG_MINP[15:0], SH (in effect). -/
def LEG_MINP_DOTS_E : Fld := ⟨57, 16, 0⟩
/-- R73: LEG_PHASE, RW, stop-only. -/
def LEG_PHASE_COUNT : Fld := ⟨58, 32, 0⟩
/-- R73: LEG_STAT[20:16], RO. -/
def LEG_STAT_TRIP_SRC : Fld := ⟨59, 5, 31⟩
/-- R73: LEG_STAT[14:12], RO. -/
def LEG_STAT_STATE : Fld := ⟨60, 3, 0⟩
/-- R73: LEG_STAT[10:8], RO. -/
def LEG_STAT_REJECT_WHY : Fld := ⟨61, 3, 0⟩
/-- R73: LEG_STAT[5:5], RO. -/
def LEG_STAT_PEND : Fld := ⟨62, 1, 0⟩
/-- R73: LEG_STAT[4:4], W1C. -/
def LEG_STAT_COMMIT_DONE : Fld := ⟨63, 1, 0⟩
/-- R73: LEG_STAT[3:3], W1C, stop-only. -/
def LEG_STAT_CFG_REFUSED : Fld := ⟨64, 1, 0⟩
/-- R73: LEG_STAT[2:2], W1C. -/
def LEG_STAT_TRIPPED : Fld := ⟨65, 1, 0⟩
/-- R73: LEG_STAT[1:1], W1C. -/
def LEG_STAT_SHADOW_REJECT : Fld := ⟨66, 1, 0⟩
/-- R73: LEG_STAT[0:0], W1C. -/
def LEG_STAT_LATE : Fld := ⟨67, 1, 0⟩
/-- R73: LEG_COUNT, RO. -/
def LEG_COUNT_COUNT : Fld := ⟨68, 32, 0⟩
/-- R73: LEG_PADS[2:2], RO. -/
def LEG_PADS_REF : Fld := ⟨69, 1, 0⟩
/-- R73: LEG_PADS[1:1], RO. -/
def LEG_PADS_L : Fld := ⟨70, 1, 0⟩
/-- R73: LEG_PADS[0:0], RO. -/
def LEG_PADS_H : Fld := ⟨71, 1, 0⟩
/-- R74: CLG_CFG[5:4], RW, stop-only. -/
def CLG_CFG_AUTOSTART : Fld := ⟨72, 2, 0⟩
/-- R74: CLG_CFG[0:0], RW, stop-only. -/
def CLG_CFG_THREE_LEVEL : Fld := ⟨73, 1, 0⟩
/-- R74: CLG_CONV[14:14], W1C. -/
def CLG_CONV_CFG_REFUSED : Fld := ⟨74, 1, 0⟩
/-- R74: CLG_CONV[13:12], RO. -/
def CLG_CONV_WAIT : Fld := ⟨75, 2, 0⟩
/-- R74: CLG_CONV[9:8], RO. -/
def CLG_CONV_RUN : Fld := ⟨76, 2, 0⟩
/-- R74: CLG_CONV[5:4], WO. -/
def CLG_CONV_STOP : Fld := ⟨77, 2, 0⟩
/-- R74: CLG_CONV[1:0], WO. -/
def CLG_CONV_START : Fld := ⟨78, 2, 0⟩
/-- R75: RLG_STAGGER[8:8], W1C, stop-only. -/
def RLG_STAGGER_CFG_REFUSED : Fld := ⟨79, 1, 0⟩
/-- R75: RLG_STAGGER[7:0], RW, stop-only. -/
def RLG_STAGGER_LINES : Fld := ⟨80, 8, 0⟩
/-- R75: LTRIP_FILT[3:0], RW, stop-only. -/
def LTRIP_FILT_FILT0 : Fld := ⟨81, 4, 0⟩
/-- R75: LTRIP_FILT[7:4], RW, stop-only. -/
def LTRIP_FILT_FILT1 : Fld := ⟨82, 4, 0⟩
/-- R75: LTRIP_FILT[11:8], RW, stop-only. -/
def LTRIP_FILT_FILT2 : Fld := ⟨83, 4, 0⟩
/-- R75: LTRIP_FILT[15:12], RW, stop-only. -/
def LTRIP_FILT_FILT3 : Fld := ⟨84, 4, 0⟩
/-- R75: LTRIP_FILT[19:16], RW, stop-only. -/
def LTRIP_FILT_FILT4 : Fld := ⟨85, 4, 0⟩
/-- R75: LTRIP_FILT[23:20], RW, stop-only. -/
def LTRIP_FILT_FILT5 : Fld := ⟨86, 4, 0⟩
/-- R75: LTRIP_FILT[27:24], RW, stop-only. -/
def LTRIP_FILT_FILT6 : Fld := ⟨87, 4, 0⟩
/-- R75: LTRIP_FILT[31:28], RW, stop-only. -/
def LTRIP_FILT_FILT7 : Fld := ⟨88, 4, 0⟩
/-- R75: LTRIP_STAT[8:8], W1C. -/
def LTRIP_STAT_CFG_REFUSED : Fld := ⟨89, 1, 0⟩
/-- R75: LTRIP_STAT[7:0], RO. -/
def LTRIP_STAT_LEVEL : Fld := ⟨90, 8, 0⟩
/-! ### Registers of file 03 of spec/ (sensing) -/

/-- R93: SDF_CFG[24:16], RW, stop-only. -/
def SDF_CFG_M : Fld := ⟨91, 9, 0⟩
/-- R93: SDF_CFG[11:8], RW, stop-only. -/
def SDF_CFG_OC_N : Fld := ⟨92, 4, 0⟩
/-- R93: SDF_CFG[6:4], RW, stop-only. -/
def SDF_CFG_OC_CONSEC : Fld := ⟨93, 3, 0⟩
/-- R93: SDF_CFG[3:0], RW, stop-only. -/
def SDF_CFG_SKEW : Fld := ⟨94, 4, 0⟩
/-- R93: SDF_OC[15:8], RW. -/
def SDF_OC_HI : Fld := ⟨95, 8, 0⟩
/-- R93: SDF_OC[7:0], RW. -/
def SDF_OC_LO : Fld := ⟨96, 8, 0⟩
/-- R93: SDF_CYCLE[11:0], RW, stop-only. -/
def SDF_CYCLE_LINES : Fld := ⟨97, 12, 0⟩
/-- R93: SDF_LAT0[31:31], RW, stop-only. -/
def SDF_LAT0_EN : Fld := ⟨98, 1, 0⟩
/-- R93: SDF_LAT0[25:14], RW, stop-only. -/
def SDF_LAT0_LINE : Fld := ⟨99, 12, 0⟩
/-- R93: SDF_LAT0[13:0], RW, stop-only. -/
def SDF_LAT0_DOT : Fld := ⟨100, 14, 0⟩
/-- R93: SDF_LAT1[31:31], RW, stop-only. -/
def SDF_LAT1_EN : Fld := ⟨101, 1, 0⟩
/-- R93: SDF_LAT1[25:14], RW, stop-only. -/
def SDF_LAT1_LINE : Fld := ⟨102, 12, 0⟩
/-- R93: SDF_LAT1[13:0], RW, stop-only. -/
def SDF_LAT1_DOT : Fld := ⟨103, 14, 0⟩
/-- R93: SDF_RES0, RO. -/
def SDF_RES0_R : Fld := ⟨104, 32, 0⟩
/-- R93: SDF_RES1, RO. -/
def SDF_RES1_R : Fld := ⟨105, 32, 0⟩
/-- R93: SDF_STAT[6:6], RO. -/
def SDF_STAT_STALE1 : Fld := ⟨106, 1, 0⟩
/-- R93: SDF_STAT[5:5], RO. -/
def SDF_STAT_STALE0 : Fld := ⟨107, 1, 0⟩
/-- R93: SDF_STAT[4:4], RO. -/
def SDF_STAT_FILLING : Fld := ⟨108, 1, 0⟩
/-- R93: SDF_STAT[3:3], W1C. -/
def SDF_STAT_CFG_REFUSED : Fld := ⟨109, 1, 0⟩
/-- R93: SDF_STAT[2:2], RO. -/
def SDF_STAT_OC_LIVE : Fld := ⟨110, 1, 0⟩
/-- R93: SDF_STAT[1:1], W1C. -/
def SDF_STAT_OC_LO : Fld := ⟨111, 1, 0⟩
/-- R93: SDF_STAT[0:0], W1C. -/
def SDF_STAT_OC_HI : Fld := ⟨112, 1, 0⟩
/-- R93: SDF_COM[8:8], RW, stop-only. -/
def SDF_COM_CLK_SRC : Fld := ⟨113, 1, 1⟩
/-- R93: SDF_COM[3:3], W1C. -/
def SDF_COM_CFG_REFUSED : Fld := ⟨114, 1, 0⟩
/-- R93: SDF_COM[2:2], W1C. -/
def SDF_COM_CLK_FAST : Fld := ⟨115, 1, 0⟩
/-- R93: SDF_COM[1:1], W1C. -/
def SDF_COM_CLK_LOST : Fld := ⟨116, 1, 0⟩
/-- R93: SDF_COM[0:0], RO. -/
def SDF_COM_CLK_OK : Fld := ⟨117, 1, 0⟩
/-- R94: QEP_CFG[13:12], RW, stop-only. -/
def QEP_CFG_MODE : Fld := ⟨118, 2, 0⟩
/-- R94: QEP_CFG[11:8], RW, stop-only. -/
def QEP_CFG_FILT : Fld := ⟨119, 4, 0⟩
/-- R94: QEP_CFG[4:4], RW, stop-only. -/
def QEP_CFG_IDX_CLEAR : Fld := ⟨120, 1, 0⟩
/-- R94: QEP_CFG[2:0], RW, stop-only. -/
def QEP_CFG_INV : Fld := ⟨121, 3, 0⟩
/-- R94: QEP_POS, RW. -/
def QEP_POS_POS : Fld := ⟨122, 32, 0⟩
/-- R94: QEP_CYCLE[11:0], RW, stop-only. -/
def QEP_CYCLE_LINES : Fld := ⟨123, 12, 0⟩
/-- R94: QEP_LAT0[31:31], RW, stop-only. -/
def QEP_LAT0_EN : Fld := ⟨124, 1, 0⟩
/-- R94: QEP_LAT0[25:14], RW, stop-only. -/
def QEP_LAT0_LINE : Fld := ⟨125, 12, 0⟩
/-- R94: QEP_LAT0[13:0], RW, stop-only. -/
def QEP_LAT0_DOT : Fld := ⟨126, 14, 0⟩
/-- R94: QEP_LAT1[31:31], RW, stop-only. -/
def QEP_LAT1_EN : Fld := ⟨127, 1, 0⟩
/-- R94: QEP_LAT1[25:14], RW, stop-only. -/
def QEP_LAT1_LINE : Fld := ⟨128, 12, 0⟩
/-- R94: QEP_LAT1[13:0], RW, stop-only. -/
def QEP_LAT1_DOT : Fld := ⟨129, 14, 0⟩
/-- R94: QEP_RES0_POS, RO. -/
def QEP_RES0_POS_POS : Fld := ⟨130, 32, 0⟩
/-- R94: QEP_RES1_POS, RO. -/
def QEP_RES1_POS_POS : Fld := ⟨131, 32, 0⟩
/-- R94: QEP_RES0_AGE, RO. -/
def QEP_RES0_AGE_AGE : Fld := ⟨132, 32, 0⟩
/-- R94: QEP_RES1_AGE, RO. -/
def QEP_RES1_AGE_AGE : Fld := ⟨133, 32, 0⟩
/-- R94: QEP_RES0_INT, RO. -/
def QEP_RES0_INT_INT : Fld := ⟨134, 32, 0⟩
/-- R94: QEP_RES1_INT, RO. -/
def QEP_RES1_INT_INT : Fld := ⟨135, 32, 0⟩
/-- R94: QEP_IDX_POS, RO. -/
def QEP_IDX_POS_POS : Fld := ⟨136, 32, 0⟩
/-- R94: QEP_IDX_LO[25:14], RO. -/
def QEP_IDX_LO_LINE : Fld := ⟨137, 12, 0⟩
/-- R94: QEP_IDX_LO[13:0], RO. -/
def QEP_IDX_LO_DOT : Fld := ⟨138, 14, 0⟩
/-- R94: QEP_IDX_HI, RO. -/
def QEP_IDX_HI_FRAME : Fld := ⟨139, 32, 0⟩
/-- R94: QEP_STAT[3:3], W1C. -/
def QEP_STAT_CFG_REFUSED : Fld := ⟨140, 1, 0⟩
/-- R94: QEP_STAT[2:2], W1C. -/
def QEP_STAT_IDX_SEEN : Fld := ⟨141, 1, 0⟩
/-- R94: QEP_STAT[1:1], W1C. -/
def QEP_STAT_ERR : Fld := ⟨142, 1, 0⟩
/-- R94: QEP_STAT[0:0], RO. -/
def QEP_STAT_DIR : Fld := ⟨143, 1, 0⟩
/-- R95: SAR_CYCLE[11:0], RW, stop-only. -/
def SAR_CYCLE_LINES : Fld := ⟨144, 12, 0⟩
/-- R95: SAR_ENT[31:31], RW, stop-only. -/
def SAR_ENT_EN : Fld := ⟨145, 1, 0⟩
/-- R95: SAR_ENT[30:26], RW, stop-only. -/
def SAR_ENT_AIN : Fld := ⟨146, 5, 0⟩
/-- R95: SAR_ENT[25:14], RW, stop-only. -/
def SAR_ENT_LINE : Fld := ⟨147, 12, 0⟩
/-- R95: SAR_ENT[13:0], RW, stop-only. -/
def SAR_ENT_DOT : Fld := ⟨148, 14, 0⟩
/-- R95: SAR_RES[24:24], RO. -/
def SAR_RES_MISSED : Fld := ⟨149, 1, 0⟩
/-- R95: SAR_RES[23:16], RO. -/
def SAR_RES_SEQ : Fld := ⟨150, 8, 0⟩
/-- R95: SAR_RES[15:0], RO. -/
def SAR_RES_VALUE : Fld := ⟨151, 16, 0⟩
/-- R95: SAR_STAT[1:1], W1C. -/
def SAR_STAT_CFG_REFUSED : Fld := ⟨152, 1, 0⟩
/-- R95: SAR_STAT[0:0], W1C. -/
def SAR_STAT_OVERRUN : Fld := ⟨153, 1, 0⟩
/-- R95: CMP_CFG[31:31], RW, stop-only. -/
def CMP_CFG_EN : Fld := ⟨154, 1, 0⟩
/-- R95: CMP_CFG[20:16], RW, stop-only. -/
def CMP_CFG_AIN : Fld := ⟨155, 5, 0⟩
/-- R95: CMP_CFG[13:12], RW, stop-only. -/
def CMP_CFG_HYST : Fld := ⟨156, 2, 0⟩
/-- R95: CMP_CFG[8:8], RW, stop-only. -/
def CMP_CFG_INVERT : Fld := ⟨157, 1, 0⟩
/-- R95: CMP_CFG[0:0], W1C. -/
def CMP_CFG_CFG_REFUSED : Fld := ⟨158, 1, 0⟩
/-- R95: CMP_THR[9:0], RW. -/
def CMP_THR_THRESH : Fld := ⟨159, 10, 0⟩
/-- R95: CMP_STAT[2:2], W1C. -/
def CMP_STAT_FELL : Fld := ⟨160, 1, 0⟩
/-- R95: CMP_STAT[1:1], W1C. -/
def CMP_STAT_ROSE : Fld := ⟨161, 1, 0⟩
/-- R95: CMP_STAT[0:0], RO. -/
def CMP_STAT_OUT : Fld := ⟨162, 1, 0⟩
/-- R96: SEU_CFG[31:30], RW, stop-only. -/
def SEU_CFG_PROTO : Fld := ⟨163, 2, 0⟩
/-- R96: SEU_CFG[29:29], RW, stop-only. -/
def SEU_CFG_GRAY : Fld := ⟨164, 1, 0⟩
/-- R96: SEU_CFG[22:16], RW, stop-only. -/
def SEU_CFG_BITS : Fld := ⟨165, 7, 0⟩
/-- R96: SEU_CFG[15:8], RW, stop-only. -/
def SEU_CFG_SSI_DLY : Fld := ⟨166, 8, 0⟩
/-- R96: SEU_CFG[7:0], RW, stop-only. -/
def SEU_CFG_DIV : Fld := ⟨167, 8, 20⟩
/-- R96: SEU_CRC[11:8], RW, stop-only. -/
def SEU_CRC_LEN : Fld := ⟨168, 4, 0⟩
/-- R96: SEU_CRC[7:0], RW, stop-only. -/
def SEU_CRC_POLY : Fld := ⟨169, 8, 0⟩
/-- R96: SEU_TIMING[31:16], RW, stop-only. -/
def SEU_TIMING_TIMEOUT : Fld := ⟨170, 16, 0⟩
/-- R96: SEU_TIMING[15:0], RW, stop-only. -/
def SEU_TIMING_DEADLINE : Fld := ⟨171, 16, 0⟩
/-- R96: SEU_CYCLE[11:0], RW, stop-only. -/
def SEU_CYCLE_LINES : Fld := ⟨172, 12, 0⟩
/-- R96: SEU_LAT0[31:31], RW, stop-only. -/
def SEU_LAT0_EN : Fld := ⟨173, 1, 0⟩
/-- R96: SEU_LAT0[25:14], RW, stop-only. -/
def SEU_LAT0_LINE : Fld := ⟨174, 12, 0⟩
/-- R96: SEU_LAT0[13:0], RW, stop-only. -/
def SEU_LAT0_DOT : Fld := ⟨175, 14, 0⟩
/-- R96: SEU_LAT1[31:31], RW, stop-only. -/
def SEU_LAT1_EN : Fld := ⟨176, 1, 0⟩
/-- R96: SEU_LAT1[25:14], RW, stop-only. -/
def SEU_LAT1_LINE : Fld := ⟨177, 12, 0⟩
/-- R96: SEU_LAT1[13:0], RW, stop-only. -/
def SEU_LAT1_DOT : Fld := ⟨178, 14, 0⟩
/-- R96: SEU_DATA_LO, RO. -/
def SEU_DATA_LO_DATA : Fld := ⟨179, 32, 0⟩
/-- R96: SEU_DATA_HI, RO. -/
def SEU_DATA_HI_DATA : Fld := ⟨180, 32, 0⟩
/-- R96: SEU_STAT[23:16], RO. -/
def SEU_STAT_SEQ : Fld := ⟨181, 8, 0⟩
/-- R96: SEU_STAT[15:8], RO. -/
def SEU_STAT_DLY : Fld := ⟨182, 8, 0⟩
/-- R96: SEU_STAT[7:7], RO. -/
def SEU_STAT_CDS : Fld := ⟨183, 1, 0⟩
/-- R96: SEU_STAT[6:6], RO. -/
def SEU_STAT_NW : Fld := ⟨184, 1, 0⟩
/-- R96: SEU_STAT[5:5], RO. -/
def SEU_STAT_NE : Fld := ⟨185, 1, 0⟩
/-- R96: SEU_STAT[4:4], W1C. -/
def SEU_STAT_CFG_REFUSED : Fld := ⟨186, 1, 0⟩
/-- R96: SEU_STAT[3:3], W1C. -/
def SEU_STAT_SKIPPED : Fld := ⟨187, 1, 0⟩
/-- R96: SEU_STAT[2:2], W1C. -/
def SEU_STAT_TIMEOUT : Fld := ⟨188, 1, 0⟩
/-- R96: SEU_STAT[1:1], W1C. -/
def SEU_STAT_CRC_ERR : Fld := ⟨189, 1, 0⟩
/-- R96: SEU_CDM[0:0], RW. -/
def SEU_CDM_CDM : Fld := ⟨190, 1, 0⟩
/-! ### Registers of file 04 of spec/ (loop engine) -/

/-- R124: LPE_CFG[0:0], RW. -/
def LPE_CFG_CORE_MODE : Fld := ⟨191, 1, 0⟩
/-- R124: LPE_KICK[31:31], WO. -/
def LPE_KICK_GO : Fld := ⟨192, 1, 0⟩
/-- R124: LPE_KICK[6:0], WO. -/
def LPE_KICK_CTX : Fld := ⟨193, 7, 0⟩
/-- R124: LPE_STAT[21:16], RC. -/
def LPE_STAT_QMAX : Fld := ⟨194, 6, 0⟩
/-- R124: LPE_STAT[13:8], RO. -/
def LPE_STAT_QDEPTH : Fld := ⟨195, 6, 0⟩
/-- R124: LPE_STAT[5:5], W1C. -/
def LPE_STAT_LOCK_ERR : Fld := ⟨196, 1, 0⟩
/-- R124: LPE_STAT[4:4], W1C. -/
def LPE_STAT_QFULL : Fld := ⟨197, 1, 0⟩
/-- R124: LPE_STAT[3:3], W1C. -/
def LPE_STAT_CFG_REFUSED : Fld := ⟨198, 1, 0⟩
/-- R124: LPE_STAT[2:2], RO. -/
def LPE_STAT_SUBST : Fld := ⟨199, 1, 0⟩
/-- R124: LPE_STAT[1:1], RO. -/
def LPE_STAT_HALTED : Fld := ⟨200, 1, 0⟩
/-- R124: LPE_STAT[0:0], RO. -/
def LPE_STAT_RUNNING : Fld := ⟨201, 1, 0⟩
/-- R124: LPE_BUSY[31:16], RC. -/
def LPE_BUSY_MAXWAIT : Fld := ⟨202, 16, 0⟩
/-- R124: LPE_BUSY[14:0], RO. -/
def LPE_BUSY_BUSY : Fld := ⟨203, 15, 0⟩
/-- R124: LPE_LOST[15:0], RO. -/
def LPE_LOST_LOST : Fld := ⟨204, 16, 0⟩
/-- R125: RSP_CFG[8:8], RW. -/
def RSP_CFG_EN : Fld := ⟨205, 1, 0⟩
/-- R125: RSP_CFG[2:0], RW. -/
def RSP_CFG_DESIG : Fld := ⟨206, 3, 0⟩
/-- R125: RSP_CTRL[0:0], WO. -/
def RSP_CTRL_RETURN : Fld := ⟨207, 1, 0⟩
/-- R125: RSP_STAT[10:8], RO. -/
def RSP_STAT_SERVING : Fld := ⟨208, 3, 0⟩
/-- R125: RSP_STAT[4:4], W1C. -/
def RSP_STAT_SWAP_DONE : Fld := ⟨209, 1, 0⟩
/-- R125: RSP_STAT[3:3], W1C. -/
def RSP_STAT_CFG_REFUSED : Fld := ⟨210, 1, 0⟩
/-- R125: RSP_STAT[2:2], RO. -/
def RSP_STAT_SPARE_FAIL : Fld := ⟨211, 1, 0⟩
/-- R125: RSP_STAT[1:1], RO. -/
def RSP_STAT_IN_SERVICE : Fld := ⟨212, 1, 0⟩
/-- R125: RSP_STAT[0:0], RO. -/
def RSP_STAT_MIRROR_READY : Fld := ⟨213, 1, 0⟩
/-- R125: RSP_SWAPF, RO. -/
def RSP_SWAPF_FRAME : Fld := ⟨214, 32, 0⟩
/-! ### Registers of file 05 of spec/ (fabric, timer, region and image) -/

/-- R141: TMR_CFG[10:10], RW, stop-only. -/
def TMR_CFG_FREE : Fld := ⟨215, 1, 0⟩
/-- R141: TMR_CFG[8:8], RW, stop-only. -/
def TMR_CFG_COMMIT_AT : Fld := ⟨216, 1, 0⟩
/-- R141: TMR_CFG[4:4], RW, stop-only. -/
def TMR_CFG_ONESHOT : Fld := ⟨217, 1, 0⟩
/-- R141: TMR_CFG[2:0], RW, stop-only. -/
def TMR_CFG_CLK : Fld := ⟨218, 3, 0⟩
/-- R141: TMR_CHAIN[12:8], RW, stop-only. -/
def TMR_CHAIN_MASTER : Fld := ⟨219, 5, 0⟩
/-- R141: TMR_CHAIN[5:4], RW, stop-only. -/
def TMR_CHAIN_USE : Fld := ⟨220, 2, 0⟩
/-- R141: TMR_CHAIN[1:0], RW, stop-only. -/
def TMR_CHAIN_EVSEL : Fld := ⟨221, 2, 0⟩
/-- R141: TMR_PERIOD, SH (the shadow). -/
def TMR_PERIOD_VALUE : Fld := ⟨222, 32, 0⟩
/-- R141: TMR_PERIOD, SH (in effect). -/
def TMR_PERIOD_VALUE_E : Fld := ⟨223, 32, 0⟩
/-- R141: TMR_CMP0, SH (the shadow). -/
def TMR_CMP0_VALUE : Fld := ⟨224, 32, 0⟩
/-- R141: TMR_CMP0, SH (in effect). -/
def TMR_CMP0_VALUE_E : Fld := ⟨225, 32, 0⟩
/-- R141: TMR_CMP1, SH (the shadow). -/
def TMR_CMP1_VALUE : Fld := ⟨226, 32, 0⟩
/-- R141: TMR_CMP1, SH (in effect). -/
def TMR_CMP1_VALUE_E : Fld := ⟨227, 32, 0⟩
/-- R141: TMR_CTRL[2:2], WO. -/
def TMR_CTRL_RESET : Fld := ⟨228, 1, 0⟩
/-- R141: TMR_CTRL[1:1], RW. -/
def TMR_CTRL_COMMIT_HOLD : Fld := ⟨229, 1, 0⟩
/-- R141: TMR_CTRL[0:0], WO. -/
def TMR_CTRL_COMMIT_NOW : Fld := ⟨230, 1, 0⟩
/-- R141: TMR_COUNT, RO. -/
def TMR_COUNT_COUNT : Fld := ⟨231, 32, 0⟩
/-- R141: TMR_PHASE, RW, stop-only. -/
def TMR_PHASE_COUNT : Fld := ⟨232, 32, 0⟩
/-- R141: TMR_CAP, RO. -/
def TMR_CAP_COUNT : Fld := ⟨233, 32, 0⟩
/-- R141: TMR_STAT[6:6], RO. -/
def TMR_STAT_RUNNING : Fld := ⟨234, 1, 0⟩
/-- R141: TMR_STAT[5:5], RO. -/
def TMR_STAT_OUT : Fld := ⟨235, 1, 0⟩
/-- R141: TMR_STAT[4:4], RO. -/
def TMR_STAT_DONE : Fld := ⟨236, 1, 0⟩
/-- R141: TMR_STAT[3:3], W1C. -/
def TMR_STAT_COMMIT_DONE : Fld := ⟨237, 1, 0⟩
/-- R141: TMR_STAT[2:2], RO. -/
def TMR_STAT_PEND : Fld := ⟨238, 1, 0⟩
/-- R141: TMR_STAT[1:1], W1C. -/
def TMR_STAT_CFG_REFUSED : Fld := ⟨239, 1, 0⟩
/-- R141: TMR_STAT[0:0], W1C. -/
def TMR_STAT_LATE : Fld := ⟨240, 1, 0⟩
/-- R156: FAB_CTRL[8:8], WO. -/
def FAB_CTRL_DEFAULT : Fld := ⟨241, 1, 0⟩
/-- R156: FAB_CTRL[5:4], RW. -/
def FAB_CTRL_SLOT : Fld := ⟨242, 2, 0⟩
/-- R156: FAB_CTRL[0:0], WO. -/
def FAB_CTRL_LOAD : Fld := ⟨243, 1, 0⟩
/-- R156: FAB_STAT[31:16], RO. -/
def FAB_STAT_SECTION : Fld := ⟨244, 16, 65535⟩
/-- R156: FAB_STAT[15:8], RO. -/
def FAB_STAT_WHY : Fld := ⟨245, 8, 0⟩
/-- R156: FAB_STAT[3:3], W1C. -/
def FAB_STAT_CFG_REFUSED : Fld := ⟨246, 1, 0⟩
/-- R156: FAB_STAT[2:2], W1C. -/
def FAB_STAT_LOAD_DONE : Fld := ⟨247, 1, 0⟩
/-- R156: FAB_STAT[1:1], RO. -/
def FAB_STAT_BUSY : Fld := ⟨248, 1, 0⟩
/-- R156: FAB_STAT[0:0], RO. -/
def FAB_STAT_DEFAULTED : Fld := ⟨249, 1, 0⟩
/-- R156: FAB_IMAGE, RO. -/
def FAB_IMAGE_SERIAL : Fld := ⟨250, 32, 0⟩
/-- R156: FAB_CRC, RO. -/
def FAB_CRC_CRC : Fld := ⟨251, 32, 0⟩
/-- R156: FAB_SOFT0, RW. -/
def FAB_SOFT0_LEVEL : Fld := ⟨252, 32, 0⟩
/-- R156: FAB_SOFT1, RW. -/
def FAB_SOFT1_LEVEL : Fld := ⟨253, 32, 0⟩
/-- R156: FAB_PULSE0, WO. -/
def FAB_PULSE0_PULSE : Fld := ⟨254, 32, 0⟩
/-- R156: FAB_PULSE1, WO. -/
def FAB_PULSE1_PULSE : Fld := ⟨255, 32, 0⟩
/-- R157: RGN_CTRL[1:1], WO. -/
def RGN_CTRL_START : Fld := ⟨256, 1, 0⟩
/-- R157: RGN_CTRL[0:0], WO. -/
def RGN_CTRL_STOP : Fld := ⟨257, 1, 0⟩
/-- R157: RGN_STAT[2:2], W1C. -/
def RGN_STAT_START_REFUSED : Fld := ⟨258, 1, 0⟩
/-- R157: RGN_STAT[1:0], RO. -/
def RGN_STAT_STATE : Fld := ⟨259, 2, 0⟩
/-- R157: RGN_STARTF, RO. -/
def RGN_STARTF_FRAME : Fld := ⟨260, 32, 0⟩
/-! ### Registers of file 06 of spec/ (link) -/

/-- R184: LNK_CTRL[0:0], RW. -/
def LNK_CTRL_EN : Fld := ⟨261, 1, 0⟩
/-- R184: LNK_ADDR[17:0], RW. -/
def LNK_ADDR_ADDR : Fld := ⟨262, 18, 0⟩
/-- R184: LNK_TOPO[22:16], RW. -/
def LNK_TOPO_GROUPS : Fld := ⟨263, 7, 0⟩
/-- R184: LNK_TOPO[14:8], RW. -/
def LNK_TOPO_RINGS : Fld := ⟨264, 7, 0⟩
/-- R184: LNK_TOPO[6:0], RW. -/
def LNK_TOPO_RING_SIZE : Fld := ⟨265, 7, 0⟩
/-- R184: LNK_WIN[11:0], RW. -/
def LNK_WIN_START : Fld := ⟨266, 12, 0⟩
/-- R184: LNK_SYNC[23:20], RW. -/
def LNK_SYNC_ALT_EN : Fld := ⟨267, 4, 0⟩
/-- R184: LNK_SYNC[17:0], RW. -/
def LNK_SYNC_MASTER : Fld := ⟨268, 18, 0⟩
/-- R184: LNK_DIR[8:8], RW. -/
def LNK_DIR_EN : Fld := ⟨269, 1, 0⟩
/-- R184: LNK_DIR[4:0], RW. -/
def LNK_DIR_BASE : Fld := ⟨270, 5, 0⟩
/-- R184: LNK_STAT[21:12], RO. -/
def LNK_STAT_HOPS : Fld := ⟨271, 10, 1023⟩
/-- R184: LNK_STAT[7:7], RO. -/
def LNK_STAT_TVALID : Fld := ⟨272, 1, 0⟩
/-- R184: LNK_STAT[6:5], RO. -/
def LNK_STAT_TPORT : Fld := ⟨273, 2, 0⟩
/-- R184: LNK_STAT[4:4], RO. -/
def LNK_STAT_WIN_OFF : Fld := ⟨274, 1, 0⟩
/-- R184: LNK_STAT[3:3], W1C. -/
def LNK_STAT_MBX_CLASH : Fld := ⟨275, 1, 0⟩
/-- R184: LNK_STAT[2:2], W1C. -/
def LNK_STAT_DIR_BAD : Fld := ⟨276, 1, 0⟩
/-- R184: LNK_STAT[1:1], W1C. -/
def LNK_STAT_CFG_REFUSED : Fld := ⟨277, 1, 0⟩
/-- R184: LNK_FTX, RO. -/
def LNK_FTX_COUNT : Fld := ⟨278, 32, 0⟩
/-- R184: LNK_FRX, RO. -/
def LNK_FRX_COUNT : Fld := ⟨279, 32, 0⟩
/-- R184: LNK_FMATCH, RO. -/
def LNK_FMATCH_COUNT : Fld := ⟨280, 32, 0⟩
/-- R184: LNK_FLATE, RO. -/
def LNK_FLATE_COUNT : Fld := ⟨281, 32, 0⟩
/-- R185: LNK_PCTRL[0:0], RW. -/
def LNK_PCTRL_EN : Fld := ⟨282, 1, 0⟩
/-- R185: LNK_PSTAT[8:8], RO. -/
def LNK_PSTAT_CAND : Fld := ⟨283, 1, 0⟩
/-- R185: LNK_PSTAT[6:4], RO. -/
def LNK_PSTAT_LANE_OK : Fld := ⟨284, 3, 0⟩
/-- R185: LNK_PSTAT[1:0], RO. -/
def LNK_PSTAT_STATE : Fld := ⟨285, 2, 0⟩
/-- R185: LNK_PNBR[31:31], RO. -/
def LNK_PNBR_VALID : Fld := ⟨286, 1, 0⟩
/-- R185: LNK_PNBR[21:20], RO. -/
def LNK_PNBR_PORT : Fld := ⟨287, 2, 0⟩
/-- R185: LNK_PNBR[17:0], RO. -/
def LNK_PNBR_ADDR : Fld := ⟨288, 18, 0⟩
/-- R185: LNK_PDLY, RO. -/
def LNK_PDLY_DELAY : Fld := ⟨289, 32, 0⟩
/-- R185: LNK_PTHOPS[31:31], RO. -/
def LNK_PTHOPS_VALID : Fld := ⟨290, 1, 0⟩
/-- R185: LNK_PTHOPS[9:0], RO. -/
def LNK_PTHOPS_HOPS : Fld := ⟨291, 10, 1023⟩
/-- R185: LNK_PRECON, RC. -/
def LNK_PRECON_COUNT : Fld := ⟨292, 32, 0⟩
/-- R185: LNK_PDROP, RC. -/
def LNK_PDROP_COUNT : Fld := ⟨293, 32, 0⟩
/-- R185: LNK_POVF, RC. -/
def LNK_POVF_COUNT : Fld := ⟨294, 32, 0⟩
/-- R185: LNK_PLANE[29:20], RC. -/
def LNK_PLANE_LS : Fld := ⟨295, 10, 0⟩
/-- R185: LNK_PLANE[19:10], RC. -/
def LNK_PLANE_L1 : Fld := ⟨296, 10, 0⟩
/-- R185: LNK_PLANE[9:0], RC. -/
def LNK_PLANE_L0 : Fld := ⟨297, 10, 0⟩
/-- R185: LNK_PFRAME[31:16], RO. -/
def LNK_PFRAME_RX : Fld := ⟨298, 16, 0⟩
/-- R185: LNK_PFRAME[15:0], RO. -/
def LNK_PFRAME_TX : Fld := ⟨299, 16, 0⟩
/-- R186: PUB_CFG[25:24], RW. -/
def PUB_CFG_SCOPE : Fld := ⟨300, 2, 0⟩
/-- R186: PUB_CFG[23:0], RW. -/
def PUB_CFG_TAG : Fld := ⟨301, 24, 0⟩
/-- R186: PUB_VALUE, RW. -/
def PUB_VALUE_VALUE : Fld := ⟨302, 32, 0⟩
/-- R186: PUB_PPOS[25:14], RO. -/
def PUB_PPOS_LINE : Fld := ⟨303, 12, 0⟩
/-- R186: PUB_PPOS[13:0], RO. -/
def PUB_PPOS_DOT : Fld := ⟨304, 14, 0⟩
/-- R186: PUB_STAT[1:1], W1C. -/
def PUB_STAT_CLASH : Fld := ⟨305, 1, 0⟩
/-- R186: PUB_STAT[0:0], RO. -/
def PUB_STAT_WRITTEN : Fld := ⟨306, 1, 0⟩
/-! ### Registers of file 09 of spec/ (core control block) -/

/-- R257: VEC_PC, RW. -/
def VEC_PC_PC : Fld := ⟨307, 32, 0⟩
/-- R257: REF_PC, RW. -/
def REF_PC_PC : Fld := ⟨308, 32, Config.romRefugeEntry % 2 ^ 32⟩
/-- R257: EXC_CTRL[8:8], RW. -/
def EXC_CTRL_REF_LOCK : Fld := ⟨309, 1, 0⟩
/-- R257: EXC_CTRL[1:1], RW. -/
def EXC_CTRL_PRECISE : Fld := ⟨310, 1, 0⟩
/-- R257: EXC_CTRL[0:0], RW. -/
def EXC_CTRL_IE : Fld := ⟨311, 1, 0⟩
/-- R257: EXC_STAT[31:16], RO. -/
def EXC_STAT_REFUGES : Fld := ⟨312, 16, 0⟩
/-- R257: EXC_STAT[3:3], W1C. -/
def EXC_STAT_CFG_REFUSED : Fld := ⟨313, 1, 0⟩
/-- R257: EXC_STAT[2:2], RO. -/
def EXC_STAT_FAULT_PEND : Fld := ⟨314, 1, 0⟩
/-- R257: EXC_STAT[1:1], RO. -/
def EXC_STAT_LOCKED : Fld := ⟨315, 1, 0⟩
/-- R257: EXC_STAT[0:0], RO. -/
def EXC_STAT_IN_REFUGE : Fld := ⟨316, 1, 0⟩
/-- R257: CPU_LOCK0[15:8], RO. -/
def CPU_LOCK0_DETAIL : Fld := ⟨317, 8, 0⟩
/-- R257: CPU_LOCK0[7:0], RO. -/
def CPU_LOCK0_CAUSE : Fld := ⟨318, 8, 0⟩
/-- R257: CPU_LOCK1, RO. -/
def CPU_LOCK1_PC : Fld := ⟨319, 32, 0⟩
/-- R257: CPU_LOCK2, RO. -/
def CPU_LOCK2_ADDR : Fld := ⟨320, 32, 0⟩
/-- R257: CPU_LOST[31:16], RO. -/
def CPU_LOST_FAULTS : Fld := ⟨321, 16, 0⟩
/-- R257: CPU_LOST[15:0], RO. -/
def CPU_LOST_DISP : Fld := ⟨322, 16, 0⟩
/-! ### Registers of file 10 of spec/ (event controller and core dispatch) -/

/-- R272: EVC_ACK[9:0], WO. -/
def EVC_ACK_SOURCE : Fld := ⟨323, 10, 0⟩
/-- R272: EVC_STAT[0:0], W1C. -/
def EVC_STAT_CFG_REFUSED : Fld := ⟨324, 1, 0⟩
/-- R272: EVQ_BASE[31:4], RW. -/
def EVQ_BASE_ADDR : Fld := ⟨325, 28, 0⟩
/-- R272: EVQ_SIZE[16:0], RW. -/
def EVQ_SIZE_SIZE : Fld := ⟨326, 17, 0⟩
/-- R272: EVQ_CFG[31:31], RW. -/
def EVQ_CFG_IEN : Fld := ⟨327, 1, 0⟩
/-- R272: EVQ_CFG[30:30], RW. -/
def EVQ_CFG_WAKE : Fld := ⟨328, 1, 0⟩
/-- R272: EVQ_CFG[17:16], RW. -/
def EVQ_CFG_CORE : Fld := ⟨329, 2, 0⟩
/-- R272: EVQ_CFG[11:0], RW. -/
def EVQ_CFG_HOLDOFF : Fld := ⟨330, 12, 0⟩
/-- R272: EVQ_HEAD[15:0], RW. -/
def EVQ_HEAD_INDEX : Fld := ⟨331, 16, 0⟩
/-- R272: EVQ_TAIL[16:16], RO. -/
def EVQ_TAIL_LAP : Fld := ⟨332, 1, 1⟩
/-- R272: EVQ_TAIL[15:0], RO. -/
def EVQ_TAIL_INDEX : Fld := ⟨333, 16, 0⟩
/-- R272: EVQ_STAT[3:3], RO. -/
def EVQ_STAT_ERR : Fld := ⟨334, 1, 0⟩
/-- R272: EVQ_STAT[2:2], W1C. -/
def EVQ_STAT_FULL_HIT : Fld := ⟨335, 1, 0⟩
/-- R272: EVQ_STAT[1:1], RO. -/
def EVQ_STAT_INT : Fld := ⟨336, 1, 0⟩
/-- R272: EVQ_STAT[0:0], RO. -/
def EVQ_STAT_NONEMPTY : Fld := ⟨337, 1, 0⟩
/-- R272: EVQ_HOLD[11:0], RO. -/
def EVQ_HOLD_COUNT : Fld := ⟨338, 12, 0⟩
/-- R272: EVC_CFG[31:31], RW. -/
def EVC_CFG_EN : Fld := ⟨339, 1, 0⟩
/-- R272: EVC_CFG[30:30], RW. -/
def EVC_CFG_AUTOACK : Fld := ⟨340, 1, 0⟩
/-- R272: EVC_CFG[23:8], RW. -/
def EVC_CFG_TAG : Fld := ⟨341, 16, 0⟩
/-- R272: EVC_CFG[2:0], RW. -/
def EVC_CFG_QUEUE : Fld := ⟨342, 3, 0⟩
/-- R272: EVC_ST[31:31], RO. -/
def EVC_ST_OUT : Fld := ⟨343, 1, 0⟩
/-- R272: EVC_ST[30:30], RO. -/
def EVC_ST_SAT : Fld := ⟨344, 1, 0⟩
/-- R272: EVC_ST[7:0], RO. -/
def EVC_ST_ARR : Fld := ⟨345, 8, 0⟩
/-- R273: LCD_ENT_LO, RW, stop-only. -/
def LCD_ENT_LO_W : Fld := ⟨346, 32, 0⟩
/-- R273: LCD_ENT_HI, RW, stop-only. -/
def LCD_ENT_HI_W : Fld := ⟨347, 32, 0⟩
/-- R273: LCD_POP[31:31], RC. -/
def LCD_POP_VALID : Fld := ⟨348, 1, 0⟩
/-- R273: LCD_POP[20:16], RC. -/
def LCD_POP_ENTRY : Fld := ⟨349, 5, 0⟩
/-- R273: LCD_POP[15:0], RC. -/
def LCD_POP_TAG : Fld := ⟨350, 16, 0⟩
/-- R273: LCD_STAT[11:8], RO. -/
def LCD_STAT_DEPTH : Fld := ⟨351, 4, 0⟩
/-- R273: LCD_STAT[1:1], W1C. -/
def LCD_STAT_DROPPED : Fld := ⟨352, 1, 0⟩
/-- R273: LCD_STAT[0:0], W1C, stop-only. -/
def LCD_STAT_CFG_REFUSED : Fld := ⟨353, 1, 0⟩
/-! ### Registers of file 11 of spec/ (memory controller, Rambler and DMA) -/

/-- R298: MEM_WIN[4:0], RW. -/
def MEM_WIN_BASE : Fld := ⟨354, 5, 0⟩
/-- R298: MEM_CFG[0:0], RW. -/
def MEM_CFG_AUTOREPAIR : Fld := ⟨355, 1, 0⟩
/-- R298: MEM_DISC[31:31], WO. -/
def MEM_DISC_GO : Fld := ⟨356, 1, 0⟩
/-- R298: MEM_DISC[1:0], RW. -/
def MEM_DISC_MEM : Fld := ⟨357, 2, 0⟩
/-- R298: MEM_DISC_START, RW. -/
def MEM_DISC_START_UNIT : Fld := ⟨358, 32, 0⟩
/-- R298: MEM_DISC_CNT, RW. -/
def MEM_DISC_CNT_COUNT : Fld := ⟨359, 32, 0⟩
/-- R298: MEM_STAT[2:2], W1C. -/
def MEM_STAT_CFG_REFUSED : Fld := ⟨360, 1, 0⟩
/-- R298: MEM_STAT[1:1], RO. -/
def MEM_STAT_REP_BUSY : Fld := ⟨361, 1, 0⟩
/-- R298: MEM_STAT[0:0], RO. -/
def MEM_STAT_DISC_BUSY : Fld := ⟨362, 1, 0⟩
/-- R298: MEM_CE_CNT, RC. -/
def MEM_CE_CNT_COUNT : Fld := ⟨363, 32, 0⟩
/-- R298: MEM_UE_CNT, RC. -/
def MEM_UE_CNT_COUNT : Fld := ⟨364, 32, 0⟩
/-- R298: MEM_LASTERR[3:3], RO. -/
def MEM_LASTERR_UE : Fld := ⟨365, 1, 0⟩
/-- R298: MEM_LASTERR[2:0], RO. -/
def MEM_LASTERR_MEM : Fld := ⟨366, 3, 0⟩
/-- R298: MEM_ERRADDR, RO. -/
def MEM_ERRADDR_ADDR : Fld := ⟨367, 32, 0⟩
/-- R298: MEM_ERRADDR_HI[0:0], RO. -/
def MEM_ERRADDR_HI_A32 : Fld := ⟨368, 1, 0⟩
/-- R298: MEM_REPAIR[22:0], WO. -/
def MEM_REPAIR_ROW : Fld := ⟨369, 23, 0⟩
/-- R298: MEM_REP_STAT[31:31], W1C. -/
def MEM_REP_STAT_REFUSED : Fld := ⟨370, 1, 0⟩
/-- R298: MEM_REP_STAT[22:0], RO. -/
def MEM_REP_STAT_CAND : Fld := ⟨371, 23, 0⟩
/-- R298: MEM_REP_USED[11:0], RO. -/
def MEM_REP_USED_COUNT : Fld := ⟨372, 12, 0⟩
/-- R298: MEM_INFLIGHT[31:16], RC. -/
def MEM_INFLIGHT_MAX : Fld := ⟨373, 16, 0⟩
/-- R298: MEM_INFLIGHT[11:0], RO. -/
def MEM_INFLIGHT_NOW : Fld := ⟨374, 12, 0⟩
/-- R299: RMB_CFG[15:0], RW. -/
def RMB_CFG_INTERVAL : Fld := ⟨375, 16, 0⟩
/-- R299: RMB_POS, RO. -/
def RMB_POS_POS : Fld := ⟨376, 32, 0⟩
/-- R299: RMB_PASS, RO. -/
def RMB_PASS_PASS : Fld := ⟨377, 32, 0⟩
/-- R299: RMB_STAT[31:16], RC. -/
def RMB_STAT_UE : Fld := ⟨378, 16, 0⟩
/-- R299: RMB_STAT[15:0], RC. -/
def RMB_STAT_FIXED : Fld := ⟨379, 16, 0⟩
/-- R300: DMA_STAT[26:16], RO. -/
def DMA_STAT_READS : Fld := ⟨380, 11, 0⟩
/-- R300: DMA_STAT[9:0], RO. -/
def DMA_STAT_WRITES : Fld := ⟨381, 10, 0⟩
/-- R300: DMA_BUF[6:0], RO. -/
def DMA_BUF_BLOCKS : Fld := ⟨382, 7, 0⟩
/-- R300: CH_DESC[31:5], RW. -/
def CH_DESC_ADDR : Fld := ⟨383, 27, 0⟩
/-- R300: CH_CTRL[1:1], WO. -/
def CH_CTRL_STOP : Fld := ⟨384, 1, 0⟩
/-- R300: CH_CTRL[0:0], WO. -/
def CH_CTRL_START : Fld := ⟨385, 1, 0⟩
/-- R300: CH_CFG[1:0], RW. -/
def CH_CFG_PRIO : Fld := ⟨386, 2, 0⟩
/-- R300: CH_STAT[15:8], RO. -/
def CH_STAT_ERRCODE : Fld := ⟨387, 8, 0⟩
/-- R300: CH_STAT[3:3], W1C. -/
def CH_STAT_CFG_REFUSED : Fld := ⟨388, 1, 0⟩
/-- R300: CH_STAT[2:2], W1C. -/
def CH_STAT_STOPPED : Fld := ⟨389, 1, 0⟩
/-- R300: CH_STAT[1:1], W1C. -/
def CH_STAT_ERR : Fld := ⟨390, 1, 0⟩
/-- R300: CH_STAT[0:0], RO. -/
def CH_STAT_BUSY : Fld := ⟨391, 1, 0⟩
/-- R300: CH_CUR, RO. -/
def CH_CUR_ADDR : Fld := ⟨392, 32, 0⟩
/-- R300: CH_DONE, RO. -/
def CH_DONE_BYTES : Fld := ⟨393, 32, 0⟩
/-- R300: CH_ERRADDR, RO. -/
def CH_ERRADDR_ADDR : Fld := ⟨394, 32, 0⟩
/-! ### Registers of file 12 of spec/ (Lantern) -/

/-- R326: LAN_RLL_BASE[31:3], SH (the shadow). -/
def LAN_RLL_BASE_ADDR : Fld := ⟨395, 29, 0⟩
/-- R326: LAN_RLL_BASE[31:3], SH (in effect). -/
def LAN_RLL_BASE_ADDR_E : Fld := ⟨396, 29, 0⟩
/-- R326: LAN_RLL_COUNT[12:0], SH (the shadow). -/
def LAN_RLL_COUNT_COUNT : Fld := ⟨397, 13, 0⟩
/-- R326: LAN_RLL_COUNT[12:0], SH (in effect). -/
def LAN_RLL_COUNT_COUNT_E : Fld := ⟨398, 13, 0⟩
/-- R326: LAN_STAT[31:24], RO. -/
def LAN_STAT_RLL_BAD : Fld := ⟨399, 8, 0⟩
/-- R326: LAN_STAT[3:3], W1C. -/
def LAN_STAT_RLL_LATE : Fld := ⟨400, 1, 0⟩
/-- R326: LAN_STAT[2:2], W1C. -/
def LAN_STAT_RLL_ERR : Fld := ⟨401, 1, 0⟩
/-- R326: LAN_STAT[1:1], W1C. -/
def LAN_STAT_SPR_OVER : Fld := ⟨402, 1, 0⟩
/-- R326: LAN_STAT[0:0], W1C. -/
def LAN_STAT_CFG_REFUSED : Fld := ⟨403, 1, 0⟩
/-- R326: LAN_SPR[26:16], RO. -/
def LAN_SPR_LINE : Fld := ⟨404, 11, 0⟩
/-- R326: LAN_SPR[15:0], RO. -/
def LAN_SPR_DROP : Fld := ⟨405, 16, 0⟩
/-- R326: TP_CFG[2:2], SH (the shadow). -/
def TP_CFG_DEPTH : Fld := ⟨406, 1, 0⟩
/-- R326: TP_CFG[2:2], SH (in effect). -/
def TP_CFG_DEPTH_E : Fld := ⟨407, 1, 0⟩
/-- R326: TP_CFG[1:1], SH (the shadow). -/
def TP_CFG_TSIZE : Fld := ⟨408, 1, 0⟩
/-- R326: TP_CFG[1:1], SH (in effect). -/
def TP_CFG_TSIZE_E : Fld := ⟨409, 1, 0⟩
/-- R326: TP_CFG[0:0], SH (the shadow). -/
def TP_CFG_EN : Fld := ⟨410, 1, 0⟩
/-- R326: TP_CFG[0:0], SH (in effect). -/
def TP_CFG_EN_E : Fld := ⟨411, 1, 0⟩
/-- R326: TP_MAPSZ[24:16], SH (the shadow). -/
def TP_MAPSZ_MH : Fld := ⟨412, 9, 0⟩
/-- R326: TP_MAPSZ[24:16], SH (in effect). -/
def TP_MAPSZ_MH_E : Fld := ⟨413, 9, 0⟩
/-- R326: TP_MAPSZ[8:0], SH (the shadow). -/
def TP_MAPSZ_MW : Fld := ⟨414, 9, 0⟩
/-- R326: TP_MAPSZ[8:0], SH (in effect). -/
def TP_MAPSZ_MW_E : Fld := ⟨415, 9, 0⟩
/-- R326: TP_MAP[31:2], SH (the shadow). -/
def TP_MAP_ADDR : Fld := ⟨416, 30, 0⟩
/-- R326: TP_MAP[31:2], SH (in effect). -/
def TP_MAP_ADDR_E : Fld := ⟨417, 30, 0⟩
/-- R326: TP_TILES[31:5], SH (the shadow). -/
def TP_TILES_ADDR : Fld := ⟨418, 27, 0⟩
/-- R326: TP_TILES[31:5], SH (in effect). -/
def TP_TILES_ADDR_E : Fld := ⟨419, 27, 0⟩
/-- R326: TP_SCROLL[27:16], SH (the shadow). -/
def TP_SCROLL_SY : Fld := ⟨420, 12, 0⟩
/-- R326: TP_SCROLL[27:16], SH (in effect). -/
def TP_SCROLL_SY_E : Fld := ⟨421, 12, 0⟩
/-- R326: TP_SCROLL[11:0], SH (the shadow). -/
def TP_SCROLL_SX : Fld := ⟨422, 12, 0⟩
/-- R326: TP_SCROLL[11:0], SH (in effect). -/
def TP_SCROLL_SX_E : Fld := ⟨423, 12, 0⟩
/-- R326: TP_WIN0[26:16], SH (the shadow). -/
def TP_WIN0_Y0 : Fld := ⟨424, 11, 0⟩
/-- R326: TP_WIN0[26:16], SH (in effect). -/
def TP_WIN0_Y0_E : Fld := ⟨425, 11, 0⟩
/-- R326: TP_WIN0[10:0], SH (the shadow). -/
def TP_WIN0_X0 : Fld := ⟨426, 11, 0⟩
/-- R326: TP_WIN0[10:0], SH (in effect). -/
def TP_WIN0_X0_E : Fld := ⟨427, 11, 0⟩
/-- R326: TP_WIN1[26:16], SH (the shadow). -/
def TP_WIN1_Y1 : Fld := ⟨428, 11, 1199⟩
/-- R326: TP_WIN1[26:16], SH (in effect). -/
def TP_WIN1_Y1_E : Fld := ⟨429, 11, 1199⟩
/-- R326: TP_WIN1[10:0], SH (the shadow). -/
def TP_WIN1_X1 : Fld := ⟨430, 11, 1919⟩
/-- R326: TP_WIN1[10:0], SH (in effect). -/
def TP_WIN1_X1_E : Fld := ⟨431, 11, 1919⟩
/-- R326: TRC_WIN0[26:16], SH (the shadow). -/
def TRC_WIN0_Y0 : Fld := ⟨432, 11, 0⟩
/-- R326: TRC_WIN0[26:16], SH (in effect). -/
def TRC_WIN0_Y0_E : Fld := ⟨433, 11, 0⟩
/-- R326: TRC_WIN0[10:0], SH (the shadow). -/
def TRC_WIN0_X0 : Fld := ⟨434, 11, 0⟩
/-- R326: TRC_WIN0[10:0], SH (in effect). -/
def TRC_WIN0_X0_E : Fld := ⟨435, 11, 0⟩
/-- R326: TRC_WIN1[26:16], SH (the shadow). -/
def TRC_WIN1_H : Fld := ⟨436, 11, 0⟩
/-- R326: TRC_WIN1[26:16], SH (in effect). -/
def TRC_WIN1_H_E : Fld := ⟨437, 11, 0⟩
/-- R326: TRC_WIN1[10:0], SH (the shadow). -/
def TRC_WIN1_W : Fld := ⟨438, 11, 0⟩
/-- R326: TRC_WIN1[10:0], SH (in effect). -/
def TRC_WIN1_W_E : Fld := ⟨439, 11, 0⟩
/-- R326: TRC_BG, SH (the shadow). -/
def TRC_BG_COLOUR : Fld := ⟨440, 32, 0⟩
/-- R326: TRC_BG, SH (in effect). -/
def TRC_BG_COLOUR_E : Fld := ⟨441, 32, 0⟩
/-- R326: TRC_STAT[16:16], W1C. -/
def TRC_STAT_CFG_REFUSED : Fld := ⟨442, 1, 0⟩
/-- R326: TRC_STAT[10:0], RO. -/
def TRC_STAT_COLS : Fld := ⟨443, 11, 0⟩
/-- R326: TRC_TAP[31:31], SH (the shadow). -/
def TRC_TAP_EN : Fld := ⟨444, 1, 0⟩
/-- R326: TRC_TAP[31:31], SH (in effect). -/
def TRC_TAP_EN_E : Fld := ⟨445, 1, 0⟩
/-- R326: TRC_TAP[27:16], SH (the shadow). -/
def TRC_TAP_CTX : Fld := ⟨446, 12, 0⟩
/-- R326: TRC_TAP[27:16], SH (in effect). -/
def TRC_TAP_CTX_E : Fld := ⟨447, 12, 0⟩
/-- R326: TRC_TAP[5:0], SH (the shadow). -/
def TRC_TAP_WORD : Fld := ⟨448, 6, 0⟩
/-- R326: TRC_TAP[5:0], SH (in effect). -/
def TRC_TAP_WORD_E : Fld := ⟨449, 6, 0⟩
/-- R326: TRC_SCL[31:16], SH (the shadow). -/
def TRC_SCL_GAIN : Fld := ⟨450, 16, 256⟩
/-- R326: TRC_SCL[31:16], SH (in effect). -/
def TRC_SCL_GAIN_E : Fld := ⟨451, 16, 256⟩
/-- R326: TRC_SCL[4:0], SH (the shadow). -/
def TRC_SCL_SHIFT : Fld := ⟨452, 5, 0⟩
/-- R326: TRC_SCL[4:0], SH (in effect). -/
def TRC_SCL_SHIFT_E : Fld := ⟨453, 5, 0⟩
/-- R326: TRC_ORG[11:0], SH (the shadow). -/
def TRC_ORG_ORG : Fld := ⟨454, 12, 0⟩
/-- R326: TRC_ORG[11:0], SH (in effect). -/
def TRC_ORG_ORG_E : Fld := ⟨455, 12, 0⟩
/-- R326: TRC_COL, SH (the shadow). -/
def TRC_COL_COLOUR : Fld := ⟨456, 32, 0⟩
/-- R326: TRC_COL, SH (in effect). -/
def TRC_COL_COLOUR_E : Fld := ⟨457, 32, 0⟩
/-- R326: BE_CTRL[0:0], WO. -/
def BE_CTRL_START : Fld := ⟨458, 1, 0⟩
/-- R326: BE_OP[15:12], RW. -/
def BE_OP_PAL : Fld := ⟨459, 4, 0⟩
/-- R326: BE_OP[10:8], RW. -/
def BE_OP_DFMT : Fld := ⟨460, 3, 0⟩
/-- R326: BE_OP[6:4], RW. -/
def BE_OP_SFMT : Fld := ⟨461, 3, 0⟩
/-- R326: BE_OP[3:3], RW. -/
def BE_OP_YDIR : Fld := ⟨462, 1, 0⟩
/-- R326: BE_OP[2:0], RW. -/
def BE_OP_OP : Fld := ⟨463, 3, 0⟩
/-- R326: BE_SRC, RW. -/
def BE_SRC_ADDR : Fld := ⟨464, 32, 0⟩
/-- R326: BE_SPITCH[15:0], RW. -/
def BE_SPITCH_PITCH : Fld := ⟨465, 16, 0⟩
/-- R326: BE_DST, RW. -/
def BE_DST_ADDR : Fld := ⟨466, 32, 0⟩
/-- R326: BE_DPITCH[15:0], RW. -/
def BE_DPITCH_PITCH : Fld := ⟨467, 16, 0⟩
/-- R326: BE_SIZE[28:16], RW. -/
def BE_SIZE_H : Fld := ⟨468, 13, 0⟩
/-- R326: BE_SIZE[12:0], RW. -/
def BE_SIZE_W : Fld := ⟨469, 13, 0⟩
/-- R326: BE_COLOUR, RW. -/
def BE_COLOUR_COLOUR : Fld := ⟨470, 32, 0⟩
/-- R326: BE_KEY, RW. -/
def BE_KEY_KEY : Fld := ⟨471, 32, 0⟩
/-- R326: BE_KMASK, RW. -/
def BE_KMASK_MASK : Fld := ⟨472, 32, 0⟩
/-- R326: BE_CFG[8:8], RW. -/
def BE_CFG_COMPAT : Fld := ⟨473, 1, 0⟩
/-- R326: BE_CFG[7:0], RW. -/
def BE_CFG_GAP : Fld := ⟨474, 8, 24⟩
/-- R326: BE_STAT[15:8], RO. -/
def BE_STAT_ERRCODE : Fld := ⟨475, 8, 0⟩
/-- R326: BE_STAT[2:2], W1C. -/
def BE_STAT_CFG_REFUSED : Fld := ⟨476, 1, 0⟩
/-- R326: BE_STAT[1:1], W1C. -/
def BE_STAT_ERR : Fld := ⟨477, 1, 0⟩
/-- R326: BE_STAT[0:0], RO. -/
def BE_STAT_BUSY : Fld := ⟨478, 1, 0⟩
/-- R326: BE_ROWS[12:0], RO. -/
def BE_ROWS_ROWS : Fld := ⟨479, 13, 0⟩
/-! ### Registers of file 13 of spec/ (composition, scanout, flattener and DisplayPort) -/

/-- R349: SCN_CTRL[0:0], WO. -/
def SCN_CTRL_COMMIT : Fld := ⟨480, 1, 0⟩
/-- R349: SCN_STAT[11:8], RO. -/
def SCN_STAT_REJECT_WHY : Fld := ⟨481, 4, 0⟩
/-- R349: SCN_STAT[5:5], W1C. -/
def SCN_STAT_MISMATCH : Fld := ⟨482, 1, 0⟩
/-- R349: SCN_STAT[4:4], RO. -/
def SCN_STAT_PEND : Fld := ⟨483, 1, 0⟩
/-- R349: SCN_STAT[3:3], W1C. -/
def SCN_STAT_COMMIT_DONE : Fld := ⟨484, 1, 0⟩
/-- R349: SCN_STAT[2:2], W1C. -/
def SCN_STAT_REJECT : Fld := ⟨485, 1, 0⟩
/-- R349: SCN_STAT[1:1], W1C. -/
def SCN_STAT_CFG_REFUSED : Fld := ⟨486, 1, 0⟩
/-- R349: SCN_STAT[0:0], RO. -/
def SCN_STAT_VBLANK : Fld := ⟨487, 1, 0⟩
/-- R349: SCN_MODE[8:8], SH (the shadow). -/
def SCN_MODE_FLAT_EN : Fld := ⟨488, 1, 0⟩
/-- R349: SCN_MODE[8:8], SH (in effect). -/
def SCN_MODE_FLAT_EN_E : Fld := ⟨489, 1, 0⟩
/-- R349: SCN_MODE[6:4], SH (the shadow). -/
def SCN_MODE_SPR_POS : Fld := ⟨490, 3, 4⟩
/-- R349: SCN_MODE[6:4], SH (in effect). -/
def SCN_MODE_SPR_POS_E : Fld := ⟨491, 3, 4⟩
/-- R349: SCN_MODE[2:2], SH (the shadow). -/
def SCN_MODE_VSPOL : Fld := ⟨492, 1, 0⟩
/-- R349: SCN_MODE[2:2], SH (in effect). -/
def SCN_MODE_VSPOL_E : Fld := ⟨493, 1, 0⟩
/-- R349: SCN_MODE[1:1], SH (the shadow). -/
def SCN_MODE_HSPOL : Fld := ⟨494, 1, 0⟩
/-- R349: SCN_MODE[1:1], SH (in effect). -/
def SCN_MODE_HSPOL_E : Fld := ⟨495, 1, 0⟩
/-- R349: SCN_MODE[0:0], SH (the shadow). -/
def SCN_MODE_FREERUN : Fld := ⟨496, 1, 0⟩
/-- R349: SCN_MODE[0:0], SH (in effect). -/
def SCN_MODE_FREERUN_E : Fld := ⟨497, 1, 0⟩
/-- R349: SCN_BG[23:0], SH (the shadow). -/
def SCN_BG_RGB : Fld := ⟨498, 24, 0⟩
/-- R349: SCN_BG[23:0], SH (in effect). -/
def SCN_BG_RGB_E : Fld := ⟨499, 24, 0⟩
/-- R349: SCN_HTIM0[27:16], SH (the shadow). -/
def SCN_HTIM0_HTOTAL : Fld := ⟨500, 12, 2048⟩
/-- R349: SCN_HTIM0[27:16], SH (in effect). -/
def SCN_HTIM0_HTOTAL_E : Fld := ⟨501, 12, 2048⟩
/-- R349: SCN_HTIM0[11:0], SH (the shadow). -/
def SCN_HTIM0_HACTIVE : Fld := ⟨502, 12, 1920⟩
/-- R349: SCN_HTIM0[11:0], SH (in effect). -/
def SCN_HTIM0_HACTIVE_E : Fld := ⟨503, 12, 1920⟩
/-- R349: SCN_HTIM1[27:16], SH (the shadow). -/
def SCN_HTIM1_HSW : Fld := ⟨504, 12, 32⟩
/-- R349: SCN_HTIM1[27:16], SH (in effect). -/
def SCN_HTIM1_HSW_E : Fld := ⟨505, 12, 32⟩
/-- R349: SCN_HTIM1[11:0], SH (the shadow). -/
def SCN_HTIM1_HSS : Fld := ⟨506, 12, 1968⟩
/-- R349: SCN_HTIM1[11:0], SH (in effect). -/
def SCN_HTIM1_HSS_E : Fld := ⟨507, 12, 1968⟩
/-- R349: SCN_VTIM0[27:16], SH (the shadow). -/
def SCN_VTIM0_VTOTAL : Fld := ⟨508, 12, 1250⟩
/-- R349: SCN_VTIM0[27:16], SH (in effect). -/
def SCN_VTIM0_VTOTAL_E : Fld := ⟨509, 12, 1250⟩
/-- R349: SCN_VTIM0[11:0], SH (the shadow). -/
def SCN_VTIM0_VACTIVE : Fld := ⟨510, 12, 1200⟩
/-- R349: SCN_VTIM0[11:0], SH (in effect). -/
def SCN_VTIM0_VACTIVE_E : Fld := ⟨511, 12, 1200⟩
/-- R349: SCN_VTIM1[27:16], SH (the shadow). -/
def SCN_VTIM1_VSW : Fld := ⟨512, 12, 6⟩
/-- R349: SCN_VTIM1[27:16], SH (in effect). -/
def SCN_VTIM1_VSW_E : Fld := ⟨513, 12, 6⟩
/-- R349: SCN_VTIM1[11:0], SH (the shadow). -/
def SCN_VTIM1_VSS : Fld := ⟨514, 12, 1203⟩
/-- R349: SCN_VTIM1[11:0], SH (in effect). -/
def SCN_VTIM1_VSS_E : Fld := ⟨515, 12, 1203⟩
/-- R349: SCN_FRPLL[27:16], SH (the shadow). -/
def SCN_FRPLL_M : Fld := ⟨516, 12, 125⟩
/-- R349: SCN_FRPLL[27:16], SH (in effect). -/
def SCN_FRPLL_M_E : Fld := ⟨517, 12, 125⟩
/-- R349: SCN_FRPLL[11:0], SH (the shadow). -/
def SCN_FRPLL_N : Fld := ⟨518, 12, 768⟩
/-- R349: SCN_FRPLL[11:0], SH (in effect). -/
def SCN_FRPLL_N_E : Fld := ⟨519, 12, 768⟩
/-- R349: SCN_FLAT_ADDR, SH (the shadow). -/
def SCN_FLAT_ADDR_ADDR : Fld := ⟨520, 32, 805306368⟩
/-- R349: SCN_FLAT_ADDR, SH (in effect). -/
def SCN_FLAT_ADDR_ADDR_E : Fld := ⟨521, 32, 805306368⟩
/-- R349: SCN_FLAT_PITCH[15:0], SH (the shadow). -/
def SCN_FLAT_PITCH_PITCH : Fld := ⟨522, 16, 7680⟩
/-- R349: SCN_FLAT_PITCH[15:0], SH (in effect). -/
def SCN_FLAT_PITCH_PITCH_E : Fld := ⟨523, 16, 7680⟩
/-- R349: SCN_CAP_CFG[6:4], SH (the shadow). -/
def SCN_CAP_CFG_FMT : Fld := ⟨524, 3, 3⟩
/-- R349: SCN_CAP_CFG[6:4], SH (in effect). -/
def SCN_CAP_CFG_FMT_E : Fld := ⟨525, 3, 3⟩
/-- R349: SCN_CAP_CFG[0:0], SH (the shadow). -/
def SCN_CAP_CFG_EN : Fld := ⟨526, 1, 0⟩
/-- R349: SCN_CAP_CFG[0:0], SH (in effect). -/
def SCN_CAP_CFG_EN_E : Fld := ⟨527, 1, 0⟩
/-- R349: SCN_CAP_ADDR, SH (the shadow). -/
def SCN_CAP_ADDR_ADDR : Fld := ⟨528, 32, 0⟩
/-- R349: SCN_CAP_ADDR, SH (in effect). -/
def SCN_CAP_ADDR_ADDR_E : Fld := ⟨529, 32, 0⟩
/-- R349: SCN_CAP_PITCH[15:0], SH (the shadow). -/
def SCN_CAP_PITCH_PITCH : Fld := ⟨530, 16, 0⟩
/-- R349: SCN_CAP_PITCH[15:0], SH (in effect). -/
def SCN_CAP_PITCH_PITCH_E : Fld := ⟨531, 16, 0⟩
/-- R349: SCN_OUT[13:12], SH (the shadow). -/
def SCN_OUT_DP_RATE : Fld := ⟨532, 2, 2⟩
/-- R349: SCN_OUT[13:12], SH (in effect). -/
def SCN_OUT_DP_RATE_E : Fld := ⟨533, 2, 2⟩
/-- R349: SCN_OUT[10:8], SH (the shadow). -/
def SCN_OUT_DP_LANES : Fld := ⟨534, 3, 4⟩
/-- R349: SCN_OUT[10:8], SH (in effect). -/
def SCN_OUT_DP_LANES_E : Fld := ⟨535, 3, 4⟩
/-- R349: SCN_OUT[4:4], SH (the shadow). -/
def SCN_OUT_DP_EN : Fld := ⟨536, 1, 0⟩
/-- R349: SCN_OUT[4:4], SH (in effect). -/
def SCN_OUT_DP_EN_E : Fld := ⟨537, 1, 0⟩
/-- R349: SCN_OUT[3:3], SH (the shadow). -/
def SCN_OUT_LVDS_18 : Fld := ⟨538, 1, 0⟩
/-- R349: SCN_OUT[3:3], SH (in effect). -/
def SCN_OUT_LVDS_18_E : Fld := ⟨539, 1, 0⟩
/-- R349: SCN_OUT[2:2], SH (the shadow). -/
def SCN_OUT_LVDS_JEIDA : Fld := ⟨540, 1, 0⟩
/-- R349: SCN_OUT[2:2], SH (in effect). -/
def SCN_OUT_LVDS_JEIDA_E : Fld := ⟨541, 1, 0⟩
/-- R349: SCN_OUT[1:1], SH (the shadow). -/
def SCN_OUT_LVDS_DUAL : Fld := ⟨542, 1, 1⟩
/-- R349: SCN_OUT[1:1], SH (in effect). -/
def SCN_OUT_LVDS_DUAL_E : Fld := ⟨543, 1, 1⟩
/-- R349: SCN_OUT[0:0], SH (the shadow). -/
def SCN_OUT_LVDS_EN : Fld := ⟨544, 1, 0⟩
/-- R349: SCN_OUT[0:0], SH (in effect). -/
def SCN_OUT_LVDS_EN_E : Fld := ⟨545, 1, 0⟩
/-- R349: SCN_UNDER[31:16], RO. -/
def SCN_UNDER_COUNT : Fld := ⟨546, 16, 0⟩
/-- R349: SCN_UNDER[10:0], RO. -/
def SCN_UNDER_FIRST : Fld := ⟨547, 11, 0⟩
/-- R349: SCN_ERR[15:0], RO. -/
def SCN_ERR_READ : Fld := ⟨548, 16, 0⟩
/-- R349: SCN_POS[31:31], RO. -/
def SCN_POS_VBLANK : Fld := ⟨549, 1, 0⟩
/-- R349: SCN_POS[26:16], RO. -/
def SCN_POS_LINE : Fld := ⟨550, 11, 0⟩
/-- R349: SCN_POS[11:0], RO. -/
def SCN_POS_PIXEL : Fld := ⟨551, 12, 0⟩
/-- R349: SCN_FRAMES, RO. -/
def SCN_FRAMES_COUNT : Fld := ⟨552, 32, 0⟩
/-- R349: SCN_CAPSTAT[15:0], RC. -/
def SCN_CAPSTAT_DROP : Fld := ⟨553, 16, 0⟩
/-- R350: FL_CTRL[0:0], WO. -/
def FL_CTRL_GO : Fld := ⟨554, 1, 0⟩
/-- R350: FL_STAT[15:8], RO. -/
def FL_STAT_ERRCODE : Fld := ⟨555, 8, 0⟩
/-- R350: FL_STAT[3:3], W1C. -/
def FL_STAT_CFG_REFUSED : Fld := ⟨556, 1, 0⟩
/-- R350: FL_STAT[1:1], W1C. -/
def FL_STAT_ERR : Fld := ⟨557, 1, 0⟩
/-- R350: FL_STAT[0:0], RO. -/
def FL_STAT_BUSY : Fld := ⟨558, 1, 0⟩
/-- R350: FL_DST[31:6], RW. -/
def FL_DST_ADDR : Fld := ⟨559, 26, 0⟩
/-- R350: FL_PITCH[15:0], RW. -/
def FL_PITCH_PITCH : Fld := ⟨560, 16, 0⟩
/-- R350: FL_SIZE[26:16], RW. -/
def FL_SIZE_H : Fld := ⟨561, 11, 0⟩
/-- R350: FL_SIZE[10:0], RW. -/
def FL_SIZE_W : Fld := ⟨562, 11, 0⟩
/-- R350: FL_BG[23:0], RW. -/
def FL_BG_RGB : Fld := ⟨563, 24, 0⟩
/-- R350: FL_ROWS[10:0], RO. -/
def FL_ROWS_ROWS : Fld := ⟨564, 11, 0⟩
/-- R350: FL_BADTILE, RO. -/
def FL_BADTILE_COUNT : Fld := ⟨565, 32, 0⟩
/-- R350: BM_CFG[23:16], RW. -/
def BM_CFG_GA : Fld := ⟨566, 8, 255⟩
/-- R350: BM_CFG[7:4], RW. -/
def BM_CFG_FMT : Fld := ⟨567, 4, 0⟩
/-- R350: BM_CFG[0:0], RW. -/
def BM_CFG_EN : Fld := ⟨568, 1, 0⟩
/-- R350: BM_ADDR, RW. -/
def BM_ADDR_ADDR : Fld := ⟨569, 32, 0⟩
/-- R350: BM_PITCH[15:0], RW. -/
def BM_PITCH_PITCH : Fld := ⟨570, 16, 0⟩
/-- R350: BM_SIZE[28:16], RW. -/
def BM_SIZE_H : Fld := ⟨571, 13, 0⟩
/-- R350: BM_SIZE[12:0], RW. -/
def BM_SIZE_W : Fld := ⟨572, 13, 0⟩
/-- R350: BM_POS[27:16], RW. -/
def BM_POS_Y : Fld := ⟨573, 12, 0⟩
/-- R350: BM_POS[11:0], RW. -/
def BM_POS_X : Fld := ⟨574, 12, 0⟩
/-- R350: BM_CTLEN, RW. -/
def BM_CTLEN_BYTES : Fld := ⟨575, 32, 0⟩
/-- R351: DP_CTRL[1:1], WO. -/
def DP_CTRL_AUX_GO : Fld := ⟨576, 1, 0⟩
/-- R351: DP_CTRL[0:0], WO. -/
def DP_CTRL_TRAIN : Fld := ⟨577, 1, 0⟩
/-- R351: DP_STAT[10:10], W1C. -/
def DP_STAT_AUX_ERR : Fld := ⟨578, 1, 0⟩
/-- R351: DP_STAT[9:9], W1C. -/
def DP_STAT_AUX_DONE : Fld := ⟨579, 1, 0⟩
/-- R351: DP_STAT[8:8], W1C. -/
def DP_STAT_LINK_LOST : Fld := ⟨580, 1, 0⟩
/-- R351: DP_STAT[1:1], RO. -/
def DP_STAT_TRAINED : Fld := ⟨581, 1, 0⟩
/-- R351: DP_STAT[0:0], RO. -/
def DP_STAT_HPD : Fld := ⟨582, 1, 0⟩
/-- R351: DP_AUX[31:28], RW. -/
def DP_AUX_CMD : Fld := ⟨583, 4, 0⟩
/-- R351: DP_AUX[27:8], RW. -/
def DP_AUX_ADDR : Fld := ⟨584, 20, 0⟩
/-- R351: DP_AUX[4:0], RW. -/
def DP_AUX_LEN : Fld := ⟨585, 5, 0⟩
/-- R351: DP_AUXDATA, RW. -/
def DP_AUXDATA_DATA : Fld := ⟨586, 32, 0⟩
/-! ### Registers of file 14 of spec/ (audio) -/

/-- R371: AUD_CTRL[0:0], RW. -/
def AUD_CTRL_EN : Fld := ⟨587, 1, 0⟩
/-- R371: AUD_STAT[4:4], W1C. -/
def AUD_STAT_PCMLATE : Fld := ⟨588, 1, 0⟩
/-- R371: AUD_STAT[3:3], W1C. -/
def AUD_STAT_CLIP : Fld := ⟨589, 1, 0⟩
/-- R371: AUD_STAT[2:2], W1C. -/
def AUD_STAT_CFG_REFUSED : Fld := ⟨590, 1, 0⟩
/-- R371: AUD_STAT[1:1], RO. -/
def AUD_STAT_RATE_OFF : Fld := ⟨591, 1, 0⟩
/-- R371: AUD_RAMP[15:0], RW. -/
def AUD_RAMP_STEP : Fld := ⟨592, 16, 0⟩
/-- R371: AUD_SAMPLE, RO. -/
def AUD_SAMPLE_COUNT : Fld := ⟨593, 32, 0⟩
/-- R371: AUD_CLIP[15:0], RC. -/
def AUD_CLIP_COUNT : Fld := ⟨594, 16, 0⟩
/-- R371: VC_CFG[31:31], RW. -/
def VC_CFG_EN : Fld := ⟨595, 1, 0⟩
/-- R371: VC_CFG[30:30], RW. -/
def VC_CFG_LOOP : Fld := ⟨596, 1, 0⟩
/-- R371: VC_CFG[2:0], RW. -/
def VC_CFG_WAVE : Fld := ⟨597, 3, 0⟩
/-- R371: VC_FREQ, RW. -/
def VC_FREQ_FREQ : Fld := ⟨598, 32, 0⟩
/-- R371: VC_AMP[15:0], RW. -/
def VC_AMP_AMP : Fld := ⟨599, 16, 0⟩
/-- R371: VC_DUTY[15:0], RW. -/
def VC_DUTY_DUTY : Fld := ⟨600, 16, 0⟩
/-- R371: VC_WT, RW. -/
def VC_WT_STEPS : Fld := ⟨601, 32, 0⟩
/-- R371: VC_PCM_ADDR[31:1], RW. -/
def VC_PCM_ADDR_ADDR : Fld := ⟨602, 31, 0⟩
/-- R371: VC_PCM_LEN[24:0], RW. -/
def VC_PCM_LEN_LEN : Fld := ⟨603, 25, 0⟩
/-- R371: VC_PCM_LOOP[23:0], RW. -/
def VC_PCM_LOOP_START : Fld := ⟨604, 24, 0⟩
/-- R371: VC_STAT[31:8], RO. -/
def VC_STAT_POS : Fld := ⟨605, 24, 0⟩
/-- R371: VC_STAT[2:2], W1C. -/
def VC_STAT_ERR : Fld := ⟨606, 1, 0⟩
/-- R371: VC_STAT[1:1], W1C. -/
def VC_STAT_ENDED : Fld := ⟨607, 1, 0⟩
/-- R371: VC_STAT[0:0], RO. -/
def VC_STAT_ACTIVE : Fld := ⟨608, 1, 0⟩
/-- R371: TDM_CFG[1:0], RW. -/
def TDM_CFG_MODE : Fld := ⟨609, 2, 0⟩
/-- R371: TDM_STAT[11:8], RO. -/
def TDM_STAT_SLOTS : Fld := ⟨610, 4, 8⟩
/-- R371: TDM_STAT[3:3], W1C. -/
def TDM_STAT_ASRC_LOST : Fld := ⟨611, 1, 0⟩
/-- R371: TDM_STAT[2:2], RO. -/
def TDM_STAT_LOCKED : Fld := ⟨612, 1, 0⟩
/-- R371: TDM_RATIO, RO. -/
def TDM_RATIO_RATIO : Fld := ⟨613, 32, 0⟩
/-- R371: TAP_CFG[31:31], RW. -/
def TAP_CFG_EN : Fld := ⟨614, 1, 0⟩
/-- R371: TAP_CFG[30:30], RW. -/
def TAP_CFG_TYPE : Fld := ⟨615, 1, 0⟩
/-- R371: TAP_CFG[28:24], RW. -/
def TAP_CFG_SHIFT : Fld := ⟨616, 5, 0⟩
/-- R371: TAP_CFG[23:12], RW. -/
def TAP_CFG_CTX : Fld := ⟨617, 12, 0⟩
/-- R371: TAP_CFG[5:0], RW. -/
def TAP_CFG_WORD : Fld := ⟨618, 6, 0⟩
/-- R371: TAP_VAL[23:0], RO. -/
def TAP_VAL_SAMPLE : Fld := ⟨619, 24, 0⟩
/-- R371: BQ_B0, SH (the shadow). -/
def BQ_B0_COEF : Fld := ⟨620, 32, 1073741824⟩
/-- R371: BQ_B0, SH (in effect). -/
def BQ_B0_COEF_E : Fld := ⟨621, 32, 1073741824⟩
/-- R371: BQ_B1, SH (the shadow). -/
def BQ_B1_COEF : Fld := ⟨622, 32, 0⟩
/-- R371: BQ_B1, SH (in effect). -/
def BQ_B1_COEF_E : Fld := ⟨623, 32, 0⟩
/-- R371: BQ_B2, SH (the shadow). -/
def BQ_B2_COEF : Fld := ⟨624, 32, 0⟩
/-- R371: BQ_B2, SH (in effect). -/
def BQ_B2_COEF_E : Fld := ⟨625, 32, 0⟩
/-- R371: BQ_A1, SH (the shadow). -/
def BQ_A1_COEF : Fld := ⟨626, 32, 0⟩
/-- R371: BQ_A1, SH (in effect). -/
def BQ_A1_COEF_E : Fld := ⟨627, 32, 0⟩
/-- R371: BQ_A2, SH (the shadow). -/
def BQ_A2_COEF : Fld := ⟨628, 32, 0⟩
/-- R371: BQ_A2, SH (in effect). -/
def BQ_A2_COEF_E : Fld := ⟨629, 32, 0⟩
/-- R371: IN_CTRL[1:1], WO. -/
def IN_CTRL_CLEAR : Fld := ⟨630, 1, 0⟩
/-- R371: IN_CTRL[0:0], WO. -/
def IN_CTRL_COMMIT : Fld := ⟨631, 1, 0⟩
/-- R371: IN_VAL[23:0], RO. -/
def IN_VAL_SAMPLE : Fld := ⟨632, 24, 0⟩
/-- R371: XP_NODE[15:8], RO. -/
def XP_NODE_CURRENT : Fld := ⟨633, 8, 0⟩
/-- R371: XP_NODE[7:0], RW. -/
def XP_NODE_TARGET : Fld := ⟨634, 8, 0⟩
/-- R371: MTR_CFG[31:31], RW. -/
def MTR_CFG_THR_EN : Fld := ⟨635, 1, 0⟩
/-- R371: MTR_CFG[30:30], RW. -/
def MTR_CFG_SEL : Fld := ⟨636, 1, 0⟩
/-- R371: MTR_CFG[29:29], RW. -/
def MTR_CFG_SOFT_EN : Fld := ⟨637, 1, 0⟩
/-- R371: MTR_CFG[28:24], RW. -/
def MTR_CFG_DECAY : Fld := ⟨638, 5, 0⟩
/-- R371: MTR_CFG[23:20], RW. -/
def MTR_CFG_EVT : Fld := ⟨639, 4, 0⟩
/-- R371: MTR_CFG[19:14], RW. -/
def MTR_CFG_SOFT : Fld := ⟨640, 6, 0⟩
/-- R371: MTR_CFG[12:8], RW. -/
def MTR_CFG_TAU : Fld := ⟨641, 5, 0⟩
/-- R371: MTR_CFG[7:0], RW. -/
def MTR_CFG_HOLD : Fld := ⟨642, 8, 0⟩
/-- R371: MTR_THR[31:16], RW. -/
def MTR_THR_HI : Fld := ⟨643, 16, 0⟩
/-- R371: MTR_THR[15:0], RW. -/
def MTR_THR_LO : Fld := ⟨644, 16, 0⟩
/-- R371: MTR_PEAK[23:0], RO. -/
def MTR_PEAK_PEAK : Fld := ⟨645, 24, 0⟩
/-- R371: MTR_MAXPK[23:0], RC. -/
def MTR_MAXPK_MAXPK : Fld := ⟨646, 24, 0⟩
/-- R371: MTR_MS, RO. -/
def MTR_MS_MS : Fld := ⟨647, 32, 0⟩
/-- R371: MTR_RMS[15:0], RO. -/
def MTR_RMS_RMS : Fld := ⟨648, 16, 0⟩
/-- R371: MTR_STAT[0:0], RO. -/
def MTR_STAT_ABOVE : Fld := ⟨649, 1, 0⟩
/-! ### Registers of file 15 of spec/ (fault collector) -/

/-- R390: FLT_SUM_LO, RO. -/
def FLT_SUM_LO_SUM : Fld := ⟨650, 32, 0⟩
/-- R390: FLT_SUM_HI, RO. -/
def FLT_SUM_HI_SUM : Fld := ⟨651, 32, 0⟩
/-- R390: FLT_RG_LO, W1C. -/
def FLT_RG_LO_BITS : Fld := ⟨652, 32, 0⟩
/-- R390: FLT_RG_HI, W1C. -/
def FLT_RG_HI_BITS : Fld := ⟨653, 32, 0⟩
/-- R390: FLT_PKG, W1C. -/
def FLT_PKG_BITS : Fld := ⟨654, 32, 0⟩
/-- R390: FLT_CFG[31:31], RW. -/
def FLT_CFG_LOCK : Fld := ⟨655, 1, 0⟩
/-- R390: FLT_CFG[16:16], RW. -/
def FLT_CFG_STICKY : Fld := ⟨656, 1, 0⟩
/-- R390: FLT_CFG[15:0], RW. -/
def FLT_CFG_MERGE_LINES : Fld := ⟨657, 16, 0⟩
/-- R390: FLT_CTRL[2:2], RW. -/
def FLT_CTRL_ERR_FORCE : Fld := ⟨658, 1, 0⟩
/-- R390: FLT_CTRL[1:1], WO. -/
def FLT_CTRL_ERR_RELEASE : Fld := ⟨659, 1, 0⟩
/-- R390: FLT_CTRL[0:0], WO. -/
def FLT_CTRL_UNFREEZE : Fld := ⟨660, 1, 0⟩
/-- R390: FLT_ACK[5:5], WO. -/
def FLT_ACK_ALL : Fld := ⟨661, 1, 0⟩
/-- R390: FLT_ACK[4:0], WO. -/
def FLT_ACK_ENTRY : Fld := ⟨662, 5, 0⟩
/-- R390: FLT_STAT[31:16], RO. -/
def FLT_STAT_LOST : Fld := ⟨663, 16, 0⟩
/-- R390: FLT_STAT[2:2], W1C. -/
def FLT_STAT_CFG_REFUSED : Fld := ⟨664, 1, 0⟩
/-- R390: FLT_STAT[1:1], RO. -/
def FLT_STAT_ERR : Fld := ⟨665, 1, 0⟩
/-- R390: FLT_STAT[0:0], RO. -/
def FLT_STAT_FROZEN : Fld := ⟨666, 1, 0⟩
/-- R390: FLT_TRAIL[13:8], RO. -/
def FLT_TRAIL_COUNT : Fld := ⟨667, 6, 0⟩
/-- R390: FLT_TRAIL[4:0], RO. -/
def FLT_TRAIL_NEXT : Fld := ⟨668, 5, 0⟩
/-- R390: FLT_TOTAL, RO. -/
def FLT_TOTAL_COUNT : Fld := ⟨669, 32, 0⟩
/-- R390: FLT_TRAPLOST[15:0], RC. -/
def FLT_TRAPLOST_COUNT : Fld := ⟨670, 16, 0⟩
/-- R390: FLT_LASTRST[31:31], RO. -/
def FLT_LASTRST_VALID : Fld := ⟨671, 1, 0⟩
/-- R390: FLT_LASTRST[9:0], RO. -/
def FLT_LASTRST_SOURCE : Fld := ⟨672, 10, 0⟩
/-- R390: TRAIL, RO. -/
def TRAIL_W : Fld := ⟨673, 32, 0⟩
/-! ### Registers of file 16 of spec/ (storage and interfaces) -/

/-- R407: CFS_LOCK[31:22], RW. -/
def CFS_LOCK_GENERAL : Fld := ⟨674, 10, 0⟩
/-- R407: CFS_LOCK[5:5], RW. -/
def CFS_LOCK_SIGS : Fld := ⟨675, 1, 0⟩
/-- R407: CFS_LOCK[4:4], RW. -/
def CFS_LOCK_BOOT : Fld := ⟨676, 1, 0⟩
/-- R407: CFS_LOCK[3:0], RW. -/
def CFS_LOCK_SLOT : Fld := ⟨677, 4, 0⟩
/-- R407: CFS_STAT[4:0], RO. -/
def CFS_STAT_QDEPTH : Fld := ⟨678, 5, 0⟩
/-- R407: CFS_CE_CNT, RC. -/
def CFS_CE_CNT_COUNT : Fld := ⟨679, 32, 0⟩
/-- R407: CFS_UE_CNT, RC. -/
def CFS_UE_CNT_COUNT : Fld := ⟨680, 32, 0⟩
/-- R407: CFS_ERRADDR, RO. -/
def CFS_ERRADDR_ADDR : Fld := ⟨681, 32, 0⟩
/-- R408: NF_CTRL[0:0], RW. -/
def NF_CTRL_EN : Fld := ⟨682, 1, 0⟩
/-- R408: NF_GEOM[31:28], RO. -/
def NF_GEOM_TARGETS : Fld := ⟨683, 4, 0⟩
/-- R408: NF_GEOM[25:24], RO. -/
def NF_GEOM_PAGE : Fld := ⟨684, 2, 0⟩
/-- R408: NF_GEOM[23:12], RO. -/
def NF_GEOM_PPB : Fld := ⟨685, 12, 0⟩
/-- R408: NF_GEOM[11:0], RO. -/
def NF_GEOM_TMODE : Fld := ⟨686, 12, 0⟩
/-- R408: NF_CFG[31:16], RW. -/
def NF_CFG_CANTEEN : Fld := ⟨687, 16, 256⟩
/-- R408: NF_CFG[15:0], RW. -/
def NF_CFG_LOW_WATER : Fld := ⟨688, 16, 16⟩
/-- R408: NF_CFG2[15:8], RW. -/
def NF_CFG2_WL_DELTA : Fld := ⟨689, 8, 200⟩
/-- R408: NF_CFG2[6:0], RW. -/
def NF_CFG2_REFRESH_BITS : Fld := ⟨690, 7, 48⟩
/-- R408: NF_PATROL[15:0], RW. -/
def NF_PATROL_HOURS : Fld := ⟨691, 16, 168⟩
/-- R408: NF_STAT[6:6], W1C. -/
def NF_STAT_QFULL : Fld := ⟨692, 1, 0⟩
/-- R408: NF_STAT[5:5], W1C. -/
def NF_STAT_CFG_REFUSED : Fld := ⟨693, 1, 0⟩
/-- R408: NF_STAT[4:4], RO. -/
def NF_STAT_SEALED : Fld := ⟨694, 1, 0⟩
/-- R408: NF_STAT[3:3], RO. -/
def NF_STAT_LOW : Fld := ⟨695, 1, 0⟩
/-- R408: NF_STAT[2:2], RO. -/
def NF_STAT_NOVOL : Fld := ⟨696, 1, 0⟩
/-- R408: NF_STAT[1:1], RO. -/
def NF_STAT_NODEV : Fld := ⟨697, 1, 0⟩
/-- R408: NF_STAT[0:0], RO. -/
def NF_STAT_READY : Fld := ⟨698, 1, 0⟩
/-- R408: NF_CANTEEN[18:16], RO. -/
def NF_CANTEEN_RESERVE : Fld := ⟨699, 3, 0⟩
/-- R408: NF_CANTEEN[15:0], RO. -/
def NF_CANTEEN_LEFT : Fld := ⟨700, 16, 0⟩
/-- R408: NF_SECTORS, RO. -/
def NF_SECTORS_COUNT : Fld := ⟨701, 32, 0⟩
/-- R408: NF_CMD, RW. -/
def NF_CMD_WORD : Fld := ⟨702, 32, 0⟩
/-- R408: NF_PUSH[0:0], WO. -/
def NF_PUSH_GO : Fld := ⟨703, 1, 0⟩
/-- R408: NF_DONE0, RO. -/
def NF_DONE0_WORD0 : Fld := ⟨704, 32, 0⟩
/-- R408: NF_DONE1, RC. -/
def NF_DONE1_WORD1 : Fld := ⟨705, 32, 0⟩
/-- R408: NF_CORR, RC. -/
def NF_CORR_COUNT : Fld := ⟨706, 32, 0⟩
/-- R408: NF_RETRYCNT, RC. -/
def NF_RETRYCNT_COUNT : Fld := ⟨707, 32, 0⟩
/-- R408: NF_UECNT, RC. -/
def NF_UECNT_COUNT : Fld := ⟨708, 32, 0⟩
/-- R408: NF_BAD, RO. -/
def NF_BAD_COUNT : Fld := ⟨709, 32, 0⟩
/-- R408: NF_WEAR[31:16], RO. -/
def NF_WEAR_MAX : Fld := ⟨710, 16, 0⟩
/-- R408: NF_WEAR[15:0], RO. -/
def NF_WEAR_MIN : Fld := ⟨711, 16, 0⟩
/-- R408: NF_WORK[4:0], RW. -/
def NF_WORK_BASE : Fld := ⟨712, 5, 0⟩
/-- R410: ETXQ_BASE[31:5], RW. -/
def ETXQ_BASE_ADDR : Fld := ⟨713, 27, 0⟩
/-- R410: ERXQ_BASE[31:5], RW. -/
def ERXQ_BASE_ADDR : Fld := ⟨714, 27, 0⟩
/-- R410: CTXQ_BASE[31:5], RW. -/
def CTXQ_BASE_ADDR : Fld := ⟨715, 27, 0⟩
/-- R410: CRXQ_BASE[31:5], RW. -/
def CRXQ_BASE_ADDR : Fld := ⟨716, 27, 0⟩
/-- R410: ETXQ_SIZE[12:0], RW. -/
def ETXQ_SIZE_SIZE : Fld := ⟨717, 13, 0⟩
/-- R410: ERXQ_SIZE[12:0], RW. -/
def ERXQ_SIZE_SIZE : Fld := ⟨718, 13, 0⟩
/-- R410: CTXQ_SIZE[12:0], RW. -/
def CTXQ_SIZE_SIZE : Fld := ⟨719, 13, 0⟩
/-- R410: CRXQ_SIZE[12:0], RW. -/
def CRXQ_SIZE_SIZE : Fld := ⟨720, 13, 0⟩
/-- R410: ETXQ_PROD[11:0], RW. -/
def ETXQ_PROD_INDEX : Fld := ⟨721, 12, 0⟩
/-- R410: ERXQ_PROD[11:0], RW. -/
def ERXQ_PROD_INDEX : Fld := ⟨722, 12, 0⟩
/-- R410: CTXQ_PROD[11:0], RW. -/
def CTXQ_PROD_INDEX : Fld := ⟨723, 12, 0⟩
/-- R410: CRXQ_PROD[11:0], RW. -/
def CRXQ_PROD_INDEX : Fld := ⟨724, 12, 0⟩
/-- R410: ETXQ_CONS[11:0], RO. -/
def ETXQ_CONS_INDEX : Fld := ⟨725, 12, 0⟩
/-- R410: ERXQ_CONS[11:0], RO. -/
def ERXQ_CONS_INDEX : Fld := ⟨726, 12, 0⟩
/-- R410: CTXQ_CONS[11:0], RO. -/
def CTXQ_CONS_INDEX : Fld := ⟨727, 12, 0⟩
/-- R410: CRXQ_CONS[11:0], RO. -/
def CRXQ_CONS_INDEX : Fld := ⟨728, 12, 0⟩
/-- R410: ETXQ_STAT[15:8], RO. -/
def ETXQ_STAT_ERRCODE : Fld := ⟨729, 8, 0⟩
/-- R410: ETXQ_STAT[1:1], RO. -/
def ETXQ_STAT_ERR : Fld := ⟨730, 1, 0⟩
/-- R410: ETXQ_STAT[0:0], RO. -/
def ETXQ_STAT_BUSY : Fld := ⟨731, 1, 0⟩
/-- R410: ERXQ_STAT[15:8], RO. -/
def ERXQ_STAT_ERRCODE : Fld := ⟨732, 8, 0⟩
/-- R410: ERXQ_STAT[1:1], RO. -/
def ERXQ_STAT_ERR : Fld := ⟨733, 1, 0⟩
/-- R410: ERXQ_STAT[0:0], RO. -/
def ERXQ_STAT_BUSY : Fld := ⟨734, 1, 0⟩
/-- R410: CTXQ_STAT[15:8], RO. -/
def CTXQ_STAT_ERRCODE : Fld := ⟨735, 8, 0⟩
/-- R410: CTXQ_STAT[1:1], RO. -/
def CTXQ_STAT_ERR : Fld := ⟨736, 1, 0⟩
/-- R410: CTXQ_STAT[0:0], RO. -/
def CTXQ_STAT_BUSY : Fld := ⟨737, 1, 0⟩
/-- R410: CRXQ_STAT[15:8], RO. -/
def CRXQ_STAT_ERRCODE : Fld := ⟨738, 8, 0⟩
/-- R410: CRXQ_STAT[1:1], RO. -/
def CRXQ_STAT_ERR : Fld := ⟨739, 1, 0⟩
/-- R410: CRXQ_STAT[0:0], RO. -/
def CRXQ_STAT_BUSY : Fld := ⟨740, 1, 0⟩
/-- R418: ETH_CTRL[4:4], RW. -/
def ETH_CTRL_PAUSE : Fld := ⟨741, 1, 0⟩
/-- R418: ETH_CTRL[3:3], RW. -/
def ETH_CTRL_BCAST : Fld := ⟨742, 1, 0⟩
/-- R418: ETH_CTRL[2:2], RW. -/
def ETH_CTRL_PROMISC : Fld := ⟨743, 1, 0⟩
/-- R418: ETH_CTRL[1:1], RW. -/
def ETH_CTRL_MODE : Fld := ⟨744, 1, 0⟩
/-- R418: ETH_CTRL[0:0], RW. -/
def ETH_CTRL_EN : Fld := ⟨745, 1, 0⟩
/-- R418: ETH_STAT[3:3], W1C. -/
def ETH_STAT_CFG_REFUSED : Fld := ⟨746, 1, 0⟩
/-- R418: ETH_STAT[2:1], RO. -/
def ETH_STAT_SPEED : Fld := ⟨747, 2, 0⟩
/-- R418: ETH_STAT[0:0], RO. -/
def ETH_STAT_LINK : Fld := ⟨748, 1, 0⟩
/-- R418: ETH_ADDR_LO, RW. -/
def ETH_ADDR_LO_ADDR : Fld := ⟨749, 32, 0⟩
/-- R418: ETH_ADDR_HI[31:31], RW. -/
def ETH_ADDR_HI_EN : Fld := ⟨750, 1, 0⟩
/-- R418: ETH_ADDR_HI[15:0], RW. -/
def ETH_ADDR_HI_ADDR : Fld := ⟨751, 16, 0⟩
/-- R418: ETH_RXMAP[17:16], RW. -/
def ETH_RXMAP_UNTAGGED : Fld := ⟨752, 2, 0⟩
/-- R418: ETH_RXMAP[1:0], RW. -/
def ETH_RXMAP_PCP0 : Fld := ⟨753, 2, 0⟩
/-- R418: ETH_RXMAP[3:2], RW. -/
def ETH_RXMAP_PCP1 : Fld := ⟨754, 2, 0⟩
/-- R418: ETH_RXMAP[5:4], RW. -/
def ETH_RXMAP_PCP2 : Fld := ⟨755, 2, 0⟩
/-- R418: ETH_RXMAP[7:6], RW. -/
def ETH_RXMAP_PCP3 : Fld := ⟨756, 2, 0⟩
/-- R418: ETH_RXMAP[9:8], RW. -/
def ETH_RXMAP_PCP4 : Fld := ⟨757, 2, 0⟩
/-- R418: ETH_RXMAP[11:10], RW. -/
def ETH_RXMAP_PCP5 : Fld := ⟨758, 2, 0⟩
/-- R418: ETH_RXMAP[13:12], RW. -/
def ETH_RXMAP_PCP6 : Fld := ⟨759, 2, 0⟩
/-- R418: ETH_RXMAP[15:14], RW. -/
def ETH_RXMAP_PCP7 : Fld := ⟨760, 2, 0⟩
/-- R418: ETH_ETYPE[31:31], RW. -/
def ETH_ETYPE_EN : Fld := ⟨761, 1, 0⟩
/-- R418: ETH_ETYPE[17:16], RW. -/
def ETH_ETYPE_QUEUE : Fld := ⟨762, 2, 0⟩
/-- R418: ETH_ETYPE[15:0], RW. -/
def ETH_ETYPE_ETYPE : Fld := ⟨763, 16, 0⟩
/-- R418: ETH_CBS[31:31], RW. -/
def ETH_CBS_EN : Fld := ⟨764, 1, 0⟩
/-- R418: ETH_CBS[21:0], RW. -/
def ETH_CBS_IDLE : Fld := ⟨765, 22, 0⟩
/-- R418: ETH_GCL_CYCLE[11:0], SH (the shadow). -/
def ETH_GCL_CYCLE_LINES : Fld := ⟨766, 12, 0⟩
/-- R418: ETH_GCL_CYCLE[11:0], SH (in effect). -/
def ETH_GCL_CYCLE_LINES_E : Fld := ⟨767, 12, 0⟩
/-- R418: ETH_GCL_LEN[8:0], SH (the shadow). -/
def ETH_GCL_LEN_COUNT : Fld := ⟨768, 9, 0⟩
/-- R418: ETH_GCL_LEN[8:0], SH (in effect). -/
def ETH_GCL_LEN_COUNT_E : Fld := ⟨769, 9, 0⟩
/-- R418: ETH_GCL_CTRL[0:0], WO. -/
def ETH_GCL_CTRL_COMMIT : Fld := ⟨770, 1, 0⟩
/-- R418: ETH_GCL_STAT[15:8], RO. -/
def ETH_GCL_STAT_ENTRY : Fld := ⟨771, 8, 0⟩
/-- R418: ETH_GCL_STAT[0:0], RO. -/
def ETH_GCL_STAT_PEND : Fld := ⟨772, 1, 0⟩
/-- R418: ETH_RX_OK, RC. -/
def ETH_RX_OK_COUNT : Fld := ⟨773, 32, 0⟩
/-- R418: ETH_RX_FCS, RC. -/
def ETH_RX_FCS_COUNT : Fld := ⟨774, 32, 0⟩
/-- R418: ETH_RX_FILTERED, RC. -/
def ETH_RX_FILTERED_COUNT : Fld := ⟨775, 32, 0⟩
/-- R418: ETH_RX_NODESC, RC. -/
def ETH_RX_NODESC_COUNT : Fld := ⟨776, 32, 0⟩
/-- R418: ETH_RX_LEN, RC. -/
def ETH_RX_LEN_COUNT : Fld := ⟨777, 32, 0⟩
/-- R418: ETH_TX_OK, RC. -/
def ETH_TX_OK_COUNT : Fld := ⟨778, 32, 0⟩
/-- R418: ETH_TX_LATE, RC. -/
def ETH_TX_LATE_COUNT : Fld := ⟨779, 32, 0⟩
/-- R418: ETH_MDIO[31:31], WO. -/
def ETH_MDIO_GO : Fld := ⟨780, 1, 0⟩
/-- R418: ETH_MDIO[30:30], RW. -/
def ETH_MDIO_C45 : Fld := ⟨781, 1, 0⟩
/-- R418: ETH_MDIO[29:28], RW. -/
def ETH_MDIO_OP : Fld := ⟨782, 2, 0⟩
/-- R418: ETH_MDIO[27:23], RW. -/
def ETH_MDIO_PHY : Fld := ⟨783, 5, 0⟩
/-- R418: ETH_MDIO[22:18], RW. -/
def ETH_MDIO_REG : Fld := ⟨784, 5, 0⟩
/-- R418: ETH_MDIO[15:0], RW. -/
def ETH_MDIO_DATA : Fld := ⟨785, 16, 0⟩
/-- R418: ETH_MDIO_STAT[1:1], W1C. -/
def ETH_MDIO_STAT_DONE : Fld := ⟨786, 1, 0⟩
/-- R418: ETH_MDIO_STAT[0:0], RO. -/
def ETH_MDIO_STAT_BUSY : Fld := ⟨787, 1, 0⟩
/-- R418: ETH_GCL[31:24], SH (the shadow). -/
def ETH_GCL_GATES : Fld := ⟨788, 8, 0⟩
/-- R418: ETH_GCL[31:24], SH (in effect). -/
def ETH_GCL_GATES_E : Fld := ⟨789, 8, 0⟩
/-- R418: ETH_GCL[23:0], SH (the shadow). -/
def ETH_GCL_DOTS : Fld := ⟨790, 24, 0⟩
/-- R418: ETH_GCL[23:0], SH (in effect). -/
def ETH_GCL_DOTS_E : Fld := ⟨791, 24, 0⟩
/-- R423: PCIE_CTRL[5:4], RW. -/
def PCIE_CTRL_MAXWIDTH : Fld := ⟨792, 2, 2⟩
/-- R423: PCIE_CTRL[2:1], RW. -/
def PCIE_CTRL_MAXGEN : Fld := ⟨793, 2, 3⟩
/-- R423: PCIE_CTRL[0:0], RW. -/
def PCIE_CTRL_EN : Fld := ⟨794, 1, 0⟩
/-- R423: PCIE_STAT[7:7], W1C. -/
def PCIE_STAT_CFG_REFUSED : Fld := ⟨795, 1, 0⟩
/-- R423: PCIE_STAT[6:6], RO. -/
def PCIE_STAT_PERST : Fld := ⟨796, 1, 0⟩
/-- R423: PCIE_STAT[5:4], RO. -/
def PCIE_STAT_WIDTH : Fld := ⟨797, 2, 0⟩
/-- R423: PCIE_STAT[2:1], RO. -/
def PCIE_STAT_GEN : Fld := ⟨798, 2, 0⟩
/-- R423: PCIE_STAT[0:0], RO. -/
def PCIE_STAT_LINK_UP : Fld := ⟨799, 1, 0⟩
/-- R423: PCIE_ID0[31:16], RW. -/
def PCIE_ID0_DEVICE : Fld := ⟨800, 16, 0⟩
/-- R423: PCIE_ID0[15:0], RW. -/
def PCIE_ID0_VENDOR : Fld := ⟨801, 16, 0⟩
/-- R423: PCIE_ID1[31:16], RW. -/
def PCIE_ID1_SUBSYS : Fld := ⟨802, 16, 0⟩
/-- R423: PCIE_ID1[15:0], RW. -/
def PCIE_ID1_SUBVENDOR : Fld := ⟨803, 16, 0⟩
/-- R423: PCIE_ID2[23:0], RW. -/
def PCIE_ID2_CLASS : Fld := ⟨804, 24, 0⟩
/-- R423: PCIE_BAR0[4:0], RW. -/
def PCIE_BAR0_LOG2SIZE : Fld := ⟨805, 5, 0⟩
/-- R423: PCIE_CTO[15:0], RW. -/
def PCIE_CTO_MICROS : Fld := ⟨806, 16, 50⟩
/-- R423: PCIE_MSI_SEND[4:0], WO. -/
def PCIE_MSI_SEND_VECTOR : Fld := ⟨807, 5, 0⟩
/-- R423: PCIE_DB, WO. -/
def PCIE_DB_VALUE : Fld := ⟨808, 32, 0⟩
/-- R423: PCIE_REFUSED, RC. -/
def PCIE_REFUSED_COUNT : Fld := ⟨809, 32, 0⟩
/-- R423: PCIE_POISON, RC. -/
def PCIE_POISON_COUNT : Fld := ⟨810, 32, 0⟩
/-- R423: PCIE_OUTERR, RC. -/
def PCIE_OUTERR_COUNT : Fld := ⟨811, 32, 0⟩
/-- R423: PIW_OFFSET[29:12], RW. -/
def PIW_OFFSET_OFFSET : Fld := ⟨812, 18, 0⟩
/-- R423: PIW_SIZE[30:12], RW. -/
def PIW_SIZE_SIZE : Fld := ⟨813, 19, 0⟩
/-- R423: PIW_DEST[31:12], RW. -/
def PIW_DEST_ADDR : Fld := ⟨814, 20, 0⟩
/-- R423: POW_LO[31:26], RW. -/
def POW_LO_ADDR : Fld := ⟨815, 6, 0⟩
/-- R423: POW_HI, RW. -/
def POW_HI_ADDR : Fld := ⟨816, 32, 0⟩
/-- R427: CAN_CTRL[4:4], RW. -/
def CAN_CTRL_FD_EN : Fld := ⟨817, 1, 0⟩
/-- R427: CAN_CTRL[3:2], RW. -/
def CAN_CTRL_MODE : Fld := ⟨818, 2, 0⟩
/-- R427: CAN_CTRL[1:1], WO. -/
def CAN_CTRL_RECOVER : Fld := ⟨819, 1, 0⟩
/-- R427: CAN_CTRL[0:0], RW. -/
def CAN_CTRL_EN : Fld := ⟨820, 1, 0⟩
/-- R427: CAN_STAT[24:24], W1C. -/
def CAN_STAT_CFG_REFUSED : Fld := ⟨821, 1, 0⟩
/-- R427: CAN_STAT[23:16], RO. -/
def CAN_STAT_REC : Fld := ⟨822, 8, 0⟩
/-- R427: CAN_STAT[15:8], RO. -/
def CAN_STAT_TEC : Fld := ⟨823, 8, 0⟩
/-- R427: CAN_STAT[1:0], RO. -/
def CAN_STAT_STATE : Fld := ⟨824, 2, 0⟩
/-- R427: CAN_NBT[31:25], RW. -/
def CAN_NBT_SJW : Fld := ⟨825, 7, 1⟩
/-- R427: CAN_NBT[24:18], RW. -/
def CAN_NBT_TSEG2 : Fld := ⟨826, 7, 1⟩
/-- R427: CAN_NBT[17:10], RW. -/
def CAN_NBT_TSEG1 : Fld := ⟨827, 8, 1⟩
/-- R427: CAN_NBT[8:0], RW. -/
def CAN_NBT_BRP : Fld := ⟨828, 9, 0⟩
/-- R427: CAN_DBT[23:20], RW. -/
def CAN_DBT_SJW : Fld := ⟨829, 4, 1⟩
/-- R427: CAN_DBT[19:16], RW. -/
def CAN_DBT_TSEG2 : Fld := ⟨830, 4, 1⟩
/-- R427: CAN_DBT[12:8], RW. -/
def CAN_DBT_TSEG1 : Fld := ⟨831, 5, 1⟩
/-- R427: CAN_DBT[4:0], RW. -/
def CAN_DBT_BRP : Fld := ⟨832, 5, 0⟩
/-- R427: CAN_TDC[31:31], RW. -/
def CAN_TDC_EN : Fld := ⟨833, 1, 0⟩
/-- R427: CAN_TDC[6:0], RW. -/
def CAN_TDC_OFFSET : Fld := ⟨834, 7, 0⟩
/-- R427: CAN_FLT_ID[31:31], RW. -/
def CAN_FLT_ID_EN : Fld := ⟨835, 1, 0⟩
/-- R427: CAN_FLT_ID[29:29], RW. -/
def CAN_FLT_ID_IDE : Fld := ⟨836, 1, 0⟩
/-- R427: CAN_FLT_ID[28:0], RW. -/
def CAN_FLT_ID_ID : Fld := ⟨837, 29, 0⟩
/-- R427: CAN_FLT_MASK[28:0], RW. -/
def CAN_FLT_MASK_MASK : Fld := ⟨838, 29, 0⟩
/-- R431: UART_CTRL[8:8], RW. -/
def UART_CTRL_RS485 : Fld := ⟨839, 1, 0⟩
/-- R431: UART_CTRL[7:7], RW. -/
def UART_CTRL_FLOW : Fld := ⟨840, 1, 0⟩
/-- R431: UART_CTRL[6:6], RW. -/
def UART_CTRL_STOP2 : Fld := ⟨841, 1, 0⟩
/-- R431: UART_CTRL[5:3], RW. -/
def UART_CTRL_PARITY : Fld := ⟨842, 3, 0⟩
/-- R431: UART_CTRL[2:1], RW. -/
def UART_CTRL_BITS : Fld := ⟨843, 2, 3⟩
/-- R431: UART_CTRL[0:0], RW. -/
def UART_CTRL_EN : Fld := ⟨844, 1, 0⟩
/-- R431: UART_DIV[21:16], RW. -/
def UART_DIV_FRAC : Fld := ⟨845, 6, 0⟩
/-- R431: UART_DIV[15:0], RW. -/
def UART_DIV_DIV : Fld := ⟨846, 16, 1⟩
/-- R431: UART_DATA[11:11], RC. -/
def UART_DATA_BREAK : Fld := ⟨847, 1, 0⟩
/-- R431: UART_DATA[10:10], RC. -/
def UART_DATA_PARITY : Fld := ⟨848, 1, 0⟩
/-- R431: UART_DATA[9:9], RC. -/
def UART_DATA_FRAMING : Fld := ⟨849, 1, 0⟩
/-- R431: UART_DATA[8:8], RC. -/
def UART_DATA_VALID : Fld := ⟨850, 1, 0⟩
/-- R431: UART_DATA[7:0], RW. -/
def UART_DATA_CHAR : Fld := ⟨851, 8, 0⟩
/-- R431: UART_FIFO[30:24], RW. -/
def UART_FIFO_RXTHR : Fld := ⟨852, 7, 1⟩
/-- R431: UART_FIFO[22:16], RW. -/
def UART_FIFO_TXTHR : Fld := ⟨853, 7, 0⟩
/-- R431: UART_FIFO[14:8], RO. -/
def UART_FIFO_RXLVL : Fld := ⟨854, 7, 0⟩
/-- R431: UART_FIFO[6:0], RO. -/
def UART_FIFO_TXLVL : Fld := ⟨855, 7, 0⟩
/-- R431: UART_STAT[5:5], W1C. -/
def UART_STAT_TXFULL : Fld := ⟨856, 1, 0⟩
/-- R431: UART_STAT[4:4], W1C. -/
def UART_STAT_CFG_REFUSED : Fld := ⟨857, 1, 0⟩
/-- R431: UART_STAT[3:3], W1C. -/
def UART_STAT_BREAK : Fld := ⟨858, 1, 0⟩
/-- R431: UART_STAT[2:2], W1C. -/
def UART_STAT_PARITY : Fld := ⟨859, 1, 0⟩
/-- R431: UART_STAT[1:1], W1C. -/
def UART_STAT_FRAMING : Fld := ⟨860, 1, 0⟩
/-- R431: UART_STAT[0:0], W1C. -/
def UART_STAT_OVERRUN : Fld := ⟨861, 1, 0⟩
/-- R431: I2C_CTRL[2:1], RW. -/
def I2C_CTRL_SPEED : Fld := ⟨862, 2, 0⟩
/-- R431: I2C_CTRL[0:0], RW. -/
def I2C_CTRL_EN : Fld := ⟨863, 1, 0⟩
/-- R431: I2C_CMD[31:31], WO. -/
def I2C_CMD_GO : Fld := ⟨864, 1, 0⟩
/-- R431: I2C_CMD[30:30], RW. -/
def I2C_CMD_ADDR10 : Fld := ⟨865, 1, 0⟩
/-- R431: I2C_CMD[25:16], RW. -/
def I2C_CMD_ADDR : Fld := ⟨866, 10, 0⟩
/-- R431: I2C_CMD[13:8], RW. -/
def I2C_CMD_WCOUNT : Fld := ⟨867, 6, 0⟩
/-- R431: I2C_CMD[5:0], RW. -/
def I2C_CMD_RCOUNT : Fld := ⟨868, 6, 0⟩
/-- R431: I2C_STAT[13:8], RO. -/
def I2C_STAT_DONE : Fld := ⟨869, 6, 0⟩
/-- R431: I2C_STAT[5:5], W1C. -/
def I2C_STAT_CFG_REFUSED : Fld := ⟨870, 1, 0⟩
/-- R431: I2C_STAT[4:4], RO. -/
def I2C_STAT_BUSY : Fld := ⟨871, 1, 0⟩
/-- R431: I2C_STAT[2:0], RO. -/
def I2C_STAT_RESULT : Fld := ⟨872, 3, 0⟩
/-- R431: I2C_WDATA, RW. -/
def I2C_WDATA_DATA : Fld := ⟨873, 32, 0⟩
/-- R431: I2C_RDATA, RO. -/
def I2C_RDATA_DATA : Fld := ⟨874, 32, 0⟩
/-- R431: SPI_CTRL[15:8], RW. -/
def SPI_CTRL_DIV : Fld := ⟨875, 8, 1⟩
/-- R431: SPI_CTRL[7:3], RW. -/
def SPI_CTRL_WORD : Fld := ⟨876, 5, 8⟩
/-- R431: SPI_CTRL[2:2], RW. -/
def SPI_CTRL_LSBFIRST : Fld := ⟨877, 1, 0⟩
/-- R431: SPI_CTRL[0:0], RW. -/
def SPI_CTRL_EN : Fld := ⟨878, 1, 0⟩
/-- R431: SPI_MODE[1:0], RW. -/
def SPI_MODE_MODE : Fld := ⟨879, 2, 0⟩
/-- R431: SPI_XFER[31:31], WO. -/
def SPI_XFER_GO : Fld := ⟨880, 1, 0⟩
/-- R431: SPI_XFER[29:28], RW. -/
def SPI_XFER_CS : Fld := ⟨881, 2, 0⟩
/-- R431: SPI_XFER[15:0], RW. -/
def SPI_XFER_COUNT : Fld := ⟨882, 16, 0⟩
/-- R431: SPI_TX, WO. -/
def SPI_TX_WORD : Fld := ⟨883, 32, 0⟩
/-- R431: SPI_RX, RC. -/
def SPI_RX_WORD : Fld := ⟨884, 32, 0⟩
/-- R431: SPI_FIFO[30:24], RW. -/
def SPI_FIFO_RXTHR : Fld := ⟨885, 7, 1⟩
/-- R431: SPI_FIFO[22:16], RW. -/
def SPI_FIFO_TXTHR : Fld := ⟨886, 7, 0⟩
/-- R431: SPI_FIFO[14:8], RO. -/
def SPI_FIFO_RXLVL : Fld := ⟨887, 7, 0⟩
/-- R431: SPI_FIFO[6:0], RO. -/
def SPI_FIFO_TXLVL : Fld := ⟨888, 7, 0⟩
/-- R431: SPI_STAT[3:3], W1C. -/
def SPI_STAT_TXFULL : Fld := ⟨889, 1, 0⟩
/-- R431: SPI_STAT[2:2], W1C. -/
def SPI_STAT_CFG_REFUSED : Fld := ⟨890, 1, 0⟩
/-- R431: SPI_STAT[1:1], W1C. -/
def SPI_STAT_DONE : Fld := ⟨891, 1, 0⟩
/-- R431: SPI_STAT[0:0], RO. -/
def SPI_STAT_BUSY : Fld := ⟨892, 1, 0⟩
/-! ### Registers of file 17 of spec/ (power) -/

/-- R451: PWR_REQ[2:0], WO. -/
def PWR_REQ_STATE : Fld := ⟨893, 3, 0⟩
/-- R451: PWR_STAT[10:8], RO. -/
def PWR_STAT_REFUSE_WHY : Fld := ⟨894, 3, 0⟩
/-- R451: PWR_STAT[5:5], RO. -/
def PWR_STAT_WAKE_HELD : Fld := ⟨895, 1, 0⟩
/-- R451: PWR_STAT[4:4], W1C. -/
def PWR_STAT_CFG_REFUSED : Fld := ⟨896, 1, 0⟩
/-- R451: PWR_STAT[3:3], RO. -/
def PWR_STAT_BUSY : Fld := ⟨897, 1, 0⟩
/-- R451: PWR_STAT[2:0], RO. -/
def PWR_STAT_STATE : Fld := ⟨898, 3, 0⟩
/-- R451: PWR_RUNOFF[23:3], RW. -/
def PWR_RUNOFF_OFF : Fld := ⟨899, 21, 0⟩
/-- R451: PWR_DOMSTAT[23:0], RO. -/
def PWR_DOMSTAT_ON : Fld := ⟨900, 24, 0⟩
/-- R451: PWR_BUDGET[5:0], RW. -/
def PWR_BUDGET_UNITS : Fld := ⟨901, 6, 8⟩
/-- R451: PWR_WAKECFG[9:8], RW. -/
def PWR_WAKECFG_FCLASS : Fld := ⟨902, 2, 0⟩
/-- R451: PWR_WAKECFG[4:4], RW. -/
def PWR_WAKECFG_ALARM_EN : Fld := ⟨903, 1, 0⟩
/-- R451: PWR_WAKECFG[3:0], RW. -/
def PWR_WAKECFG_PIN_EN : Fld := ⟨904, 4, 0⟩
/-- R451: PWR_ALARM, RW. -/
def PWR_ALARM_FRAME : Fld := ⟨905, 32, 0⟩
/-- R451: PWR_ALARM_L[11:0], RW. -/
def PWR_ALARM_L_LINE : Fld := ⟨906, 12, 0⟩
/-- R451: PWR_RESUME, RW. -/
def PWR_RESUME_PC : Fld := ⟨907, 32, 0⟩
/-- R451: PWR_WAKE[31:28], RO. -/
def PWR_WAKE_SRC : Fld := ⟨908, 4, 0⟩
/-- R451: PWR_WAKE[25:16], RO. -/
def PWR_WAKE_INDEX : Fld := ⟨909, 10, 0⟩
/-- R451: PWR_WAKE[14:12], RO. -/
def PWR_WAKE_FROM : Fld := ⟨910, 3, 0⟩
/-- R451: PWR_WAKE[7:0], RO. -/
def PWR_WAKE_DEFERRED : Fld := ⟨911, 8, 0⟩
/-- R451: PWR_WAKE_LO[25:14], RO. -/
def PWR_WAKE_LO_LINE : Fld := ⟨912, 12, 0⟩
/-- R451: PWR_WAKE_LO[13:0], RO. -/
def PWR_WAKE_LO_DOT : Fld := ⟨913, 14, 0⟩
/-- R451: PWR_WAKE_HI, RO. -/
def PWR_WAKE_HI_FRAME : Fld := ⟨914, 32, 0⟩
/-- R451: PWR_DONE_LO[25:14], RO. -/
def PWR_DONE_LO_LINE : Fld := ⟨915, 12, 0⟩
/-- R451: PWR_DONE_LO[13:0], RO. -/
def PWR_DONE_LO_DOT : Fld := ⟨916, 14, 0⟩
/-- R451: PWR_DONE_HI, RO. -/
def PWR_DONE_HI_FRAME : Fld := ⟨917, 32, 0⟩
/-- R451: PWR_DEFER[23:0], RO. -/
def PWR_DEFER_DOMAINS : Fld := ⟨918, 24, 0⟩
/-- R451: PWR_WAKECNT, RC. -/
def PWR_WAKECNT_COUNT : Fld := ⟨919, 32, 0⟩
/-- R451: PWR_LASTERR[16:0], RO. -/
def PWR_LASTERR_WHERE : Fld := ⟨920, 17, 0⟩
/-! ### Registers of file 18 of spec/ (pads) -/

/-- R467: PAD_CFG[12:11], RW. -/
def PAD_CFG_PULL : Fld := ⟨921, 2, 1⟩
/-- R467: PAD_CFG[10:10], RW. -/
def PAD_CFG_SLEW : Fld := ⟨922, 1, 0⟩
/-- R467: PAD_CFG[9:8], RW. -/
def PAD_CFG_DRIVE : Fld := ⟨923, 2, 1⟩
/-- R467: PAD_CFG[7:0], RW. -/
def PAD_CFG_FUNC : Fld := ⟨924, 8, 0⟩
/-- R467: PAD_EFF[12:0], RO. -/
def PAD_EFF_W : Fld := ⟨925, 13, 2304⟩
/-- R467: PAD_OUT, RW. -/
def PAD_OUT_OUT : Fld := ⟨926, 32, 0⟩
/-- R467: PAD_IN, RO. -/
def PAD_IN_LEVEL : Fld := ⟨927, 32, 0⟩
/-- R467: PAD_STAT[1:1], W1C. -/
def PAD_STAT_GATE_REFUSED : Fld := ⟨928, 1, 0⟩
/-- R467: PAD_STAT[0:0], W1C. -/
def PAD_STAT_CFG_REFUSED : Fld := ⟨929, 1, 0⟩
/-- R467: PAD_REFUSED[8:8], RO. -/
def PAD_REFUSED_GATE : Fld := ⟨930, 1, 0⟩
/-- R467: PAD_REFUSED[7:0], RO. -/
def PAD_REFUSED_NUMBER : Fld := ⟨931, 8, 0⟩
/-- R467: PAD_BANK[17:17], RO. -/
def PAD_BANK_SD : Fld := ⟨932, 1, 0⟩
/-- R467: PAD_BANK[16:16], RO. -/
def PAD_BANK_G : Fld := ⟨933, 1, 0⟩
/-- R467: PAD_BANK[15:0], RO. -/
def PAD_BANK_BANK : Fld := ⟨934, 16, 0⟩
/-- R467: PAD_LEG[17:16], RO. -/
def PAD_LEG_EFF : Fld := ⟨935, 2, 0⟩
/-- R467: PAD_LEG[10:10], RW. -/
def PAD_LEG_SLEW : Fld := ⟨936, 1, 1⟩
/-- R467: PAD_LEG[9:8], RW. -/
def PAD_LEG_DRIVE : Fld := ⟨937, 2, 2⟩
/-- R467: PAD_LEG[1:0], RW. -/
def PAD_LEG_FUNC : Fld := ⟨938, 2, 0⟩
/-! ### Registers of file 19 of spec/ (identification, boot, BIST and JTAG) -/

/-- R486: ID_LO[23:0], RO. -/
def ID_LO_CLEN : Fld := ⟨939, 24, 0⟩
/-- R486: ID_HI[31:16], RO. -/
def ID_HI_PART : Fld := ⟨940, 16, 0⟩
/-- R486: ID_HI[15:8], RO. -/
def ID_HI_STEP : Fld := ⟨941, 8, 1⟩
/-- R486: ID_HI[0:0], RO. -/
def ID_HI_TSCREEN : Fld := ⟨942, 1, 0⟩
/-- R486: ID_UID_LO, RO. -/
def ID_UID_LO_UID : Fld := ⟨943, 32, 0⟩
/-- R486: ID_UID_HI, RO. -/
def ID_UID_HI_UID : Fld := ⟨944, 32, 0⟩
/-- R486: BOOT_STAT[23:16], RO. -/
def BOOT_STAT_WHY_CS : Fld := ⟨945, 8, 0⟩
/-- R486: BOOT_STAT[15:8], RO. -/
def BOOT_STAT_WHY_SPI : Fld := ⟨946, 8, 0⟩
/-- R486: BOOT_STAT[4:4], W1C. -/
def BOOT_STAT_CFG_REFUSED : Fld := ⟨947, 1, 0⟩
/-- R486: BOOT_STAT[3:2], RW. -/
def BOOT_STAT_SRC : Fld := ⟨948, 2, 0⟩
/-- R486: BOOT_STAT[1:1], RO. -/
def BOOT_STAT_HDR_OK : Fld := ⟨949, 1, 0⟩
/-- R486: BOOT_SERIAL, RW. -/
def BOOT_SERIAL_SERIAL : Fld := ⟨950, 32, 0⟩
/-- R486: CORE_START[31:31], WO. -/
def CORE_START_GO : Fld := ⟨951, 1, 0⟩
/-- R486: CORE_START[5:0], WO. -/
def CORE_START_CORE : Fld := ⟨952, 6, 0⟩
/-- R486: CORE_RUN_LO, RO. -/
def CORE_RUN_LO_RUN : Fld := ⟨953, 32, 1⟩
/-- R486: CORE_RUN_HI[19:0], RO. -/
def CORE_RUN_HI_RUN : Fld := ⟨954, 20, 0⟩
/-- R486: BOOT_SPC, RW. -/
def BOOT_SPC_PC : Fld := ⟨955, 32, 0⟩
/-- R486: BIST_CTRL[31:31], WO. -/
def BIST_CTRL_GO : Fld := ⟨956, 1, 0⟩
/-- R486: BIST_CTRL[24:24], RW. -/
def BIST_CTRL_KIND : Fld := ⟨957, 1, 0⟩
/-- R486: BIST_CTRL[5:0], RW. -/
def BIST_CTRL_TARGET : Fld := ⟨958, 6, 0⟩
/-- R486: BIST_STAT[18:16], RO. -/
def BIST_STAT_REFUSE_WHY : Fld := ⟨959, 3, 0⟩
/-- R486: BIST_STAT[10:8], RO. -/
def BIST_STAT_RESULT : Fld := ⟨960, 3, 0⟩
/-- R486: BIST_STAT[2:2], W1C. -/
def BIST_STAT_CFG_REFUSED : Fld := ⟨961, 1, 0⟩
/-- R486: BIST_STAT[1:1], W1C. -/
def BIST_STAT_DONE : Fld := ⟨962, 1, 0⟩
/-- R486: BIST_STAT[0:0], RO. -/
def BIST_STAT_BUSY : Fld := ⟨963, 1, 0⟩
/-- R486: BIST_SIG_LO, RO. -/
def BIST_SIG_LO_SIG : Fld := ⟨964, 32, 0⟩
/-- R486: BIST_SIG_HI, RO. -/
def BIST_SIG_HI_SIG : Fld := ⟨965, 32, 0⟩
/-- R486: JTAG_STAT[1:1], W1C. -/
def JTAG_STAT_REFUSED : Fld := ⟨966, 1, 0⟩
/-- R486: JTAG_STAT[0:0], RO. -/
def JTAG_STAT_ACTIVE : Fld := ⟨967, 1, 0⟩
/-! ### Registers of file 12 of spec/ (Lantern) -/

/-- R303: LAN_PAL, SH (the shadow). -/
def LAN_PAL_ARGB : Fld := ⟨968, 32, 0⟩
/-- R303: LAN_PAL, SH (in effect). -/
def LAN_PAL_ARGB_E : Fld := ⟨969, 32, 0⟩
/-- R308: SPR_W0[31:31], SH (the shadow). -/
def SPR_W0_EN : Fld := ⟨970, 1, 0⟩
/-- R308: SPR_W0[31:31], SH (in effect). -/
def SPR_W0_EN_E : Fld := ⟨971, 1, 0⟩
/-- R308: SPR_W0[27:16], SH (the shadow). -/
def SPR_W0_Y : Fld := ⟨972, 12, 0⟩
/-- R308: SPR_W0[27:16], SH (in effect). -/
def SPR_W0_Y_E : Fld := ⟨973, 12, 0⟩
/-- R308: SPR_W0[11:0], SH (the shadow). -/
def SPR_W0_X : Fld := ⟨974, 12, 0⟩
/-- R308: SPR_W0[11:0], SH (in effect). -/
def SPR_W0_X_E : Fld := ⟨975, 12, 0⟩
/-- R308: SPR_W1[27:24], SH (the shadow). -/
def SPR_W1_BANK : Fld := ⟨976, 4, 0⟩
/-- R308: SPR_W1[27:24], SH (in effect). -/
def SPR_W1_BANK_E : Fld := ⟨977, 4, 0⟩
/-- R308: SPR_W1[23:20], SH (the shadow). -/
def SPR_W1_PAL : Fld := ⟨978, 4, 0⟩
/-- R308: SPR_W1[23:20], SH (in effect). -/
def SPR_W1_PAL_E : Fld := ⟨979, 4, 0⟩
/-- R308: SPR_W1[18:18], SH (the shadow). -/
def SPR_W1_VF : Fld := ⟨980, 1, 0⟩
/-- R308: SPR_W1[18:18], SH (in effect). -/
def SPR_W1_VF_E : Fld := ⟨981, 1, 0⟩
/-- R308: SPR_W1[17:17], SH (the shadow). -/
def SPR_W1_HF : Fld := ⟨982, 1, 0⟩
/-- R308: SPR_W1[17:17], SH (in effect). -/
def SPR_W1_HF_E : Fld := ⟨983, 1, 0⟩
/-- R308: SPR_W1[16:16], SH (the shadow). -/
def SPR_W1_DEPTH : Fld := ⟨984, 1, 0⟩
/-- R308: SPR_W1[16:16], SH (in effect). -/
def SPR_W1_DEPTH_E : Fld := ⟨985, 1, 0⟩
/-- R308: SPR_W1[12:8], SH (the shadow). -/
def SPR_W1_HC : Fld := ⟨986, 5, 0⟩
/-- R308: SPR_W1[12:8], SH (in effect). -/
def SPR_W1_HC_E : Fld := ⟨987, 5, 0⟩
/-- R308: SPR_W1[4:0], SH (the shadow). -/
def SPR_W1_WC : Fld := ⟨988, 5, 0⟩
/-- R308: SPR_W1[4:0], SH (in effect). -/
def SPR_W1_WC_E : Fld := ⟨989, 5, 0⟩
/-- R308: SPR_W2[31:5], SH (the shadow). -/
def SPR_W2_ADDR : Fld := ⟨990, 27, 0⟩
/-- R308: SPR_W2[31:5], SH (in effect). -/
def SPR_W2_ADDR_E : Fld := ⟨991, 27, 0⟩
/-! ### Capability slots of register blocks (R242, R257, R300, R326, R349, R371, R408, R418, R423, R427, R486) -/

/-- R257: CAP_SEED, bits [31:0]. -/
def CAP_SEED_W0 : Fld := ⟨992, 32, 0⟩
/-- R257: CAP_SEED, bits [63:32]. -/
def CAP_SEED_W1 : Fld := ⟨993, 32, 0⟩
/-- R257: CAP_SEED, bits [95:64]. -/
def CAP_SEED_W2 : Fld := ⟨994, 32, 0⟩
/-- R257: CAP_SEED, bits [127:96]. -/
def CAP_SEED_W3 : Fld := ⟨995, 32, 0⟩
/-- R257: CAP_SEED, the tag. -/
def CAP_SEED_TAG : Fld := ⟨996, 1, 0⟩
/-- R257: the slot CAP_SEED. -/
def CAP_SEED_CAP : CapFld := ⟨CAP_SEED_W0, CAP_SEED_W1, CAP_SEED_W2, CAP_SEED_W3, CAP_SEED_TAG⟩
/-- R257: VEC_CAP, bits [31:0]. -/
def VEC_CAP_W0 : Fld := ⟨997, 32, 0⟩
/-- R257: VEC_CAP, bits [63:32]. -/
def VEC_CAP_W1 : Fld := ⟨998, 32, 0⟩
/-- R257: VEC_CAP, bits [95:64]. -/
def VEC_CAP_W2 : Fld := ⟨999, 32, 0⟩
/-- R257: VEC_CAP, bits [127:96]. -/
def VEC_CAP_W3 : Fld := ⟨1000, 32, 0⟩
/-- R257: VEC_CAP, the tag. -/
def VEC_CAP_TAG : Fld := ⟨1001, 1, 0⟩
/-- R257: the slot VEC_CAP. -/
def VEC_CAP_CAP : CapFld := ⟨VEC_CAP_W0, VEC_CAP_W1, VEC_CAP_W2, VEC_CAP_W3, VEC_CAP_TAG⟩
/-- R257: REF_CAP, bits [31:0]. -/
def REF_CAP_W0 : Fld := ⟨1002, 32, 0⟩
/-- R257: REF_CAP, bits [63:32]. -/
def REF_CAP_W1 : Fld := ⟨1003, 32, 65536⟩
/-- R257: REF_CAP, bits [95:64]. -/
def REF_CAP_W2 : Fld := ⟨1004, 32, 327680⟩
/-- R257: REF_CAP, bits [127:96]. -/
def REF_CAP_W3 : Fld := ⟨1005, 32, 0⟩
/-- R257: REF_CAP, the tag. -/
def REF_CAP_TAG : Fld := ⟨1006, 1, 1⟩
/-- R257: the slot REF_CAP. -/
def REF_CAP_CAP : CapFld := ⟨REF_CAP_W0, REF_CAP_W1, REF_CAP_W2, REF_CAP_W3, REF_CAP_TAG⟩
/-- R300: CH_QCAP, bits [31:0]. -/
def CH_QCAP_W0 : Fld := ⟨1007, 32, 0⟩
/-- R300: CH_QCAP, bits [63:32]. -/
def CH_QCAP_W1 : Fld := ⟨1008, 32, 0⟩
/-- R300: CH_QCAP, bits [95:64]. -/
def CH_QCAP_W2 : Fld := ⟨1009, 32, 0⟩
/-- R300: CH_QCAP, bits [127:96]. -/
def CH_QCAP_W3 : Fld := ⟨1010, 32, 0⟩
/-- R300: CH_QCAP, the tag. -/
def CH_QCAP_TAG : Fld := ⟨1011, 1, 0⟩
/-- R300: the slot CH_QCAP. -/
def CH_QCAP_CAP : CapFld := ⟨CH_QCAP_W0, CH_QCAP_W1, CH_QCAP_W2, CH_QCAP_W3, CH_QCAP_TAG⟩
/-- R300: CH_SCAP, bits [31:0]. -/
def CH_SCAP_W0 : Fld := ⟨1012, 32, 0⟩
/-- R300: CH_SCAP, bits [63:32]. -/
def CH_SCAP_W1 : Fld := ⟨1013, 32, 0⟩
/-- R300: CH_SCAP, bits [95:64]. -/
def CH_SCAP_W2 : Fld := ⟨1014, 32, 0⟩
/-- R300: CH_SCAP, bits [127:96]. -/
def CH_SCAP_W3 : Fld := ⟨1015, 32, 0⟩
/-- R300: CH_SCAP, the tag. -/
def CH_SCAP_TAG : Fld := ⟨1016, 1, 0⟩
/-- R300: the slot CH_SCAP. -/
def CH_SCAP_CAP : CapFld := ⟨CH_SCAP_W0, CH_SCAP_W1, CH_SCAP_W2, CH_SCAP_W3, CH_SCAP_TAG⟩
/-- R300: CH_DCAP, bits [31:0]. -/
def CH_DCAP_W0 : Fld := ⟨1017, 32, 0⟩
/-- R300: CH_DCAP, bits [63:32]. -/
def CH_DCAP_W1 : Fld := ⟨1018, 32, 0⟩
/-- R300: CH_DCAP, bits [95:64]. -/
def CH_DCAP_W2 : Fld := ⟨1019, 32, 0⟩
/-- R300: CH_DCAP, bits [127:96]. -/
def CH_DCAP_W3 : Fld := ⟨1020, 32, 0⟩
/-- R300: CH_DCAP, the tag. -/
def CH_DCAP_TAG : Fld := ⟨1021, 1, 0⟩
/-- R300: the slot CH_DCAP. -/
def CH_DCAP_CAP : CapFld := ⟨CH_DCAP_W0, CH_DCAP_W1, CH_DCAP_W2, CH_DCAP_W3, CH_DCAP_TAG⟩
/-- R326: LAN_RCAP, bits [31:0]. -/
def LAN_RCAP_W0 : Fld := ⟨1022, 32, 0⟩
/-- R326: LAN_RCAP, bits [63:32]. -/
def LAN_RCAP_W1 : Fld := ⟨1023, 32, 0⟩
/-- R326: LAN_RCAP, bits [95:64]. -/
def LAN_RCAP_W2 : Fld := ⟨1024, 32, 0⟩
/-- R326: LAN_RCAP, bits [127:96]. -/
def LAN_RCAP_W3 : Fld := ⟨1025, 32, 0⟩
/-- R326: LAN_RCAP, the tag. -/
def LAN_RCAP_TAG : Fld := ⟨1026, 1, 0⟩
/-- R326: the slot LAN_RCAP. -/
def LAN_RCAP_CAP : CapFld := ⟨LAN_RCAP_W0, LAN_RCAP_W1, LAN_RCAP_W2, LAN_RCAP_W3, LAN_RCAP_TAG⟩
/-- R326: BE_SCAP, bits [31:0]. -/
def BE_SCAP_W0 : Fld := ⟨1027, 32, 0⟩
/-- R326: BE_SCAP, bits [63:32]. -/
def BE_SCAP_W1 : Fld := ⟨1028, 32, 0⟩
/-- R326: BE_SCAP, bits [95:64]. -/
def BE_SCAP_W2 : Fld := ⟨1029, 32, 0⟩
/-- R326: BE_SCAP, bits [127:96]. -/
def BE_SCAP_W3 : Fld := ⟨1030, 32, 0⟩
/-- R326: BE_SCAP, the tag. -/
def BE_SCAP_TAG : Fld := ⟨1031, 1, 0⟩
/-- R326: the slot BE_SCAP. -/
def BE_SCAP_CAP : CapFld := ⟨BE_SCAP_W0, BE_SCAP_W1, BE_SCAP_W2, BE_SCAP_W3, BE_SCAP_TAG⟩
/-- R326: BE_DCAP, bits [31:0]. -/
def BE_DCAP_W0 : Fld := ⟨1032, 32, 0⟩
/-- R326: BE_DCAP, bits [63:32]. -/
def BE_DCAP_W1 : Fld := ⟨1033, 32, 0⟩
/-- R326: BE_DCAP, bits [95:64]. -/
def BE_DCAP_W2 : Fld := ⟨1034, 32, 0⟩
/-- R326: BE_DCAP, bits [127:96]. -/
def BE_DCAP_W3 : Fld := ⟨1035, 32, 0⟩
/-- R326: BE_DCAP, the tag. -/
def BE_DCAP_TAG : Fld := ⟨1036, 1, 0⟩
/-- R326: the slot BE_DCAP. -/
def BE_DCAP_CAP : CapFld := ⟨BE_DCAP_W0, BE_DCAP_W1, BE_DCAP_W2, BE_DCAP_W3, BE_DCAP_TAG⟩
/-- R349: SCN_RCAP, bits [31:0]. -/
def SCN_RCAP_W0 : Fld := ⟨1037, 32, 0⟩
/-- R349: SCN_RCAP, bits [63:32]. -/
def SCN_RCAP_W1 : Fld := ⟨1038, 32, 0⟩
/-- R349: SCN_RCAP, bits [95:64]. -/
def SCN_RCAP_W2 : Fld := ⟨1039, 32, 0⟩
/-- R349: SCN_RCAP, bits [127:96]. -/
def SCN_RCAP_W3 : Fld := ⟨1040, 32, 0⟩
/-- R349: SCN_RCAP, the tag. -/
def SCN_RCAP_TAG : Fld := ⟨1041, 1, 0⟩
/-- R349: the slot SCN_RCAP. -/
def SCN_RCAP_CAP : CapFld := ⟨SCN_RCAP_W0, SCN_RCAP_W1, SCN_RCAP_W2, SCN_RCAP_W3, SCN_RCAP_TAG⟩
/-- R349: SCN_WCAP, bits [31:0]. -/
def SCN_WCAP_W0 : Fld := ⟨1042, 32, 0⟩
/-- R349: SCN_WCAP, bits [63:32]. -/
def SCN_WCAP_W1 : Fld := ⟨1043, 32, 0⟩
/-- R349: SCN_WCAP, bits [95:64]. -/
def SCN_WCAP_W2 : Fld := ⟨1044, 32, 0⟩
/-- R349: SCN_WCAP, bits [127:96]. -/
def SCN_WCAP_W3 : Fld := ⟨1045, 32, 0⟩
/-- R349: SCN_WCAP, the tag. -/
def SCN_WCAP_TAG : Fld := ⟨1046, 1, 0⟩
/-- R349: the slot SCN_WCAP. -/
def SCN_WCAP_CAP : CapFld := ⟨SCN_WCAP_W0, SCN_WCAP_W1, SCN_WCAP_W2, SCN_WCAP_W3, SCN_WCAP_TAG⟩
/-- R371: AUD_RCAP, bits [31:0]. -/
def AUD_RCAP_W0 : Fld := ⟨1047, 32, 0⟩
/-- R371: AUD_RCAP, bits [63:32]. -/
def AUD_RCAP_W1 : Fld := ⟨1048, 32, 0⟩
/-- R371: AUD_RCAP, bits [95:64]. -/
def AUD_RCAP_W2 : Fld := ⟨1049, 32, 0⟩
/-- R371: AUD_RCAP, bits [127:96]. -/
def AUD_RCAP_W3 : Fld := ⟨1050, 32, 0⟩
/-- R371: AUD_RCAP, the tag. -/
def AUD_RCAP_TAG : Fld := ⟨1051, 1, 0⟩
/-- R371: the slot AUD_RCAP. -/
def AUD_RCAP_CAP : CapFld := ⟨AUD_RCAP_W0, AUD_RCAP_W1, AUD_RCAP_W2, AUD_RCAP_W3, AUD_RCAP_TAG⟩
/-- R408: NF_CAP, bits [31:0]. -/
def NF_CAP_W0 : Fld := ⟨1052, 32, 0⟩
/-- R408: NF_CAP, bits [63:32]. -/
def NF_CAP_W1 : Fld := ⟨1053, 32, 0⟩
/-- R408: NF_CAP, bits [95:64]. -/
def NF_CAP_W2 : Fld := ⟨1054, 32, 0⟩
/-- R408: NF_CAP, bits [127:96]. -/
def NF_CAP_W3 : Fld := ⟨1055, 32, 0⟩
/-- R408: NF_CAP, the tag. -/
def NF_CAP_TAG : Fld := ⟨1056, 1, 0⟩
/-- R408: the slot NF_CAP. -/
def NF_CAP_CAP : CapFld := ⟨NF_CAP_W0, NF_CAP_W1, NF_CAP_W2, NF_CAP_W3, NF_CAP_TAG⟩
/-- R418: ETH_CAP, bits [31:0]. -/
def ETH_CAP_W0 : Fld := ⟨1057, 32, 0⟩
/-- R418: ETH_CAP, bits [63:32]. -/
def ETH_CAP_W1 : Fld := ⟨1058, 32, 0⟩
/-- R418: ETH_CAP, bits [95:64]. -/
def ETH_CAP_W2 : Fld := ⟨1059, 32, 0⟩
/-- R418: ETH_CAP, bits [127:96]. -/
def ETH_CAP_W3 : Fld := ⟨1060, 32, 0⟩
/-- R418: ETH_CAP, the tag. -/
def ETH_CAP_TAG : Fld := ⟨1061, 1, 0⟩
/-- R418: the slot ETH_CAP. -/
def ETH_CAP_CAP : CapFld := ⟨ETH_CAP_W0, ETH_CAP_W1, ETH_CAP_W2, ETH_CAP_W3, ETH_CAP_TAG⟩
/-- R423: PIW_CAP, bits [31:0]. -/
def PIW_CAP_W0 : Fld := ⟨1062, 32, 0⟩
/-- R423: PIW_CAP, bits [63:32]. -/
def PIW_CAP_W1 : Fld := ⟨1063, 32, 0⟩
/-- R423: PIW_CAP, bits [95:64]. -/
def PIW_CAP_W2 : Fld := ⟨1064, 32, 0⟩
/-- R423: PIW_CAP, bits [127:96]. -/
def PIW_CAP_W3 : Fld := ⟨1065, 32, 0⟩
/-- R423: PIW_CAP, the tag. -/
def PIW_CAP_TAG : Fld := ⟨1066, 1, 0⟩
/-- R423: the slot PIW_CAP. -/
def PIW_CAP_CAP : CapFld := ⟨PIW_CAP_W0, PIW_CAP_W1, PIW_CAP_W2, PIW_CAP_W3, PIW_CAP_TAG⟩
/-- R427: CAN_CAP, bits [31:0]. -/
def CAN_CAP_W0 : Fld := ⟨1067, 32, 0⟩
/-- R427: CAN_CAP, bits [63:32]. -/
def CAN_CAP_W1 : Fld := ⟨1068, 32, 0⟩
/-- R427: CAN_CAP, bits [95:64]. -/
def CAN_CAP_W2 : Fld := ⟨1069, 32, 0⟩
/-- R427: CAN_CAP, bits [127:96]. -/
def CAN_CAP_W3 : Fld := ⟨1070, 32, 0⟩
/-- R427: CAN_CAP, the tag. -/
def CAN_CAP_TAG : Fld := ⟨1071, 1, 0⟩
/-- R427: the slot CAN_CAP. -/
def CAN_CAP_CAP : CapFld := ⟨CAN_CAP_W0, CAN_CAP_W1, CAN_CAP_W2, CAN_CAP_W3, CAN_CAP_TAG⟩
/-- R486: JTAG_CAP, bits [31:0]. -/
def JTAG_CAP_W0 : Fld := ⟨1072, 32, 0⟩
/-- R486: JTAG_CAP, bits [63:32]. -/
def JTAG_CAP_W1 : Fld := ⟨1073, 32, 0⟩
/-- R486: JTAG_CAP, bits [95:64]. -/
def JTAG_CAP_W2 : Fld := ⟨1074, 32, 0⟩
/-- R486: JTAG_CAP, bits [127:96]. -/
def JTAG_CAP_W3 : Fld := ⟨1075, 32, 0⟩
/-- R486: JTAG_CAP, the tag. -/
def JTAG_CAP_TAG : Fld := ⟨1076, 1, 0⟩
/-- R486: the slot JTAG_CAP. -/
def JTAG_CAP_CAP : CapFld := ⟨JTAG_CAP_W0, JTAG_CAP_W1, JTAG_CAP_W2, JTAG_CAP_W3, JTAG_CAP_TAG⟩

/-- The registers of file 01 of spec/ (sweep), part 1. -/
def regRows01a : List RegRow := [
  ⟨"SWP_CTRL", 0x40000000, [],
   [⟨7, .wo, false, SWP_CTRL_STEP_ARM, SWP_CTRL_STEP_ARM⟩, ⟨6, .wo, false, SWP_CTRL_GEOM_COMMIT, SWP_CTRL_GEOM_COMMIT⟩, ⟨4, .rw, false, SWP_CTRL_REF_PORT, SWP_CTRL_REF_PORT⟩, ⟨0, .rw, false, SWP_CTRL_SYNC_MODE, SWP_CTRL_SYNC_MODE⟩]⟩,
  ⟨"SWP_LINE", 0x40000004, [],
   [⟨0, .sh, false, SWP_LINE_DOTS, SWP_LINE_DOTS_E⟩]⟩,
  ⟨"SWP_FRAME", 0x40000008, [],
   [⟨0, .sh, false, SWP_FRAME_LINES, SWP_FRAME_LINES_E⟩]⟩,
  ⟨"SWP_AUDIO", 0x4000000c, [],
   [⟨0, .sh, false, SWP_AUDIO_K, SWP_AUDIO_K_E⟩]⟩,
  ⟨"SWP_DISP", 0x40000010, [],
   [⟨0, .sh, false, SWP_DISP_FRAMES, SWP_DISP_FRAMES_E⟩]⟩,
  ⟨"SWP_STATUS", 0x40000014, [],
   [⟨9, .ro, false, SWP_STATUS_REJECT_WHY, SWP_STATUS_REJECT_WHY⟩, ⟨8, .w1c, false, SWP_STATUS_GEOM_DONE, SWP_STATUS_GEOM_DONE⟩, ⟨7, .w1c, false, SWP_STATUS_GEOM_REJECT, SWP_STATUS_GEOM_REJECT⟩, ⟨6, .w1c, false, SWP_STATUS_MODE_REJECT, SWP_STATUS_MODE_REJECT⟩, ⟨5, .ro, false, SWP_STATUS_STEP_PENDING, SWP_STATUS_STEP_PENDING⟩, ⟨4, .ro, false, SWP_STATUS_PLL_LOCK, SWP_STATUS_PLL_LOCK⟩, ⟨0, .ro, false, SWP_STATUS_STATE, SWP_STATUS_STATE⟩]⟩,
  ⟨"SWP_NOW_LO", 0x40000018, [],
   [⟨14, .ro, false, SWP_NOW_LO_LINE, SWP_NOW_LO_LINE⟩, ⟨0, .ro, false, SWP_NOW_LO_DOT, SWP_NOW_LO_DOT⟩]⟩,
  ⟨"SWP_NOW_HI", 0x4000001c, [],
   [⟨0, .ro, false, SWP_NOW_HI_FRAME, SWP_NOW_HI_FRAME⟩]⟩,
  ⟨"SWP_PHASE_ERR", 0x40000020, [],
   [⟨0, .ro, false, SWP_PHASE_ERR_ERR, SWP_PHASE_ERR_ERR⟩]⟩,
  ⟨"SWP_GEOM_EFF0", 0x40000024, [],
   [⟨16, .ro, false, SWP_GEOM_EFF0_LINES, SWP_GEOM_EFF0_LINES⟩, ⟨0, .ro, false, SWP_GEOM_EFF0_DOTS, SWP_GEOM_EFF0_DOTS⟩]⟩,
  ⟨"SWP_GEOM_EFF1", 0x40000028, [],
   [⟨8, .ro, false, SWP_GEOM_EFF1_FRAMES, SWP_GEOM_EFF1_FRAMES⟩, ⟨0, .ro, false, SWP_GEOM_EFF1_K, SWP_GEOM_EFF1_K⟩]⟩]

/-- The registers of file 02 of spec/ (leg and trip), part 1. -/
def regRows02a : List RegRow := [
  ⟨"LEG_CTRL", 0x41000000, [(24, 0x1000), (6, 0x80)],
   [⟨4, .wo, false, LEG_CTRL_FORCE_TRIP, LEG_CTRL_FORCE_TRIP⟩, ⟨1, .rw, false, LEG_CTRL_COMMIT_HOLD, LEG_CTRL_COMMIT_HOLD⟩, ⟨0, .wo, false, LEG_CTRL_COMMIT_NOW, LEG_CTRL_COMMIT_NOW⟩]⟩,
  ⟨"LEG_CFG", 0x41000004, [(24, 0x1000), (6, 0x80)],
   [⟨16, .rw, true, LEG_CFG_TRIP_EN, LEG_CFG_TRIP_EN⟩, ⟨6, .rw, true, LEG_CFG_CONV, LEG_CFG_CONV⟩, ⟨4, .rw, true, LEG_CFG_SAFE, LEG_CFG_SAFE⟩, ⟨3, .rw, true, LEG_CFG_TRIP_MODE, LEG_CFG_TRIP_MODE⟩, ⟨1, .rw, true, LEG_CFG_COMMIT_AT, LEG_CFG_COMMIT_AT⟩, ⟨0, .rw, true, LEG_CFG_MODE, LEG_CFG_MODE⟩]⟩,
  ⟨"LEG_PERIOD", 0x41000008, [(24, 0x1000), (6, 0x80)],
   [⟨0, .sh, false, LEG_PERIOD_PERIOD, LEG_PERIOD_PERIOD_E⟩]⟩,
  ⟨"LEG_CMPA", 0x4100000c, [(24, 0x1000), (6, 0x80)],
   [⟨0, .sh, false, LEG_CMPA_DOTS, LEG_CMPA_DOTS_E⟩]⟩,
  ⟨"LEG_CMPB", 0x41000010, [(24, 0x1000), (6, 0x80)],
   [⟨0, .sh, false, LEG_CMPB_DOTS, LEG_CMPB_DOTS_E⟩]⟩,
  ⟨"LEG_FINE", 0x41000014, [(24, 0x1000), (6, 0x80)],
   [⟨8, .sh, false, LEG_FINE_CMPB_F, LEG_FINE_CMPB_F_E⟩, ⟨0, .sh, false, LEG_FINE_CMPA_F, LEG_FINE_CMPA_F_E⟩]⟩,
  ⟨"LEG_DT_HL", 0x41000018, [(24, 0x1000), (6, 0x80)],
   [⟨16, .sh, false, LEG_DT_HL_FINE, LEG_DT_HL_FINE_E⟩, ⟨0, .sh, false, LEG_DT_HL_DOTS, LEG_DT_HL_DOTS_E⟩]⟩,
  ⟨"LEG_DT_LH", 0x4100001c, [(24, 0x1000), (6, 0x80)],
   [⟨16, .sh, false, LEG_DT_LH_FINE, LEG_DT_LH_FINE_E⟩, ⟨0, .sh, false, LEG_DT_LH_DOTS, LEG_DT_LH_DOTS_E⟩]⟩,
  ⟨"LEG_MINP", 0x41000020, [(24, 0x1000), (6, 0x80)],
   [⟨16, .sh, false, LEG_MINP_FINE, LEG_MINP_FINE_E⟩, ⟨0, .sh, false, LEG_MINP_DOTS, LEG_MINP_DOTS_E⟩]⟩,
  ⟨"LEG_PHASE", 0x41000024, [(24, 0x1000), (6, 0x80)],
   [⟨0, .rw, true, LEG_PHASE_COUNT, LEG_PHASE_COUNT⟩]⟩,
  ⟨"LEG_STAT", 0x41000028, [(24, 0x1000), (6, 0x80)],
   [⟨16, .ro, false, LEG_STAT_TRIP_SRC, LEG_STAT_TRIP_SRC⟩, ⟨12, .ro, false, LEG_STAT_STATE, LEG_STAT_STATE⟩, ⟨8, .ro, false, LEG_STAT_REJECT_WHY, LEG_STAT_REJECT_WHY⟩, ⟨5, .ro, false, LEG_STAT_PEND, LEG_STAT_PEND⟩, ⟨4, .w1c, false, LEG_STAT_COMMIT_DONE, LEG_STAT_COMMIT_DONE⟩, ⟨3, .w1c, true, LEG_STAT_CFG_REFUSED, LEG_STAT_CFG_REFUSED⟩, ⟨2, .w1c, false, LEG_STAT_TRIPPED, LEG_STAT_TRIPPED⟩, ⟨1, .w1c, false, LEG_STAT_SHADOW_REJECT, LEG_STAT_SHADOW_REJECT⟩, ⟨0, .w1c, false, LEG_STAT_LATE, LEG_STAT_LATE⟩]⟩,
  ⟨"LEG_COUNT", 0x4100002c, [(24, 0x1000), (6, 0x80)],
   [⟨0, .ro, false, LEG_COUNT_COUNT, LEG_COUNT_COUNT⟩]⟩]

/-- The registers of file 02 of spec/ (leg and trip), part 2. -/
def regRows02b : List RegRow := [
  ⟨"LEG_PADS", 0x4100004c, [(24, 0x1000), (6, 0x80)],
   [⟨2, .ro, false, LEG_PADS_REF, LEG_PADS_REF⟩, ⟨1, .ro, false, LEG_PADS_L, LEG_PADS_L⟩, ⟨0, .ro, false, LEG_PADS_H, LEG_PADS_H⟩]⟩,
  ⟨"CLG_CFG", 0x41000300, [(24, 0x1000)],
   [⟨4, .rw, true, CLG_CFG_AUTOSTART, CLG_CFG_AUTOSTART⟩, ⟨0, .rw, true, CLG_CFG_THREE_LEVEL, CLG_CFG_THREE_LEVEL⟩]⟩,
  ⟨"CLG_CONV", 0x41000304, [(24, 0x1000)],
   [⟨14, .w1c, false, CLG_CONV_CFG_REFUSED, CLG_CONV_CFG_REFUSED⟩, ⟨12, .ro, false, CLG_CONV_WAIT, CLG_CONV_WAIT⟩, ⟨8, .ro, false, CLG_CONV_RUN, CLG_CONV_RUN⟩, ⟨4, .wo, false, CLG_CONV_STOP, CLG_CONV_STOP⟩, ⟨0, .wo, false, CLG_CONV_START, CLG_CONV_START⟩]⟩,
  ⟨"RLG_STAGGER", 0x41018000, [(4, 0x100)],
   [⟨8, .w1c, true, RLG_STAGGER_CFG_REFUSED, RLG_STAGGER_CFG_REFUSED⟩, ⟨0, .rw, true, RLG_STAGGER_LINES, RLG_STAGGER_LINES⟩]⟩,
  ⟨"LTRIP_FILT", 0x41018400, [],
   [⟨0, .rw, true, LTRIP_FILT_FILT0, LTRIP_FILT_FILT0⟩, ⟨4, .rw, true, LTRIP_FILT_FILT1, LTRIP_FILT_FILT1⟩, ⟨8, .rw, true, LTRIP_FILT_FILT2, LTRIP_FILT_FILT2⟩, ⟨12, .rw, true, LTRIP_FILT_FILT3, LTRIP_FILT_FILT3⟩, ⟨16, .rw, true, LTRIP_FILT_FILT4, LTRIP_FILT_FILT4⟩, ⟨20, .rw, true, LTRIP_FILT_FILT5, LTRIP_FILT_FILT5⟩, ⟨24, .rw, true, LTRIP_FILT_FILT6, LTRIP_FILT_FILT6⟩, ⟨28, .rw, true, LTRIP_FILT_FILT7, LTRIP_FILT_FILT7⟩]⟩,
  ⟨"LTRIP_STAT", 0x41018404, [],
   [⟨8, .w1c, false, LTRIP_STAT_CFG_REFUSED, LTRIP_STAT_CFG_REFUSED⟩, ⟨0, .ro, false, LTRIP_STAT_LEVEL, LTRIP_STAT_LEVEL⟩]⟩]

/-- The registers of file 03 of spec/ (sensing), part 1. -/
def regRows03a : List RegRow := [
  ⟨"SDF_CFG", 0x42000000, [(24, 0x1000), (16, 0x40)],
   [⟨16, .rw, true, SDF_CFG_M, SDF_CFG_M⟩, ⟨8, .rw, true, SDF_CFG_OC_N, SDF_CFG_OC_N⟩, ⟨4, .rw, true, SDF_CFG_OC_CONSEC, SDF_CFG_OC_CONSEC⟩, ⟨0, .rw, true, SDF_CFG_SKEW, SDF_CFG_SKEW⟩]⟩,
  ⟨"SDF_OC", 0x42000004, [(24, 0x1000), (16, 0x40)],
   [⟨8, .rw, false, SDF_OC_HI, SDF_OC_HI⟩, ⟨0, .rw, false, SDF_OC_LO, SDF_OC_LO⟩]⟩,
  ⟨"SDF_CYCLE", 0x42000008, [(24, 0x1000), (16, 0x40)],
   [⟨0, .rw, true, SDF_CYCLE_LINES, SDF_CYCLE_LINES⟩]⟩,
  ⟨"SDF_LAT0", 0x4200000c, [(24, 0x1000), (16, 0x40)],
   [⟨31, .rw, true, SDF_LAT0_EN, SDF_LAT0_EN⟩, ⟨14, .rw, true, SDF_LAT0_LINE, SDF_LAT0_LINE⟩, ⟨0, .rw, true, SDF_LAT0_DOT, SDF_LAT0_DOT⟩]⟩,
  ⟨"SDF_LAT1", 0x42000010, [(24, 0x1000), (16, 0x40)],
   [⟨31, .rw, true, SDF_LAT1_EN, SDF_LAT1_EN⟩, ⟨14, .rw, true, SDF_LAT1_LINE, SDF_LAT1_LINE⟩, ⟨0, .rw, true, SDF_LAT1_DOT, SDF_LAT1_DOT⟩]⟩,
  ⟨"SDF_RES0", 0x42000014, [(24, 0x1000), (16, 0x40)],
   [⟨0, .ro, false, SDF_RES0_R, SDF_RES0_R⟩]⟩,
  ⟨"SDF_RES1", 0x42000018, [(24, 0x1000), (16, 0x40)],
   [⟨0, .ro, false, SDF_RES1_R, SDF_RES1_R⟩]⟩,
  ⟨"SDF_STAT", 0x4200001c, [(24, 0x1000), (16, 0x40)],
   [⟨6, .ro, false, SDF_STAT_STALE1, SDF_STAT_STALE1⟩, ⟨5, .ro, false, SDF_STAT_STALE0, SDF_STAT_STALE0⟩, ⟨4, .ro, false, SDF_STAT_FILLING, SDF_STAT_FILLING⟩, ⟨3, .w1c, false, SDF_STAT_CFG_REFUSED, SDF_STAT_CFG_REFUSED⟩, ⟨2, .ro, false, SDF_STAT_OC_LIVE, SDF_STAT_OC_LIVE⟩, ⟨1, .w1c, false, SDF_STAT_OC_LO, SDF_STAT_OC_LO⟩, ⟨0, .w1c, false, SDF_STAT_OC_HI, SDF_STAT_OC_HI⟩]⟩,
  ⟨"SDF_COM", 0x42000400, [(24, 0x1000)],
   [⟨8, .rw, true, SDF_COM_CLK_SRC, SDF_COM_CLK_SRC⟩, ⟨3, .w1c, false, SDF_COM_CFG_REFUSED, SDF_COM_CFG_REFUSED⟩, ⟨2, .w1c, false, SDF_COM_CLK_FAST, SDF_COM_CLK_FAST⟩, ⟨1, .w1c, false, SDF_COM_CLK_LOST, SDF_COM_CLK_LOST⟩, ⟨0, .ro, false, SDF_COM_CLK_OK, SDF_COM_CLK_OK⟩]⟩,
  ⟨"QEP_CFG", 0x42000800, [(24, 0x1000), (2, 0x80)],
   [⟨12, .rw, true, QEP_CFG_MODE, QEP_CFG_MODE⟩, ⟨8, .rw, true, QEP_CFG_FILT, QEP_CFG_FILT⟩, ⟨4, .rw, true, QEP_CFG_IDX_CLEAR, QEP_CFG_IDX_CLEAR⟩, ⟨0, .rw, true, QEP_CFG_INV, QEP_CFG_INV⟩]⟩,
  ⟨"QEP_POS", 0x42000804, [(24, 0x1000), (2, 0x80)],
   [⟨0, .rw, false, QEP_POS_POS, QEP_POS_POS⟩]⟩,
  ⟨"QEP_CYCLE", 0x42000808, [(24, 0x1000), (2, 0x80)],
   [⟨0, .rw, true, QEP_CYCLE_LINES, QEP_CYCLE_LINES⟩]⟩]

/-- The registers of file 03 of spec/ (sensing), part 2. -/
def regRows03b : List RegRow := [
  ⟨"QEP_LAT0", 0x4200080c, [(24, 0x1000), (2, 0x80)],
   [⟨31, .rw, true, QEP_LAT0_EN, QEP_LAT0_EN⟩, ⟨14, .rw, true, QEP_LAT0_LINE, QEP_LAT0_LINE⟩, ⟨0, .rw, true, QEP_LAT0_DOT, QEP_LAT0_DOT⟩]⟩,
  ⟨"QEP_LAT1", 0x42000810, [(24, 0x1000), (2, 0x80)],
   [⟨31, .rw, true, QEP_LAT1_EN, QEP_LAT1_EN⟩, ⟨14, .rw, true, QEP_LAT1_LINE, QEP_LAT1_LINE⟩, ⟨0, .rw, true, QEP_LAT1_DOT, QEP_LAT1_DOT⟩]⟩,
  ⟨"QEP_RES0_POS", 0x42000814, [(24, 0x1000), (2, 0x80)],
   [⟨0, .ro, false, QEP_RES0_POS_POS, QEP_RES0_POS_POS⟩]⟩,
  ⟨"QEP_RES1_POS", 0x42000820, [(24, 0x1000), (2, 0x80)],
   [⟨0, .ro, false, QEP_RES1_POS_POS, QEP_RES1_POS_POS⟩]⟩,
  ⟨"QEP_RES0_AGE", 0x42000818, [(24, 0x1000), (2, 0x80)],
   [⟨0, .ro, false, QEP_RES0_AGE_AGE, QEP_RES0_AGE_AGE⟩]⟩,
  ⟨"QEP_RES1_AGE", 0x42000824, [(24, 0x1000), (2, 0x80)],
   [⟨0, .ro, false, QEP_RES1_AGE_AGE, QEP_RES1_AGE_AGE⟩]⟩,
  ⟨"QEP_RES0_INT", 0x4200081c, [(24, 0x1000), (2, 0x80)],
   [⟨0, .ro, false, QEP_RES0_INT_INT, QEP_RES0_INT_INT⟩]⟩,
  ⟨"QEP_RES1_INT", 0x42000828, [(24, 0x1000), (2, 0x80)],
   [⟨0, .ro, false, QEP_RES1_INT_INT, QEP_RES1_INT_INT⟩]⟩,
  ⟨"QEP_IDX_POS", 0x4200082c, [(24, 0x1000), (2, 0x80)],
   [⟨0, .ro, false, QEP_IDX_POS_POS, QEP_IDX_POS_POS⟩]⟩,
  ⟨"QEP_IDX_LO", 0x42000830, [(24, 0x1000), (2, 0x80)],
   [⟨14, .ro, false, QEP_IDX_LO_LINE, QEP_IDX_LO_LINE⟩, ⟨0, .ro, false, QEP_IDX_LO_DOT, QEP_IDX_LO_DOT⟩]⟩,
  ⟨"QEP_IDX_HI", 0x42000834, [(24, 0x1000), (2, 0x80)],
   [⟨0, .ro, false, QEP_IDX_HI_FRAME, QEP_IDX_HI_FRAME⟩]⟩,
  ⟨"QEP_STAT", 0x42000838, [(24, 0x1000), (2, 0x80)],
   [⟨3, .w1c, false, QEP_STAT_CFG_REFUSED, QEP_STAT_CFG_REFUSED⟩, ⟨2, .w1c, false, QEP_STAT_IDX_SEEN, QEP_STAT_IDX_SEEN⟩, ⟨1, .w1c, false, QEP_STAT_ERR, QEP_STAT_ERR⟩, ⟨0, .ro, false, QEP_STAT_DIR, QEP_STAT_DIR⟩]⟩]

/-- The registers of file 03 of spec/ (sensing), part 3. -/
def regRows03c : List RegRow := [
  ⟨"SAR_CYCLE", 0x43000000, [(4, 0x2000), (4, 0x200)],
   [⟨0, .rw, true, SAR_CYCLE_LINES, SAR_CYCLE_LINES⟩]⟩,
  ⟨"SAR_ENT", 0x43000040, [(4, 0x2000), (4, 0x200), (16, 0x4)],
   [⟨31, .rw, true, SAR_ENT_EN, SAR_ENT_EN⟩, ⟨26, .rw, true, SAR_ENT_AIN, SAR_ENT_AIN⟩, ⟨14, .rw, true, SAR_ENT_LINE, SAR_ENT_LINE⟩, ⟨0, .rw, true, SAR_ENT_DOT, SAR_ENT_DOT⟩]⟩,
  ⟨"SAR_RES", 0x43000080, [(4, 0x2000), (4, 0x200), (16, 0x4)],
   [⟨24, .ro, false, SAR_RES_MISSED, SAR_RES_MISSED⟩, ⟨16, .ro, false, SAR_RES_SEQ, SAR_RES_SEQ⟩, ⟨0, .ro, false, SAR_RES_VALUE, SAR_RES_VALUE⟩]⟩,
  ⟨"SAR_STAT", 0x430000c0, [(4, 0x2000), (4, 0x200)],
   [⟨1, .w1c, false, SAR_STAT_CFG_REFUSED, SAR_STAT_CFG_REFUSED⟩, ⟨0, .w1c, false, SAR_STAT_OVERRUN, SAR_STAT_OVERRUN⟩]⟩,
  ⟨"CMP_CFG", 0x43000800, [(4, 0x2000), (16, 0x10)],
   [⟨31, .rw, true, CMP_CFG_EN, CMP_CFG_EN⟩, ⟨16, .rw, true, CMP_CFG_AIN, CMP_CFG_AIN⟩, ⟨12, .rw, true, CMP_CFG_HYST, CMP_CFG_HYST⟩, ⟨8, .rw, true, CMP_CFG_INVERT, CMP_CFG_INVERT⟩, ⟨0, .w1c, false, CMP_CFG_CFG_REFUSED, CMP_CFG_CFG_REFUSED⟩]⟩,
  ⟨"CMP_THR", 0x43000804, [(4, 0x2000), (16, 0x10)],
   [⟨0, .rw, false, CMP_THR_THRESH, CMP_THR_THRESH⟩]⟩,
  ⟨"CMP_STAT", 0x43000808, [(4, 0x2000), (16, 0x10)],
   [⟨2, .w1c, false, CMP_STAT_FELL, CMP_STAT_FELL⟩, ⟨1, .w1c, false, CMP_STAT_ROSE, CMP_STAT_ROSE⟩, ⟨0, .ro, false, CMP_STAT_OUT, CMP_STAT_OUT⟩]⟩,
  ⟨"SEU_CFG", 0x43001000, [(4, 0x2000), (6, 0x80)],
   [⟨30, .rw, true, SEU_CFG_PROTO, SEU_CFG_PROTO⟩, ⟨29, .rw, true, SEU_CFG_GRAY, SEU_CFG_GRAY⟩, ⟨16, .rw, true, SEU_CFG_BITS, SEU_CFG_BITS⟩, ⟨8, .rw, true, SEU_CFG_SSI_DLY, SEU_CFG_SSI_DLY⟩, ⟨0, .rw, true, SEU_CFG_DIV, SEU_CFG_DIV⟩]⟩,
  ⟨"SEU_CRC", 0x43001004, [(4, 0x2000), (6, 0x80)],
   [⟨8, .rw, true, SEU_CRC_LEN, SEU_CRC_LEN⟩, ⟨0, .rw, true, SEU_CRC_POLY, SEU_CRC_POLY⟩]⟩,
  ⟨"SEU_TIMING", 0x43001008, [(4, 0x2000), (6, 0x80)],
   [⟨16, .rw, true, SEU_TIMING_TIMEOUT, SEU_TIMING_TIMEOUT⟩, ⟨0, .rw, true, SEU_TIMING_DEADLINE, SEU_TIMING_DEADLINE⟩]⟩,
  ⟨"SEU_CYCLE", 0x4300100c, [(4, 0x2000), (6, 0x80)],
   [⟨0, .rw, true, SEU_CYCLE_LINES, SEU_CYCLE_LINES⟩]⟩,
  ⟨"SEU_LAT0", 0x43001010, [(4, 0x2000), (6, 0x80)],
   [⟨31, .rw, true, SEU_LAT0_EN, SEU_LAT0_EN⟩, ⟨14, .rw, true, SEU_LAT0_LINE, SEU_LAT0_LINE⟩, ⟨0, .rw, true, SEU_LAT0_DOT, SEU_LAT0_DOT⟩]⟩]

/-- The registers of file 03 of spec/ (sensing), part 4. -/
def regRows03d : List RegRow := [
  ⟨"SEU_LAT1", 0x43001014, [(4, 0x2000), (6, 0x80)],
   [⟨31, .rw, true, SEU_LAT1_EN, SEU_LAT1_EN⟩, ⟨14, .rw, true, SEU_LAT1_LINE, SEU_LAT1_LINE⟩, ⟨0, .rw, true, SEU_LAT1_DOT, SEU_LAT1_DOT⟩]⟩,
  ⟨"SEU_DATA_LO", 0x43001018, [(4, 0x2000), (6, 0x80)],
   [⟨0, .ro, false, SEU_DATA_LO_DATA, SEU_DATA_LO_DATA⟩]⟩,
  ⟨"SEU_DATA_HI", 0x4300101c, [(4, 0x2000), (6, 0x80)],
   [⟨0, .ro, false, SEU_DATA_HI_DATA, SEU_DATA_HI_DATA⟩]⟩,
  ⟨"SEU_STAT", 0x43001020, [(4, 0x2000), (6, 0x80)],
   [⟨16, .ro, false, SEU_STAT_SEQ, SEU_STAT_SEQ⟩, ⟨8, .ro, false, SEU_STAT_DLY, SEU_STAT_DLY⟩, ⟨7, .ro, false, SEU_STAT_CDS, SEU_STAT_CDS⟩, ⟨6, .ro, false, SEU_STAT_NW, SEU_STAT_NW⟩, ⟨5, .ro, false, SEU_STAT_NE, SEU_STAT_NE⟩, ⟨4, .w1c, false, SEU_STAT_CFG_REFUSED, SEU_STAT_CFG_REFUSED⟩, ⟨3, .w1c, false, SEU_STAT_SKIPPED, SEU_STAT_SKIPPED⟩, ⟨2, .w1c, false, SEU_STAT_TIMEOUT, SEU_STAT_TIMEOUT⟩, ⟨1, .w1c, false, SEU_STAT_CRC_ERR, SEU_STAT_CRC_ERR⟩]⟩,
  ⟨"SEU_CDM", 0x43001024, [(4, 0x2000), (6, 0x80)],
   [⟨0, .rw, false, SEU_CDM_CDM, SEU_CDM_CDM⟩]⟩]

/-- The registers of file 04 of spec/ (loop engine), part 1. -/
def regRows04a : List RegRow := [
  ⟨"LPE_CFG", 0x4400f000, [(24, 0x10000)],
   [⟨0, .rw, false, LPE_CFG_CORE_MODE, LPE_CFG_CORE_MODE⟩]⟩,
  ⟨"LPE_KICK", 0x4400f004, [(24, 0x10000)],
   [⟨31, .wo, false, LPE_KICK_GO, LPE_KICK_GO⟩, ⟨0, .wo, false, LPE_KICK_CTX, LPE_KICK_CTX⟩]⟩,
  ⟨"LPE_STAT", 0x4400f008, [(24, 0x10000)],
   [⟨16, .rc, false, LPE_STAT_QMAX, LPE_STAT_QMAX⟩, ⟨8, .ro, false, LPE_STAT_QDEPTH, LPE_STAT_QDEPTH⟩, ⟨5, .w1c, false, LPE_STAT_LOCK_ERR, LPE_STAT_LOCK_ERR⟩, ⟨4, .w1c, false, LPE_STAT_QFULL, LPE_STAT_QFULL⟩, ⟨3, .w1c, false, LPE_STAT_CFG_REFUSED, LPE_STAT_CFG_REFUSED⟩, ⟨2, .ro, false, LPE_STAT_SUBST, LPE_STAT_SUBST⟩, ⟨1, .ro, false, LPE_STAT_HALTED, LPE_STAT_HALTED⟩, ⟨0, .ro, false, LPE_STAT_RUNNING, LPE_STAT_RUNNING⟩]⟩,
  ⟨"LPE_BUSY", 0x4400f00c, [(24, 0x10000)],
   [⟨16, .rc, false, LPE_BUSY_MAXWAIT, LPE_BUSY_MAXWAIT⟩, ⟨0, .ro, false, LPE_BUSY_BUSY, LPE_BUSY_BUSY⟩]⟩,
  ⟨"LPE_LOST", 0x4400f010, [(24, 0x10000)],
   [⟨0, .ro, false, LPE_LOST_LOST, LPE_LOST_LOST⟩]⟩,
  ⟨"RSP_CFG", 0x44180000, [(4, 0x100)],
   [⟨8, .rw, false, RSP_CFG_EN, RSP_CFG_EN⟩, ⟨0, .rw, false, RSP_CFG_DESIG, RSP_CFG_DESIG⟩]⟩,
  ⟨"RSP_CTRL", 0x44180004, [(4, 0x100)],
   [⟨0, .wo, false, RSP_CTRL_RETURN, RSP_CTRL_RETURN⟩]⟩,
  ⟨"RSP_STAT", 0x44180008, [(4, 0x100)],
   [⟨8, .ro, false, RSP_STAT_SERVING, RSP_STAT_SERVING⟩, ⟨4, .w1c, false, RSP_STAT_SWAP_DONE, RSP_STAT_SWAP_DONE⟩, ⟨3, .w1c, false, RSP_STAT_CFG_REFUSED, RSP_STAT_CFG_REFUSED⟩, ⟨2, .ro, false, RSP_STAT_SPARE_FAIL, RSP_STAT_SPARE_FAIL⟩, ⟨1, .ro, false, RSP_STAT_IN_SERVICE, RSP_STAT_IN_SERVICE⟩, ⟨0, .ro, false, RSP_STAT_MIRROR_READY, RSP_STAT_MIRROR_READY⟩]⟩,
  ⟨"RSP_SWAPF", 0x4418000c, [(4, 0x100)],
   [⟨0, .ro, false, RSP_SWAPF_FRAME, RSP_SWAPF_FRAME⟩]⟩]

/-- The registers of file 05 of spec/ (fabric, timer, region and image), part 1. -/
def regRows05a : List RegRow := [
  ⟨"TMR_CFG", 0x45100000, [(24, 0x100), (4, 0x40)],
   [⟨10, .rw, true, TMR_CFG_FREE, TMR_CFG_FREE⟩, ⟨8, .rw, true, TMR_CFG_COMMIT_AT, TMR_CFG_COMMIT_AT⟩, ⟨4, .rw, true, TMR_CFG_ONESHOT, TMR_CFG_ONESHOT⟩, ⟨0, .rw, true, TMR_CFG_CLK, TMR_CFG_CLK⟩]⟩,
  ⟨"TMR_CHAIN", 0x45100004, [(24, 0x100), (4, 0x40)],
   [⟨8, .rw, true, TMR_CHAIN_MASTER, TMR_CHAIN_MASTER⟩, ⟨4, .rw, true, TMR_CHAIN_USE, TMR_CHAIN_USE⟩, ⟨0, .rw, true, TMR_CHAIN_EVSEL, TMR_CHAIN_EVSEL⟩]⟩,
  ⟨"TMR_PERIOD", 0x45100008, [(24, 0x100), (4, 0x40)],
   [⟨0, .sh, false, TMR_PERIOD_VALUE, TMR_PERIOD_VALUE_E⟩]⟩,
  ⟨"TMR_CMP0", 0x4510000c, [(24, 0x100), (4, 0x40)],
   [⟨0, .sh, false, TMR_CMP0_VALUE, TMR_CMP0_VALUE_E⟩]⟩,
  ⟨"TMR_CMP1", 0x45100010, [(24, 0x100), (4, 0x40)],
   [⟨0, .sh, false, TMR_CMP1_VALUE, TMR_CMP1_VALUE_E⟩]⟩,
  ⟨"TMR_CTRL", 0x45100018, [(24, 0x100), (4, 0x40)],
   [⟨2, .wo, false, TMR_CTRL_RESET, TMR_CTRL_RESET⟩, ⟨1, .rw, false, TMR_CTRL_COMMIT_HOLD, TMR_CTRL_COMMIT_HOLD⟩, ⟨0, .wo, false, TMR_CTRL_COMMIT_NOW, TMR_CTRL_COMMIT_NOW⟩]⟩,
  ⟨"TMR_COUNT", 0x4510001c, [(24, 0x100), (4, 0x40)],
   [⟨0, .ro, false, TMR_COUNT_COUNT, TMR_COUNT_COUNT⟩]⟩,
  ⟨"TMR_PHASE", 0x45100020, [(24, 0x100), (4, 0x40)],
   [⟨0, .rw, true, TMR_PHASE_COUNT, TMR_PHASE_COUNT⟩]⟩,
  ⟨"TMR_CAP", 0x45100024, [(24, 0x100), (4, 0x40)],
   [⟨0, .ro, false, TMR_CAP_COUNT, TMR_CAP_COUNT⟩]⟩,
  ⟨"TMR_STAT", 0x45100028, [(24, 0x100), (4, 0x40)],
   [⟨6, .ro, false, TMR_STAT_RUNNING, TMR_STAT_RUNNING⟩, ⟨5, .ro, false, TMR_STAT_OUT, TMR_STAT_OUT⟩, ⟨4, .ro, false, TMR_STAT_DONE, TMR_STAT_DONE⟩, ⟨3, .w1c, false, TMR_STAT_COMMIT_DONE, TMR_STAT_COMMIT_DONE⟩, ⟨2, .ro, false, TMR_STAT_PEND, TMR_STAT_PEND⟩, ⟨1, .w1c, false, TMR_STAT_CFG_REFUSED, TMR_STAT_CFG_REFUSED⟩, ⟨0, .w1c, false, TMR_STAT_LATE, TMR_STAT_LATE⟩]⟩,
  ⟨"FAB_CTRL", 0x45008000, [],
   [⟨8, .wo, false, FAB_CTRL_DEFAULT, FAB_CTRL_DEFAULT⟩, ⟨4, .rw, false, FAB_CTRL_SLOT, FAB_CTRL_SLOT⟩, ⟨0, .wo, false, FAB_CTRL_LOAD, FAB_CTRL_LOAD⟩]⟩,
  ⟨"FAB_STAT", 0x45008004, [],
   [⟨16, .ro, false, FAB_STAT_SECTION, FAB_STAT_SECTION⟩, ⟨8, .ro, false, FAB_STAT_WHY, FAB_STAT_WHY⟩, ⟨3, .w1c, false, FAB_STAT_CFG_REFUSED, FAB_STAT_CFG_REFUSED⟩, ⟨2, .w1c, false, FAB_STAT_LOAD_DONE, FAB_STAT_LOAD_DONE⟩, ⟨1, .ro, false, FAB_STAT_BUSY, FAB_STAT_BUSY⟩, ⟨0, .ro, false, FAB_STAT_DEFAULTED, FAB_STAT_DEFAULTED⟩]⟩]

/-- The registers of file 05 of spec/ (fabric, timer, region and image), part 2. -/
def regRows05b : List RegRow := [
  ⟨"FAB_IMAGE", 0x45008008, [],
   [⟨0, .ro, false, FAB_IMAGE_SERIAL, FAB_IMAGE_SERIAL⟩]⟩,
  ⟨"FAB_CRC", 0x4500800c, [],
   [⟨0, .ro, false, FAB_CRC_CRC, FAB_CRC_CRC⟩]⟩,
  ⟨"FAB_SOFT0", 0x45008010, [],
   [⟨0, .rw, false, FAB_SOFT0_LEVEL, FAB_SOFT0_LEVEL⟩]⟩,
  ⟨"FAB_SOFT1", 0x45008014, [],
   [⟨0, .rw, false, FAB_SOFT1_LEVEL, FAB_SOFT1_LEVEL⟩]⟩,
  ⟨"FAB_PULSE0", 0x45008018, [],
   [⟨0, .wo, false, FAB_PULSE0_PULSE, FAB_PULSE0_PULSE⟩]⟩,
  ⟨"FAB_PULSE1", 0x4500801c, [],
   [⟨0, .wo, false, FAB_PULSE1_PULSE, FAB_PULSE1_PULSE⟩]⟩,
  ⟨"RGN_CTRL", 0x45008100, [(4, 0x10)],
   [⟨1, .wo, false, RGN_CTRL_START, RGN_CTRL_START⟩, ⟨0, .wo, false, RGN_CTRL_STOP, RGN_CTRL_STOP⟩]⟩,
  ⟨"RGN_STAT", 0x45008104, [(4, 0x10)],
   [⟨2, .w1c, false, RGN_STAT_START_REFUSED, RGN_STAT_START_REFUSED⟩, ⟨0, .ro, false, RGN_STAT_STATE, RGN_STAT_STATE⟩]⟩,
  ⟨"RGN_STARTF", 0x45008108, [(4, 0x10)],
   [⟨0, .ro, false, RGN_STARTF_FRAME, RGN_STARTF_FRAME⟩]⟩]

/-- The registers of file 06 of spec/ (link), part 1. -/
def regRows06a : List RegRow := [
  ⟨"LNK_CTRL", 0x46000000, [],
   [⟨0, .rw, false, LNK_CTRL_EN, LNK_CTRL_EN⟩]⟩,
  ⟨"LNK_ADDR", 0x46000004, [],
   [⟨0, .rw, false, LNK_ADDR_ADDR, LNK_ADDR_ADDR⟩]⟩,
  ⟨"LNK_TOPO", 0x46000008, [],
   [⟨16, .rw, false, LNK_TOPO_GROUPS, LNK_TOPO_GROUPS⟩, ⟨8, .rw, false, LNK_TOPO_RINGS, LNK_TOPO_RINGS⟩, ⟨0, .rw, false, LNK_TOPO_RING_SIZE, LNK_TOPO_RING_SIZE⟩]⟩,
  ⟨"LNK_WIN", 0x4600000c, [],
   [⟨0, .rw, false, LNK_WIN_START, LNK_WIN_START⟩]⟩,
  ⟨"LNK_SYNC", 0x46000010, [],
   [⟨20, .rw, false, LNK_SYNC_ALT_EN, LNK_SYNC_ALT_EN⟩, ⟨0, .rw, false, LNK_SYNC_MASTER, LNK_SYNC_MASTER⟩]⟩,
  ⟨"LNK_DIR", 0x46000014, [],
   [⟨8, .rw, false, LNK_DIR_EN, LNK_DIR_EN⟩, ⟨0, .rw, false, LNK_DIR_BASE, LNK_DIR_BASE⟩]⟩,
  ⟨"LNK_STAT", 0x46000018, [],
   [⟨12, .ro, false, LNK_STAT_HOPS, LNK_STAT_HOPS⟩, ⟨7, .ro, false, LNK_STAT_TVALID, LNK_STAT_TVALID⟩, ⟨5, .ro, false, LNK_STAT_TPORT, LNK_STAT_TPORT⟩, ⟨4, .ro, false, LNK_STAT_WIN_OFF, LNK_STAT_WIN_OFF⟩, ⟨3, .w1c, false, LNK_STAT_MBX_CLASH, LNK_STAT_MBX_CLASH⟩, ⟨2, .w1c, false, LNK_STAT_DIR_BAD, LNK_STAT_DIR_BAD⟩, ⟨1, .w1c, false, LNK_STAT_CFG_REFUSED, LNK_STAT_CFG_REFUSED⟩]⟩,
  ⟨"LNK_FTX", 0x4600001c, [],
   [⟨0, .ro, false, LNK_FTX_COUNT, LNK_FTX_COUNT⟩]⟩,
  ⟨"LNK_FRX", 0x46000020, [],
   [⟨0, .ro, false, LNK_FRX_COUNT, LNK_FRX_COUNT⟩]⟩,
  ⟨"LNK_FMATCH", 0x46000024, [],
   [⟨0, .ro, false, LNK_FMATCH_COUNT, LNK_FMATCH_COUNT⟩]⟩,
  ⟨"LNK_FLATE", 0x46000028, [],
   [⟨0, .ro, false, LNK_FLATE_COUNT, LNK_FLATE_COUNT⟩]⟩,
  ⟨"LNK_PCTRL", 0x46000100, [(4, 0x40)],
   [⟨0, .rw, false, LNK_PCTRL_EN, LNK_PCTRL_EN⟩]⟩]

/-- The registers of file 06 of spec/ (link), part 2. -/
def regRows06b : List RegRow := [
  ⟨"LNK_PSTAT", 0x46000104, [(4, 0x40)],
   [⟨8, .ro, false, LNK_PSTAT_CAND, LNK_PSTAT_CAND⟩, ⟨4, .ro, false, LNK_PSTAT_LANE_OK, LNK_PSTAT_LANE_OK⟩, ⟨0, .ro, false, LNK_PSTAT_STATE, LNK_PSTAT_STATE⟩]⟩,
  ⟨"LNK_PNBR", 0x46000108, [(4, 0x40)],
   [⟨31, .ro, false, LNK_PNBR_VALID, LNK_PNBR_VALID⟩, ⟨20, .ro, false, LNK_PNBR_PORT, LNK_PNBR_PORT⟩, ⟨0, .ro, false, LNK_PNBR_ADDR, LNK_PNBR_ADDR⟩]⟩,
  ⟨"LNK_PDLY", 0x4600010c, [(4, 0x40)],
   [⟨0, .ro, false, LNK_PDLY_DELAY, LNK_PDLY_DELAY⟩]⟩,
  ⟨"LNK_PTHOPS", 0x46000110, [(4, 0x40)],
   [⟨31, .ro, false, LNK_PTHOPS_VALID, LNK_PTHOPS_VALID⟩, ⟨0, .ro, false, LNK_PTHOPS_HOPS, LNK_PTHOPS_HOPS⟩]⟩,
  ⟨"LNK_PRECON", 0x46000114, [(4, 0x40)],
   [⟨0, .rc, false, LNK_PRECON_COUNT, LNK_PRECON_COUNT⟩]⟩,
  ⟨"LNK_PDROP", 0x46000118, [(4, 0x40)],
   [⟨0, .rc, false, LNK_PDROP_COUNT, LNK_PDROP_COUNT⟩]⟩,
  ⟨"LNK_POVF", 0x4600011c, [(4, 0x40)],
   [⟨0, .rc, false, LNK_POVF_COUNT, LNK_POVF_COUNT⟩]⟩,
  ⟨"LNK_PLANE", 0x46000120, [(4, 0x40)],
   [⟨20, .rc, false, LNK_PLANE_LS, LNK_PLANE_LS⟩, ⟨10, .rc, false, LNK_PLANE_L1, LNK_PLANE_L1⟩, ⟨0, .rc, false, LNK_PLANE_L0, LNK_PLANE_L0⟩]⟩,
  ⟨"LNK_PFRAME", 0x46000124, [(4, 0x40)],
   [⟨16, .ro, false, LNK_PFRAME_RX, LNK_PFRAME_RX⟩, ⟨0, .ro, false, LNK_PFRAME_TX, LNK_PFRAME_TX⟩]⟩,
  ⟨"PUB_CFG", 0x46001000, [(1024, 0x10)],
   [⟨24, .rw, false, PUB_CFG_SCOPE, PUB_CFG_SCOPE⟩, ⟨0, .rw, false, PUB_CFG_TAG, PUB_CFG_TAG⟩]⟩,
  ⟨"PUB_VALUE", 0x46001004, [(1024, 0x10)],
   [⟨0, .rw, false, PUB_VALUE_VALUE, PUB_VALUE_VALUE⟩]⟩,
  ⟨"PUB_PPOS", 0x46001008, [(1024, 0x10)],
   [⟨14, .ro, false, PUB_PPOS_LINE, PUB_PPOS_LINE⟩, ⟨0, .ro, false, PUB_PPOS_DOT, PUB_PPOS_DOT⟩]⟩]

/-- The registers of file 06 of spec/ (link), part 3. -/
def regRows06c : List RegRow := [
  ⟨"PUB_STAT", 0x4600100c, [(1024, 0x10)],
   [⟨1, .w1c, false, PUB_STAT_CLASH, PUB_STAT_CLASH⟩, ⟨0, .ro, false, PUB_STAT_WRITTEN, PUB_STAT_WRITTEN⟩]⟩]

/-- The registers of file 09 of spec/ (core control block), part 1. -/
def regRows09a : List RegRow := [
  ⟨"VEC_PC", 0x47000120, [(52, 0x400)],
   [⟨0, .rw, false, VEC_PC_PC, VEC_PC_PC⟩]⟩,
  ⟨"REF_PC", 0x47000124, [(52, 0x400)],
   [⟨0, .rw, false, REF_PC_PC, REF_PC_PC⟩]⟩,
  ⟨"EXC_CTRL", 0x47000128, [(52, 0x400)],
   [⟨8, .rw, false, EXC_CTRL_REF_LOCK, EXC_CTRL_REF_LOCK⟩, ⟨1, .rw, false, EXC_CTRL_PRECISE, EXC_CTRL_PRECISE⟩, ⟨0, .rw, false, EXC_CTRL_IE, EXC_CTRL_IE⟩]⟩,
  ⟨"EXC_STAT", 0x4700012c, [(52, 0x400)],
   [⟨16, .ro, false, EXC_STAT_REFUGES, EXC_STAT_REFUGES⟩, ⟨3, .w1c, false, EXC_STAT_CFG_REFUSED, EXC_STAT_CFG_REFUSED⟩, ⟨2, .ro, false, EXC_STAT_FAULT_PEND, EXC_STAT_FAULT_PEND⟩, ⟨1, .ro, false, EXC_STAT_LOCKED, EXC_STAT_LOCKED⟩, ⟨0, .ro, false, EXC_STAT_IN_REFUGE, EXC_STAT_IN_REFUGE⟩]⟩,
  ⟨"CPU_LOCK0", 0x47000130, [(52, 0x400)],
   [⟨8, .ro, false, CPU_LOCK0_DETAIL, CPU_LOCK0_DETAIL⟩, ⟨0, .ro, false, CPU_LOCK0_CAUSE, CPU_LOCK0_CAUSE⟩]⟩,
  ⟨"CPU_LOCK1", 0x47000134, [(52, 0x400)],
   [⟨0, .ro, false, CPU_LOCK1_PC, CPU_LOCK1_PC⟩]⟩,
  ⟨"CPU_LOCK2", 0x47000138, [(52, 0x400)],
   [⟨0, .ro, false, CPU_LOCK2_ADDR, CPU_LOCK2_ADDR⟩]⟩,
  ⟨"CPU_LOST", 0x4700013c, [(52, 0x400)],
   [⟨16, .ro, false, CPU_LOST_FAULTS, CPU_LOST_FAULTS⟩, ⟨0, .ro, false, CPU_LOST_DISP, CPU_LOST_DISP⟩]⟩]

/-- The registers of file 10 of spec/ (event controller and core dispatch), part 1. -/
def regRows10a : List RegRow := [
  ⟨"EVC_ACK", 0x48000000, [],
   [⟨0, .wo, false, EVC_ACK_SOURCE, EVC_ACK_SOURCE⟩]⟩,
  ⟨"EVC_STAT", 0x48000004, [],
   [⟨0, .w1c, false, EVC_STAT_CFG_REFUSED, EVC_STAT_CFG_REFUSED⟩]⟩,
  ⟨"EVQ_BASE", 0x48000100, [(8, 0x20)],
   [⟨4, .rw, false, EVQ_BASE_ADDR, EVQ_BASE_ADDR⟩]⟩,
  ⟨"EVQ_SIZE", 0x48000104, [(8, 0x20)],
   [⟨0, .rw, false, EVQ_SIZE_SIZE, EVQ_SIZE_SIZE⟩]⟩,
  ⟨"EVQ_CFG", 0x48000108, [(8, 0x20)],
   [⟨31, .rw, false, EVQ_CFG_IEN, EVQ_CFG_IEN⟩, ⟨30, .rw, false, EVQ_CFG_WAKE, EVQ_CFG_WAKE⟩, ⟨16, .rw, false, EVQ_CFG_CORE, EVQ_CFG_CORE⟩, ⟨0, .rw, false, EVQ_CFG_HOLDOFF, EVQ_CFG_HOLDOFF⟩]⟩,
  ⟨"EVQ_HEAD", 0x4800010c, [(8, 0x20)],
   [⟨0, .rw, false, EVQ_HEAD_INDEX, EVQ_HEAD_INDEX⟩]⟩,
  ⟨"EVQ_TAIL", 0x48000110, [(8, 0x20)],
   [⟨16, .ro, false, EVQ_TAIL_LAP, EVQ_TAIL_LAP⟩, ⟨0, .ro, false, EVQ_TAIL_INDEX, EVQ_TAIL_INDEX⟩]⟩,
  ⟨"EVQ_STAT", 0x48000114, [(8, 0x20)],
   [⟨3, .ro, false, EVQ_STAT_ERR, EVQ_STAT_ERR⟩, ⟨2, .w1c, false, EVQ_STAT_FULL_HIT, EVQ_STAT_FULL_HIT⟩, ⟨1, .ro, false, EVQ_STAT_INT, EVQ_STAT_INT⟩, ⟨0, .ro, false, EVQ_STAT_NONEMPTY, EVQ_STAT_NONEMPTY⟩]⟩,
  ⟨"EVQ_HOLD", 0x48000118, [(8, 0x20)],
   [⟨0, .ro, false, EVQ_HOLD_COUNT, EVQ_HOLD_COUNT⟩]⟩,
  ⟨"EVC_CFG", 0x48001000, [(1024, 0x8)],
   [⟨31, .rw, false, EVC_CFG_EN, EVC_CFG_EN⟩, ⟨30, .rw, false, EVC_CFG_AUTOACK, EVC_CFG_AUTOACK⟩, ⟨8, .rw, false, EVC_CFG_TAG, EVC_CFG_TAG⟩, ⟨0, .rw, false, EVC_CFG_QUEUE, EVC_CFG_QUEUE⟩]⟩,
  ⟨"EVC_ST", 0x48001004, [(1024, 0x8)],
   [⟨31, .ro, false, EVC_ST_OUT, EVC_ST_OUT⟩, ⟨30, .ro, false, EVC_ST_SAT, EVC_ST_SAT⟩, ⟨0, .ro, false, EVC_ST_ARR, EVC_ST_ARR⟩]⟩,
  ⟨"LCD_ENT_LO", 0x48100000, [(24, 0x200), (32, 0x8)],
   [⟨0, .rw, true, LCD_ENT_LO_W, LCD_ENT_LO_W⟩]⟩]

/-- The registers of file 10 of spec/ (event controller and core dispatch), part 2. -/
def regRows10b : List RegRow := [
  ⟨"LCD_ENT_HI", 0x48100004, [(24, 0x200), (32, 0x8)],
   [⟨0, .rw, true, LCD_ENT_HI_W, LCD_ENT_HI_W⟩]⟩,
  ⟨"LCD_POP", 0x48100100, [(24, 0x200)],
   [⟨31, .rc, false, LCD_POP_VALID, LCD_POP_VALID⟩, ⟨16, .rc, false, LCD_POP_ENTRY, LCD_POP_ENTRY⟩, ⟨0, .rc, false, LCD_POP_TAG, LCD_POP_TAG⟩]⟩,
  ⟨"LCD_STAT", 0x48100104, [(24, 0x200)],
   [⟨8, .ro, false, LCD_STAT_DEPTH, LCD_STAT_DEPTH⟩, ⟨1, .w1c, false, LCD_STAT_DROPPED, LCD_STAT_DROPPED⟩, ⟨0, .w1c, true, LCD_STAT_CFG_REFUSED, LCD_STAT_CFG_REFUSED⟩]⟩]

/-- The registers of file 11 of spec/ (memory controller, Rambler and DMA), part 1. -/
def regRows11a : List RegRow := [
  ⟨"MEM_WIN", 0x49000000, [(8, 0x4)],
   [⟨0, .rw, false, MEM_WIN_BASE, MEM_WIN_BASE⟩]⟩,
  ⟨"MEM_CFG", 0x49000020, [],
   [⟨0, .rw, false, MEM_CFG_AUTOREPAIR, MEM_CFG_AUTOREPAIR⟩]⟩,
  ⟨"MEM_DISC", 0x49000024, [],
   [⟨31, .wo, false, MEM_DISC_GO, MEM_DISC_GO⟩, ⟨0, .rw, false, MEM_DISC_MEM, MEM_DISC_MEM⟩]⟩,
  ⟨"MEM_DISC_START", 0x49000028, [],
   [⟨0, .rw, false, MEM_DISC_START_UNIT, MEM_DISC_START_UNIT⟩]⟩,
  ⟨"MEM_DISC_CNT", 0x4900002c, [],
   [⟨0, .rw, false, MEM_DISC_CNT_COUNT, MEM_DISC_CNT_COUNT⟩]⟩,
  ⟨"MEM_STAT", 0x49000030, [],
   [⟨2, .w1c, false, MEM_STAT_CFG_REFUSED, MEM_STAT_CFG_REFUSED⟩, ⟨1, .ro, false, MEM_STAT_REP_BUSY, MEM_STAT_REP_BUSY⟩, ⟨0, .ro, false, MEM_STAT_DISC_BUSY, MEM_STAT_DISC_BUSY⟩]⟩,
  ⟨"MEM_CE_CNT", 0x49000040, [(5, 0x4)],
   [⟨0, .rc, false, MEM_CE_CNT_COUNT, MEM_CE_CNT_COUNT⟩]⟩,
  ⟨"MEM_UE_CNT", 0x49000060, [(5, 0x4)],
   [⟨0, .rc, false, MEM_UE_CNT_COUNT, MEM_UE_CNT_COUNT⟩]⟩,
  ⟨"MEM_LASTERR", 0x49000080, [],
   [⟨3, .ro, false, MEM_LASTERR_UE, MEM_LASTERR_UE⟩, ⟨0, .ro, false, MEM_LASTERR_MEM, MEM_LASTERR_MEM⟩]⟩,
  ⟨"MEM_ERRADDR", 0x49000084, [],
   [⟨0, .ro, false, MEM_ERRADDR_ADDR, MEM_ERRADDR_ADDR⟩]⟩,
  ⟨"MEM_ERRADDR_HI", 0x49000088, [],
   [⟨0, .ro, false, MEM_ERRADDR_HI_A32, MEM_ERRADDR_HI_A32⟩]⟩,
  ⟨"MEM_REPAIR", 0x49000090, [],
   [⟨0, .wo, false, MEM_REPAIR_ROW, MEM_REPAIR_ROW⟩]⟩]

/-- The registers of file 11 of spec/ (memory controller, Rambler and DMA), part 2. -/
def regRows11b : List RegRow := [
  ⟨"MEM_REP_STAT", 0x49000094, [],
   [⟨31, .w1c, false, MEM_REP_STAT_REFUSED, MEM_REP_STAT_REFUSED⟩, ⟨0, .ro, false, MEM_REP_STAT_CAND, MEM_REP_STAT_CAND⟩]⟩,
  ⟨"MEM_REP_USED", 0x49000098, [],
   [⟨0, .ro, false, MEM_REP_USED_COUNT, MEM_REP_USED_COUNT⟩]⟩,
  ⟨"MEM_INFLIGHT", 0x4900009c, [],
   [⟨16, .rc, false, MEM_INFLIGHT_MAX, MEM_INFLIGHT_MAX⟩, ⟨0, .ro, false, MEM_INFLIGHT_NOW, MEM_INFLIGHT_NOW⟩]⟩,
  ⟨"RMB_CFG", 0x49000100, [(5, 0x10)],
   [⟨0, .rw, false, RMB_CFG_INTERVAL, RMB_CFG_INTERVAL⟩]⟩,
  ⟨"RMB_POS", 0x49000104, [(5, 0x10)],
   [⟨0, .ro, false, RMB_POS_POS, RMB_POS_POS⟩]⟩,
  ⟨"RMB_PASS", 0x49000108, [(5, 0x10)],
   [⟨0, .ro, false, RMB_PASS_PASS, RMB_PASS_PASS⟩]⟩,
  ⟨"RMB_STAT", 0x4900010c, [(5, 0x10)],
   [⟨16, .rc, false, RMB_STAT_UE, RMB_STAT_UE⟩, ⟨0, .rc, false, RMB_STAT_FIXED, RMB_STAT_FIXED⟩]⟩,
  ⟨"DMA_STAT", 0x49100000, [],
   [⟨16, .ro, false, DMA_STAT_READS, DMA_STAT_READS⟩, ⟨0, .ro, false, DMA_STAT_WRITES, DMA_STAT_WRITES⟩]⟩,
  ⟨"DMA_BUF", 0x49100004, [],
   [⟨0, .ro, false, DMA_BUF_BLOCKS, DMA_BUF_BLOCKS⟩]⟩,
  ⟨"CH_DESC", 0x49101030, [(64, 0x80)],
   [⟨5, .rw, false, CH_DESC_ADDR, CH_DESC_ADDR⟩]⟩,
  ⟨"CH_CTRL", 0x49101034, [(64, 0x80)],
   [⟨1, .wo, false, CH_CTRL_STOP, CH_CTRL_STOP⟩, ⟨0, .wo, false, CH_CTRL_START, CH_CTRL_START⟩]⟩,
  ⟨"CH_CFG", 0x49101038, [(64, 0x80)],
   [⟨0, .rw, false, CH_CFG_PRIO, CH_CFG_PRIO⟩]⟩]

/-- The registers of file 11 of spec/ (memory controller, Rambler and DMA), part 3. -/
def regRows11c : List RegRow := [
  ⟨"CH_STAT", 0x4910103c, [(64, 0x80)],
   [⟨8, .ro, false, CH_STAT_ERRCODE, CH_STAT_ERRCODE⟩, ⟨3, .w1c, false, CH_STAT_CFG_REFUSED, CH_STAT_CFG_REFUSED⟩, ⟨2, .w1c, false, CH_STAT_STOPPED, CH_STAT_STOPPED⟩, ⟨1, .w1c, false, CH_STAT_ERR, CH_STAT_ERR⟩, ⟨0, .ro, false, CH_STAT_BUSY, CH_STAT_BUSY⟩]⟩,
  ⟨"CH_CUR", 0x49101040, [(64, 0x80)],
   [⟨0, .ro, false, CH_CUR_ADDR, CH_CUR_ADDR⟩]⟩,
  ⟨"CH_DONE", 0x49101044, [(64, 0x80)],
   [⟨0, .ro, false, CH_DONE_BYTES, CH_DONE_BYTES⟩]⟩,
  ⟨"CH_ERRADDR", 0x49101048, [(64, 0x80)],
   [⟨0, .ro, false, CH_ERRADDR_ADDR, CH_ERRADDR_ADDR⟩]⟩]

/-- The registers of file 12 of spec/ (Lantern), part 1. -/
def regRows12a : List RegRow := [
  ⟨"LAN_RLL_BASE", 0x4c000010, [],
   [⟨3, .sh, false, LAN_RLL_BASE_ADDR, LAN_RLL_BASE_ADDR_E⟩]⟩,
  ⟨"LAN_RLL_COUNT", 0x4c000014, [],
   [⟨0, .sh, false, LAN_RLL_COUNT_COUNT, LAN_RLL_COUNT_COUNT_E⟩]⟩,
  ⟨"LAN_STAT", 0x4c000018, [],
   [⟨24, .ro, false, LAN_STAT_RLL_BAD, LAN_STAT_RLL_BAD⟩, ⟨3, .w1c, false, LAN_STAT_RLL_LATE, LAN_STAT_RLL_LATE⟩, ⟨2, .w1c, false, LAN_STAT_RLL_ERR, LAN_STAT_RLL_ERR⟩, ⟨1, .w1c, false, LAN_STAT_SPR_OVER, LAN_STAT_SPR_OVER⟩, ⟨0, .w1c, false, LAN_STAT_CFG_REFUSED, LAN_STAT_CFG_REFUSED⟩]⟩,
  ⟨"LAN_SPR", 0x4c00001c, [],
   [⟨16, .ro, false, LAN_SPR_LINE, LAN_SPR_LINE⟩, ⟨0, .ro, false, LAN_SPR_DROP, LAN_SPR_DROP⟩]⟩,
  ⟨"TP_CFG", 0x4c000100, [(4, 0x40)],
   [⟨2, .sh, false, TP_CFG_DEPTH, TP_CFG_DEPTH_E⟩, ⟨1, .sh, false, TP_CFG_TSIZE, TP_CFG_TSIZE_E⟩, ⟨0, .sh, false, TP_CFG_EN, TP_CFG_EN_E⟩]⟩,
  ⟨"TP_MAPSZ", 0x4c000104, [(4, 0x40)],
   [⟨16, .sh, false, TP_MAPSZ_MH, TP_MAPSZ_MH_E⟩, ⟨0, .sh, false, TP_MAPSZ_MW, TP_MAPSZ_MW_E⟩]⟩,
  ⟨"TP_MAP", 0x4c000108, [(4, 0x40)],
   [⟨2, .sh, false, TP_MAP_ADDR, TP_MAP_ADDR_E⟩]⟩,
  ⟨"TP_TILES", 0x4c00010c, [(4, 0x40)],
   [⟨5, .sh, false, TP_TILES_ADDR, TP_TILES_ADDR_E⟩]⟩,
  ⟨"TP_SCROLL", 0x4c000110, [(4, 0x40)],
   [⟨16, .sh, false, TP_SCROLL_SY, TP_SCROLL_SY_E⟩, ⟨0, .sh, false, TP_SCROLL_SX, TP_SCROLL_SX_E⟩]⟩,
  ⟨"TP_WIN0", 0x4c000114, [(4, 0x40)],
   [⟨16, .sh, false, TP_WIN0_Y0, TP_WIN0_Y0_E⟩, ⟨0, .sh, false, TP_WIN0_X0, TP_WIN0_X0_E⟩]⟩,
  ⟨"TP_WIN1", 0x4c000118, [(4, 0x40)],
   [⟨16, .sh, false, TP_WIN1_Y1, TP_WIN1_Y1_E⟩, ⟨0, .sh, false, TP_WIN1_X1, TP_WIN1_X1_E⟩]⟩,
  ⟨"TRC_WIN0", 0x4c000200, [],
   [⟨16, .sh, false, TRC_WIN0_Y0, TRC_WIN0_Y0_E⟩, ⟨0, .sh, false, TRC_WIN0_X0, TRC_WIN0_X0_E⟩]⟩]

/-- The registers of file 12 of spec/ (Lantern), part 2. -/
def regRows12b : List RegRow := [
  ⟨"TRC_WIN1", 0x4c000204, [],
   [⟨16, .sh, false, TRC_WIN1_H, TRC_WIN1_H_E⟩, ⟨0, .sh, false, TRC_WIN1_W, TRC_WIN1_W_E⟩]⟩,
  ⟨"TRC_BG", 0x4c000208, [],
   [⟨0, .sh, false, TRC_BG_COLOUR, TRC_BG_COLOUR_E⟩]⟩,
  ⟨"TRC_STAT", 0x4c00020c, [],
   [⟨16, .w1c, false, TRC_STAT_CFG_REFUSED, TRC_STAT_CFG_REFUSED⟩, ⟨0, .ro, false, TRC_STAT_COLS, TRC_STAT_COLS⟩]⟩,
  ⟨"TRC_TAP", 0x4c000240, [(16, 0x10)],
   [⟨31, .sh, false, TRC_TAP_EN, TRC_TAP_EN_E⟩, ⟨16, .sh, false, TRC_TAP_CTX, TRC_TAP_CTX_E⟩, ⟨0, .sh, false, TRC_TAP_WORD, TRC_TAP_WORD_E⟩]⟩,
  ⟨"TRC_SCL", 0x4c000244, [(16, 0x10)],
   [⟨16, .sh, false, TRC_SCL_GAIN, TRC_SCL_GAIN_E⟩, ⟨0, .sh, false, TRC_SCL_SHIFT, TRC_SCL_SHIFT_E⟩]⟩,
  ⟨"TRC_ORG", 0x4c000248, [(16, 0x10)],
   [⟨0, .sh, false, TRC_ORG_ORG, TRC_ORG_ORG_E⟩]⟩,
  ⟨"TRC_COL", 0x4c00024c, [(16, 0x10)],
   [⟨0, .sh, false, TRC_COL_COLOUR, TRC_COL_COLOUR_E⟩]⟩,
  ⟨"BE_CTRL", 0x4c000420, [],
   [⟨0, .wo, false, BE_CTRL_START, BE_CTRL_START⟩]⟩,
  ⟨"BE_OP", 0x4c000424, [],
   [⟨12, .rw, false, BE_OP_PAL, BE_OP_PAL⟩, ⟨8, .rw, false, BE_OP_DFMT, BE_OP_DFMT⟩, ⟨4, .rw, false, BE_OP_SFMT, BE_OP_SFMT⟩, ⟨3, .rw, false, BE_OP_YDIR, BE_OP_YDIR⟩, ⟨0, .rw, false, BE_OP_OP, BE_OP_OP⟩]⟩,
  ⟨"BE_SRC", 0x4c000428, [],
   [⟨0, .rw, false, BE_SRC_ADDR, BE_SRC_ADDR⟩]⟩,
  ⟨"BE_SPITCH", 0x4c00042c, [],
   [⟨0, .rw, false, BE_SPITCH_PITCH, BE_SPITCH_PITCH⟩]⟩,
  ⟨"BE_DST", 0x4c000430, [],
   [⟨0, .rw, false, BE_DST_ADDR, BE_DST_ADDR⟩]⟩]

/-- The registers of file 12 of spec/ (Lantern), part 3. -/
def regRows12c : List RegRow := [
  ⟨"BE_DPITCH", 0x4c000434, [],
   [⟨0, .rw, false, BE_DPITCH_PITCH, BE_DPITCH_PITCH⟩]⟩,
  ⟨"BE_SIZE", 0x4c000438, [],
   [⟨16, .rw, false, BE_SIZE_H, BE_SIZE_H⟩, ⟨0, .rw, false, BE_SIZE_W, BE_SIZE_W⟩]⟩,
  ⟨"BE_COLOUR", 0x4c00043c, [],
   [⟨0, .rw, false, BE_COLOUR_COLOUR, BE_COLOUR_COLOUR⟩]⟩,
  ⟨"BE_KEY", 0x4c000440, [],
   [⟨0, .rw, false, BE_KEY_KEY, BE_KEY_KEY⟩]⟩,
  ⟨"BE_KMASK", 0x4c000444, [],
   [⟨0, .rw, false, BE_KMASK_MASK, BE_KMASK_MASK⟩]⟩,
  ⟨"BE_CFG", 0x4c000448, [],
   [⟨8, .rw, false, BE_CFG_COMPAT, BE_CFG_COMPAT⟩, ⟨0, .rw, false, BE_CFG_GAP, BE_CFG_GAP⟩]⟩,
  ⟨"BE_STAT", 0x4c00044c, [],
   [⟨8, .ro, false, BE_STAT_ERRCODE, BE_STAT_ERRCODE⟩, ⟨2, .w1c, false, BE_STAT_CFG_REFUSED, BE_STAT_CFG_REFUSED⟩, ⟨1, .w1c, false, BE_STAT_ERR, BE_STAT_ERR⟩, ⟨0, .ro, false, BE_STAT_BUSY, BE_STAT_BUSY⟩]⟩,
  ⟨"BE_ROWS", 0x4c000450, [],
   [⟨0, .ro, false, BE_ROWS_ROWS, BE_ROWS_ROWS⟩]⟩,
  ⟨"LAN_PAL", 0x4c004000, [(4096, 0x4)],
   [⟨0, .sh, false, LAN_PAL_ARGB, LAN_PAL_ARGB_E⟩]⟩,
  ⟨"SPR_W0", 0x4c008000, [(256, 0x10)],
   [⟨31, .sh, false, SPR_W0_EN, SPR_W0_EN_E⟩, ⟨16, .sh, false, SPR_W0_Y, SPR_W0_Y_E⟩, ⟨0, .sh, false, SPR_W0_X, SPR_W0_X_E⟩]⟩,
  ⟨"SPR_W1", 0x4c008004, [(256, 0x10)],
   [⟨24, .sh, false, SPR_W1_BANK, SPR_W1_BANK_E⟩, ⟨20, .sh, false, SPR_W1_PAL, SPR_W1_PAL_E⟩, ⟨18, .sh, false, SPR_W1_VF, SPR_W1_VF_E⟩, ⟨17, .sh, false, SPR_W1_HF, SPR_W1_HF_E⟩, ⟨16, .sh, false, SPR_W1_DEPTH, SPR_W1_DEPTH_E⟩, ⟨8, .sh, false, SPR_W1_HC, SPR_W1_HC_E⟩, ⟨0, .sh, false, SPR_W1_WC, SPR_W1_WC_E⟩]⟩,
  ⟨"SPR_W2", 0x4c008008, [(256, 0x10)],
   [⟨5, .sh, false, SPR_W2_ADDR, SPR_W2_ADDR_E⟩]⟩]

/-- The registers of file 13 of spec/ (composition, scanout, flattener and DisplayPort), part 1. -/
def regRows13a : List RegRow := [
  ⟨"SCN_CTRL", 0x4c100020, [],
   [⟨0, .wo, false, SCN_CTRL_COMMIT, SCN_CTRL_COMMIT⟩]⟩,
  ⟨"SCN_STAT", 0x4c100024, [],
   [⟨8, .ro, false, SCN_STAT_REJECT_WHY, SCN_STAT_REJECT_WHY⟩, ⟨5, .w1c, false, SCN_STAT_MISMATCH, SCN_STAT_MISMATCH⟩, ⟨4, .ro, false, SCN_STAT_PEND, SCN_STAT_PEND⟩, ⟨3, .w1c, false, SCN_STAT_COMMIT_DONE, SCN_STAT_COMMIT_DONE⟩, ⟨2, .w1c, false, SCN_STAT_REJECT, SCN_STAT_REJECT⟩, ⟨1, .w1c, false, SCN_STAT_CFG_REFUSED, SCN_STAT_CFG_REFUSED⟩, ⟨0, .ro, false, SCN_STAT_VBLANK, SCN_STAT_VBLANK⟩]⟩,
  ⟨"SCN_MODE", 0x4c100028, [],
   [⟨8, .sh, false, SCN_MODE_FLAT_EN, SCN_MODE_FLAT_EN_E⟩, ⟨4, .sh, false, SCN_MODE_SPR_POS, SCN_MODE_SPR_POS_E⟩, ⟨2, .sh, false, SCN_MODE_VSPOL, SCN_MODE_VSPOL_E⟩, ⟨1, .sh, false, SCN_MODE_HSPOL, SCN_MODE_HSPOL_E⟩, ⟨0, .sh, false, SCN_MODE_FREERUN, SCN_MODE_FREERUN_E⟩]⟩,
  ⟨"SCN_BG", 0x4c10002c, [],
   [⟨0, .sh, false, SCN_BG_RGB, SCN_BG_RGB_E⟩]⟩,
  ⟨"SCN_HTIM0", 0x4c100030, [],
   [⟨16, .sh, false, SCN_HTIM0_HTOTAL, SCN_HTIM0_HTOTAL_E⟩, ⟨0, .sh, false, SCN_HTIM0_HACTIVE, SCN_HTIM0_HACTIVE_E⟩]⟩,
  ⟨"SCN_HTIM1", 0x4c100034, [],
   [⟨16, .sh, false, SCN_HTIM1_HSW, SCN_HTIM1_HSW_E⟩, ⟨0, .sh, false, SCN_HTIM1_HSS, SCN_HTIM1_HSS_E⟩]⟩,
  ⟨"SCN_VTIM0", 0x4c100038, [],
   [⟨16, .sh, false, SCN_VTIM0_VTOTAL, SCN_VTIM0_VTOTAL_E⟩, ⟨0, .sh, false, SCN_VTIM0_VACTIVE, SCN_VTIM0_VACTIVE_E⟩]⟩,
  ⟨"SCN_VTIM1", 0x4c10003c, [],
   [⟨16, .sh, false, SCN_VTIM1_VSW, SCN_VTIM1_VSW_E⟩, ⟨0, .sh, false, SCN_VTIM1_VSS, SCN_VTIM1_VSS_E⟩]⟩,
  ⟨"SCN_FRPLL", 0x4c100040, [],
   [⟨16, .sh, false, SCN_FRPLL_M, SCN_FRPLL_M_E⟩, ⟨0, .sh, false, SCN_FRPLL_N, SCN_FRPLL_N_E⟩]⟩,
  ⟨"SCN_FLAT_ADDR", 0x4c100044, [],
   [⟨0, .sh, false, SCN_FLAT_ADDR_ADDR, SCN_FLAT_ADDR_ADDR_E⟩]⟩,
  ⟨"SCN_FLAT_PITCH", 0x4c100048, [],
   [⟨0, .sh, false, SCN_FLAT_PITCH_PITCH, SCN_FLAT_PITCH_PITCH_E⟩]⟩,
  ⟨"SCN_CAP_CFG", 0x4c10004c, [],
   [⟨4, .sh, false, SCN_CAP_CFG_FMT, SCN_CAP_CFG_FMT_E⟩, ⟨0, .sh, false, SCN_CAP_CFG_EN, SCN_CAP_CFG_EN_E⟩]⟩]

/-- The registers of file 13 of spec/ (composition, scanout, flattener and DisplayPort), part 2. -/
def regRows13b : List RegRow := [
  ⟨"SCN_CAP_ADDR", 0x4c100050, [],
   [⟨0, .sh, false, SCN_CAP_ADDR_ADDR, SCN_CAP_ADDR_ADDR_E⟩]⟩,
  ⟨"SCN_CAP_PITCH", 0x4c100054, [],
   [⟨0, .sh, false, SCN_CAP_PITCH_PITCH, SCN_CAP_PITCH_PITCH_E⟩]⟩,
  ⟨"SCN_OUT", 0x4c100058, [],
   [⟨12, .sh, false, SCN_OUT_DP_RATE, SCN_OUT_DP_RATE_E⟩, ⟨8, .sh, false, SCN_OUT_DP_LANES, SCN_OUT_DP_LANES_E⟩, ⟨4, .sh, false, SCN_OUT_DP_EN, SCN_OUT_DP_EN_E⟩, ⟨3, .sh, false, SCN_OUT_LVDS_18, SCN_OUT_LVDS_18_E⟩, ⟨2, .sh, false, SCN_OUT_LVDS_JEIDA, SCN_OUT_LVDS_JEIDA_E⟩, ⟨1, .sh, false, SCN_OUT_LVDS_DUAL, SCN_OUT_LVDS_DUAL_E⟩, ⟨0, .sh, false, SCN_OUT_LVDS_EN, SCN_OUT_LVDS_EN_E⟩]⟩,
  ⟨"SCN_UNDER", 0x4c100060, [],
   [⟨16, .ro, false, SCN_UNDER_COUNT, SCN_UNDER_COUNT⟩, ⟨0, .ro, false, SCN_UNDER_FIRST, SCN_UNDER_FIRST⟩]⟩,
  ⟨"SCN_ERR", 0x4c100064, [],
   [⟨0, .ro, false, SCN_ERR_READ, SCN_ERR_READ⟩]⟩,
  ⟨"SCN_POS", 0x4c100068, [],
   [⟨31, .ro, false, SCN_POS_VBLANK, SCN_POS_VBLANK⟩, ⟨16, .ro, false, SCN_POS_LINE, SCN_POS_LINE⟩, ⟨0, .ro, false, SCN_POS_PIXEL, SCN_POS_PIXEL⟩]⟩,
  ⟨"SCN_FRAMES", 0x4c10006c, [],
   [⟨0, .ro, false, SCN_FRAMES_COUNT, SCN_FRAMES_COUNT⟩]⟩,
  ⟨"SCN_CAPSTAT", 0x4c100070, [],
   [⟨0, .rc, false, SCN_CAPSTAT_DROP, SCN_CAPSTAT_DROP⟩]⟩,
  ⟨"FL_CTRL", 0x4c100100, [],
   [⟨0, .wo, false, FL_CTRL_GO, FL_CTRL_GO⟩]⟩,
  ⟨"FL_STAT", 0x4c100104, [],
   [⟨8, .ro, false, FL_STAT_ERRCODE, FL_STAT_ERRCODE⟩, ⟨3, .w1c, false, FL_STAT_CFG_REFUSED, FL_STAT_CFG_REFUSED⟩, ⟨1, .w1c, false, FL_STAT_ERR, FL_STAT_ERR⟩, ⟨0, .ro, false, FL_STAT_BUSY, FL_STAT_BUSY⟩]⟩,
  ⟨"FL_DST", 0x4c100108, [],
   [⟨6, .rw, false, FL_DST_ADDR, FL_DST_ADDR⟩]⟩,
  ⟨"FL_PITCH", 0x4c10010c, [],
   [⟨0, .rw, false, FL_PITCH_PITCH, FL_PITCH_PITCH⟩]⟩]

/-- The registers of file 13 of spec/ (composition, scanout, flattener and DisplayPort), part 3. -/
def regRows13c : List RegRow := [
  ⟨"FL_SIZE", 0x4c100110, [],
   [⟨16, .rw, false, FL_SIZE_H, FL_SIZE_H⟩, ⟨0, .rw, false, FL_SIZE_W, FL_SIZE_W⟩]⟩,
  ⟨"FL_BG", 0x4c100114, [],
   [⟨0, .rw, false, FL_BG_RGB, FL_BG_RGB⟩]⟩,
  ⟨"FL_ROWS", 0x4c100118, [],
   [⟨0, .ro, false, FL_ROWS_ROWS, FL_ROWS_ROWS⟩]⟩,
  ⟨"FL_BADTILE", 0x4c10011c, [],
   [⟨0, .ro, false, FL_BADTILE_COUNT, FL_BADTILE_COUNT⟩]⟩,
  ⟨"BM_CFG", 0x4c100140, [(2, 0x20)],
   [⟨16, .rw, false, BM_CFG_GA, BM_CFG_GA⟩, ⟨4, .rw, false, BM_CFG_FMT, BM_CFG_FMT⟩, ⟨0, .rw, false, BM_CFG_EN, BM_CFG_EN⟩]⟩,
  ⟨"BM_ADDR", 0x4c100144, [(2, 0x20)],
   [⟨0, .rw, false, BM_ADDR_ADDR, BM_ADDR_ADDR⟩]⟩,
  ⟨"BM_PITCH", 0x4c100148, [(2, 0x20)],
   [⟨0, .rw, false, BM_PITCH_PITCH, BM_PITCH_PITCH⟩]⟩,
  ⟨"BM_SIZE", 0x4c10014c, [(2, 0x20)],
   [⟨16, .rw, false, BM_SIZE_H, BM_SIZE_H⟩, ⟨0, .rw, false, BM_SIZE_W, BM_SIZE_W⟩]⟩,
  ⟨"BM_POS", 0x4c100150, [(2, 0x20)],
   [⟨16, .rw, false, BM_POS_Y, BM_POS_Y⟩, ⟨0, .rw, false, BM_POS_X, BM_POS_X⟩]⟩,
  ⟨"BM_CTLEN", 0x4c100154, [(2, 0x20)],
   [⟨0, .rw, false, BM_CTLEN_BYTES, BM_CTLEN_BYTES⟩]⟩,
  ⟨"DP_CTRL", 0x4c100200, [],
   [⟨1, .wo, false, DP_CTRL_AUX_GO, DP_CTRL_AUX_GO⟩, ⟨0, .wo, false, DP_CTRL_TRAIN, DP_CTRL_TRAIN⟩]⟩,
  ⟨"DP_STAT", 0x4c100204, [],
   [⟨10, .w1c, false, DP_STAT_AUX_ERR, DP_STAT_AUX_ERR⟩, ⟨9, .w1c, false, DP_STAT_AUX_DONE, DP_STAT_AUX_DONE⟩, ⟨8, .w1c, false, DP_STAT_LINK_LOST, DP_STAT_LINK_LOST⟩, ⟨1, .ro, false, DP_STAT_TRAINED, DP_STAT_TRAINED⟩, ⟨0, .ro, false, DP_STAT_HPD, DP_STAT_HPD⟩]⟩]

/-- The registers of file 13 of spec/ (composition, scanout, flattener and DisplayPort), part 4. -/
def regRows13d : List RegRow := [
  ⟨"DP_AUX", 0x4c100208, [],
   [⟨28, .rw, false, DP_AUX_CMD, DP_AUX_CMD⟩, ⟨8, .rw, false, DP_AUX_ADDR, DP_AUX_ADDR⟩, ⟨0, .rw, false, DP_AUX_LEN, DP_AUX_LEN⟩]⟩,
  ⟨"DP_AUXDATA", 0x4c100210, [(4, 0x4)],
   [⟨0, .rw, false, DP_AUXDATA_DATA, DP_AUXDATA_DATA⟩]⟩]

/-- The registers of file 14 of spec/ (audio), part 1. -/
def regRows14a : List RegRow := [
  ⟨"AUD_CTRL", 0x4d000000, [],
   [⟨0, .rw, false, AUD_CTRL_EN, AUD_CTRL_EN⟩]⟩,
  ⟨"AUD_STAT", 0x4d000004, [],
   [⟨4, .w1c, false, AUD_STAT_PCMLATE, AUD_STAT_PCMLATE⟩, ⟨3, .w1c, false, AUD_STAT_CLIP, AUD_STAT_CLIP⟩, ⟨2, .w1c, false, AUD_STAT_CFG_REFUSED, AUD_STAT_CFG_REFUSED⟩, ⟨1, .ro, false, AUD_STAT_RATE_OFF, AUD_STAT_RATE_OFF⟩]⟩,
  ⟨"AUD_RAMP", 0x4d000008, [],
   [⟨0, .rw, false, AUD_RAMP_STEP, AUD_RAMP_STEP⟩]⟩,
  ⟨"AUD_SAMPLE", 0x4d00000c, [],
   [⟨0, .ro, false, AUD_SAMPLE_COUNT, AUD_SAMPLE_COUNT⟩]⟩,
  ⟨"AUD_CLIP", 0x4d009000, [(40, 0x4)],
   [⟨0, .rc, false, AUD_CLIP_COUNT, AUD_CLIP_COUNT⟩]⟩,
  ⟨"VC_CFG", 0x4d000100, [(32, 0x40)],
   [⟨31, .rw, false, VC_CFG_EN, VC_CFG_EN⟩, ⟨30, .rw, false, VC_CFG_LOOP, VC_CFG_LOOP⟩, ⟨0, .rw, false, VC_CFG_WAVE, VC_CFG_WAVE⟩]⟩,
  ⟨"VC_FREQ", 0x4d000104, [(32, 0x40)],
   [⟨0, .rw, false, VC_FREQ_FREQ, VC_FREQ_FREQ⟩]⟩,
  ⟨"VC_AMP", 0x4d000108, [(32, 0x40)],
   [⟨0, .rw, false, VC_AMP_AMP, VC_AMP_AMP⟩]⟩,
  ⟨"VC_DUTY", 0x4d00010c, [(32, 0x40)],
   [⟨0, .rw, false, VC_DUTY_DUTY, VC_DUTY_DUTY⟩]⟩,
  ⟨"VC_WT", 0x4d000110, [(32, 0x40), (8, 0x4)],
   [⟨0, .rw, false, VC_WT_STEPS, VC_WT_STEPS⟩]⟩,
  ⟨"VC_PCM_ADDR", 0x4d000130, [(32, 0x40)],
   [⟨1, .rw, false, VC_PCM_ADDR_ADDR, VC_PCM_ADDR_ADDR⟩]⟩,
  ⟨"VC_PCM_LEN", 0x4d000134, [(32, 0x40)],
   [⟨0, .rw, false, VC_PCM_LEN_LEN, VC_PCM_LEN_LEN⟩]⟩]

/-- The registers of file 14 of spec/ (audio), part 2. -/
def regRows14b : List RegRow := [
  ⟨"VC_PCM_LOOP", 0x4d000138, [(32, 0x40)],
   [⟨0, .rw, false, VC_PCM_LOOP_START, VC_PCM_LOOP_START⟩]⟩,
  ⟨"VC_STAT", 0x4d00013c, [(32, 0x40)],
   [⟨8, .ro, false, VC_STAT_POS, VC_STAT_POS⟩, ⟨2, .w1c, false, VC_STAT_ERR, VC_STAT_ERR⟩, ⟨1, .w1c, false, VC_STAT_ENDED, VC_STAT_ENDED⟩, ⟨0, .ro, false, VC_STAT_ACTIVE, VC_STAT_ACTIVE⟩]⟩,
  ⟨"TDM_CFG", 0x4d000900, [(4, 0x20)],
   [⟨0, .rw, false, TDM_CFG_MODE, TDM_CFG_MODE⟩]⟩,
  ⟨"TDM_STAT", 0x4d000904, [(4, 0x20)],
   [⟨8, .ro, false, TDM_STAT_SLOTS, TDM_STAT_SLOTS⟩, ⟨3, .w1c, false, TDM_STAT_ASRC_LOST, TDM_STAT_ASRC_LOST⟩, ⟨2, .ro, false, TDM_STAT_LOCKED, TDM_STAT_LOCKED⟩]⟩,
  ⟨"TDM_RATIO", 0x4d000908, [(4, 0x20)],
   [⟨0, .ro, false, TDM_RATIO_RATIO, TDM_RATIO_RATIO⟩]⟩,
  ⟨"TAP_CFG", 0x4d000a00, [(32, 0x8)],
   [⟨31, .rw, false, TAP_CFG_EN, TAP_CFG_EN⟩, ⟨30, .rw, false, TAP_CFG_TYPE, TAP_CFG_TYPE⟩, ⟨24, .rw, false, TAP_CFG_SHIFT, TAP_CFG_SHIFT⟩, ⟨12, .rw, false, TAP_CFG_CTX, TAP_CFG_CTX⟩, ⟨0, .rw, false, TAP_CFG_WORD, TAP_CFG_WORD⟩]⟩,
  ⟨"TAP_VAL", 0x4d000a04, [(32, 0x8)],
   [⟨0, .ro, false, TAP_VAL_SAMPLE, TAP_VAL_SAMPLE⟩]⟩,
  ⟨"BQ_B0", 0x4d001000, [(96, 0x80), (4, 0x14)],
   [⟨0, .sh, false, BQ_B0_COEF, BQ_B0_COEF_E⟩]⟩,
  ⟨"BQ_B1", 0x4d001004, [(96, 0x80), (4, 0x14)],
   [⟨0, .sh, false, BQ_B1_COEF, BQ_B1_COEF_E⟩]⟩,
  ⟨"BQ_B2", 0x4d001008, [(96, 0x80), (4, 0x14)],
   [⟨0, .sh, false, BQ_B2_COEF, BQ_B2_COEF_E⟩]⟩,
  ⟨"BQ_A1", 0x4d00100c, [(96, 0x80), (4, 0x14)],
   [⟨0, .sh, false, BQ_A1_COEF, BQ_A1_COEF_E⟩]⟩,
  ⟨"BQ_A2", 0x4d001010, [(96, 0x80), (4, 0x14)],
   [⟨0, .sh, false, BQ_A2_COEF, BQ_A2_COEF_E⟩]⟩]

/-- The registers of file 14 of spec/ (audio), part 3. -/
def regRows14c : List RegRow := [
  ⟨"IN_CTRL", 0x4d001050, [(96, 0x80)],
   [⟨1, .wo, false, IN_CTRL_CLEAR, IN_CTRL_CLEAR⟩, ⟨0, .wo, false, IN_CTRL_COMMIT, IN_CTRL_COMMIT⟩]⟩,
  ⟨"IN_VAL", 0x4d001054, [(96, 0x80)],
   [⟨0, .ro, false, IN_VAL_SAMPLE, IN_VAL_SAMPLE⟩]⟩,
  ⟨"XP_NODE", 0x4d004000, [(3840, 0x4)],
   [⟨8, .ro, false, XP_NODE_CURRENT, XP_NODE_CURRENT⟩, ⟨0, .rw, false, XP_NODE_TARGET, XP_NODE_TARGET⟩]⟩,
  ⟨"MTR_CFG", 0x4d008000, [(104, 0x20)],
   [⟨31, .rw, false, MTR_CFG_THR_EN, MTR_CFG_THR_EN⟩, ⟨30, .rw, false, MTR_CFG_SEL, MTR_CFG_SEL⟩, ⟨29, .rw, false, MTR_CFG_SOFT_EN, MTR_CFG_SOFT_EN⟩, ⟨24, .rw, false, MTR_CFG_DECAY, MTR_CFG_DECAY⟩, ⟨20, .rw, false, MTR_CFG_EVT, MTR_CFG_EVT⟩, ⟨14, .rw, false, MTR_CFG_SOFT, MTR_CFG_SOFT⟩, ⟨8, .rw, false, MTR_CFG_TAU, MTR_CFG_TAU⟩, ⟨0, .rw, false, MTR_CFG_HOLD, MTR_CFG_HOLD⟩]⟩,
  ⟨"MTR_THR", 0x4d008004, [(104, 0x20)],
   [⟨16, .rw, false, MTR_THR_HI, MTR_THR_HI⟩, ⟨0, .rw, false, MTR_THR_LO, MTR_THR_LO⟩]⟩,
  ⟨"MTR_PEAK", 0x4d008008, [(104, 0x20)],
   [⟨0, .ro, false, MTR_PEAK_PEAK, MTR_PEAK_PEAK⟩]⟩,
  ⟨"MTR_MAXPK", 0x4d00800c, [(104, 0x20)],
   [⟨0, .rc, false, MTR_MAXPK_MAXPK, MTR_MAXPK_MAXPK⟩]⟩,
  ⟨"MTR_MS", 0x4d008010, [(104, 0x20)],
   [⟨0, .ro, false, MTR_MS_MS, MTR_MS_MS⟩]⟩,
  ⟨"MTR_RMS", 0x4d008014, [(104, 0x20)],
   [⟨0, .ro, false, MTR_RMS_RMS, MTR_RMS_RMS⟩]⟩,
  ⟨"MTR_STAT", 0x4d008018, [(104, 0x20)],
   [⟨0, .ro, false, MTR_STAT_ABOVE, MTR_STAT_ABOVE⟩]⟩]

/-- The registers of file 15 of spec/ (fault collector), part 1. -/
def regRows15a : List RegRow := [
  ⟨"FLT_SUM_LO", 0x4e000000, [],
   [⟨0, .ro, false, FLT_SUM_LO_SUM, FLT_SUM_LO_SUM⟩]⟩,
  ⟨"FLT_SUM_HI", 0x4e000004, [],
   [⟨0, .ro, false, FLT_SUM_HI_SUM, FLT_SUM_HI_SUM⟩]⟩,
  ⟨"FLT_RG_LO", 0x4e000010, [(4, 0x8)],
   [⟨0, .w1c, false, FLT_RG_LO_BITS, FLT_RG_LO_BITS⟩]⟩,
  ⟨"FLT_RG_HI", 0x4e000014, [(4, 0x8)],
   [⟨0, .w1c, false, FLT_RG_HI_BITS, FLT_RG_HI_BITS⟩]⟩,
  ⟨"FLT_PKG", 0x4e000040, [(8, 0x4)],
   [⟨0, .w1c, false, FLT_PKG_BITS, FLT_PKG_BITS⟩]⟩,
  ⟨"FLT_CFG", 0x4e000080, [],
   [⟨31, .rw, false, FLT_CFG_LOCK, FLT_CFG_LOCK⟩, ⟨16, .rw, false, FLT_CFG_STICKY, FLT_CFG_STICKY⟩, ⟨0, .rw, false, FLT_CFG_MERGE_LINES, FLT_CFG_MERGE_LINES⟩]⟩,
  ⟨"FLT_CTRL", 0x4e000084, [],
   [⟨2, .rw, false, FLT_CTRL_ERR_FORCE, FLT_CTRL_ERR_FORCE⟩, ⟨1, .wo, false, FLT_CTRL_ERR_RELEASE, FLT_CTRL_ERR_RELEASE⟩, ⟨0, .wo, false, FLT_CTRL_UNFREEZE, FLT_CTRL_UNFREEZE⟩]⟩,
  ⟨"FLT_ACK", 0x4e000088, [],
   [⟨5, .wo, false, FLT_ACK_ALL, FLT_ACK_ALL⟩, ⟨0, .wo, false, FLT_ACK_ENTRY, FLT_ACK_ENTRY⟩]⟩,
  ⟨"FLT_STAT", 0x4e00008c, [],
   [⟨16, .ro, false, FLT_STAT_LOST, FLT_STAT_LOST⟩, ⟨2, .w1c, false, FLT_STAT_CFG_REFUSED, FLT_STAT_CFG_REFUSED⟩, ⟨1, .ro, false, FLT_STAT_ERR, FLT_STAT_ERR⟩, ⟨0, .ro, false, FLT_STAT_FROZEN, FLT_STAT_FROZEN⟩]⟩,
  ⟨"FLT_TRAIL", 0x4e000090, [],
   [⟨8, .ro, false, FLT_TRAIL_COUNT, FLT_TRAIL_COUNT⟩, ⟨0, .ro, false, FLT_TRAIL_NEXT, FLT_TRAIL_NEXT⟩]⟩,
  ⟨"FLT_TOTAL", 0x4e000094, [],
   [⟨0, .ro, false, FLT_TOTAL_COUNT, FLT_TOTAL_COUNT⟩]⟩,
  ⟨"FLT_TRAPLOST", 0x4e000098, [],
   [⟨0, .rc, false, FLT_TRAPLOST_COUNT, FLT_TRAPLOST_COUNT⟩]⟩]

/-- The registers of file 15 of spec/ (fault collector), part 2. -/
def regRows15b : List RegRow := [
  ⟨"FLT_LASTRST", 0x4e00009c, [],
   [⟨31, .ro, false, FLT_LASTRST_VALID, FLT_LASTRST_VALID⟩, ⟨0, .ro, false, FLT_LASTRST_SOURCE, FLT_LASTRST_SOURCE⟩]⟩,
  ⟨"TRAIL", 0x4e001000, [(32, 0x20), (8, 0x4)],
   [⟨0, .ro, false, TRAIL_W, TRAIL_W⟩]⟩]

/-- The registers of file 16 of spec/ (storage and interfaces), part 1. -/
def regRows16a : List RegRow := [
  ⟨"CFS_LOCK", 0x4f100000, [],
   [⟨22, .rw, false, CFS_LOCK_GENERAL, CFS_LOCK_GENERAL⟩, ⟨5, .rw, false, CFS_LOCK_SIGS, CFS_LOCK_SIGS⟩, ⟨4, .rw, false, CFS_LOCK_BOOT, CFS_LOCK_BOOT⟩, ⟨0, .rw, false, CFS_LOCK_SLOT, CFS_LOCK_SLOT⟩]⟩,
  ⟨"CFS_STAT", 0x4f100004, [],
   [⟨0, .ro, false, CFS_STAT_QDEPTH, CFS_STAT_QDEPTH⟩]⟩,
  ⟨"CFS_CE_CNT", 0x4f100008, [],
   [⟨0, .rc, false, CFS_CE_CNT_COUNT, CFS_CE_CNT_COUNT⟩]⟩,
  ⟨"CFS_UE_CNT", 0x4f10000c, [],
   [⟨0, .rc, false, CFS_UE_CNT_COUNT, CFS_UE_CNT_COUNT⟩]⟩,
  ⟨"CFS_ERRADDR", 0x4f100010, [],
   [⟨0, .ro, false, CFS_ERRADDR_ADDR, CFS_ERRADDR_ADDR⟩]⟩,
  ⟨"NF_CTRL", 0x4f000010, [],
   [⟨0, .rw, false, NF_CTRL_EN, NF_CTRL_EN⟩]⟩,
  ⟨"NF_GEOM", 0x4f000014, [],
   [⟨28, .ro, false, NF_GEOM_TARGETS, NF_GEOM_TARGETS⟩, ⟨24, .ro, false, NF_GEOM_PAGE, NF_GEOM_PAGE⟩, ⟨12, .ro, false, NF_GEOM_PPB, NF_GEOM_PPB⟩, ⟨0, .ro, false, NF_GEOM_TMODE, NF_GEOM_TMODE⟩]⟩,
  ⟨"NF_CFG", 0x4f000018, [],
   [⟨16, .rw, false, NF_CFG_CANTEEN, NF_CFG_CANTEEN⟩, ⟨0, .rw, false, NF_CFG_LOW_WATER, NF_CFG_LOW_WATER⟩]⟩,
  ⟨"NF_CFG2", 0x4f00001c, [],
   [⟨8, .rw, false, NF_CFG2_WL_DELTA, NF_CFG2_WL_DELTA⟩, ⟨0, .rw, false, NF_CFG2_REFRESH_BITS, NF_CFG2_REFRESH_BITS⟩]⟩,
  ⟨"NF_PATROL", 0x4f000020, [],
   [⟨0, .rw, false, NF_PATROL_HOURS, NF_PATROL_HOURS⟩]⟩,
  ⟨"NF_STAT", 0x4f000024, [],
   [⟨6, .w1c, false, NF_STAT_QFULL, NF_STAT_QFULL⟩, ⟨5, .w1c, false, NF_STAT_CFG_REFUSED, NF_STAT_CFG_REFUSED⟩, ⟨4, .ro, false, NF_STAT_SEALED, NF_STAT_SEALED⟩, ⟨3, .ro, false, NF_STAT_LOW, NF_STAT_LOW⟩, ⟨2, .ro, false, NF_STAT_NOVOL, NF_STAT_NOVOL⟩, ⟨1, .ro, false, NF_STAT_NODEV, NF_STAT_NODEV⟩, ⟨0, .ro, false, NF_STAT_READY, NF_STAT_READY⟩]⟩,
  ⟨"NF_CANTEEN", 0x4f000028, [],
   [⟨16, .ro, false, NF_CANTEEN_RESERVE, NF_CANTEEN_RESERVE⟩, ⟨0, .ro, false, NF_CANTEEN_LEFT, NF_CANTEEN_LEFT⟩]⟩]

/-- The registers of file 16 of spec/ (storage and interfaces), part 2. -/
def regRows16b : List RegRow := [
  ⟨"NF_SECTORS", 0x4f00002c, [],
   [⟨0, .ro, false, NF_SECTORS_COUNT, NF_SECTORS_COUNT⟩]⟩,
  ⟨"NF_CMD", 0x4f000030, [(4, 0x4)],
   [⟨0, .rw, false, NF_CMD_WORD, NF_CMD_WORD⟩]⟩,
  ⟨"NF_PUSH", 0x4f000040, [],
   [⟨0, .wo, false, NF_PUSH_GO, NF_PUSH_GO⟩]⟩,
  ⟨"NF_DONE0", 0x4f000044, [],
   [⟨0, .ro, false, NF_DONE0_WORD0, NF_DONE0_WORD0⟩]⟩,
  ⟨"NF_DONE1", 0x4f000048, [],
   [⟨0, .rc, false, NF_DONE1_WORD1, NF_DONE1_WORD1⟩]⟩,
  ⟨"NF_CORR", 0x4f000050, [],
   [⟨0, .rc, false, NF_CORR_COUNT, NF_CORR_COUNT⟩]⟩,
  ⟨"NF_RETRYCNT", 0x4f000054, [],
   [⟨0, .rc, false, NF_RETRYCNT_COUNT, NF_RETRYCNT_COUNT⟩]⟩,
  ⟨"NF_UECNT", 0x4f000058, [],
   [⟨0, .rc, false, NF_UECNT_COUNT, NF_UECNT_COUNT⟩]⟩,
  ⟨"NF_BAD", 0x4f00005c, [],
   [⟨0, .ro, false, NF_BAD_COUNT, NF_BAD_COUNT⟩]⟩,
  ⟨"NF_WEAR", 0x4f000060, [],
   [⟨16, .ro, false, NF_WEAR_MAX, NF_WEAR_MAX⟩, ⟨0, .ro, false, NF_WEAR_MIN, NF_WEAR_MIN⟩]⟩,
  ⟨"NF_WORK", 0x4f000064, [],
   [⟨0, .rw, false, NF_WORK_BASE, NF_WORK_BASE⟩]⟩,
  ⟨"ETXQ_BASE", 0x50000200, [(2, 0x10000), (8, 0x20)],
   [⟨5, .rw, false, ETXQ_BASE_ADDR, ETXQ_BASE_ADDR⟩]⟩]

/-- The registers of file 16 of spec/ (storage and interfaces), part 3. -/
def regRows16c : List RegRow := [
  ⟨"ERXQ_BASE", 0x50000300, [(2, 0x10000), (4, 0x20)],
   [⟨5, .rw, false, ERXQ_BASE_ADDR, ERXQ_BASE_ADDR⟩]⟩,
  ⟨"CTXQ_BASE", 0x50200100, [(4, 0x1000)],
   [⟨5, .rw, false, CTXQ_BASE_ADDR, CTXQ_BASE_ADDR⟩]⟩,
  ⟨"CRXQ_BASE", 0x50200120, [(4, 0x1000)],
   [⟨5, .rw, false, CRXQ_BASE_ADDR, CRXQ_BASE_ADDR⟩]⟩,
  ⟨"ETXQ_SIZE", 0x50000204, [(2, 0x10000), (8, 0x20)],
   [⟨0, .rw, false, ETXQ_SIZE_SIZE, ETXQ_SIZE_SIZE⟩]⟩,
  ⟨"ERXQ_SIZE", 0x50000304, [(2, 0x10000), (4, 0x20)],
   [⟨0, .rw, false, ERXQ_SIZE_SIZE, ERXQ_SIZE_SIZE⟩]⟩,
  ⟨"CTXQ_SIZE", 0x50200104, [(4, 0x1000)],
   [⟨0, .rw, false, CTXQ_SIZE_SIZE, CTXQ_SIZE_SIZE⟩]⟩,
  ⟨"CRXQ_SIZE", 0x50200124, [(4, 0x1000)],
   [⟨0, .rw, false, CRXQ_SIZE_SIZE, CRXQ_SIZE_SIZE⟩]⟩,
  ⟨"ETXQ_PROD", 0x50000208, [(2, 0x10000), (8, 0x20)],
   [⟨0, .rw, false, ETXQ_PROD_INDEX, ETXQ_PROD_INDEX⟩]⟩,
  ⟨"ERXQ_PROD", 0x50000308, [(2, 0x10000), (4, 0x20)],
   [⟨0, .rw, false, ERXQ_PROD_INDEX, ERXQ_PROD_INDEX⟩]⟩,
  ⟨"CTXQ_PROD", 0x50200108, [(4, 0x1000)],
   [⟨0, .rw, false, CTXQ_PROD_INDEX, CTXQ_PROD_INDEX⟩]⟩,
  ⟨"CRXQ_PROD", 0x50200128, [(4, 0x1000)],
   [⟨0, .rw, false, CRXQ_PROD_INDEX, CRXQ_PROD_INDEX⟩]⟩,
  ⟨"ETXQ_CONS", 0x5000020c, [(2, 0x10000), (8, 0x20)],
   [⟨0, .ro, false, ETXQ_CONS_INDEX, ETXQ_CONS_INDEX⟩]⟩]

/-- The registers of file 16 of spec/ (storage and interfaces), part 4. -/
def regRows16d : List RegRow := [
  ⟨"ERXQ_CONS", 0x5000030c, [(2, 0x10000), (4, 0x20)],
   [⟨0, .ro, false, ERXQ_CONS_INDEX, ERXQ_CONS_INDEX⟩]⟩,
  ⟨"CTXQ_CONS", 0x5020010c, [(4, 0x1000)],
   [⟨0, .ro, false, CTXQ_CONS_INDEX, CTXQ_CONS_INDEX⟩]⟩,
  ⟨"CRXQ_CONS", 0x5020012c, [(4, 0x1000)],
   [⟨0, .ro, false, CRXQ_CONS_INDEX, CRXQ_CONS_INDEX⟩]⟩,
  ⟨"ETXQ_STAT", 0x50000210, [(2, 0x10000), (8, 0x20)],
   [⟨8, .ro, false, ETXQ_STAT_ERRCODE, ETXQ_STAT_ERRCODE⟩, ⟨1, .ro, false, ETXQ_STAT_ERR, ETXQ_STAT_ERR⟩, ⟨0, .ro, false, ETXQ_STAT_BUSY, ETXQ_STAT_BUSY⟩]⟩,
  ⟨"ERXQ_STAT", 0x50000310, [(2, 0x10000), (4, 0x20)],
   [⟨8, .ro, false, ERXQ_STAT_ERRCODE, ERXQ_STAT_ERRCODE⟩, ⟨1, .ro, false, ERXQ_STAT_ERR, ERXQ_STAT_ERR⟩, ⟨0, .ro, false, ERXQ_STAT_BUSY, ERXQ_STAT_BUSY⟩]⟩,
  ⟨"CTXQ_STAT", 0x50200110, [(4, 0x1000)],
   [⟨8, .ro, false, CTXQ_STAT_ERRCODE, CTXQ_STAT_ERRCODE⟩, ⟨1, .ro, false, CTXQ_STAT_ERR, CTXQ_STAT_ERR⟩, ⟨0, .ro, false, CTXQ_STAT_BUSY, CTXQ_STAT_BUSY⟩]⟩,
  ⟨"CRXQ_STAT", 0x50200130, [(4, 0x1000)],
   [⟨8, .ro, false, CRXQ_STAT_ERRCODE, CRXQ_STAT_ERRCODE⟩, ⟨1, .ro, false, CRXQ_STAT_ERR, CRXQ_STAT_ERR⟩, ⟨0, .ro, false, CRXQ_STAT_BUSY, CRXQ_STAT_BUSY⟩]⟩,
  ⟨"ETH_CTRL", 0x50000000, [(2, 0x10000)],
   [⟨4, .rw, false, ETH_CTRL_PAUSE, ETH_CTRL_PAUSE⟩, ⟨3, .rw, false, ETH_CTRL_BCAST, ETH_CTRL_BCAST⟩, ⟨2, .rw, false, ETH_CTRL_PROMISC, ETH_CTRL_PROMISC⟩, ⟨1, .rw, false, ETH_CTRL_MODE, ETH_CTRL_MODE⟩, ⟨0, .rw, false, ETH_CTRL_EN, ETH_CTRL_EN⟩]⟩,
  ⟨"ETH_STAT", 0x50000004, [(2, 0x10000)],
   [⟨3, .w1c, false, ETH_STAT_CFG_REFUSED, ETH_STAT_CFG_REFUSED⟩, ⟨1, .ro, false, ETH_STAT_SPEED, ETH_STAT_SPEED⟩, ⟨0, .ro, false, ETH_STAT_LINK, ETH_STAT_LINK⟩]⟩,
  ⟨"ETH_ADDR_LO", 0x50000100, [(2, 0x10000), (16, 0x8)],
   [⟨0, .rw, false, ETH_ADDR_LO_ADDR, ETH_ADDR_LO_ADDR⟩]⟩,
  ⟨"ETH_ADDR_HI", 0x50000104, [(2, 0x10000), (16, 0x8)],
   [⟨31, .rw, false, ETH_ADDR_HI_EN, ETH_ADDR_HI_EN⟩, ⟨0, .rw, false, ETH_ADDR_HI_ADDR, ETH_ADDR_HI_ADDR⟩]⟩,
  ⟨"ETH_RXMAP", 0x50000180, [(2, 0x10000)],
   [⟨16, .rw, false, ETH_RXMAP_UNTAGGED, ETH_RXMAP_UNTAGGED⟩, ⟨0, .rw, false, ETH_RXMAP_PCP0, ETH_RXMAP_PCP0⟩, ⟨2, .rw, false, ETH_RXMAP_PCP1, ETH_RXMAP_PCP1⟩, ⟨4, .rw, false, ETH_RXMAP_PCP2, ETH_RXMAP_PCP2⟩, ⟨6, .rw, false, ETH_RXMAP_PCP3, ETH_RXMAP_PCP3⟩, ⟨8, .rw, false, ETH_RXMAP_PCP4, ETH_RXMAP_PCP4⟩, ⟨10, .rw, false, ETH_RXMAP_PCP5, ETH_RXMAP_PCP5⟩, ⟨12, .rw, false, ETH_RXMAP_PCP6, ETH_RXMAP_PCP6⟩, ⟨14, .rw, false, ETH_RXMAP_PCP7, ETH_RXMAP_PCP7⟩]⟩]

/-- The registers of file 16 of spec/ (storage and interfaces), part 5. -/
def regRows16e : List RegRow := [
  ⟨"ETH_ETYPE", 0x50000184, [(2, 0x10000), (4, 0x4)],
   [⟨31, .rw, false, ETH_ETYPE_EN, ETH_ETYPE_EN⟩, ⟨16, .rw, false, ETH_ETYPE_QUEUE, ETH_ETYPE_QUEUE⟩, ⟨0, .rw, false, ETH_ETYPE_ETYPE, ETH_ETYPE_ETYPE⟩]⟩,
  ⟨"ETH_CBS", 0x50000400, [(2, 0x10000), (8, 0x4)],
   [⟨31, .rw, false, ETH_CBS_EN, ETH_CBS_EN⟩, ⟨0, .rw, false, ETH_CBS_IDLE, ETH_CBS_IDLE⟩]⟩,
  ⟨"ETH_GCL_CYCLE", 0x50000500, [(2, 0x10000)],
   [⟨0, .sh, false, ETH_GCL_CYCLE_LINES, ETH_GCL_CYCLE_LINES_E⟩]⟩,
  ⟨"ETH_GCL_LEN", 0x50000504, [(2, 0x10000)],
   [⟨0, .sh, false, ETH_GCL_LEN_COUNT, ETH_GCL_LEN_COUNT_E⟩]⟩,
  ⟨"ETH_GCL_CTRL", 0x50000508, [(2, 0x10000)],
   [⟨0, .wo, false, ETH_GCL_CTRL_COMMIT, ETH_GCL_CTRL_COMMIT⟩]⟩,
  ⟨"ETH_GCL_STAT", 0x5000050c, [(2, 0x10000)],
   [⟨8, .ro, false, ETH_GCL_STAT_ENTRY, ETH_GCL_STAT_ENTRY⟩, ⟨0, .ro, false, ETH_GCL_STAT_PEND, ETH_GCL_STAT_PEND⟩]⟩,
  ⟨"ETH_RX_OK", 0x50000600, [(2, 0x10000)],
   [⟨0, .rc, false, ETH_RX_OK_COUNT, ETH_RX_OK_COUNT⟩]⟩,
  ⟨"ETH_RX_FCS", 0x50000604, [(2, 0x10000)],
   [⟨0, .rc, false, ETH_RX_FCS_COUNT, ETH_RX_FCS_COUNT⟩]⟩,
  ⟨"ETH_RX_FILTERED", 0x50000608, [(2, 0x10000)],
   [⟨0, .rc, false, ETH_RX_FILTERED_COUNT, ETH_RX_FILTERED_COUNT⟩]⟩,
  ⟨"ETH_RX_NODESC", 0x5000060c, [(2, 0x10000)],
   [⟨0, .rc, false, ETH_RX_NODESC_COUNT, ETH_RX_NODESC_COUNT⟩]⟩,
  ⟨"ETH_RX_LEN", 0x50000610, [(2, 0x10000)],
   [⟨0, .rc, false, ETH_RX_LEN_COUNT, ETH_RX_LEN_COUNT⟩]⟩,
  ⟨"ETH_TX_OK", 0x50000614, [(2, 0x10000)],
   [⟨0, .rc, false, ETH_TX_OK_COUNT, ETH_TX_OK_COUNT⟩]⟩]

/-- The registers of file 16 of spec/ (storage and interfaces), part 6. -/
def regRows16f : List RegRow := [
  ⟨"ETH_TX_LATE", 0x50000618, [(2, 0x10000)],
   [⟨0, .rc, false, ETH_TX_LATE_COUNT, ETH_TX_LATE_COUNT⟩]⟩,
  ⟨"ETH_MDIO", 0x50000700, [(2, 0x10000)],
   [⟨31, .wo, false, ETH_MDIO_GO, ETH_MDIO_GO⟩, ⟨30, .rw, false, ETH_MDIO_C45, ETH_MDIO_C45⟩, ⟨28, .rw, false, ETH_MDIO_OP, ETH_MDIO_OP⟩, ⟨23, .rw, false, ETH_MDIO_PHY, ETH_MDIO_PHY⟩, ⟨18, .rw, false, ETH_MDIO_REG, ETH_MDIO_REG⟩, ⟨0, .rw, false, ETH_MDIO_DATA, ETH_MDIO_DATA⟩]⟩,
  ⟨"ETH_MDIO_STAT", 0x50000704, [(2, 0x10000)],
   [⟨1, .w1c, false, ETH_MDIO_STAT_DONE, ETH_MDIO_STAT_DONE⟩, ⟨0, .ro, false, ETH_MDIO_STAT_BUSY, ETH_MDIO_STAT_BUSY⟩]⟩,
  ⟨"ETH_GCL", 0x50000800, [(2, 0x10000), (256, 0x4)],
   [⟨24, .sh, false, ETH_GCL_GATES, ETH_GCL_GATES_E⟩, ⟨0, .sh, false, ETH_GCL_DOTS, ETH_GCL_DOTS_E⟩]⟩,
  ⟨"PCIE_CTRL", 0x50100000, [],
   [⟨4, .rw, false, PCIE_CTRL_MAXWIDTH, PCIE_CTRL_MAXWIDTH⟩, ⟨1, .rw, false, PCIE_CTRL_MAXGEN, PCIE_CTRL_MAXGEN⟩, ⟨0, .rw, false, PCIE_CTRL_EN, PCIE_CTRL_EN⟩]⟩,
  ⟨"PCIE_STAT", 0x50100004, [],
   [⟨7, .w1c, false, PCIE_STAT_CFG_REFUSED, PCIE_STAT_CFG_REFUSED⟩, ⟨6, .ro, false, PCIE_STAT_PERST, PCIE_STAT_PERST⟩, ⟨4, .ro, false, PCIE_STAT_WIDTH, PCIE_STAT_WIDTH⟩, ⟨1, .ro, false, PCIE_STAT_GEN, PCIE_STAT_GEN⟩, ⟨0, .ro, false, PCIE_STAT_LINK_UP, PCIE_STAT_LINK_UP⟩]⟩,
  ⟨"PCIE_ID0", 0x50100008, [],
   [⟨16, .rw, false, PCIE_ID0_DEVICE, PCIE_ID0_DEVICE⟩, ⟨0, .rw, false, PCIE_ID0_VENDOR, PCIE_ID0_VENDOR⟩]⟩,
  ⟨"PCIE_ID1", 0x5010000c, [],
   [⟨16, .rw, false, PCIE_ID1_SUBSYS, PCIE_ID1_SUBSYS⟩, ⟨0, .rw, false, PCIE_ID1_SUBVENDOR, PCIE_ID1_SUBVENDOR⟩]⟩,
  ⟨"PCIE_ID2", 0x50100010, [],
   [⟨0, .rw, false, PCIE_ID2_CLASS, PCIE_ID2_CLASS⟩]⟩,
  ⟨"PCIE_BAR0", 0x50100014, [],
   [⟨0, .rw, false, PCIE_BAR0_LOG2SIZE, PCIE_BAR0_LOG2SIZE⟩]⟩,
  ⟨"PCIE_CTO", 0x50100018, [],
   [⟨0, .rw, false, PCIE_CTO_MICROS, PCIE_CTO_MICROS⟩]⟩,
  ⟨"PCIE_MSI_SEND", 0x5010001c, [],
   [⟨0, .wo, false, PCIE_MSI_SEND_VECTOR, PCIE_MSI_SEND_VECTOR⟩]⟩]

/-- The registers of file 16 of spec/ (storage and interfaces), part 7. -/
def regRows16g : List RegRow := [
  ⟨"PCIE_DB", 0x50100020, [(8, 0x4)],
   [⟨0, .wo, false, PCIE_DB_VALUE, PCIE_DB_VALUE⟩]⟩,
  ⟨"PCIE_REFUSED", 0x50100040, [],
   [⟨0, .rc, false, PCIE_REFUSED_COUNT, PCIE_REFUSED_COUNT⟩]⟩,
  ⟨"PCIE_POISON", 0x50100044, [],
   [⟨0, .rc, false, PCIE_POISON_COUNT, PCIE_POISON_COUNT⟩]⟩,
  ⟨"PCIE_OUTERR", 0x50100048, [],
   [⟨0, .rc, false, PCIE_OUTERR_COUNT, PCIE_OUTERR_COUNT⟩]⟩,
  ⟨"PIW_OFFSET", 0x50100110, [(8, 0x20)],
   [⟨12, .rw, false, PIW_OFFSET_OFFSET, PIW_OFFSET_OFFSET⟩]⟩,
  ⟨"PIW_SIZE", 0x50100114, [(8, 0x20)],
   [⟨12, .rw, false, PIW_SIZE_SIZE, PIW_SIZE_SIZE⟩]⟩,
  ⟨"PIW_DEST", 0x50100118, [(8, 0x20)],
   [⟨12, .rw, false, PIW_DEST_ADDR, PIW_DEST_ADDR⟩]⟩,
  ⟨"POW_LO", 0x50100200, [(8, 0x8)],
   [⟨26, .rw, false, POW_LO_ADDR, POW_LO_ADDR⟩]⟩,
  ⟨"POW_HI", 0x50100204, [(8, 0x8)],
   [⟨0, .rw, false, POW_HI_ADDR, POW_HI_ADDR⟩]⟩,
  ⟨"CAN_CTRL", 0x50200000, [(4, 0x1000)],
   [⟨4, .rw, false, CAN_CTRL_FD_EN, CAN_CTRL_FD_EN⟩, ⟨2, .rw, false, CAN_CTRL_MODE, CAN_CTRL_MODE⟩, ⟨1, .wo, false, CAN_CTRL_RECOVER, CAN_CTRL_RECOVER⟩, ⟨0, .rw, false, CAN_CTRL_EN, CAN_CTRL_EN⟩]⟩,
  ⟨"CAN_STAT", 0x50200004, [(4, 0x1000)],
   [⟨24, .w1c, false, CAN_STAT_CFG_REFUSED, CAN_STAT_CFG_REFUSED⟩, ⟨16, .ro, false, CAN_STAT_REC, CAN_STAT_REC⟩, ⟨8, .ro, false, CAN_STAT_TEC, CAN_STAT_TEC⟩, ⟨0, .ro, false, CAN_STAT_STATE, CAN_STAT_STATE⟩]⟩,
  ⟨"CAN_NBT", 0x50200008, [(4, 0x1000)],
   [⟨25, .rw, false, CAN_NBT_SJW, CAN_NBT_SJW⟩, ⟨18, .rw, false, CAN_NBT_TSEG2, CAN_NBT_TSEG2⟩, ⟨10, .rw, false, CAN_NBT_TSEG1, CAN_NBT_TSEG1⟩, ⟨0, .rw, false, CAN_NBT_BRP, CAN_NBT_BRP⟩]⟩]

/-- The registers of file 16 of spec/ (storage and interfaces), part 8. -/
def regRows16h : List RegRow := [
  ⟨"CAN_DBT", 0x5020000c, [(4, 0x1000)],
   [⟨20, .rw, false, CAN_DBT_SJW, CAN_DBT_SJW⟩, ⟨16, .rw, false, CAN_DBT_TSEG2, CAN_DBT_TSEG2⟩, ⟨8, .rw, false, CAN_DBT_TSEG1, CAN_DBT_TSEG1⟩, ⟨0, .rw, false, CAN_DBT_BRP, CAN_DBT_BRP⟩]⟩,
  ⟨"CAN_TDC", 0x50200010, [(4, 0x1000)],
   [⟨31, .rw, false, CAN_TDC_EN, CAN_TDC_EN⟩, ⟨0, .rw, false, CAN_TDC_OFFSET, CAN_TDC_OFFSET⟩]⟩,
  ⟨"CAN_FLT_ID", 0x50200400, [(4, 0x1000), (32, 0x8)],
   [⟨31, .rw, false, CAN_FLT_ID_EN, CAN_FLT_ID_EN⟩, ⟨29, .rw, false, CAN_FLT_ID_IDE, CAN_FLT_ID_IDE⟩, ⟨0, .rw, false, CAN_FLT_ID_ID, CAN_FLT_ID_ID⟩]⟩,
  ⟨"CAN_FLT_MASK", 0x50200404, [(4, 0x1000), (32, 0x8)],
   [⟨0, .rw, false, CAN_FLT_MASK_MASK, CAN_FLT_MASK_MASK⟩]⟩,
  ⟨"UART_CTRL", 0x50300000, [],
   [⟨8, .rw, false, UART_CTRL_RS485, UART_CTRL_RS485⟩, ⟨7, .rw, false, UART_CTRL_FLOW, UART_CTRL_FLOW⟩, ⟨6, .rw, false, UART_CTRL_STOP2, UART_CTRL_STOP2⟩, ⟨3, .rw, false, UART_CTRL_PARITY, UART_CTRL_PARITY⟩, ⟨1, .rw, false, UART_CTRL_BITS, UART_CTRL_BITS⟩, ⟨0, .rw, false, UART_CTRL_EN, UART_CTRL_EN⟩]⟩,
  ⟨"UART_DIV", 0x50300004, [],
   [⟨16, .rw, false, UART_DIV_FRAC, UART_DIV_FRAC⟩, ⟨0, .rw, false, UART_DIV_DIV, UART_DIV_DIV⟩]⟩,
  ⟨"UART_DATA", 0x50300008, [],
   [⟨11, .rc, false, UART_DATA_BREAK, UART_DATA_BREAK⟩, ⟨10, .rc, false, UART_DATA_PARITY, UART_DATA_PARITY⟩, ⟨9, .rc, false, UART_DATA_FRAMING, UART_DATA_FRAMING⟩, ⟨8, .rc, false, UART_DATA_VALID, UART_DATA_VALID⟩, ⟨0, .rw, false, UART_DATA_CHAR, UART_DATA_CHAR⟩]⟩,
  ⟨"UART_FIFO", 0x5030000c, [],
   [⟨24, .rw, false, UART_FIFO_RXTHR, UART_FIFO_RXTHR⟩, ⟨16, .rw, false, UART_FIFO_TXTHR, UART_FIFO_TXTHR⟩, ⟨8, .ro, false, UART_FIFO_RXLVL, UART_FIFO_RXLVL⟩, ⟨0, .ro, false, UART_FIFO_TXLVL, UART_FIFO_TXLVL⟩]⟩,
  ⟨"UART_STAT", 0x50300010, [],
   [⟨5, .w1c, false, UART_STAT_TXFULL, UART_STAT_TXFULL⟩, ⟨4, .w1c, false, UART_STAT_CFG_REFUSED, UART_STAT_CFG_REFUSED⟩, ⟨3, .w1c, false, UART_STAT_BREAK, UART_STAT_BREAK⟩, ⟨2, .w1c, false, UART_STAT_PARITY, UART_STAT_PARITY⟩, ⟨1, .w1c, false, UART_STAT_FRAMING, UART_STAT_FRAMING⟩, ⟨0, .w1c, false, UART_STAT_OVERRUN, UART_STAT_OVERRUN⟩]⟩,
  ⟨"I2C_CTRL", 0x50301000, [],
   [⟨1, .rw, false, I2C_CTRL_SPEED, I2C_CTRL_SPEED⟩, ⟨0, .rw, false, I2C_CTRL_EN, I2C_CTRL_EN⟩]⟩,
  ⟨"I2C_CMD", 0x50301004, [],
   [⟨31, .wo, false, I2C_CMD_GO, I2C_CMD_GO⟩, ⟨30, .rw, false, I2C_CMD_ADDR10, I2C_CMD_ADDR10⟩, ⟨16, .rw, false, I2C_CMD_ADDR, I2C_CMD_ADDR⟩, ⟨8, .rw, false, I2C_CMD_WCOUNT, I2C_CMD_WCOUNT⟩, ⟨0, .rw, false, I2C_CMD_RCOUNT, I2C_CMD_RCOUNT⟩]⟩,
  ⟨"I2C_STAT", 0x50301008, [],
   [⟨8, .ro, false, I2C_STAT_DONE, I2C_STAT_DONE⟩, ⟨5, .w1c, false, I2C_STAT_CFG_REFUSED, I2C_STAT_CFG_REFUSED⟩, ⟨4, .ro, false, I2C_STAT_BUSY, I2C_STAT_BUSY⟩, ⟨0, .ro, false, I2C_STAT_RESULT, I2C_STAT_RESULT⟩]⟩]

/-- The registers of file 16 of spec/ (storage and interfaces), part 9. -/
def regRows16i : List RegRow := [
  ⟨"I2C_WDATA", 0x50301010, [(8, 0x4)],
   [⟨0, .rw, false, I2C_WDATA_DATA, I2C_WDATA_DATA⟩]⟩,
  ⟨"I2C_RDATA", 0x50301030, [(8, 0x4)],
   [⟨0, .ro, false, I2C_RDATA_DATA, I2C_RDATA_DATA⟩]⟩,
  ⟨"SPI_CTRL", 0x50302000, [],
   [⟨8, .rw, false, SPI_CTRL_DIV, SPI_CTRL_DIV⟩, ⟨3, .rw, false, SPI_CTRL_WORD, SPI_CTRL_WORD⟩, ⟨2, .rw, false, SPI_CTRL_LSBFIRST, SPI_CTRL_LSBFIRST⟩, ⟨0, .rw, false, SPI_CTRL_EN, SPI_CTRL_EN⟩]⟩,
  ⟨"SPI_MODE", 0x50302004, [],
   [⟨0, .rw, false, SPI_MODE_MODE, SPI_MODE_MODE⟩]⟩,
  ⟨"SPI_XFER", 0x50302008, [],
   [⟨31, .wo, false, SPI_XFER_GO, SPI_XFER_GO⟩, ⟨28, .rw, false, SPI_XFER_CS, SPI_XFER_CS⟩, ⟨0, .rw, false, SPI_XFER_COUNT, SPI_XFER_COUNT⟩]⟩,
  ⟨"SPI_TX", 0x5030200c, [],
   [⟨0, .wo, false, SPI_TX_WORD, SPI_TX_WORD⟩]⟩,
  ⟨"SPI_RX", 0x50302010, [],
   [⟨0, .rc, false, SPI_RX_WORD, SPI_RX_WORD⟩]⟩,
  ⟨"SPI_FIFO", 0x50302014, [],
   [⟨24, .rw, false, SPI_FIFO_RXTHR, SPI_FIFO_RXTHR⟩, ⟨16, .rw, false, SPI_FIFO_TXTHR, SPI_FIFO_TXTHR⟩, ⟨8, .ro, false, SPI_FIFO_RXLVL, SPI_FIFO_RXLVL⟩, ⟨0, .ro, false, SPI_FIFO_TXLVL, SPI_FIFO_TXLVL⟩]⟩,
  ⟨"SPI_STAT", 0x50302018, [],
   [⟨3, .w1c, false, SPI_STAT_TXFULL, SPI_STAT_TXFULL⟩, ⟨2, .w1c, false, SPI_STAT_CFG_REFUSED, SPI_STAT_CFG_REFUSED⟩, ⟨1, .w1c, false, SPI_STAT_DONE, SPI_STAT_DONE⟩, ⟨0, .ro, false, SPI_STAT_BUSY, SPI_STAT_BUSY⟩]⟩]

/-- The registers of file 17 of spec/ (power), part 1. -/
def regRows17a : List RegRow := [
  ⟨"PWR_REQ", 0x4e100000, [],
   [⟨0, .wo, false, PWR_REQ_STATE, PWR_REQ_STATE⟩]⟩,
  ⟨"PWR_STAT", 0x4e100004, [],
   [⟨8, .ro, false, PWR_STAT_REFUSE_WHY, PWR_STAT_REFUSE_WHY⟩, ⟨5, .ro, false, PWR_STAT_WAKE_HELD, PWR_STAT_WAKE_HELD⟩, ⟨4, .w1c, false, PWR_STAT_CFG_REFUSED, PWR_STAT_CFG_REFUSED⟩, ⟨3, .ro, false, PWR_STAT_BUSY, PWR_STAT_BUSY⟩, ⟨0, .ro, false, PWR_STAT_STATE, PWR_STAT_STATE⟩]⟩,
  ⟨"PWR_RUNOFF", 0x4e100008, [],
   [⟨3, .rw, false, PWR_RUNOFF_OFF, PWR_RUNOFF_OFF⟩]⟩,
  ⟨"PWR_DOMSTAT", 0x4e10000c, [],
   [⟨0, .ro, false, PWR_DOMSTAT_ON, PWR_DOMSTAT_ON⟩]⟩,
  ⟨"PWR_BUDGET", 0x4e100010, [],
   [⟨0, .rw, false, PWR_BUDGET_UNITS, PWR_BUDGET_UNITS⟩]⟩,
  ⟨"PWR_WAKECFG", 0x4e100014, [],
   [⟨8, .rw, false, PWR_WAKECFG_FCLASS, PWR_WAKECFG_FCLASS⟩, ⟨4, .rw, false, PWR_WAKECFG_ALARM_EN, PWR_WAKECFG_ALARM_EN⟩, ⟨0, .rw, false, PWR_WAKECFG_PIN_EN, PWR_WAKECFG_PIN_EN⟩]⟩,
  ⟨"PWR_ALARM", 0x4e100018, [],
   [⟨0, .rw, false, PWR_ALARM_FRAME, PWR_ALARM_FRAME⟩]⟩,
  ⟨"PWR_ALARM_L", 0x4e10001c, [],
   [⟨0, .rw, false, PWR_ALARM_L_LINE, PWR_ALARM_L_LINE⟩]⟩,
  ⟨"PWR_RESUME", 0x4e100020, [(4, 0x4)],
   [⟨0, .rw, false, PWR_RESUME_PC, PWR_RESUME_PC⟩]⟩,
  ⟨"PWR_WAKE", 0x4e100030, [],
   [⟨28, .ro, false, PWR_WAKE_SRC, PWR_WAKE_SRC⟩, ⟨16, .ro, false, PWR_WAKE_INDEX, PWR_WAKE_INDEX⟩, ⟨12, .ro, false, PWR_WAKE_FROM, PWR_WAKE_FROM⟩, ⟨0, .ro, false, PWR_WAKE_DEFERRED, PWR_WAKE_DEFERRED⟩]⟩,
  ⟨"PWR_WAKE_LO", 0x4e100034, [],
   [⟨14, .ro, false, PWR_WAKE_LO_LINE, PWR_WAKE_LO_LINE⟩, ⟨0, .ro, false, PWR_WAKE_LO_DOT, PWR_WAKE_LO_DOT⟩]⟩,
  ⟨"PWR_WAKE_HI", 0x4e100038, [],
   [⟨0, .ro, false, PWR_WAKE_HI_FRAME, PWR_WAKE_HI_FRAME⟩]⟩]

/-- The registers of file 17 of spec/ (power), part 2. -/
def regRows17b : List RegRow := [
  ⟨"PWR_DONE_LO", 0x4e10003c, [],
   [⟨14, .ro, false, PWR_DONE_LO_LINE, PWR_DONE_LO_LINE⟩, ⟨0, .ro, false, PWR_DONE_LO_DOT, PWR_DONE_LO_DOT⟩]⟩,
  ⟨"PWR_DONE_HI", 0x4e100040, [],
   [⟨0, .ro, false, PWR_DONE_HI_FRAME, PWR_DONE_HI_FRAME⟩]⟩,
  ⟨"PWR_DEFER", 0x4e100044, [],
   [⟨0, .ro, false, PWR_DEFER_DOMAINS, PWR_DEFER_DOMAINS⟩]⟩,
  ⟨"PWR_WAKECNT", 0x4e100048, [],
   [⟨0, .rc, false, PWR_WAKECNT_COUNT, PWR_WAKECNT_COUNT⟩]⟩,
  ⟨"PWR_LASTERR", 0x4e10004c, [],
   [⟨0, .ro, false, PWR_LASTERR_WHERE, PWR_LASTERR_WHERE⟩]⟩]

/-- The registers of file 18 of spec/ (pads), part 1. -/
def regRows18a : List RegRow := [
  ⟨"PAD_CFG", 0x51000000, [(256, 0x4)],
   [⟨11, .rw, false, PAD_CFG_PULL, PAD_CFG_PULL⟩, ⟨10, .rw, false, PAD_CFG_SLEW, PAD_CFG_SLEW⟩, ⟨8, .rw, false, PAD_CFG_DRIVE, PAD_CFG_DRIVE⟩, ⟨0, .rw, false, PAD_CFG_FUNC, PAD_CFG_FUNC⟩]⟩,
  ⟨"PAD_EFF", 0x51000400, [(256, 0x4)],
   [⟨0, .ro, false, PAD_EFF_W, PAD_EFF_W⟩]⟩,
  ⟨"PAD_OUT", 0x51000800, [(8, 0x4)],
   [⟨0, .rw, false, PAD_OUT_OUT, PAD_OUT_OUT⟩]⟩,
  ⟨"PAD_IN", 0x51000820, [(8, 0x4)],
   [⟨0, .ro, false, PAD_IN_LEVEL, PAD_IN_LEVEL⟩]⟩,
  ⟨"PAD_STAT", 0x51000840, [],
   [⟨1, .w1c, false, PAD_STAT_GATE_REFUSED, PAD_STAT_GATE_REFUSED⟩, ⟨0, .w1c, false, PAD_STAT_CFG_REFUSED, PAD_STAT_CFG_REFUSED⟩]⟩,
  ⟨"PAD_REFUSED", 0x51000844, [],
   [⟨8, .ro, false, PAD_REFUSED_GATE, PAD_REFUSED_GATE⟩, ⟨0, .ro, false, PAD_REFUSED_NUMBER, PAD_REFUSED_NUMBER⟩]⟩,
  ⟨"PAD_BANK", 0x51000848, [],
   [⟨17, .ro, false, PAD_BANK_SD, PAD_BANK_SD⟩, ⟨16, .ro, false, PAD_BANK_G, PAD_BANK_G⟩, ⟨0, .ro, false, PAD_BANK_BANK, PAD_BANK_BANK⟩]⟩,
  ⟨"PAD_LEG", 0x51000a00, [(144, 0x4)],
   [⟨16, .ro, false, PAD_LEG_EFF, PAD_LEG_EFF⟩, ⟨10, .rw, false, PAD_LEG_SLEW, PAD_LEG_SLEW⟩, ⟨8, .rw, false, PAD_LEG_DRIVE, PAD_LEG_DRIVE⟩, ⟨0, .rw, false, PAD_LEG_FUNC, PAD_LEG_FUNC⟩]⟩]

/-- The registers of file 19 of spec/ (identification, boot, BIST and JTAG), part 1. -/
def regRows19a : List RegRow := [
  ⟨"ID_LO", 0x4e200000, [],
   [⟨0, .ro, false, ID_LO_CLEN, ID_LO_CLEN⟩]⟩,
  ⟨"ID_HI", 0x4e200004, [],
   [⟨16, .ro, false, ID_HI_PART, ID_HI_PART⟩, ⟨8, .ro, false, ID_HI_STEP, ID_HI_STEP⟩, ⟨0, .ro, false, ID_HI_TSCREEN, ID_HI_TSCREEN⟩]⟩,
  ⟨"ID_UID_LO", 0x4e200008, [],
   [⟨0, .ro, false, ID_UID_LO_UID, ID_UID_LO_UID⟩]⟩,
  ⟨"ID_UID_HI", 0x4e20000c, [],
   [⟨0, .ro, false, ID_UID_HI_UID, ID_UID_HI_UID⟩]⟩,
  ⟨"BOOT_STAT", 0x4e200010, [],
   [⟨16, .ro, false, BOOT_STAT_WHY_CS, BOOT_STAT_WHY_CS⟩, ⟨8, .ro, false, BOOT_STAT_WHY_SPI, BOOT_STAT_WHY_SPI⟩, ⟨4, .w1c, false, BOOT_STAT_CFG_REFUSED, BOOT_STAT_CFG_REFUSED⟩, ⟨2, .rw, false, BOOT_STAT_SRC, BOOT_STAT_SRC⟩, ⟨1, .ro, false, BOOT_STAT_HDR_OK, BOOT_STAT_HDR_OK⟩]⟩,
  ⟨"BOOT_SERIAL", 0x4e200014, [],
   [⟨0, .rw, false, BOOT_SERIAL_SERIAL, BOOT_SERIAL_SERIAL⟩]⟩,
  ⟨"CORE_START", 0x4e200020, [],
   [⟨31, .wo, false, CORE_START_GO, CORE_START_GO⟩, ⟨0, .wo, false, CORE_START_CORE, CORE_START_CORE⟩]⟩,
  ⟨"CORE_RUN_LO", 0x4e200024, [],
   [⟨0, .ro, false, CORE_RUN_LO_RUN, CORE_RUN_LO_RUN⟩]⟩,
  ⟨"CORE_RUN_HI", 0x4e200028, [],
   [⟨0, .ro, false, CORE_RUN_HI_RUN, CORE_RUN_HI_RUN⟩]⟩,
  ⟨"BOOT_SPC", 0x4e200100, [(52, 0x4)],
   [⟨0, .rw, false, BOOT_SPC_PC, BOOT_SPC_PC⟩]⟩,
  ⟨"BIST_CTRL", 0x4e200200, [],
   [⟨31, .wo, false, BIST_CTRL_GO, BIST_CTRL_GO⟩, ⟨24, .rw, false, BIST_CTRL_KIND, BIST_CTRL_KIND⟩, ⟨0, .rw, false, BIST_CTRL_TARGET, BIST_CTRL_TARGET⟩]⟩,
  ⟨"BIST_STAT", 0x4e200204, [],
   [⟨16, .ro, false, BIST_STAT_REFUSE_WHY, BIST_STAT_REFUSE_WHY⟩, ⟨8, .ro, false, BIST_STAT_RESULT, BIST_STAT_RESULT⟩, ⟨2, .w1c, false, BIST_STAT_CFG_REFUSED, BIST_STAT_CFG_REFUSED⟩, ⟨1, .w1c, false, BIST_STAT_DONE, BIST_STAT_DONE⟩, ⟨0, .ro, false, BIST_STAT_BUSY, BIST_STAT_BUSY⟩]⟩]

/-- The registers of file 19 of spec/ (identification, boot, BIST and JTAG), part 2. -/
def regRows19b : List RegRow := [
  ⟨"BIST_SIG_LO", 0x4e200208, [],
   [⟨0, .ro, false, BIST_SIG_LO_SIG, BIST_SIG_LO_SIG⟩]⟩,
  ⟨"BIST_SIG_HI", 0x4e20020c, [],
   [⟨0, .ro, false, BIST_SIG_HI_SIG, BIST_SIG_HI_SIG⟩]⟩,
  ⟨"JTAG_STAT", 0x4e200310, [],
   [⟨1, .w1c, false, JTAG_STAT_REFUSED, JTAG_STAT_REFUSED⟩, ⟨0, .ro, false, JTAG_STAT_ACTIVE, JTAG_STAT_ACTIVE⟩]⟩]

/-- The capability slots. -/
def capRows : List CapRow := [
  ⟨"CAP_SEED", 0x47000000, [(52, 0x400), (16, 0x10)], CAP_SEED_CAP⟩,
  ⟨"VEC_CAP", 0x47000100, [(52, 0x400)], VEC_CAP_CAP⟩,
  ⟨"REF_CAP", 0x47000110, [(52, 0x400)], REF_CAP_CAP⟩,
  ⟨"CH_QCAP", 0x49101000, [(64, 0x80)], CH_QCAP_CAP⟩,
  ⟨"CH_SCAP", 0x49101010, [(64, 0x80)], CH_SCAP_CAP⟩,
  ⟨"CH_DCAP", 0x49101020, [(64, 0x80)], CH_DCAP_CAP⟩,
  ⟨"LAN_RCAP", 0x4c000000, [], LAN_RCAP_CAP⟩,
  ⟨"BE_SCAP", 0x4c000400, [], BE_SCAP_CAP⟩,
  ⟨"BE_DCAP", 0x4c000410, [], BE_DCAP_CAP⟩,
  ⟨"SCN_RCAP", 0x4c100000, [], SCN_RCAP_CAP⟩,
  ⟨"SCN_WCAP", 0x4c100010, [], SCN_WCAP_CAP⟩,
  ⟨"AUD_RCAP", 0x4d000010, [], AUD_RCAP_CAP⟩,
  ⟨"NF_CAP", 0x4f000000, [], NF_CAP_CAP⟩,
  ⟨"ETH_CAP", 0x50000010, [(2, 0x10000)], ETH_CAP_CAP⟩,
  ⟨"PIW_CAP", 0x50100100, [(8, 0x20)], PIW_CAP_CAP⟩,
  ⟨"CAN_CAP", 0x50200020, [(4, 0x1000)], CAN_CAP_CAP⟩,
  ⟨"JTAG_CAP", 0x4e200300, [], JTAG_CAP_CAP⟩]

/-- Every 32-bit register of the device's blocks. -/
def regRows : List RegRow :=
  regRows01a ++ regRows02a ++ regRows02b ++ regRows03a ++ regRows03b ++ regRows03c ++ regRows03d ++ regRows04a ++ regRows05a ++ regRows05b ++ regRows06a ++ regRows06b ++ regRows06c ++ regRows09a ++ regRows10a ++ regRows10b ++ regRows11a ++ regRows11b ++ regRows11c ++ regRows12a ++ regRows12b ++ regRows12c ++ regRows13a ++ regRows13b ++ regRows13c ++ regRows13d ++ regRows14a ++ regRows14b ++ regRows14c ++ regRows15a ++ regRows15b ++ regRows16a ++ regRows16b ++ regRows16c ++ regRows16d ++ regRows16e ++ regRows16f ++ regRows16g ++ regRows16h ++ regRows16i ++ regRows17a ++ regRows17b ++ regRows18a ++ regRows19a ++ regRows19b

end Sys2Proof.Machine
end

