-- ==== Sys2Proof/Machine/Sparse.lean ====
section
/-! DEFINITION. Sparse tables: a value for every natural number, written as the list of those that differ from a default,
in strictly rising order. Memory, the register file and every array of units are held this way. -/

namespace Sys2Proof.Machine

/-- A table from numbers to values; a number that is not listed has the default value. -/
abbrev SMap (α : Type) := List (Nat × α)

/-- The value at `k`, `d` where none is listed. -/
def sget {α : Type} (d : α) : SMap α → Nat → α
  | [], _ => d
  | (j, v) :: m, k => if j = k then v else sget d m k

/-- Take `k` out of the list. -/
def sdel {α : Type} (k : Nat) : SMap α → SMap α
  | [] => []
  | (j, v) :: m => if j = k then sdel k m else (j, v) :: sdel k m

/-- Put `v` at `k`, in its place in the rising order. -/
def sput {α : Type} (k : Nat) (v : α) : SMap α → SMap α
  | [] => [(k, v)]
  | (j, w) :: m => if k < j then (k, v) :: (j, w) :: m else if j = k then (k, v) :: m else (j, w) :: sput k v m

/-- The table with `v` at `k`: the default is never listed. -/
def sset {α : Type} [DecidableEq α] (d : α) (m : SMap α) (k : Nat) (v : α) : SMap α :=
  if v = d then sdel k m else sput k v m

/-- Strictly rising numbers. -/
def sorted {α : Type} : SMap α → Bool
  | [] => true
  | (j, _) :: m => m.all (fun e => decide (j < e.1)) && sorted m

/-- The canonical form: strictly rising numbers, the default not listed. -/
def canonical {α : Type} [DecidableEq α] (d : α) (m : SMap α) : Bool :=
  sorted m && m.all (fun e => decide (e.2 ≠ d))

/-- Change the value at `k` by `f`. -/
def supd {α : Type} [DecidableEq α] (d : α) (m : SMap α) (k : Nat) (f : α → α) : SMap α :=
  sset d m k (f (sget d m k))

/-- A set of numbers in rising order: put one in. -/
def nput (k : Nat) : List Nat → List Nat
  | [] => [k]
  | j :: m => if k < j then k :: j :: m else if j = k then j :: m else j :: nput k m

/-- A set of numbers: take one out. -/
def ndel (k : Nat) (m : List Nat) : List Nat := m.filter (fun j => j ≠ k)

end Sys2Proof.Machine
end

