-- ==== Sys2Proof/Machine/State.lean ====
section
/-! DEFINITION. The state of the device: plain data. The register fields of Regs.lean are held in one register file; the records
below hold what the device keeps beside its registers. -/

namespace Sys2Proof.Machine

open Sys2Proof

/-- The two parts of the family (R4, R7). -/
inductive Part where
  | pl9648
  | pl9624
deriving DecidableEq, Repr

/-- A sweep position F:L:D (R8). -/
structure Pos where
  frame : Nat
  line : Nat
  dot : Nat
deriving DecidableEq, Repr

/-- The four quantities of group GEOM (R25). -/
structure Geom where
  dots : Nat
  lines : Nat
  k : Nat
  frames : Nat
deriving DecidableEq, Repr

/-- How far the start sequence of R468 and R470 has come, and what a loss of the root PLL does to it (R21). -/
inductive Stage where
  /-- PSU_EN is low: group 1 of the supplies is not yet good. -/
  | supplies
  /-- Internal reset is held. -/
  | held
  /-- Internal reset is released; the root PLL has not locked. -/
  | locking
  /-- The sweep runs. -/
  | running
  /-- The root PLL lost lock: the clocks are undefined. -/
  | lost
  /-- The root PLL has relocked; the device has not yet passed through reset. -/
  | relocked
deriving DecidableEq, Repr

/-- What the sweep block holds beside its registers (R25, R30, R31, R38, R40, R42). -/
structure Sweep where
  stage : Stage
  /-- The staged values of an accepted commit that waits for the frame boundary (R25). -/
  waiting : Option Geom
  /-- SYNC_MODE and REF_PORT in effect (R42). -/
  mode : Nat
  port : Nat
  /-- A step has been armed (R40). -/
  armed : Bool
  /-- Consecutive measurements inside 25 fine steps, beyond 51 fine steps, and frames without a valid one (R38). -/
  inBand : Nat
  outBand : Nat
  missing : Nat
  /-- A valid measurement has arrived in this frame. -/
  measured : Bool
  /-- The master's geometry and frame number, from the latest timing pair, and the local fine step since sweep start in which that
  frame began at the master (R40, R180). -/
  master : Option (Geom × Nat × Int)
  /-- The phase, in fine steps, that slewing has still to remove (R39). -/
  phase : Int
  /-- The dot of the modulator phase origin, the origin before it, and the lines begun since (R30, R31). -/
  origin : Nat
  origin0 : Nat
  originLines : Nat
deriving DecidableEq, Repr

/-- The decision of the minimum pulse rule for a period (R56). -/
inductive Pulse where
  | normal
  | none
  | fullOn
deriving DecidableEq, Repr

/-- What a leg holds beside its registers. -/
structure LegH where
  /-- The compares are armed; they have fired in this period (R50). -/
  armA : Bool
  armB : Bool
  firedA : Bool
  firedB : Bool
  /-- LEG_MID, LEG_LATE have been issued in this period (R47, R53). -/
  midDone : Bool
  lateDone : Bool
  pulse : Pulse
  /-- What acts on REF at the start of the next dot: the reset, CMPA with its fine part, CMPB with its fine part (R50). -/
  evReset : Bool
  evA : Option Nat
  evB : Option Nat
  /-- The fine part at which REF last changed. -/
  refFine : Nat
  /-- A dead-time activation that is still pending, in fine steps since sweep start (R55). -/
  pendH : Option Nat
  pendL : Option Nat
  /-- The leg has tripped and has not yet left the trip under R70. -/
  tripActive : Bool
  /-- A commit of a non-zero PERIOD to a halted leg: the next dot is a period start (R48). -/
  startNext : Bool
deriving DecidableEq, Repr

/-- A leg at reset. -/
def LegH.init : LegH :=
  ⟨false, false, false, false, false, false, .normal, false, none, none, 0, none, none, false, false⟩

/-- A region's start queue: the converters waiting, each with the dot in which it entered, and the last release since the
queue was empty (R65). -/
structure StartQ where
  items : List (Nat × Nat)
  prev : Option Nat
deriving DecidableEq, Repr

/-- The trip lines that a pin holds asserted, PTRIP0 to PTRIP7, and those that a route holds asserted: 0 to 7 for PTRIPn and
8 + 8n + k for RTRIPk of region n, the sink numbers of R128 (R66). The pin runs count consecutive low or high samples. -/
structure Trips where
  pin : List Nat
  route : List Nat
deriving DecidableEq, Repr

/-- What a sigma-delta channel holds beside its registers: the bits captured since it was configured, newest first, each with
its capture dot, at most 768; how many were captured; the runs of bits beyond each threshold; the dot of the last capture, and of the
last configuration (R80 to R82). -/
structure SdfH where
  bits : List (Nat × Bool)
  count : Nat
  hiRun : Nat
  loRun : Nat
  last : Option Nat
  conf : Option Nat
deriving DecidableEq, Repr

/-- A channel at reset. -/
def SdfH.init : SdfH := ⟨[], 0, 0, 0, none, none⟩

/-- The watch of a cluster's external modulator clock: armed, the dots of the last two edges that counted, newest first, the dot of the last
detected edge; a command has told of an edge, and its edges are the commands' (R79). -/
structure ClkH where
  armed : Bool
  edges : List Nat
  rose : Option Nat
  told : Bool
deriving DecidableEq, Repr

/-- The watch at reset. -/
def ClkH.init : ClkH := ⟨false, [], none, false⟩

/-- A SAR converter: the entry being converted, and the dot in which the last conversion started (R84, R85). -/
structure SarH where
  entry : Option Nat
  start : Option Nat
deriving DecidableEq, Repr

/-- A comparator on the analog die: the input is above the threshold, the output, and the configuration that governs it there
(R87). -/
structure CmpH where
  above : Bool
  out : Bool
  en : Bool
  invert : Bool
  ain : Nat
  hyst : Nat
  thresh : Nat
deriving DecidableEq, Repr

/-- A comparator at reset. -/
def CmpH.init : CmpH := ⟨false, false, false, false, 0, 0, 0⟩

/-- A quadrature unit: the filtered levels of A, B and I, for each the samples in a row that differ from it, the dots of the last edges
counted since it was configured (newest first), and the net count of the edges of the present dot (R88, R89). -/
structure QepH where
  a : Bool
  b : Bool
  i : Bool
  runA : Nat
  runB : Nat
  runI : Nat
  edges : List Nat
  dot : Nat
  net : Int
deriving DecidableEq, Repr

/-- A quadrature unit at reset. -/
def QepH.init : QepH := ⟨false, false, false, 0, 0, 0, [], 0, 0⟩

/-- The level a serial-encoder unit drives on MA (R91, R92). -/
inductive MaLevel where
  | high
  | clocking
  /-- The level that signals the CDM bit, as the BiSS-C protocol lays down. -/
  | cdm (b : Bool)
deriving DecidableEq, Repr

/-- A serial-encoder unit: the dot in which the slot of the frame in progress fired, the post-frame timeout, MA, the measured line delay,
the bits sampled, newest first, in BiSS-C from the start bit on, the dot of the last sample (R91, R92). -/
structure SeuH where
  frame : Option Nat
  timeout : Bool
  ma : MaLevel
  dly : Option Nat
  got : Option (List Bool)
  last : Option Nat
deriving DecidableEq, Repr

/-- A serial-encoder unit at reset. -/
def SeuH.init : SeuH := ⟨none, false, .high, none, none, none⟩

/-- What a step has read in its first cycle (R106): the words of its context, what it reads from outside, the STALE or MISSED flag. -/
structure Latch where
  words : List Nat
  vals : List Int
  stale : Bool
deriving DecidableEq, Repr

/-- A run of a loop engine: the context within the cluster, the next step, the engine cycles used, the engine cycle since sweep
start in which it began and the position of that dot, whether its last step is done, and, while a routine runs on the loop core, the
cycle of its first instruction and its budget (R97, R105, R118); what the step in progress has read, and whether a three-level compare
write has written its even leg (R106, R110). -/
structure Run where
  ctx : Nat
  pc : Nat
  cycle : Nat
  start : Nat
  pos : Pos
  ended : Bool
  core : Option (Nat × Nat)
  latch : Option Latch
  half : Bool
deriving DecidableEq, Repr

/-- A cluster's loop engine: the dispatch queue (context, dot of entry), the run in progress, the host writes that it holds
(context, word, value), the engine cycles that ended runs used in the present line, the first cycle of that line, the cycle from which it
is free, its LPE_OUT levels, and whether it is halted (R101, R113, R119, R124, R127). -/
structure EngH where
  queue : List (Nat × Nat)
  run : Option Run
  held : List (Nat × Nat × Nat)
  busy : Nat
  from_ : Nat
  freeAt : Nat
  out : Nat
  halted : Bool
deriving DecidableEq, Repr

/-- A loop engine at reset. -/
def EngH.init : EngH := ⟨[], none, [], 0, 0, 0, 0, false⟩

/-- A region's spare pair: the frame at whose start it takes over and the cluster within the region, a return that waits for the restart
(R121, R123), and a self-test has left its mirror zero (R482). -/
structure SpareH where
  takeAt : Option (Nat × Nat)
  back : Bool
  wiped : Bool
deriving DecidableEq, Repr

/-- A PUTW write on its way through a crossing (R33, R34): the LINE_STARTs left, whether it comes from another region, context, word,
value. -/
structure Crossing where
  left : Nat
  far : Bool
  ctx : Nat
  word : Nat
  value : Nat
deriving DecidableEq, Repr

/-- A trace tap in effect: the word it samples, and the least and greatest sample of the display frame (R311, R312). -/
structure TapH where
  en : Bool
  ctx : Nat
  word : Nat
  range : Option (Int × Int)
deriving DecidableEq, Repr

/-- A trace tap at reset. -/
def TapH.init : TapH := ⟨false, 0, 0, none⟩

/-- The answer of the last register access: the word read and whether it ended in a bus error (R5, R225). -/
structure Resp where
  data : Word
  err : Bool
deriving DecidableEq, Repr

/-- A report that a block has made and the collector has not yet latched (R372): its source, INFO0 and INFO1 (R378), its report dot. -/
structure Report where
  src : Nat
  info0 : Nat
  info1 : Nat
  at_ : Nat
  pos : Pos
deriving DecidableEq, Repr

/-- What the collector keeps beside its registers: reports not yet latched, for each Trail entry that is open the LINE_STARTs
counted, and the entries that are open (R380); the dot in which a report last set the ERR_OUT_N latch (R387). -/
structure Collector where
  reports : List Report
  openLines : SMap Nat
  errAt : Option Nat
deriving DecidableEq, Repr

/-- The arrivals of a source in one dot: the dot, their number, ARR and SAT before them, the payload that goes with ARR before them or, where
that was 0, the first one's, and the last one's payload (R261). -/
structure EvDot where
  dot : Nat
  n : Nat
  was : Nat
  sat : Bool
  payload : Nat
  last : Nat
deriving DecidableEq, Repr

/-- What the event controller keeps for a source beside EVC_CFG and EVC_ST: FIRST, the payload, while the source is eligible the dot in
which it became so, the dot of its last acknowledgement, and the arrivals of the last dot that brought any (R260 to R262). -/
structure EvSrc where
  first : Pos
  payload : Nat
  since : Option Nat
  acked : Option Nat
  latest : Option EvDot
deriving DecidableEq, Repr

/-- An event source with nothing recorded. -/
def EvSrc.init : EvSrc := ⟨⟨0, 0, 0⟩, 0, none, none, none⟩

/-- A record chosen for a queue: the queue, its source, COUNT and SAT, FIRST, the address, the 16 bytes, the dot of the choice, whether its
store has been performed, so that TAIL passes it in the next dot (R261, R263, R266). -/
structure EvOut where
  queue : Nat
  source : Nat
  count : Nat
  sat : Bool
  first : Pos
  addr : Nat
  data : Nat
  at_ : Nat
  done : Bool
deriving DecidableEq, Repr

/-- The memory controller and the Rambler beside their registers: words handed to the walkers (addresses divided by 8), for each
memory whose count of corrected errors rose in this frame the address and requester of the last, the dot of each walker's last
step and its place in the memory, the corrected words of the repair test with the pass in which each was corrected (newest first,
at most 64), the DRAM rows mapped to spares, the row under repair and its requester, the discard in progress: memory, next unit, units left,
the bytes of poisoned words that a cacheable store has written since (R281, R283, R285, R286, R288). -/
structure MemH where
  handed : List Nat
  rose : SMap (Nat × Nat)
  last : SMap Nat
  off : SMap Nat
  fixed : List (Nat × Nat)
  rows : List Nat
  repairing : Option Nat
  repairBy : Nat
  disc : Option (Nat × Nat × Nat)
  live : List Nat
deriving DecidableEq, Repr

/-- How far a DMA channel has come with the descriptor in hand (R291): it waits for the descriptor; its operation is to be done; the
operation is done; a bus error has met a data read or write at an address (R295). -/
inductive DmaPhase where
  | idle
  | fetch
  | work
  | done
  | failed (code addr : Nat)
deriving DecidableEq, Repr

/-- A DMA channel: its phase, the words of the descriptor in hand, MISMATCH, and the dot before which it fetches nothing (R290, R294). -/
structure DmaH where
  phase : DmaPhase
  w0 : Nat
  len : Nat
  src : Nat
  dst : Nat
  pattern : Nat
  next : Nat
  mismatch : Bool
  from_ : Nat
deriving DecidableEq, Repr

/-- A channel at rest. -/
def DmaH.init : DmaH := ⟨.idle, 0, 0, 0, 0, 0, 0, false, 0⟩

/-- A capability: 128 bits and the tag (R235). -/
structure Cap where
  v : BitVec 128
  tag : Bool
deriving DecidableEq, Repr

/-- No capability. -/
def Cap.none : Cap := ⟨0, false⟩

/-- What a core is doing: it has not been started; it runs; it executes WAIT (R268, R270); it is a loop core that waits between
CORE steps (R117). -/
inductive CpuRun where
  | off
  | run
  | wait
  | idle
deriving DecidableEq, Repr

/-- How an instruction issues on a host core (R221, R222): the registers whose readiness it waits for and those that it writes, general
registers by number and capability registers from 32 on; whether it accesses memory or the bit space, is a multiplier, a binary32
instruction, a control transfer, or issues alone; whether it waits for earlier stores to be performed (R232). -/
structure Iss where
  reads : List Nat := []
  writes : List Nat := []
  mem : Bool := false
  mul : Bool := false
  f32 : Bool := false
  ctl : Bool := false
  alone : Bool := false
  drain : Bool := false
deriving DecidableEq, Repr

/-- The four block instructions (R206). -/
inductive BlockKind where
  | bcpy
  | bfil
  | tsrch
  | bcrc
deriving DecidableEq, Repr

/-- A block instruction in progress (R206, R208): its operand word, capability byte, element size, repeat prefix, the elements that it
completes once an interrupt or fault event stands, its own address and that of the next instruction, the cycle in which the next element
begins, the cycle in which what stops it was first seen, the elements completed since. -/
structure BlockRun where
  kind : BlockKind
  o : BitVec 16
  k : Byte
  size : Nat
  rep : Bool
  stop : Option Nat
  pc : Nat
  next : Nat
  at_ : Nat
  seen : Option Nat
  more : Nat
deriving DecidableEq, Repr

/-- What a core holds beside its control block (R187, R190, R199, R206, R221 to R224, R244, R250, R255). -/
structure Cpu where
  state : CpuRun
  g : SMap Nat
  c : SMap Cap
  pc : Nat
  /-- MH:ML after the latest multiplier instruction or MTS in program order; the value landed; the results under way, oldest
  first, each with the cycle at whose end it lands (R198, R199). -/
  mac : Nat
  landed : Nat
  flight : List (Nat × Nat)
  fstat : Nat
  fctrl : Nat
  tickHi : Nat
  /-- The core cycle in which the last instruction began; the one in which the next may begin. -/
  began : Nat
  free : Nat
  /-- The next fetch is the first of an exception handler (R252). -/
  entry : Bool
  /-- ARITH exceptions held under R250, oldest first: the PC of the faulting instruction, the FSTAT bits it set, the core cycle in
  which the exception is taken. -/
  arith : List (Nat × Nat × Nat)
  /-- The oldest instruction issued that is not complete when a held ARITH exception is taken (R250). -/
  undone : Option Nat
  /-- The sources of the fault events that wait for a boundary, oldest first. -/
  faults : List Nat
  /-- The source held under R255. -/
  held : Option Nat
  /-- The core-local bit RAM, by words of 32 bits (R205). -/
  bitRam : SMap Nat
  /-- The cycle from which a register's value is ready, numbered as in Iss (R223); the last issue cycle with what it issued and whether both
  slots are taken (R221, R222); the return stack, newest first (R224). -/
  ready : SMap Nat
  slot : Option (Nat × Iss × Bool)
  ras : List Nat
  /-- An instruction waits until earlier stores have been performed (R232); the block instruction in progress (R206); the cycles in which
  results under way set FSTAT bits (R191). -/
  drain : Bool
  block : Option BlockRun
  sets : List (Nat × Nat)
deriving DecidableEq, Repr

/-- A core that has not been started. -/
def Cpu.init : Cpu := ⟨.off, [], [], 0, 0, 0, [], 0, 0, 0, 0, 0, false, [], none, [], none, [], [], none, [], false, none, []⟩

/-- The capability registers that host core 0 holds at device reset (R242). -/
def rootCaps : SMap Cap :=
  [(0, ⟨0x00000000_1F9F0001_00000000_00000000, true⟩), (1, ⟨0x02000000_00030000_00100000_00000000, true⟩),
   (2, ⟨0x04000000_00600000_01000000_00000000, true⟩), (14, ⟨0x00000000_1F9F0001_00000000_00000000, true⟩)]

/-- The timing of a display frame: the fields that change only at its start (R339, R341, R344). -/
structure Timing where
  free : Bool
  n : Nat
  m : Nat
  htotal : Nat
  hactive : Nat
  vtotal : Nat
  vactive : Nat
deriving DecidableEq, Repr

/-- The sync pulses of a display frame: start and width in pixels and in lines, and the levels that assert them (R339). -/
structure Syncs where
  hss : Nat
  hsw : Nat
  vss : Nat
  vsw : Nat
  hspol : Bool
  vspol : Bool
deriving DecidableEq, Repr

/-- The active line that is being scanned, its pixels, RGB888; whether the capture buffer has taken it, and whether it has underrun
(R337, R347). -/
structure SentLine where
  row : Nat
  pixels : List Nat
  kept : Bool
  under : Bool
deriving DecidableEq, Repr

/-- A line, or the end of one, in the capture buffer: its number, the address, the bytes of a pixel, the pixels as they are written (R347). -/
structure CapLine where
  row : Nat
  addr : Nat
  bpp : Nat
  px : List Nat
deriving DecidableEq, Repr

/-- The scanout and the trace layer beside their registers: the timing of the display frame in progress; the dot from which its
positions count and its number from there (R339, R341); the raster writes still to come, each with its line, target offset and value,
and what was refused or late in this display frame (R314 to R316); the sprites dropped, the lines underrun, the reads failed, the
capture lines dropped, with the first lines, and a mismatch (R309, R337, R338, R340, R347); the columns of the trace store, newest
first, each with the range of every tap (R312); the line composed last, its pixels, RGB888, whether it is still to be scanned and whether
the capture buffer has taken it; the line being scanned; the capture buffer, oldest first (R347); a line of this display frame has been
captured or dropped; of earlier display frames the lines still to be written before their event, and the lines they dropped. -/
structure Scan where
  timing : Timing
  origin : Option Nat
  index : Nat
  rll : List (Nat × Nat × Nat)
  rllBad : Nat
  rllErr : Bool
  rllLate : Bool
  drop : Nat
  dropLine : Option Nat
  under : Nat
  underLine : Option Nat
  reads : Nat
  capDrop : Nat
  mismatch : Bool
  cols : List (List (Option (Int × Int)))
  row : Nat
  pixels : List Nat
  made : Bool
  kept : Bool
  sync : Syncs
  sent : Option SentLine
  capQ : List CapLine
  capOpen : Bool
  capEnds : List (Nat × Nat)
deriving DecidableEq, Repr

/-- The scanout at reset. -/
def Scan.init : Scan :=
  ⟨⟨false, 768, 125, 2048, 1920, 1250, 1200⟩, none, 0, [], 0, false, false, 0, none, 0, none, 0, 0, false, [], 0, [], false, false,
    ⟨1968, 32, 1203, 6, false, false⟩, none, [], false, []⟩

/-- The DisplayPort output beside its registers: a training, an AUX transaction is under way (R346, R351). -/
structure DpH where
  training : Bool
  aux : Bool
deriving DecidableEq, Repr

/-- A voice beside its registers: phase, noise register, PCM position (24.16), EN has been set since the last sample, the samples
fetched with their numbers, newest first, at most 64 (R356, R357). -/
structure VoiceH where
  phase : Nat
  noise : Nat
  pos : Nat
  start : Bool
  buf : List (Nat × Nat)
deriving DecidableEq, Repr

/-- A voice at reset. -/
def VoiceH.init : VoiceH := ⟨0, 1, 0, false, []⟩

/-- A converting port: consecutive good peer frames, the dot of the last FSYNC, its input samples by slot, the dot of the last loss of lock
that it reported (R368, R369, R385). -/
structure AsrcH where
  good : Nat
  last : Option Nat
  inputs : SMap Nat
  lost : Option Nat
deriving DecidableEq, Repr

/-- A converting port at reset. -/
def AsrcH.init : AsrcH := ⟨0, none, [], none⟩

/-- What the sample in progress will change at the next strobe (R352): fields with unit and value, the least new MAXPK of meters, the
outputs that saturated, the voices that ended, a late PCM sample, the output samples. -/
structure AudioOut where
  fields : List (Fld × Nat × Nat)
  peaks : List (Nat × Nat)
  clips : List Nat
  ends : List Nat
  late : Bool
  out : SMap Nat
deriving DecidableEq, Repr

/-- Nothing to change. -/
def AudioOut.none : AudioOut := ⟨[], [], [], [], false, []⟩

/-- The audio block beside its registers: the voices; the current code of each crosspoint node, the samples to its next step, the nodes
with a new target (R362); the two states of biquad stage j of input i, by 8i + 2j (R363); the hold counters (R364); the inputs whose
coefficients or states wait for a sample; the sample in progress; the output samples sent; the converting ports; a strobe has
passed; the dot of the last (R31); the settings that the sample in progress is governed by and that act between strobes, by field (R353); the
soft levels that meters drive (R365); what each meter took at the last strobe (R364). -/
structure AudioH where
  voices : SMap VoiceH
  codes : SMap Nat
  steps : SMap Nat
  kicked : List Nat
  biq : SMap Nat
  hold : SMap Nat
  commits : List Nat
  clears : List Nat
  next : AudioOut
  out : SMap Nat
  asrc : SMap AsrcH
  begun : Bool
  strobe : Option Nat
  gov : SMap (SMap Nat)
  soft : List Nat
  took : List (Nat × Nat)
deriving DecidableEq, Repr

/-- The audio block at reset. -/
def AudioH.init : AudioH := ⟨[], [], [], [], [], [], [], [], AudioOut.none, [], [], false, none, [], [], []⟩

/-- A NAND command as pushed: OP, TAG, LBA, COUNT, ADDR (R398). -/
structure NandCmd where
  op : Nat
  tag : Nat
  lba : Nat
  count : Nat
  addr : Nat
deriving DecidableEq, Repr

/-- How far the NAND command at the head of the queue has come (R399, R403, R405): not begun; a program of it has failed with the Canteen
empty, and so many sectors can still be written; its STATUS and DONE stand. -/
inductive NandHand where
  | none
  | limited (n : Nat)
  | ended (status done : Nat)
deriving DecidableEq, Repr

/-- The NAND manager and the external NAND beside the registers: discovery is under way, the present targets, logical units, blocks of
each, spare bytes; a volume exists; its sectors that do not read as zero, by logical number, each as a number; the blocks that hold
the volume; those of them in use; erase counts: one for all and the blocks that differ; LOW has been reported since FORMAT; logical sectors, Canteen and
reserve blocks left, blocks retired; the commands
queued, the head's progress, the completion records (word 0, word 1), the blocks queued for refresh (R396 to R405). -/
structure NandH where
  starting : Bool
  targets : Nat
  spb : Nat
  formatted : Bool
  sealed : Bool
  data : SMap Nat
  blocks : Nat
  used : List Nat
  wearAll : Nat
  wear : SMap Nat
  low : Bool
  sectors : Nat
  left : Nat
  reserve : Nat
  bad : Nat
  queue : List NandCmd
  hand : NandHand
  done : List (Nat × Nat)
  refresh : List Nat
deriving DecidableEq, Repr

/-- Nothing attached. -/
def NandH.init : NandH := ⟨false, 0, 0, false, false, [], 0, [], 0, [], false, 0, 0, 0, 0, [], .none, [], []⟩

/-- A descriptor whose buffer accesses are done and whose write-back waits (R411): words 4 to 7, and EVENT with its payload's other
bits. -/
structure Hand where
  words : List Nat
  event : Bool
  detail : Nat
deriving DecidableEq, Repr

/-- A descriptor queue: the descriptors in hand, oldest first, the position at which the descriptor at its head came there, and how many of
those in hand have been written back, so that Q_CONS passes them in the next dot (R410, R411, R415). -/
structure QueueH where
  hands : List Hand
  head : Pos
  back : Nat
deriving DecidableEq, Repr

/-- A queue at rest. -/
def QueueH.init : QueueH := ⟨[], ⟨0, 0, 0⟩, 0⟩

/-- An Ethernet port beside its registers: the dot until which a PAUSE frame holds transmission, the dot until which the port is busy, the
queue that it sends from, the credits of R417 by queue in bits times 400,000, the frame last sent (bytes, as a number). -/
structure EthH where
  pause : Nat
  busy : Nat
  sending : Option Nat
  credit : SMap Int
  sent : Option (Nat × Nat)
deriving DecidableEq, Repr

/-- A port at rest. -/
def EthH.init : EthH := ⟨0, 0, none, [], none⟩

/-- How an outbound PCI Express read ends (R421). -/
inductive PcieEnd where
  | data (v : Nat)
  | error
  | timeout
deriving DecidableEq, Repr

/-- What the endpoint answers an inbound read (R420). -/
inductive PcieAnswer where
  | success (data : Nat)
  | poisoned
  | unsupported
  | abort
deriving DecidableEq, Repr

/-- A memory request that the endpoint sends: a write or a read, the PCI Express address, its bytes, the value written (R421). -/
structure PcieOut where
  write : Bool
  addr : Nat
  bytes : Nat
  value : Nat
deriving DecidableEq, Repr

/-- The endpoint beside its registers: completions that the host has sent for reads to come, the last answer to an inbound read, what
the host has enabled (0 none, 1 MSI, 2 MSI-X), the last vector sent and how, the last outbound request (R420 to R422). -/
structure PcieH where
  ends : List PcieEnd
  answer : Option PcieAnswer
  msi : Nat
  sent : Option (Nat × Nat)
  out : Option PcieOut
deriving DecidableEq, Repr

/-- The endpoint at rest. -/
def PcieH.init : PcieH := ⟨[], none, 0, none, none⟩

/-- A CAN FD controller beside its registers: recovery from bus-off has been asked for; the frame last sent (bytes, as a number). -/
structure CanH where
  recovering : Bool
  sent : Option (Nat × Nat)
deriving DecidableEq, Repr

/-- The SPI controller beside its registers: the FIFOs, words still to move, words moved, words that the target will send, the dot in which
the word in hand began or, after the last one, ended; none while SCK pauses (R430). -/
structure SpiH where
  tx : List Nat
  rx : List Nat
  left : Nat
  moved : Nat
  input : List Nat
  at_ : Option Nat
deriving DecidableEq, Repr

/-- The SPI controller at rest. -/
def SpiH.init : SpiH := ⟨[], [], 0, 0, [], none⟩

/-- The standard interfaces: descriptor queues by number, Ethernet ports, endpoint, CAN FD controllers, the UART's FIFOs (received
characters with their flags) and the dot in which the character on TX began, the SPI controller (R409 to R433). -/
structure NetH where
  q : SMap QueueH
  eth : SMap EthH
  pcie : PcieH
  can : SMap CanH
  uartTx : List Nat
  uartRx : List Nat
  uartAt : Option Nat
  spi : SpiH
deriving DecidableEq, Repr

/-- The interfaces at reset. -/
def NetH.init : NetH := ⟨[], [], PcieH.init, [], [], [], none, SpiH.init⟩

/-- The image reload of R445: none, due, under way. -/
inductive Reload where
  | none
  | due
  | running
deriving DecidableEq, Repr

/-- The power controller beside its registers: the state being entered, the domains that are still to go off, one per dot, highest first, and
the dot in which the last of them went; a wake is under way, it is the start of R471, the domains that wait to start, those that ramp with the dot in which each is on, the first dot in which one may
start; held wake requests; the image reload; DRAM is in self-refresh (R439 to R449). -/
structure PwrH where
  entering : Option Nat
  off : List Nat
  gone : Option Nat
  waking : Bool
  initial : Bool
  waiting : List Nat
  ramping : List (Nat × Nat)
  first : Nat
  held : List (Nat × Nat)
  reload : Reload
  selfRefresh : Bool
deriving DecidableEq, Repr

/-- The power controller at reset. -/
def PwrH.init : PwrH := ⟨none, [], none, false, false, [], [], 0, [], .none, false⟩

/-- The JTAG instructions (R483). -/
inductive JtagIr where
  | extest
  | idcode
  | sample
  | clamp
  | highz
  | bist
  | bistres
  | uid
  | memacc
  | bypass
deriving DecidableEq, Repr

/-- The test access: the instruction loaded, what its data register has captured, the boundary cells of the general pins as a number;
the self-test under way: target, kind (R481, R483). -/
structure TestH where
  ir : JtagIr
  dr : Nat
  cells : Nat
  bist : Option (Nat × Nat)
deriving DecidableEq, Repr

/-- An instruction behind its prefixes: the opcode, 0x0F00 plus the second byte for an escaped one, the operand bytes as a little-endian
number (R193), and, for a block instruction, the elements that it still completes once it is to stop (R208). -/
structure Code where
  op : Nat
  v : Nat
  stop : Option Nat
deriving DecidableEq, Repr

/-- Something that takes effect in a later dot. -/
inductive Due where
  /-- A command of the table comes due. -/
  | cmd (i : Instr)
  /-- A register field takes a value; bit `i` of a field takes a value. -/
  | field (f : Fld) (u v : Nat)
  | bit (f : Fld) (u i : Nat) (b : Bool)
  /-- A fabric event is issued (R127). -/
  | fire (src : Nat)
  /-- An arrival at an event source (R258). -/
  | arrive (src payload : Nat)
  /-- REF of a leg acts on the resets and compares of the dot before (R50). -/
  | legRef (l : Nat)
  /-- A gate pad becomes inactive. -/
  | padOff (l : Nat) (p : GatePad)
  /-- Group LG of a leg commits (R58). -/
  | legCommit (l : Nat)
  /-- A trip pin's contribution to its line asserts or ends (R67). -/
  | tripPin (n : Nat) (on : Bool)
  /-- A comparator's threshold, its configuration reach the analog die (R87). -/
  | cmpThr (j v : Nat)
  | cmpCfg (j v : Nat)
  /-- MA of a serial-encoder unit falls for a frame (R91). -/
  | seuMa (u : Nat)
  /-- The 128-bit compare write of a PUTC step reaches its leg (R35, R110). -/
  | legQuad (l p a b f : Nat)
  /-- OUT of a timer acts on the fires and the reset of the dot before; a timer's period starts, with PER or without; group TG
  commits (R136, R137, R139). -/
  | timerOut (t : Nat)
  | timerStart (t : Nat) (per : Bool)
  | timerCommit (t : Nat)
  /-- A loaded PERIOD acts on the period in progress of a timer that ran with period `old` (R151). -/
  | timerCut (t old : Nat)
  /-- A route entry governs its sink: the sink and the 16 bytes (R133). -/
  | route (k v : Nat)
  /-- LEGMASK holds end, leg and global context (R114). -/
  | release (hs : List (Nat × Nat))
  /-- A PUTW write to another context of the own cluster: context, word, value (R106). -/
  | ctxPut (g x v : Nat)
  /-- Q_CONS of a descriptor queue passes a descriptor whose write-back has been performed (R411). -/
  | consume (q : Nat)
  /-- TAIL of an event queue advances; its line falls (R266, R267). -/
  | tail (q : Nat)
  | lineFall (q : Nat)
  /-- A store of a loop core reaches its block or general SRAM: the requester, the address, the bytes, the value, the tag (R218, R220). -/
  | store (req a n v : Nat) (tag : Bool)
  /-- An instruction of a core waits for its dot (R206, R220, R232). -/
  | inst (h : Hdr) (c : Code)
  /-- A write of an audio register in the dot of a strobe, address and word: it governs from the sample after (R353). -/
  | audioWrite (a v : Nat)
  /-- A capability written to AUD_RCAP in the dot of a strobe (R353). -/
  | audioCap (c : Cap)
  /-- The Trail freezes with the end of the dot, or its freeze ends (R381). -/
  | freeze (on : Bool)
  /-- The soft levels that meters drive change (R365). -/
  | audioSoft
  /-- The boot ROM has run on host core 0 (R475 to R477). -/
  | bootRom
deriving DecidableEq, Repr

/-- The trigger fabric: events issued in the present dot, the sources that were 1 in the last three dots, newest first, and the
event flags that are set (R126, R130, R205). -/
structure Fabric where
  now : List Nat
  past1 : List Nat
  past2 : List Nat
  past3 : List Nat
  /-- The sinks whose input is 1 in the present dot (R128, R130). -/
  sinks : List Nat
  flags : List Nat
deriving DecidableEq, Repr

/-- What a general timer holds beside its registers: the compares that are armed, what acts on OUT in the next dot, and a next dot
that is a period start after a commit, and whether that commit found the timer halted (R135, R136). -/
structure TmrH where
  arm0 : Bool
  arm1 : Bool
  evReset : Bool
  ev0 : Bool
  ev1 : Bool
  startNext : Bool
  fromHalt : Bool
deriving DecidableEq, Repr

/-- A timer at reset. -/
def TmrH.init : TmrH := ⟨false, false, false, false, false, false, false⟩

/-- The general pins: those at 1 in the present dot, one and two dots ago (R454); those that the device drives in the present dot, and drove
one dot ago; the pads and gate pads (256 plus the leg) whose
new word waits for a line boundary (R457); the pads held by the latches of R448; the pins whose level from outside a command has
told (R88, R90). -/
structure Pads where
  lvl : List Nat
  lvl1 : List Nat
  lvl2 : List Nat
  drv : List Nat
  drv1 : List Nat
  wait : List Nat
  latched : List Nat
  told : SMap (Option Bool)
deriving DecidableEq, Repr

/-- A timing pair as received (R165): HOPS, RHOPS, FRAME, TXPOS in fine steps of the frame, MASTER, the geometry, CORR, and the
local fine step since sweep start in which the TIMING cell's first bit arrived. -/
structure TPair where
  hops : Nat
  rhops : Nat
  frame : Nat
  line : Nat
  dot : Nat
  fine : Nat
  master : Nat
  geom : Geom
  corr : Nat
  at_ : Int
deriving DecidableEq, Repr

/-- A pair to relay: from which port it came, and the pair (R177). -/
structure Relay where
  from_ : Nat
  pair : TPair
deriving DecidableEq, Repr

/-- A link port: the TIMING cell of the last slot, the pair of this frame, delay measurements (newest first, doubled), SEQ of the next
request, the request under way with its departure, the request to answer with its arrival, the control cells due, the pair to
relay, the GEOM cell of the next slot, records to forward with the dot from which they may leave, data cells received and sent in
this frame, the cell last sent and whether it is a data cell; by lane, the cells in a row in which the three lanes agreed (R161). The
times from which records may leave are in fine steps. -/
structure PortH where
  timing : Option TPair
  pair : Option TPair
  delays : List Int
  seq : Nat
  req : Option (Nat × Int)
  resp : Option (Nat × Int)
  helloDue : Bool
  reqDue : Bool
  pairDue : Bool
  relay : Option Relay
  relayed : Bool
  geom : Option Nat
  fwd : List (Nat × Nat)
  rx : Nat
  tx : Nat
  dropRose : Bool
  out : Nat × Bool
  agreed : SMap Nat
deriving DecidableEq, Repr

/-- A port at reset. -/
def PortH.init : PortH := ⟨none, none, [], 0, none, none, false, false, false, none, false, none, [], 0, 0, false, (0, false), []⟩

/-- The link block beside its registers: the window line, alternates and master in effect; the timing port; own records with the
ports that have still to send them and whether one has; lookups under way, each with the port of arrival; values staged for
mailbox words (context, word, tag, publisher, value); the dot of the last delivery and the mailboxes it wrote; this frame's counts and marks; the first pairs of the frame seen on ports 0
or 1 and on the tier ports; by publish entry, one more than the dot of its last handover and whether the host's was in it (R167 to
R180). -/
structure LinkH where
  win : Nat
  alt : Nat
  master : Nat
  tport : Nat
  own : List (Nat × List Nat × Bool)
  lookups : List (Nat × Nat)
  staged : List (Nat × Nat × Nat × Nat × Nat)
  wrote : Nat × List (Nat × Nat)
  ftx : Nat
  frx : Nat
  fmatch : Nat
  flate : Nat
  ovf : Bool
  dir : Bool
  ringPair : Bool
  tierPair : Bool
  handed : SMap (Nat × Bool)
deriving DecidableEq, Repr

/-- The link block at reset. -/
def LinkH.init : LinkH := ⟨0, 0, 0, 0, [], [], [], (0, []), 0, 0, 0, 0, false, false, false, false, []⟩

/-- Why the device's model stops with a fault. -/
inductive Fault where
  /-- No command raises it. It is kept for the host's form of a step's outcome. Safe: a stop. -/
  | none
deriving DecidableEq, Repr

/-- Why a command has no meaning in the model. -/
inductive Refusal where
  /-- Raised by exec for a row of the table that has no meaning yet. Safe: a stop. -/
  | notModelled (mnemonic : String)
deriving DecidableEq, Repr

/-- The whole device. -/
structure State where
  part : Part
  /-- The part carries the T suffix (R3, R486). -/
  tscreen : Bool
  /-- The register file: for each field number, for each unit, the value of the field (Regs.lean). -/
  regs : SMap (SMap Nat)
  /-- Every byte of memory that differs from 0, by its address. -/
  mem : List Host.Cell
  /-- The 16-byte words of memory that carry a capability tag, by address divided by 16. -/
  tags : List Nat
  /-- The 64-bit words that are poisoned or hold an uncorrectable error, by address divided by 8 (R283). -/
  poison : List Nat
  /-- The 64-bit words that hold a single-bit error (R281). -/
  soft : List Nat
  /-- The 4 KiB pages of DRAM and 256-byte granules of the SRAMs whose valid bit is 1, by their first address (R284). -/
  valid : List Nat
  /-- Dots since sweep start, and the position. -/
  time : Nat
  pos : Pos
  /-- What comes due at a later dot, in the order in which it was set. -/
  due : List (Nat × Due)
  /-- The model's own counter of free values. -/
  fresh : Nat
  resp : Resp
  swp : Sweep
  legs : SMap LegH
  startq : SMap StartQ
  trips : Trips
  /-- Words of the context records, by 64 times the global context plus the word (R99). -/
  ctx : SMap Nat
  /-- The legs whose automatic commits a run holds by its LEGMASK, each with the global context that holds it (R114). -/
  holds : List (Nat × Nat)
  /-- The context words as they stood at the last LINE_START and at the one before (R33, R34). -/
  ctx1 : SMap Nat
  ctx2 : SMap Nat
  /-- The register file and memory as they stood at the last LINE_START, which a loop core of another cluster sees (R33, R220). -/
  regs1 : SMap (SMap Nat)
  mem1 : List Host.Cell
  /-- The register file and the context words as the present dot found them, which its accesses read (R13, R33). -/
  regs0 : SMap (SMap Nat)
  ctx0 : SMap Nat
  /-- The bits that the device has set in the present dot: field number, unit, bits (R13). -/
  hits : List (Nat × Nat × Nat)
  /-- PUTW writes on their way through a crossing (R33, R34, R101). -/
  cross : List Crossing
  eng : SMap EngH
  spare : SMap SpareH
  trace : SMap TapH
  sdf : SMap SdfH
  clk : SMap ClkH
  sar : SMap SarH
  cmp : SMap CmpH
  qep : SMap QepH
  seu : SMap SeuH
  fab : Fabric
  tmr : SMap TmrH
  /-- For each region that is STARTING, the frame at whose start it restarts (R144). -/
  restart : SMap (Option Nat)
  /-- An image load in progress: the slot it reads, `none` for the factory default image; the code and section of a failure (R151). -/
  img : Option (Option Nat × Nat × Nat)
  pads : Pads
  ports : SMap PortH
  link : LinkH
  flt : Collector
  /-- The reaction table FLT_RCT by source (R382). -/
  rct : SMap Nat
  evs : SMap EvSrc
  /-- Event records on their way to memory, oldest first; the queues whose wake request has been sent (R266, R268). -/
  recs : List EvOut
  /-- The dot of the last choice of a record (R261). -/
  recAt : Option Nat
  woke : List Nat
  memh : MemH
  dma : SMap DmaH
  /-- The committed copy of group DISP: for the number of each shadow field, its values (R301). -/
  disp : SMap (SMap Nat)
  scan : Scan
  /-- The block engine's operation: how far it has come (R323, R324). -/
  be : DmaPhase
  /-- The pixels of row FL_ROWS of the flat picture that have been written (R331). -/
  flx : Nat
  dp : DpH
  aud : AudioH
  /-- Words queued for the configuration store, oldest first: address divided by 8, value (R393). -/
  cfs : List (Nat × Nat)
  /-- Writes that found that queue full and wait at their agents, oldest first: word, address, bytes, value (R393). -/
  cfsWait : List (Nat × Nat × Nat × Nat)
  /-- The dot since which that queue's next word is being programmed (R393). -/
  cfsAt : Nat
  nand : NandH
  net : NetH
  pwr : PwrH
  test : TestH
  /-- The sources that report in the last dot of this frame (R372). -/
  frameRep : List Nat
  /-- The cores, by CORE.ID (R190). -/
  cpus : SMap Cpu
  /-- The core dispatch queues: the entries that fired, oldest first (R269). -/
  lcd : SMap (List Nat)
  /-- The commands that wait, first in, first out. -/
  pending : List Instr
deriving DecidableEq, Repr

/-- An empty start queue. -/
def StartQ.init : StartQ := ⟨[], none⟩

/-- The sweep block at reset. -/
def Sweep.init : Sweep := ⟨.held, none, 0, 0, false, 0, 0, 0, false, none, 0, 0, 0, 0⟩

/-- The device right after reset. -/
def State.reset : State where
  part := .pl9648
  tscreen := false
  regs := [(MEM_WIN_BASE.id, [(1, 1), (2, 2), (3, 3), (4, 4), (5, 5), (6, 6), (7, 7)])]
  mem := []
  tags := []
  poison := []
  soft := []
  valid := []
  time := 0
  pos := ⟨0, 0, 0⟩
  due := []
  fresh := 0
  resp := ⟨0, false⟩
  swp := Sweep.init
  legs := []
  startq := []
  trips := ⟨[], []⟩
  ctx := []
  holds := []
  ctx1 := []
  ctx2 := []
  regs1 := []
  mem1 := []
  regs0 := []
  ctx0 := []
  hits := []
  cross := []
  eng := []
  spare := []
  trace := []
  sdf := []
  clk := []
  sar := []
  cmp := []
  qep := []
  seu := []
  fab := ⟨[], [], [], [], [], []⟩
  tmr := []
  restart := []
  img := none
  ports := []
  link := LinkH.init
  pads := ⟨[], [], [], [], [], [], [], []⟩
  flt := ⟨[], [], none⟩
  rct := []
  evs := []
  recs := []
  recAt := none
  woke := []
  memh := ⟨[], [], [], [], [], [], none, 0, none, []⟩
  dma := []
  disp := []
  scan := Scan.init
  be := .idle
  flx := 0
  dp := ⟨false, false⟩
  aud := AudioH.init
  cfs := []
  cfsWait := []
  cfsAt := 0
  nand := NandH.init
  net := NetH.init
  pwr := PwrH.init
  test := ⟨.idcode, 0, 0, none⟩
  frameRep := []
  cpus := [(0, { Cpu.init with state := .run, c := rootCaps })]
  lcd := []
  pending := []

end Sys2Proof.Machine
end

