-- ==== Sys2Proof/Machine/Ops.lean ====
section
/-! DEFINITION. The named operations that the meanings share: register fields, memory, fabric events, reports to the collector,
arrivals at the event controller, effects of a later dot. -/

namespace Sys2Proof.Machine

open Sys2Proof

/-! ### Register fields (R12) -/

/-- The value of field `F` of unit `u`. -/
def fget (F : Fld) (u : Nat) (s : State) : Nat := sget F.rst (sget [] s.regs F.id) u

/-- Field `F` of unit `u` takes `v`, cut to the field's width. -/
def fset (F : Fld) (u v : Nat) (s : State) : State :=
  { s with regs := sset [] s.regs F.id (sset F.rst (sget [] s.regs F.id) u (v % 2 ^ F.w)) }

/-- The field read as one bit. -/
def fbit (F : Fld) (u : Nat) (s : State) : Bool := fget F u s % 2 == 1

/-- The sweep runs, and so there is a present dot (R21, R24). -/
def running (s : State) : Bool := decide (s.swp.stage = .running)

/-- The device sets bits `m` of a field in the present dot: a clear in the same dot does not lose them (R13). -/
def mark (i u m : Nat) (s : State) : State := if running s then { s with hits := (i, u, m) :: s.hits } else s

/-- The bits of a field that the device set in the present dot (R13). -/
def held (i u : Nat) (s : State) : Nat :=
  s.hits.foldl (fun n e => if e.1 == i && e.2.1 == u then n ||| e.2.2 else n) 0

/-- An entry joins the queue behind field `F` in the present dot. -/
def joined (F : Fld) (s : State) : State := mark F.id 0 0 s

/-- The entries of the queue behind field `F` that a read in the present dot finds: those of the present dot are not among them (R13). -/
def present {α : Type} (F : Fld) (q : List α) (s : State) : List α :=
  q.take (q.length - (s.hits.filter (fun e => e.1 == F.id && e.2.1 == 0)).length)

/-- Set a field to 1. -/
def fon (F : Fld) (u : Nat) (s : State) : State := mark F.id u 1 (fset F u 1 s)

/-- Clear a field. -/
def foff (F : Fld) (u : Nat) (s : State) : State := fset F u 0 s

/-- Bit `i` of a field. -/
def fbitAt (F : Fld) (u i : Nat) (s : State) : Bool := (fget F u s).testBit i

/-- Set or clear bit `i` of a field. -/
def fsetBit (F : Fld) (u i : Nat) (b : Bool) (s : State) : State :=
  if b then mark F.id u (2 ^ i) (fset F u (fget F u s ||| 2 ^ i) s) else fset F u (fget F u s - (fget F u s &&& 2 ^ i)) s

/-- Clear by writing 1s (R12): a bit that the device set in the present dot stays set (R13). -/
def fclear (F : Fld) (u v : Nat) (s : State) : State :=
  fset F u (fget F u s - (fget F u s &&& v) ||| (fget F u s &&& held F.id u s)) s

/-- A field as the present dot found it. -/
def fbefore (F : Fld) (u : Nat) (s : State) : Nat := sget F.rst (sget [] s.regs0 F.id) u

/-- A field as an access reads it: what is written in a dot, by a command or by the device itself, is read from the next dot on (R13,
R33). -/
def fseen (F : Fld) (u : Nat) (s : State) : Nat := if running s then fbefore F u s else fget F u s

/-- A field that follows from other state holds `v`, for the present access. -/
def fshow (F : Fld) (u v : Nat) (s : State) : State :=
  { fset F u v s with regs0 := sset [] s.regs0 F.id (sset F.rst (sget [] s.regs0 F.id) u (v % 2 ^ F.w)) }

/-- The fields that hold the greatest value since they were last read. -/
def isMaximum (F : Fld) : Bool := [LPE_STAT_QMAX.id, LPE_BUSY_MAXWAIT.id, MEM_INFLIGHT_MAX.id, MTR_MAXPK_MAXPK.id].contains F.id

/-- What a read that clears the field leaves of it: what the present dot has added, or a maximum that it has raised (R13). -/
def fleft (F : Fld) (u : Nat) (s : State) : Nat :=
  if running s then
    (if F.id = MTR_MAXPK_MAXPK.id ∧ s.aud.strobe = some s.time then ((s.aud.took.find? (fun e => e.1 == u)).map Prod.snd).getD 0
    else if isMaximum F then (if fget F u s = fbefore F u s then 0 else fget F u s) else fget F u s - fbefore F u s) else 0

/-- A read in the present dot has cleared the field (R12, R13). -/
def fread (F : Fld) (u : Nat) (s : State) : State :=
  { fset F u (fleft F u s) s with regs0 := sset [] s.regs0 F.id (sset F.rst (sget [] s.regs0 F.id) u 0) }

/-- Add `n` to a count that saturates at its width. -/
def fcount (F : Fld) (u n : Nat) (s : State) : State := fset F u (min (fget F u s + n) (2 ^ F.w - 1)) s

/-- Add `n` to a count modulo its width. -/
def fadd (F : Fld) (u n : Nat) (s : State) : State := fset F u (fget F u s + n) s

/-- The state after a meaning that answers a next state. -/
def ran (o : Host.Outcome State Fault Refusal) (s : State) : State :=
  match o with
  | .next t => t
  | _ => s

/-- Do `f` where `b` holds. -/
def onlyIf (b : Bool) (f : State → State) (s : State) : State := if b then f s else s

/-- Do `f k` for each `k` of a list, in order. -/
def forAll {α : Type} (ks : List α) (f : α → State → State) (s : State) : State := ks.foldl (fun t k => f k t) s

/-- The bits [hi:lo] of a number. -/
def bits (n hi lo : Nat) : Nat := n / 2 ^ lo % 2 ^ (hi + 1 - lo)

/-- A 32-bit number read as signed. -/
def sint (n : Nat) : Int := (BitVec.ofNat 32 n).toInt

/-- A signed number as 32 bits. -/
def word (i : Int) : Nat := (BitVec.ofInt 32 i).toNat

/-! ### The answer to an access -/

/-- A read answers `v`. -/
def answer (v : Nat) (s : State) : State := { s with resp := ⟨BitVec.ofNat 32 v, false⟩ }

/-- An access ends in a bus error to the requester (R5, R225). -/
def busError (s : State) : State := { s with resp := ⟨0, true⟩ }

/-! ### Positions and delays (R8, R9) -/

/-- The geometry in effect (R14, R26). -/
def dotsEff (s : State) : Nat := fget SWP_GEOM_EFF0_DOTS 0 s

/-- The lines per frame in effect. -/
def linesEff (s : State) : Nat := fget SWP_GEOM_EFF0_LINES 0 s

/-- The frame's length in dots. -/
def frameDots (s : State) : Nat := dotsEff s * linesEff s

/-- A position `n` dots later (R9). -/
def addDots (s : State) (p : Pos) (n : Nat) : Pos :=
  let t := p.line * dotsEff s + p.dot + n
  ⟨(p.frame + t / frameDots s) % 2 ^ 32, t % frameDots s / dotsEff s, t % dotsEff s⟩

/-- The SWP_NOW_LO layout of a position (R43). -/
def posLo (p : Pos) : Nat := p.line * 2 ^ 14 + p.dot

/-- `d` takes effect `n` dots from now. -/
def later (n : Nat) (d : Due) (s : State) : State := { s with due := s.due ++ [(s.time + n, d)] }

/-- Drop what comes due and satisfies `p`. -/
def dropDue (p : Due → Bool) (s : State) : State := { s with due := s.due.filter (fun e => !p e.2) }

/-- The number of the next free value: the counter advances. -/
def nextFresh (s : State) : State := { s with fresh := s.fresh + 1 }

/-! ### Pins (R453) -/

/-- Pin `p` carries the function of code `f`: its word in effect names it. -/
def pinCarries (p f : Nat) (s : State) : Bool := fget PAD_EFF_W p s % 128 == f

/-! ### Clusters and regions (R1, R4, R7) -/

/-- The cluster-enable field of the identification word (R7). -/
def clusterEnable (s : State) : Nat :=
  match s.part with
  | .pl9648 => 0x00FFFFFF
  | .pl9624 => 0x001C71C7

/-- Cluster `c` is enabled (R4, R5). -/
def clusterOn (c : Nat) (s : State) : Bool := (clusterEnable s).testBit c

/-- Something happens in cluster `c`: a disabled cluster is absent (R5). -/
def inCluster (c : Nat) (f : State → State) (s : State) : State := if clusterOn c s then f s else s

/-- An access to a register of cluster `c`: of a disabled cluster, a bus error (R5). -/
def toCluster (c : Nat) (f : State → State) (s : State) : State := if clusterOn c s then f s else busError s

/-- The state of region `n` (R142): 0 STOPPED, 1 STARTING, 2 RUN. -/
def regionState (n : Nat) (s : State) : Nat := fget RGN_STAT_STATE n s

/-- Region `n` is in RUN. -/
def regionRun (n : Nat) (s : State) : Bool := regionState n s == 2

/-- Region `n` counts as STOPPED (R142). -/
def regionStopped (n : Nat) (s : State) : Bool := !regionRun n s

/-- All four regions count as STOPPED. -/
def allStopped (s : State) : Bool := (List.range 4).all (fun n => regionStopped n s)

/-- All four regions are STOPPED themselves, none STARTING (R142, for an image load). -/
def allHalted (s : State) : Bool := (List.range 4).all (fun n => regionState n s == 0)

/-! ### Fabric events (R126) -/

/-- Event source `e` is issued in the present dot. -/
def fire (e : Nat) (s : State) : State := { s with fab := { s.fab with now := nput e s.fab.now } }

/-! ### Reports (R372) -/

/-- Domain `d` is on (R436). -/
def domainOn (d : Nat) (s : State) : Bool := fbitAt PWR_DOMSTAT_ON 0 d s

/-- The switched domain in which core `i` lies (R434). -/
def coreDomain (i : Nat) : Nat := if i < 16 then 15 + i else if i < 48 then 7 + (i - 16) / 3 else i - 45

/-- The switched domain of the core that answers to ID `i`: the spare's while it serves (R121, R434). -/
def coreHome (i : Nat) (s : State) : Nat :=
  if 16 ≤ i ∧ i < 40 ∧ fbit LPE_STAT_SUBST (i - 16) s then 3 + (i - 16) / 6 else coreDomain i

/-- The switched domain of the block that reports from `src`, `none` where the block lies in the always-on domain (R373, R374, R434,
R435). The spare reports for the engine in whose place it serves (R121); RMB_UE is a walker's, of which walker 3 is always on. -/
def srcDomain (src : Nat) (s : State) : Option Nat :=
  if src < 0x100 then
    let c := 6 * (src / 64) + src % 64 / 9
    if 54 ≤ src % 64 ∨ (4 ≤ src % 64 % 9 ∧ fbit LPE_STAT_SUBST c s) then some (3 + src / 64) else some (7 + c / 3)
  else if src < 0x103 then none
  else if src < 0x108 then some 0
  else if src = 0x10B then none
  else if src < 0x110 then some 1
  else if src < 0x118 then some 0
  else if src < 0x11A then some 22
  else if src < 0x121 then some 23
  else if src < 0x140 then some 21
  else if src < 0x180 then some 1
  else if src < 0x1C0 then some (coreHome (src - 0x180) s)
  else if src < 0x1D0 then some 19
  else if src < 0x1F0 then none
  else some 20

/-- The block of source `src` can report: its domain is not off, the collector is not lost to OFF (R372, R449), and a cluster's source is not of a disabled cluster (R5, R373). -/
def reporterOn (src : Nat) (s : State) : Bool :=
  (decide (0x100 ≤ src) || decide (54 ≤ src % 64) || clusterOn (6 * (src / 64) + src % 64 / 9) s)
    && fget PWR_STAT_STATE 0 s != 4 && match srcDomain src s with
      | none => true
      | some d => domainOn d s

/-- What source `src` reports in the present dot with INFO0 and INFO1: nothing while its block is off (R372, R378). -/
def reportOf (src i0 i1 : Nat) (s : State) : List Report := if reporterOn src s then [⟨src, i0, i1, s.time, s.pos⟩] else []

/-- A block reports from source `src` with INFO0 and INFO1 in the present dot; the collector latches it 2 dots later. -/
def report (src i0 i1 : Nat) (s : State) : State :=
  { s with flt := { s.flt with reports := s.flt.reports ++ reportOf src i0 i1 s } }

/-- The source of region `n`, bit `b` (R373). -/
def rsrc (n b : Nat) : Nat := 0x40 * n + b

/-- The source of cluster `c` whose place in the cluster's nine is `k` (R373). -/
def csrc (c k : Nat) : Nat := rsrc (c / 6) (9 * (c % 6) + k)

/-! ### Event sources (R258 to R262) -/

/-- The ring of queue `q` lies in a domain that is on: DRAM, general SRAM, or the Hamper, which is always on (R271, R434). -/
def ringOn (q : Nat) (s : State) : Bool :=
  let a := 16 * fget EVQ_BASE_ADDR q s
  if a ≥ 0x80000000 then domainOn 2 s else if a / 2 ^ 28 = 2 then domainOn 1 s else true

/-- The records of queue `q` whose stores are under way. -/
def inFlight (q : Nat) (s : State) : Nat := (s.recs.filter (fun r => r.queue == q)).length

/-- Queue `q` is full, the records under way counted (R264). -/
def queueFull (q : Nat) (s : State) : Bool :=
  (fget EVQ_TAIL_INDEX q s + inFlight q s + 1) % fget EVQ_SIZE_SIZE q s == fget EVQ_HEAD_INDEX q s

/-- Source `n` has arrivals that may go into a record: EN, ARR above 0, OUT clear, its queue enabled and not in error (R261). -/
def evReady (n : Nat) (s : State) : Bool :=
  let q := fget EVC_CFG_QUEUE n s
  fbit EVC_CFG_EN n s && fget EVC_ST_ARR n s != 0 && !fbit EVC_ST_OUT n s && fget EVQ_SIZE_SIZE q s != 0 && !fbit EVQ_STAT_ERR q s

/-- Source `n` is eligible (R261, R271). -/
def eligible (n : Nat) (s : State) : Bool :=
  evReady n s && !queueFull (fget EVC_CFG_QUEUE n s) s && ringOn (fget EVC_CFG_QUEUE n s) s

/-- What the event controller keeps of source `n`. -/
def evSrc (n : Nat) (s : State) : EvSrc := sget EvSrc.init s.evs n

/-- Source `n` keeps `e`. -/
def setEvSrc (n : Nat) (e : EvSrc) (s : State) : State := { s with evs := sset EvSrc.init s.evs n e }

/-- Note from which dot source `n` is eligible; a source that finds its queue full sets FULL_HIT (R261, R264). -/
def noteSource (n dot : Nat) (s : State) : State :=
  let e := evSrc n s
  let s := onlyIf (evReady n s && queueFull (fget EVC_CFG_QUEUE n s) s) (fon EVQ_STAT_FULL_HIT (fget EVC_CFG_QUEUE n s)) s
  if eligible n s then (if e.since.isNone then setEvSrc n { e with since := some dot } s else s)
  else setEvSrc n { e with since := none } s

/-- The sources with something in ARR. -/
def sourcesWaiting (s : State) : List Nat := (sget [] s.regs EVC_ST_ARR.id).map Prod.fst

/-- Note again which sources are eligible, after a change to a queue. -/
def noteSources (dot : Nat) (s : State) : State :=
  forAll (sourcesWaiting s) (fun n t => if evReady n t || (evSrc n t).since.isSome then noteSource n dot t else t) s

/-- The event controller runs: in RUN, HOLD and DIM (R271). -/
def evcRuns (s : State) : Bool := decide (fget PWR_STAT_STATE 0 s < 3)

/-- The arrivals of source `n` in the present dot (R261). -/
def arrivedNow (n : Nat) (s : State) : Option EvDot :=
  if running s then (evSrc n s).latest.filter (fun d => d.dot == s.time) else none

/-- Source `n` records an arrival: ARR counts it or SAT is set, FIRST and the payload are kept (R260). In SLEEP arrivals are not
counted (R271). An arrival in the dot of the source's acknowledgement makes it eligible from the next dot (R262). -/
def arrive (n payload : Nat) (s : State) : State :=
  if fbit EVC_CFG_EN n s && evcRuns s then
    let e := evSrc n s
    let arr := fget EVC_ST_ARR n s
    let pl := if n < 0x100 then fget EVC_CFG_TAG n s else payload % 2 ^ 32
    let d : EvDot := match arrivedNow n s with
      | some d => { d with n := d.n + 1, last := pl }
      | none => ⟨s.time, 1, arr, fbit EVC_ST_SAT n s, if arr = 0 then pl else e.payload, pl⟩
    if arr = 255 then fon EVC_ST_SAT n (setEvSrc n { e with latest := some d } s)
    else noteSource n (if e.acked = some s.time then s.time + 1 else s.time) (fset EVC_ST_ARR n (arr + 1)
      (setEvSrc n { e with first := if arr = 0 then s.pos else e.first, payload := pl, latest := some d } s))
  else s

/-- The core dispatch queue of cluster `c`, with DEPTH (R269, R273). -/
def lcdQueue (c : Nat) (s : State) : List Nat := sget [] s.lcd c

/-- What LCD_POP presents of a queue `q` of cluster `c`: VALID, the entry at its head and that entry's TAG (R273). -/
def lcdPresents (c : Nat) (q : List Nat) (s : State) : Nat × Nat × Nat :=
  match q with
  | [] => (0, 0, 0)
  | e :: _ => (1, e, fget LCD_ENT_HI_W (32 * c + e) s % 2 ^ 16)

/-- The core dispatch queue of cluster `c` becomes `q`, and DEPTH and LCD_POP show it. -/
def setLcd (c : Nat) (q : List Nat) (s : State) : State :=
  let p := lcdPresents c q s
  fset LCD_POP_VALID c p.1 (fset LCD_POP_ENTRY c p.2.1 (fset LCD_POP_TAG c p.2.2
    (fset LCD_STAT_DEPTH c q.length { s with lcd := sset [] s.lcd c q })))

/-- The core dispatch queue of cluster `c` is emptied (R269, R270). -/
def emptyLcd (c : Nat) (s : State) : State := setLcd c [] s

/-! ### Context records (R99) -/

/-- Word `w` of global context `g`. -/
def ctxGet (g w : Nat) (s : State) : Nat := sget 0 s.ctx (64 * g + w)

/-- Word `w` of global context `g` takes `v`. -/
def ctxSet (g w v : Nat) (s : State) : State := { s with ctx := sset 0 s.ctx (64 * g + w) (v % 2 ^ 32) }

/-- A context word as an access reads it: what is written in a dot is read from the next dot on (R33). -/
def ctxRead (g w : Nat) (s : State) : Nat := if running s then sget 0 s.ctx0 (64 * g + w) else ctxGet g w s

/-- The number that stands for CTX_STAT of global context `g` among the fields (R13). -/
def statMark : Nat := 2 ^ 20

/-- A step or a loop-core routine writes word `w` of context `g`, which holds `v` then: each trace tap that names the word samples it
(R311). -/
def traceSample (g w v : Nat) (s : State) : State :=
  forAll (List.range 16) (fun k t =>
    let h := sget TapH.init t.trace k
    if h.en && h.ctx == g && h.word == w then
      let x := sint v
      let r := match h.range with
        | none => (x, x)
        | some (lo, hi) => (min lo x, max hi x)
      { t with trace := sset TapH.init t.trace k { h with range := some r } }
    else t) s

/-- The link delivered mailbox `m` of context `g` in the present dot: the link's write is the last of the dot (R102). -/
def linkWrote (g m : Nat) (s : State) : Bool := decide (s.link.wrote.1 = s.time) && s.link.wrote.2.contains (g, m)

/-- The MBX_FRESH bits of context `g` that the link set in the present dot. -/
def freshNow (g : Nat) (s : State) : Nat :=
  (List.range 8).foldl (fun n m => if linkWrote g m s then n + 2 ^ m else n) 0

/-- A write of word `w` of context `g` from outside a run, with the word's own rule: reserved bits of CTX_CTRL, W1C bits of CTX_STAT
and MBX_FRESH, words that ignore host writes (R99); in the dot of a delivery the link's write stands (R102). -/
def ctxApply (g w v : Nat) (s : State) : State :=
  match w with
  | 0 => ctxSet g 0 (v &&& 0xFF3F07FF) s
  | 1 => ctxSet g 1 (ctxGet g 1 s - (ctxGet g 1 s &&& v) ||| (ctxGet g 1 s &&& held statMark g s)) s
  | 2 => s
  | 3 => s
  | 55 => ctxSet g 55 ((ctxGet g 55 s - (ctxGet g 55 s &&& (v &&& 0xFF))) ||| freshNow g s) s
  | _ => if 56 ≤ w && linkWrote g (w - 56) s then s else ctxSet g w v s

/-- A value is handed to publish entry `e`, by a host or DMA write where `host`, else by a PUBL step (R167). A second handover in one dot
sets CLASH; of those in one dot the host's stands, though the engines run through the dot after it. -/
def pubWrite (host : Bool) (e v : Nat) (s : State) : State :=
  let last := sget (0, false) s.link.handed e
  let again := last.1 == s.time + 1
  let s := if again then fon PUB_STAT_CLASH e s else s
  if again && last.2 && !host then fon PUB_STAT_WRITTEN e s
  else fset PUB_PPOS_LINE e s.pos.line (fset PUB_PPOS_DOT e s.pos.dot (fon PUB_STAT_WRITTEN e (fset PUB_VALUE_VALUE e v
    { s with link := { s.link with handed := sset (0, false) s.link.handed e (s.time + 1, host) } })))

/-! ### Memory: single bytes and little-endian words (R11, R284) -/

/-- The byte at `a`; a byte that is not listed reads 0. -/
def mget (a : Nat) (s : State) : Byte := sget 0 s.mem a

/-- The byte at `a` becomes `b`. -/
def mset (a : Nat) (b : Byte) (s : State) : State := { s with mem := sset 0 s.mem a b }

/-- The `n` bytes from `a` on as a number, the lowest address least significant. -/
def mread (a : Nat) : Nat → State → Nat
  | 0, _ => 0
  | n + 1, s => (mget a s).toNat + 256 * mread (a + 1) n s

/-- Write the `n` low bytes of `v` from `a` on. -/
def mwrite (a : Nat) : Nat → Nat → State → State
  | 0, _, s => s
  | n + 1, v, s => mwrite (a + 1) n (v / 256) (mset a (BitVec.ofNat 8 v) s)

/-- The canonical form of memory: strictly rising addresses, no byte of 0 listed. -/
def Memory.wf (m : List Host.Cell) : Bool := canonical (0 : Byte) m

end Sys2Proof.Machine
end

