-- ==== Sys2Proof/Machine/Fixed.lean ====
section
/-! DEFINITION. The fixed-point arithmetic of the loop engine: rounding and saturation (R107), exact constants (R501), space-vector
modulation (R111), compare values (R110). -/

namespace Sys2Proof.Machine

open Sys2Proof

/-- The largest 32-bit signed value. -/
def maxWord : Int := 2 ^ 31 - 1

/-- The least 32-bit signed value. -/
def minWord : Int := -2 ^ 31

/-- A value and the bits of CTX_STAT that forming it sets. -/
abbrev Val := Int × List Nat

/-- Saturation to 32 bits, which sets SAT, bit 0 of CTX_STAT (R107). -/
def sat32 (x : Int) : Val :=
  if x > maxWord then (maxWord, [0]) else if x < minWord then (minWord, [0]) else (x, [])

/-- Round-half-up division by 2^q, step 3 of R107. -/
def roundQ (q : Nat) (x : Int) : Int := if q = 0 then x else (x + 2 ^ (q - 1)) / 2 ^ q

/-- rnd() of R107: one rounding, then saturation. -/
def rnd (q : Nat) (x : Int) : Val := sat32 (roundQ q x)

/-- Division truncated toward zero. -/
def tdiv (n d : Int) : Int := Int.tdiv n d

/-- `n / d` rounded to the nearest integer, halves up; `d > 0`. -/
def rdiv (n d : Int) : Int := (2 * n + d) / (2 * d)

/-- The integer part, toward minus infinity, of y times the square root of 3. -/
def floorSqrt3 (y : Int) : Int :=
  let r : Int := Nat.sqrt (3 * y.natAbs ^ 2)
  if y ≥ 0 then r else -r - 1

/-- `v` over the square root of 3, rounded to the nearest integer, halves up: the floor of (2 v / sqrt 3 + 1) / 2, where
v / sqrt 3 = v sqrt 3 / 3 (R501). -/
def overSqrt3 (v : Int) : Int :=

  if v = 0 then 0 else (floorSqrt3 (2 * v) + 3) / 6

/-- The three phase voltages of ICLARKE, each rounded once (R108, R501). -/
def phases (al be : Int) : Int × Int × Int :=
  let half (y : Int) : Int := if be = 0 then (1 - al) / 2 else (floorSqrt3 y + 1 - al) / 2
  (al, half be, half (-be))

/-- A number x + y sqrt(3), exactly. -/
abbrev Root3 := Int × Int

/-- The integer part, toward minus infinity, of x + y sqrt(3). -/
def rfloor (v : Root3) : Int := if v.2 = 0 then v.1 else v.1 + floorSqrt3 v.2

/-- x + y sqrt(3) is above 0. -/
def rpos (v : Root3) : Bool := if v.2 = 0 then decide (v.1 > 0) else decide (rfloor v ≥ 0)

/-- The difference. -/
def rsub (a b : Root3) : Root3 := (a.1 - b.1, a.2 - b.2)

/-- The greater and the lesser of two. -/
def rmax (a b : Root3) : Root3 := if rpos (rsub b a) then b else a
def rmin (a b : Root3) : Root3 := if rpos (rsub b a) then a else b

/-- SVM and SVM3 (R111), on the exact phase voltages, each in half units of the last bit: the min-max zero sequence, overmodulation,
clamping or scaling, one rounding. `three` gives the signed duties of SVM3. The second component is OVM. -/
def svm (al be : Int) (scale three : Bool) : List Int × Bool :=
  let va : Root3 := (2 * al, 0)
  let vb : Root3 := (-al, be)
  let vc : Root3 := (-al, -be)
  let mx := rmax va (rmax vb vc)
  let mn := rmin va (rmin vb vc)
  let span := rsub mx mn
  let ovm := rpos (span.1 - 2 * 2 ^ 31, span.2)
  -- -(max + min) / 2 in quarter units is the middle phase, because the three sum to 0
  let mid : Root3 := (-(mx.1 + mn.1), -(mx.2 + mn.2))
  let duty (v : Root3) : Int :=
    let p := 2 * v.1 + mid.1
    let r := 2 * v.2 + mid.2
    let n : Int × Int × Int :=
      if ovm && scale then
        let den := 2 * (span.1 * span.1 - 3 * span.2 * span.2)
        let sg : Int := if den < 0 then -1 else 1
        (sg * 2 ^ 31 * (p * span.1 - 3 * r * span.2), sg * 2 ^ 31 * (r * span.1 - p * span.2), sg * den)
      else (p, r, 4)
    let (p, r, den) := n
    let (p, r) := if three then (2 * p, 2 * r) else (p, r)
    let x := rfloor (2 * p + den, 2 * r) / (2 * den) + (if three then 0 else 2 ^ 30)
    min (max x (if three then minWord else 0)) maxWord
  ([duty va, duty vb, duty vc], ovm)

/-- The fine steps of a duty of R107 times P times `scale`, rounded to the nearest, halves up (R110). -/
def dutySteps (duty : Int) (p scale : Nat) : Nat :=
  if duty ≤ 0 then 0 else if duty ≥ maxWord then p * scale else (2 * duty.toNat * p * scale + 2 ^ 31) / 2 ^ 32

/-- The words of a compare write: PERIOD, CMPA, CMPB and LEG_FINE from the compares in fine steps (R61, R110). -/
structure Compares where
  period : Nat
  cmpa : Nat
  cmpb : Nat
  fine : Nat
deriving DecidableEq, Repr

/-- Split compares in fine steps into dots and fine parts. -/
def splitCompares (p a b : Nat) : Compares := ⟨p, a / 32, b / 32, b % 32 * 256 + a % 32⟩

/-- A centred pulse of a triangle carrier, MODE 0 (R110). -/
def triangleCompares (duty : Int) (p : Nat) : Compares :=
  let h := dutySteps duty p 16
  splitCompares p (p * 16 - h) (p * 16 + h)

/-- A sawtooth pulse that starts at `start` fine steps, MODE 1 (R110). -/
def sawtoothCompares (duty start : Int) (p : Nat) : Compares :=
  let a := min start.toNat (p * 32)
  splitCompares p a (min (a + dutySteps duty p 32) (p * 32))

/-! ### The circle (R108, SINCOS) -/

/-- 2 pi, scaled by 2^96. -/
def twoPi96 : Int := 497805226624462170461043889244

/-- The Taylor terms of the sine from term `k` on: `t` is the term of order 2k - 1, `x2` the squared angle, scaled by 2^96. -/
def sinTerms (x2 : Int) : Nat → Nat → Int → Int
  | 0, _, _ => 0
  | n + 1, k, t => t + sinTerms x2 n (k + 1) (-(t * x2 / 2 ^ 96) / ((2 * k) * (2 * k + 1)))

/-- The sine of an angle in the first quadrant, `u` of 2^30 parts, scaled by 2^96. -/
def sinQuad (u : Nat) : Int :=
  let x : Int := u * twoPi96 / 2 ^ 32
  sinTerms (x * x / 2 ^ 96) 20 1 x

/-- The sine of an angle word, scaled by 2^96 (R107: 2^32 is a turn). -/
def sinTurn (u : Nat) : Int :=
  let v := u % 2 ^ 32
  if v < 2 ^ 30 then sinQuad v
  else if v < 2 ^ 31 then sinQuad (2 ^ 31 - v)
  else if v < 3 * 2 ^ 30 then -sinQuad (v - 2 ^ 31)
  else -sinQuad (2 ^ 32 - v)

/-- A result of SINCOS in Q1.31: any value within 4 LSB of the exact one, the free offset choosing which; 1 is 0x7FFFFFFF (R108). -/
def sincos (which u : Nat) : Int :=
  let x := if which = 0 then sinTurn (u + 2 ^ 30) else sinTurn u
  let n := (x + 2 ^ 64) / 2 ^ 65
  let m := n + Config.sincosOffset which u
  let r := if (m * 2 ^ 65 - x).natAbs ≤ 4 * 2 ^ 65 then m else n
  min (max r minWord) maxWord

end Sys2Proof.Machine
end

