-- ==== Sys2Proof/Machine/Cpu.lean ====
section
/-! DEFINITION. What other blocks do to a core: fault events (R252, R255, R256), core start (R243). -/

namespace Sys2Proof.Machine

open Sys2Proof

/-- The core of CORE.ID `i`. -/
def cpu (i : Nat) (s : State) : Cpu := sget Cpu.init s.cpus i

/-- The core of CORE.ID `i` becomes `h`. -/
def setCpu (i : Nat) (h : Cpu) (s : State) : State := { s with cpus := sset Cpu.init s.cpus i h }

/-- The CORE.ID of cluster `c`'s loop core: while a spare serves the cluster it names the spare's core (R190, R384, R479). -/
def loopId (c : Nat) : Nat := 16 + c

/-- A host core runs 4 cycles in a dot, a loop core 2 (R213). -/
def cyclesPerDot (i : Nat) : Nat := if i < 4 then 4 else 2

/-- A WAIT ends (R268, R270). -/
def wakeCpu (i : Nat) (s : State) : State :=
  let h := cpu i s
  if h.state = .wait then setCpu i { h with state := .run, free := max h.free (cyclesPerDot i * (s.time + 1)) } s else s

/-- The capability in slot `F` of unit `u`. -/
def slotCap (F : CapFld) (u : Nat) (s : State) : Cap :=
  ⟨BitVec.ofNat 128 (fget F.w0 u s + 2 ^ 32 * fget F.w1 u s + 2 ^ 64 * fget F.w2 u s + 2 ^ 96 * fget F.w3 u s), fbit F.tag u s⟩

/-- Slot `F` of unit `u` takes a capability. -/
def setSlotCap (F : CapFld) (u : Nat) (k : Cap) (s : State) : State :=
  let n := k.v.toNat
  fset F.w0 u n (fset F.w1 u (n / 2 ^ 32) (fset F.w2 u (n / 2 ^ 64) (fset F.w3 u (n / 2 ^ 96) (fset F.tag u k.tag.toNat s))))

/-- A fault event of source `src` is sent to core `i` (R252, R255, R256): it waits for a boundary; in the refuge one is held and
more are counted as lost; a LOCKED core counts all. -/
def sendFault (i src : Nat) (s : State) : State :=
  let h := cpu i s
  if fbit EXC_STAT_LOCKED i s then fcount CPU_LOST_FAULTS i 1 s
  else if fbit EXC_STAT_IN_REFUGE i s then
    match h.held with
    | some _ => fcount CPU_LOST_FAULTS i 1 s
    | none => wakeCpu i (fon EXC_STAT_FAULT_PEND i (setCpu i { h with held := some src } s))
  else wakeCpu i (setCpu i { h with faults := h.faults ++ [src] } s)

/-- A core has the CORE.ID `i`, and it does not lie in a disabled cluster (R5, R190); 48 + n names no core while the spare of RGn is in
service. -/
def coreExists (i : Nat) (s : State) : Bool :=
  decide (i < 4) || (decide (16 ≤ i ∧ i < 40) && clusterOn (i - 16) s)
    || (decide (48 ≤ i ∧ i < 52) && !fbit RSP_STAT_IN_SERVICE (i - 48) s)

/-- A self-test holds the target of number `t`: its error lines are masked and it serves nothing (R480, R482). -/
def testing (t : Nat) (s : State) : Bool := s.test.bist.any (fun e => e.1 == t)

/-- A self-test holds the pair or host core that answers to ID `i`: not the one whose spare serves in its place (R482). -/
def coreTested (i : Nat) (s : State) : Bool := testing i s && !(decide (16 ≤ i ∧ i < 40) && fbit LPE_STAT_SUBST (i - 16) s)

/-- Core `i` is started at `pc` (R243, R478): its first instruction is fetched in the dot after; a loop core whose cluster has
CORE_MODE 1 waits for CORE steps. -/
def startCoreAt (i pc : Nat) (s : State) : State :=
  let seeds := (List.range 16).foldl (fun m k => sset Cap.none m k (slotCap CAP_SEED_CAP (16 * i + k) s)) []
  let idle := decide (16 ≤ i ∧ i < 40) && fbit LPE_CFG_CORE_MODE (i - 16) s
  let h := { Cpu.init with
    state := if idle then .idle else .run, c := seeds, pc := pc, free := cyclesPerDot i * (s.time + 1)
    tickHi := (cpu i s).tickHi }
  foff EXC_CTRL_IE i (foff EXC_CTRL_PRECISE i (foff EXC_STAT_IN_REFUGE i (foff EXC_STAT_LOCKED i (foff EXC_STAT_FAULT_PEND i
    (setCpu i h s)))))

/-- Core `i` is started at its BOOT_SPC. -/
def startCore (i : Nat) (s : State) : State := startCoreAt i (fget BOOT_SPC_PC i s) s

/-- Core `i` is stopped: it has not been started (R445, R479). -/
def stopCore (i : Nat) (s : State) : State := setCpu i { cpu i s with state := .off } s

end Sys2Proof.Machine
end

