-- ==== Sys2Proof/Machine/Memory.lean ====
section
/-! DEFINITION. Memory as the agents reach it: translation through the DRAM windows, check bits and poison, valid bits, tags, repair
candidates (R237, R275, R280 to R288). A byte's key is its map address below 2^32, and 2^32 plus its DRAM offset above. -/

namespace Sys2Proof.Machine

open Sys2Proof

/-- The key of address `a`: a DRAM aperture address is translated by its window (R275). -/
def flat (a : Nat) (s : State) : Nat :=
  if a < 2 ^ 31 then a else 2 ^ 32 + fget MEM_WIN_BASE (a / 2 ^ 28 % 8) s * 2 ^ 28 + a % 2 ^ 28

/-- The memory of a key, numbered as the walkers of R286: 0 DRAM, 1 general SRAM, 2 frame SRAM, 3 the Hamper, 4 the cluster and core
memories, those of a spare and of a pair that a spare replaces among them. -/
def memIndex (f : Nat) : Nat :=
  if f ≥ 2 ^ 40 then 4 else if f ≥ 2 ^ 32 then 0 else if f / 2 ^ 24 = 0x20 then 1 else if f / 2 ^ 24 = 0x30 then 2 else if f / 2 ^ 24 = 0x38 then 3 else 4

/-- The first address and the size of the page or granule of a key (R284); `none` in a memory without valid bits. -/
def unitOf (f : Nat) : Option (Nat × Nat) :=
  match memIndex f with
  | 0 => some (f - f % 4096, 4096)
  | 4 => none
  | _ => some (f - f % 256, 256)

/-- The page or granule of `f` is valid. -/
def unitValid (f : Nat) (s : State) : Bool :=
  match unitOf f with
  | some (u, _) => s.valid.contains u
  | none => true

/-- The 64-bit words that `n` bytes from `f` on touch, by address divided by 8. -/
def wordsOf (f n : Nat) : List Nat := if n = 0 then [] else (List.range ((f + n + 7) / 8 - f / 8)).map (f / 8 + ·)

/-- `n` bytes from `f` on cover the whole word `w`. -/
def covers (f n w : Nat) : Bool := decide (f ≤ 8 * w) && decide (8 * w + 8 ≤ f + n)

/-- Word `w` holds an uncorrectable error. -/
def wordBad (w : Nat) (s : State) : Bool := unitValid (8 * w) s && s.poison.contains w

/-- Word `w` holds a single-bit error. -/
def wordSoft (w : Nat) (s : State) : Bool := unitValid (8 * w) s && s.soft.contains w && !s.poison.contains w

/-! ### Errors (R281, R282, R288) -/

/-- The row code of a DRAM offset, in the layout of MEM_REPAIR (R279, R298). -/
def rowCode (off : Nat) : Nat := bits off 8 6 * 2 ^ 20 + bits off 13 9 * 2 ^ 15 + bits off 32 18

/-- The offset of the first byte of a row. -/
def rowOffset (code : Nat) : Nat := bits code 22 20 * 2 ^ 6 + bits code 19 15 * 2 ^ 9 + bits code 14 0 * 2 ^ 18

/-- The bank of a row has a free spare row: each bank has 8 (R279). -/
def spareFree (code : Nat) (s : State) : Bool := decide ((s.memh.rows.filter (fun r => r / 2 ^ 15 == code / 2 ^ 15)).length < 8)

/-- INFO1 of a memory report: the memory, DRAM offset bit 32, the requester (R378). -/
def memInfo (f req : Nat) : Nat := memIndex f + (if f ≥ 2 ^ 32 + 2 ^ 32 then 8 else 0) + 2 ^ 8 * req

/-- INFO0 of a memory report: the address, or DRAM offset [31:0]. -/
def memAddr (f : Nat) : Nat := f % 2 ^ 32

/-- Repair of a row begins, or is refused: while another is under way, and with MEM_NOSPARE in a bank with no free spare row
(R288). -/
def startRepair (code req : Nat) (s : State) : State :=
  if fbit MEM_STAT_REP_BUSY 0 s then fon MEM_REP_STAT_REFUSED 0 s
  else if spareFree code s then fon MEM_STAT_REP_BUSY 0 { s with memh := { s.memh with repairing := some code, repairBy := req } }
  else report 0x10E (memAddr (rowOffset code)) (memInfo (2 ^ 32 + rowOffset code) req) (fon MEM_REP_STAT_REFUSED 0 s)

/-- The row of a DRAM word is a repair candidate (R288): repaired at once with AUTOREPAIR, else reported. -/
def rowCandidate (f req : Nat) (s : State) : State :=
  let code := rowCode (f - 2 ^ 32)
  if fbit MEM_CFG_AUTOREPAIR 0 s then startRepair code req s
  else report 0x10C (memAddr f) (memInfo f req) (fset MEM_REP_STAT_CAND 0 code s)

/-- MEM_LASTERR and MEM_ERRADDR take an error at `f`. -/
def lastError (f : Nat) (ue : Bool) (s : State) : State :=
  fset MEM_LASTERR_UE 0 ue.toNat (fset MEM_LASTERR_MEM 0 (memIndex f)
    (fset MEM_ERRADDR_ADDR 0 (memAddr f) (fset MEM_ERRADDR_HI_A32 0 (if f ≥ 2 ^ 33 then 1 else 0) s)))

/-- A read by `req` finds a single-bit error in word `w` (R281): it is counted and handed to the Rambler. -/
def correctedRead (w req : Nat) (s : State) : State :=
  let f := 8 * w
  let m := memIndex f
  let s := fcount MEM_CE_CNT_COUNT m 1 (lastError f false s)
  { s with memh := { s.memh with
      handed := if s.memh.handed.contains w then s.memh.handed else s.memh.handed ++ [w]
      rose := sset (0, 0) s.memh.rose m (f, req) } }

/-- A read by `req` finds an uncorrectable error in word `w` (R282, R283, R288): it is counted, reported and stays poisoned. -/
def uncorrectableRead (w req : Nat) (s : State) : State :=
  let f := 8 * w
  let s := report 0x109 (memAddr f) (memInfo f req) (fcount MEM_UE_CNT_COUNT (memIndex f) 1 (lastError f true s))
  if memIndex f = 0 then rowCandidate f req s else s

/-- The 64-bit word of memory that holds word `x` of global context `g` (R124). -/
def ctxPlace (g x : Nat) : Nat := (0x44000000 + 0x10000 * (g / 128) + 256 * (g % 128) + 4 * x) / 8

/-- Reads of words find what is wrong with them: the single-bit errors are counted; the answer is true where none is
uncorrectable. -/
def checkWords (ws : List Nat) (req : Nat) (s : State) : Bool × State :=
  match ws.find? (fun w => wordBad w s) with
  | some w => (false, uncorrectableRead w req s)
  | none => (true, forAll (ws.filter (fun w => wordSoft w s)) (fun w t => correctedRead w req t) s)

/-- Parts of the words `ws` are written by `req` (R283): each is read and merged, and carries fresh check bits then; false where one is
uncorrectable, and nothing is written. -/
def mergeWords (ws : List Nat) (req : Nat) (s : State) : Bool × State :=
  if s.poison = [] && s.soft = [] then (true, s)
  else match checkWords ws req s with
    | (true, t) => (true, { t with soft := t.soft.filter (fun w => !ws.contains w) })
    | (false, t) => (false, t)

/-- `f` writes words `xs` of context `g`, where they can be merged (R99, R283). -/
def ctxMerge (g : Nat) (xs : List Nat) (f : State → State) (s : State) : State :=
  match mergeWords ((xs.map (ctxPlace g)).eraseDups) 0x87 s with
  | (true, t) => f t
  | (false, t) => t

/-- Set bit `b` of CTX_STAT, word 1, of global context `g`. -/
def setCtxStat (g b : Nat) (s : State) : State :=
  ctxMerge g [1] (fun t => mark statMark g (2 ^ b) (ctxSet g 1 (ctxGet g 1 t ||| 2 ^ b) t)) s

/-- The words in error that the reads of an agent touch: `f` counts those of its reads that fail. -/
def wordsTouched (f : State → Nat) (s : State) : List Nat :=
  let clean := f { s with poison := [] }
  ((s.poison ++ s.soft).eraseDups).filter (fun w => decide (clean < f { s with poison := [w] }))

/-- The reads of an agent that holds what it reads in no order find what is wrong with them (R281, R282). -/
def countReads (f : State → Nat) (req : Nat) (s : State) : State :=
  if s.poison = [] ∧ s.soft = [] then s
  else forAll (wordsTouched f s) (fun w t => if wordBad w t then uncorrectableRead w req t else correctedRead w req t) s

/-! ### Accesses -/

/-- Of word `w` the `n` bytes from `f` on touch only bytes that a cacheable store has made valid since the word was poisoned (R283). -/
def liveIn (f n w : Nat) (s : State) : Bool :=
  s.memh.live != [] && (List.range 8).all (fun i => !(decide (f ≤ 8 * w + i) && decide (8 * w + i < f + n)) || s.memh.live.contains (8 * w + i))

/-- Read `n` bytes from `f` on: the value, `none` on an uncorrectable error (R281, R282). An invalid page or granule holds zeros. -/
def readMem (f n req : Nat) (s : State) : Option Nat × State :=
  match checkWords ((wordsOf f n).filter (fun w => !liveIn f n w s)) req s with
  | (true, s') => (some (mread f n s'), s')
  | (false, s') => (none, s')

/-- The page or granule at `f` becomes valid (R284): the rest of it is filled with zeros and correct check bits. -/
def makeValid (f : Nat) (s : State) : State :=
  match unitOf f with
  | some (u, n) =>
    if s.valid.contains u then s
    else
      let out (w : Nat) : Bool := !(decide (u ≤ 8 * w) && decide (8 * w < u + n))
      { s with valid := nput u s.valid, poison := s.poison.filter out, soft := s.soft.filter out }
  | none => s

/-- The words that a write of `n` bytes from `f` on covers in part: they are read, merged and written (R283). -/
def partWords (f n : Nat) : List Nat := (wordsOf f n).filter (fun w => !covers f n w)

/-- The bytes of a write reach memory: pages become valid, tags clear, the words written carry fresh check bits (R237, R283, R284). -/
def putMem (f n v : Nat) (s : State) : State :=
  let ws := wordsOf f n
  let s := forAll (ws.map (8 * ·)) makeValid s
  mwrite f n v { s with
    poison := s.poison.filter (fun w => !ws.contains w)
    soft := s.soft.filter (fun w => !ws.contains w)
    memh := if s.memh.live = [] then s.memh else
      { s.memh with live := s.memh.live.filter (fun b => s.poison.contains (b / 8) && (covers f n (b / 8) == false)) }
    tags := s.tags.filter (fun t => !(ws.contains (2 * t) || ws.contains (2 * t + 1))) }

/-- Write `n` bytes of `v` from `f` on; false where a word that is covered in part is uncorrectable: nothing is written (R283). -/
def writeMem (f n v req : Nat) (s : State) : Bool × State :=
  match checkWords (partWords f n) req s with
  | (true, s') => (true, putMem f n v s')
  | (false, s') => (false, s')

/-- A cacheable store of `n` bytes of `v` from `f` on (R283): it completes in the cache even where a fill finds a word uncorrectable. The
bytes written are valid then, the rest of the word stays poisoned. -/
def cacheStore (f n v req : Nat) (s : State) : State :=
  let bad := (partWords f n).filter (fun w => wordBad w s)
  if bad = [] then (writeMem f n v req s).2
  else
    let t := putMem f n v (forAll bad (fun w u => uncorrectableRead w req u) s)
    let wrote := ((List.range n).map (f + ·)).filter (fun b => bad.contains (b / 8))
    { t with
      poison := bad.foldl (fun m w => nput w m) t.poison
      memh := { t.memh with live := wrote ++ t.memh.live.filter (fun b => !wrote.contains b) } }

/-- The parts of `n` bytes from `a` on that lie in one naturally aligned block of `g` bytes each: address and length, ascending. -/
def chunks (g a n : Nat) : List (Nat × Nat) :=
  if n = 0 then [] else
    (List.range ((a + n + g - 1) / g - a / g)).map (fun i =>
      let lo := max a (g * (a / g + i))
      (lo, min (a + n) (g * (a / g + i) + g) - lo))

/-- A 16-byte word of a tag-bearing memory with its tag (R237). -/
def readCap (f req : Nat) (s : State) : Option Cap × State :=
  match readMem f 16 req s with
  | (some v, s') => (some ⟨BitVec.ofNat 128 v, s'.tags.contains (f / 16)⟩, s')
  | (none, s') => (none, s')

/-- A 16-byte word and its tag are written as one access (R237). -/
def writeCap (f : Nat) (k : Cap) (s : State) : State :=
  let s := putMem f 16 k.v.toNat s
  if k.tag then { s with tags := nput (f / 16) s.tags } else s

end Sys2Proof.Machine
end

