-- ==== Sys2Proof/Machine/Legs.lean ====
section
/-! DEFINITION. Leg units, trips and converters (R45 to R75). -/

namespace Sys2Proof.Machine

open Sys2Proof

/-! ### Reading a leg -/

/-- What leg `l` holds beside its registers. -/
def leg (l : Nat) (s : State) : LegH := sget LegH.init s.legs l

/-- Leg `l` holds `h`. -/
def setLeg (l : Nat) (h : LegH) (s : State) : State := { s with legs := sset LegH.init s.legs l h }

/-- The region of leg `l` (R1). -/
def legRegion (l : Nat) : Nat := l / 36

/-- The cluster of leg `l` holds one three-level converter (R63). -/
def threeLevel (l : Nat) (s : State) : Bool := fbit CLG_CFG_THREE_LEVEL (l / 6) s

/-- The even leg of the pair of `l`. -/
def evenLeg (l : Nat) : Nat := l / 2 * 2

/-- The leg whose TRIP_EN, SAFE and TRIP_MODE govern leg `l` (R69). -/
def tripLeg (l : Nat) (s : State) : Nat := if threeLevel l s then evenLeg l else l

/-- The converter of leg `l` in its cluster (R63). -/
def legConv (l : Nat) (s : State) : Nat := if threeLevel l s then 0 else fget LEG_CFG_CONV l s

/-- The converter of leg `l` is running, is waiting (R64). -/
def convRunning (l : Nat) (s : State) : Bool := fbitAt CLG_CONV_RUN (l / 6) (legConv l s) s
def convWaiting (l : Nat) (s : State) : Bool := fbitAt CLG_CONV_WAIT (l / 6) (legConv l s) s

/-- The state of leg `l`, the first of R71 that applies: 0 PARKED, 1 WAITING, 2 TRIPPED, 3 HALTED, 4 SWITCHING. -/
def legState (l : Nat) (s : State) : Nat :=
  if regionStopped (legRegion l) s then 0
  else if !convRunning l s && !convWaiting l s then 0
  else if convWaiting l s then 1
  else if (leg l s).tripActive then 2
  else if fget LEG_PERIOD_PERIOD_E l s = 0 then 3
  else 4

/-- The number of trip line `i` of LEG_CFG.TRIP_EN for leg `l`: PTRIPi, or RTRIP(i - 8) of the leg's region (R66). -/
def tripLine (l i : Nat) : Nat := if i < 8 then i else 8 + 8 * legRegion l + (i - 8)

/-- Trip line `n` is asserted, by its pin or by a route (R66). -/
def lineOn (n : Nat) (s : State) : Bool := s.trips.pin.contains n || s.trips.route.contains n

/-- The lowest trip line that is enabled for leg `l` and asserted: where several are, TRIP_SRC takes the lowest number (DESIGN CHOICE,
log 70). -/
def tripAsserted (l : Nat) (s : State) : Option Nat :=
  (List.range 16).find? (fun i => fbitAt LEG_CFG_TRIP_EN (tripLeg l s) i s && lineOn (tripLine l i) s)

/-! ### Pads (R54, R55) -/

/-- The dead time of a pad, in fine steps: DT_HL for H, DT_LH for L. -/
def deadTime (l : Nat) (p : GatePad) (s : State) : Nat :=
  match p with
  | .high => fget LEG_DT_HL_DOTS_E l s * 32 + fget LEG_DT_HL_FINE_E l s
  | .low => fget LEG_DT_LH_DOTS_E l s * 32 + fget LEG_DT_LH_FINE_E l s

/-- The level a pad drives. -/
def padLevel (l : Nat) (p : GatePad) (s : State) : Bool :=
  match p with
  | .high => fbit LEG_PADS_H l s
  | .low => fbit LEG_PADS_L l s

/-- Drive a pad. -/
def drivePad (l : Nat) (p : GatePad) (b : Bool) (s : State) : State :=
  match p with
  | .high => fset LEG_PADS_H l b.toNat s
  | .low => fset LEG_PADS_L l b.toNat s

/-- Set or cancel the pending activation of a pad. -/
def setPend (l : Nat) (p : GatePad) (t : Option Nat) (s : State) : State :=
  match p with
  | .high => setLeg l { leg l s with pendH := t } s
  | .low => setLeg l { leg l s with pendL := t } s

/-- A pad becomes inactive `n` dots from now, and any pending activation of it is cancelled. -/
def padOffIn (l : Nat) (p : GatePad) (n : Nat) (s : State) : State :=
  later n (.padOff l p) (setPend l p none s)

/-- A pad is to become inactive in a dot to come. -/
def offDue (l : Nat) (p : GatePad) (s : State) : Bool :=
  s.due.any (fun e => match e.2 with
    | .padOff m q => m == l && q == p
    | _ => false)

/-- A pad is to become active `n` dots and its dead time from now, at `fine` within the dot, unless it is active and stays so. An
activation of the pad that was pending starts anew (DESIGN CHOICE, log 71). -/
def padOnIn (l : Nat) (p : GatePad) (n fine : Nat) (s : State) : State :=
  if padLevel l p s && !offDue l p s then s else setPend l p (some ((s.time + n) * 32 + fine + deadTime l p s)) s

/-- The pads of a switching leg follow REF, which took `level` at `fine` within the present dot (R55). -/
def padsFollow (l : Nat) (level : Bool) (fine : Nat) (s : State) : State :=
  if level then padOnIn l .high 1 fine (padOffIn l .low 1 s)
  else padOnIn l .low 1 fine (padOffIn l .high 1 s)

/-- Both pads of a leg become inactive 2 dots from now; in a three-level cluster the inner pads follow the even leg's DT_HL
later (R69). -/
def parkPads (l : Nat) (s : State) : State :=
  if threeLevel l s then
    let d := 2 + deadTime (evenLeg l) .high s / 32
    if l % 2 = 0 then padOffIn l .low d (padOffIn l .high 2 s)
    else padOffIn l .high d (padOffIn l .low 2 s)
  else padOffIn l .low 2 (padOffIn l .high 2 s)

/-- The leg enters SWITCHING in this dot: its pads move to what REF calls for, as though REF had taken its level at the start
of the next dot (R55). The level is that of this dot, also where REF itself changes at the start of the next (DESIGN CHOICE, log 95). A later inactivation of an inner pad, due from a trip of the pair (R69), stays due (DESIGN CHOICE, log 72). -/
def enterSwitching (l : Nat) (s : State) : State :=
  if fbit LEG_PADS_REF l s then padOffIn l .low 2 (padOnIn l .high 2 0 s)
  else padOffIn l .high 2 (padOnIn l .low 2 0 s)

/-! ### Trips (R66 to R71) -/

/-- The safe state's level of a pad of leg `l` (R68, R69). -/
def safeLevel (l : Nat) (p : GatePad) (s : State) : Bool :=
  if threeLevel l s then false
  else match p with
    | .high => fget LEG_CFG_SAFE l s == 1
    | .low => fget LEG_CFG_SAFE l s == 2

/-- The pads of a tripping leg move to the safe state from the start of dot t + 2 (R68). -/
def tripPads (l : Nat) (s : State) : State :=
  if threeLevel l s then parkPads l s
  else
    let s := if safeLevel l .high s then padOnIn l .high 2 0 s else padOffIn l .high 2 s
    if safeLevel l .low s then padOnIn l .low 2 0 s else padOffIn l .low 2 s

/-- TRIPPED is set and the source recorded if none is (R68). -/
def recordTrip (l src : Nat) (s : State) : State :=
  fon LEG_STAT_TRIPPED l
    (if fget LEG_STAT_TRIP_SRC l s = 31 then fset LEG_STAT_TRIP_SRC l src s else s)

/-- A leg is tripped by source `src`: it enters TRIPPED if it switches or is halted, since TRIPPED stands above HALTED, and the trip is
kept for it while it is parked or waits (R68, R71). A HALTED leg that trips issues LEG_TRIP too: R68 orders it for every entry to TRIPPED,
R48 speaks of the carrier's events (DESIGN CHOICE, log 95). -/
def tripLegBy (l src : Nat) (s : State) : State :=
  let st := legState l s
  let s := setLeg l { leg l s with tripActive := true } (recordTrip l src s)
  if 3 ≤ st then tripPads l (later 2 (.fire (0x100 + 4 * l + 3)) s) else s

/-- The legs that a trip of leg `l` reaches: both legs of a pair in a three-level cluster (R69). -/
def tripGroup (l : Nat) (s : State) : List Nat :=
  if threeLevel l s then [evenLeg l, evenLeg l + 1] else [l]

/-- A trip that waits for leg `l` still takes it into TRIPPED: a TRIPPED bit of its group stands (R69, R70, R71). -/
def tripKept (l : Nat) (s : State) : Bool := (tripGroup l s).any (fun j => fbit LEG_STAT_TRIPPED j s)

/-- The leg begins to switch, or is HALTED (R71). -/
def switchOrHalt (l : Nat) (s : State) : State := if fget LEG_PERIOD_PERIOD_E l s = 0 then s else enterSwitching l s

/-- A leg whose converter releases it or whose trip ends: it trips at once if a trip is kept or a line is asserted, and begins to
switch otherwise (R65, R68, R70, R71). -/
def beginSwitching (l : Nat) (s : State) : State :=
  match tripAsserted l s, (leg l s).tripActive with
  | some i, _ => tripPads l (later 2 (.fire (0x100 + 4 * l + 3)) (setLeg l { leg l s with tripActive := true } (recordTrip l i s)))
  | none, true =>
    if tripKept l s then tripPads l (later 2 (.fire (0x100 + 4 * l + 3)) s) else switchOrHalt l (setLeg l { leg l s with tripActive := false } s)
  | none, false => switchOrHalt l s

/-- The leg may leave TRIPPED at a LEG_PSTART: in latched mode once TRIPPED is clear, cycle by cycle while no enabled line is asserted
(R70). -/
def mayResume (l : Nat) (s : State) : Bool :=
  if fbit LEG_CFG_TRIP_MODE (tripLeg l s) s then (tripAsserted l s).isNone else !fbit LEG_STAT_TRIPPED l s

/-- At a LEG_PSTART a leg in TRIPPED resumes if it may, and trips anew where a line is asserted in that dot (R68); the two legs of a
three-level pair resume together (R69, R70). -/
def tripResume (l : Nat) (s : State) : State :=
  if legState l s = 2 && (tripGroup l s).all (fun j => mayResume j s) then
    forAll (tripGroup l s) (fun j t => beginSwitching j (setLeg j { leg j t with tripActive := false } t)) s
  else s

/-! ### REF and the minimum pulse (R50, R56) -/

/-- What happens to REF in this dot acts at the start of the next (R50). -/
def refEvent (l : Nat) (h : LegH) (s : State) : State :=
  let o := leg l s
  let s := setLeg l h s
  if o.evReset || o.evA.isSome || o.evB.isSome then s else later 1 (.legRef l) s

/-- REF acts on the reset and compares of the dot before: CMPB before CMPA before the reset (R50). -/
def applyRef (l : Nat) (s : State) : State :=
  let h := leg l s
  let cur := fbit LEG_PADS_REF l s
  let target : Bool × Nat :=
    match h.evB, h.evA with
    | some f, _ => (false, f)
    | none, some f => (true, f)
    | none, none => (if h.evReset then false else cur, 0)
  let s := setLeg l { h with evReset := false, evA := none, evB := none } s
  if target.1 = cur then s
  else
    let s := fset LEG_PADS_REF l target.1.toNat (setLeg l { leg l s with refFine := target.2 } s)
    if legState l s = 4 then padsFollow l target.1 target.2 s else s

/-- The minimum pulse MIN, the active width W and the period, in fine steps (R56). -/
def legMin (l : Nat) (s : State) : Nat := fget LEG_MINP_DOTS_E l s * 32 + fget LEG_MINP_FINE_E l s
def legCmpA (l : Nat) (s : State) : Nat := fget LEG_CMPA_DOTS_E l s * 32 + fget LEG_FINE_CMPA_F_E l s
def legCmpB (l : Nat) (s : State) : Nat := fget LEG_CMPB_DOTS_E l s * 32 + fget LEG_FINE_CMPB_F_E l s
def legPer (l : Nat) (s : State) : Nat := fget LEG_PERIOD_PERIOD_E l s * 32

/-- The decision for the period, from the values in effect (R56). -/
def pulseFor (l : Nat) (s : State) : Pulse :=
  let w := legCmpB l s - legCmpA l s
  if 0 < w ∧ w < legMin l s then .none
  else if 0 < legPer l s - w ∧ legPer l s - w < legMin l s then .fullOn
  else .normal

/-- Declare the period full on: CMPA acts at once if it has not fired, CMPB does not fire (R56). -/
def declareFullOn (l : Nat) (s : State) : State :=
  let h := leg l s
  if h.firedB then s
  else if h.firedA then setLeg l { h with pulse := .fullOn, armB := false } s
  else refEvent l { h with pulse := .fullOn, armA := false, firedA := true, armB := false, evA := some 0 } s

/-- The decision, at a period start and after a commit (R56). A period without a pulse whose CMPB has passed stays without one, as R56
says of a full-on period (DESIGN CHOICE, log 95). -/
def decidePulse (l : Nat) (s : State) : State :=
  let h := leg l s
  if h.pulse = .fullOn then s
  else match pulseFor l s with
    | .none => if h.firedA then s else setLeg l { h with pulse := .none } s
    | .fullOn => declareFullOn l s
    | .normal => if h.pulse = .none && h.firedB then s else setLeg l { h with pulse := .normal } s

/-! ### Commits (R57 to R62) -/

/-- The first condition of R62 that the shadow of leg `l` fails; 0 where it fails none. -/
def legCheck (l : Nat) (s : State) : Nat :=
  let p := fget LEG_PERIOD_PERIOD l s
  let a := fget LEG_CMPA_DOTS l s * 32 + fget LEG_FINE_CMPA_F l s
  let b := fget LEG_CMPB_DOTS l s * 32 + fget LEG_FINE_CMPB_F l s
  if p = 0 then 0
  else if p < 16 then 1
  else if fbit LEG_CFG_MODE l s && p % 2 == 1 then 2
  else if a > b then 3
  else if b > p * 32 then 4
  else if fget LEG_DT_HL_DOTS l s * 32 + fget LEG_DT_HL_FINE l s > p * 16 then 5
  else if fget LEG_DT_LH_DOTS l s * 32 + fget LEG_DT_LH_FINE l s > p * 16 then 6
  else if fget LEG_MINP_DOTS l s * 32 + fget LEG_MINP_FINE l s > p * 16 then 7
  else 0

/-- The fields of group LG: the shadow and the value in effect (R57). -/
def groupLG : List (Fld × Fld) :=
  [(LEG_PERIOD_PERIOD, LEG_PERIOD_PERIOD_E), (LEG_CMPA_DOTS, LEG_CMPA_DOTS_E), (LEG_CMPB_DOTS, LEG_CMPB_DOTS_E),
   (LEG_FINE_CMPA_F, LEG_FINE_CMPA_F_E), (LEG_FINE_CMPB_F, LEG_FINE_CMPB_F_E),
   (LEG_DT_HL_DOTS, LEG_DT_HL_DOTS_E), (LEG_DT_HL_FINE, LEG_DT_HL_FINE_E),
   (LEG_DT_LH_DOTS, LEG_DT_LH_DOTS_E), (LEG_DT_LH_FINE, LEG_DT_LH_FINE_E),
   (LEG_MINP_DOTS, LEG_MINP_DOTS_E), (LEG_MINP_FINE, LEG_MINP_FINE_E)]

/-- Every value of a group moves from the shadow into effect. -/
def takeGroup (g : List (Fld × Fld)) (u : Nat) (s : State) : State :=
  forAll g (fun p t => fset p.2 u (fget p.1 u t) t) s

/-- What the new period does to the period in progress (R48, R52): `switching` says that the leg's pads followed REF up to now. A pad that
goes inactive in the next dot by a change of REF at the start of this one still does, and a trip of the same dot acts on the pads as well
(DESIGN CHOICE, log 95). -/
def periodCut (l old : Nat) (switching : Bool) (s : State) : State :=
  let p := fget LEG_PERIOD_PERIOD_E l s
  let h := leg l s
  if p = 0 then
    if old = 0 then s
    else
      let st := refEvent l { h with armA := false, armB := false, evReset := false, evA := none, evB := some 0, startNext := false } s
      onlyIf switching (fun t => padOffIn l .low 2 (padOffIn l .high 2 t)) (later 1 (.field LEG_COUNT_COUNT l 0) st)
  else if old = 0 then
    setLeg l { h with startNext := true } s
  else if p ≤ fget LEG_COUNT_COUNT l s then setLeg l { h with armA := false, armB := false } s
  else decidePulse l s

/-- A commit of group LG, whose check refuses it or brings it into effect (R58, R62). -/
def legCommit (l : Nat) (s : State) : State :=
  let why := legCheck l s
  let s := foff LEG_STAT_PEND l s
  if why = 0 then
    let old := fget LEG_PERIOD_PERIOD_E l s
    let switching := legState l s == 4
    let s := fon LEG_STAT_COMMIT_DONE l (takeGroup groupLG l s)
    let s := periodCut l old switching s
    if old = 0 && fget LEG_PERIOD_PERIOD_E l s != 0 && legState l s == 4 then enterSwitching l s else s
  else
    report (csrc (l / 6) 0) l why
      (fset LEG_STAT_REJECT_WHY l why (fon LEG_STAT_SHADOW_REJECT l s))

/-- The contexts whose LEGMASK holds the automatic commits of leg `l` in this dot (R114). -/
def legHolders (l : Nat) (s : State) : List Nat := ((s.holds.filter (fun h => h.1 == l)).map Prod.snd).eraseDups

/-- An automatic commit at a selected carrier event (R58, R59, R114): `ev` is 0 for the period start, 1 for the mid point. -/
def legAutoCommit (l ev : Nat) (s : State) : State :=
  if fbitAt LEG_CFG_COMMIT_AT l ev s && fbit LEG_STAT_PEND l s && !fbit LEG_CTRL_COMMIT_HOLD l s then
    match legHolders l s with
    | [] => legCommit l s
    | gs => forAll gs (fun g t => setCtxStat g 3 t) s
  else s

/-! ### The commands of the legs -/

/-- A commit of PERIOD 0 by COMMIT_NOW falls in this dot: no event is issued in it (R52). -/
def haltsNow (l : Nat) (s : State) : Bool :=
  decide (fget LEG_PERIOD_PERIOD l s = 0) && s.due.any (fun e => decide (e.1 ≤ s.time) && (match e.2 with
    | .legCommit m => m == l
    | _ => false))

/-- The period start of leg `l` in this dot (R45, R47, R50, R56, R58, R70). -/
def legPstart (l : Nat) (s : State) : State :=
  let s := fset LEG_COUNT_COUNT l 0 s
  let s := refEvent l { leg l s with armA := true, armB := true, firedA := false, firedB := false, midDone := false,
                                      lateDone := false, pulse := .normal, evReset := true, startNext := false } s
  let s := decidePulse l (legAutoCommit l 0 s)
  if fget LEG_PERIOD_PERIOD_E l s = 0 || haltsNow l s then s else tripResume l (fire (0x100 + 4 * l) s)

/-- Leg `l` counts: its region is in RUN and its PERIOD in effect is not 0 (R48, R143). -/
def legCounts (l : Nat) (s : State) : Bool := regionRun (legRegion l) s && fget LEG_PERIOD_PERIOD_E l s != 0

/-- LEG_PSTART (R45): the period start of a leg that counts. -/
def execLegPstart (l : Fin 144) (s : State) : Host.Outcome State Fault Refusal :=
  .next (if legCounts l s then legPstart l s else s)

/-- The mid point of leg `l` (R47, R53, R58). -/
def legMid (l : Nat) (s : State) : State :=
  legAutoCommit l 1 (fire (0x100 + 4 * l + 1) (setLeg l { leg l s with midDone := true } s))

/-- LEG_MID (R53): once in a period. -/
def execLegMid (l : Fin 144) (s : State) : Host.Outcome State Fault Refusal :=
  .next (if legCounts l s && !(leg l s).midDone then legMid l s else s)

/-- How far the count has passed the dot part `c` of a compare, modulo 2^32 (R51). -/
def compareDist (count c : Nat) : Nat := (count + 2 ^ 32 - c % 2 ^ 32) % 2 ^ 32

/-- An armed compare of leg `l` that is not ahead fires, late where the count has passed it; one that equals PERIOD never does (R50,
R51). LEG_LATE is issued at most once in a period (R47). -/
def compareFire (l : Nat) (c : Cmp) (s : State) : State :=
  let h := leg l s
  let dots := match c with
    | .a => fget LEG_CMPA_DOTS_E l s
    | .b => fget LEG_CMPB_DOTS_E l s
  let d := compareDist (fget LEG_COUNT_COUNT l s) dots
  let armed := match c with
    | .a => h.armA && h.pulse != .none
    | .b => h.armB
  if legCounts l s && armed && decide (d < 2 ^ 31) && decide (dots ≠ fget LEG_PERIOD_PERIOD_E l s) then
    let fine := if d = 0 then (match c with
      | .a => fget LEG_FINE_CMPA_F_E l s
      | .b => fget LEG_FINE_CMPB_F_E l s) else 0
    let h' := match c with
      | .a => { h with armA := false, firedA := true, evA := some fine }
      | .b => { h with armB := false, firedB := true, evB := some fine }
    if d = 0 then refEvent l h' s
    else onlyIf (!h.lateDone) (fire (0x100 + 4 * l + 2)) (fon LEG_STAT_LATE l (refEvent l { h' with lateDone := true } s))
  else s

/-- COMPARE_FIRE (R50, R51). -/
def execCompareFire (l : Fin 144) (c : Cmp) (s : State) : Host.Outcome State Fault Refusal := .next (compareFire l c s)

/-- A pending activation makes its pad active (R55). -/
def deadTimeExpiry (l : Nat) (p : GatePad) (s : State) : State :=
  let pend := match p with
    | .high => (leg l s).pendH
    | .low => (leg l s).pendL
  if pend.isSome then drivePad l p true (setPend l p none s) else s

/-- DEAD_TIME_EXPIRY (R55): the pads of a disabled cluster stay inactive (R5). -/
def execDeadTimeExpiry (l : Fin 144) (p : GatePad) (s : State) : Host.Outcome State Fault Refusal :=
  .next (inCluster (l.val / 6) (deadTimeExpiry l.val p) s)

/-- Write the shadow register `r` of a leg, LEG_PERIOD first, LEG_MINP last (R73). -/
def legShadowReg (l r v : Nat) (s : State) : State :=
  match r with
  | 0 => fset LEG_PERIOD_PERIOD l v s
  | 1 => fset LEG_CMPA_DOTS l v s
  | 2 => fset LEG_CMPB_DOTS l v s
  | 3 => fset LEG_FINE_CMPB_F l (bits v 12 8) (fset LEG_FINE_CMPA_F l (bits v 4 0) s)
  | 4 => fset LEG_DT_HL_FINE l (bits v 20 16) (fset LEG_DT_HL_DOTS l (bits v 11 0) s)
  | 5 => fset LEG_DT_LH_FINE l (bits v 20 16) (fset LEG_DT_LH_DOTS l (bits v 11 0) s)
  | _ => fset LEG_MINP_FINE l (bits v 20 16) (fset LEG_MINP_DOTS l (bits v 15 0) s)

/-- The 128-bit write of PERIOD, CMPA, CMPB and LEG_FINE (R61). -/
def legQuad (l period cmpa cmpb fine : Nat) (s : State) : State :=
  fon LEG_STAT_PEND l (legShadowReg l 3 fine (legShadowReg l 2 cmpb (legShadowReg l 1 cmpa (legShadowReg l 0 period s))))

/-- The shadow of leg `l` takes a write and PEND is set (R57, R58, R60, R61). -/
def legShadowWrite (l : Nat) (w : LegShadow) (s : State) : State :=
  match w with
  | .reg r v => fon LEG_STAT_PEND l (legShadowReg l r.val v.toNat s)
  | .quad p a b f => legQuad l p.toNat a.toNat b.toNat f.toNat s

/-- LEG_SHADOW_WRITE (R57, R58, R60, R61). -/
def execLegShadowWrite (l : Fin 144) (w : LegShadow) (s : State) : Host.Outcome State Fault Refusal :=
  .next (toCluster (l.val / 6) (legShadowWrite l.val w) s)

/-- LEG_COMMIT_NOW (R58): group LG commits in the dot after the write, whether or not PEND is 1. -/
def execLegCommitNow (l : Fin 144) (s : State) : Host.Outcome State Fault Refusal :=
  .next (toCluster (l.val / 6) (later 1 (.legCommit l.val)) s)

/-- The leg trips as by an enabled line, with source 16 (R66, R67, R69). -/
def forceTrip (l : Nat) (s : State) : State := forAll (tripGroup l s) (fun j t => tripLegBy j 16 t) s

/-- FORCE_TRIP (R66, R67, R69). -/
def execForceTrip (l : Fin 144) (s : State) : Host.Outcome State Fault Refusal :=
  .next (toCluster (l.val / 6) (forceTrip l.val) s)

/-- Clear TRIPPED unless an enabled line is asserted, or the leg has tripped in the present dot (R13, R70). -/
def clearTripped (l : Nat) (s : State) : State :=
  if (tripAsserted l s).isSome || held LEG_STAT_TRIPPED.id l s != 0 then s
  else fset LEG_STAT_TRIP_SRC l 31 (foff LEG_STAT_TRIPPED l s)

/-- TRIPPED_CLEAR (R70). -/
def execTrippedClear (l : Fin 144) (s : State) : Host.Outcome State Fault Refusal :=
  .next (toCluster (l.val / 6) (clearTripped l.val) s)

/-- LTRIP_FILT.FILTn (R67). -/
def tripFilter (n : Nat) (s : State) : Nat :=
  match n with
  | 0 => fget LTRIP_FILT_FILT0 0 s
  | 1 => fget LTRIP_FILT_FILT1 0 s
  | 2 => fget LTRIP_FILT_FILT2 0 s
  | 3 => fget LTRIP_FILT_FILT3 0 s
  | 4 => fget LTRIP_FILT_FILT4 0 s
  | 5 => fget LTRIP_FILT_FILT5 0 s
  | 6 => fget LTRIP_FILT_FILT6 0 s
  | _ => fget LTRIP_FILT_FILT7 0 s

/-- TRIP_PIN_FILTER_PASS (R66, R67): the pin's contribution to PTRIPn asserts (`low`) or ends. The command falls in the last of
the f dots; the contribution changes in dot s + 3 + f, where s is the first of them. -/
def execTripPinFilterPass (n : Fin 8) (low : Bool) (s : State) : Host.Outcome State Fault Refusal :=
  .next (later (if tripFilter n.val s = 0 then 3 else 4) (.tripPin n.val low) s)

/-- A trip line reaches a leg as a level (R68, R69, R71). -/
def tripByLine (l line : Nat) (s : State) : State :=
  if fbitAt LEG_CFG_TRIP_EN (tripLeg l s) line s && !(legState l s == 2) then
    forAll (tripGroup l s) (fun j t => if legState j t = 2 then t else tripLegBy j line t) s
  else s

/-- TRIP_LINE_ASSERT (R68): an enabled trip line is asserted. -/
def execTripLineAssert (l : Fin 144) (line : Fin 16) (s : State) : Host.Outcome State Fault Refusal :=
  .next (tripByLine l.val line.val s)

/-! ### Converters (R63 to R65) -/

/-- The start queue of region `n`. -/
def startQ (n : Nat) (s : State) : StartQ := sget StartQ.init s.startq n

/-- The start queue of region `n` becomes `q`. -/
def setStartQ (n : Nat) (q : StartQ) (s : State) : State := { s with startq := sset StartQ.init s.startq n q }

/-- A converter's index in its region (R65). -/
def convIndex (c k : Nat) : Nat := 2 * (c % 6) + k

/-- A converter that enters a queue in dot `now` goes behind those of earlier dots and those of the same dot with a lower index (R65). -/
def queuedAt (ix now : Nat) (items : List (Nat × Nat)) : List (Nat × Nat) :=
  let ahead (e : Nat × Nat) : Bool := decide (e.2 < now) || decide (e.1 < ix)
  items.filter ahead ++ [(ix, now)] ++ items.filter (fun e => !ahead e)

/-- A stopped converter enters its region's start queue (R64, R65). -/
def enqueueConv (c k : Nat) (s : State) : State :=
  if fbitAt CLG_CONV_RUN c k s || fbitAt CLG_CONV_WAIT c k s then s
  else
    let q := startQ (c / 6) s
    let prev := if q.items.isEmpty then none else q.prev
    setStartQ (c / 6) ⟨queuedAt (convIndex c k) s.time q.items, prev⟩ (fsetBit CLG_CONV_WAIT c k true s)

/-- The legs of converter `k` of cluster `c` (R63). -/
def convLegs (c k : Nat) (s : State) : List Nat :=
  ((List.range 6).map (fun j => 6 * c + j)).filter (fun l => legConv l s = k)

/-- A converter leaves the queue or stops; its pads are inactive 2 dots later (R64). -/
def stopConv (c k : Nat) (s : State) : State :=
  let run := fbitAt CLG_CONV_RUN c k s
  let q := startQ (c / 6) s
  let s := setStartQ (c / 6) { q with items := q.items.filter (fun e => e.1 ≠ convIndex c k) } s
  let s := fsetBit CLG_CONV_RUN c k false (fsetBit CLG_CONV_WAIT c k false s)
  if run then forAll (convLegs c k s) parkPads s else s

/-- Converter 1 of a three-level cluster does not exist (R64). -/
def convAbsent (c k : Nat) (s : State) : Bool := fbit CLG_CFG_THREE_LEVEL c s && k == 1

/-- A write of 1 to CLG_CONV.STARTk (R64): refused while the region counts as STOPPED. -/
def startConv (c k : Nat) (s : State) : State :=
  if convAbsent c k s then s
  else if regionStopped (c / 6) s then fon CLG_CONV_CFG_REFUSED c s
  else enqueueConv c k s

/-- CONVERTER_START (R64). -/
def execConverterStart (c : Fin 24) (k : Fin 2) (s : State) : Host.Outcome State Fault Refusal :=
  .next (toCluster c.val (startConv c.val k.val) s)

/-- CONVERTER_STOP (R64). -/
def execConverterStop (c : Fin 24) (k : Fin 2) (s : State) : Host.Outcome State Fault Refusal :=
  .next (toCluster c.val (fun t => if convAbsent c.val k.val t then t else stopConv c.val k.val t) s)

/-- CONVERTER_RELEASE (R65): the head of the region's start queue is released; all its legs begin to switch in this dot. -/
def execConverterRelease (n : Fin 4) (s : State) : Host.Outcome State Fault Refusal :=
  match (startQ n.val s).items with
  | [] => .next s
  | (ix, _) :: rest =>
    let c := 6 * n.val + ix / 2
    let k := ix % 2
    let s := setStartQ n.val ⟨rest, some s.time⟩ s
    let s := fsetBit CLG_CONV_RUN c k true (fsetBit CLG_CONV_WAIT c k false s)
    .next (forAll (convLegs c k s) beginSwitching s)

end Sys2Proof.Machine
end

