-- ==== Sys2Proof/Machine/Loop.lean ====
section
/-! DEFINITION. The steps of the loop engines: how a run advances and ends, the halt on a mismatch, the 64 step kinds, the loop core
inside a run (R97 to R111, R117 to R119, R282). -/

namespace Sys2Proof.Machine

open Sys2Proof

/-- The engine of cluster `c`. -/
def eng (c : Nat) (s : State) : EngH := sget EngH.init s.eng c

/-- The engine of cluster `c` becomes `h`. -/
def setEng (c : Nat) (h : EngH) (s : State) : State := { s with eng := sset EngH.init s.eng c h }

/-- The global context of a run (R99). -/
def runCtx (c : Nat) (r : Run) : Nat := 128 * c + r.ctx

/-- The memory address of a cluster's block (R124). -/
def lpeBase (c : Nat) : Nat := 0x44000000 + 0x10000 * c

/-- Step `i` of the program store (R103). -/
def stepWord (c i : Nat) (s : State) : Nat := mread (lpeBase c + 0x8000 + 8 * i) 8 s

/-- Word `t` of the local table, unsigned (R124). -/
def localWord (c t : Nat) (s : State) : Nat := mread (lpeBase c + 0xC000 + 4 * t) 4 s

/-! ### The end of a run (R101, R105, R114, R124) -/

/-- The legs whose automatic commits context `g` of cluster `c` holds (R114). -/
def heldLegs (c g : Nat) (s : State) : List (Nat × Nat) :=
  ((List.range 6).filter (fun j => (ctxGet g 0 s).testBit (16 + j))).map (fun j => (6 * c + j, g))

/-- Holds end, one for each leg (R114). -/
def dropHolds (hs : List (Nat × Nat)) (s : State) : State := { s with holds := hs.foldl (fun l h => l.erase h) s.holds }

/-- The run in progress ends before engine cycle `k`: CTX_RUNS, CTX_STAMP, the LEGMASK holds, 3 dots later where the spare serves; the
cycles used in this line are counted; `cut` sets CUT, bit 9 of CTX_STAT (R105, R114, R121, R124). Where steps follow the last write to a
leg, the hold lasts to the run's end: R114's sentences differ there (DESIGN CHOICE, log 96). -/
def endRun (c k : Nat) (cut : Bool) (s : State) : State :=
  let h := eng c s
  match h.run with
  | none => s
  | some r =>
    let g := runCtx c r
    let stamp := (r.start % 2) * 2 ^ 26 + posLo r.pos
    let s := if cut then setCtxStat g 9 s else s
    let s := ctxMerge g [2, 3] (fun t => ctxSet g 3 stamp (ctxSet g 2 (ctxGet g 2 t + 1) t)) s
    let s := setEng c { h with run := none, freeAt := k, busy := h.busy + (k - max h.from_ r.start) } s
    let s := foff LPE_STAT_RUNNING c s
    if fbit LPE_STAT_SUBST c s then later 3 (.release (heldLegs c g s)) s else dropHolds (heldLegs c g s) s

/-! ### The halt on a mismatch (R119, R121, R122) -/

/-- The frame at whose start a substitution found at position `p` takes effect (R121). -/
def takeoverFrame (p : Pos) (s : State) : Nat := (p.frame + (if p.line + 3 ≤ linesEff s then 1 else 2)) % 2 ^ 32

/-- The spare of region `n`. -/
def spare (n : Nat) (s : State) : SpareH := sget ⟨none, false, false⟩ s.spare n

/-- The spare of region `n` becomes `h`. -/
def setSpare (n : Nat) (h : SpareH) (s : State) : State := { s with spare := sset ⟨none, false, false⟩ s.spare n h }

/-- The reaction entry of a fault source (R382). -/
def reaction (src : Nat) (s : State) : Nat := sget 0 s.rct src

/-- INFO0 and INFO1 of a report found in engine cycle `k` of cluster `c`: the global context of the run and its cycle (R378). -/
def runInfo (c k : Nat) (s : State) : Nat × Nat :=
  match (eng c s).run with
  | some r => (runCtx c r, k - r.start)
  | none => (0xFFFFFFFF, 0)

/-- The engine of cluster `c` halts in engine cycle `k`, before any write of it: its run is cut, LOCK_ERR is set and LPE_HALT issued
(R119). A halted engine's loop core runs no more. -/
def lockHalt (c k : Nat) (s : State) : State :=
  let s := endRun c k true s
  fire (0x1300 + c) (fon LPE_STAT_LOCK_ERR c (setEng c { eng c s with halted := true } (fon LPE_STAT_HALTED c s)))

/-- The spare can take over cluster `c` of region `n` (R121, R122). -/
def canTakeOver (n j : Nat) (s : State) : Bool :=
  fbit RSP_CFG_EN n s && fget RSP_CFG_DESIG n s == j && fbit RSP_STAT_MIRROR_READY n s && !fbit RSP_STAT_IN_SERVICE n s
    && !fbit RSP_STAT_SPARE_FAIL n s

/-- A mismatch or a residue failure in engine cycle `k` of cluster `c`'s own pair (R119); what the substitute reaction does is decided in the
dot in which the report is latched (R382). The spare that serves a cluster takes its own pair's place: of that one nothing is compared. A failure found by the spare in service halts the cluster, and LPE_NOSPARE is reported (R122). -/
def lockFound (c k : Nat) (s : State) : State :=
  let n := c / 6
  if fbit LPE_STAT_SUBST c s then
    report (rsrc n 60) c 0 (lockHalt c k (fon RSP_STAT_SPARE_FAIL n s))
  else
    let info := runInfo c k s
    report (csrc c 8) info.1 info.2 (lockHalt c k s)

/-! ### Operands and results (R100, R103, R106) -/

/-- A step is refused: BADOP, bit 6 of CTX_STAT, and a report from LPE_BADOP (R100). -/
def badOp (c : Nat) (r : Run) (s : State) : State :=
  report (csrc c 4) (runCtx c r) r.cycle (setCtxStat (runCtx c r) 6 s)

/-- Word `x` of the running context, unsigned: as the step's first cycle latched it, or as it stands (R106). -/
def rword (c : Nat) (r : Run) (x : Nat) (s : State) : Nat :=
  match r.latch with
  | some k => k.words.getD x 0
  | none => ctxGet (runCtx c r) x s

/-- Word `x` of the running context, signed. -/
def word_ (c : Nat) (r : Run) (s : State) (x : Nat) : Int := sint (rword c r x s)

/-- What a step reads from outside its context: as its first cycle latched it, or as it now is (R106). -/
def rinput (r : Run) (now : List Int × Bool) : List Int × Bool :=
  match r.latch with
  | some k => (k.vals, k.stale)
  | none => now

/-- A step may write word `x`: W4 to W63 (R100, R103). -/
def mayWrite (x : Nat) : Bool := decide (4 ≤ x) && decide (x ≤ 63)

/-- Word `x` of context `g` is written, with the word's own rule, by a step or a routine (R99): the taps sample what it holds then
(R311). -/
def tracedWrite (g x v : Nat) (s : State) : State :=
  let t := ctxApply g x v s
  traceSample g x (ctxGet g x t) t

/-- A step writes `v` to word `x` of its context (R99). -/
def stepWrite (c : Nat) (r : Run) (x : Nat) (v : Int) (s : State) : State :=
  if mayWrite x then tracedWrite (runCtx c r) x (word v) s else s

/-- The writes of a step and the bits of CTX_STAT that it sets. -/
abbrev Res := List (Nat × Int) × List Nat

/-- The 64-bit words of memory that hold words `xs` of the running context. -/
def ctxKeys (c : Nat) (r : Run) (xs : List Nat) : List Nat :=
  (xs.filter (fun x => decide (x ≤ 63))).map (ctxPlace (runCtx c r))

/-- The words of memory `ks` are read by a loop engine: true where none holds an uncorrectable error (R281, R282). -/
def engineReads (ks : List Nat) (s : State) : Bool × State := if s.poison = [] && s.soft = [] then (true, s) else checkWords ks 0x87 s

/-- The writes and bits of a step's result come about, and the step is refused once where a write may not be made (R100). A word that
is merged into one with an uncorrectable error is a residue failure (R282, R283). -/
def applyRes (c : Nat) (r : Run) (res : Res) (s : State) : State :=
  match mergeWords (ctxKeys c r (res.1.map Prod.fst)).eraseDups 0x87 s with
  | (false, t) => lockFound c (r.start + r.cycle) t
  | (true, t) =>
    let t := forAll res.1 (fun e u => stepWrite c r e.1 e.2 u) (forAll res.2 (fun b u => setCtxStat (runCtx c r) b u) t)
    if res.1.all (fun e => mayWrite e.1) then t else badOp c r t

/-! ### Advancing a run (R105, R106) -/

/-- The run has used `n` more cycles and its next step is `pc`; `ended` says that its last step is done. -/
def advanceTo (c pc n : Nat) (ended : Bool) (s : State) : State :=
  let h := eng c s
  match h.run with
  | none => s
  | some r => setEng c { h with run := some { r with pc := pc, cycle := r.cycle + n, ended := ended, core := none, latch := none, half := false } } s

/-- A run has completed step 2,047 without E: RUNOFF, bit 5 of CTX_STAT, and a report with the cycle in which it completed (R105,
R378). -/
def runOff (c : Nat) (r : Run) (s : State) : State :=
  if r.ended && r.pc == 2048 && !(stepWord c 2047 s).testBit 28 then
    report (csrc c 5) (runCtx c r) (r.cycle - 1) (setCtxStat (runCtx c r) 5 s) else s

/-- Run `r` of cluster `c`, whose last step is done, ends (R105). -/
def finishRun (c : Nat) (r : Run) (s : State) : State := endRun c (r.start + r.cycle) false (runOff c r s)

/-- The step that the run is at ends after `n` cycles, with its E bit (R105). -/
def stepEnd (c n : Nat) (e : Bool) (s : State) : State :=
  match (eng c s).run with
  | none => s
  | some r => advanceTo c (r.pc + 1) n (e || decide (2047 ≤ r.pc)) s

/-- The immediate's bits [hi:lo]. -/
def immBits (w : StepW) (hi lo : Nat) : Nat := Sys2Proof.Machine.bits w.imm.toNat hi lo

/-- The words from `b` on, `n` of them. -/
def block (b n : Nat) : List Nat := (List.range n).map (b + ·)

/-- The words of its context that a step of kind `k` reads (R108, R109, R110). -/
def operandWords (k : Nat) (w : StepW) : List Nat :=
  let (a, b, c, d) := (w.a.val, w.b.val, w.c.val, w.d.val)
  match k with
  | 0x01 | 0x02 => [b, c]
  | 0x09 => [55]
  | 0x0A => (match immBits w 4 3 with
    | 0 => [a, b]
    | 1 => [a, b, c]
    | 2 => [a, b]
    | _ => [])
  | 0x0B | 0x0C | 0x0D | 0x0E | 0x0F | 0x16 | 0x17 | 0x1B | 0x1C | 0x25 | 0x32 | 0x34 => [a]
  | 0x11 | 0x12 | 0x13 | 0x15 | 0x18 | 0x19 | 0x1F | 0x22 | 0x23 | 0x26 | 0x27 | 0x28 | 0x2E | 0x33 => [a, b]
  | 0x14 | 0x1E | 0x2C => [d, a, b]
  | 0x1A | 0x1D | 0x20 | 0x24 | 0x3D => [a, b, c]
  | 0x21 => [a, a + 1, b]
  | 0x29 => [a, c] ++ block b 5
  | 0x2A => [a, c] ++ block b 7
  | 0x2B => a :: block b 7
  | 0x2D => [d, a, b, c, c + 1]
  | 0x2F => a :: block b 11
  | 0x30 => a :: block b 19
  | 0x31 => a :: block b 29
  | 0x35 => if immBits w 0 0 = 0 then [a, b] else [a, b, c]
  | 0x36 | 0x3A | 0x3B => [a, a + 1]
  | 0x37 | 0x38 => [a, a + 1, b, b + 1]
  | 0x39 => [a, a + 1, b, b + 1] ++ block c 4
  | 0x3C => block a 3 ++ block b 3
  | _ => []

/-- The context named by a GETX or PUTW step is absent (R108). -/
def ctxAbsent (g : Nat) (s : State) : Bool := decide (3072 ≤ g) || !clusterOn (g / 128) s

/-- The words of memory that a step of kind `k` reads as operands: those of its context, and the word that GETX names (R106, R282). -/
def operandKeys (c k : Nat) (w : StepW) (r : Run) (s : State) : List Nat :=
  ctxKeys c r (operandWords k w)
    ++ if k = 0x08 ∧ !ctxAbsent (immBits w 17 6) s then [ctxPlace (immBits w 17 6) (immBits w 5 0)] else []

/-- A step of kind `k` of the running program of cluster `c`: it does `f` and takes `n` cycles. Without a run, or while the run waits
for the loop core or has ended, the cluster is at no step and nothing happens. An operand with an uncorrectable error is a residue failure
in the step's first cycle (R119, R282). -/
def stepDo (c : Fin 24) (w : StepW) (k n : Nat) (f : Run → State → State) (s : State) : State :=
  match (eng c.val s).run with
  | none => s
  | some r =>
    if r.ended || r.core.isSome then s
    else if r.latch.isSome then stepEnd c.val n w.e (f r s)
    else match engineReads (operandKeys c k w r s) s with
    | (true, t) => stepEnd c.val n w.e (f r t)
    | (false, t) => lockFound c.val (r.start + r.cycle) t

/-- A step that computes from the words of its context alone: refused if it reads a word beyond W63 (R103). -/
def stepPure (c : Fin 24) (w : StepW) (k n : Nat) (f : (Nat → Int) → Res) (s : State) : State :=
  stepDo c w k n (fun r t =>
    if (operandWords k w).any (fun x => 63 < x) then badOp c.val r t else applyRes c.val r (f (fun x => word_ c.val r t x)) t) s

/-- One result word. -/
def put (d : Fin 64) (v : Val) : Res := ([(d.val, v.1)], v.2)

/-- One result word that sets no bit. -/
def putv (d : Nat) (v : Int) : Res := ([(d, v)], [])

/-- Results together. -/
def both (a b : Res) : Res := (a.1 ++ b.1, a.2 ++ b.2)

/-! ### Inputs (R86, R106, R108) -/

/-- STALE_IN, bit 10 of CTX_STAT, where an input carries a STALE or MISSED flag. -/
def staleIn (b : Bool) : List Nat := if b then [10] else []

/-- An input that is offset and scaled: rnd((R - W[B]) * W[C]). -/
def scaled (w : StepW) (x : Int) (stale : Bool) (W : Nat → Int) : Res :=
  let v := rnd w.q ((x - W w.b) * W w.c)
  ([(w.d.val, v.1)], v.2 ++ staleIn stale)

/-- Bits 0 to n - 1 gathered from a test. -/
def gather (n : Nat) (f : Nat → Bool) : Nat := (List.range n).foldl (fun a i => if f i then a + 2 ^ i else a) 0

/-- The channel of a GETF step: IMM[3:0] + CHBASE. -/
def getfChannel (c : Nat) (w : StepW) (r : Run) (s : State) : Nat := immBits w 3 0 + bits (ctxGet (runCtx c r) 0 s) 27 24

/-- SEU_STAT of a unit as a word, as an access reads it (R96). -/
def seuStatWord (u : Nat) (s : State) : Nat :=
  fseen SEU_STAT_SEQ u s * 2 ^ 16 + fseen SEU_STAT_DLY u s * 2 ^ 8 + fseen SEU_STAT_CDS u s * 2 ^ 7 + fseen SEU_STAT_NW u s * 2 ^ 6
    + fseen SEU_STAT_NE u s * 2 ^ 5 + fseen SEU_STAT_CFG_REFUSED u s * 2 ^ 4 + fseen SEU_STAT_SKIPPED u s * 2 ^ 3
    + fseen SEU_STAT_TIMEOUT u s * 2 ^ 2 + fseen SEU_STAT_CRC_ERR u s * 2

/-- A word of context `g` as a reader in cluster `c` sees it (R33, R34). -/
def ctxSeen (c g w : Nat) (s : State) : Nat :=
  if g / 128 = c then ctxGet g w s
  else if g / 768 = c / 6 then sget 0 s.ctx1 (64 * g + w)
  else sget 0 s.ctx2 (64 * g + w)

/-- What a step of kind `k` reads from outside its context, with the STALE or MISSED flag: the values readable in the present dot
(R33, R80, R86, R106). -/
def stepInput (c k : Nat) (w : StepW) (r : Run) (s : State) : List Int × Bool :=
  match k with
  | 0x01 =>
    let u := 16 * c + getfChannel c w r s
    if immBits w 4 4 = 0 then ([sint (fseen SDF_RES0_R u s)], fseen SDF_STAT_STALE0 u s % 2 == 1)
    else ([sint (fseen SDF_RES1_R u s)], fseen SDF_STAT_STALE1 u s % 2 == 1)
  | 0x02 =>
    let u := 16 * (4 * (c / 6) + immBits w 1 0) + immBits w 5 2
    ([(fseen SAR_RES_VALUE u s : Int)], fseen SAR_RES_MISSED u s % 2 == 1)
  | 0x03 =>
    let u := 2 * c + immBits w 0 0
    if immBits w 1 1 = 0 then
      ([sint (fseen QEP_RES0_POS_POS u s), sint (fseen QEP_RES0_AGE_AGE u s), sint (fseen QEP_RES0_INT_INT u s)], false)
    else ([sint (fseen QEP_RES1_POS_POS u s), sint (fseen QEP_RES1_AGE_AGE u s), sint (fseen QEP_RES1_INT_INT u s)], false)
  | 0x04 =>
    let u := 6 * (c / 6) + immBits w 2 0
    ([sint (fseen SEU_DATA_LO_DATA u s), sint (fseen SEU_DATA_HI_DATA u s), sint (seuStatWord u s)], false)
  | 0x05 => ([(gather 16 (fun j => fseen CMP_STAT_OUT (16 * (c / 6) + j) s % 2 == 1) : Int)], false)
  | 0x06 => ([sint (fget TMR_COUNT_COUNT (4 * c + immBits w 1 0) s)], false)
  | 0x07 => ([sint (gather 32 (fun i => s.fab.sinks.contains (0x1C0 + 32 * c + i)))], false)
  | 0x08 => ([sint (ctxSeen c (immBits w 17 6) (immBits w 5 0) s)], false)
  | _ => ([], false)

/-- The results of the inputs `vs` in the words from `d` on. -/
def putAll (d : Nat) (vs : List Int) : Res := (vs.zipIdx.map (fun e => (d + e.2, e.1)), [])

/-- A step of kind `k` that reads from outside its context: refused where `bad` says so, else its results are `f` of what it reads. -/
def stepGet (c : Fin 24) (w : StepW) (k n : Nat) (bad : Run → State → Bool) (f : (Nat → Int) → List Int × Bool → Res) (s : State) : State :=
  stepDo c w k n (fun r t =>
    if bad r t then badOp c.val r t
    else applyRes c.val r (f (fun x => word_ c.val r t x) (rinput r (stepInput c k w r t))) t) s

/-- STEP_NOP. -/
def execStepNop (c : Fin 24) (w : StepW) (s : State) : Host.Outcome State Fault Refusal :=
  .next (stepDo c w 0x00 1 (fun _ t => t) s)

/-- STEP_GETF: SDF_RESk of cluster channel IMM[3:0] + CHBASE. -/
def execStepGetf (c : Fin 24) (w : StepW) (s : State) : Host.Outcome State Fault Refusal :=
  .next (stepGet c w 0x01 3 (fun r t => decide (15 < getfChannel c w r t)) (fun W i => scaled w (i.1.getD 0 0) i.2 W) s)

/-- STEP_GETS: VALUE of SAR_RES entry IMM[5:2] of region converter IMM[1:0]. -/
def execStepGets (c : Fin 24) (w : StepW) (s : State) : Host.Outcome State Fault Refusal :=
  .next (stepGet c w 0x02 3 (fun _ _ => false) (fun W i => scaled w (i.1.getD 0 0) i.2 W) s)

/-- STEP_GETQ: POS, AGE and INT of cluster quadrature unit IMM[0], slot IMM[1]. -/
def execStepGetq (c : Fin 24) (w : StepW) (s : State) : Host.Outcome State Fault Refusal :=
  .next (stepGet c w 0x03 3 (fun _ _ => false) (fun _ i => putAll w.d i.1) s)

/-- STEP_GETE: data and status of region serial-encoder unit IMM[2:0]. -/
def execStepGete (c : Fin 24) (w : StepW) (s : State) : Host.Outcome State Fault Refusal :=
  .next (stepGet c w 0x04 3 (fun _ _ => decide (5 < immBits w 2 0)) (fun _ i => putAll w.d i.1) s)

/-- STEP_GETC: the OUT bits of the region's comparators. -/
def execStepGetc (c : Fin 24) (w : StepW) (s : State) : Host.Outcome State Fault Refusal :=
  .next (stepGet c w 0x05 2 (fun _ _ => false) (fun _ i => putAll w.d i.1) s)

/-- STEP_GETT: the count of general timer 4c + IMM[1:0]. -/
def execStepGett (c : Fin 24) (w : StepW) (s : State) : Host.Outcome State Fault Refusal :=
  .next (stepGet c w 0x06 2 (fun _ _ => false) (fun _ i => putAll w.d i.1) s)

/-- STEP_GETR: the context level inputs LPE_LVL0 to LPE_LVL31, sinks 0x1C0 + 32c + i (R128). -/
def execStepGetr (c : Fin 24) (w : StepW) (s : State) : Host.Outcome State Fault Refusal :=
  .next (stepGet c w 0x07 2 (fun _ _ => false) (fun _ i => putAll w.d i.1) s)

/-- STEP_GETX: word IMM[5:0] of context IMM[17:6]. -/
def execStepGetx (c : Fin 24) (w : StepW) (s : State) : Host.Outcome State Fault Refusal :=
  .next (stepGet c w 0x08 2 (fun _ t => ctxAbsent (immBits w 17 6) t) (fun _ i => putAll w.d i.1) s)

/-- STEP_MBXT: the selected MBX_FRESH bits are read and cleared. -/
def execStepMbxt (c : Fin 24) (w : StepW) (s : State) : Host.Outcome State Fault Refusal :=
  .next (stepDo c w 0x09 2 (fun r t =>
    let f := rword c r 55 t &&& immBits w 7 0
    applyRes c.val r (putv w.d f) (ctxMerge (runCtx c r) [55] (tracedWrite (runCtx c r) 55 f) t)) s)

/-! ### Outputs (R106, R108, R110) -/

/-- A compare write reaches leg `l`: at once, or 3 dots later while the spare serves the cluster (R35). -/
def writeCompares (c l : Nat) (k : Compares) (s : State) : State :=
  if fbit LPE_STAT_SUBST c s then later 3 (.legQuad l k.period k.cmpa k.cmpb k.fine) s
  else legQuad l k.period k.cmpa k.cmpb k.fine s

/-- The leg or pair of a PUTC step: IMM[2:0] + LEGBASE. -/
def putcLeg (c : Nat) (w : StepW) (r : Run) (s : State) : Nat := immBits w 2 0 + bits (ctxGet (runCtx c r) 0 s) 30 28

/-- The compares of the even and of the odd leg of a three-level pair, for the signed duty `d` and the carrier period `p` (R110). -/
def evenCompares (d : Int) (p : Nat) : Compares := triangleCompares (if d ≥ 0 then d else 0) p
def oddCompares (d : Int) (p : Nat) : Compares := triangleCompares (if d ≥ 0 then maxWord else 2 ^ 31 + d) p

/-- The even leg of a three-level pair is written, in the fifth cycle of the step (R110). -/
def putcEven (c : Nat) (w : StepW) (r : Run) (s : State) : State :=
  let j := putcLeg c w r s
  if 2 < j then s else writeCompares c (6 * c + 2 * j) (evenCompares (word_ c r s w.a) (rword c r w.b s)) s

/-- STEP_PUTC (R110): in MODE 2 the even leg first, unless the step's fifth cycle has already written it. -/
def execStepPutc (c : Fin 24) (w : StepW) (s : State) : Host.Outcome State Fault Refusal :=
  let mode := immBits w 4 3
  .next (stepDo c w 0x0A (if mode = 2 then 10 else 6) (fun r t =>
    let j := putcLeg c w r t
    let W := fun x => word_ c.val r t x
    let p := rword c r w.b t
    let l := 6 * c.val + j
    match mode with
    | 0 => if 5 < j then badOp c.val r t else writeCompares c l (triangleCompares (W w.a) p) t
    | 1 => if 5 < j then badOp c.val r t else writeCompares c l (sawtoothCompares (W w.a) (W w.c) p) t
    | 2 =>
      if 2 < j then badOp c.val r t
      else writeCompares c (6 * c.val + 2 * j + 1) (oddCompares (W w.a) p) (if r.half then t else putcEven c w r t)
    | _ => badOp c.val r t) s)

/-- A PUTW write of the own cluster: in the running context at once, for its later steps; in another readable from the next dot (R101,
R106). A word that is merged into one with an uncorrectable error is not written (R283). -/
def putOwn (g x v : Nat) (s : State) : State :=
  ctxMerge g [x] (tracedWrite g x v) s

/-- A PUTW write of another cluster, from another region where `far`, is on its way: a value written again in one line crosses only in its
last form (R33, R34). -/
def putAcross (far : Bool) (g x v : Nat) (s : State) : State :=
  let n := if far then 2 else 1
  traceSample g x (if x = 55 then ctxGet g 55 s - (ctxGet g 55 s &&& v) else v)
    { s with cross := s.cross.filter (fun e => !(e.left == n && e.far == far && e.ctx == g && e.word == x)) ++ [⟨n, far, g, x, v⟩] }

/-- STEP_PUTW: word IMM[5:0] of context IMM[17:6] takes W[A], in the own cluster from the next dot, at the next LINE_START in the own
region, at the one after elsewhere (R33, R101): the taps sample it in the step's dot (R311). -/
def execStepPutw (c : Fin 24) (w : StepW) (s : State) : Host.Outcome State Fault Refusal :=
  .next (stepDo c w 0x0B 2 (fun r t =>
    let g := immBits w 17 6
    let x := immBits w 5 0
    let v := rword c r w.a t
    if ctxAbsent g t || decide (x < 4) then badOp c.val r t
    else if g = runCtx c r then putOwn g x v t
    else if g / 128 = c.val then later 0 (.ctxPut g x v) t
    else putAcross (g / 768 != c.val / 6) g x v t) s)

/-- STEP_PUTE: the fabric event LPE_EV(IMM[3:0]). -/
def execStepPute (c : Fin 24) (w : StepW) (s : State) : Host.Outcome State Fault Refusal :=
  .next (stepDo c w 0x0C 1 (fun r t =>
    if word_ c.val r t w.a ≠ 0 ∨ immBits w 4 4 = 1 then fire (0x1000 + 32 * c.val + immBits w 3 0) t else t) s)

/-- STEP_PUTL: the fabric level LPE_OUT(IMM[3:0]). -/
def execStepPutl (c : Fin 24) (w : StepW) (s : State) : Host.Outcome State Fault Refusal :=
  .next (stepDo c w 0x0D 1 (fun r t =>
    let h := eng c.val t
    let i := immBits w 3 0
    setEng c.val { h with out := if word_ c.val r t w.a ≠ 0 then h.out ||| 2 ^ i else h.out - (h.out &&& 2 ^ i) } t) s)

/-- STEP_PUBL: W[A] is handed to publish entry IMM[9:0] (R167). -/
def execStepPubl (c : Fin 24) (w : StepW) (s : State) : Host.Outcome State Fault Refusal :=
  .next (stepDo c w 0x0E 4 (fun r t => pubWrite false (immBits w 9 0) (rword c r w.a t) t) s)

/-! ### Arithmetic (R108) -/

/-- STEP_MOV. -/
def execStepMov (c : Fin 24) (w : StepW) (s : State) : Host.Outcome State Fault Refusal :=
  .next (stepPure c w 0x0F 1 (fun W => putv w.d (W w.a)) s)

/-- STEP_LDK. -/
def execStepLdk (c : Fin 24) (w : StepW) (s : State) : Host.Outcome State Fault Refusal :=
  .next (stepPure c w 0x10 1 (fun _ => put w.d (sat32 (w.imm.toInt * 2 ^ w.q.val))) s)

/-- STEP_ADD. -/
def execStepAdd (c : Fin 24) (w : StepW) (s : State) : Host.Outcome State Fault Refusal :=
  .next (stepPure c w 0x11 1 (fun W => put w.d (sat32 (W w.a + W w.b))) s)

/-- STEP_SUB. -/
def execStepSub (c : Fin 24) (w : StepW) (s : State) : Host.Outcome State Fault Refusal :=
  .next (stepPure c w 0x12 1 (fun W => put w.d (sat32 (W w.a - W w.b))) s)

/-- STEP_MUL. -/
def execStepMul (c : Fin 24) (w : StepW) (s : State) : Host.Outcome State Fault Refusal :=
  .next (stepPure c w 0x13 2 (fun W => put w.d (rnd w.q (W w.a * W w.b))) s)

/-- STEP_MAC. -/
def execStepMac (c : Fin 24) (w : StepW) (s : State) : Host.Outcome State Fault Refusal :=
  .next (stepPure c w 0x14 2 (fun W => put w.d (rnd w.q (W w.d * 2 ^ w.q.val + W w.a * W w.b))) s)

/-- STEP_DIV: a zero divisor gives the largest value of the sign of W[A] and sets DIVZ, bit 8. -/
def execStepDiv (c : Fin 24) (w : StepW) (s : State) : Host.Outcome State Fault Refusal :=
  .next (stepPure c w 0x15 12 (fun W =>
    let x := W w.a
    if W w.b = 0 then put w.d (if x > 0 then maxWord else if x < 0 then minWord else 0, [8])
    else put w.d (sat32 (tdiv (x * 2 ^ w.q.val) (W w.b)))) s)

/-- STEP_NEG. -/
def execStepNeg (c : Fin 24) (w : StepW) (s : State) : Host.Outcome State Fault Refusal :=
  .next (stepPure c w 0x16 1 (fun W => put w.d (sat32 (-(W w.a)))) s)

/-- STEP_ABS. -/
def execStepAbs (c : Fin 24) (w : StepW) (s : State) : Host.Outcome State Fault Refusal :=
  .next (stepPure c w 0x17 1 (fun W => put w.d (sat32 ((W w.a).natAbs))) s)

/-- STEP_MIN. -/
def execStepMin (c : Fin 24) (w : StepW) (s : State) : Host.Outcome State Fault Refusal :=
  .next (stepPure c w 0x18 1 (fun W => putv w.d (min (W w.a) (W w.b))) s)

/-- STEP_MAX. -/
def execStepMax (c : Fin 24) (w : StepW) (s : State) : Host.Outcome State Fault Refusal :=
  .next (stepPure c w 0x19 1 (fun W => putv w.d (max (W w.a) (W w.b))) s)

/-- STEP_SCALE. -/
def execStepScale (c : Fin 24) (w : StepW) (s : State) : Host.Outcome State Fault Refusal :=
  .next (stepPure c w 0x1A 3 (fun W => put w.d (rnd w.q ((W w.a - W w.b) * W w.c))) s)

/-- STEP_SHIFT: left with saturation, right with rounding. -/
def execStepShift (c : Fin 24) (w : StepW) (s : State) : Host.Outcome State Fault Refusal :=
  .next (stepPure c w 0x1B 1 (fun W =>
    let n := immBits w 5 0
    put w.d (if n < 32 then sat32 (W w.a * 2 ^ n) else rnd (64 - n) (W w.a))) s)

/-- STEP_SQRT: a negative operand gives 0 and sets SAT. -/
def execStepSqrt (c : Fin 24) (w : StepW) (s : State) : Host.Outcome State Fault Refusal :=
  .next (stepPure c w 0x1C 10 (fun W =>
    if W w.a < 0 then put w.d (0, [0]) else put w.d (sat32 (Nat.sqrt ((W w.a).toNat * 2 ^ w.q.val)))) s)

/-- A value that differs from the one it limits sets LIMIT, bit 2. -/
def limited (x v : Int) : Val := (v, if v = x then [] else [2])

/-- STEP_SAT: the upper limit is tested first. -/
def execStepSat (c : Fin 24) (w : StepW) (s : State) : Host.Outcome State Fault Refusal :=
  .next (stepPure c w 0x1D 2 (fun W =>
    let x := W w.a
    put w.d (limited x (if x > W w.b then W w.b else if x < W w.c then W w.c else x))) s)

/-- STEP_RATE: a negative limit counts as 0. -/
def execStepRate (c : Fin 24) (w : StepW) (s : State) : Host.Outcome State Fault Refusal :=
  .next (stepPure c w 0x1E 4 (fun W =>
    let lim := max (W w.b) 0
    let diff := sat32 (W w.a - W w.d)
    let m := limited diff.1 (min (max diff.1 (-lim)) lim)
    let v := sat32 (W w.d + m.1)
    put w.d (v.1, diff.2 ++ m.2 ++ v.2)) s)

/-- STEP_DEAD. -/
def execStepDead (c : Fin 24) (w : StepW) (s : State) : Host.Outcome State Fault Refusal :=
  .next (stepPure c w 0x1F 2 (fun W =>
    let x := W w.a
    put w.d (if x = 0 ∨ (x.natAbs : Int) ≤ W w.b then (0, []) else sat32 (if x > 0 then x - W w.b else x + W w.b))) s)

/-- STEP_HYST: between the limits W[D] is not written. -/
def execStepHyst (c : Fin 24) (w : StepW) (s : State) : Host.Outcome State Fault Refusal :=
  .next (stepPure c w 0x20 2 (fun W =>
    if W w.a > W w.b then putv w.d 1 else if W w.a < W w.c then putv w.d 0 else ([], [])) s)

/-- The vector limit of R501: the pair, and whether it was scaled. -/
def vlim (x y lim : Int) : Int × Int × Bool :=
  let l := (max lim 0).toNat
  let m2 := x.natAbs ^ 2 + y.natAbs ^ 2
  if m2 ≤ l ^ 2 then (x, y, false)
  else
    let k : Int := Nat.sqrt (l ^ 2 * 2 ^ 62 / m2)
    (tdiv (x * k) (2 ^ 31), tdiv (y * k) (2 ^ 31), true)

/-- STEP_VLIM (R501). -/
def execStepVlim (c : Fin 24) (w : StepW) (s : State) : Host.Outcome State Fault Refusal :=
  .next (stepPure c w 0x21 16 (fun W =>
    let v := vlim (W w.a) (W (w.a + 1)) (W w.b)
    ([(w.d.val, v.1), (w.d.val + 1, v.2.1)], if v.2.2 then [2] else [])) s)

/-- STEP_CMPGT. -/
def execStepCmpgt (c : Fin 24) (w : StepW) (s : State) : Host.Outcome State Fault Refusal :=
  .next (stepPure c w 0x22 1 (fun W => putv w.d (if W w.a > W w.b then 1 else 0)) s)

/-- STEP_CMPEQ. -/
def execStepCmpeq (c : Fin 24) (w : StepW) (s : State) : Host.Outcome State Fault Refusal :=
  .next (stepPure c w 0x23 1 (fun W => putv w.d (if W w.a = W w.b then 1 else 0)) s)

/-- STEP_SEL. -/
def execStepSel (c : Fin 24) (w : StepW) (s : State) : Host.Outcome State Fault Refusal :=
  .next (stepPure c w 0x24 1 (fun W => putv w.d (if W w.a ≠ 0 then W w.b else W w.c)) s)

/-- STEP_AND. -/
def execStepAnd (c : Fin 24) (w : StepW) (s : State) : Host.Outcome State Fault Refusal :=
  .next (stepPure c w 0x26 1 (fun W => putv w.d (sint (word (W w.a) &&& word (W w.b)))) s)

/-- STEP_OR. -/
def execStepOr (c : Fin 24) (w : StepW) (s : State) : Host.Outcome State Fault Refusal :=
  .next (stepPure c w 0x27 1 (fun W => putv w.d (sint (word (W w.a) ||| word (W w.b)))) s)

/-- STEP_XOR. -/
def execStepXor (c : Fin 24) (w : StepW) (s : State) : Host.Outcome State Fault Refusal :=
  .next (stepPure c w 0x28 1 (fun W => putv w.d (sint (word (W w.a) ^^^ word (W w.b)))) s)

/-! ### SKIP (R109) -/

/-- The cycles of a step kind (R108); of a passed-over CORE step 10, of a passed-over SYNC step 1 (R109). -/
def stepCycles (word : Nat) : Nat :=
  match bits word 63 58 with
  | 0x00 => 1 | 0x01 => 3 | 0x02 => 3 | 0x03 => 3 | 0x04 => 3 | 0x05 => 2 | 0x06 => 2 | 0x07 => 2
  | 0x08 => 2 | 0x09 => 2 | 0x0A => if bits word 4 3 = 2 then 10 else 6 | 0x0B => 2 | 0x0C => 1 | 0x0D => 1 | 0x0E => 4 | 0x0F => 1
  | 0x10 => 1 | 0x11 => 1 | 0x12 => 1 | 0x13 => 2 | 0x14 => 2 | 0x15 => 12 | 0x16 => 1 | 0x17 => 1
  | 0x18 => 1 | 0x19 => 1 | 0x1A => 3 | 0x1B => 1 | 0x1C => 10 | 0x1D => 2 | 0x1E => 4 | 0x1F => 2
  | 0x20 => 2 | 0x21 => 16 | 0x22 => 1 | 0x23 => 1 | 0x24 => 1 | 0x25 => 1 | 0x26 => 1 | 0x27 => 1
  | 0x28 => 1 | 0x29 => 12 | 0x2A => 16 | 0x2B => 8 | 0x2C => 3 | 0x2D => 3 | 0x2E => 2 | 0x2F => 12
  | 0x30 => 19 | 0x31 => 28 | 0x32 => 6 | 0x33 => 12 | 0x34 => 8 | 0x35 => 4 | 0x36 => 4 | 0x37 => 6
  | 0x38 => 6 | 0x39 => 10 | 0x3A => 24 | 0x3B => 32 | 0x3C => 14 | 0x3D => 3 | 0x3E => 10 | _ => 1

/-- `n` more steps are passed over; the run ends at one whose E bit is 1, or at step 2,047 (R105, R109). -/
def passOver (c : Nat) (timed : Bool) : Nat → State → State
  | 0, s => s
  | n + 1, s =>
    match (eng c s).run with
    | none => s
    | some r =>
      if r.ended then s
      else
        let x := stepWord c r.pc s
        passOver c timed n (stepEnd c (if timed then stepCycles x else 0) (bits x 28 28 == 1) s)

/-- STEP_SKIP (R109). -/
def execStepSkip (c : Fin 24) (w : StepW) (s : State) : Host.Outcome State Fault Refusal :=
  match (eng c.val s).run with
  | none => .next s
  | some r =>
    if r.ended || r.core.isSome then .next s
    else
      match if r.latch.isSome then (true, s) else engineReads (ctxKeys c r (operandWords 0x25 w)) s with
      | (false, t) => .next (lockFound c (r.start + r.cycle) t)
      | (true, t) =>
        let u := stepEnd c.val 1 w.e t
        .next (if word_ c.val r t w.a = 0 then passOver c (immBits w 27 27 == 1) (immBits w 7 0) u else u)

/-! ### Controllers, filters and tables (R108, R109) -/

/-- A value held between `lo` and `hi`: the upper limit first. -/
def clampHi (x lo hi : Int) : Int := min (max x lo) hi

/-- PI and PID (R109), for a block at `b`. -/
def controller (pid : Bool) (w : StepW) (W : Nat → Int) : Res :=
  let b := w.b.val
  let one : Int := 2 ^ w.q.val
  let e := sat32 (W w.a - W w.c)
  let (kp, ki, i, hi, lo) := (W b, W (b + 1), W (b + 2), W (b + 3), W (b + 4))
  let r1 := rnd w.q (i * one + ki * e.1)
  let i1 := clampHi r1.1 lo hi
  let d := if pid then W (b + 5) * (e.1 - W (b + 6)) else 0
  let u := rnd w.q (kp * e.1 + i1 * one + d)
  let (u1, i2, l1) := if u.1 > hi then (hi, if ki * e.1 > 0 then i else i1, true) else (u.1, i1, false)
  let (u2, i3, l2) := if u1 < lo then (lo, if ki * e.1 < 0 then i else i2, true) else (u1, i2, l1)
  ([(b + 2, i3)] ++ (if pid then [(b + 6, e.1)] else []) ++ [(w.d.val, u2)], e.2 ++ r1.2 ++ u.2 ++ (if l2 then [2] else []))

/-- STEP_PI. -/
def execStepPi (c : Fin 24) (w : StepW) (s : State) : Host.Outcome State Fault Refusal :=
  .next (stepPure c w 0x29 12 (controller false w) s)

/-- STEP_PID. -/
def execStepPid (c : Fin 24) (w : StepW) (s : State) : Host.Outcome State Fault Refusal :=
  .next (stepPure c w 0x2A 16 (controller true w) s)

/-- One biquad section in transposed direct form II: from the input, five coefficients and two states to the output and the new
states (R108, R363). -/
def biquad (q : Nat) (x b0 b1 b2 a1 a2 s1 s2 : Int) : Val × Val × Val :=
  let y := rnd q (b0 * x + s1 * 2 ^ q)
  (y, rnd q (b1 * x - a1 * y.1 + s2 * 2 ^ q), rnd q (b2 * x - a2 * y.1))

/-- STEP_BIQ. -/
def execStepBiq (c : Fin 24) (w : StepW) (s : State) : Host.Outcome State Fault Refusal :=
  .next (stepPure c w 0x2B 8 (fun W =>
    let b := w.b.val
    let r := biquad w.q (W w.a) (W b) (W (b + 1)) (W (b + 2)) (W (b + 3)) (W (b + 4)) (W (b + 5)) (W (b + 6))
    ([(b + 5, r.2.1.1), (b + 6, r.2.2.1), (w.d.val, r.1.1)], r.1.2 ++ r.2.1.2 ++ r.2.2.2)) s)

/-- STEP_LPF1. -/
def execStepLpf1 (c : Fin 24) (w : StepW) (s : State) : Host.Outcome State Fault Refusal :=
  .next (stepPure c w 0x2C 3 (fun W =>
    let p := rnd w.q (W w.b * (W w.a - W w.d))
    let v := sat32 (W w.d + p.1)
    put w.d (v.1, p.2 ++ v.2)) s)

/-- STEP_INTG: of two limits that cross, the upper one is tested first, as SAT does; the spec gives no order (DESIGN CHOICE, log 96). -/
def execStepIntg (c : Fin 24) (w : StepW) (s : State) : Host.Outcome State Fault Refusal :=
  .next (stepPure c w 0x2D 3 (fun W =>
    let p := rnd w.q (W w.a * W w.b)
    let v := sat32 (W w.d + p.1)
    let m := limited v.1 (if v.1 > W w.c then W w.c else if v.1 < W (w.c + 1) then W (w.c + 1) else v.1)
    put w.d (m.1, p.2 ++ v.2 ++ m.2)) s)

/-- STEP_DIFF: W[D] first, then W[B] = W[A]. -/
def execStepDiff (c : Fin 24) (w : StepW) (s : State) : Host.Outcome State Fault Refusal :=
  .next (stepPure c w 0x2E 2 (fun W =>
    let v := sat32 (W w.a - W w.b)
    ([(w.d.val, v.1), (w.b.val, W w.a)], v.2)) s)

/-- The sum over `i` below `n` of `f i`. -/
def sumTo (n : Nat) (f : Nat → Int) : Int := (List.range n).foldl (fun a i => a + f i) 0

/-- SSn (R109): the block at B holds Phi, Gamma, H, J and the state. -/
def stateSpace (n : Nat) (w : StepW) (W : Nat → Int) : Res :=
  let b := w.b.val
  let gam := b + n * n
  let h := gam + n
  let j := h + n
  let x := j + 1
  let u := W w.a
  let y := rnd w.q (sumTo n (fun i => W (h + i) * W (x + i)) + W j * u)
  let row (i : Nat) : Val := rnd w.q (sumTo n (fun k => W (b + n * i + k) * W (x + k)) + W (gam + i) * u)
  ((w.d.val, y.1) :: (List.range n).map (fun i => (x + i, (row i).1)), y.2 ++ (List.range n).flatMap (fun i => (row i).2))

/-- STEP_SS2. -/
def execStepSs2 (c : Fin 24) (w : StepW) (s : State) : Host.Outcome State Fault Refusal :=
  .next (stepPure c w 0x2F 12 (stateSpace 2 w) s)

/-- STEP_SS3. -/
def execStepSs3 (c : Fin 24) (w : StepW) (s : State) : Host.Outcome State Fault Refusal :=
  .next (stepPure c w 0x30 19 (stateSpace 3 w) s)

/-- STEP_SS4. -/
def execStepSs4 (c : Fin 24) (w : StepW) (s : State) : Host.Outcome State Fault Refusal :=
  .next (stepPure c w 0x31 28 (stateSpace 4 w) s)

/-- Interpolation between two entries by a fraction of 16 bits (R109). -/
def lerp (t0 t1 : Int) (f : Nat) : Int := t0 + ((t1 - t0) * f + 2 ^ 15) / 2 ^ 16

/-- A one-dimensional table of `n` entries from local word `base`, at the 16.16 index `x` (R109). -/
def tableAt (c base n x : Nat) (s : State) : Int :=
  let x := min x ((n - 1) * 2 ^ 16)
  let i := x / 2 ^ 16
  let t0 := sint (localWord c (base + i) s)
  if x % 2 ^ 16 = 0 then t0 else lerp t0 (sint (localWord c (base + i + 1) s)) (x % 2 ^ 16)

/-- The 64-bit words of the local table that `tableAt` reads. -/
def tableKeys (c base n x : Nat) : List Nat :=
  let x := min x ((n - 1) * 2 ^ 16)
  let key (t : Nat) : Nat := (lpeBase c + 0xC000 + 4 * t) / 8
  key (base + x / 2 ^ 16) :: (if x % 2 ^ 16 = 0 then [] else [key (base + x / 2 ^ 16 + 1)])

/-- The entries `ks` of the local table are read, and the step's result is `v`; an uncorrectable entry is a residue failure (R282). -/
def fromTable (c : Nat) (r : Run) (ks : List Nat) (d : Nat) (v : Int) (s : State) : State :=
  match engineReads ks s with
  | (true, t) => applyRes c r (putv d v) t
  | (false, t) => lockFound c (r.start + r.cycle) t

/-- STEP_TBL: N = 0 writes nothing; a table beyond local word 2,047 is refused. -/
def execStepTbl (c : Fin 24) (w : StepW) (s : State) : Host.Outcome State Fault Refusal :=
  .next (stepDo c w 0x32 6 (fun r t =>
    let n := immBits w 21 11
    let base := immBits w 10 0
    if n = 0 then t
    else if 2048 < base + n then badOp c.val r t
    else fromTable c r (tableKeys c base n (rword c r w.a t)) w.d (tableAt c base n (rword c r w.a t) t) t) s)

/-- STEP_TBL2. -/
def execStepTbl2 (c : Fin 24) (w : StepW) (s : State) : Host.Outcome State Fault Refusal :=
  .next (stepDo c w 0x33 12 (fun r t =>
    let nc := immBits w 16 11
    let nr := immBits w 22 17
    let base := immBits w 10 0
    if nc = 0 ∨ nr = 0 then t
    else if 2048 < base + nc * nr then badOp c.val r t
    else
      let x := rword c r w.a t
      let y := min (rword c r w.b t) ((nr - 1) * 2 ^ 16)
      let i := y / 2 ^ 16
      let r0 := tableAt c (base + i * nc) nc x t
      let v := if y % 2 ^ 16 = 0 then r0 else lerp r0 (tableAt c (base + (i + 1) * nc) nc x t) (y % 2 ^ 16)
      fromTable c r (tableKeys c (base + i * nc) nc x ++ (if y % 2 ^ 16 = 0 then [] else tableKeys c (base + (i + 1) * nc) nc x)) w.d v t) s)

/-! ### Transforms (R108, R501) -/

/-- STEP_SINCOS: within 4 LSB of the exact values (a free offset). -/
def execStepSincos (c : Fin 24) (w : StepW) (s : State) : Host.Outcome State Fault Refusal :=
  .next (stepPure c w 0x34 8 (fun W =>
    ([(w.d.val, sincos 0 (word (W w.a))), (w.d.val + 1, sincos 1 (word (W w.a)))], [])) s)

/-- STEP_CLARKE. -/
def execStepClarke (c : Fin 24) (w : StepW) (s : State) : Host.Outcome State Fault Refusal :=
  .next (stepPure c w 0x35 4 (fun W =>
    let al := if immBits w 0 0 = 0 then (W w.a, []) else sat32 (rdiv (2 * W w.a - W w.b - W w.c) 3)
    let be := sat32 (overSqrt3 (if immBits w 0 0 = 0 then W w.a + 2 * W w.b else W w.b - W w.c))
    ([(w.d.val, al.1), (w.d.val + 1, be.1)], al.2 ++ be.2)) s)

/-- STEP_ICLARKE. -/
def execStepIclarke (c : Fin 24) (w : StepW) (s : State) : Host.Outcome State Fault Refusal :=
  .next (stepPure c w 0x36 4 (fun W =>
    let p := phases (W w.a) (W (w.a + 1))
    let (x, y, z) := (sat32 p.1, sat32 p.2.1, sat32 p.2.2)
    ([(w.d.val, x.1), (w.d.val + 1, y.1), (w.d.val + 2, z.1)], x.2 ++ y.2 ++ z.2)) s)

/-- STEP_PARK. -/
def execStepPark (c : Fin 24) (w : StepW) (s : State) : Host.Outcome State Fault Refusal :=
  .next (stepPure c w 0x37 6 (fun W =>
    let (al, be, co, si) := (W w.a, W (w.a + 1), W w.b, W (w.b + 1))
    let d := rnd w.q (al * co + be * si)
    let q := rnd w.q (be * co - al * si)
    ([(w.d.val, d.1), (w.d.val + 1, q.1)], d.2 ++ q.2)) s)

/-- STEP_IPARK. -/
def execStepIpark (c : Fin 24) (w : StepW) (s : State) : Host.Outcome State Fault Refusal :=
  .next (stepPure c w 0x38 6 (fun W =>
    let (d, q, co, si) := (W w.a, W (w.a + 1), W w.b, W (w.b + 1))
    let al := rnd w.q (d * co - q * si)
    let be := rnd w.q (d * si + q * co)
    ([(w.d.val, al.1), (w.d.val + 1, be.1)], al.2 ++ be.2)) s)

/-- STEP_DECPL: each sum formed exactly, with three fraction parts, and rounded once. -/
def execStepDecpl (c : Fin 24) (w : StepW) (s : State) : Host.Outcome State Fault Refusal :=
  .next (stepPure c w 0x39 10 (fun W =>
    let one : Int := 2 ^ w.q.val
    let (om, lq, ld, psi) := (W w.c, W (w.c + 1), W (w.c + 2), W (w.c + 3))
    let d := rnd (2 * w.q.val) (W w.a * one * one - om * lq * W (w.b + 1))
    let q := rnd (2 * w.q.val) (W (w.a + 1) * one * one + om * (ld * W w.b + psi * one))
    ([(w.d.val, d.1), (w.d.val + 1, q.1)], d.2 ++ q.2)) s)

/-- The result of SVM or SVM3; OVM is bit 1 of CTX_STAT (R111). -/
def svmRes (three : Bool) (w : StepW) (W : Nat → Int) : Res :=
  let r := svm (W w.a) (W (w.a + 1)) (immBits w 0 0 == 1) three
  (r.1.zipIdx.map (fun e => (w.d.val + e.2, e.1)), if r.2 then [1] else [])

/-- STEP_SVM. -/
def execStepSvm (c : Fin 24) (w : StepW) (s : State) : Host.Outcome State Fault Refusal :=
  .next (stepPure c w 0x3A 24 (svmRes false w) s)

/-- STEP_SVM3. -/
def execStepSvm3 (c : Fin 24) (w : StepW) (s : State) : Host.Outcome State Fault Refusal :=
  .next (stepPure c w 0x3B 32 (svmRes true w) s)

/-- STEP_SPDMT (R109): a time of zero or less gives 0 and sets DIVZ, bit 8. -/
def execStepSpdmt (c : Fin 24) (w : StepW) (s : State) : Host.Outcome State Fault Refusal :=
  .next (stepPure c w 0x3C 14 (fun W =>
    let u (x : Nat) : Int := word (W x)
    let dp := sint (word (W w.a - W w.b))
    let dt := u (w.b + 2) + u (w.b + 1) - u (w.a + 1)
    let v : Val := if dt ≤ 0 then (0, [8]) else if dp = 0 then (0, []) else sat32 (tdiv (dp * 2 ^ w.q.val) dt)
    ([(w.d.val, v.1), (w.b.val, W w.a), (w.b.val + 1, W (w.a + 1))], v.2)) s)

/-- STEP_ANGLE: the low 32 bits, with no rounding or saturation. -/
def execStepAngle (c : Fin 24) (w : StepW) (s : State) : Host.Outcome State Fault Refusal :=
  .next (stepPure c w 0x3D 3 (fun W => putv w.d (sint (word (W w.a * W w.b + W w.c)))) s)

/-- STEP_SYNC: the run waits until cycle IMM[11:0]. -/
def execStepSync (c : Fin 24) (w : StepW) (s : State) : Host.Outcome State Fault Refusal :=
  match (eng c.val s).run with
  | none => .next s
  | some r => .next (stepDo c w 0x3F (max 1 (immBits w 11 0 - r.cycle)) (fun _ t => t) s)

/-! ### Inserting the loop core (R117, R118) -/

/-- Hand the loop core of cluster `c` the routine at `pc`: it begins in core cycle `at_`. A LOCKED or unstarted core runs nothing
(R118, R256); one that still runs a routine whose budget ran out is taken off it (DESIGN CHOICE, log 79). -/
def handOver (c pc at_ : Nat) (s : State) : State :=
  let h := cpu (loopId c) s
  if h.state != .off && !fbit EXC_STAT_LOCKED (loopId c) s then
    setCpu (loopId c) { h with state := .run, pc := pc, entry := false, free := max h.free at_ } s
  else s

/-- STEP_CORE (R117, R118): refused in CORE_MODE 0; a budget of 0 hands nothing over; otherwise the routine at IMM[15:0] * 4 is
handed to the loop core, and the run waits for it. -/
def execStepCore (c : Fin 24) (w : StepW) (s : State) : Host.Outcome State Fault Refusal :=
  if !fbit LPE_CFG_CORE_MODE c s then .next (stepDo c w 0x3E 10 (fun r t => badOp c.val r t) s)
  else if immBits w 27 16 = 0 then .next (stepDo c w 0x3E 1 (fun _ t => t) s)
  else
    let h := eng c.val s
    match h.run with
    | none => .next s
    | some r =>
      if r.ended || r.core.isSome then .next s
      else
        .next (handOver c.val (immBits w 15 0 * 4) (r.start + r.cycle + 6)
          (setEng c { h with run := some { r with core := some (r.cycle + 6, immBits w 27 16) } } s))

/-- The loop core of cluster `c` waits idle (R117). -/
def idleCore (c : Nat) (s : State) : State := setCpu (loopId c) { cpu (loopId c) s with state := .idle } s

/-- The routine that the run of cluster `c` waits for returns after `n` cycles (R118): the engine resumes 4 cycles after that
write, unless the budget has run out. A return for which no run waits any more leaves the core idle (DESIGN CHOICE, log 79). -/
def coreReturn (c n : Nat) (s : State) : State :=
  let h := eng c s
  match h.run with
  | none => if fbit LPE_CFG_CORE_MODE c s then idleCore c s else s
  | some r =>
    match r.core with
    | none => if fbit LPE_CFG_CORE_MODE c s then idleCore c s else s
    | some (first, budget) =>
      if n > budget then s
      else stepEnd c (first + n + 4 - r.cycle) ((stepWord c r.pc s).testBit 28)
        (setEng c { h with run := some { r with core := none } } (idleCore c s))

/-- LCX_RET_WRITE (R118): the routine of the loop core of cluster `c` writes LCX_RET in its `n`-th cycle. -/
def execLcxRetWrite (c : Fin 24) (n : Nat) (s : State) : Host.Outcome State Fault Refusal :=
  .next (inCluster c (coreReturn c.val n) s)

/-- CORE_BUDGET_EXPIRY (R118): the budget of the routine runs out; the run ends there with CUT and BUDGET, bit 7 of CTX_STAT, the
core is sent a fault event and LPE_BUDGET is reported. -/
def budgetExpiry (c : Nat) (s : State) : State :=
  match (eng c s).run with
  | none => s
  | some r =>
    match r.core with
    | none => s
    | some (first, budget) =>
      let g := runCtx c r
      let cyc := first + budget
      sendFault (loopId c) (csrc c 7) (report (csrc c 7) g cyc (endRun c (r.start + cyc) true (setCtxStat g 7 s)))

/-- CORE_BUDGET_EXPIRY (R118). -/
def execCoreBudgetExpiry (c : Fin 24) (s : State) : Host.Outcome State Fault Refusal := .next (budgetExpiry c.val s)

/-- CORE_MODE has changed: in mode 1 a started core waits idle for CORE steps; on a change to 0 it goes on from where it waits (R117;
DESIGN CHOICE, log 79). -/
def coreModeOn (c : Nat) (s : State) : State :=
  let h := cpu (loopId c) s
  if fbit LPE_CFG_CORE_MODE c s then (if h.state = .off then s else idleCore c s)
  else if h.state = .idle then setCpu (loopId c) { h with state := .run } s
  else s

/-- LPE_CFG.CORE_MODE accepts a change only while the region is STOPPED (R104). -/
def coreModeWrite (c v : Nat) (s : State) : State :=
  if fget LPE_CFG_CORE_MODE c s = bits v 0 0 then s
  else if regionStopped (c / 6) s then coreModeOn c (fset LPE_CFG_CORE_MODE c (bits v 0 0) s)
  else fon LPE_STAT_CFG_REFUSED c s

end Sys2Proof.Machine
end

