-- ==== Sys2Proof/Machine/Caps.lean ====
section
/-! DEFINITION. Capabilities: their fields, the checks of an access, deriving and sealing (R235 to R241). -/

namespace Sys2Proof.Machine

open Sys2Proof

/-! ### Fields (R235) -/

def Cap.base (k : Cap) : Nat := (k.v.extractLsb 31 0).toNat
def Cap.length (k : Cap) : Nat := (k.v.extractLsb 64 32).toNat
def Cap.perms (k : Cap) : Nat := (k.v.extractLsb 95 80).toNat
def Cap.otype (k : Cap) : Nat := (k.v.extractLsb 119 96).toNat
def Cap.sealed (k : Cap) : Bool := k.v.getLsbD 120
def Cap.kind (k : Cap) : Nat := (k.v.extractLsb 122 121).toNat

/-- The reserved bits of a capability word are zero. -/
def Cap.reservedZero (k : Cap) : Bool := k.v.extractLsb 79 65 == 0 && k.v.extractLsb 127 123 == 0

/-- A capability word from its fields. -/
def mkCap (base length perms otype : Nat) (sealed : Bool) (kind : Nat) (tag : Bool) : Cap :=
  ⟨BitVec.ofNat 128 (base % 2 ^ 32 + 2 ^ 32 * (length % 2 ^ 33) + 2 ^ 80 * (perms % 2 ^ 16) + 2 ^ 96 * (otype % 2 ^ 24)
    + 2 ^ 120 * sealed.toNat + 2 ^ 121 * (kind % 4)), tag⟩

/-- The capability with other base and length; with other permissions. -/
def Cap.withRange (k : Cap) (base length : Nat) : Cap :=
  ⟨(k.v &&& 0xFFFFFFFF_FFFFFFFE_00000000_00000000) ||| BitVec.ofNat 128 (base % 2 ^ 32 + 2 ^ 32 * (length % 2 ^ 33)), k.tag⟩
def Cap.withPerms (k : Cap) (p : Nat) : Cap :=
  ⟨(k.v &&& 0xFFFFFFFF_0000FFFF_FFFFFFFF_FFFFFFFF) ||| BitVec.ofNat 128 (2 ^ 80 * (p % 2 ^ 16)), k.tag⟩

/-- The capability with another object type, sealed or not, and another tag. -/
def Cap.withSeal (k : Cap) (otype : Nat) (sealed tag : Bool) : Cap :=
  ⟨(k.v &&& 0xFE000000_FFFFFFFF_FFFFFFFF_FFFFFFFF) ||| BitVec.ofNat 128 (2 ^ 96 * (otype % 2 ^ 24) + 2 ^ 120 * sealed.toNat), tag⟩

/-- The capability without its tag. -/
def Cap.untagged (k : Cap) : Cap := { k with tag := false }

/-- What makes a capability valid (R236). -/
def Cap.valid (k : Cap) : Bool :=
  k.reservedZero && (k.sealed || k.otype == 0)
    && (match k.kind with
      | 0 => decide (k.base + k.length ≤ 2 ^ 32)
      | 1 => decide (k.base + k.length ≤ 2 ^ 20)
      | 2 => decide (k.base + k.length ≤ 2 ^ 24)
      | _ => false)

/-! ### Permissions (R239) -/

def permLD : Nat := 0
def permST : Nat := 1
def permX : Nat := 2
def permLDC : Nat := 3
def permSTC : Nat := 4
def permSEAL : Nat := 5
def permUNSEAL : Nat := 6
def permREG : Nat := 7
def permFABRIC : Nat := 8
def permRSTOP : Nat := 9
def permPOWER : Nat := 10
def permFAULTCFG : Nat := 11
def permBIST : Nat := 12

/-- The capability holds permission `p`. -/
def Cap.has (k : Cap) (p : Nat) : Bool := k.perms.testBit p

/-- The `n` bytes or bits from `a` on lie within the capability. -/
def Cap.covers (k : Cap) (a n : Nat) : Bool := decide (k.base ≤ a) && decide (a + n ≤ k.base + k.length)

/-- An address of the device blocks whose access needs REG: the registers and their memories, the loop-core memories and the refuge
SRAMs apart (R239, R276, R277, R253). -/
def isRegister (a : Nat) : Bool :=
  decide (0x40000000 ≤ a) && decide (a < 0x60000000)
    && !(decide (0x4A000000 ≤ a) && decide (a < 0x4A700000)) && !(decide (0x47800000 ≤ a) && decide (a < 0x47900000))

/-- A range of `n` bytes from `a` on has a byte of the area from `lo` to below `hi`. -/
def meets (a n lo hi : Nat) : Bool := n != 0 && decide (a < hi) && decide (lo < a + n)

/-- A byte of a range lies in the device blocks whose access needs REG. -/
def touchesRegister (a n : Nat) : Bool :=
  meets a n 0x40000000 0x47800000 || meets a n 0x47900000 0x4A000000 || meets a n 0x4A700000 0x60000000

/-- The authority bits that a write of `n` bytes from `a` on into the device blocks needs beside REG (R239): FABRIC, RSTOP, POWER, FAULTCFG,
BIST. A write of part of a word needs what the word needs. -/
def authorities (a n : Nat) : List Nat :=
  (if meets a n 0x45000000 0x45008100 then [permFABRIC] else [])
    ++ (if [0x45008100, 0x45008110, 0x45008120, 0x45008130].any (fun r => meets a n r (r + 4)) then [permRSTOP] else [])
    ++ (if meets a n 0x4E100000 0x4E200000 then [permPOWER] else [])
    ++ (if meets a n 0x4E000080 0x4E000088 || meets a n 0x4E000800 0x4E001000 then [permFAULTCFG] else [])
    ++ (if meets a n 0x4E200200 0x4E200204 then [permBIST] else [])

/-- A write of `n` bytes at `a` under capability `k` meets an image slot without FABRIC: it passes the checks of R238, which ask for an
authority only at a device register, and is a bus error of the store (R239, R392). -/
def slotDenied (k : Cap) (a n : Nat) : Bool := meets a n 0x10000000 0x11000000 && !k.has permFABRIC

/-- The checks of R238 on an access of `n` bytes at `a` under capability `k`, which needs the permissions `ps`; the detail code of the
first that fails. Check 7 is made with the access. -/
def capCheck (k : Cap) (ps : List Nat) (a n : Nat) (write : Bool) : Option Nat :=
  if !k.tag then some 1
  else if k.sealed then some 2
  else if k.kind ≠ 0 then some 3
  else if !ps.all k.has then some 4
  else if !k.covers a n then some 5
  else if (touchesRegister a n && !k.has permREG) || (write && !(authorities a n).all k.has) then some 6
  else none

/-- The checks of R238 on an access to `n` bits of the bit space from bit `b` on. -/
def capCheckBit (k : Cap) (ps : List Nat) (b n : Nat) : Option Nat :=
  if !k.tag then some 1
  else if k.sealed then some 2
  else if k.kind ≠ 1 then some 3
  else if !ps.all k.has then some 4
  else if !k.covers b n then some 5
  else none

end Sys2Proof.Machine
end

