-- ==== Sys2Proof/Machine/Pixels.lean ====
section
/-! DEFINITION. Pixel formats, conversion and the blend; rectangles in memory; the block engine (R317 to R325, R335). -/

namespace Sys2Proof.Machine

open Sys2Proof

/-! ### Colour (R303, R317, R319, R335) -/

/-- An ARGB8888 colour from its channels. -/
def argb (a r g b : Nat) : Nat := 2 ^ 24 * a + 2 ^ 16 * r + 2 ^ 8 * g + b

/-- The bytes of a pixel of format 0 to 3; an invalid format has one. -/
def fmtBytes : Nat → Nat
  | 1 => 2
  | 2 => 3
  | 3 => 4
  | _ => 1

/-- The alignment of address and PITCH in a format. -/
def fmtAlign : Nat → Nat
  | 1 => 2
  | 3 => 4
  | _ => 1

/-- 5 bits to 8, 6 bits to 8, and back (R319). -/
def expand5 (v : Nat) : Nat := v * 8 + v / 4
def expand6 (v : Nat) : Nat := v * 4 + v / 16
def reduce5 (v : Nat) : Nat := (v * 31 + 127) / 255
def reduce6 (v : Nat) : Nat := (v * 63 + 127) / 255

/-- A pixel of a format as ARGB8888; an index takes its colour from `pal`. -/
def toArgb (fmt : Nat) (pal : Nat → Nat) (p : Nat) : Nat :=
  match fmt with
  | 0 => pal (p % 256)
  | 1 => argb 255 (expand5 (bits p 15 11)) (expand6 (bits p 10 5)) (expand5 (bits p 4 0))
  | 2 => argb 255 (bits p 23 16) (bits p 15 8) (bits p 7 0)
  | _ => p

/-- ARGB8888 as a pixel of a format; for an I8 destination the low byte. -/
def ofArgb (fmt c : Nat) : Nat :=
  match fmt with
  | 0 => c % 256
  | 1 => 2 ^ 11 * reduce5 (bits c 23 16) + 2 ^ 5 * reduce6 (bits c 15 8) + reduce5 (bits c 7 0)
  | 2 => c % 2 ^ 24
  | _ => c

/-- One channel laid over another (R335). -/
def blendChannel (s a d : Nat) : Nat :=
  let t := s * a + d * (255 - a) + 128
  (t + t / 256) / 256

/-- The product of two alphas, rounded (R335). -/
def mulAlpha (a b : Nat) : Nat :=
  let t := a * b + 128
  (t + t / 256) / 256

/-- A source pixel laid over a destination pixel, both ARGB8888: the colour channels, and the result alpha of a BLEND (R335). -/
def blend (s d : Nat) : Nat :=
  let a := bits s 31 24
  argb (a + mulAlpha (bits d 31 24) (255 - a)) (blendChannel (bits s 23 16) a (bits d 23 16))
    (blendChannel (bits s 15 8) a (bits d 15 8)) (blendChannel (bits s 7 0) a (bits d 7 0))

/-! ### Memories -/

/-- `n` bytes from address `a` on lie wholly within DRAM; general SRAM; frame SRAM (R274). -/
def inDram (a n : Nat) : Bool := decide (0x80000000 ≤ a) && decide (a + n ≤ 2 ^ 32)
def inSram (a n : Nat) : Bool := decide (0x20000000 ≤ a) && decide (a + n ≤ 0x20800000)
def inFrame (a n : Nat) : Bool := decide (0x30000000 ≤ a) && decide (a + n ≤ 0x30C00000)

/-- The bytes from the first to the last of a rectangle. -/
def rectBytes (pitch w h bpp : Nat) : Nat := if h = 0 ∨ w = 0 then 0 else pitch * (h - 1) + w * bpp

/-- The number that the `n` bytes from address `a` on are, the lowest address least significant. -/
def spaceBytes (a : Nat) : Nat → State → Nat
  | 0, _ => 0
  | n + 1, s => (mget (flat a s) s).toNat + 256 * spaceBytes (a + 1) n s

/-- Read a row of `n` pixels of `bpp` bytes from address `a` on, in whole 64-byte blocks (R320); `none` where one meets an uncorrectable
error. -/
def readPixels (bpp n a : Nat) (s : State) : Option (List Nat) × State :=
  let blocks := (chunks 64 a (n * bpp)).map (fun p => p.1 / 64 * 64)
  match checkWords (blocks.flatMap (fun b => wordsOf (flat b s) 64)) 0x80 s with
  | (true, t) => (some ((List.range n).map (fun i => spaceBytes (a + i * bpp) bpp t)), t)
  | (false, t) => (none, t)

/-- The bytes of a row that are written, in runs: address, number of bytes, value; `none` leaves a pixel as it is. -/
def pixelRuns (bpp : Nat) : List (Option Nat) → Nat → List (Nat × Nat × Nat)
  | [], _ => []
  | none :: ps, a => pixelRuns bpp ps (a + bpp)
  | some v :: ps, a =>
    let v := v % 2 ^ (8 * bpp)
    match pixelRuns bpp ps (a + bpp) with
    | (b, n, w) :: rs => if b = a + bpp then (a, n + bpp, v + 2 ^ (8 * bpp) * w) :: rs else (a, bpp, v) :: (b, n, w) :: rs
    | [] => [(a, bpp, v)]

/-- The writes of a row in turn: address, number of bytes, value. False where one fails. -/
def writeRuns : List (Nat × Nat × Nat) → State → Bool × State
  | [], s => (true, s)
  | (a, n, v) :: rs, s =>
    match writeMem (flat a s) n v 0x80 s with
    | (true, s) => writeRuns rs s
    | (false, s) => (false, s)

/-- Write the pixels of a row in 64-byte blocks with byte enables; `none` leaves a pixel as it is (R320). False where a write fails. -/
def writePixels (bpp : Nat) (ps : List (Option Nat)) (a : Nat) (s : State) : Bool × State :=
  writeRuns ((pixelRuns bpp ps a).flatMap (fun r =>
    (chunks 64 r.1 r.2.1).map (fun c => (c.1, c.2, r.2.2 / 2 ^ (8 * (c.1 - r.1)) % 2 ^ (8 * c.2))))) s

/-! ### The block engine (R317 to R324) -/

/-- The committed value of field `f` of group DISP (R301). -/
def committed (f : Fld) (u : Nat) (s : State) : Nat := sget f.rst (sget [] s.disp f.id) u

def beOp (s : State) : Nat := fget BE_OP_OP 0 s
def beSfmt (s : State) : Nat := fget BE_OP_SFMT 0 s
def beDfmt (s : State) : Nat := fget BE_OP_DFMT 0 s

/-- The source and the destination rectangle in bytes. -/
def beSrcBytes (s : State) : Nat := rectBytes (fget BE_SPITCH_PITCH 0 s) (fget BE_SIZE_W 0 s) (fget BE_SIZE_H 0 s) (fmtBytes (beSfmt s))
def beDstBytes (s : State) : Nat := rectBytes (fget BE_DPITCH_PITCH 0 s) (fget BE_SIZE_W 0 s) (fget BE_SIZE_H 0 s) (fmtBytes (beDfmt s))

/-- A rectangle's address or PITCH is misaligned, or its PITCH too small (R317). -/
def rectMisaligned (a pitch fmt w h : Nat) : Bool :=
  a % fmtAlign fmt != 0 || (h != 1 && (pitch % fmtAlign fmt != 0 || decide (pitch < w * fmtBytes fmt)))

/-- The checks of R323, in order; 0 where all pass. -/
def beCheck (s : State) : Nat :=
  let op := beOp s
  let src := op != 1
  let a := fget BE_SRC_ADDR 0 s
  let d := fget BE_DST_ADDR 0 s
  let w := fget BE_SIZE_W 0 s
  let h := fget BE_SIZE_H 0 s
  if (src && (capCheck (slotCap BE_SCAP_CAP 0 s) [permLD] a (beSrcBytes s) false).isSome)
      || (capCheck (slotCap BE_DCAP_CAP 0 s) [permST] d (beDstBytes s) true).isSome then 1
  else if decide (3 < op) || decide (3 < beDfmt s) || (src && decide (3 < beSfmt s))
      || (src && beDfmt s == 0 && (beSfmt s != 0 || op == 3)) then 2
  else if (src && rectMisaligned a (fget BE_SPITCH_PITCH 0 s) (beSfmt s) w h) || rectMisaligned d (fget BE_DPITCH_PITCH 0 s) (beDfmt s) w h then 3
  else if (src && !(inDram a (beSrcBytes s) || inSram a (beSrcBytes s) || inFrame a (beSrcBytes s)))
      || !(inDram d (beDstBytes s) || inSram d (beDstBytes s) || inFrame d (beDstBytes s)) then 4
  else 0

/-- The operation ends in this dot with error code `code`, or well with 0 (R324, R325). -/
def beEnd (code : Nat) (s : State) : State :=
  let s := foff BE_STAT_BUSY 0 { s with be := .idle }
  let s := if code = 0 then s else report 0x118 0 0 (fon BE_STAT_ERR 0 (fset BE_STAT_ERRCODE 0 code s))
  arrive 0x180 (2 ^ 8 * code) s

/-- BE_CTRL.START (R323): refused while BUSY; a rectangle of no pixels completes at once; a failed check stops at once. -/
def beStart (s : State) : State :=
  if fbit BE_STAT_BUSY 0 s then fon BE_STAT_CFG_REFUSED 0 s
  else
    let s := fon BE_STAT_BUSY 0 (foff BE_ROWS_ROWS 0 s)
    if fget BE_SIZE_W 0 s = 0 ∨ fget BE_SIZE_H 0 s = 0 then beEnd 0 s
    else if beCheck s ≠ 0 then beEnd (beCheck s) s
    else { s with be := .work }

/-- What operation `op` makes of a source and a destination pixel: `none` leaves the destination as it is (R318). -/
def bePixel (op : Nat) (s : State) (p q : Nat) : Option Nat :=
  let sf := beSfmt s
  let df := beDfmt s
  let pal (i : Nat) : Nat := committed LAN_PAL_ARGB (256 * fget BE_OP_PAL 0 s + i) s
  let conv (x : Nat) : Nat := if sf = df then x else ofArgb df (toArgb sf pal x)
  match op with
  | 1 => some (ofArgb df (fget BE_COLOUR_COLOUR 0 s))
  | 2 => if (p &&& fget BE_KMASK_MASK 0 s) = (fget BE_KEY_KEY 0 s &&& fget BE_KMASK_MASK 0 s) % 2 ^ (8 * fmtBytes sf) then none else some (conv p)
  | 3 => some (ofArgb df (blend (toArgb sf pal p) (toArgb df pal q)))
  | _ => some (conv p)

/-- One row: the source and, for BLEND, the destination are read before any byte is written (R321). The answer is 0, or the code of the
bus error. -/
def beRow (op r : Nat) (s : State) : Nat × State :=
  let w := fget BE_SIZE_W 0 s
  let sb := fmtBytes (beSfmt s)
  let db := fmtBytes (beDfmt s)
  let a := fget BE_SRC_ADDR 0 s + r * fget BE_SPITCH_PITCH 0 s
  let d := fget BE_DST_ADDR 0 s + r * fget BE_DPITCH_PITCH 0 s
  match (if op = 1 then (some (List.replicate w 0), s) else readPixels sb w a s) with
  | (none, s) => (5, s)
  | (some ps, s) =>
    match (if op = 3 then readPixels db w d s else (some (List.replicate w 0), s)) with
    | (none, s) => (5, s)
    | (some qs, s) =>
      match writePixels db ((ps.zip qs).map (fun x => bePixel op s x.1 x.2)) d s with
      | (true, s) => (0, s)
      | (false, s) => (6, s)

/-- Rows in the engine's order, until one meets an error (R321, R324). -/
def beRows (op : Nat) : List Nat → State → State
  | [], s => { s with be := .done }
  | r :: rs, s =>
    match beRow op r s with
    | (0, s) => beRows op rs (fadd BE_ROWS_ROWS 0 1 s)
    | (code, s) => { s with be := .failed code 0 }

/-- The rows in order: the top one first, or the bottom one with YDIR. -/
def rowOrder (s : State) : List Nat :=
  let rs := List.range (fget BE_SIZE_H 0 s)
  if fbit BE_OP_YDIR 0 s then rs.reverse else rs

/-- The block engine carries out operation `op`, when that is the one started. -/
def beRun (op : Nat) (s : State) : State := if s.be = .work ∧ beOp s = op then beRows op (rowOrder s) s else s

/-- BE_COPY (R318, R319, R321). -/
def execBeCopy (s : State) : Host.Outcome State Fault Refusal := .next (beRun 0 s)

/-- BE_FILL (R318). -/
def execBeFill (s : State) : Host.Outcome State Fault Refusal := .next (beRun 1 s)

/-- BE_KEY (R318). -/
def execBeKey (s : State) : Host.Outcome State Fault Refusal := .next (beRun 2 s)

/-- BE_BLEND (R318, R335). -/
def execBeBlend (s : State) : Host.Outcome State Fault Refusal := .next (beRun 3 s)

/-- BE_COMPLETE (R324): every write of the operation has been performed. -/
def execBeComplete (s : State) : Host.Outcome State Fault Refusal := if s.be = .done then .next (beEnd 0 s) else .next s

/-- BE_ERROR_STOP (R324): the error that the operation met, or a bus error of the target on a read or a write after `rows` rows. -/
def execBeErrorStop (write : Bool) (rows : Nat) (s : State) : Host.Outcome State Fault Refusal :=
  match s.be with
  | .failed code _ => .next (beEnd code s)
  | .work =>
    let t := beRows (beOp s) ((rowOrder s).take rows) s
    match t.be with
    | .failed code _ => .next (beEnd code t)
    | _ => .next (beEnd (if write then 6 else 5) t)
  | _ => .next s

end Sys2Proof.Machine
end

