-- ==== Sys2Proof/Machine/Audio.lean ====
section
/-! DEFINITION. The audio block: voices, taps, TDM ports, biquads, crosspoint, meters, converting ports (R352 to R370). -/

namespace Sys2Proof.Machine

open Sys2Proof

/-! ### Numbers (R354) -/

/-- Saturation to a signed 24-bit sample. -/
def sat24 (x : Int) : Int := max (-2 ^ 23) (min (2 ^ 23 - 1) x)

/-- A sample as 24 bits, and back. -/
def sample24 (x : Int) : Nat := (BitVec.ofInt 24 x).toNat
def sampleInt (n : Nat) : Int := (BitVec.ofNat 24 n).toInt

/-- The voice `v` beside its registers. -/
def voice (v : Nat) (s : State) : VoiceH := sget VoiceH.init s.aud.voices v

/-- Voice `v` becomes `h`. -/
def setVoice (v : Nat) (h : VoiceH) (s : State) : State :=
  { s with aud := { s.aud with voices := sset VoiceH.init s.aud.voices v h } }

/-- The audio sample period in dots (R352). -/
def audioPeriod (s : State) : Nat := dotsEff s * fget SWP_GEOM_EFF1_K 0 s

/-- The block runs (R352). -/
def audioRuns (s : State) : Bool := fbit AUD_CTRL_EN 0 s && decide (2000 ≤ audioPeriod s)

/-- A sample strobe falls in the present dot and has not been taken: dot 0 of a line whose count since the audio phase origin is a multiple
of K (R31). -/
def strobeDue (s : State) : Bool :=
  s.pos.dot == 0 && s.swp.originLines % fget SWP_GEOM_EFF1_K 0 s == 0 && s.aud.strobe != some s.time

/-- The settings that act between strobes, as they govern from the strobe of the present dot on (R353). -/
def audioSettings (s : State) : SMap (SMap Nat) :=
  [AUD_CTRL_EN, MTR_CFG_EVT, MTR_CFG_SOFT, MTR_CFG_SOFT_EN, TDM_CFG_MODE].foldl (fun m F => sset [] m F.id (sget [] s.regs F.id)) []

/-- A setting as it governs the sample in progress (R353). -/
def agov (F : Fld) (u : Nat) (s : State) : Nat := sget F.rst (sget [] s.aud.gov F.id) u

/-- The TDM slots of a frame (R358). -/
def tdmSlots (s : State) : Nat := min 8 (audioPeriod s / 1000)

/-! ### Voices (R356, R357) -/

/-- The waveform value of waves 0 to 3. -/
def waveform (v wave : Nat) (h : VoiceH) (s : State) : Int :=
  match wave with
  | 0 => if h.phase / 2 ^ 16 < fget VC_DUTY_DUTY v s then 2 ^ 23 - 1 else -2 ^ 23
  | 1 => max (-2 ^ 23) (2 ^ 23 - 1 - 2 * (((h.phase / 2 ^ 8 : Nat) : Int) - 2 ^ 23).natAbs)
  | 2 => if h.noise % 2 = 1 then 2 ^ 23 - 1 else -2 ^ 23
  | _ =>
    let k := h.phase / 2 ^ 27
    let b := fget VC_WT_STEPS (8 * v + k / 4) s / 2 ^ (8 * (k % 4)) % 256
    (BitVec.ofNat 8 b).toInt * 2 ^ 16

/-- The noise register shifts: the feedback of x^23 + x^18 + 1 enters at bit 0. -/
def shiftNoise (n : Nat) : Nat := n * 2 % 2 ^ 23 + (n.testBit 22 ^^ n.testBit 17).toNat

/-- The waveform value under VC_AMP. -/
def amplify (v : Nat) (w : Int) (s : State) : Int := sat24 (roundQ 15 (w * (BitVec.ofNat 16 (fget VC_AMP_AMP v s)).toInt))

/-- One sample of voice `v`: its value, its new state, whether it ends, whether a PCM sample was late. -/
def voiceSample (v : Nat) (s : State) : Int × VoiceH × Bool × Bool :=
  let h := voice v s
  let h := if h.start then { h with phase := 0, noise := 1, pos := 0, start := false } else h
  let step := h.phase + fget VC_FREQ_FREQ v s
  let moved := { h with phase := step % 2 ^ 32, noise := if 2 ^ 32 ≤ step then shiftNoise h.noise else h.noise }
  if !fbit VC_CFG_EN v s then (0, h, false, false)
  else if fget VC_CFG_WAVE v s = 4 then
    let len := fget VC_PCM_LEN_LEN v s
    let past := decide (len ≤ h.pos / 2 ^ 16)
    let loop := fbit VC_CFG_LOOP v s && decide (fget VC_PCM_LOOP_START v s < len)
    if past && !loop then (0, moved, true, false)
    else
      let pos := if past then h.pos - (len - fget VC_PCM_LOOP_START v s) * 2 ^ 16 else h.pos
      let got := h.buf.find? (fun e => e.1 == pos / 2 ^ 16)
      let w : Int := match got with
        | some e => (BitVec.ofNat 16 e.2).toInt * 2 ^ 8
        | none => 0
      (amplify v w s, { moved with pos := pos + fget VC_FREQ_FREQ v s }, false, got.isNone)
  else (amplify v (waveform v (fget VC_CFG_WAVE v s) h s) s, moved, false, false)

/-- A voice ends: EN clears, unless it has been set anew since, ENDED is set, event 0x1AE arrives; after a failed read ERR is set and
AUD_PCM reported (R357, R370). -/
def voiceEnd (v : Nat) (err : Bool) (s : State) : State :=
  let s := { s with aud := { s.aud with next := { s.aud.next with ends := s.aud.next.ends.filter (fun e => e != v) } } }
  let s := fon VC_STAT_ENDED v (if (voice v s).start then s else foff VC_CFG_EN v (foff VC_STAT_ACTIVE v s))
  let s := onlyIf err (fun t => report 0x121 0 0 (fon VC_STAT_ERR v t)) s
  arrive 0x1AE (2 ^ 8 * err.toNat + v) s

/-- PCM_READ_FAIL (R357): a prefetch read of a sounding PCM voice fails. -/
def execPcmReadFail (v : Fin 32) (s : State) : Host.Outcome State Fault Refusal :=
  if fbit VC_CFG_EN v s && fget VC_CFG_WAVE v s == 4 then .next (voiceEnd v true s) else .next s

/-! ### Inputs (R355, R358 to R360, R368) -/

/-- What tap `t` takes in this dot: what was written or latched before it (R360). -/
def tapSample (t : Nat) (s : State) : Int :=
  if fbit TAP_CFG_EN t s then
    let n := fget TAP_CFG_CTX t s
    let w := fget TAP_CFG_WORD t s
    let v := if fbit TAP_CFG_TYPE t s then (if w % 2 = 0 then fbefore SDF_RES0_R n s else fbefore SDF_RES1_R n s)
      else sget 0 s.ctx0 (64 * n + w)
    sat24 (rnd (fget TAP_CFG_SHIFT t s) (sint v)).1
  else 0

/-- The slots below `k` of the frame that ends in the present dot, `n` dots after it began, have been received in full (R358, R367). -/
def slotWhole (k n : Nat) : Bool := decide (1000 * (k + 1) ≤ n)

/-- What slot `k` of port `p` gives: the slot that a master port has received in full in the frame that ends, `n` dots long, if it was a
master in it too and DIN is on its pin (R453); a converting port's sample while it is locked; else 0 (R358, R359, R367, R368). -/
def tdmInput (din : List (BitVec 24)) (n p k : Nat) (s : State) : Int :=
  match fget TDM_CFG_MODE p s with
  | 1 => if agov TDM_CFG_MODE p s == 1 && pinCarries (146 + 4 * p) 0x10 s && decide (k < 8) && slotWhole k n then sampleInt ((din[8 * p + k]?).getD 0).toNat else 0
  | 2 => if fbit TDM_STAT_LOCKED p s then sampleInt (sget 0 (sget AsrcH.init s.aud.asrc p).inputs k) else 0
  | _ => 0

/-- Input `i` before its filters, the voices' samples given. -/
def inputSample (din : List (BitVec 24)) (n : Nat) (voices : List Int) (i : Nat) (s : State) : Int :=
  if i < 32 then (voices[i]?).getD 0 else if i < 64 then tdmInput din n ((i - 32) / 8) (i % 8) s else tapSample (i - 64) s

/-! ### Biquads (R363) -/

/-- One stage: the output and the stage states that follow. -/
def bqStage (i j : Nat) (x : Int) (s : State) : Int × State :=
  let u := 4 * i + j
  let c (f : Fld) : Int := sint (fget f u s)
  let st (k : Nat) : Int := sint (sget 0 s.aud.biq (2 * u + k))
  let r := biquad 30 x (c BQ_B0_COEF_E) (c BQ_B1_COEF_E) (c BQ_B2_COEF_E) (c BQ_A1_COEF_E) (c BQ_A2_COEF_E) (st 0) (st 1)
  (r.1.1, { s with aud := { s.aud with biq := sset 0 (sset 0 s.aud.biq (2 * u) (word r.2.1.1)) (2 * u + 1) (word r.2.2.1) } })

/-- The four stages of input `i`. -/
def bqInput (i : Nat) (x : Int) (s : State) : Int × State :=
  let (y, s) := (List.range 4).foldl (fun (a : Int × State) j => bqStage i j a.1 a.2) (x * 2 ^ 8, s)
  (sat24 (rnd 8 y).1, s)

/-- Group AQ of input `i` is committed; the stage states of input `i` become 0. -/
def bqCommit (i : Nat) (s : State) : State :=
  forAll [(BQ_B0_COEF, BQ_B0_COEF_E), (BQ_B1_COEF, BQ_B1_COEF_E), (BQ_B2_COEF, BQ_B2_COEF_E), (BQ_A1_COEF, BQ_A1_COEF_E),
    (BQ_A2_COEF, BQ_A2_COEF_E)] (fun f t => forAll (List.range 4) (fun j t => fset f.2 (4 * i + j) (fget f.1 (4 * i + j) t) t) t) s
def bqClear (i : Nat) (s : State) : State :=
  { s with aud := { s.aud with biq := s.aud.biq.filter (fun e => decide (e.1 / 8 ≠ i)) } }

/-- IN_CTRL_COMMIT, IN_CTRL_CLEAR (R353, R363): they act from the next sample to begin; in the dot of a strobe, from the sample after that
strobe's. -/
def execInCtrlCommit (i : Fin 96) (s : State) : Host.Outcome State Fault Refusal :=
  .next (if strobeDue s then later 0 (.audioWrite (0x4D001050 + 0x80 * i.val) 1) s else { s with aud := { s.aud with commits := nput i s.aud.commits } })
def execInCtrlClear (i : Fin 96) (s : State) : Host.Outcome State Fault Refusal :=
  .next (if strobeDue s then later 0 (.audioWrite (0x4D001050 + 0x80 * i.val) 2) s else { s with aud := { s.aud with clears := nput i s.aud.clears } })

/-! ### The crosspoint (R361, R362) -/

/-- The factor of a code: 10 to the (c - 231) / 40, times 2^22, rounded; the greatest g with (2g - 1)^40 at most 2^920 times
10^(c - 231), found bit by bit. -/
def gainBits (c : Nat) : Nat → Nat → Nat
  | 0, g => g
  | b + 1, g =>
    let g' := g + 2 ^ b
    gainBits c b (if (2 * g' - 1) ^ 40 * 10 ^ (231 - c) ≤ 2 ^ 920 * 10 ^ (c - 231) then g' else g)

/-- G(c). -/
def gain (c : Nat) : Nat := if c = 0 then 0 else gainBits c 25 0

/-- Node `k` steps in the sample that begins: a new target restarts the ramp, and a step of 0 ends it at once. -/
def nodeStep (k : Nat) (s : State) : State :=
  let step := fget AUD_RAMP_STEP 0 s
  let target := fget XP_NODE_TARGET k s
  let cur := sget 0 s.aud.codes k
  let left := if s.aud.kicked.contains k then 0 else sget 0 s.aud.steps k
  if cur = target then { s with aud := { s.aud with steps := sset 0 s.aud.steps k 0 } }
  else if left = 0 then
    let cur := if step = 0 then target else if cur < target then cur + 1 else cur - 1
    { s with aud := { s.aud with codes := sset 0 s.aud.codes k cur, steps := sset 0 s.aud.steps k (step - 1) } }
  else { s with aud := { s.aud with steps := sset 0 s.aud.steps k (left - 1) } }

/-- The nodes whose target differs from their current code, or that have a code. -/
def nodesLive (s : State) : List Nat :=
  (((sget [] s.regs XP_NODE_TARGET.id).map Prod.fst) ++ s.aud.codes.map Prod.fst).foldl (fun m k => nput k m) []

/-- Output `o` of the sample: the exact sum, and whether it saturates. -/
def crosspoint (o : Nat) (xs : List Int) (s : State) : Int × Bool :=
  let sum := (s.aud.codes.filter (fun e => e.1 % 40 == o)).foldl (fun (n : Int) e => n + (xs[e.1 / 40]?).getD 0 * (gain e.2 : Int)) 0
  let y := roundQ 22 sum
  (sat24 y, decide (sat24 y ≠ y))

/-! ### Meters (R364, R365) -/

/-- The fields of meter `m` that sample `x` changes, and its hold counter. -/
def meterSample (m : Nat) (x : Int) (s : State) : List (Fld × Nat × Nat) × State :=
  let a := x.natAbs
  let ms : Int := fget MTR_MS_MS m s
  let ms' := (min (ms + (((a * a / 2 ^ 14 : Nat) : Int) - ms) / 2 ^ fget MTR_CFG_TAU m s) (2 ^ 32 - 1)).toNat
  let peak := fget MTR_PEAK_PEAK m s
  let hold := sget 0 s.aud.hold m
  let decay := fget MTR_CFG_DECAY m s
  let (peak', hold') :=
    if peak ≤ a then (a, 256 * fget MTR_CFG_HOLD m s)
    else if 0 < hold then (peak, hold - 1)
    else (if decay = 0 then a else peak - peak / 2 ^ decay, 0)
  let v := if fbit MTR_CFG_SEL m s then bits peak' 23 8 else Nat.sqrt ms'
  let above := fget MTR_STAT_ABOVE m s
  let above' := if !fbit MTR_CFG_THR_EN m s then above else if fget MTR_THR_HI m s < v then 1 else if v < fget MTR_THR_LO m s then 0 else above
  ([(MTR_MS_MS, m, ms'), (MTR_RMS_RMS, m, Nat.sqrt ms'), (MTR_PEAK_PEAK, m, peak'), (MTR_STAT_ABOVE, m, above')],
    { s with aud := { s.aud with hold := sset 0 s.aud.hold m hold' } })

/-! ### The sample (R352, R353) -/

/-- The soft levels that meters drive, by the settings that govern the sample in progress (R365). -/
def softLevels (s : State) : List Nat :=
  ((List.range 104).filter (fun m => agov MTR_CFG_SOFT_EN m s == 1 && fbit MTR_STAT_ABOVE m s)).map (fun m => agov MTR_CFG_SOFT m s)

/-- The results of the sample that ends take effect in this dot, under the settings that governed it; while the block does not run, the
output slots send zero (R352, R353). -/
def audioPublish (s : State) : State :=
  let r := s.aud.next
  let above (m : Nat) (t : State) : Nat := fget MTR_STAT_ABOVE m t
  let s' := forAll r.fields (fun e t => fset e.1 e.2.1 e.2.2 t) { s with aud := { s.aud with next := AudioOut.none, out := if audioRuns s then r.out else [], took := r.peaks } }
  let s' := forAll r.peaks (fun e t => fset MTR_MAXPK_MAXPK e.1 (max (fget MTR_MAXPK_MAXPK e.1 t) e.2) t) s'
  let s' := forAll r.clips (fun o t => fon AUD_STAT_CLIP 0 (fcount AUD_CLIP_COUNT o 1 t)) s'
  let s' := onlyIf r.late (fon AUD_STAT_PCMLATE 0) s'
  let s' := forAll r.ends (fun v t => voiceEnd v false t) s'
  forAll ((List.range 104).filter (fun m => above m s != above m s'))
    (fun m t => arrive (0x1A0 + agov MTR_CFG_EVT m t) (2 ^ 31 * above m t + m) t) s'

/-- The sample that begins is formed; `din` are the slots that the master ports received in the frame that has ended, `n` dots long. -/
def audioForm (din : List (BitVec 24)) (n : Nat) (s : State) : State :=
  let live := nodesLive s
  let s := forAll s.aud.commits bqCommit s
  let s := forAll s.aud.clears bqClear s
  let s := forAll live nodeStep { s with aud := { s.aud with commits := [], clears := [] } }
  let s := { s with aud := { s.aud with kicked := [] } }
  let vs := (List.range 32).map (fun v => voiceSample v s)
  let s := forAll ((List.range 32).zip vs) (fun e t => setVoice e.1 e.2.2.1 t) s
  let raw := (List.range 96).map (fun i => inputSample din n (vs.map Prod.fst) i s)
  let (xs, s) := ((List.range 96).zip raw).foldl (fun (a : List Int × State) e =>
    let (y, t) := bqInput e.1 e.2 a.2
    (a.1 ++ [y], t)) ([], s)
  let outs := (List.range 40).map (fun o => crosspoint o xs s)
  let measured := xs ++ (outs.drop 32).map Prod.fst
  let (ms, s) := ((List.range 104).zip measured).foldl (fun (a : List (Fld × Nat × Nat) × State) e =>
    let (fs, t) := meterSample e.1 e.2 a.2
    (a.1 ++ fs, t)) ([], s)
  let voiceFields := (List.range 32).flatMap (fun v =>
    [(VC_STAT_POS, v, (voice v s).pos / 2 ^ 16), (VC_STAT_ACTIVE, v, fget VC_CFG_EN v s)])
  { s with aud := { s.aud with next := {
      fields := (List.range 96).map (fun i => (IN_VAL_SAMPLE, i, sample24 ((xs[i]?).getD 0)))
        ++ (List.range 32).map (fun t => (TAP_VAL_SAMPLE, t, sample24 (tapSample t s)))
        ++ live.map (fun k => (XP_NODE_CURRENT, k, sget 0 s.aud.codes k)) ++ voiceFields ++ ms
      peaks := (List.range 104).zip (measured.map Int.natAbs)
      clips := (List.range 40).filter (fun o => ((outs[o]?).map Prod.snd).getD false)
      ends := (List.range 32).filter (fun v => ((vs[v]?).map (fun e => e.2.2.1)).getD false)
      late := vs.any (fun e => e.2.2.2)
      out := (List.range 40).foldl (fun m o => sset 0 m o (sample24 (((outs[o]?).map Prod.fst).getD 0))) [] } } }

/-- LOCKED of port `p` changes: event 0x1AF (R370). -/
def asrcEvent (p : Nat) (s : State) : State := arrive 0x1AF (2 ^ 8 * fget TDM_STAT_LOCKED p s + p) s

/-- The converter of port `p` begins anew: LOCKED clears, and locking begins again (R385). -/
def asrcAnew (p : Nat) (s : State) : State :=
  let h := sget AsrcH.init s.aud.asrc p
  let was := fbit TDM_STAT_LOCKED p s
  onlyIf was (asrcEvent p) (foff TDM_STAT_LOCKED p { s with aud := { s.aud with asrc := sset AsrcH.init s.aud.asrc p { AsrcH.init with lost := h.lost } } })

/-- The settings written since the last strobe govern from now on; a port that leaves or enters converting mode converts anew (R353,
R359, R368). -/
def audioGovern (s : State) : State :=
  let changed (p : Nat) : Bool := fget TDM_CFG_MODE p s != agov TDM_CFG_MODE p s
  forAll ([2, 3].filter changed) asrcAnew { s with aud := { s.aud with gov := audioSettings s } }

/-- The strobe is issued, the sample before takes effect, and the next is formed while the block runs; what the meters drive reaches the
fabric from the next dot (R31, R127, R352, R353, R363 to R366). -/
def audioStrobe (din : List (BitVec 24)) (s : State) : State :=
  let n := (s.aud.strobe.map (fun d => s.time - d)).getD 0
  let s := fire 0x0004 { s with aud := { s.aud with strobe := some s.time } }
  let s := if s.aud.begun then fadd AUD_SAMPLE_COUNT 0 1 s else { s with aud := { s.aud with begun := true } }
  let s := audioPublish s
  later 1 .audioSoft (audioGovern (if audioRuns s then audioForm din n s else s))

/-- AUDIO_SAMPLE_STROBE (R31, R352): the strobe of the present dot, with what the master ports have received; in another dot there is
none. -/
def execAudioSampleStrobe (din : List (BitVec 24)) (s : State) : Host.Outcome State Fault Refusal :=
  .next (if strobeDue s then audioStrobe din s else s)

/-- The strobe of the present dot where no command told what the ports received: that is free (R352). -/
def strobeLeft (s : State) : State :=
  if strobeDue s then nextFresh (audioStrobe ((List.range 32).map (Config.audioInput s.fresh)) s) else s

/-! ### Converting ports (R368, R369) -/

/-- Lock is lost with an FSYNC in the present dot, or with none (R369). -/
def asrcLost (fsync : Bool) (p : Nat) (s : State) : State :=
  let h := sget AsrcH.init s.aud.asrc p
  let h := { h with good := 0, last := if fsync then some s.time else none, lost := if fbit TDM_STAT_LOCKED p s then some s.time else h.lost }
  let s := { s with aud := { s.aud with asrc := sset AsrcH.init s.aud.asrc p h } }
  if fbit TDM_STAT_LOCKED p s then asrcEvent p (report 0x122 0 0 (fon TDM_STAT_ASRC_LOST p (foff TDM_STAT_LOCKED p s))) else s

/-- ASRC_LOCK_LOST (R369) on port 2 or 3. -/
def execAsrcLockLost (k : Fin 2) (s : State) : Host.Outcome State Fault Refusal := .next (asrcLost false (2 + k) s)

/-- PEER_FRAME_RECEIVE (R368): a peer frame of `n` BCLK periods ends with an FSYNC on port 2 or 3. The converter's input samples are free values,
0 while DIN is on no pin; the ratio is that of the frame that ended. Without BCLK and FSYNC on their pins the port sees no frame (R453). -/
def execPeerFrameReceive (k : Fin 2) (n : Nat) (s : State) : Host.Outcome State Fault Refusal :=
  let p := 2 + k.val
  if agov TDM_CFG_MODE p s ≠ 2 ∨ !(pinCarries (144 + 4 * p) 0x10 s && pinCarries (145 + 4 * p) 0x10 s) then .next s
  else if n ≠ 256 then .next (asrcLost true p s)
  else
    let h := sget AsrcH.init s.aud.asrc p
    let good := min (h.good + 1) 1024
    let inputs := (List.range 8).foldl (fun m j => sset 0 m j
      (if pinCarries (146 + 4 * p) 0x10 s then Config.asrcSample (s.fresh + j) % 2 ^ 24 else 0)) ([] : SMap Nat)
    let s := match h.last with
      | some t => fset TDM_RATIO_RATIO p (audioPeriod s * 2 ^ 24 / max 1 (s.time - t)) s
      | none => s
    let s := { s with fresh := s.fresh + 8, aud := { s.aud with asrc := sset AsrcH.init s.aud.asrc p ⟨good, some s.time, inputs, h.lost⟩ } }
    if good = 1024 ∧ fbit TDM_STAT_LOCKED p s = false then .next (asrcEvent p (fon TDM_STAT_LOCKED p s)) else .next s

end Sys2Proof.Machine
end

