-- ==== Sys2Proof/Machine/Store.lean ====
section
/-! DEFINITION. The configuration store: areas and locks, the queue of word programs, its reads (R391 to R394). -/

namespace Sys2Proof.Machine

open Sys2Proof

/-- A key of the configuration store (R391). -/
def inStore (f : Nat) : Bool := decide (0x10000000 ≤ f ∧ f < 0x12000000)

/-- Word `w` (an address divided by 8) is held back: it lies in the image slot that a load is reading (R151, R393). -/
def storeHeld (w : Nat) (s : State) : Bool :=
  match s.img with
  | some (some k, _, _) => (8 * w - 0x10000000) / 0x400000 == k && decide (0x10000000 ≤ 8 * w) && decide (8 * w < 0x11000000)
  | _ => false

/-- A word is programmed: it takes its value, with matching check bits (R393). -/
def programWord (e : Nat × Nat) (s : State) : State :=
  mwrite (8 * e.1) 8 e.2 { s with poison := s.poison.filter (· != e.1), soft := s.soft.filter (· != e.1) }

/-- The queue of words, with QDEPTH (R407). -/
def setStoreQueue (q : List (Nat × Nat)) (s : State) : State := fset CFS_STAT_QDEPTH 0 q.length { s with cfs := q }

/-- The next word's program begins in the present dot. -/
def storeNext (s : State) : State := { s with cfsAt := s.time }

/-- The value of word `w` as a read sees it: the newest queued one, else the stored one (R393). -/
def storeWord (w : Nat) (s : State) : Nat :=
  match s.cfs.reverse.find? (fun e => e.1 == w) with
  | some e => e.2
  | none => mread (8 * w) 8 s

/-- Word `w` with the bytes that `n` bytes of `v` from `f` on give it. -/
def mergeWord (f n v w : Nat) (s : State) : Nat :=
  (List.range 8).foldl (fun a i =>
    let b := 8 * w + i
    let byte := if f ≤ b ∧ b < f + n then v / 2 ^ (8 * (b - f)) % 256 else storeWord w s / 2 ^ (8 * i) % 256
    a + byte * 2 ^ (8 * i)) 0

/-- Words that wait at their agents enter the queue, in order, while it has room (R393). -/
def admitWaiting : List (Nat × Nat × Nat × Nat) → State → State
  | [], s => { s with cfsWait := [] }
  | (w, f, n, v) :: es, s =>
    if s.cfs.length < 16 then admitWaiting es (setStoreQueue (s.cfs ++ [(w, mergeWord f n v w s)]) s)
    else { s with cfsWait := (w, f, n, v) :: es }

/-- The first queued word that is not held back is programmed, and one that waits takes its place. -/
def programNext (s : State) : State :=
  match s.cfs.find? (fun e => !storeHeld e.1 s) with
  | some e => admitWaiting s.cfsWait (programWord e (setStoreQueue (s.cfs.erase e) (storeNext s)))
  | none => s

/-- The queue's dot: its next word is programmed in a dot that is free, within the 70 ns of a merge, 28 dots (R393). -/
def storeTick (s : State) : State :=
  if s.cfs = [] then s else if Config.storeMoves s.time ∨ s.cfsAt + 28 ≤ s.time then programNext s else s

/-- CFS_WORD_PROGRAMMED (R393). -/
def execCfsWordProgrammed (s : State) : Host.Outcome State Fault Refusal := .next (programNext s)

/-- The queued words of image slot `k` are programmed: a load that begins reads them (R151, R393). -/
def programSlot (k : Nat) (s : State) : State :=
  let mine (e : Nat × Nat) : Bool := (8 * e.1 - 0x10000000) / 0x400000 == k && decide (8 * e.1 < 0x11000000)
  admitWaiting s.cfsWait (forAll (s.cfs.filter mine) programWord (setStoreQueue (s.cfs.filter (fun e => !mine e)) s))

/-- The `n` bytes of the store from `f` on, queued words included. -/
def storeBytes (f : Nat) : Nat → State → Nat
  | 0, _ => 0
  | n + 1, s => storeWord (f / 8) s / 2 ^ (8 * (f % 8)) % 256 + 256 * storeBytes (f + 1) n s

/-- A read of words of the store finds what is wrong with them (R394): a single-bit error is counted and the word reprogrammed; an
uncorrectable one is counted and reported, and the answer is false. -/
def checkStore (ws : List Nat) (s : State) : Bool × State :=
  let stored (w : Nat) : Bool := !s.cfs.any (fun e => e.1 == w)
  match ws.find? (fun w => stored w && s.poison.contains w) with
  | some w => (false, report 0x1C1 0 0 (fset CFS_ERRADDR_ADDR 0 (8 * w) (fcount CFS_UE_CNT_COUNT 0 1 s)))
  | none =>
    let soft := ws.filter (fun w => stored w && s.soft.contains w)
    (true, if soft = [] then s else
      fcount CFS_CE_CNT_COUNT 0 soft.length
        { s with soft := s.soft.filter (fun w => !soft.contains w), frameRep := nput 0x1C0 s.frameRep })

/-- Read `n` bytes of the store from `f` on (R394). -/
def readStore (f n : Nat) (s : State) : Option Nat × State :=
  match checkStore (wordsOf f n) s with
  | (true, s') => (some (storeBytes f n s'), s')
  | (false, s') => (none, s')

/-- The byte at `f` may not be written by an agent (R392): a locked area, the repair table. The FABRIC authority is checked with the
capability. -/
def storeLocked (f : Nat) (s : State) : Bool :=
  let x := f - 0x10000000
  if x < 0x1000000 then fbitAt CFS_LOCK_SLOT 0 (x / 0x400000) s
  else if x < 0x1800000 then fbit CFS_LOCK_BOOT 0 s
  else if x < 0x1810000 then true
  else if x < 0x1820000 then fbit CFS_LOCK_SIGS 0 s
  else fbitAt CFS_LOCK_GENERAL 0 ((x - 0x1820000) / 0x100000) s

/-- Word `w` with the bytes that `n` bytes of `v` from `f` on give it enters the queue; a full queue makes room by programming its oldest word
that is not held back, and where all are held the write waits at its agent (R393). -/
def queueWord (w f n v : Nat) (s : State) : State :=
  let s := if s.cfs.length ≥ 16 then programNext s else if s.cfs = [] then storeNext s else s
  if s.cfs.length < 16 ∧ s.cfsWait = [] then setStoreQueue (s.cfs ++ [(w, mergeWord f n v w s)]) s
  else { s with cfsWait := s.cfsWait ++ [(w, f, n, v)] }

/-- Write `n` bytes of `v` from `f` on; false on a locked area and on a merge with an uncorrectable word: no write is made (R283, R392,
R393). -/
def writeStore (f n v : Nat) (s : State) : Bool × State :=
  if (List.range n).any (fun i => storeLocked (f + i) s) then (false, s)
  else
    match checkStore (partWords f n) s with
    | (true, s') => (true, forAll (wordsOf f n) (fun w t => queueWord w f n v t) s')
    | (false, s') => (false, s')

/-- A write of CFS_LOCK sets lock bits (R392). -/
def cfsLockWrite (v : Nat) (s : State) : State :=
  fset CFS_LOCK_GENERAL 0 (fget CFS_LOCK_GENERAL 0 s ||| bits v 31 22) (fset CFS_LOCK_SIGS 0 (fget CFS_LOCK_SIGS 0 s ||| bits v 5 5)
    (fset CFS_LOCK_BOOT 0 (fget CFS_LOCK_BOOT 0 s ||| bits v 4 4) (fset CFS_LOCK_SLOT 0 (fget CFS_LOCK_SLOT 0 s ||| bits v 3 0) s)))

/-- CFS_LOCK_WRITE (R392). -/
def execCfsLockWrite (v : Word) (s : State) : Host.Outcome State Fault Refusal := .next (cfsLockWrite v.toNat s)

end Sys2Proof.Machine
end

