-- ==== Sys2Proof/Machine/Map.lean ====
section
/-! DEFINITION. Where the registers lie: an address's register and unit, register words as wholes, the values that a field's
register refuses (R12, R15, R276, R500). -/

namespace Sys2Proof.Machine

open Sys2Proof

/-- The unit number of offset `o` in an array of registers, indices outermost first; `none` where no register starts there. -/
def unitAt : List (Nat × Nat) → Nat → Nat → Option Nat
  | [], o, u => if o = 0 then some u else none
  | (n, d) :: rest, o, u => if o / d < n then unitAt rest (o % d) (u * n + o / d) else none

/-- The unit of register row `r` at address `a`. -/
def rowUnit (r : RegRow) (a : Nat) : Option Nat := if a < r.base then none else unitAt r.dims (a - r.base) 0

/-- The register at address `a`, a multiple of 4; port 1 has no MDIO registers (R418). -/
def findReg (a : Nat) : Option (RegRow × Nat) :=
  if a = 0x50010700 ∨ a = 0x50010704 then none else regRows.findSome? (fun r => (rowUnit r a).map (fun u => (r, u)))

/-- The capability slot that the 16-byte word at `a` is. -/
def findSlot (a : Nat) : Option (CapRow × Nat) :=
  capRows.findSome? (fun r => if a < r.base then none else (unitAt r.dims (a - r.base) 0).map (fun u => (r, u)))

/-- The field of a register word. -/
def fieldOf (f : FieldRow) (v : Nat) : Nat := v / 2 ^ f.lo % 2 ^ f.fld.w

/-- The stored values of a register's readable fields, as its word: WO fields read 0 (R12). -/
def rowWord (r : RegRow) (u : Nat) (s : State) : Nat :=
  r.fields.foldl (fun n f => match f.acc with
    | .wo => n
    | _ => n + fget f.fld u s * 2 ^ f.lo) 0

/-- The word of a register at reset. -/
def resetWord (r : RegRow) : Nat :=
  r.fields.foldl (fun n f => match f.acc with
    | .wo => n
    | _ => n + f.fld.rst * 2 ^ f.lo) 0

/-- The word's bits that lie in no RW or SH field of the register: reserved, RO, W1C and WO bits (check 8 of R152). -/
def outsideRw (r : RegRow) (v : Nat) : Nat :=
  r.fields.foldl (fun n f => match f.acc with
    | .rw => n - fieldOf f v * 2 ^ f.lo
    | .sh => n - fieldOf f v * 2 ^ f.lo
    | _ => n) v

/-- Every RW and SH field of a register takes its part of a word; an SH field both in the shadow and in effect (R151). -/
def loadRow (r : RegRow) (u v : Nat) (s : State) : State :=
  forAll r.fields (fun f t => match f.acc with
    | .rw => fset f.fld u (fieldOf f v) t
    | .sh => fset f.eff u (fieldOf f v) (fset f.fld u (fieldOf f v) t)
    | _ => t) s

/-- The ranges of the fields that refuse some values: the intervals of the values that the register takes (R77, R138, R272 and the
register tables of each chapter). A field that is not listed takes every value it can hold. -/
def ranges : List (Fld × List (Nat × Nat)) := [
  (LEG_CFG_SAFE, [(0, 2)]),
  (SDF_CFG_M, [(0, 0), (8, 256)]), (SDF_OC_HI, [(0, 64), (192, 255)]), (SDF_OC_LO, [(0, 64), (192, 255)]),
  (SDF_CYCLE_LINES, [(0, 4000)]), (QEP_CFG_MODE, [(0, 2)]), (QEP_CYCLE_LINES, [(0, 4000)]),
  (SAR_CYCLE_LINES, [(0, 4000)]), (SEU_CFG_PROTO, [(0, 2)]), (SEU_CFG_BITS, [(0, 64)]), (SEU_CRC_LEN, [(0, 8)]),
  (SEU_CYCLE_LINES, [(0, 4000)]), (TMR_CFG_CLK, [(0, 4)]), (TMR_CHAIN_MASTER, [(0, 23)]), (RSP_CFG_DESIG, [(0, 5)]),
  (EVQ_CFG_HOLDOFF, [(0, 4000)]), (PAD_CFG_PULL, [(0, 2)]),
  (LNK_TOPO_GROUPS, [(0, 0), (2, 64)]), (LNK_TOPO_RINGS, [(0, 0), (2, 64)]), (LNK_TOPO_RING_SIZE, [(0, 0), (2, 64)]),
  (LAN_RLL_COUNT_COUNT, [(0, 4096)]), (TP_MAPSZ_MH, [(0, 256)]), (TP_MAPSZ_MW, [(0, 256)]), (TRC_WIN1_H, [(0, 1200)]),
  (TRC_WIN1_W, [(0, 1920)]), (SPR_W1_HC, [(0, 16)]), (SPR_W1_WC, [(0, 16)]), (BE_SIZE_H, [(0, 4096)]), (BE_SIZE_W, [(0, 4096)]),
  (SCN_MODE_SPR_POS, [(0, 4)]), (SCN_CAP_CFG_FMT, [(1, 1), (3, 3)]), (SCN_OUT_DP_RATE, [(0, 2)]),
  (SCN_OUT_DP_LANES, [(1, 2), (4, 4)]), (FL_SIZE_H, [(0, 1200)]), (FL_SIZE_W, [(0, 1920)]), (BM_SIZE_H, [(0, 4096)]),
  (BM_SIZE_W, [(0, 4096)]), (DP_AUX_LEN, [(0, 16)]),
  (VC_CFG_WAVE, [(0, 4)]), (VC_PCM_LEN_LEN, [(0, 2 ^ 24)]), (MTR_CFG_DECAY, [(0, 20)]), (MTR_CFG_EVT, [(0, 13)]),
  (MTR_CFG_TAU, [(0, 20)]),
  (NF_CFG2_REFRESH_BITS, [(1, 72)]), (PWR_BUDGET_UNITS, [(1, 32)]),
  (ETH_MDIO_OP, [(0, 2)]), (ETH_GCL_CYCLE_LINES, [(0, 4000)]), (ETH_GCL_LEN_COUNT, [(0, 256)]),
  (PCIE_CTRL_MAXWIDTH, [(0, 2)]), (PCIE_BAR0_LOG2SIZE, [(0, 0), (12, 30)]), (PCIE_CTO_MICROS, [(50, 50000)]),
  (CAN_NBT_SJW, [(1, 127)]), (CAN_NBT_TSEG2, [(1, 127)]), (CAN_NBT_TSEG1, [(1, 255)]), (CAN_DBT_SJW, [(1, 15)]),
  (CAN_DBT_TSEG2, [(1, 15)]), (CAN_DBT_TSEG1, [(1, 31)]),
  (UART_CTRL_PARITY, [(0, 4)]), (UART_DIV_DIV, [(1, 65535)]), (UART_FIFO_RXTHR, [(1, 64)]), (UART_FIFO_TXTHR, [(0, 63)]),
  (I2C_CTRL_SPEED, [(0, 2)]), (I2C_CMD_WCOUNT, [(0, 32)]), (I2C_CMD_RCOUNT, [(0, 32)]),
  (SPI_CTRL_DIV, [(1, 255)]), (SPI_CTRL_WORD, [(4, 31)]), (SPI_FIFO_RXTHR, [(1, 64)]), (SPI_FIFO_TXTHR, [(0, 63)])]

/-- Field `f` refuses the value `v`. -/
def outOfRange (f : Fld) (v : Nat) : Bool :=
  ranges.any (fun r => r.1.id == f.id && !r.2.any (fun i => decide (i.1 ≤ v ∧ v ≤ i.2)))

/-- Some field of the register refuses its part of the word. -/
def rowOutOfRange (r : RegRow) (v : Nat) : Bool :=
  r.fields.any (fun f => match f.acc with
    | .rw => outOfRange f.fld (fieldOf f v)
    | .sh => outOfRange f.fld (fieldOf f v)
    | _ => false)

end Sys2Proof.Machine
end

