-- ==== Sys2Proof/Machine/Events.lean ====
section
/-! DEFINITION. The event controller, its queues and lines, and the sweep-slot dispatch to loop cores (R258 to R273). -/

namespace Sys2Proof.Machine

open Sys2Proof

/-! ### The not-empty line (R267, R268) -/

/-- Queue `q` is not empty (R264). -/
def queueNonempty (q : Nat) (s : State) : Bool := fget EVQ_HEAD_INDEX q s != fget EVQ_TAIL_INDEX q s

/-- The target core of queue `q` executes WAIT. -/
def targetWaits (q : Nat) (s : State) : Bool := decide ((cpu (fget EVQ_CFG_CORE q s) s).state = .wait)

/-- The conditions of a rise hold in this dot (R267). -/
def lineRises (q : Nat) (s : State) : Bool :=
  evcRuns s && fbit EVQ_CFG_IEN q s && queueNonempty q s && !fbit EVQ_STAT_INT q s
    && (fget EVQ_HOLD_COUNT q s == 0 || targetWaits q s)

/-- The line of queue `q` rises where it may: the hold-off is loaded and a WAIT of the target core ends. While the target core's
domain is off and WAKE is 1, one wake request is sent in its place (R268, R443). -/
def evLine (q : Nat) (s : State) : State :=
  if lineRises q s then
    let core := fget EVQ_CFG_CORE q s
    if fbit EVQ_CFG_WAKE q s && !domainOn (15 + core) s then
      if s.woke.contains q then s
      else later 0 (.cmd (.wakeAccept 3 (BitVec.ofNat 10 q))) { s with woke := nput q s.woke }
    else wakeCpu core (fset EVQ_HOLD_COUNT q (fget EVQ_CFG_HOLDOFF q s) (fon EVQ_STAT_INT q { s with woke := ndel q s.woke }))
  else { s with woke := ndel q s.woke }

/-- Every line (R267). -/
def evLines (s : State) : State := forAll (List.range 8) evLine s

/-- A line falls one dot after the write that empties its queue; it may rise again (R267). -/
def lineFalls (q : Nat) (s : State) : State := evLine q (foff EVQ_STAT_INT q s)

/-! ### Records (R261 to R266) -/

/-- Of the sources eligible since dot `lim` at the latest the one to be recorded: the one that became eligible earliest, and among those the
lowest-numbered (R261). -/
def chosenSince (lim : Nat) (s : State) : Option Nat :=
  (s.evs.foldl (fun (best : Option (Nat × Nat)) e =>
    match e.2.since with
    | some d =>
      if d ≤ lim ∧ eligible e.1 s then
        match best with
        | some (d', _) => if d < d' then some (d, e.1) else best
        | none => some (d, e.1)
      else best
    | none => best) none).map Prod.snd

/-- The source to be recorded in this dot. -/
def chosen (s : State) : Option Nat := chosenSince s.time s

/-- The 16 bytes of a record (R263). -/
def recordBytes (lap : Nat) (sat : Bool) (count source : Nat) (first : Pos) (payload : Nat) : Nat :=
  lap * 2 ^ 31 + sat.toNat * 2 ^ 24 + count * 2 ^ 16 + source + 2 ^ 32 * posLo first + 2 ^ 64 * first.frame + 2 ^ 96 * payload

/-- Index and LAP of the record that queue `q` issues next: the stores under way come before it (R264, R266). -/
def issueAt (q : Nat) (s : State) : Nat × Nat :=
  let i := fget EVQ_TAIL_INDEX q s + inFlight q s
  let size := fget EVQ_SIZE_SIZE q s
  (i % size, (fget EVQ_TAIL_LAP q s + i / size) % 2)

/-- What a record of source `n` chosen in this dot takes: COUNT, SAT and the payload, and the arrivals that stay for a later record, which
are those of the dot but for one that made the source eligible (R261). -/
def recordTakes (n : Nat) (s : State) : Nat × Bool × Nat × Nat :=
  match arrivedNow n s with
  | some d => if d.was = 0 then (1, false, d.payload, d.n - 1) else (d.was, d.sat, d.payload, d.n)
  | none => (fget EVC_ST_ARR n s, fbit EVC_ST_SAT n s, (evSrc n s).payload, 0)

/-- A record of source `n` is chosen (R261): the store is issued, ARR and SAT move into it, OUT is set unless AUTOACK is 1. -/
def chooseRecord (n : Nat) (s : State) : State :=
  let q := fget EVC_CFG_QUEUE n s
  let (i, lap) := issueAt q s
  let e := evSrc n s
  let (arr, sat, pay, rest) := recordTakes n s
  let r : EvOut := ⟨q, n, arr, sat, e.first, flat (16 * fget EVQ_BASE_ADDR q s + 16 * i) s, recordBytes lap sat arr n e.first pay,
    s.time, false⟩
  let s := if rest = 0 then s else setEvSrc n { e with first := s.pos, payload := match e.latest with
    | some d => d.last
    | none => e.payload } s
  let s := fset EVC_ST_ARR n (min rest 255) (foff EVC_ST_SAT n { s with recs := s.recs ++ [r], recAt := some s.time })
  noteSources s.time (noteSource n s.time (onlyIf (!fbit EVC_CFG_AUTOACK n s) (fon EVC_ST_OUT n) s))

/-- A record is chosen among the sources eligible since dot `lim`, where the controller runs and none has been chosen in this dot (R261,
R271). -/
def chooseSince (lim : Nat) (s : State) : State :=
  if !evcRuns s || s.recAt == some s.time then s
  else match chosenSince lim s with
  | some n => chooseRecord n s
  | none => s

/-- A record is chosen in this dot. -/
def chooseNow (s : State) : State := chooseSince s.time s

/-- EVENT_RECORD_CHOOSE (R261): at most one record in a dot. -/
def execEventRecordChoose (s : State) : Host.Outcome State Fault Refusal := .next (chooseNow s)

/-- A record store fails (R266): the queue is in error, the arrivals return to ARR, OUT is cleared, EVC_QERR is reported. -/
def recordFails (r : EvOut) (s : State) : State :=
  let n := r.source
  let sum := fget EVC_ST_ARR n s + r.count
  let e := evSrc n s
  let s := setEvSrc n { e with first := r.first, latest := e.latest.map (fun d => { d with was := min (d.was + r.count) 255 }) }
    (fset EVC_ST_ARR n (min sum 255) s)
  let s := foff EVC_ST_OUT n (onlyIf (r.sat || decide (255 < sum)) (fon EVC_ST_SAT n) s)
  noteSources s.time (report 0x104 r.queue 0 (fon EVQ_STAT_ERR r.queue s))

/-- The record `r` of queue `q` is under way: its store is not yet performed. -/
def underWay (q : Nat) (r : EvOut) : Bool := r.queue == q && !r.done

/-- RECORD_STORE_PERFORMED (R266): the oldest record under way of queue `q`, issued in the dot after its choice (R261), is performed, or
ends in a bus error; nothing is written while the controller does not run or the ring's domain is off (R271). TAIL advances in the dot after. A queue that is in error writes nothing more: its further records fail with it, and
FIRST of a source with several is the oldest's (DESIGN CHOICE, log 81). -/
def execRecordStorePerformed (q : Fin 8) (err : Bool) (s : State) : Host.Outcome State Fault Refusal :=
  match s.recs.find? (underWay q) with
  | none => .next s
  | some r =>
    if s.time ≤ r.at_ || !evcRuns s || !ringOn q s then .next s
    else if err then
      let mine := s.recs.filter (underWay q)
      .next (forAll mine.reverse recordFails { s with recs := s.recs.filter (fun x => !underWay q x) })
    else .next (later 1 (.tail q) (putMem r.addr 16 r.data { s with
      recs := s.recs.map (fun x => if x = r then { x with done := true } else x) }))

/-- TAIL of queue `q` names the record now visible; LAP changes when it wraps (R266). -/
def tailAdvances (q : Nat) (s : State) : State :=
  match s.recs.find? (fun r => r.queue == q && r.done) with
  | none => s
  | some r =>
    let t := fget EVQ_TAIL_INDEX q s + 1
    let s := { s with recs := s.recs.erase r }
    let s := if t ≥ fget EVQ_SIZE_SIZE q s then fset EVQ_TAIL_INDEX q 0 (fset EVQ_TAIL_LAP q (fget EVQ_TAIL_LAP q s + 1) s)
      else fset EVQ_TAIL_INDEX q t s
    evLine q s

/-- EVC_ACK (R262): OUT clears; arrivals that wait make the source eligible at once, those of this dot alone from the next; those of this
dot go into a new record in either case. -/
def execEvcAck (n : Fin 1024) (s : State) : Host.Outcome State Fault Refusal :=
  if fbit EVC_ST_OUT n s then
    let e := evSrc n s
    .next (noteSource n (if (arrivedNow n s).any (fun d => d.was == 0) then s.time + 1 else s.time) (setEvSrc n { e with acked := some s.time } (foff EVC_ST_OUT n s)))
  else .next s

/-- SEV_WRITE (R259, R272). -/
def execSevWrite (k : Fin 256) (v : Word) (s : State) : Host.Outcome State Fault Refusal :=
  .next (arrive (0x300 + k) v.toNat s)

/-- EVC_CFG_WRITE (R260, R272): clearing EN clears ARR and SAT. -/
def execEvcCfgWrite (n : Fin 1024) (v : Word) (s : State) : Host.Outcome State Fault Refusal :=
  let w := v.toNat
  let s := fset EVC_CFG_EN n (bits w 31 31) (fset EVC_CFG_AUTOACK n (bits w 30 30)
    (fset EVC_CFG_TAG n (bits w 23 8) (fset EVC_CFG_QUEUE n (bits w 2 0) s)))
  let s := onlyIf (!v.getLsbD 31) (fun t => fset EVC_ST_ARR n 0 (foff EVC_ST_SAT n (setEvSrc n { evSrc n t with latest := none } t))) s
  .next (noteSource n s.time s)

/-- The ring of `size` records at `base` lies wholly within one of DRAM, general SRAM or the Hamper, its save area apart
(R265, R440). -/
def ringPlaced (base size : Nat) : Bool :=
  let last := base + 16 * size
  (decide (0x80000000 ≤ base) && decide (last ≤ 2 ^ 32)) || (decide (0x20000000 ≤ base) && decide (last ≤ 0x20800000))
    || (decide (0x38000000 ≤ base) && decide (last ≤ 0x38028000))

/-- A queue write is refused (R265). -/
def queueRefuse (s : State) : State := fon EVC_STAT_CFG_REFUSED 0 s

/-- The records of queue `q` that are chosen and not yet passed by TAIL are gone. -/
def dropRecords (q : Nat) (s : State) : State :=
  dropDue (fun d => d == .tail q) { s with recs := s.recs.filter (fun r => r.queue != q) }

/-- EVQ_SIZE_WRITE (R265, R500): records under way when SIZE becomes 0 are dropped (DESIGN CHOICE, log 81). A write of the SIZE that a
queue holds changes nothing. -/
def execEvqSizeWrite (q : Fin 8) (v : Word) (s : State) : Host.Outcome State Fault Refusal :=
  let size := v.toNat % 2 ^ 17
  if size = 0 then .next (noteSources s.time (dropRecords q (fset EVQ_SIZE_SIZE q 0 s)))
  else if size = fget EVQ_SIZE_SIZE q s then .next s
  else if fget EVQ_SIZE_SIZE q s ≠ 0 ∨ size = 1 ∨ 65536 < size ∨ ringPlaced (16 * fget EVQ_BASE_ADDR q s) size = false then
    .next (queueRefuse s)
  else
    let s := fset EVQ_HEAD_INDEX q 0 (fset EVQ_TAIL_INDEX q 0 (fset EVQ_TAIL_LAP q 1 (foff EVQ_STAT_ERR q (fset EVQ_SIZE_SIZE q size s))))
    .next (noteSources s.time (onlyIf (fbit EVQ_STAT_INT q s) (later 1 (.lineFall q)) s))

/-- EVQ_HEAD_WRITE (R265, R267): accepted where it moves HEAD forward over filled records. -/
def execEvqHeadWrite (q : Fin 8) (v : Word) (s : State) : Host.Outcome State Fault Refusal :=
  let size := fget EVQ_SIZE_SIZE q s
  let head := fget EVQ_HEAD_INDEX q s
  let tail := fget EVQ_TAIL_INDEX q s
  let new := v.toNat % 2 ^ 16
  if new < size ∧ (new + size - head) % size ≤ (tail + size - head) % size then
    let s := fset EVQ_HEAD_INDEX q new s
    .next (noteSources s.time (if new = tail then onlyIf (fbit EVQ_STAT_INT q s) (later 1 (.lineFall q)) s else evLine q s))
  else .next (queueRefuse s)

/-- EVQ_HOLD_EXPIRY (R267): the count reaches 0 at a LINE_START, and the line may rise in the same dot. -/
def execEvqHoldExpiry (q : Fin 8) (s : State) : Host.Outcome State Fault Refusal := .next (evLine q (fset EVQ_HOLD_COUNT q 0 s))

/-- A write of EVQ_BASE is accepted only while SIZE is 0 (R265); one of the value held is not refused (R500). -/
def evqBaseWrite (q v : Nat) (s : State) : State :=
  if fget EVQ_SIZE_SIZE q s = 0 then fset EVQ_BASE_ADDR q (v / 16) s
  else if fget EVQ_BASE_ADDR q s = v / 16 % 2 ^ 28 then s else queueRefuse s

/-- A write of EVQ_CFG: a HOLDOFF above 4,000 is refused (R272); the line falls with IEN, and an asserted line ends a WAIT of the core that
it now targets (R267, R268). -/
def evqCfgWrite (q v : Nat) (s : State) : State :=
  let hold := bits v 11 0
  let s := fset EVQ_CFG_IEN q (bits v 31 31) (fset EVQ_CFG_WAKE q (bits v 30 30) (fset EVQ_CFG_CORE q (bits v 17 16) s))
  let s := if hold ≤ 4000 then fset EVQ_CFG_HOLDOFF q hold s else queueRefuse s
  let s := evLine q (onlyIf (bits v 31 31 == 0) (foff EVQ_STAT_INT q) s)
  onlyIf (fbit EVQ_STAT_INT q s) (wakeCpu (bits v 17 16)) s

/-! ### Sweep-slot dispatch (R269, R270) -/

/-- LCD_ENTRY_FIRE (R269, R270): the dispatch enters the queue, wakes a waiting core, or is dropped. Nothing is queued in CORE_MODE 1,
and a LOCKED core's dispatch is discarded and counted (R256). -/
def execLcdEntryFire (c : Fin 24) (e : Fin 32) (s : State) : Host.Outcome State Fault Refusal :=
  let core := loopId c
  if !(regionRun (c.val / 6) s && clusterOn c s) || fbit LPE_CFG_CORE_MODE c s then .next s
  else if fbit EXC_STAT_LOCKED core s then .next (fcount CPU_LOST_DISP core 1 s)
  else
    let q := lcdQueue c s
    if q.length ≥ 8 then .next (report (csrc c 3) e 0 (fon LCD_STAT_DROPPED c s))
    else .next (onlyIf q.isEmpty (wakeCpu core) (setLcd c (q ++ [e.val]) s))

/-- The word of LCD_POP: what the dot found presented (R13, R273). -/
def lcdHead (c : Nat) (s : State) : Nat := 2 ^ 31 * fseen LCD_POP_VALID c s + 2 ^ 16 * fseen LCD_POP_ENTRY c s + fseen LCD_POP_TAG c s

/-- A dispatch of the queue that the dot found there is removed, and the next is presented, to a read in this dot where it had entered
before it (R13, R270, R273). -/
def lcdRemove (c : Nat) (s : State) : State :=
  let n := fseen LCD_STAT_DEPTH c s - 1
  let q := (lcdQueue c s).tail
  let p := lcdPresents c (q.take n) s
  let s := fshow LCD_POP_VALID c p.1 (fshow LCD_POP_ENTRY c p.2.1 (fshow LCD_POP_TAG c p.2.2 (fshow LCD_STAT_DEPTH c n s)))
  setLcd c q s

/-- A read of LCD_POP of cluster `c` by requester `req`: only the core that serves the cluster removes the head (R270). -/
def lcdRead (c req : Nat) (s : State) : State :=
  let t := answer (lcdHead c s) s
  if req = loopId c ∧ fseen LCD_POP_VALID c s = 1 then lcdRemove c t else t

/-- LCD_POP (R5, R270). -/
def execLcdPop (c : Fin 24) (req : Byte) (s : State) : Host.Outcome State Fault Refusal := .next (toCluster c.val (lcdRead c req.toNat) s)

end Sys2Proof.Machine
end

