-- ==== Sys2Proof/Machine/Flatten.lean ====
section
/-! DEFINITION. The flattener and the compressed tile format (R328 to R334). -/

namespace Sys2Proof.Machine

open Sys2Proof

/-- What reading a bitmap gives at a pixel: an ARGB8888 colour, nothing (a bad tile), or a bus error. -/
inductive Texel where
  | colour (c : Nat)
  | badTile
  | busError
deriving DecidableEq, Repr

/-- Read `n` bytes at `a` for the flattener, in whole 64-byte blocks; `none` where one meets an uncorrectable error (R320, R331). -/
def flFetch (a n : Nat) (s : State) : Option Nat :=
  if ((chunks 64 a n).flatMap (fun c => wordsOf (flat (c.1 / 64 * 64) s) 64)).any (fun w => wordBad w s) then none
  else some (mread (flat a s) n s)

/-- Bitmap `k`: its format, its bytes per pixel for formats 1 to 3, whether it contributes anything (R328). -/
def bmFmt (k : Nat) (s : State) : Nat := fget BM_CFG_FMT k s
def bmOn (k : Nat) (s : State) : Bool :=
  fbit BM_CFG_EN k s && fget BM_SIZE_W k s != 0 && fget BM_SIZE_H k s != 0 && !(bmFmt k s == 8 && fget BM_CTLEN_BYTES k s == 0)

/-- The bytes of bitmap `k`. -/
def bmBytes (k : Nat) (s : State) : Nat :=
  if bmFmt k s = 8 then fget BM_CTLEN_BYTES k s else rectBytes (fget BM_PITCH_PITCH k s) (fget BM_SIZE_W k s) (fget BM_SIZE_H k s) (fmtBytes (bmFmt k s))

/-! ### The compressed tile format (R333, R334) -/

/-- The colour of pixel `k` in the runs from address `a` on, which end before `last`; `at_` pixels are filled. Fuel bounds the records.
A run that fills past pixel 255, or a record beyond the end, makes the tile bad. -/
def runPixel (k last : Nat) : Nat → Nat → Nat → Option Nat → State → Texel
  | 0, _, _, _, _ => .badTile
  | fuel + 1, a, at_, found, s =>
    if 256 ≤ at_ then (match found with
      | some c => .colour c
      | none => .badTile)
    else if last < a + 5 then .badTile
    else
      match flFetch a 1 s, flFetch (a + 1) 4 s with
      | some len, some c =>
        if 256 < at_ + len then .badTile
        else runPixel k last fuel (a + 5) (at_ + len) (if at_ ≤ k ∧ k < at_ + len then some c else found) s
      | _, _ => .busError

/-- The index of pixel `j` in an index field of `b` bits a pixel at `f`. -/
def fieldIndex (f b j : Nat) (s : State) : Nat := mread f 1 (s) / 2 ^ (b * j % 8) % 2 ^ b

/-- Pixel `k` of a PAL tile whose payload is at `p`. -/
def palPixel (k p last : Nat) (s : State) : Texel :=
  if last < p + 4 then .badTile
  else
    match flFetch p 4 s with
    | none => .busError
    | some h =>
      let n := h % 16 + 1
      let b := if n ≤ 2 then 1 else if n ≤ 4 then 2 else 4
      let f := p + 4 + 4 * n
      if h / 16 ≠ 0 ∨ last < f + 32 * b then .badTile
      else if (List.range (32 * b)).any (fun i => (flFetch (f + i) 1 s).isNone) then .busError
      else
        let ix (j : Nat) : Nat := fieldIndex (flat (f + b * j / 8) s) b j s
        if (List.range 256).any (fun j => decide (n ≤ ix j)) then .badTile
        else match flFetch (p + 4 + 4 * ix k) 4 s with
          | some c => .colour c
          | none => .busError

/-- Pixel (i, j) of the compressed bitmap `k`. -/
def ctPixel (k i j : Nat) (s : State) : Texel :=
  let base := fget BM_ADDR_ADDR k s
  let last := base + fget BM_CTLEN_BYTES k s
  let tw := (fget BM_SIZE_W k s + 15) / 16
  let e := base + 4 * (j / 16 * tw + i / 16)
  let px := 16 * (j % 16) + i % 16
  if last < e + 4 then .badTile
  else
    match flFetch e 4 s with
    | none => .busError
    | some w =>
      let p := base + 16 * (w % 2 ^ 28)
      match w / 2 ^ 28 with
      | 0 => if last < p + 4 then .badTile else (match flFetch p 4 s with
        | some c => .colour c
        | none => .busError)
      | 1 => if last < p + 1024 then .badTile else (match flFetch (p + 4 * px) 4 s with
        | some c => .colour c
        | none => .busError)
      | 2 => palPixel px p last s
      | 3 => runPixel px last (fget BM_CTLEN_BYTES k s / 5 + 2) p 0 none s
      | _ => .badTile

/-- Pixel (i, j) of bitmap `k` (R329). -/
def bmPixel (k i j : Nat) (s : State) : Texel :=
  if bmFmt k s = 8 then ctPixel k i j s
  else
    match flFetch (fget BM_ADDR_ADDR k s + j * fget BM_PITCH_PITCH k s + i * fmtBytes (bmFmt k s)) (fmtBytes (bmFmt k s)) s with
    | some p => .colour (toArgb (bmFmt k s) (fun _ => 0) p)
    | none => .busError

/-! ### Flattening (R328, R330) -/

/-- Bitmap `k` laid over colour `d` at flat pixel (x, y): `none` on a bus error (R328, R335). -/
def bmOver (k x y d : Nat) (s : State) : Option Nat :=
  let i := (x : Int) - (BitVec.ofNat 12 (fget BM_POS_X k s)).toInt
  let j := (y : Int) - (BitVec.ofNat 12 (fget BM_POS_Y k s)).toInt
  if bmOn k s && decide (0 ≤ i) && decide (i < fget BM_SIZE_W k s) && decide (0 ≤ j) && decide (j < fget BM_SIZE_H k s) then
    match bmPixel k i.toNat j.toNat s with
    | .colour c => some (blend (2 ^ 24 * mulAlpha (bits c 31 24) (fget BM_CFG_GA k s) + c % 2 ^ 24) d)
    | .badTile => some d
    | .busError => none
  else some d

/-- Flat pixel (x, y). -/
def flatten (x y : Nat) (s : State) : Option Nat :=
  ((bmOver 0 x y (2 ^ 24 * 255 + fget FL_BG_RGB 0 s) s).bind (fun d => bmOver 1 x y d s)).map (fun c => 2 ^ 24 * 255 + c % 2 ^ 24)

/-- The flat pixels of row `y` from pixel `x` on: at most the 16 that one 64-byte write holds (R331). -/
def flattenPart (x y : Nat) (s : State) : Option (List Nat) :=
  (List.range (min 16 (fget FL_SIZE_W 0 s - x))).mapM (fun i => flatten (x + i) y s)

/-- The first of the `n` pixels of an edge of a tile, at flat coordinate `at_`, that is drawn: none where all lie outside the `most` of the
flat picture. -/
def firstDrawn (at_ : Int) (n most : Nat) : Option Nat :=
  if decide (at_ < most) && decide (0 < at_ + n) then some at_.toNat else none

/-- The bad tiles of bitmap `k` of which the first drawn pixel is one of the 16 from (x, y) on (R334): each tile counts once, and one of
which no pixel is drawn counts not at all. -/
def badTiles (k x y : Nat) (s : State) : Nat :=
  let w := fget BM_SIZE_W k s
  let h := fget BM_SIZE_H k s
  if bmOn k s && bmFmt k s == 8 then
    ((List.range ((h + 15) / 16)).flatMap (fun (ty : Nat) => (List.range ((w + 15) / 16)).filter (fun (tx : Nat) =>
      match firstDrawn (16 * (tx : Int) + (BitVec.ofNat 12 (fget BM_POS_X k s)).toInt) (min 16 (w - 16 * tx)) (fget FL_SIZE_W 0 s),
          firstDrawn (16 * (ty : Int) + (BitVec.ofNat 12 (fget BM_POS_Y k s)).toInt) (min 16 (h - 16 * ty)) (fget FL_SIZE_H 0 s) with
      | some px, some py => decide (x ≤ px) && decide (px < x + 16) && py == y && decide (ctPixel k (16 * tx) (16 * ty) s = .badTile)
      | _, _ => false))).length
  else 0

/-- A bitmap that contributes has an invalid format, alignment or pitch; lies outside the memories (R329). -/
def bmInvalid (k : Nat) (s : State) : Bool := bmOn k s && !(bmFmt k s == 1 || bmFmt k s == 2 || bmFmt k s == 3 || bmFmt k s == 8)
def bmMisaligned (k : Nat) (s : State) : Bool :=
  let a := fget BM_ADDR_ADDR k s
  let p := fget BM_PITCH_PITCH k s
  let f := bmFmt k s
  bmOn k s && (if f = 8 then a % 16 != 0
    else a % fmtAlign f != 0 || (fget BM_SIZE_H k s != 1 && (p % fmtAlign f != 0 || decide (p < fget BM_SIZE_W k s * fmtBytes f))))
def bmOutside (k : Nat) (s : State) : Bool :=
  let a := fget BM_ADDR_ADDR k s
  let n := bmBytes k s
  bmOn k s && !(inDram a n || inSram a n || inFrame a n)

/-- The checks of R330, in order; 0 where all pass. -/
def flCheck (s : State) : Nat :=
  let d := 64 * fget FL_DST_ADDR 0 s
  let p := fget FL_PITCH_PITCH 0 s
  let w := fget FL_SIZE_W 0 s
  let n := rectBytes p w (fget FL_SIZE_H 0 s) 4
  let ks := [0, 1]
  if ks.any (fun k => bmOn k s && (capCheck (slotCap SCN_RCAP_CAP 0 s) [permLD] (fget BM_ADDR_ADDR k s) (bmBytes k s) false).isSome)
      || (capCheck (slotCap SCN_WCAP_CAP 0 s) [permST] d n true).isSome then 1
  else if ks.any (fun k => bmInvalid k s) then 2
  else if ks.any (fun k => bmMisaligned k s) || p % 64 != 0 || decide (p < 4 * w) then 3
  else if ks.any (fun k => bmOutside k s) || !(inFrame d n || inDram d n) then 4
  else 0

/-- The flatten ends in this dot with error code `code`, or well with 0 (R330, R348). -/
def flEnd (code : Nat) (s : State) : State :=
  let s := foff FL_STAT_BUSY 0 s
  let s := if code = 0 then s else fon FL_STAT_ERR 0 (fset FL_STAT_ERRCODE 0 code s)
  arrive 0x189 (2 ^ 8 * code) s

/-- FL_CTRL_GO (R330): refused while BUSY; a picture of no pixels completes at once; a failed check stops at once. -/
def flGo (s : State) : State :=
  if fbit FL_STAT_BUSY 0 s then fon FL_STAT_CFG_REFUSED 0 s
  else
    let s := fon FL_STAT_BUSY 0 (foff FL_ROWS_ROWS 0 (foff FL_BADTILE_COUNT 0 { s with flx := 0 }))
    if fget FL_SIZE_W 0 s = 0 ∨ fget FL_SIZE_H 0 s = 0 then flEnd 0 s
    else if flCheck s ≠ 0 then flEnd (flCheck s) s
    else s

/-- FL_CTRL_GO (R330). -/
def execFlCtrlGo (s : State) : Host.Outcome State Fault Refusal := .next (flGo s)

/-- The bad tiles that first show in the 16 pixels from (x, y) on are counted; the first of a flatten is reported (R334). -/
def flBadTiles (x y : Nat) (s : State) : State :=
  let bad := badTiles 0 x y s + badTiles 1 x y s
  let first := fget FL_BADTILE_COUNT 0 s == 0
  onlyIf (decide (0 < bad)) (fun t => onlyIf first (report 0x11A 0 0) (fadd FL_BADTILE_COUNT 0 bad t)) s

/-- The next 64-byte write of the flat picture (R331): what it holds is read and formed now; FL_ROWS counts a row with its last write. The
answer is 0 or the code of the error. -/
def flPart (s : State) : Nat × State :=
  let x := s.flx
  let y := fget FL_ROWS_ROWS 0 s
  let ps := flattenPart x y s
  let s := countReads (fun t => if (flattenPart x y t).isSome then 0 else 1) 0x80 s
  match ps with
  | none => (5, s)
  | some ps =>
    match writePixels 4 (ps.map some) (64 * fget FL_DST_ADDR 0 s + y * fget FL_PITCH_PITCH 0 s + 4 * x) (flBadTiles x y s) with
    | (true, t) => (0, if fget FL_SIZE_W 0 s ≤ x + 16 then fadd FL_ROWS_ROWS 0 1 { t with flx := 0 } else { t with flx := x + 16 })
    | (false, t) => (6, t)

/-- `n` writes of the flat picture in turn, until one meets an error or `rows` rows are complete. -/
def flParts (rows : Nat) : Nat → State → Nat × State
  | 0, s => (0, s)
  | n + 1, s =>
    if rows ≤ fget FL_ROWS_ROWS 0 s then (0, s)
    else
      match flPart s with
      | (0, t) => flParts rows n t
      | r => r

/-- The writes that a flat picture takes. -/
def flWrites (s : State) : Nat := fget FL_SIZE_H 0 s * ((fget FL_SIZE_W 0 s + 15) / 16)

/-- FLATTEN_DONE (R328, R330, R334): what is left of the picture is written, and the flatten ends; or a bus error of the target on a write
(true) or a read stops it once a number of rows is complete. -/
def execFlattenDone (stop : Option (Bool × Nat)) (s : State) : Host.Outcome State Fault Refusal :=
  if fbit FL_STAT_BUSY 0 s then
    let h := fget FL_SIZE_H 0 s
    let (code, t) := flParts (min h ((stop.map Prod.snd).getD h)) (flWrites s) s
    let stopped := match stop with
      | none => 0
      | some (write, _) => if write then 6 else 5
    .next (flEnd (if code ≠ 0 then code else stopped) t)
  else .next s

/-- The flattener's dot (R330 to R332): the next write is made, in dots that the memories choose (Config.flattenMoves); in the dot after the
last the flatten ends. -/
def flattenOn (s : State) : State :=
  if fbit FL_STAT_BUSY 0 s then
    if fget FL_SIZE_H 0 s ≤ fget FL_ROWS_ROWS 0 s then flEnd 0 s
    else if Config.flattenMoves s.time then
      match flPart s with
      | (0, t) => t
      | (code, t) => flEnd code t
    else s
  else s

end Sys2Proof.Machine
end

