-- ==== Sys2Proof/Machine/Iface.lean ====
section
/-! DEFINITION. The standard interfaces: descriptor rings, Ethernet link, gates and MDIO, PCI Express messages and link, CAN FD states,
UART, I²C and SPI (R409 to R433). What moves data over the bus: IfaceBus.lean. -/

namespace Sys2Proof.Machine

open Sys2Proof

/-! ### Descriptor rings (R410, R411)

The 40 queues are numbered: 16k + q and 16k + 8 + r for the transmit and receive queues of Ethernet port k (receive queues 4 to 7 do not
exist), 32 + 2k and 33 + 2k for those of CAN FD controller k. -/

/-- The registers of a queue, its unit among them, whether it receives, its block: Ethernet port or CAN FD controller. -/
structure QRegs where
  base : Fld
  size : Fld
  prod : Fld
  cons : Fld
  code : Fld
  err : Fld
  busy : Fld
  unit : Nat
  rx : Bool
  eth : Bool
  block : Nat

/-- The registers of queue `q`. -/
def qRegs (q : Nat) : QRegs :=
  if q < 32 then
    if q % 16 < 8 then
      ⟨ETXQ_BASE_ADDR, ETXQ_SIZE_SIZE, ETXQ_PROD_INDEX, ETXQ_CONS_INDEX, ETXQ_STAT_ERRCODE, ETXQ_STAT_ERR, ETXQ_STAT_BUSY,
        8 * (q / 16) + q % 16, false, true, q / 16⟩
    else
      ⟨ERXQ_BASE_ADDR, ERXQ_SIZE_SIZE, ERXQ_PROD_INDEX, ERXQ_CONS_INDEX, ERXQ_STAT_ERRCODE, ERXQ_STAT_ERR, ERXQ_STAT_BUSY,
        4 * (q / 16) + (q % 16 - 8), true, true, q / 16⟩
  else if q % 2 = 0 then
    ⟨CTXQ_BASE_ADDR, CTXQ_SIZE_SIZE, CTXQ_PROD_INDEX, CTXQ_CONS_INDEX, CTXQ_STAT_ERRCODE, CTXQ_STAT_ERR, CTXQ_STAT_BUSY,
      (q - 32) / 2, false, false, (q - 32) / 2⟩
  else
    ⟨CRXQ_BASE_ADDR, CRXQ_SIZE_SIZE, CRXQ_PROD_INDEX, CRXQ_CONS_INDEX, CRXQ_STAT_ERRCODE, CRXQ_STAT_ERR, CRXQ_STAT_BUSY,
      (q - 32) / 2, true, false, (q - 32) / 2⟩

/-- Queue `q` exists: Ethernet ports have four receive queues. -/
def qExists (q : Nat) : Bool := decide (32 ≤ q) || decide (q % 16 < 12)

/-- What queue `q` holds beside its registers. -/
def queue (q : Nat) (s : State) : QueueH := sget QueueH.init s.net.q q

/-- Queue `q` holds `h`. -/
def setQueueH (q : Nat) (h : QueueH) (s : State) : State :=
  fset (qRegs q).busy (qRegs q).unit (if h.hands = [] then 0 else 1) { s with net := { s.net with q := sset QueueH.init s.net.q q h } }

/-- The block of a queue refuses a write (R410). -/
def blockRefuses (q : Nat) (s : State) : State :=
  fon (if (qRegs q).eth then ETH_STAT_CFG_REFUSED else CAN_STAT_CFG_REFUSED) (qRegs q).block s

/-- The descriptors of queue `q` that belong to the hardware and are not in hand. -/
def qReady (q : Nat) (s : State) : Nat :=
  let r := qRegs q
  let size := fget r.size r.unit s
  if size = 0 ∨ fbit r.err r.unit s then 0
  else (fget r.prod r.unit s + size - fget r.cons r.unit s) % size - (queue q s).hands.length

/-- A write of Q_PROD (R410): accepted where it takes nothing back and does not overrun the ring; one that carries the value held does
nothing (R500). -/
def prodWrite (q v : Nat) (s : State) : State :=
  let r := qRegs q
  let size := fget r.size r.unit s
  let prod := fget r.prod r.unit s
  let new := v % 2 ^ 12
  if new = prod then s
  else if size = 0 ∨ size ≤ new ∨ (fget r.cons r.unit s + 2 * size - prod - 1) % size < (new + size - prod) % size then blockRefuses q s
  else
    let empty := fget r.cons r.unit s == prod
    onlyIf empty (fun t => setQueueH q { queue q t with head := t.pos } t) (fset r.prod r.unit new s)

/-- Q_PROD_WRITE (R410). -/
def execQProdWrite (q : Fin 40) (v : Word) (s : State) : Host.Outcome State Fault Refusal :=
  .next (if qExists q then prodWrite q v.toNat s else s)

/-- A write of Q_SIZE (R410): an accepted one resets the indices and ERR; one that carries the non-zero value held is not refused (R500). -/
def qSizeWrite (q v : Nat) (s : State) : State :=
  let r := qRegs q
  let size := v % 2 ^ 13
  if size ≠ 0 ∧ size = fget r.size r.unit s then s
  else if size ≠ 0 ∧ (fget r.size r.unit s ≠ 0 ∨ size = 1 ∨ 4096 < size ∨ ringPlaced (32 * fget r.base r.unit s) (2 * size) = false) then
    blockRefuses q s
  else
    foff r.err r.unit (fset r.prod r.unit 0 (fset r.cons r.unit 0 (fset r.size r.unit size (setQueueH q QueueH.init s))))

/-- Q_SIZE_WRITE (R410). -/
def execQSizeWrite (q : Fin 40) (v : Word) (s : State) : Host.Outcome State Fault Refusal :=
  .next (if qExists q then qSizeWrite q v.toNat s else s)

/-- A write of Q_BASE: accepted only while Q_SIZE is 0, unless it carries the value held (R410, R500). -/
def qBaseWrite (q v : Nat) (s : State) : State :=
  let r := qRegs q
  if fget r.size r.unit s = 0 ∨ fget r.base r.unit s = bits v 31 5 then fset r.base r.unit (bits v 31 5) s else blockRefuses q s

/-- The descriptors of queue `q` in hand that have been written back. -/
def qBack (q : Nat) (s : State) : List Hand := (queue q s).hands.take (queue q s).back

/-- Queue `q` stops with a code: what has been written back is completed, nothing else (R411, R432, R433). -/
def qStop (q code : Nat) (s : State) : State :=
  let r := qRegs q
  let s := fset r.code r.unit code (fon r.err r.unit (setQueueH q { queue q s with hands := qBack q s } s))
  if r.eth then
    arrive (0x146 + 8 * r.block) (code * 2 ^ 8 + r.rx.toNat * 2 ^ 7 + (if r.rx then q % 16 - 8 else q % 16)) (report 0x1F0 0 0 s)
  else arrive (0x163 + 4 * r.block) (code * 2 ^ 8 + r.rx.toNat * 2 ^ 7) (report 0x1F6 0 0 s)

/-- Queue `q` has a descriptor to access: one that is ready, or one in hand that is not written back. -/
def qWorks (q : Nat) (s : State) : Bool := decide (qReady q s ≠ 0) || decide ((queue q s).back < (queue q s).hands.length)

/-- QUEUE_STOP (R411): a queue that is not stopped and has a descriptor to access stops, with one of the four causes. -/
def execQueueStop (q : Fin 40) (code : Fin 5) (s : State) : Host.Outcome State Fault Refusal :=
  .next (if qExists q && decide (code ≠ 0) && !fbit (qRegs q).err (qRegs q).unit s && qWorks q s then qStop q code s else s)

/-! ### Ethernet (R412, R416, R418, R432) -/

/-- What Ethernet port `k` holds beside its registers. -/
def eth (k : Nat) (s : State) : EthH := sget EthH.init s.net.eth k

/-- Port `k` holds `h`. -/
def setEth (k : Nat) (h : EthH) (s : State) : State := { s with net := { s.net with eth := sset EthH.init s.net.eth k h } }

/-- ETH_LINK_CHANGE (R412, R432): a link comes up at a speed of the port's mode, 2,500 Mb/s in 2500BASE-X and the others in SGMII. -/
def execEthLinkChange (k : Fin 2) (up : Bool) (speed : Fin 4) (s : State) : Host.Outcome State Fault Refusal :=
  if fbit ETH_STAT_LINK k s == up || (up && (speed == 3) != fbit ETH_CTRL_MODE k s) then .next s
  else .next (arrive (0x145 + 8 * k) (speed.val * 2 + up.toNat) (fset ETH_STAT_SPEED k speed (fset ETH_STAT_LINK k up.toNat s)))

/-- A write of 1 to ETH_GCL_CTRL.COMMIT (R416). -/
def gclCommit (k : Nat) (s : State) : State := fon ETH_GCL_STAT_PEND k s

/-- GCL_COMMIT (R416). -/
def execGclCommit (k : Fin 2) (s : State) : Host.Outcome State Fault Refusal := .next (gclCommit k s)

/-- The position is a cycle start of port `k` (R416): dot 0 of a line that the cycle divides. Without a cycle a waiting commit is taken at a
line that its own cycle divides. -/
def gclStarts (k : Nat) (s : State) : Bool :=
  let c := fget ETH_GCL_CYCLE_LINES_E k s
  let c := if c = 0 then max 1 (fget ETH_GCL_CYCLE_LINES k s) else c
  s.pos.dot == 0 && s.pos.line % c == 0

/-- GCL_CYCLE_START (R416): at a cycle start a waiting commit is made, and entry 0 governs. -/
def execGclCycleStart (k : Fin 2) (s : State) : Host.Outcome State Fault Refusal :=
  if !gclStarts k s then .next s
  else
  let s := if fbit ETH_GCL_STAT_PEND k s then
      let s := fset ETH_GCL_CYCLE_LINES_E k (fget ETH_GCL_CYCLE_LINES k s) (fset ETH_GCL_LEN_COUNT_E k (fget ETH_GCL_LEN_COUNT k s) s)
      let s := forAll (List.range 256) (fun e t => fset ETH_GCL_GATES_E (256 * k + e) (fget ETH_GCL_GATES (256 * k + e) t)
        (fset ETH_GCL_DOTS_E (256 * k + e) (fget ETH_GCL_DOTS (256 * k + e) t) t)) s
      foff ETH_GCL_STAT_PEND k s
    else s
  .next (foff ETH_GCL_STAT_ENTRY k s)

/-- Dots since the start of the cycle that the position lies in (R416). -/
def gclOffset (k : Nat) (s : State) : Nat := s.pos.line % max 1 (fget ETH_GCL_CYCLE_LINES_E k s) * dotsEff s + s.pos.dot

/-- Dots from the position to the end of its cycle: the next cycle start, or the frame's end. -/
def gclLeft (k : Nat) (s : State) : Nat :=
  let c := max 1 (fget ETH_GCL_CYCLE_LINES_E k s)
  min (c - s.pos.line % c) (linesEff s - s.pos.line) * dotsEff s - s.pos.dot

/-- The end of entry `e` in dots from the cycle's start. -/
def gclEnd (k e : Nat) (s : State) : Nat :=
  (List.range (e + 1)).foldl (fun a i => a + fget ETH_GCL_DOTS_E (256 * k + i) s) 0

/-- Entry `e` of port `k` has run its DOTS in the present cycle, and another follows it (R416). -/
def gclPassed (k e : Nat) (s : State) : Bool := decide (e + 1 < fget ETH_GCL_LEN_COUNT_E k s) && decide (gclEnd k e s ≤ gclOffset k s)

/-- Every gate is open: no cycle, or no entries. -/
def gclOff (k : Nat) (s : State) : Bool := fget ETH_GCL_CYCLE_LINES_E k s == 0 || fget ETH_GCL_LEN_COUNT_E k s == 0

/-- GCL_ENTRY_ADVANCE (R416): the next entry's gates apply once the entry in effect has run its DOTS. -/
def execGclEntryAdvance (k : Fin 2) (s : State) : Host.Outcome State Fault Refusal :=
  .next (if !gclOff k s && gclPassed k (fget ETH_GCL_STAT_ENTRY k s) s then fadd ETH_GCL_STAT_ENTRY k 1 s else s)

/-- The gate of queue `q` of port `k` is open in the present dot. -/
def gateOpen (k q : Nat) (s : State) : Bool :=
  gclOff k s || fbitAt ETH_GCL_GATES_E (256 * k + fget ETH_GCL_STAT_ENTRY k s) q s

/-- The gate of queue `q` stays open for `n` dots from entry `e` on, which has `left` dots to run; at a cycle's end the list begins again
(R416). -/
def gateStays (k q : Nat) (s : State) : Nat → Nat → Nat → Nat → Nat → Bool
  | 0, _, _, _, _ => false
  | fuel + 1, e, left, cycle, n =>
    if !fbitAt ETH_GCL_GATES_E (256 * k + e) q s then n == 0
    else
      let last := e + 1 == fget ETH_GCL_LEN_COUNT_E k s
      let run := if last then cycle else min left cycle
      if n ≤ run then true
      else if run = cycle then
        gateStays k q s fuel 0 (fget ETH_GCL_DOTS_E (256 * k) s) (fget ETH_GCL_CYCLE_LINES_E k s * dotsEff s) (n - run)
      else gateStays k q s fuel (e + 1) (fget ETH_GCL_DOTS_E (256 * k + e + 1) s) (cycle - run) (n - run)

/-- The gate of queue `q` stays open for the next `n` dots. -/
def gateFor (k q n : Nat) (s : State) : Bool :=
  gclOff k s ||
    let e := fget ETH_GCL_STAT_ENTRY k s
    gateStays k q s 4096 e (gclEnd k e s - gclOffset k s) (gclLeft k s) n

/-- The port's rate in kbit/s. -/
def ethRate (k : Nat) (s : State) : Nat :=
  match fget ETH_STAT_SPEED k s with
  | 0 => 10000
  | 1 => 100000
  | 2 => 1000000
  | _ => 2500000

/-- The dots that `n` bytes take at the port's rate, rounded up: 400 dots a µs. -/
def ethDots (k n : Nat) (s : State) : Nat := (n * 8 * 400000 + ethRate k s - 1) / ethRate k s

/-- The credits of port `k` move on by one dot, in bits times 400,000 (R417): they grow at idleSlope while the queue has a frame waiting or
the credit is negative, fall at sendSlope while it sends, and stand still while the gate is closed. -/
def creditTick (k : Nat) (s : State) : State :=
  let h := eth k s
  let sending := if s.time < h.busy then h.sending else none
  let step (q : Nat) (m : SMap Int) : SMap Int :=
    if !fbit ETH_CBS_EN (8 * k + q) s then sset 0 m q 0
    else if !gateOpen k q s then m
    else
      let c := sget 0 m q
      let idle : Int := fget ETH_CBS_IDLE (8 * k + q) s
      let waits := qReady (16 * k + q) s ≠ 0
      if sending = some q then sset 0 m q (c + idle - ethRate k s)
      else if waits ∨ c < 0 then sset 0 m q (if waits then c + idle else min 0 (c + idle))
      else sset 0 m q 0
  if (List.range 8).any (fun q => fbit ETH_CBS_EN (8 * k + q) s) then
    setEth k { h with credit := (List.range 8).foldl (fun m q => step q m) h.credit } s
  else s

/-- A write of ETH_CBSq (R417): refused with IDLE 0 and EN 1, and where the enabled shapers would have more than 75 % of the rate. -/
def cbsWrite (k q v : Nat) (s : State) : State :=
  let en := bits v 31 31
  let idle := bits v 21 0
  let sum := ((List.range 8).filter (fun j => j != q && fbit ETH_CBS_EN (8 * k + j) s)).foldl (fun a j => a + fget ETH_CBS_IDLE (8 * k + j) s)
    (if en = 1 then idle else 0)
  if 2500000 < idle ∨ (en = 1 ∧ idle = 0) ∨ (en = 1 ∧ 3 * ethRate k s < 4 * sum) then fon ETH_STAT_CFG_REFUSED k s
  else fset ETH_CBS_EN (8 * k + q) en (fset ETH_CBS_IDLE (8 * k + q) idle s)

/-- An MDIO operation starts (R412, R418): refused while one is in progress, with OP 3, and for an address in clause 22. -/
def mdioGo (c45 : Bool) (op phy reg data : Nat) (s : State) : State :=
  if fbit ETH_MDIO_STAT_BUSY 0 s || op == 3 || (op == 2 && !c45) then fon ETH_STAT_CFG_REFUSED 0 s
  else
    fon ETH_MDIO_STAT_BUSY 0 (fset ETH_MDIO_C45 0 c45.toNat (fset ETH_MDIO_OP 0 op (fset ETH_MDIO_PHY 0 phy (fset ETH_MDIO_REG 0 reg
      (fset ETH_MDIO_DATA 0 data s)))))

/-- MDIO_WRITE (R412). -/
def execMdioWrite (c45 : Bool) (phy reg : BitVec 5) (data : BitVec 16) (s : State) : Host.Outcome State Fault Refusal :=
  .next (mdioGo c45 0 phy.toNat reg.toNat data.toNat s)

/-- MDIO_READ (R412). -/
def execMdioRead (c45 : Bool) (phy reg : BitVec 5) (s : State) : Host.Outcome State Fault Refusal :=
  .next (mdioGo c45 1 phy.toNat reg.toNat (fget ETH_MDIO_DATA 0 s) s)

/-- MDIO_ADDRESS (R412): clause 45 only. -/
def execMdioAddress (phy reg : BitVec 5) (data : BitVec 16) (s : State) : Host.Outcome State Fault Refusal :=
  .next (mdioGo true 2 phy.toNat reg.toNat data.toNat s)

/-- MDIO_DONE (R418): a read leaves its result in DATA. -/
def execMdioDone (data : BitVec 16) (s : State) : Host.Outcome State Fault Refusal :=
  if fbit ETH_MDIO_STAT_BUSY 0 s then
    .next (fon ETH_MDIO_STAT_DONE 0 (foff ETH_MDIO_STAT_BUSY 0 (if fget ETH_MDIO_OP 0 s = 1 then fset ETH_MDIO_DATA 0 data.toNat s else s)))
  else .next s

/-! ### PCI Express (R421, R422, R432, R433) -/

/-- The endpoint holds `h`. -/
def setPcie (h : PcieH) (s : State) : State := { s with net := { s.net with pcie := h } }

/-- An outbound failure (R421): bit 2 link down, 1 error completion, 0 timeout. -/
def outFails (bit : Nat) (s : State) : State := arrive 0x15B (2 ^ bit) (report 0x1F4 0 0 (fcount PCIE_OUTERR_COUNT 0 1 s))

/-- The PCI Express address that the device address `a` of the outbound aperture is sent to: its window of 64 MiB and what POW gives for it
(R421). -/
def outAddr (a : Nat) (s : State) : Nat :=
  let k := (a - 0x60000000) / 2 ^ 26 % 8
  fget POW_HI_ADDR k s * 2 ^ 32 + fget POW_LO_ADDR k s * 2 ^ 26 + a % 2 ^ 26

/-- The endpoint sends an outbound request. -/
def sendOut (write : Bool) (a n v : Nat) (s : State) : State :=
  setPcie { s.net.pcie with out := some ⟨write, outAddr a s, n, v⟩ } s

/-- An outbound read of `n` bytes at `a`: what the host's completion gives; `none` is a bus error (R421). Where no completion is among the
commands, the data is a free value. -/
def pcieRead (a n : Nat) (s : State) : Option Nat × State :=
  if !fbit PCIE_STAT_LINK_UP 0 s then (none, outFails 2 s)
  else
    let s := sendOut false a n 0 s
    match s.net.pcie.ends with
    | [] => (some ((Config.pcieData s.fresh).toNat % 2 ^ (8 * n)), nextFresh s)
    | e :: rest =>
      let s := setPcie { s.net.pcie with ends := rest } s
      match e with
      | .data v => (some (v % 2 ^ (8 * n)), s)
      | .error => (none, outFails 1 s)
      | .timeout => (none, outFails 0 s)

/-- An outbound write of `n` bytes of `v` at `a`: dropped while the link is down (R421). -/
def pcieWrite (a n v : Nat) (s : State) : State :=
  if fbit PCIE_STAT_LINK_UP 0 s then sendOut true a n (v % 2 ^ (8 * n)) s else outFails 2 s

/-- PCIE_OUTBOUND_COMPLETION (R421): the completion of the next outbound read: data, or an error. -/
def execPcieOutboundCompletion (data : Option (BitVec 64)) (s : State) : Host.Outcome State Fault Refusal :=
  let e := match data with
    | some v => PcieEnd.data v.toNat
    | none => .error
  .next (setPcie { s.net.pcie with ends := s.net.pcie.ends ++ [e] } s)

/-- PCIE_COMPLETION_TIMEOUT (R421): the next outbound read gets no completion. -/
def execPcieCompletionTimeout (s : State) : Host.Outcome State Fault Refusal :=
  .next (setPcie { s.net.pcie with ends := s.net.pcie.ends ++ [.timeout] } s)

/-- A write of PCIE_MSI_SEND (R422): by MSI-X, else by MSI, else nothing is sent. -/
def msiSend (v : Nat) (s : State) : State :=
  if s.net.pcie.msi = 0 ∨ fbit PCIE_STAT_LINK_UP 0 s = false then s else setPcie { s.net.pcie with sent := some (v, s.net.pcie.msi) } s

/-- PCIE_MSI_SEND (R422). -/
def execPcieMsiSend (v : Fin 32) (s : State) : Host.Outcome State Fault Refusal := .next (msiSend v s)

/-- PCIE_DB_WRITE (R422). -/
def execPcieDbWrite (i : Fin 8) (v : Word) (s : State) : Host.Outcome State Fault Refusal := .next (arrive (0x153 + i) v.toNat s)

/-- LINK_UP changes (R432, R433). -/
def pcieLink (up : Bool) (gen width : Nat) (s : State) : State :=
  if fbit PCIE_STAT_LINK_UP 0 s == up then s
  else
    let s := fset PCIE_STAT_WIDTH 0 width (fset PCIE_STAT_GEN 0 gen (fset PCIE_STAT_LINK_UP 0 up.toNat s))
    let s := onlyIf up (foff PCIE_STAT_PERST 0) s
    arrive 0x150 (width * 2 ^ 4 + gen * 2 + up.toNat) (onlyIf (!up && fbit PCIE_CTRL_EN 0 s) (report 0x1F2 0 0) s)

/-- PCIE_LINK_CHANGE (R419, R432): the link of an enabled endpoint comes up at a rate and width within its limits, or a link goes down;
`msi` is what the host enables over this link: 0 nothing, 1 MSI, 2 MSI-X. -/
def execPcieLinkChange (up : Bool) (gen : Fin 4) (width : Fin 3) (msi : Fin 3) (s : State) : Host.Outcome State Fault Refusal :=
  if up && (!fbit PCIE_CTRL_EN 0 s || decide (fget PCIE_CTRL_MAXGEN 0 s < gen) || decide (fget PCIE_CTRL_MAXWIDTH 0 s < width)) then .next s
  else .next (pcieLink up gen width (setPcie { s.net.pcie with msi := if up then msi.val else 0, ends := [] } s))

/-- PERST_OR_HOT_RESET (R422): the link and the configuration space are reset. PERST_N is seen where pin P231 carries it (R453), a hot reset
over a link that is up. -/
def execPerstOrHotReset (perst : Bool) (s : State) : Host.Outcome State Fault Refusal :=
  if (if perst then pinCarries 231 0x10 s else fbit PCIE_STAT_LINK_UP 0 s) then
    let s := pcieLink false (fget PCIE_STAT_GEN 0 s) (fget PCIE_STAT_WIDTH 0 s) (setPcie PcieH.init s)
    .next (arrive 0x151 perst.toNat (onlyIf perst (fon PCIE_STAT_PERST 0) s))
  else .next s

/-! ### CAN FD states (R426, R432, R433) -/

/-- What CAN FD controller `k` holds beside its registers. -/
def can (k : Nat) (s : State) : CanH := sget ⟨false, none⟩ s.net.can k

/-- Controller `k` holds `h`. -/
def setCan (k : Nat) (h : CanH) (s : State) : State := { s with net := { s.net with can := sset ⟨false, none⟩ s.net.can k h } }

/-- The controller's state becomes `st`: a change raises its event, and entry to bus-off reports (R426). -/
def canState (k st : Nat) (s : State) : State :=
  if fget CAN_STAT_STATE k s = st then s
  else
    let s := fset CAN_STAT_STATE k st s
    arrive (0x162 + 4 * k) (fget CAN_STAT_TEC k s * 2 ^ 8 + st) (onlyIf (st == 2) (report 0x1F5 0 0) s)

/-- CAN_STATE_CHANGE (R426): the error counters of the standard move in an enabled controller; bus-off is left only by recovery. -/
def execCanStateChange (k : Fin 4) (tec : BitVec 9) (errs : Byte) (s : State) : Host.Outcome State Fault Refusal :=
  if !fbit CAN_CTRL_EN k s then .next s
  else
  let st := if fget CAN_STAT_STATE k s = 2 ∨ 256 ≤ tec.toNat then 2 else if 128 ≤ tec.toNat ∨ 128 ≤ errs.toNat then 1 else 0
  .next (canState k st (fset CAN_STAT_TEC k (min tec.toNat 255) (fset CAN_STAT_REC k errs.toNat s)))

/-- A write of 1 to CAN_CTRL.RECOVER (R426). -/
def canRecover (k : Nat) (s : State) : State :=
  if fget CAN_STAT_STATE k s = 2 then setCan k { can k s with recovering := true } s else s

/-- RECOVER (R426). -/
def execRecover (k : Fin 4) (s : State) : Host.Outcome State Fault Refusal := .next (canRecover k s)

/-- BUSOFF_RECOVERY_DONE (R426): the controller is error-active again, its counters at 0. -/
def execBusoffRecoveryDone (k : Fin 4) (s : State) : Host.Outcome State Fault Refusal :=
  if (can k s).recovering then
    .next (canState k 0 (foff CAN_STAT_TEC k (foff CAN_STAT_REC k (setCan k { can k s with recovering := false } s))))
  else .next s

/-! ### UART (R428, R431, R432) -/

/-- The FIFOs of the UART, with their levels. -/
def setUart (tx rx : List Nat) (s : State) : State :=
  fset UART_FIFO_TXLVL 0 tx.length (fset UART_FIFO_RXLVL 0 rx.length { s with net := { s.net with uartTx := tx, uartRx := rx } })

/-- The character on TX began in dot `d`, or there is none. -/
def uartLine (d : Option Nat) (s : State) : State := { s with net := { s.net with uartAt := d } }

/-- A line error: flags of UART_STAT [3:0], event 0x172, a report in the frame's last dot (R428, R432, R433). -/
def uartError (flags : Nat) (s : State) : State :=
  if flags = 0 then s
  else
    let one (f : Fld) (i : Nat) (t : State) : State := onlyIf (flags.testBit i) (fon f 0) t
    let s := one UART_STAT_OVERRUN 0 (one UART_STAT_FRAMING 1 (one UART_STAT_PARITY 2 (one UART_STAT_BREAK 3 s)))
    arrive 0x172 flags { s with frameRep := nput 0x1F7 s.frameRep }

/-- UART_CHARACTER_RECEIVE (R428): a character on the pin that carries RX enters the FIFO, or is lost to a full one (R453). -/
def execUartCharacterReceive (ch : Byte) (framing parity brk : Bool) (s : State) : Host.Outcome State Fault Refusal :=
  if !fbit UART_CTRL_EN 0 s || !pinCarries 217 0x10 s then .next s
  else
    let flags := framing.toNat * 2 + parity.toNat * 4 + brk.toNat * 8
    let rx := s.net.uartRx
    if 64 ≤ rx.length then .next (uartError (flags + 1) s)
    else
      let c := ch.toNat % 2 ^ (5 + fget UART_CTRL_BITS 0 s)
      let s := joined UART_DATA_CHAR
        (uartError flags (setUart s.net.uartTx (rx ++ [c + framing.toNat * 2 ^ 9 + parity.toNat * 2 ^ 10 + brk.toNat * 2 ^ 11]) s))
      .next (onlyIf (fget UART_FIFO_RXLVL 0 s == fget UART_FIFO_RXTHR 0 s) (arrive 0x171 (fget UART_FIFO_RXLVL 0 s)) s)

/-- UART_CHARACTER_SENT (R428): an enabled UART has sent its oldest character. -/
def execUartCharacterSent (s : State) : Host.Outcome State Fault Refusal :=
  match (if fbit UART_CTRL_EN 0 s then s.net.uartTx else []) with
  | [] => .next s
  | _ :: rest =>
    let s := uartLine none (setUart rest s.net.uartRx s)
    .next (onlyIf (rest.length == fget UART_FIFO_TXTHR 0 s) (arrive 0x170 rest.length) s)

/-- A write of UART_DATA (R431). -/
def uartWrite (c : Nat) (s : State) : State :=
  if 64 ≤ s.net.uartTx.length then fon UART_STAT_TXFULL 0 s else setUart (s.net.uartTx ++ [c % 256]) s.net.uartRx s

/-- UART_DATA_WRITE (R431). -/
def execUartDataWrite (ch : Byte) (s : State) : Host.Outcome State Fault Refusal := .next (uartWrite ch.toNat s)

/-- A read of UART_DATA: the oldest character with its flags and VALID (R13, R431). -/
def uartRead (s : State) : State :=
  match present UART_DATA_CHAR s.net.uartRx s with
  | [] => answer 0 s
  | c :: _ => answer (c + 2 ^ 8) (setUart s.net.uartTx s.net.uartRx.tail s)

/-- UART_DATA_READ (R431). -/
def execUartDataRead (s : State) : Host.Outcome State Fault Refusal := .next (uartRead s)

/-! The characters on TX (R428, R453): a start bit, the data bits from the least significant on, a parity bit, the stop bits. A bit lasts
16 × (DIV + FRAC ÷ 64) periods of the 200 MHz clock, each 2 dots; the model counts it in half dots. -/

/-- The half dots of a bit. -/
def uartBit (s : State) : Nat := 64 * fget UART_DIV_DIV 0 s + fget UART_DIV_FRAC 0 s

/-- The data bits of a character. -/
def uartData (s : State) : Nat := 5 + fget UART_CTRL_BITS 0 s

/-- The bits of a character, its start bit, parity bit and stop bits among them. -/
def uartFrame (s : State) : Nat :=
  1 + uartData s + (fget UART_CTRL_PARITY 0 s != 0).toNat + 1 + fget UART_CTRL_STOP2 0 s

/-- Bit `k` of character `c` on the line. -/
def uartLevel (c k : Nat) (s : State) : Bool :=
  let n := uartData s
  let odd := (List.range n).foldl (fun b i => b != c.testBit i) false
  if k = 0 then false
  else if k ≤ n then c.testBit (k - 1)
  else if k = n + 1 then
    match fget UART_CTRL_PARITY 0 s with
    | 1 => odd
    | 2 => !odd
    | 4 => false
    | _ => true
  else true

/-- The level of TX as the present dot begins. -/
def uartTxPin (s : State) : Bool :=
  match s.net.uartAt, s.net.uartTx with
  | some d, c :: _ => uartLevel c (2 * (s.time - d) / uartBit s) s
  | _, _ => true

/-- The other side lets the UART send: FLOW is 0, or CTS_N is low; it is where no pin carries it, and with RS485 (R428, R453). The
dot's own levels have not come yet: a pin is seen as it was two dots ago (R454). -/
def uartClear (s : State) : Bool :=
  !fbit UART_CTRL_FLOW 0 s || fbit UART_CTRL_RS485 0 s || !(pinCarries 219 0x10 s && s.pads.lvl1.contains 219)

/-- The UART's dot: the character on TX ends, the next begins. -/
def uartTick (s : State) : State :=
  if !fbit UART_CTRL_EN 0 s then (if s.net.uartAt = none then s else uartLine none s)
  else
    let over_ := match s.net.uartAt with
      | some d => decide (uartFrame s * uartBit s ≤ 2 * (s.time - d))
      | none => false
    let s := if over_ then ran (execUartCharacterSent s) s else s
    if s.net.uartAt = none ∧ s.net.uartTx ≠ [] ∧ uartClear s then uartLine (some s.time) s else s

/-- UART_RX_TIMEOUT (R432). -/
def execUartRxTimeout (s : State) : Host.Outcome State Fault Refusal :=
  let n := s.net.uartRx.length
  .next (if n = 0 then s else arrive 0x171 (2 ^ 7 + n) s)

/-! ### I²C (R429, R431, R432) -/

/-- A transaction ends: RESULT, the event. -/
def i2cEnds (result done : Nat) (s : State) : State :=
  let s := fset I2C_STAT_RESULT 0 result (fset I2C_STAT_DONE 0 done (foff I2C_STAT_BUSY 0 s))
  arrive 0x173 (done * 2 ^ 8 + result) s

/-- A write of I2C_CMD (R429): refused whole while BUSY, with a count above 32, and for GO while the controller is disabled. -/
def i2cCommand (v : Nat) (s : State) : State :=
  let go := v.testBit 31
  if fbit I2C_STAT_BUSY 0 s || decide (32 < bits v 13 8) || decide (32 < bits v 5 0) || (go && !fbit I2C_CTRL_EN 0 s) then
    fon I2C_STAT_CFG_REFUSED 0 s
  else
    let s := fset I2C_CMD_ADDR10 0 (bits v 30 30) (fset I2C_CMD_ADDR 0 (bits v 25 16) (fset I2C_CMD_WCOUNT 0 (bits v 13 8)
      (fset I2C_CMD_RCOUNT 0 (bits v 5 0) s)))
    if !go then s else if bits v 13 8 = 0 ∧ bits v 5 0 = 0 then i2cEnds 0 0 s else fon I2C_STAT_BUSY 0 s

/-- I2C_TRANSACTION (R429). -/
def execI2cTransaction (v : Word) (s : State) : Host.Outcome State Fault Refusal := .next (i2cCommand (v.toNat % 2 ^ 31 + 2 ^ 31) s)

/-- The bytes read by a transaction that moved `done` bytes reach I2C_RDATA. -/
def i2cData (done data : Nat) (s : State) : State :=
  let n := min (done - fget I2C_CMD_WCOUNT 0 s) (fget I2C_CMD_RCOUNT 0 s)
  forAll (List.range n) (fun i t =>
    let w := fget I2C_RDATA_DATA (i / 4) t
    let sh := 2 ^ (8 * (i % 4))
    fset I2C_RDATA_DATA (i / 4) (w - w / sh % 256 * sh + data / 2 ^ (8 * i) % 256 * sh) t) s

/-- I2C_TRANSACTION_END (R429): `done` bytes moved, the bytes read in `data`. -/
def execI2cTransactionEnd (result : Fin 4) (done : Fin 64) (data : BitVec 256) (s : State) : Host.Outcome State Fault Refusal :=
  .next (if fbit I2C_STAT_BUSY 0 s then i2cEnds result done (i2cData done data.toNat s) else s)

/-- I2C_SCL_TIMEOUT (R429): RESULT 4, I2C_ERR. -/
def execI2cSclTimeout (s : State) : Host.Outcome State Fault Refusal :=
  .next (if fbit I2C_STAT_BUSY 0 s then report 0x1F8 0 0 (i2cEnds 4 0 s) else s)

/-! ### SPI (R430 to R432) -/

/-- The SPI controller holds `h`, with its levels. -/
def setSpi (h : SpiH) (s : State) : State :=
  fset SPI_FIFO_TXLVL 0 h.tx.length (fset SPI_FIFO_RXLVL 0 h.rx.length { s with net := { s.net with spi := h } })

/-- A word is exchanged: the oldest word to send leaves, the target's word arrives; it is 0 where no pin carries MISO (R430, R453). -/
def spiWord (s : State) : State :=
  let h := s.net.spi
  match h.tx with
  | [] => s
  | _ :: tx =>
    let (w, input, s) := match h.input with
      | [] => ((Config.spiInput s.fresh).toNat, [], nextFresh s)
      | w :: rest => (w, rest, s)
    let w := if pinCarries 226 0x10 s then w % 2 ^ fget SPI_CTRL_WORD 0 s else 0
    let s := joined SPI_RX_WORD (setSpi { h with tx := tx, rx := h.rx ++ [w], left := h.left - 1, moved := h.moved + 1, input := input } s)
    let tl := fget SPI_FIFO_TXLVL 0 s
    let rl := fget SPI_FIFO_RXLVL 0 s
    onlyIf (tl == fget SPI_FIFO_TXTHR 0 s || rl == fget SPI_FIFO_RXTHR 0 s) (arrive 0x175 (rl * 2 ^ 8 + tl)) s

/-- A transfer ends (R430, R432). -/
def spiEnds (s : State) : State :=
  arrive 0x174 (s.net.spi.moved % 2 ^ 16) (fon SPI_STAT_DONE 0 (foff SPI_STAT_BUSY 0 (setSpi { s.net.spi with at_ := none } s)))

/-- A write of SPI_XFER (R430): refused whole while BUSY, and for GO while the controller is disabled. -/
def spiXfer (v : Nat) (input : List Nat) (s : State) : State :=
  let go := v.testBit 31
  if fbit SPI_STAT_BUSY 0 s || (go && !fbit SPI_CTRL_EN 0 s) then fon SPI_STAT_CFG_REFUSED 0 s
  else
    let s := fset SPI_XFER_CS 0 (bits v 29 28) (fset SPI_XFER_COUNT 0 (bits v 15 0) s)
    let n := bits v 15 0
    if !go then s
    else
      let s := setSpi { s.net.spi with left := n, moved := 0, input := input, at_ := none } s
      if n = 0 then spiEnds s else fon SPI_STAT_BUSY 0 s

/-- SPI_TRANSFER (R430): the target will send the words `miso`. -/
def execSpiTransfer (v : Word) (miso : List Word) (s : State) : Host.Outcome State Fault Refusal :=
  .next (spiXfer (v.toNat % 2 ^ 31 + 2 ^ 31) (miso.map BitVec.toNat) s)

/-- SPI_TRANSFER_END (R430): every word has moved. -/
def execSpiTransferEnd (s : State) : Host.Outcome State Fault Refusal :=
  .next (if fbit SPI_STAT_BUSY 0 s && s.net.spi.left == 0 then spiEnds s else s)

/-! The words on SCK and MOSI (R430). Half an SCK period is DIV + 1 periods of the 200 MHz clock. Bit `j` of a word that begins in dot `d`
lasts one SCK period from `d` plus `j` periods on, SCK leaving its idle level half-way; CS falls as the first word begins and rises half
a period after the last one ends. The polarity and phase of the modes are the usual ones: bit 1 of MODE is SCK's idle level, and with
bit 0 MOSI changes on the edge that leaves it (PRESUMED, log 104). -/

/-- The dots of half an SCK period. -/
def spiHalf (s : State) : Nat := 2 * (fget SPI_CTRL_DIV 0 s + 1)

/-- There is a word to move, and room for what comes back. -/
def spiCan (s : State) : Bool :=
  decide (s.net.spi.left ≠ 0) && decide (s.net.spi.tx ≠ []) && decide (s.net.spi.rx.length < 64)

/-- The dot in which the word in hand begins. -/
def spiAt (d : Option Nat) (s : State) : State := setSpi { s.net.spi with at_ := d } s

/-- The controller's dot: the word in hand ends and the next begins, or SCK pauses, or the transfer ends. -/
def spiTick (s : State) : State :=
  if !fbit SPI_STAT_BUSY 0 s then s
  else match s.net.spi.at_ with
  | none => if spiCan s then spiAt (some s.time) s else s
  | some d =>
    if s.net.spi.left = 0 then (if d + spiHalf s ≤ s.time then spiEnds s else s)
    else if d + 2 * spiHalf s * fget SPI_CTRL_WORD 0 s ≤ s.time then
      let s := spiWord s
      spiAt (if s.net.spi.left = 0 ∨ spiCan s then some s.time else none) s
    else s

/-- The half SCK periods of the word in hand that have passed; none while SCK rests. -/
def spiHalves (s : State) : Option Nat :=
  match s.net.spi.at_ with
  | some d => if fbit SPI_STAT_BUSY 0 s && decide (s.net.spi.left ≠ 0) then some ((s.time - d) / spiHalf s) else none
  | none => none

/-- The level of SCK as the present dot begins. -/
def sckPin (s : State) : Bool :=
  let idle := (fget SPI_MODE_MODE 0 s).testBit 1
  match spiHalves s with
  | some h => idle != decide (h % 2 = 1)
  | none => idle

/-- The level of MOSI as the present dot begins; 0 where no bit is being sent. -/
def mosiPin (s : State) : Bool :=
  let n := fget SPI_CTRL_WORD 0 s
  match spiHalves s, s.net.spi.tx with
  | some h, w :: _ =>
    let late := (fget SPI_MODE_MODE 0 s).testBit 0
    let j := if late then (h - 1) / 2 else h / 2
    if late && h == 0 then false else if fbit SPI_CTRL_LSBFIRST 0 s then w.testBit j else w.testBit (n - 1 - j)
  | _, _ => false

/-- The level of the pins that the UART and the SPI controller drive, while they are enabled; RTS_N follows the room in the receive FIFO with
FLOW in a way that is not stated, a free value (log 105; R428, R430, R453). -/
def serialPin (p : Nat) (s : State) : Option Bool :=
  if p = 216 then some (uartTxPin s)
  else if p = 218 then
    some (if fbit UART_CTRL_RS485 0 s then decide (s.net.uartAt = none)
      else !fbit UART_CTRL_FLOW 0 s || Config.pinSending p s.time)
  else if p = 224 then some (sckPin s)
  else if p = 225 then some (mosiPin s)
  else if 227 ≤ p ∧ p < 231 then some (!(fbit SPI_STAT_BUSY 0 s && fget SPI_XFER_CS 0 s == p - 227))
  else none

/-- A write of SPI_TX (R431). -/
def spiWrite (w : Nat) (s : State) : State :=
  let h := s.net.spi
  if 64 ≤ h.tx.length then fon SPI_STAT_TXFULL 0 s else setSpi { h with tx := h.tx ++ [w % 2 ^ 32] } s

/-- SPI_TX_WRITE (R431). -/
def execSpiTxWrite (w : Word) (s : State) : Host.Outcome State Fault Refusal := .next (spiWrite w.toNat s)

/-- A read of SPI_RX (R13, R431). -/
def spiRead (s : State) : State :=
  let h := s.net.spi
  match present SPI_RX_WORD h.rx s with
  | [] => answer 0 s
  | w :: _ => answer w (setSpi { h with rx := h.rx.tail } s)

/-- SPI_RX_READ (R431). -/
def execSpiRxRead (s : State) : Host.Outcome State Fault Refusal := .next (spiRead s)

end Sys2Proof.Machine
end

