-- ==== Sys2Proof/Machine/Nand.lean ====
section
/-! DEFINITION. The NAND manager: discovery, the volume, commands that touch no buffer, keeping the data, the end of the Canteen
(R395 to R408). READ and WRITE move data over the bus: NandBus.lean. -/

namespace Sys2Proof.Machine

open Sys2Proof

/-- The manager holds `h`. -/
def setNand (h : NandH) (s : State) : State := { s with nand := h }

/-! ### Blocks and erase counts (R397, R402) -/

/-- The erase count of block `b`. -/
def wearOf (b : Nat) (s : State) : Nat := sget s.nand.wearAll s.nand.wear b

/-- The block among `bs` with the lowest (or highest) erase count, the first of equals. -/
def wearPick (highest : Bool) (bs : List Nat) (s : State) : Option Nat :=
  bs.foldl (fun a b => match a with
    | none => some b
    | some x => if (if highest then wearOf x s < wearOf b s else wearOf b s < wearOf x s) then some b else some x) none

/-- The blocks of the volume that hold no sectors. -/
def freeBlocks (s : State) : List Nat := (List.range s.nand.blocks).filter (fun b => !s.nand.used.contains b)

/-- The blocks of the volume. -/
def volBlocks (s : State) : List Nat := List.range s.nand.blocks

/-- NF_WEAR shows the highest and lowest erase counts (R402). -/
def showWear (s : State) : State :=
  let hi := ((wearPick true (volBlocks s) s).map (fun b => wearOf b s)).getD 0
  let lo := ((wearPick false (volBlocks s) s).map (fun b => wearOf b s)).getD 0
  fset NF_WEAR_MAX 0 (min hi 65535) (fset NF_WEAR_MIN 0 (min lo 65535) s)

/-- A free block is taken into use. -/
def takeBlock (highest : Bool) (s : State) : State :=
  match wearPick highest (freeBlocks s) s with
  | some b => setNand { s.nand with used := nput b s.nand.used } s
  | none => s

/-- Block `b` is erased and free. -/
def eraseBlock (b : Nat) (s : State) : State :=
  showWear (setNand { s.nand with used := ndel b s.nand.used, wear := sset s.nand.wearAll s.nand.wear b (wearOf b s + 1) } s)

/-- The registers show what the journal holds (R396, R397, R403 to R405). -/
def showVolume (s : State) : State :=
  let h := s.nand
  showWear (fset NF_SECTORS_COUNT 0 h.sectors (fset NF_CANTEEN_LEFT 0 h.left (fset NF_CANTEEN_RESERVE 0 h.reserve
    (fset NF_BAD_COUNT 0 h.bad (fset NF_STAT_SEALED 0 h.sealed.toNat (fset NF_STAT_LOW 0 h.low.toNat s))))))

/-! ### Start (R396) -/

/-- A write of NF_CTRL.EN: 1 starts discovery, 0 ends service. -/
def nandEnable (on : Bool) (s : State) : State :=
  let was := fbit NF_CTRL_EN 0 s
  let s := fset NF_CTRL_EN 0 on.toNat s
  if on && !was then foff NF_STAT_NODEV 0 (foff NF_STAT_NOVOL 0 (foff NF_STAT_READY 0 (setNand { s.nand with starting := true } s)))
  else if !on && was then foff NF_STAT_READY 0 (foff NF_STAT_NOVOL 0 (setNand { s.nand with starting := false } s))
  else s

/-- NF_CTRL_EN (R396). -/
def execNfCtrlEn (on : Bool) (s : State) : Host.Outcome State Fault Refusal := .next (nandEnable on s)

/-- A command fails for want of a target that answers: NF_DEV is reported (R396, R406). -/
def nandDev (s : State) : State := report 0x1C7 0 0 s

/-- Two targets report the same page size, spare size, block count and LUN count (R396). -/
def sameTarget (a b : NandTarget) : Bool := a.page == b.page && a.spare == b.spare && a.blocks == b.blocks && a.luns == b.luns

/-- NAND_INIT_DONE (R396): discovery has found the targets `ts`; the journal of a volume is read. -/
def execNandInitDone (ts : List NandTarget) (tmode : BitVec 12) (s : State) : Host.Outcome State Fault Refusal :=
  if !s.nand.starting then .next s
  else
    let s := setNand { s.nand with starting := false } s
    match ts with
    | [] => .next (nandDev (fon NF_STAT_NODEV 0 s))
    | t :: rest =>
      if 8 < ts.length ∨ (rest.all (sameTarget t)) = false then .next (nandDev (fon NF_STAT_NODEV 0 s))
      else
        let s := fset NF_GEOM_TARGETS 0 ts.length (fset NF_GEOM_PAGE 0 t.page (fset NF_GEOM_PPB 0 t.ppb.toNat (fset NF_GEOM_TMODE 0 tmode.toNat s)))
        let s := setNand { s.nand with targets := ts.length, spb := t.ppb.toNat * 2 ^ t.page.val / 2 } s
        .next (if s.nand.formatted then fon NF_STAT_READY 0 (showVolume s) else fon NF_STAT_NOVOL 0 s)

/-! ### Commands (R398, R399) -/

/-- A write of 1 to NF_PUSH.GO queues the command in NF_CMD0 to NF_CMD3, or is refused; FLUSH and FORMAT use no COUNT. -/
def nandPush (s : State) : State :=
  let w (i : Nat) : Nat := fget NF_CMD_WORD i s
  let op := w 0 % 16
  let count := w 2 % 2 ^ 9
  let format := op == 4 && fbit NF_STAT_NOVOL 0 s
  if 4 < op ∨ (op < 3 ∧ 256 < count) ∨ (fbit NF_STAT_READY 0 s || format) = false then fon NF_STAT_CFG_REFUSED 0 s
  else if 8 ≤ s.nand.queue.length then fon NF_STAT_QFULL 0 s
  else setNand { s.nand with queue := s.nand.queue ++ [⟨op, w 0 / 2 ^ 16, w 1, count, w 3⟩] } s

/-- The command in hand, where it is of kind `op` and not yet ended: the head of the queue, while the manager serves commands and NF_DONE
has room (R399). -/
def nandHand (op : Nat) (s : State) : Option NandCmd :=
  match s.nand.queue with
  | [] => none
  | c :: _ =>
    let over_ := match s.nand.hand with
      | .ended _ _ => true
      | _ => false
    let serves := fbit NF_STAT_READY 0 s || (fbit NF_STAT_NOVOL 0 s && c.op == 4)
    if c.op = op && !over_ && serves && decide (s.nand.done.length < 16) then some c else none

/-- The command in hand ends with a STATUS and DONE. -/
def nandEnds (status done : Nat) (s : State) : State := setNand { s.nand with hand := .ended status done } s

/-- The volume was sealed before the command in hand began (R405). -/
def sealedBefore (s : State) : Bool :=
  s.nand.sealed && (match s.nand.hand with
    | .limited _ => false
    | _ => true)

/-- NAND_TRIM (R398, R405): the sectors read as zero from now on. -/
def execNandTrim (s : State) : Host.Outcome State Fault Refusal :=
  match nandHand 2 s with
  | none => .next s
  | some c =>
    if c.count = 0 then .next (nandEnds 0 0 s)
    else if sealedBefore s then .next (nandEnds 1 0 s)
    else if s.nand.sectors < c.lba + c.count then .next (nandEnds 3 0 s)
    else .next (nandEnds 0 c.count (setNand { s.nand with
      data := s.nand.data.filter (fun e => !(decide (c.lba ≤ e.1) && decide (e.1 < c.lba + c.count))) } s))

/-- NAND_FLUSH (R398, R399): every earlier command is durable. -/
def execNandFlush (s : State) : Host.Outcome State Fault Refusal :=
  match nandHand 3 s with
  | none => .next s
  | some _ => .next (nandEnds 0 0 s)

/-- NAND_FORMAT (R397, R405): a new volume over `good` good blocks. -/
def execNandFormat (good : Nat) (s : State) : Host.Outcome State Fault Refusal :=
  match nandHand 4 s with
  | none => .next s
  | some _ =>
    let h := s.nand
    let set := 16 * h.targets + 4 + fget NF_CFG_CANTEEN 0 s
    if good < set + 1 then .next (nandEnds 6 0 s)
    else
      let n := good - set
      let s := setNand { h with
        formatted := true, sealed := false, low := false, data := [], used := [], refresh := []
        blocks := n + 8 * h.targets, wearAll := h.wearAll + 1, wear := h.wear.map (fun e => (e.1, e.2 + 1))
        sectors := n * h.spb, left := fget NF_CFG_CANTEEN 0 s, reserve := 4, bad := 0 } s
      .next (nandEnds 0 0 (showVolume (fon NF_STAT_READY 0 (foff NF_STAT_NOVOL 0 s))))

/-- NAND_COMMAND_COMPLETE (R399): the record of the command in hand goes to NF_DONE, with event 0x178. -/
def execNandCommandComplete (s : State) : Host.Outcome State Fault Refusal :=
  match s.nand.queue, s.nand.hand with
  | c :: rest, .ended status done =>
    let w := c.tag * 2 ^ 16 + s.nand.sealed.toNat * 2 ^ 15 + status
    .next (arrive 0x178 w (joined NF_DONE1_WORD1
      (setNand { s.nand with queue := rest, hand := .none, done := s.nand.done ++ [(w, done)] } s)))
  | _, _ => .next s

/-- NF_DONE0: word 0 of the head record, STATUS 0xFF where there is none (R408). -/
def nandDone0 (s : State) : Nat :=
  match present NF_DONE1_WORD1 s.nand.done s with
  | [] => 0xFF
  | r :: _ => r.1

/-- A read of NF_DONE1 answers word 1 of the head record and removes it (R13). -/
def nandDone1 (s : State) : State :=
  match present NF_DONE1_WORD1 s.nand.done s with
  | [] => answer 0 s
  | r :: _ => answer r.2 (setNand { s.nand with done := s.nand.done.tail } s)

/-- NF_DONE1_READ (R408). -/
def execNfDone1Read (s : State) : Host.Outcome State Fault Refusal := .next (nandDone1 s)

/-! ### Keeping the data (R400 to R402) -/

/-- A codeword that was not clean: counts, refresh, NF_UE (R400). -/
def codeword (x : NandCodeword) (s : State) : State :=
  let s := fcount NF_RETRYCNT_COUNT 0 x.retries s
  if !x.good then report 0x1C3 0 0 (fcount NF_UECNT_COUNT 0 1 s)
  else
    let s := if x.bits = 0 then s else { fcount NF_CORR_COUNT 0 1 s with frameRep := nput 0x1C2 s.frameRep }
    if (fget NF_CFG2_REFRESH_BITS 0 s ≤ x.bits ∨ x.retries ≠ 0) ∧ s.nand.refresh.contains x.block = false then
      setNand { s.nand with refresh := s.nand.refresh ++ [x.block] } s
    else s

/-- PATROL_READ (R401). -/
def execPatrolRead (cws : List NandCodeword) (s : State) : Host.Outcome State Fault Refusal :=
  .next (if fbit NF_STAT_READY 0 s && decide (fget NF_PATROL_HOURS 0 s ≠ 0) then forAll cws codeword s else s)

/-- BLOCK_REFRESH (R401, R405): the oldest queued block moves to a free block and is erased; not on a sealed volume. -/
def execBlockRefresh (s : State) : Host.Outcome State Fault Refusal :=
  match s.nand.refresh with
  | [] => .next s
  | b :: rest =>
    if s.nand.sealed || !fbit NF_STAT_READY 0 s then .next s
    else .next (eraseBlock b (takeBlock false (setNand { s.nand with refresh := rest } s)))

/-- WEAR_MOVE (R402, R405): the sectors of the block with the lowest erase count move to the free block with the highest. -/
def execWearMove (s : State) : Host.Outcome State Fault Refusal :=
  match wearPick true (volBlocks s) s, wearPick false s.nand.used s with
  | some hi, some lo =>
    let low := (wearPick false (volBlocks s) s).getD lo
    if s.nand.sealed || !fbit NF_STAT_READY 0 s || decide (wearOf hi s ≤ wearOf low s + fget NF_CFG2_WL_DELTA 0 s) then .next s
    else .next (eraseBlock lo (takeBlock true s))
  | _, _ => .next s

/-! ### Retirement (R403 to R405) -/

/-- Block `b` is replaced by a Canteen block (R403); the low-water mark may be reached (R404). -/
def canteenBlock (b : Nat) (s : State) : State :=
  let left := s.nand.left - 1
  let s := setNand { s.nand with left := left, bad := s.nand.bad + 1, wear := sset s.nand.wearAll s.nand.wear b s.nand.wearAll } s
  let s := report 0x1C4 0 0 s
  let s := if left ≤ fget NF_CFG_LOW_WATER 0 s ∧ s.nand.low = false then
    arrive 0x179 1 (report 0x1C5 0 0 (setNand { s.nand with low := true } s)) else s
  showVolume s

/-- The sectors of the operation in hand: those of a WRITE, else one block's. -/
def handSectors (s : State) : Nat :=
  match s.nand.queue with
  | c :: _ => if c.op = 1 then c.count else s.nand.spb
  | [] => s.nand.spb

/-- A block fails with the Canteen empty (R405): the operation is completed in the reserve blocks, `bad` of which fail too, and the volume
is sealed. Each block that fails is counted and reported (R403). -/
def sealVolume (bad : Nat) (s : State) : State :=
  let good := s.nand.reserve - bad
  let n := handSectors s
  let used := if s.nand.spb = 0 then 0 else min good ((n + s.nand.spb - 1) / s.nand.spb)
  let hand : NandHand := match s.nand.queue, s.nand.hand with
    | c :: _, .none => if c.op = 1 then .limited (good * s.nand.spb) else .none
    | _, h => h
  let failed := s.nand.reserve - good
  let s := setNand { s.nand with sealed := true, reserve := good - used, bad := s.nand.bad + 1 + failed, hand := hand } s
  let s := forAll (List.range (1 + failed)) (fun _ t => report 0x1C4 0 0 t) s
  showVolume (arrive 0x179 2 (report 0x1C6 0 0 s))

/-- NAND_PROGRAM_FAIL (R403 to R405). -/
def execNandProgramFail (b : Nat) (bad : Fin 5) (s : State) : Host.Outcome State Fault Refusal :=
  if !fbit NF_STAT_READY 0 s || s.nand.sealed then .next s
  else .next (if s.nand.left = 0 then sealVolume bad s else canteenBlock b s)

/-- NF_READY_TIMEOUT (R406). -/
def execNfReadyTimeout (s : State) : Host.Outcome State Fault Refusal := .next (nandDev s)

end Sys2Proof.Machine
end

