-- ==== Sys2Proof/Machine/Sensing.lean ====
section
/-! DEFINITION. Sigma-delta channels, SAR converters, comparators, quadrature and serial encoder units (R76 to R96). -/

namespace Sys2Proof.Machine

open Sys2Proof

/-- One field of a register write under R500: a write that would change a field that may not change now, or to a value outside its
range, leaves it and raises the refusal. -/
def tryField (F : Fld) (u v : Nat) (bad : Bool) (refuse : State → State) (s : State) : State :=
  if fget F u s = v then s else if bad then refuse s else fset F u v s

/-! ### Sigma-delta channels -/

/-- What channel `ch` holds. -/
def sdf (ch : Nat) (s : State) : SdfH := sget SdfH.init s.sdf ch

/-- Channel `ch` holds `h`. -/
def setSdf (ch : Nat) (h : SdfH) (s : State) : State := { s with sdf := sset SdfH.init s.sdf ch h }

/-- The watch of cluster `c`'s external clock. -/
def clk (c : Nat) (s : State) : ClkH := sget ClkH.init s.clk c

/-- The watch of cluster `c` becomes `h`. -/
def setClk (c : Nat) (h : ClkH) (s : State) : State := { s with clk := sset ClkH.init s.clk c h }

/-- CLK_OK of cluster `c`: it reads 1 with the internal clock (R79, R93). -/
def clkOk (c : Nat) (s : State) : Bool := !fbit SDF_COM_CLK_SRC c s || fbit SDF_COM_CLK_OK c s

/-- The number of ways to write `n` as an ordered sum of three naturals. -/
def triples (n : Int) : Int := if n < 0 then 0 else (n + 1) * (n + 2) / 2

/-- Weight `j` of the sinc3 kernel of order `m`, the triple convolution of an m-bit boxcar (R80). -/
def sinc3Weight (m j : Nat) : Int :=
  triples j - 3 * triples ((j : Int) - m) + 3 * triples ((j : Int) - 2 * m)

/-- A captured bit as +1 or -1 (R80). -/
def bitVal (b : Bool) : Int := if b then 1 else -1

/-- The weighted sum of the newest bits, from weight `j` on: bits not captured count as 0 (R80, R81). -/
def weighted (w : Nat → Int) : Nat → List (Nat × Bool) → Int
  | _, [] => 0
  | j, (_, b) :: rest => w j * bitVal b + weighted w (j + 1) rest

/-- The sinc3 output of order `m` over the newest 3m - 2 of the bits (R80). -/
def sinc3 (m : Nat) (bs : List (Nat × Bool)) : Int := weighted (sinc3Weight m) 0 (bs.take (3 * m - 2))

/-- The triangular weights of the fast path (R82). -/
def sinc2Weight (n j : Nat) : Int := min ((j : Int) + 1) (2 * n - 1 - j)

/-- The fast path's value V over the newest 2n - 1 bits (R82). -/
def sinc2 (n : Nat) (bs : List (Nat × Bool)) : Int := weighted (sinc2Weight n) 0 (bs.take (2 * n - 1))

/-- A signed 8-bit threshold (R82). -/
def sint8 (n : Nat) : Int := (BitVec.ofNat 8 n).toInt

/-- FILLING is 1 while fewer than 3M - 2 bits have been captured since the channel was configured (R81). -/
def updFilling (ch : Nat) (s : State) : State :=
  fset SDF_STAT_FILLING ch (decide ((sdf ch s).count < 3 * fget SDF_CFG_M ch s - 2)).toNat s

/-- The fields of SDF_RESk and STALEk. -/
def sdfRes (k : Nat) : Fld := if k = 0 then SDF_RES0_R else SDF_RES1_R
def sdfStale (k : Nat) : Fld := if k = 0 then SDF_STAT_STALE0 else SDF_STAT_STALE1

/-- SDF_LATCH (R80, R81): slot `k` forms R from the bits captured no later than 4 dots before and writes it to SDF_RESk. -/
def execSdfLatch (ch : Fin 384) (k : Fin 2) (s : State) : Host.Outcome State Fault Refusal :=
  let m := fget SDF_CFG_M ch.val s
  if m = 0 then .next s
  else
    let bs := (sdf ch.val s).bits.filter (fun e => e.1 + 4 ≤ s.time)
    .next (fset (sdfStale k.val) ch.val (!clkOk (ch.val / 16) s).toNat
      (fset (sdfRes k.val) ch.val (word (sinc3 m bs)) s))

/-- The channel is configured in this dot: its window begins to fill again (R81). -/
def reconfigure (ch : Nat) (s : State) : State :=
  updFilling ch (setSdf ch { SdfH.init with last := (sdf ch s).last, conf := some s.time } s)

/-- The values of M and of OC_N that SDF_CFG refuses; those of OC_CONSEC beside an OC_N of `n`, which are judged together (R82, R93). -/
def sdfMBad (m : Nat) : Bool := decide (m ≠ 0 ∧ ¬ (8 ≤ m ∧ m ≤ 256))
def sdfNBad (n : Nat) : Bool := decide (n ≠ 0 ∧ ¬ (2 ≤ n ∧ n ≤ 8))
def sdfQBad (n q : Nat) : Bool := decide (n ≠ 0 ∧ ¬ (1 ≤ q ∧ q ≤ 4))
def sdfPairBad (n q : Nat) : Bool := decide (n ≠ 0 ∧ 18 < 2 * n + q)
def sdfOcBad (n q : Nat) : Bool := sdfNBad n || sdfQBad n q || sdfPairBad n q

/-- A write of SDF_CFG that reaches the channel (R77, R81, R93, R500): each field is judged by its range; OC_N and OC_CONSEC that do not
agree are both refused, and OC_N also where it does not agree with the OC_CONSEC that the channel keeps (R82). A write that changes a field, or that refuses none, configures the channel. -/
def writeSdfCfg (ch v : Nat) (s : State) : State :=
  let m := bits v 24 16
  let n := bits v 11 8
  let q := bits v 6 4
  let run := regionRun (ch / 96) s
  let refuse := fon SDF_STAT_CFG_REFUSED ch
  let n' := if sdfNBad n then fget SDF_CFG_OC_N ch s else n
  let badQ := sdfQBad n' q || sdfPairBad n' q
  let q' := if badQ then fget SDF_CFG_OC_CONSEC ch s else q
  let badN := sdfNBad n || sdfPairBad n q || sdfQBad n q' || sdfPairBad n q'
  let s1 := tryField SDF_CFG_M ch m (sdfMBad m || run) refuse s
  let s1 := tryField SDF_CFG_OC_N ch n (badN || run) refuse s1
  let s1 := if badQ then refuse s1 else tryField SDF_CFG_OC_CONSEC ch q run refuse s1
  let s1 := tryField SDF_CFG_SKEW ch (bits v 3 0) run refuse s1
  let held (F : Fld) : Bool := fget F ch s1 == fget F ch s
  let same := held SDF_CFG_M && held SDF_CFG_OC_N && held SDF_CFG_OC_CONSEC && held SDF_CFG_SKEW
  let taken := fget SDF_CFG_M ch s1 == m && fget SDF_CFG_OC_N ch s1 == n && fget SDF_CFG_OC_CONSEC ch s1 == q
    && fget SDF_CFG_SKEW ch s1 == bits v 3 0
  if taken || !same then reconfigure ch s1 else s1

/-- A write of SDF_COM.CLK_SRC (R77 to R79, R81): one that changes it configures the cluster's 16 channels; one that repeats it, as a
write that only clears status bits does, leaves them as they are. -/
def writeClkSrc (c v : Nat) (s : State) : State :=
  if fget SDF_COM_CLK_SRC c s = v then s
  else if regionRun (c / 6) s then fon SDF_COM_CFG_REFUSED c s
  else
    forAll ((List.range 16).map (fun i => 16 * c + i)) reconfigure
      (foff SDF_COM_CLK_OK c (setClk c { clk c s with armed := false, edges := [] } (fset SDF_COM_CLK_SRC c v s)))

/-- SDF_CFG_WRITE (R81). -/
def execSdfCfgWrite (w : SdfWrite) (s : State) : Host.Outcome State Fault Refusal :=
  match w with
  | .cfg ch v => .next (toCluster (ch.val / 16) (writeSdfCfg ch.val v.toNat) s)
  | .clkSrc c ext => .next (toCluster c.val (writeClkSrc c.val ext.toNat) s)

/-- The fast path on a newly captured bit (R82): the runs, a decision at the bit that completes one, the fall of OC_LIVE at the
first bit at which neither condition holds; each acts 2 dots later. That neither condition holds is judged on the one bit, V not above HI
and not below LO, not on runs of OC_CONSEC bits; while OC_N is 0 no bit is judged and OC_LIVE stays (DESIGN CHOICE, log 73). The thresholds
are those that the dot found (R77). -/
def fastPath (ch : Fin 384) (s : State) : State :=
  let n := fget SDF_CFG_OC_N ch.val s
  if n = 0 then s
  else
    let h := sdf ch.val s
    let v := sinc2 n h.bits
    let hi := if v > sint8 (fseen SDF_OC_HI ch.val s) then h.hiRun + 1 else 0
    let lo := if v < sint8 (fseen SDF_OC_LO ch.val s) then h.loRun + 1 else 0
    let q := fget SDF_CFG_OC_CONSEC ch.val s
    let s := setSdf ch.val { h with hiRun := hi, loRun := lo } s
    let s := if hi = q then later 2 (.cmd (.sdfOcDecision ch true)) s else s
    let s := if lo = q then later 2 (.cmd (.sdfOcDecision ch false)) s else s
    if hi = 0 && lo = 0 && (h.hiRun != 0 || h.loRun != 0 || fbit SDF_STAT_OC_LIVE ch.val s) then later 2 (.cmd (.ocLiveFall ch)) s else s

/-- The phase of the internal modulator clock in dot `d`, in dots since its last rising edge: from the phase origin, and before it from the
one that it replaced (R30). -/
def sdcPhase (d : Nat) (s : State) : Nat := (d - (if s.swp.origin ≤ d then s.swp.origin else s.swp.origin0)) % 16

/-- The internal modulator clock rises in dot `d` (R30). -/
def sdcRises (d : Nat) (s : State) : Bool := sdcPhase d s == 0

/-- The level that the device drives on SDCcc in the present dot, high for half of the clock's 16 dots; none where the pin is an input: with
the external clock, and in a disabled cluster (R5, R20, R30, R78). -/
def sdcDrives (c : Nat) (s : State) : Option Bool :=
  if clusterOn c s && !fbit SDF_COM_CLK_SRC c s then some (decide (sdcPhase s.time s < 8)) else none

/-- Channel `ch` captures a bit in the present dot: SKEW dots after a rising edge of its modulator clock (R78, R79). -/
def captures (ch : Nat) (s : State) : Bool :=
  let k := fget SDF_CFG_SKEW ch s
  if fbit SDF_COM_CLK_SRC (ch / 16) s then (clk (ch / 16) s).edges.any (fun e => e + k == s.time)
  else decide (k ≤ s.time) && sdcRises (s.time - k) s

/-- A bit enters the channel's filter in this dot (R78 to R82). In the dot in which the channel is configured it counts as 0 (R81). -/
def captureBit (ch : Fin 384) (high : Bool) (s : State) : State :=
  let h := sdf ch.val s
  if h.conf = some s.time then setSdf ch.val { h with last := some s.time } s
  else fastPath ch (updFilling ch.val (setSdf ch.val { h with bits := ((s.time, high) :: h.bits).take 768, count := h.count + 1,
                                                              last := some s.time } s))

/-- BIT_CAPTURE (R78 to R82): the level that the SDI pin carries for the capture of this dot, in a dot in which the channel captures and
has not yet done so; the pins of a disabled cluster reach no filter (R5). -/
def execBitCapture (ch : Fin 384) (high : Bool) (s : State) : Host.Outcome State Fault Refusal :=
  .next (if clusterOn (ch.val / 16) s && captures ch.val s && (sdf ch.val s).last != some s.time then captureBit ch high s else s)

/-- The channels with a filter in use. -/
def sdfInUse (s : State) : List Nat := ((sget [] s.regs SDF_CFG_M.id).map Prod.fst ++ (sget [] s.regs SDF_CFG_OC_N.id).map Prod.fst).eraseDups

/-- The captures of the present dot whose level no command gave: the level is free (R78). -/
def capturesLeft (s : State) : State :=
  forAll (sdfInUse s) (fun ch t => if h : ch < 384 then
      (if clusterOn (ch / 16) t && captures ch t && (sdf ch t).last != some t.time then captureBit ⟨ch, h⟩ (Config.sdiLevel ch (t.time - 2)) t else t)
    else t) s

/-- The fast path makes a decision (R82, R127). -/
def ocDecision (ch : Nat) (high : Bool) (s : State) : State :=
  fire (0x0600 + 4 * ch + (if high then 0 else 1)) (fon SDF_STAT_OC_LIVE ch (fon (if high then SDF_STAT_OC_HI else SDF_STAT_OC_LO) ch s))

/-- SDF_OC_DECISION (R82, R127): a disabled cluster has no filter (R5). -/
def execSdfOcDecision (ch : Fin 384) (high : Bool) (s : State) : Host.Outcome State Fault Refusal :=
  .next (inCluster (ch.val / 16) (ocDecision ch.val high) s)

/-- OC_LIVE_FALL (R82). -/
def execOcLiveFall (ch : Fin 384) (s : State) : Host.Outcome State Fault Refusal :=
  .next (foff SDF_STAT_OC_LIVE ch.val s)

/-- SDF_CLKLOST (R79): no edge for 64 dots while the watch of an external clock is armed. -/
def execSdfClklost (c : Fin 24) (s : State) : Host.Outcome State Fault Refusal :=
  if fbit SDF_COM_CLK_SRC c.val s && (clk c.val s).armed then
    .next (report (csrc c.val 1) 0 0 (fire (0x0C00 + c.val)
      (fon SDF_COM_CLK_LOST c.val (foff SDF_COM_CLK_OK c.val s))))
  else .next s

/-- A rising edge of the external clock is detected (R79): one less than 12 dots after the last is ignored and sets CLK_FAST. -/
def clockEdge (c : Nat) (s : State) : State :=
  let h := clk c s
  let s := setClk c { h with rose := some s.time } s
  if h.edges.any (fun e => decide (s.time < e + 12)) then fon SDF_COM_CLK_FAST c s
  else fon SDF_COM_CLK_OK c (setClk c { clk c s with armed := true, edges := (s.time :: h.edges).take 2 } s)

/-- SDCcc of cluster `c` can show a rising edge in this dot: it is an input, and the dot before showed none, since the level was low in it
(R79). -/
def mayRise (c : Nat) (s : State) : Bool :=
  clusterOn c s && fbit SDF_COM_CLK_SRC c s && !(clk c s).rose.any (fun e => decide (s.time ≤ e + 1))

/-- EXTERNAL_CLOCK_EDGE (R79): the edge as it leaves the two register stages of SDCcc and the edge detector. -/
def execExternalClockEdge (c : Fin 24) (s : State) : Host.Outcome State Fault Refusal :=
  .next (if mayRise c.val s then clockEdge c.val (setClk c.val { clk c.val s with told := true } s) else s)

/-- The external clocks of the clusters with a channel in use: where no command tells of the edges, the level of SDCcc passes two register
stages, and an edge is detected where it is high after being low (R79). -/
def clocksLeft (s : State) : State :=
  forAll ((sdfInUse s).map (· / 16)).eraseDups (fun c t =>
    if mayRise c t && !(clk c t).told && Config.sdcPin c (t.time - 2) && !Config.sdcPin c (t.time - 3) then clockEdge c t else t) s

/-! ### SAR converters -/

/-- SAR converter `v`. -/
def sar (v : Nat) (s : State) : SarH := sget ⟨none, none⟩ s.sar v

/-- SAR converter `v` becomes `h`. -/
def setSar (v : Nat) (h : SarH) (s : State) : State := { s with sar := sset ⟨none, none⟩ s.sar v h }

/-- The converter is converting, or has tracked for less than 12 dots: less than 40 dots since it last started (R84, R85). -/
def sarBusy (v : Nat) (s : State) : Bool :=
  match (sar v s).start with
  | some p => decide (s.time < p + 40)
  | none => false

/-- SAR_TRIGGER (R84, R85): entry `e` of converter `v` starts a conversion, or is missed. -/
def execSarTrigger (v : Fin 16) (e : Fin 16) (s : State) : Host.Outcome State Fault Refusal :=
  if sarBusy v.val s then
    .next (report (rsrc (v.val / 4) 54) v.val e.val
      (fon SAR_STAT_OVERRUN v.val (fon SAR_RES_MISSED (16 * v.val + e.val) s)))
  else .next (setSar v.val ⟨some e.val, some s.time⟩ s)

/-- The entry whose result converter `v` writes in the present dot, 32 dots after its trigger (R84). -/
def sarDone (v : Nat) (s : State) : Option Nat :=
  match (sar v s).entry, (sar v s).start with
  | some e, some p => if s.time = p + 32 then some e else none
  | _, _ => none

/-- VALUE, SEQ and MISSED of entry `e` of converter `v` are written (R84). -/
def sarResult (v e : Nat) (value : BitVec 16) (s : State) : State :=
  let u := 16 * v + e
  fire (0x0DC0 + v) (foff SAR_RES_MISSED u (fadd SAR_RES_SEQ u 1 (fset SAR_RES_VALUE u value.toNat
    (setSar v { sar v s with entry := none } s))))

/-- SAR_RESULT (R84): the value that the analog die gives for the conversion that completes in this dot. -/
def execSarResult (v : Fin 16) (value : BitVec 16) (s : State) : Host.Outcome State Fault Refusal :=
  match sarDone v.val s with
  | some e => .next (sarResult v.val e value s)
  | none => .next s

/-- The conversions that complete in the present dot and whose value no command gave: it is free (R84). -/
def sarsLeft (s : State) : State :=
  forAll s.sar (fun e t => match sarDone e.1 t with
    | some k => nextFresh (sarResult e.1 k (Config.sarValue t.fresh) t)
    | none => t) s

/-! ### Comparators -/

/-- Comparator `j` on the analog die. -/
def cmp (j : Nat) (s : State) : CmpH := sget CmpH.init s.cmp j

/-- Comparator `j` becomes `h`; a change of its output reaches the fabric 16 dots later (R87). -/
def setCmp (j : Nat) (h : CmpH) (s : State) : State :=
  let out := h.en && (h.above != h.invert)
  let s' := { s with cmp := sset CmpH.init s.cmp j { h with out := out } }
  if out = (cmp j s).out then s' else if hj : j < 64 then later 16 (.cmd (.cmpFabricChange ⟨j, hj⟩ out)) s' else s'

/-- COMPARATOR_CROSSING (R87): the analog input crosses the threshold, as AIN, THRESH and HYST set it: the voltages are the outside
world's, and so is the crossing. -/
def execComparatorCrossing (j : Fin 64) (above : Bool) (s : State) : Host.Outcome State Fault Refusal :=
  .next (setCmp j.val { cmp j.val s with above := above } s)

/-- CMP_FABRIC_CHANGE (R87): the fabric level changes 16 dots after the output did. -/
def execCmpFabricChange (j : Fin 64) (level : Bool) (s : State) : Host.Outcome State Fault Refusal :=
  if fbit CMP_STAT_OUT j.val s = level then .next s
  else .next (fire (0x0C40 + 4 * j.val + (if level then 1 else 2))
    (fon (if level then CMP_STAT_ROSE else CMP_STAT_FELL) j.val (fset CMP_STAT_OUT j.val level.toNat s)))

/-- Comparator `j` compares with a new input, threshold or hysteresis: on which side the input then lies is the outside world's, until a
crossing tells (R87). -/
def cmpCompares (j : Nat) (h : CmpH) (s : State) : State :=
  let o := cmp j s
  setCmp j (if h.ain = o.ain ∧ h.thresh = o.thresh ∧ h.hyst = o.hyst then h
    else { h with above := Config.cmpAbove j h.ain h.thresh h.hyst s.time }) s

/-- The threshold, the configuration of comparator `j` reach the analog die as they were written (R87). -/
def cmpThrArrives (j v : Nat) (s : State) : State := cmpCompares j { cmp j s with thresh := bits v 9 0 } s
def cmpCfgArrives (j v : Nat) (s : State) : State :=
  cmpCompares j { cmp j s with en := v.testBit 31, invert := v.testBit 8, ain := bits v 20 16, hyst := bits v 13 12 } s

/-- CMP_CFG of comparator `j` as it now is, without its status bit. -/
def cmpCfgWord (j : Nat) (s : State) : Nat :=
  2 ^ 31 * fget CMP_CFG_EN j s + 2 ^ 16 * fget CMP_CFG_AIN j s + 2 ^ 12 * fget CMP_CFG_HYST j s + 2 ^ 8 * fget CMP_CFG_INVERT j s

/-- A write of CMP_THR is on its way to the analog die (R87). -/
def writeCmpThr (j v : Nat) (s : State) : State := later 2 (.cmpThr j v) (fset CMP_THR_THRESH j (bits v 9 0) s)

/-- A write of CMP_CFG that reaches the region block (R77, R87, R95): its fields are stop-only, its refusal bit W1C. -/
def writeCmpCfg (j v : Nat) (s : State) : State :=
  let run := regionRun (j / 16) s
  let refuse := fon CMP_CFG_CFG_REFUSED j
  let s := fclear CMP_CFG_CFG_REFUSED j (bits v 0 0) s
  let s := tryField CMP_CFG_EN j (bits v 31 31) run refuse s
  let s := tryField CMP_CFG_AIN j (bits v 20 16) run refuse s
  let s := tryField CMP_CFG_HYST j (bits v 13 12) run refuse s
  let s := tryField CMP_CFG_INVERT j (bits v 8 8) run refuse s
  later 2 (.cmpCfg j (cmpCfgWord j s)) s

/-- CMP_THR_WRITE (R87): a write of CMP_THR or CMP_CFG governs the comparator from 2 dots later. -/
def execCmpThrWrite (j : Fin 64) (w : CmpWrite) (s : State) : Host.Outcome State Fault Refusal :=
  match w with
  | .thr v => .next (writeCmpThr j.val v.toNat s)
  | .cfg v => .next (writeCmpCfg j.val v.toNat s)

/-! ### Quadrature units -/

/-- Quadrature unit `u`. -/
def qep (u : Nat) (s : State) : QepH := sget QepH.init s.qep u

/-- Quadrature unit `u` becomes `h`. -/
def setQep (u : Nat) (h : QepH) (s : State) : State := { s with qep := sset QepH.init s.qep u h }

/-- The net count of the edges counted in the present dot. -/
def qepNet (u : Nat) (s : State) : Int := if (qep u s).dot = s.time then (qep u s).net else 0

/-- How the levels' change from (a, b) to (a', b') counts in a mode: the steps in order, +1 or -1 each (R88). In mode 2 a rising A and
a rising B of one dot count A first, so that DIR shows B's (DESIGN CHOICE, log 74). -/
def qepSteps (mode : Nat) (a b a' b' : Bool) : List Int :=
  match mode with
  | 0 =>
    if a != a' && b != b' then []
    else if a != a' then [if a' != b then 1 else -1]
    else if b != b' then [if b' == a then 1 else -1]
    else []
  | 1 => if !a && a' then [if b' then 1 else -1] else []
  | 2 => (if !a && a' then [1] else []) ++ (if !b && b' then [-1] else [])
  | _ => []

/-- One edge is counted: the count, DIR, and the dots of the last edges (R88, R89). -/
def countEdge (u : Nat) (d : Int) (s : State) : State :=
  let h := qep u s
  let net := qepNet u s
  let s := setQep u { h with edges := (s.time :: h.edges).take 4, dot := s.time, net := net + d } s
  fset QEP_STAT_DIR u (decide (d > 0)).toNat (fset QEP_POS_POS u (word (sint (fget QEP_POS_POS u s) + d)) s)

/-- A command has told the level of general pin `p`: it is the pin's from now on, and was when the input stages sampled it. -/
def tellPin (p : Nat) (b : Bool) (s : State) : State :=
  let put (l : List Nat) : List Nat := if b then nput p l else ndel p l
  let h := s.pads
  { s with pads := { h with told := sset none h.told p (some b), lvl := put h.lvl, lvl1 := put h.lvl1, lvl2 := put h.lvl2 } }

/-- The filtered inputs of unit `u` become `a` and `b`, and the edges count (R88). -/
def qepCount (u : Nat) (a b : Bool) (s : State) : State :=
  let h := qep u s
  let mode := fget QEP_CFG_MODE u s
  let s' := forAll (qepSteps mode h.a h.b a b) (fun d t => countEdge u d t) s
  let s' := setQep u { qep u s' with a := a, b := b } s'
  if mode = 0 && h.a != a && h.b != b then report (csrc (u / 2) 2) u 0 (fon QEP_STAT_ERR u s') else s'

/-- Pin P(3u + k) carries input `k` of quadrature unit `u` (R453). -/
def qepPin (u k : Nat) (s : State) : Bool := pinCarries (3 * u + k) 0x10 s

/-- The level of input `k` of unit `u` behind INV that the pin level `x` gives: an input that no pin carries sees 0 (R88, R453). -/
def qepInput (u k : Nat) (x : Bool) (s : State) : Bool := (qepPin u k s && x) != fbitAt QEP_CFG_INV u k s

/-- A command tells the filtered level `b` of input `k`: its pin has held it since the samples that the filter passed. -/
def tellQep (u k : Nat) (b : Bool) (s : State) : State :=
  if qepPin u k s then tellPin (3 * u + k) (b != fbitAt QEP_CFG_INV u k s) s else s

/-- The outside world brings filtered A and B of unit `u` to `a` and `b`, as far as pins carry them (R88, R453). -/
def qepEdge (u : Nat) (a b : Bool) (s : State) : State :=
  let h := qep u s
  let s := setQep u { h with runA := 0, runB := 0 } (tellQep u 1 b (tellQep u 0 a s))
  qepCount u (if qepPin u 0 s then a else h.a) (if qepPin u 1 s then b else h.b) s

/-- QEP_EDGE (R88): the levels as they leave INV, the two register stages and the filter of FILT dots, in the dot in which the edge
counts. -/
def execQepEdge (u : Fin 48) (a b : Bool) (s : State) : Host.Outcome State Fault Refusal :=
  .next (inCluster (u.val / 2) (qepEdge u.val a b) s)

/-- A rising edge of filtered I (R90). The count is copied with the edges of the dot that were counted before (DESIGN CHOICE, log 74). -/
def qepIndexed (u : Nat) (s : State) : State :=
  let s1 := fset QEP_IDX_POS_POS u (fget QEP_POS_POS u s) s
  let s1 := fset QEP_IDX_HI_FRAME u s.pos.frame (fset QEP_IDX_LO_LINE u s.pos.line (fset QEP_IDX_LO_DOT u s.pos.dot s1))
  let s1 := fon QEP_STAT_IDX_SEEN u s1
  let s1 := if fbit QEP_CFG_IDX_CLEAR u s then fset QEP_POS_POS u (word (qepNet u s)) s1 else s1
  fire (0x0D40 + 2 * u) s1

/-- The outside world brings a rising edge of filtered I, where a pin carries it (R90, R453). -/
def qepIndex (u : Nat) (s : State) : State :=
  if qepPin u 2 s then qepIndexed u (tellQep u 2 true (setQep u { qep u s with i := true, runI := 0 } s)) else s

/-- A filter of `f` dots with level `lvl`, which `run` samples in a row have differed from, takes the sample `x`: it passes a new level
after f equal samples, in the dot after them (R88). -/
def filterStep (f : Nat) (x lvl : Bool) (run : Nat) : Bool × Nat :=
  if f = 0 then (x, 0)
  else if f ≤ run then (!lvl, (decide (x = lvl)).toNat)
  else (lvl, if x = lvl then 0 else run + 1)

/-- The inputs of unit `u` move one dot on: what the two register stages held in the dot before passes the filters, and edges count (R88,
R90). -/
def qepTick (u : Nat) (s : State) : State :=
  let h := qep u s
  let f := fget QEP_CFG_FILT u s
  let x (k : Nat) : Bool := qepInput u k (s.pads.lvl2.contains (3 * u + k)) s
  let a := filterStep f (x 0) h.a h.runA
  let b := filterStep f (x 1) h.b h.runB
  let i := filterStep f (x 2) h.i h.runI
  let s := setQep u { h with i := i.1, runA := a.2, runB := b.2, runI := i.2 } s
  let s := if a.1 = h.a ∧ b.1 = h.b then s else qepCount u a.1 b.1 s
  if i.1 && !h.i then qepIndexed u s else s

/-- The quadrature units whose inputs can move: those with a pin, an inverted input or a level that is not at rest. -/
def qepsLive (s : State) : List Nat :=
  (((sget [] s.regs PAD_EFF_W.id).map (fun e : Nat × Nat => e.1 / 3)).filter (fun u => decide (u < 48))
    ++ (sget [] s.regs QEP_CFG_INV.id).map Prod.fst ++ s.qep.map Prod.fst).eraseDups

/-- The quadrature inputs of the dot (R88). -/
def qepsOn (s : State) : State :=
  forAll (qepsLive s) (fun u t => onlyIf (clusterOn (u / 2) t && domainOn (7 + u / 6) t) (qepTick u) t) s

/-- QEP_INDEX (R90). -/
def execQepIndex (u : Fin 48) (s : State) : Host.Outcome State Fault Refusal := .next (inCluster (u.val / 2) (qepIndex u.val) s)

/-- The fields of latch slot `k` of a quadrature unit. -/
def qepResPos (k : Nat) : Fld := if k = 0 then QEP_RES0_POS_POS else QEP_RES1_POS_POS
def qepResAge (k : Nat) : Fld := if k = 0 then QEP_RES0_AGE_AGE else QEP_RES1_AGE_AGE
def qepResInt (k : Nat) : Fld := if k = 0 then QEP_RES0_INT_INT else QEP_RES1_INT_INT

/-- QEP_LATCH (R89): POS, AGE and INT, counting only edges of earlier dots. -/
def execQepLatch (u : Fin 48) (k : Fin 2) (s : State) : Host.Outcome State Fault Refusal :=
  let es := (qep u.val s).edges.filter (fun e => e < s.time)
  let age := match es with
    | e :: _ => min (s.time - e) 0xFFFFFFFF
    | _ => 0
  let int := match es with
    | e :: e' :: _ => min (e - e') 0xFFFFFFFF
    | _ => 0
  .next (fset (qepResInt k.val) u.val int (fset (qepResAge k.val) u.val age
    (fset (qepResPos k.val) u.val (word (sint (fget QEP_POS_POS u.val s) - qepNet u.val s)) s)))

/-- QEP_POS_WRITE (R88): the counter takes the value, plus the net count of the edges of the same dot. -/
def execQepPosWrite (u : Fin 48) (v : Word) (s : State) : Host.Outcome State Fault Refusal :=
  .next (toCluster (u.val / 2) (fun t => fset QEP_POS_POS u.val (word (v.toInt + qepNet u.val t)) t) s)

/-! ### Serial encoder units -/

/-- Serial-encoder unit `u`. -/
def seu (u : Nat) (s : State) : SeuH := sget SeuH.init s.seu u

/-- Serial-encoder unit `u` becomes `h`. -/
def setSeu (u : Nat) (h : SeuH) (s : State) : State := { s with seu := sset SeuH.init s.seu u h }

/-- SEU_SLOT_FIRE (R91, R92): a frame starts, or the slot is skipped while a frame or its timeout is in progress. -/
def execSeuSlotFire (u : Fin 24) (s : State) : Host.Outcome State Fault Refusal :=
  let h := seu u.val s
  if h.frame.isSome || h.timeout then
    .next (report (rsrc (u.val / 6) 56) u.val 0 (fon SEU_STAT_SKIPPED u.val s))
  else if fget SEU_CFG_PROTO u.val s = 0 then .next s
  else if fget SEU_TIMING_DEADLINE u.val s = 0 then
    .next (fire (0x0DA0 + u.val) (fadd SEU_STAT_SEQ u.val 1 s))
  else
    .next (later (2 + fget SEU_TIMING_DEADLINE u.val s) (.cmd (.seuDeadline u))
      (later 2 (.seuMa u.val) (setSeu u.val { SeuH.init with frame := some s.time } s)))

/-- Binary from Gray code over `n` bits. -/
def fromGray : Nat → Nat → Nat
  | 0, g => g
  | n + 1, g => fromGray n (g ^^^ (g >>> 2 ^ n))

/-- One bit into a CRC register of `len` bits (R91). -/
def crcBit (len poly reg : Nat) (b : Bool) : Nat :=
  let r := reg * 2 % 2 ^ len
  if (reg.testBit (len - 1)) != b then r ^^^ (poly % 2 ^ len) else r

/-- The bits of a frame that the CRC covers: data, most significant first, then nE and nW (R91). -/
def crcBits (n data : Nat) (nE nW : Bool) : List Bool :=
  ((List.range n).map (fun i => data.testBit (n - 1 - i))) ++ [nE, nW]

/-- The CRC that the unit computes (R91). -/
def seuCrc (len poly n data : Nat) (nE nW : Bool) : Nat := (crcBits n data nE nW).foldl (crcBit len poly) 0

/-- The frame ends: MA is held until the timeout has run its dots from the dot `began` (R92). -/
def seuTimeout (u : Fin 24) (ma : MaLevel) (began : Nat) (s : State) : State :=
  let s := dropDue (fun d => d == .cmd (.seuDeadline u) || d == .cmd (.seuTimeoutEnd u))
    (setSeu u.val { SeuH.init with timeout := true, ma := ma } s)
  later (began + fget SEU_TIMING_TIMEOUT u.val s - s.time) (.cmd (.seuTimeoutEnd u)) s

/-- Where the result of a frame that a slot fired in dot `p` may be written (R91, R92): for SSI 3 dots after the last sample, SSI_DLY
dots after falling edge BITS of MA; for BiSS-C 3 + DLY dots after a rising edge, no earlier than the one that clocks the last CRC bit
where the start bit follows the acknowledge at once. -/
def seuReady (u p : Nat) (r : SeuFrame) (s : State) : Bool :=
  let div := fget SEU_CFG_DIV u s
  let n := fget SEU_CFG_BITS u s
  if fget SEU_CFG_PROTO u s = 1 then decide (s.time = p + 2 + 2 * div * n + fget SEU_CFG_SSI_DLY u s + 3)
  else
    let first := p + 2 + div + r.dly.toNat + 3 + 2 * div * (n + fget SEU_CRC_LEN u s + 5)
    decide (first ≤ s.time) && (s.time - first) % (2 * div) == 0

/-- The result of the frame that a slot fired in dot `p` is written, or its CRC fails (R91, R92). A failed CRC leaves nE, nW, the
measured delay and CDS too as they were (DESIGN CHOICE, log 75). -/
def seuResult (u : Fin 24) (p : Nat) (r : SeuFrame) (s : State) : State :=
    let n := fget SEU_CFG_BITS u.val s
    let raw := r.data.toNat % 2 ^ n
    let put (d : Nat) (t : State) : State :=
      fire (0x0DA0 + u.val) (fadd SEU_STAT_SEQ u.val 1
        (fset SEU_DATA_HI_DATA u.val (d / 2 ^ 32) (fset SEU_DATA_LO_DATA u.val d t)))
    if fget SEU_CFG_PROTO u.val s = 1 then
      let rise := p + 2 + 2 * fget SEU_CFG_DIV u.val s * n + fget SEU_CFG_DIV u.val s
      put (if fbit SEU_CFG_GRAY u.val s then fromGray 6 raw else raw) (seuTimeout u .high rise s)
    else
      let len := fget SEU_CRC_LEN u.val s
      let good := len = 0 || seuCrc len (fget SEU_CRC_POLY u.val s) n raw r.nE r.nW == 2 ^ len - 1 - r.crc.toNat % 2 ^ len
      let t := seuTimeout u (.cdm (fbit SEU_CDM_CDM u.val s)) (s.time - 3) s
      if good then
        put raw (fset SEU_STAT_CDS u.val r.cds.toNat (fset SEU_STAT_DLY u.val r.dly.toNat
          (fset SEU_STAT_NW u.val r.nW.toNat (fset SEU_STAT_NE u.val r.nE.toNat t))))
      else report (rsrc (u.val / 6) 55) u.val 0 (fon SEU_STAT_CRC_ERR u.val t)

/-- SEU_RESULT (R91, R92): the bits that the encoder has sent, in the dot in which the unit writes its result. -/
def execSeuResult (u : Fin 24) (r : SeuFrame) (s : State) : Host.Outcome State Fault Refusal :=
  match (seu u.val s).frame with
  | none => .next s
  | some p => .next (if seuReady u.val p r s then seuResult u p r s else s)

/-- The level that unit `u` sees on SLO: that of pin P(6u + 1), or 1 while the pin does not carry it (R453). -/
def sloLevel (u : Nat) (s : State) : Bool :=
  if fget PAD_EFF_W (6 * u + 1) s % 128 = 0x11 then s.pads.lvl.contains (6 * u + 1) else true

/-- The bits of a BiSS-C frame from the start bit on: CDS, data, nE, nW, CRC (R91). -/
def bissBits (u : Nat) (s : State) : Nat := 3 + fget SEU_CFG_BITS u s + fget SEU_CRC_LEN u s

/-- The bit of the present dot is sampled in a BiSS-C frame with line delay `d`: the start bit, a bit behind it, the last of which begins
the hold of MA at CDM (R91, R92). -/
def bissSample (u : Nat) (x : Bool) (s : State) : State :=
  let h := seu u s
  match h.got with
  | none => if x then setSeu u { h with got := some [] } s else s
  | some bs =>
    if bissBits u s ≤ bs.length then s
    else if bs.length + 1 = bissBits u s then
      setSeu u { h with got := some (x :: bs), last := some s.time, ma := .cdm (fbit SEU_CDM_CDM u s) } s
    else setSeu u { h with got := some (x :: bs) } s

/-- Unit `u` looks at SLO in the present dot of the frame whose slot fired in dot `p` (R91): for SSI SSI_DLY dots after each falling edge
of MA; for BiSS-C for the acknowledge from the second rising edge on, then DLY dots after each later rising edge. -/
def seuSample (u p : Nat) (s : State) : State :=
  let div := fget SEU_CFG_DIV u s
  let x := sloLevel u s
  let h := seu u s
  if fget SEU_CFG_PROTO u s = 1 then
    let e := s.time - (p + 2 + fget SEU_CFG_SSI_DLY u s)
    if decide (p + 2 + fget SEU_CFG_SSI_DLY u s < s.time) && e % (2 * div) == 0 && decide (e / (2 * div) ≤ fget SEU_CFG_BITS u s) then
      setSeu u { h with got := some (x :: h.got.getD []) } s
    else s
  else
    let second := p + 2 + 3 * div
    match h.dly with
    | none => if decide (second ≤ s.time) && !x then setSeu u { h with dly := some (s.time - second) } s else s
    | some d => if decide (second + d < s.time) && (s.time - second - d) % (2 * div) == 0 then bissSample u x s else s

/-- Bits as a number, the last received least significant. -/
def bitsValue (bs : List Bool) : Nat := bs.reverse.foldl (fun n b => 2 * n + b.toNat) 0

/-- The frame that unit `u` has sampled (R91): the bits newest first, in BiSS-C CRC, nW, nE, data, CDS from the newest on. -/
def seuSampled (u : Nat) (s : State) : SeuFrame :=
  let bs := (seu u s).got.getD []
  if fget SEU_CFG_PROTO u s = 1 then ⟨BitVec.ofNat 64 (bitsValue bs), false, false, false, 0, 0⟩
  else
    let len := fget SEU_CRC_LEN u s
    let rest := bs.drop len
    ⟨BitVec.ofNat 64 (bitsValue ((rest.drop 2).take (fget SEU_CFG_BITS u s))), rest.getD 1 false, rest.getD 0 false,
      (rest.drop 2).getD (fget SEU_CFG_BITS u s) false, BitVec.ofNat _ (bitsValue (bs.take len)), BitVec.ofNat _ ((seu u s).dly.getD 0)⟩

/-- The result that unit `u` has sampled itself is written in the present dot, 3 dots after the last sample (R92). -/
def seuOwnReady (u p : Nat) (s : State) : Bool :=
  if fget SEU_CFG_PROTO u s = 1 then seuReady u p (seuSampled u s) s else (seu u s).last.any (fun d => d + 3 == s.time)

/-- The serial-encoder units look at SLO, and write the results that fall in this dot and that no command gave (R91, R92). -/
def framesLeft (s : State) : State :=
  forAll (List.finRange 24) (fun u t =>
    match (seu u.val t).frame with
    | some p =>
      let t := seuSample u.val p t
      if seuOwnReady u.val p t then seuResult u p (seuSampled u.val t) t else t
    | none => t) s

/-- The level of MA of unit `u` in dot `d` (R91, R92): it falls 2 dots after the slot, and every half-period of DIV dots it turns. -/
def maLevel (u d : Nat) (s : State) : Bool :=
  match (seu u s).ma, (seu u s).frame with
  | .cdm b, _ => Config.cdmLevel b
  | _, some p =>
    let k := (d - (p + 2)) / fget SEU_CFG_DIV u s
    decide (d < p + 2) || k % 2 == 1 || (fget SEU_CFG_PROTO u s == 1 && decide (2 * fget SEU_CFG_BITS u s < k))
  | _, none => true

/-- SEU_DEADLINE (R92): a frame in progress is ended; one is complete when its result is written (DESIGN CHOICE, log 75). -/
def execSeuDeadline (u : Fin 24) (s : State) : Host.Outcome State Fault Refusal :=
  match (seu u.val s).frame with
  | none => .next s
  | some _ => .next (report (rsrc (u.val / 6) 57) u.val 0 (fon SEU_STAT_TIMEOUT u.val (seuTimeout u .high s.time s)))

/-- SEU_TIMEOUT_END (R92): the post-frame timeout ends and MA is high. -/
def execSeuTimeoutEnd (u : Fin 24) (s : State) : Host.Outcome State Fault Refusal :=
  .next (setSeu u.val { seu u.val s with timeout := false, ma := .high } s)

end Sys2Proof.Machine
end

