-- ==== Sys2Proof/Machine/Pads.lean ====
section
/-! DEFINITION. The general pins and the gate registers (R452 to R467). -/

namespace Sys2Proof.Machine

open Sys2Proof

/-- `p` lies in one of the ranges. -/
def inRanges (p : Nat) (rs : List (Nat × Nat)) : Bool := rs.any (fun r => decide (r.1 ≤ p ∧ p ≤ r.2))

/-- Pin `p` offers ALT1 (R453); not on the pins of quadrature units in disabled clusters, and the NAND functions only where banks 10
to 12 sense 1.8 V (R461). -/
def offersAlt1 (p : Nat) (s : State) : Bool :=
  if p < 144 then clusterOn (p / 3 / 2) s
  else if inRanges p [(160, 180), (184, 204)] then fget PAD_BANK_BANK 0 s / 2 ^ 10 % 8 == 0
  else inRanges p [(144, 159), (208, 233), (240, 240)]

/-- Pin `p` offers ALT2 (R453). -/
def offersAlt2 (p : Nat) : Bool := decide (p < 144) && decide (p % 6 ≤ 1)

/-- ALT1 of pin `p` is output only (R453). -/
def alt1Out (p : Nat) : Bool :=
  inRanges p [(170, 179), (194, 203), (208, 208), (210, 210), (212, 212), (214, 214), (216, 216), (218, 218), (222, 222),
    (224, 225), (227, 230), (147, 147), (151, 151), (155, 155), (159, 159)]

/-- ALT2 of pin `p` is output only: MA. -/
def alt2Out (p : Nat) : Bool := decide (p < 144) && decide (p % 6 = 0)

/-- Pin `p` offers function code `f` (R452, R455). -/
def offers (p f : Nat) (s : State) : Bool :=
  match f with
  | 0x00 => true
  | 0x01 => true
  | 0x02 => true
  | 0x10 => offersAlt1 p s
  | 0x11 => offersAlt2 p
  | 0x81 => true
  | 0x90 => offersAlt1 p s && alt1Out p
  | 0x91 => alt2Out p
  | _ => false

/-- The level of an output function that sends nothing: its idle level; `none` for an input or a released pin (R453). -/
def idleLevel (p f : Nat) : Option Bool :=
  if f = 0x11 then (if p % 6 = 0 then some true else none)
  else if inRanges p [(147, 147), (151, 151), (155, 155), (159, 159), (222, 222), (224, 225)] then some false
  else if alt1Out p then
    let q := if p < 184 then p - 160 else p - 184
    some (!(inRanges p [(170, 175), (194, 199)] && [11, 13, 14, 15].contains q))
  else none

/-! ### The pins of the TDM ports (R20, R358, R359, R366) -/

/-- The TDM frame of the present dot: the dot in which it began, the output samples that it sends, the block's settings that govern it. At a
strobe the next frame begins, whether or not the strobe has been taken. -/
def tdmFrame (s : State) : Nat × SMap Nat × SMap (SMap Nat) :=
  if strobeDue s then (s.time, (if audioRuns s then s.aud.next.out else []), audioSettings s)
  else (s.aud.strobe.getD 0, s.aud.out, s.aud.gov)

/-- The mode of TDM port `q` that governs the present frame (R353, R359). -/
def tdmMode (q : Nat) (s : State) : Nat := sget 0 (sget [] (tdmFrame s).2.2 TDM_CFG_MODE.id) q

/-- The root cycles of the present frame that have passed as the present dot begins, 8 to a dot; a bit period, one cycle of the audio master
clock, is 250 (R20). -/
def tdmCycles (s : State) : Nat := 8 * (s.time - (tdmFrame s).1)

/-- Bit period `k` of the frame that port `q` sends: 32-bit slots, the sample in bits 31 to 8, the most significant bit first; zeros after
the last slot (R358). -/
def tdmBit (q k : Nat) (s : State) : Bool :=
  decide (k / 32 < tdmSlots s) && decide (k % 32 < 24) && (sget 0 (tdmFrame s).2.1 (8 * q + k / 32)).testBit (23 - k % 32)

/-- The level of pin `i` of TDM port `q`, 0 to 3 for BCLK, FSYNC, DIN and DOUT, as the present dot begins; `none` where the device does
not drive it. A master drives its clock, low for the first half of each bit period, FSYNC in the last bit period of the frame, and its
slots; a converting port sends what its converter gives, a free value, and 0 while it is not locked. A port whose block is disabled is
idle (R358, R359, R368, R453). -/
def tdmLevel (q i : Nat) (s : State) : Option Bool :=
  let on := sget 0 (sget [] (tdmFrame s).2.2 AUD_CTRL_EN.id) 0 == 1
  let c := tdmCycles s
  match tdmMode q s, i with
  | 1, 0 => some (on && decide (125 ≤ c % 250))
  | 1, 1 => some (on && decide (8 * audioPeriod s ≤ c + 250))
  | 1, 3 => some (on && tdmBit q (c / 250) s)
  | 2, 3 => some (on && fbit TDM_STAT_LOCKED q s && Config.pinSending (147 + 4 * q) s.time)
  | _, _ => none

/-- The interface other than a TDM port whose function pin `p` carries is enabled, so that it may send (R453). -/
def mayDrive (p : Nat) (s : State) : Bool :=
  if p < 160 then false
  else if p < 208 then fbit NF_CTRL_EN 0 s
  else if p < 216 then fbit CAN_CTRL_EN ((p - 208) / 2) s && p % 2 == 0
  else if p < 220 then fbit UART_CTRL_EN 0 s && p % 2 == 0
  else if p < 222 then fbit I2C_CTRL_EN 0 s
  else if p < 224 then fbit ETH_MDIO_STAT_BUSY 0 s
  else if p < 231 then fbit SPI_CTRL_EN 0 s && p != 226
  else p == 232 || p == 233

/-- What the device drives on pin `p` by the function `f` of an interface: MA (R91), the pins of a TDM port, a level that an interface sends, or
its idle level. -/
def functionLevel (p f : Nat) (s : State) : Option Bool :=
  if f = 0x11 && p % 6 == 0 then some (maLevel (p / 6) s.time s)
  else if f = 0x10 && decide (144 ≤ p ∧ p < 160) then tdmLevel ((p - 144) / 4) ((p - 144) % 4) s
  else if f = 0x10 && mayDrive p s then some ((serialPin p s).getD (Config.pinSending p s.time))
  else idleLevel p f

/-- The level of pin `p` when the device does not drive it: as a command has told, as the board drives it, or its pull. -/
def outsideLevel (p : Nat) (s : State) : Bool :=
  match sget none s.pads.told p with
  | some b => b
  | none => (Config.pinOutside p s.time).getD (fget PAD_EFF_W p s / 2 ^ 11 % 4 == 2)

/-- What the device drives on pin `p` in the present dot, by its word in effect; `none` where it does not drive it (R132, R452 to R456). -/
def pinOwn (p : Nat) (s : State) : Option Bool :=
  let w := fget PAD_EFF_W p s
  let fab := s.fab.sinks.contains (0x4C0 + p)
  let own : Option Bool :=
    match w % 128 with
    | 0x00 => none
    | 0x01 => some (fbitAt PAD_OUT_OUT (p / 32) (p % 32) s)
    | 0x02 => some fab
    | f => functionLevel p f s
  own.map (fun b => b || (w.testBit 7 && fab))

/-- The level of pin `p` in the next dot under a JTAG instruction that takes the pins: driven by the boundary cells, or released
(R484). -/
def pinTest (p : Nat) (s : State) : Option Bool :=
  match s.test.ir with
  | .extest => some (s.test.cells.testBit p)
  | .clamp => some (s.test.cells.testBit p)
  | .highz => some (outsideLevel p s)
  | _ => none

/-- The level of a gate pin in the present dot: what its leg drives while PAD_LEG's word in effect is LEG, and low, by its pull-down, under
HIZ, while its latch holds it, and under the JTAG instructions that take the pins (R448, R459, R460, R484). -/
def gatePin (l : Nat) (p : GatePad) (s : State) : Bool :=
  padLevel l p s && fget PAD_LEG_EFF l s == 0 && !s.pads.latched.contains (256 + l)
    && !([JtagIr.extest, .clamp, .highz].contains s.test.ir)

/-- The levels of all pins move one dot on; a latched pin keeps its level (R448, R454, R484). -/
def pinsTick (s : State) : State :=
  let h := s.pads
  let own := (List.range 256).map (fun p => (p, if h.latched.contains p then some (h.lvl.contains p) else pinOwn p s))
  let now := (own.filter (fun e => (pinTest e.1 s).getD (e.2.getD (outsideLevel e.1 s)))).map Prod.fst
  { s with pads := { h with lvl := now, lvl1 := h.lvl, lvl2 := h.lvl1, drv := (own.filter (fun e => e.2.isSome)).map Prod.fst, drv1 := h.drv } }

/-- The number of a pad among those that wait. -/
def padNo : PadRef → Nat
  | .pin p => p
  | .gate l => 256 + l

/-- The pad word of pin `p` as written (R452). -/
def padWord (p : Nat) (s : State) : Nat :=
  fget PAD_CFG_PULL p s * 2 ^ 11 + fget PAD_CFG_SLEW p s * 2 ^ 10 + fget PAD_CFG_DRIVE p s * 2 ^ 8 + fget PAD_CFG_FUNC p s

/-- A write of a pad word or gate register is refused (R459, R467). -/
def padRefuse (gate : Bool) (n : Nat) (s : State) : State :=
  fset PAD_REFUSED_GATE 0 gate.toNat (fset PAD_REFUSED_NUMBER 0 n (fon (if gate then PAD_STAT_GATE_REFUSED else PAD_STAT_CFG_REFUSED) 0 s))

/-- A pad's new word waits for the next line boundary. -/
def padWaits (n : Nat) (s : State) : State := { s with pads := { s.pads with wait := nput n s.pads.wait } }

/-- Set the pad word of pin `p`, to take effect at the next line boundary (R457, R458). -/
def putPadWord (p v : Nat) (s : State) : State :=
  padWaits p (fset PAD_CFG_PULL p (bits v 12 11) (fset PAD_CFG_SLEW p (bits v 10 10) (fset PAD_CFG_DRIVE p (bits v 9 8)
    (fset PAD_CFG_FUNC p (bits v 7 0) s))))

/-- PAD_CFG_WRITE (R452, R458, R467): a word whose FUNC the pin does not offer, or with PULL 3, is refused whole. -/
def execPadCfgWrite (p : Fin 256) (v : Word) (s : State) : Host.Outcome State Fault Refusal :=
  if offers p (bits v.toNat 7 0) s && bits v.toNat 12 11 != 3 then .next (putPadWord p v.toNat s)
  else .next (padRefuse false p s)

/-- The handover of a pad at a line boundary (R457): a pin that was driven holds the level of the dot before, one that was not stays
undriven, and from the next dot the new word governs. -/
def handover (p : PadRef) (s : State) : State :=
  let s := { s with pads := { s.pads with wait := ndel (padNo p) s.pads.wait } }
  match p with
  | .pin p =>
    let h := s.pads
    let lvl := if (if h.drv1.contains p.val then h.lvl1.contains p.val else outsideLevel p s) then nput p h.lvl else ndel p h.lvl
    later 1 (.field PAD_EFF_W p (padWord p s)) { s with pads := { h with lvl := lvl } }
  | .gate l => later 1 (.field PAD_LEG_EFF l (fget PAD_LEG_FUNC l s)) s

/-- PAD_HANDOVER (R457): a pad whose word waits takes it. -/
def execPadHandover (p : PadRef) (s : State) : Host.Outcome State Fault Refusal :=
  .next (if s.pads.wait.contains (padNo p) then handover p s else s)

/-- A write of PAD_OUTk: the software output bits change, except those that a bit write changed in the same dot (R456). -/
def padOutSet (k v : Nat) (s : State) : State :=
  let m := held PAD_OUT_OUT.id k s
  fset PAD_OUT_OUT k ((fget PAD_OUT_OUT k s &&& m) ||| (v - (v &&& m))) s

/-- PAD_OUT_WRITE (R456). -/
def execPadOutWrite (k : Fin 8) (v : Word) (s : State) : Host.Outcome State Fault Refusal := .next (padOutSet k v.toNat s)

/-- PAD_LEG_WRITE (R459): accepted for a PARKED leg of an enabled cluster, with FUNC 0 or 1; refused whole otherwise. -/
def execPadLegWrite (l : Fin 144) (v : Word) (s : State) : Host.Outcome State Fault Refusal :=
  if clusterOn (l.val / 6) s && legState l s == 0 && bits v.toNat 1 0 < 2 then
    .next (padWaits (256 + l) (fset PAD_LEG_SLEW l (bits v.toNat 10 10) (fset PAD_LEG_DRIVE l (bits v.toNat 9 8)
      (fset PAD_LEG_FUNC l (bits v.toNat 1 0) s))))
  else .next (padRefuse true l s)

/-- PAD_LATCH_OPEN (R448, R457, R458): at a line boundary the latch of a pad whose domain is back opens and hands over. -/
def execPadLatchOpen (p : PadRef) (s : State) : Host.Outcome State Fault Refusal :=
  .next (if s.pads.latched.contains (padNo p) then
    handover p { s with pads := { s.pads with latched := ndel (padNo p) s.pads.latched } } else s)

end Sys2Proof.Machine
end

