-- ==== Sys2Proof/Machine/Display.lean ====
section
/-! DEFINITION. Composition and scanout: group DISP, the tile planes, sprites and trace layer, the composed line, display frames and
vertical blanking, capture, DisplayPort (R301 to R316, R327, R335 to R351). -/

namespace Sys2Proof.Machine

open Sys2Proof

/-! ### Group DISP and its copies (R301, R343) -/

/-- The shadow fields of group DISP. -/
def dispFields : List FieldRow :=
  (regRows.filter (fun r => decide (0x4C000000 ≤ r.base) && decide (r.base < 0x4C200000))).flatMap
    (fun r => r.fields.filter (fun f => decide (f.acc = .sh)))

/-- The values of field `f` as a table. -/
def fieldTable (f : Fld) (s : State) : SMap Nat := sget [] s.regs f.id

/-- The committed copy takes the shadow's values. -/
def dispCommit (s : State) : State :=
  forAll dispFields (fun f t => { t with disp := sset [] t.disp f.fld.id (fieldTable f.fld t) }) s

/-- The in-effect copy is reloaded from the committed copy. -/
def dispReload (s : State) : State :=
  forAll dispFields (fun f t => { t with regs := sset [] t.regs f.eff.id (sget [] t.disp f.fld.id) }) s

/-! ### Reads (R302, R338) -/

/-- What a read for a pixel gives: nothing to draw, a colour, or a failure. -/
inductive Px where
  | clear
  | colour (c : Nat)
  | bad
deriving DecidableEq, Repr

/-- Read `n` bytes at `a` for the display under capability `k`; `none` on a failed check, a bus error or an uncorrectable error. -/
def gfxFetch (k : Cap) (a n : Nat) (s : State) : Option Nat :=
  if (capCheck k [permLD] a n false).isNone && (inDram a n || inSram a n || inFrame a n)
      && !(wordsOf (flat a s) n).any (fun w => wordBad w s) then some (mread (flat a s) n s)
  else none

/-- The capability of Lantern's reads (R302). -/
def lanCap (s : State) : Cap := slotCap LAN_RCAP_CAP 0 s

/-- A pixel index as a colour: palette `pal`, sub-bank `bank`, 8 bits per pixel with `deep` (R303, R304). -/
def indexColour (pal bank : Nat) (deep : Bool) (i : Nat) (s : State) : Px :=
  if i = 0 then .clear else .colour (fget LAN_PAL_ARGB_E (256 * pal + (if deep then i else 16 * bank + i)) s)

/-- The index of column `u` in the pattern row at `a`: the low nibble for an even `u` at 4 bits per pixel (R306). -/
def patternIndex (a u : Nat) (deep : Bool) (s : State) : Option Nat :=
  if deep then gfxFetch (lanCap s) (a + u) 1 s
  else (gfxFetch (lanCap s) (a + u / 2) 1 s).map (fun b => if u % 2 = 0 then b % 16 else b / 16)

/-! ### Tile planes (R305 to R307) -/

/-- The pixel of plane `p` at (x, y). -/
def planePixel (p x y : Nat) (s : State) : Px :=
  let mw := fget TP_MAPSZ_MW_E p s
  let mh := fget TP_MAPSZ_MH_E p s
  let x0 := fget TP_WIN0_X0_E p s
  let y0 := fget TP_WIN0_Y0_E p s
  if !fbit TP_CFG_EN_E p s || mw == 0 || mh == 0 || decide (x < x0) || decide (fget TP_WIN1_X1_E p s < x) || decide (y < y0)
      || decide (fget TP_WIN1_Y1_E p s < y) then .clear
  else
    let sz := if fbit TP_CFG_TSIZE_E p s then 16 else 8
    let deep := fbit TP_CFG_DEPTH_E p s
    let b := if deep then 8 else 4
    let px := (x - x0 + fget TP_SCROLL_SX_E p s) % (mw * sz)
    let py := (y - y0 + fget TP_SCROLL_SY_E p s) % (mh * sz)
    match gfxFetch (lanCap s) (4 * fget TP_MAP_ADDR_E p s + 4 * (py / sz * mw + px / sz)) 4 s with
    | none => .bad
    | some e =>
      let u := if e.testBit 12 then sz - 1 - px % sz else px % sz
      let v := if e.testBit 13 then sz - 1 - py % sz else py % sz
      match patternIndex (32 * fget TP_TILES_ADDR_E p s + bits e 11 0 * (sz * sz * b / 8) + v * sz * b / 8) u deep s with
      | none => .bad
      | some i => indexColour (bits e 19 16) (bits e 23 20) deep i s

/-! ### Sprites (R308 to R310) -/

/-- A 12-bit number read as signed. -/
def signed12 (n : Nat) : Int := (BitVec.ofNat 12 n).toInt

/-- Sprite `n` lies on active line `y`. -/
def spriteOn (n y : Nat) (s : State) : Bool :=
  let top := signed12 (fget SPR_W0_Y_E n s)
  let h := 8 * fget SPR_W1_HC_E n s
  fbit SPR_W0_EN_E n s && fget SPR_W1_WC_E n s != 0 && h != 0 && decide (top ≤ y) && decide ((y : Int) < top + h)

/-- The sprites on a line, in rising order. -/
def spritesOn (y : Nat) (s : State) : List Nat := (List.range 256).filter (fun n => spriteOn n y s)

/-- The pixel of sprite `n` at (x, y). -/
def spritePixel (n x y : Nat) (s : State) : Px :=
  let left := signed12 (fget SPR_W0_X_E n s)
  let w := 8 * fget SPR_W1_WC_E n s
  let h := 8 * fget SPR_W1_HC_E n s
  if decide ((x : Int) < left) || decide (left + w ≤ (x : Int)) then .clear
  else
    let deep := fbit SPR_W1_DEPTH_E n s
    let u := ((x : Int) - left).toNat
    let r := ((y : Int) - signed12 (fget SPR_W0_Y_E n s)).toNat
    let u := if fbit SPR_W1_HF_E n s then w - 1 - u else u
    let r := if fbit SPR_W1_VF_E n s then h - 1 - r else r
    match patternIndex (32 * fget SPR_W2_ADDR_E n s + r * (w * (if deep then 8 else 4) / 8)) u deep s with
    | none => .bad
    | some i => indexColour (fget SPR_W1_PAL_E n s) (fget SPR_W1_BANK_E n s) deep i s

/-- A row of pixels up to the first failure; from there on it is clear (R338). -/
def cutAtBad : List Px → List Px
  | [] => []
  | .bad :: ps => .clear :: ps.map (fun _ => .clear)
  | p :: ps => p :: cutAtBad ps

/-- The sprite plane of a line: of the first 48 sprites the lowest-numbered with a pixel that is not transparent; a sprite whose read
fails is transparent on the line (R309, R310, R338). -/
def spriteRow (w y : Nat) (s : State) : List Px × Nat :=
  let rows : List (List Px) := ((spritesOn y s).take 48).map (fun n => (List.range w).map (fun x => spritePixel n x y s))
  let good := rows.filter (fun r => !r.contains .bad)
  ((List.range w).map (fun x => (good.findSome? (fun r => (r[x]?).filter (fun p => decide (p ≠ .clear)))).getD .clear),
    rows.length - good.length)

/-! ### The trace layer (R311 to R313) -/

/-- The window row of a value of tap `k`. -/
def traceRow (k h : Nat) (v : Int) (s : State) : Int :=
  let t := v / 2 ^ fget TRC_SCL_SHIFT_E k s
  let m := t * fget TRC_SCL_GAIN_E k s / 256
  max 0 (min ((h : Int) - 1) (signed12 (fget TRC_ORG_ORG_E k s) - m))

/-- The trace pixel at (x, y): the lowest-numbered tap that draws there, else the background; alpha 0 is transparent. -/
def tracePixel (x y : Nat) (s : State) : Px :=
  let x0 := fget TRC_WIN0_X0_E 0 s
  let y0 := fget TRC_WIN0_Y0_E 0 s
  let w := fget TRC_WIN1_W_E 0 s
  let h := fget TRC_WIN1_H_E 0 s
  if decide (x < x0) || decide (x0 + w ≤ x) || decide (y < y0) || decide (y0 + h ≤ y) then .clear
  else
    let col := (s.scan.cols[w - 1 - (x - x0)]?).getD []
    let hit (k : Nat) : Bool := match (col[k]?).join with
      | some (lo, hi) => decide (traceRow k h hi s ≤ ((y - y0 : Nat) : Int)) && decide (((y - y0 : Nat) : Int) ≤ traceRow k h lo s)
      | none => false
    let c := match (List.range 16).find? hit with
      | some k => fget TRC_COL_COLOUR_E k s
      | none => fget TRC_BG_COLOUR_E 0 s
    if bits c 31 24 = 0 then .clear else .colour c

/-! ### Composition (R327, R336, R338) -/

/-- A pixel laid over the one beneath it. -/
def over' (p : Px) (d : Nat) : Nat := match p with
  | .colour c => blend c d
  | _ => d

/-- The flat layer's pixel: the flat buffer's, or SCN_BG (R327). -/
def flatPixel (x y : Nat) (s : State) : Px :=
  if fbit SCN_MODE_FLAT_EN_E 0 s then
    match gfxFetch (slotCap SCN_RCAP_CAP 0 s) (fget SCN_FLAT_ADDR_ADDR_E 0 s + y * fget SCN_FLAT_PITCH_PITCH_E 0 s + 4 * x) 4 s with
    | some c => .colour c
    | none => .bad
  else .colour (fget SCN_BG_RGB_E 0 s)

/-- Lay a row of pixels over a row beneath. -/
def overRow (ps : List Px) (ds : List Nat) : List Nat := (ps.zip ds).map (fun e => over' e.1 e.2)

/-- The reads of the flat buffer that fail on a line: it is read in 64-byte blocks, 16 pixels each (R338; DESIGN CHOICE, log 97). -/
def flatFails (flat : List Px) : Nat :=
  ((List.range ((flat.length + 15) / 16)).filter (fun b => ((flat.drop (16 * b)).take 16).contains .bad)).length

/-- Line `y`, `w` pixels wide, as RGB888, with the number of reads that failed. -/
def composeLine (w y : Nat) (s : State) : List Nat × Nat :=
  let bg := fget SCN_BG_RGB_E 0 s
  let flat := (List.range w).map (fun x => flatPixel x y s)
  let base := flat.map (fun p => match p with
    | .colour c => 2 ^ 24 * 255 + c % 2 ^ 24
    | _ => 2 ^ 24 * 255 + bg)
  let (spr, sprBad) := spriteRow w y s
  let planes := (List.range 4).map (fun p => (List.range w).map (fun x => planePixel p x y s))
  let pos := fget SCN_MODE_SPR_POS_E 0 s
  let under := (planes.take pos).foldl (fun d r => overRow (cutAtBad r) d) base
  let line := ((planes.drop pos).foldl (fun d r => overRow (cutAtBad r) d) (overRow spr under))
  let line := overRow ((List.range w).map (fun x => tracePixel x y s)) line
  (line.map (fun c => c % 2 ^ 24), sprBad + (planes.filter (fun r => r.contains .bad)).length + flatFails flat)

/-- A raster write reaches the in-effect copy (R314). -/
def rasterWrite (off v : Nat) (s : State) : State :=
  match findReg (0x4C000000 + off) with
  | some (r, u) => forAll r.fields (fun f t => fset f.eff u (fieldOf f v) t) s
  | none => s

/-- Of a list of raster writes the first `n` whose LINE has come by line `y`, and the others, both in list order. -/
def rasterSplit (y : Nat) : Nat → List (Nat × Nat × Nat) → List (Nat × Nat × Nat) × List (Nat × Nat × Nat)
  | _, [] => ([], [])
  | 0, es => ([], es)
  | n + 1, e :: es =>
    if e.1 ≤ y then (e :: (rasterSplit y n es).1, (rasterSplit y n es).2)
    else ((rasterSplit y (n + 1) es).1, e :: (rasterSplit y (n + 1) es).2)

/-- The raster writes before line `y`: up to 256 whose LINE has come; what is left over of those is late (R314, R316). -/
def rasterLine (y : Nat) (s : State) : State :=
  let (now, rest) := rasterSplit y 256 s.scan.rll
  let late := rest.any (fun e => decide (e.1 ≤ y))
  let s := { s with scan := { s.scan with rll := rest, rllLate := s.scan.rllLate || late } }
  onlyIf late (fon LAN_STAT_RLL_LATE 0) (forAll now (fun e t => rasterWrite e.2.1 e.2.2 t) s)

/-- The sprites beyond 48 on a line are dropped and counted (R309). -/
def spriteDrops (y : Nat) (s : State) : State :=
  let n := (spritesOn y s).length - 48
  if n = 0 then s
  else fon LAN_STAT_SPR_OVER 0 { s with scan := { s.scan with drop := s.scan.drop + n, dropLine := some (s.scan.dropLine.getD y) } }

/-- The bytes of a captured pixel in format FMT (R347). -/
def capturePixel (c : Nat) (s : State) : Nat := ofArgb (fget SCN_CAP_CFG_FMT_E 0 s) (2 ^ 24 * 255 + c)

/-- A capture line of the display frame in progress is dropped (R347). -/
def captureDrop (s : State) : State := fcount SCN_CAPSTAT_DROP 0 1 { s with scan := { s.scan with capDrop := s.scan.capDrop + 1 } }

/-- A line that has been taken is dropped, because its write failed: it counts for the display frame it belongs to (R347). -/
def captureFailed (s : State) : State :=
  match s.scan.capEnds with
  | [] => captureDrop s
  | (n, d) :: es => fcount SCN_CAPSTAT_DROP 0 1 { s with scan := { s.scan with capEnds := (n, d + 1) :: es } }

/-- Line `y` from pixel `x` on, as the capture buffer holds it. -/
def captured (x y : Nat) (ps : List Nat) (s : State) : CapLine :=
  let bpp := fmtBytes (fget SCN_CAP_CFG_FMT_E 0 s)
  ⟨y, fget SCN_CAP_ADDR_ADDR_E 0 s + y * fget SCN_CAP_PITCH_PITCH_E 0 s + x * bpp, bpp, ps.map (fun c => capturePixel c s)⟩

/-- Capture takes line `y` into its buffer of two lines; a line that finds it full, or that a command says to have found it so, is dropped
(R347). -/
def captureLine (y : Nat) (ps : List Nat) (full : Bool) (s : State) : State :=
  if fbit SCN_CAP_CFG_EN_E 0 s && !ps.isEmpty then
    let s := { s with scan := { s.scan with capOpen := true } }
    if full || decide (2 ≤ s.scan.capQ.length) then captureDrop s
    else { s with scan := { s.scan with capQ := s.scan.capQ ++ [captured 0 y ps s], kept := true } }
  else s

/-- A line of the capture buffer is written under SCN_WCAP; a write that fails drops the line and reports SCN_CAP (R347). -/
def captureWrite (e : CapLine) (s : State) : State :=
  let n := e.px.length * e.bpp
  if (capCheck (slotCap SCN_WCAP_CAP 0 s) [permST] e.addr n true).isSome || !(inDram e.addr n || inSram e.addr n) then
    report 0x11F 0 0 (captureFailed s)
  else
    match writePixels e.bpp (e.px.map some) e.addr s with
    | (true, s) => s
    | (false, s) => report 0x11F 0 0 (captureFailed s)

/-- The oldest line of the capture buffer is written. With the last of a display frame whose vertical blanking has begun, the capture event
arrives in the next dot (R347). -/
def captureNext (s : State) : State :=
  match s.scan.capQ with
  | [] => s
  | e :: q =>
    let s := captureWrite e { s with scan := { s.scan with capQ := q } }
    let ends := s.scan.capEnds.map (fun w => (w.1 - 1, w.2))
    forAll (ends.filter (fun w => w.1 == 0)) (fun w t => later 1 (.arrive 0x18A (w.2 % 2 ^ 16)) t)
      { s with scan := { s.scan with capEnds := ends.filter (fun w => w.1 != 0) } }

/-- The capture of the display frame that ends: its event arrives now, or after the last of the lines that wait (R347, R348). -/
def captureEnds (s : State) : State :=
  let sc := s.scan
  if sc.capOpen then
    let s := { s with scan := { sc with capOpen := false, capDrop := 0, capEnds := if sc.capQ = [] then sc.capEnds else sc.capEnds ++ [(sc.capQ.length, sc.capDrop)] } }
    onlyIf (decide (sc.capQ = [])) (arrive 0x18A (sc.capDrop % 2 ^ 16)) s
  else s

/-- The timing that the in-effect copy gives. -/
def timingEff (s : State) : Timing :=
  ⟨fbit SCN_MODE_FREERUN_E 0 s, fget SCN_FRPLL_N_E 0 s, fget SCN_FRPLL_M_E 0 s, fget SCN_HTIM0_HTOTAL_E 0 s, fget SCN_HTIM0_HACTIVE_E 0 s,
    fget SCN_VTIM0_VTOTAL_E 0 s, fget SCN_VTIM0_VACTIVE_E 0 s⟩

/-- The timing of active line `y`, as it is composed: line 0 belongs to the display frame to come (R336, R344). -/
def lineTiming (y : Nat) (s : State) : Timing := if y = 0 then timingEff s else s.scan.timing

/-- LINE_COMPOSE (R309, R314, R327, R336, R338, R347): active line `y` is composed after its raster writes. `full`: the capture buffer
counts as full, and the line is not captured. -/
def execLineCompose (y : Fin 1200) (full : Bool) (s : State) : Host.Outcome State Fault Refusal :=
  let time := lineTiming y s
  if time.vactive ≤ y.val then .next s
  else
    let s := spriteDrops y (rasterLine y s)
    let (line, bad) := composeLine time.hactive y s
    let s := countReads (fun t => (composeLine time.hactive y t).2) 0x80 s
    let first := s.scan.reads == 0
    let s := { s with scan := { s.scan with row := y, pixels := line, made := true, kept := false, reads := s.scan.reads + bad } }
    let s := onlyIf (decide (0 < bad) && first) (report 0x11C 0 0) s
    .next (captureLine y line full s)

/-- The line that is being scanned has underrun; each line counts once (R337). -/
def underrun (l : SentLine) (s : State) : State :=
  let sc := s.scan
  { s with scan := if l.under then { sc with sent := some l } else
      { sc with sent := some { l with under := true }, under := sc.under + 1, underLine := some (sc.underLine.getD l.row) } }

/-- Line `y` is captured as SCN_BG from pixel `x` on: in the buffer, where it still waits, else by a write of its own (R337, R347). -/
def captureTail (x y : Nat) (tail : List Nat) (s : State) : State :=
  let k := captured x y tail s
  if s.scan.capQ.any (fun e => e.row == y) then
    { s with scan := { s.scan with capQ := s.scan.capQ.map (fun e => if e.row = y then { e with px := e.px.take x ++ k.px } else e) } }
  else captureWrite k s

/-- LINE_UNDERRUN (R337): from pixel `x` on the line being scanned is sent, and captured, as SCN_BG. -/
def execLineUnderrun (x : Fin 1920) (s : State) : Host.Outcome State Fault Refusal :=
  match s.scan.sent with
  | none => .next s
  | some l =>
    if l.pixels.length ≤ x.val then .next s
    else
      let tail := List.replicate (l.pixels.length - x.val) (fget SCN_BG_RGB_E 0 s)
      .next (onlyIf l.kept (captureTail x l.row tail) (underrun { l with pixels := l.pixels.take x ++ tail } s))

/-- Line `l` of the display frame begins to be scanned: an active line with what was composed for it; one that was not composed, as line 0
after a cut display frame, underruns from its first pixel (R337). -/
def beamLine (l : Nat) (s : State) : State :=
  let sc := s.scan
  let t := sc.timing
  if l < t.vactive && t.hactive != 0 then
    if sc.made && sc.row == l then { s with scan := { sc with made := false, sent := some ⟨l, sc.pixels, sc.kept, false⟩ } }
    else
      let bg := List.replicate t.hactive (fget SCN_BG_RGB_E 0 s)
      captureLine l bg false (underrun ⟨l, bg, false, false⟩ s)
  else { s with scan := { sc with sent := none } }

/-! ### Display frames (R339 to R341, R344) -/

/-- The dot in which line `l` of display frame `k` from origin `o` begins (R339, R341). -/
def lineDot (t : Timing) (o k l : Nat) : Nat :=
  if t.free then o + 16 * t.m * t.htotal * (k * t.vtotal + l) / t.n else o + 5 * t.htotal * l / 2

/-- The columns that the trace store keeps: none for a window of no width or height (R312, R313). -/
def traceKeep (s : State) : Nat := if fget TRC_WIN1_H_E 0 s = 0 then 0 else fget TRC_WIN1_W_E 0 s

/-- The ranges of the display frame become the newest column, and the committed tap settings start (R312). -/
def traceColumn (s : State) : State :=
  let col := (List.range 16).map (fun k => let h := sget TapH.init s.trace k; if h.en then h.range else none)
  let cols := (col :: s.scan.cols).take (traceKeep s)
  let s := fset TRC_STAT_COLS 0 cols.length { s with scan := { s.scan with cols := cols } }
  forAll (List.range 16) (fun k t =>
    let h : TapH := ⟨fbit TRC_TAP_EN_E k t, fget TRC_TAP_CTX_E k t, fget TRC_TAP_WORD_E k t, none⟩
    { t with trace := sset TapH.init t.trace k h }) s

/-- The sync pulses that the in-effect copy gives. -/
def syncsEff (s : State) : Syncs :=
  ⟨fget SCN_HTIM1_HSS_E 0 s, fget SCN_HTIM1_HSW_E 0 s, fget SCN_VTIM1_VSS_E 0 s, fget SCN_VTIM1_VSW_E 0 s, fbit SCN_MODE_HSPOL_E 0 s,
    fbit SCN_MODE_VSPOL_E 0 s⟩

/-- The beam-locked frame in progress does not last exactly its lines: it was cut or has been extended (R340). -/
def frameMismatch (s : State) : Bool :=
  match s.scan.origin with
  | some o => !s.scan.timing.free
      && decide (2 * (s.time - o) ≠ 5 * s.scan.timing.htotal * s.scan.timing.vtotal)
  | none => false

/-- DISPLAY_FRAME_START (R339 to R341, R344, R312): a display frame begins in this dot; the previous one, cut or extended, sets MISMATCH
and reports SCN_TIMING; the trace store takes a column. Free-run frames are reckoned anew from the first with a changed timing (DESIGN
CHOICE, log 86). -/
def execDisplayFrameStart (s : State) : Host.Outcome State Fault Refusal :=
  let s := if frameMismatch s then
      report 0x11D 0 0 (fon SCN_STAT_MISMATCH 0 { s with scan := { s.scan with mismatch := true } })
    else s
  let s := if s.scan.origin.isSome then traceColumn s
    else traceColumn { s with scan := { s.scan with cols := [] } }
  let t := timingEff s
  let on := t.free && s.scan.timing == t && s.scan.origin.isSome
  .next (fadd SCN_FRAMES_COUNT 0 1 (foff SCN_STAT_VBLANK 0 { s with scan := { s.scan with
    timing := t, sync := syncsEff s, origin := if on then s.scan.origin else some s.time, index := if on then s.scan.index + 1 else 0 } }))

/-! ### The commit (R343) -/

/-- Conditions 1 and 2 of R343 on one direction: total, active, sync start, sync width, the greatest active count. -/
def syncBad (total active start width most : Nat) : Bool :=
  decide (total ≤ active) || decide (most < active) || width == 0 || decide (total < start + width) || decide (start < active)

/-- A buffer of the display fails condition 6: its alignment, its pitch against `bytes` a line, or its place. -/
def bufferBad (addr pitch align bytes lines : Nat) (placed : Nat → Nat → Bool) : Bool :=
  addr % align != 0 || pitch % align != 0 || decide (pitch < bytes)
    || (lines != 0 && !placed addr (pitch * (lines - 1) + bytes))

/-- The first condition that refuses the commit of group DISP; 0 where it is accepted (R343). -/
def dispReject (s : State) : Nat :=
  let g (f : Fld) : Nat := fget f 0 s
  let free := fbit SCN_MODE_FREERUN 0 s
  let n := if free then g SCN_FRPLL_N else 160
  let m := if free then g SCN_FRPLL_M else 25
  let dual := fbit SCN_OUT_LVDS_DUAL 0 s
  let rate := match g SCN_OUT_DP_RATE with
    | 0 => 1620
    | 1 => 2700
    | _ => 5400
  if syncBad (g SCN_HTIM0_HTOTAL) (g SCN_HTIM0_HACTIVE) (g SCN_HTIM1_HSS) (g SCN_HTIM1_HSW) 1920 then 1
  else if syncBad (g SCN_VTIM0_VTOTAL) (g SCN_VTIM0_VACTIVE) (g SCN_VTIM1_VSS) (g SCN_VTIM1_VSW) 1200 then 2
  else if !free && decide (fget SWP_GEOM_EFF1_FRAMES 0 s * frameDots s * 2 ≠ 5 * g SCN_HTIM0_HTOTAL * g SCN_VTIM0_VTOTAL) then 3
  else if free && (n == 0 || m == 0 || decide (n < m) || decide (170 * m < 25 * n)) then 4
  else if (fbit SCN_OUT_LVDS_EN 0 s && !dual && decide (112 * m < 25 * n))
      || (dual && (g SCN_HTIM0_HTOTAL % 2 == 1 || g SCN_HTIM0_HACTIVE % 2 == 1 || g SCN_HTIM1_HSS % 2 == 1 || g SCN_HTIM1_HSW % 2 == 1))
      || (fbit SCN_OUT_DP_EN 0 s && decide (g SCN_OUT_DP_LANES * rate * 8 * m < 25 * n * 240)) then 5
  else if (fbit SCN_MODE_FLAT_EN 0 s && bufferBad (g SCN_FLAT_ADDR_ADDR) (g SCN_FLAT_PITCH_PITCH) 64 (4 * g SCN_HTIM0_HACTIVE)
        (g SCN_VTIM0_VACTIVE) (fun a k => inFrame a k || inDram a k))
      || (fbit SCN_CAP_CFG_EN 0 s && bufferBad (g SCN_CAP_ADDR_ADDR) (g SCN_CAP_PITCH_PITCH) (fmtAlign (g SCN_CAP_CFG_FMT))
        (fmtBytes (g SCN_CAP_CFG_FMT) * g SCN_HTIM0_HACTIVE) (g SCN_VTIM0_VACTIVE) (fun a k => inDram a k || inSram a k)) then 6
  else if 4 < g SCN_MODE_SPR_POS then 7
  else 0

/-- The pending commit is checked, accepted or refused (R343); a committed change to TRC_WIN1 empties the trace store (R313). -/
def dispCheck (s : State) : State :=
  if fbit SCN_STAT_PEND 0 s then
    let s := foff SCN_STAT_PEND 0 s
    if dispReject s = 0 then
      let same := committed TRC_WIN1_W 0 s == fget TRC_WIN1_W 0 s && committed TRC_WIN1_H 0 s == fget TRC_WIN1_H 0 s
      let s := fon SCN_STAT_COMMIT_DONE 0 (dispCommit s)
      if same then s else foff TRC_STAT_COLS 0 { s with scan := { s.scan with cols := [] } }
    else report 0x11E 0 0 (fon SCN_STAT_REJECT 0 (fset SCN_STAT_REJECT_WHY 0 (dispReject s) s))
  else s

/-- SCN_CTRL_COMMIT (R343, R344): the commit is checked at the next start of vertical blanking. -/
def execScnCtrlCommit (s : State) : Host.Outcome State Fault Refusal := .next (fon SCN_STAT_PEND 0 s)

/-! ### Vertical blanking (R301, R315, R316, R325, R337, R338, R348) -/

/-- A raster list entry as two words is refused: its target, its zero field, its LINE after `prev` and below the active lines (R316). -/
def rasterBad (w v prev lines : Nat) : Bool :=
  let off := 4 * bits w 31 16
  let line := bits w 10 0
  !((decide (0x100 ≤ off) && decide (off < 0x200)) || (decide (0x4000 ≤ off) && decide (off < 0x8000)) || (decide (0x8000 ≤ off) && decide (off < 0x9000)))
    || bits w 15 11 != 0 || decide (line < prev) || decide (lines ≤ line)
    || (match findReg (0x4C000000 + off) with
      | some (r, _) => rowOutOfRange r v
      | none => true)

/-- The list as copied: the entries that will be written, and the number refused (R315, R316). -/
def rasterCopy (lines : Nat) : List (Nat × Nat) → Nat → List (Nat × Nat × Nat) × Nat
  | [], _ => ([], 0)
  | (w, v) :: es, prev =>
    let (ok, bad) := rasterCopy lines es (bits w 10 0)
    if rasterBad w v prev lines then (ok, bad + 1) else ((bits w 10 0, 4 * bits w 31 16, v) :: ok, bad)

/-- The words of the raster line list; `none` where a read fails (R302, R315). -/
def rasterWords (s : State) : Option (List (Nat × Nat)) :=
  (List.range (fget LAN_RLL_COUNT_COUNT_E 0 s)).mapM (fun i =>
    match gfxFetch (lanCap s) (8 * fget LAN_RLL_BASE_ADDR_E 0 s + 8 * i) 8 s with
    | some v => some (v % 2 ^ 32, v / 2 ^ 32)
    | none => none)

/-- The list is copied; a failed copy sets RLL_ERR and makes no raster write; refused entries report LAN_RLL (R315, R316, R325). -/
def rllCopy (s : State) : State :=
  let words := rasterWords s
  let s := countReads (fun t => if (rasterWords t).isSome then 0 else 1) 0x80 s
  match words with
  | none => report 0x119 0 0 (fon LAN_STAT_RLL_ERR 0 { s with scan := { s.scan with rll := [], rllBad := 0, rllErr := true } })
  | some es =>
    let (ok, bad) := rasterCopy (fget SCN_VTIM0_VACTIVE_E 0 s) es 0
    let s := { s with scan := { s.scan with rll := ok, rllBad := bad, rllErr := false } }
    onlyIf (decide (0 < bad)) (report 0x119 0 0) s

/-- What the display frame counted is shown, and its events and faults are raised: sprites dropped, the raster list, underruns, failed
reads. -/
def frameCounts (s : State) : State :=
  let sc := s.scan
  let bad := min sc.rllBad 255
  let s := fset LAN_SPR_DROP 0 (min sc.drop 0xFFFF) (fset LAN_SPR_LINE 0 (sc.dropLine.getD 0) (fset LAN_STAT_RLL_BAD 0 bad s))
  let s := onlyIf (decide (0 < sc.drop)) (arrive 0x181 (2 ^ 16 * sc.dropLine.getD 0 + min sc.drop 0xFFFF)) s
  let s := onlyIf (decide (0 < bad) || sc.rllErr || sc.rllLate) (arrive 0x182 bad) s
  let s := fset SCN_UNDER_COUNT 0 sc.under (fset SCN_UNDER_FIRST 0 (sc.underLine.getD 0) (fset SCN_ERR_READ 0 (min sc.reads 0xFFFF) s))
  let s := onlyIf (decide (0 < sc.under)) (report 0x11B 0 0) s
  { s with scan := { s.scan with drop := 0, dropLine := none, under := 0, underLine := none, reads := 0, rllLate := false } }

/-- VBLANK_START (R301, R315, R325, R343, R348): the counts of the display frame, the pending commit, the reload, the list copy, the
event 0x188. -/
def execVblankStart (s : State) : Host.Outcome State Fault Refusal :=
  let under := s.scan.under
  let mismatch := s.scan.mismatch
  let s := frameCounts (fon SCN_STAT_VBLANK 0 s)
  let done := fbit SCN_STAT_PEND 0 s && dispReject s == 0
  let s := rllCopy (dispReload (dispCheck s))
  let s := captureEnds { s with scan := { s.scan with mismatch := false } }
  .next (arrive 0x188 (2 ^ 31 * done.toNat + 2 ^ 30 * mismatch.toNat + under % 2 ^ 16) s)

/-- CAPTURE_DONE (R347, R348): the lines that wait in the capture buffer are written, the last capture write with them: the event of a
display frame whose vertical blanking has begun arrives in the dot after; that of one still in progress waits for its vertical blanking. -/
def execCaptureDone (s : State) : Host.Outcome State Fault Refusal := .next (forAll s.scan.capQ (fun _ t => captureNext t) s)

/-! ### The outputs (R339, R340, R345, R346) -/

/-- HSYNC at pixel `x` of any line, VSYNC in line `l`: asserted at the level of its polarity bit (R339, R340). -/
def hsync (x : Nat) (s : State) : Bool :=
  let y := s.scan.sync
  (decide (y.hss ≤ x) && decide (x < y.hss + y.hsw)) == y.hspol
def vsync (l : Nat) (s : State) : Bool :=
  let y := s.scan.sync
  (decide (y.vss ≤ l) && decide (l < y.vss + y.vsw)) == y.vspol

/-- What the outputs carry at a scan position: the colour, RGB888, the display enable, HSYNC and VSYNC. -/
structure Beam where
  rgb : Nat
  de : Bool
  hs : Bool
  vs : Bool
deriving DecidableEq, Repr

/-- What pixel `x` of line `l` of the display frame carries: a pixel of the line being scanned, or blanking. -/
def beamAt (x l : Nat) (s : State) : Beam :=
  let c := match s.scan.sent with
    | some e => if e.row = l then e.pixels[x]? else none
    | none => none
  ⟨c.getD 0, c.isSome, hsync x s, vsync l s⟩

/-- The bits of a list as a number, the first one the most significant. -/
def bitsOf (bs : List Bool) : Nat := bs.foldl (fun n b => 2 * n + b.toNat) 0

/-- The 7 bits that each of the four data pairs of an LVDS link carries in one clock for a pixel, in the order sent: VESA or JEIDA mapping,
24 bits or 18 (R345; the places of the bits are OpenLDI's: PRESUMED, log 97). -/
def lvdsPairs (jeida six : Bool) (b : Beam) : List Nat :=
  let r (i : Nat) : Bool := b.rgb.testBit (16 + i)
  let g (i : Nat) : Bool := b.rgb.testBit (8 + i)
  let l (i : Nat) : Bool := b.rgb.testBit i
  let o := if six || jeida then 2 else 0
  let last : List Bool := if jeida then [false, l 1, l 0, g 1, g 0, r 1, r 0] else [false, l 7, l 6, g 7, g 6, r 7, r 6]
  [bitsOf [g o, r (o + 5), r (o + 4), r (o + 3), r (o + 2), r (o + 1), r o],
   bitsOf [l (o + 1), l o, g (o + 5), g (o + 4), g (o + 3), g (o + 2), g (o + 1)],
   bitsOf [b.de, b.vs, b.hs, l (o + 5), l (o + 4), l (o + 3), l (o + 2)],
   if six then 0 else bitsOf last]

/-- What the four data pairs and the clock pair of LVDS link A (false) or B (true) carry for pixel `x` of line `l`: every pixel in single
mode; in dual mode A the even and B the odd pixel of the pair; all bits 0 with LVDS_EN at 0 (R345). -/
def lvdsOut (b : Bool) (x l : Nat) (s : State) : List Nat :=
  if fbit SCN_OUT_LVDS_EN_E 0 s then
    let at_ := if fbit SCN_OUT_LVDS_DUAL_E 0 s then x / 2 * 2 + b.toNat else x
    lvdsPairs (fbit SCN_OUT_LVDS_JEIDA_E 0 s) (fbit SCN_OUT_LVDS_18_E 0 s) (beamAt at_ l s) ++ [0x63]
  else [0, 0, 0, 0, 0]

/-- The timing and the clock ratio that the MSA of the DisplayPort stream carries: those of R339 or R341 (R346). -/
structure Msa where
  timing : Timing
  sync : Syncs
deriving DecidableEq, Repr

/-- The DisplayPort stream, while DP_EN is 1 and the link is trained: its MSA, and what it carries for pixel `x` of line `l` (R346). -/
def dpStream (x l : Nat) (s : State) : Option (Msa × Beam) :=
  if fbit SCN_OUT_DP_EN_E 0 s && fbit DP_STAT_TRAINED 0 s then some (⟨s.scan.timing, s.scan.sync⟩, beamAt x l s) else none

/-! ### DisplayPort (R346, R348, R351) -/

/-- Event 0x18B: LINK_LOST, TRAINED, HPD. -/
def dpEvent (s : State) : State :=
  arrive 0x18B (4 * fget DP_STAT_LINK_LOST 0 s + 2 * fget DP_STAT_TRAINED 0 s + fget DP_STAT_HPD 0 s) s

/-- `f` is done, and the event is raised if it has changed HPD, TRAINED or LINK_LOST (R348). -/
def dpChange (f : State → State) (s : State) : State :=
  let show_ (t : State) : List Nat := [fget DP_STAT_HPD 0 t, fget DP_STAT_TRAINED 0 t, fget DP_STAT_LINK_LOST 0 t]
  onlyIf (show_ (f s) != show_ s) dpEvent (f s)

/-- The link trains: the stream stops until it has passed. -/
def dpTrain (s : State) : State :=
  dpChange (fun t => foff DP_STAT_TRAINED 0 { t with dp := { t.dp with training := true } }) s

/-- TRAIN (R346). -/
def execTrain (s : State) : Host.Outcome State Fault Refusal := .next (dpTrain s)

/-- DP_TRAIN_RESULT (R346): TRAINED, or LINK_LOST with a report of DP_LINK. -/
def execDpTrainResult (ok : Bool) (s : State) : Host.Outcome State Fault Refusal :=
  if s.dp.training then
    let s := { s with dp := { s.dp with training := false } }
    .next (dpChange (fun t => if ok then fon DP_STAT_TRAINED 0 t else report 0x120 0 0 (fon DP_STAT_LINK_LOST 0 t)) s)
  else .next s

/-- DP_LINK_LOSS (R346): the trained link is lost. -/
def execDpLinkLoss (s : State) : Host.Outcome State Fault Refusal :=
  if fbit DP_STAT_TRAINED 0 s then
    .next (dpChange (fun t => report 0x120 0 0 (fon DP_STAT_LINK_LOST 0 (foff DP_STAT_TRAINED 0 t))) s)
  else .next s

/-- DP_HPD_CHANGE (R348): the block sees 0 while the function is selected on no pin (R453). -/
def execDpHpdChange (level : Bool) (s : State) : Host.Outcome State Fault Refusal :=
  .next (dpChange (fset DP_STAT_HPD 0 (level && pinCarries 240 0x10 s).toNat) s)

/-- The HPD function has left its pin: the block sees 0 (R453). -/
def hpdOn (s : State) : State := if fbit DP_STAT_HPD 0 s && !pinCarries 240 0x10 s then dpChange (foff DP_STAT_HPD 0) s else s

/-- AUX_GO (R351): a transaction of no bytes completes at once. -/
def auxGo (s : State) : State :=
  if fget DP_AUX_LEN 0 s = 0 then fon DP_STAT_AUX_DONE 0 s else { s with dp := { s.dp with aux := true } }

/-- AUX_GO (R346, R351). -/
def execAuxGo (s : State) : Host.Outcome State Fault Refusal := .next (auxGo s)

/-- AUX_DONE (R351): the transaction ends, acknowledged or not; a read that is acknowledged fills its LEN bytes of DP_AUXDATA. Bit 0 of
CMD marks a read, as DisplayPort 1.4 lays down. -/
def execAuxDone (ack : Bool) (data : BitVec 128) (s : State) : Host.Outcome State Fault Refusal :=
  if s.dp.aux then
    let len := fget DP_AUX_LEN 0 s
    let old := (List.range 4).foldl (fun n i => n + 2 ^ (32 * i) * fget DP_AUXDATA_DATA i s) 0
    let new := data.toNat % 2 ^ (8 * len) + old / 2 ^ (8 * len) * 2 ^ (8 * len)
    let s := { s with dp := { s.dp with aux := false } }
    let s := onlyIf (ack && fget DP_AUX_CMD 0 s % 2 == 1)
      (forAll (List.range 4) (fun i t => fset DP_AUXDATA_DATA i (new / 2 ^ (32 * i)) t)) s
    .next (fon DP_STAT_AUX_DONE 0 (onlyIf (!ack) (fon DP_STAT_AUX_ERR 0) s))
  else .next s

end Sys2Proof.Machine
end

