-- ==== Sys2Proof/Machine/Engine.lean ====
section
/-! DEFINITION. The loop engines as they run: the dispatch queue, the steps by kind, the engine cycles of a dot, mismatches, the spare
pairs (R97, R105, R112 to R115, R119 to R123). -/

namespace Sys2Proof.Machine

open Sys2Proof

/-- RUN_END (R105): a run whose last step is done ends. A command may end a run at any step: it is cut there in the present dot. -/
def execRunEnd (c : Fin 24) (s : State) : Host.Outcome State Fault Refusal :=
  match (eng c s).run with
  | some r => .next (finishRun c.val r s)
  | none => .next s

/-! ### The dispatch queue (R113) -/

/-- The queue of cluster `c`'s engine, with QDEPTH and QMAX (R124). -/
def setQueue (c : Nat) (q : List (Nat × Nat)) (s : State) : State :=
  fset LPE_STAT_QMAX c (max (fget LPE_STAT_QMAX c s) q.length)
    (fset LPE_STAT_QDEPTH c q.length (setEng c { eng c s with queue := q } s))

/-- A dispatch of context `ctx` of cluster `c` enters the queue, or is dropped (R113). -/
def enqueue (c ctx : Nat) (s : State) : State :=
  let q := (eng c s).queue
  let g := 128 * c + ctx
  if q.any (fun e => e.1 == ctx) then setCtxStat g 4 s
  else if q.length ≥ 32 then report (csrc c 6) g 0 (fon LPE_STAT_QFULL c (setCtxStat g 4 s))
  else setQueue c (q ++ [(ctx, s.time)]) s

/-- The 64-bit word of memory that holds entry `e` of the slot table (R112), and step `i` of the program store (R103). -/
def slotKey (c e : Nat) : Nat := (lpeBase c + 0xE000 + 8 * e) / 8
def stepKey (c i : Nat) : Nat := (lpeBase c + 0x8000 + 8 * i) / 8

/-- LPE_SLOT_FIRE (R112, R113): entry `e` of the slot table dispatches the context it names. An entry or a program word with an
uncorrectable error is met as such an operand is: R282 names the operand only (DESIGN CHOICE, log 96). -/
def execLpeSlotFire (c : Fin 24) (e : Fin 256) (s : State) : Host.Outcome State Fault Refusal :=
  if regionRun (c.val / 6) s && clusterOn c s then
    match engineReads [slotKey c e] s with
    | (true, t) => .next (enqueue c (mread (lpeBase c + 0xE004 + 8 * e.val) 4 t % 128) t)
    | (false, t) => .next (if (eng c t).halted then t else lockFound c (2 * t.time) t)
  else .next s

/-- LPE_KICK (R104, R113): refused unless the region is in RUN; a disabled cluster has no engine (R5). -/
def execLpeKick (c : Fin 24) (ctx : Fin 128) (s : State) : Host.Outcome State Fault Refusal :=
  .next (toCluster c (fun t => if regionRun (c.val / 6) t then enqueue c ctx t else fon LPE_STAT_CFG_REFUSED c t) s)

/-- The engine cycle in which the dispatch at the head of the queue, entered in dot `d`, starts in the present dot: the first that is free
and not before its entry (R113). -/
def startCycle (c d : Nat) (s : State) : Nat := max (max (eng c s).freeAt (2 * d)) (2 * s.time)

/-- The head of cluster `c`'s queue leaves it (R113, R114, R119): its context starts, or is discarded where EN is 0, or the dispatch is lost
while the engine is halted. -/
def dispatch (c : Nat) (s : State) : State :=
  let h := eng c s
  match h.run, h.queue with
  | none, (ctx, entered) :: rest =>
    let s := setQueue c rest s
    let g := 128 * c + ctx
    let ctrl := ctxGet g 0 s
    if h.halted then fcount LPE_LOST_LOST c 1 s
    else if !ctrl.testBit 31 then s
    else
      let start := startCycle c entered s
      let wait := min (start - 2 * entered) 0xFFFF
      let s := setEng c { eng c s with run := some ⟨ctx, bits ctrl 10 0, 2, start, s.pos, false, none, none, false⟩ } s
      let s := fset LPE_BUSY_MAXWAIT c (max (fget LPE_BUSY_MAXWAIT c s) wait) (fon LPE_STAT_RUNNING c s)
      { s with holds := s.holds ++ heldLegs c g s }
  | _, _ => s

/-- DISPATCH_START (R105, R113). -/
def execDispatchStart (c : Fin 24) (s : State) : Host.Outcome State Fault Refusal := .next (dispatch c s)

/-! ### A step by its word (R103, R108) -/

/-- The fields of a step (R103). -/
def stepFields (x : Nat) : StepW :=
  ⟨Fin.ofNat 64 (bits x 57 52), Fin.ofNat 64 (bits x 51 46), Fin.ofNat 64 (bits x 45 40), Fin.ofNat 64 (bits x 39 34),
    Fin.ofNat 32 (bits x 33 29), x.testBit 28, BitVec.ofNat 28 x⟩

/-- The step of word `x` on cluster `c`. -/
def doStep (c : Fin 24) (x : Nat) (s : State) : Host.Outcome State Fault Refusal :=
  let w := stepFields x
  match bits x 63 58 with
  | 0x00 => execStepNop c w s | 0x01 => execStepGetf c w s | 0x02 => execStepGets c w s
  | 0x03 => execStepGetq c w s | 0x04 => execStepGete c w s | 0x05 => execStepGetc c w s
  | 0x06 => execStepGett c w s | 0x07 => execStepGetr c w s | 0x08 => execStepGetx c w s
  | 0x09 => execStepMbxt c w s | 0x0A => execStepPutc c w s | 0x0B => execStepPutw c w s
  | 0x0C => execStepPute c w s | 0x0D => execStepPutl c w s | 0x0E => execStepPubl c w s
  | 0x0F => execStepMov c w s | 0x10 => execStepLdk c w s | 0x11 => execStepAdd c w s
  | 0x12 => execStepSub c w s | 0x13 => execStepMul c w s | 0x14 => execStepMac c w s
  | 0x15 => execStepDiv c w s | 0x16 => execStepNeg c w s | 0x17 => execStepAbs c w s
  | 0x18 => execStepMin c w s | 0x19 => execStepMax c w s | 0x1A => execStepScale c w s
  | 0x1B => execStepShift c w s | 0x1C => execStepSqrt c w s | 0x1D => execStepSat c w s
  | 0x1E => execStepRate c w s | 0x1F => execStepDead c w s | 0x20 => execStepHyst c w s
  | 0x21 => execStepVlim c w s | 0x22 => execStepCmpgt c w s | 0x23 => execStepCmpeq c w s
  | 0x24 => execStepSel c w s | 0x25 => execStepSkip c w s | 0x26 => execStepAnd c w s
  | 0x27 => execStepOr c w s | 0x28 => execStepXor c w s | 0x29 => execStepPi c w s
  | 0x2A => execStepPid c w s | 0x2B => execStepBiq c w s | 0x2C => execStepLpf1 c w s
  | 0x2D => execStepIntg c w s | 0x2E => execStepDiff c w s | 0x2F => execStepSs2 c w s
  | 0x30 => execStepSs3 c w s | 0x31 => execStepSs4 c w s | 0x32 => execStepTbl c w s
  | 0x33 => execStepTbl2 c w s | 0x34 => execStepSincos c w s | 0x35 => execStepClarke c w s
  | 0x36 => execStepIclarke c w s | 0x37 => execStepPark c w s | 0x38 => execStepIpark c w s
  | 0x39 => execStepDecpl c w s | 0x3A => execStepSvm c w s | 0x3B => execStepSvm3 c w s
  | 0x3C => execStepSpdmt c w s | 0x3D => execStepAngle c w s | 0x3E => execStepCore c w s
  | _ => execStepSync c w s

/-- The cycles of the step of word `x` as run `r` meets it (R108). -/
def cyclesOf (r : Run) (x : Nat) : Nat := if bits x 63 58 = 0x3F then max 1 (bits x 11 0 - r.cycle) else stepCycles x

/-- The step at which the run stands is read, with its operands: its context's words and what it reads from outside (R106). One with an
uncorrectable error halts the engine (R282). -/
def takeLatch (c : Nat) (r : Run) (x : Nat) (s : State) : State :=
  let w := stepFields x
  let k := bits x 63 58
  match engineReads (stepKey c r.pc :: operandKeys c k w r s) s with
  | (false, t) => lockFound c (r.start + r.cycle) t
  | (true, t) =>
    let i := stepInput c k w r t
    let l : Latch := ⟨(List.range 64).map (fun n => ctxGet (runCtx c r) n t), i.1, i.2⟩
    setEng c { eng c t with run := some { r with latch := some l } } t

/-- The even leg of a three-level pair is written, in the fifth cycle of the step (R110). -/
def halfStep (c : Nat) (r : Run) (x : Nat) (s : State) : State :=
  let s := putcEven c (stepFields x) r s
  setEng c { eng c s with run := some { r with half := true } } s

/-- The step of word `x` is a three-level compare write (R110). -/
def threeLevelStep (x : Nat) : Bool := bits x 63 58 == 0x0A && bits x 4 3 == 2

/-- What the engine of cluster `c` does next before engine cycle `lim`, if anything: a step's reads, a step, the end of its run, the end of
a routine's budget, the start of the next run (R105, R106, R113, R118). CORE hands over in its first cycle. -/
def engineNext (c : Fin 24) (lim : Nat) (s : State) : Option State :=
  let h := eng c s
  match h.run with
  | some r =>
    let b := r.start + r.cycle
    if r.ended then (if b ≤ lim then some (finishRun c r s) else none)
    else match r.core with
    | some (first, budget) => if r.start + first + budget < lim then some (budgetExpiry c s) else none
    | none =>
      let x := stepWord c r.pc s
      if lim ≤ b then none
      else if r.latch.isNone then some (takeLatch c r x s)
      else if bits x 63 58 = 0x3E || decide (b + cyclesOf r x ≤ lim) then some (ran (doStep c x s) s)
      else if threeLevelStep x && !r.half && decide (b + 5 ≤ lim) then some (halfStep c r x s)
      else none
  | none =>
    match h.queue with
    | [] => none
    | (_, entered) :: _ => if !h.halted && decide (lim ≤ startCycle c entered s) then none else some (dispatch c s)

/-- The engine of cluster `c` runs on until engine cycle `lim`, which it does not begin. -/
def engineOn (c : Fin 24) (lim : Nat) : Nat → State → State
  | 0, s => s
  | n + 1, s => match engineNext c lim s with
    | some t => engineOn c lim n t
    | none => s

/-- The engine of cluster `c` runs through the present dot up to cycle `lim` (R97): no dot holds more than 150 of its acts. -/
def engineThrough (c : Fin 24) (lim : Nat) (s : State) : State := engineOn c lim 150 s

/-- The engines run through the present dot. -/
def enginesOn (s : State) : State := forAll (s.eng.map Prod.fst) (fun c t => engineThrough (Fin.ofNat 24 c) (2 * t.time + 2) t) s

/-- Context `ctx` of cluster `c` runs in the present dot: its run is in progress, or begins in it (R101). -/
def runsNow (c ctx : Nat) (s : State) : Bool :=
  match (eng c s).run with
  | some r => r.ctx == ctx || begins s
  | none => begins s
where
  /-- A run of the context begins in the present dot. -/
  begins (s : State) : Bool :=
    (eng c s).queue.any (fun e => e.1 == ctx) && !(eng c (engineThrough (Fin.ofNat 24 c) (2 * s.time + 2) s)).queue.any (fun e => e.1 == ctx)
      && (ctxGet (128 * c + ctx) 0 s).testBit 31 && !(eng c s).halted

/-- A run of cluster `c` is in progress in the present dot, or begins in it. -/
def clusterRuns (c : Nat) (s : State) : Bool := (eng c s).run.isSome || (eng c s).queue.any (fun e => runsNow c e.1 s)

/-- A word of context `w.1`, or of the local table of the cluster whose number is 2^16 less, takes its value. -/
def applyHeld (w : Nat × Nat × Nat) (s : State) : State :=
  if 2 ^ 16 ≤ w.1 then mwrite (lpeBase (w.1 - 2 ^ 16) + 0xC000 + 4 * w.2.1) 4 w.2.2 s else ctxApply w.1 w.2.1 w.2.2 s

/-- A host or DMA write to word `w` of cluster `c` waits: the context runs, or for the local table any program of the cluster (R101,
R104). -/
def writeWaits (c : Nat) (w : Nat × Nat × Nat) (s : State) : Bool :=
  if 2 ^ 16 ≤ w.1 then clusterRuns c s else runsNow c (w.1 % 128) s

/-- The writes that the engine of cluster `c` holds are applied in arrival order, but for those that still wait (R101, R104). -/
def releaseHeld (c : Nat) (s : State) : State :=
  let h := eng c s
  if h.held = [] then s
  else forAll (h.held.filter (fun w => !writeWaits c w s)) applyHeld (setEng c { h with held := h.held.filter (fun w => writeWaits c w s) } s)

/-- The engines of a region stop in the present dot: runs are cut, queues emptied, and what waited for the run is applied, since the
dot before held the run's last cycle (R101, R115). -/
def stopEngine (c : Nat) (s : State) : State := releaseHeld c (setQueue c [] (endRun c (2 * s.time) true s))

/-! ### Mismatches (R119 to R122) -/

/-- LOCKSTEP_MISMATCH (R119, R121, R122): in engine cycle `p.half` of the present dot; the engine has run up to that cycle. A pair that a
spare replaces is compared with nothing, and a self-test masks its target's error lines (R482). A spare that is neither in service nor enabled fails as a shadowing one does (DESIGN CHOICE,
log 80). -/
def execLockstepMismatch (p : LockPair) (s : State) : Host.Outcome State Fault Refusal :=
  let k := 2 * s.time + p.half.val
  match p.unit with
  | .cluster c =>
    if clusterOn c s && !fbit LPE_STAT_SUBST c s && !testing (16 + c) s then .next (lockFound c k (engineThrough c k s)) else .next s
  | .spare n =>
    if fbit RSP_STAT_IN_SERVICE n s then
      let c := 6 * n.val + fget RSP_STAT_SERVING n s
      .next (lockFound c k (engineThrough (Fin.ofNat 24 c) k s))
    else if testing (48 + n) s then .next s
    else .next (report (rsrc n 59) (6 * n.val + fget RSP_CFG_DESIG n s) 0 (fon RSP_STAT_SPARE_FAIL n s))

/-- The mirror copy of region `n` starts: MIRROR_READY after 8,000 dots of copying (R120). -/
def startMirror (n : Fin 4) (s : State) : State :=
  let s := setSpare n { spare n s with wiped := false } s
  later 8001 (.cmd (.mirrorCopyDone n)) (dropDue (fun d => d == .cmd (.mirrorCopyDone n)) (foff RSP_STAT_MIRROR_READY n s))

/-- RSP_CFG_WRITE (R120). -/
def execRspCfgWrite (n : Fin 4) (v : Word) (s : State) : Host.Outcome State Fault Refusal :=
  let en := bits v.toNat 8 8
  let des := bits v.toNat 2 0
  let same := fget RSP_CFG_EN n s == en && fget RSP_CFG_DESIG n s == des
  if same then .next s
  else if fbit RSP_STAT_IN_SERVICE n s || decide (5 < des) || !clusterOn (6 * n.val + des) s then
    .next (fon RSP_STAT_CFG_REFUSED n s)
  else
    let s := fset RSP_CFG_EN n en (fset RSP_CFG_DESIG n des s)
    if en = 1 then .next (startMirror n s)
    else .next (dropDue (fun d => d == .cmd (.mirrorCopyDone n)) (foff RSP_STAT_MIRROR_READY n s))

/-- MIRROR_COPY_DONE (R120). -/
def execMirrorCopyDone (n : Fin 4) (s : State) : Host.Outcome State Fault Refusal :=
  .next (if fbit RSP_CFG_EN n s then fon RSP_STAT_MIRROR_READY n s else s)

/-- The memories that the spare mirrors (R120), as address ranges: the loop engine's memories and the loop core's. -/
def inMirror (c a : Nat) : Bool :=
  decide (lpeBase c ≤ a ∧ a < lpeBase c + 0xE800) || decide (0x4A000000 + 0x40000 * c ≤ a ∧ a < 0x4A000000 + 0x40000 * c + 0x30000)

/-- Where the memory of a cluster's own pair is kept while its spare serves: bytes 2^40 above, context words 2^20 above. -/
def ownAt : Nat := 2 ^ 40
def ownCtx : Nat := 2 ^ 20

/-- Context word number `k` lies in cluster `c`. -/
def ctxIn (c k : Nat) : Bool := k / 8192 == c

/-- The memories in use of cluster `c` become zero, tags 0. -/
def mirrorWipe (c : Nat) (s : State) : State :=
  { s with mem := s.mem.filter (fun e => !inMirror c e.1), ctx := s.ctx.filter (fun e => !ctxIn c e.1)
           tags := s.tags.filter (fun k => !inMirror c (16 * k)) }

/-- Where the errors of a cluster's own memories are kept while its spare serves: 64-bit words 2^37 above. -/
def ownErr : Nat := 2 ^ 37

/-- The spare takes over with its mirror, which holds its own check bits; the cluster's own pair keeps what its memories hold, errors
among it (R120, R121, R123, R282). -/
def ownKeep (c : Nat) (wiped : Bool) (s : State) : State :=
  let m := s.mem.filter (fun e => inMirror c e.1)
  let x := s.ctx.filter (fun e => ctxIn c e.1)
  let s := forAll m (fun e t => { t with mem := sset 0 t.mem (ownAt + e.1) e.2 }) s
  let s := forAll x (fun e t => { t with ctx := sset 0 t.ctx (ownCtx + e.1) e.2 }) s
  let g := s.tags.filter (fun k => inMirror c (16 * k))
  let away (l : List Nat) : List Nat := l.map (fun w => if inMirror c (8 * w) then ownErr + w else w)
  let s := { s with cpus := sset Cpu.init s.cpus (64 + c) (cpu (loopId c) s), tags := g.foldl (fun l k => nput (ownAt + k) l) s.tags,
                    poison := away s.poison, soft := away s.soft }
  if wiped then mirrorWipe c s else s

/-- The memories of a cluster's own pair become zero (R482). -/
def ownWipe (c : Nat) (s : State) : State :=
  { s with mem := s.mem.filter (fun e => !(decide (ownAt ≤ e.1) && inMirror c (e.1 - ownAt)))
           ctx := s.ctx.filter (fun e => !(decide (ownCtx ≤ e.1) && ctxIn c (e.1 - ownCtx)))
           tags := s.tags.filter (fun k => !(decide (ownAt ≤ k) && inMirror c (16 * (k - ownAt))))
           poison := s.poison.filter (fun w => !(decide (ownErr ≤ w) && inMirror c (8 * (w - ownErr))))
           soft := s.soft.filter (fun w => !(decide (ownErr ≤ w) && inMirror c (8 * (w - ownErr)))) }

/-- The cluster's own pair resumes with its own memories and core (R123). -/
def ownBack (c : Nat) (s : State) : State :=
  let m := s.mem.filter (fun e => decide (ownAt ≤ e.1) && inMirror c (e.1 - ownAt))
  let x := s.ctx.filter (fun e => decide (ownCtx ≤ e.1) && ctxIn c (e.1 - ownCtx))
  let g := s.tags.filter (fun k => decide (ownAt ≤ k) && inMirror c (16 * (k - ownAt)))
  let s := mirrorWipe c s
  let back (l : List Nat) : List Nat := (l.filter (fun w => !inMirror c (8 * w))).map (fun w =>
    if ownErr ≤ w && inMirror c (8 * (w - ownErr)) then w - ownErr else w)
  let s := { s with poison := back s.poison, soft := back s.soft }
  let s := forAll m (fun e t => { t with mem := sset 0 t.mem (e.1 - ownAt) e.2 }) (ownWipe c s)
  let s := { s with tags := g.foldl (fun l k => nput (k - ownAt) l) s.tags }
  let s := forAll x (fun e t => { t with ctx := sset 0 t.ctx (e.1 - ownCtx) e.2 }) s
  setCpu (64 + c) Cpu.init (setCpu (loopId c) (cpu (64 + c) s) s)

/-- SPARE_TAKEOVER (R121, R270): the spare runs the cluster in which the mismatch was found from this frame boundary on. A write of
RSP_CFG since then that cleared EN or changed DESIG does not stop it (DESIGN CHOICE, log 80). -/
def execSpareTakeover (n : Fin 4) (s : State) : Host.Outcome State Fault Refusal :=
  match (spare n s).takeAt with
  | none => .next s
  | some (_, j) =>
    let c := 6 * n.val + j
    let s := setSpare n { spare n s with takeAt := none } s
    let s := fset RSP_STAT_SERVING n j (fon RSP_STAT_SWAP_DONE n (fon RSP_STAT_IN_SERVICE n s))
    let s := fon LPE_STAT_SUBST c (fset RSP_SWAPF_FRAME n s.pos.frame s)
    let s := setEng c { eng c s with halted := false } s
    .next (report (rsrc n 58) c 0 (emptyLcd c (startCore (loopId c) (ownKeep c (spare n s).wiped s))))

/-- RETURN (R123): the served cluster returns to its own pair at the next restart; ignored unless the region is STOPPED. -/
def execReturn (n : Fin 4) (s : State) : Host.Outcome State Fault Refusal :=
  .next (if regionStopped n s && fbit RSP_STAT_IN_SERVICE n s then setSpare n { spare n s with back := true } s else s)

end Sys2Proof.Machine
end

