-- ==== Sys2Proof/Machine/Follower.lean ====
section
/-! DEFINITION. The synchronisation state of a follower (R37 to R41). -/

namespace Sys2Proof.Machine

open Sys2Proof

/-- The follower moves to state `n`; a change under R38 that enters HOLDOVER or leaves LOCKED reports SWP_SYNC, source 0x102. -/
def syncTo (n : Nat) (s : State) : State :=
  let old := fget SWP_STATUS_STATE 0 s
  if n = old then s
  else
    let s := fset SWP_STATUS_STATE 0 n s
    if n = 3 ∨ old = 2 then report 0x102 0 0 s else s

/-- Set the counts of consecutive measurements (R38). -/
def syncCounts (inBand outBand : Nat) (s : State) : State := { s with swp := { s.swp with inBand := inBand, outBand := outBand } }

/-- A valid measurement of `m` fine steps, which calls for a step or not (R37, R38, R40). -/
def measure (m : Int) (step : Bool) (s : State) : State :=
  if s.swp.mode = 2 then
    let s := fset SWP_PHASE_ERR_ERR 0 (word m) { s with swp := { s.swp with measured := true, missing := 0, phase := m } }
    if step then syncCounts 0 0 (syncTo 3 (fon SWP_STATUS_STEP_PENDING 0 s))
    else
      let good := decide (m.natAbs ≤ 25)
      match fget SWP_STATUS_STATE 0 s with
      | 1 =>
        let n := if good then s.swp.inBand + 1 else 0
        if n ≥ 16 then syncCounts 0 0 (syncTo 2 s) else syncCounts n 0 s
      | 2 =>
        let n := if m.natAbs > 51 then s.swp.outBand + 1 else 0
        if n ≥ 2 then syncCounts 0 0 (syncTo 1 s) else syncCounts 0 n s
      | 3 => if fbit SWP_STATUS_STEP_PENDING 0 s then s else syncCounts (if good then 1 else 0) 0 (syncTo 1 s)
      | _ => s
  else s

/-- A frame ends: without a valid measurement the count of LOCKING restarts, and the second such frame in a row enters HOLDOVER
(R38). -/
def syncFrameEnd (s : State) : State :=
  if s.swp.mode = 2 then
    if s.swp.measured then { s with swp := { s.swp with measured := false } }
    else
      let n := s.swp.missing + 1
      let s := { s with swp := { s.swp with missing := n, inBand := 0 } }
      if n ≥ 2 then syncTo 3 s else s
  else s

end Sys2Proof.Machine
end

