-- ==== Sys2Proof/Machine/Link.lean ====
section
/-! DEFINITION. The Kremotos link (R158 to R186). -/

namespace Sys2Proof.Machine

open Sys2Proof

/-- What port `p` holds beside its registers. -/
def port (p : Nat) (s : State) : PortH := sget PortH.init s.ports p

/-- Port `p` holds `h`. -/
def setPort (p : Nat) (h : PortH) (s : State) : State := { s with ports := sset PortH.init s.ports p h }

/-- The fine step since sweep start at `fine` within the present dot. -/
def fineNow (fine : Nat) (s : State) : Int := 32 * s.time + fine

/-! ### Topology (R162, R163) -/

/-- The parts of the node's own address, its ring, its rings and its groups. -/
def adG (s : State) : Nat := fget LNK_ADDR_ADDR 0 s / 2 ^ 12 % 64
def adN (s : State) : Nat := fget LNK_ADDR_ADDR 0 s / 2 ^ 6 % 64
def adP (s : State) : Nat := fget LNK_ADDR_ADDR 0 s % 64
def ringSize (s : State) : Nat := fget LNK_TOPO_RING_SIZE 0 s
def nRings (s : State) : Nat := fget LNK_TOPO_RINGS 0 s
def nGroups (s : State) : Nat := fget LNK_TOPO_GROUPS 0 s

/-- An address from its parts. -/
def nodeAddr (g n p : Nat) : Nat := g * 2 ^ 12 + n * 2 ^ 6 + p

/-- The neighbour of port `p`: its address and its port; `none` where the port has no role (R163). -/
def neighbour (p : Nat) (s : State) : Option (Nat × Nat) :=
  let g := adG s
  let n := adN s
  let q := adP s
  let r := ringSize s
  if r = 0 then none
  else match p with
  | 0 => some (nodeAddr g n ((q + r - 1) % r), 1)
  | 1 => some (nodeAddr g n ((q + 1) % r), 0)
  | 2 =>
    if nRings s < 2 then none
    else if q = 0 then some (nodeAddr g ((n + 1) % nRings s) 1, 2)
    else if q = 1 then some (nodeAddr g ((n + nRings s - 1) % nRings s) 0, 2)
    else none
  | _ =>
    if nGroups s < 2 ∨ n ≠ 0 then none
    else if q = 2 then some (nodeAddr ((g + 1) % nGroups s) 0 3, 3)
    else if q = 3 then some (nodeAddr ((g + nGroups s - 1) % nGroups s) 0 2, 3)
    else none

/-- The port has a role. -/
def inUse (p : Nat) (s : State) : Bool := (neighbour p s).isSome

/-- The node is a gateway. -/
def gateway (s : State) : Bool := inUse 2 s || inUse 3 s

/-- The state of port `p`: 0 OFF, 1 DOWN, 2 UP, 3 MISWIRED. -/
def portState (p : Nat) (s : State) : Nat := fget LNK_PSTAT_STATE p s

/-- Port `p` is UP. -/
def portUp (p : Nat) (s : State) : Bool := portState p s == 2

/-- Lanes of port `p` in service. -/
def lanesOk (p : Nat) (s : State) : Nat := ((List.range 3).filter (fun l => fbitAt LNK_PSTAT_LANE_OK p l s)).length

/-- Port `p` takes a state; leaving UP reports LNK_PORT, becoming MISWIRED LNK_WIRE (R161, R164, R183). A port that leaves UP has no
pair half received or half sent, and measures its delay anew (R165, R179). -/
def portTo (p n : Nat) (s : State) : State :=
  let old := portState p s
  if n = old then s
  else
    let s := fset LNK_PSTAT_STATE p n s
    let s := if old = 2 then report 0x112 p 0 (setPort p { port p s with delays := [], req := none, resp := none, timing := none, geom := none, relay := none }
      (foff LNK_PSTAT_CAND p s)) else s
    if n = 3 then report 0x113 p 0 s else s

/-- The enables and the roles decide which ports are OFF (R163, R184, R185). -/
def portRefresh (p : Nat) (s : State) : State :=
  if fbit LNK_CTRL_EN 0 s && fbit LNK_PCTRL_EN p s && inUse p s then
    if portState p s = 0 then portTo p 1 s else s
  else portTo p 0 s

/-- Lane `lane` of port `p` has shown `n` cells in a row in which it was block-locked and parity agreed (R161). -/
def setAgreed (p lane n : Nat) (s : State) : State := setPort p { port p s with agreed := sset 0 (port p s).agreed lane n } s

/-- LANE_FAIL (R161): the lane is out of service; fewer than two in service bring the port DOWN. -/
def execLaneFail (p : Fin 4) (lane : Fin 3) (s : State) : Host.Outcome State Fault Refusal :=
  let s := setAgreed p lane 0 s
  if fbitAt LNK_PSTAT_LANE_OK p lane s then
    let s := report 0x110 p lane (fsetBit LNK_PSTAT_LANE_OK p lane false s)
    .next (if lanesOk p s < 2 ∧ 2 ≤ portState p s then portTo p 1 s else s)
  else .next s

/-- LANE_RETURN (R161): the lane has completed its 1,024 good cells. -/
def execLaneReturn (p : Fin 4) (lane : Fin 3) (s : State) : Host.Outcome State Fault Refusal :=
  .next (fsetBit LNK_PSTAT_LANE_OK p lane true (setAgreed p lane 1024 s))

/-- A cell has come on port `p` in which the three lanes agreed, or not; the 1,024th good one in a row returns a failed lane to
service (R161). -/
def laneCells (p : Nat) (good : Bool) (s : State) : State :=
  forAll [0, 1, 2] (fun l t =>
    let n := if good then min (sget 0 (port p t).agreed l + 1) 1024 else 0
    let t := setAgreed p l n t
    if n = 1024 then fsetBit LNK_PSTAT_LANE_OK p l true t else t) s

/-- A cell is dropped and counted (R160). -/
def dropCell (p : Nat) (s : State) : State :=
  fcount LNK_PDROP_COUNT p 1 (setPort p { port p s with dropRose := true } s)

/-! ### Control cells (R165) -/

/-- HELLO (R164): the neighbour is recorded and checked against the wiring rule. -/
def hello (p q addr : Nat) (s : State) : State :=
  if portState p s = 0 then s
  else
    let s := fset LNK_PNBR_ADDR p addr (fset LNK_PNBR_PORT p q (fon LNK_PNBR_VALID p s))
    if neighbour p s = some (addr, q) then (if lanesOk p s ≥ 2 then portTo p 2 s else s)
    else portTo p 3 s

/-- HELLO_RECEIVE (R164). -/
def execHelloReceive (p : Fin 4) (q : Fin 4) (addr : BitVec 18) (s : State) : Host.Outcome State Fault Refusal :=
  .next (hello p q addr.toNat s)

/-- DLY_REQ (R165): a DLY_RESP is due. -/
def dlyReq (p seq fine : Nat) (s : State) : State :=
  if portUp p s then setPort p { port p s with resp := some (seq, fineNow fine s) } s else s

/-- DLY_REQ_RECEIVE (R165). -/
def execDlyReqReceive (p : Fin 4) (seq : Byte) (fine : Fin 32) (s : State) : Host.Outcome State Fault Refusal :=
  .next (dlyReq p seq.toNat fine s)

/-- DLY_RESP (R178): the one-way delay is (t4 - t1 - RES) / 2; LNK_PDLY is the mean of the last 16, rounded. -/
def dlyResp (p seq res fine : Nat) (s : State) : State :=
  let h := port p s
  match h.req with
  | some (q, t1) =>
    if portUp p s && q == seq then
      let ds := ((fineNow fine s - t1 - res) :: h.delays).take 16
      let sum := ds.foldl (· + ·) 0
      let n : Int := 2 * ds.length
      fset LNK_PDLY_DELAY p (word ((2 * sum + n) / (2 * n))) (setPort p { h with req := none, delays := ds } s)
    else s
  | none => s

/-- DLY_RESP_RECEIVE (R178). -/
def execDlyRespReceive (p : Fin 4) (seq : Byte) (res : Word) (fine : Fin 32) (s : State) : Host.Outcome State Fault Refusal :=
  .next (dlyResp p seq.toNat res.toNat fine s)

/-! ### Timing pairs (R177 to R180) -/

/-- A TIMING cell's fields. -/
def timingCell (v : Nat) (at_ : Int) : TPair :=
  ⟨bits v 17 8, bits v 23 18, bits v 63 32, bits v 94 83, bits v 82 69, bits v 68 64, bits v 113 96, ⟨0, 0, 0, 0⟩, 0, at_⟩

/-- The pair that a TIMING cell and its GEOM cell form. -/
def withGeom (t : TPair) (v : Nat) : TPair :=
  { t with geom := ⟨bits v 23 8, bits v 39 24, bits v 47 40, bits v 55 48⟩, corr := bits v 95 64 }

/-- The geometry in effect. -/
def geomEff (s : State) : Geom :=
  ⟨dotsEff s, linesEff s, fget SWP_GEOM_EFF1_K 0 s, fget SWP_GEOM_EFF1_FRAMES 0 s⟩

/-- The phase measurement of a pair that arrived on port `p` (R180): in fine steps against the geometry in effect. -/
def phaseOf (p : Nat) (t : TPair) (s : State) : Int :=
  let per : Int := 32 * (frameDots s : Int)
  let here : Int := 32 * ((s.pos.line * dotsEff s + s.pos.dot : Nat) : Int) + (t.at_ - 32 * s.time)
  let there : Int := 32 * ((t.line * dotsEff s + t.dot : Nat) : Int) + t.fine
  sint ((s.pos.frame + 2 ^ 32 - t.frame % 2 ^ 32) % 2 ^ 32) * per + here - there - t.corr - fget LNK_PDLY_DELAY p s

/-- Port `p` is a candidate in this frame by the pair that arrived on it (R179). -/
def candidate (p : Nat) (s : State) : Bool :=
  portUp p s && (port p s).delays.length == 16 &&
  match (port p s).pair with
  | some t => t.master == s.link.master && decide (t.hops ≤ 510)
  | none => false

/-- The frame's phase measurement, if the pair came on the timing port (R37, R180). -/
def phaseMeasure (p : Nat) (t : TPair) (s : State) : State :=
  if p = s.link.tport ∧ candidate p s = true ∧ s.swp.mode = 2 then
    let m := phaseOf p t s
    let began := t.at_ - (32 * ((t.line * t.geom.dots + t.dot : Nat) : Int) + t.fine) - t.corr - fget LNK_PDLY_DELAY p s
    let s := { s with swp := { s.swp with master := some (t.geom, t.frame, began) } }
    measure m (t.geom != geomEff s || decide (m.natAbs > 2048)) s
  else s

/-- A pair becomes due for relay on port `p`, the first of the frame (R177). -/
def relayOn (p from_ : Nat) (t : TPair) (s : State) : State :=
  let h := port p s
  if h.relayed || !portUp p s then s else setPort p { h with relay := some ⟨from_, t⟩, relayed := true } s

/-- A follower relays a pair of its master (R177). -/
def relayPair (p : Nat) (t : TPair) (s : State) : State :=
  if s.swp.mode ≠ 2 ∨ t.master ≠ s.link.master ∨ 510 ≤ t.hops then s
  else
    let t := { t with hops := t.hops + 1 }
    if p < 2 then
      let first := !s.link.ringPair
      let s := { s with link := { s.link with ringPair := true } }
      let t := { t with rhops := t.rhops - 1 }
      let s := if 0 < t.rhops then relayOn (1 - p) p t s else s
      if first && gateway s then relayOn 3 p t (relayOn 2 p t s) else s
    else if s.link.tierPair then s
    else
      let t := { t with rhops := ringSize s - 1 }
      relayOn 1 p t (relayOn 0 p t { s with link := { s.link with tierPair := true } })

/-- A timing pair arrives on port `p` (R177 to R180); one of another master than LNK_SYNC.MASTER counts for nothing. -/
def timingPair (p : Nat) (t : TPair) (s : State) : State :=
  if portUp p s then
    let mine := t.master == s.link.master
    relayPair p t (if mine then phaseMeasure p t (setPort p { port p s with pair := some t } s) else s)
  else s

/-- TIMING_PAIR_RECEIVE (R177). -/
def execTimingPairReceive (p : Fin 4) (timing geom : BitVec 128) (fine : Fin 32) (s : State) : Host.Outcome State Fault Refusal :=
  .next (timingPair p (withGeom (timingCell timing.toNat (fineNow fine s)) geom.toNat) s)

/-! ### Records (R166 to R175) -/

/-- The fields of a record (R166). -/
def recTag (v : Nat) : Nat := bits v 23 0
def recScope (v : Nat) : Nat := bits v 25 24
def recHops (v : Nat) : Nat := bits v 31 26
def recFseq (v : Nat) : Nat := bits v 39 32
def recSrc (v : Nat) : Nat := bits v 57 40
def recValue (v : Nat) : Nat := bits v 95 64

/-- A record with other HOPS. -/
def recWithHops (v h : Nat) : Nat := v - recHops v * 2 ^ 26 + h % 64 * 2 ^ 26

/-- A record joins the forwarding buffer of port `p`, from which it may leave from fine step `at_` on; a full buffer drops it (R172). -/
def forward (p v at_ : Nat) (s : State) : State :=
  if !portUp p s then s
  else
    let h := port p s
    if h.fwd.length ≥ 4096 then fcount LNK_POVF_COUNT p 1 { s with link := { s.link with ovf := true } }
    else setPort p { h with fwd := h.fwd ++ [(at_, v)] } s

/-- The first arrival of a record of SCOPE 2 or 3 crosses the tiers at a gateway (R170, R171): `p` is the port of arrival. -/
def crossTiers (p v : Nat) (s : State) : State :=
  if p < 2 then
    let s := if inUse 2 s then forward 2 v (32 * s.time) s else s
    if recScope v = 3 ∧ inUse 3 s = true then forward 3 v (32 * s.time) s else s
  else
    let v := recWithHops v (ringSize s - 1)
    forward 1 v (32 * s.time) (forward 0 v (32 * s.time) s)

/-- A record is discarded and counted in LNK_FLATE. -/
def lateRecord (s : State) : State := { s with link := { s.link with flate := s.link.flate + 1 } }

/-- The local fine step in which the master's next frame begins, and that frame's number, from the frame whose beginning is known
(R180): the first at or after half a dot before this one. -/
def stepFrame (s : State) : Option (Geom × Nat × Int) :=
  match s.swp.master with
  | some (g, f, began) =>
    let len : Int := 32 * (g.dots * g.lines)
    let late : Int := 32 * s.time - 16 - began
    let k := if late ≤ 0 ∨ len = 0 then 0 else (late + len - 1) / len
    some (g, (f + k.toNat) % 2 ^ 32, began + k * len)
  | none => none

/-- The step dot comes within the next `n` dots, this one among them where `n` is 0 (R40). -/
def stepWithin (n : Nat) (s : State) : Bool :=
  match stepFrame s with
  | some (_, _, at_) => s.swp.armed && decide (at_ < 32 * (s.time + n) + 16)
  | none => false

/-- The present dot is one of the last 400 of its frame, which ends before an armed step's dot (R40, R169). -/
def last400 (s : State) : Bool := decide (frameDots s ≤ s.pos.line * dotsEff s + s.pos.dot + 400) || stepWithin 400 s

/-- A data cell whose first bit comes at `fine` within the present dot arrives on port `p` (R169 to R175). -/
def dataCell (p v fine : Nat) (s : State) : State :=
  if !portUp p s then s
  else
    let s := setPort p { port p s with rx := min ((port p s).rx + 1) 65535 } s
    if recScope v = 0 ∨ recFseq v ≠ s.pos.frame % 256 ∨ last400 s = true ∨ recSrc v = fget LNK_ADDR_ADDR 0 s then lateRecord s
    else
      let s := { s with link := { s.link with frx := s.link.frx + 1 } }
      let s := if p < 2 ∧ 1 < recHops v then forward (1 - p) (recWithHops v (recHops v - 1)) (32 * (s.time + 40) + fine) s else s
      if fbit LNK_DIR_EN 0 s then { s with link := { s.link with lookups := s.link.lookups ++ [(p, v)] } }
      else if gateway s && decide (2 ≤ recScope v) then crossTiers p v s
      else s

/-- DATA_CELL_RECEIVE (R169): the cell's first bit comes as the dot begins. -/
def execDataCellReceive (p : Fin 4) (v : BitVec 128) (s : State) : Host.Outcome State Fault Refusal := .next (dataCell p v.toNat 0 s)

/-- The index of a tag's directory entry (R173). -/
def dirIndex (t : Nat) : Nat :=
  let x := t * 0x5BD1E5 % 2 ^ 24
  x ^^^ (x / 2 ^ 11)

/-- The memory address of a tag's entry: DRAM lies at 2^32 and above. -/
def dirAddr (t : Nat) (s : State) : Nat := 2 ^ 32 + fget LNK_DIR_BASE 0 s * 2 ^ 28 + 16 * dirIndex t

/-- A bad entry or destination is met (R175). -/
def dirBad (s : State) : State := fon LNK_STAT_DIR_BAD 0 { s with link := { s.link with dir := true } }

/-- A value is staged for mailbox word `m` of context `g`: of records for one word the larger TAG, then SRC, then VALUE stands, and a
word with two records that differ clashes (R175). -/
def stage (g m v : Nat) (s : State) : State :=
  let s := { s with link := { s.link with fmatch := s.link.fmatch + 1 } }
  let new := (recTag v, recSrc v, recValue v)
  match s.link.staged.find? (fun e => e.1 == g && e.2.1 == m) with
  | none => { s with link := { s.link with staged := s.link.staged ++ [(g, m, new)] } }
  | some (_, _, old) =>
    if old = new then s
    else
      let key (r : Nat × Nat × Nat) : Nat := r.1 * 2 ^ 64 + r.2.1 * 2 ^ 32 + r.2.2
      let best := if key old < key new then new else old
      let rest := s.link.staged.map (fun e => if e.1 == g && e.2.1 == m then (g, m, best) else e)
      fon LNK_STAT_MBX_CLASH 0 { s with link := { s.link with staged := rest, dir := true } }

/-- The first arrival of a record in frame F at a gateway writes SEEN, the bytes 4 to 7 of the entry at `a` (R171, R174): a write of part of
a word, which makes its page valid (R283, R284). -/
def markSeen (a : Nat) (s : State) : State := putMem (a + 4) 4 ((s.pos.frame + 1) % 2 ^ 32) s

/-- What the entry `x` does with a record (R175): one that holds SEEN alone is not all zero. -/
def deliver (x v : Nat) (s : State) : State :=
  let w0 := bits x 31 0
  let dests := bits x 127 64
  let n := bits w0 26 24
  if x = 0 then s
  else if bits w0 23 0 ≠ recTag v ∨ 5 ≤ n then dirBad s
  else forAll (List.range n) (fun i t =>
    let d := bits dests (16 * i + 15) (16 * i)
    let g := bits d 14 3
    if 3072 ≤ g ∨ clusterOn (g / 128) t = false then dirBad t else stage g (d % 8) v t) s

/-- A lookup of a record that arrived on port `p` completes (R171, R174, R175). The read counts and hands over what it corrects; one that
meets an uncorrectable error counts as a bad entry (R281, R282). -/
def lookup (p v : Nat) (s : State) : State :=
  let a := dirAddr (recTag v) s
  match readMem a 16 0x82 s with
  | (none, s) => dirBad s
  | (some x, s) =>
    let first := bits x 63 32 != (s.pos.frame + 1) % 2 ^ 32
    let s := if gateway s && decide (2 ≤ recScope v) && first then crossTiers p v (markSeen a s) else s
    deliver x v s

/-- DIRECTORY_LOOKUP_DONE (R175): the oldest lookup under way completes. -/
def execDirectoryLookupDone (s : State) : Host.Outcome State Fault Refusal :=
  match s.link.lookups with
  | [] => .next s
  | (p, v) :: rest => .next (lookup p v { s with link := { s.link with lookups := rest } })

/-! ### Cells received (R159, R160) -/

/-- A TIMING cell that no GEOM cell follows in the next slot is dropped and counted (R165). -/
def loseTiming (p : Nat) (s : State) : State :=
  match (port p s).timing with
  | some _ => dropCell p (setPort p { port p s with timing := none } s)
  | none => s

/-- A cell that is not taken is dropped and counted, and so is a TIMING cell in the slot before it (R160, R165). -/
def notTaken (p : Nat) (s : State) : State := dropCell p (loseTiming p s)

/-- A cell that has been taken: 16 bytes, a data cell or a control cell by its TYPE. A TIMING cell waits for the GEOM cell of the next
slot; either alone is dropped and counted (R165). -/
def takeCell (p : Nat) (data : Bool) (v fine : Nat) (s : State) : State :=
  let h := port p s
  let kind := v % 256
  if !data && kind == 2 then
    match h.timing with
    | some t => timingPair p (withGeom t v) (setPort p { h with timing := none } s)
    | none => dropCell p s
  else
    let s := loseTiming p s
    if data then dataCell p v fine s
    else match kind with
    | 0 => s
    | 1 => setPort p { port p s with timing := some (timingCell v (fineNow fine s)) } s
    | 3 => dlyReq p (bits v 15 8) fine s
    | 4 => dlyResp p (bits v 15 8) (bits v 63 32) fine s
    | 5 => hello p (bits v 9 8) (bits v 49 32) s
    | _ => dropCell p s

/-- A sync header that is invalid. -/
def badHeader (h : BitVec 2) : Bool := h == 0 || h == 3

/-- The three lanes of a cell are block-locked and their parity agrees (R160, R161). -/
def cellAgrees (c : CellIn) : Bool :=
  !badHeader c.h0 && c.h0 == c.h1 && c.h0 == c.hs && c.ds == c.d0 ^^^ c.d1

/-- CELL_RECEIVE (R160): the cell is taken, rebuilt from parity and counted, or dropped and counted. Two lanes whose valid headers
differ, LS among them, disagree in parity (DEDUCED, log 83). -/
def execCellReceive (p : Fin 4) (c : CellIn) (s : State) : Host.Outcome State Fault Refusal :=
  let p := p.val
  if portState p s = 0 then .next s
  else
    let s := if badHeader c.h0 then fcount LNK_PLANE_L0 p 1 s else s
    let s := if badHeader c.h1 then fcount LNK_PLANE_L1 p 1 s else s
    let s := if badHeader c.hs then fcount LNK_PLANE_LS p 1 s else s
    let bad0 := badHeader c.h0 || !fbitAt LNK_PSTAT_LANE_OK p 0 s
    let bad1 := badHeader c.h1 || !fbitAt LNK_PSTAT_LANE_OK p 1 s
    let bads := badHeader c.hs || !fbitAt LNK_PSTAT_LANE_OK p 2 s
    let got (h : BitVec 2) (d0 d1 : BitVec 64) (t : State) : State :=
      takeCell p (h == 1) (d0.toNat + 2 ^ 64 * d1.toNat) c.fine t
    let s := laneCells p (cellAgrees c) s
    match bad0, bad1, bads with
    | false, false, false =>
      .next (if c.h0 = c.h1 ∧ c.h0 = c.hs ∧ c.ds = c.d0 ^^^ c.d1 then got c.h0 c.d0 c.d1 s else notTaken p s)
    | true, false, false =>
      .next (if c.h1 = c.hs then got c.h1 (c.d1 ^^^ c.ds) c.d1 (fcount LNK_PRECON_COUNT p 1 s) else notTaken p s)
    | false, true, false =>
      .next (if c.h0 = c.hs then got c.h0 c.d0 (c.d0 ^^^ c.ds) (fcount LNK_PRECON_COUNT p 1 s) else notTaken p s)
    | false, false, true =>
      .next (if c.h0 = c.h1 then got c.h0 c.d0 c.d1 (fcount LNK_PRECON_COUNT p 1 s) else notTaken p s)
    | _, _, _ => .next (notTaken p s)

/-! ### Cells sent (R165, R168, R172, R177) -/

/-- TXPOS of a position (R165). -/
def txPos (line dot fine : Nat) : Nat := line * 2 ^ 19 + dot * 2 ^ 5 + fine

/-- The TIMING and GEOM cells of a pair that leaves at `line:dot:fine` of the master, or as relayed (R165). -/
def timingWord (hops rhops frame tx master : Nat) : Nat :=
  1 + (hops + rhops * 2 ^ 10) * 2 ^ 8 + frame * 2 ^ 32 + tx * 2 ^ 64 + master * 2 ^ 96
def geomWord (g : Geom) (corr : Nat) : Nat :=
  2 + g.dots * 2 ^ 8 + g.lines * 2 ^ 24 + g.k * 2 ^ 40 + g.frames * 2 ^ 48 + corr % 2 ^ 32 * 2 ^ 64

/-- A cell leaves port `p`. -/
def sendCell (p v : Nat) (data : Bool) (h : PortH) (s : State) : State :=
  setPort p { h with out := (v, data), tx := if data then min (h.tx + 1) 65535 else h.tx } s

/-- Take port `p` off the ports that have still to send the first own record queued on it. -/
def popOwn (p : Nat) : List (Nat × List Nat × Bool) → Option (Nat × Bool × List (Nat × List Nat × Bool))
  | [] => none
  | (v, ps, sent) :: rest =>
    if ps.contains p then
      let ps' := ndel p ps
      some (v, sent, if ps'.isEmpty then rest else (v, ps', true) :: rest)
    else match popOwn p rest with
      | none => none
      | some (w, b, r) => some (w, b, (v, ps, sent) :: r)

/-- CELL_SLOT_SEND (R165, R168, R172): the due cell of highest precedence leaves: the GEOM cell of a pair begun, a timing pair, HELLO,
DLY_REQ, DLY_RESP, a forwarded record, an own record, IDLE. A port that is not UP sends HELLO and IDLE. -/
def execCellSlotSend (p : Fin 4) (fine : Fin 32) (s : State) : Host.Outcome State Fault Refusal :=
  let p := p.val
  let h := port p s
  let now := fineNow fine s
  if portState p s = 0 then .next s
  else if portUp p s then
    match h.geom with
    | some v => .next (sendCell p v false { h with geom := none } s)
    | none =>
    if h.pairDue then
      .next (sendCell p (timingWord 0 (ringSize s - 1) s.pos.frame (txPos s.pos.line s.pos.dot fine) (fget LNK_ADDR_ADDR 0 s)) false
        { h with pairDue := false, geom := some (geomWord (geomEff s) 0) } s)
    else
    match h.relay.filter (fun r => decide (r.pair.at_ + 1280 ≤ now)) with
    | some ⟨q, t⟩ =>
      let corr := t.corr + fget LNK_PDLY_DELAY q s + (now - t.at_).toNat
      .next (sendCell p (timingWord t.hops t.rhops t.frame (txPos t.line t.dot t.fine) t.master) false
        { h with relay := none, geom := some (geomWord t.geom corr) } s)
    | none =>
    if h.helloDue then
      .next (sendCell p (5 + p * 2 ^ 8 + fget LNK_ADDR_ADDR 0 s * 2 ^ 32) false { h with helloDue := false } s)
    else if h.reqDue then
      .next (sendCell p (3 + h.seq * 2 ^ 8) false
        { h with reqDue := false, req := some (h.seq, now), seq := (h.seq + 1) % 256 } s)
    else
    match h.resp.filter (fun r => decide (r.2 + 1280 ≤ now)) with
    | some (seq, t0) => .next (sendCell p (4 + seq * 2 ^ 8 + (now - t0).toNat % 2 ^ 32 * 2 ^ 32) false { h with resp := none } s)
    | none =>
    match h.fwd.find? (fun e => decide ((e.1 : Int) ≤ now)) with
    | some e => .next (sendCell p e.2 true { h with fwd := h.fwd.erase e } s)
    | none => sendOwn p h s
  else if h.helloDue then
    .next (sendCell p (5 + p * 2 ^ 8 + fget LNK_ADDR_ADDR 0 s * 2 ^ 32) false { h with helloDue := false } s)
  else .next (sendCell p 0 false h s)
where
  /-- An own record leaves, or IDLE. -/
  sendOwn (p : Nat) (h : PortH) (s : State) : Host.Outcome State Fault Refusal :=
    match popOwn p s.link.own with
    | some (v, sent, rest) =>
      .next (sendCell p v true h { s with link := { s.link with own := rest, ftx := s.link.ftx + (if sent then 0 else 1) } })
    | none => .next (sendCell p 0 false h s)

/-! ### Publishing (R167, R168) -/

/-- PUB_VALUE_WRITE (R167). -/
def execPubValueWrite (e : Fin 1024) (v : Word) (s : State) : Host.Outcome State Fault Refusal := .next (pubWrite true e v.toNat s)

/-- The record of publish entry `e` (R166, R168). -/
def ownRecord (e : Nat) (s : State) : Nat :=
  fget PUB_CFG_TAG e s + fget PUB_CFG_SCOPE e s * 2 ^ 24 + (ringSize s - 1) % 64 * 2 ^ 26 + s.pos.frame % 256 * 2 ^ 32
    + fget LNK_ADDR_ADDR 0 s * 2 ^ 40 + fget PUB_VALUE_VALUE e s * 2 ^ 64
    + (fget PUB_PPOS_LINE e s * 2 ^ 14 + fget PUB_PPOS_DOT e s) * 2 ^ 96

/-- PUBLISH_SNAPSHOT (R167, R168): the entries written and published are queued on the ports of their scope that are in use; WRITTEN clears
in every entry. -/
def execPublishSnapshot (s : State) : Host.Outcome State Fault Refusal :=
  if fbit LNK_CTRL_EN 0 s then
    .next (forAll (List.range 1024) (fun e t =>
      if fbit PUB_STAT_WRITTEN e t then
        let ps := (match fget PUB_CFG_SCOPE e t with
          | 1 => [0, 1]
          | 2 => [0, 1, 2]
          | _ => [0, 1, 2, 3]).filter (fun p => inUse p t)
        foff PUB_STAT_WRITTEN e
          (if fget PUB_CFG_SCOPE e t = 0 then t else { t with link := { t.link with own := t.link.own ++ [(ownRecord e t, ps, false)] } })
      else t) s)
  else .next s

/-! ### The frame (R102, R175, R177, R179, R183) -/

/-- The reports that are made once a frame, in its last dot (R183). -/
def linkLastDot (s : State) : State :=
  let late := s.link.flate + (s.link.own.filter (fun e => !e.2.2)).length
  let s := if (List.range 4).any (fun p => (port p s).dropRose) then report 0x114 0 0 s else s
  let s := if s.link.ovf then report 0x115 0 0 s else s
  let s := if late = 0 then s else report 0x116 0 0 s
  if s.link.dir then report 0x117 0 0 s else s

/-- An accepted write of SYNC_MODE or REF_PORT waits for the frame boundary (R42). -/
def modeChanges (s : State) : Bool :=
  fget SWP_CTRL_SYNC_MODE 0 s != s.swp.mode || fget SWP_CTRL_REF_PORT 0 s != s.swp.port

/-- A follower's timing port of the next frame: the candidate of least distance, REF_PORT before the lowest-numbered (R179). -/
def chooseTiming (s : State) : Option Nat :=
  let allowed := s.swp.port :: (List.range 4).filter (fun p => s.link.alt.testBit p && p != s.swp.port)
  let dist (p : Nat) : Nat := match (port p s).pair with
    | some t => t.hops
    | none => 1023
  (allowed.filter (fun p => candidate p s)).foldl (fun best p => match best with
    | none => some p
    | some q => if dist p < dist q then some p else some q) none

/-- Mailbox word `m` of context `g` takes `v` and its MBX_FRESH bit is set (R102). A word that is merged into one with an uncorrectable
error is not written (R283). -/
def mailbox (g m v : Nat) (s : State) : State :=
  match mergeWords [ctxPlace g (56 + m), ctxPlace g 55].eraseDups 0x82 s with
  | (false, t) => t
  | (true, t) => ctxSet g 55 (ctxGet g 55 t ||| 2 ^ m) (ctxSet g (56 + m) v t)

/-- A new frame begins for the link: mailbox words take the values staged (R102, R175), the counts of the frame just ended are shown,
unsent own records are discarded, the timing port is chosen unless a new mode or REF_PORT takes effect in this dot (R42), the new frame's
control cells become due. A pair that still waits to be relayed is the first to become due on its port (R177). -/
def linkFrameStart (s : State) : State :=
  let s := forAll s.link.staged (fun e t => let (g, m, _, _, v) := e; mailbox g m v t) s
  let s := fset LNK_FLATE_COUNT 0 (s.link.flate + (s.link.own.filter (fun e => !e.2.2)).length)
    (fset LNK_FMATCH_COUNT 0 s.link.fmatch (fset LNK_FRX_COUNT 0 s.link.frx (fset LNK_FTX_COUNT 0 s.link.ftx s)))
  let pick := if s.swp.mode = 2 then chooseTiming s else none
  let s := forAll (List.range 4) (fun p t =>
    let h := port p t
    let hops := match h.pair with
      | some q => some q.hops
      | none => none
    let t := fset LNK_PSTAT_CAND p (candidate p t).toNat t
    let t := fset LNK_PTHOPS_VALID p hops.isSome.toNat (fset LNK_PTHOPS_HOPS p (hops.getD 1023) t)
    fset LNK_PFRAME_RX p h.rx (fset LNK_PFRAME_TX p h.tx t)) s
  let s := if modeChanges s then s else match pick with
    | some p =>
      let d := match (port p s).pair with
        | some q => q.hops + 1
        | none => 1023
      let t := fset LNK_STAT_HOPS 0 d (fset LNK_STAT_TPORT 0 p (fon LNK_STAT_TVALID 0 { s with link := { s.link with tport := p } }))
      if p = s.link.tport then t else report 0x111 0 0 t
    | none => fset LNK_STAT_HOPS 0 1023 (foff LNK_STAT_TVALID 0 s)
  let s := forAll (List.range 4) (fun p t =>
    let h := port p t
    setPort p { h with pair := none, relayed := h.relay.isSome, rx := 0, tx := 0, dropRose := false, helloDue := portState p t != 0,
                       pairDue := portUp p t && t.swp.mode == 1 } t) s
  { s with link := { s.link with own := [], staged := [], wrote := (s.time, s.link.staged.map (fun e => (e.1, e.2.1))), ftx := 0, frx := 0, fmatch := 0, flate := 0, ovf := false, dir := false,
                                  ringPair := false, tierPair := false, win := fget LNK_WIN_START 0 s,
                                  alt := fget LNK_SYNC_ALT_EN 0 s, master := fget LNK_SYNC_MASTER 0 s } }

/-- Line 1 begins: each UP port's DLY_REQ becomes due (R165). -/
def linkLineOne (s : State) : State :=
  forAll (List.range 4) (fun p t => if portUp p t then setPort p { port p t with reqDue := true } t else t) s

end Sys2Proof.Machine
end

