-- ==== Sys2Proof/Machine/MemCtl.lean ====
section
/-! DEFINITION. The memory controller, the Rambler, row repair, and the start and stop of DMA channels (R282, R285 to R288, R291,
R296). -/

namespace Sys2Proof.Machine

open Sys2Proof

/-- POSTED_STORE_ERROR (R282): a posted store of requester `req` to address `a` is dropped; MEM_PWERR is reported. -/
def execPostedStoreError (req : Byte) (a : Word) (s : State) : Host.Outcome State Fault Refusal :=
  let f := flat a.toNat s
  .next (report 0x10A (memAddr f) (memInfo f req.toNat) s)

/-! ### Discarding (R285) -/

/-- The first address and the units of a memory, numbered as MEM_DISC.MEM; the size of a unit (R274, R284). -/
def discMemory : Nat → Nat × Nat × Nat
  | 0 => (2 ^ 32, 2 ^ 21, 4096)
  | 1 => (0x20000000, 32768, 256)
  | 2 => (0x30000000, 49152, 256)
  | _ => (0x38000000, 1024, 256)

/-- A page or granule is discarded: it reads as zeros with tags of 0, and its errors are gone. -/
def discardUnit (m u : Nat) (s : State) : State :=
  let (base, _, n) := discMemory m
  let lo := base + n * u
  let keep (k : Nat) : Bool := !(decide (lo ≤ k) && decide (k < lo + n))
  { s with
    valid := ndel lo s.valid
    mem := s.mem.filter (fun e => keep e.1)
    tags := s.tags.filter (fun t => keep (16 * t))
    poison := s.poison.filter (fun w => keep (8 * w))
    soft := s.soft.filter (fun w => keep (8 * w)) }

/-- MEM_DISC.GO with `v` written: refused while a discard runs or beyond the memory; a count of 0 completes at once. -/
def discardGo (m : Nat) (s : State) : State :=
  let u := fget MEM_DISC_START_UNIT 0 s
  let n := fget MEM_DISC_CNT_COUNT 0 s
  if fbit MEM_STAT_DISC_BUSY 0 s then fon MEM_STAT_CFG_REFUSED 0 s
  else if n = 0 then s
  else if (discMemory m).2.1 < u + n then fon MEM_STAT_CFG_REFUSED 0 s
  else fon MEM_STAT_DISC_BUSY 0 { s with memh := { s.memh with disc := some (m, u, n) } }

/-- MEM_DISC_GO (R285): a write of MEM_DISC with GO. -/
def execMemDiscGo (m : Fin 4) (s : State) : Host.Outcome State Fault Refusal := .next (discardGo m (fset MEM_DISC_MEM 0 m s))

/-- One unit of the discard in progress, in its dot. -/
def discardTick (s : State) : State :=
  match s.memh.disc with
  | some (m, u, n) => { discardUnit m u s with memh := { s.memh with disc := if n ≤ 1 then some (m, u + 1, 0) else some (m, u + 1, n - 1) } }
  | none => s

/-- The units of `m` from `u` on, `n` of them, are discarded. -/
def discardRange (m u : Nat) : Nat → State → State
  | 0, s => s
  | n + 1, s => discardRange m (u + 1) n (discardUnit m u s)

/-- DISCARD_DONE (R285): the last unit has been cleared, and DISC_BUSY clears. -/
def execDiscardDone (s : State) : Host.Outcome State Fault Refusal :=
  match s.memh.disc with
  | some (m, u, n) =>
    let s := discardRange m u n s
    .next (foff MEM_STAT_DISC_BUSY 0 { s with memh := { s.memh with disc := none } })
  | none => .next s

/-! ### The Rambler (R286, R287) -/

/-- The 256,000 bytes of region `n`'s mirror, which has no address of its own (R120, R277): the model holds it equal to what it mirrors, and
the walker passes it; while the spare serves, the memories of the pair that it replaces take its place in the walk (DESIGN CHOICE,
log 84). -/
def mirrorRanges (n : Nat) (s : State) : List (Nat × Nat) :=
  if fbit RSP_STAT_IN_SERVICE n s then
    let c := 6 * n + fget RSP_STAT_SERVING n s
    [(2 ^ 40 + 0x44000000 + 0x10000 * c, 0xE800), (2 ^ 40 + 0x4A000000 + 0x40000 * c, 0x30000)]
  else [(2 ^ 41 + 2 ^ 18 * n, 256000)]

/-- Address `a` lies in a memory of the target that a self-test holds: a host core's refuge SRAM, the memories of a cluster's pair or of a
spare pair, its mirror among them (R480, R482). -/
def underTest (a : Nat) (s : State) : Bool :=
  s.test.bist.any (fun e =>
    let t := e.1
    let range (b n : Nat) : Bool := decide (b ≤ a ∧ a < b + n)
    if t < 16 then range (0x47800000 + 0x1000 * t) 0x1000
    else if t < 40 then !fbit LPE_STAT_SUBST (t - 16) s
      && (range (0x44000000 + 0x10000 * (t - 16)) 0xE800 || range (0x4A000000 + 0x40000 * (t - 16)) 0x30000)
    else range (0x4A600000 + 0x40000 * (t - 48)) 0x30000 || (mirrorRanges (t - 48) s).any (fun r => range r.1 r.2))

/-- The ranges of keys that walker `w` covers, in order: first address and size (R120, R277, R286). The loop-core memories of a cluster
follow its engine memories; the refuge SRAM of core `i` has the keys from 0x47800000 + 0x1000 × i. -/
def walkRanges (w : Nat) (s : State) : List (Nat × Nat) :=
  match w with
  | 0 => [(2 ^ 32, 2 ^ 33)]
  | 1 => [(0x20000000, 0x800000)]
  | 2 => [(0x30000000, 0xC00000)]
  | 3 => [(0x38000000, 0x40000)]
  | _ => (List.range 24).flatMap (fun c => [(0x44000000 + 0x10000 * c, 0xE800), (0x4A000000 + 0x40000 * c, 0x30000),
        (0x47810000 + 0x1000 * c, 0x1000)])
      ++ (List.range 4).flatMap (fun n => [(0x4A600000 + 0x40000 * n, 0x30000), (0x47830000 + 0x1000 * n, 0x1000)] ++ mirrorRanges n s
        ++ [(0x47800000 + 0x1000 * n, 0x1000)])

/-- The key at offset `o` of a walk; `none` past its end. -/
def walkKey : List (Nat × Nat) → Nat → Option Nat
  | [], _ => none
  | (b, n) :: rest, o => if o < n then some (b + o) else walkKey rest (o - n)

/-- The walker's position moves on by `n` bytes, wrapping to the start with a new pass. -/
def walkOn (w n : Nat) (s : State) : State :=
  let o := sget 0 s.memh.off w + n
  let rs := walkRanges w s
  let wrap := decide ((rs.map Prod.snd).sum ≤ o)
  let o' := if wrap then 0 else o
  let s := onlyIf wrap (fadd RMB_PASS_PASS w 1) { s with memh := { s.memh with off := sset 0 s.memh.off w o' } }
  fset RMB_POS_POS w ((walkKey rs o').getD 0) s

/-- Walker `w` rewrites word `x` corrected (R286, R287). A DRAM word corrected in two consecutive passes makes its row a repair
candidate; the last 64 corrected addresses are kept for that test (R288). -/
def walkFix (w x : Nat) (s : State) : State :=
  let s := fcount RMB_STAT_FIXED w 1 { s with soft := ndel x s.soft }
  if w ≠ 0 then s
  else
    let pass := fget RMB_PASS_PASS 0 s
    let again := s.memh.fixed.any (fun e => e.1 == x && (e.2 + 1) % 2 ^ 32 == pass)
    let s := { s with memh := { s.memh with fixed := ((x, pass) :: s.memh.fixed).take 64 } }
    onlyIf again (rowCandidate (8 * x) 0x86) s

/-- Walker `w` finds block words uncorrectable (R282, R283, R286): they are poisoned, counted, and RMB_UE is reported. -/
def walkBad (w x : Nat) (s : State) : State :=
  report 0x10B (memAddr (8 * x)) (memInfo (8 * x) 0x86) (fcount RMB_STAT_UE w 1 (uncorrectableRead x 0x86 s))

/-- One step of walker `w` (R286): a word handed over first; else the block at its position, unless a self-test holds it (R482). -/
def walkStep (w : Nat) (s : State) : State :=
  match s.memh.handed.find? (fun x => memIndex (8 * x) == w) with
  | some x =>
    let s := { s with memh := { s.memh with handed := s.memh.handed.erase x } }
    if wordSoft x s then walkFix w x s else s
  | none =>
    match walkKey (walkRanges w s) (sget 0 s.memh.off w) with
    | none => walkOn w 64 s
    | some f =>
      if underTest f s then walkOn w 64 s
      else if unitValid f s then
        let ws := wordsOf f 64
        let soft := ws.filter (fun x => wordSoft x s)
        let s := forAll soft (fun x t => walkFix w x (fcount MEM_CE_CNT_COUNT w 1 (lastError (8 * x) false
          { t with memh := { t.memh with rose := sset (0, 0) t.memh.rose w (8 * x, 0x86) } }))) s
        let s := match ws.find? (fun x => wordBad x s) with
          | some x => walkBad w x s
          | none => s
        walkOn w 64 s
      else
        match unitOf f with
        | some (u, n) => walkOn w (u + n - f) s
        | none => walkOn w 64 s

/-- Memory words that have gone bad: the word's address divided by 8, true where more than one bit is in error. -/
def upset (us : List (Nat × Bool)) (s : State) : State :=
  forAll us (fun u t => if u.2 then { t with poison := nput u.1 t.poison, memh := { t.memh with live := t.memh.live.filter (fun b => b / 8 != u.1) } } else { t with soft := nput u.1 t.soft }) s

/-- RAMBLER_STEP (R286): walker `w` takes one step, unless its interval is 0. `us` are the words that have gone bad in the meantime. -/
def execRamblerStep (w : Fin 5) (us : List (Nat × Bool)) (s : State) : Host.Outcome State Fault Refusal :=
  let s := upset us s
  if fget RMB_CFG_INTERVAL w s = 0 then .next s
  else .next { walkStep w s with memh := { (walkStep w s).memh with last := sset 0 s.memh.last w s.time } }

/-- In the frame's last dot MEM_CE is reported for each memory whose count rose in the frame (R281). -/
def ceReports (s : State) : State :=
  let t := forAll s.memh.rose (fun e t => report 0x108 (memAddr e.2.1) (memInfo e.2.1 e.2.2) t) s
  { t with memh := { t.memh with rose := [] } }

/-! ### Row repair (R288) -/

/-- MEM_REPAIR (R288): a write of a row code. -/
def execMemRepair (code : BitVec 23) (s : State) : Host.Outcome State Fault Refusal := .next (startRepair code.toNat 0 s)

/-- The repair table of the configuration store: COUNT, and the word of entry `i` (R472). -/
def repairCount (s : State) : Nat := mread 0x11800000 4 s
def repairEntry (i : Nat) : Nat := 0x11800004 + 4 * i

/-- ROW_REPAIR_DONE (R288): the row's single-bit errors have been corrected in the copy, the row is mapped, the mapping is recorded in the
table, MEM_REPAIR is reported. -/
def execRowRepairDone (s : State) : Host.Outcome State Fault Refusal :=
  match s.memh.repairing with
  | none => .next s
  | some code =>
    let inRow (w : Nat) : Bool := decide (2 ^ 32 ≤ 8 * w) && decide (8 * w < 2 ^ 34) && rowCode (8 * w - 2 ^ 32) == code
    let s := { s with
      memh := { s.memh with repairing := none, rows := s.memh.rows ++ [code] }
      soft := s.soft.filter (fun w => !(inRow w && wordSoft w s)) }
    let n := repairCount s
    let s := onlyIf (decide (n < 2048)) (fun t => mwrite 0x11800000 4 (n + 1) (mwrite (repairEntry n) 4 code t)) s
    .next (report 0x10D (memAddr (rowOffset code)) (memInfo (2 ^ 32 + rowOffset code) s.memh.repairBy)
      (foff MEM_STAT_REP_BUSY 0 (fset MEM_REP_USED_COUNT 0 s.memh.rows.length s)))

/-! ### DMA channels (R289, R291, R296) -/

/-- What channel `ch` holds beside its registers. -/
def dma (ch : Nat) (s : State) : DmaH := sget DmaH.init s.dma ch

/-- Channel `ch` holds `h`. -/
def setDma (ch : Nat) (h : DmaH) (s : State) : State := { s with dma := sset DmaH.init s.dma ch h }

/-- CH_CTRL.START: the channel fetches the descriptor at CH_DESC, or refuses while BUSY (R291, R296). -/
def channelStart (ch : Nat) (s : State) : State :=
  if fbit CH_STAT_BUSY ch s then fon CH_STAT_CFG_REFUSED ch s
  else fon CH_STAT_BUSY ch (fset CH_CUR_ADDR ch (32 * fget CH_DESC_ADDR ch s) (foff CH_DONE_BYTES ch
    (setDma ch { DmaH.init with phase := .fetch } s)))

/-- CH_CTRL.STOP ends the channel: no result, no event, STOPPED is set (R296). -/
def channelStop (ch : Nat) (s : State) : State :=
  if fbit CH_STAT_BUSY ch s then foff CH_STAT_BUSY ch (fon CH_STAT_STOPPED ch (setDma ch DmaH.init s)) else s

/-- CH_CTRL_START (R291). -/
def execChCtrlStart (ch : Fin 64) (s : State) : Host.Outcome State Fault Refusal := .next (channelStart ch s)

/-- CH_CTRL_STOP (R296). -/
def execChCtrlStop (ch : Fin 64) (s : State) : Host.Outcome State Fault Refusal := .next (channelStop ch s)

end Sys2Proof.Machine
end

