-- ==== Sys2Proof/Machine/Faults.lean ====
section
/-! DEFINITION. The fault collector: fault words, the Trail, reactions, block reset and chip reset (R372 to R390). -/

namespace Sys2Proof.Machine

open Sys2Proof

/-! ### Sources (R373, R374, R376) -/

/-- The class of a source: 0 corrected, 1 contained, 2 fatal (R373, R374, R395, R433, R450, R485). -/
def classOf (src : Nat) : Nat :=
  if src < 0x100 then (if src % 0x40 = 58 then 0 else if src % 0x40 = 60 then 2 else 1)
  else if src = 0x100 ∨ (0x180 ≤ src ∧ src < 0x1C0) ∨ src = 0x1D1 ∨ src = 0x1E1 then 2
  else if [0x108, 0x10C, 0x10D, 0x110, 0x111, 0x1C0, 0x1C2, 0x1C4, 0x1C5].contains src then 0
  else 1

/-- The merge group of a source (R380). -/
def mergeGroup (src : Nat) : Nat :=
  if src < 0x100 then src / 0x40 * 8 + (if src % 0x40 < 54 then src % 0x40 / 9 else 6) else 0x100 + (src - 0x100) / 8

/-- The fault bit of a source is set (R375). -/
def setFaultBit (src : Nat) (s : State) : State :=
  if src < 0x100 then
    fsetBit (if src % 0x40 < 32 then FLT_RG_LO_BITS else FLT_RG_HI_BITS) (src / 0x40) (src % 32) true s
  else fsetBit FLT_PKG_BITS ((src - 0x100) / 32 % 8) (src % 32) true s

/-- The sources whose fault bit is set. -/
def faultSources (s : State) : List Nat :=
  (List.range 4).flatMap (fun n => (List.range 64).filterMap (fun b =>
      if fbitAt (if b < 32 then FLT_RG_LO_BITS else FLT_RG_HI_BITS) n (b % 32) s then some (0x40 * n + b) else none))
    ++ (List.range 8).flatMap (fun k => (List.range 32).filterMap (fun b =>
      if fbitAt FLT_PKG_BITS k b s then some (0x100 + 32 * k + b) else none))

/-- FLT_SUM (R376). -/
def fltSum (s : State) : Nat :=
  let srcs := faultSources s
  let one (b : Bool) (i : Nat) : Nat := if b then 2 ^ i else 0
  (List.range 4).foldl (fun a n => a + one (srcs.any (fun x => decide (x < 0x100) && x / 0x40 == n)) n) 0
    + (List.range 32).foldl (fun a g => a + one (srcs.any (fun x => decide (0x100 ≤ x) && (x - 0x100) / 8 == g)) (4 + g)) 0
    + (List.range 3).foldl (fun a k => a + one (srcs.any (fun x => classOf x == k)) (36 + k)) 0
    + one (fbit FLT_STAT_FROZEN 0 s) 39 + one (fbit FLT_STAT_ERR 0 s) 40

/-! ### The Trail (R377 to R381) -/

/-- Word `w` of Trail entry `i`. -/
def trail (i w : Nat) (s : State) : Nat := fget TRAIL_W (8 * i + w) s

/-- Word `w` of Trail entry `i` becomes `v`. -/
def setTrail (i w v : Nat) (s : State) : State := fset TRAIL_W (8 * i + w) v s

/-- Entry `i` is open. -/
def entryOpen (i : Nat) (s : State) : Bool := (trail i 0 s).testBit 15

/-- Entry `i` closes. -/
def closeEntry (i : Nat) (s : State) : State :=
  if entryOpen i s then
    { setTrail i 0 (trail i 0 s - 2 ^ 15) s with flt := { s.flt with openLines := sdel i s.flt.openLines } }
  else s

/-- Entries open, and reports merge: not while STICKY and MERGE_LINES are both 0 (R380). -/
def entriesOpen (s : State) : Bool := fbit FLT_CFG_STICKY 0 s || decide (fget FLT_CFG_MERGE_LINES 0 s ≠ 0)

/-- The newest open entry of a merge group, into which a report merges (R380). -/
def openOf (group : Nat) (s : State) : Option Nat :=
  if !entriesOpen s then none
  else ((List.range (fget FLT_TRAIL_COUNT 0 s)).map (fun k => (fget FLT_TRAIL_NEXT 0 s + 31 - k) % 32)).find?
    (fun i => entryOpen i s && mergeGroup (bits (trail i 0 s) 9 0) == group)

/-- A report merges into entry `i` (R380); the answer says whether it raises CLASS to fatal. -/
def mergeReport (i : Nat) (r : Report) (s : State) : State × Bool :=
  let w := trail i 0 s
  let cls := max (bits w 11 10) (classOf r.src)
  let mixed := if bits w 9 0 = r.src then bits w 14 14 else 1
  let w' := bits w 9 0 + 2 ^ 10 * cls + 2 ^ 12 * bits w 13 12 + 2 ^ 14 * mixed + 2 ^ 15 * bits w 15 15
    + 2 ^ 16 * min (bits w 23 16 + 1) 255
  (setTrail i 0 w' (setTrail i 5 r.src (setTrail i 6 (posLo r.pos) (setTrail i 7 r.pos.frame s))),
    decide (bits w 11 10 < 2) && cls == 2)

/-- A report writes the entry at NEXT (R377, R379, R380). -/
def writeEntry (r : Report) (s : State) : State :=
  let i := fget FLT_TRAIL_NEXT 0 s
  let c := classOf r.src
  let words := [r.src + 2 ^ 10 * c + 2 ^ 12 * c + 2 ^ 15 * (entriesOpen s).toNat, posLo r.pos, r.pos.frame, r.info0, r.info1, r.src,
    posLo r.pos, r.pos.frame]
  let s := closeEntry i s
  let s := forAll ((List.range 8).zip words) (fun e t => setTrail i e.1 e.2 t) s
  fset FLT_TRAIL_NEXT 0 (i + 1) (fset FLT_TRAIL_COUNT 0 (min (fget FLT_TRAIL_COUNT 0 s + 1) 32) s)

/-- A report reaches the Trail: the entry it wrote or merged into, and whether the Trail freezes at the end of the dot (R379 to
R381). -/
def trailReport (r : Report) (s : State) : State × Option Nat × Bool :=
  if fbit FLT_STAT_FROZEN 0 s then (fcount FLT_STAT_LOST 0 1 s, none, false)
  else
    match openOf (mergeGroup r.src) s with
    | some i => let m := mergeReport i r s; (m.1, some i, m.2)
    | none => (writeEntry r s, some (fget FLT_TRAIL_NEXT 0 s), classOf r.src == 2)

/-! ### Reactions (R382, R383) -/

/-- A source that takes the substitute reaction: LPE_LOCK (R390). -/
def substitutes (src : Nat) : Bool := decide (src < 0x100) && decide (src % 0x40 < 54) && src % 0x40 % 9 == 8

/-- The substitute reaction of a report, by the entry in effect in its latch dot: the spare takes over at the frame boundary that follows the
dot of the report, or LPE_NOSPARE is reported in that dot (R121, R122, R382). -/
def substitution (r : Report) (s : State) : List Report × State :=
  let n := r.src / 0x40
  let j := r.src % 0x40 / 9
  if substitutes r.src && (reaction r.src s).testBit 7 then
    if canTakeOver n j s then ([], setSpare n { spare n s with takeAt := some (takeoverFrame r.pos s, j) } s)
    else (if reporterOn (rsrc n 60) s then [⟨rsrc n 60, 6 * n + j, 0, r.at_, r.pos⟩] else [], s)
  else ([], s)

/-- The substitute reactions of reports latched together, with the reports of LPE_NOSPARE that they make. -/
def substitutions : List Report → State → List Report × State
  | [], s => ([], s)
  | r :: rs, s =>
    let a := substitution r s
    let b := substitutions rs a.2
    (a.1 ++ b.1, b.2)

/-- A wake request of a report under PWR_WAKECFG.FCLASS (R443). -/
def faultWake (src : Nat) (s : State) : State :=
  let f := fget PWR_WAKECFG_FCLASS 0 s
  onlyIf (decide (f ≠ 0) && decide (f ≤ classOf src + 1)) (later 0 (.cmd (.wakeAccept 4 (BitVec.ofNat 10 src)))) s

/-- The chip reset that a report asks for: the one already due keeps its dot, and the source handled last is recorded (R383, R386). -/
def askChipReset (src : Nat) (s : State) : State :=
  let isReset (d : Due) : Bool := match d with
    | .cmd (.chipReset _) => true
    | _ => false
  if s.due.any (fun e => isReset e.2) then
    { s with due := s.due.map (fun e => if isReset e.2 then (e.1, Due.cmd (.chipReset (BitVec.ofNat 10 src))) else e) }
  else later 62 (.cmd (.chipReset (BitVec.ofNat 10 src))) s

/-- The reactions of a report that reached Trail entry `i`, by the entry in effect in the latch dot (R382, R383). -/
def react (r : Report) (i : Option Nat) (s : State) : State :=
  let e := reaction r.src s
  let src := BitVec.ofNat 10 r.src
  let payload := classOf r.src * 2 ^ 24 + (match i with
    | some k => 2 ^ 21 + k * 2 ^ 16
    | none => 0) + r.src
  let s := onlyIf (e.testBit 0) (arrive (0x200 + bits e 23 16) payload) s
  let s := onlyIf (e.testBit 6) (later 1 (.cmd (.errOutAssert src))) s
  let s := onlyIf (bits e 3 2 == 1 || bits e 3 2 == 2)
    (later 1 (.cmd (.faultTrapDelivery (Fin.ofNat 64 (bits e 29 24)) (bits e 3 2 == 2) src))) s
  let s := onlyIf (e.testBit 4) (later 1 (.cmd (.blockReset src (BitVec.ofNat 32 r.info0)))) s
  let s := onlyIf (e.testBit 5) (askChipReset r.src) s
  faultWake r.src s

/-- The collector handles one report; the answer also says whether the Trail freezes at the end of the dot. -/
def latchReport (r : Report) (s : State) : State × Bool :=
  let s := fadd FLT_TOTAL_COUNT 0 1 (setFaultBit r.src s)
  match trailReport r s with
  | (s', i, fz) => (react r i s', fz)

/-- Put a report in its place: by class, then by source ID (R379). -/
def insertReport (r : Report) : List Report → List Report
  | [] => [r]
  | q :: rest =>
    if classOf r.src * 1024 + r.src < classOf q.src * 1024 + q.src then r :: q :: rest else q :: insertReport r rest

/-- The reports of one dot, in the order in which they are handled (R379). -/
def orderReports (rs : List Report) : List Report := rs.foldl (fun l r => insertReport r l) []

/-- The Trail freezes with the end of the dot (R381); at once where the sweep does not run. -/
def freeze (s : State) : State := if running s then later 0 (.freeze true) s else fon FLT_STAT_FROZEN 0 s

/-- The collector latches reports together, with those of LPE_NOSPARE that substitute reactions make of them (R122, R379, R381). -/
def latchAll (rs : List Report) (s : State) : State :=
  let (more, s) := substitutions rs s
  let r := (orderReports (rs ++ more)).foldl (fun (a : State × Bool) r => let b := latchReport r a.1; (b.1, a.2 || b.2)) (s, false)
  onlyIf r.2 freeze r.1

/-- The report dot of the oldest report that waits. -/
def oldestReport (s : State) : Option Nat := (s.flt.reports.map (fun r => r.at_)).min?

/-- FAULT_REPORT_LATCH (R372, R379): the reports of the oldest report dot are latched. -/
def execFaultReportLatch (s : State) : Host.Outcome State Fault Refusal :=
  match oldestReport s with
  | none => .next s
  | some r =>
    .next (latchAll (s.flt.reports.filter (fun x => x.at_ == r))
      { s with flt := { s.flt with reports := s.flt.reports.filter (fun x => x.at_ != r) } })

/-- ERR_OUT_ASSERT (R387): the latch is set. -/
def execErrOutAssert (_src : BitVec 10) (s : State) : Host.Outcome State Fault Refusal :=
  .next (fon FLT_STAT_ERR 0 { s with flt := { s.flt with errAt := some s.time } })

/-- FAULT_TRAP_DELIVERY (R383, R384): the fault event goes to its target; to an off domain, or to a core of a cluster that the part lacks, it
is discarded and counted. A refuge trap is marked by 2^12 (R252). -/
def execFaultTrapDelivery (core : Fin 64) (refuge : Bool) (src : BitVec 10) (s : State) : Host.Outcome State Fault Refusal :=
  if !coreExists core s then .next (if 16 ≤ core.val ∧ core.val < 40 then fcount FLT_TRAPLOST_COUNT 0 1 s else s)
  else if !domainOn (coreHome core s) s then .next (fcount FLT_TRAPLOST_COUNT 0 1 s)
  else .next (sendFault core (src.toNat + (if refuge then 2 ^ 12 else 0)) s)

/-! ### Block reset (R385) -/

/-- The lanes of port `p` drop block lock; HELLO is exchanged again once they return (R161, R164, R385). -/
def relockPort (p : Nat) (s : State) : State :=
  let s := forAll (List.range 3) (fun l t =>
    setAgreed p l 0 (if fbitAt LNK_PSTAT_LANE_OK p l t then report 0x110 p l (fsetBit LNK_PSTAT_LANE_OK p l false t) else t)) s
  if 2 ≤ portState p s then portTo p 1 s else s

/-- The converting ports whose report AUD_ASRC acts on: those that reported three dots ago, else the last that did (R383, R385; DESIGN
CHOICE, log 87). -/
def asrcReporters (s : State) : List Nat :=
  let at_ (p : Nat) : Option Nat := (sget AsrcH.init s.aud.asrc p).lost
  let now := [2, 3].filter (fun p => at_ p == some (s.time - 3))
  if now ≠ [] then now
  else [2, 3].filter (fun p => (at_ p).isSome && decide (((at_ 2).getD 0) ≤ (at_ p).getD 0) && decide (((at_ 3).getD 0) ≤ (at_ p).getD 0))

/-- The part that a source of R385 names is reset; other sources have none. -/
def blockReset (src info0 : Nat) (s : State) : State :=
  if 0x180 ≤ src ∧ src < 0x1C0 then
    let i := src - 0x180
    if coreExists i s then
      startCore i (foff CPU_LOCK0_CAUSE i (foff CPU_LOCK0_DETAIL i (foff CPU_LOCK1_PC i (foff CPU_LOCK2_ADDR i
        (foff CPU_LOST_FAULTS i (foff CPU_LOST_DISP i s))))))
    else s
  else if 0x140 ≤ src ∧ src < 0x180 then
    let ch := src - 0x140
    foff CH_STAT_ERR ch (foff CH_STAT_ERRCODE ch (foff CH_DONE_BYTES ch (foff CH_CUR_ADDR ch (foff CH_ERRADDR_ADDR ch s))))
  else if src = 0x104 then noteSources s.time (dropRecords (info0 % 8) (fset EVQ_SIZE_SIZE (info0 % 8) 0 s))
  else if src = 0x112 ∨ src = 0x113 then relockPort (info0 % 4) s
  else if src = 0x120 then dpTrain s
  else if src = 0x122 then
    forAll (asrcReporters s) asrcAnew s
  else if src < 0x100 ∧ 55 ≤ src % 0x40 ∧ src % 0x40 ≤ 57 then
    if h : info0 < 24 then seuTimeout ⟨info0, h⟩ .high s.time s else s
  else s

/-- BLOCK_RESET (R385). -/
def execBlockReset (src : BitVec 10) (info0 : Word) (s : State) : Host.Outcome State Fault Refusal :=
  .next (blockReset src.toNat info0.toNat s)

/-! ### Writes of the collector's registers (R380, R381, R387, R390) -/

/-- TRAIL_ENTRY_CLOSE (R380): not while STICKY is 1, nor while the Trail is frozen (R381). -/
def execTrailEntryClose (i : Fin 32) (s : State) : Host.Outcome State Fault Refusal :=
  .next (if fbit FLT_STAT_FROZEN 0 s || fbit FLT_CFG_STICKY 0 s then s else closeEntry i s)

/-- FLT_ACK (R380): nothing closes while the Trail is frozen (R381). -/
def execFltAck (i : Fin 32) (s : State) : Host.Outcome State Fault Refusal :=
  .next (if fbit FLT_STAT_FROZEN 0 s then s else closeEntry i s)

/-- Every open entry closes. -/
def ackAll (s : State) : State := if fbit FLT_STAT_FROZEN 0 s then s else forAll (List.range 32) closeEntry s

/-- FLT_ACK_ALL (R380). -/
def execFltAckAll (s : State) : Host.Outcome State Fault Refusal := .next (ackAll s)

/-- UNFREEZE: LOST clears, and the freeze ends from the next dot (R381). -/
def unfreeze (s : State) : State := onlyIf (fbit FLT_STAT_FROZEN 0 s) (later 0 (.freeze false)) (foff FLT_STAT_LOST 0 s)

/-- UNFREEZE (R381). -/
def execUnfreeze (s : State) : Host.Outcome State Fault Refusal := .next (unfreeze s)

/-- ERR_RELEASE: the latch clears, unless it is forced or a report sets it in this dot (R387). -/
def errRelease (s : State) : State :=
  if fbit FLT_CTRL_ERR_FORCE 0 s || s.flt.errAt == some s.time then s else foff FLT_STAT_ERR 0 s

/-- ERR_RELEASE (R387). -/
def execErrRelease (s : State) : Host.Outcome State Fault Refusal := .next (errRelease s)

/-- ERR_FORCE: 1 holds the latch set (R387). -/
def errForce (on : Bool) (s : State) : State := onlyIf on (fon FLT_STAT_ERR 0) (fset FLT_CTRL_ERR_FORCE 0 on.toNat s)

/-- ERR_FORCE (R387). -/
def execErrForce (on : Bool) (s : State) : Host.Outcome State Fault Refusal := .next (errForce on s)

/-- The level of ERR_OUT_N: low while its latch is set, and from the start of the supplies until the collector leaves reset at the sweep
start; during a chip reset it follows the kept latch (R387, R470). -/
def errOutN (s : State) : Bool :=
  let starting := [Stage.supplies, Stage.held, Stage.locking].contains s.swp.stage
  !fbit FLT_STAT_ERR 0 s && !(starting && !fbit FLT_LASTRST_VALID 0 s)

/-- A write of FLT_CTRL. -/
def fltCtrlWrite (v : Nat) (s : State) : State :=
  onlyIf (v.testBit 1) errRelease (errForce (v.testBit 2) (onlyIf (v.testBit 0) unfreeze s))

/-- A write of FLT_ACK: ALL closes every entry, else ENTRY names one. -/
def fltAckWrite (v : Nat) (s : State) : State :=
  if fbit FLT_STAT_FROZEN 0 s then s else if v.testBit 5 then ackAll s else closeEntry (v % 32) s

/-- A source that takes the block-reset reaction (R385). -/
def blockResets (src : Nat) : Bool :=
  decide (0x140 ≤ src ∧ src < 0x1C0) || [0x104, 0x112, 0x113, 0x120, 0x122].contains src
    || (decide (src < 0x100) && decide (55 ≤ src % 0x40 ∧ src % 0x40 ≤ 57))

/-- A core of R257. -/
def coreOfMap (i : Nat) : Bool := decide (i < 4) || decide (16 ≤ i ∧ i < 40) || decide (48 ≤ i ∧ i < 52)

/-- A write of a reaction entry is refused (R388, R390); while LOCK is 1, one that would change the entry (R500). -/
def rctRefused (src v : Nat) (s : State) : Bool :=
  bits v 3 2 == 3 || (bits v 3 2 != 0 && !coreOfMap (bits v 29 24)) || (v.testBit 4 && !blockResets src)
    || (v.testBit 7 && !substitutes src)
    || (src == 0x100 && (v.testBit 0 || bits v 3 2 != 0 || v.testBit 4 || v.testBit 7))
    || v.testBit 31 || v.testBit 30 || bits v 15 8 != 0 || v.testBit 1 || (fbit FLT_CFG_LOCK 0 s && sget 0 s.rct src != v)

/-- A write of reaction entry `src` (R382, R390); it governs reports latched from the dot after. -/
def rctWrite (src v : Nat) (s : State) : State :=
  if rctRefused src v s then fon FLT_STAT_CFG_REFUSED 0 s else { s with rct := sset 0 s.rct src v }

/-- FLT_RCT_WRITE (R382, R390). -/
def execFltRctWrite (src : Fin 512) (v : Word) (s : State) : Host.Outcome State Fault Refusal := .next (rctWrite src v.toNat s)

/-- A write of FLT_CFG (R390): LOCK is set once; while it is set, a write that would change a field is refused (R500). -/
def fltCfgWrite (v : Nat) (s : State) : State :=
  if fbit FLT_CFG_LOCK 0 s then
    if bits v 16 16 = fget FLT_CFG_STICKY 0 s ∧ bits v 15 0 = fget FLT_CFG_MERGE_LINES 0 s then s else fon FLT_STAT_CFG_REFUSED 0 s
  else fset FLT_CFG_LOCK 0 (bits v 31 31) (fset FLT_CFG_STICKY 0 (bits v 16 16) (fset FLT_CFG_MERGE_LINES 0 (bits v 15 0) s))

/-- FLT_CFG_WRITE (R390). -/
def execFltCfgWrite (v : Word) (s : State) : Host.Outcome State Fault Refusal := .next (fltCfgWrite v.toNat s)

end Sys2Proof.Machine
end

