-- ==== Sys2Proof/Machine/Crc.lean ====
section
/-! DEFINITION. The check word CRC-32C (R150). -/

namespace Sys2Proof.Machine

open Sys2Proof

/-- One bit of the reflected register. -/
def crc32Bit (c : Nat) : Nat := if c % 2 = 1 then (c / 2) ^^^ 0x82F63B78 else c / 2

/-- Feed one byte into the state, with no initial value or final XOR (R150, R206). -/
def crc32Byte (c b : Nat) : Nat := crc32Bit (crc32Bit (crc32Bit (crc32Bit (crc32Bit (crc32Bit (crc32Bit (crc32Bit (c ^^^ b))))))))

/-- Feed the `n` bytes of memory from `a` on. -/
def crc32Feed (s : State) : Nat → Nat → Nat → Nat
  | 0, _, c => c
  | n + 1, a, c => crc32Feed s n (a + 1) (crc32Byte c (mget a s).toNat)

/-- The CRC-32C of the `n` bytes of memory from `a` on. -/
def crc32c (a n : Nat) (s : State) : Nat := crc32Feed s n a 0xFFFFFFFF ^^^ 0xFFFFFFFF

end Sys2Proof.Machine
end

