-- ==== Sys2Proof/Machine/Fabric.lean ====
section
/-! DEFINITION. The trigger fabric, the general timers and the regions (R126 to R145). -/

namespace Sys2Proof.Machine

open Sys2Proof

/-! ### Sources and sinks (R127, R128) -/

/-- A meter mapped to soft level `k` is above its threshold (R365). -/
def meterSoft (k : Nat) (s : State) : Bool := s.aud.soft.contains k

/-- The level of source `e`, where it is a level (R127). -/
def sourceLevel (e : Nat) (s : State) : Bool :=
  if e = 1 then true
  else if 0x400 ≤ e ∧ e < 0x520 then
    let l := (e - 0x400) / 2
    if e % 2 = 0 then fbit LEG_PADS_REF l s else legState l s == 2
  else if 0x600 ≤ e ∧ e < 0xC00 then e % 4 == 2 && fbit SDF_STAT_OC_LIVE ((e - 0x600) / 4) s
  else if 0xC40 ≤ e ∧ e < 0xD40 then e % 4 == 0 && fbit CMP_STAT_OUT ((e - 0xC40) / 4) s
  else if 0xD40 ≤ e ∧ e < 0xDA0 then e % 2 == 1 && fbit QEP_STAT_DIR ((e - 0xD40) / 2) s
  else if 0xE00 ≤ e ∧ e < 0xF80 then e % 4 == 3 && fbit TMR_STAT_OUT ((e - 0xE00) / 4) s
  else if 0x1000 ≤ e ∧ e < 0x1300 then decide (16 ≤ e % 32) && (eng ((e - 0x1000) / 32) s).out.testBit (e % 32 - 16)
  else if 0x1380 ≤ e ∧ e < 0x13A8 then lineOn (e - 0x1380) s
  else if 0x1400 ≤ e ∧ e < 0x1500 then s.pads.lvl2.contains (e - 0x1400)
  else if 0x1600 ≤ e ∧ e < 0x1620 then fbitAt FAB_SOFT0_LEVEL 0 (e - 0x1600) s || meterSoft (e - 0x1600) s
  else if 0x1620 ≤ e ∧ e < 0x1640 then fbitAt FAB_SOFT1_LEVEL 0 (e - 0x1620) s || meterSoft (e - 0x1600) s
  else false

/-- The value of source `e` in the present dot; an unknown source is 0. -/
def sourceVal (e : Nat) (s : State) : Bool := s.fab.now.contains e || sourceLevel e s

/-- The sources that can be levels. -/
def levelSources : List Nat :=
  [1] ++ (List.range 288).map (0x400 + ·) ++ (List.range 384).map (fun i => 0x602 + 4 * i) ++
  (List.range 64).map (fun j => 0xC40 + 4 * j) ++ (List.range 48).map (fun u => 0xD41 + 2 * u) ++
  (List.range 96).map (fun t => 0xE03 + 4 * t) ++
  (List.range 24).flatMap (fun c => (List.range 16).map (fun i => 0x1010 + 32 * c + i)) ++
  (List.range 40).map (0x1380 + ·) ++ (List.range 256).map (0x1400 + ·) ++ (List.range 64).map (0x1600 + ·)

/-- The sources that are 1 in the present dot. -/
def sourcesOn (s : State) : List Nat := s.fab.now ++ levelSources.filter (fun e => sourceLevel e s)

/-- A source ID that R127 lists. -/
def srcKnown (e : Nat) : Bool :=
  inRanges e [(0, 4), (0x100, 0x33F), (0x400, 0x51F), (0xC00, 0xC17), (0xD40, 0xD9F), (0xDA0, 0xDB7), (0xDC0, 0xDCF),
    (0xE00, 0xF7F), (0x1000, 0x12FF), (0x1300, 0x1317), (0x1380, 0x13A7), (0x1400, 0x14FF), (0x1600, 0x167F)]
  || (inRanges e [(0x600, 0xBFF), (0xC40, 0xD3F)] && e % 4 != 3)

/-- The cluster of a source, the region of a source; `none` for the package (R126, R127). -/
def srcCluster (e : Nat) : Option Nat :=
  if inRanges e [(0x100, 0x33F)] then some ((e - 0x100) / 24)
  else if inRanges e [(0x400, 0x51F)] then some ((e - 0x400) / 12)
  else if inRanges e [(0x600, 0xBFF)] then some ((e - 0x600) / 64)
  else if inRanges e [(0xC00, 0xC17)] then some (e - 0xC00)
  else if inRanges e [(0xD40, 0xD9F)] then some ((e - 0xD40) / 4)
  else if inRanges e [(0xE00, 0xF7F)] then some ((e - 0xE00) / 16)
  else if inRanges e [(0x1000, 0x12FF)] then some ((e - 0x1000) / 32)
  else if inRanges e [(0x1300, 0x1317)] then some (e - 0x1300)
  else none

def srcRegion (e : Nat) : Option Nat :=
  match srcCluster e with
  | some c => some (c / 6)
  | none =>
    if inRanges e [(0xC40, 0xD3F)] then some ((e - 0xC40) / 64)
    else if inRanges e [(0xDA0, 0xDB7)] then some ((e - 0xDA0) / 6)
    else if inRanges e [(0xDC0, 0xDCF)] then some ((e - 0xDC0) / 4)
    else if inRanges e [(0x1388, 0x13A7)] then some ((e - 0x1388) / 8)
    else none

/-- A sink ID that R128 lists as routable. -/
def sinkKnown (k : Nat) : Bool :=
  inRanges k [(0, 0x27), (0x1C0, 0x4BF), (0x4C0, 0x5BF), (0x5C0, 0x6BF)] || (inRanges k [(0x40, 0x1BF)] && k % 4 != 3)

/-- The cluster, the region of a sink. -/
def sinkCluster (k : Nat) : Option Nat :=
  if inRanges k [(0x40, 0x1BF)] then some ((k - 0x40) / 16)
  else if inRanges k [(0x1C0, 0x4BF)] then some ((k - 0x1C0) / 32)
  else none

def sinkRegion (k : Nat) : Option Nat :=
  match sinkCluster k with
  | some c => some (c / 6)
  | none => if inRanges k [(8, 0x27)] then some ((k - 8) / 8) else none

/-! ### Routes (R129 to R133) -/

/-- The memory address of the route entry of sink `k` (R133). -/
def routeBase (k : Nat) : Nat := 0x45000000 + 16 * k

/-- The fields of a 16-byte route entry (R129). -/
def rtSink (v : Nat) : Nat := bits v 15 0
def rtMode (v : Nat) : Nat := bits v 23 16
def rtCount (v : Nat) : Nat := bits v 31 24
def rtTerm (v i : Nat) : Nat := bits v (47 + 16 * i) (32 + 16 * i)

/-- The terms of an entry. -/
def rtTerms (v : Nat) : List Nat := (List.range (rtCount v % 8)).map (rtTerm v)

/-- An entry with an unknown source, COMB 3, a wrong COUNT, a reserved MODE bit or a non-zero unused term (R129, check 10 of R152): a
COUNT with any of its bits [7:3] set is a wrong COUNT too, and records 10 (DESIGN CHOICE, log 77). -/
def rtBad (v : Nat) : Bool :=
  rtMode v % 4 == 3 || decide (16 ≤ rtMode v) || decide (6 < rtCount v)
  || (rtTerms v).any (fun t => !srcKnown (t % 2 ^ 15))
  || (List.range 6).any (fun i => decide (rtCount v ≤ i) && rtTerm v i != 0)

/-- The clusters that an entry for sink `k` names (check 11 of R152). -/
def rtClusters (k v : Nat) : List Nat := (sinkCluster k).toList ++ (rtTerms v).filterMap (fun t => srcCluster (t % 2 ^ 15))

/-- The entry of sink `k`. -/
def routeEntry (k : Nat) (s : State) : Nat := mread (routeBase k) 16 s

/-- The sinks whose entry has a COUNT above 0. -/
def routed (s : State) : List Nat :=
  s.mem.filterMap (fun e =>
    if 0x45000000 ≤ e.1 ∧ e.1 < 0x45006C00 ∧ e.1 % 16 = 3 ∧ e.2.toNat % 8 ≠ 0 then some ((e.1 - 0x45000000) / 16) else none)

/-- The sources that were 1 `n` dots ago. -/
def past (n : Nat) (s : State) : List Nat :=
  match n with
  | 1 => s.fab.past1
  | 2 => s.fab.past2
  | _ => s.fab.past3

/-- The combination of an entry's terms in the present dot (`back` 0) or the one before (`back` 1) (R130, R131). -/
def combine (k v back : Nat) (s : State) : Bool :=
  let vals := (rtTerms v).map (fun t =>
    let e := t % 2 ^ 15
    let lat := if (srcRegion e).isSome && srcRegion e == sinkRegion k then 1 else 2
    (past (lat + back) s).contains e != t.testBit 15)
  match rtMode v % 4 with
  | 0 => vals.any id
  | 1 => !vals.isEmpty && vals.all id
  | 2 => vals.foldl (fun a b => a != b) false
  | _ => false

/-- The input of sink `k` in the present dot (R130). -/
def sinkInput (k : Nat) (s : State) : Bool :=
  let v := routeEntry k s
  if rtCount v % 8 = 0 then false
  else
    let a := combine k v 0 s
    match rtMode v / 4 % 4 with
    | 0 => a
    | 1 => a && !combine k v 1 s
    | 2 => !a && combine k v 1 s
    | _ => a != combine k v 1 s

/-- The fabric moves one dot on: the sources of the dot just ended become the past, event flags are set, the sinks take their
inputs, the trip lines follow theirs (R66, R126, R130, R205). To be applied after the state's levels of the ended dot stand. -/
def fabricShift (s : State) : State :=
  let on := sourcesOn s
  { s with fab := { s.fab with now := [], past1 := on, past2 := s.fab.past1, past3 := s.fab.past2,
                               flags := on.foldl (fun m e => nput e m) s.fab.flags } }

/-- The sinks take the inputs of the present dot; the routed trip lines follow (R66, R132). -/
def sinksTick (s : State) : State :=
  let ks := (routed s).filter (fun k => sinkInput k s)
  { s with fab := { s.fab with sinks := ks }, trips := { s.trips with route := ks.filter (fun k => decide (k < 0x28)) } }

/-- The regions that a route entry of sink `k` touches; the package touches all four (R133). -/
def rtRegions (k v : Nat) : List Nat :=
  let one (r : Option Nat) : List Nat := match r with
    | some n => [n]
    | none => List.range 4
  one (sinkRegion k) ++ (rtTerms v).flatMap (fun t => one (srcRegion (t % 2 ^ 15)))

/-- A new entry for sink `k` fails a check (R133, R152). -/
def routeBad (k v : Nat) (s : State) : Bool :=
  !sinkKnown k || rtBad v || (rtClusters k v).any (fun c => !clusterOn c s)

/-- Write an entry, SINK left as 0: it reads as the entry's own sink ID (R133). -/
def putRoute (k v : Nat) (s : State) : State := mwrite (routeBase k) 16 (v / 2 ^ 16 * 2 ^ 16) s

/-- ROUTE_WRITE (R133): accepted while every region that the old or the new entry touches is STOPPED; it governs the sink from the
next dot. -/
def execRouteWrite (k : Fin 1728) (v : BitVec 128) (s : State) : Host.Outcome State Fault Refusal :=
  let old := rtRegions k (routeEntry k s)
  let new := rtRegions k v.toNat
  if routeBad k v.toNat s || (old ++ new).any (fun n => regionRun n s) then .next (fon FAB_STAT_CFG_REFUSED 0 s)
  else .next (later 1 (.route k v.toNat) s)

/-- FAB_SOFT_WRITE (R134). -/
def execFabSoftWrite (k : Fin 2) (v : Word) (s : State) : Host.Outcome State Fault Refusal :=
  .next (later 1 (.field (if k.val = 0 then FAB_SOFT0_LEVEL else FAB_SOFT1_LEVEL) 0 v.toNat) s)

/-- FAB_PULSE_WRITE (R134). -/
def execFabPulseWrite (k : Fin 2) (v : Word) (s : State) : Host.Outcome State Fault Refusal :=
  .next (forAll ((List.range 32).filter (fun b => v.toNat.testBit b)) (fun b t => later 1 (.fire (0x1640 + 32 * k.val + b)) t) s)

/-! ### General timers (R135 to R141) -/

/-- What timer `t` holds beside its registers. -/
def tmr (t : Nat) (s : State) : TmrH := sget TmrH.init s.tmr t

/-- Timer `t` holds `h`. -/
def setTmr (t : Nat) (h : TmrH) (s : State) : State := { s with tmr := sset TmrH.init s.tmr t h }

/-- Timer `t` is held by a region stop (R140). -/
def timerHeld (t : Nat) (s : State) : Bool := !fbit TMR_CFG_FREE t s && regionStopped (t / 24) s

/-- Timer `t` runs: its RUNNING bit (R141). -/
def timerRunning (t : Nat) (s : State) : Bool :=
  fget TMR_PERIOD_VALUE_E t s != 0 && fget TMR_CFG_CLK t s != 0 && !fbit TMR_STAT_DONE t s && !timerHeld t s

/-- Timer `t` is neither halted, nor done, nor held: its compares are tested, and it may start a period (R135, R136). -/
def timerLive (t : Nat) (s : State) : Bool := fget TMR_PERIOD_VALUE_E t s != 0 && !fbit TMR_STAT_DONE t s && !timerHeld t s

/-- The place among a timer's sources (R127) of the signal that EVSEL selects: 0 PER, 1 CMP0, 2 CMP1, 3 OUT (R138). -/
def chainSignal (e : Nat) : Nat :=
  match e with
  | 0 => 2
  | 1 => 0
  | 2 => 1
  | _ => 3

/-- The chained signal of timer `t`: the master's signal in the dot before (R138). -/
def chained (t : Nat) (s : State) : Bool :=
  s.fab.past1.contains (0xE00 + 4 * (24 * (t / 24) + fget TMR_CHAIN_MASTER t s) + chainSignal (fget TMR_CHAIN_EVSEL t s))

/-- An input of timer `t` in the present dot: 0 GATE, 1 CLOCK, 2 RESET (R128). -/
def timerInput (t k : Nat) (s : State) : Bool := s.fab.sinks.contains (0x40 + 4 * t + k)

/-- The present dot advances the count of timer `t` (R135). -/
def timerAdvances (t : Nat) (s : State) : Bool :=
  let use := fget TMR_CHAIN_USE t s
  timerRunning t s &&
  match fget TMR_CFG_CLK t s with
  | 1 => true
  | 2 => timerInput t 0 s && (use != 1 || chained t s)
  | 3 => timerInput t 1 s
  | 4 => use == 3 && chained t s
  | _ => false

/-- A reset acts on timer `t` in the present dot by its RESET input or its chain (R137). -/
def timerResets (t : Nat) (s : State) : Bool := timerInput t 2 s || (fget TMR_CHAIN_USE t s == 2 && chained t s)

/-- What happens to OUT in this dot acts from the start of the next (R136). -/
def outEvent (t : Nat) (h : TmrH) (s : State) : State :=
  let o := tmr t s
  let s := setTmr t h s
  if o.evReset || o.ev0 || o.ev1 then s else later 1 (.timerOut t) s

/-- OUT acts on the fires and the reset of the dot before: CMP1 before CMP0 before the reset (R136); a timer that a region stop holds
keeps OUT at 0 (R140). -/
def applyOut (t : Nat) (s : State) : State :=
  let h := tmr t s
  let s := setTmr t { h with evReset := false, ev0 := false, ev1 := false } s
  if timerHeld t s || h.ev1 then foff TMR_STAT_OUT t s
  else if h.ev0 then fon TMR_STAT_OUT t s
  else if h.evReset then foff TMR_STAT_OUT t s
  else s

/-- The fields of group TG (R139). -/
def groupTG : List (Fld × Fld) :=
  [(TMR_PERIOD_VALUE, TMR_PERIOD_VALUE_E), (TMR_CMP0_VALUE, TMR_CMP0_VALUE_E), (TMR_CMP1_VALUE, TMR_CMP1_VALUE_E)]

/-- What a new PERIOD in effect does to the period in progress (R52, R135): 0 halts the timer, with count and OUT 0 from the next dot; the first non-zero one, and one not above
the count, make the next dot a period start. -/
def timerCut (t old : Nat) (s : State) : State :=
  let p := fget TMR_PERIOD_VALUE_E t s
  if p = 0 then later 1 (.field TMR_COUNT_COUNT t 0) (outEvent t { tmr t s with startNext := false, arm0 := false, arm1 := false, evReset := true } s)
  else if old = 0 || decide (p ≤ fget TMR_COUNT_COUNT t s) then
    setTmr t { tmr t s with startNext := true, fromHalt := decide (old = 0), arm0 := false, arm1 := false } s
  else s

/-- A commit of group TG (R135, R139). -/
def timerCommit (t : Nat) (s : State) : State :=
  let old := fget TMR_PERIOD_VALUE_E t s
  timerCut t old (foff TMR_STAT_PEND t (fon TMR_STAT_COMMIT_DONE t (takeGroup groupTG t s)))

/-- A period start of timer `t` in the present dot (R135, R136): count 0, both compares armed, the reset of OUT. -/
def timerPeriod (t : Nat) (s : State) : State :=
  outEvent t { tmr t s with arm0 := true, arm1 := true, evReset := true, startNext := false, fromHalt := false } (fset TMR_COUNT_COUNT t 0 s)

/-- The automatic commit at a period start (R139). -/
def timerAutoCommit (t : Nat) (s : State) : State :=
  if fbit TMR_CFG_COMMIT_AT t s && fbit TMR_STAT_PEND t s && !fbit TMR_CTRL_COMMIT_HOLD t s then timerCommit t s else s

/-- A commit of PERIOD 0 by COMMIT_NOW falls in this dot: no event is issued in it (R52, R135). -/
def timerHaltsNow (t : Nat) (s : State) : Bool :=
  decide (fget TMR_PERIOD_VALUE t s = 0) && s.due.any (fun e => decide (e.1 ≤ s.time) && (match e.2 with
    | .timerCommit u => u == t
    | _ => false))

/-- A period of timer `t` starts in the present dot (R135): with PER, unless a commit of this dot halts the timer; a one-shot timer is
done where the start is a wrap, not the start after a halt (R137). -/
def timerPer (t : Nat) (s : State) : State :=
  let begins := (tmr t s).fromHalt
  let s := timerAutoCommit t (timerPeriod t s)
  if fget TMR_PERIOD_VALUE_E t s = 0 || timerHaltsNow t s then s
  else
    let s := fire (0xE02 + 4 * t) s
    if fbit TMR_CFG_ONESHOT t s && !begins then fon TMR_STAT_DONE t (setTmr t { tmr t s with arm0 := false, arm1 := false } s) else s

/-- TIMER_PER (R135, R137): the count wraps, or a commit has called for a start. -/
def execTimerPer (t : Fin 96) (s : State) : Host.Outcome State Fault Refusal :=
  .next (if timerRunning t s || ((tmr t s).startNext && timerLive t s) then timerPer t s else s)

/-- TIMER_COMPARE_FIRE (R51, R136): an armed compare that is not ahead fires, late where the count has passed it. -/
def execTimerCompareFire (t : Fin 96) (c : Cmp) (s : State) : Host.Outcome State Fault Refusal :=
  let t := t.val
  let h := tmr t s
  let v := match c with
    | .a => fget TMR_CMP0_VALUE_E t s
    | .b => fget TMR_CMP1_VALUE_E t s
  let d := compareDist (fget TMR_COUNT_COUNT t s) v
  let armed := match c with
    | .a => h.arm0
    | .b => h.arm1
  if timerLive t s && armed && decide (d < 2 ^ 31) && v != fget TMR_PERIOD_VALUE_E t s then
    let h' := match c with
      | .a => { h with arm0 := false, ev0 := true }
      | .b => { h with arm1 := false, ev1 := true }
    let s := fire (0xE00 + 4 * t + (match c with | .a => 0 | .b => 1)) (outEvent t h' s)
    .next (if d = 0 then s else fon TMR_STAT_LATE t s)
  else .next s

/-- The next dot is a period start of timer `t` in any case: the count wraps, or a commit has called for a start (R135, R137). -/
def timerWraps (t : Nat) (s : State) : Bool :=
  (tmr t s).startNext || (timerAdvances t s && fget TMR_COUNT_COUNT t s + 1 == fget TMR_PERIOD_VALUE_E t s)

/-- TIMER_RESET (R137): the count that the next dot would have held is captured, and the next dot is a period start, with PER only if
it would have been one in any case. -/
def execTimerReset (t : Fin 96) (s : State) : Host.Outcome State Fault Refusal :=
  let t := t.val
  if timerHeld t s then .next s
  else
    let n := fget TMR_COUNT_COUNT t s
    let halted := fget TMR_PERIOD_VALUE_E t s == 0
    let wrap := timerWraps t s
    let cap := if wrap || halted then 0 else if timerAdvances t s then n + 1 else n
    let s := foff TMR_STAT_DONE t (fset TMR_CAP_COUNT t cap s)
    if halted then .next s else .next (later 1 (.timerStart t wrap) s)

/-- The period start that a reset has called for (R137); a region stop in between holds the timer (R140). -/
def timerStart (t : Nat) (per : Bool) (s : State) : State :=
  if timerHeld t s then s
  else
    let s := timerAutoCommit t (timerPeriod t s)
    if per && fget TMR_PERIOD_VALUE_E t s != 0 && !timerHaltsNow t s then fire (0xE02 + 4 * t) s else s

/-- TMR_CTRL_RESET (R137): the reset acts in the dot after the write. -/
def execTmrCtrlReset (t : Fin 96) (s : State) : Host.Outcome State Fault Refusal :=
  .next (toCluster (t.val / 4) (later 1 (.cmd (.timerReset t))) s)

/-- TMR_COMMIT_NOW (R58, R139): group TG commits in the dot after the write. -/
def execTmrCommitNow (t : Fin 96) (s : State) : Host.Outcome State Fault Refusal :=
  .next (toCluster (t.val / 4) (later 1 (.timerCommit t.val)) s)

/-- Write a shadow register of group TG: 0 PERIOD, 1 CMP0, 2 CMP1 (R139). -/
def timerShadow (t r v : Nat) (s : State) : State :=
  fon TMR_STAT_PEND t (fset (match r with
    | 0 => TMR_PERIOD_VALUE
    | 1 => TMR_CMP0_VALUE
    | _ => TMR_CMP1_VALUE) t v s)

/-- A timer restarts with its region (R140). -/
def timerRestart (t : Nat) (s : State) : State :=
  if fbit TMR_CFG_FREE t s then s
  else
    let s := foff TMR_STAT_DONE t (timerCommit t s)
    let p := fget TMR_PERIOD_VALUE_E t s
    if p = 0 then s
    else
      let n := fget TMR_PHASE_COUNT t s % p
      let s := fset TMR_COUNT_COUNT t n (setTmr t ⟨true, true, false, false, false, false, false⟩ s)
      if n = 0 then fire (0xE02 + 4 * t) (outEvent t { tmr t s with evReset := true } s) else s

/-! ### Regions (R142 to R144) -/

/-- The clusters, the legs, the timers of region `n` that the part enables. -/
def regionClusters (n : Nat) (s : State) : List Nat := ((List.range 6).map (6 * n + ·)).filter (fun c => clusterOn c s)
def regionLegs (n : Nat) (s : State) : List Nat := (regionClusters n s).flatMap (fun c => (List.range 6).map (6 * c + ·))
def regionTimers (n : Nat) (s : State) : List Nat := (regionClusters n s).flatMap (fun c => (List.range 4).map (4 * c + ·))

/-- Region `n` stops in this dot (R143): what events its legs had still to issue are not issued. -/
def stopRegion (n : Nat) (s : State) : State :=
  if regionState n s = 0 then s
  else if regionState n s = 1 then
    fset RGN_STAT_STATE n 0 { s with restart := sset none s.restart n none }
  else
    let cs := regionClusters n s
    let s := forAll cs (fun c t => fset CLG_CONV_RUN c 0 (fset CLG_CONV_WAIT c 0 t)) (setStartQ n StartQ.init s)
    let s := forAll (regionLegs n s) parkPads s
    let s := forAll cs (fun c t => emptyLcd c (stopEngine c t)) s
    let s := dropDue (fun d => match d with
      | .fire e => decide (0x100 ≤ e) && decide (e < 0x340) && decide ((e - 0x100) / 144 = n)
      | _ => false) (fset RGN_STAT_STATE n 0 s)
    forAll ((regionTimers n s).filter (fun t => !fbit TMR_CFG_FREE t s)) (fun t u => foff TMR_STAT_OUT t u) s

/-- REGION_STOP (R143). -/
def execRegionStop (n : Fin 4) (s : State) : Host.Outcome State Fault Refusal := .next (stopRegion n s)

/-- The first frame boundary that leaves three whole lines (R121, R144). -/
def startRegion (n : Nat) (s : State) : State :=
  if regionState n s != 0 || fbit FAB_STAT_BUSY 0 s then fon RGN_STAT_START_REFUSED n s
  else fset RGN_STAT_STATE n 1 { s with restart := sset none s.restart n (some (takeoverFrame s.pos s)) }

/-- REGION_START (R144). -/
def execRegionStart (n : Fin 4) (s : State) : Host.Outcome State Fault Refusal := .next (startRegion n s)

/-- A leg restarts with its region: it commits group LG and counts on from LEG_PHASE, as if its period had run from its start with
that group (R49, R58). -/
def legRestart (l : Nat) (s : State) : State :=
  let s := legCommit l s
  let p := fget LEG_PERIOD_PERIOD_E l s
  if p = 0 then s
  else
    let c := fget LEG_PHASE_COUNT l s % p
    let s := setLeg l { leg l s with startNext := false, evReset := false, evA := none, evB := none } s
    if c = 0 then legPstart l s
    else
      let a := fget LEG_CMPA_DOTS_E l s
      let b := fget LEG_CMPB_DOTS_E l s
      let s := fset LEG_PADS_REF l (decide (a < c) && !decide (b < c)).toNat (fset LEG_COUNT_COUNT l c s)
      let s := setLeg l { leg l s with armA := !decide (a < c), armB := !decide (b < c), firedA := decide (a < c),
                                        firedB := decide (b < c), midDone := decide (p / 2 < c), lateDone := false, pulse := .normal, refFine := 0 } s
      let s := decidePulse l s
      let s := compareFire l .b (compareFire l .a s)
      if p / 2 = c then legMid l s else s

/-- The engine pair of cluster `c` at a restart: a halt ends, and a spare that was told to return gives the cluster back (R119,
R123). -/
def engineRestart (c : Nat) (s : State) : State :=
  let s := setEng c { eng c s with halted := false } (fset LPE_LOST_LOST c 0 s)
  if fbit LPE_STAT_SUBST c s then s else foff LPE_STAT_HALTED c s

/-- The spare of region `n` returns the cluster it serves (R123). -/
def spareReturn (n : Nat) (s : State) : State :=
  if (spare n s).back then
    let c := 6 * n + fget RSP_STAT_SERVING n s
    let s := foff LPE_STAT_SUBST c (foff RSP_STAT_IN_SERVICE n (setSpare n ⟨none, false, false⟩ (ownBack c s)))
    if h : n < 4 then startMirror ⟨n, h⟩ s else s
  else s

/-- REGION_RESTART (R49, R64, R112, R123, R140, R144). -/
def execRegionRestart (n : Fin 4) (s : State) : Host.Outcome State Fault Refusal :=
  let n := n.val
  if regionState n s = 1 then
    let s := fset RGN_STARTF_FRAME n s.pos.frame (fset RGN_STAT_STATE n 2 { s with restart := sset none s.restart n none })
    let s := forAll (regionClusters n s) engineRestart (spareReturn n s)
    let s := forAll (regionLegs n s) legRestart s
    let s := forAll (regionClusters n s) (fun c t => forAll [0, 1] (fun k u =>
      if fbitAt CLG_CFG_AUTOSTART c k u && !convAbsent c k u then enqueueConv c k u else u) t) s
    .next (forAll (regionTimers n s) timerRestart s)
  else .next s

end Sys2Proof.Machine
end

