-- ==== Sys2Proof/Machine/Image.lean ====
section
/-! DEFINITION. The fabric image: its layout, the checks of the check pass, the apply pass, the factory default image
(R146 to R155). -/

namespace Sys2Proof.Machine

open Sys2Proof

/-- The address of image slot `k` in the configuration store (R146, R274). -/
def slotBase (k : Nat) : Nat := 0x10000000 + 0x400000 * k

/-- A section of the image: its index in the table, the fields of its entry (R148). -/
structure Section where
  index : Nat
  typ : Nat
  inst : Nat
  off : Nat
  len : Nat
  crc : Nat
deriving DecidableEq, Repr

/-- The section table of the image at `b`. -/
def sections (b : Nat) (s : State) : List Section :=
  (List.range (mread (b + 0x10) 2 s)).map (fun i =>
    let a := b + 0x40 + 16 * i
    ⟨i, mread a 2 s, mread (a + 2) 2 s, mread (a + 4) 4 s, mread (a + 8) 4 s, mread (a + 12) 4 s⟩)

/-- The cluster, region of an instance; the package (R148). -/
def instCluster (i : Nat) : Option Nat := if i < 24 then some i else none
def instRegion (i : Nat) : Option Nat := if 0x100 ≤ i ∧ i < 0x104 then some (i - 0x100) else none
def instPackage (i : Nat) : Bool := i == 0x200

/-- The instances that a section type allows (R149). -/
def instAllowed (t i : Nat) : Bool :=
  match t with
  | 1 => instPackage i
  | 2 => instPackage i
  | 3 => (instCluster i).isSome || (instRegion i).isSome || instPackage i
  | 4 => (instCluster i).isSome || (instRegion i).isSome
  | 5 => (instCluster i).isSome
  | 6 => (instCluster i).isSome || (instRegion i).isSome
  | _ => false

/-- The registers that the words of a section of fixed length go to, in order; `none` where the word must be zero (R149). -/
def layout (t i : Nat) : List (Option Nat) :=
  let z := (none : Option Nat)
  match t, instCluster i, instRegion i with
  | 2, _, _ => (List.range 256).map (fun p => some (0x51000000 + 4 * p))
  | 3, some c, _ =>
    let b := 0x41000000 + 0x1000 * c
    (List.range 6).flatMap (fun j => (List.range 9).map (fun w => some (b + 0x80 * j + 4 + 4 * w)) ++ [z, z, z])
      ++ [some (b + 0x300), z, z, z]
  | 3, none, some n => [some (0x41018000 + 0x100 * n), z, z, z]
  | 3, none, none => [some 0x41018400, z, z, z]
  | 4, some c, _ =>
    let b := 0x42000000 + 0x1000 * c
    (List.range 16).flatMap (fun k => (List.range 5).map (fun w => some (b + 0x40 * k + 4 * w)) ++ [z])
      ++ [some (b + 0x400), z, z, z]
      ++ (List.range 2).flatMap (fun u => (List.range 5).map (fun w => some (b + 0x800 + 0x80 * u + 4 * w)) ++ [z])
  | 4, none, some n =>
    let b := 0x43000000 + 0x2000 * n
    (List.range 4).flatMap (fun k => [some (b + 0x200 * k)] ++
        (List.range 16).map (fun e => some (b + 0x200 * k + 0x40 + 4 * e)) ++ [z, z, z])
      ++ (List.range 16).flatMap (fun j => [some (b + 0x800 + 0x10 * j), some (b + 0x804 + 0x10 * j)])
      ++ (List.range 6).flatMap (fun k => (List.range 6).map (fun w => some (b + 0x1000 + 0x80 * k + 4 * w))
        ++ [some (b + 0x1024 + 0x80 * k), z])
  | 5, some c, _ =>
    let b := 0x45100000 + 0x100 * c
    (List.range 4).flatMap (fun k => [0, 4, 8, 0xC, 0x10, 0x20].map (fun o => some (b + 0x40 * k + o)) ++ [z, z])
  | 6, some c, _ => [some (lpeBase c + 0xF000), z, z, z]
  | 6, none, some n => [some (0x44180000 + 0x100 * n), z, z, z]
  | _, _, _ => []

/-- The counts of a CONTEXT section of a cluster: steps, local words, slot entries, context records (R149). -/
def ctxCounts (b : Nat) (x : Section) (s : State) : Nat × Nat × Nat × Nat :=
  (mread (b + x.off + 4) 2 s, mread (b + x.off + 6) 2 s, mread (b + x.off + 8) 2 s, mread (b + x.off + 10) 2 s)

/-- A section is a CONTEXT section of a cluster. -/
def isCtx (x : Section) : Bool := x.typ == 6 && (instCluster x.inst).isSome

/-- The LENGTH that R149 allows the section. -/
def lengthOk (b : Nat) (x : Section) (s : State) : Bool :=
  if x.typ = 1 then x.len % 16 == 0 && decide (x.len ≤ 16 * 1728)
  else if isCtx x then
    let n := ctxCounts b x s
    decide (16 ≤ x.len) && x.len == 16 + 8 * n.1 + 4 * n.2.1 + 8 * n.2.2.1 + 256 * n.2.2.2
  else x.len == 4 * (layout x.typ x.inst).length

/-- Word `i` of a section's payload. -/
def payload (b : Nat) (x : Section) (i : Nat) (s : State) : Nat := mread (b + x.off + 4 * i) 4 s

/-- The words of a section's fixed part with their registers. -/
def sectionWords (b : Nat) (x : Section) (s : State) : List (Option Nat × Nat) :=
  (layout x.typ x.inst).zipIdx.map (fun e => (e.1, payload b x e.2 s))

/-- The route entries of a section. -/
def routesOf (b : Nat) (x : Section) (s : State) : List Nat :=
  (List.range (x.len / 16)).map (fun i => mread (b + x.off + 16 * i) 16 s)

/-- The places of the parts of a CONTEXT section: steps, local table, slot entries, context records. -/
def ctxParts (b : Nat) (x : Section) (s : State) : Nat × Nat × Nat × Nat :=
  let n := ctxCounts b x s
  let p := b + x.off + 16
  (p, p + 8 * n.1, p + 8 * n.1 + 4 * n.2.1, p + 8 * n.1 + 4 * n.2.1 + 8 * n.2.2.1)

/-- The first section that a test condemns, with the code. -/
def firstBad (code : Nat) (xs : List Section) (bad : Section → Bool) : Option (Nat × Nat) :=
  (xs.find? bad).map (fun x => (code, x.index))

/-- A condition that concerns no single section. -/
def whole (code : Nat) (bad : Bool) : Option (Nat × Nat) := if bad then some (code, 0xFFFF) else none

/-- The `n` bytes from `a` on are not all zero. -/
def nonZero (s : State) (a n : Nat) : Bool := decide (mread a n s ≠ 0)

/-- Check 4 (R148): the table, the order of its entries, the places of the payloads, the gaps. -/
def checkTable (b len : Nat) (xs : List Section) (s : State) : Option (Nat × Nat) :=
  let table := 0x40 + 16 * xs.length
  let last := len - 4
  -- the end of the payload before entry i
  let before (i : Nat) : Nat := if i = 0 then table else
    match xs[i - 1]? with
    | some y => y.off + y.len
    | none => table
  let key (x : Section) : Nat := x.typ * 2 ^ 16 + x.inst
  let order (x : Section) : Bool := x.index == 0 ||
    match xs[x.index - 1]? with
    | some y => decide (key y < key x)
    | none => true
  if table > last then some (4, 0xFFFF)
  else
    (firstBad 4 xs (fun x => !instAllowed x.typ x.inst || !order x || x.off % 16 != 0 || decide (x.off < before x.index)
        || decide (last < x.off + x.len))).or
      (whole 4 (xs.any (fun x => nonZero s (b + before x.index) (x.off - before x.index))
        || nonZero s (b + before xs.length) (last - before xs.length)))

/-- Reserved bits of a step, slot entry or context record: those of a slot entry, of W0, and every bit of the words with W1C
bits (check 8, R99, R112). -/
def ctxReserved (b : Nat) (x : Section) (s : State) : Bool :=
  let n := ctxCounts b x s
  let p := ctxParts b x s
  (List.range n.2.2.1).any (fun e => decide (mread (p.2.2.1 + 8 * e) 4 s &&& 0x7C000000 ≠ 0)
      || decide (mread (p.2.2.1 + 8 * e + 4) 4 s &&& 0xF000FF80 ≠ 0))
    || (List.range n.2.2.2).any (fun k =>
      let r := p.2.2.2 + 256 * k
      decide (mread r 4 s &&& 0x00C0F800 ≠ 0) || nonZero s (r + 4) 4 || decide (mread (r + 12) 4 s &&& 0xF8000000 ≠ 0)
        || nonZero s (r + 220) 4)

/-- Check 8: a reserved, zero, W1C or WO bit is not zero. -/
def check8 (b : Nat) (x : Section) (s : State) : Bool :=
  (x.typ != 1 && (sectionWords b x s).any (fun e => match e.1 with
    | none => decide (e.2 ≠ 0) && !(isCtx x)
    | some a => if x.typ = 2 then decide (e.2 / 2 ^ 13 ≠ 0) else match findReg a with
      | some (r, _) => decide (outsideRw r e.2 ≠ 0)
      | none => false))
  || (x.typ == 1 && (routesOf b x s).any (fun v => decide (16 ≤ rtMode v)))
  || (isCtx x && (nonZero s (b + x.off + 12) 4 || ctxReserved b x s))

/-- The conditions of R62 on a leg's group as loaded: words 1 to 7 of the leg's record. -/
def legWordsBad (w : Nat → Nat) : Bool :=
  let p := w 1
  let fine (v : Nat) : Nat := bits v 20 16
  let a := w 2 * 32 + bits (w 4) 4 0
  let c := w 3 * 32 + bits (w 4) 12 8
  p != 0 && (decide (p < 16) || ((w 0).testBit 0 && p % 2 == 1) || decide (a > c) || decide (c > p * 32)
    || decide (bits (w 5) 11 0 * 32 + fine (w 5) > p * 16) || decide (bits (w 6) 11 0 * 32 + fine (w 6) > p * 16)
    || decide (bits (w 7) 15 0 * 32 + fine (w 7) > p * 16))

/-- The conditions that bind several fields of one section (check 9): R62, R82, R96, R120, R138. -/
def check9Groups (b : Nat) (x : Section) (s : State) : Bool :=
  let w (i : Nat) : Nat := payload b x i s
  match x.typ, instCluster x.inst, instRegion x.inst with
  | 3, some _, _ => (List.range 6).any (fun j => legWordsBad (fun i => w (12 * j + i)))
  | 4, some _, _ => (List.range 16).any (fun k => sdfOcBad (bits (w (6 * k)) 11 8) (bits (w (6 * k)) 6 4))
  | 4, none, some _ => (List.range 6).any (fun k => bits (w (112 + 8 * k)) 31 30 != 0 && decide (bits (w (112 + 8 * k)) 7 0 < 20))
  | 5, some c, _ => (List.range 4).any (fun k =>
      let v := w (8 * k + 1)
      let m := bits v 12 8
      bits v 5 4 != 0 && (m == 4 * (c % 6) + k || !clusterOn (6 * (c / 6) + m / 4) s))
  | 6, none, some n => decide (bits (w 0) 2 0 ≤ 5) && !clusterOn (6 * n + bits (w 0) 2 0) s
  | _, _, _ => false

/-- Check 9: a field value that its register would refuse, or outside its stated range. -/
def check9 (b : Nat) (x : Section) (s : State) : Bool :=
  (x.typ != 1 && (sectionWords b x s).any (fun e => match e.1 with
    | none => false
    | some a => match findReg a with
      | some (r, _) => rowOutOfRange r e.2
      | none => false))
  || check9Groups b x s

/-- Check 10 (R129): the entries of a ROUTE section. -/
def check10 (b : Nat) (x : Section) (s : State) : Bool :=
  x.typ == 1 &&
    let vs := routesOf b x s
    vs.any (fun v => !sinkKnown (rtSink v) || rtBad v) || !(vs.map rtSink).Pairwise (· < ·)

/-- The clusters that a section names (check 11). -/
def named (b : Nat) (x : Section) (s : State) : List Nat :=
  (instCluster x.inst).toList ++
  (if x.typ = 1 then (routesOf b x s).flatMap (fun v => rtClusters (rtSink v) v)
   else if x.typ = 5 then (match instCluster x.inst with
     | some c => (List.range 4).filterMap (fun k =>
       let v := payload b x (8 * k + 1) s
       if bits v 5 4 = 0 then none else some (6 * (c / 6) + bits v 12 8 / 4))
     | none => [])
   else if x.typ = 6 then (match instRegion x.inst with
     | some n => let v := payload b x 0 s
       if bits v 8 8 = 1 then [6 * n + bits v 2 0] else []
     | none =>
       let p := ctxParts b x s
       (List.range (ctxCounts b x s).1).filterMap (fun i =>
         let v := mread (p.1 + 8 * i) 8 s
         let k := bits v 63 58
         if (k = 0x08 ∨ k = 0x0B) ∧ bits v 17 6 < 3072 then some (bits v 17 6 / 128) else none))
   else [])

/-- Check 12: the counts of a CONTEXT section, W2 and the RO fields of W3. -/
def check12 (b : Nat) (x : Section) (s : State) : Bool :=
  isCtx x &&
    let n := ctxCounts b x s
    decide (2048 < n.1) || decide (2048 < n.2.1) || decide (256 < n.2.2.1) || decide (128 < n.2.2.2)
      || (List.range n.2.2.2).any (fun k => nonZero s ((ctxParts b x s).2.2.2 + 256 * k + 8) 8)

/-- Check 13: a pad function that its pin does not offer. -/
def check13 (b : Nat) (x : Section) (s : State) : Bool :=
  x.typ == 2 && (List.range 256).any (fun p => !offers p (bits (payload b x p s) 7 0) s)

/-- The check pass over slot `k`: the code and section of the first check that fails (R152). -/
def checkImage (k : Nat) (s : State) : Option (Nat × Nat) :=
  let b := slotBase k
  let len := mread (b + 8) 4 s
  let mask := mread (b + 12) 4 s
  let xs := sections b s
  let lens := len < 68 ∨ 0x400000 < len ∨ len % 4 ≠ 0
  (whole 1 (mread b 4 s != 0x474D4946 || mread (b + 4) 2 s != 1 || mread (b + 6) 2 s != 64)).or
  ((whole 2 (decide lens)).or
  ((whole 3 (crc32c b 0x3C s != mread (b + 0x3C) 4 s)).or
  ((checkTable b len xs s).or
  ((firstBad 5 xs (fun x => crc32c (b + x.off) x.len s != x.crc)).or
  ((whole 6 (crc32c b (len - 4) s != mread (b + len - 4) 4 s)).or
  ((firstBad 7 xs (fun x => !lengthOk b x s)).or
  ((whole 8 (decide (2 ^ 24 ≤ mask) || decide (1 < mread (b + 0x12) 2 s) || nonZero s (b + 0x24) 24)).or
  ((firstBad 8 xs (fun x => check8 b x s)).or
  ((firstBad 9 xs (fun x => check9 b x s)).or
  ((firstBad 10 xs (fun x => check10 b x s)).or
  ((whole 11 ((List.range 24).any (fun c => mask.testBit c && !clusterOn c s))).or
  ((firstBad 11 xs (fun x => (named b x s).any (fun c => !mask.testBit c))).or
  ((firstBad 12 xs (fun x => check12 b x s)).or
   (firstBad 13 xs (fun x => check13 b x s)))))))))))))))

/-! ### Applying (R151, R153, R154) -/

/-- What follows from a loaded register word beyond its fields: a comparator's configuration crosses to the analog die (R87), a
channel's filter starts anew (R81), a changed spare is mirrored (R120), a new PERIOD cuts the period (R48, R135), a pad word waits
for its boundary (R151). `old` is the state before the load. -/
def loadHook (a u : Nat) (old s : State) : State :=
  if 0x51000000 ≤ a ∧ a < 0x51000400 then padWaits u s
  else if 0x43000000 ≤ a ∧ a < 0x43008000 ∧ 0x800 ≤ a % 0x2000 ∧ a % 0x2000 < 0x900 then
    if a % 16 = 0 then later 2 (.cmpCfg u (cmpCfgWord u s)) s else later 2 (.cmpThr u (fget CMP_THR_THRESH u s)) s
  else if 0x42000000 ≤ a ∧ a < 0x42018000 ∧ 0x800 ≤ a % 0x1000 ∧ a % 0x80 = 0 then setQep u { qep u s with edges := [] } s
  else if 0x42000000 ≤ a ∧ a < 0x42018000 ∧ a % 0x1000 < 0x400 ∧ a % 0x40 = 0 then reconfigure u s
  else if 0x42000000 ≤ a ∧ a < 0x42018000 ∧ a % 0x1000 = 0x400 then
    if fget SDF_COM_CLK_SRC u old = fget SDF_COM_CLK_SRC u s then s else foff SDF_COM_CLK_OK u (setClk u ClkH.init s)
  else if 0x44000000 ≤ a ∧ a < 0x44180000 ∧ a % 0x10000 = 0xF000 then
    if fget LPE_CFG_CORE_MODE u old = fget LPE_CFG_CORE_MODE u s then s else coreModeOn u s
  else if 0x44180000 ≤ a ∧ a < 0x44180400 then
    if fget RSP_CFG_EN u s = 0 then foff RSP_STAT_MIRROR_READY u s
    else if fget RSP_CFG_EN u old = 1 ∧ fget RSP_CFG_DESIG u old = fget RSP_CFG_DESIG u s then s
    else if h : u < 4 then startMirror ⟨u, h⟩ s else s
  else if 0x45100000 ≤ a ∧ a < 0x45101800 ∧ a % 0x40 = 8 then foff TMR_STAT_PEND u (later 0 (.timerCut u (fget TMR_PERIOD_VALUE_E u old)) s)
  else if 0x41000000 ≤ a ∧ a < 0x41018000 ∧ a % 0x1000 < 0x300 ∧ a % 0x80 = 8 then
    foff LEG_STAT_PEND u (periodCut u (fget LEG_PERIOD_PERIOD_E u old) (legState u old == 4) s)
  else s

/-- A register takes a word of the image. -/
def loadReg (a v : Nat) (s : State) : State :=
  match findReg a with
  | some (r, u) => loadRow r u v s
  | none => s

/-- The registers that an image holds: those of every block that the part enables. -/
def imageRegs (s : State) : List Nat :=
  let cs := (List.range 24).filter (fun c => clusterOn c s)
  (cs.flatMap (fun c => [3, 4, 5, 6].flatMap (fun t => layout t c)) ++ (List.range 4).flatMap (fun n => [3, 4, 6].flatMap (fun t => layout t (0x100 + n)))
    ++ layout 2 0x200 ++ layout 3 0x200).filterMap id

/-- Every byte of memory in [lo, hi) becomes 0. -/
def clearRange (lo hi : Nat) (s : State) : State :=
  { s with mem := s.mem.filter (fun e => !(decide (lo ≤ e.1) && decide (e.1 < hi))) }

/-- What follows from every register that a load has given its word; `old` is the state before the load, so that a register whose
word the load repeats counts as unchanged (R151). -/
def loadHooks (old s : State) : State :=
  forAll (imageRegs s) (fun a t => match findReg a with
    | some (_, u) => loadHook a u old t
    | none => t) s

/-- The values of the factory default image (R154). -/
def defaultValues (s : State) : State :=
  let s := forAll (imageRegs s) (fun a t => match findReg a with
    | some (r, _) => loadReg a (resetWord r) t
    | none => t) s
  let s := forAll (List.range 24) (fun c t => clearRange (lpeBase c + 0x8000) (lpeBase c + 0xE800) t) s
  clearRange 0x45000000 0x45006C00 { s with ctx := [] }

/-- Copy `n` bytes of memory from `a` to `d`. -/
def copyBytes (a d : Nat) : Nat → State → State
  | 0, s => s
  | n + 1, s => copyBytes (a + 1) (d + 1) n (mset d (mget a s) s)

/-- A section's values come into effect. -/
def applySection (b : Nat) (x : Section) (s : State) : State :=
  if x.typ = 1 then forAll (routesOf b x s) (fun v t => putRoute (rtSink v) v t) s
  else
    let s := forAll (sectionWords b x s) (fun e t => match e.1 with
      | some a => loadReg a e.2 t
      | none => t) s
    match isCtx x, instCluster x.inst with
    | true, some c =>
      let n := ctxCounts b x s
      let p := ctxParts b x s
      let m := lpeBase c
      let s := copyBytes p.1 (m + 0x8000) (8 * n.1) s
      let s := copyBytes p.2.1 (m + 0xC000) (4 * n.2.1) s
      let s := copyBytes p.2.2.1 (m + 0xE000) (8 * n.2.2.1) s
      forAll (List.range n.2.2.2) (fun k t => forAll (List.range 64) (fun w u =>
        ctxSet (128 * c + k) w (mread (p.2.2.2 + 256 * k + 4 * w) 4 u) u) t) s
    | _, _ => s

/-- Pads whose words wait hand over at once when the load ends at a line boundary (R151). -/
def padsAt (s : State) : State :=
  if s.pos.dot = 0 then forAll (List.finRange 256) (fun p t => if t.pads.wait.contains p.val then handover (.pin p) t else t) s else s

/-- A reload after a wake has ended (R445). -/
def reloadEnds (s : State) : State := { s with pwr := { s.pwr with reload := .none } }

/-- The image of slot `k` governs; a reload applies no AUTORUN (R151, R445). -/
def applyImage (k : Nat) (s : State) : State :=
  let b := slotBase k
  let s := loadHooks s (forAll (sections b s) (applySection b) (defaultValues s))
  let s := fset FAB_CRC_CRC 0 (mread (b + mread (b + 8) 4 s - 4) 4 s) (fset FAB_IMAGE_SERIAL 0 (mread (b + 0x14) 4 s) s)
  let s := fset FAB_STAT_WHY 0 0 (foff FAB_STAT_DEFAULTED 0 (fon FAB_STAT_LOAD_DONE 0 (foff FAB_STAT_BUSY 0 { padsAt s with img := none })))
  if (mread (b + 0x12) 2 s).testBit 0 && decide (s.pwr.reload = .none) then forAll (List.range 4) startRegion s else reloadEnds s

/-- Bytes in units of 16, the last one whole. -/
def units16 (n : Nat) : Nat := (n + 15) / 16

/-- The device may begin a load (R151). -/
def mayLoad (s : State) : Bool := allHalted s && !fbit FAB_STAT_BUSY 0 s

/-- An image load of slot `k` begins (R151): the check pass reads the store at 16 bytes a dot. A pass that fails runs as long as one that
passes, 4 dots where LENGTH is no length of an image (DESIGN CHOICE, log 76). -/
def startLoad (k : Nat) (s : State) : State :=
  let s := programSlot k s
  let n := mread (slotBase k + 8) 4 s
  let dots := if n < 68 ∨ 0x400000 < n then 4 else units16 n
  later dots (.cmd .imageCheckPassEnd) (fon FAB_STAT_BUSY 0 { s with img := some (some k, 0, 0xFFFF) })

/-- The factory default image begins to load (R153). -/
def startDefault (why sec : Nat) (s : State) : State :=
  later 2048 (.cmd .defaultImageLoaded) (fon FAB_STAT_BUSY 0 { s with img := some (none, why, sec) })

/-- FAB_LOAD (R151): a write of LOAD with the slot in SLOT; refused whole, it changes nothing. -/
def execFabLoad (k : Fin 4) (s : State) : Host.Outcome State Fault Refusal :=
  if mayLoad s then .next (startLoad k (fset FAB_CTRL_SLOT 0 k s)) else .next (fon FAB_STAT_CFG_REFUSED 0 s)

/-- FAB_DEFAULT (R153). -/
def execFabDefault (s : State) : Host.Outcome State Fault Refusal :=
  if mayLoad s then .next (startDefault 0 0 s) else .next (fon FAB_STAT_CFG_REFUSED 0 s)

/-- IMAGE_CHECK_PASS_END (R151 to R153, R445): the apply pass follows, or the factory default image after a failure; a reload also fails
where the check word differs from FAB_CRC. -/
def execImageCheckPassEnd (s : State) : Host.Outcome State Fault Refusal :=
  match s.img with
  | some (some k, _, _) =>
    let b := slotBase k
    let changed := decide (s.pwr.reload = .running) && mread (b + mread (b + 8) 4 s - 4) 4 s != fget FAB_CRC_CRC 0 s
    match (checkImage k s).or (if changed then some (6, 0xFFFF) else none) with
    | none => .next (later (units16 (mread (slotBase k + 8) 4 s) + 64) (.cmd .imageApplyEnd) s)
    | some (why, sec) => .next (startDefault why sec (fset FAB_STAT_SECTION 0 sec (fset FAB_STAT_WHY 0 why s)))
  | _ => .next s

/-- IMAGE_APPLY_END (R151). -/
def execImageApplyEnd (s : State) : Host.Outcome State Fault Refusal :=
  match s.img with
  | some (some k, _, _) => .next (applyImage k s)
  | _ => .next s

/-- DEFAULT_IMAGE_LOADED (R153, R154): DEFAULTED and LOAD_DONE; a report of FAB_LOAD, source 0x103, only after a failure. -/
def execDefaultImageLoaded (s : State) : Host.Outcome State Fault Refusal :=
  match s.img with
  | some (none, why, _) =>
    let s := reloadEnds (padsAt (loadHooks s (defaultValues s)))
    let s := fset FAB_CRC_CRC 0 0 (fset FAB_IMAGE_SERIAL 0 0 (fon FAB_STAT_LOAD_DONE 0 (fon FAB_STAT_DEFAULTED 0 (foff FAB_STAT_BUSY 0 { s with img := none }))))
    if why = 0 then .next s else .next (report 0x103 0 0 s)
  | _ => .next s

end Sys2Proof.Machine
end

