-- ==== Sys2Proof/Machine/Power.lean ====
section
/-! DEFINITION. The power controller: domains, states, entry, the save area, wake (R434 to R451). -/

namespace Sys2Proof.Machine

open Sys2Proof

/-! ### Domains (R434) -/

/-- The domains that must be on before domain `d` may start. -/
def domainNeeds (d : Nat) : List Nat :=
  if d = 0 then [] else if d = 1 then [0] else if d = 2 then [1] else if d < 7 then [0] else if d < 15 then [3 + (d - 7) / 2]
  else if d < 19 then [1, 2] else if d = 23 then [22] else [1]

/-- The draw of a domain on the supply budget while it ramps. -/
def domainUnits (d : Nat) : Nat :=
  if d = 0 then 2 else if d < 3 then 4 else if d < 7 then 2 else if d < 15 then 4 else if d < 19 then 3
  else if d = 19 ∨ d = 21 then 1 else if d = 20 then 3 else 2

/-- The dots of a domain's ramp; DRAM's from self-refresh is short. -/
def domainRamp (d : Nat) (s : State) : Nat :=
  if d = 2 then (if s.pwr.selfRefresh then 400 else 80000)
  else if d = 0 ∨ (3 ≤ d ∧ d < 7) then 2000 else if d = 1 ∨ (7 ≤ d ∧ d < 15) ∨ d = 20 then 4000
  else if d < 19 then 3200 else if d = 19 ∨ d = 21 then 1200 else 2400

/-- A domain is scheduled at all: a half that holds only disabled clusters stays off (R471). -/
def domainUsed (d : Nat) (s : State) : Bool :=
  !(decide (7 ≤ d ∧ d < 15)) || (List.range 3).any (fun i => clusterOn (3 * (d - 7) + i) s)

/-- Domain `d` is masked off in RUN (R437). -/
def maskedOff (d : Nat) (s : State) : Bool := decide (3 ≤ d) && fbitAt PWR_RUNOFF_OFF 0 (d - 3) s

/-- The clusters of half `h`. -/
def halfClusters (h : Nat) : List Nat := [3 * h, 3 * h + 1, 3 * h + 2]

/-- The half domain of cluster `c`. -/
def clusterDomain (c : Nat) : Nat := 7 + c / 3

/-- The switched domain that holds the register at address `a`; `none` in the always-on domain (R434, R435). Package trip registers lie
with the region control in LINK; Rambler walker 3 is always on. -/
def regDomain (a : Nat) : Option Nat :=
  let o := a % 2 ^ 24
  match a / 2 ^ 24 with
  | 0x41 => if o < 0x18000 then some (clusterDomain (o / 0x1000)) else if o < 0x18400 then some (3 + (o - 0x18000) / 0x100 % 4) else some 0
  | 0x42 => some (clusterDomain (o / 0x1000 % 24))
  | 0x43 => some (3 + o / 0x2000 % 4)
  | 0x44 => if o < 0x180000 then some (clusterDomain (o / 0x10000)) else some (3 + (o - 0x180000) / 0x100 % 4)
  | 0x45 => if o < 0x100000 then some 0 else some (clusterDomain ((o - 0x100000) / 0x100 % 24))
  | 0x46 => some 0
  | 0x47 => some (coreDomain (o / 0x400))
  | 0x48 => if o < 0x100000 then some 0 else some (clusterDomain ((o - 0x100000) / 0x200 % 24))
  | 0x49 => if 0x130 ≤ o ∧ o < 0x140 then none else some 1
  | 0x4C => if o < 0x100000 then some 22 else some 23
  | 0x4D => some 21
  | 0x4F => some 19
  | 0x50 => some 20
  | _ => none

/-- The offset of unit `u` in an array of registers. -/
def unitOffset : List (Nat × Nat) → Nat → Nat
  | [], _ => 0
  | (_, d) :: rest, u => u / (rest.map Prod.fst).prod * d + unitOffset rest (u % (rest.map Prod.fst).prod)

/-! ### What a domain that goes off keeps and loses (R440, R441) -/

/-- A field that the save list keeps by value, in an area whose layout R440 does not give: link configuration, FAB_ items, the event
controller, capability-independent configuration of the flattener, DisplayPort and audio. -/
def fieldKept (r : RegRow) (f : FieldRow) : Bool :=
  let a := r.base
  let rw := f.acc == .rw || f.acc == .sh
  match a / 2 ^ 24 with
  | 0x46 => rw
  | 0x45 => [FAB_CTRL_SLOT.id, FAB_STAT_DEFAULTED.id].contains f.fld.id || [0x45008008, 0x4500800C, 0x45008010, 0x45008014].contains a
  | 0x48 => decide (a < 0x48100000) && a != 0x48000118
  | 0x4C => rw && decide (0x4C100100 ≤ a)
  | 0x4D => rw
  | _ => false

/-- A capability slot that the save list keeps by value: LAN_RCAP, SCN_RCAP, SCN_WCAP, AUD_RCAP. -/
def slotKept (a : Nat) : Bool := [0x4C000000, 0x4C100000, 0x4C100010, 0x4D000010].contains a

/-- Field `f`, in an array at `base`, takes its reset value in every unit that lies in domain `d`. -/
def clearField (d base : Nat) (dims : List (Nat × Nat)) (f : Fld) (s : State) : State :=
  let m := (sget [] s.regs f.id).filter (fun e => regDomain (base + unitOffset dims e.1) != some d)
  { s with regs := sset [] s.regs f.id m }

/-- The registers of domain `d` that the save list does not keep take their reset values (R441). -/
def clearRegs (d : Nat) (s : State) : State :=
  let s := forAll regRows (fun r t => forAll r.fields (fun f u =>
    if fieldKept r f then u else clearField d r.base r.dims f.eff (clearField d r.base r.dims f.fld u)) t) s
  forAll capRows (fun r t =>
    if slotKept r.base then t
    else forAll [r.cap.w0, r.cap.w1, r.cap.w2, r.cap.w3, r.cap.tag] (fun f u => clearField d r.base r.dims f u) t) s

/-- The entries of a table whose number lies in a set. -/
def dropKeys {α : Type} (p : Nat → Bool) (m : SMap α) : SMap α := m.filter (fun e => !p e.1)

/-- The memory of the keys in a set is lost: bytes, tags, poison, valid bits (R441). -/
def loseMemory (p : Nat → Bool) (s : State) : State :=
  { s with mem := s.mem.filter (fun e => !p e.1), tags := s.tags.filter (fun t => !p (16 * t)), valid := s.valid.filter (fun u => !p u)
           poison := s.poison.filter (fun w => !p (8 * w)), soft := s.soft.filter (fun w => !p (8 * w)) }

/-- What cluster `c` holds beside its registers is lost. -/
def loseCluster (c : Nat) (s : State) : State :=
  let own (n : Nat) (k : Nat) : Bool := k / n == c
  let s := loseMemory (fun a => inMirror c a) s
  setLcd c [] { s with
    legs := dropKeys (own 6) s.legs, eng := dropKeys (own 1) s.eng, ctx := dropKeys (own 8192) s.ctx, ctx1 := dropKeys (own 8192) s.ctx1
    ctx2 := dropKeys (own 8192) s.ctx2, holds := s.holds.filter (fun e => e.1 / 6 != c), sdf := dropKeys (own 16) s.sdf
    clk := dropKeys (own 1) s.clk, qep := dropKeys (own 2) s.qep, tmr := dropKeys (own 4) s.tmr
    cpus := dropKeys (fun i => i == 16 + c) s.cpus }

/-- What domain `d` holds beside its registers is lost (R441). DRAM in self-refresh keeps its contents (R436). -/
def loseState (d : Nat) (s : State) : State :=
  if d = 0 then { loseMemory (fun a => decide (0x45000000 ≤ a ∧ a < 0x45008000)) s with ports := [], link := LinkH.init, fab := ⟨[], [], [], [], [], []⟩, recs := [], restart := [], img := none }
  else if d = 1 then
    let mh := s.memh
    { loseMemory (fun a => a / 2 ^ 24 == 0x20) s with
      dma := [], memh := { mh with
        handed := mh.handed.filter (fun w => memIndex (8 * w) == 3)
        rose := mh.rose.filter (fun e => e.1 == 3)
        last := mh.last.filter (fun e => e.1 == 3)
        off := mh.off.filter (fun e => e.1 == 3)
        fixed := []
        repairing := none
        disc := none } }
  else if d = 2 then
    if s.pwr.selfRefresh then s
    else { loseMemory (fun a => decide (2 ^ 32 ≤ a) && decide (a < ownAt)) s with memh := { s.memh with rows := [] } }
  else if d < 7 then
    let n := d - 3
    { loseMemory (fun a => decide (0x4A600000 + 0x40000 * n ≤ a ∧ a < 0x4A640000 + 0x40000 * n)) s with
      spare := dropKeys (· == n) s.spare, sar := dropKeys (fun v => v / 4 == n) s.sar, cmp := dropKeys (fun j => j / 16 == n) s.cmp
      seu := dropKeys (fun u => u / 6 == n) s.seu, startq := dropKeys (· == n) s.startq, cpus := dropKeys (· == 48 + n) s.cpus }
  else if d < 15 then forAll (halfClusters (d - 7)) loseCluster s
  else if d < 19 then
    let i := d - 15
    { loseMemory (fun a => decide (0x47800000 + 0x1000 * i ≤ a ∧ a < 0x47801000 + 0x1000 * i)) s with cpus := dropKeys (· == i) s.cpus }
  else if d = 19 then { s with nand := { s.nand with starting := false, queue := [], hand := .none, done := [], refresh := [] } }
  else if d = 20 then { s with net := NetH.init }
  else if d = 21 then { s with aud := AudioH.init }
  else if d = 22 then { s with trace := [], be := .idle }
  else { loseMemory (fun a => a / 2 ^ 24 == 0x30) s with scan := Scan.init, flx := 0, dp := ⟨false, false⟩ }

/-! ### The save area (R440, R445) -/

/-- The save slot of the control block of core `i`: 0 to 3 the host cores, 4 to 27 the loop cores, 28 to 31 the spares (R440). -/
def saveSlot (i : Nat) : Nat := if i < 16 then i else if i < 40 then i - 12 else i - 20

/-- The items of a control block, by offset and address: capability slots, registers. -/
def coreItems (i : Nat) : List (Nat × Nat) × List (Nat × Nat) :=
  let o := 0x140 * saveSlot i
  let b := 0x47000000 + 0x400 * i
  ((List.range 18).map (fun k => (o + 0x10 * k, b + 0x10 * k)), [0x120, 0x124, 0x128, 0x12C].map (fun k => (o + k, b + k)))

/-- The cores whose control blocks lie in domain `d`. -/
def domainCores (d : Nat) : List Nat :=
  if 15 ≤ d ∧ d < 19 then [d - 15] else if 7 ≤ d ∧ d < 15 then (halfClusters (d - 7)).map (16 + ·) else if 3 ≤ d ∧ d < 7 then [45 + d]
  else []

/-- The items of domain `d` that lie in the save area as words, in the order in which R440 names them: capability slots, registers. -/
def saveItems (d : Nat) : List (Nat × Nat) × List (Nat × Nat) :=
  let cores := (domainCores d).map coreItems
  if d = 1 then
    let ch := List.range 64
    (ch.flatMap (fun c => (List.range 3).map (fun k => (0x2900 + 0x40 * c + 0x10 * k, 0x49101000 + 0x80 * c + 0x10 * k))),
      (List.range 8).map (fun k => (0x2800 + 4 * k, 0x49000000 + 4 * k)) ++ [(0x2820, 0x49000020)]
        ++ (List.range 5).map (fun w => (0x2824 + 4 * w, 0x49000100 + 0x10 * w))
        ++ ch.flatMap (fun c => [(0x2930 + 0x40 * c, 0x49101030 + 0x80 * c), (0x2934 + 0x40 * c, 0x49101038 + 0x80 * c)]))
  else if d = 19 then
    ([(0x14A00, 0x4F000000)], [(0x14A10, 0x4F000018), (0x14A14, 0x4F00001C), (0x14A18, 0x4F000020), (0x14A1C, 0x4F000064),
      (0x14A20, 0x4F000010), (0x14A24, 0x4F100000)])
  else (cores.flatMap Prod.fst, cores.flatMap Prod.snd)

/-- The first address of the save area (R440). -/
def saveBase : Nat := 0x38028000

/-- The items of domain `d` are written to the save area (R440). -/
def saveDomain (d : Nat) (s : State) : State :=
  let items := saveItems d
  let s := forAll items.1 (fun e t => match findSlot e.2 with
    | some (r, u) => writeCap (saveBase + e.1) (slotCap r.cap u t) t
    | none => t) s
  forAll items.2 (fun e t => match findReg e.2 with
    | some (r, u) => putMem (saveBase + e.1) 4 (rowWord r u t) t
    | none => t) s

/-- A word of the save area reads uncorrectable (R445): its item keeps its reset value. -/
def restoreFails (off : Nat) (s : State) : State := report 0x1D0 0 0 (fset PWR_LASTERR_WHERE 0 off s)

/-- The items of domain `d` are restored from the save area (R445). -/
def restoreDomain (d : Nat) (s : State) : State :=
  let items := saveItems d
  let s := forAll items.1 (fun e t => match findSlot e.2 with
    | some (r, u) =>
      match readCap (saveBase + e.1) 0 t with
      | (some k, t') => setSlotCap r.cap u k t'
      | (none, t') => restoreFails e.1 t'
    | none => t) s
  forAll items.2 (fun e t => match findReg e.2 with
    | some (r, u) =>
      match readMem (saveBase + e.1) 4 0 t with
      | (some v, t') => forAll r.fields (fun f x => match f.acc with
        | .wo => x
        | _ => fset f.fld u (fieldOf f v) x) t'
      | (none, t') => restoreFails e.1 t'
    | none => t) s

/-! ### Pads (R448) -/

/-- The domains of the blocks that drive pin `p`, from its word in effect. -/
def pinDomains (p : Nat) (s : State) : List Nat :=
  let w := fget PAD_EFF_W p s
  let own := match w % 128 with
    | 0x02 => [0]
    | 0x10 => if 144 ≤ p ∧ p < 160 then [21] else if 160 ≤ p ∧ p < 208 then [19] else if 208 ≤ p ∧ p < 234 then [20] else []
    | 0x11 => if p % 6 = 0 then [3 + p / 36] else []
    | _ => []
  if w.testBit 7 then 0 :: own else own

/-- The domains of the blocks that drive pad `n`: a pin, or 256 plus a leg. -/
def padDomains (n : Nat) (s : State) : List Nat := if n < 256 then pinDomains n s else [clusterDomain ((n - 256) / 6)]

/-- The pads that the blocks of domain `d` drove in the dot before the present one: the gate pads, and pins that were driven. -/
def padsOf (d : Nat) (s : State) : List Nat :=
  (List.range 400).filter (fun n => (padDomains n s).contains d && (decide (256 ≤ n) || s.pads.drv1.contains n))

/-- The pads driven by domain `d` latch the levels they had in the dot before. -/
def latchPads (d : Nat) (s : State) : State :=
  let ns := padsOf d s
  let h := s.pads
  let fresh := (ns.filter (fun n => decide (n < 256) && !h.latched.contains n))
  { s with pads := { h with
      latched := ns.foldl (fun l n => nput n l) h.latched
      lvl := fresh.foldl (fun l p => if h.lvl1.contains p then nput p l else ndel p l) h.lvl } }

/-- The latches that open at a line boundary: their domains are on, and no reload is due (R448). -/
def padsToOpen (s : State) : List Nat :=
  if decide (s.pwr.reload = .none) then s.pads.latched.filter (fun n => (padDomains n s).all (fun d => domainOn d s)) else []

/-! ### Entry (R438, R439) -/

/-- The domains on in a state (R436). -/
def stateKeeps (c d : Nat) (s : State) : Bool :=
  match c with
  | 0 => !maskedOff d s
  | 1 => decide (d < 7) || (decide (d < 15) && !maskedOff d s)
  | 2 => d == 0
  | _ => false

/-- The domains that are on and go off, highest first. -/
def domainsOff (keep : Nat → Bool) (s : State) : List Nat := ((List.range 24).filter (fun d => domainOn d s && !keep d)).reverse

/-- A block in one of these domains is busy (R438). -/
def offBusy (ds : List Nat) (s : State) : Bool :=
  (ds.contains 1 && (List.range 64).any (fun ch => fbit CH_STAT_BUSY ch s))
    || (ds.contains 22 && fbit BE_STAT_BUSY 0 s) || (ds.contains 23 && fbit FL_STAT_BUSY 0 s)
    || (ds.contains 19 && s.nand.queue != [])

/-- Why a request of state `c` is refused; 0 where it is accepted (R438). -/
def requestRefused (c : Nat) (s : State) : Nat :=
  let st := fget PWR_STAT_STATE 0 s
  if (c = 0 ∧ st ≠ 1) ∨ (c ≠ 0 ∧ st ≠ 0 ∧ st ≠ 1) ∨ (c = 1 ∧ st = 1) ∨ 4 < c then 1
  else if 2 ≤ c ∧ allStopped s = false then 2
  else if fbit PWR_STAT_BUSY 0 s then 3
  else if fbit FAB_STAT_BUSY 0 s then 4
  else if c ≠ 0 ∧ offBusy (domainsOff (fun d => stateKeeps c d s) s) s then 5
  else 0

/-- A request is refused (R438). -/
def requestFails (why : Nat) (s : State) : State :=
  arrive 0x1C1 why (fset PWR_STAT_REFUSE_WHY 0 why (fon PWR_STAT_CFG_REFUSED 0 s))

/-- The host cores of domains that go off stop (R439). -/
def stopHosts (ds : List Nat) (s : State) : State := forAll ((List.range 4).filter (fun k => ds.contains (15 + k))) stopCore s

/-- An entry begins: BUSY is set, host cores stop (R439). -/
def enter (c : Nat) (ds : List Nat) (s : State) : State :=
  stopHosts ds (fon PWR_STAT_BUSY 0 { s with pwr := { s.pwr with entering := some c, off := ds, gone := none } })

/-- Domain `d` goes off: its items are saved, its pads latch, the rest is lost; DRAM may enter self-refresh instead (R436, R439 to
R441, R448). -/
def switchOff (d : Nat) (refresh : Bool) (s : State) : State :=
  let s := latchPads d (saveDomain d s)
  let s := if d = 2 then { s with pwr := { s.pwr with selfRefresh := refresh } } else s
  fsetBit PWR_DOMSTAT_ON 0 d false (clearRegs d (loseState d s))

/-! ### Wake (R443 to R447) -/

/-- The fields of PWR_WAKE and its position (R447). -/
def recordWake (src idx : Nat) (s : State) : State :=
  fset PWR_WAKE_SRC 0 src (fset PWR_WAKE_INDEX 0 idx (fset PWR_WAKE_FROM 0 (fget PWR_STAT_STATE 0 s) (foff PWR_WAKE_DEFERRED 0
    (fset PWR_WAKE_LO_LINE 0 s.pos.line (fset PWR_WAKE_LO_DOT 0 s.pos.dot (fset PWR_WAKE_HI_FRAME 0 s.pos.frame
      (foff PWR_DEFER_DOMAINS 0 s)))))))

/-- A wake accepted now starts the scheduling of the domains `ds` (R444). -/
def beginWake (src idx : Nat) (ds : List Nat) (s : State) : State :=
  let st := fget PWR_STAT_STATE 0 s
  let s := fon PWR_STAT_BUSY 0 (fcount PWR_WAKECNT_COUNT 0 1 (recordWake src idx s))
  { s with pwr := { s.pwr with
      waking := true, waiting := ds, first := s.time + (if st = 3 then 401 else 1)
      reload := if st = 2 ∨ st = 3 then .due else s.pwr.reload } }

/-- The domains that a return to RUN needs and that are off (R444, R471). -/
def domainsNeeded (s : State) : List Nat :=
  (List.range 24).filter (fun d => !domainOn d s && !maskedOff d s && domainUsed d s)

/-- Domains that join a wake under way. -/
def joinWake (src idx : Nat) (ds : List Nat) (s : State) : State :=
  let w := (fget PWR_WAKE_SRC 0 s, fget PWR_WAKE_INDEX 0 s)
  let same := fget PWR_WAKE_LO_LINE 0 s == s.pos.line && fget PWR_WAKE_LO_DOT 0 s == s.pos.dot && fget PWR_WAKE_HI_FRAME 0 s == s.pos.frame
  let s := fcount PWR_WAKECNT_COUNT 0 1 s
  let s := if same && decide (src < w.1 ∨ (src = w.1 ∧ idx < w.2)) && !s.pwr.initial then
    fset PWR_WAKE_SRC 0 src (fset PWR_WAKE_INDEX 0 idx s) else s
  { s with pwr := { s.pwr with
      waiting := (ds.filter (fun d => !s.pwr.ramping.any (fun e => e.1 == d))).foldl (fun l d => nput d l) s.pwr.waiting } }

/-- A wake request that names the domains `ds` in RUN: it begins a wake, joins one, or is held during an entry (R443, R446). -/
def wakeDomains (src idx : Nat) (ds : List Nat) (s : State) : State :=
  if s.pwr.entering.isSome then fon PWR_STAT_WAKE_HELD 0 { s with pwr := { s.pwr with held := s.pwr.held ++ [(src, idx)] } }
  else if s.pwr.waking then joinWake src idx ds s
  else beginWake src idx ds s

/-- A wake request (R443): in RUN only codes 3 and 6 act; elsewhere each returns the device to RUN. -/
def acceptWake (src idx : Nat) (s : State) : State :=
  if fget PWR_STAT_STATE 0 s = 4 then s
  else if fget PWR_STAT_STATE 0 s = 0 then
    if src = 3 then
      let k := fget EVQ_CFG_CORE (idx % 8) s
      let s := if s.pwr.entering.isSome then s else fsetBit PWR_RUNOFF_OFF 0 (12 + k) false s
      if domainOn (15 + k) s then s else wakeDomains src idx [15 + k] s
    else if src = 6 then wakeDomains src idx (domainsNeeded s) s
    else if s.pwr.entering.isSome then wakeDomains src idx [] s
    else s
  else wakeDomains src idx (domainsNeeded s) s

/-- WAKE_ACCEPT (R443, R444). -/
def execWakeAccept (src : Fin 16) (idx : BitVec 10) (s : State) : Host.Outcome State Fault Refusal := .next (acceptWake src idx.toNat s)

/-- WAKE_PIN (R443): an enabled wake pin has been low for 16 dots. -/
def execWakePin (k : Fin 4) (s : State) : Host.Outcome State Fault Refusal :=
  .next (if fbitAt PWR_WAKECFG_PIN_EN 0 k s then acceptWake 1 k s else s)

/-- WAKE_ALARM (R443): ALARM_EN clears. -/
def execWakeAlarm (s : State) : Host.Outcome State Fault Refusal :=
  .next (if fbit PWR_WAKECFG_ALARM_EN 0 s then acceptWake 2 0 (foff PWR_WAKECFG_ALARM_EN 0 s) else s)

/-- A write of a state code to PWR_REQ (R438). -/
def powerRequest (c : Nat) (s : State) : State :=
  let why := requestRefused c s
  if why ≠ 0 then requestFails why s
  else if c = 0 then acceptWake 6 0 s
  else enter c (domainsOff (fun d => stateKeeps c d s) s) s

/-- REQUEST_RUN (R438). -/
def execRequestRun (s : State) : Host.Outcome State Fault Refusal := .next (powerRequest 0 s)
/-- REQUEST_HOLD (R438). -/
def execRequestHold (s : State) : Host.Outcome State Fault Refusal := .next (powerRequest 1 s)
/-- REQUEST_DIM (R438). -/
def execRequestDim (s : State) : Host.Outcome State Fault Refusal := .next (powerRequest 2 s)
/-- REQUEST_SLEEP (R438). -/
def execRequestSleep (s : State) : Host.Outcome State Fault Refusal := .next (powerRequest 3 s)
/-- REQUEST_OFF (R438). -/
def execRequestOff (s : State) : Host.Outcome State Fault Refusal := .next (powerRequest 4 s)

/-- A self-test whose target's domain is off ends at once with RESULT 4 (R482). -/
def bistAbort (s : State) : State :=
  match s.test.bist with
  | some (t, _) =>
    if domainOn (coreDomain t) s then s
    else
      fset BIST_STAT_RESULT 0 4 (fon BIST_STAT_DONE 0 (foff BIST_STAT_BUSY 0 { s with test := { s.test with bist := none } }))
  | none => s

/-- What the collector holds is lost with the always-on domain: its registers, its reports and the reactions that are due (R449). What is left
to come due is the end of OFF's entry. -/
def collectorLost (s : State) : State :=
  let mine := (regRows.filter (fun r => decide (0x4E000000 ≤ r.base) && decide (r.base < 0x4E100000))).flatMap (fun r => r.fields.map (fun f => f.fld.id))
  let keeps (d : Due) : Bool := match d with
    | .cmd (.wakeAccept _ _) => true
    | _ => false
  { s with regs := s.regs.filter (fun e => !mine.contains e.1), rct := [], flt := State.reset.flt, frameRep := [],
           due := s.due.filter (fun e => keeps e.2) }

/-- Domain `d` goes off on the way to the state `c` (R439, R482). -/
def goesOff (c d : Nat) (s : State) : State := bistAbort (switchOff d (c == 2) s)

/-- STATE_ENTRY_DONE (R439, R446, R449): what has not gone off yet has gone off; held wakes are accepted in the next dot; PSU_EN goes low 64 dots
after OFF. -/
def execStateEntryDone (s : State) : Host.Outcome State Fault Refusal :=
  match s.pwr.entering with
  | none => .next s
  | some c =>
    let s := forAll s.pwr.off (goesOff c) s
    let held := s.pwr.held
    let s := fset PWR_STAT_STATE 0 c (foff PWR_STAT_BUSY 0 { s with pwr := { s.pwr with entering := none, off := [], gone := none, held := [] } })
    let s := forAll held (fun e t => later 1 (.cmd (.wakeAccept (Fin.ofNat 16 e.1) (BitVec.ofNat 10 e.2))) t) s
    let s := onlyIf (held != []) (foff PWR_STAT_WAKE_HELD 0) s
    if c = 4 then .next (later 64 (.cmd .psuEnLow) (collectorLost (loseMemory (fun a => a / 2 ^ 24 == 0x38) s))) else .next s

/-- A write of PWR_RUNOFF is refused (R437). The new word stands for the bits that a rule compares with. -/
def runoffRefused (v : Nat) (s : State) : Bool :=
  let old (d : Nat) : Bool := maskedOff d s
  let halves (n : Nat) : List Nat := [7 + 2 * n, 8 + 2 * n]
  fget PWR_STAT_STATE 0 s != 0 || s.pwr.entering.isSome
    || (List.range 4).any (fun n =>
      let r := 3 + n
      (!regionStopped n s && (r :: halves n).any (fun d => v.testBit d && !old d))
        || (v.testBit r && !old r && (halves n).any (fun d => !v.testBit d))
        || (v.testBit r && (halves n).any (fun d => !v.testBit d && old d)))

/-- A write of PWR_RUNOFF: bits that are set switch domains off, bits that are cleared wake them (R437); one that carries the bits held does
nothing (R500). -/
def runoffWrite (v : Nat) (s : State) : State :=
  if bits v 23 3 = fget PWR_RUNOFF_OFF 0 s then s
  else if runoffRefused v s then fon PWR_STAT_CFG_REFUSED 0 s
  else
    let ds := (List.range 21).map (3 + ·)
    let up := ds.filter (fun d => maskedOff d s && !v.testBit d)
    let s := fset PWR_RUNOFF_OFF 0 (bits v 23 3) s
    let wake := up.filter (fun d => !domainOn d s && domainUsed d s)
    let s := if up = [] then s else wakeDomains 6 0 wake s
    let off := domainsOff (fun d => !maskedOff d s) s
    if off = [] then s else enter 0 off s

/-- PWR_RUNOFF_WRITE (R437). -/
def execPwrRunoffWrite (v : Word) (s : State) : Host.Outcome State Fault Refusal := .next (runoffWrite v.toNat s)

/-- The row repairs are to be applied anew: DRAM starts with no row mapped (R472). -/
def repairClear (s : State) : State := fset MEM_REP_USED_COUNT 0 0 { s with memh := { s.memh with rows := [] } }

/-- Entry `i` of the repair table is applied, or skipped: one that names a bank with no free spare row is reported (R472). -/
def repairEntryOn (i : Nat) (s : State) : State :=
  let code := mread (repairEntry i) 4 s
  let full (t : State) : State := report 0x10E (memAddr (rowOffset code)) (memInfo (2 ^ 32 + rowOffset code) 0) t
  if !spareFree (code % 2 ^ 23) s then full s
  else if 2 ^ 23 ≤ code ∨ s.memh.rows.contains code then s
  else fset MEM_REP_USED_COUNT 0 (s.memh.rows.length + 1) { s with memh := { s.memh with rows := s.memh.rows ++ [code] } }

/-- The repair table is applied while DRAM ramps from having lost its contents, one entry per dot from the ramp's second dot on (R472). -/
def repairOn (s : State) : State :=
  if s.pwr.selfRefresh then s
  else match s.pwr.ramping.find? (fun e => e.1 == 2) with
    | some (_, fin) =>
      let i := s.time + domainRamp 2 s - fin - 1
      if decide (fin < s.time + domainRamp 2 s) && decide (i < min (repairCount s) 2048) then repairEntryOn i s else s
    | none => s

/-- Units of the domains that ramp. -/
def unitsUsed (s : State) : Nat := (s.pwr.ramping.map (fun e => domainUnits e.1)).sum

/-- DOMAIN_START (R444): the lowest waiting domain whose needs are on starts, or is deferred. -/
def execDomainStart (s : State) : Host.Outcome State Fault Refusal :=
  match s.pwr.waiting.find? (fun d => (domainNeeds d).all (fun n => domainOn n s)) with
  | none => .next s
  | some d =>
    let budget := fget PWR_BUDGET_UNITS 0 s
    if domainUnits d + unitsUsed s ≤ budget ∨ (budget < domainUnits d ∧ s.pwr.ramping = []) then
      let t := { s with pwr := { s.pwr with
        waiting := ndel d s.pwr.waiting, ramping := s.pwr.ramping ++ [(d, s.time + domainRamp d s)] } }
      .next (onlyIf (d == 2 && !s.pwr.selfRefresh) repairClear t)
    else if fbitAt PWR_DEFER_DOMAINS 0 d s || s.pwr.initial then .next s
    else .next (fadd PWR_WAKE_DEFERRED 0 1 (fsetBit PWR_DEFER_DOMAINS 0 d true s))

/-- The last domain is on (R447). -/
def wakeSettled (s : State) : State :=
  if s.pwr.waking && s.pwr.waiting.isEmpty && s.pwr.ramping.isEmpty then
    fset PWR_DONE_LO_LINE 0 s.pos.line (fset PWR_DONE_LO_DOT 0 s.pos.dot (fset PWR_DONE_HI_FRAME 0 s.pos.frame s))
  else s

/-- The reload of R445 starts: every region common, every half that is not masked off, and STORE are on. -/
def reloadStarts (s : State) : State :=
  let ready := (List.range 20).all (fun d => !(decide (3 ≤ d ∧ d < 15) || d == 19) || domainOn d s || (decide (7 ≤ d) && maskedOff d s)
    || !domainUsed d s)
  if decide (s.pwr.reload = .due) && ready then
    let s := { s with pwr := { s.pwr with reload := .running } }
    if fbit FAB_STAT_DEFAULTED 0 s then startDefault 0 0 s else startLoad (fget FAB_CTRL_SLOT 0 s) s
  else s

/-- The node codes of the audio block equal their targets after a restore (R441). -/
def audioRestored (s : State) : State :=
  { s with aud := { s.aud with codes := (sget [] s.regs XP_NODE_TARGET.id) } }

/-- Host core `k`, whose domain comes on, starts: at the boot ROM for core 0 of the first start, else at PWR_RESUME (R445, R475). -/
def startHost (k : Nat) (s : State) : State :=
  if s.pwr.initial then
    (if k = 0 then later 1 .bootRom (setCpu 0 { Cpu.init with state := .run, c := rootCaps, free := 4 * (s.time + 1) } s) else s)
  else startCoreAt k (fget PWR_RESUME_PC k s) s

/-- What comes about when domain `d` is on: restored items, cores, the boot sequencer, the NAND manager (R445, R471, R474). -/
def domainComesOn (d : Nat) (s : State) : State :=
  let s := onlyIf (!s.pwr.initial) (restoreDomain d) s
  let s := fsetBit PWR_DOMSTAT_ON 0 d true s
  let s := if d = 2 then { s with pwr := { s.pwr with selfRefresh := false } } else s
  let s := if 7 ≤ d ∧ d < 15 then forAll (halfClusters (d - 7)) (fun c t => stopCore (16 + c) (foff EXC_CTRL_IE (16 + c) t)) s else s
  let s := if 3 ≤ d ∧ d < 7 then stopCore (45 + d) (foff EXC_CTRL_IE (45 + d) s) else s
  let s := if 15 ≤ d ∧ d < 19 then startHost (d - 15) s else s
  let s := if d = 19 ∧ s.pwr.initial then later 4 (.cmd .bootHeaderRead) s else s
  let s := if d = 19 ∧ fbit NF_CTRL_EN 0 s then { s with nand := { s.nand with starting := true } } else s
  let s := onlyIf (d == 21) audioRestored s
  noteSources s.time s

/-- DOMAIN_ON (R444, R445): the ramp of domain `d` ends. -/
def execDomainOn (d : Fin 24) (s : State) : Host.Outcome State Fault Refusal :=
  if s.pwr.ramping.any (fun e => e.1 == d.val) then
    let s := { s with pwr := { s.pwr with ramping := s.pwr.ramping.filter (fun e => e.1 != d.val) } }
    .next (reloadStarts (wakeSettled (domainComesOn d s)))
  else .next s

/-- The domains that cannot start once domain `d` has failed. -/
def needsFailed (d e : Nat) : Bool :=
  (domainNeeds e).contains d || (domainNeeds e).any (fun n => (domainNeeds n).contains d || (domainNeeds n).any (fun m => (domainNeeds m).contains d))

/-- DOMAIN_RAMP_FAIL (R446): the domain stays off, and the wake goes on without it and without those that need it. -/
def execDomainRampFail (d : Fin 24) (s : State) : Host.Outcome State Fault Refusal :=
  if s.pwr.ramping.any (fun e => e.1 == d.val) then
    let s := { s with pwr := { s.pwr with
      ramping := s.pwr.ramping.filter (fun e => e.1 != d.val), waiting := s.pwr.waiting.filter (fun e => !needsFailed d e) } }
    .next (wakeSettled (report 0x1D1 0 0 (fset PWR_LASTERR_WHERE 0 d s)))
  else .next s

/-- PWR_WAKE as a word (R451). -/
def wakeWord (s : State) : Nat :=
  fget PWR_WAKE_SRC 0 s * 2 ^ 28 + fget PWR_WAKE_INDEX 0 s * 2 ^ 16 + fget PWR_WAKE_FROM 0 s * 2 ^ 12 + fget PWR_WAKE_DEFERRED 0 s

/-- RUN is reached as soon as nothing is left to start or to reload (R445). -/
def wakeOver (s : State) : Bool :=
  s.pwr.waking && s.pwr.waiting.isEmpty && s.pwr.ramping.isEmpty && !decide (s.pwr.reload = .running)

/-- RUN_REACHED (R445). -/
def execRunReached (s : State) : Host.Outcome State Fault Refusal :=
  if wakeOver s then
    let s := { s with pwr := { s.pwr with waking := false, initial := false, reload := .none } }
    .next (arrive 0x1C0 (wakeWord s) (foff PWR_STAT_BUSY 0 (fset PWR_STAT_STATE 0 0 s)))
  else .next s

/-! ### Reset and OFF (R449, R470) -/

/-- The device right after reset: what is not volatile or not the device's stays (R386, R391, R395, R470). -/
def resetDevice (s : State) : State :=
  let store (a : Nat) : Bool := inStore a
  { State.reset with
    part := s.part
    tscreen := s.tscreen
    fresh := s.fresh
    pending := s.pending
    mem := s.mem.filter (fun e => store e.1)
    poison := s.poison.filter (fun w => store (8 * w))
    soft := s.soft.filter (fun w => store (8 * w))
    nand := { NandH.init with
      targets := s.nand.targets, spb := s.nand.spb, formatted := s.nand.formatted, sealed := s.nand.sealed, data := s.nand.data
      blocks := s.nand.blocks, used := s.nand.used, wearAll := s.nand.wearAll, wear := s.nand.wear, low := s.nand.low
      sectors := s.nand.sectors, left := s.nand.left, reserve := s.nand.reserve, bad := s.nand.bad } }

/-- PSU_EN_LOW (R449): in OFF, 64 dots after the always-on domain went off, nothing holds a value any more; the wake pins that were
enabled can end OFF. -/
def execPsuEnLow (s : State) : Host.Outcome State Fault Refusal :=
  if fget PWR_STAT_STATE 0 s = 4 then
    let pins := fget PWR_WAKECFG_PIN_EN 0 s
    let t := resetDevice s
    .next (fset PWR_STAT_STATE 0 4 (fset PWR_WAKECFG_PIN_EN 0 pins { t with swp := { t.swp with stage := .supplies } }))
  else .next s

/-- OFF_WAKE (R449): PSU_EN goes high and the full sequence starts; leaving OFF is a device reset. -/
def execOffWake (s : State) : Host.Outcome State Fault Refusal :=
  .next (if fget PWR_STAT_STATE 0 s = 4 then resetDevice s else s)

end Sys2Proof.Machine
end

