-- ==== Sys2Proof/Machine/Reset.lean ====
section
/-! DEFINITION. Start-up, chip reset, loss of the root PLL, the boot sequencer and the boot ROM, core start, self-test, JTAG
(R21, R386, R388, R468 to R484). -/

namespace Sys2Proof.Machine

open Sys2Proof

/-! ### Reset and start (R468 to R471) -/

/-- The start sequence stands at a stage. -/
def setStage (g : Stage) (s : State) : State := { s with swp := { s.swp with stage := g } }

/-- DEVICE_RESET (R470): RESET_N is driven low. -/
def execDeviceReset (s : State) : Host.Outcome State Fault Refusal := .next (resetDevice s)

/-- PSU_EN_HIGH (R468). -/
def execPsuEnHigh (s : State) : Host.Outcome State Fault Refusal :=
  .next (if s.swp.stage = .supplies then setStage .held s else s)

/-- INTERNAL_RESET_RELEASE (R470): the root PLL begins to lock. -/
def execInternalResetRelease (s : State) : Host.Outcome State Fault Refusal :=
  .next (if s.swp.stage = .held then setStage .locking s else s)

/-- PLL_LOCK_RETRY (R470): the sequence holds and the PLL tries again. -/
def execPllLockRetry (s : State) : Host.Outcome State Fault Refusal := .next s

/-- SWEEP_START (R24, R470, R471): the sweep runs from 0:0:0, and the domains are brought on as a wake accepted in this dot. -/
def execSweepStart (s : State) : Host.Outcome State Fault Refusal :=
  if s.swp.stage = .locking then
    let s := fon PWR_STAT_BUSY 0 (fon SWP_STATUS_PLL_LOCK 0 (setStage .running s))
    .next (fire 0x0002 (fire 0x0003 { s with regs0 := s.regs, ctx0 := s.ctx, pwr := { s.pwr with
      waking := true, initial := true, waiting := domainsNeeded s, first := s.time + 1 } }))
  else .next s

/-! ### Chip reset and the root PLL (R21, R386, R388) -/

/-- A chip reset for source `src`: as a device reset, but the collector keeps its record (R386). -/
def chipReset (src : Nat) (s : State) : State :=
  let keep (f : Fld) (t : State) : State := { t with regs := sset [] t.regs f.id (sget [] s.regs f.id) }
  let t := forAll [FLT_RG_LO_BITS, FLT_RG_HI_BITS, FLT_PKG_BITS, TRAIL_W, FLT_TRAIL_COUNT, FLT_TRAIL_NEXT, FLT_STAT_FROZEN, FLT_STAT_LOST,
    FLT_TOTAL_COUNT, FLT_STAT_ERR] keep (resetDevice s)
  fset FLT_LASTRST_SOURCE 0 src (fon FLT_LASTRST_VALID 0 { t with flt := { t.flt with openLines := s.flt.openLines } })

/-- CHIP_RESET (R386). -/
def execChipReset (src : BitVec 10) (s : State) : Host.Outcome State Fault Refusal := .next (chipReset src.toNat s)

/-- SWP_PLL (R21, R388): the root PLL loses lock. The report is latched with the position of the last dot counted; ERR and CRESET act by
crystal edges, and the other reactions have no sweep to act on. -/
def execSwpPll (s : State) : Host.Outcome State Fault Refusal :=
  if s.swp.stage = .running then
    let s := setStage .lost (foff SWP_STATUS_PLL_LOCK 0 s)
    let e := reaction 0x100 s
    let r := trailReport ⟨0x100, 0, 0, s.time, s.pos⟩ (fadd FLT_TOTAL_COUNT 0 1 (setFaultBit 0x100 s))
    let s := onlyIf r.2.2 (fon FLT_STAT_FROZEN 0) r.1
    let s := onlyIf (e.testBit 6) (fon FLT_STAT_ERR 0) s
    .next (onlyIf (e.testBit 5) (chipReset 0x100) s)
  else .next s

/-- PLL_RELOCK (R21). -/
def execPllRelock (s : State) : Host.Outcome State Fault Refusal :=
  .next (if s.swp.stage = .lost then fon SWP_STATUS_PLL_LOCK 0 (setStage .relocked s) else s)

/-! ### The boot header and the boot ROM (R473 to R477) -/

/-- The first failure of the header at `b`, by the codes of R477; 0 where it passes. -/
def headerFails (b : Nat) (s : State) : Nat :=
  let len := mread (b + 8) 4 s
  if mread b 4 s ≠ 0x544F4F42 ∨ mread (b + 4) 2 s ≠ 1 ∨ mread (b + 6) 2 s ≠ 64 ∨ mread (b + 0x0C) 2 s / 16 ≠ 0 ∨ mread (b + 0x1C) 28 s ≠ 0 then 1
  else if len < 64 ∨ 8388608 < len ∨ len % 4 ≠ 0 then 2
  else if crc32c b 0x3C s ≠ mread (b + 0x3C) 4 s then 3
  else 0

/-- BOOT_HEADER_READ (R474): the boot sequencer has read the header; the image load or the default load starts. -/
def execBootHeaderRead (s : State) : Host.Outcome State Fault Refusal :=
  let b := 0x11000000
  let ok := headerFails b s == 0
  let s := fset BOOT_STAT_HDR_OK 0 ok.toNat s
  let flags := mread (b + 0x0C) 2 s
  if !mayLoad s then .next s
  else if ok && flags.testBit 2 then .next (startLoad (flags % 4) (fset FAB_CTRL_SLOT 0 (flags % 4) s))
  else .next (startDefault 0 0 s)

/-- Load-table entry `i` of the material at `b`: CORE, MEM, byte 3, SRC, DST, LEN (R473). -/
def loadEntry (b i : Nat) (s : State) : Nat × Nat × Nat × Nat × Nat × Nat :=
  let a := b + mread (b + 0x14) 4 s + 16 * i
  (mread a 2 s, mread (a + 2) 1 s, mread (a + 3) 1 s, mread (a + 4) 4 s, mread (a + 8) 4 s, mread (a + 12) 4 s)

/-- The size of a loop-core memory: code, data (R277). -/
def loopMemSize (mem : Nat) : Nat := if mem = 0 then 0x20000 else 0x10000

/-- The first address of a loop-core memory of core `core` (R277). -/
def loopMemBase (core mem : Nat) : Nat :=
  (if core < 48 then 0x4A000000 + 0x40000 * (core - 16) else 0x4A600000 + 0x40000 * (core - 48)) + (if mem = 0 then 0 else 0x20000)

/-- A load-table entry fails its check (R475). -/
def entryFails (len : Nat) (e : Nat × Nat × Nat × Nat × Nat × Nat) (s : State) : Bool :=
  let (core, mem, z, src, dst, n) := e
  !(decide (16 ≤ core ∧ core < 40) && clusterOn (core - 16) s || decide (48 ≤ core ∧ core < 52)) || decide (1 < mem) || z != 0
    || decide (len < src + n) || decide (loopMemSize mem < dst + n)

/-- The first failure of the boot material at `b` (R475, R477); 0 where it passes. -/
def materialFails (b : Nat) (s : State) : Nat :=
  let h := headerFails b s
  let len := mread (b + 8) 4 s
  let n := mread (b + 0x0E) 2 s
  let tab := mread (b + 0x14) 4 s
  if h ≠ 0 then h
  else if 64 < n ∨ tab % 16 ≠ 0 ∨ len < tab + 16 * n ∨ (List.range n).any (fun i => entryFails len (loadEntry b i s) s) then 4
  else if crc32c (b + 64) (len - 64) s ≠ mread (b + 0x38) 4 s then 5
  else 0

/-- Copy `n` bytes of memory. -/
def romCopy : Nat → Nat → Nat → State → State
  | _, _, 0, s => s
  | src, dst, n + 1, s => romCopy (src + 1) (dst + 1) n (putMem dst 1 (mget src s).toNat s)

/-- The ROM copies the load table's entries and jumps to base + ENTRY (R475). -/
def bootFrom (b src : Nat) (s : State) : State :=
  let s := forAll (List.range (mread (b + 0x0E) 2 s)) (fun i t =>
    let (core, mem, _, from_, dst, n) := loadEntry b i t
    romCopy (b + from_) (loopMemBase core mem + dst) n t) s
  let s := fset BOOT_STAT_SRC 0 src (fset BOOT_SERIAL_SERIAL 0 (mread (b + 0x18) 4 s) s)
  setCpu 0 { cpu 0 s with pc := (b + mread (b + 0x10) 4 s) % 2 ^ 32 } s

/-- The first `n` bytes of the SPI flash are copied to general SRAM (R476). -/
def flashCopy : Nat → State → State
  | 0, s => s
  | n + 1, s => putMem (0x20000000 + n) 1 (Config.spiByte n).toNat (flashCopy n s)

/-- No source passes (R477). -/
def bootFails (s : State) : State :=
  fset BOOT_STAT_SRC 0 3 (report 0x1E1 0 0 (fon FLT_STAT_ERR 0 (setCpu 0 { cpu 0 s with state := .wait } s)))

/-- The ROM tries SPI (R476). -/
def bootSpi (s : State) : State :=
  let s := forAll [224, 225, 226, 227] (fun p t => putPadWord p (padWord p t / 256 * 256 + 0x10) t) s
  let h := headerFails 0x20000000 (flashCopy 64 s)
  if h ≠ 0 then bootFails (fset BOOT_STAT_WHY_SPI 0 h s)
  else
    let s := flashCopy (mread 0x20000008 4 (flashCopy 64 s)) s
    let why := materialFails 0x20000000 s
    if why = 0 then bootFrom 0x20000000 2 s else bootFails (fset BOOT_STAT_WHY_SPI 0 why s)

/-- The boot ROM runs on host core 0 (R475). -/
def bootRom (s : State) : State :=
  let b := 0x11000000
  let why := materialFails b s
  if why = 0 then bootFrom b 1 s
  else
    let s := report 0x1E0 0 0 (fset BOOT_STAT_WHY_CS 0 why s)
    if headerFails b s = 0 ∧ (mread (b + 0x0C) 2 s).testBit 3 then bootFails s else bootSpi s

/-! ### Starting a core (R479) -/

/-- CORE_START with CORE.ID `i`. -/
def coreStart (i : Nat) (s : State) : State :=
  if !coreExists i s || !domainOn (coreHome i s) s || (decide ((cpu i s).state ≠ .off) && !fbit EXC_STAT_LOCKED i s) then
    fon BOOT_STAT_CFG_REFUSED 0 s
  else startCore i s

/-- CORE_START (R479). -/
def execCoreStart (core : Fin 64) (s : State) : Host.Outcome State Fault Refusal := .next (coreStart core s)

/-! ### Self-test (R480 to R482) -/

/-- A target of self-test exists. -/
def bistTarget (t : Nat) (s : State) : Bool :=
  decide (t < 4) || (decide (16 ≤ t ∧ t < 40) && clusterOn (t - 16) s) || decide (48 ≤ t ∧ t < 52)

/-- Why a start is refused; 0 where it is accepted (R481). -/
def bistRefused (kind t : Nat) (s : State) : Nat :=
  let c := t - 16
  let n := if t < 40 then c / 6 else t - 48
  let cluster := decide (16 ≤ t ∧ t < 40)
  if fbit BIST_STAT_BUSY 0 s then 1
  else if !bistTarget t s then 2
  else if !domainOn (coreDomain t) s then 3
  else if t < 4 ∧ (cpu t s).state ≠ .off ∧ fbit EXC_STAT_LOCKED t s = false then 4
  else if cluster ∧ regionStopped n s = false ∧ fbit LPE_STAT_SUBST c s = false then 5
  else if cluster ∧ kind = 1 ∧ fbit RSP_CFG_EN n s ∧ fget RSP_CFG_DESIG n s = c % 6 ∧ fbit RSP_STAT_IN_SERVICE n s = false then 6
  else if 48 ≤ t ∧ fbit RSP_STAT_IN_SERVICE n s then 7
  else 0

/-- The duration of a test in dots (R480). -/
def bistDots (kind t : Nat) : Nat :=
  if t < 4 then (if kind = 0 then 262144 else 25344) else if kind = 0 then 65536 else 48000

/-- The end of a self-test. -/
def isBistEnd (d : Due) : Bool :=
  match d with
  | .cmd (.bistEnd _) => true
  | _ => false

/-- A test starts in the next dot, or is refused (R481); it ends after its duration with the signature that the hardware forms, a free
value unless BIST_END gives it. -/
def bistStart (kind t : Nat) (s : State) : State :=
  let why := bistRefused kind t s
  if why ≠ 0 then fset BIST_STAT_REFUSE_WHY 0 why (fon BIST_STAT_CFG_REFUSED 0 s)
  else
    let s := nextFresh (later (1 + bistDots kind t) (.cmd (.bistEnd (Config.bistSignature s.fresh))) (dropDue isBistEnd s))
    fon BIST_STAT_BUSY 0 { s with test := { s.test with bist := some (t, kind) } }

/-- GO written to BIST_CTRL; a test that it starts is marked for the present dot (R481). -/
def bistCommand (kind t : Nat) (s : State) : State :=
  onlyIf (bistRefused kind t s == 0) (mark BIST_CTRL_KIND.id 0 1) (bistStart kind t s)

/-- BIST_CTRL_GO (R481): KIND and TARGET are written with GO. -/
def execBistCtrlGo (kind : Fin 2) (target : Fin 64) (s : State) : Host.Outcome State Fault Refusal :=
  .next (bistCommand kind target (fset BIST_CTRL_KIND 0 kind (fset BIST_CTRL_TARGET 0 target s)))

/-- A target is stopped, its logic at reset values (R482). -/
def targetReset (t : Nat) (s : State) : State :=
  if 16 ≤ t ∧ t < 40 then
    if fbit LPE_STAT_SUBST (t - 16) s then setCpu (48 + t) Cpu.init s
    else setEng (t - 16) { EngH.init with halted := (eng (t - 16) s).halted } (setCpu t Cpu.init s)
  else setCpu t Cpu.init s

/-- A target's memories are zero (R482): for a host core its refuge SRAM, for a cluster the memories of R120, for a spare its mirror. -/
def targetWipe (t : Nat) (s : State) : State :=
  if t < 4 then loseMemory (fun a => decide (0x47800000 + 0x1000 * t ≤ a ∧ a < 0x47801000 + 0x1000 * t)) s
  else if t < 40 then (if fbit LPE_STAT_SUBST (t - 16) s then ownWipe (t - 16) s else mirrorWipe (t - 16) (loseMemory (inMirror (t - 16)) s))
  else
    let n := t - 48
    setSpare n { spare n s with wiped := true }
      (loseMemory (fun a => decide (0x4A600000 + 0x40000 * n ≤ a ∧ a < 0x4A640000 + 0x40000 * n)) s)

/-- BIST_END (R482): the signature is compared with the store's entry. -/
def execBistEnd (sig : BitVec 64) (s : State) : Host.Outcome State Fault Refusal :=
  match s.test.bist with
  | none => .next s
  | some (t, kind) =>
    let s := if kind = 0 then targetReset t s else targetWipe t s
    let s := { dropDue isBistEnd s with test := { s.test with bist := none } }
    let r := readStore (0x11810000 + 16 * (64 * kind + t)) 16 s
    let v := r.1.getD 0
    let result := if v.testBit 64 then (if v % 2 ^ 64 = sig.toNat then 1 else 2) else 3
    let s := fset BIST_SIG_LO_SIG 0 sig.toNat (fset BIST_SIG_HI_SIG 0 (sig.toNat / 2 ^ 32) (fset BIST_STAT_RESULT 0 result
      (fon BIST_STAT_DONE 0 (foff BIST_STAT_BUSY 0 r.2))))
    .next (onlyIf (result == 2) (report 0x1E2 0 0) s)

/-! ### JTAG (R483, R484) -/

/-- A JTAG instruction is loaded and its data register captured. -/
def loadIr (ir : JtagIr) (dr : Nat) (s : State) : State :=
  fset JTAG_STAT_ACTIVE 0 (if ir = .bypass ∨ ir = .idcode then 0 else 1) { s with test := { s.test with ir := ir, dr := dr } }

/-- The levels of the general pins as a number: what the boundary cells capture. -/
def boundary (s : State) : Nat := gather 256 (fun p => s.pads.lvl.contains p)

/-- An instruction that takes the pins loads BYPASS instead while a region is not STOPPED (R484). -/
def loadPins (ir : JtagIr) (dr : Nat) (s : State) : State :=
  if allStopped s then loadIr ir dr s else fon JTAG_STAT_REFUSED 0 (loadIr .bypass 0 s)

/-- EXTEST (R484): the cells drive the pins. -/
def execExtest (cells : BitVec 256) (s : State) : Host.Outcome State Fault Refusal :=
  .next (if allStopped s then loadPins .extest (boundary s) { s with test := { s.test with cells := cells.toNat } }
    else loadPins .extest 0 s)

/-- IDCODE (R483). -/
def execIdcode (s : State) : Host.Outcome State Fault Refusal :=
  .next (loadIr .idcode (match s.part with
    | .pl9648 => 0x19648BC7
    | .pl9624 => 0x19624BC7) s)

/-- SAMPLE/PRELOAD (R483): the pins are captured, the cells are preloaded. -/
def execSamplePreload (cells : BitVec 256) (s : State) : Host.Outcome State Fault Refusal :=
  .next (loadIr .sample (boundary s) { s with test := { s.test with cells := cells.toNat } })

/-- CLAMP (R484). -/
def execClamp (s : State) : Host.Outcome State Fault Refusal := .next (loadPins .clamp 0 s)

/-- HIGHZ (R484). -/
def execHighz (s : State) : Host.Outcome State Fault Refusal := .next (loadPins .highz 0 s)

/-- The state without the test that a command started in the present dot. -/
def bistUndone (s : State) : State :=
  if held BIST_CTRL_KIND.id 0 s == 1 then foff BIST_STAT_BUSY 0 { dropDue isBistEnd s with test := { s.test with bist := none } } else s

/-- A start through JTAG: it takes the place of a test that a command started in the present dot, and the command is refused with code 1
(R481). -/
def bistJtag (kind t : Nat) (s : State) : State :=
  if held BIST_CTRL_KIND.id 0 s == 1 && bistRefused kind t (bistUndone s) == 0 then
    bistStart kind t (fset BIST_STAT_REFUSE_WHY 0 1 (fon BIST_STAT_CFG_REFUSED 0 (bistUndone s)))
  else bistStart kind t s

/-- BIST (R481, R484): a start through JTAG needs JTAG_CAP to hold BIST. -/
def execBist (kind : Fin 2) (target : Fin 64) (s : State) : Host.Outcome State Fault Refusal :=
  let s := loadIr .bist 0 s
  let k := slotCap JTAG_CAP_CAP 0 s
  if k.tag && !k.sealed && k.has permBIST then .next (bistJtag kind target s) else .next (fon JTAG_STAT_REFUSED 0 s)

/-- BISTRES (R483): BIST_SIG, then BIST_STAT. -/
def execBistres (s : State) : Host.Outcome State Fault Refusal :=
  .next (loadIr .bistres (fget BIST_SIG_LO_SIG 0 s + 2 ^ 32 * fget BIST_SIG_HI_SIG 0 s + 2 ^ 64 *
    (2 ^ 16 * fget BIST_STAT_REFUSE_WHY 0 s + 2 ^ 8 * fget BIST_STAT_RESULT 0 s + 4 * fget BIST_STAT_CFG_REFUSED 0 s
      + 2 * fget BIST_STAT_DONE 0 s + fget BIST_STAT_BUSY 0 s)) s)

/-- UID (R483). -/
def execUid (s : State) : Host.Outcome State Fault Refusal := .next (loadIr .uid Config.dieNumber.toNat s)

/-- BYPASS (R483). -/
def execBypass (s : State) : Host.Outcome State Fault Refusal := .next (loadIr .bypass 0 s)

end Sys2Proof.Machine
end

