-- ==== Sys2Proof/Machine/Timebase.lean ====
section
/-! DEFINITION. The sweep: the geometry commit, the synchronisation mode, a follower's step, the start of a line and of a frame
(R22 to R44). -/

namespace Sys2Proof.Machine

open Sys2Proof

/-! ### The geometry commit (R25 to R28) -/

/-- The staged fields of group GEOM. -/
def stagedGeom (s : State) : Geom :=
  ⟨fget SWP_LINE_DOTS 0 s, fget SWP_FRAME_LINES 0 s, fget SWP_AUDIO_K 0 s, fget SWP_DISP_FRAMES 0 s⟩

/-- The value that a commit brings: a staged field of zero leaves its quantity unchanged (R27). -/
def newOr (staged old : Nat) : Nat := if staged = 0 then old else staged

/-- The geometry that the staged values `g` would bring. -/
def geomWith (g : Geom) (s : State) : Geom :=
  let e := geomEff s
  ⟨newOr g.dots e.dots, newOr g.lines e.lines, newOr g.k e.k, newOr g.frames e.frames⟩

/-- Why a commit of `g` is refused, 0 where it is not: the first condition that fails, by its REJECT_WHY code (R22, R25, R31, R43). K and
FRAMES hold no value out of their range. -/
def geomWhy (g : Geom) (s : State) : Nat :=
  let w := geomWith g s
  if !allStopped s then 1
  else if fget SWP_CTRL_SYNC_MODE 0 s = 2 then 2
  else if g.dots ≠ 0 ∧ ¬ (1000 ≤ g.dots ∧ g.dots ≤ 16000 ∧ g.dots % 8 = 0) then 3
  else if g.lines ≠ 0 ∧ ¬ (20 ≤ g.lines ∧ g.lines ≤ 4000) then 4
  else if 255 < g.k then 5
  else if 255 < g.frames then 6
  else if w.dots * w.k % 125 ≠ 0 then 7
  else 0

/-- A request for a commit of group GEOM (R25, R27): refused with its reason, done at once where nothing is staged, else copied to wait for
the frame boundary in place of one that waits; one of nothing but zeros cancels what waits too (DESIGN CHOICE, log 78). -/
def geomCommit (s : State) : State :=
  let g := stagedGeom s
  match geomWhy g s with
  | 0 =>
    if g = ⟨0, 0, 0, 0⟩ then fon SWP_STATUS_GEOM_DONE 0 { s with swp := { s.swp with waiting := none } }
    else { s with swp := { s.swp with waiting := some g } }
  | why => report 0x101 0 0 (fset SWP_STATUS_REJECT_WHY 0 why (fon SWP_STATUS_GEOM_REJECT 0 s))

/-- GEOM_COMMIT (R25). -/
def execGeomCommit (s : State) : Host.Outcome State Fault Refusal := .next (geomCommit s)

/-- Group GEOM takes the values of `g` in effect. -/
def putGeom (g : Geom) (s : State) : State :=
  fset SWP_GEOM_EFF0_DOTS 0 g.dots (fset SWP_GEOM_EFF0_LINES 0 g.lines (fset SWP_GEOM_EFF1_K 0 g.k (fset SWP_GEOM_EFF1_FRAMES 0 g.frames
    (fset SWP_LINE_DOTS_E 0 g.dots (fset SWP_FRAME_LINES_E 0 g.lines (fset SWP_AUDIO_K_E 0 g.k (fset SWP_DISP_FRAMES_E 0 g.frames s)))))))

/-- A geometry change: the values come into effect and the phase origins move to this dot (R28, R30, R31, R339). -/
def geomChange (g : Geom) (s : State) : State :=
  let s := putGeom g s
  { s with swp := { s.swp with origin := s.time, origin0 := s.swp.origin, originLines := 0 } }

/-- The position is the first dot of a frame. -/
def atBoundary (s : State) : Bool := s.pos.line == 0 && s.pos.dot == 0

/-- GEOM_COMMIT_EFFECT (R26): at a frame boundary the commit that waits takes effect. -/
def geomEffect (s : State) : State :=
  match s.swp.waiting with
  | some g =>
    if atBoundary s then
      fon SWP_STATUS_GEOM_DONE 0 (geomChange (geomWith g s) { s with swp := { s.swp with waiting := none } })
    else s
  | none => s

/-- GEOM_COMMIT_EFFECT (R26). -/
def execGeomCommitEffect (s : State) : Host.Outcome State Fault Refusal := .next (geomEffect s)

/-! ### The synchronisation mode (R36, R42) -/

/-- A write of SYNC_MODE and REF_PORT (R36, R43, R500): a change is taken only while all regions are STOPPED; the reserved code 3 leaves
SYNC_MODE and sets MODE_REJECT. -/
def modeWrite (m p : Nat) (s : State) : State :=
  let change := (m ≠ fget SWP_CTRL_SYNC_MODE 0 s ∧ m ≠ 3) ∨ p ≠ fget SWP_CTRL_REF_PORT 0 s
  if change ∧ !allStopped s then fon SWP_STATUS_MODE_REJECT 0 s
  else
    let s := fset SWP_CTRL_REF_PORT 0 p s
    if m = 3 then fon SWP_STATUS_MODE_REJECT 0 s else fset SWP_CTRL_SYNC_MODE 0 m s

/-- SYNC_MODE (R36). -/
def execSyncMode (m : Fin 4) (s : State) : Host.Outcome State Fault Refusal := .next (modeWrite m (fget SWP_CTRL_REF_PORT 0 s) s)

/-- REF_PORT (R36). -/
def execRefPort (p : Fin 4) (s : State) : Host.Outcome State Fault Refusal := .next (modeWrite (fget SWP_CTRL_SYNC_MODE 0 s) p s)

/-- LNK_STAT shows port `p` as the timing port of a follower: in use where it was a candidate in the frame just ended (R179, R184). -/
def showTiming (p : Nat) (s : State) : State :=
  let on := fbit LNK_PSTAT_CAND p s
  fset LNK_STAT_TVALID 0 on.toNat (fset LNK_STAT_TPORT 0 p (fset LNK_STAT_HOPS 0 (if on then fget LNK_PTHOPS_HOPS p s + 1 else 1023) s))

/-- The ports that are UP originate timing pairs in master mode alone, and relay them in follower mode alone (R165, R177). -/
def pairsDue (s : State) : State :=
  forAll (List.range 4) (fun p t =>
    let h := port p t
    setPort p { h with pairDue := portUp p t && t.swp.mode == 1, relay := if t.swp.mode = 2 then h.relay else none } t) s

/-- The mode that the fields hold takes effect (R42): into follower mode STATE becomes HOLDOVER, out of it FREE, with no report; a new
REF_PORT becomes the timing port, of which a follower reports the change (R179, R183). -/
def modeEffect (s : State) : State :=
  let m := fget SWP_CTRL_SYNC_MODE 0 s
  let p := fget SWP_CTRL_REF_PORT 0 s
  let was := s.swp.mode
  if m = was ∧ p = s.swp.port then s
  else
    let s := if was = 2 ∧ m = 2 ∧ p ≠ s.link.tport then report 0x111 0 0 s else s
    let s := { s with swp := { s.swp with mode := m, port := p }, link := { s.link with tport := p } }
    let s := pairsDue (if m = 2 then showTiming p s else fset LNK_STAT_HOPS 0 1023 (foff LNK_STAT_TVALID 0 s))
    if m = was then s
    else
      let s := { s with swp := { s.swp with armed := false, inBand := 0, outBand := 0, missing := 0, measured := false, phase := 0 } }
      if m = 2 then fset SWP_STATUS_STATE 0 3 s
      else if was = 2 then fset SWP_PHASE_ERR_ERR 0 0 (foff SWP_STATUS_STEP_PENDING 0 (fset SWP_STATUS_STATE 0 0 s))
      else s

/-- MODE_CHANGE_EFFECT (R42): at a frame boundary. -/
def execModeChangeEffect (s : State) : Host.Outcome State Fault Refusal := .next (if atBoundary s then modeEffect s else s)

/-! ### Lines and frames (R9, R23, R33, R39) -/

/-- PUTW writes that cross at this LINE_START are applied, for readers in this dot too; the others have a line less to go (R33, R101). -/
def crossings (s : State) : State :=
  let now := s.cross.filter (fun e => decide (e.left ≤ 1))
  let s := { s with cross := (s.cross.filter (fun e => decide (1 < e.left))).map (fun e => { e with left := e.left - 1 }) }
  let s := forAll now (fun e t => ctxMerge e.ctx [e.word] (ctxApply e.ctx e.word e.value) t) s
  { s with ctx0 := s.ctx }

/-- The hold-off counts fall by 1 (R267); one that reaches 0 lets its line rise. -/
def holdCounts (s : State) : State :=
  forAll (List.range 8) (fun q t =>
    let n := fget EVQ_HOLD_COUNT q t
    if n = 0 then t
    else if n = 1 then (if h : q < 8 then later 0 (.cmd (.evqHoldExpiry ⟨q, h⟩)) t else t)
    else fset EVQ_HOLD_COUNT q (n - 1) t) s

/-- Open Trail entries count this LINE_START and close at the MERGE_LINES-th, unless the Trail is frozen or STICKY is 1 (R380, R381). -/
def trailCounts (s : State) : State :=
  if fbit FLT_STAT_FROZEN 0 s || fbit FLT_CFG_STICKY 0 s then s
  else forAll (List.range 32) (fun i t =>
    if entryOpen i t then
      let n := sget 0 t.flt.openLines i + 1
      let t := { t with flt := { t.flt with openLines := sset 0 t.flt.openLines i n } }
      if fget FLT_CFG_MERGE_LINES 0 t ≤ n then closeEntry i t else t
    else t) s

/-- The engine cycles that the runs of cluster `c` have used in the line, up to the cycle `k` in which the next line begins. -/
def lineCycles (c k : Nat) (s : State) : Nat :=
  let h := eng c s
  h.busy + match h.run with
    | some r => k - max h.from_ r.start
    | none => 0

/-- The engine cycles of the line just ended become LPE_BUSY.BUSY (R124). -/
def busyCounts (s : State) : State :=
  forAll (List.range 24) (fun c t =>
    setEng c { eng c t with busy := 0, from_ := 2 * t.time } (fset LPE_BUSY_BUSY c (lineCycles c (2 * t.time) t) t)) s

/-- A follower that steers removes at most one fine step of its phase in a line (R39). -/
def slew (s : State) : State :=
  let st := fget SWP_STATUS_STATE 0 s
  if st = 1 ∨ st = 2 then
    let p := s.swp.phase
    { s with swp := { s.swp with phase := if p > 0 then p - 1 else if p < 0 then p + 1 else 0 } }
  else s

/-- A line begins at dot 0: LINE_START is issued and the level crossings clock (R23, R33, R39). -/
def lineBegins (s : State) : State :=
  let s := fire 0x0002 { s with ctx2 := s.ctx1, ctx1 := s.ctx, regs1 := s.regs, mem1 := s.mem, swp := { s.swp with originLines := s.swp.originLines + 1 } }
  let s := slew (busyCounts (trailCounts (holdCounts (crossings s))))
  if s.pos.line = 1 then linkLineOne s else s

/-- A frame begins: FRAME_START is issued, the mailbox words and the frame counts of the link act, a frame without a measurement is
counted (R23, R38, R102). -/
def frameBegins (s : State) : State := fire 0x0003 (linkFrameStart (syncFrameEnd s))

/-- LINE_START (R9, R23): the dot count has reached the line length. -/
def lineStart (s : State) : State :=
  if dotsEff s ≤ s.pos.dot then lineBegins { s with pos := ⟨s.pos.frame, s.pos.line + 1, 0⟩ } else s

/-- LINE_START (R23). -/
def execLineStart (s : State) : Host.Outcome State Fault Refusal := .next (lineStart s)

/-- FRAME_START (R9, R23): the line count has reached the frame length; the frame number carries on modulo 2^32. -/
def frameStart (s : State) : State :=
  if linesEff s ≤ s.pos.line then frameBegins { s with pos := ⟨(s.pos.frame + 1) % 2 ^ 32, 0, s.pos.dot⟩ } else s

/-- FRAME_START (R23). -/
def execFrameStart (s : State) : Host.Outcome State Fault Refusal := .next (frameStart s)

/-! ### A follower's step (R40) -/

/-- STEP_ARM: the pending step is armed while all four regions are STOPPED. -/
def stepArm (s : State) : State :=
  if fbit SWP_STATUS_STEP_PENDING 0 s && allStopped s then { s with swp := { s.swp with armed := true } } else s

/-- STEP_ARM (R40). -/
def execStepArm (s : State) : Host.Outcome State Fault Refusal := .next (stepArm s)

/-- The present dot is the step dot: the master's frame begins nearest to it (R40). -/
def stepDot (s : State) : Bool := stepWithin 0 s

/-- FOLLOWER_STEP (R40): the follower ends its frame, takes the master's geometry and frame number, begins the master's frame in this dot
and enters LOCKING; what remains of the phase is slewed away. A geometry commit or a mode change that still waits takes effect in this dot
too, after the master's geometry (DESIGN CHOICE, log 95). -/
def followerStep (s : State) : State :=
  match stepFrame s with
  | some (g, f, at_) =>
    if s.swp.armed then
      let s := { s with pos := ⟨f, 0, 0⟩, swp := { s.swp with armed := false, phase := at_ - 32 * s.time } }
      let s := frameBegins (lineBegins s)
      let s := syncCounts 0 0 (fset SWP_STATUS_STATE 0 1 (foff SWP_STATUS_STEP_PENDING 0 s))
      modeEffect (geomEffect (geomChange g s))
    else s
  | none => s

/-- FOLLOWER_STEP (R40). -/
def execFollowerStep (s : State) : Host.Outcome State Fault Refusal := .next (followerStep s)

/-! ### The position (R44) -/

/-- A read of SWP_NOW_LO answers the line and dot and copies the frame number into SWP_NOW_HI. -/
def readNow (s : State) : State := answer (posLo s.pos) (fset SWP_NOW_HI_FRAME 0 s.pos.frame s)

/-- SWP_NOW_LO_READ (R44). -/
def execSwpNowLoRead (s : State) : Host.Outcome State Fault Refusal := .next (readNow s)

end Sys2Proof.Machine
end

