-- ==== Sys2Proof/Machine/Access.lean ====
section
/-! DEFINITION. Reads and writes of the register blocks by address: which addresses exist, what a read gives, what a write does or
refuses (R5, R12 to R15, R276, R278, R500 and the register map of each chapter). -/

namespace Sys2Proof.Machine

open Sys2Proof

/-! ### The map (R5, R257, R276, R277) -/

/-- `a` lies in [lo, lo + n). -/
def within (a lo n : Nat) : Bool := decide (lo ≤ a) && decide (a < lo + n)

/-- The cluster whose block holds address `a`: the blocks of a cluster with their first addresses and strides. -/
def blockCluster (a : Nat) : Option Nat :=
  [(0x41000000, 0x1000), (0x42000000, 0x1000), (0x44000000, 0x10000), (0x45100000, 0x100), (0x48100000, 0x200), (0x4A000000, 0x40000)].findSome?
    (fun b => if within a b.1 (24 * b.2) then some ((a - b.1) / b.2) else none)

/-- The core whose control block or refuge SRAM holds address `a` (R253, R257). -/
def blockCore (a : Nat) : Option Nat :=
  if within a 0x47000000 (64 * 0x400) then some ((a - 0x47000000) / 0x400)
  else if within a 0x47800000 (64 * 0x1000) then some ((a - 0x47800000) / 0x1000) else none

/-- The block of address `a` belongs to a cluster or a core that the part has (R5, R257); the memories of a target under self-test serve
nothing (R482): an access to them is a bus error (DESIGN CHOICE, log 64). -/
def blockPresent (a : Nat) (s : State) : Bool :=
  (match blockCluster a with
    | some c => clusterOn c s
    | none => true)
    && (match blockCore a with
      | some i => decide (i < 4) || (decide (16 ≤ i ∧ i < 40) && clusterOn (i - 16) s) || decide (48 ≤ i ∧ i < 52)
      | none => true)
    && !underTest a s

/-- Offsets that a chapter reserves: they read zero and ignore writes (R73, R141, R300, R325, R390, R418, R467). -/
def reservedAt (a : Nat) : Bool :=
  (within a 0x41000000 0x18000 && decide (a % 0x1000 < 0x300) && decide (0x50 ≤ a % 0x80))
    || (within a 0x45100000 0x1800 && (a % 0x40 / 4 == 5 || decide (0x38 ≤ a % 0x40)))
    || (within a 0x49101000 0x2000 && decide (0x4C ≤ a % 0x80))
    || within a 0x4C000000 0x20000
    || (within a 0x4E000000 0x100000 && (within (a % 0x100000) 0xA0 0x760 || decide (0x1400 ≤ a % 0x100000)))
    || within a 0x50000000 0x20000 || within a 0x51000000 0x1000

/-- A view of values in effect: the address of the shadow register that it shows (R73, R141, R301, R349). -/
def viewOf (a : Nat) : Option Nat :=
  if within a 0x41000000 0x18000 && decide (a % 0x1000 < 0x300) && within (a % 0x80) 0x30 0x1C then some (a - 0x28)
  else if within a 0x45100000 0x1800 && within (a % 0x40) 0x2C 0xC then some (a - 0x24)
  else if within a 0x4C010000 0x10000 || within a 0x4C110000 0x10000 then some (a - 0x10000)
  else none

/-- The memories among the device blocks that are held byte by byte: the loop cores' memories (R277). The refuge SRAMs answer only to
their own cores (R253). -/
def byteMemory (a : Nat) : Bool := within a 0x4A000000 0x700000 && decide (a % 0x40000 < 0x30000)

/-- The memories of a loop engine (R99, R103, R276): which one address `a` is in, by its offset. -/
inductive LpeArea where
  | context (g w : Nat)
  | program
  | local_ (t : Nat)
  | slots
deriving DecidableEq, Repr

/-- The loop-engine memory at address `a`. -/
def lpeArea (a : Nat) : Option LpeArea :=
  if within a 0x44000000 0x180000 then
    let c := (a - 0x44000000) / 0x10000
    let o := a % 0x10000
    if o < 0x8000 then some (.context (128 * c + o / 256) (o % 256 / 4))
    else if o < 0xC000 then some .program
    else if o < 0xE000 then some (.local_ ((o - 0xC000) / 4))
    else if o < 0xE800 then some .slots else none
  else none

/-- The pixel and the line of the scan position (R339, R341). -/
def scanPos (s : State) : Nat × Nat :=
  match s.scan.origin with
  | none => (0, 0)
  | some o =>
    let t := s.scan.timing
    let e := s.time - o
    let p := if t.free then e * t.n / (16 * t.m) - s.scan.index * t.htotal * t.vtotal else 2 * e / 5
    (p % t.htotal, p / t.htotal % 2048)

/-- The bits of the cores that have been started, from core `lo` on. -/
def coresRun (lo n : Nat) (s : State) : Nat :=
  gather n (fun i => decide ((cpu (lo + i) s).state ≠ .off))

/-- What the DMA engines have in flight, at most `n`: nothing while no channel is BUSY (R293, R300); how much is open (DESIGN CHOICE,
log 85). -/
def dmaFlight (k n : Nat) (s : State) : Nat :=
  if (List.range 64).any (fun ch => fbit CH_STAT_BUSY ch s) then Config.requests k s.time % (n + 1) else 0

/-- The fields that follow from other state: for a register's first address, what they hold. -/
def settleTable : List (Nat × (Nat → State → State)) := [
  (0x41018404, fun _ s => fshow LTRIP_STAT_LEVEL 0 (gather 8 (fun n => lineOn n s)) s),
  (0x42000400, fun u s => fshow SDF_COM_CLK_OK u (!(fseen SDF_COM_CLK_SRC u s == 1) || fseen SDF_COM_CLK_OK u s == 1).toNat s),

  (0x46000018, fun _ s => fshow LNK_STAT_WIN_OFF 0 (decide (linesEff s ≤ s.link.win)).toNat s),
  (0x48000114, fun u s => fshow EVQ_STAT_NONEMPTY u (queueNonempty u s).toNat s),
  (0x4900009C, fun _ s => fshow MEM_INFLIGHT_NOW 0 (Config.requests 0 s.time % 2049)
    (fshow MEM_INFLIGHT_MAX 0 (max (Config.requests 0 s.time % 2049) (Config.requests 1 s.time % 2049)) s)),
  (0x49100000, fun _ s => fshow DMA_STAT_READS 0 (dmaFlight 2 1024 s) (fshow DMA_STAT_WRITES 0 (dmaFlight 3 512 s) s)),
  (0x49100004, fun _ s => fshow DMA_BUF_BLOCKS 0 (dmaFlight 4 64 s) s),
  (0x4C100068, fun _ s => fshow SCN_POS_VBLANK 0 (fget SCN_STAT_VBLANK 0 s) (fshow SCN_POS_PIXEL 0 (scanPos s).1 (fshow SCN_POS_LINE 0 (scanPos s).2 s))),
  (0x4D000004, fun _ s => fshow AUD_STAT_RATE_OFF 0 (!audioRuns s).toNat s),
  (0x4D000904, fun u s => fshow TDM_STAT_SLOTS u (tdmSlots s) s),
  (0x4E000000, fun _ s => fshow FLT_SUM_LO_SUM 0 (fltSum s) s),
  (0x4E000004, fun _ s => fshow FLT_SUM_HI_SUM 0 (fltSum s / 2 ^ 32) s),
  (0x4F000044, fun _ s => fshow NF_DONE0_WORD0 0 (nandDone0 s) s),
  (0x51000820, fun u s => fshow PAD_IN_LEVEL u (gather 32 (fun b => s.pads.lvl2.contains (32 * u + b))) s),
  (0x4E200000, fun _ s => fshow ID_LO_CLEN 0 (clusterEnable s) s),
  (0x4E200004, fun _ s => fshow ID_HI_PART 0 (if s.part = .pl9648 then 0x9648 else 0x9624) (fshow ID_HI_STEP 0 1
    (fshow ID_HI_TSCREEN 0 s.tscreen.toNat s))),
  (0x4E200008, fun _ s => fshow ID_UID_LO_UID 0 Config.dieNumber.toNat s),
  (0x4E20000C, fun _ s => fshow ID_UID_HI_UID 0 (Config.dieNumber.toNat / 2 ^ 32) s),
  (0x4E200024, fun _ s => fshow CORE_RUN_LO_RUN 0 (coresRun 0 32 s) s),
  (0x4E200028, fun _ s => fshow CORE_RUN_HI_RUN 0 (coresRun 32 20 s) s),
  (0x4E200310, fun _ s => fshow JTAG_STAT_ACTIVE 0 (s.test.ir != .bypass && s.test.ir != .idcode).toNat s)]

/-- A register of which the fields that follow from other state hold what they should. -/
def settled (b u : Nat) (s : State) : State :=
  match settleTable.find? (fun e => e.1 == b) with
  | some e => e.2 u s
  | none => s

/-! ### Reads -/

/-- The answer of a read that leaves its word in the response. -/
def answered (f : State → State) (s : State) : Option Nat × State :=
  let t := f s
  (some t.resp.data.toNat, { t with resp := s.resp })

/-- Reads with an effect of their own: for a register's first address, the effect (R43, R270, R408, R431). -/
def readHooks (req : Nat) : List (Nat × (Nat → State → State)) := [
  (0x40000018, fun _ s => readNow s),
  (0x48100100, fun u s => lcdRead u req s),
  (0x4F000048, fun _ s => nandDone1 s),
  (0x50300008, fun _ s => uartRead s),
  (0x50302010, fun _ s => spiRead s)]

/-- A field that a read answers as it stands in the dot of the read: the counts of legs and timers, the figures of the line or frame
that the dot before completed (R73, R124, R141, R184, R185). -/
def readsNow (f : FieldRow) : Bool :=
  [LEG_COUNT_COUNT.id, TMR_COUNT_COUNT.id, LPE_BUSY_BUSY.id, LNK_FTX_COUNT.id, LNK_FRX_COUNT.id, LNK_FMATCH_COUNT.id, LNK_FLATE_COUNT.id,
    LNK_PFRAME_RX.id, LNK_PFRAME_TX.id].contains f.fld.id

/-- What a read answers for a field: WO fields read 0, RC fields as they stood before the dot (R12, R13). -/
def seenField (f : FieldRow) (u : Nat) (s : State) : Nat :=
  match f.acc with
  | .wo => 0
  | _ => if readsNow f then fget f.fld u s else fseen f.fld u s

/-- The word that a read of a register row answers. -/
def seenWord (r : RegRow) (u : Nat) (s : State) : Nat := r.fields.foldl (fun n f => n + seenField f u s * 2 ^ f.lo) 0

/-- A read of a register row: its word, and its RC fields cleared (R12). -/
def readRow (r : RegRow) (u req : Nat) (s : State) : Option Nat × State :=
  match (readHooks req).find? (fun e => e.1 == r.base) with
  | some e => answered (e.2 u) s
  | none => (some (seenWord r u (settled r.base u s)),
      forAll r.fields (fun f t => match f.acc with
        | .rc => fread f.fld u t
        | _ => t) s)

/-- The values in effect of a register's SH fields, as its word (R14). -/
def effWord (r : RegRow) (u : Nat) (s : State) : Nat :=
  r.fields.foldl (fun n f => match f.acc with
    | .sh => n + fseen f.eff u s * 2 ^ f.lo
    | _ => n) 0

/-- The register has an SH field. -/
def hasShadow (r : RegRow) : Bool := r.fields.any (fun f => match f.acc with
  | .sh => true
  | _ => false)

/-- The view of the values in effect at address `a`. -/
def readView (a : Nat) (s : State) : Option Nat :=
  match viewOf a with
  | none => none
  | some h => match findReg h with
    | some (r, u) => if hasShadow r then some (effWord r u s) else none
    | none => none

/-- A word of a loop-engine memory. -/
def lpeRead (a : Nat) (m : LpeArea) (s : State) : Nat :=
  match m with
  | .context g w => ctxRead g w s
  | _ => mread a 4 s

/-- Word `i` of a capability slot (R257). -/
def slotWord (F : CapFld) (u i : Nat) (s : State) : Nat := (slotCap F u s).v.toNat / 2 ^ (32 * i) % 2 ^ 32

/-- A word of the route table: SINK reads as the entry's own number (R133). -/
def routeWord (a : Nat) (s : State) : Nat :=
  let k := (a - 0x45000000) / 16
  if a % 16 = 0 then mread a 4 s / 2 ^ 16 * 2 ^ 16 + k else mread a 4 s

/-- Read the 32-bit word at the device address `a`, a multiple of 4, for requester `req`: the word, or `none` for a bus error (R5,
R12, R276, R278). -/
def readWord (a req : Nat) (s : State) : Option Nat × State :=
  if !blockPresent a s then (none, s)
  else match findReg a with
  | some (r, u) => readRow r u req s
  | none =>
    match findSlot (a / 16 * 16) with
    | some (k, u) => (some (slotWord k.cap u (a % 16 / 4) s), s)
    | none =>
      match lpeArea a with
      | some m => (some (lpeRead a m s), s)
      | none =>
        match readView a s with
        | some v => (some v, s)
        | none =>
          if within a 0x45000000 0x6C00 then (some (routeWord a s), s)
          else if within a 0x48003000 0x400 then (some 0, s)
          else if within a 0x4E000800 0x800 then (some (sget 0 s.rct ((a - 0x4E000800) / 4)), s)
          else if reservedAt a then (some 0, s) else (none, s)

/-! ### What a write may not change (R72, R77, R145, R184, R289, R323, R330, R408, R409, R500) -/

/-- The fields that a block holds fixed while one of its bits is 1: the field, the bit. -/
def fixedFields : List (Fld × Fld) :=
  [(ETH_CTRL_MODE, ETH_CTRL_EN)]
    ++ [PCIE_CTRL_MAXWIDTH, PCIE_CTRL_MAXGEN, PCIE_ID0_DEVICE, PCIE_ID0_VENDOR, PCIE_ID1_SUBSYS, PCIE_ID1_SUBVENDOR, PCIE_ID2_CLASS,
        PCIE_BAR0_LOG2SIZE].map (·, PCIE_CTRL_EN)
    ++ [CAN_CTRL_FD_EN, CAN_CTRL_MODE, CAN_NBT_SJW, CAN_NBT_TSEG2, CAN_NBT_TSEG1, CAN_NBT_BRP, CAN_DBT_SJW, CAN_DBT_TSEG2,
        CAN_DBT_TSEG1, CAN_DBT_BRP, CAN_TDC_EN, CAN_TDC_OFFSET].map (·, CAN_CTRL_EN)
    ++ [UART_CTRL_RS485, UART_CTRL_FLOW, UART_CTRL_STOP2, UART_CTRL_PARITY, UART_CTRL_BITS, UART_DIV_FRAC, UART_DIV_DIV].map
        (·, UART_CTRL_EN)
    ++ [(I2C_CTRL_SPEED, I2C_CTRL_EN)]
    ++ [SPI_CTRL_DIV, SPI_CTRL_WORD, SPI_CTRL_LSBFIRST, SPI_MODE_MODE].map (·, SPI_CTRL_EN)
    ++ [NF_CFG_CANTEEN, NF_CFG_LOW_WATER, NF_CFG2_WL_DELTA, NF_CFG2_REFRESH_BITS, NF_WORK_BASE].map (·, NF_CTRL_EN)
    ++ [LNK_ADDR_ADDR, LNK_TOPO_GROUPS, LNK_TOPO_RINGS, LNK_TOPO_RING_SIZE, LNK_DIR_BASE].map (·, LNK_CTRL_EN)
    ++ [(REF_PC_PC, EXC_CTRL_REF_LOCK), (CH_DESC_ADDR, CH_STAT_BUSY), (CH_CFG_PRIO, CH_STAT_BUSY)]
    ++ [BE_OP_PAL, BE_OP_DFMT, BE_OP_SFMT, BE_OP_YDIR, BE_OP_OP, BE_SRC_ADDR, BE_SPITCH_PITCH, BE_DST_ADDR, BE_DPITCH_PITCH, BE_SIZE_H,
        BE_SIZE_W, BE_COLOUR_COLOUR, BE_KEY_KEY, BE_KMASK_MASK, BE_CFG_COMPAT, BE_CFG_GAP].map (·, BE_STAT_BUSY)
    ++ [FL_DST_ADDR, FL_PITCH_PITCH, FL_SIZE_H, FL_SIZE_W, FL_BG_RGB, BM_CFG_GA, BM_CFG_FMT, BM_CFG_EN, BM_ADDR_ADDR, BM_PITCH_PITCH,
        BM_SIZE_H, BM_SIZE_W, BM_POS_Y, BM_POS_X, BM_CTLEN_BYTES].map (·, FL_STAT_BUSY)

/-- Field `F` of unit `u` may not change now. -/
def fixedNow (F : Fld) (u : Nat) (s : State) : Bool :=
  match fixedFields.find? (fun e => e.1.id == F.id) with
  | some e => fbit e.2 (if e.2.id = FL_STAT_BUSY.id then 0 else u) s
  | none => false

/-- The stop-only fields of the register at `a` may not change now: its region, for LTRIP_FILT any region, is in RUN (R72, R77,
R141, R272). -/
def stopLocked (a u : Nat) (s : State) : Bool :=
  let per (n : Nat) : Bool := !regionStopped (u / n) s
  if within a 0x41000000 0x18000 then (if a % 0x1000 < 0x300 then per 36 else per 6)
  else if a = 0x41018400 then !allStopped s
  else if within a 0x41018000 0x400 then per 1
  else if within a 0x42000000 0x18000 then (if a % 0x1000 < 0x400 then per 96 else if a % 0x1000 < 0x800 then per 6 else per 12)
  else if within a 0x43000000 0x8000 then
    (if a % 0x2000 < 0x800 then (if within (a % 0x200) 0x40 0x40 then per 64 else per 4) else if a % 0x2000 < 0x1000 then per 16 else per 6)
  else if within a 0x45100000 0x1800 then per 24
  else if within a 0x48100000 0x3000 then per 192
  else false

/-- A voice is enabled with LOOP at 1 and no loop within its samples: EN refuses (R357). -/
def loopBad (u v : Nat) (s : State) : Bool := v.testBit 31 && v.testBit 30 && decide (fget VC_PCM_LEN_LEN u s ≤ fget VC_PCM_LOOP_START u s)

/-- The field refuses its part of the word (R500). -/
def fieldBad (f : FieldRow) (a u v : Nat) (s : State) : Bool :=
  let x := fieldOf f v
  let open_ := match f.acc with
    | .rw => true
    | .sh => true
    | _ => false
  open_ && (outOfRange f.fld x || (f.fld.id == VC_CFG_EN.id && loopBad u v s) || (fget f.fld u s != x && ((f.stop && stopLocked a u s) || fixedNow f.fld u s)))

/-- Global context `g` names no context, or one of a cluster that the part lacks (R311, R361). -/
def ctxBad (g : Nat) (s : State) : Bool := decide (3072 ≤ g) || !clusterOn (g / 128) s

/-- A word whose fields do not agree with one another, or with the part, refuses as a whole (R91, R138, R361, R365, R425). -/
def crossBad (b u v : Nat) (s : State) : Bool :=
  if b = 0x43001000 then (if bits v 31 30 = 3 then fget SEU_CFG_PROTO u s != 0 else bits v 31 30 != 0) && decide (bits v 7 0 < 20)
  else if b = 0x45100004 then
    let m := u / 24 * 24 + bits v 12 8
    bits v 5 4 != 0 && (m == u || !clusterOn (m / 4) s)
  else if b = 0x50200008 then decide (bits v 24 18 < bits v 31 25)
  else if b = 0x5020000C then decide (bits v 19 16 < bits v 23 20)
  else if b = 0x4D008004 then decide (bits v 31 16 < bits v 15 0)
  else if b = 0x4D000A00 then
    if v.testBit 30 then decide (384 ≤ bits v 23 12) || !clusterOn (bits v 23 12 / 16) s else ctxBad (bits v 23 12) s
  else false

/-- Fields that refuse a value by what it names: the context of a trace tap (R311), MODE 3 of a TDM port and MODE 2 of ports 0 and 1
(R368). -/
def nameBad (F : Fld) (u x : Nat) (s : State) : Bool :=
  (F.id == TRC_TAP_CTX.id && ctxBad x s) || (F.id == TDM_CFG_MODE.id && (x == 3 || (x == 2 && decide (u < 2))))

/-- A refused write of the register changes nothing at all (R138, R141, R184, R409, R451). -/
def wholeAt (a : Nat) : Bool :=
  within a 0x45100000 0x1800 || a == 0x46000014 || within a 0x50000000 0x1000000 || within a 0x4E100000 0x100000

/-- The refusal bit that a write of the register at `a`, with unit `u`, sets. -/
def refuseAt (a u : Nat) (s : State) : State :=
  if within a 0x41000000 0x18000 then (if a % 0x1000 < 0x300 then fon LEG_STAT_CFG_REFUSED u s else fon CLG_CONV_CFG_REFUSED u s)
  else if within a 0x41018000 0x400 then fon RLG_STAGGER_CFG_REFUSED u s
  else if within a 0x41018400 0x100 then fon LTRIP_STAT_CFG_REFUSED 0 s
  else if within a 0x42000000 0x18000 then
    (if a % 0x1000 < 0x400 then fon SDF_STAT_CFG_REFUSED u s
     else if a % 0x1000 < 0x800 then fon SDF_COM_CFG_REFUSED u s else fon QEP_STAT_CFG_REFUSED u s)
  else if within a 0x43000000 0x8000 then
    (if a % 0x2000 < 0x800 then fon SAR_STAT_CFG_REFUSED (if within (a % 0x200) 0x40 0x40 then u / 16 else u) s
     else if a % 0x2000 < 0x1000 then fon CMP_CFG_CFG_REFUSED u s else fon SEU_STAT_CFG_REFUSED u s)
  else if within a 0x44000000 0x180000 then fon LPE_STAT_CFG_REFUSED u s
  else if within a 0x45100000 0x1800 then fon TMR_STAT_CFG_REFUSED u s
  else if within a 0x46000000 0x10000 then fon LNK_STAT_CFG_REFUSED 0 s
  else if within a 0x47000000 0x10000 then fon EXC_STAT_CFG_REFUSED u s
  else if within a 0x48100000 0x3000 then fon LCD_STAT_CFG_REFUSED (u / 32) s
  else if within a 0x49101000 0x2000 then fon CH_STAT_CFG_REFUSED u s
  else if within a 0x4C000240 0x100 then fon TRC_STAT_CFG_REFUSED 0 s
  else if within a 0x4C000400 0x80 then fon BE_STAT_CFG_REFUSED 0 s
  else if within a 0x4C000000 0x100000 then fon LAN_STAT_CFG_REFUSED 0 s
  else if within a 0x4C100100 0x80 then fon FL_STAT_CFG_REFUSED 0 (onlyIf (!fbit FL_STAT_BUSY 0 s) (fon SCN_STAT_CFG_REFUSED 0) s)
  else if within a 0x4C100000 0x100000 then fon SCN_STAT_CFG_REFUSED 0 s
  else if within a 0x4D000000 0x100000 then fon AUD_STAT_CFG_REFUSED 0 s
  else if within a 0x4F000000 0x100000 then fon NF_STAT_CFG_REFUSED 0 s
  else if within a 0x50000000 0x20000 then fon ETH_STAT_CFG_REFUSED (a / 0x10000 % 2) s
  else if within a 0x50100000 0x10000 then fon PCIE_STAT_CFG_REFUSED 0 s
  else if within a 0x50200000 0x4000 then fon CAN_STAT_CFG_REFUSED (a / 0x1000 % 4) s
  else if within a 0x50300000 0x1000 then fon UART_STAT_CFG_REFUSED 0 s
  else if within a 0x50301000 0x1000 then fon I2C_STAT_CFG_REFUSED 0 s
  else if within a 0x50302000 0x1000 then fon SPI_STAT_CFG_REFUSED 0 s
  else if within a 0x4E100000 0x100000 then fon PWR_STAT_CFG_REFUSED 0 s
  else s

/-- A field takes its part of the word by its access code, or refuses it (R12, R500). -/
def writeField (f : FieldRow) (a u v : Nat) (s : State) : State :=
  match f.acc with
  | .w1c => fclear f.fld u (fieldOf f v) s
  | .rw | .sh => if fieldBad f a u v s || nameBad f.fld u (fieldOf f v) s then refuseAt a u s else fset f.fld u (fieldOf f v) s
  | _ => s

/-- The W1C fields of a row first, then the others, so that a refusal in the same write stays set (R13). -/
def w1cFirst (r : RegRow) : List FieldRow :=
  let isW1c (f : FieldRow) : Bool := match f.acc with
    | .w1c => true
    | _ => false
  r.fields.filter isW1c ++ r.fields.filter (fun f => !isW1c f)

/-- A register takes a word, field by field, or refuses it whole. -/
def writeRow (r : RegRow) (a u v : Nat) (s : State) : State :=
  if crossBad r.base u v s || (wholeAt a && r.fields.any (fun f => fieldBad f a u v s)) then
    if wholeAt a || r.base = 0x43001000 || within a 0x4D000000 0x100000 then refuseAt a u s else s
  else forAll (w1cFirst r) (fun f t => writeField f a u v t) s

/-- Whether the write would be taken in full. -/
def writeTaken (r : RegRow) (a u v : Nat) (s : State) : Bool :=
  !crossBad r.base u v s && !r.fields.any (fun f => fieldBad f a u v s || nameBad f.fld u (fieldOf f v) s)

end Sys2Proof.Machine
end

