-- ==== Sys2Proof/Machine/Writes.lean ====
section
/-! DEFINITION. The registers whose writes do more than set their fields, each with what its chapter says, and the write of a device
word (R12, R276, R500). -/

namespace Sys2Proof.Machine

open Sys2Proof

/-- Do `f` where bit `b` of the word is 1. -/
def onBit (v b : Nat) (f : State → State) (s : State) : State := if v.testBit b then f s else s

/-- The bits of `v` in field `F` clear where they are 1 (R12, R13, W1C). -/
def w1c (F : Fld) (u v : Nat) (s : State) : State := fclear F u v s

/-- Write the register row at `a` field by field. -/
def plainWrite (a v : Nat) (s : State) : State :=
  match findReg a with
  | some (r, u) => writeRow r a u v s
  | none => s

/-! ### Sweep, legs, sensing -/

/-- LEG_STAT: W1C bits, with TRIPPED under R70. -/
def legStatWrite (u v : Nat) (s : State) : State :=
  onBit v 2 (clearTripped u) (w1c LEG_STAT_COMMIT_DONE u (bits v 4 4) (w1c LEG_STAT_CFG_REFUSED u (bits v 3 3)
    (w1c LEG_STAT_SHADOW_REJECT u (bits v 1 1) (w1c LEG_STAT_LATE u (bits v 0 0) s))))

/-- CLG_CONV (R64): STOP wins over START of the same converter. -/
def convWrite (c v : Nat) (s : State) : State :=
  forAll [0, 1] (fun k t =>
    if v.testBit (4 + k) then (if convAbsent c k t then t else stopConv c k t)
    else if v.testBit k then startConv c k t else t) (w1c CLG_CONV_CFG_REFUSED c (bits v 14 14) s)

/-- LEG_CTRL: the hold, an immediate commit, a forced trip (R58, R59, R66). -/
def legCtrlWrite (l v : Nat) (s : State) : State :=
  onBit v 4 (forceTrip l)
    (onBit v 0 (later 1 (.legCommit l)) (fset LEG_CTRL_COMMIT_HOLD l (bits v 1 1) s))

/-- QEP_CFG: an accepted write configures the unit, and the edges counted since then start anew (R77, R89); one of which a field is refused
does not (DESIGN CHOICE, log 74). -/
def qepCfgWrite (u v : Nat) (s : State) : State :=
  let a := 0x42000800 + 0x1000 * (u / 2) + 0x80 * (u % 2)
  match findReg a with
  | some (r, _) =>
    let t := writeRow r a u v s
    if writeTaken r a u v s then setQep u { qep u t with edges := [] } t else t
  | none => s

def hooksA : List (Nat × (Nat → Nat → State → State)) := [
  (0x40000000, fun _ v s => onBit v 7 stepArm (onBit v 6 geomCommit (modeWrite (bits v 1 0) (bits v 5 4) s))),
  (0x41000000, legCtrlWrite),
  (0x41000008, fun u v s => fon LEG_STAT_PEND u (legShadowReg u 0 v s)),
  (0x4100000C, fun u v s => fon LEG_STAT_PEND u (legShadowReg u 1 v s)),
  (0x41000010, fun u v s => fon LEG_STAT_PEND u (legShadowReg u 2 v s)),
  (0x41000014, fun u v s => fon LEG_STAT_PEND u (legShadowReg u 3 v s)),
  (0x41000018, fun u v s => fon LEG_STAT_PEND u (legShadowReg u 4 v s)),
  (0x4100001C, fun u v s => fon LEG_STAT_PEND u (legShadowReg u 5 v s)),
  (0x41000020, fun u v s => fon LEG_STAT_PEND u (legShadowReg u 6 v s)),
  (0x41000028, legStatWrite),
  (0x41000304, convWrite),
  (0x42000000, fun u v s => writeSdfCfg u v s),
  (0x42000400, fun u v s => writeClkSrc u (bits v 8 8) (w1c SDF_COM_CFG_REFUSED u (bits v 3 3) (w1c SDF_COM_CLK_FAST u (bits v 2 2)
    (w1c SDF_COM_CLK_LOST u (bits v 1 1) s)))),
  (0x42000800, qepCfgWrite),
  (0x42000804, fun u v s => fset QEP_POS_POS u (word (sint v + qepNet u s)) s),
  (0x43000800, writeCmpCfg),
  (0x43000804, writeCmpThr)]

/-! ### Loop engine, fabric, timers, link -/

/-- FAB_CTRL: the slot, then a load of it or of the factory default image (R151, R153). -/
def fabCtrlWrite (v : Nat) (s : State) : State :=
  if v.testBit 8 then (if mayLoad s then ran (execFabDefault s) (fset FAB_CTRL_SLOT 0 (bits v 5 4) s) else ran (execFabDefault s) s)
  else if v.testBit 0 then ran (execFabLoad (Fin.ofNat 4 (bits v 5 4)) s) s
  else fset FAB_CTRL_SLOT 0 (bits v 5 4) s

/-- RGN_CTRL: STOP wins over START (R143, R144). -/
def rgnCtrlWrite (n v : Nat) (s : State) : State := if v.testBit 0 then stopRegion n s else onBit v 1 (startRegion n) s

/-- TMR_CTRL (R137, R139). -/
def tmrCtrlWrite (t v : Nat) (s : State) : State :=
  onBit v 2 (later 1 (.cmd (.timerReset (Fin.ofNat 96 t)))) (onBit v 0 (later 1 (.timerCommit t)) (fset TMR_CTRL_COMMIT_HOLD t (bits v 1 1) s))

/-- A link register takes a word, and the ports follow (R161, R184). -/
def linkWrite (a v : Nat) (s : State) : State := forAll (List.range 4) portRefresh (plainWrite a v s)

def hooksB : List (Nat × (Nat → Nat → State → State)) := [
  (0x4400F000, coreModeWrite),
  (0x4400F004, fun u v s => onBit v 31 (fun t => ran (execLpeKick (Fin.ofNat 24 u) (Fin.ofNat 128 (bits v 6 0)) t) t) s),
  (0x44180000, fun u v s => ran (execRspCfgWrite (Fin.ofNat 4 u) (BitVec.ofNat 32 v) s) s),
  (0x44180004, fun u v s => onBit v 0 (fun t => ran (execReturn (Fin.ofNat 4 u) t) t) s),
  (0x45008000, fun _ v s => fabCtrlWrite v s),
  (0x45008010, fun _ v s => later 1 (.field FAB_SOFT0_LEVEL 0 v) s),
  (0x45008014, fun _ v s => later 1 (.field FAB_SOFT1_LEVEL 0 v) s),
  (0x45008018, fun _ v s => ran (execFabPulseWrite 0 (BitVec.ofNat 32 v) s) s),
  (0x4500801C, fun _ v s => ran (execFabPulseWrite 1 (BitVec.ofNat 32 v) s) s),
  (0x45008100, rgnCtrlWrite),
  (0x45100008, fun u v s => timerShadow u 0 v s),
  (0x4510000C, fun u v s => timerShadow u 1 v s),
  (0x45100010, fun u v s => timerShadow u 2 v s),
  (0x45100018, tmrCtrlWrite),
  (0x46000000, fun _ v s => linkWrite 0x46000000 v s),
  (0x46000004, fun _ v s => linkWrite 0x46000004 v s),
  (0x46000008, fun _ v s => linkWrite 0x46000008 v s),
  (0x46000100, fun u v s => linkWrite (0x46000100 + 0x40 * u) v s),
  (0x46001004, pubWrite true)]

/-! ### Cores, events, memory, display, audio, faults -/

/-- EXC_CTRL (R257): REF_LOCK is set once; IE and PRECISE take the word. -/
def excCtrlWrite (i v : Nat) (s : State) : State :=
  onBit v 8 (fon EXC_CTRL_REF_LOCK i) (fset EXC_CTRL_PRECISE i (bits v 1 1) (fset EXC_CTRL_IE i (bits v 0 0) s))

/-- MEM_DISC (R285). -/
def memDiscWrite (v : Nat) (s : State) : State :=
  let s := fset MEM_DISC_MEM 0 (bits v 1 0) s
  onBit v 31 (discardGo (bits v 1 0)) s

/-- VC_CFG: a voice that is enabled starts, and what was prefetched before is gone (R356, R357). -/
def voiceCfgWrite (u v : Nat) (s : State) : State :=
  let on := !fbit VC_CFG_EN u s
  let s := plainWrite (0x4D000100 + 0x40 * u) v s
  if on && fbit VC_CFG_EN u s then setVoice u { voice u s with start := true, buf := [] } s else s

/-- VC_PCM_ADDR: samples prefetched from another address are gone (R357). -/
def voiceAddrWrite (u v : Nat) (s : State) : State :=
  let t := plainWrite (0x4D000130 + 0x40 * u) v s
  if fget VC_PCM_ADDR_ADDR u t = fget VC_PCM_ADDR_ADDR u s then t else setVoice u { voice u t with buf := [] } t

/-- XP_NODE: the target of a crosspoint node, from which it starts to move (R364). -/
def nodeWrite (u v : Nat) (s : State) : State :=
  fset XP_NODE_TARGET u (bits v 7 0) { s with aud := { s.aud with kicked := nput u s.aud.kicked } }

def hooksC : List (Nat × (Nat → Nat → State → State)) := [
  (0x47000128, excCtrlWrite),
  (0x48000000, fun _ v s => ran (execEvcAck (Fin.ofNat 1024 (bits v 9 0)) s) s),
  (0x48000100, fun u v s => evqBaseWrite u v s),
  (0x48000104, fun u v s => ran (execEvqSizeWrite (Fin.ofNat 8 u) (BitVec.ofNat 32 v) s) s),
  (0x48000108, fun u v s => evqCfgWrite u v s),
  (0x4800010C, fun u v s => ran (execEvqHeadWrite (Fin.ofNat 8 u) (BitVec.ofNat 32 v) s) s),
  (0x48001000, fun u v s => ran (execEvcCfgWrite (Fin.ofNat 1024 u) (BitVec.ofNat 32 v) s) s),
  (0x48100000, fun u v s => plainWrite (0x48100000 + 0x200 * (u / 32) + 8 * (u % 32)) (v &&& 0x83FFFFFF) s),
  (0x48100004, fun u v s => plainWrite (0x48100004 + 0x200 * (u / 32) + 8 * (u % 32)) (v &&& 0x0FFFFFFF) s),
  (0x49000024, fun _ v s => memDiscWrite v s),
  (0x49000090, fun _ v s => startRepair (bits v 22 0) 0 s),
  (0x49101034, fun u v s => if v.testBit 1 then channelStop u s else onBit v 0 (channelStart u) s),
  (0x4C000420, fun _ v s => onBit v 0 beStart s),
  (0x4C100020, fun _ v s => onBit v 0 (fon SCN_STAT_PEND 0) s),
  (0x4C100100, fun _ v s => onBit v 0 flGo s),
  (0x4C100200, fun _ v s => onBit v 1 auxGo (onBit v 0 dpTrain s)),
  (0x4D000100, voiceCfgWrite),
  (0x4D000130, voiceAddrWrite),
  (0x4C100204, fun _ v s => dpChange (plainWrite 0x4C100204 v) s),
  (0x4D001050, fun u v s => onBit v 1 (fun t => ran (execInCtrlClear (Fin.ofNat 96 u) t) t)
    (onBit v 0 (fun t => ran (execInCtrlCommit (Fin.ofNat 96 u) t) t) s)),
  (0x4D004000, nodeWrite),
  (0x4E000080, fun _ v s => fltCfgWrite v s),
  (0x4E000084, fun _ v s => fltCtrlWrite v s),
  (0x4E000088, fun _ v s => fltAckWrite v s)]

/-! ### Storage, interfaces, power, pins, start-up -/

/-- ETH_MDIO: with GO an operation starts, without it the fields take the word (R418). -/
def mdioWrite (v : Nat) (s : State) : State :=
  if v.testBit 31 then mdioGo (v.testBit 30) (bits v 29 28) (bits v 27 23) (bits v 22 18) (bits v 15 0) s
  else plainWrite 0x50000700 v s

/-- CAN_CTRL: the fields, then recovery from bus-off (R426). -/
def canCtrlWrite (k v : Nat) (s : State) : State := onBit v 1 (canRecover k) (plainWrite (0x50200000 + 0x1000 * k) v s)

/-- The queue of a register unit: transmit and receive queues of an Ethernet port, of a CAN FD controller (R410). -/
def etxQ (u : Nat) : Nat := 16 * (u / 8) + u % 8
def erxQ (u : Nat) : Nat := 16 * (u / 4) + 8 + u % 4
def ctxQ (u : Nat) : Nat := 32 + 2 * u
def crxQ (u : Nat) : Nat := 33 + 2 * u

def hooksD : List (Nat × (Nat → Nat → State → State)) := [
  (0x4F100000, fun _ v s => cfsLockWrite v s),
  (0x4F000010, fun _ v s => nandEnable (v.testBit 0) s),
  (0x4F000040, fun _ v s => onBit v 0 nandPush s),
  (0x50000200, fun u v s => qBaseWrite (etxQ u) v s), (0x50000204, fun u v s => qSizeWrite (etxQ u) v s),
  (0x50000208, fun u v s => prodWrite (etxQ u) v s),
  (0x50000300, fun u v s => qBaseWrite (erxQ u) v s), (0x50000304, fun u v s => qSizeWrite (erxQ u) v s),
  (0x50000308, fun u v s => prodWrite (erxQ u) v s),
  (0x50200100, fun u v s => qBaseWrite (ctxQ u) v s), (0x50200104, fun u v s => qSizeWrite (ctxQ u) v s),
  (0x50200108, fun u v s => prodWrite (ctxQ u) v s),
  (0x50200120, fun u v s => qBaseWrite (crxQ u) v s), (0x50200124, fun u v s => qSizeWrite (crxQ u) v s),
  (0x50200128, fun u v s => prodWrite (crxQ u) v s),
  (0x50000400, fun u v s => cbsWrite (u / 8) (u % 8) v s),
  (0x50000508, fun u v s => onBit v 0 (gclCommit u) s),
  (0x50000700, fun _ v s => mdioWrite v s),
  (0x5010001C, fun _ v s => msiSend (bits v 4 0) s),
  (0x50100020, fun u v s => arrive (0x153 + u) v s),
  (0x50200000, canCtrlWrite),
  (0x50300008, fun _ v s => uartWrite (bits v 7 0) s),
  (0x50301004, fun _ v s => i2cCommand v s),
  (0x50302008, fun _ v s => spiXfer v [] s),
  (0x5030200C, fun _ v s => spiWrite v s),
  (0x4E100000, fun _ v s => powerRequest (bits v 2 0) s),
  (0x4E100008, fun _ v s => runoffWrite v s),
  (0x51000000, fun u v s => ran (execPadCfgWrite (Fin.ofNat 256 u) (BitVec.ofNat 32 v) s) s),
  (0x51000800, padOutSet),
  (0x51000A00, fun u v s => ran (execPadLegWrite (Fin.ofNat 144 u) (BitVec.ofNat 32 v) s) s),
  (0x4E200020, fun _ v s => onBit v 31 (coreStart (bits v 5 0)) s),
  (0x4E200200, fun _ v s =>
    let s := fset BIST_CTRL_KIND 0 (bits v 24 24) (fset BIST_CTRL_TARGET 0 (bits v 5 0) s)
    onBit v 31 (bistCommand (bits v 24 24) (bits v 5 0)) s)]

/-- Every register whose writes do more than set its fields, by the first address of its row. -/
def writeHooks : List (Nat × (Nat → Nat → State → State)) := hooksA ++ hooksB ++ hooksC ++ hooksD

/-- A write of a register row: its own meaning, or field by field. -/
def writeReg (r : RegRow) (a u v : Nat) (s : State) : State :=
  match writeHooks.find? (fun e => e.1 == r.base) with
  | some e => e.2 u v s
  | none => writeRow r a u v s

/-! ### The loop engine's memories (R99, R101, R104) -/

/-- A write to a context or to the local table of cluster `c` arrives: it is held while its program runs, behind those of the same
context that are held already (R101, R104). -/
def holdOrApply (c : Nat) (w : Nat × Nat × Nat) (s : State) : State :=
  if writeWaits c w s || (eng c s).held.any (fun h => h.1 == w.1) then setEng c { eng c s with held := (eng c s).held ++ [w] } s
  else applyHeld w s

/-- A word written to the program store or the slot table, whose reserved bits keep no value (R15, R112). -/
def slotWordKept (a v : Nat) : Nat :=
  let o := (a - 0x44000000) % 0x10000
  if 0xE000 ≤ o then (if o % 8 = 0 then v &&& 0x83FFFFFF else v &&& 0x0FFF007F) else v % 2 ^ 32

/-- A word of a loop-engine memory takes `v` (R99, R101, R104). -/
def lpeWrite (a v : Nat) (m : LpeArea) (s : State) : State :=
  let c := (a - 0x44000000) / 0x10000
  match m with
  | .context g w => holdOrApply c (g, w, v) s
  | .local_ t => holdOrApply c (2 ^ 16 + c, t, v) s
  | _ =>
    let v := slotWordKept a v
    if mread a 4 s = v then s
    else if regionStopped (c / 6) s then mwrite a 4 v s else fon LPE_STAT_CFG_REFUSED c s

/-- The 64-bit words `ws` hold no more errors and no poison (R283). -/
def cleanWords (ws : List Nat) (s : State) : State :=
  { s with poison := s.poison.filter (fun w => !ws.contains w), soft := s.soft.filter (fun w => !ws.contains w) }

/-- An audio register is written in the dot of a strobe that has not been taken yet: the write governs from the sample after (R353). -/
def audioHeld (a : Nat) (s : State) : Bool := within a 0x4D000000 0x100000 && strobeDue s

/-! ### Capability slots (R257, R289, R323) -/

/-- A slot refuses a change now, and where it says so. -/
def slotLocked (k : CapRow) (u : Nat) (s : State) : Option (State → State) :=
  if k.base = 0x47000110 ∧ fbit EXC_CTRL_REF_LOCK u s then some (fon EXC_STAT_CFG_REFUSED u)
  else if within k.base 0x49101000 0x30 ∧ fbit CH_STAT_BUSY u s then some (fon CH_STAT_CFG_REFUSED u)
  else if within k.base 0x4C000400 0x20 ∧ fbit BE_STAT_BUSY 0 s then some (fon BE_STAT_CFG_REFUSED 0)
  else none

/-- A slot takes a capability, or refuses it. -/
def writeSlot (k : CapRow) (u : Nat) (c : Cap) (s : State) : State :=
  match slotLocked k u s with
  | some f => if slotCap k.cap u s = c then s else f s
  | none => if audioHeld k.base s then later 0 (.audioCap c) s else setSlotCap k.cap u c s

/-- The capability with its word `i` replaced and its tag cleared (R237). -/
def withWord (c : Cap) (i v : Nat) : Cap :=
  ⟨BitVec.ofNat 128 (c.v.toNat - c.v.toNat / 2 ^ (32 * i) % 2 ^ 32 * 2 ^ (32 * i) + v % 2 ^ 32 * 2 ^ (32 * i)), false⟩

/-! ### Writes -/

/-- Write the 32-bit word at the device address `a`, a multiple of 4: false for a bus error. -/
def writeWord (a v : Nat) (s : State) : Bool × State :=
  if !blockPresent a s then (false, s)
  else match findReg a with
  | some (r, u) => (true, if audioHeld a s then later 0 (.audioWrite a v) s else writeReg r a u v s)
  | none =>
    match findSlot (a / 16 * 16) with
    | some (k, u) => (true, if audioHeld a s then later 0 (.audioWrite a v) s else writeSlot k u (withWord (slotCap k.cap u s) (a % 16 / 4) v) s)
    | none =>
      match lpeArea a with
      | some m => (true, lpeWrite a v m s)
      | none =>
        if within a 0x45000000 0x6C00 then (true, fon FAB_STAT_CFG_REFUSED 0 s)
        else if within a 0x48003000 0x400 then (true, arrive (0x300 + (a - 0x48003000) / 4) v s)
        else if within a 0x4E000800 0x800 then (true, rctWrite ((a - 0x4E000800) / 4) v s)
        else ((readView a s).isSome || reservedAt a, s)

end Sys2Proof.Machine
end

