-- ==== Sys2Proof/Machine/Bus.lean ====
section
/-! DEFINITION. The bus: a read or a write of any address by any requester, with tags where the memory has them (R237, R274 to R278,
R282, R391, R421, R440). The capability of the access has been checked before. -/

namespace Sys2Proof.Machine

open Sys2Proof

/-- The areas of the address map (R274). -/
inductive Region where
  | rom | store | sram | frame | hamper | device | pcie | dram | hole
deriving DecidableEq, Repr

/-- The area of an address; everything else is unmapped (R278). -/
def regionOf (a : Nat) : Region :=
  if a < 0x10000 then .rom
  else if within a 0x10000000 0x2000000 then .store
  else if within a 0x20000000 0x800000 then .sram
  else if within a 0x30000000 0xC00000 then .frame
  else if within a 0x38000000 0x40000 then .hamper
  else if within a 0x40000000 0x20000000 then .device
  else if within a 0x60000000 0x20000000 then .pcie
  else if within a 0x80000000 0x80000000 then .dram else .hole

/-- The little-endian word of `n` bytes of the boot ROM. -/
def romBytes (a : Nat) : Nat → Nat
  | 0 => 0
  | n + 1 => (Config.romByte a).toNat + 256 * romBytes (a + 1) n

/-! ### The device blocks -/

/-- Read `n` words from `a` on, which all answer. -/
def wordsFrom (a req : Nat) : Nat → State → Option Nat × State
  | 0, s => (some 0, s)
  | n + 1, s =>
    match readWord a req s with
    | (none, s) => (none, s)
    | (some v, s) =>
      match wordsFrom (a + 4) req n s with
      | (none, s) => (none, s)
      | (some w, s) => (some (v + 2 ^ 32 * w), s)

/-- Read `n` words from `a` on as one access in one dot: where one of them is a bus error, no other is accessed (R278). -/
def readWords (a req n : Nat) (s : State) : Option Nat × State :=
  match (List.range n).find? (fun i => (readWord (a + 4 * i) req s).1.isNone) with
  | some i => (none, (readWord (a + 4 * i) req s).2)
  | none => wordsFrom a req n s

/-- Read `n` bytes at the device address `a`: the byte memories at any alignment, registers at their natural one (R225). A narrow read
has the whole register's effect. -/
def devRead (a n req : Nat) (s : State) : Option Nat × State :=
  if byteMemory a && byteMemory (a + n - 1) && blockPresent a s then readMem a n req s
  else if a % n ≠ 0 then (none, s)
  else match (if (lpeArea a).isSome && blockPresent a s then checkWords (wordsOf a n) req s else (true, s)) with
  | (false, s) => (none, s)
  | (true, s) =>
    if n < 4 then
      match readWord (a / 4 * 4) req s with
      | (some v, s) => (some (v / 2 ^ (8 * (a % 4)) % 2 ^ (8 * n)), s)
      | (none, s) => (none, s)
    else readWords a req (n / 4) s

/-- The bits that a narrow write leaves in the bytes that it does not write: the values of RW and SH fields, and of memory words; W1C,
WO and other bits are 0 there. -/
def keptWord (a : Nat) (s : State) : Nat :=
  match findReg a with
  | some (r, u) => r.fields.foldl (fun n f => match f.acc with
      | .rw | .sh => n + fget f.fld u s * 2 ^ f.lo
      | _ => n) 0
  | none =>
    match findSlot (a / 16 * 16) with
    | some (k, u) => slotWord k.cap u (a % 16 / 4) s
    | none =>
      match lpeArea a with
      | some (.context g w) => if w = 1 ∨ w = 55 then 0 else ctxGet g w s
      | some _ => mread a 4 s
      | none => if within a 0x4E000800 0x800 then sget 0 s.rct ((a - 0x4E000800) / 4) else 0

/-- Write the word at `a` for requester `req`: MEM_REPAIR reports who wrote it (R378). -/
def writeWordBy (req a v : Nat) (s : State) : Bool × State :=
  if a = 0x49000090 ∧ blockPresent a s = true then (true, startRepair (bits v 22 0) req s) else writeWord a v s

/-- Write `n` words of `v` from `a` on, which are all mapped. -/
def wordsTo (req a v : Nat) : Nat → State → State
  | 0, s => s
  | n + 1, s => wordsTo req (a + 4) (v / 2 ^ 32) n (writeWordBy req a (v % 2 ^ 32) s).2

/-- Write `n` words of `v` from `a` on as one access in one dot: where one of them is unmapped, none is written (R278). -/
def writeWords (req a v n : Nat) (s : State) : Bool × State :=
  if (List.range n).any (fun i => !(writeWord (a + 4 * i) 0 s).1) then (false, s) else (true, wordsTo req a v n s)

/-- The 16-byte writes that a block takes as one: a leg's and a timer's shadow groups, a route entry, a capability slot
(R61, R133, R139, R257). -/
def devQuad (a : Nat) (k : Cap) (s : State) : Option State :=
  let v := k.v.toNat
  let w (i : Nat) : Nat := v / 2 ^ (32 * i) % 2 ^ 32
  if within a 0x41000000 0x18000 && decide (a % 0x1000 < 0x300) && a % 0x80 == 8 then
    some (legQuad (6 * ((a - 0x41000000) / 0x1000) + a % 0x1000 / 0x80) (w 0) (w 1) (w 2) (w 3) s)
  else if within a 0x45100000 0x1800 && a % 0x40 == 8 then
    let t := 4 * ((a - 0x45100000) / 0x100) + a % 0x100 / 0x40
    some (timerShadow t 2 (w 2) (timerShadow t 1 (w 1) (timerShadow t 0 (w 0) s)))
  else if within a 0x45000000 0x6C00 && a % 16 == 0 then
    some (ran (execRouteWrite (Fin.ofNat 1728 ((a - 0x45000000) / 16)) k.v s) s)
  else match (if a % 16 = 0 then findSlot a else none) with
  | some (r, u) => some (writeSlot r u k s)
  | none => none

/-- A write changes the 64-bit word `w` of a loop-engine memory: not W2 and W3 of a context, and not the program store or the slot table of
a region that is not STOPPED (R99, R104). -/
def takesWord (w : Nat) (s : State) : Bool :=
  match lpeArea (8 * w) with
  | some (.context _ x) => x != 2
  | some (.local_ _) => true
  | _ => regionStopped ((8 * w - 0x44000000) / 0x60000) s

/-- Write `n` bytes of `v` at the device address `a`: false for a bus error. -/
def devWrite (a n v req : Nat) (s : State) : Bool × State :=
  if byteMemory a && byteMemory (a + n - 1) && blockPresent a s then writeMem a n v req s
  else if !blockPresent a s then (false, s)
  else match (if n = 16 then devQuad a ⟨BitVec.ofNat 128 v, false⟩ s else none) with
  | some t => (true, t)
  | none =>
    if a % n ≠ 0 then (false, s)
    else
      match (if (lpeArea a).isSome then checkWords (partWords a n) req s else (true, s)) with
      | (false, s) => (false, s)
      | (true, s) =>
        let s := if (lpeArea a).isSome then cleanWords ((wordsOf a n).filter (fun w => takesWord w s)) s else s
        if n < 4 then
          let b := a / 4 * 4
          let old := keptWord b s
          let sh := 2 ^ (8 * (a % 4))
          writeWordBy req b (old - old / sh % 2 ^ (8 * n) * sh + v % 2 ^ (8 * n) * sh) s
        else writeWords req a v (n / 4) s

/-! ### Every address -/

/-- DRAM can be reached: it is not held in self-refresh (R435, R441). -/
def dramUp (s : State) : Bool := !s.pwr.selfRefresh

/-- Read `n` bytes of DRAM at aperture address `a`, in two parts where a window ends between them (R275). -/
def dramRead (a n req : Nat) (s : State) : Option Nat × State :=
  if !dramUp s then (none, s)
  else
    let m := min n (2 ^ 28 - a % 2 ^ 28)
    match readMem (flat a s) m req s with
    | (none, s) => (none, s)
    | (some v, s) =>
      if m = n then (some v, s)
      else match readMem (flat (a + m) s) (n - m) req s with
      | (none, s) => (none, s)
      | (some w, s) => (some (v + 2 ^ (8 * m) * w), s)

/-- Write `n` bytes of DRAM at aperture address `a`. -/
def dramWrite (a n v req : Nat) (s : State) : Bool × State :=
  if !dramUp s then (false, s)
  else
    let m := min n (2 ^ 28 - a % 2 ^ 28)
    if m = n then writeMem (flat a s) n v req s
    else
      match writeMem (flat a s) m v req s with
      | (false, s) => (false, s)
      | (true, s) => writeMem (flat (a + m) s) (n - m) (v / 2 ^ (8 * m)) req s

/-- Read `n` bytes at `a` for requester `req`: the little-endian value, or `none` for a bus error (R278, R282). -/
def busRead (a n req : Nat) (s : State) : Option Nat × State :=
  if regionOf a ≠ regionOf (a + n - 1) then (none, s)
  else match regionOf a with
  | .rom => (some (romBytes a n), s)
  | .store => readStore a n s
  | .sram | .frame | .hamper => readMem a n req s
  | .device => devRead a n req s
  | .pcie => pcieRead a n s
  | .dram => dramRead a n req s
  | .hole => (none, s)

/-- Write `n` bytes of `v` at `a` for requester `req`: false for a bus error. The boot ROM and the Hamper's save area take no write. -/
def busWrite (a n v req : Nat) (s : State) : Bool × State :=
  if regionOf a ≠ regionOf (a + n - 1) then (false, s)
  else match regionOf a with
  | .rom => (false, s)
  | .store => writeStore a n v s
  | .sram | .frame => writeMem a n v req s
  | .hamper => if 0x38028000 < a + n then (false, s) else writeMem a n v req s
  | .device => devWrite a n v req s
  | .pcie => (true, pcieWrite a n v s)
  | .dram => dramWrite a n v req s
  | .hole => (false, s)

/-- The 16-byte word at `a` lies in a tag-bearing memory (R237): DRAM, general SRAM, the Hamper, a loop core's data memory, a refuge
SRAM, a capability slot. -/
def tagBearing (a : Nat) : Bool :=
  match regionOf a with
  | .sram | .hamper | .dram => true
  | .device =>
    (within a 0x4A000000 0x700000 && within (a % 0x40000) 0x20000 0x10000) || within a 0x47800000 0x4000 || (findSlot a).isSome
  | _ => false

/-- Read the 16-byte word at `a`, a multiple of 16, with its tag (R237). -/
def busReadCap (a req : Nat) (s : State) : Option Cap × State :=
  match (if regionOf a = .device && blockPresent a s then findSlot a else none) with
  | some (k, u) => (some (slotCap k.cap u s), s)
  | none =>
    match busRead a 16 req s with
    | (none, s) => (none, s)
    | (some v, s) => (some ⟨BitVec.ofNat 128 v, tagBearing a && s.tags.contains (flat a s / 16)⟩, s)

/-- Write the 16-byte word at `a`, a multiple of 16, with its tag, as one access (R237). -/
def busWriteCap (a : Nat) (k : Cap) (req : Nat) (s : State) : Bool × State :=
  match (if regionOf a = .device && blockPresent a s then findSlot a else none) with
  | some (r, u) => (true, writeSlot r u k s)
  | none =>
    match busWrite a 16 k.v.toNat req s with
    | (false, s) => (false, s)
    | (true, s) => (true, if k.tag && tagBearing a then { s with tags := nput (flat a s / 16) s.tags } else s)

/-! ### Ranges -/

/-- Read parts in order: the value of the parts that were read, least significant first, and the part that met a bus error. -/
def readParts (req : Nat) : List (Nat × Nat) → State → Nat × Option Nat × State
  | [], s => (0, none, s)
  | (a, n) :: ps, s =>
    match busRead a n req s with
    | (none, s) => (0, some a, s)
    | (some v, s) =>
      let r := readParts req ps s
      (v + 2 ^ (8 * n) * r.1, r.2)

/-- Read parts in order: the values of those that were read, and the part that met a bus error. -/
def readEach (req : Nat) : List (Nat × Nat) → State → List Nat × Option Nat × State
  | [], s => ([], none, s)
  | (a, n) :: ps, s =>
    match busRead a n req s with
    | (none, s) => ([], some a, s)
    | (some v, s) =>
      let r := readEach req ps s
      (v :: r.1, r.2)

/-- Write the parts of a range that starts at `a`, in the order given, from the value of the whole range; the part that met a bus error. -/
def writeParts (a v req : Nat) : List (Nat × Nat) → State → Option Nat × State
  | [], s => (none, s)
  | (b, n) :: ps, s =>
    match busWrite b n (v / 2 ^ (8 * (b - a)) % 2 ^ (8 * n)) req s with
    | (false, s) => (some b, s)
    | (true, s) => writeParts a v req ps s

/-- Write `n` bytes of `v` at `a` under capability `k`: false for a bus error, as for an image slot without FABRIC (R392). -/
def writeUnder (k : Cap) (a n v req : Nat) (s : State) : Bool × State := if slotDenied k a n then (false, s) else busWrite a n v req s

/-- Write the parts of a range under capability `k`, as writeParts: a part in an image slot without FABRIC is a bus error (R392). -/
def writePartsUnder (k : Cap) (a v req : Nat) (ps : List (Nat × Nat)) (s : State) : Option Nat × State :=
  let ok := ps.takeWhile (fun p => !slotDenied k p.1 p.2)
  match writeParts a v req ok s with
  | (none, t) => (((ps.drop ok.length).head?).map Prod.fst, t)
  | r => r

/-! ### REGISTER_WRITE (R12, R500) -/

/-- REGISTER_WRITE (R12, R500): a 32-bit write of the register, or of the word of a device memory, at `addr`; the answer says whether it
ended in a bus error. -/
def execRegisterWrite (addr : Nat) (v : Word) (s : State) : Host.Outcome State Fault Refusal :=
  if addr % 4 = 0 ∧ regionOf addr = .device then
    match devWrite addr 4 v.toNat 0 s with
    | (true, t) => .next (answer 0 t)
    | (false, t) => .next (busError t)
  else .next (busError s)

/-- EXC_CTRL_WRITE (R251, R257). -/
def execExcCtrlWrite (core : Fin 64) (v : Word) (s : State) : Host.Outcome State Fault Refusal :=
  .next (if coreOfMap core then excCtrlWrite core v.toNat s else s)

end Sys2Proof.Machine
end

