-- ==== Sys2Proof/Machine/Dma.lean ====
section
/-! DEFINITION. The DMA channels at work and the memory access through JTAG (R289 to R297, R483, R484). -/

namespace Sys2Proof.Machine

open Sys2Proof

/-- The requester code of channel `ch` (R378). -/
def dmaReq (ch : Nat) : Nat := 0x40 + ch

/-- The operation of the descriptor in hand. -/
def dmaOp (h : DmaH) : Nat := h.w0 % 16

/-- The payload of the event of channel `ch`: TAG, ERR, MISMATCH (R297). -/
def dmaPayload (ch err : Nat) (s : State) : Nat :=
  let h := dma ch s
  2 ^ 16 * bits h.w0 31 16 + 2 ^ 8 * err + h.mismatch.toNat

/-- The event of channel `ch` (R297). -/
def dmaEvent (ch err : Nat) (s : State) : State := arrive (0x100 + ch) (dmaPayload ch err s) s

/-- The result words of the descriptor in hand as one 8-byte store under CH_QCAP (R290, R291): 0, or the code of the failure with its
address. -/
def dmaResult (ch err : Nat) (s : State) : Nat × Nat × State :=
  let h := dma ch s
  let a := fget CH_CUR_ADDR ch s + 24
  if (capCheck (slotCap CH_QCAP_CAP ch s) [permST] a 8 true).isSome then (1, a, s)
  else
    match writeUnder (slotCap CH_QCAP_CAP ch s) a 8 (2 ^ 31 + 2 ^ 16 * err + 2 ^ 8 * h.mismatch.toNat + 2 ^ 32 * fget CH_DONE_BYTES ch s) (dmaReq ch) s with
    | (true, s) => (0, a, s)
    | (false, s) => (8, a, s)

/-- Channel `ch` stops with an error at address `a` (R295): the result words unless the error lies there, the status, the event, the
report. -/
def dmaStop (ch err a : Nat) (s : State) : State :=
  let s := if err = 1 ∨ err = 8 then s else (dmaResult ch err s).2.2
  let s := fon CH_STAT_ERR ch (fset CH_STAT_ERRCODE ch err (foff CH_STAT_BUSY ch (fset CH_ERRADDR_ADDR ch a s)))
  let s := dmaEvent ch err (report (0x140 + ch) a err s)
  setDma ch DmaH.init s

/-- The range touches a register block and is not aligned (R292). -/
def dmaMisaligned (a n : Nat) : Bool := touchesRegister a n && (a % 4 != 0 || n % 4 != 0)

/-- The error that stops a descriptor before any data access, with the failing address (R295). -/
def dmaCheck (ch : Nat) (h : DmaH) (s : State) : Option (Nat × Nat) :=
  let op := dmaOp h
  let src := op == 0 || op == 2
  let ps := if op < 2 then [permST] else [permLD]
  if 3 < op ∨ bits h.w0 15 8 ≠ 0 ∨ (h.w0.testBit 6 = false ∧ h.next % 32 ≠ 0) then some (4, fget CH_CUR_ADDR ch s)
  else if h.len = 0 then none
  else if src && (capCheck (slotCap CH_SCAP_CAP ch s) [permLD] h.src h.len false).isSome then some (2, h.src)
  else if (capCheck (slotCap CH_DCAP_CAP ch s) ps h.dst h.len (op < 2)).isSome then some (3, h.dst)
  else if src && dmaMisaligned h.src h.len then some (5, h.src)
  else if dmaMisaligned h.dst h.len then some (5, h.dst)
  else none

/-- DESCRIPTOR_FETCH (R290, R291, R294, R295): the channel reads words 0 to 5 under CH_QCAP and checks them, not before the event of a
descriptor with BARRIER; a descriptor of LENGTH 0 is done at once. -/
def execDescriptorFetch (ch : Fin 64) (s : State) : Host.Outcome State Fault Refusal :=
  let c := ch.val
  if (dma c s).phase ≠ .fetch ∨ (running s = true ∧ s.time < (dma c s).from_) then .next s
  else
    let a := fget CH_CUR_ADDR c s
    if (capCheck (slotCap CH_QCAP_CAP c s) [permLD] a 32 false).isSome then .next (dmaStop c 1 a s)
    else match readParts (dmaReq c) [(a, 8), (a + 8, 8), (a + 16, 8)] s with
    | (_, some x, s) => .next (dmaStop c 8 x s)
    | (v, none, s) =>
      let w (i : Nat) : Nat := v / 2 ^ (32 * i) % 2 ^ 32
      let h : DmaH := ⟨.work, w 0, w 1, w 2, w 3, w 4, w 5, false, 0⟩
      let s := foff CH_DONE_BYTES c (setDma c h s)
      match dmaCheck c h s with
      | some (err, x) => .next (dmaStop c err x s)
      | none => .next (if h.len = 0 then setDma c { h with phase := .done } s else s)

/-- The parts of a data read: memory in whole 8-byte words, the bytes outside the range discarded; a range that touches registers in
32-bit words (R292). -/
def dmaReadParts (a n : Nat) : List (Nat × Nat) :=
  if touchesRegister a n then chunks 4 a n else (chunks 8 a n).map (fun p => (p.1 / 8 * 8, 8))

/-- The parts of a data write: the bytes of the range (R292). -/
def dmaWriteParts (a n : Nat) : List (Nat × Nat) := chunks (if touchesRegister a n then 4 else 8) a n

/-- A part holds address `x`. -/
def holds (x : Nat) (p : Nat × Nat) : Bool := decide (p.1 ≤ x) && decide (x < p.1 + p.2)

/-- The bytes of a range of `n` from `a` on that an order of its parts reads before the part at `x`. -/
def readBefore (down : Bool) (a n x : Nat) : Nat :=
  if down then a + n - (if touchesRegister a n then x + 4 else x / 8 * 8 + 8) else x - a

/-- The `n` bytes of a range from `a` on, read in ascending or descending order until a part fails, or until one that holds an address
`stop`; for a read that fails, the bytes read before it and its address. -/
def dmaRead (ch a n : Nat) (down : Bool) (stop : Option Nat) (s : State) : Nat × Option (Nat × Nat) × State :=
  let ps := dmaReadParts a n
  let ps := if down then ps.reverse else ps
  let ps := match stop with
    | some x => ps.takeWhile (fun p => !holds x p)
    | none => ps
  match readEach (dmaReq ch) ps s with
  | (vs, bad, s) =>
    let lo := if touchesRegister a n then a else a / 8 * 8
    let v := (ps.zip vs).foldl (fun v e => v + e.2 * 2 ^ (8 * (e.1.1 - lo))) 0
    (v / 2 ^ (8 * (a - lo)) % 2 ^ (8 * n), bad.map (fun x => (readBefore down a n x, max x a)), s)

/-- The channel has written or compared `n` bytes. -/
def dmaDone (ch n : Nat) (s : State) : State := fset CH_DONE_BYTES ch n s

/-- The operation of the channel ends in phase `p`. -/
def dmaPhase (ch : Nat) (p : DmaPhase) (s : State) : State := setDma ch { dma ch s with phase := p } s

/-- The parts of a write in the order in which they are written. -/
def dmaOrder (h : DmaH) (down : Bool) : List (Nat × Nat) :=
  let ps := dmaWriteParts h.dst h.len
  if down then ps.reverse else ps

/-- How many bytes lie in the parts before the one that holds address `x`. -/
def bytesBefore (x : Nat) (ps : List (Nat × Nat)) : Nat :=
  (ps.takeWhile (fun p => !holds x p)).foldl (fun n p => n + p.2) 0

/-- The channel writes `v` over its destination, in its order; the bytes written before a bus error are counted. -/
def dmaStore (ch v : Nat) (down : Bool) (s : State) : State :=
  let h := dma ch s
  let ps := dmaOrder h down
  match writePartsUnder (slotCap CH_DCAP_CAP ch s) h.dst v (dmaReq ch) ps s with
  | (none, s) => dmaPhase ch .done (dmaDone ch h.len s)
  | (some x, s) => dmaPhase ch (.failed 7 x) (dmaDone ch (bytesBefore x ps) s)

/-- The target answers the write at address `x` with a bus error: the parts before it have been written. -/
def dmaStoreUntil (ch v x : Nat) (down : Bool) (s : State) : State :=
  let h := dma ch s
  let ps := (dmaOrder h down).takeWhile (fun p => !holds x p)
  let s := (writePartsUnder (slotCap CH_DCAP_CAP ch s) h.dst v (dmaReq ch) ps s).2
  dmaDone ch (bytesBefore x (dmaOrder h down)) s

/-- A data read has failed after `off` bytes of the source, in the copy's order: how many of them have been written by then the spec leaves
open (R295); into registers whole words are. -/
def dmaReadFailed (ch v off x : Nat) (down : Bool) (s : State) : State :=
  let h := dma ch s
  let n := Config.dmaIssued s.fresh % (off + 1)
  let n := if touchesRegister h.dst h.len then n / 4 * 4 else n
  let ps := if down then (dmaWriteParts (h.dst + h.len - n) n).reverse else dmaWriteParts h.dst n
  let s := (writePartsUnder (slotCap CH_DCAP_CAP ch s) h.dst v (dmaReq ch) ps (nextFresh s)).2
  dmaPhase ch (.failed 6 x) (dmaDone ch n s)

/-- The copy moves descending: its destination lies above the source and overlaps it, after translation (R291). -/
def dmaDown (h : DmaH) (s : State) : Bool :=
  dmaOp h == 0 && decide (flat h.src s < flat h.dst s) && decide (flat h.dst s < flat h.src s + h.len)

/-- DMA_COPY (R291, R292): as if the whole source were read before any byte is written; descending where the destination lies above
the source and overlaps it, after translation. -/
def execDmaCopy (ch : Fin 64) (s : State) : Host.Outcome State Fault Refusal :=
  let h := dma ch s
  if h.phase ≠ .work ∨ dmaOp h ≠ 0 then .next s
  else match dmaRead ch h.src h.len (dmaDown h s) none s with
  | (v, none, s) => .next (dmaStore ch v (dmaDown h s) s)
  | (v, some (off, x), s) => .next (dmaReadFailed ch v off x (dmaDown h s) s)

/-- PATTERN over a range: byte `a` takes PATTERN byte (a mod 4) (R290). -/
def patternBytes (p a : Nat) : Nat → Nat
  | 0 => 0
  | n + 1 => p / 2 ^ (8 * (a % 4)) % 256 + 256 * patternBytes p (a + 1) n

/-- DMA_FILL (R290, R291). -/
def execDmaFill (ch : Fin 64) (s : State) : Host.Outcome State Fault Refusal :=
  let h := dma ch s
  if h.phase ≠ .work ∨ dmaOp h ≠ 1 then .next s
  else .next (dmaStore ch (patternBytes h.pattern h.dst h.len) false s)

/-- The offset of the first byte in which two values of `n` bytes differ, `n` where none does. -/
def firstDiff (v w : Nat) : Nat → Nat
  | 0 => 0
  | n + 1 => if v % 256 = w % 256 then 1 + firstDiff (v / 256) (w / 256) n else 0

/-- A compare ends: MISMATCH, the offset of the first differing byte (R290, R291). -/
def dmaCompared (ch v w : Nat) (s : State) : State :=
  let h := dma ch s
  let k := firstDiff v w h.len
  setDma ch { h with phase := .done, mismatch := decide (k < h.len) } (dmaDone ch k s)

/-- Compare `v`, the range to compare with, to the destination range: a byte that differs before a failing read ends the compare there. -/
def dmaCompareWith (ch v : Nat) (s : State) : State :=
  let h := dma ch s
  match dmaRead ch h.dst h.len false none s with
  | (w, none, s) => dmaCompared ch v w s
  | (w, some (off, x), s) =>
    if firstDiff v w off < off then dmaCompared ch v w s else dmaPhase ch (.failed 6 x) (dmaDone ch off s)

/-- DMA_COMPARE (R289, R291). -/
def execDmaCompare (ch : Fin 64) (s : State) : Host.Outcome State Fault Refusal :=
  let h := dma ch s
  if h.phase ≠ .work ∨ dmaOp h ≠ 2 then .next s
  else match dmaRead ch h.src h.len false none s with
  | (v, none, s) => .next (dmaCompareWith ch v s)
  | (v, some (off, x), s) =>
    match dmaRead ch h.dst h.len false none s with
    | (w, _, t) =>
      if firstDiff v w off < off then .next (dmaCompared ch v w t) else .next (dmaPhase ch (.failed 6 x) (dmaDone ch off t))

/-- DMA_COMPARE_PATTERN (R290, R291). -/
def execDmaComparePattern (ch : Fin 64) (s : State) : Host.Outcome State Fault Refusal :=
  let h := dma ch s
  if h.phase ≠ .work ∨ dmaOp h ≠ 3 then .next s
  else .next (dmaCompareWith ch (patternBytes h.pattern h.dst h.len) s)

/-- DESCRIPTOR_COMPLETE (R291, R294, R297): the result words are stored, the event is posted, with BARRIER in the dot after, and the channel
goes on to NEXT, of which nothing is done yet, or ends. -/
def execDescriptorComplete (ch : Fin 64) (s : State) : Host.Outcome State Fault Refusal :=
  let c := ch.val
  let h := dma c s
  if h.phase ≠ .done then .next s
  else match dmaResult c 0 s with
  | (0, _, s) =>
    let s := onlyIf (h.w0.testBit 5) (fun t => if h.w0.testBit 4 then later 1 (.arrive (0x100 + c) (dmaPayload c 0 t)) t else dmaEvent c 0 t) s
    if h.w0.testBit 6 || (h.mismatch && h.w0.testBit 7) then .next (foff CH_STAT_BUSY c (setDma c DmaH.init s))
    else .next (fset CH_CUR_ADDR c h.next (foff CH_DONE_BYTES c
        (setDma c { DmaH.init with phase := .fetch, from_ := if h.w0.testBit 4 then s.time + 1 else 0 } s)))
  | (err, a, s) => .next (dmaStop c err a s)

/-- DMA_ERROR_STOP (R295): the channel stops with the bus error that its transfer met, or with one of the target on a data read or write
at address `a`; a compare writes no data and a fill reads none. -/
def execDmaErrorStop (ch : Fin 64) (write : Bool) (a : Word) (s : State) : Host.Outcome State Fault Refusal :=
  let c := ch.val
  let h := dma c s
  match h.phase with
  | .failed code x => .next (dmaStop c code x s)
  | .fetch => .next (dmaStop c 8 (fget CH_CUR_ADDR c s) s)
  | .work =>
    if (write && decide (1 < dmaOp h)) || (!write && dmaOp h == 1) then .next s else
    let x := a.toNat
    let src := if dmaOp h = 0 ∨ dmaOp h = 2 then h.src else h.dst
    let base := if src ≤ x ∧ x < src + h.len then src else h.dst
    let down := dmaDown h s
    let v := if dmaOp h = 0 then dmaRead c h.src h.len down (if write then none else some x) s
      else (patternBytes h.pattern h.dst h.len, none, s)
    let t := if write then dmaStoreUntil c v.1 x down v.2.2
      else if dmaOp h = 0 then dmaReadFailed c v.1 (readBefore down base h.len x) x down v.2.2 else dmaDone c (x - base) s
    .next (dmaStop c (if write then 7 else 6) x t)
  | _ => .next s

/-- MEMACC (R483, R484): with GO, a 32-bit access checked against JTAG_CAP; a read leaves its data in the data register. -/
def execMemacc (dr : BitVec 72) (s : State) : Host.Outcome State Fault Refusal :=
  let v := dr.toNat
  let a := v % 2 ^ 32
  let write := v.testBit 64
  let k := slotCap JTAG_CAP_CAP 0 s
  let s := loadIr .memacc v s
  if !v.testBit 65 then .next s
  else if (capCheck k [if write then permST else permLD] a 4 write).isSome then .next (fon JTAG_STAT_REFUSED 0 s)
  else if write then .next (writeUnder k a 4 (v / 2 ^ 32 % 2 ^ 32) 0 s).2
  else
    match busRead a 4 0 s with
    | (some x, s) => .next (loadIr .memacc (v - v / 2 ^ 32 % 2 ^ 32 * 2 ^ 32 + x * 2 ^ 32) s)
    | (none, s) => .next (nextFresh (loadIr .memacc (v - v / 2 ^ 32 % 2 ^ 32 * 2 ^ 32 + (Config.jtagData s.fresh).toNat * 2 ^ 32) s))

end Sys2Proof.Machine
end

