-- ==== Sys2Proof/Machine/Operands.lean ====
section
/-! DEFINITION. The operand forms of the instruction set: the operand word, prefixes and their legality, sources, displacements
(R192 to R197). -/

namespace Sys2Proof.Machine

open Sys2Proof

/-- CORE.ID (R190). -/
def coreNum : CoreId → Nat
  | .host n => n.val
  | .loop c => 16 + c.val
  | .spare n => 48 + n.val

/-! ### The operand word (R193) -/

def fieldD (o : BitVec 16) : Nat := (o.extractLsb 4 0).toNat
def fieldA (o : BitVec 16) : Nat := (o.extractLsb 9 5).toNat
def fieldB (o : BitVec 16) : Nat := (o.extractLsb 14 10).toNat
def optionX (o : BitVec 16) : Bool := o.getLsbD 15

/-- A field that names a capability register has bit 4 zero. -/
def capField (n : Nat) : Bool := decide (n < 16)

/-- A register that may hold a pair: even and not g0. -/
def pairField (n : Nat) : Bool := n % 2 == 0 && n != 0

/-! ### Prefixes (R192, R194, R197) -/

/-- The class of a prefix. -/
def prefixClass : Prefix → Nat
  | .cap _ => 0
  | .width8 => 1
  | .width16 => 1
  | .width64 => 1
  | .acquire => 2
  | .release => 2
  | .acqRel => 2
  | .repeat_ => 3

/-- The prefixes that an instruction's row allows. -/
structure Allows where
  cap : Bool := false
  narrow : Bool := false
  wide : Bool := false
  acquire : Bool := false
  release : Bool := false
  both : Bool := false
  rep : Bool := false

/-- A row allows the prefix. -/
def Allows.has (w : Allows) : Prefix → Bool
  | .cap _ => w.cap
  | .width8 => w.narrow
  | .width16 => w.narrow
  | .width64 => w.wide
  | .acquire => w.acquire
  | .release => w.release
  | .acqRel => w.both
  | .repeat_ => w.rep

/-- No two prefixes of one class. -/
def onePerClass : List Prefix → Bool
  | [] => true
  | p :: ps => !ps.any (fun q => prefixClass q == prefixClass p) && onePerClass ps

/-- The prefixes are ones that the row allows, at most one of each class. -/
def prefixesOk (w : Allows) (ps : List Prefix) : Bool := onePerClass ps && ps.all w.has

/-- The rows of R209 and R197. -/
def allowNone : Allows := {}
def allowCap : Allows := { cap := true }
def allowLoad : Allows := { cap := true, narrow := true, wide := true, acquire := true }
def allowLoadSigned : Allows := { cap := true, narrow := true, acquire := true }
def allowStore : Allows := { cap := true, narrow := true, wide := true, release := true }
def allowStoreImm : Allows := { cap := true, narrow := true, release := true }
def allowAtomic : Allows := { cap := true, narrow := true, acquire := true, release := true, both := true }
def allowBlock : Allows := { narrow := true, wide := true, rep := true }
def allowCapLoad : Allows := { cap := true, acquire := true }
def allowCapStore : Allows := { cap := true, release := true }

/-- The capability register that authorises the access: that of the prefix, else c0. -/
def authReg (ps : List Prefix) : Nat :=
  (ps.findSome? (fun p => match p with
    | .cap k => some k.val
    | _ => none)).getD 0

/-- The element size in bytes: that of the width prefix, else 4. -/
def elemSize (ps : List Prefix) : Nat :=
  (ps.findSome? (fun p => match p with
    | .width8 => some 1
    | .width16 => some 2
    | .width64 => some 8
    | _ => none)).getD 4

/-- The instruction carries an order prefix. -/
def hasOrder (ps : List Prefix) : Bool := ps.any (fun p => prefixClass p == 2)

/-- The instruction carries the repeat prefix. -/
def hasRepeat (ps : List Prefix) : Bool := ps.any (fun p => prefixClass p == 3)

/-! ### Sources and displacements -/

/-- The bytes after the opcode of an ALU or compare form: R, I8, I32. -/
def srcBytes : Src → Nat
  | .reg => 2
  | .imm8 _ => 3
  | .imm32 _ => 6

/-- The form has its second source in register B. -/
def srcReg : Src → Bool
  | .reg => true
  | _ => false

/-- The displacement, sign-extended to 32 bits. -/
def dispVal : Disp → Nat
  | .d16 v => (v.signExtend 32).toNat
  | .d32 v => v.toNat

/-- The bytes of a displacement. -/
def dispBytes : Disp → Nat
  | .d16 _ => 2
  | .d32 _ => 4

/-- An address or a target, modulo 2^32. -/
def wrap32 (n : Nat) : Nat := n % 2 ^ 32

end Sys2Proof.Machine
end

