-- ==== Sys2Proof/Machine/CoreMem.lean ====
section
/-! DEFINITION. What a core reaches: its registers, the data space of a host core and of a loop core, its refuge SRAM, the context
window (R118, R187 to R190, R212, R216, R218, R220, R225, R253, R277, R282, R283). -/

namespace Sys2Proof.Machine

open Sys2Proof

/-! ### Registers (R187, R188) -/

/-- Register g`n` of core `i`, a word of 32 bits; g0 reads 0. -/
def gGet (i n : Nat) (s : State) : Nat := if n = 0 then 0 else sget 0 (cpu i s).g n % 2 ^ 32

/-- Register g`n` of core `i` takes `v`; a write of g0 is discarded. -/
def gSet (i n v : Nat) (s : State) : State :=
  if n = 0 then s else setCpu i { cpu i s with g := sset 0 (cpu i s).g n (v % 2 ^ 32) } s

/-- An element of `n` bytes in register `r`, or in the pair from `r` on: its low bytes. -/
def gElem (i r n : Nat) (s : State) : Nat :=
  if n = 8 then gGet i r s + 2 ^ 32 * gGet i (r + 1) s else gGet i r s % 2 ^ (8 * n)

/-- A register, or a pair, takes an element. -/
def gPut (i r n v : Nat) (s : State) : State := if n = 8 then gSet i (r + 1) (v / 2 ^ 32) (gSet i r v s) else gSet i r v s

/-- Capability register c`k` of core `i`. -/
def cGet (i k : Nat) (s : State) : Cap := sget Cap.none (cpu i s).c k

/-- Capability register c`k` takes a capability. -/
def cSet (i k : Nat) (c : Cap) (s : State) : State := setCpu i { cpu i s with c := sset Cap.none (cpu i s).c k c } s

/-! ### The data space of a loop core (R216, R277) -/

/-- The core is a host core. -/
def isHost (i : Nat) : Bool := decide (i < 4)

/-- The region of loop core `i`; the cluster that it serves. -/
def coreRegion (i : Nat) : Nat := if i < 40 then (i - 16) / 6 else i - 48
def coreCluster (i : Nat) : Option Nat := if 16 ≤ i ∧ i < 40 then some (i - 16) else none

/-- The map address of loop core `i`'s code memory; its data memory is 0x20000 above. -/
def codeBase (i : Nat) : Nat := if i < 40 then 0x4A000000 + 0x40000 * (i - 16) else 0x4A600000 + 0x40000 * (i - 48)

/-- The key of core `i`'s refuge SRAM; its first address as a loop core sees it. -/
def refugeKey (i : Nat) : Nat := 0x47800000 + 0x1000 * i
def refugeBase (i : Nat) : Nat := if isHost i then refugeKey i else 0x10F000

/-- The run of the cluster that waits for a routine on core `i`: while it does, the core sees the run's context (R118). -/
def routine (i : Nat) (s : State) : Option (Nat × Run) :=
  match coreCluster i with
  | none => none
  | some c => match (eng c s).run with
    | none => none
    | some r => if r.core.isSome then some (c, r) else none

/-- Core `i` is the loop core of a cluster whose CORE_MODE is 1 (R117). -/
def coreModeOne (i : Nat) (s : State) : Bool :=
  match coreCluster i with
  | some c => fbit LPE_CFG_CORE_MODE c s
  | none => false

/-- What a loop core's address leads to: a memory with its key, the context window, LCX_RET, a register block of its own cluster, of its
own region or the sweep block, general SRAM; or nothing. -/
inductive Place where
  | code (f : Nat)
  | data (f : Nat)
  | refuge (f : Nat)
  | window
  | ret
  | own
  | region
  | sram
  | nothing
deriving DecidableEq, Repr

/-- A register block of core `i`'s own cluster: the cluster's blocks and the core's control block. -/
def ownBlock (i a : Nat) : Bool :=
  (decide (a < 0x4A000000) && (blockCluster a).isSome && blockCluster a == coreCluster i) || within a (0x47000000 + 0x400 * i) 0x400

/-- A register block of core `i`'s own region, those of the region's clusters among them, or the sweep block. -/
def regionBlock (i a : Nat) : Bool :=
  let n := coreRegion i
  within a 0x40000000 0x1000 || within a (0x41018000 + 0x100 * n) 0x100 || within a (0x43000000 + 0x2000 * n) 0x2000
    || within a (0x44180000 + 0x100 * n) 0x100 || within a (0x45008100 + 0x10 * n) 0x10
    || (decide (a < 0x4A000000) && (match blockCluster a with
      | some c => c / 6 == n
      | none => false))

/-- Where the `n` bytes at `a` of loop core `i`'s data space lie. -/
def loopPlace (i a n : Nat) (s : State) : Place :=
  if a + n ≤ 0x20000 then .code (codeBase i + a)
  else if 0x100000 ≤ a ∧ a + n ≤ 0x110000 then
    if fbit EXC_STAT_IN_REFUGE i s then
      if 0x10F000 ≤ a then .refuge (refugeKey i + (a - 0x10F000))
      else if a + n ≤ 0x10F000 then .data (codeBase i + 0x20000 + (a - 0x100000)) else .nothing
    else .data (codeBase i + 0x20000 + (a - 0x100000))
  else if 0x7F000000 ≤ a ∧ a + n ≤ 0x7F000104 then
    if 0x7F000100 ≤ a then (if (routine i s).isSome || coreModeOne i s then .ret else .nothing)
    else if (routine i s).isSome && decide (a + n ≤ 0x7F000100) then .window else .nothing
  else if regionOf a = .sram ∧ regionOf (a + n - 1) = .sram then .sram
  else if ownBlock i a then .own
  else if regionBlock i a then .region
  else .nothing

/-! ### Counts (R218, R225) -/

/-- What an access adds for crossing an 8-byte word, and for 64 bits or more. -/
def addition (p : Place) (a n : Nat) : Nat :=
  let k := match p with
    | .sram => 4
    | _ => 1
  (if n ≤ 8 ∧ a / 8 ≠ (a + n - 1) / 8 then k else 0) + (if 8 ≤ n then k else 0)

/-- The loop-core counts of R218 for a load, a store, an atomic. -/
def loadCount (p : Place) (a n : Nat) : Nat := addition p a n + match p with
  | .code _ => 3
  | .own => 4
  | .region => 6
  | .sram => 40
  | _ => 2
def storeCount (p : Place) (a n : Nat) : Nat := addition p a n + match p with
  | .code _ => 2
  | .sram => 40
  | _ => 1
def atomicCount (p : Place) (a n : Nat) : Nat := addition p a n + match p with
  | .sram => 80
  | _ => 3

/-- The least count of R225 and R253 for a host load within one line: a cacheable region hits in the data cache. -/
def hostLoad (a : Nat) : Nat :=
  match regionOf a with
  | .dram | .sram => 3
  | .frame => 40
  | .hamper => 48
  | .store => 120
  | .rom => 24
  | .device => if within a 0x47800000 0x4000 then 6 else if byteMemory a || (lpeArea a).isSome then 36 else 32
  | _ => 1

/-- The least count of a host load of `n` bytes at `a`: 2 more for a cacheable one that crosses a line of 64 bytes, 4 more for an uncached one
that crosses an 8-byte word; a refuge SRAM adds nothing (R225, R253). -/
def hostCount (a n : Nat) : Nat :=
  hostLoad a + match regionOf a with
    | .dram | .sram => if a / 64 ≠ (a + n - 1) / 64 then 2 else 0
    | _ => if a / 8 ≠ (a + n - 1) / 8 ∧ !within a 0x47800000 0x4000 then 4 else 0

/-! ### Reads and writes of a core -/

/-- The `n` bytes at `a` are core `i`'s own refuge SRAM, which it reaches in the refuge (R253): a host core's. -/
def ownRefuge (i a n : Nat) (s : State) : Bool :=
  decide (refugeKey i ≤ a) && decide (a + n ≤ refugeKey i + 0x1000) && fbit EXC_STAT_IN_REFUGE i s

/-- The map key of byte `o` of the context window (R118). -/
def windowKey (i o : Nat) (s : State) : Nat :=
  match routine i s with
  | some (c, r) => lpeBase c + 256 * r.ctx + o
  | none => 0

/-- The words of the running context as bytes, from offset `o` on. -/
def windowBytes (g o : Nat) : Nat → State → Nat
  | 0, _ => 0
  | n + 1, s => ctxGet g (o / 4) s / 2 ^ (8 * (o % 4)) % 256 + 256 * windowBytes g (o + 1) n s

/-- Word `x` of the running context with the bytes that `n` bytes of `v` at window offset `o` give it; W55, of which the bits written as
1 clear, has 0 elsewhere. -/
def windowWord (g o n v x : Nat) (s : State) : Nat :=
  (List.range 4).foldl (fun t k =>
    let p := 4 * x + k
    let byte := if o ≤ p ∧ p < o + n then v / 2 ^ (8 * (p - o)) % 256
      else if x = 55 then 0 else ctxGet g x s / 2 ^ (8 * k) % 256
    t + byte * 2 ^ (8 * k)) 0

/-- A routine writes `n` bytes of `v` at window offset `o`: W0 to W3 are read-only (R118). -/
def windowWrite (g o n v : Nat) (s : State) : State :=
  forAll ((List.range ((o + n + 3) / 4 - o / 4)).map (o / 4 + ·)) (fun x t =>
    if x < 4 then t else tracedWrite g x (windowWord g o n v x t) t) s

/-- Loop core `i` reads a register block of its region: one of another cluster shows the values that crossed at the last LINE_START
(R33, R220). -/
def regionRead (i a n : Nat) (s : State) : Option Nat × State :=
  let (v, t) := busRead a n i s
  if v.isSome && (blockCluster a).isSome && blockCluster a != coreCluster i then
    ((busRead a n i { s with regs := s.regs1, regs0 := s.regs1, ctx := s.ctx1, ctx0 := s.ctx1, mem := s.mem1, hits := [] }).1, t)
  else (v, t)

/-- Core `i` reads `n` bytes at `a`: the value, or `none` for a bus error. -/
def coreRead (i a n : Nat) (s : State) : Option Nat × State :=
  if isHost i then
    if ownRefuge i a n s then readMem a n i s else busRead a n i s
  else match loopPlace i a n s with
  | .code f => readMem f n i s
  | .data f => readMem f n i s
  | .refuge f => readMem f n i s
  | .window =>
    match checkWords (wordsOf (windowKey i (a - 0x7F000000) s) n) i s with
    | (true, t) => (some (match routine i s with
      | some (c, r) => windowBytes (runCtx c r) (a - 0x7F000000) n t
      | none => 0), t)
    | (false, t) => (none, t)
  | .ret => (some 0, s)
  | .sram => busRead a n i s
  | .own => if n ≤ 4 then busRead a n i s else (none, s)
  | .region => if n ≤ 4 then regionRead i a n s else (none, s)
  | .nothing => (none, s)

/-- A store of a host core to a cacheable memory (R225, R283). -/
def cachedWrite (a n v i : Nat) (s : State) : Bool × State :=
  match regionOf a with
  | .dram =>
    if !dramUp s || regionOf (a + n - 1) ≠ .dram then (false, s)
    else
      let m := min n (2 ^ 28 - a % 2 ^ 28)
      let s := cacheStore (flat a s) m v i s
      (true, if m = n then s else cacheStore (flat (a + m) s) (n - m) (v / 2 ^ (8 * m)) i s)
  | .sram => if regionOf (a + n - 1) ≠ .sram then (false, s) else (true, cacheStore a n v i s)
  | _ => busWrite a n v i s

/-- A loop core's store to general SRAM from cycle `b` on is performed when the instruction retires (R218); one that would meet a bus error
meets it at once. -/
def sramStore (i a n v b : Nat) (tag : Bool) (s : State) : Bool × State :=
  match busWrite a n v i s with
  | (true, _) => (true, later ((b + storeCount .sram a n - 1) / 2 - s.time) (.store i a n v tag) s)
  | (false, t) => (false, t)

/-- Core `i` writes `n` bytes of `v` at `a` in core cycle `b`: false for a bus error. A loop core's store to a register block reaches it
in the dot of cycle b + 2, in its own region of cycle b + 4 (R220), one to general SRAM when it retires (R218). A write of LCX_RET returns
the routine (R118). -/
def coreWrite (i a n v b : Nat) (s : State) : Bool × State :=
  if isHost i then
    if ownRefuge i a n s then writeMem a n v i s else cachedWrite a n v i s
  else match loopPlace i a n s with
  | .code f => writeMem f n v i s
  | .data f => writeMem f n v i s
  | .refuge f => writeMem f n v i s
  | .window =>
    match checkWords (partWords (windowKey i (a - 0x7F000000) s) n) i s with
    | (true, t) => (true, match routine i s with
      | some (c, r) => windowWrite (runCtx c r) (a - 0x7F000000) n v (cleanWords (wordsOf (windowKey i (a - 0x7F000000) s) n) t)
      | none => t)
    | (false, t) => (false, t)
  | .ret => (true, match routine i s with
    | some (c, r) => (match r.core with
      | some (first, _) => coreReturn c (b + 1 - (r.start + first)) s
      | none => s)
    | none => coreReturn (i - 16) 0 s)
  | .sram => sramStore i a n v b false s
  | .own => if n ≤ 4 ∧ a % n = 0 then (true, later ((b + 2) / 2 - s.time) (.store i a n v false) s) else (false, s)
  | .region => if n ≤ 4 ∧ a % n = 0 then (true, later ((b + 4) / 2 - s.time) (.store i a n v false) s) else (false, s)
  | .nothing => (false, s)

/-- The write of an atomic, which is one with its read (R230). -/
def atomicWrite (i a n v b : Nat) (s : State) : Bool × State :=
  if !isHost i && loopPlace i a n s == .sram then busWrite a n v i s else coreWrite i a n v b s

/-- A posted store meets a bus error: it is dropped and MEM_PWERR is reported (R282). -/
def postedError (i a : Nat) (s : State) : State := report 0x10A (memAddr (flat a s)) (memInfo (flat a s) i) s

/-- A store of a loop core reaches its block or general SRAM (R218, R220, R282). -/
def storeArrives (req a n v : Nat) (tag : Bool) (s : State) : State :=
  match (if n = 16 then busWriteCap a ⟨BitVec.ofNat 128 v, tag⟩ req s else busWrite a n v req s) with
  | (true, t) => t
  | (false, t) => postedError req a t

/-- A store instruction's write: every store of a host core is posted, but one that is not aligned in a register block never leaves the
core (R225, R282). -/
def storeWrite (i a n v b : Nat) (s : State) : Bool × State :=
  match coreWrite i a n v b s with
  | (true, t) => (true, t)
  | (false, t) =>
    if isHost i && !(regionOf a = .device && !byteMemory a && a % n != 0) then (true, postedError i a t) else (false, t)

/-! ### Capabilities in memory (R237) -/

/-- The 16-byte word at `a` lies in a tag-bearing memory, as core `i` sees it. -/
def coreTags (i a : Nat) (s : State) : Bool :=
  if isHost i then ownRefuge i a 16 s || tagBearing a
  else match loopPlace i a 16 s with
  | .code _ => false
  | .data _ => true
  | .refuge _ => true
  | .window => false
  | .ret => false
  | _ => tagBearing a

/-- Core `i` reads the 16-byte word at `a` with its tag. -/
def coreReadCap (i a : Nat) (s : State) : Option Cap × State :=
  if isHost i then
    if ownRefuge i a 16 s then readCap a i s else busReadCap a i s
  else match loopPlace i a 16 s with
  | .data f => readCap f i s
  | .refuge f => readCap f i s
  | .sram => busReadCap a i s
  | _ => match coreRead i a 16 s with
    | (some v, t) => (some ⟨BitVec.ofNat 128 v, false⟩, t)
    | (none, t) => (none, t)

/-- Core `i` writes the 16-byte word at `a` with its tag: false for a bus error. -/
def coreWriteCap (i a : Nat) (k : Cap) (b : Nat) (s : State) : Bool × State :=
  if isHost i then
    if ownRefuge i a 16 s then (true, writeCap a k s) else busWriteCap a k i s
  else match loopPlace i a 16 s with
  | .data f => (true, writeCap f k s)
  | .refuge f => (true, writeCap f k s)
  | .sram => sramStore i a 16 k.v.toNat b k.tag s
  | _ => coreWrite i a 16 k.v.toNat b s

end Sys2Proof.Machine
end

