-- ==== Sys2Proof/Machine/Float.lean ====
section
/-! DEFINITION. Binary32 arithmetic (R203, R204): exact values, rounding, the FSTAT bits that an operation raises. Words and bits are
natural numbers. -/

namespace Sys2Proof.Machine

open Sys2Proof

/-! ### FSTAT bits (R190) -/

def fNX : Nat := 0x1
def fUF : Nat := 0x2
def fOF : Nat := 0x4
def fDZ : Nat := 0x8
def fNV : Nat := 0x10

/-- A result word and the FSTAT bits that it raises. -/
structure FRes where
  v : Nat
  f : Nat
deriving DecidableEq, Repr

/-- A binary32 value; a finite one is (-1)^neg × m × 2^e. -/
inductive F32 where
  | nan (signalling : Bool)
  | inf (neg : Bool)
  | zero (neg : Bool)
  | fin (neg : Bool) (m : Nat) (e : Int)
deriving DecidableEq, Repr

def signBit (neg : Bool) : Nat := if neg then 2 ^ 31 else 0
def quietNaN : Nat := 0x7FC00000
def infF (neg : Bool) : Nat := signBit neg + 0x7F800000
def largestF (neg : Bool) : Nat := signBit neg + 0x7F7FFFFF

/-- The value of a word; with FTZ a subnormal one is the zero of its sign. -/
def unpack (ftz : Bool) (w : Nat) : F32 :=
  let neg := w.testBit 31
  let x := bits w 30 23
  let m := bits w 22 0
  if x = 255 then (if m = 0 then .inf neg else .nan (m < 2 ^ 22))
  else if x = 0 then (if m = 0 || ftz then .zero neg else .fin neg m (-149))
  else .fin neg (m + 2 ^ 23) ((x : Int) - 150)

/-- The operand as FMIN and FMAX hand it on: with FTZ a subnormal one is the zero of its sign. -/
def flushed (ftz : Bool) (w : Nat) : Nat := if ftz && bits w 30 23 == 0 then signBit (w.testBit 31) else w

def F32.isNaN : F32 → Bool
  | .nan _ => true
  | _ => false

/-- NV for a signalling NaN. -/
def F32.nv : F32 → Nat
  | .nan true => fNV
  | _ => 0

/-! ### Rounding -/

/-- A quotient by 2^d, rounded under `rm` (0 nearest even, 1 toward zero, 2 up, 3 down), and whether it is inexact. -/
def roundShift (rm : Nat) (neg : Bool) (m d : Nat) : Nat × Bool :=
  let q := m / 2 ^ d
  let r := m % 2 ^ d
  let up := match rm with
    | 0 => decide (2 ^ d < 2 * r) || (decide (2 * r = 2 ^ d) && q % 2 == 1)
    | 1 => false
    | 2 => !neg && r != 0
    | _ => neg && r != 0
  (if up && d != 0 then q + 1 else q, r != 0)

/-- m × 2^e as a multiple of 2^q, rounded. -/
def roundTo (rm : Nat) (neg : Bool) (m : Nat) (e q : Int) : Nat × Bool :=
  if q ≤ e then (m * 2 ^ (e - q).toNat, false) else roundShift rm neg m (q - e).toNat

/-- The result of an overflow. -/
def overflowed (rm : Nat) (neg : Bool) : FRes :=
  let inf := match rm with
    | 0 => true
    | 1 => false
    | 2 => !neg
    | _ => neg
  ⟨if inf then infF neg else largestF neg, fOF + fNX⟩

/-- The value (-1)^neg × m × 2^e with m above 0, correctly rounded; with FTZ a subnormal result is the zero of its sign with UF and NX. -/
def roundF (rm : Nat) (ftz neg : Bool) (m : Nat) (e : Int) : FRes :=
  let top := (Nat.log2 m : Int) + e
  let q := max (top - 23) (-149)
  let (x, inexact) := roundTo rm neg m e q
  let carried := decide (x = 2 ^ 24)
  let x := if carried then 2 ^ 23 else x
  let q := if carried then q + 1 else q
  if x < 2 ^ 23 then
    if ftz && x != 0 then ⟨signBit neg, fUF + fNX⟩
    else ⟨signBit neg + x, (if inexact then fUF + fNX else 0)⟩
  else if 254 < q + 150 then overflowed rm neg
  else
    let tiny := decide (top < -126) && (Config.tinyBefore || decide ((roundTo rm neg m e (top - 23)).1 < 2 ^ 24))
    ⟨signBit neg + (q + 150).toNat * 2 ^ 23 + (x - 2 ^ 23), if inexact then (if tiny then fUF + fNX else fNX) else 0⟩

/-- An integer times 2^e, correctly rounded; an exact zero is `z`. -/
def roundInt (rm : Nat) (ftz z : Bool) (i : Int) (e : Int) : FRes :=
  if i = 0 then ⟨signBit z, 0⟩ else roundF rm ftz (i < 0) i.natAbs e

/-- The sign of an exact zero sum of operands that are not zeros of one sign. -/
def zeroSum (rm : Nat) : Bool := rm == 3

/-- The value of a finite number in units of 2^e, for e at most its own exponent. -/
def F32.scaled (e : Int) : F32 → Int
  | .fin neg m x => (if neg then -1 else 1) * ((m * 2 ^ (x - e).toNat : Nat) : Int)
  | _ => 0

/-- The exponent of a finite number; a zero's is as good as any. -/
def F32.exp : F32 → Int
  | .fin _ _ e => e
  | _ => 200

/-- The sign of a number; of a NaN, false. -/
def F32.neg : F32 → Bool
  | .nan _ => false
  | .inf n => n
  | .zero n => n
  | .fin n _ _ => n

def F32.isInf : F32 → Bool
  | .inf _ => true
  | _ => false

def F32.isZero : F32 → Bool
  | .zero _ => true
  | _ => false

/-! ### The operations -/

/-- The sum of two values. -/
def addF (rm : Nat) (ftz : Bool) (a b : F32) : FRes :=
  let nv := a.nv ||| b.nv
  if a.isNaN || b.isNaN then ⟨quietNaN, nv⟩
  else if a.isInf || b.isInf then
    (if a.isInf && b.isInf && a.neg != b.neg then ⟨quietNaN, fNV⟩ else ⟨infF (if a.isInf then a.neg else b.neg), 0⟩)
  else if a.isZero && b.isZero then ⟨signBit (if a.neg == b.neg then a.neg else zeroSum rm), 0⟩
  else
    let e := min a.exp b.exp
    roundInt rm ftz (zeroSum rm) (a.scaled e + b.scaled e) e

/-- The value with its sign inverted. -/
def F32.negate : F32 → F32
  | .nan q => .nan q
  | .inf n => .inf !n
  | .zero n => .zero !n
  | .fin n m e => .fin (!n) m e

/-- The product of two values, exact; `none` for an invalid one. -/
def mulExact (a b : F32) : Option F32 :=
  let n := a.neg != b.neg
  match a, b with
  | .fin _ m e, .fin _ k x => some (.fin n (m * k) (e + x))
  | .inf _, .zero _ => none
  | .zero _, .inf _ => none
  | .inf _, _ => some (.inf n)
  | _, .inf _ => some (.inf n)
  | _, _ => some (.zero n)

/-- A value as a result word, correctly rounded. -/
def F32.rounded (rm : Nat) (ftz : Bool) : F32 → FRes
  | .nan _ => ⟨quietNaN, 0⟩
  | .inf n => ⟨infF n, 0⟩
  | .zero n => ⟨signBit n, 0⟩
  | .fin n m e => roundF rm ftz n m e

/-- The product of two values. -/
def mulF (rm : Nat) (ftz : Bool) (a b : F32) : FRes :=
  if a.isNaN || b.isNaN then ⟨quietNaN, a.nv ||| b.nv⟩
  else match mulExact a b with
  | none => ⟨quietNaN, fNV⟩
  | some p => p.rounded rm ftz

/-- d + a × b, rounded once. -/
def fmaF (rm : Nat) (ftz : Bool) (d a b : F32) : FRes :=
  let nv := d.nv ||| a.nv ||| b.nv
  if a.isNaN || b.isNaN then ⟨quietNaN, nv⟩
  else match mulExact a b with
  | none => ⟨quietNaN, if d.isNaN then (if Config.fmaNanInvalid then fNV else nv) else fNV⟩
  | some p => if d.isNaN then ⟨quietNaN, nv⟩ else addF rm ftz d p

/-- The quotient of two values. -/
def divF (rm : Nat) (ftz : Bool) (a b : F32) : FRes :=
  let n := a.neg != b.neg
  if a.isNaN || b.isNaN then ⟨quietNaN, a.nv ||| b.nv⟩
  else match a, b with
  | .inf _, .inf _ => ⟨quietNaN, fNV⟩
  | .zero _, .zero _ => ⟨quietNaN, fNV⟩
  | .inf _, _ => ⟨infF n, 0⟩
  | _, .inf _ => ⟨signBit n, 0⟩
  | .zero _, _ => ⟨signBit n, 0⟩
  | _, .zero _ => ⟨infF n, fDZ⟩
  | .fin _ m e, .fin _ k x =>
    let t := m * 2 ^ 50
    roundF rm ftz n (2 * (t / k) + if t % k = 0 then 0 else 1) (e - x - 51)
  | _, _ => ⟨quietNaN, fNV⟩

/-- The integer square root of `n` below 2^(2 × bits), bit by bit. -/
def isqrt (n : Nat) : Nat → Nat → Nat
  | 0, r => r
  | b + 1, r => isqrt n b (if (r + 2 ^ b) * (r + 2 ^ b) ≤ n then r + 2 ^ b else r)

/-- The square root of a value. -/
def sqrtF (rm : Nat) (ftz : Bool) (a : F32) : FRes :=
  match a with
  | .nan _ => ⟨quietNaN, a.nv⟩
  | .zero n => ⟨signBit n, 0⟩
  | .inf n => if n then ⟨quietNaN, fNV⟩ else ⟨infF false, 0⟩
  | .fin n m e =>
    if n then ⟨quietNaN, fNV⟩
    else
      let k : Nat := if e % 2 = 0 then 60 else 61
      let t := m * 2 ^ k
      let r := isqrt t 43 0
      roundF rm ftz false (2 * r + if r * r = t then 0 else 1) ((e - k) / 2 - 1)

/-! ### Comparisons -/

/-- a < b and a = b for values that are no NaNs. -/
def ltF (a b : F32) : Bool :=
  match a, b with
  | .inf n, .inf k => n && !k
  | .inf n, _ => n
  | _, .inf k => !k
  | _, _ => let e := min a.exp b.exp
            decide (a.scaled e < b.scaled e)

def eqF (a b : F32) : Bool :=
  match a, b with
  | .inf n, .inf k => n == k
  | .inf _, _ => false
  | _, .inf _ => false
  | _, _ => let e := min a.exp b.exp
            decide (a.scaled e = b.scaled e)

/-- FMIN, and FMAX with `hi`: with one NaN the other operand; -0 lies below +0. -/
def minmaxF (hi : Bool) (wa wb : Nat) (a b : F32) : FRes :=
  let nv := a.nv ||| b.nv
  if a.isNaN && b.isNaN then ⟨quietNaN, nv⟩
  else if a.isNaN then ⟨wb, nv⟩
  else if b.isNaN then ⟨wa, nv⟩
  else
    let less := ltF a b || (a.isZero && b.isZero && a.neg && !b.neg)
    ⟨if less != hi then wa else wb, nv⟩

/-- FCEQ: NV only for a signalling NaN. -/
def fceqF (a b : F32) : FRes := ⟨(!a.isNaN && !b.isNaN && eqF a b).toNat, a.nv ||| b.nv⟩

/-- FCLT, and FCLE with `orEq`: NV for any NaN. -/
def fcltF (orEq : Bool) (a b : F32) : FRes :=
  if a.isNaN || b.isNaN then ⟨0, fNV⟩ else ⟨(ltF a b || (orEq && eqF a b)).toNat, 0⟩

/-- FCUN. -/
def fcunF (a b : F32) : FRes := ⟨(a.isNaN || b.isNaN).toNat, a.nv ||| b.nv⟩

/-! ### Conversions (R204) -/

/-- The signed integer `i` divided by 2^n, to binary32. -/
def fromInt (rm : Nat) (ftz : Bool) (i : Int) (n : Nat) : FRes := roundInt rm ftz false i (-(n : Int))

/-- A value times 2^n as a signed integer: a NaN gives 0, what is out of range the end of the range by its sign; either sets NV. -/
def toInt (rm : Nat) (a : F32) (n : Nat) : FRes :=
  match a with
  | .nan _ => ⟨0, fNV⟩
  | .inf neg => ⟨if neg then 0x80000000 else 0x7FFFFFFF, fNV⟩
  | .zero _ => ⟨0, 0⟩
  | .fin neg m e =>
    let (x, inexact) := roundTo rm neg m (e + n) 0
    if neg then (if 2 ^ 31 < x then ⟨0x80000000, fNV⟩ else ⟨word (-(x : Int)), if inexact then fNX else 0⟩)
    else (if 2 ^ 31 ≤ x then ⟨0x7FFFFFFF, fNV⟩ else ⟨x, if inexact then fNX else 0⟩)

end Sys2Proof.Machine
end

