-- ==== Sys2Proof/Machine/Flags.lean ====
section
/-! DEFINITION. The special registers and FSTAT: masks, traps, the multiplier pair MH:ML (R190, R191, R198, R199). -/

namespace Sys2Proof.Machine

open Sys2Proof

def fIDZ : Nat := 0x100
def fIOV : Nat := 0x200
def fSAT : Nat := 0x400

/-- The bits of FSTAT and FCTRL that can be written. -/
def fstatMask : Nat := 0x71F
def fctrlMask : Nat := 0x7F07

/-- FSTAT bits are set (R191). -/
def raise (i f : Nat) (s : State) : State := if f = 0 then s else setCpu i { cpu i s with fstat := (cpu i s).fstat ||| f } s

/-- FSTAT bits are set in cycle `c`, on a host core the last before the result is ready (R191, R223). -/
def raiseAt (i f c : Nat) (s : State) : State :=
  if f = 0 then s else let t := raise i f s; if !isHost i then t else setCpu i { cpu i t with sets := (cpu i t).sets ++ [(c, f)] } t

/-- The FSTAT bits whose trap enable is 1: NX to NV under TNX to TNV, IDZ and IOV under TIDZ and TIOV. -/
def trapBits (c : Nat) : Nat := bits c 12 8 + bits c 14 13 * 2 ^ 8

/-- The rounding mode and FTZ. -/
def fRM (i : Nat) (s : State) : Nat := bits (cpu i s).fctrl 1 0
def fFTZ (i : Nat) (s : State) : Bool := (cpu i s).fctrl.testBit 2

/-- The value of MH:ML that an instruction sees which begins in cycle `b` (R199). -/
def macSeen (b : Nat) (h : Cpu) : Nat := ((h.flight.filter (fun e => decide (e.1 < b))).getLast?.map Prod.snd).getD h.landed

/-- What has landed before cycle `b` leaves the results under way. -/
def macSettle (b : Nat) (h : Cpu) : Cpu :=
  { h with landed := macSeen b h, flight := h.flight.filter (fun e => !decide (e.1 < b)) }

/-- A multiplier result of an instruction that begins in cycle `b` lands at the end of cycle b + 2. -/
def macPut (b v : Nat) (h : Cpu) : Cpu := { h with mac := v % 2 ^ 64, flight := h.flight ++ [(b + 2, v % 2 ^ 64)] }

/-- The first cycle in which every multiplier result begun so far has landed. -/
def macLanded (b : Nat) (h : Cpu) : Nat := h.flight.foldl (fun m e => max m (e.1 + 1)) b

/-- Special register `n` as an MFS reads it that begins in cycle `b` (R190). -/
def specialRead (i n b : Nat) (s : State) : Nat :=
  let h := cpu i s
  match n with
  | 0 => macSeen b h % 2 ^ 32
  | 1 => macSeen b h / 2 ^ 32
  | 2 => h.fstat
  | 3 => h.fctrl
  | 4 => i
  | 5 => b % 2 ^ 32
  | _ => h.tickHi

end Sys2Proof.Machine
end

