-- ==== Sys2Proof/Machine/Opcodes.lean ====
section
/-! DEFINITION. The encoding of the instruction set: prefix bytes, opcodes, the bytes of each format (R192 to R194, R209 to R211). -/

namespace Sys2Proof.Machine

open Sys2Proof

/-- The prefix that a byte is (R192). -/
def prefixOf (b : Nat) : Option Prefix :=
  if 0xE0 ≤ b ∧ b ≤ 0xEF then some (.cap (Fin.ofNat 16 (b - 0xE0)))
  else match b with
  | 0xF0 => some .width8
  | 0xF1 => some .width16
  | 0xF2 => some .width64
  | 0xF4 => some .acquire
  | 0xF5 => some .release
  | 0xF6 => some .acqRel
  | 0xF8 => some .repeat_
  | _ => none

/-- The leading prefix bytes, at most `n` of them, and the bytes that follow. -/
def takePrefixes : Nat → List Byte → List Prefix × List Byte
  | n + 1, b :: bs =>
    match prefixOf b.toNat with
    | some p => let r := takePrefixes n bs; (p :: r.1, r.2)
    | none => ([], b :: bs)
  | _, bs => ([], bs)

/-- Bytes as a little-endian number (R11). -/
def littleEndian : List Byte → Nat
  | [] => 0
  | b :: bs => b.toNat + 256 * littleEndian bs

/-- The operand bytes that follow an opcode; an escaped opcode is 0x0F00 plus its second byte (R193, R209, R211). `none`: the tables do not
define it. -/
def operandBytes (op : Nat) : Option Nat :=
  if op < 0x08 then some 0
  else if op = 0x08 then some 1
  else if 0x10 ≤ op ∧ op < 0x30 then some 2
  else if 0x30 ≤ op ∧ op < 0x40 then some 3
  else if 0x40 ≤ op ∧ op < 0x50 then some 6
  else if 0x50 ≤ op ∧ op < 0x56 then some 3
  else if 0x58 ≤ op ∧ op < 0x5E then some 6
  else match op with
  | 0x20 | 0x21 | 0x22 | 0x23 | 0x24 | 0x25 | 0x26 | 0x27 | 0x28 | 0x29 | 0x2A | 0x2B | 0x2C | 0x2D | 0x2E | 0x2F => some 2
  | 0x60 | 0x61 => some 2
  | 0x70 | 0x72 | 0x74 | 0x76 | 0x77 | 0x78 | 0x79 | 0x7A => some 4
  | 0x71 | 0x73 | 0x75 => some 6
  | 0x7B => some 8
  | 0x80 | 0x81 | 0x88 => some 3
  | 0x82 | 0x83 => some 5
  | 0x84 | 0x85 => some 4
  | 0x86 | 0x87 => some 2
  | 0x90 | 0x91 | 0x92 | 0x93 | 0x94 | 0x95 => some 6
  | 0x98 | 0x99 | 0x9A | 0x9B | 0x9C | 0x9D => some 2
  | 0xA0 | 0xA1 | 0xA2 | 0xA3 | 0xA4 | 0xA5 => some 2
  | 0xB0 | 0xB1 | 0xB2 | 0xB3 => some 3
  | 0xC0 | 0xC1 => some 4
  | 0xC2 | 0xC3 | 0xC4 | 0xC5 | 0xC6 | 0xC7 | 0xC8 | 0xC9 | 0xCA => some 2
  | _ => if (0x0F00 ≤ op ∧ op < 0x0F12) then some 2 else if (0x0F20 ≤ op ∧ op < 0x0F23) then some 6 else none

/-- The bytes of an instruction behind its prefixes: the opcode, with the escape byte where it is escaped, and its operand bytes. -/
def codeLen (c : Code) : Nat := (if 0x0F00 ≤ c.op then 2 else 1) + (operandBytes c.op).getD 0

/-- The codes of the formats (R193): the operand word; with an imm8, an imm32; a displacement; a register byte; a capability byte. -/
def codeR (op : Nat) (o : BitVec 16) : Code := ⟨op, o.toNat, none⟩
def codeSrc (r i8 i32 : Nat) (o : BitVec 16) : Src → Code
  | .reg => ⟨r, o.toNat, none⟩
  | .imm8 v => ⟨i8, o.toNat + 2 ^ 16 * v.toNat, none⟩
  | .imm32 v => ⟨i32, o.toNat + 2 ^ 16 * v.toNat, none⟩
def codeM (op : Nat) (o : BitVec 16) : Disp → Code
  | .d16 d => ⟨op, o.toNat + 2 ^ 16 * d.toNat, none⟩
  | .d32 d => ⟨op + 1, o.toNat + 2 ^ 16 * d.toNat, none⟩
def codeB (op : Nat) (r : Byte) : Disp → Code
  | .d16 d => ⟨op, r.toNat + 2 ^ 8 * d.toNat, none⟩
  | .d32 d => ⟨op + 2, r.toNat + 2 ^ 8 * d.toNat, none⟩
def codeBit (j : Nat) (o : BitVec 16) : BitAddr → Code
  | .reg => ⟨0x98 + j, o.toNat, none⟩
  | .imm v => ⟨0x90 + j, o.toNat + 2 ^ 16 * v.toNat, none⟩

/-- `n` bytes from byte `i` on of the operand bytes. -/
def Code.field (c : Code) (i n : Nat) : Nat := c.v / 2 ^ (8 * i) % 2 ^ (8 * n)

/-- The code that the bytes behind the prefixes spell; `none` where the tables define no such opcode. -/
def codeOf : List Byte → Option Code
  | [] => none
  | b :: bs =>
    let r := if b.toNat = 0x0F then (match bs with
        | [] => (0x0FFF, [])
        | e :: es => (0x0F00 + e.toNat, es)) else (b.toNat, bs)
    (operandBytes r.1).map (fun n => ⟨r.1, littleEndian (r.2.take n), none⟩)

/-- The instruction that the bytes spell: its prefixes, its code. -/
def decodeBytes (bs : List Byte) : Option (List Prefix × Code) :=
  let p := takePrefixes 4 bs
  (codeOf p.2).map (fun c => (p.1, c))

end Sys2Proof.Machine
end

