-- ==== Sys2Proof/Machine/Exceptions.lean ====
section
/-! DEFINITION. Exceptions: the record, entry, the refuge handler, LOCKED, the return; and how an instruction runs between them
(R194, R208, R221, R241, R244 to R256, R268). -/

namespace Sys2Proof.Machine

open Sys2Proof

/-- An exception: cause, detail, ADDR and INFO of its record (R246). -/
structure Exc where
  cause : Nat
  detail : Nat
  addr : Nat
  info : Nat
deriving DecidableEq, Repr

/-! ### Causes (R244) -/

def excIllegal : Exc := ⟨1, 0, 0, 0⟩
def excCap (d a k : Nat) : Exc := ⟨2, d, a, k⟩
def excAlign (a : Nat) : Exc := ⟨3, 0, a, 0⟩
def excBit (d a : Nat) : Exc := ⟨4, d, a, 0⟩
def excData (a : Nat) : Exc := ⟨5, 0, a, 0⟩
def excArith (pc f : Nat) : Exc := ⟨6, 0, pc, f⟩
def excBrk : Exc := ⟨7, 0, 0, 0⟩
def excTrap (imm : Nat) : Exc := ⟨8, 0, imm, 0⟩
def excInterrupt (q : Nat) : Exc := ⟨9, 0, q, 0⟩
def excFault (src : Nat) : Exc := ⟨0xA, 0, src, 0⟩

/-! ### The record (R246) -/

/-- A 16-byte word of four 32-bit words. -/
def quad (a b c d : Nat) : Cap := ⟨BitVec.ofNat 128 (a % 2 ^ 32 + 2 ^ 32 * (b % 2 ^ 32) + 2 ^ 64 * (c % 2 ^ 32) + 2 ^ 96 * (d % 2 ^ 32)), false⟩

/-- The four 16-byte words of the record of exception `e` of core `i` with saved PC `pc`. -/
def excRecord (i : Nat) (e : Exc) (imprecise : Bool) (pc : Nat) (s : State) : List Cap :=
  [quad (e.cause + e.detail * 2 ^ 8 + (fbit EXC_CTRL_IE i s).toNat * 2 ^ 16 + imprecise.toNat * 2 ^ 17) pc e.addr e.info,
   quad (posLo s.pos) s.pos.frame 0 0, cGet i 14 s, cGet i 15 s]

/-- 16-byte words are written from `a` on, in order; false where one meets a bus error. -/
def pushWords (i a b : Nat) : List Cap → State → Bool × State
  | [], s => (true, s)
  | k :: ks, s =>
    match (if slotDenied (cGet i 15 s) a 16 then (false, s) else coreWriteCap i a k b s) with
    | (true, t) => pushWords i (a + 16) (b + storeCount (loopPlace i a 16 s) a 16) ks t
    | (false, t) => (false, t)

/-- The check of c15 for a push (R247); the detail of what fails. -/
def pushCheck (i : Nat) (s : State) : Option Nat :=
  let k := cGet i 15 s
  let top := k.base + k.length
  if !k.tag then some 1
  else if k.sealed then some 2
  else if k.kind ≠ 0 then some 3
  else if !(k.has permST && k.has permSTC) then some 4
  else if k.length < 64 || top % 16 ≠ 0 then some 5
  else if !(List.range 4).all (fun j => coreTags i (top - 64 + 16 * j) s) then some 7
  else none

/-! ### LOCKED (R256) -/

/-- Core `i` becomes LOCKED on exception `e` with saved PC `pc`. -/
def lockCore (i : Nat) (e : Exc) (pc : Nat) (s : State) : State :=
  let s := fon EXC_STAT_LOCKED i (fset CPU_LOCK0_DETAIL i e.detail (fset CPU_LOCK0_CAUSE i e.cause
    (fset CPU_LOCK1_PC i pc (fset CPU_LOCK2_ADDR i e.addr s))))
  report (0x180 + i) (e.cause + 2 ^ 8 * e.detail) pc (setCpu i { cpu i s with pc := pc, state := .run, block := none } s)

/-! ### The refuge handler (R252 to R255) -/

/-- Core `i` enters its refuge handler for reason `why`: `det` the detail of a failed check, `at_` the address of the first push write,
`src` the fault source, `r` the record as it would have been pushed; `b` the cycle in which the cause is known (R254). -/
def refugeEntry (i why det at_ src : Nat) (r : List Cap) (b : Nat) (s : State) : State :=
  let key := refugeKey i + 0xF80
  let ws := r ++ [quad (why + det * 2 ^ 8) at_ src 0, quad 0 0 0 0, quad 0 0 0 0, quad 0 0 0 0]
  let s := forAll (ws.zipIdx) (fun e t => writeCap (key + 16 * e.2) e.1 t) s
  let s := cSet i 14 (slotCap REF_CAP_CAP i s) (cSet i 15 (mkCap (refugeBase i) 0xF80 0x1B 0 false 0 true) s)
  let h := cpu i s
  let s := setCpu i { h with
    state := .run, pc := fget REF_PC_PC i s, entry := false, block := none, free := max h.free (b + if isHost i then 28 else 24) } s
  foff EXC_CTRL_IE i (fon EXC_STAT_IN_REFUGE i (fcount EXC_STAT_REFUGES i 1 s))

/-! ### Entry (R247, R249) -/

/-- The cycles from the boundary to the handler's first instruction; a host core's least count. -/
def entryCount (i : Nat) (e : Exc) (a : Nat) (s : State) : Nat :=
  let more := if e.cause = 7 ∨ e.cause = 8 then 1 else 0
  more + if isHost i then 12 + hostCount a 64 else 8 + 4 * storeCount (loopPlace i a 16 s) a 16

/-- Taking an exception (R247): core `i` takes `e` at the boundary in cycle `b`, with saved PC `pc`. A core in its refuge becomes
LOCKED; a push that fails leads to the refuge. -/
def takeException (i : Nat) (e : Exc) (imprecise : Bool) (pc b : Nat) (s : State) : State :=
  if fbit EXC_STAT_IN_REFUGE i s then lockCore i e pc s
  else
    let r := excRecord i e imprecise pc s
    let k := cGet i 15 s
    let at_ := (k.base + k.length + 2 ^ 32 - 64) % 2 ^ 32
    match pushCheck i s with
    | some d => refugeEntry i 1 d at_ 0 r b s
    | none =>
      match pushWords i at_ b r s with
      | (false, t) => refugeEntry i 2 0 at_ 0 r b t
      | (true, t) =>
        let n := entryCount i e at_ t
        let t := cSet i 14 (slotCap VEC_CAP_CAP i t) (cSet i 15 (k.withRange k.base (k.length - 64)) t)
        let h := cpu i t
        foff EXC_CTRL_IE i (setCpu i { h with
          state := .run, pc := fget VEC_PC_PC i t, entry := true, block := none, free := max h.free (b + n) } t)

/-! ### What waits at a boundary (R245, R252, R268) -/

/-- The source of a waiting fault event with the reaction refuge trap; of one that is a FAULT. A core in its refuge takes neither. -/
def waitingTrap (i : Nat) (s : State) : Option Nat :=
  if fbit EXC_STAT_IN_REFUGE i s then none else (cpu i s).faults.find? (fun e => decide (2 ^ 12 ≤ e))
def waitingFault (i : Nat) (s : State) : Option Nat :=
  if fbit EXC_STAT_IN_REFUGE i s then none else (cpu i s).faults.find? (fun e => decide (e < 2 ^ 12))

/-- The lowest asserted queue that targets host core `i`, while IE is 1. -/
def waitingInterrupt (i : Nat) (s : State) : Option Nat :=
  if isHost i && fbit EXC_CTRL_IE i s then (List.range 8).find? (fun q => fbit EVQ_STAT_INT q s && fget EVQ_CFG_CORE q s == i) else none

/-- Take a fault event off the waiting ones. -/
def dropFault (i e : Nat) (s : State) : State := setCpu i { cpu i s with faults := (cpu i s).faults.erase e } s

/-- A refuge trap is taken at the boundary before `pc`. -/
def takeTrap (i e pc b : Nat) (s : State) : State :=
  refugeEntry i 3 0 0 (e - 2 ^ 12) (excRecord i (excFault (e - 2 ^ 12)) false pc s) b (dropFault i e s)

/-- What stands at the boundary before `pc` beside the next instruction's own exception, in the order of R245: a FAULT, an INTERRUPT. -/
def takeWaiting (i pc b : Nat) (s : State) : Option State :=
  match waitingFault i s with
  | some e => some (takeException i (excFault e) false pc b (dropFault i e s))
  | none => (waitingInterrupt i s).map (fun q => takeException i (excInterrupt q) false pc b s)

/-- Of the ARITH exceptions held, the one whose result is ready first, the oldest of several (R250). -/
def arithHead : List (Nat × Nat × Nat) → Option (Nat × Nat × Nat)
  | [] => none
  | e :: es =>
    match arithHead es with
    | some d => some (if d.2.2 < e.2.2 then d else e)
    | none => some e

/-- The ARITH exception whose result is ready first is taken at the boundary before `pc`, or before the oldest instruction issued that is not
complete, and not before its result is ready (R250). -/
def takeArith (i pc b : Nat) (s : State) : State :=
  let h := cpu i s
  match arithHead h.arith with
  | none => s
  | some e => takeException i (excArith e.1 e.2.1) true (h.undone.getD pc) (max b e.2.2)
      (setCpu i { h with arith := h.arith.erase e, undone := none } s)

/-- ARITH exceptions of host cores whose results are ready in the present dot, and that no instruction of it was taken for, are taken: the
instructions of the dot are complete; one in progress, a block instruction or WAIT, is not (R250). A refuge trap that waits stands above
them (R252). -/
def arithsOn (s : State) : State :=
  forAll (List.range 4) (fun i t =>
    let h := cpu i t
    match arithHead h.arith with
    | some e =>
      if e.2.2 < cyclesPerDot i * (t.time + 1) ∧ (h.state = .run ∨ h.state = .wait) ∧ !fbit EXC_STAT_LOCKED i t ∧ (waitingTrap i t).isNone then
        let pc := match h.block with
          | some r => r.pc
          | none => if h.state = .wait then (h.pc + 2 ^ 32 - 1) % 2 ^ 32 else h.pc
        takeArith i pc e.2.2 t
      else t
    | none => t) s

/-! ### Fetch (R227, R241, R252) -/

/-- A core may fetch from the `n` bytes at `a`: a host core from the boot ROM, DRAM, general SRAM and the configuration store, a loop core
from its code memory (R215, R227). -/
def fetchable (i a n : Nat) : Bool :=
  if isHost i then regionOf a == regionOf (a + n - 1) && (match regionOf a with
    | .rom | .dram | .sram | .store => true
    | _ => false)
  else decide (a + n ≤ 0x20000)

/-- The fetch of the `n` bytes at `a`: the check under c14 (R238, R241), then the read of memory. -/
def fetchFails (i a n : Nat) (s : State) : Option Exc × State :=
  match capCheck (cGet i 14 s) [permX] a n false with
  | some d => (some (excCap d 0 14), s)
  | none =>
    if !fetchable i a n then (some (excData 0), s)
    else match coreRead i a n s with
    | (some _, t) => (none, t)
    | (none, t) => (some (excData 0), t)

/-! ### Instructions -/

/-- The instruction under way: its core, the address of its first byte, that of the next instruction, the core cycle in which it begins,
its prefixes. -/
structure Ins where
  i : Nat
  pc : Nat
  next : Nat
  b : Nat
  pre : List Prefix

/-- What an instruction did: the state after it; the exception that it raised, the cycles after its first one in which it raised it (R219),
and whether the saved PC is that of the next instruction (TRAP, BRK); the cycles that it takes on a loop core (R217 to R219); on a host
core the cycles after which the next instruction may issue at the earliest, and after which its result is ready (R223, R224). -/
structure Did where
  s : State
  exc : Option Exc := none
  at_ : Nat := 0
  after : Bool := false
  n : Nat := 1
  hold : Nat := 0
  lat : Nat := 1

/-- The instruction raised a precise exception and has no effect. -/
def Did.fail (e : Exc) (s : State) : Did := { s := s, exc := some e }

/-- The pair of loop core `i` has been halted by a mismatch: the core executes nothing more (R98, R119). -/
def pairHalted (i : Nat) (s : State) : Bool :=
  match coreCluster i with
  | some c => (eng c s).halted
  | none => false

/-- Core `i` executes instructions: it exists, it has been started, it does not wait, it is not LOCKED, its pair is not halted, and no
self-test holds it. -/
def coreRuns (i : Nat) (s : State) : Bool :=
  coreExists i s && decide ((cpu i s).state = .run) && !fbit EXC_STAT_LOCKED i s && !pairHalted i s && !coreTested i s

/-- Two instructions issue in the same cycle: `p` in slot 0 and `u` in slot 1 (R222). -/
def pairs (p u : Iss) : Bool :=
  !p.alone && !u.alone && !p.ctl && !(p.mem && u.mem) && !(p.mul && u.mul) && !(p.f32 && u.f32)
    && !(u.reads ++ u.writes).any (fun r => decide (r < 32) && p.writes.contains r)

/-- The cycle in which the next instruction of core `i` begins, which issues as `u` says and on a host core at least `wait` cycles after
the previous one (R214, R221 to R224). -/
def beginCycle (i wait : Nat) (u : Iss) (s : State) : Nat :=
  let h := cpu i s
  let now := max (cyclesPerDot i * s.time) h.free
  if isHost i then
    let e := u.reads.foldl (fun m r => max m (sget 0 h.ready r)) (max now (h.began + wait))
    match h.slot with
    | some (c, p, full) => if c = e ∧ (full ∨ !pairs p u) then e + 1 else e
    | none => e
  else now

/-- The core goes on to the instruction at `next`; on a host core the issue slots of cycle `b` are taken (R221). -/
def advance (i next b : Nat) (u : Iss) (s : State) : State :=
  let h := macSettle b (cpu i s)
  let slot := match h.slot with
    | some (c, p, _) => if c = b then some (c, p, true) else some (b, u, false)
    | none => some (b, u, false)
  setCpu i { h with
    pc := next, began := b, entry := false, drain := false, slot := if isHost i then slot else none
    sets := h.sets.filter (fun e => decide (b ≤ e.1)) } s

/-- The cycles of an instruction are used; its results are ready (R223). -/
def spend (i b n lat : Nat) (ws : List Nat) (s : State) : State :=
  let h := cpu i s
  setCpu i { h with
    free := max h.free (b + n)
    ready := if isHost i then (ws.filter (· ≠ 0)).foldl (fun m r => sset 0 m r (b + lat)) h.ready else h.ready } s

/-- An ARITH exception that is held comes before the instruction that begins in cycle `b` and gives its result `lat` cycles later, or
where something else stands at the boundary (R245, R250). -/
def arithFirst (i b lat : Nat) (other : Bool) (s : State) : Bool :=
  match arithHead (cpu i s).arith with
  | none => false
  | some e => !isHost i || other || decide (e.2.2 < b + lat)

/-- The instruction that begins in cycle `b` of a host core is not complete when the held ARITH exception is taken, later than that cycle
(R250): it has no effect, and those behind it go on until then. -/
def arithPasses (i b lat : Nat) (s : State) : Bool :=
  match arithHead (cpu i s).arith with
  | none => false
  | some e => isHost i && decide (b < e.2.2) && decide (e.2.2 < b + lat)

/-- The instruction at `pc` has issued in cycle `b` and will not be complete: what it would write is not ready before the exception. -/
def passOn (i pc b hold : Nat) (ws : List Nat) (s : State) : State :=
  let h := cpu i s
  let r := match arithHead h.arith with
    | some e => e.2.2
    | none => b
  spend i b hold (r + 1 - b) ws (setCpu i { h with undone := some (h.undone.getD pc) } s)

/-- Stores of host cores are still on their way: words queued for the configuration store (R232, R393). -/
def storesQueued (s : State) : Bool := s.cfs != [] || s.cfsWait != []

/-- An instruction of core `i`, or what was to be taken at its boundary, waits for a later dot: what follows stays behind it (R221). -/
def coreQueued (i : Nat) (s : State) : Bool :=
  s.due.any (fun e => match e.2 with
    | .inst h _ => coreNum h.core == i
    | .cmd (.exceptionEntry c _) => coreNum c == i
    | .cmd (.refugeEntry c) => coreNum c == i
    | _ => false)

/-- The dots for which an instruction that would begin in cycle `b` waits: behind one that waits, for the dot that holds the cycle, for a
block instruction in progress, for stores to be performed (R206, R220, R221, R232). -/
def instWaits (i b : Nat) (u : Iss) (s : State) : Option Nat :=
  let h := cpu i s
  if coreQueued i s then some 1
  else if running s && decide (s.time < b / cyclesPerDot i) then some (b / cyclesPerDot i - s.time)
  else if h.block.isSome || (isHost i && (u.drain || h.drain) && storesQueued s) then some 1
  else none

/-- The instruction of code `c` runs, or waits for its dot (R194, R241, R244, R245): the fetch is checked, then the encoding, then the
instruction acts; exceptions held or waiting are taken in its place, in the order of R252 and R245. -/
def runInst (c : Code) (u : Iss) (h : Hdr) (legal : Bool) (body : Ins → State → Did) (s : State) : Host.Outcome State Fault Refusal :=
  let i := coreNum h.core
  if !coreRuns i s then .next s
  else
    let pc := (cpu i s).pc
    let b := beginCycle i h.wait u s
    let size := h.pre.length + codeLen c
    match instWaits i b u s with
    | some n => .next (later n (.inst h c) (setCpu i { cpu i s with drain := (cpu i s).drain || u.drain } s))
    | none =>
    match waitingTrap i s with
    | some e => .next (takeTrap i e pc b s)
    | none =>
      let first := (cpu i s).entry && !fbit EXC_STAT_IN_REFUGE i s
      let f := fetchFails i pc size s
      match first, f with
      | true, (some ⟨2, d, a, k⟩, t) => .next (refugeEntry i 4 0 0 0 (excRecord i ⟨2, d, a, k⟩ false pc t) b t)
      | _, _ =>
        let d : Did := match f.1 with
          | some e => .fail e f.2
          | none =>
            if legal then body ⟨i, pc, wrap32 (pc + size), b, h.pre⟩ (advance i (wrap32 (pc + size)) b u f.2) else .fail excIllegal f.2
        let w := takeWaiting i pc b s
        if arithFirst i b d.lat (d.exc.isSome || w.isSome) s then
          if d.exc.isNone && w.isNone && arithPasses i b d.lat s then
            .next (passOn i pc b d.hold u.writes (advance i (wrap32 (pc + size)) b u f.2))
          else .next (takeArith i pc b s)
        else match d.exc, w with
        | some e, _ => .next (takeException i e false (if d.after then wrap32 (pc + size) else pc) (b + d.at_) d.s)
        | none, some t => .next t
        | none, none => .next (spend i b (if isHost i then d.hold else d.n) d.lat u.writes d.s)

/-- The bytes that core `i` finds from `a` on, up to `n`. -/
def codeBytes (i a : Nat) : Nat → State → List Byte
  | 0, _ => []
  | n + 1, s =>
    match (if fetchable i a 1 then (coreRead i a 1 s).1 else none) with
    | some v => BitVec.ofNat 8 v :: codeBytes i (wrap32 (a + 1)) n s
    | none => []

/-- The bytes that core `i` finds at `a` spell no instruction of the opcode tables (R194). -/
def undefinedAt (i a : Nat) (s : State) : Bool := (decodeBytes (codeBytes i a 14 s)).isNone

/-! ### EXCEPTION_ENTRY and REFUGE_ENTRY -/

/-- EXCEPTION_ENTRY (R194, R245, R247): core `core` stands at a boundary; what waits there is taken. `illegal`: the core goes on to the bytes
at its PC, and takes ILLEGAL where they spell an undefined opcode. -/
def execExceptionEntry (core : CoreId) (illegal : Bool) (s : State) : Host.Outcome State Fault Refusal :=
  let i := coreNum core
  if !coreRuns i s then .next s
  else
    let pc := (cpu i s).pc
    let b := beginCycle i 0 {} s
    match instWaits i b {} s with
    | some n => .next (later n (.cmd (.exceptionEntry core illegal)) s)
    | none =>
    match waitingTrap i s with
    | some e => .next (takeTrap i e pc b s)
    | none =>
      let first := (cpu i s).entry && !fbit EXC_STAT_IN_REFUGE i s
      let f := fetchFails i pc 1 s
      match first, f with
      | true, (some ⟨2, d, a, k⟩, t) => .next (refugeEntry i 4 0 0 0 (excRecord i ⟨2, d, a, k⟩ false pc t) b t)
      | _, _ =>
        let e := match f.1 with
          | some e => some e
          | none => if illegal && undefinedAt i pc s then some excIllegal else none
        let w := takeWaiting i pc b s
        if arithFirst i b 0 (e.isSome || w.isSome) s then .next (takeArith i pc b s)
        else match e with
        | some e => .next (takeException i e false pc b f.2)
        | none => .next (w.getD s)

/-- REFUGE_ENTRY (R252, R254): a refuge trap that waits is taken; else a handler whose first fetch fails its check gives way to the
refuge handler. A push that fails leads there within the exception's own command. -/
def execRefugeEntry (core : CoreId) (s : State) : Host.Outcome State Fault Refusal :=
  let i := coreNum core
  if !coreRuns i s then .next s
  else
    let pc := (cpu i s).pc
    let b := beginCycle i 0 {} s
    match instWaits i b {} s with
    | some n => .next (later n (.cmd (.refugeEntry core)) s)
    | none =>
    match waitingTrap i s with
    | some e => .next (takeTrap i e pc b s)
    | none =>
      match (cpu i s).entry && !fbit EXC_STAT_IN_REFUGE i s, capCheck (cGet i 14 s) [permX] pc 1 false with
      | true, some d => .next (refugeEntry i 4 0 0 0 (excRecord i (excCap d 0 14) false pc s) b s)
      | _, _ => .next s

/-! ### The return (R248, R249, R255) -/

/-- Read the four 16-byte words of a record; the address of the one that meets a bus error. -/
def readRecord (i a : Nat) : Nat → State → List Cap × Option Nat × State
  | 0, s => ([], none, s)
  | n + 1, s =>
    match coreReadCap i a s with
    | (none, t) => ([], some a, t)
    | (some k, t) =>
      let r := readRecord i (a + 16) n t
      (k :: r.1, r.2)

/-- Word `j` of record word `k`. -/
def recWord (r : List Cap) (k j : Nat) : Nat := (r.getD k Cap.none).v.toNat / 2 ^ (32 * j) % 2 ^ 32

/-- c15, c14, IE and PC are restored from a record. -/
def restoreFrom (i : Nat) (r : List Cap) (s : State) : State :=
  let s := cSet i 15 (r.getD 3 Cap.none) (cSet i 14 (r.getD 2 Cap.none) s)
  fset EXC_CTRL_IE i (recWord r 0 0 / 2 ^ 16 % 2) (setCpu i { cpu i s with pc := recWord r 0 1 } s)

/-- SAVED_C15 is one that the record's c15 can come from (R248). -/
def savedOk (k c : Cap) : Bool :=
  k.tag && !k.sealed && k.kind == 0 && k.base == c.base && k.perms == c.perms && c.kind == k.kind && k.length == c.length + 64

/-- The return outside the refuge (R248). -/
def eretPlain (x : Ins) (s : State) : Did :=
  let c := cGet x.i 15 s
  let a := c.base + c.length
  if a % 16 ≠ 0 ∨ 2 ^ 32 < a + 64 then .fail (excCap 11 (Config.capOpAddr s.fresh).toNat 15) (nextFresh s)
  else
    match readRecord x.i a 4 s with
    | (_, some e, t) => .fail (excData e) t
    | (r, none, t) =>
      if savedOk (r.getD 3 Cap.none) c then
        { s := restoreFrom x.i r t, n := 6 + 4 * loadCount (loopPlace x.i a 16 s) a 16, hold := 10 + hostCount a 64 }
      else .fail (excCap 11 (Config.capOpAddr t.fresh).toNat 15) (nextFresh t)

/-- The return from the refuge record (R255); a fault event that was held waits for the next boundary. -/
def eretRefuge (x : Ins) (s : State) : Did :=
  let a := refugeBase x.i + 0xF80
  match readRecord x.i a 4 s with
  | (_, some e, t) => .fail (excData e) t
  | (r, none, t) =>
    let t := foff EXC_STAT_IN_REFUGE x.i (restoreFrom x.i r t)
    let h := cpu x.i t
    let t := match h.held with
      | some e => foff EXC_STAT_FAULT_PEND x.i (setCpu x.i { h with held := none, faults := h.faults ++ [e] } t)
      | none => t
    { s := t, n := 6 + 4 * loadCount (loopPlace x.i a 16 s) a 16, hold := 10 + hostLoad a }

end Sys2Proof.Machine
end

