-- ==== Sys2Proof/Machine/IsaInt.lean ====
section
/-! DEFINITION. The instruction set: control, integer arithmetic, the multiplier, the special registers, branches (R188 to R202, R209,
R210, R217, R223, R224, R232, R233, R268, R270). -/

namespace Sys2Proof.Machine

open Sys2Proof

/-! ### No operand -/

/-- A general register among the sources or destinations of an instruction; a capability register (R221). -/
def gr (n : Nat) : List Nat := [n]
def cr (n : Nat) : List Nat := [32 + n]

/-- An instruction without operands: no prefix is allowed. -/
def plainInst (op : Nat) (u : Iss) (h : Hdr) (body : Ins → State → Did) (s : State) : Host.Outcome State Fault Refusal :=
  runInst ⟨op, 0, none⟩ u h (prefixesOk allowNone h.pre) body s

/-- NOP. -/
def execCoreNop (h : Hdr) (s : State) : Host.Outcome State Fault Refusal := plainInst 0x00 {} h (fun _ s => { s := s }) s

/-- What ends a WAIT of core `i` stands already: the line of a queue that targets a host core, a dispatch in a loop core's queue, a fault
event (R268, R270). -/
def waitEnds (i : Nat) (s : State) : Bool :=
  (cpu i s).held.isSome || (cpu i s).faults != [] ||
    (if isHost i then (List.range 8).any (fun q => fbit EVQ_STAT_INT q s && fget EVQ_CFG_CORE q s == i)
    else match coreCluster i with
      | some c => lcdQueue c s != []
      | none => false)

/-- WAIT: a line that its hold-off kept down may rise in this dot (R267, R268). -/
def execCoreWait (h : Hdr) (s : State) : Host.Outcome State Fault Refusal :=
  plainInst 0x01 { alone := true } h (fun x s => { s := if waitEnds x.i s then s else evLines (setCpu x.i { cpu x.i s with state := .wait } s), hold := 1 }) s

/-- BRK: the saved PC is that of the next instruction. -/
def execCoreBrk (h : Hdr) (s : State) : Host.Outcome State Fault Refusal :=
  plainInst 0x02 { alone := true } h (fun _ s => { s := s, exc := some excBrk, after := true }) s

/-- FENCER, FENCEW, FENCE (R232): loads are performed in their place; FENCEW and FENCE wait for the stores that are still queued. -/
def execCoreFencer (h : Hdr) (s : State) : Host.Outcome State Fault Refusal :=
  plainInst 0x03 { alone := true } h (fun _ s => { s := s, hold := 1 }) s
def execCoreFencew (h : Hdr) (s : State) : Host.Outcome State Fault Refusal :=
  plainInst 0x04 { alone := true, drain := true } h (fun _ s => { s := s, hold := 1 }) s
def execCoreFence (h : Hdr) (s : State) : Host.Outcome State Fault Refusal :=
  plainInst 0x05 { alone := true, drain := true } h (fun _ s => { s := s, hold := 1 }) s

/-- The PC of core `i` becomes `t`. -/
def jump (i t : Nat) (s : State) : State := setCpu i { cpu i s with pc := wrap32 t } s

/-- The return stack of core `i` takes an address: it holds 8 (R224). -/
def pushReturn (i a : Nat) (s : State) : State :=
  if isHost i then setCpu i { cpu i s with ras := (a :: (cpu i s).ras).take 8 } s else s

/-- RET: PC = g31; the prediction is the top of the return stack, and fails where that is empty (R224). -/
def execCoreRet (h : Hdr) (s : State) : Host.Outcome State Fault Refusal :=
  plainInst 0x06 { reads := gr 31, ctl := true } h (fun x s =>
    let t := gGet x.i 31 s
    { s := jump x.i t (setCpu x.i { cpu x.i s with ras := (cpu x.i s).ras.tail } s), n := 4
      hold := if (cpu x.i s).ras.head? = some t then 2 else 6 }) s

/-- ERET (R248, R255). -/
def execCoreEret (h : Hdr) (s : State) : Host.Outcome State Fault Refusal :=
  plainInst 0x07 { alone := true } h (fun x s => if fbit EXC_STAT_IN_REFUGE x.i s then eretRefuge x s else eretPlain x s) s

/-- TRAP: a software exception carrying imm8; the saved PC is that of the next instruction. -/
def execCoreTrap (h : Hdr) (imm : Byte) (s : State) : Host.Outcome State Fault Refusal :=
  runInst ⟨0x08, imm.toNat, none⟩ { alone := true } h (prefixesOk allowNone h.pre)
    (fun _ s => { s := s, exc := some (excTrap imm.toNat), after := true }) s

/-! ### ALU (R201, R210) -/

/-- The second source. -/
def srcVal (i : Nat) (o : BitVec 16) (src : Src) (s : State) : Nat :=
  match src with
  | .reg => gGet i (fieldB o) s
  | .imm8 v => (v.signExtend 32).toNat
  | .imm32 v => v.toNat

/-- gD = gA op gB, or an immediate; the operation gives a word and FSTAT bits. -/
def srcInst (c : Code) (h : Hdr) (o : BitVec 16) (src : Src) (legal : Bool) (f : Nat → Nat → FRes) (s : State) :
    Host.Outcome State Fault Refusal :=
  let u : Iss := { reads := gr (fieldA o) ++ if srcReg src then gr (fieldB o) else [], writes := gr (fieldD o) }
  runInst c u h (prefixesOk allowNone h.pre && !optionX o && legal) (fun x s =>
    let r := f (gGet x.i (fieldA o) s) (srcVal x.i o src s)
    { s := gSet x.i (fieldD o) r.v (raise x.i r.f s) }) s

/-- ALU instruction `k`: with an immediate, field B is 0 (R209, R210). -/
def aluInst (k : Nat) (h : Hdr) (o : BitVec 16) (src : Src) (f : Nat → Nat → FRes) (s : State) : Host.Outcome State Fault Refusal :=
  srcInst (codeSrc (0x10 + k) (0x30 + k) (0x40 + k) o src) h o src (srcReg src || fieldB o == 0) f s

/-- A word that raises nothing. -/
def val (v : Nat) : FRes := ⟨v % 2 ^ 32, 0⟩

/-- A signed value clamped to 32 bits; SAT where it clamps. -/
def clamp32 (i : Int) : FRes :=
  if i < -(2 ^ 31) then ⟨2 ^ 31, fSAT⟩ else if 2 ^ 31 ≤ i then ⟨2 ^ 31 - 1, fSAT⟩ else ⟨word i, 0⟩

def opAdd (a b : Nat) : FRes := val (a + b)
def opSub (a b : Nat) : FRes := val (a + (2 ^ 32 - b))
def opAnd (a b : Nat) : FRes := val (a &&& b)
def opOr (a b : Nat) : FRes := val (a ||| b)
def opXor (a b : Nat) : FRes := val (a ^^^ b)
def opAndn (a b : Nat) : FRes := val (a &&& (2 ^ 32 - 1 - b))
def opShl (a b : Nat) : FRes := val (a * 2 ^ (b % 32))
def opShr (a b : Nat) : FRes := val (a / 2 ^ (b % 32))
def opSar (a b : Nat) : FRes := val (word (sint a / 2 ^ (b % 32)))
def opRor (a b : Nat) : FRes := val (a / 2 ^ (b % 32) + a * 2 ^ (32 - b % 32))
def opAdds (a b : Nat) : FRes := clamp32 (sint a + sint b)
def opSubs (a b : Nat) : FRes := clamp32 (sint a - sint b)
def opMin (a b : Nat) : FRes := val (if sint a ≤ sint b then a else b)
def opMax (a b : Nat) : FRes := val (if sint a ≤ sint b then b else a)
def opMinu (a b : Nat) : FRes := val (min a b)
def opMaxu (a b : Nat) : FRes := val (max a b)

def execCoreAdd (h : Hdr) (o : BitVec 16) (src : Src) (s : State) : Host.Outcome State Fault Refusal := aluInst 0x0 h o src opAdd s
def execCoreSub (h : Hdr) (o : BitVec 16) (src : Src) (s : State) : Host.Outcome State Fault Refusal := aluInst 0x1 h o src opSub s
def execCoreAnd (h : Hdr) (o : BitVec 16) (src : Src) (s : State) : Host.Outcome State Fault Refusal := aluInst 0x2 h o src opAnd s
def execCoreOr (h : Hdr) (o : BitVec 16) (src : Src) (s : State) : Host.Outcome State Fault Refusal := aluInst 0x3 h o src opOr s
def execCoreXor (h : Hdr) (o : BitVec 16) (src : Src) (s : State) : Host.Outcome State Fault Refusal := aluInst 0x4 h o src opXor s
def execCoreAndn (h : Hdr) (o : BitVec 16) (src : Src) (s : State) : Host.Outcome State Fault Refusal := aluInst 0x5 h o src opAndn s
def execCoreShl (h : Hdr) (o : BitVec 16) (src : Src) (s : State) : Host.Outcome State Fault Refusal := aluInst 0x6 h o src opShl s
def execCoreShr (h : Hdr) (o : BitVec 16) (src : Src) (s : State) : Host.Outcome State Fault Refusal := aluInst 0x7 h o src opShr s
def execCoreSar (h : Hdr) (o : BitVec 16) (src : Src) (s : State) : Host.Outcome State Fault Refusal := aluInst 0x8 h o src opSar s
def execCoreRor (h : Hdr) (o : BitVec 16) (src : Src) (s : State) : Host.Outcome State Fault Refusal := aluInst 0x9 h o src opRor s
def execCoreAdds (h : Hdr) (o : BitVec 16) (src : Src) (s : State) : Host.Outcome State Fault Refusal := aluInst 0xA h o src opAdds s
def execCoreSubs (h : Hdr) (o : BitVec 16) (src : Src) (s : State) : Host.Outcome State Fault Refusal := aluInst 0xB h o src opSubs s
def execCoreMin (h : Hdr) (o : BitVec 16) (src : Src) (s : State) : Host.Outcome State Fault Refusal := aluInst 0xC h o src opMin s
def execCoreMax (h : Hdr) (o : BitVec 16) (src : Src) (s : State) : Host.Outcome State Fault Refusal := aluInst 0xD h o src opMax s
def execCoreMinu (h : Hdr) (o : BitVec 16) (src : Src) (s : State) : Host.Outcome State Fault Refusal := aluInst 0xE h o src opMinu s
def execCoreMaxu (h : Hdr) (o : BitVec 16) (src : Src) (s : State) : Host.Outcome State Fault Refusal := aluInst 0xF h o src opMaxu s

/-! ### Comparisons (R202) -/

/-- Comparison `j`: gD = 1 where the condition holds, else 0. -/
def cmpInst (j : Nat) (h : Hdr) (o : BitVec 16) (src : Src) (f : Nat → Nat → Bool) (s : State) : Host.Outcome State Fault Refusal :=
  srcInst (codeSrc (0x20 + j) (0x50 + j) (0x58 + j) o src) h o src true (fun a b => val (f a b).toNat) s

def execCoreCeq (h : Hdr) (o : BitVec 16) (src : Src) (s : State) : Host.Outcome State Fault Refusal := cmpInst 0 h o src (fun a b => a == b) s
def execCoreCne (h : Hdr) (o : BitVec 16) (src : Src) (s : State) : Host.Outcome State Fault Refusal := cmpInst 1 h o src (fun a b => a != b) s
def execCoreClt (h : Hdr) (o : BitVec 16) (src : Src) (s : State) : Host.Outcome State Fault Refusal :=
  cmpInst 2 h o src (fun a b => decide (sint a < sint b)) s
def execCoreCltu (h : Hdr) (o : BitVec 16) (src : Src) (s : State) : Host.Outcome State Fault Refusal :=
  cmpInst 3 h o src (fun a b => decide (a < b)) s
def execCoreCle (h : Hdr) (o : BitVec 16) (src : Src) (s : State) : Host.Outcome State Fault Refusal :=
  cmpInst 4 h o src (fun a b => decide (sint a ≤ sint b)) s
def execCoreCleu (h : Hdr) (o : BitVec 16) (src : Src) (s : State) : Host.Outcome State Fault Refusal :=
  cmpInst 5 h o src (fun a b => decide (a ≤ b)) s

/-! ### Instructions of three registers -/

/-- An instruction of format R without prefixes and without an option bit. -/
def regInst (op : Nat) (u : Iss) (h : Hdr) (o : BitVec 16) (legal : Bool) (body : Ins → State → Did) (s : State) :
    Host.Outcome State Fault Refusal :=
  runInst (codeR op o) u h (prefixesOk allowNone h.pre && !optionX o && legal) body s

/-- An instruction that reads gA and gB; one that writes gD too. -/
def readsAB (o : BitVec 16) : Iss := { reads := gr (fieldA o) ++ gr (fieldB o) }
def makesD (o : BitVec 16) : Iss := { readsAB o with writes := gr (fieldD o) }

/-- SEL: if gA is not 0, gD = gB. -/
def execCoreSel (h : Hdr) (o : BitVec 16) (s : State) : Host.Outcome State Fault Refusal :=
  regInst 0x26 (makesD o) h o true (fun x s =>
    { s := if gGet x.i (fieldA o) s = 0 then s else gSet x.i (fieldD o) (gGet x.i (fieldB o) s) s }) s

/-! ### Division (R201) and what a trap-enabled FSTAT bit does (R191, R250, R251) -/

/-- An arithmetic instruction ends with result `r` for gD. Bits that are raised with their trap enabled raise ARITH: with PRECISE precisely and
without a result, else after the result. -/
def arithEnd (x : Ins) (d : Nat) (r : FRes) (n hold lat : Nat) (s : State) : Did :=
  let t := raiseAt x.i r.f (x.b + lat - 1) s
  let u := gSet x.i d r.v t
  if r.f &&& trapBits (cpu x.i s).fctrl = 0 then { s := u, n := n, hold := hold, lat := lat }
  else if fbit EXC_CTRL_PRECISE x.i s then { s := t, exc := some (excArith x.pc r.f), lat := lat }
  else
    let due := if isHost x.i then x.b + lat else 0
    { s := setCpu x.i { cpu x.i u with arith := (cpu x.i u).arith ++ [(x.pc, r.f, due)] } u, n := n, hold := hold, lat := lat }

def opDiv (a b : Nat) : FRes :=
  if b = 0 then ⟨if a = 0 then 0 else if sint a < 0 then 2 ^ 31 else 2 ^ 31 - 1, fIDZ⟩
  else if a = 2 ^ 31 ∧ b = 2 ^ 32 - 1 then ⟨2 ^ 31 - 1, fIOV⟩
  else val (word (Int.tdiv (sint a) (sint b)))
def opDivu (a b : Nat) : FRes := if b = 0 then ⟨if a = 0 then 0 else 2 ^ 32 - 1, fIDZ⟩ else val (a / b)
def opRem (a b : Nat) : FRes := if b = 0 then ⟨a, fIDZ⟩ else val (word (Int.tmod (sint a) (sint b)))
def opRemu (a b : Nat) : FRes := if b = 0 then ⟨a, fIDZ⟩ else val (a % b)

/-- A division. -/
def divInst (op : Nat) (h : Hdr) (o : BitVec 16) (f : Nat → Nat → FRes) (s : State) : Host.Outcome State Fault Refusal :=
  regInst op { makesD o with alone := true } h o true (fun x s => arithEnd x (fieldD o) (f (gGet x.i (fieldA o) s) (gGet x.i (fieldB o) s)) 34 18 18 s) s

def execCoreDiv (h : Hdr) (o : BitVec 16) (s : State) : Host.Outcome State Fault Refusal := divInst 0x27 h o opDiv s
def execCoreDivu (h : Hdr) (o : BitVec 16) (s : State) : Host.Outcome State Fault Refusal := divInst 0x28 h o opDivu s
def execCoreRem (h : Hdr) (o : BitVec 16) (s : State) : Host.Outcome State Fault Refusal := divInst 0x29 h o opRem s
def execCoreRemu (h : Hdr) (o : BitVec 16) (s : State) : Host.Outcome State Fault Refusal := divInst 0x2A h o opRemu s

/-! ### The multiplier (R198 to R200) -/

/-- A multiplier instruction: field D is 0; `f` gives the new MH:ML from the latest one and the two sources. -/
def mulInst (op : Nat) (h : Hdr) (o : BitVec 16) (f : Nat → Nat → Nat → Nat) (s : State) : Host.Outcome State Fault Refusal :=
  regInst op { readsAB o with mul := true } h o (fieldD o == 0) (fun x s =>
    { s := setCpu x.i (macPut x.b (f (cpu x.i s).mac (gGet x.i (fieldA o) s) (gGet x.i (fieldB o) s)) (cpu x.i s)) s, lat := 3 }) s

/-- The signed product modulo 2^64. -/
def mulSigned (a b : Nat) : Nat := (BitVec.ofInt 64 (sint a * sint b)).toNat

def execCoreMul (h : Hdr) (o : BitVec 16) (s : State) : Host.Outcome State Fault Refusal := mulInst 0x2B h o (fun _ a b => mulSigned a b) s
def execCoreMulu (h : Hdr) (o : BitVec 16) (s : State) : Host.Outcome State Fault Refusal := mulInst 0x2C h o (fun _ a b => a * b) s
def execCoreMac (h : Hdr) (o : BitVec 16) (s : State) : Host.Outcome State Fault Refusal := mulInst 0x2D h o (fun m a b => m + mulSigned a b) s
def execCoreMacu (h : Hdr) (o : BitVec 16) (s : State) : Host.Outcome State Fault Refusal := mulInst 0x2E h o (fun m a b => m + a * b) s

/-- MH:ML as a fixed-point word with `n` fraction bits dropped: rounded, saturated. -/
def mfqVal (m n : Nat) : FRes :=
  let x := (BitVec.ofNat 64 m).toInt
  clamp32 (if n = 0 then x else (x + 2 ^ (n - 1)) / 2 ^ n)

/-- MFQ: field B is the shift, field A is 0. -/
def execCoreMfq (h : Hdr) (o : BitVec 16) (s : State) : Host.Outcome State Fault Refusal :=
  regInst 0x2F { writes := gr (fieldD o) } h o (fieldA o == 0) (fun x s =>
    let r := mfqVal (macSeen x.b (cpu x.i s)) (fieldB o)
    { s := gSet x.i (fieldD o) r.v (raise x.i r.f s) }) s

/-! ### Special registers (R190, R191, R199) -/

/-- MFS: field A names the special register; TICK_LO copies the upper half of the count into TICK_HI. -/
def execCoreMfs (h : Hdr) (o : BitVec 16) (s : State) : Host.Outcome State Fault Refusal :=
  regInst 0x60 { writes := gr (fieldD o), alone := decide (5 ≤ fieldA o) } h o (decide (fieldA o ≤ 6)) (fun x s =>
    let v := specialRead x.i (fieldA o) x.b s
    let t := if fieldA o = 5 then setCpu x.i { cpu x.i s with tickHi := wrap32 (x.b / 2 ^ 32) } s else s
    let tick := decide (5 ≤ fieldA o)
    { s := gSet x.i (fieldD o) v t, n := if tick then 2 else 1, hold := if tick then 1 else 0 }) s

/-- A special register takes `v` in cycle `b`: an FSTAT bit that a result under way sets in this cycle or later is 1 after it (R191); MH and
ML once every earlier result has landed. -/
def specialWrite (i n v b : Nat) (s : State) : State :=
  let h := cpu i s
  let m := if n = 0 then h.mac / 2 ^ 32 * 2 ^ 32 + v else v * 2 ^ 32 + h.mac % 2 ^ 32
  match n with
  | 2 => setCpu i { h with fstat := (v &&& fstatMask) ||| h.sets.foldl (fun f e => if b ≤ e.1 then f ||| e.2 else f) 0 } s
  | 3 => setCpu i { h with fctrl := v &&& fctrlMask } s
  | _ => setCpu i { h with mac := m, landed := m, flight := [] } s

/-- MTS: field D names the special register. -/
def execCoreMts (h : Hdr) (o : BitVec 16) (s : State) : Host.Outcome State Fault Refusal :=
  regInst 0x61 { reads := gr (fieldA o), mul := decide (fieldD o ≤ 1), alone := true } h o (decide (fieldD o ≤ 3)) (fun x s =>
    let late := if fieldD o ≤ 1 then macLanded x.b (cpu x.i s) - x.b else 0
    { s := specialWrite x.i (fieldD o) (gGet x.i (fieldA o) s) x.b s, n := 1 + late, hold := 1 + late }) s

/-! ### Branches and jumps (R188, R202, R209) -/

/-- A conditional branch ends: the static prediction is taken for a negative displacement (R224). -/
def branchEnd (x : Ins) (taken : Bool) (d : Disp) (s : State) : Did :=
  let back := decide (2 ^ 31 ≤ dispVal d)
  if taken then { s := jump x.i (x.next + dispVal d) s, n := 3, hold := if back then 2 else 6 }
  else { s := s, n := 1, hold := if back then 6 else 0 }

/-- A branch on register A of the register byte, of which bits [7:5] are 0; `ws` are the registers that it writes. -/
def branchInst (op : Nat) (ws : List Nat) (h : Hdr) (r : Byte) (d : Disp) (body : Nat → Ins → State → Did) (s : State) :
    Host.Outcome State Fault Refusal :=
  runInst (codeB op r d) { reads := gr r.toNat, writes := ws, ctl := true } h (prefixesOk allowNone h.pre && decide (r.toNat < 32))
    (body r.toNat) s

def execCoreBz (h : Hdr) (r : Byte) (d : Disp) (s : State) : Host.Outcome State Fault Refusal :=
  branchInst 0x80 [] h r d (fun a x s => branchEnd x (gGet x.i a s == 0) d s) s
def execCoreBnz (h : Hdr) (r : Byte) (d : Disp) (s : State) : Host.Outcome State Fault Refusal :=
  branchInst 0x81 [] h r d (fun a x s => branchEnd x (gGet x.i a s != 0) d s) s

/-- DBNZ: gA = gA - 1, branch if the result is not 0. -/
def execCoreDbnz (h : Hdr) (r : Byte) (d : BitVec 16) (s : State) : Host.Outcome State Fault Refusal :=
  branchInst 0x88 (gr r.toNat) h r (.d16 d) (fun a x s =>
    let v := (opSub (gGet x.i a s) 1).v
    branchEnd x (v != 0) (.d16 d) (gSet x.i a v s)) s

/-- JMP and CALL: a displacement of 32 bits from the next instruction. -/
def execCoreJmp (h : Hdr) (d : Word) (s : State) : Host.Outcome State Fault Refusal :=
  runInst ⟨0x84, d.toNat, none⟩ { ctl := true } h (prefixesOk allowNone h.pre)
    (fun x s => { s := jump x.i (x.next + d.toNat) s, n := 3, hold := 2 }) s
def execCoreCall (h : Hdr) (d : Word) (s : State) : Host.Outcome State Fault Refusal :=
  runInst ⟨0x85, d.toNat, none⟩ { writes := gr 31, ctl := true } h (prefixesOk allowNone h.pre)
    (fun x s => { s := jump x.i (x.next + d.toNat) (pushReturn x.i x.next (gSet x.i 31 x.next s)), n := 3, hold := 2 }) s

/-- JR: PC = gA; fields D and B are 0. -/
def execCoreJr (h : Hdr) (o : BitVec 16) (s : State) : Host.Outcome State Fault Refusal :=
  regInst 0x86 { reads := gr (fieldA o), ctl := true } h o (fieldD o == 0 && fieldB o == 0) (fun x s => { s := jump x.i (gGet x.i (fieldA o) s) s, n := 4, hold := 6 }) s

/-- JALR: gD = next PC, PC = gA. -/
def execCoreJalr (h : Hdr) (o : BitVec 16) (s : State) : Host.Outcome State Fault Refusal :=
  regInst 0x87 { reads := gr (fieldA o), writes := gr (fieldD o), ctl := true } h o true
    (fun x s => { s := jump x.i (gGet x.i (fieldA o) s) (pushReturn x.i x.next (gSet x.i (fieldD o) x.next s)), n := 4, hold := 6 }) s

end Sys2Proof.Machine
end

