-- ==== Sys2Proof/Machine/IsaMem.lean ====
section
/-! DEFINITION. The instruction set: loads, stores and atomics (R195 to R197, R212, R216, R218, R220, R225, R230, R238). -/

namespace Sys2Proof.Machine

open Sys2Proof

/-- The address of a load or store: gA + gB × element size + displacement, modulo 2^32 (R195). -/
def dataAddr (i : Nat) (o : BitVec 16) (n d : Nat) (s : State) : Nat :=
  wrap32 (gGet i (fieldA o) s + gGet i (fieldB o) s * n + d)

/-- The address of an atomic, of which field B is the data: gA + displacement. -/
def atomicAddr (i : Nat) (o : BitVec 16) (d : Nat) (s : State) : Nat := wrap32 (gGet i (fieldA o) s + d)

/-- The checks of an access of `n` bytes at `a`: the capability, then the alignment where `aligned` asks for it (R196, R238). -/
def accessFails (x : Ins) (ps : List Nat) (a n : Nat) (write aligned : Bool) (s : State) : Option Exc :=
  match capCheck (cGet x.i (authReg x.pre) s) ps a n write with
  | some d => some (excCap d a (authReg x.pre))
  | none => if aligned && a % n != 0 then some (excAlign a) else none

/-- The registers of an element: one, or a pair for 64 bits. -/
def elemRegs (r n : Nat) : List Nat := if n = 8 then gr r ++ gr (r + 1) else gr r

/-- How a memory instruction of prefixes `ps` issues: `rs` and `ws` are the registers that it reads and writes beside the capability; with an
order prefix it issues alone, with a release it waits for the stores before it (R222, R232). -/
def memIss (ps : List Prefix) (rs ws : List Nat) : Iss :=
  { reads := cr (authReg ps) ++ rs, writes := ws, mem := true, alone := hasOrder ps
    drain := ps.any (fun p => p == .release || p == .acqRel) }

/-- A load: `f` makes the element into the register's value. -/
def loadInst (op : Nat) (h : Hdr) (o : BitVec 16) (d : Disp) (w : Allows) (f : Nat → Nat → Nat) (s : State) :
    Host.Outcome State Fault Refusal :=
  let n := elemSize h.pre
  let u := memIss h.pre (gr (fieldA o) ++ gr (fieldB o)) (elemRegs (fieldD o) n)
  runInst (codeM op o d) u h (prefixesOk w h.pre && !optionX o && (n != 8 || pairField (fieldD o))) (fun x s =>
    let a := dataAddr x.i o n (dispVal d) s
    match accessFails x [permLD] a n false (hasOrder x.pre) s with
    | some e => .fail e s
    | none =>
      match coreRead x.i a n s with
      | (none, t) => .fail (excData a) t
      | (some v, t) => { s := gPut x.i (fieldD o) n (f n v) t, n := loadCount (loopPlace x.i a n s) a n, lat := hostCount a n }) s

/-- LD fills the rest of gD with zeros, LDS with copies of the top bit moved (R197). -/
def execCoreLd (h : Hdr) (o : BitVec 16) (d : Disp) (s : State) : Host.Outcome State Fault Refusal :=
  loadInst 0x70 h o d allowLoad (fun _ v => v) s
def execCoreLds (h : Hdr) (o : BitVec 16) (d : Disp) (s : State) : Host.Outcome State Fault Refusal :=
  loadInst 0x72 h o d allowLoadSigned (fun n v => if v.testBit (8 * n - 1) then v + (2 ^ 32 - 2 ^ (8 * n)) else v) s

/-- A write of core `i` at `a` under capability register `k`: one of an image slot without FABRIC is a bus error (R392), and `f` does any
other. -/
def slotWrite (i k a n : Nat) (f : State → Bool × State) (s : State) : Bool × State := if slotDenied (cGet i k s) a n then (false, s) else f s

/-- The `n` bytes of `v` are stored at `a` under the checks of R196 and R238. -/
def storeEnd (x : Ins) (a n v : Nat) (s : State) : Did :=
  match accessFails x [permST] a n true (hasOrder x.pre) s with
  | some e => .fail e s
  | none =>
    match (if slotDenied (cGet x.i (authReg x.pre) s) a n && isHost x.i then (true, postedError x.i a s) else storeWrite x.i a n v x.b s) with
    | (false, t) => .fail (excData a) t
    | (true, t) => { s := t, n := storeCount (loopPlace x.i a n s) a n }

/-- ST. -/
def execCoreSt (h : Hdr) (o : BitVec 16) (d : Disp) (s : State) : Host.Outcome State Fault Refusal :=
  let n := elemSize h.pre
  let u := memIss h.pre (gr (fieldA o) ++ gr (fieldB o) ++ elemRegs (fieldD o) n) []
  runInst (codeM 0x74 o d) u h (prefixesOk allowStore h.pre && !optionX o && (n != 8 || pairField (fieldD o))) (fun x s =>
    storeEnd x (dataAddr x.i o n (dispVal d) s) n (gElem x.i (fieldD o) n s) s) s

/-- STI: field D is 0. -/
def execCoreSti (h : Hdr) (o : BitVec 16) (d : BitVec 16) (imm : Word) (s : State) : Host.Outcome State Fault Refusal :=
  let n := elemSize h.pre
  let u := memIss h.pre (gr (fieldA o) ++ gr (fieldB o)) []
  runInst ⟨0x7B, o.toNat + 2 ^ 16 * d.toNat + 2 ^ 32 * imm.toNat, none⟩ u h (prefixesOk allowStoreImm h.pre && !optionX o && fieldD o == 0) (fun x s =>
    storeEnd x (dataAddr x.i o n (dispVal (.d16 d)) s) n (imm.toNat % 2 ^ (8 * n)) s) s

/-- An atomic may be made at `a`: on a loop core on the data memory, the context window and general SRAM (R216); on a host core anywhere but
the PCI Express aperture. -/
def atomicAllowed (i a n : Nat) (s : State) : Bool :=
  if isHost i then regionOf a != .pcie
  else match loopPlace i a n s with
  | .data _ => true
  | .refuge _ => true
  | .window => true
  | .sram => true
  | _ => false

/-- An atomic: `f` gives from the old element, gD's and gB's what memory takes, or nothing; gD takes the old element. -/
def atomicInst (op : Nat) (h : Hdr) (o : BitVec 16) (d : BitVec 16) (f : Nat → Nat → Nat → Option Nat) (s : State) :
    Host.Outcome State Fault Refusal :=
  let n := elemSize h.pre
  let u := { memIss h.pre (gr (fieldA o) ++ gr (fieldB o) ++ gr (fieldD o)) (gr (fieldD o)) with alone := true }
  runInst (codeM op o (.d16 d)) u h (prefixesOk allowAtomic h.pre && !optionX o) (fun x s =>
    let a := atomicAddr x.i o (dispVal (.d16 d)) s
    match accessFails x [permLD, permST] a n true true s with
    | some e => .fail e s
    | none =>
      if !atomicAllowed x.i a n s then .fail (excData a) s
      else match coreRead x.i a n s with
      | (none, t) => .fail (excData a) t
      | (some v, t) =>
        let w := match f v (gElem x.i (fieldD o) n t) (gElem x.i (fieldB o) n t) with
          | some u => slotWrite x.i (authReg x.pre) a n (atomicWrite x.i a n (u % 2 ^ (8 * n)) x.b) t
          | none => (true, t)
        match w with
        | (false, t) => .fail (excData a) t
        | (true, t) =>
          { s := gSet x.i (fieldD o) v t, n := atomicCount (loopPlace x.i a n s) a n, hold := 1, lat := hostCount a n + 4 }) s

def execCoreSwap (h : Hdr) (o : BitVec 16) (d : BitVec 16) (s : State) : Host.Outcome State Fault Refusal :=
  atomicInst 0x76 h o d (fun _ _ b => some b) s
def execCoreCas (h : Hdr) (o : BitVec 16) (d : BitVec 16) (s : State) : Host.Outcome State Fault Refusal :=
  atomicInst 0x77 h o d (fun v c b => if v = c then some b else none) s
def execCoreAmadd (h : Hdr) (o : BitVec 16) (d : BitVec 16) (s : State) : Host.Outcome State Fault Refusal :=
  atomicInst 0x78 h o d (fun v _ b => some (v + b)) s
def execCoreAmand (h : Hdr) (o : BitVec 16) (d : BitVec 16) (s : State) : Host.Outcome State Fault Refusal :=
  atomicInst 0x79 h o d (fun v _ b => some (v &&& b)) s
def execCoreAmor (h : Hdr) (o : BitVec 16) (d : BitVec 16) (s : State) : Host.Outcome State Fault Refusal :=
  atomicInst 0x7A h o d (fun v _ b => some (v ||| b)) s

end Sys2Proof.Machine
end

