-- ==== Sys2Proof/Machine/IsaBit.lean ====
section
/-! DEFINITION. The instruction set: the bit space (R205, R217, R238). -/

namespace Sys2Proof.Machine

open Sys2Proof

/-- What a bit address leads to. -/
inductive BitPlace where
  | ram (b : Nat)
  | soft (k : Nat)
  | pulse (k : Nat)
  | source (e : Nat)
  | flag (e : Nat)
  | pin (p : Nat)
  | out (p : Nat)
  | nothing
deriving DecidableEq, Repr

/-- The map of the bit space. -/
def bitPlace (b : Nat) : BitPlace :=
  if b < 0x10000 then .ram b
  else if within b 0x41600 64 then .soft (b - 0x41600)
  else if within b 0x41640 64 then .pulse (b - 0x41640)
  else if within b 0x40000 0x8000 then .source (b - 0x40000)
  else if within b 0x48000 0x8000 then .flag (b - 0x48000)
  else if within b 0x50000 0x100 then .pin (b - 0x50000)
  else if within b 0x50100 0x100 then .out (b - 0x50100)
  else .nothing

/-- The place can be read; can be written. -/
def BitPlace.readable : BitPlace → Bool
  | .nothing => false
  | _ => true
def BitPlace.writable : BitPlace → Bool
  | .ram _ => true
  | .soft _ => true
  | .pulse _ => true
  | .flag _ => true
  | .out _ => true
  | _ => false

/-- The place is core `i`'s own bit RAM. -/
def BitPlace.local_ : BitPlace → Bool
  | .ram _ => true
  | _ => false

/-- The soft-level register and its bit. -/
def softField (k : Nat) : Fld := if k < 32 then FAB_SOFT0_LEVEL else FAB_SOFT1_LEVEL

/-- The value of a bit as core `i` reads it. -/
def bitRead (i : Nat) (p : BitPlace) (s : State) : Bool :=
  match p with
  | .ram b => (sget 0 (cpu i s).bitRam (b / 32)).testBit (b % 32)
  | .soft k => sourceVal (0x1600 + k) s
  | .pulse _ => false
  | .source e => sourceVal e s
  | .flag e => s.fab.flags.contains e
  | .pin p => s.pads.lvl2.contains p
  | .out p => fbitAt PAD_OUT_OUT (p / 32) (p % 32) s
  | .nothing => false

/-- The bit that a read, modify and write by core `i` starts from: for a soft level that a write of this dot changes, what was written, so
that two such instructions of one dot follow one another (R134, R205). -/
def bitOld (i : Nat) (p : BitPlace) (s : State) : Bool :=
  match p with
  | .soft k =>
    (s.due.foldl (fun v e => match e with
      | (_, .bit f 0 j b) => if f.id = (softField k).id ∧ j = k % 32 then b else v
      | (_, .field f 0 w) => if f.id = (softField k).id then w.testBit (k % 32) else v
      | _ => v) (fbitAt (softField k) 0 (k % 32) s)) || meterSoft k s
  | _ => bitRead i p s

/-- Core `i` writes a bit: soft levels and pulses act from the dot after (R134). -/
def bitWrite (i : Nat) (p : BitPlace) (v : Bool) (s : State) : State :=
  match p with
  | .ram b =>
    let w := sget 0 (cpu i s).bitRam (b / 32)
    let w := if v then w ||| 2 ^ (b % 32) else w - (w &&& 2 ^ (b % 32))
    setCpu i { cpu i s with bitRam := sset 0 (cpu i s).bitRam (b / 32) w } s
  | .soft k => later 1 (.bit (softField k) 0 (k % 32) v) s
  | .pulse k => if v then later 1 (.fire (0x1640 + k)) s else s
  | .flag e => { s with fab := { s.fab with flags := if v then nput e s.fab.flags else ndel e s.fab.flags } }
  | .out p => mark PAD_OUT_OUT.id (p / 32) (2 ^ (p % 32)) (fsetBit PAD_OUT_OUT (p / 32) (p % 32) v s)
  | _ => s

/-- The checks of an access to `n` bits from `b` on under the instruction's capability: the exception that a check or a refusal raises. -/
def bitFails (x : Ins) (ps : List Nat) (b n : Nat) (s : State) : Option Exc :=
  let p := bitPlace b
  match capCheckBit (cGet x.i (authReg x.pre) s) ps b n with
  | some d => some (excBit d b)
  | none =>
    if (ps.contains permLD && !p.readable) || (ps.contains permST && !p.writable) then some (excBit 0 b) else none

/-- The bit address: imm32, or bits [19:0] of gA. -/
def bitAddr (i : Nat) (o : BitVec 16) (at_ : BitAddr) (s : State) : Nat :=
  match at_ with
  | .imm v => v.toNat
  | .reg => gGet i (fieldA o) s % 2 ^ 20

/-- A bit instruction on one bit: `ps` are the permissions that it needs, `body` acts on the place. -/
def bitInst (j : Nat) (h : Hdr) (o : BitVec 16) (at_ : BitAddr) (ps : List Nat) (body : Ins → BitPlace → State → Did) (s : State) :
    Host.Outcome State Fault Refusal :=
  let ok := match at_ with
    | .imm v => decide (v.toNat < 2 ^ 20)
    | .reg => true
  let rs := match at_ with
    | .imm _ => if j = 4 then gr (fieldA o) else []
    | .reg => gr (fieldA o)
  let u := memIss h.pre rs (if j = 3 ∨ j = 5 then gr (fieldD o) else [])
  runInst (codeBit j o at_) u h (prefixesOk allowCap h.pre && !optionX o && ok) (fun x s =>
    let b := bitAddr x.i o at_ s
    match bitFails x ps b 1 s with
    | some e => .fail e s
    | none => body x (bitPlace b) s) s

/-- The counts of R217 for a bit read, a bit write, a read and write. -/
def bitReadCount (p : BitPlace) : Nat := if p.local_ then 2 else 4
def bitWriteCount (p : BitPlace) : Nat := if p.local_ then 1 else 2
def bitBothCount (p q : BitPlace) : Nat := if p.local_ && q.local_ then 2 else 6

def execCoreBset (h : Hdr) (o : BitVec 16) (at_ : BitAddr) (s : State) : Host.Outcome State Fault Refusal :=
  bitInst 0 h o at_ [permST] (fun x p s => { s := bitWrite x.i p true s, n := bitWriteCount p }) s
def execCoreBclr (h : Hdr) (o : BitVec 16) (at_ : BitAddr) (s : State) : Host.Outcome State Fault Refusal :=
  bitInst 1 h o at_ [permST] (fun x p s => { s := bitWrite x.i p false s, n := bitWriteCount p }) s
def execCoreBnot (h : Hdr) (o : BitVec 16) (at_ : BitAddr) (s : State) : Host.Outcome State Fault Refusal :=
  bitInst 2 h o at_ [permLD, permST] (fun x p s => { s := bitWrite x.i p (!bitOld x.i p s) s, n := bitWriteCount p }) s
/-- BLD: gD = the bit. -/
def execCoreBld (h : Hdr) (o : BitVec 16) (at_ : BitAddr) (s : State) : Host.Outcome State Fault Refusal :=
  bitInst 3 h o at_ [permLD] (fun x p s => { s := gSet x.i (fieldD o) (bitRead x.i p s).toNat s, n := bitReadCount p, lat := 3 }) s
/-- BST: the bit = bit 0 of gA. -/
def execCoreBst (h : Hdr) (o : BitVec 16) (at_ : BitAddr) (s : State) : Host.Outcome State Fault Refusal :=
  bitInst 4 h o at_ [permST] (fun x p s => { s := bitWrite x.i p ((gGet x.i (fieldA o) s).testBit 0) s, n := bitWriteCount p }) s
/-- BTAS: gD = the old bit, and the bit is set. -/
def execCoreBtas (h : Hdr) (o : BitVec 16) (at_ : BitAddr) (s : State) : Host.Outcome State Fault Refusal :=
  bitInst 5 h o at_ [permLD, permST] (fun x p s =>
    { s := bitWrite x.i p true (gSet x.i (fieldD o) (bitOld x.i p s).toNat s), n := bitBothCount p p, lat := 3 }) s

/-- Bit gA = bit gA op bit gB, the source inverted with X = 1. -/
def bitPair (op : Nat) (h : Hdr) (o : BitVec 16) (ps : List Nat) (f : Bool → Bool → Bool) (s : State) : Host.Outcome State Fault Refusal :=
  runInst (codeR op o) (memIss h.pre (gr (fieldA o) ++ gr (fieldB o)) []) h (prefixesOk allowCap h.pre) (fun x s =>
    let a := gGet x.i (fieldA o) s % 2 ^ 20
    let b := gGet x.i (fieldB o) s % 2 ^ 20
    match bitFails x ps a 1 s with
    | some e => .fail e s
    | none =>
      match bitFails x [permLD] b 1 s with
      | some e => .fail e s
      | none =>
        let v := f (bitOld x.i (bitPlace a) s) (bitRead x.i (bitPlace b) s != optionX o)
        { s := bitWrite x.i (bitPlace a) v s, n := bitBothCount (bitPlace a) (bitPlace b) }) s

def execCoreBmov (h : Hdr) (o : BitVec 16) (s : State) : Host.Outcome State Fault Refusal := bitPair 0xA0 h o [permST] (fun _ b => b) s
def execCoreBand (h : Hdr) (o : BitVec 16) (s : State) : Host.Outcome State Fault Refusal := bitPair 0xA1 h o [permLD, permST] (fun a b => a && b) s
def execCoreBor (h : Hdr) (o : BitVec 16) (s : State) : Host.Outcome State Fault Refusal := bitPair 0xA2 h o [permLD, permST] (fun a b => a || b) s
def execCoreBxor (h : Hdr) (o : BitVec 16) (s : State) : Host.Outcome State Fault Refusal := bitPair 0xA3 h o [permLD, permST] (fun a b => a != b) s

/-- The 32 bits from address `b` on, a multiple of 32: bit 0 is the one at the lowest address. -/
def bitsRead (i b : Nat) (s : State) : Nat := gather 32 (fun k => bitRead i (bitPlace (b + k)) s)

/-- The 32 bits from address `b` on take `v`. -/
def bitsWrite (i b v : Nat) (s : State) : State :=
  forAll (List.range 32) (fun k t => bitWrite i (bitPlace (b + k)) (v.testBit k) t) s

/-- BLDW and BSTW: 32 bits from gA on, bits [4:0] of the address ignored. -/
def execCoreBldw (h : Hdr) (o : BitVec 16) (s : State) : Host.Outcome State Fault Refusal :=
  runInst (codeR 0xA4 o) (memIss h.pre (gr (fieldA o)) (gr (fieldD o))) h (prefixesOk allowCap h.pre && !optionX o) (fun x s =>
    let b := gGet x.i (fieldA o) s % 2 ^ 20 / 32 * 32
    match bitFails x [permLD] b 32 s with
    | some e => .fail e s
    | none => { s := gSet x.i (fieldD o) (bitsRead x.i b s) s, n := bitReadCount (bitPlace b), lat := 3 }) s
def execCoreBstw (h : Hdr) (o : BitVec 16) (s : State) : Host.Outcome State Fault Refusal :=
  runInst (codeR 0xA5 o) (memIss h.pre (gr (fieldA o) ++ gr (fieldD o)) []) h (prefixesOk allowCap h.pre && !optionX o) (fun x s =>
    let b := gGet x.i (fieldA o) s % 2 ^ 20 / 32 * 32
    match bitFails x [permST] b 32 s with
    | some e => .fail e s
    | none => { s := bitsWrite x.i b (gGet x.i (fieldD o) s) s, n := bitWriteCount (bitPlace b) }) s

end Sys2Proof.Machine
end

