-- ==== Sys2Proof/Machine/IsaBlock.lean ====
section
/-! DEFINITION. The instruction set: the resumable block instructions (R206 to R208, R219, R226). -/

namespace Sys2Proof.Machine

open Sys2Proof

/-- The capabilities of the capability byte (R193). -/
def srcCapOf (k : Byte) : Nat := k.toNat % 16
def dstCapOf (k : Byte) : Nat := k.toNat / 16

/-- A register steps by the element size, down with X = 1. -/
def stepReg (i r n : Nat) (o : BitVec 16) (s : State) : State :=
  gSet i r (gGet i r s + if optionX o then 2 ^ 32 - n else n) s

/-- gB, the count of elements left, falls by 1. -/
def countDown (i : Nat) (o : BitVec 16) (s : State) : State := gSet i (fieldB o) (gGet i (fieldB o) s + (2 ^ 32 - 1)) s

/-- What one element did: the exception that it raised; whether it ended the instruction with a match; what it adds to the count on a
loop core for general SRAM; the state after it. -/
structure Elem where
  exc : Option Exc
  found : Bool
  n : Nat
  s : State

/-- The count of R218 that an access in general SRAM adds to an element. -/
def sramCount (i a n : Nat) (s : State) : Nat :=
  match loopPlace i a n s with
  | .sram => if isHost i then 0 else loadCount .sram a n
  | _ => 0

/-- An element at `a` is read under capability register `k`. -/
def elemRead (i k a n : Nat) (s : State) : Option Exc × Nat × State :=
  match capCheck (cGet i k s) [permLD] a n false with
  | some d => (some (excCap d a k), 0, s)
  | none => match coreRead i a n s with
    | (none, t) => (some (excData a), 0, t)
    | (some v, t) => (none, v, t)

/-- An element at `a` is written under capability register `k`. -/
def elemWrite (i k a n v b : Nat) (s : State) : Option Exc × State :=
  match capCheck (cGet i k s) [permST] a n true with
  | some d => (some (excCap d a k), s)
  | none => match slotWrite i k a n (coreWrite i a n v b) s with
    | (false, t) => (some (excData a), t)
    | (true, t) => (none, t)

/-- The `n` bytes of `v` are fed into a CRC state, lowest first (R150, R206). -/
def crcBytes (v : Nat) : Nat → Nat → Nat
  | 0, c => c
  | n + 1, c => crcBytes (v / 256) n (crc32Byte c (v % 256))

/-- What one element of block instruction `r` does on core `i` (R206, R207). -/
def element (i : Nat) (r : BlockRun) (s : State) : Elem :=
  let n := r.size
  let o := r.o
  let a := gGet i (fieldA o) s
  let d := gGet i (fieldD o) s
  match r.kind with
  | .bcpy =>
    match elemRead i (srcCapOf r.k) a n s with
    | (some e, _, t) => ⟨some e, false, 0, t⟩
    | (none, v, t) =>
      match elemWrite i (dstCapOf r.k) d n v r.at_ t with
      | (some e, t) => ⟨some e, false, 0, t⟩
      | (none, t) => ⟨none, false, sramCount i a n s + sramCount i d n s,
          countDown i o (stepReg i (fieldA o) n o (stepReg i (fieldD o) n o t))⟩
  | .bfil =>
    match elemWrite i (dstCapOf r.k) d n (gElem i (fieldA o) n s) r.at_ s with
    | (some e, t) => ⟨some e, false, 0, t⟩
    | (none, t) => ⟨none, false, sramCount i d n s, countDown i o (stepReg i (fieldD o) n o t)⟩
  | .tsrch =>
    match elemRead i (srcCapOf r.k) a n s with
    | (some e, _, t) => ⟨some e, false, 0, t⟩
    | (none, v, t) =>
      if v = gElem i (fieldD o) n t then ⟨none, true, sramCount i a n s, t⟩
      else ⟨none, false, sramCount i a n s, countDown i o (stepReg i (fieldA o) n o t)⟩
  | .bcrc =>
    match elemRead i (srcCapOf r.k) a n s with
    | (some e, _, t) => ⟨some e, false, 0, t⟩
    | (none, v, t) => ⟨none, false, sramCount i a n s,
        countDown i o (stepReg i (fieldA o) n o (gSet i (fieldD o) (crcBytes v n (gGet i (fieldD o) t)) t))⟩

/-- The cycles of an element beside general SRAM; the base count (R219, R226). -/
def perElement (i : Nat) (r : BlockRun) : Nat :=
  (if isHost i then 1 else match r.kind with
    | .bcpy => 2
    | .bfil => 1
    | .tsrch => 2
    | .bcrc => 1) + if r.size = 8 then 1 else 0
def blockBase (i : Nat) : Nat := if isHost i then 4 else 3

/-- The block instruction of core `i` is over: its base count is used and the core goes on at `pc` (R219). -/
def blockEnd (i pc n : Nat) (r : BlockRun) (s : State) : State :=
  setCpu i { cpu i s with block := none, pc := pc, free := max (cpu i s).free (r.at_ + n) } s

/-- An interrupt or a fault event stands for core `i`, which stops a block instruction with the repeat prefix (R208). -/
def blockStops (i : Nat) (s : State) : Bool :=
  (waitingTrap i s).isSome || (waitingFault i s).isSome || (waitingInterrupt i s).isSome

/-- A block instruction stops at the boundary before its next element, and what stands there is taken (R208, R245). -/
def blockLeaves (i : Nat) (r : BlockRun) (s : State) : State :=
  let t := blockEnd i r.pc 0 r s
  match waitingTrap i t with
  | some e => takeTrap i e r.pc r.at_ t
  | none => (takeWaiting i r.pc r.at_ t).getD t

/-- Block instruction `r` of core `i` goes on, for at most `m` elements and no further than the present dot; what an element raised, with its
cycle. The base count follows the last element. Once something is to stop it, it completes as many elements as its command says, in no
more than 8 cycles (R206, R208, R219; DESIGN CHOICE, log 82). -/
def blockGo (i : Nat) : Nat → BlockRun → State → Option (Exc × Nat) × State
  | 0, r, s => (none, setCpu i { cpu i s with block := some r } s)
  | m + 1, r, s =>
    if gGet i (fieldB r.o) s = 0 then (none, blockEnd i r.next (blockBase i) r s)
    else if running s && decide (s.time < r.at_ / cyclesPerDot i) then (none, setCpu i { cpu i s with block := some r } s)
    else
      let seen := if r.rep && blockStops i s then some (r.seen.getD r.at_) else none
      let e := element i r s
      let fin := r.at_ + perElement i r + e.n
      let ends := match seen with
        | some c => decide (c + 8 < fin) || decide (r.stop.getD 0 ≤ r.more)
        | none => false
      if ends then (none, blockLeaves i r s)
      else match e.exc with
      | some x => (some (x, r.at_), setCpu i { cpu i e.s with block := none, pc := r.pc } e.s)
      | none =>
        let r := { r with at_ := fin, seen := seen, more := if seen.isSome then r.more + 1 else 0 }
        if e.found || !r.rep then (none, blockEnd i r.next (blockBase i) r e.s) else blockGo i m r e.s

/-- The elements that may lie in one dot; with the sweep at a stand, all. -/
def blockFuel (i : Nat) (r : BlockRun) (s : State) : Nat := if running s then cyclesPerDot i + 1 else gGet i (fieldB r.o) s + 1

/-- A block instruction: at most one element without the repeat prefix, all with it. -/
def blockInst (op : Nat) (kind : BlockKind) (h : Hdr) (o : BitVec 16) (k : Byte) (stop : Option Nat) (legal : Bool) (s : State) :
    Host.Outcome State Fault Refusal :=
  let n := elemSize h.pre
  let rs := gr (fieldB o) ++ (if kind = .bfil then elemRegs (fieldA o) n else gr (fieldA o))
    ++ (if kind = .tsrch then elemRegs (fieldD o) n else gr (fieldD o)) ++ cr (srcCapOf k) ++ cr (dstCapOf k)
  let u : Iss := { reads := rs, writes := gr (fieldB o) ++ gr (fieldA o) ++ gr (fieldD o), mem := true, alone := true }
  runInst ⟨op, o.toNat + 2 ^ 16 * k.toNat, stop⟩ u h (prefixesOk allowBlock h.pre && legal) (fun x s =>
    let r : BlockRun := ⟨kind, o, k, n, hasRepeat x.pre, stop, x.pc, x.next, x.b, none, 0⟩
    let e := blockGo x.i (blockFuel x.i r s) r s
    { s := e.2, exc := e.1.map Prod.fst, at_ := (e.1.map (fun p => p.2 - x.b)).getD 0, n := 0, hold := 1 }) s

/-- The block instructions in progress go on into the present dot (R206); a refuge trap that waits stands above what an element raises
(R252). -/
def blocksGoOn (s : State) : State :=
  forAll (s.cpus.map Prod.fst) (fun i t =>
    match (cpu i t).block with
    | some r => if !coreRuns i t then t else
      match blockGo i (blockFuel i r t) r t with
      | (some (x, c), u) =>
        match waitingTrap i u with
        | some e => takeTrap i e r.pc c u
        | none => if (cpu i u).arith = [] then takeException i x false r.pc c u else takeArith i r.pc c u
      | (none, u) => u
    | none => t) s

/-- BCPY: each element is read, then written. -/
def execCoreBcpy (h : Hdr) (o : BitVec 16) (k : Byte) (stop : Option Nat) (s : State) : Host.Outcome State Fault Refusal :=
  blockInst 0xB0 .bcpy h o k stop true s

/-- BFIL: the fill value is gA, a pair for elements of 64 bits. -/
def execCoreBfil (h : Hdr) (o : BitVec 16) (k : Byte) (stop : Option Nat) (s : State) : Host.Outcome State Fault Refusal :=
  blockInst 0xB1 .bfil h o k stop (srcCapOf k == 0 && (elemSize h.pre != 8 || pairField (fieldA o))) s

/-- TSRCH: it ends at an element that equals the low bits of the key. -/
def execCoreTsrch (h : Hdr) (o : BitVec 16) (k : Byte) (stop : Option Nat) (s : State) : Host.Outcome State Fault Refusal :=
  blockInst 0xB2 .tsrch h o k stop (dstCapOf k == 0 && (elemSize h.pre != 8 || pairField (fieldD o))) s

/-- BCRC: gD is the CRC state. -/
def execCoreBcrc (h : Hdr) (o : BitVec 16) (k : Byte) (stop : Option Nat) (s : State) : Host.Outcome State Fault Refusal :=
  blockInst 0xB3 .bcrc h o k stop (dstCapOf k == 0) s

end Sys2Proof.Machine
end

