-- ==== Sys2Proof/Machine/IsaCap.lean ====
section
/-! DEFINITION. The instruction set: capabilities (R196, R217, R218, R237 to R241). -/

namespace Sys2Proof.Machine

open Sys2Proof

/-- A capability exception that no address caused: `d` the detail, `k` the register checked. -/
def capFails (d k : Nat) (s : State) : Did := .fail (excCap d (Config.capOpAddr s.fresh).toNat k) (nextFresh s)

/-- CLD: cD = 16 bytes of memory with their tag, which is cleared where the capability lacks LDC. -/
def execCoreCld (h : Hdr) (o : BitVec 16) (d : BitVec 16) (s : State) : Host.Outcome State Fault Refusal :=
  let u := memIss h.pre (gr (fieldA o) ++ gr (fieldB o)) (cr (fieldD o))
  runInst (codeM 0xC0 o (.d16 d)) u h (prefixesOk allowCapLoad h.pre && !optionX o && capField (fieldD o)) (fun x s =>
    if fieldD o = 14 then capFails 10 14 s
    else
      let a := dataAddr x.i o 16 (dispVal (.d16 d)) s
      match accessFails x [permLD] a 16 false true s with
      | some e => .fail e s
      | none =>
        match coreReadCap x.i a s with
        | (none, t) => .fail (excData a) t
        | (some k, t) =>
          let c := if (cGet x.i (authReg x.pre) s).has permLDC then k else k.untagged
          { s := cSet x.i (fieldD o) c t, n := loadCount (loopPlace x.i a 16 s) a 16, lat := hostCount a 16 }) s

/-- CST: 16 bytes of memory = cD with its tag; a tagged one needs STC and a tag-bearing memory. -/
def execCoreCst (h : Hdr) (o : BitVec 16) (d : BitVec 16) (s : State) : Host.Outcome State Fault Refusal :=
  let u := memIss h.pre (gr (fieldA o) ++ gr (fieldB o) ++ cr (fieldD o)) []
  runInst (codeM 0xC1 o (.d16 d)) u h (prefixesOk allowCapStore h.pre && !optionX o && capField (fieldD o)) (fun x s =>
    let k := cGet x.i (fieldD o) s
    let a := dataAddr x.i o 16 (dispVal (.d16 d)) s
    match accessFails x (if k.tag then [permST, permSTC] else [permST]) a 16 true false s with
    | some e => .fail e s
    | none =>
      if k.tag && !coreTags x.i (a / 16 * 16) s then .fail (excCap 7 a (authReg x.pre)) s
      else if a % 16 ≠ 0 then .fail (excAlign a) s
      else
        match slotWrite x.i (authReg x.pre) a 16 (coreWriteCap x.i a k x.b) s with
        | (false, t) => if isHost x.i then { s := postedError x.i a t } else .fail (excData a) t
        | (true, t) => { s := t, n := storeCount (loopPlace x.i a 16 s) a 16 }) s

/-- An instruction that makes cD: c14 is refused (R241); `f` gives the capability, or the detail and the register of what fails. -/
def capInst (op : Nat) (rs : List Nat) (h : Hdr) (o : BitVec 16) (legal : Bool) (n hold lat : Nat)
    (f : Nat → State → Cap ⊕ (Nat × Nat)) (s : State) : Host.Outcome State Fault Refusal :=
  let u : Iss := { reads := rs, writes := cr (fieldD o), alone := decide (hold ≠ 0) }
  regInst op u h o (capField (fieldD o) && legal) (fun x s =>
    if fieldD o = 14 then capFails 10 14 s
    else match f x.i s with
    | .inl k => { s := cSet x.i (fieldD o) k s, n := n, hold := hold, lat := lat }
    | .inr e => capFails e.1 e.2 s) s

/-- CMOV: cD = cA, tag included. -/
def execCoreCmov (h : Hdr) (o : BitVec 16) (s : State) : Host.Outcome State Fault Refusal :=
  capInst 0xC2 (cr (fieldA o)) h o (capField (fieldA o)) 1 0 1 (fun i s => .inl (cGet i (fieldA o) s)) s

/-- CBASE: BASE + gB, LENGTH - gB. -/
def execCoreCbase (h : Hdr) (o : BitVec 16) (s : State) : Host.Outcome State Fault Refusal :=
  capInst 0xC3 (cr (fieldA o) ++ gr (fieldB o)) h o (capField (fieldA o)) 2 0 1 (fun i s =>
    let k := cGet i (fieldA o) s
    let g := gGet i (fieldB o) s
    if k.sealed then .inr (2, fieldA o) else if k.length < g then .inr (8, fieldA o) else .inl (k.withRange (k.base + g) (k.length - g))) s

/-- CLEN: LENGTH = gB. -/
def execCoreClen (h : Hdr) (o : BitVec 16) (s : State) : Host.Outcome State Fault Refusal :=
  capInst 0xC4 (cr (fieldA o) ++ gr (fieldB o)) h o (capField (fieldA o)) 2 0 1 (fun i s =>
    let k := cGet i (fieldA o) s
    let g := gGet i (fieldB o) s
    if k.sealed then .inr (2, fieldA o) else if k.length < g then .inr (8, fieldA o) else .inl (k.withRange k.base g)) s

/-- CPERM: PERMS AND gB[15:0]. -/
def execCoreCperm (h : Hdr) (o : BitVec 16) (s : State) : Host.Outcome State Fault Refusal :=
  capInst 0xC5 (cr (fieldA o) ++ gr (fieldB o)) h o (capField (fieldA o)) 2 0 1 (fun i s =>
    let k := cGet i (fieldA o) s
    if k.sealed then .inr (2, fieldA o) else .inl (k.withPerms (k.perms &&& (gGet i (fieldB o) s % 2 ^ 16)))) s

/-- The checks of a seal capability that holds permission `p`. -/
def sealFails (k : Cap) (p : Nat) : Option Nat :=
  if !k.tag then some 1 else if k.sealed then some 2 else if k.kind ≠ 2 then some 3 else if !k.has p then some 4 else none

/-- CSEAL: cA sealed with the object type at cB's base. -/
def execCoreCseal (h : Hdr) (o : BitVec 16) (s : State) : Host.Outcome State Fault Refusal :=
  capInst 0xC6 (cr (fieldA o) ++ cr (fieldB o)) h o (capField (fieldA o) && capField (fieldB o)) 3 1 2 (fun i s =>
    let k := cGet i (fieldA o) s
    let b := cGet i (fieldB o) s
    if k.sealed then .inr (2, fieldA o)
    else match sealFails b permSEAL with
    | some d => .inr (d, fieldB o)
    | none => if b.length = 0 then .inr (5, fieldB o) else .inl (k.withSeal b.base true k.tag)) s

/-- CUNSEAL: cA unsealed by cB. -/
def execCoreCunseal (h : Hdr) (o : BitVec 16) (s : State) : Host.Outcome State Fault Refusal :=
  capInst 0xC7 (cr (fieldA o) ++ cr (fieldB o)) h o (capField (fieldA o) && capField (fieldB o)) 3 1 2 (fun i s =>
    let k := cGet i (fieldA o) s
    let b := cGet i (fieldB o) s
    if !k.sealed then .inr (9, fieldA o)
    else match sealFails b permUNSEAL with
    | some d => .inr (d, fieldB o)
    | none =>
      if !b.covers k.otype 1 then .inr (9, fieldB o) else .inl (k.withSeal 0 false (k.tag && b.tag))) s

/-- CGET: gD = field B of cA. -/
def execCoreCget (h : Hdr) (o : BitVec 16) (s : State) : Host.Outcome State Fault Refusal :=
  regInst 0xC8 { reads := cr (fieldA o), writes := gr (fieldD o) } h o (capField (fieldA o)) (fun x s =>
    let k := cGet x.i (fieldA o) s
    if fieldB o ≤ 5 then
      let v := match fieldB o with
        | 0 => k.base
        | 1 => min k.length (2 ^ 32 - 1)
        | 2 => k.perms
        | 3 => k.otype
        | 4 => k.tag.toNat
        | _ => k.sealed.toNat
      { s := gSet x.i (fieldD o) v s }
    else { s := gSet x.i (fieldD o) (Config.cgetOther s.fresh).toNat (nextFresh s) }) s

/-- CJR: c14 = cA, PC = gB. -/
def execCoreCjr (h : Hdr) (o : BitVec 16) (s : State) : Host.Outcome State Fault Refusal :=
  regInst 0xC9 { reads := cr (fieldA o) ++ gr (fieldB o), ctl := true, alone := true } h o (capField (fieldA o)) (fun x s =>
    let k := cGet x.i (fieldA o) s
    let g := gGet x.i (fieldB o) s
    let d := if !k.tag then some 1 else if k.sealed then some 2 else if k.kind ≠ 0 then some 3 else if !k.has permX then some 4
      else if !k.covers g 1 then some 5 else none
    match d with
    | some d => capFails d (fieldA o) s
    | none => { s := jump x.i g (cSet x.i 14 k s), n := 5, hold := 7 }) s

/-- CCLR: the tag of cD is cleared. -/
def execCoreCclr (h : Hdr) (o : BitVec 16) (s : State) : Host.Outcome State Fault Refusal :=
  capInst 0xCA (cr (fieldD o)) h o true 1 0 1 (fun i s => .inl (cGet i (fieldD o) s).untagged) s

end Sys2Proof.Machine
end

