-- ==== Sys2Proof/Machine/IsaFloat.lean ====
section
/-! DEFINITION. The instruction set: binary32 (R203, R204, R211, R217, R223, R250, R251). -/

namespace Sys2Proof.Machine

open Sys2Proof

/-- The operands of a binary32 instruction: gD, gA, gB as words, and how to read and round them. -/
structure FIn where
  d : Nat
  a : Nat
  b : Nat
  rm : Nat
  ftz : Bool

/-- The operands as values. -/
def FIn.D (x : FIn) : F32 := unpack x.ftz x.d
def FIn.A (x : FIn) : F32 := unpack x.ftz x.a
def FIn.B (x : FIn) : F32 := unpack x.ftz x.b

/-- With PRECISE and a binary32 trap enabled, a binary32 instruction of core `i` issues alone (R251). -/
def preciseFloat (i : Nat) (s : State) : Bool := fbit EXC_CTRL_PRECISE i s && bits (cpu i s).fctrl 12 8 != 0

/-- The escaped instruction `e`, without prefixes; `n` its loop-core count, `lat` the cycles to its result on a host core, `stall` whether it
issues alone and the next instruction waits for them. With PRECISE and a binary32 trap enabled every one does (R251). -/
def floatInst (e : Nat) (h : Hdr) (o : BitVec 16) (legal : Bool) (imm : Option Word) (n lat : Nat) (stall : Bool) (f : FIn → FRes)
    (s : State) : Host.Outcome State Fault Refusal :=
  let c : Code := ⟨0x0F00 + e, o.toNat + 2 ^ 16 * (imm.map BitVec.toNat).getD 0, none⟩
  let rs := gr (fieldA o) ++ (if imm.isNone && decide (e ≠ 0x04 ∧ e < 0x0E) then gr (fieldB o) else []) ++ (if e = 0x09 then gr (fieldD o) else [])
  let u : Iss := { reads := rs, writes := gr (fieldD o), f32 := true, alone := stall || preciseFloat (coreNum h.core) s }
  runInst c u h (prefixesOk allowNone h.pre && !optionX o && legal) (fun x s =>
    let b := match imm with
      | some v => v.toNat
      | none => gGet x.i (fieldB o) s
    let hold := if stall || preciseFloat x.i s then lat else 0
    arithEnd x (fieldD o) (f ⟨gGet x.i (fieldD o) s, gGet x.i (fieldA o) s, b, fRM x.i s, fFTZ x.i s⟩) n hold lat s) s

def execCoreFadd (h : Hdr) (o : BitVec 16) (s : State) : Host.Outcome State Fault Refusal :=
  floatInst 0x00 h o true none 3 4 false (fun x => addF x.rm x.ftz x.A x.B) s
def execCoreFsub (h : Hdr) (o : BitVec 16) (s : State) : Host.Outcome State Fault Refusal :=
  floatInst 0x01 h o true none 3 4 false (fun x => addF x.rm x.ftz x.A x.B.negate) s
def execCoreFmul (h : Hdr) (o : BitVec 16) (s : State) : Host.Outcome State Fault Refusal :=
  floatInst 0x02 h o true none 3 4 false (fun x => mulF x.rm x.ftz x.A x.B) s
def execCoreFdiv (h : Hdr) (o : BitVec 16) (s : State) : Host.Outcome State Fault Refusal :=
  floatInst 0x03 h o true none 18 14 true (fun x => divF x.rm x.ftz x.A x.B) s
/-- FSQRT: field B is 0. -/
def execCoreFsqrt (h : Hdr) (o : BitVec 16) (s : State) : Host.Outcome State Fault Refusal :=
  floatInst 0x04 h o (fieldB o == 0) none 18 16 true (fun x => sqrtF x.rm x.ftz x.A) s
def execCoreFmin (h : Hdr) (o : BitVec 16) (s : State) : Host.Outcome State Fault Refusal :=
  floatInst 0x05 h o true none (1 + Config.fminLoop) (1 + Config.fminHost) false
    (fun x => minmaxF false (flushed x.ftz x.a) (flushed x.ftz x.b) x.A x.B) s
def execCoreFmax (h : Hdr) (o : BitVec 16) (s : State) : Host.Outcome State Fault Refusal :=
  floatInst 0x06 h o true none (1 + Config.fminLoop) (1 + Config.fminHost) false
    (fun x => minmaxF true (flushed x.ftz x.a) (flushed x.ftz x.b) x.A x.B) s

/-- FNEG and FABS act on the sign bit alone and set no flag. -/
def signInst (e : Nat) (h : Hdr) (o : BitVec 16) (f : Nat → Nat) (s : State) : Host.Outcome State Fault Refusal :=
  runInst (codeR (0x0F00 + e) o) { reads := gr (fieldA o), writes := gr (fieldD o), f32 := true } h (prefixesOk allowNone h.pre && !optionX o)
    (fun x s => { s := gSet x.i (fieldD o) (f (gGet x.i (fieldA o) s)) s }) s
def execCoreFneg (h : Hdr) (o : BitVec 16) (s : State) : Host.Outcome State Fault Refusal := signInst 0x07 h o (fun a => a ^^^ 2 ^ 31) s
def execCoreFabs (h : Hdr) (o : BitVec 16) (s : State) : Host.Outcome State Fault Refusal := signInst 0x08 h o (fun a => a % 2 ^ 31) s

/-- FMA: gD = gD + gA × gB, rounded once. -/
def execCoreFma (h : Hdr) (o : BitVec 16) (s : State) : Host.Outcome State Fault Refusal :=
  floatInst 0x09 h o true none 4 5 false (fun x => fmaF x.rm x.ftz x.D x.A x.B) s

def execCoreFceq (h : Hdr) (o : BitVec 16) (s : State) : Host.Outcome State Fault Refusal :=
  floatInst 0x0A h o true none 1 2 false (fun x => fceqF x.A x.B) s
def execCoreFclt (h : Hdr) (o : BitVec 16) (s : State) : Host.Outcome State Fault Refusal :=
  floatInst 0x0B h o true none 1 2 false (fun x => fcltF false x.A x.B) s
def execCoreFcle (h : Hdr) (o : BitVec 16) (s : State) : Host.Outcome State Fault Refusal :=
  floatInst 0x0C h o true none 1 2 false (fun x => fcltF true x.A x.B) s
def execCoreFcun (h : Hdr) (o : BitVec 16) (s : State) : Host.Outcome State Fault Refusal :=
  floatInst 0x0D h o true none 1 2 false (fun x => fcunF x.A x.B) s

/-- The conversions; of FCVTQF and FCVTFQ field B is the number of fraction bits. -/
def execCoreFcvtif (h : Hdr) (o : BitVec 16) (s : State) : Host.Outcome State Fault Refusal :=
  floatInst 0x0E h o true none 3 4 false (fun x => fromInt x.rm x.ftz (sint x.a) 0) s
def execCoreFcvtfi (h : Hdr) (o : BitVec 16) (s : State) : Host.Outcome State Fault Refusal :=
  floatInst 0x0F h o true none 3 4 false (fun x => toInt x.rm x.A 0) s
def execCoreFcvtqf (h : Hdr) (o : BitVec 16) (s : State) : Host.Outcome State Fault Refusal :=
  floatInst 0x10 h o true none 3 4 false (fun x => fromInt x.rm x.ftz (sint x.a) (fieldB o)) s
def execCoreFcvtfq (h : Hdr) (o : BitVec 16) (s : State) : Host.Outcome State Fault Refusal :=
  floatInst 0x11 h o true none 3 4 false (fun x => toInt x.rm x.A (fieldB o)) s

/-- The forms with imm32 in place of gB. -/
def execCoreFaddi (h : Hdr) (o : BitVec 16) (imm : Word) (s : State) : Host.Outcome State Fault Refusal :=
  floatInst 0x20 h o true (some imm) 3 4 false (fun x => addF x.rm x.ftz x.A x.B) s
def execCoreFmuli (h : Hdr) (o : BitVec 16) (imm : Word) (s : State) : Host.Outcome State Fault Refusal :=
  floatInst 0x21 h o true (some imm) 3 4 false (fun x => mulF x.rm x.ftz x.A x.B) s
def execCoreFclti (h : Hdr) (o : BitVec 16) (imm : Word) (s : State) : Host.Outcome State Fault Refusal :=
  floatInst 0x22 h o true (some imm) 1 2 false (fun x => fcltF false x.A x.B) s

end Sys2Proof.Machine
end

