-- ==== Sys2Proof/Machine/Net.lean ====
section
/-! DEFINITION. The agents that move frames, sectors and requests through memory under a capability of their own: descriptor queues,
Ethernet, CAN FD, the endpoint's inbound requests, NAND reads and writes (R398, R399, R405, R410 to R417, R420, R424 to R426). -/

namespace Sys2Proof.Machine

open Sys2Proof

/-- The number that a list of bytes is, the first least significant. -/
def bytesNat : List Byte → Nat
  | [] => 0
  | b :: bs => b.toNat + 256 * bytesNat bs

/-- The parts in which an agent makes `n` bytes from `a` on: naturally aligned words of 8 bytes of memory, of 4 or single bytes where they
touch registers. -/
def pieces (a n : Nat) : List (Nat × Nat) :=
  if touchesRegister a n then
    (chunks 4 a n).flatMap (fun p => if p.2 = 4 then [p] else (List.range p.2).map (fun i => (p.1 + i, 1)))
  else chunks 8 a n

/-! ### Descriptor queues (R410, R411) -/

/-- The capability and the requester code of queue `q` (R378, R411). -/
def qCap (q : Nat) (s : State) : Cap :=
  if (qRegs q).eth then slotCap ETH_CAP_CAP (qRegs q).block s else slotCap CAN_CAP_CAP (qRegs q).block s
def qReq (q : Nat) : Nat := if (qRegs q).eth then 0x88 else 0x89

/-- The index, and the address, of the descriptor `i` places behind Q_CONS. -/
def qIndex (q i : Nat) (s : State) : Nat :=
  let r := qRegs q
  (fget r.cons r.unit s + i) % fget r.size r.unit s
def qAddr (q i : Nat) (s : State) : Nat := 32 * fget (qRegs q).base (qRegs q).unit s + 32 * qIndex q i s

/-- Words 0 to 3 of the next descriptor, or the queue stops. -/
def fetchDesc (q : Nat) (s : State) : Option (Nat × Nat × Nat × Nat) × State :=
  let a := qAddr q (queue q s).hands.length s
  if (capCheck (qCap q s) [permLD] a 16 false).isSome then (none, qStop q 1 s)
  else match readParts (qReq q) [(a, 8), (a + 8, 8)] s with
  | (_, some _, s) => (none, qStop q 3 s)
  | (v, none, s) => (some (v % 2 ^ 32, v / 2 ^ 32 % 2 ^ 32, v / 2 ^ 64 % 2 ^ 32, v / 2 ^ 96 % 2 ^ 32), s)

/-- `n` bytes of a buffer at `a`, or the queue stops. -/
def bufRead (q a n : Nat) (s : State) : Option Nat × State :=
  if (capCheck (qCap q s) [permLD] a n false).isSome then (none, qStop q 2 s)
  else match readParts (qReq q) (pieces a n) s with
  | (_, some _, s) => (none, qStop q 4 s)
  | (v, none, s) => (some v, s)

/-- `n` bytes of `v` go to a buffer at `a`; false where the queue stops. -/
def bufWrite (q a n v : Nat) (s : State) : Bool × State :=
  if (capCheck (qCap q s) [permST] a n true).isSome then (false, qStop q 2 s)
  else match writePartsUnder (qCap q s) a v (qReq q) (pieces a n) s with
  | (some _, s) => (false, qStop q 4 s)
  | (none, s) => (true, s)

/-- The buffer accesses of a descriptor are done: words 4 to 7 wait to be written back. -/
def pushHand (q : Nat) (h : Hand) (s : State) : State := setQueueH q { queue q s with hands := (queue q s).hands ++ [h] } s

/-- Word 4 of a completed descriptor. -/
def doneWord (status count : Nat) : Nat := 2 ^ 31 + status * 2 ^ 24 + count

/-- The block of queue `q` is enabled. -/
def qEnabled (q : Nat) (s : State) : Bool := if (qRegs q).eth then fbit ETH_CTRL_EN (qRegs q).block s else fbit CAN_CTRL_EN (qRegs q).block s

/-- The detail of the completion event of a descriptor that was done without a frame (R432). -/
def qNoDetail (q : Nat) : Nat := let r := qRegs q; if r.rx then (if r.eth then 0 else 31 * 2 ^ 12) else if r.eth then q % 16 * 2 ^ 16 else 0

/-- A descriptor of LEN 0 that stands next in queue `q` is done at once, while the block is enabled (R16, R410). -/
def zeroLens (q : Nat) : Nat → State → State
  | 0, s => s
  | n + 1, s =>
    if !qEnabled q s || qReady q s = 0 then s
    else
      let a := qAddr q (queue q s).hands.length s
      match (readParts (qReq q) [(a, 8)] s).1 / 2 ^ 32 % 2 ^ 16 with
      | 0 =>
        match fetchDesc q s with
        | (none, t) => t
        | (some (_, w1, _, _), t) =>
          if w1 % 2 ^ 16 = 0 then zeroLens q n (pushHand q ⟨[doneWord 0 0, 0, 0, 0], w1.testBit 16, qNoDetail q⟩ t) else t
      | _ => s

/-- The event of a completed descriptor of queue `q`, index `i` (R432). -/
def qEvent (q detail i : Nat) (s : State) : State :=
  let r := qRegs q
  let src := if r.eth then 0x140 + 8 * r.block + (if r.rx then 1 + (q % 16 - 8) else 0) else 0x160 + 4 * r.block + r.rx.toNat
  arrive src (detail + i) s

/-- Q_CONS of queue `q` passes the oldest descriptor in hand, which has been written back, and its event arrives (R411). -/
def qConsume (q : Nat) (s : State) : State :=
  match (queue q s).hands, (queue q s).back with
  | h :: rest, n + 1 =>
    let i := qIndex q 0 s
    onlyIf h.event (qEvent q h.detail i) (setQueueH q ⟨rest, s.pos, n⟩ (fset (qRegs q).cons (qRegs q).unit (qIndex q 1 s) s))
  | _, _ => s

/-- QUEUE_DESCRIPTOR_COMPLETE (R411): the write-back store of the oldest descriptor in hand that waits for it is performed; in the next dot
Q_CONS advances and its event arrives. -/
def execQueueDescriptorComplete (q : Fin 40) (s : State) : Host.Outcome State Fault Refusal :=
  let n := (queue q s).back
  match (queue q s).hands.drop n with
  | [] => .next s
  | h :: _ =>
    let a := qAddr q n s + 16
    let v := h.words.foldr (fun w n => w % 2 ^ 32 + 2 ^ 32 * n) 0
    if (capCheck (qCap q s) [permST] a 16 true).isSome then .next (qStop q 1 s)
    else match writePartsUnder (qCap q s) a v (qReq q) (chunks 8 a 16) s with
    | (some _, s) => .next (qStop q 3 s)
    | (none, s) => .next (later 1 (.consume q) (setQueueH q { queue q s with back := n + 1 } s))

/-- A position lies before another, frames counted modulo 2^32. -/
def posBefore (f lo f' lo' : Nat) : Bool :=
  let d := (f' + 2 ^ 32 - f) % 2 ^ 32
  if d = 0 then decide (lo < lo') else decide (d < 2 ^ 31)

/-- The launch position of words 2 and 3 has been reached (R415). -/
def launched (w2 w3 : Nat) (s : State) : Bool := !posBefore s.pos.frame (posLo s.pos) w3 (w2 % 2 ^ 26)

/-- The stamp `x` fine steps after the start of the present dot: words 5 and 6 (R414). -/
def stampAt (x : Int) (s : State) : Nat × Nat :=
  let t : Int := (s.pos.line * dotsEff s + s.pos.dot) * 32 + x
  let r := (t % (frameDots s * 32 : Nat)).toNat
  (r % 32 * 2 ^ 26 + r / 32 / dotsEff s * 2 ^ 14 + r / 32 % dotsEff s, ((s.pos.frame + t / (frameDots s * 32 : Nat)) % 2 ^ 32).toNat)

/-! ### Ethernet (R412 to R417) -/

/-- A stamp of the port: within 4 fine steps of the exact one, a free value (R414). -/
def ethStamp (x : Int) (s : State) : (Nat × Nat) × State := (stampAt (x + Config.stampError s.fresh % 9 - 4) s, nextFresh s)

/-- Byte `i` of a frame. -/
def byteAt (f : List Byte) (i : Nat) : Nat := (f.getD i 0).toNat

/-- The 16-bit big-endian number at byte `i`. -/
def be16 (f : List Byte) (i : Nat) : Nat := byteAt f i * 256 + byteAt f (i + 1)

/-- The destination address of a frame, its first byte least significant. -/
def destOf (f : List Byte) : Nat := bytesNat (f.take 6)

/-- The lowest-numbered enabled address entry of port `k` that matches. -/
def addrMatch (k : Nat) (f : List Byte) (s : State) : Option Nat :=
  (List.range 16).find? (fun i => fbit ETH_ADDR_HI_EN (16 * k + i) s
    && fget ETH_ADDR_LO_ADDR (16 * k + i) s + 2 ^ 32 * fget ETH_ADDR_HI_ADDR (16 * k + i) s == destOf f)

/-- The frame carries an 802.1Q tag; its EtherType after any tag; its PCP. -/
def tagged (f : List Byte) : Bool := be16 f 12 == 0x8100
def etherType (f : List Byte) : Nat := if tagged f then be16 f 16 else be16 f 12
def pcpOf (f : List Byte) : Nat := if tagged f then byteAt f 14 / 32 else 0

/-- The receive queue that ETH_RXMAP gives for a PCP. -/
def rxMapPcp (k p : Nat) (s : State) : Nat :=
  fget (match p with
    | 0 => ETH_RXMAP_PCP0
    | 1 => ETH_RXMAP_PCP1
    | 2 => ETH_RXMAP_PCP2
    | 3 => ETH_RXMAP_PCP3
    | 4 => ETH_RXMAP_PCP4
    | 5 => ETH_RXMAP_PCP5
    | 6 => ETH_RXMAP_PCP6
    | _ => ETH_RXMAP_PCP7) k s

/-- The receive queue of an accepted frame (R413). -/
def rxQueue (k : Nat) (f : List Byte) (s : State) : Nat :=
  match (List.range 4).find? (fun j => fbit ETH_ETYPE_EN (4 * k + j) s && fget ETH_ETYPE_ETYPE (4 * k + j) s == etherType f) with
  | some j => fget ETH_ETYPE_QUEUE (4 * k + j) s
  | none => if tagged f then rxMapPcp k (pcpOf f) s else fget ETH_RXMAP_UNTAGGED k s

/-- INFO of a received frame (R413). -/
def rxInfo (k : Nat) (f : List Byte) (s : State) : Nat :=
  etherType f + pcpOf f * 2 ^ 16 + (tagged f).toNat * 2 ^ 19 + (addrMatch k f s).getD 15 * 2 ^ 20
    + (destOf f == 2 ^ 48 - 1).toNat * 2 ^ 24 + ((byteAt f 0).testBit 0).toNat * 2 ^ 25

/-- A PAUSE frame of IEEE 802.3. -/
def isPause (f : List Byte) : Bool := destOf f == 0x010000C28001 && be16 f 12 == 0x8808 && be16 f 14 == 1

/-- An accepted frame goes to the next descriptor of its queue; descriptors of LEN 0 before it are done at once (R410, R413). -/
def rxDeliver (q : Nat) (f : List Byte) (info : Nat) (stamp : Nat × Nat) : Nat → State → State
  | 0, s => s
  | fuel + 1, s =>
    let k := (qRegs q).block
    if qReady q s = 0 then { fcount ETH_RX_NODESC_COUNT k 1 s with frameRep := nput 0x1F1 s.frameRep }
    else match fetchDesc q s with
    | (none, s) => s
    | (some (w0, w1, _, _), s) =>
      let len := w1 % 2 ^ 16
      if len = 0 then rxDeliver q f info stamp fuel (pushHand q ⟨[doneWord 0 0, 0, 0, 0], w1.testBit 16, 0⟩ s)
      else
        let n := min len f.length
        let status := if len < f.length then 1 else 0
        match bufWrite q w0 n (bytesNat (f.take n)) s with
        | (false, s) => s
        | (true, s) => fcount ETH_RX_OK_COUNT k 1
            (pushHand q ⟨[doneWord status n, stamp.1, stamp.2, info], w1.testBit 16, status * 2 ^ 24⟩ s)

/-- ETH_FRAME_RECEIVE (R412 to R414): a frame without its FCS, whose first destination bit crosses the pins in this dot at a fine step;
it is checked, filtered, stamped and delivered, or dropped and counted. A PAUSE frame holds transmission while PAUSE is 1. -/
def execEthFrameReceive (k : Fin 2) (frame : List Byte) (fcs : Bool) (fine : Fin 32) (s : State) : Host.Outcome State Fault Refusal :=
  if !fbit ETH_CTRL_EN k s then .next s
  else if !fcs then .next (fcount ETH_RX_FCS_COUNT k 1 s)
  else if frame.length < 60 ∨ 9018 < frame.length then .next (fcount ETH_RX_LEN_COUNT k 1 s)
  else if fbit ETH_CTRL_PAUSE k s && isPause frame then
    .next (setEth k { eth k s with pause := s.time + ethDots k (64 * be16 frame 16) s } s)
  else if !((addrMatch k frame s).isSome || (destOf frame == 2 ^ 48 - 1 && fbit ETH_CTRL_BCAST k s) || fbit ETH_CTRL_PROMISC k s) then
    .next (fcount ETH_RX_FILTERED_COUNT k 1 s)
  else
    let st := ethStamp fine s
    .next (rxDeliver (16 * k + 8 + rxQueue k frame s) frame (rxInfo k frame s) st.1 4097 st.2)

/-- Port `k` tries transmit queue `q`: descriptors that send nothing are done at once; true where a frame starts (R413, R415). -/
def txTry (k q fine : Nat) : Nat → State → Bool × State
  | 0, s => (false, s)
  | fuel + 1, s =>
    let n := 16 * k + q
    if qReady n s = 0 then (false, s)
    else
      let head := if (queue n s).hands = [] then (queue n s).head else s.pos
      match fetchDesc n s with
      | (none, s) => (false, s)
      | (some (w0, w1, w2, w3), s) =>
        let len := w1 % 2 ^ 16
        let ev := w1.testBit 16
        let launch := w1.testBit 17
        if len < 14 ∨ 9018 < len then
          txTry k q fine fuel (pushHand n ⟨[doneWord (if len = 0 then 0 else 3) 0, 0, 0, 0], ev, q * 2 ^ 16⟩ s)
        else
          let dots := ethDots k (max 60 len + 24) s
          if (launch && !launched w2 w3 s) || !gateFor k q dots s
              || (fbit ETH_CBS_EN (8 * k + q) s && decide (sget 0 (eth k s).credit q < 0)) then (false, s)
          else match bufRead n w0 len s with
          | (none, s) => (false, s)
          | (some v, s) =>
            let late := launch && posBefore w3 (w2 % 2 ^ 26) head.frame (posLo head)
            let st := ethStamp (fine + 64 * 400000 * 32 / ethRate k s : Nat) s
            let s := setEth k { eth k st.2 with busy := s.time + dots, sending := some q, sent := some (len, v) } st.2
            let s := onlyIf late (fcount ETH_TX_LATE_COUNT k 1) (fcount ETH_TX_OK_COUNT k 1 s)
            (true, pushHand n ⟨[doneWord (if late then 2 else 0) len, st.1.1, st.1.2, 0], ev, q * 2 ^ 16⟩ s)

/-- The highest-numbered transmit queue that can starts its next frame. -/
def txFirst (k fine : Nat) : List Nat → State → State
  | [], s => s
  | q :: qs, s =>
    match txTry k q fine 4097 s with
    | (true, s) => s
    | (false, s) => txFirst k fine qs s

/-- ETH_FRAME_TRANSMIT (R413 to R417): an idle port starts its next frame, its preamble at a fine step of this dot. -/
def execEthFrameTransmit (k : Fin 2) (fine : Fin 32) (s : State) : Host.Outcome State Fault Refusal :=
  let h := eth k s
  if !fbit ETH_CTRL_EN k s || !fbit ETH_STAT_LINK k s || decide (s.time < h.busy) || (fbit ETH_CTRL_PAUSE k s && decide (s.time < h.pause)) then .next s
  else .next (txFirst k fine [7, 6, 5, 4, 3, 2, 1, 0] s)

/-! ### CAN FD (R424 to R426) -/

/-- The data length that DLC codes. -/
def dlcLen (fdf : Bool) (dlc : Nat) : Nat :=
  if dlc ≤ 8 then dlc else if !fdf then 8 else [12, 16, 20, 24, 32, 48, 64].getD (dlc - 9) 64

/-- Filter `f` of controller `k` accepts the identifier. -/
def canAccepts (k f id : Nat) (ide : Bool) (s : State) : Bool :=
  fbit CAN_FLT_ID_EN (32 * k + f) s && fbit CAN_FLT_ID_IDE (32 * k + f) s == ide
    && ((id ^^^ fget CAN_FLT_ID_ID (32 * k + f) s) &&& fget CAN_FLT_MASK_MASK (32 * k + f) s) == 0

/-- Controller `k` has no filter enabled. -/
def canOpen (k : Nat) (s : State) : Bool := !(List.range 32).any (fun f => fbit CAN_FLT_ID_EN (32 * k + f) s)

/-- A buffer of `n` bytes with its first two words goes to the next receive descriptor of controller `k`; one with too small a LEN is
done without access. -/
def canDeliver (k n v filter : Nat) : Nat → State → State
  | 0, s => s
  | fuel + 1, s =>
    let q := 33 + 2 * k
    if qReady q s = 0 then s
    else match fetchDesc q s with
    | (none, s) => s
    | (some (w0, w1, _, _), s) =>
      let len := w1 % 2 ^ 16
      if len < 72 then
        canDeliver k n v filter fuel (pushHand q ⟨[doneWord (if len = 0 then 0 else 3) 0, 0, 0, 0], w1.testBit 16, 31 * 2 ^ 12⟩ s)
      else match bufWrite q w0 n v s with
      | (false, s) => s
      | (true, s) => pushHand q ⟨[doneWord 0 n, posLo s.pos, s.pos.frame, filter], w1.testBit 16, filter * 2 ^ 12⟩ s

/-- A frame on the bus passes the filters of controller `k`, or is dropped (R425). -/
def canReceive (k n v : Nat) (s : State) : State :=
  let id := v % 2 ^ 29
  match (List.range 32).find? (fun f => canAccepts k f id (v.testBit 29) s) with
  | some f => canDeliver k n v f 4097 s
  | none => if canOpen k s then canDeliver k n v 31 4097 s else s

/-- Controller `k` hears the bus: it is enabled, not bus-off, not in its internal loopback, and a pin carries RX (R424, R426, R453). -/
def canHears (k : Nat) (s : State) : Bool :=
  fbit CAN_CTRL_EN k s && fget CAN_STAT_STATE k s != 2 && fget CAN_CTRL_MODE k s != 3 && pinCarries (209 + 2 * k) 0x10 s

/-- An identifier as a buffer holds it: 11 bits in [28:18], or 29 (R425). -/
def canId (id : Nat) (ide : Bool) : Nat := if ide then id % 2 ^ 29 else id % 2 ^ 29 / 2 ^ 18 * 2 ^ 18

/-- CAN_FRAME_RECEIVE (R424, R425): a frame whose start-of-frame edge is detected in this dot. -/
def execCanFrameReceive (k : Fin 4) (f : CanFrame) (s : State) : Host.Outcome State Fault Refusal :=
  if !canHears k s || (f.fdf && !fbit CAN_CTRL_FD_EN k s) then .next s
  else
    let len := if f.rtr then 0 else dlcLen f.fdf f.dlc.val
    let w0 := canId f.id.toNat f.ide + f.ide.toNat * 2 ^ 29 + f.rtr.toNat * 2 ^ 30 + f.fdf.toNat * 2 ^ 31
    let w1 := f.dlc.val + f.brs.toNat * 2 ^ 4 + f.esi.toNat * 2 ^ 5
    .next (canReceive k (8 + len) (w0 + 2 ^ 32 * w1 + 2 ^ 64 * (bytesNat (f.data.take len))) s)

/-- Controller `k` may start a frame: normal operation or loopback, not bus-off (R424, R426). -/
def canSends (k : Nat) (s : State) : Bool :=
  fbit CAN_CTRL_EN k s && fget CAN_STAT_STATE k s != 2 && (fget CAN_CTRL_MODE k s == 0 || fget CAN_CTRL_MODE k s == 3)

/-- The buffer of a frame that controller `k` receives from itself: the identifier as received, ESI by the controller's own state, of a CAN FD
frame; RTR frames carry no data (R425). -/
def canLooped (k v : Nat) (s : State) : Nat :=
  let w0 := canId v (v.testBit 29) + v / 2 ^ 29 % 8 * 2 ^ 29
  let esi := v.testBit 31 && fget CAN_STAT_STATE k s == 1
  w0 + 2 ^ 32 * (v / 2 ^ 32 % 2 ^ 5 + esi.toNat * 2 ^ 5) + v / 2 ^ 64 * 2 ^ 64

/-- Controller `k` takes up its next transmit descriptor: one that sends nothing is done at once; a frame that wins the bus is sent, and in
loopback received (R425). -/
def canTry (k : Nat) : Nat → State → State
  | 0, s => s
  | fuel + 1, s =>
    let q := 32 + 2 * k
    if qReady q s = 0 then s
    else match fetchDesc q s with
    | (none, s) => s
    | (some (w0, w1, w2, w3), s) =>
      let len := w1 % 2 ^ 16
      let ev := w1.testBit 16
      let bad (s : State) : State := canTry k fuel (pushHand q ⟨[doneWord 3 0, 0, 0, 0], ev, 0⟩ s)
      if len = 0 then canTry k fuel (pushHand q ⟨[doneWord 0 0, 0, 0, 0], ev, 0⟩ s)
      else if len < 8 ∨ 72 < len then bad s
      else if w1.testBit 17 && !launched w2 w3 s then s
      else match bufRead q w0 len s with
      | (none, s) => s
      | (some v, s) =>
        let fdf := v.testBit 31
        if len ≠ 8 + dlcLen fdf (v / 2 ^ 32 % 16) ∨ (v.testBit 30 ∧ fdf) ∨ (fdf ∧ fbit CAN_CTRL_FD_EN k s = false) then bad s
        else
          let s := pushHand q ⟨[doneWord 0 len, posLo s.pos, s.pos.frame, 0], ev, 0⟩ (setCan k { can k s with sent := some (len, v) } s)
          if fget CAN_CTRL_MODE k s = 3 then canReceive k (if v.testBit 30 then 8 else len) (canLooped k v s) s else s

/-- CAN_FRAME_TRANSMIT (R425): the next frame starts on an idle bus in this dot; one that loses arbitration is tried again later. -/
def execCanFrameTransmit (k : Fin 4) (won : Bool) (s : State) : Host.Outcome State Fault Refusal :=
  .next (if canSends k s && won then canTry k 4097 s else s)

/-! ### Inbound PCI Express requests (R420) -/

/-- The inbound window that offset `o` hits. -/
def pcieWindow (o : Nat) (s : State) : Option Nat :=
  (List.range 8).find? (fun k => fget PIW_SIZE_SIZE k s != 0 && within o (4096 * fget PIW_OFFSET_OFFSET k s) (4096 * fget PIW_SIZE_SIZE k s))

/-- The endpoint's answer to a read. -/
def pcieAnswer (a : PcieAnswer) (s : State) : State := setPcie { s.net.pcie with answer := some a } s

/-- A request is refused: counted, event 0x152, and a read answered. -/
def pcieRefuse (write : Bool) (window : Nat) (a : PcieAnswer) (s : State) : State :=
  let s := if write then s else pcieAnswer a s
  arrive 0x152 (write.toNat * 2 ^ 31 + window) { fcount PCIE_REFUSED_COUNT 0 1 s with frameRep := nput 0x1F3 s.frameRep }

/-- PCIE_INBOUND_REQUEST (R419, R420): a request at an offset of BAR0, over a link that is up. -/
def execPcieInboundRequest (r : PcieRequest) (s : State) : Host.Outcome State Fault Refusal :=
  let n := r.length.val
  let o := r.offset.toNat
  if !fbit PCIE_STAT_LINK_UP 0 s || fget PCIE_BAR0_LOG2SIZE 0 s == 0 || decide (2 ^ fget PCIE_BAR0_LOG2SIZE 0 s ≤ o) then .next s
  else if r.bad then .next (report 0x1F4 0 0 (fcount PCIE_POISON_COUNT 0 1 s))
  else match pcieWindow o s with
  | none => .next (pcieRefuse r.write 0xFF .unsupported s)
  | some k =>
    let base := 4096 * fget PIW_OFFSET_OFFSET k s
    let a := 4096 * fget PIW_DEST_ADDR k s + (o - base)
    if base + 4096 * fget PIW_SIZE_SIZE k s < o + n then .next (pcieRefuse r.write k .unsupported s)
    else if n = 0 then .next (if r.write then s else pcieAnswer (.success 0) s)
    else if (capCheck (slotCap PIW_CAP_CAP k s) [if r.write then permST else permLD] a n r.write).isSome then
      .next (pcieRefuse r.write k .abort s)
    else if r.write then .next (writePartsUnder (slotCap PIW_CAP_CAP k s) a (bytesNat (r.data.take n)) 0x85 (pieces a n) s).2
    else match readParts 0x85 (pieces a n) s with
    | (v, none, s) => .next (pcieAnswer (.success v) s)
    | (_, some _, s) => .next (pcieAnswer .poisoned s)

/-! ### NAND reads and writes (R398 to R400, R405) -/

/-- The sectors of a READ go to the buffer, those with an uncorrectable codeword left out; how many were moved before a bus error. -/
def readSectors (a lba : Nat) (lost : List Nat) : Nat → Nat → State → Nat × State
  | 0, i, s => (i, s)
  | n + 1, i, s =>
    if lost.contains i then readSectors a lba lost n (i + 1) s
    else match writePartsUnder (slotCap NF_CAP_CAP 0 s) (a + 4096 * i) (sget 0 s.nand.data (lba + i)) 0x84 (chunks 8 (a + 4096 * i) 4096) s with
    | (none, s) => readSectors a lba lost n (i + 1) s
    | (some _, s) => (i, s)

/-- NAND_READ (R398 to R400): the codewords that the read did not find clean are given; a buffer check or bus error ends the command. -/
def execNandRead (cws : List NandCodeword) (s : State) : Host.Outcome State Fault Refusal :=
  match nandHand 0 s with
  | none => .next s
  | some c =>
    if c.count = 0 then .next (nandEnds 0 0 s)
    else if s.nand.sectors < c.lba + c.count then .next (nandEnds 3 0 s)
    else if (capCheck (slotCap NF_CAP_CAP 0 s) [permST] c.addr (4096 * c.count) true).isSome then .next (nandEnds 2 0 s)
    else
      let cws := cws.filter (fun x => decide (x.sector.val < c.count))
      let lost := (cws.filter (fun x => !x.good)).map (fun x => x.sector.val)
      match readSectors c.addr c.lba lost c.count 0 (forAll cws codeword s) with
      | (i, s) =>
        if i < c.count then .next (nandEnds 5 i s)
        else match lost.min? with
        | some j => .next (nandEnds 4 j s)
        | none => .next (nandEnds 0 c.count s)

/-- The sectors of a WRITE are read from the buffer and programmed; how many were before a bus error. -/
def writeSectors (a lba : Nat) : Nat → Nat → State → Nat × State
  | 0, i, s => (i, s)
  | n + 1, i, s =>
    match readParts 0x84 (chunks 8 (a + 4096 * i) 4096) s with
    | (v, none, s) => writeSectors a lba n (i + 1) (setNand { s.nand with data := sset 0 s.nand.data (lba + i) v } s)
    | (_, some _, s) => (i, s)

/-- NAND_WRITE (R398, R399, R402, R405): the blocks that it takes up are given, each with the block that is erased for it; a seal on the way
limits what can be written. -/
def execNandWrite (turns : List (Option Nat)) (s : State) : Host.Outcome State Fault Refusal :=
  match nandHand 1 s with
  | none => .next s
  | some c =>
    if c.count = 0 then .next (nandEnds 0 0 s)
    else if sealedBefore s then .next (nandEnds 1 0 s)
    else if s.nand.sectors < c.lba + c.count then .next (nandEnds 3 0 s)
    else if (capCheck (slotCap NF_CAP_CAP 0 s) [permLD] c.addr (4096 * c.count) false).isSome then .next (nandEnds 2 0 s)
    else
      let n := match s.nand.hand with
        | .limited m => min m c.count
        | _ => c.count
      let s := forAll turns (fun t u => match t with
        | some b => eraseBlock b (takeBlock false u)
        | none => takeBlock false u) s
      match writeSectors c.addr c.lba n 0 s with
      | (i, s) =>
        if i < n then .next (nandEnds 5 i s) else if n < c.count then .next (nandEnds 7 n s) else .next (nandEnds 0 n s)

end Sys2Proof.Machine
end

