-- ==== Sys2Proof/Machine/Prefetch.lean ====
section
/-! DEFINITION. The prefetch of PCM voices (R357). -/

namespace Sys2Proof.Machine

open Sys2Proof

/-- The values of a list numbered from `i` on, the last first. -/
def numbered (i : Nat) : List Nat → List (Nat × Nat)
  | [] => []
  | x :: xs => numbered (i + 1) xs ++ [(i, x)]

/-- The `n` samples of voice `v` from sample `i` on that a prefetch reads under AUD_RCAP: one read of a memory, a read for each sample of a
device block; `none` where the check or a read fails (R357). -/
def pcmRead (v i n : Nat) (s : State) : Option (List (Nat × Nat)) × State :=
  let a := 2 * fget VC_PCM_ADDR_ADDR v s + 2 * i
  if n = 0 then (some [], s)
  else if (capCheck (slotCap AUD_RCAP_CAP 0 s) [permLD] a (2 * n) false).isSome then (none, s)
  else if regionOf a = .device then
    match readEach 0x81 ((List.range n).map (fun k => (a + 2 * k, 2))) s with
    | (xs, none, t) => (some (numbered i xs), t)
    | (_, some _, t) => (none, t)
  else
    match busRead a (2 * n) 0x81 s with
    | (some x, t) => (some (numbered i ((List.range n).map (fun k => x / 2 ^ (16 * k) % 2 ^ 16))), t)
    | (none, t) => (none, t)

/-- PCM_FETCH (R357): a prefetch read returns `n` samples from sample `i` on; the newest 64 are kept. A failed check or read ends the
voice. -/
def execPcmFetch (v : Fin 32) (i : BitVec 24) (n : Fin 65) (s : State) : Host.Outcome State Fault Refusal :=
  if fbit VC_CFG_EN v s && fget VC_CFG_WAVE v s == 4 then
    match pcmRead v i.toNat n s with
    | (some xs, t) =>
      let h := voice v t
      .next (setVoice v { h with buf := (xs ++ h.buf.filter (fun e => !xs.any (fun x => x.1 == e.1))).take 64 } t)
    | (none, t) => .next (voiceEnd v true t)
  else .next s

end Sys2Proof.Machine
end

