-- ==== Sys2Proof/Machine/Dispatch.lean ====
section
/-! DEFINITION. The dispatch of every command to its meaning. -/

namespace Sys2Proof.Machine

open Sys2Proof

def exec (i : Instr) (s : State) : Host.Outcome State Fault Refusal :=
  match i with
  | .registerWrite addr v => Sys2Proof.Machine.execRegisterWrite addr v s
  | .deviceReset => Sys2Proof.Machine.execDeviceReset s
  | .psuEnHigh => Sys2Proof.Machine.execPsuEnHigh s
  | .internalResetRelease => Sys2Proof.Machine.execInternalResetRelease s
  | .sweepStart => Sys2Proof.Machine.execSweepStart s
  | .pllLockRetry => Sys2Proof.Machine.execPllLockRetry s
  | .swpPll => Sys2Proof.Machine.execSwpPll s
  | .lineStart => Sys2Proof.Machine.execLineStart s
  | .frameStart => Sys2Proof.Machine.execFrameStart s
  | .geomCommitEffect => Sys2Proof.Machine.execGeomCommitEffect s
  | .modeChangeEffect => Sys2Proof.Machine.execModeChangeEffect s
  | .geomCommit => Sys2Proof.Machine.execGeomCommit s
  | .syncMode m => Sys2Proof.Machine.execSyncMode m s
  | .refPort p => Sys2Proof.Machine.execRefPort p s
  | .stepArm => Sys2Proof.Machine.execStepArm s
  | .followerStep => Sys2Proof.Machine.execFollowerStep s
  | .swpNowLoRead => Sys2Proof.Machine.execSwpNowLoRead s
  | .legPstart l => Sys2Proof.Machine.execLegPstart l s
  | .legMid l => Sys2Proof.Machine.execLegMid l s
  | .compareFire l c => Sys2Proof.Machine.execCompareFire l c s
  | .deadTimeExpiry l p => Sys2Proof.Machine.execDeadTimeExpiry l p s
  | .legShadowWrite l w => Sys2Proof.Machine.execLegShadowWrite l w s
  | .legCommitNow l => Sys2Proof.Machine.execLegCommitNow l s
  | .forceTrip l => Sys2Proof.Machine.execForceTrip l s
  | .trippedClear l => Sys2Proof.Machine.execTrippedClear l s
  | .tripPinFilterPass n low => Sys2Proof.Machine.execTripPinFilterPass n low s
  | .tripLineAssert l line => Sys2Proof.Machine.execTripLineAssert l line s
  | .converterStart c k => Sys2Proof.Machine.execConverterStart c k s
  | .converterStop c k => Sys2Proof.Machine.execConverterStop c k s
  | .converterRelease n => Sys2Proof.Machine.execConverterRelease n s
  | .sdfLatch ch k => Sys2Proof.Machine.execSdfLatch ch k s
  | .sdfCfgWrite w => Sys2Proof.Machine.execSdfCfgWrite w s
  | .sdfOcDecision ch high => Sys2Proof.Machine.execSdfOcDecision ch high s
  | .ocLiveFall ch => Sys2Proof.Machine.execOcLiveFall ch s
  | .sdfClklost c => Sys2Proof.Machine.execSdfClklost c s
  | .sarTrigger v e => Sys2Proof.Machine.execSarTrigger v e s
  | .sarResult v value => Sys2Proof.Machine.execSarResult v value s
  | .comparatorCrossing j above => Sys2Proof.Machine.execComparatorCrossing j above s
  | .cmpFabricChange j level => Sys2Proof.Machine.execCmpFabricChange j level s
  | .cmpThrWrite j w => Sys2Proof.Machine.execCmpThrWrite j w s
  | .qepEdge u a b => Sys2Proof.Machine.execQepEdge u a b s
  | .qepIndex u => Sys2Proof.Machine.execQepIndex u s
  | .qepLatch u k => Sys2Proof.Machine.execQepLatch u k s
  | .qepPosWrite u v => Sys2Proof.Machine.execQepPosWrite u v s
  | .seuSlotFire u => Sys2Proof.Machine.execSeuSlotFire u s
  | .seuResult u r => Sys2Proof.Machine.execSeuResult u r s
  | .seuDeadline u => Sys2Proof.Machine.execSeuDeadline u s
  | .seuTimeoutEnd u => Sys2Proof.Machine.execSeuTimeoutEnd u s
  | .lpeSlotFire c e => Sys2Proof.Machine.execLpeSlotFire c e s
  | .lpeKick c ctx => Sys2Proof.Machine.execLpeKick c ctx s
  | .dispatchStart c => Sys2Proof.Machine.execDispatchStart c s
  | .runEnd c => Sys2Proof.Machine.execRunEnd c s
  | .stepNop c w => Sys2Proof.Machine.execStepNop c w s
  | .stepGetf c w => Sys2Proof.Machine.execStepGetf c w s
  | .stepGets c w => Sys2Proof.Machine.execStepGets c w s
  | .stepGetq c w => Sys2Proof.Machine.execStepGetq c w s
  | .stepGete c w => Sys2Proof.Machine.execStepGete c w s
  | .stepGetc c w => Sys2Proof.Machine.execStepGetc c w s
  | .stepGett c w => Sys2Proof.Machine.execStepGett c w s
  | .stepGetr c w => Sys2Proof.Machine.execStepGetr c w s
  | .stepGetx c w => Sys2Proof.Machine.execStepGetx c w s
  | .stepMbxt c w => Sys2Proof.Machine.execStepMbxt c w s
  | .stepPutc c w => Sys2Proof.Machine.execStepPutc c w s
  | .stepPutw c w => Sys2Proof.Machine.execStepPutw c w s
  | .stepPute c w => Sys2Proof.Machine.execStepPute c w s
  | .stepPutl c w => Sys2Proof.Machine.execStepPutl c w s
  | .stepPubl c w => Sys2Proof.Machine.execStepPubl c w s
  | .stepMov c w => Sys2Proof.Machine.execStepMov c w s
  | .stepLdk c w => Sys2Proof.Machine.execStepLdk c w s
  | .stepAdd c w => Sys2Proof.Machine.execStepAdd c w s
  | .stepSub c w => Sys2Proof.Machine.execStepSub c w s
  | .stepMul c w => Sys2Proof.Machine.execStepMul c w s
  | .stepMac c w => Sys2Proof.Machine.execStepMac c w s
  | .stepDiv c w => Sys2Proof.Machine.execStepDiv c w s
  | .stepNeg c w => Sys2Proof.Machine.execStepNeg c w s
  | .stepAbs c w => Sys2Proof.Machine.execStepAbs c w s
  | .stepMin c w => Sys2Proof.Machine.execStepMin c w s
  | .stepMax c w => Sys2Proof.Machine.execStepMax c w s
  | .stepScale c w => Sys2Proof.Machine.execStepScale c w s
  | .stepShift c w => Sys2Proof.Machine.execStepShift c w s
  | .stepSqrt c w => Sys2Proof.Machine.execStepSqrt c w s
  | .stepSat c w => Sys2Proof.Machine.execStepSat c w s
  | .stepRate c w => Sys2Proof.Machine.execStepRate c w s
  | .stepDead c w => Sys2Proof.Machine.execStepDead c w s
  | .stepHyst c w => Sys2Proof.Machine.execStepHyst c w s
  | .stepVlim c w => Sys2Proof.Machine.execStepVlim c w s
  | .stepCmpgt c w => Sys2Proof.Machine.execStepCmpgt c w s
  | .stepCmpeq c w => Sys2Proof.Machine.execStepCmpeq c w s
  | .stepSel c w => Sys2Proof.Machine.execStepSel c w s
  | .stepSkip c w => Sys2Proof.Machine.execStepSkip c w s
  | .stepAnd c w => Sys2Proof.Machine.execStepAnd c w s
  | .stepOr c w => Sys2Proof.Machine.execStepOr c w s
  | .stepXor c w => Sys2Proof.Machine.execStepXor c w s
  | .stepPi c w => Sys2Proof.Machine.execStepPi c w s
  | .stepPid c w => Sys2Proof.Machine.execStepPid c w s
  | .stepBiq c w => Sys2Proof.Machine.execStepBiq c w s
  | .stepLpf1 c w => Sys2Proof.Machine.execStepLpf1 c w s
  | .stepIntg c w => Sys2Proof.Machine.execStepIntg c w s
  | .stepDiff c w => Sys2Proof.Machine.execStepDiff c w s
  | .stepSs2 c w => Sys2Proof.Machine.execStepSs2 c w s
  | .stepSs3 c w => Sys2Proof.Machine.execStepSs3 c w s
  | .stepSs4 c w => Sys2Proof.Machine.execStepSs4 c w s
  | .stepTbl c w => Sys2Proof.Machine.execStepTbl c w s
  | .stepTbl2 c w => Sys2Proof.Machine.execStepTbl2 c w s
  | .stepSincos c w => Sys2Proof.Machine.execStepSincos c w s
  | .stepClarke c w => Sys2Proof.Machine.execStepClarke c w s
  | .stepIclarke c w => Sys2Proof.Machine.execStepIclarke c w s
  | .stepPark c w => Sys2Proof.Machine.execStepPark c w s
  | .stepIpark c w => Sys2Proof.Machine.execStepIpark c w s
  | .stepDecpl c w => Sys2Proof.Machine.execStepDecpl c w s
  | .stepSvm c w => Sys2Proof.Machine.execStepSvm c w s
  | .stepSvm3 c w => Sys2Proof.Machine.execStepSvm3 c w s
  | .stepSpdmt c w => Sys2Proof.Machine.execStepSpdmt c w s
  | .stepAngle c w => Sys2Proof.Machine.execStepAngle c w s
  | .stepCore c w => Sys2Proof.Machine.execStepCore c w s
  | .stepSync c w => Sys2Proof.Machine.execStepSync c w s
  | .lcxRetWrite c n => Sys2Proof.Machine.execLcxRetWrite c n s
  | .coreBudgetExpiry c => Sys2Proof.Machine.execCoreBudgetExpiry c s
  | .lockstepMismatch p => Sys2Proof.Machine.execLockstepMismatch p s
  | .rspCfgWrite n v => Sys2Proof.Machine.execRspCfgWrite n v s
  | .mirrorCopyDone n => Sys2Proof.Machine.execMirrorCopyDone n s
  | .spareTakeover n => Sys2Proof.Machine.execSpareTakeover n s
  | .return n => Sys2Proof.Machine.execReturn n s
  | .routeWrite sink entry => Sys2Proof.Machine.execRouteWrite sink entry s
  | .fabSoftWrite k v => Sys2Proof.Machine.execFabSoftWrite k v s
  | .fabPulseWrite k v => Sys2Proof.Machine.execFabPulseWrite k v s
  | .timerPer t => Sys2Proof.Machine.execTimerPer t s
  | .timerCompareFire t c => Sys2Proof.Machine.execTimerCompareFire t c s
  | .timerReset t => Sys2Proof.Machine.execTimerReset t s
  | .tmrCtrlReset t => Sys2Proof.Machine.execTmrCtrlReset t s
  | .tmrCommitNow t => Sys2Proof.Machine.execTmrCommitNow t s
  | .regionStop n => Sys2Proof.Machine.execRegionStop n s
  | .regionStart n => Sys2Proof.Machine.execRegionStart n s
  | .regionRestart n => Sys2Proof.Machine.execRegionRestart n s
  | .fabLoad k => Sys2Proof.Machine.execFabLoad k s
  | .fabDefault => Sys2Proof.Machine.execFabDefault s
  | .imageCheckPassEnd => Sys2Proof.Machine.execImageCheckPassEnd s
  | .imageApplyEnd => Sys2Proof.Machine.execImageApplyEnd s
  | .defaultImageLoaded => Sys2Proof.Machine.execDefaultImageLoaded s
  | .laneFail p lane => Sys2Proof.Machine.execLaneFail p lane s
  | .laneReturn p lane => Sys2Proof.Machine.execLaneReturn p lane s
  | .cellReceive p c => Sys2Proof.Machine.execCellReceive p c s
  | .dataCellReceive p v => Sys2Proof.Machine.execDataCellReceive p v s
  | .directoryLookupDone => Sys2Proof.Machine.execDirectoryLookupDone s
  | .timingPairReceive p timing geom fine => Sys2Proof.Machine.execTimingPairReceive p timing geom fine s
  | .dlyReqReceive p seq fine => Sys2Proof.Machine.execDlyReqReceive p seq fine s
  | .dlyRespReceive p seq res fine => Sys2Proof.Machine.execDlyRespReceive p seq res fine s
  | .helloReceive p port addr => Sys2Proof.Machine.execHelloReceive p port addr s
  | .cellSlotSend p fine => Sys2Proof.Machine.execCellSlotSend p fine s
  | .publishSnapshot => Sys2Proof.Machine.execPublishSnapshot s
  | .pubValueWrite e v => Sys2Proof.Machine.execPubValueWrite e v s
  | .eventRecordChoose => Sys2Proof.Machine.execEventRecordChoose s
  | .recordStorePerformed q err => Sys2Proof.Machine.execRecordStorePerformed q err s
  | .evcAck n => Sys2Proof.Machine.execEvcAck n s
  | .sevWrite k v => Sys2Proof.Machine.execSevWrite k v s
  | .evcCfgWrite n v => Sys2Proof.Machine.execEvcCfgWrite n v s
  | .evqSizeWrite q v => Sys2Proof.Machine.execEvqSizeWrite q v s
  | .evqHeadWrite q v => Sys2Proof.Machine.execEvqHeadWrite q v s
  | .evqHoldExpiry q => Sys2Proof.Machine.execEvqHoldExpiry q s
  | .lcdEntryFire c e => Sys2Proof.Machine.execLcdEntryFire c e s
  | .lcdPop c req => Sys2Proof.Machine.execLcdPop c req s
  | .postedStoreError req a => Sys2Proof.Machine.execPostedStoreError req a s
  | .memDiscGo m => Sys2Proof.Machine.execMemDiscGo m s
  | .discardDone => Sys2Proof.Machine.execDiscardDone s
  | .ramblerStep w us => Sys2Proof.Machine.execRamblerStep w us s
  | .memRepair code => Sys2Proof.Machine.execMemRepair code s
  | .rowRepairDone => Sys2Proof.Machine.execRowRepairDone s
  | .chCtrlStart ch => Sys2Proof.Machine.execChCtrlStart ch s
  | .chCtrlStop ch => Sys2Proof.Machine.execChCtrlStop ch s
  | .descriptorFetch ch => Sys2Proof.Machine.execDescriptorFetch ch s
  | .dmaCopy ch => Sys2Proof.Machine.execDmaCopy ch s
  | .dmaFill ch => Sys2Proof.Machine.execDmaFill ch s
  | .dmaCompare ch => Sys2Proof.Machine.execDmaCompare ch s
  | .dmaComparePattern ch => Sys2Proof.Machine.execDmaComparePattern ch s
  | .descriptorComplete ch => Sys2Proof.Machine.execDescriptorComplete ch s
  | .dmaErrorStop ch write a => Sys2Proof.Machine.execDmaErrorStop ch write a s
  | .vblankStart => Sys2Proof.Machine.execVblankStart s
  | .lineCompose y full => Sys2Proof.Machine.execLineCompose y full s
  | .lineUnderrun x => Sys2Proof.Machine.execLineUnderrun x s
  | .displayFrameStart => Sys2Proof.Machine.execDisplayFrameStart s
  | .beCopy => Sys2Proof.Machine.execBeCopy s
  | .beFill => Sys2Proof.Machine.execBeFill s
  | .beKey => Sys2Proof.Machine.execBeKey s
  | .beBlend => Sys2Proof.Machine.execBeBlend s
  | .beComplete => Sys2Proof.Machine.execBeComplete s
  | .beErrorStop write rows => Sys2Proof.Machine.execBeErrorStop write rows s
  | .flCtrlGo => Sys2Proof.Machine.execFlCtrlGo s
  | .flattenDone stop => Sys2Proof.Machine.execFlattenDone stop s
  | .scnCtrlCommit => Sys2Proof.Machine.execScnCtrlCommit s
  | .captureDone => Sys2Proof.Machine.execCaptureDone s
  | .train => Sys2Proof.Machine.execTrain s
  | .dpTrainResult ok => Sys2Proof.Machine.execDpTrainResult ok s
  | .dpLinkLoss => Sys2Proof.Machine.execDpLinkLoss s
  | .dpHpdChange level => Sys2Proof.Machine.execDpHpdChange level s
  | .auxGo => Sys2Proof.Machine.execAuxGo s
  | .auxDone ack data => Sys2Proof.Machine.execAuxDone ack data s
  | .audioSampleStrobe din => Sys2Proof.Machine.execAudioSampleStrobe din s
  | .pcmFetch v ix n => Sys2Proof.Machine.execPcmFetch v ix n s
  | .pcmReadFail v => Sys2Proof.Machine.execPcmReadFail v s
  | .inCtrlCommit ix => Sys2Proof.Machine.execInCtrlCommit ix s
  | .inCtrlClear ix => Sys2Proof.Machine.execInCtrlClear ix s
  | .peerFrameReceive k n => Sys2Proof.Machine.execPeerFrameReceive k n s
  | .asrcLockLost k => Sys2Proof.Machine.execAsrcLockLost k s
  | .faultReportLatch => Sys2Proof.Machine.execFaultReportLatch s
  | .errOutAssert src => Sys2Proof.Machine.execErrOutAssert src s
  | .faultTrapDelivery core refuge src => Sys2Proof.Machine.execFaultTrapDelivery core refuge src s
  | .blockReset src info0 => Sys2Proof.Machine.execBlockReset src info0 s
  | .chipReset src => Sys2Proof.Machine.execChipReset src s
  | .trailEntryClose ix => Sys2Proof.Machine.execTrailEntryClose ix s
  | .fltAck ix => Sys2Proof.Machine.execFltAck ix s
  | .fltAckAll => Sys2Proof.Machine.execFltAckAll s
  | .unfreeze => Sys2Proof.Machine.execUnfreeze s
  | .errRelease => Sys2Proof.Machine.execErrRelease s
  | .errForce on => Sys2Proof.Machine.execErrForce on s
  | .fltRctWrite src v => Sys2Proof.Machine.execFltRctWrite src v s
  | .fltCfgWrite v => Sys2Proof.Machine.execFltCfgWrite v s
  | .cfsWordProgrammed => Sys2Proof.Machine.execCfsWordProgrammed s
  | .cfsLockWrite v => Sys2Proof.Machine.execCfsLockWrite v s
  | .nfCtrlEn on => Sys2Proof.Machine.execNfCtrlEn on s
  | .nandInitDone ts tmode => Sys2Proof.Machine.execNandInitDone ts tmode s
  | .nandRead cws => Sys2Proof.Machine.execNandRead cws s
  | .nandWrite turns => Sys2Proof.Machine.execNandWrite turns s
  | .nandTrim => Sys2Proof.Machine.execNandTrim s
  | .nandFlush => Sys2Proof.Machine.execNandFlush s
  | .nandFormat good => Sys2Proof.Machine.execNandFormat good s
  | .nandCommandComplete => Sys2Proof.Machine.execNandCommandComplete s
  | .nfDone1Read => Sys2Proof.Machine.execNfDone1Read s
  | .nandProgramFail b bad => Sys2Proof.Machine.execNandProgramFail b bad s
  | .patrolRead cws => Sys2Proof.Machine.execPatrolRead cws s
  | .blockRefresh => Sys2Proof.Machine.execBlockRefresh s
  | .wearMove => Sys2Proof.Machine.execWearMove s
  | .nfReadyTimeout => Sys2Proof.Machine.execNfReadyTimeout s
  | .qProdWrite q v => Sys2Proof.Machine.execQProdWrite q v s
  | .qSizeWrite q v => Sys2Proof.Machine.execQSizeWrite q v s
  | .queueDescriptorComplete q => Sys2Proof.Machine.execQueueDescriptorComplete q s
  | .queueStop q code => Sys2Proof.Machine.execQueueStop q code s
  | .ethFrameReceive k frame fcs fine => Sys2Proof.Machine.execEthFrameReceive k frame fcs fine s
  | .ethFrameTransmit k fine => Sys2Proof.Machine.execEthFrameTransmit k fine s
  | .ethLinkChange k up speed => Sys2Proof.Machine.execEthLinkChange k up speed s
  | .gclCycleStart k => Sys2Proof.Machine.execGclCycleStart k s
  | .gclEntryAdvance k => Sys2Proof.Machine.execGclEntryAdvance k s
  | .gclCommit k => Sys2Proof.Machine.execGclCommit k s
  | .mdioWrite c45 phy reg data => Sys2Proof.Machine.execMdioWrite c45 phy reg data s
  | .mdioRead c45 phy reg => Sys2Proof.Machine.execMdioRead c45 phy reg s
  | .mdioAddress phy reg data => Sys2Proof.Machine.execMdioAddress phy reg data s
  | .mdioDone data => Sys2Proof.Machine.execMdioDone data s
  | .pcieInboundRequest r => Sys2Proof.Machine.execPcieInboundRequest r s
  | .pcieOutboundCompletion data => Sys2Proof.Machine.execPcieOutboundCompletion data s
  | .pcieCompletionTimeout => Sys2Proof.Machine.execPcieCompletionTimeout s
  | .pcieMsiSend v => Sys2Proof.Machine.execPcieMsiSend v s
  | .pcieDbWrite ix v => Sys2Proof.Machine.execPcieDbWrite ix v s
  | .perstOrHotReset perst => Sys2Proof.Machine.execPerstOrHotReset perst s
  | .pcieLinkChange up gen width msi => Sys2Proof.Machine.execPcieLinkChange up gen width msi s
  | .canFrameReceive k f => Sys2Proof.Machine.execCanFrameReceive k f s
  | .canFrameTransmit k won => Sys2Proof.Machine.execCanFrameTransmit k won s
  | .canStateChange k tec errs => Sys2Proof.Machine.execCanStateChange k tec errs s
  | .recover k => Sys2Proof.Machine.execRecover k s
  | .busoffRecoveryDone k => Sys2Proof.Machine.execBusoffRecoveryDone k s
  | .uartCharacterReceive ch framing parity brk => Sys2Proof.Machine.execUartCharacterReceive ch framing parity brk s
  | .uartCharacterSent => Sys2Proof.Machine.execUartCharacterSent s
  | .uartDataWrite ch => Sys2Proof.Machine.execUartDataWrite ch s
  | .uartDataRead => Sys2Proof.Machine.execUartDataRead s
  | .uartRxTimeout => Sys2Proof.Machine.execUartRxTimeout s
  | .i2cTransaction v => Sys2Proof.Machine.execI2cTransaction v s
  | .i2cTransactionEnd result done data => Sys2Proof.Machine.execI2cTransactionEnd result done data s
  | .i2cSclTimeout => Sys2Proof.Machine.execI2cSclTimeout s
  | .spiTransfer v miso => Sys2Proof.Machine.execSpiTransfer v miso s
  | .spiTransferEnd => Sys2Proof.Machine.execSpiTransferEnd s
  | .spiTxWrite w => Sys2Proof.Machine.execSpiTxWrite w s
  | .spiRxRead => Sys2Proof.Machine.execSpiRxRead s
  | .requestRun => Sys2Proof.Machine.execRequestRun s
  | .requestHold => Sys2Proof.Machine.execRequestHold s
  | .requestDim => Sys2Proof.Machine.execRequestDim s
  | .requestSleep => Sys2Proof.Machine.execRequestSleep s
  | .requestOff => Sys2Proof.Machine.execRequestOff s
  | .stateEntryDone => Sys2Proof.Machine.execStateEntryDone s
  | .pwrRunoffWrite v => Sys2Proof.Machine.execPwrRunoffWrite v s
  | .wakePin k => Sys2Proof.Machine.execWakePin k s
  | .wakeAlarm => Sys2Proof.Machine.execWakeAlarm s
  | .wakeAccept src idx => Sys2Proof.Machine.execWakeAccept src idx s
  | .domainStart => Sys2Proof.Machine.execDomainStart s
  | .domainOn d => Sys2Proof.Machine.execDomainOn d s
  | .domainRampFail d => Sys2Proof.Machine.execDomainRampFail d s
  | .runReached => Sys2Proof.Machine.execRunReached s
  | .psuEnLow => Sys2Proof.Machine.execPsuEnLow s
  | .offWake => Sys2Proof.Machine.execOffWake s
  | .padLatchOpen p => Sys2Proof.Machine.execPadLatchOpen p s
  | .padCfgWrite p v => Sys2Proof.Machine.execPadCfgWrite p v s
  | .padHandover p => Sys2Proof.Machine.execPadHandover p s
  | .padOutWrite k v => Sys2Proof.Machine.execPadOutWrite k v s
  | .padLegWrite l v => Sys2Proof.Machine.execPadLegWrite l v s
  | .bootHeaderRead => Sys2Proof.Machine.execBootHeaderRead s
  | .coreStart core => Sys2Proof.Machine.execCoreStart core s
  | .bistCtrlGo kind target => Sys2Proof.Machine.execBistCtrlGo kind target s
  | .bistEnd sig => Sys2Proof.Machine.execBistEnd sig s
  | .extest cells => Sys2Proof.Machine.execExtest cells s
  | .idcode => Sys2Proof.Machine.execIdcode s
  | .samplePreload cells => Sys2Proof.Machine.execSamplePreload cells s
  | .clamp => Sys2Proof.Machine.execClamp s
  | .highz => Sys2Proof.Machine.execHighz s
  | .bist kind target => Sys2Proof.Machine.execBist kind target s
  | .bistres => Sys2Proof.Machine.execBistres s
  | .uid => Sys2Proof.Machine.execUid s
  | .memacc dr => Sys2Proof.Machine.execMemacc dr s
  | .bypass => Sys2Proof.Machine.execBypass s
  | .exceptionEntry core illegal => Sys2Proof.Machine.execExceptionEntry core illegal s
  | .refugeEntry core => Sys2Proof.Machine.execRefugeEntry core s
  | .excCtrlWrite core v => Sys2Proof.Machine.execExcCtrlWrite core v s
  | .coreNop h => Sys2Proof.Machine.execCoreNop h s
  | .coreWait h => Sys2Proof.Machine.execCoreWait h s
  | .coreBrk h => Sys2Proof.Machine.execCoreBrk h s
  | .coreFencer h => Sys2Proof.Machine.execCoreFencer h s
  | .coreFencew h => Sys2Proof.Machine.execCoreFencew h s
  | .coreFence h => Sys2Proof.Machine.execCoreFence h s
  | .coreRet h => Sys2Proof.Machine.execCoreRet h s
  | .coreEret h => Sys2Proof.Machine.execCoreEret h s
  | .coreTrap h imm => Sys2Proof.Machine.execCoreTrap h imm s
  | .coreAdd h o src => Sys2Proof.Machine.execCoreAdd h o src s
  | .coreSub h o src => Sys2Proof.Machine.execCoreSub h o src s
  | .coreAnd h o src => Sys2Proof.Machine.execCoreAnd h o src s
  | .coreOr h o src => Sys2Proof.Machine.execCoreOr h o src s
  | .coreXor h o src => Sys2Proof.Machine.execCoreXor h o src s
  | .coreAndn h o src => Sys2Proof.Machine.execCoreAndn h o src s
  | .coreShl h o src => Sys2Proof.Machine.execCoreShl h o src s
  | .coreShr h o src => Sys2Proof.Machine.execCoreShr h o src s
  | .coreSar h o src => Sys2Proof.Machine.execCoreSar h o src s
  | .coreRor h o src => Sys2Proof.Machine.execCoreRor h o src s
  | .coreAdds h o src => Sys2Proof.Machine.execCoreAdds h o src s
  | .coreSubs h o src => Sys2Proof.Machine.execCoreSubs h o src s
  | .coreMin h o src => Sys2Proof.Machine.execCoreMin h o src s
  | .coreMax h o src => Sys2Proof.Machine.execCoreMax h o src s
  | .coreMinu h o src => Sys2Proof.Machine.execCoreMinu h o src s
  | .coreMaxu h o src => Sys2Proof.Machine.execCoreMaxu h o src s
  | .coreCeq h o src => Sys2Proof.Machine.execCoreCeq h o src s
  | .coreCne h o src => Sys2Proof.Machine.execCoreCne h o src s
  | .coreClt h o src => Sys2Proof.Machine.execCoreClt h o src s
  | .coreCltu h o src => Sys2Proof.Machine.execCoreCltu h o src s
  | .coreCle h o src => Sys2Proof.Machine.execCoreCle h o src s
  | .coreCleu h o src => Sys2Proof.Machine.execCoreCleu h o src s
  | .coreSel h o => Sys2Proof.Machine.execCoreSel h o s
  | .coreDiv h o => Sys2Proof.Machine.execCoreDiv h o s
  | .coreDivu h o => Sys2Proof.Machine.execCoreDivu h o s
  | .coreRem h o => Sys2Proof.Machine.execCoreRem h o s
  | .coreRemu h o => Sys2Proof.Machine.execCoreRemu h o s
  | .coreMul h o => Sys2Proof.Machine.execCoreMul h o s
  | .coreMulu h o => Sys2Proof.Machine.execCoreMulu h o s
  | .coreMac h o => Sys2Proof.Machine.execCoreMac h o s
  | .coreMacu h o => Sys2Proof.Machine.execCoreMacu h o s
  | .coreMfq h o => Sys2Proof.Machine.execCoreMfq h o s
  | .coreMfs h o => Sys2Proof.Machine.execCoreMfs h o s
  | .coreMts h o => Sys2Proof.Machine.execCoreMts h o s
  | .coreLd h o d => Sys2Proof.Machine.execCoreLd h o d s
  | .coreLds h o d => Sys2Proof.Machine.execCoreLds h o d s
  | .coreSt h o d => Sys2Proof.Machine.execCoreSt h o d s
  | .coreSwap h o d => Sys2Proof.Machine.execCoreSwap h o d s
  | .coreCas h o d => Sys2Proof.Machine.execCoreCas h o d s
  | .coreAmadd h o d => Sys2Proof.Machine.execCoreAmadd h o d s
  | .coreAmand h o d => Sys2Proof.Machine.execCoreAmand h o d s
  | .coreAmor h o d => Sys2Proof.Machine.execCoreAmor h o d s
  | .coreSti h o d imm => Sys2Proof.Machine.execCoreSti h o d imm s
  | .coreBz h r d => Sys2Proof.Machine.execCoreBz h r d s
  | .coreBnz h r d => Sys2Proof.Machine.execCoreBnz h r d s
  | .coreJmp h d => Sys2Proof.Machine.execCoreJmp h d s
  | .coreCall h d => Sys2Proof.Machine.execCoreCall h d s
  | .coreJr h o => Sys2Proof.Machine.execCoreJr h o s
  | .coreJalr h o => Sys2Proof.Machine.execCoreJalr h o s
  | .coreDbnz h r d => Sys2Proof.Machine.execCoreDbnz h r d s
  | .coreBset h o at_ => Sys2Proof.Machine.execCoreBset h o at_ s
  | .coreBclr h o at_ => Sys2Proof.Machine.execCoreBclr h o at_ s
  | .coreBnot h o at_ => Sys2Proof.Machine.execCoreBnot h o at_ s
  | .coreBld h o at_ => Sys2Proof.Machine.execCoreBld h o at_ s
  | .coreBst h o at_ => Sys2Proof.Machine.execCoreBst h o at_ s
  | .coreBtas h o at_ => Sys2Proof.Machine.execCoreBtas h o at_ s
  | .coreBmov h o => Sys2Proof.Machine.execCoreBmov h o s
  | .coreBand h o => Sys2Proof.Machine.execCoreBand h o s
  | .coreBor h o => Sys2Proof.Machine.execCoreBor h o s
  | .coreBxor h o => Sys2Proof.Machine.execCoreBxor h o s
  | .coreBldw h o => Sys2Proof.Machine.execCoreBldw h o s
  | .coreBstw h o => Sys2Proof.Machine.execCoreBstw h o s
  | .coreBcpy h o k stop => Sys2Proof.Machine.execCoreBcpy h o k stop s
  | .coreBfil h o k stop => Sys2Proof.Machine.execCoreBfil h o k stop s
  | .coreTsrch h o k stop => Sys2Proof.Machine.execCoreTsrch h o k stop s
  | .coreBcrc h o k stop => Sys2Proof.Machine.execCoreBcrc h o k stop s
  | .coreCld h o d => Sys2Proof.Machine.execCoreCld h o d s
  | .coreCst h o d => Sys2Proof.Machine.execCoreCst h o d s
  | .coreCmov h o => Sys2Proof.Machine.execCoreCmov h o s
  | .coreCbase h o => Sys2Proof.Machine.execCoreCbase h o s
  | .coreClen h o => Sys2Proof.Machine.execCoreClen h o s
  | .coreCperm h o => Sys2Proof.Machine.execCoreCperm h o s
  | .coreCseal h o => Sys2Proof.Machine.execCoreCseal h o s
  | .coreCunseal h o => Sys2Proof.Machine.execCoreCunseal h o s
  | .coreCget h o => Sys2Proof.Machine.execCoreCget h o s
  | .coreCjr h o => Sys2Proof.Machine.execCoreCjr h o s
  | .coreCclr h o => Sys2Proof.Machine.execCoreCclr h o s
  | .coreFadd h o => Sys2Proof.Machine.execCoreFadd h o s
  | .coreFsub h o => Sys2Proof.Machine.execCoreFsub h o s
  | .coreFmul h o => Sys2Proof.Machine.execCoreFmul h o s
  | .coreFdiv h o => Sys2Proof.Machine.execCoreFdiv h o s
  | .coreFsqrt h o => Sys2Proof.Machine.execCoreFsqrt h o s
  | .coreFmin h o => Sys2Proof.Machine.execCoreFmin h o s
  | .coreFmax h o => Sys2Proof.Machine.execCoreFmax h o s
  | .coreFneg h o => Sys2Proof.Machine.execCoreFneg h o s
  | .coreFabs h o => Sys2Proof.Machine.execCoreFabs h o s
  | .coreFma h o => Sys2Proof.Machine.execCoreFma h o s
  | .coreFceq h o => Sys2Proof.Machine.execCoreFceq h o s
  | .coreFclt h o => Sys2Proof.Machine.execCoreFclt h o s
  | .coreFcle h o => Sys2Proof.Machine.execCoreFcle h o s
  | .coreFcun h o => Sys2Proof.Machine.execCoreFcun h o s
  | .coreFcvtif h o => Sys2Proof.Machine.execCoreFcvtif h o s
  | .coreFcvtfi h o => Sys2Proof.Machine.execCoreFcvtfi h o s
  | .coreFcvtqf h o => Sys2Proof.Machine.execCoreFcvtqf h o s
  | .coreFcvtfq h o => Sys2Proof.Machine.execCoreFcvtfq h o s
  | .coreFaddi h o imm => Sys2Proof.Machine.execCoreFaddi h o imm s
  | .coreFmuli h o imm => Sys2Proof.Machine.execCoreFmuli h o imm s
  | .coreFclti h o imm => Sys2Proof.Machine.execCoreFclti h o imm s
  | .bitCapture ch high => Sys2Proof.Machine.execBitCapture ch high s
  | .externalClockEdge c => Sys2Proof.Machine.execExternalClockEdge c s
  | .pllRelock => Sys2Proof.Machine.execPllRelock s

end Sys2Proof.Machine
end

