-- ==== Sys2Proof/Machine/IsaCode.lean ====
section
/-! DEFINITION. The opcode tables: the instruction that an opcode and its operand bytes stand for (R193, R209 to R211). -/

namespace Sys2Proof.Machine

open Sys2Proof

/-- What an instruction does. -/
abbrev Meaning := State → Host.Outcome State Fault Refusal

/-- The operand word of a code; 8, 16, 32 bits from byte `i` of its operand bytes on. -/
def Code.o (c : Code) : BitVec 16 := BitVec.ofNat 16 c.v
def Code.b8 (c : Code) (i : Nat) : Byte := BitVec.ofNat 8 (c.field i 1)
def Code.b16 (c : Code) (i : Nat) : BitVec 16 := BitVec.ofNat 16 (c.field i 2)
def Code.b32 (c : Code) (i : Nat) : Word := BitVec.ofNat 32 (c.field i 4)

/-- ALU operation `k` (R210). -/
def aluCode (k : Nat) (h : Hdr) (o : BitVec 16) (src : Src) : Meaning :=
  match k with
  | 0x0 => execCoreAdd h o src
  | 0x1 => execCoreSub h o src
  | 0x2 => execCoreAnd h o src
  | 0x3 => execCoreOr h o src
  | 0x4 => execCoreXor h o src
  | 0x5 => execCoreAndn h o src
  | 0x6 => execCoreShl h o src
  | 0x7 => execCoreShr h o src
  | 0x8 => execCoreSar h o src
  | 0x9 => execCoreRor h o src
  | 0xA => execCoreAdds h o src
  | 0xB => execCoreSubs h o src
  | 0xC => execCoreMin h o src
  | 0xD => execCoreMax h o src
  | 0xE => execCoreMinu h o src
  | _ => execCoreMaxu h o src

/-- Comparison `j`. -/
def compareCode (j : Nat) (h : Hdr) (o : BitVec 16) (src : Src) : Meaning :=
  match j with
  | 0 => execCoreCeq h o src
  | 1 => execCoreCne h o src
  | 2 => execCoreClt h o src
  | 3 => execCoreCltu h o src
  | 4 => execCoreCle h o src
  | _ => execCoreCleu h o src

/-- Instruction `j` on one bit. -/
def bitCode (j : Nat) (h : Hdr) (o : BitVec 16) (at_ : BitAddr) : Meaning :=
  match j with
  | 0 => execCoreBset h o at_
  | 1 => execCoreBclr h o at_
  | 2 => execCoreBnot h o at_
  | 3 => execCoreBld h o at_
  | 4 => execCoreBst h o at_
  | _ => execCoreBtas h o at_

/-- The opcodes of one form each (R209); `none`: no such opcode. -/
def singleCode (c : Code) (h : Hdr) : Option Meaning :=
  let o := c.o
  match c.op with
  | 0x00 => some (execCoreNop h)
  | 0x01 => some (execCoreWait h)
  | 0x02 => some (execCoreBrk h)
  | 0x03 => some (execCoreFencer h)
  | 0x04 => some (execCoreFencew h)
  | 0x05 => some (execCoreFence h)
  | 0x06 => some (execCoreRet h)
  | 0x07 => some (execCoreEret h)
  | 0x08 => some (execCoreTrap h (c.b8 0))
  | 0x26 => some (execCoreSel h o)
  | 0x27 => some (execCoreDiv h o)
  | 0x28 => some (execCoreDivu h o)
  | 0x29 => some (execCoreRem h o)
  | 0x2A => some (execCoreRemu h o)
  | 0x2B => some (execCoreMul h o)
  | 0x2C => some (execCoreMulu h o)
  | 0x2D => some (execCoreMac h o)
  | 0x2E => some (execCoreMacu h o)
  | 0x2F => some (execCoreMfq h o)
  | 0x60 => some (execCoreMfs h o)
  | 0x61 => some (execCoreMts h o)
  | 0x70 => some (execCoreLd h o (.d16 (c.b16 2)))
  | 0x71 => some (execCoreLd h o (.d32 (c.b32 2)))
  | 0x72 => some (execCoreLds h o (.d16 (c.b16 2)))
  | 0x73 => some (execCoreLds h o (.d32 (c.b32 2)))
  | 0x74 => some (execCoreSt h o (.d16 (c.b16 2)))
  | 0x75 => some (execCoreSt h o (.d32 (c.b32 2)))
  | 0x76 => some (execCoreSwap h o (c.b16 2))
  | 0x77 => some (execCoreCas h o (c.b16 2))
  | 0x78 => some (execCoreAmadd h o (c.b16 2))
  | 0x79 => some (execCoreAmand h o (c.b16 2))
  | 0x7A => some (execCoreAmor h o (c.b16 2))
  | 0x7B => some (execCoreSti h o (c.b16 2) (c.b32 4))
  | 0x80 => some (execCoreBz h (c.b8 0) (.d16 (c.b16 1)))
  | 0x81 => some (execCoreBnz h (c.b8 0) (.d16 (c.b16 1)))
  | 0x82 => some (execCoreBz h (c.b8 0) (.d32 (c.b32 1)))
  | 0x83 => some (execCoreBnz h (c.b8 0) (.d32 (c.b32 1)))
  | 0x84 => some (execCoreJmp h (c.b32 0))
  | 0x85 => some (execCoreCall h (c.b32 0))
  | 0x86 => some (execCoreJr h o)
  | 0x87 => some (execCoreJalr h o)
  | 0x88 => some (execCoreDbnz h (c.b8 0) (c.b16 1))
  | 0xA0 => some (execCoreBmov h o)
  | 0xA1 => some (execCoreBand h o)
  | 0xA2 => some (execCoreBor h o)
  | 0xA3 => some (execCoreBxor h o)
  | 0xA4 => some (execCoreBldw h o)
  | 0xA5 => some (execCoreBstw h o)
  | 0xB0 => some (execCoreBcpy h o (c.b8 2) c.stop)
  | 0xB1 => some (execCoreBfil h o (c.b8 2) c.stop)
  | 0xB2 => some (execCoreTsrch h o (c.b8 2) c.stop)
  | 0xB3 => some (execCoreBcrc h o (c.b8 2) c.stop)
  | 0xC0 => some (execCoreCld h o (c.b16 2))
  | 0xC1 => some (execCoreCst h o (c.b16 2))
  | 0xC2 => some (execCoreCmov h o)
  | 0xC3 => some (execCoreCbase h o)
  | 0xC4 => some (execCoreClen h o)
  | 0xC5 => some (execCoreCperm h o)
  | 0xC6 => some (execCoreCseal h o)
  | 0xC7 => some (execCoreCunseal h o)
  | 0xC8 => some (execCoreCget h o)
  | 0xC9 => some (execCoreCjr h o)
  | 0xCA => some (execCoreCclr h o)
  | _ => none

/-- The escaped opcodes (R211). -/
def escapedCode (c : Code) (h : Hdr) : Option Meaning :=
  let o := c.o
  match c.op - 0x0F00 with
  | 0x00 => some (execCoreFadd h o)
  | 0x01 => some (execCoreFsub h o)
  | 0x02 => some (execCoreFmul h o)
  | 0x03 => some (execCoreFdiv h o)
  | 0x04 => some (execCoreFsqrt h o)
  | 0x05 => some (execCoreFmin h o)
  | 0x06 => some (execCoreFmax h o)
  | 0x07 => some (execCoreFneg h o)
  | 0x08 => some (execCoreFabs h o)
  | 0x09 => some (execCoreFma h o)
  | 0x0A => some (execCoreFceq h o)
  | 0x0B => some (execCoreFclt h o)
  | 0x0C => some (execCoreFcle h o)
  | 0x0D => some (execCoreFcun h o)
  | 0x0E => some (execCoreFcvtif h o)
  | 0x0F => some (execCoreFcvtfi h o)
  | 0x10 => some (execCoreFcvtqf h o)
  | 0x11 => some (execCoreFcvtfq h o)
  | 0x20 => some (execCoreFaddi h o (c.b32 2))
  | 0x21 => some (execCoreFmuli h o (c.b32 2))
  | 0x22 => some (execCoreFclti h o (c.b32 2))
  | _ => none

/-- The instruction that a code stands for, on the core and with the prefixes of `h` (R209 to R211). -/
def codeMeaning (c : Code) (h : Hdr) : Option Meaning :=
  let op := c.op
  if 0x10 ≤ op ∧ op < 0x20 then some (aluCode (op - 0x10) h c.o .reg)
  else if 0x20 ≤ op ∧ op < 0x26 then some (compareCode (op - 0x20) h c.o .reg)
  else if 0x30 ≤ op ∧ op < 0x40 then some (aluCode (op - 0x30) h c.o (.imm8 (c.b8 2)))
  else if 0x40 ≤ op ∧ op < 0x50 then some (aluCode (op - 0x40) h c.o (.imm32 (c.b32 2)))
  else if 0x50 ≤ op ∧ op < 0x56 then some (compareCode (op - 0x50) h c.o (.imm8 (c.b8 2)))
  else if 0x58 ≤ op ∧ op < 0x5E then some (compareCode (op - 0x58) h c.o (.imm32 (c.b32 2)))
  else if 0x90 ≤ op ∧ op < 0x96 then some (bitCode (op - 0x90) h c.o (.imm (c.b32 2)))
  else if 0x98 ≤ op ∧ op < 0x9E then some (bitCode (op - 0x98) h c.o .reg)
  else if 0x0F00 ≤ op then escapedCode c h
  else singleCode c h

/-- An instruction that waited for its dot runs (R206, R220, R232). -/
def runCode (h : Hdr) (c : Code) (s : State) : State :=
  match codeMeaning c h with
  | some f => ran (f s) s
  | none => s

end Sys2Proof.Machine
end

