-- ==== Sys2Proof/Machine/Tick.lean ====
section
/-! DEFINITION. One dot of the running device: what the sweep, the carriers, the slots, the engines and the blocks that count dots do of
themselves (R9, R24). What depends on the world outside the package or on times that the spec leaves open stays with the commands. -/

namespace Sys2Proof.Machine

open Sys2Proof

/-- The state after a command that the device gives itself in the present dot. -/
def perform (i : Instr) (s : State) : State :=
  match exec i s with
  | .next t => t
  | .fault _ => s
  | .refused _ => s

/-- The units for which a field holds something else than its reset value. -/
def listed (F : Fld) (s : State) : List Nat := (sget [] s.regs F.id).map Prod.fst

/-! ### What comes due -/

/-- Something of a later dot takes effect. -/
def settle (d : Due) (s : State) : State :=
  match d with
  | .cmd i => perform i s
  | .field f u v => fset f u v s
  | .bit f u i b => fsetBit f u i b s
  | .fire e => fire e s
  | .arrive n p => arrive n p s
  | .legRef l => applyRef l s
  | .padOff l p => drivePad l p false s
  | .legCommit l => legCommit l s
  | .tripPin n on => { s with trips := { s.trips with pin := if on then nput n s.trips.pin else ndel n s.trips.pin } }
  | .cmpThr j v => cmpThrArrives j v s
  | .cmpCfg j v => cmpCfgArrives j v s
  | .seuMa u => setSeu u { seu u s with ma := .clocking } s
  | .legQuad l p a b f => legQuad l p a b f s
  | .timerOut t => applyOut t s
  | .timerStart t per => timerStart t per s
  | .timerCommit t => timerCommit t s
  | .timerCut t old => timerCut t old s
  | .route k v => putRoute k v s
  | .release hs => dropHolds hs s
  | .ctxPut g x v => putOwn g x v s
  | .consume q => qConsume q s
  | .tail q => tailAdvances q s
  | .lineFall q => lineFalls q s
  | .store req a n v tag => storeArrives req a n v tag s
  | .inst h c => runCode h c s
  | .audioWrite a v => (writeWord a v s).2
  | .audioCap c => setSlotCap AUD_RCAP_CAP 0 c s
  | .freeze on => fset FLT_STAT_FROZEN 0 on.toNat s
  | .audioSoft => { s with aud := { s.aud with soft := softLevels s } }
  | .bootRom => bootRom s

/-- When in its dot an effect comes: words and levels that change with the start of the dot, before the pins take theirs (0), the rest of
the register side (1), commits after the carriers have moved (2), resets of timers (3), stores that arrive among the dot's commands (4),
instructions that waited for the dot (5), what ends with the dot (6). -/
def duePhase : Due → Nat
  | .field _ _ _ => 0
  | .bit _ _ _ _ => 0
  | .padOff _ _ => 0
  | .timerOut _ => 0
  | .cmd (.mirrorCopyDone _) => 0
  | .legCommit _ => 2
  | .timerCommit _ => 2
  | .timerCut _ _ => 2
  | .cmd (.timerReset _) => 3
  | .legQuad _ _ _ _ _ => 4
  | .store _ _ _ _ _ => 4
  | .inst _ _ => 5
  | .cmd (.exceptionEntry _ _) => 5
  | .cmd (.refugeEntry _) => 5
  | .cmd (.seuDeadline _) => 6
  | .release _ => 6
  | .audioWrite _ _ => 6
  | .audioCap _ => 6
  | .audioSoft => 0
  | .freeze _ => 6
  | .ctxPut _ _ _ => 6
  | _ => 1

/-- A chip reset among what comes due (R386). -/
def isChipReset : Due → Bool
  | .cmd (.chipReset _) => true
  | _ => false

/-- What comes due up to a chip reset and with it: after it nothing else does (R386). -/
def untilReset : List (Nat × Due) → List (Nat × Due)
  | [] => []
  | e :: es => if isChipReset e.2 then [e] else e :: untilReset es

/-- What is due by the present dot in phases up to `n` takes effect, in the order in which it was set. -/
def settleDue (n : Nat) (s : State) : State :=
  let now := s.due.filter (fun e => decide (e.1 ≤ s.time) && decide (duePhase e.2 ≤ n))
  let rest := s.due.filter (fun e => !(decide (e.1 ≤ s.time) && decide (duePhase e.2 ≤ n)))
  forAll (untilReset now) (fun e t => settle e.2 t) { s with due := rest }

/-! ### The sweep (R9, R23, R26, R40, R42) -/

/-- The present dot is the last of its frame: the frame's length is reached, or the next dot is the step dot (R9, R40). -/
def lastDot (s : State) : Bool :=
  (decide (linesEff s ≤ s.pos.line + 1) && decide (dotsEff s ≤ s.pos.dot + 1)) || stepDot { s with time := s.time + 1 }

/-- The reports that are made in the last dot of a frame (R183, R281, R372). -/
def endFrame (s : State) : State :=
  let s := ceReports (linkLastDot s)
  forAll s.frameRep (fun src t => report src 0 0 t) { s with frameRep := [] }

/-- The sweep moves one dot on; a line, a frame, a follower's step begins, and at a frame boundary what waits for it takes effect. -/
def sweepOn (s : State) : State :=
  let s := { s with time := s.time + 1, pos := { s.pos with dot := s.pos.dot + 1 } }
  if stepDot s then followerStep s
  else
    let s := frameStart (lineStart s)
    if atBoundary s then modeEffect (geomEffect s) else s

/-- Frame number `f` has been reached, modulo 2^32. -/
def reached (f : Nat) (s : State) : Bool := decide ((s.pos.frame + 2 ^ 32 - f % 2 ^ 32) % 2 ^ 32 < 2 ^ 31)

/-- At a frame boundary the spares take over and the regions restart whose frame has come (R121, R144). -/
def frameBoundary (s : State) : State :=
  if atBoundary s then
    let s := forAll (List.finRange 4) (fun n t => match (spare n t).takeAt with
      | some (f, _) => if reached f t then perform (.spareTakeover n) t else t
      | none => t) s
    forAll (List.finRange 4) (fun n t => match sget none t.restart n with
      | some f => if reached f t then perform (.regionRestart n) t else t
      | none => t) s
  else s

/-! ### Legs (R45 to R71) -/

/-- A pending activation that its dot has reached, before fine step `lim` where one is given (R55). -/
def expires (pend lim : Option Nat) (s : State) : Bool :=
  match pend with
  | none => false
  | some p => decide (p / 32 ≤ s.time) && (match lim with
    | some x => decide (p < x)
    | none => true)

/-- The fine step in which REF of leg `l` acts on what happened in the dot before. -/
def refAt (l : Nat) (s : State) : Option Nat :=
  let h := leg l s
  match h.evB, h.evA with
  | some f, _ => some (32 * s.time + f)
  | none, some f => some (32 * s.time + f)
  | none, none => if h.evReset then some (32 * s.time) else none

/-- Pads whose dead time has run become active: those before a change of REF in this dot, or all (R55). -/
def deadTimes (before : Bool) (s : State) : State :=
  forAll (s.legs.map Prod.fst) (fun l t =>
    let lim := if before then refAt l t else none
    let t := if expires (leg l t).pendH lim t then perform (.deadTimeExpiry (Fin.ofNat 144 l) .high) t else t
    if expires (leg l t).pendL lim t then perform (.deadTimeExpiry (Fin.ofNat 144 l) .low) t else t) s

/-- The legs whose counters advance from this dot to the next. -/
def legsCounting (s : State) : List Nat := (listed LEG_PERIOD_PERIOD_E s).filter (fun l => legCounts l s)

/-- The counter of leg `l` moves one dot on: a period starts where the count is complete, cut or begins (R45, R48, R52). -/
def legOn (l : Nat) (s : State) : State :=
  let n := fget LEG_COUNT_COUNT l s + 1
  if (leg l s).startNext || decide (fget LEG_PERIOD_PERIOD_E l s ≤ n) then perform (.legPstart (Fin.ofNat 144 l)) s
  else if legCounts l s then fset LEG_COUNT_COUNT l n s
  else s

/-- The mid point is tested before any commit of the dot (R53). -/
def legMidTest (l : Nat) (s : State) : State :=
  if decide (fget LEG_COUNT_COUNT l s = fget LEG_PERIOD_PERIOD_E l s / 2) then perform (.legMid (Fin.ofNat 144 l)) s else s

/-- The compares are tested against the count, with the values in effect after the dot's commits (R51). -/
def legCompares (l : Nat) (s : State) : State :=
  perform (.compareFire (Fin.ofNat 144 l) .b) (perform (.compareFire (Fin.ofNat 144 l) .a) s)

/-- The head of a region's start queue may be released in this dot (R65). -/
def releases (n : Nat) (s : State) : Bool :=
  let q := startQ n s
  match q.items with
  | [] => false
  | (ix, entered) :: _ =>
    let at_ := match q.prev with
      | some p => p + fget RLG_STAGGER_LINES n s * dotsEff s
      | none => entered
    decide (at_ ≤ s.time) && (match convLegs (6 * n + ix / 2) (ix % 2) s with
      | [] => true
      | l :: _ => s.fab.now.contains (0x100 + 4 * l))

/-- The converters of region `n` that this dot releases, one after another. -/
def releaseAll (n : Fin 4) : Nat → State → State
  | 0, s => s
  | k + 1, s => if releases n s then releaseAll n k (perform (.converterRelease n) s) else s

/-- Trip lines act on the legs as levels (R66, R68, R71). -/
def tripLevels (s : State) : State :=
  if s.trips.pin.isEmpty && s.trips.route.isEmpty then s
  else forAll (List.finRange 144) (fun l t => match tripAsserted l t with
    | some i =>
      if legState l t == 2 || ((leg l t).tripActive && fbit LEG_STAT_TRIPPED l t && legState l t != 4) then t
      else perform (.tripLineAssert l (Fin.ofNat 16 i)) t
    | none => t) s

/-! ### General timers (R135 to R140) -/

/-- A period start of timer `t` is already due, called for by a reset (R137). -/
def startDue (t : Nat) (s : State) : Bool :=
  s.due.any (fun e => match e.2 with
    | .timerStart u _ => u == t && decide (e.1 ≤ s.time + 1)
    | _ => false)

/-- The timers that move from this dot to the next: by a dot that advances them, or by a start after a commit (R135); with each, whether the
next dot is a period start. A timer that a region stop holds does not move (R140). -/
def timersMoving (s : State) : List (Nat × Bool) :=
  ((listed TMR_PERIOD_VALUE_E s).filter (fun t => !startDue t s && !timerHeld t s && ((tmr t s).startNext || timerAdvances t s))).map
    (fun t => (t, (tmr t s).startNext || decide (fget TMR_PERIOD_VALUE_E t s ≤ fget TMR_COUNT_COUNT t s + 1)))

/-- A timer moves one dot on (R135). -/
def timerOn (e : Nat × Bool) (s : State) : State :=
  if e.2 then perform (.timerPer (Fin.ofNat 96 e.1)) s else fset TMR_COUNT_COUNT e.1 (fget TMR_COUNT_COUNT e.1 s + 1) s

/-- The compares of timer `t` are tested (R136). -/
def timerCompares (t : Nat) (s : State) : State :=
  perform (.timerCompareFire (Fin.ofNat 96 t) .b) (perform (.timerCompareFire (Fin.ofNat 96 t) .a) s)

/-- Resets by the RESET inputs and by chains act in this dot (R137, R138). -/
def timerResetsNow (s : State) : State :=
  forAll ((List.range 96).filter (fun t => timerResets t s)) (fun t u => perform (.timerReset (Fin.ofNat 96 t)) u) s

/-- FEV sinks post their events (R128, R259). -/
def fabricEvents (s : State) : State :=
  forAll (s.fab.sinks.filter (fun k => decide (0x5C0 ≤ k))) (fun k t => arrive (k - 0x5C0) 0 t) s

/-! ### Slots (R76, R112, R269) -/

/-- A slot of a unit with cycle `cycle` fires in the present dot (R76). -/
def slotFires (en : Bool) (line dot cycle : Nat) (s : State) : Bool :=
  en && cycle != 0 && decide (line < cycle) && s.pos.line % cycle == line && s.pos.dot == dot

/-- The latch slots of the sigma-delta channels. -/
def sdfSlots (s : State) : State :=
  let one (k : Fin 2) (en line dot : Fld) (s : State) : State :=
    forAll (listed en s) (fun u t =>
      if slotFires (fbit en u t) (fget line u t) (fget dot u t) (fget SDF_CYCLE_LINES u t) t then perform (.sdfLatch (Fin.ofNat 384 u) k) t else t) s
  one 1 SDF_LAT1_EN SDF_LAT1_LINE SDF_LAT1_DOT (one 0 SDF_LAT0_EN SDF_LAT0_LINE SDF_LAT0_DOT s)

/-- The latch slots of the quadrature units. -/
def qepSlots (s : State) : State :=
  let one (k : Fin 2) (en line dot : Fld) (s : State) : State :=
    forAll (listed en s) (fun u t =>
      if slotFires (fbit en u t) (fget line u t) (fget dot u t) (fget QEP_CYCLE_LINES u t) t then perform (.qepLatch (Fin.ofNat 48 u) k) t else t) s
  one 1 QEP_LAT1_EN QEP_LAT1_LINE QEP_LAT1_DOT (one 0 QEP_LAT0_EN QEP_LAT0_LINE QEP_LAT0_DOT s)

/-- The slots of the serial-encoder units. -/
def seuSlots (s : State) : State :=
  let one (en line dot : Fld) (s : State) : State :=
    forAll (listed en s) (fun u t =>
      if slotFires (fbit en u t) (fget line u t) (fget dot u t) (fget SEU_CYCLE_LINES u t) t then perform (.seuSlotFire (Fin.ofNat 24 u)) t else t) s
  one SEU_LAT1_EN SEU_LAT1_LINE SEU_LAT1_DOT (one SEU_LAT0_EN SEU_LAT0_LINE SEU_LAT0_DOT s)

/-- The trigger entries of the SAR converters. -/
def sarSlots (s : State) : State :=
  forAll (listed SAR_ENT_EN s) (fun u t =>
    if slotFires (fbit SAR_ENT_EN u t) (fget SAR_ENT_LINE u t) (fget SAR_ENT_DOT u t) (fget SAR_CYCLE_LINES (u / 16) t) t then
      perform (.sarTrigger (Fin.ofNat 16 (u / 16)) (Fin.ofNat 16 (u % 16))) t else t) s

/-- A slot held as a word, with its own cycle, fires in the present dot (R76). -/
def slotWordFires (w cycle : Nat) (s : State) : Bool := slotFires (w.testBit 31) (bits w 25 14) (bits w 13 0) cycle s

/-- The entries of the slot tables whose enable is set: cluster and entry (R112). -/
def lpeSlots (s : State) : List (Nat × Nat) :=
  s.mem.filterMap (fun e =>
    let o := e.1 - 0x44000000
    if 0x44000000 ≤ e.1 ∧ e.1 < 0x44180000 ∧ 0xE000 ≤ o % 0x10000 ∧ o % 0x10000 < 0xE800 ∧ o % 8 = 3 ∧ 128 ≤ e.2.toNat then
      some (o / 0x10000, (o % 0x10000 - 0xE000) / 8) else none)

/-- The slot tables fire (R112, R113). -/
def lpeFires (s : State) : State :=
  forAll (lpeSlots s) (fun e t =>
    let a := lpeBase e.1 + 0xE000 + 8 * e.2
    if slotWordFires (mread a 4 t) (bits (mread (a + 4) 4 t) 27 16) t then perform (.lpeSlotFire (Fin.ofNat 24 e.1) (Fin.ofNat 256 e.2)) t
    else t) s

/-- The writes whose programs ran last in the dot before are applied (R101). -/
def heldOn (s : State) : State := forAll (s.eng.map Prod.fst) releaseHeld s

/-- The core dispatch entries fire (R269). -/
def lcdFires (s : State) : State :=
  forAll (listed LCD_ENT_LO_W s) (fun u t =>
    if slotWordFires (fget LCD_ENT_LO_W u t) (bits (fget LCD_ENT_HI_W u t) 27 16) t then
      perform (.lcdEntryFire (Fin.ofNat 24 (u / 32)) (Fin.ofNat 32 (u % 32))) t else t) s

/-! ### The other blocks -/

/-- An external modulator clock is lost after 64 dots without an edge, which an edge in the 64th still prevents (R79). -/
def clockLosses (s : State) : State :=
  forAll s.clk (fun e t => match e.2.edges with
    | d :: _ => if e.2.armed && decide (t.time = d + 64) then perform (.sdfClklost (Fin.ofNat 24 e.1)) t else t
    | [] => t) s

/-- Pads take their new words and latches open at a line boundary (R448, R457). -/
def padsOn (s : State) : State :=
  if s.pos.dot = 0 then
    let ref (n : Nat) : PadRef := if n < 256 then .pin (Fin.ofNat 256 n) else .gate (Fin.ofNat 144 (n - 256))
    let s := forAll (padsToOpen s) (fun n t => perform (.padLatchOpen (ref n)) t) s
    forAll (s.pads.wait.filter (fun n => !s.pads.latched.contains n)) (fun n t => perform (.padHandover (ref n)) t) s
  else s

/-- Lookups of the dot before complete; the window's line begins (R168, R175). -/
def linkOn (s : State) : State :=
  let s := forAll s.link.lookups (fun _ t => perform .directoryLookupDone t) s
  if decide (s.pos.dot = 0) && decide (s.pos.line = s.link.win) then perform .publishSnapshot s else s

/-- Reports made two dots ago are latched (R372). -/
def latchReports (s : State) : State :=
  match oldestReport s with
  | some r => if r + 2 ≤ s.time then perform .faultReportLatch s else s
  | none => s


/-- The domain that walker `w` needs (R286). -/
def walkerOn (w : Nat) (s : State) : Bool :=
  match w with
  | 0 => domainOn 1 s && domainOn 2 s
  | 2 => domainOn 1 s && domainOn 23 s
  | 3 => true
  | _ => domainOn 1 s

/-- The walkers step, and a discard clears a unit (R285, R286). -/
def memoryOn (s : State) : State :=
  let s := forAll (List.finRange 5) (fun w t =>
    let n := fget RMB_CFG_INTERVAL w t
    if n != 0 && walkerOn w t && decide (sget 0 t.memh.last w + n ≤ t.time) then perform (.ramblerStep w []) t else t) s
  let s := storeTick s
  match s.memh.disc with
  | some (_, _, 0) => perform .discardDone s
  | some _ => discardTick s
  | none => s

/-- The gate control list of port `k` moves on (R416). -/
def gatesOn (k : Fin 2) : Nat → State → State
  | 0, s => s
  | n + 1, s =>
    if !gclOff k s && gclPassed k (fget ETH_GCL_STAT_ENTRY k s) s then
      gatesOn k n (perform (.gclEntryAdvance k) s) else s

/-- Credits and gates of the Ethernet ports (R416, R417); descriptors of LEN 0 that wait are done (R16). -/
def portsOn (s : State) : State :=
  let s := forAll (((listed ETXQ_SIZE_SIZE s).map etxQ) ++ ((listed ERXQ_SIZE_SIZE s).map erxQ) ++ ((listed CTXQ_SIZE_SIZE s).map ctxQ)
    ++ ((listed CRXQ_SIZE_SIZE s).map crxQ)) (fun q t => zeroLens q 16 t) s
  forAll (List.finRange 2) (fun k t =>
    let t := creditTick k t
    if gclStarts k t && (fbit ETH_GCL_STAT_PEND k t || !gclOff k t) then gatesOn k 256 (perform (.gclCycleStart k) t) else gatesOn k 256 t) s

/-- The entry under way goes on (R439): from the dot in which the steps before are over, one domain goes off per dot; the state takes its
code in the dot after the last, after the 400 dots of the bias for SLEEP. -/
def entryOn (s : State) : State :=
  match s.pwr.entering with
  | none => s
  | some c =>
    match s.pwr.gone with
    | none =>
      if Config.entryMoves s.time then
        let s := { s with pwr := { s.pwr with gone := some s.time } }
        match s.pwr.off with
        | d :: rest => { goesOff c d s with pwr := { (goesOff c d s).pwr with off := rest } }
        | [] => s
      else s
    | some g =>
      match s.pwr.off with
      | d :: rest => { goesOff c d s with pwr := { (goesOff c d s).pwr with off := rest, gone := some s.time } }
      | [] => if g + 1 + (if c = 3 then 400 else 0) ≤ s.time then perform .stateEntryDone s else s

/-- The power controller's dot: an entry, domains whose ramps end, the next to start, the repair table, the alarm (R439, R443, R444, R472). -/
def powerOn (s : State) : State :=
  let s := entryOn s
  let s := forAll (s.pwr.ramping.filter (fun e => decide (e.2 ≤ s.time))) (fun e t => perform (.domainOn (Fin.ofNat 24 e.1)) t) s
  let s := if !s.pwr.waiting.isEmpty && decide (s.pwr.first ≤ s.time) then perform .domainStart s else s
  let s := repairOn s
  if fbit PWR_WAKECFG_ALARM_EN 0 s && s.pos == ⟨fget PWR_ALARM_FRAME 0 s, fget PWR_ALARM_L_LINE 0 s, 0⟩ then perform .wakeAlarm s else s

/-- Lock of a converting port is lost two sample periods after the last FSYNC (R369). -/
def asrcOn (s : State) : State :=
  forAll (List.finRange 2) (fun k t =>
    match (sget AsrcH.init t.aud.asrc (2 + k)).last with
    | some d => if fbit TDM_STAT_LOCKED (2 + k) t && decide (d + 2 * audioPeriod t < t.time) then perform (.asrcLockLost k) t else t
    | none => t) s

/-! ### The display (R336 to R341) -/

/-- A beam-locked display frame begins in the present dot (R339). -/
def beamStarts (s : State) : Bool :=
  let n := fget SWP_GEOM_EFF1_FRAMES 0 s * frameDots s
  n != 0 && decide ((s.time - s.swp.origin) % n = 0)

/-- A display frame begins in the present dot: after a free-running one, where that one ends, or at the next beam-locked start; after a
beam-locked one with FREERUN in effect, where its lines end or it is cut (R339, R341, R344). -/
def frameBeginsNow (s : State) : Bool :=
  match s.scan.origin with
  | some o =>
    if s.scan.timing.free then
      let fin := lineDot s.scan.timing o (s.scan.index + 1) 0
      if fbit SCN_MODE_FREERUN_E 0 s then decide (s.time = fin) else decide (fin ≤ s.time) && beamStarts s
    else beamStarts s || (fbit SCN_MODE_FREERUN_E 0 s && decide (s.time = lineDot s.scan.timing o 0 s.scan.timing.vtotal))
  | none => beamStarts s

/-- The line of the display frame in progress that begins in the present dot. -/
def displayLine (s : State) : Option Nat :=
  match s.scan.origin with
  | some o =>
    let t := s.scan.timing
    let at_ (l : Nat) : Nat := lineDot t o s.scan.index l
    let est := if t.htotal = 0 ∨ t.n = 0 ∨ t.m = 0 then 0
      else if t.free then (s.time + 1 - at_ 0) * t.n / (16 * t.m * t.htotal) else 2 * (s.time + 1 - at_ 0) / (5 * t.htotal)
    [est, est - 1].find? (fun l => decide (l < t.vtotal) && decide (at_ l = s.time))
  | none => none

/-- The scanout's dot: a display frame begins, vertical blanking begins, the next line is composed (R336, R339). -/
def displayOn (s : State) : State :=
  if domainOn 23 s then
    let s := hpdOn (if frameBeginsNow s then perform .displayFrameStart s else s)
    let s := flattenOn (onlyIf (Config.captureMoves s.time) captureNext s)
    match displayLine s with
    | some l =>
      let s := beamLine l s
      let s := if l = s.scan.timing.vactive then perform .vblankStart s else s
      if l + 1 = s.scan.timing.vtotal then perform (.lineCompose 0 false) s
      else if l + 1 < s.scan.timing.vactive then perform (.lineCompose (Fin.ofNat 1200 (l + 1)) false) s
      else s
    | none => s
  else s

/-! ### The dot -/

/-- Do `f` while the sweep runs. -/
def whileRunning (f : State → State) (s : State) : State := if running s then f s else s

/-- Do `f` with the holds that the runs of the present dot make, those that begin in it among them (R114). -/
def withHolds (f : State → State) (s : State) : State :=
  let t := f { s with holds := s.holds ++ (enginesOn s).holds }
  { t with holds := s.holds }

/-- The counters and the compares move into the dot that has begun: `ls` and `ts` are the legs and timers whose counts advance. -/
def carriersOn (ls : List Nat) (ts : List (Nat × Bool)) (s : State) : State :=
  let s := heldOn (lcdFires (lpeFires (forAll ts timerOn (frameBoundary s))))
  let s := withHolds (fun t => let u := forAll ls legOn t; forAll (legsCounting u) legMidTest u) s
  let s := settleDue 2 s
  forAll (listed TMR_PERIOD_VALUE_E s) timerCompares (forAll (legsCounting s) legCompares s)

/-- The states that LEG_STAT and TMR_STAT show from the next dot on (R71, R141). -/
def noteStates (s : State) : State :=
  let ls := ((listed LEG_PERIOD_PERIOD_E s) ++ s.legs.map Prod.fst ++ listed LEG_STAT_STATE s).eraseDups
  let ts := ((listed TMR_PERIOD_VALUE_E s) ++ listed TMR_STAT_RUNNING s).eraseDups
  forAll ts (fun k t => fset TMR_STAT_RUNNING k (timerRunning k t).toNat t) (forAll ls (fun l t => fset LEG_STAT_STATE l (legState l t) t) s)

/-- The dot ends, after the commands that came in it: starts are released, the engines have run through it, what the outside world gave no
command for is free, the reports of a frame's last dot are made. A dispatch that starts in the dot counts as
queued for what arrives in that dot (R113; DESIGN CHOICE, log 96). -/
def dotEnds (s : State) : State :=
  let s := enginesOn (forAll (List.finRange 4) (fun n t => releaseAll n 12 t) s)
  let s := strobeLeft (framesLeft (sarsLeft (capturesLeft (arithsOn s))))
  let s := clockLosses (clocksLeft (chooseNow (settleDue 6 s)))
  if lastDot s then endFrame s else s

/-- What the pins, the sinks and the carriers do as the dot begins. -/
def dotBegins (ls : List Nat) (ts : List (Nat × Bool)) (s : State) : State :=
  let s := settleDue 1 (deadTimes true (pinsTick (spiTick (uartTick (qepsOn (settleDue 0 s))))))
  let s := fabricEvents (tripLevels (carriersOn ls ts (deadTimes false (sinksTick s))))
  timerResetsNow (settleDue 3 s)

/-- What the blocks that follow the sweep do in the dot. -/
def blocksOn (s : State) : State :=
  let s := seuSlots (sarSlots (qepSlots (sdfSlots s)))
  asrcOn (displayOn (portsOn (memoryOn (linkOn s))))

/-- What ends the dot's own work: reports that are latched, stores that arrive, the lines of the queues (R267). -/
def dotCloses (s : State) : State := evLines (settleDue 4 (settleDue 4 (latchReports s)))

/-- What the device itself does in the dot that follows, up to its commands: the timers `ts` move. -/
def dotRuns (ts : List (Nat × Bool)) (s : State) : State :=
  let done := wakeOver s
  let ls := legsCounting s
  let s := whileRunning (dotBegins ls ts) (whileRunning (fun t => chooseSince (t.time - 1) t) (sweepOn s))
  let s := if done then perform .runReached s else s
  whileRunning dotCloses (whileRunning blocksOn (whileRunning (fun t => powerOn (padsOn t)) s))

/-- The register file as the dot that follows begins: with what changes at its start. -/
def regsAtStart (s : State) : SMap (SMap Nat) := (settleDue 0 { s with time := s.time + 1 }).regs

/-- One dot of the device: the present dot ends, the fabric's levels pass on, and the next dot begins; nothing moves unless the sweep runs. What stood before the new
dot's own work and after it is kept for the accesses that come in the dot (R13). -/
def tick (s : State) : State :=
  if running s then
    let s := dotEnds s
    let ts := timersMoving s
    let s := noteStates (fabricShift s)
    let t := dotRuns ts { s with regs0 := regsAtStart s, ctx0 := s.ctx, hits := [] }
    whileRunning (fun u => blocksGoOn (settleDue 5 u)) t
  else s

end Sys2Proof.Machine
end

