-- ==== Sys2Proof/Safety.lean ====
section
/-! DEFINITION. What counts as a safe step, and the words that the statements use: a command completes, what it leaves alone. -/

namespace Sys2Proof.Machine

open Sys2Proof

/-- A step answers a next state: no fault, no refusal. -/
def goesOn (s : State) : Prop := ∃ t, step s = .next t

/-- Command `c` completes from `s`: it answers a next state, of which `P` holds. -/
def completes (c : Instr) (s : State) (P : State → Prop) : Prop := ∃ t, exec c s = .next t ∧ P t

/-- The command is accepted but changes nothing at all. -/
def ignored (c : Instr) (s : State) : Prop := exec c s = .next s

/-- Among the register fields only those listed, each with its unit, may differ between `s` and `t`. -/
def onlyFields (fs : List (Fld × Nat)) (s t : State) : Prop :=
  ∀ (F : Fld) (u : Nat), (∀ e ∈ fs, ¬(F.id = e.1.id ∧ u = e.2)) → fget F u t = fget F u s

/-- Among the register fields only those listed, in any unit, may differ between `s` and `t`. -/
def onlyRegs (fs : List Fld) (s t : State) : Prop := ∀ F : Fld, F.id ∉ fs.map Fld.id → ∀ u, fget F u t = fget F u s

/-- One report has gone to the collector: source, INFO0, INFO1, with the dot and the position of the moment (R372). -/
def reported (src i0 i1 : Nat) (s t : State) : Prop :=
  t.flt = { s.flt with reports := s.flt.reports ++ reportOf src i0 i1 s }

/-- One fabric event has been issued in the present dot (R126). -/
def issued (e : Nat) (s t : State) : Prop := t.fab = { s.fab with now := nput e s.fab.now }

/-- One effect has been set for `n` dots later. -/
def scheduled (n : Nat) (d : Due) (s t : State) : Prop := t.due = s.due ++ [(s.time + n, d)]

/-! ### Steps of a loop engine (R100 to R107) -/

/-- The 32-bit limits of R107. -/
def saturated (x : Int) : Int := min (max x (-2 ^ 31)) (2 ^ 31 - 1)

/-- SAT, bit 0 of CTX_STAT, where saturation changes the value. -/
def satBits (x : Int) : List Nat := if saturated x = x then [] else [0]

/-- One rounding by Q bits (R107, step 3). -/
def rounded (q : Nat) (x : Int) : Int := if q = 0 then x else (x + 2 ^ (q - 1)) / 2 ^ q

/-- A word of the running context, unsigned: as the step's first cycle latched it, or as it stands (R106). -/
def runWordN (c : Nat) (r : Run) (s : State) (x : Nat) : Nat :=
  match r.latch with
  | some k => k.words.getD x 0
  | none => ctxGet (128 * c + r.ctx) x s

/-- A word of the running context, signed. -/
def runWord (c : Nat) (r : Run) (s : State) (x : Nat) : Int := sint (runWordN c r s x)

/-- What a step of run `r` reads from outside its context: as its first cycle latched it, or as it now is (R106). -/
def runInput (r : Run) (now : List Int) (stale : Bool) : List Int × Bool :=
  match r.latch with
  | some k => (k.vals, k.stale)
  | none => (now, stale)

/-- The values `vs` go to the words from `d` on; no bit is set. -/
def inWords (d : Nat) (vs : List Int) : List (Nat × Int) × List Nat := (vs.zipIdx.map (fun e => (d + e.2, e.1)), [])

/-- No word of memory holds an error. -/
def memorySound (s : State) : Prop := s.poison = [] ∧ s.soft = []

/-- The engine of cluster `c` stands at a step of the run `r`. -/
def atStep (c : Nat) (r : Run) (s : State) : Prop := (eng c s).run = some r ∧ r.ended = false ∧ r.core = none ∧ memorySound s

/-- The run `n` cycles on, at its next step; it ends at a step whose E bit is 1 and at step 2,047 (R105). -/
def nextStep (e : Bool) (n : Nat) (r : Run) : Run :=
  { r with pc := r.pc + 1, cycle := r.cycle + n, ended := e || decide (2047 ≤ r.pc), core := none, latch := none, half := false }

/-- The run after a step of `n` cycles. -/
def afterStep (w : StepW) (n : Nat) (r : Run) : Run := nextStep w.e n r

/-- The run after `n` steps that a SKIP passes over, each with its own cycles where `timed`; it ends where one of them ends it (R109). -/
def passedOver (c : Nat) (timed : Bool) (s : State) : Nat → Run → Run
  | 0, r => r
  | n + 1, r =>
    if r.ended then r
    else passedOver c timed s n
      (nextStep ((stepWord c r.pc s).testBit 28) (if timed then stepCycles (stepWord c r.pc s) else 0) r)

/-- The engine of cluster `c` after a step of `n` cycles; the other engines stay as they are. -/
def engineAfter (c : Nat) (w : StepW) (n : Nat) (r : Run) (s t : State) : Prop :=
  eng c t = { eng c s with run := some (afterStep w n r) } ∧ ∀ j, j ≠ c → eng j t = eng j s

/-- The step `i` takes `n` cycles and is refused: BADOP, bit 6 of CTX_STAT, and a report; nothing is written (R100). -/
def stepRefused (i : Instr) (c : Nat) (w : StepW) (r : Run) (n : Nat) (s : State) : Prop :=
  completes i s (fun t =>
    t = { s with ctx := t.ctx, hits := t.hits, eng := t.eng, flt := t.flt } ∧ engineAfter c w n r s t
    ∧ reported (csrc c 4) (128 * c + r.ctx) r.cycle s t
    ∧ ctxGet (128 * c + r.ctx) 1 t = (ctxGet (128 * c + r.ctx) 1 s ||| 64) % 2 ^ 32
    ∧ ∀ h x, 64 * h + x ≠ 64 * (128 * c + r.ctx) + 1 → ctxGet h x t = ctxGet h x s)

/-- The word `x` may take a step's result: not words 0 to 3 of a context (R100). -/
def resultWord (x : Nat) : Bool := decide (4 ≤ x ∧ x ≤ 63)

/-- The step `i` takes `n` cycles, writes the words that `f` gives from the words of the running context, in their order, and sets the
bits of CTX_STAT that `f` gives; it changes nothing else. A result that would land in words 0 to 3 or beyond 63 is not written: BADOP, bit 6,
and one report, the step running as usual otherwise (R100). `reads` are the words it reads beyond its operand fields: a step that reads
beyond word 63 is refused (R103). -/
def stepYields (i : Instr) (c : Nat) (w : StepW) (r : Run) (n : Nat) (reads : List Nat) (s : State)
    (f : (Nat → Int) → List (Nat × Int) × List Nat) : Prop :=
  ((∃ x ∈ reads, 63 < x) → stepRefused i c w r n s)
  ∧ ((∀ x ∈ reads, x ≤ 63) → completes i s (fun t =>
    t = { s with ctx := t.ctx, hits := t.hits, eng := t.eng, trace := t.trace, flt := t.flt } ∧ engineAfter c w n r s t
    ∧ (if (f (runWord c r s)).1.all (fun e => resultWord e.1) then t.flt = s.flt else reported (csrc c 4) (128 * c + r.ctx) r.cycle s t)
    ∧ ctxGet (128 * c + r.ctx) 1 t
      = ((f (runWord c r s)).2 ++ if (f (runWord c r s)).1.all (fun e => resultWord e.1) then [] else [6]).foldl
          (fun m b => (m ||| 2 ^ b) % 2 ^ 32) (ctxGet (128 * c + r.ctx) 1 s)
    ∧ ∀ h x, 64 * h + x ≠ 64 * (128 * c + r.ctx) + 1 →
        ctxGet h x t = ctxGet h x (forAll ((f (runWord c r s)).1.filter (fun e => resultWord e.1))
          (fun e u => ctxApply (128 * c + r.ctx) e.1 (word e.2) u) s)))

/-- The shadow of leg `l` holds the compares `k`, and PEND is set (R61, R110). -/
def shadowHolds (l : Nat) (k : Compares) (t : State) : Prop :=
  fget LEG_PERIOD_PERIOD l t = k.period % 2 ^ 32 ∧ fget LEG_CMPA_DOTS l t = k.cmpa % 2 ^ 32 ∧ fget LEG_CMPB_DOTS l t = k.cmpb % 2 ^ 32
    ∧ fget LEG_FINE_CMPA_F l t = k.fine % 32 ∧ fget LEG_FINE_CMPB_F l t = k.fine / 2 ^ 8 % 32 ∧ fget LEG_STAT_PEND l t = 1

/-- The shadow fields of a leg's register `r`, LEG_PERIOD first, LEG_MINP last, each with its lowest bit (R73). -/
def legShadowFields (r : Nat) : List (Fld × Nat) :=
  match r with
  | 0 => [(LEG_PERIOD_PERIOD, 0)]
  | 1 => [(LEG_CMPA_DOTS, 0)]
  | 2 => [(LEG_CMPB_DOTS, 0)]
  | 3 => [(LEG_FINE_CMPA_F, 0), (LEG_FINE_CMPB_F, 8)]
  | 4 => [(LEG_DT_HL_DOTS, 0), (LEG_DT_HL_FINE, 16)]
  | 5 => [(LEG_DT_LH_DOTS, 0), (LEG_DT_LH_FINE, 16)]
  | _ => [(LEG_MINP_DOTS, 0), (LEG_MINP_FINE, 16)]

/-- The dots after which a pad goes inactive when its leg trips: the inner pads of a three-level pair wait for the even leg's DT_HL
(R68, R69). -/
def padLeaves (l : Nat) (p : GatePad) (s : State) : Nat :=
  if threeLevel l s && (l % 2 == 0) == (p == .low) then 2 + deadTime (evenLeg l) .high s / 32 else 2

/-- The pending activation of a pad. -/
def padPending (l : Nat) (p : GatePad) (s : State) : Option Nat :=
  match p with
  | .high => (leg l s).pendH
  | .low => (leg l s).pendL

/-- Leg `l` has been tripped by source `src`: the bit, the source where none is recorded, the kept trip; a leg that was halted or switched
issues LEG_TRIP 2 dots later and its pads move to the safe state (R68, R69, R71). -/
def tookTrip (l src : Nat) (s t : State) : Prop :=
  fget LEG_STAT_TRIPPED l t = 1 ∧ (leg l t).tripActive = true
  ∧ fget LEG_STAT_TRIP_SRC l t = (if fget LEG_STAT_TRIP_SRC l s = 31 then src else fget LEG_STAT_TRIP_SRC l s)
  ∧ (3 ≤ legState l s → (s.time + 2, Due.fire (0x103 + 4 * l)) ∈ t.due
    ∧ ∀ p : GatePad, (safeLevel l p s = false → (s.time + padLeaves l p s, Due.padOff l p) ∈ t.due ∧ padPending l p t = none)
      ∧ (safeLevel l p s = true → padLevel l p s = false → padPending l p t = some ((s.time + 2) * 32 + deadTime l p s)))

/-- The bits that a trip of the legs `ls` writes. -/
def tripFields (ls : List Nat) : List (Fld × Nat) := ls.flatMap (fun j => [(LEG_STAT_TRIPPED, j), (LEG_STAT_TRIP_SRC, j)])

/-- The register fields that a compare write reaches (R61). -/
def compareFields (l : Nat) : List (Fld × Nat) :=
  [(LEG_PERIOD_PERIOD, l), (LEG_CMPA_DOTS, l), (LEG_CMPB_DOTS, l), (LEG_FINE_CMPA_F, l), (LEG_FINE_CMPB_F, l), (LEG_STAT_PEND, l)]

/-! ### Instructions of the cores -/

/-- The core of `h` begins an instruction of `size` bytes behind its prefixes, which issues as `u` says: the core runs, the fetch passes its
checks, and nothing else stands at the boundary (R194, R221, R241, R245). -/
def begins (h : Hdr) (u : Iss) (size : Nat) (s : State) : Prop :=
  coreRuns (coreNum h.core) s = true ∧ instWaits (coreNum h.core) (beginCycle (coreNum h.core) h.wait u s) u s = none
    ∧ waitingTrap (coreNum h.core) s = none ∧ waitingFault (coreNum h.core) s = none ∧ waitingInterrupt (coreNum h.core) s = none
    ∧ (cpu (coreNum h.core) s).arith = []
    ∧ fetchFails (coreNum h.core) (cpu (coreNum h.core) s).pc (h.pre.length + size) s = (none, s)

/-- A core once an instruction has begun in cycle `b` whose successor lies at `next`: the multiplier results of the cycles before have landed
(R199), the first instruction of a handler has been fetched (R252). -/
def begun (b next : Nat) (k : Cpu) : Cpu :=
  { k with
    pc := next % 2 ^ 32, began := b, entry := false, drain := false, landed := macSeen b k
    flight := k.flight.filter (fun e => !decide (e.1 < b)) }

/-- The instruction begun in cycle `b` has been executed: `f` gives what it did to its core, `r` the state without the cores' part. On a loop
core the next instruction begins `n` cycles after it, on a host core `hold` or more, with its results ready after `lat` (R217, R223, R224);
the issue slots, the readiness of registers and the cycles of FSTAT settings are otherwise free. The other cores are as before. -/
def executed (h : Hdr) (u : Iss) (size b n hold lat : Nat) (f : Cpu → Cpu) (r s t : State) : Prop :=
  t = { r with cpus := t.cpus } ∧ (∀ j, j ≠ coreNum h.core → cpu j t = cpu j s)
  ∧ cpu (coreNum h.core) t = { f (begun b ((cpu (coreNum h.core) s).pc + h.pre.length + size) (cpu (coreNum h.core) s)) with
      free := max (cpu (coreNum h.core) s).free (b + if isHost (coreNum h.core) then hold else n), slot := (cpu (coreNum h.core) t).slot
      ready := (cpu (coreNum h.core) t).ready, sets := (cpu (coreNum h.core) t).sets }
  ∧ (isHost (coreNum h.core) = true → ∀ x ∈ u.writes, x ≠ 0 → sget 0 (cpu (coreNum h.core) t).ready x = b + lat)

/-- Where the instruction `c` begins, it completes with `P` of its first cycle and the state after it. -/
def carriesOut (c : Instr) (h : Hdr) (u : Iss) (size : Nat) (s : State) (P : Nat → State → Prop) : Prop :=
  begins h u size s → completes c s (P (beginCycle (coreNum h.core) h.wait u s))

/-- Where the instruction `c` begins, it does `f` to its core and nothing else. -/
def acts (c : Instr) (h : Hdr) (u : Iss) (size n hold lat : Nat) (s : State) (f : Nat → Cpu → Cpu) : Prop :=
  carriesOut c h u size s (fun b t => executed h u size b n hold lat (f b) s s t)

/-- Where the instruction `c` begins, it raises the exception `e`, with the saved PC `pc`, and has no other effect. -/
def traps (c : Instr) (h : Hdr) (u : Iss) (size pc : Nat) (e : Exc) (s : State) : Prop :=
  begins h u size s → exec c s = .next (takeException (coreNum h.core) e false pc (beginCycle (coreNum h.core) h.wait u s)
    (advance (coreNum h.core) (((cpu (coreNum h.core) s).pc + h.pre.length + size) % 2 ^ 32)
      (beginCycle (coreNum h.core) h.wait u s) u s))

/-- Where the instruction `c` begins, it raises CAP with detail `d` for capability register `k`; no access gives the ADDR, a free value
(R240, R241). -/
def capTraps (c : Instr) (h : Hdr) (u : Iss) (size d k : Nat) (s : State) : Prop :=
  begins h u size s → exec c s = .next (takeException (coreNum h.core) ⟨2, d, (Config.capOpAddr s.fresh).toNat, k⟩ false
    (cpu (coreNum h.core) s).pc (beginCycle (coreNum h.core) h.wait u s)
    (advance (coreNum h.core) (((cpu (coreNum h.core) s).pc + h.pre.length + size) % 2 ^ 32)
      (beginCycle (coreNum h.core) h.wait u s) u { s with fresh := s.fresh + 1 }))

/-- Where the instruction `c` begins, its encoding is refused: ILLEGAL, with the saved PC at its first byte (R194). -/
def illegal (c : Instr) (h : Hdr) (u : Iss) (size : Nat) (s : State) : Prop :=
  begins h u size s → exec c s = .next (takeException (coreNum h.core) ⟨1, 0, 0, 0⟩ false (cpu (coreNum h.core) s).pc
    (beginCycle (coreNum h.core) h.wait u s) s)

/-- A core with register g`n` changed; g0 stays 0 (R187). -/
def withG (n v : Nat) (k : Cpu) : Cpu := if n = 0 then k else { k with g := sset 0 k.g n (v % 2 ^ 32) }

/-- A core with capability register c`n` changed. -/
def withC (n : Nat) (v : Cap) (k : Cpu) : Cpu := { k with c := sset Cap.none k.c n v }

/-- A core with FSTAT bits set (R191). -/
def flagged (f : Nat) (k : Cpu) : Cpu := { k with fstat := k.fstat ||| f }

/-- Register g`n` as a word. -/
def gWord (i n : Nat) (s : State) : Word := BitVec.ofNat 32 (gGet i n s)

/-- The second source of an ALU or compare instruction as a word (R193). -/
def srcWord (i : Nat) (o : BitVec 16) (src : Src) (s : State) : Word :=
  match src with
  | .reg => gWord i (fieldB o) s
  | .imm8 v => v.signExtend 32
  | .imm32 v => v

/-- A signed result clamped to 32 bits, with FSTAT.SAT where it clamps (R198, R201). -/
def clamped (x : Int) : Word × Nat := (BitVec.ofInt 32 (saturated x), if saturated x = x then 0 else 0x400)

/-- Of an instruction at `pc` whose result is ready `lat` cycles after `b`: an FSTAT bit whose trap is enabled holds an ARITH exception (R191,
R250). -/
def arithHeld (host : Bool) (pc f b lat : Nat) (k : Cpu) : Cpu :=
  if f &&& trapBits k.fctrl = 0 then k else { k with arith := k.arith ++ [(pc, f, if host then b + lat else 0)] }

/-- The key of the `n` bytes at `a` of core `i` where they lie in one plain memory: a host core's general SRAM or DRAM, a loop core's code
memory, data memory or refuge SRAM. -/
def plainKey (i a n : Nat) (s : State) : Option Nat :=
  if isHost i then
    if regionOf a = .sram ∧ regionOf (a + n - 1) = .sram then some a
    else if regionOf a = .dram ∧ a % 2 ^ 28 + n ≤ 2 ^ 28 ∧ dramUp s then some (flat a s) else none
  else match loopPlace i a n s with
  | .code f => some f
  | .data f => some f
  | .refuge f => some f
  | _ => none

/-- The bytes from `k` on have taken the `n` bytes of `v`: every other byte is as before, and a 16-byte word that is touched has lost its tag
(R237). -/
def stored (k n v : Nat) (s t : State) : Prop :=
  mread k n t = v % 2 ^ (8 * n) ∧ (∀ a, a < k ∨ k + n ≤ a → mget a t = mget a s)
    ∧ (∀ w, w ∈ t.tags ↔ w ∈ s.tags ∧ (16 * w + 16 ≤ k ∨ k + n ≤ 16 * w))

/-- The state `t` with the memory, its valid pages and tags of `u`. -/
def memoryOf (u t : State) : State := { t with mem := u.mem, valid := u.valid, tags := u.tags, memh := u.memh }

/-- The record of exception `e` of core `i` with saved PC `pc`, raised in state `s`, lies in memory from key `k` on (R246). -/
def recordAt (k i : Nat) (e : Exc) (imprecise : Bool) (pc : Nat) (s t : State) : Prop :=
  mread k 4 t = (e.cause + 2 ^ 8 * e.detail + 2 ^ 16 * (fbit EXC_CTRL_IE i s).toNat + 2 ^ 17 * imprecise.toNat) % 2 ^ 32
    ∧ mread (k + 4) 4 t = pc % 2 ^ 32 ∧ mread (k + 8) 4 t = e.addr % 2 ^ 32 ∧ mread (k + 12) 4 t = e.info % 2 ^ 32
    ∧ mread (k + 0x10) 4 t = (s.pos.line * 2 ^ 14 + s.pos.dot) % 2 ^ 32 ∧ mread (k + 0x14) 4 t = s.pos.frame % 2 ^ 32 ∧ mread (k + 0x18) 8 t = 0
    ∧ mread (k + 0x20) 16 t = (cGet i 14 s).v.toNat ∧ mread (k + 0x30) 16 t = (cGet i 15 s).v.toNat
    ∧ (∀ w, k / 16 ≤ w ∧ w < k / 16 + 4 →
        (w ∈ t.tags ↔ (w = k / 16 + 2 ∧ (cGet i 14 s).tag = true) ∨ (w = k / 16 + 3 ∧ (cGet i 15 s).tag = true)))

/-- Memory and tags are as before but for the `n` bytes from `k` on. -/
def memoryElsewhere (k n : Nat) (s t : State) : Prop :=
  (∀ a, a < k ∨ k + n ≤ a → mget a t = mget a s) ∧ (∀ w, w < k / 16 ∨ k / 16 + n / 16 ≤ w → (w ∈ t.tags ↔ w ∈ s.tags))

/-- The place of the record that core `i` pushes through c15. -/
def pushAt (i : Nat) (s : State) : Nat := ((cGet i 15 s).base + (cGet i 15 s).length + 2 ^ 32 - 64) % 2 ^ 32

/-- Core `i` can push a record, which lies at key `k`: it is not in its refuge, c15 passes the check of R247. -/
def canPush (i k : Nat) (s : State) : Prop :=
  fbit EXC_STAT_IN_REFUGE i s = false ∧ pushCheck i s = none ∧ plainKey i (pushAt i s) 64 s = some k ∧ memorySound s

/-- What leads core `i` to a handler in cycle `b + n`: c14, c15 and the PC are new, the other registers stay (R247, R254). -/
def handlerOf (i n b : Nat) (entry : Bool) (c14 c15 : Cap) (pc : Nat) (s t : State) : Prop :=
  (∀ j, j ≠ i → cpu j t = cpu j s)
  ∧ cpu i t = { withC 14 c14 (withC 15 c15 (cpu i s)) with
      pc := pc, state := .run, entry := entry, block := none, free := max (cpu i s).free (b + n), began := (cpu i t).began, slot := (cpu i t).slot
      landed := (cpu i t).landed, flight := (cpu i t).flight, drain := (cpu i t).drain, sets := (cpu i t).sets }

/-- Core `i` has entered its exception handler for `e`, known in cycle `b` (R246, R247, R249). -/
def entered (i k : Nat) (e : Exc) (imprecise : Bool) (pc b : Nat) (s t : State) : Prop :=
  recordAt k i e imprecise pc s t ∧ memoryElsewhere k 64 s t ∧ t = { memoryOf t s with cpus := t.cpus, regs := t.regs }
  ∧ onlyFields [(EXC_CTRL_IE, i)] s t ∧ fget EXC_CTRL_IE i t = 0
  ∧ handlerOf i ((if e.cause = 7 ∨ e.cause = 8 then 1 else 0)
      + if isHost i then 12 + hostCount (pushAt i s) 64 else 8 + 4 * storeCount (loopPlace i (pushAt i s) 16 s) (pushAt i s) 16) b true
      (slotCap VEC_CAP_CAP i s) ((cGet i 15 s).withRange (cGet i 15 s).base ((cGet i 15 s).length - 64)) (fget VEC_PC_PC i s) s t

/-- Core `i` has entered its refuge handler for reason `why`, known in cycle `b`, with the record of `e` (R254). -/
def tookRefuge (i why det at_ src : Nat) (e : Exc) (pc b : Nat) (s t : State) : Prop :=
  recordAt (refugeKey i + 0xF80) i e false pc s t ∧ memoryElsewhere (refugeKey i + 0xF80) 128 s t
  ∧ mread (refugeKey i + 0xFC0) 4 t = why + 2 ^ 8 * det ∧ mread (refugeKey i + 0xFC4) 4 t = at_ ∧ mread (refugeKey i + 0xFC8) 4 t = src
  ∧ mread (refugeKey i + 0xFCC) 52 t = 0
  ∧ t = { memoryOf t s with cpus := t.cpus, regs := t.regs, hits := t.hits, poison := t.poison, soft := t.soft }
  ∧ onlyFields [(EXC_CTRL_IE, i), (EXC_STAT_IN_REFUGE, i), (EXC_STAT_REFUGES, i)] s t
  ∧ fget EXC_CTRL_IE i t = 0 ∧ fget EXC_STAT_IN_REFUGE i t = 1 ∧ fget EXC_STAT_REFUGES i t = min (fget EXC_STAT_REFUGES i s + 1) 65535
  ∧ handlerOf i (if isHost i then 28 else 24) b false (slotCap REF_CAP_CAP i s) (mkCap (refugeBase i) 0xF80 0x1B 0 false 0 true)
      (fget REF_PC_PC i s) s t

/-- Core `i` has become LOCKED on exception `e` (R256). -/
def becameLocked (i : Nat) (e : Exc) (pc : Nat) (s t : State) : Prop :=
  onlyFields [(EXC_STAT_LOCKED, i), (CPU_LOCK0_CAUSE, i), (CPU_LOCK0_DETAIL, i), (CPU_LOCK1_PC, i), (CPU_LOCK2_ADDR, i)] s t
  ∧ fget EXC_STAT_LOCKED i t = 1 ∧ fget CPU_LOCK0_CAUSE i t = e.cause ∧ fget CPU_LOCK0_DETAIL i t = e.detail ∧ fget CPU_LOCK1_PC i t = pc % 2 ^ 32
  ∧ fget CPU_LOCK2_ADDR i t = e.addr % 2 ^ 32 ∧ reported (0x180 + i) (e.cause + 2 ^ 8 * e.detail) pc s t ∧ t.mem = s.mem
  ∧ (cpu i t).g = (cpu i s).g ∧ (cpu i t).c = (cpu i s).c ∧ ∀ j, j ≠ i → cpu j t = cpu j s

/-- The capability that the 16 bytes from key `k` on spell. -/
def capAt (k : Nat) (s : State) : Cap := ⟨BitVec.ofNat 128 (mread k 16 s), s.tags.contains (k / 16)⟩

/-- Of the bit space outside the core's own RAM, the bit at `b` has taken `v` and no other bit has changed: a soft level or pulse acts in the
next dot, an event flag or a software output at once (R134, R205). -/
def bitTaken (b : Nat) (v : Bool) (s t : State) : Prop :=
  t = { s with cpus := t.cpus, due := t.due, fab := { s.fab with flags := t.fab.flags }, regs := t.regs, hits := t.hits }
  ∧ t.due = s.due ++ (if 0x41600 ≤ b ∧ b < 0x41640 then
        [(s.time + 1, Due.bit (if b < 0x41620 then FAB_SOFT0_LEVEL else FAB_SOFT1_LEVEL) 0 (b % 32) v)]
      else if 0x41640 ≤ b ∧ b < 0x41680 ∧ v then [(s.time + 1, .fire (0x1640 + (b - 0x41640)))] else [])
  ∧ (∀ e, e ∈ t.fab.flags ↔ if b = 0x48000 + e ∧ e < 0x8000 then v = true else e ∈ s.fab.flags)
  ∧ (if 0x50100 ≤ b ∧ b < 0x50200 then onlyFields [(PAD_OUT_OUT, (b - 0x50100) / 32)] s t ∧ ∀ j, j < 32 →
        (fget PAD_OUT_OUT ((b - 0x50100) / 32) t).testBit j = if j = b % 32 then v else (fget PAD_OUT_OUT ((b - 0x50100) / 32) s).testBit j
    else t.regs = s.regs ∧ t.hits = s.hits)

/-- A core whose own bit `b` has taken `v`, where it is one of its bit RAM. -/
def withBit (b : Nat) (v : Bool) (k : Cpu) : Cpu :=
  if b < 0x10000 then
    { k with bitRam := sset 0 k.bitRam (b / 32) (if v then sget 0 k.bitRam (b / 32) ||| 2 ^ (b % 32)
        else sget 0 k.bitRam (b / 32) - (sget 0 k.bitRam (b / 32) &&& 2 ^ (b % 32))) }
  else k

/-- A bit address that can be read; that can be written (R205). -/
def canRead (b : Nat) : Bool := decide (b < 0x10000 ∨ (0x40000 ≤ b ∧ b < 0x50200))
def canWrite (b : Nat) : Bool :=
  decide (b < 0x10000 ∨ (0x41600 ≤ b ∧ b < 0x41680) ∨ (0x48000 ≤ b ∧ b < 0x50000) ∨ (0x50100 ≤ b ∧ b < 0x50200))

/-- The `n` bits from `b` on: the detail of the check that refuses them under capability `k`, or 0 where the place refuses (R205, R238). -/
def bitRefused (k : Cap) (ps : List Nat) (b n : Nat) : Option Nat :=
  match capCheckBit k ps b n with
  | some d => some d
  | none => if (ps.contains permLD && !canRead b) || (ps.contains permST && !canWrite b) then some 0 else none

/-- A core whose register g`n` has gone on by `x`, modulo 2^32. -/
def stepG (n x : Nat) (k : Cpu) : Cpu := withG n (sget 0 k.g n % 2 ^ 32 + x) k

/-! ### Wake -/

/-- The fields that the start of a wake writes (R444, R447). -/
def wakeFields : List (Fld × Nat) :=
  [PWR_STAT_BUSY, PWR_WAKECNT_COUNT, PWR_WAKE_SRC, PWR_WAKE_INDEX, PWR_WAKE_FROM, PWR_WAKE_DEFERRED, PWR_WAKE_LO_LINE, PWR_WAKE_LO_DOT,
    PWR_WAKE_HI_FRAME, PWR_DEFER_DOMAINS].map (fun F => (F, 0))

/-- A wake of source `src` and index `idx` has begun in the present dot for the domains `ds` (R444, R447). -/
def wakeBegins (src idx : Nat) (ds : List Nat) (s t : State) : Prop :=
  fget PWR_STAT_BUSY 0 t = 1 ∧ fget PWR_WAKECNT_COUNT 0 t = min (fget PWR_WAKECNT_COUNT 0 s + 1) (2 ^ 32 - 1) ∧ fget PWR_WAKE_SRC 0 t = src % 16
    ∧ fget PWR_WAKE_INDEX 0 t = idx % 2 ^ 10 ∧ fget PWR_WAKE_FROM 0 t = fget PWR_STAT_STATE 0 s % 8 ∧ fget PWR_WAKE_DEFERRED 0 t = 0
    ∧ fget PWR_WAKE_LO_LINE 0 t = s.pos.line % 2 ^ 12 ∧ fget PWR_WAKE_LO_DOT 0 t = s.pos.dot % 2 ^ 14
    ∧ fget PWR_WAKE_HI_FRAME 0 t = s.pos.frame % 2 ^ 32 ∧ fget PWR_DEFER_DOMAINS 0 t = 0
    ∧ t.pwr = { s.pwr with
        waking := true, waiting := ds, first := s.time + (if fget PWR_STAT_STATE 0 s = 3 then 401 else 1)
        reload := if fget PWR_STAT_STATE 0 s = 2 ∨ fget PWR_STAT_STATE 0 s = 3 then .due else s.pwr.reload }

/-! ### The audio block -/

/-- The fields that a formed sample shows when it takes effect (R352, R356, R360, R362, R364). -/
def publishable : List Fld :=
  [IN_VAL_SAMPLE, TAP_VAL_SAMPLE, XP_NODE_CURRENT, VC_STAT_POS, VC_STAT_ACTIVE, MTR_MS_MS, MTR_RMS_RMS, MTR_PEAK_PEAK, MTR_STAT_ABOVE]

/-- The sample that waits to take effect names only fields that a sample shows. -/
def audioFormed (s : State) : Prop := ∀ e ∈ s.aud.next.fields, e.1 ∈ publishable

end Sys2Proof.Machine
end

