-- ==== Sys2Proof/Certificates/Slice0/Obligations.lean ====
section
/-! DEFINITION. The statements for the provers: what the device's rules promise of its commands. -/

open Sys2Proof Sys2Proof.Machine

/-- For every command c, every list of commands behind it and every state, a step with c at the front of the queue answers exactly
what exec of c answers on the state whose queue holds the commands behind it. On an empty queue a step is one dot of the device
itself (the model's own choice, notes/assumptions/1.md). (00_scope.md R12, 95_what_each_step_holds.md) -/
def Obligations.FrontCommandIsExecuted : Prop :=
  (∀ (c : Instr) (rest : List Instr) (s : State),
    step { s with pending := c :: rest } = exec c { s with pending := rest })
  ∧ (∀ s : State, s.pending = [] → step s = .next (tick s))

/-- For every command with any operands and every state, exec answers a next state: no command of this device ends in a fault or a
refusal, whatever the registers, the memories and the queues hold. A command whose conditions do not hold is turned away by an
answer, a refusal bit or no effect, and the device goes on. (00_scope.md R5, R12, 98_reader.md) -/
def Obligations.EveryCommandAnswersNext : Prop :=
  ∀ (c : Instr) (s : State), ∃ t, exec c s = .next t

/-- From every state whose memory is in its canonical form (addresses strictly rising, no byte of zero listed), whatever command
stands at the front of the queue, and also where the queue is empty and the device runs its next dot, a step that answers a next
state answers one whose memory is in that form again. Equal memories therefore stay equal data along every run. (11_memory_dma.md
R276, R284, 16_storage.md R391) -/
def Obligations.MemoryStaysCanonical : Prop :=
  ∀ s t : State, Memory.wf s.mem = true → step s = .next t → Memory.wf t.mem = true

/-- In every step, of any command and of the device's own next dot, the part that the device is (PL-9648 or PL-9624, with or without
the T suffix) stays what it is, resets included, and the queue afterwards is the queue before without its front: no command is
lost, repeated or put in by the device. (00_scope.md R7, 19_startup_test.md R469, 19_startup_test.md R486) -/
def Obligations.IdentityAndQueueKept : Prop :=
  ∀ s t : State, step s = .next t → t.part = s.part ∧ t.tscreen = s.tscreen ∧ t.pending = s.pending.tail

/-- At reset the frame number is 0 and the position 0:0:0; the geometry in effect is 2,000 dots per line and 200 lines per frame, with
k = 4 and D = 16; all four regions count as STOPPED; no context word is set, and no effect, crossing, event, report or record
waits; the memory lists nothing and is in canonical form. Host core 0 holds capability registers with tags and the root PLL is not
locked. (01_sweep.md R22, R24, R43, 16_storage.md R391, 19_startup_test.md R470, 09_capabilities_exceptions.md R242) -/
def Obligations.ResetState : Prop :=
  State.reset.pos = ⟨0, 0, 0⟩ ∧ dotsEff State.reset = 2000 ∧ linesEff State.reset = 200
  ∧ fget SWP_GEOM_EFF1_K 0 State.reset = 4 ∧ fget SWP_GEOM_EFF1_FRAMES 0 State.reset = 16
  ∧ allStopped State.reset = true ∧ fget SWP_STATUS_PLL_LOCK 0 State.reset = 0
  ∧ State.reset.mem = [] ∧ Memory.wf State.reset.mem = true ∧ State.reset.pending = []
  ∧ State.reset.ctx = [] ∧ State.reset.due = [] ∧ State.reset.cross = [] ∧ State.reset.evs = [] ∧ State.reset.recs = [] ∧ State.reset.flt.reports = []
  ∧ (sget Cap.none (cpu 0 State.reset).c 0).tag = true

/-- DEVICE_RESET gives the reset state but for what is not volatile. PSU_EN_HIGH, INTERNAL_RESET_RELEASE and SWEEP_START lead from
stage to stage of the start sequence and change nothing out of turn; a lock retry changes nothing. SWEEP_START sets PLL_LOCK,
issues LINE_START and FRAME_START and lets the domains start from the next dot on, and no other register than PLL_LOCK and
PWR_STAT.BUSY changes. SWP_PLL stops the sweep, clears PLL_LOCK, sets the fault bit of source 0x100 and counts the fault, unless
the reaction entry calls for a chip reset, which leaves source 0x100 in FLT_LASTRST. PLL_RELOCK sets PLL_LOCK and nothing else.
(19_startup_test.md R468, R470, R471, 01_sweep.md R21, R24, 15_faults.md R386, R388) -/
def Obligations.StartAndReset : Prop :=
  ∀ s : State,
  completes .deviceReset s (fun t =>
    t = { State.reset with
          part := s.part, tscreen := s.tscreen, fresh := s.fresh, pending := s.pending, mem := t.mem, poison := t.poison,
          soft := t.soft, nand := { NandH.init with
            targets := s.nand.targets, spb := s.nand.spb, formatted := s.nand.formatted, sealed := s.nand.sealed, data := s.nand.data,
            blocks := s.nand.blocks, used := s.nand.used, wearAll := s.nand.wearAll, wear := s.nand.wear, low := s.nand.low,
            sectors := s.nand.sectors, left := s.nand.left, reserve := s.nand.reserve, bad := s.nand.bad } }
    ∧ (∀ a, mget a t = if inStore a then mget a s else 0)
    ∧ (∀ w, w ∈ t.poison ↔ w ∈ s.poison ∧ inStore (8 * w) = true) ∧ (∀ w, w ∈ t.soft ↔ w ∈ s.soft ∧ inStore (8 * w) = true))
  ∧ (s.swp.stage = .supplies → exec .psuEnHigh s = .next { s with swp := { s.swp with stage := .held } })
  ∧ (s.swp.stage ≠ .supplies → ignored .psuEnHigh s)
  ∧ (s.swp.stage = .held → exec .internalResetRelease s = .next { s with swp := { s.swp with stage := .locking } })
  ∧ (s.swp.stage ≠ .held → ignored .internalResetRelease s)
  ∧ ignored .pllLockRetry s
  ∧ (s.swp.stage = .locking → completes .sweepStart s (fun t =>
      t = { s with
        regs := t.regs, hits := t.hits, swp := { s.swp with stage := .running }, regs0 := t.regs, ctx0 := s.ctx,
        pwr := { s.pwr with waking := true, initial := true, waiting := t.pwr.waiting, first := s.time + 1 },
        fab := { s.fab with now := nput 2 (nput 3 s.fab.now) } }
      ∧ onlyFields [(SWP_STATUS_PLL_LOCK, 0), (PWR_STAT_BUSY, 0)] s t ∧ fget SWP_STATUS_PLL_LOCK 0 t = 1 ∧ fget PWR_STAT_BUSY 0 t = 1
      ∧ ∀ d, d ∈ t.pwr.waiting ↔ d < 24 ∧ domainOn d s = false ∧ maskedOff d s = false ∧ domainUsed d s = true))
  ∧ (s.swp.stage ≠ .locking → ignored .sweepStart s)
  ∧ (s.swp.stage = .running → (reaction 0x100 s).testBit 5 = false → completes .swpPll s (fun t =>
      t = { s with regs := t.regs, hits := t.hits, flt := t.flt, swp := { s.swp with stage := .lost } }
      ∧ fget SWP_STATUS_PLL_LOCK 0 t = 0 ∧ fbitAt FLT_PKG_BITS 0 0 t = true ∧ t.flt.reports = s.flt.reports
      ∧ fget FLT_TOTAL_COUNT 0 t = (fget FLT_TOTAL_COUNT 0 s + 1) % 2 ^ 32
      ∧ onlyRegs [SWP_STATUS_PLL_LOCK, FLT_PKG_BITS, FLT_TOTAL_COUNT, FLT_STAT_LOST, FLT_STAT_FROZEN, FLT_STAT_ERR, TRAIL_W, FLT_TRAIL_COUNT,
          FLT_TRAIL_NEXT] s t))
  ∧ (s.swp.stage = .running → (reaction 0x100 s).testBit 5 = true → completes .swpPll s (fun t =>
      t.pos = ⟨0, 0, 0⟩ ∧ t.swp = Sweep.init ∧ fget FLT_LASTRST_SOURCE 0 t = 0x100 ∧ fget FLT_LASTRST_VALID 0 t = 1))
  ∧ (s.swp.stage = .lost → completes .pllRelock s (fun t =>
      t = { s with regs := t.regs, hits := t.hits, swp := { s.swp with stage := .relocked } }
      ∧ onlyFields [(SWP_STATUS_PLL_LOCK, 0)] s t ∧ fget SWP_STATUS_PLL_LOCK 0 t = 1))

/-- GEOM_COMMIT with a failing condition sets GEOM_REJECT, writes the first failing condition to REJECT_WHY, reports SWP_GEOM (source
0x101) and changes nothing else. With every staged field zero and no failing condition it sets GEOM_DONE, and no other field
changes. Otherwise the four staged values are copied and wait in place of any that waited; no register changes. At a frame
boundary the values that wait take effect, a zero among them leaving its quantity as it was (R26, R27), GEOM_DONE is set, the
phase origin moves to the dot, and the frame number does not change; away from a boundary nothing happens. (R27) -/
def Obligations.GeometryCommit : Prop :=
  ∀ s : State,
  (geomWhy (stagedGeom s) s ≠ 0 → completes .geomCommit s (fun t =>
    t = { s with regs := t.regs, hits := t.hits, flt := t.flt } ∧ reported 0x101 0 0 s t
    ∧ onlyFields [(SWP_STATUS_GEOM_REJECT, 0), (SWP_STATUS_REJECT_WHY, 0)] s t
    ∧ fget SWP_STATUS_GEOM_REJECT 0 t = 1 ∧ fget SWP_STATUS_REJECT_WHY 0 t = geomWhy (stagedGeom s) s))
  ∧ (geomWhy (stagedGeom s) s = 0 → stagedGeom s = ⟨0, 0, 0, 0⟩ → completes .geomCommit s (fun t =>
    t = { s with regs := t.regs, hits := t.hits, swp := { s.swp with waiting := none } }
    ∧ onlyFields [(SWP_STATUS_GEOM_DONE, 0)] s t ∧ fget SWP_STATUS_GEOM_DONE 0 t = 1))
  ∧ (geomWhy (stagedGeom s) s = 0 → stagedGeom s ≠ ⟨0, 0, 0, 0⟩ →
    exec .geomCommit s = .next { s with swp := { s.swp with waiting := some (stagedGeom s) } })
  ∧ (allStopped s = false → geomWhy (stagedGeom s) s = 1)
  ∧ (allStopped s = true → fget SWP_CTRL_SYNC_MODE 0 s = 2 → geomWhy (stagedGeom s) s = 2)
  ∧ (∀ g, s.swp.waiting = some g → s.pos.line = 0 → s.pos.dot = 0 → completes .geomCommitEffect s (fun t =>
    t = { s with regs := t.regs, hits := t.hits, swp := { s.swp with waiting := none, origin := s.time, originLines := 0 } }
    ∧ fget SWP_GEOM_EFF0_DOTS 0 t = (if g.dots = 0 then fget SWP_GEOM_EFF0_DOTS 0 s else g.dots) % 2 ^ 14
    ∧ fget SWP_GEOM_EFF0_LINES 0 t = (if g.lines = 0 then fget SWP_GEOM_EFF0_LINES 0 s else g.lines) % 2 ^ 12
    ∧ fget SWP_GEOM_EFF1_K 0 t = (if g.k = 0 then fget SWP_GEOM_EFF1_K 0 s else g.k) % 2 ^ 8
    ∧ fget SWP_GEOM_EFF1_FRAMES 0 t = (if g.frames = 0 then fget SWP_GEOM_EFF1_FRAMES 0 s else g.frames) % 2 ^ 8
    ∧ fget SWP_STATUS_GEOM_DONE 0 t = 1
    ∧ onlyFields [(SWP_GEOM_EFF0_DOTS, 0), (SWP_GEOM_EFF0_LINES, 0), (SWP_GEOM_EFF1_K, 0), (SWP_GEOM_EFF1_FRAMES, 0), (SWP_LINE_DOTS_E, 0),
        (SWP_FRAME_LINES_E, 0), (SWP_AUDIO_K_E, 0), (SWP_DISP_FRAMES_E, 0), (SWP_STATUS_GEOM_DONE, 0)] s t))
  ∧ (¬(s.pos.line = 0 ∧ s.pos.dot = 0) → ignored .geomCommitEffect s)

/-- SYNC_MODE and REF_PORT that would change their field while a region is not STOPPED leave both fields and set MODE_REJECT. While
all four regions are STOPPED SYNC_MODE takes modes 0 to 2, REF_PORT every port, and nothing else changes. The reserved code 3
leaves the field and sets MODE_REJECT. At a frame boundary MODE_CHANGE_EFFECT puts the fields' values into effect: into follower
mode STATE becomes HOLDOVER, out of it FREE, and nothing is reported. (R36) -/
def Obligations.SyncMode : Prop :=
  ∀ s : State,
  (∀ m : Fin 4, m.val ≠ 3 → allStopped s = true → completes (.syncMode m) s (fun t =>
    t = { s with regs := t.regs } ∧ onlyFields [(SWP_CTRL_SYNC_MODE, 0), (SWP_CTRL_REF_PORT, 0)] s t
    ∧ fget SWP_CTRL_SYNC_MODE 0 t = m.val ∧ fget SWP_CTRL_REF_PORT 0 t = fget SWP_CTRL_REF_PORT 0 s % 4))
  ∧ (∀ m : Fin 4, m.val ≠ fget SWP_CTRL_SYNC_MODE 0 s → m.val ≠ 3 → allStopped s = false → completes (.syncMode m) s (fun t =>
    t = { s with regs := t.regs, hits := t.hits } ∧ onlyFields [(SWP_STATUS_MODE_REJECT, 0)] s t
    ∧ fget SWP_STATUS_MODE_REJECT 0 t = 1))
  ∧ completes (.syncMode 3) s (fun t => t = { s with regs := t.regs, hits := t.hits }
    ∧ onlyFields [(SWP_STATUS_MODE_REJECT, 0), (SWP_CTRL_REF_PORT, 0)] s t ∧ fget SWP_STATUS_MODE_REJECT 0 t = 1)
  ∧ (∀ p : Fin 4, allStopped s = true → fget SWP_CTRL_SYNC_MODE 0 s < 3 → completes (.refPort p) s (fun t =>
    t = { s with regs := t.regs } ∧ onlyFields [(SWP_CTRL_REF_PORT, 0)] s t ∧ fget SWP_CTRL_REF_PORT 0 t = p.val))
  ∧ (∀ p : Fin 4, p.val ≠ fget SWP_CTRL_REF_PORT 0 s → allStopped s = false → completes (.refPort p) s (fun t =>
    t = { s with regs := t.regs, hits := t.hits } ∧ onlyFields [(SWP_STATUS_MODE_REJECT, 0)] s t
    ∧ fget SWP_STATUS_MODE_REJECT 0 t = 1))
  ∧ (s.pos.line = 0 → s.pos.dot = 0 → completes .modeChangeEffect s (fun t =>
    t = { s with regs := t.regs, swp := t.swp, link := t.link } ∧ t.swp.mode = fget SWP_CTRL_SYNC_MODE 0 s
    ∧ t.swp.port = fget SWP_CTRL_REF_PORT 0 s ∧ t.swp.origin = s.swp.origin ∧ t.swp.waiting = s.swp.waiting
    ∧ (fget SWP_CTRL_SYNC_MODE 0 s = 2 → s.swp.mode ≠ 2 → fget SWP_STATUS_STATE 0 t = 3)
    ∧ (fget SWP_CTRL_SYNC_MODE 0 s ≠ 2 → s.swp.mode = 2 → fget SWP_STATUS_STATE 0 t = 0 ∧ fget SWP_PHASE_ERR_ERR 0 t = 0)
    ∧ (fget SWP_CTRL_SYNC_MODE 0 s ≠ 2 → s.swp.mode = 2 → fget LNK_STAT_TVALID 0 t = 0 ∧ fget LNK_STAT_HOPS 0 t = 1023)
    ∧ onlyFields [(SWP_STATUS_STATE, 0), (SWP_STATUS_STEP_PENDING, 0), (SWP_PHASE_ERR_ERR, 0), (LNK_STAT_TVALID, 0), (LNK_STAT_TPORT, 0),
        (LNK_STAT_HOPS, 0)] s t))
  ∧ (¬(s.pos.line = 0 ∧ s.pos.dot = 0) → ignored .modeChangeEffect s)

/-- Where the dot count has reached the line length, LINE_START begins the next line at dot 0, issues fabric event 0x0002 and moves
the context words one crossing on; where the line count has reached the frame length, FRAME_START begins line 0 of the next frame,
its number modulo 2^32, and issues event 0x0003. Otherwise both change nothing. Neither touches memory, the position of the legs
or the geometry. A read of SWP_NOW_LO answers line and dot and copies the frame number to SWP_NOW_HI, alone. STEP_ARM arms a
pending step only while all regions are STOPPED. The step, once armed, takes the master's geometry and frame number, stands at
F:0:0 and enters LOCKING with STEP_PENDING clear; unarmed it changes nothing. (00_scope.md R9, 01_sweep.md R23, R24, R33, R40,
R44) -/
def Obligations.LinesAndFrames : Prop :=
  ∀ s : State,
  (dotsEff s ≤ s.pos.dot → completes .lineStart s (fun t =>
    t.pos = ⟨s.pos.frame, s.pos.line + 1, 0⟩ ∧ t.time = s.time ∧ t.ctx1 = s.ctx ∧ t.ctx2 = s.ctx1 ∧ t.regs1 = s.regs ∧ 2 ∈ t.fab.now
    ∧ t.swp.originLines = s.swp.originLines + 1 ∧ t.mem = s.mem ∧ t.legs = s.legs ∧ dotsEff t = dotsEff s ∧ linesEff t = linesEff s
    ∧ onlyRegs [EVQ_HOLD_COUNT, TRAIL_W, LPE_BUSY_BUSY] s t))
  ∧ (s.pos.dot < dotsEff s → ignored .lineStart s)
  ∧ (linesEff s ≤ s.pos.line → completes .frameStart s (fun t =>
    t.pos = ⟨(s.pos.frame + 1) % 2 ^ 32, 0, s.pos.dot⟩ ∧ t.time = s.time ∧ 3 ∈ t.fab.now ∧ t.mem = s.mem ∧ t.legs = s.legs
    ∧ dotsEff t = dotsEff s ∧ linesEff t = linesEff s
    ∧ onlyRegs [SWP_STATUS_STATE, LNK_FLATE_COUNT, LNK_FMATCH_COUNT, LNK_FRX_COUNT, LNK_FTX_COUNT, LNK_PSTAT_CAND, LNK_PTHOPS_VALID,
        LNK_PTHOPS_HOPS, LNK_PFRAME_RX, LNK_PFRAME_TX, LNK_STAT_HOPS, LNK_STAT_TPORT, LNK_STAT_TVALID] s t))
  ∧ (s.pos.line < linesEff s → ignored .frameStart s)
  ∧ completes .swpNowLoRead s (fun t => t = { s with regs := t.regs, resp := t.resp }
    ∧ t.resp = ⟨BitVec.ofNat 32 (s.pos.line * 2 ^ 14 + s.pos.dot), false⟩
    ∧ onlyFields [(SWP_NOW_HI_FRAME, 0)] s t ∧ fget SWP_NOW_HI_FRAME 0 t = s.pos.frame % 2 ^ 32)
  ∧ (fbit SWP_STATUS_STEP_PENDING 0 s = true → allStopped s = true →
    exec .stepArm s = .next { s with swp := { s.swp with armed := true } })
  ∧ (fbit SWP_STATUS_STEP_PENDING 0 s = false ∨ allStopped s = false → ignored .stepArm s)
  ∧ (∀ (g : Geom) (f : Nat) (at_ : Int), stepFrame s = some (g, f, at_) → s.swp.armed = true → completes .followerStep s (fun t =>
    t.pos = ⟨f, 0, 0⟩ ∧ t.time = s.time ∧ t.swp.armed = false ∧ t.swp.origin = s.time ∧ t.mem = s.mem
    ∧ (s.swp.mode = 2 → fget SWP_CTRL_SYNC_MODE 0 s = 2 → fget SWP_STATUS_STATE 0 t = 1 ∧ fget SWP_STATUS_STEP_PENDING 0 t = 0)
    ∧ (s.swp.waiting = none → dotsEff t = g.dots % 2 ^ 14 ∧ linesEff t = g.lines % 2 ^ 12)))
  ∧ (s.swp.armed = false → ignored .followerStep s)

/-- REGISTER_WRITE outside the device window, off a word boundary, or in the block of a disabled cluster or absent core, ends in a bus
error and changes nothing else; at every register of a present block it completes without a bus error. In SWP_LINE it writes the
staged DOTS and no other field. In SWP_STATUS it clears exactly the W1C bits written 1, except a bit that the device set in the
present dot, and leaves the RO fields. In LEG_CFG of leg 0, while the leg's region is in RUN, no field changes, and CFG_REFUSED is
set where the word would change one or SAFE = 3. While the region counts as STOPPED every field takes its part of the word but
SAFE = 3, which leaves SAFE and sets CFG_REFUSED. The writes of these three registers touch no other field, no memory and no
engine. (00_scope.md R5, R12, R500, 01_sweep.md R43, 02_legs_pwm.md R72, R73) -/
def Obligations.RegisterAccess : Prop :=
  ∀ (s : State) (v : Word),
  (∀ a : Nat, (a % 4 ≠ 0 ∨ regionOf a ≠ .device) → exec (.registerWrite a v) s = .next (busError s))
  ∧ (∀ a : Nat, blockPresent a s = false → exec (.registerWrite a v) s = .next (busError s))
  ∧ (∀ a : Nat, a % 4 = 0 → regionOf a = .device → byteMemory a = false → blockPresent a s = true → (findReg a).isSome = true →
    completes (.registerWrite a v) s (fun t => t.resp = ⟨0, false⟩))
  ∧ completes (.registerWrite 0x40000004 v) s (fun t => t = { s with regs := t.regs, resp := ⟨0, false⟩ }
    ∧ onlyFields [(SWP_LINE_DOTS, 0)] s t ∧ fget SWP_LINE_DOTS 0 t = v.toNat % 2 ^ 14)
  ∧ completes (.registerWrite 0x40000014 v) s (fun t => t = { s with regs := t.regs, resp := ⟨0, false⟩ }
    ∧ onlyFields [(SWP_STATUS_GEOM_DONE, 0), (SWP_STATUS_GEOM_REJECT, 0), (SWP_STATUS_MODE_REJECT, 0)] s t
    ∧ ∀ p ∈ [(8, SWP_STATUS_GEOM_DONE), (7, SWP_STATUS_GEOM_REJECT), (6, SWP_STATUS_MODE_REJECT)], fget p.2 0 s < 2 →
        fget p.2 0 t = if v.getLsbD p.1 = true ∧ held p.2.id 0 s = 0 then 0 else fget p.2 0 s)
  ∧ (regionRun 0 s = true → completes (.registerWrite 0x41000004 v) s (fun t =>
    t = { s with regs := t.regs, hits := t.hits, resp := ⟨0, false⟩ } ∧ onlyFields [(LEG_STAT_CFG_REFUSED, 0)] s t
    ∧ if v.toNat / 2 ^ 16 = fget LEG_CFG_TRIP_EN 0 s ∧ v.toNat / 64 % 2 = fget LEG_CFG_CONV 0 s ∧ v.toNat / 16 % 4 = fget LEG_CFG_SAFE 0 s
          ∧ v.toNat / 8 % 2 = fget LEG_CFG_TRIP_MODE 0 s ∧ v.toNat / 2 % 4 = fget LEG_CFG_COMMIT_AT 0 s ∧ v.toNat % 2 = fget LEG_CFG_MODE 0 s
          ∧ v.toNat / 16 % 4 ≠ 3
      then fget LEG_STAT_CFG_REFUSED 0 t = fget LEG_STAT_CFG_REFUSED 0 s else fget LEG_STAT_CFG_REFUSED 0 t = 1))
  ∧ (regionRun 0 s = false → completes (.registerWrite 0x41000004 v) s (fun t =>
    t = { s with regs := t.regs, hits := t.hits, resp := ⟨0, false⟩ }
    ∧ onlyFields [(LEG_CFG_TRIP_EN, 0), (LEG_CFG_CONV, 0), (LEG_CFG_SAFE, 0), (LEG_CFG_TRIP_MODE, 0), (LEG_CFG_COMMIT_AT, 0), (LEG_CFG_MODE, 0),
        (LEG_STAT_CFG_REFUSED, 0)] s t
    ∧ fget LEG_CFG_TRIP_EN 0 t = v.toNat / 2 ^ 16 ∧ fget LEG_CFG_CONV 0 t = v.toNat / 64 % 2
    ∧ fget LEG_CFG_TRIP_MODE 0 t = v.toNat / 8 % 2 ∧ fget LEG_CFG_COMMIT_AT 0 t = v.toNat / 2 % 4 ∧ fget LEG_CFG_MODE 0 t = v.toNat % 2
    ∧ (v.toNat / 16 % 4 = 3 → fget LEG_CFG_SAFE 0 t = fget LEG_CFG_SAFE 0 s ∧ fget LEG_STAT_CFG_REFUSED 0 t = 1)
    ∧ (v.toNat / 16 % 4 ≠ 3 → fget LEG_CFG_SAFE 0 t = v.toNat / 16 % 4 ∧ fget LEG_STAT_CFG_REFUSED 0 t = fget LEG_STAT_CFG_REFUSED 0 s)))

/-- LEG_PSTART of a leg that counts sets COUNT to 0 and issues its event unless the commit made there stops the carrier; LEG_MID acts
once in a period and issues its event. A compare that is armed and not ahead fires: it is disarmed, takes its fine part to REF (0
when late), and a late one sets LATE and issues the late event, once in a period; one that equals PERIOD never fires. A pending
activation makes its pad active and is no longer pending. A leg that does not count (its region not in RUN or PERIOD 0) ignores
all of these but the dead times. Other legs, memory, position and every other register stay as they are. (02_legs_pwm.md R45, R47,
R50, R51, R53, R55, R58, R71, 04_loop_engine.md R114) -/
def Obligations.LegCarrier : Prop :=
  ∀ (s : State) (l : Fin 144),
  (legCounts l s = true → completes (.legPstart l) s (fun t =>
    t = { s with regs := t.regs, hits := t.hits, legs := t.legs, due := t.due, fab := t.fab, flt := t.flt, ctx := t.ctx }
    ∧ fget LEG_COUNT_COUNT l t = 0 ∧ (fget LEG_PERIOD_PERIOD_E l t ≠ 0 → 0x100 + 4 * l.val ∈ t.fab.now)
    ∧ onlyRegs ([LEG_COUNT_COUNT, LEG_STAT_PEND, LEG_STAT_COMMIT_DONE, LEG_STAT_SHADOW_REJECT, LEG_STAT_REJECT_WHY, LEG_STAT_TRIPPED,
        LEG_STAT_TRIP_SRC] ++ groupLG.map Prod.snd) s t
    ∧ ∀ j, j ∉ tripGroup l s → leg j t = leg j s))
  ∧ (legCounts l s = false → ignored (.legPstart l) s)
  ∧ (legCounts l s = true → (leg l s).midDone = false → completes (.legMid l) s (fun t =>
    t = { s with regs := t.regs, hits := t.hits, legs := t.legs, due := t.due, fab := t.fab, flt := t.flt, ctx := t.ctx }
    ∧ (leg l t).midDone = true ∧ 0x101 + 4 * l.val ∈ t.fab.now ∧ (∀ j, j ≠ l.val → leg j t = leg j s)
    ∧ (fbitAt LEG_CFG_COMMIT_AT l 1 s = false → t.regs = s.regs ∧ t.ctx = s.ctx)
    ∧ onlyRegs ([LEG_COUNT_COUNT, LEG_STAT_PEND, LEG_STAT_COMMIT_DONE, LEG_STAT_SHADOW_REJECT, LEG_STAT_REJECT_WHY]
        ++ groupLG.map Prod.snd) s t))
  ∧ (legCounts l s = false ∨ (leg l s).midDone = true → ignored (.legMid l) s)
  ∧ (legCounts l s = true → (leg l s).armA = true → (leg l s).pulse ≠ .none →
    compareDist (fget LEG_COUNT_COUNT l s) (fget LEG_CMPA_DOTS_E l s) < 2 ^ 31 →
    fget LEG_CMPA_DOTS_E l s ≠ fget LEG_PERIOD_PERIOD_E l s → completes (.compareFire l .a) s (fun t =>
      t = { s with regs := t.regs, hits := t.hits, legs := t.legs, due := t.due, fab := t.fab }
      ∧ (leg l t).armA = false ∧ (leg l t).firedA = true ∧ (∀ j, j ≠ l.val → leg j t = leg j s)
      ∧ onlyFields [(LEG_STAT_LATE, l)] s t
      ∧ (if compareDist (fget LEG_COUNT_COUNT l s) (fget LEG_CMPA_DOTS_E l s) = 0
         then (leg l t).evA = some (fget LEG_FINE_CMPA_F_E l s) ∧ t.regs = s.regs
         else (leg l t).evA = some 0 ∧ fget LEG_STAT_LATE l t = 1 ∧ (leg l t).lateDone = true
            ∧ (if (leg l s).lateDone then t.fab = s.fab else issued (0x102 + 4 * l.val) s t))))
  ∧ (legCounts l s = true → (leg l s).armB = true →
    compareDist (fget LEG_COUNT_COUNT l s) (fget LEG_CMPB_DOTS_E l s) < 2 ^ 31 →
    fget LEG_CMPB_DOTS_E l s ≠ fget LEG_PERIOD_PERIOD_E l s → completes (.compareFire l .b) s (fun t =>
      t = { s with regs := t.regs, hits := t.hits, legs := t.legs, due := t.due, fab := t.fab }
      ∧ (leg l t).armB = false ∧ (leg l t).firedB = true ∧ (∀ j, j ≠ l.val → leg j t = leg j s)
      ∧ onlyFields [(LEG_STAT_LATE, l)] s t
      ∧ (if compareDist (fget LEG_COUNT_COUNT l s) (fget LEG_CMPB_DOTS_E l s) = 0
         then (leg l t).evB = some (fget LEG_FINE_CMPB_F_E l s) ∧ t.regs = s.regs
         else (leg l t).evB = some 0 ∧ fget LEG_STAT_LATE l t = 1 ∧ (leg l t).lateDone = true
            ∧ (if (leg l s).lateDone then t.fab = s.fab else issued (0x102 + 4 * l.val) s t))))
  ∧ (legCounts l s = false → ignored (.compareFire l .a) s ∧ ignored (.compareFire l .b) s)
  ∧ (fget LEG_CMPA_DOTS_E l s = fget LEG_PERIOD_PERIOD_E l s → ignored (.compareFire l .a) s)
  ∧ (fget LEG_CMPB_DOTS_E l s = fget LEG_PERIOD_PERIOD_E l s → ignored (.compareFire l .b) s)
  ∧ (clusterOn (l / 6) s = false → ∀ p, ignored (.deadTimeExpiry l p) s)
  ∧ (clusterOn (l / 6) s = true → (leg l s).pendH ≠ none → completes (.deadTimeExpiry l .high) s (fun t => t = { s with regs := t.regs, legs := t.legs }
    ∧ fget LEG_PADS_H l t = 1 ∧ leg l t = { leg l s with pendH := none } ∧ (∀ j, j ≠ l.val → leg j t = leg j s)
    ∧ onlyFields [(LEG_PADS_H, l)] s t))
  ∧ (clusterOn (l / 6) s = true → (leg l s).pendL ≠ none → completes (.deadTimeExpiry l .low) s (fun t => t = { s with regs := t.regs, legs := t.legs }
    ∧ fget LEG_PADS_L l t = 1 ∧ leg l t = { leg l s with pendL := none } ∧ (∀ j, j ≠ l.val → leg j t = leg j s)
    ∧ onlyFields [(LEG_PADS_L, l)] s t))

/-- LEG_SHADOW_WRITE gives each field of the shadow register it names its bits of the word, or of the 128-bit write's four words, sets
PEND, and changes nothing else: no value in effect, no other field of the leg, no other leg. LEG_COMMIT_NOW sets a commit for the
next dot and nothing else. That commit clears PEND; where a check of R62 fails it sets SHADOW_REJECT, writes the first failing
check to REJECT_WHY, reports, and changes nothing else; where none fails every value of group LG in effect becomes its shadow,
COMMIT_DONE is set, no report is made, and beside those fields only COUNT and the gate state of the same leg can change. In a
disabled cluster both commands answer with a bus error and change nothing. (02_legs_pwm.md R57, R58, R61, R62, R73, 00_scope.md
R5) -/
def Obligations.LegCommits : Prop :=
  ∀ (s : State) (l : Fin 144),
  (∀ (r : Fin 7) (v : Word), clusterOn (l / 6) s = true → completes (.legShadowWrite l (.reg r v)) s (fun t =>
    t = { s with regs := t.regs, hits := t.hits } ∧ fget LEG_STAT_PEND l t = 1
    ∧ onlyFields ((LEG_STAT_PEND, l.val) :: (legShadowFields r).map (fun e => (e.1, l.val))) s t
    ∧ ∀ e ∈ legShadowFields r, fget e.1 l t = v.toNat / 2 ^ e.2 % 2 ^ e.1.w))
  ∧ (∀ p a b f : Word, clusterOn (l / 6) s = true → completes (.legShadowWrite l (.quad p a b f)) s (fun t => t = { s with regs := t.regs, hits := t.hits }
    ∧ onlyFields [(LEG_PERIOD_PERIOD, l), (LEG_CMPA_DOTS, l), (LEG_CMPB_DOTS, l), (LEG_FINE_CMPA_F, l), (LEG_FINE_CMPB_F, l),
        (LEG_STAT_PEND, l)] s t
    ∧ fget LEG_PERIOD_PERIOD l t = p.toNat ∧ fget LEG_CMPA_DOTS l t = a.toNat ∧ fget LEG_CMPB_DOTS l t = b.toNat
    ∧ fget LEG_FINE_CMPA_F l t = f.toNat % 32 ∧ fget LEG_FINE_CMPB_F l t = f.toNat / 2 ^ 8 % 32 ∧ fget LEG_STAT_PEND l t = 1))
  ∧ (clusterOn (l / 6) s = true → exec (.legCommitNow l) s = .next { s with due := s.due ++ [(s.time + 1, .legCommit l)] })
  ∧ (clusterOn (l / 6) s = false → (∀ w, exec (.legShadowWrite l w) s = .next { s with resp := ⟨0, true⟩ })
    ∧ exec (.legCommitNow l) s = .next { s with resp := ⟨0, true⟩ })
  ∧ (legCheck l s ≠ 0 → fget LEG_STAT_SHADOW_REJECT l (legCommit l s) = 1
    ∧ fget LEG_STAT_REJECT_WHY l (legCommit l s) = legCheck l s ∧ fget LEG_STAT_PEND l (legCommit l s) = 0
    ∧ reported (csrc (l / 6) 0) l (legCheck l s) s (legCommit l s)
    ∧ onlyFields [(LEG_STAT_SHADOW_REJECT, l), (LEG_STAT_REJECT_WHY, l), (LEG_STAT_PEND, l)] s (legCommit l s)
    ∧ legCommit l s = { s with regs := (legCommit l s).regs, hits := (legCommit l s).hits, flt := (legCommit l s).flt })
  ∧ (legCheck l s = 0 → fget LEG_STAT_COMMIT_DONE l (legCommit l s) = 1 ∧ fget LEG_STAT_PEND l (legCommit l s) = 0
    ∧ (∀ p ∈ groupLG, fget p.2 l (legCommit l s) = fget p.1 l s % 2 ^ p.2.w)
    ∧ legCommit l s = { s with regs := (legCommit l s).regs, hits := (legCommit l s).hits, legs := (legCommit l s).legs, due := (legCommit l s).due }
    ∧ onlyFields (([LEG_COUNT_COUNT, LEG_STAT_PEND, LEG_STAT_COMMIT_DONE] ++ groupLG.map Prod.snd).map (fun F => (F, l.val))) s (legCommit l s)
    ∧ ∀ j, j ≠ l.val → leg j (legCommit l s) = leg j s)

/-- FORCE_TRIP trips the leg, with its partner in a three-level pair, with source 16: TRIPPED, the source where none is recorded, the
kept trip; a leg that was halted or switched issues LEG_TRIP 2 dots later, and its pads move to the safe state, inactive 2 dots
later (an inner pad of a pair after the even leg's DT_HL too), active after 2 dots and the dead time. TRIP_LINE_ASSERT trips those
of the same legs that are not in TRIPPED, with the line's number, where the line is enabled and the leg named is not in TRIPPED;
else nothing. TRIPPED_CLEAR clears TRIPPED and sets the source to 31, unless an enabled line is asserted or the bit was set in
this dot: then it changes nothing. In a disabled cluster FORCE_TRIP and TRIPPED_CLEAR answer with a bus error.
TRIP_PIN_FILTER_PASS, in the last of the filter's dots, changes the line's pin contribution 3 dots later without a filter, else 4.
Pads move through effects of later dots; no other register, leg or memory changes. (02_legs_pwm.md R66, R67, R68, R69, R70, R71,
00_scope.md R5, R13) -/
def Obligations.LegTrips : Prop :=
  ∀ (s : State) (l : Fin 144),
  (clusterOn (l / 6) s = true → completes (.forceTrip l) s (fun t =>
    t = { s with regs := t.regs, hits := t.hits, legs := t.legs, due := t.due } ∧ onlyFields (tripFields (tripGroup l s)) s t
    ∧ (∀ j ∈ tripGroup l s, tookTrip j 16 s t) ∧ ∀ j, j ∉ tripGroup l s → leg j t = leg j s))
  ∧ (clusterOn (l / 6) s = false → exec (.forceTrip l) s = .next { s with resp := ⟨0, true⟩ }
    ∧ exec (.trippedClear l) s = .next { s with resp := ⟨0, true⟩ })
  ∧ (∀ line : Fin 16, fbitAt LEG_CFG_TRIP_EN (tripLeg l s) line s = true → legState l s ≠ 2 → completes (.tripLineAssert l line) s (fun t =>
    t = { s with regs := t.regs, hits := t.hits, legs := t.legs, due := t.due }
    ∧ onlyFields (tripFields ((tripGroup l s).filter (fun j => legState j s != 2))) s t
    ∧ (∀ j ∈ tripGroup l s, legState j s ≠ 2 → tookTrip j line s t)
    ∧ ∀ j, j ∉ tripGroup l s ∨ legState j s = 2 → leg j t = leg j s))
  ∧ (∀ line : Fin 16, fbitAt LEG_CFG_TRIP_EN (tripLeg l s) line s = false ∨ legState l s = 2 → ignored (.tripLineAssert l line) s)
  ∧ (clusterOn (l / 6) s = true → tripAsserted l s = none → held LEG_STAT_TRIPPED.id l s = 0 → completes (.trippedClear l) s (fun t =>
    t = { s with regs := t.regs } ∧ onlyFields (tripFields [l.val]) s t ∧ fget LEG_STAT_TRIPPED l t = 0 ∧ fget LEG_STAT_TRIP_SRC l t = 31))
  ∧ (clusterOn (l / 6) s = true → tripAsserted l s ≠ none ∨ held LEG_STAT_TRIPPED.id l s ≠ 0 → ignored (.trippedClear l) s)
  ∧ (∀ (n : Fin 8) (low : Bool), exec (.tripPinFilterPass n low) s = .next { s with
      due := s.due ++ [(s.time + (if tripFilter n s = 0 then 3 else 4), .tripPin n low)] })

/-- CONVERTER_START of a converter that exists is refused with CFG_REFUSED while its region counts as STOPPED, ignored where the
converter runs or waits, and otherwise puts it in the region's start queue with WAIT set, at the end where all that wait there
came in earlier dots. CONVERTER_RELEASE takes the head of the queue: RUN set, WAIT clear, the dot kept for the stagger; each of
its legs that counts and has no trip kept or asserted turns the pad that REF does not call for inactive 2 dots later; with an
empty queue it does nothing. CONVERTER_STOP takes the converter out of the queue and clears RUN and WAIT; both pads of each leg of
one that ran become inactive 2 dots later (an inner pad of a three-level pair after the even leg's DT_HL too) and their pending
activations are cancelled. The other converter of the cluster, other legs and every other register stay. Converter 1 of a
three-level cluster ignores both commands; in a disabled cluster both answer with a bus error. (02_legs_pwm.md R63, R64, R65, R69,
R71, 00_scope.md R5, 05_fabric_timers_image.md R142) -/
def Obligations.Converters : Prop :=
  ∀ (s : State),
  (∀ (c : Fin 24) (k : Fin 2), clusterOn c s = false → exec (.converterStart c k) s = .next { s with resp := ⟨0, true⟩ }
    ∧ exec (.converterStop c k) s = .next { s with resp := ⟨0, true⟩ })
  ∧ (∀ (c : Fin 24) (k : Fin 2), clusterOn c s = true → convAbsent c k s = false → regionStopped (c / 6) s = true → completes (.converterStart c k) s (fun t =>
    t = { s with regs := t.regs, hits := t.hits } ∧ onlyFields [(CLG_CONV_CFG_REFUSED, c)] s t ∧ fget CLG_CONV_CFG_REFUSED c t = 1))
  ∧ (∀ (c : Fin 24) (k : Fin 2), clusterOn c s = true → convAbsent c k s = false → regionStopped (c / 6) s = false → fbitAt CLG_CONV_RUN c k s = false →
    fbitAt CLG_CONV_WAIT c k s = false → completes (.converterStart c k) s (fun t =>
      t = { s with regs := t.regs, hits := t.hits, startq := t.startq } ∧ onlyFields [(CLG_CONV_WAIT, c)] s t
      ∧ fbitAt CLG_CONV_WAIT c k t = true ∧ fbitAt CLG_CONV_WAIT c (1 - k.val) t = fbitAt CLG_CONV_WAIT c (1 - k.val) s
      ∧ (∀ m, m ≠ c.val / 6 → startQ m t = startQ m s)
      ∧ ((∀ e ∈ (startQ (c / 6) s).items, e.2 < s.time) →
          (startQ (c / 6) t).items = (startQ (c / 6) s).items ++ [(2 * (c.val % 6) + k.val, s.time)])
      ∧ (∀ e, e ∈ (startQ (c / 6) t).items ↔ e ∈ (startQ (c / 6) s).items ∨ e = (2 * (c.val % 6) + k.val, s.time))))
  ∧ (∀ (c : Fin 24) (k : Fin 2), clusterOn c s = true → regionStopped (c / 6) s = false → fbitAt CLG_CONV_RUN c k s = true ∨ fbitAt CLG_CONV_WAIT c k s = true →
    ignored (.converterStart c k) s)
  ∧ (∀ (c : Fin 24) (k : Fin 2), clusterOn c s = true → convAbsent c k s = true → ignored (.converterStart c k) s ∧ ignored (.converterStop c k) s)
  ∧ (∀ (c : Fin 24) (k : Fin 2), clusterOn c s = true → convAbsent c k s = false → completes (.converterStop c k) s (fun t =>
      t = { s with regs := t.regs, startq := t.startq, legs := t.legs, due := t.due }
      ∧ onlyFields [(CLG_CONV_RUN, c), (CLG_CONV_WAIT, c)] s t ∧ fbitAt CLG_CONV_RUN c k t = false ∧ fbitAt CLG_CONV_WAIT c k t = false
      ∧ (∀ e ∈ (startQ (c / 6) t).items, e.1 ≠ 2 * (c.val % 6) + k.val)
      ∧ fbitAt CLG_CONV_RUN c (1 - k.val) t = fbitAt CLG_CONV_RUN c (1 - k.val) s
      ∧ fbitAt CLG_CONV_WAIT c (1 - k.val) t = fbitAt CLG_CONV_WAIT c (1 - k.val) s
      ∧ (∀ j, j ∉ convLegs c k s → leg j t = leg j s)
      ∧ (if fbitAt CLG_CONV_RUN c k s = true
         then ∀ j ∈ convLegs c k s, ∀ p : GatePad, (s.time + padLeaves j p s, Due.padOff j p) ∈ t.due ∧ padPending j p t = none
         else t.legs = s.legs ∧ t.due = s.due)))
  ∧ (∀ n : Fin 4, (startQ n s).items = [] → ignored (.converterRelease n) s)
  ∧ (∀ (n : Fin 4) (ix d : Nat) (rest : List (Nat × Nat)), (startQ n s).items = (ix, d) :: rest → completes (.converterRelease n) s (fun t =>
      t = { s with regs := t.regs, hits := t.hits, startq := t.startq, legs := t.legs, due := t.due }
      ∧ startQ n t = ⟨rest, some s.time⟩ ∧ fbitAt CLG_CONV_WAIT (6 * n + ix / 2) (ix % 2) t = false
      ∧ fbitAt CLG_CONV_RUN (6 * n + ix / 2) (ix % 2) t = true
      ∧ (∀ j ∈ convLegs (6 * n + ix / 2) (ix % 2) s, tripAsserted j s = none → (leg j s).tripActive = false → fget LEG_PERIOD_PERIOD_E j s ≠ 0 →
          (s.time + 2, Due.padOff j (if fbit LEG_PADS_REF j s then .low else .high)) ∈ t.due)
      ∧ (∀ j, j ∉ convLegs (6 * n + ix / 2) (ix % 2) s → leg j t = leg j s)
      ∧ onlyFields ([(CLG_CONV_RUN, 6 * n + ix / 2), (CLG_CONV_WAIT, 6 * n + ix / 2)] ++ tripFields (convLegs (6 * n + ix / 2) (ix % 2) s)) s t))

/-- BIT_CAPTURE, in a dot in which the channel captures and has not yet done so, puts the bit with its dot at the front of the
channel's window and counts it, but not in the dot in which the channel is configured; in any other dot it does nothing. SDF_LATCH
with M not 0 writes the sinc3 sum over the bits captured no later than 4 dots before to its result register and STALE by CLK_OK;
with M = 0 it does nothing. A decision sets OC_HI or OC_LO and OC_LIVE and issues its event; OC_LIVE falls alone. A lost external
clock clears CLK_OK, sets CLK_LOST, issues its event and reports. An edge, where none was detected in the dot before, sets CLK_OK,
or CLK_FAST alone where it comes less than 12 dots after one that counted. An accepted SDF_CFG write sets its fields and empties
the window; one that would change a field while the region is in RUN, or an M out of range, sets CFG_REFUSED and leaves the field.
A change of CLK_SRC empties the windows of the cluster's 16 channels; in RUN it is refused. In a disabled cluster writes answer
with a bus error and the rest does nothing. Nothing else changes. (00_scope.md R5, 03_sensing.md R77, R78, R79, R80, R81, R82,
R93, 05_fabric_timers_image.md R127) -/
def Obligations.SigmaDelta : Prop :=
  ∀ s : State,
  (∀ (ch : Fin 384) (high : Bool), clusterOn (ch / 16) s = true → captures ch s = true → (sdf ch s).last ≠ some s.time →
    (sdf ch s).conf ≠ some s.time → completes (.bitCapture ch high) s (fun t =>
    t = { s with regs := t.regs, sdf := t.sdf, due := t.due } ∧ onlyFields [(SDF_STAT_FILLING, ch)] s t
    ∧ (sdf ch t).bits = ((s.time, high) :: (sdf ch s).bits).take 768 ∧ (sdf ch t).count = (sdf ch s).count + 1
    ∧ (sdf ch t).last = some s.time
    ∧ (fget SDF_CFG_OC_N ch s = 0 → t.due = s.due) ∧ ∀ j, j ≠ ch.val → sdf j t = sdf j s))
  ∧ (∀ (ch : Fin 384) (high : Bool), clusterOn (ch / 16) s = true → captures ch s = true → (sdf ch s).last ≠ some s.time →
    (sdf ch s).conf = some s.time → completes (.bitCapture ch high) s (fun t =>
    t = { s with sdf := t.sdf } ∧ sdf ch t = { sdf ch s with last := some s.time } ∧ ∀ j, j ≠ ch.val → sdf j t = sdf j s))
  ∧ (∀ (ch : Fin 384) (high : Bool), clusterOn (ch / 16) s = false ∨ captures ch s = false ∨ (sdf ch s).last = some s.time →
    ignored (.bitCapture ch high) s)
  ∧ (∀ ch : Fin 384, fget SDF_CFG_M ch s ≠ 0 → completes (.sdfLatch ch 0) s (fun t => t = { s with regs := t.regs }
    ∧ onlyFields [(SDF_RES0_R, ch), (SDF_STAT_STALE0, ch)] s t
    ∧ fget SDF_RES0_R ch t = word (sinc3 (fget SDF_CFG_M ch s) ((sdf ch s).bits.filter (fun e => e.1 + 4 ≤ s.time)))
    ∧ fget SDF_STAT_STALE0 ch t = (!clkOk (ch / 16) s).toNat))
  ∧ (∀ ch : Fin 384, fget SDF_CFG_M ch s ≠ 0 → completes (.sdfLatch ch 1) s (fun t => t = { s with regs := t.regs }
    ∧ onlyFields [(SDF_RES1_R, ch), (SDF_STAT_STALE1, ch)] s t
    ∧ fget SDF_RES1_R ch t = word (sinc3 (fget SDF_CFG_M ch s) ((sdf ch s).bits.filter (fun e => e.1 + 4 ≤ s.time)))
    ∧ fget SDF_STAT_STALE1 ch t = (!clkOk (ch / 16) s).toNat))
  ∧ (∀ (ch : Fin 384) (k : Fin 2), fget SDF_CFG_M ch s = 0 → ignored (.sdfLatch ch k) s)
  ∧ (∀ (ch : Fin 384) (high : Bool), clusterOn (ch / 16) s = true → completes (.sdfOcDecision ch high) s (fun t =>
    t = { s with regs := t.regs, hits := t.hits, fab := t.fab } ∧ issued (0x600 + 4 * ch.val + if high then 0 else 1) s t
    ∧ fget SDF_STAT_OC_LIVE ch t = 1 ∧ fget (if high then SDF_STAT_OC_HI else SDF_STAT_OC_LO) ch t = 1
    ∧ onlyFields [(SDF_STAT_OC_LIVE, ch), (if high then SDF_STAT_OC_HI else SDF_STAT_OC_LO, ch.val)] s t))
  ∧ (∀ (ch : Fin 384) (high : Bool), clusterOn (ch / 16) s = false → ignored (.sdfOcDecision ch high) s)
  ∧ (∀ ch : Fin 384, completes (.ocLiveFall ch) s (fun t => t = { s with regs := t.regs } ∧ onlyFields [(SDF_STAT_OC_LIVE, ch)] s t
    ∧ fget SDF_STAT_OC_LIVE ch t = 0))
  ∧ (∀ c : Fin 24, fbit SDF_COM_CLK_SRC c s = true → (clk c s).armed = true → completes (.sdfClklost c) s (fun t =>
    t = { s with regs := t.regs, hits := t.hits, fab := t.fab, flt := t.flt } ∧ issued (0xC00 + c.val) s t ∧ reported (csrc c 1) 0 0 s t
    ∧ onlyFields [(SDF_COM_CLK_OK, c), (SDF_COM_CLK_LOST, c)] s t ∧ fget SDF_COM_CLK_OK c t = 0 ∧ fget SDF_COM_CLK_LOST c t = 1))
  ∧ (∀ c : Fin 24, fbit SDF_COM_CLK_SRC c s = false ∨ (clk c s).armed = false → ignored (.sdfClklost c) s)
  ∧ (∀ c : Fin 24, mayRise c s = true → (∀ e ∈ (clk c s).edges, e + 12 ≤ s.time) →
    completes (.externalClockEdge c) s (fun t => t = { s with regs := t.regs, hits := t.hits, clk := t.clk }
      ∧ clk c t = ⟨true, (s.time :: (clk c s).edges).take 2, some s.time, true⟩ ∧ (∀ j, j ≠ c.val → clk j t = clk j s)
      ∧ onlyFields [(SDF_COM_CLK_OK, c)] s t ∧ fget SDF_COM_CLK_OK c t = 1))
  ∧ (∀ (c : Fin 24), mayRise c s = true → (∃ e ∈ (clk c s).edges, s.time < e + 12) →
    completes (.externalClockEdge c) s (fun t => t = { s with regs := t.regs, hits := t.hits, clk := t.clk }
      ∧ clk c t = { clk c s with rose := some s.time, told := true } ∧ (∀ j, j ≠ c.val → clk j t = clk j s)
      ∧ onlyFields [(SDF_COM_CLK_FAST, c)] s t ∧ fget SDF_COM_CLK_FAST c t = 1))
  ∧ (∀ (c : Fin 24), mayRise c s = false → ignored (.externalClockEdge c) s)
  ∧ (∀ (c : Fin 24), mayRise c s = true ↔ clusterOn c s = true ∧ fbit SDF_COM_CLK_SRC c s = true ∧ ∀ d ∈ (clk c s).rose, d + 1 < s.time)
  ∧ (∀ (ch : Fin 384) (v : Word), clusterOn (ch / 16) s = true → regionRun (ch / 96) s = false → sdfMBad (bits v.toNat 24 16) = false →
    sdfOcBad (bits v.toNat 11 8) (bits v.toNat 6 4) = false → completes (.sdfCfgWrite (.cfg ch v)) s (fun t =>
      t = { s with regs := t.regs, sdf := t.sdf } ∧ fget SDF_CFG_M ch t = bits v.toNat 24 16 ∧ fget SDF_CFG_OC_N ch t = bits v.toNat 11 8
      ∧ fget SDF_CFG_OC_CONSEC ch t = bits v.toNat 6 4 ∧ fget SDF_CFG_SKEW ch t = bits v.toNat 3 0
      ∧ sdf ch t = { SdfH.init with last := (sdf ch s).last, conf := some s.time }
      ∧ onlyFields [(SDF_CFG_M, ch), (SDF_CFG_OC_N, ch), (SDF_CFG_OC_CONSEC, ch), (SDF_CFG_SKEW, ch), (SDF_STAT_FILLING, ch)] s t))
  ∧ (∀ (ch : Fin 384) (v : Word), clusterOn (ch / 16) s = true → regionRun (ch / 96) s = true →
    (bits v.toNat 24 16 ≠ fget SDF_CFG_M ch s ∨ bits v.toNat 11 8 ≠ fget SDF_CFG_OC_N ch s ∨ bits v.toNat 3 0 ≠ fget SDF_CFG_SKEW ch s
      ∨ bits v.toNat 6 4 ≠ fget SDF_CFG_OC_CONSEC ch s) →
    completes (.sdfCfgWrite (.cfg ch v)) s (fun t => t = { s with regs := t.regs, hits := t.hits }
      ∧ onlyFields [(SDF_STAT_CFG_REFUSED, ch)] s t ∧ fget SDF_STAT_CFG_REFUSED ch t = 1))
  ∧ (∀ (ch : Fin 384) (v : Word), clusterOn (ch / 16) s = true → sdfMBad (bits v.toNat 24 16) = true → fget SDF_CFG_M ch s ≠ bits v.toNat 24 16 →
    completes (.sdfCfgWrite (.cfg ch v)) s (fun t => t = { s with regs := t.regs, hits := t.hits, sdf := t.sdf }
      ∧ fget SDF_CFG_M ch t = fget SDF_CFG_M ch s ∧ fget SDF_STAT_CFG_REFUSED ch t = 1))
  ∧ (∀ (c : Fin 24) (ext : Bool), clusterOn c s = true → fget SDF_COM_CLK_SRC c s = ext.toNat → ignored (.sdfCfgWrite (.clkSrc c ext)) s)
  ∧ (∀ (c : Fin 24) (ext : Bool), clusterOn c s = true → fget SDF_COM_CLK_SRC c s ≠ ext.toNat → regionRun (c / 6) s = true →
    completes (.sdfCfgWrite (.clkSrc c ext)) s (fun t => t = { s with regs := t.regs, hits := t.hits }
      ∧ onlyFields [(SDF_COM_CFG_REFUSED, c)] s t ∧ fget SDF_COM_CFG_REFUSED c t = 1))
  ∧ (∀ (ch : Fin 384) (v : Word), clusterOn (ch / 16) s = false → exec (.sdfCfgWrite (.cfg ch v)) s = .next { s with resp := ⟨0, true⟩ })
  ∧ (∀ (c : Fin 24) (ext : Bool), clusterOn c s = false → exec (.sdfCfgWrite (.clkSrc c ext)) s = .next { s with resp := ⟨0, true⟩ })
  ∧ (∀ (c : Fin 24) (ext : Bool), clusterOn c s = true → fget SDF_COM_CLK_SRC c s ≠ ext.toNat → regionRun (c / 6) s = false →
    completes (.sdfCfgWrite (.clkSrc c ext)) s (fun t => t = { s with regs := t.regs, sdf := t.sdf, clk := t.clk }
      ∧ fget SDF_COM_CLK_SRC c t = ext.toNat ∧ fget SDF_COM_CLK_OK c t = 0 ∧ (∀ j, j ≠ c.val → clk j t = clk j s) ∧ clk c t = { clk c s with armed := false, edges := [] }
      ∧ (∀ i, i < 16 → sdf (16 * c + i) t = { SdfH.init with last := (sdf (16 * c + i) s).last, conf := some s.time }) 
      ∧ (∀ ch, ch / 16 ≠ c.val → sdf ch t = sdf ch s)
      ∧ onlyFields ([(SDF_COM_CLK_SRC, c.val), (SDF_COM_CLK_OK, c.val)] ++ (List.range 16).map (fun i => (SDF_STAT_FILLING, 16 * c.val + i))) s t))

/-- SAR_TRIGGER starts a conversion of its entry unless the converter started less than 40 dots ago, where it sets MISSED and OVERRUN
and reports. SAR_RESULT 32 dots after the trigger writes VALUE, adds 1 to SEQ, clears MISSED, ends the conversion and issues its
event; in any other dot, and with none in progress, it does nothing. A comparator crossing changes the comparator alone; a change
of its output is due at the fabric 16 dots later. CMP_FABRIC_CHANGE of the level sets OUT, ROSE or FELL and issues the event, and
does nothing where the level stands. A threshold write takes THRESH and is due at the die 2 dots later. A configuration write
takes its fields while the region is not in RUN; in RUN it takes none and sets CFG_REFUSED where it would change one; what the
register then holds is due at the die 2 dots later. Other converters, comparators and registers stay. (03_sensing.md R77, R84,
R85, R87, R95, 05_fabric_timers_image.md R127) -/
def Obligations.SarAndComparators : Prop :=
  ∀ s : State,
  (∀ v e : Fin 16, sarBusy v s = false → completes (.sarTrigger v e) s (fun t => t = { s with sar := t.sar }
    ∧ sar v t = ⟨some e.val, some s.time⟩ ∧ ∀ j, j ≠ v.val → sar j t = sar j s))
  ∧ (∀ v e : Fin 16, sarBusy v s = true → completes (.sarTrigger v e) s (fun t =>
    t = { s with regs := t.regs, hits := t.hits, flt := t.flt } ∧ reported (rsrc (v / 4) 54) v e s t
    ∧ onlyFields [(SAR_STAT_OVERRUN, v), (SAR_RES_MISSED, 16 * v + e)] s t ∧ fget SAR_STAT_OVERRUN v t = 1
    ∧ fget SAR_RES_MISSED (16 * v + e) t = 1))
  ∧ (∀ (v : Fin 16) (x : BitVec 16) (e p : Nat), (sar v s).entry = some e → (sar v s).start = some p → s.time = p + 32 →
    completes (.sarResult v x) s (fun t =>
    t = { s with regs := t.regs, sar := t.sar, fab := t.fab } ∧ issued (0xDC0 + v.val) s t
    ∧ fget SAR_RES_VALUE (16 * v + e) t = x.toNat ∧ fget SAR_RES_MISSED (16 * v + e) t = 0
    ∧ fget SAR_RES_SEQ (16 * v + e) t = (fget SAR_RES_SEQ (16 * v + e) s + 1) % 2 ^ SAR_RES_SEQ.w
    ∧ onlyFields [(SAR_RES_VALUE, 16 * v + e), (SAR_RES_SEQ, 16 * v + e), (SAR_RES_MISSED, 16 * v + e)] s t
    ∧ sar v t = ⟨none, (sar v s).start⟩ ∧ ∀ j, j ≠ v.val → sar j t = sar j s))
  ∧ (∀ (v : Fin 16) (x : BitVec 16), (sar v s).entry = none ∨ (∀ p ∈ (sar v s).start, s.time ≠ p + 32) → ignored (.sarResult v x) s)
  ∧ (∀ (j : Fin 64) (above : Bool), completes (.comparatorCrossing j above) s (fun t => t = { s with cmp := t.cmp, due := t.due }
    ∧ cmp j t = { cmp j s with above := above, out := (cmp j s).en && (above != (cmp j s).invert) }
    ∧ (if (cmp j t).out = (cmp j s).out then t.due = s.due else scheduled 16 (.cmd (.cmpFabricChange j (cmp j t).out)) s t)
    ∧ ∀ i, i ≠ j.val → cmp i t = cmp i s))
  ∧ (∀ j : Fin 64, fbit CMP_STAT_OUT j s = false → completes (.cmpFabricChange j true) s (fun t =>
    t = { s with regs := t.regs, hits := t.hits, fab := t.fab } ∧ issued (0xC41 + 4 * j.val) s t
    ∧ onlyFields [(CMP_STAT_OUT, j), (CMP_STAT_ROSE, j)] s t ∧ fget CMP_STAT_OUT j t = 1 ∧ fget CMP_STAT_ROSE j t = 1))
  ∧ (∀ j : Fin 64, fbit CMP_STAT_OUT j s = true → completes (.cmpFabricChange j false) s (fun t =>
    t = { s with regs := t.regs, hits := t.hits, fab := t.fab } ∧ issued (0xC42 + 4 * j.val) s t
    ∧ onlyFields [(CMP_STAT_OUT, j), (CMP_STAT_FELL, j)] s t ∧ fget CMP_STAT_OUT j t = 0 ∧ fget CMP_STAT_FELL j t = 1))
  ∧ (∀ (j : Fin 64) (b : Bool), fbit CMP_STAT_OUT j s = b → ignored (.cmpFabricChange j b) s)
  ∧ (∀ (j : Fin 64) (v : Word), completes (.cmpThrWrite j (.thr v)) s (fun t => t = { s with regs := t.regs, due := t.due }
    ∧ scheduled 2 (.cmpThr j v.toNat) s t ∧ onlyFields [(CMP_THR_THRESH, j)] s t ∧ fget CMP_THR_THRESH j t = v.toNat % 2 ^ 10))
  ∧ (∀ (j : Fin 64) (v : Word), regionRun (j / 16) s = false → completes (.cmpThrWrite j (.cfg v)) s (fun t =>
    t = { s with regs := t.regs, due := t.due } ∧ scheduled 2 (.cmpCfg j (cmpCfgWord j t)) s t
    ∧ onlyFields [(CMP_CFG_EN, j), (CMP_CFG_AIN, j), (CMP_CFG_HYST, j), (CMP_CFG_INVERT, j), (CMP_CFG_CFG_REFUSED, j)] s t
    ∧ fget CMP_CFG_EN j t = v.toNat / 2 ^ 31 ∧ fget CMP_CFG_AIN j t = v.toNat / 2 ^ 16 % 32
    ∧ fget CMP_CFG_HYST j t = v.toNat / 2 ^ 12 % 4 ∧ fget CMP_CFG_INVERT j t = v.toNat / 2 ^ 8 % 2))
  ∧ (∀ (j : Fin 64) (v : Word), regionRun (j / 16) s = true → completes (.cmpThrWrite j (.cfg v)) s (fun t =>
    t = { s with regs := t.regs, hits := t.hits, due := t.due } ∧ scheduled 2 (.cmpCfg j (cmpCfgWord j s)) s t
    ∧ onlyFields [(CMP_CFG_CFG_REFUSED, j)] s t
    ∧ (v.toNat / 2 ^ 31 ≠ fget CMP_CFG_EN j s ∨ v.toNat / 2 ^ 16 % 32 ≠ fget CMP_CFG_AIN j s ∨ v.toNat / 2 ^ 12 % 4 ≠ fget CMP_CFG_HYST j s
        ∨ v.toNat / 2 ^ 8 % 2 ≠ fget CMP_CFG_INVERT j s → fget CMP_CFG_CFG_REFUSED j t = 1)))

/-- QEP_EDGE brings A and B, as far as pins carry them, to the levels given: the position changes by the signed steps that the mode
gives the change, DIR by the last; a change of both at once in quadrature mode sets ERR and reports. QEP_INDEX, where a pin
carries the index, copies the position and the sweep position, sets IDX_SEEN, clears the position where IDX_CLEAR is set, to what
the present dot's edges leave, and issues its event; else it does nothing. A latch slot writes POS less the present dot's edges,
AGE since the last edge of an earlier dot and INT between the last two of those, each 0 where there is none. A write of the
position takes the value plus the net count of the present dot's edges. In a disabled cluster the inputs do nothing and the write
ends in a bus error. No other field and no other unit changes. (00_scope.md R5, 03_sensing.md R88, R89, R90,
05_fabric_timers_image.md R127, 18_pins_package.md R453) -/
def Obligations.Quadrature : Prop :=
  ∀ (s : State) (u : Fin 48),
  (∀ a b a' b' : Bool, a' = (if qepPin u 0 s then a else (qep u s).a) → b' = (if qepPin u 1 s then b else (qep u s).b) → clusterOn (u / 2) s = true →
    completes (.qepEdge u a b) s (fun t =>
    t = { s with regs := t.regs, hits := t.hits, qep := t.qep, flt := t.flt, pads := t.pads } ∧ (qep u t).a = a' ∧ (qep u t).b = b'
    ∧ (qep u t).i = (qep u s).i
    ∧ (∀ p ∈ [(0, a), (1, b)], qepPin u p.1 s = true → sget none t.pads.told (3 * u + p.1) = some (p.2 != fbitAt QEP_CFG_INV u p.1 s))
    ∧ onlyFields [(QEP_POS_POS, u), (QEP_STAT_DIR, u), (QEP_STAT_ERR, u)] s t
    ∧ (fget QEP_POS_POS u s < 2 ^ 32 →
        fget QEP_POS_POS u t = word (sint (fget QEP_POS_POS u s) + (qepSteps (fget QEP_CFG_MODE u s) (qep u s).a (qep u s).b a' b').sum))
    ∧ fget QEP_STAT_DIR u t = (match (qepSteps (fget QEP_CFG_MODE u s) (qep u s).a (qep u s).b a' b').getLast? with
        | some d => (decide (0 < d)).toNat
        | none => fget QEP_STAT_DIR u s)
    ∧ (fget QEP_CFG_MODE u s = 0 → a' ≠ (qep u s).a → b' ≠ (qep u s).b →
        fget QEP_STAT_ERR u t = 1 ∧ reported (csrc (u / 2) 2) u 0 s t)
    ∧ (fget QEP_CFG_MODE u s ≠ 0 ∨ a' = (qep u s).a ∨ b' = (qep u s).b → t.flt = s.flt ∧ fget QEP_STAT_ERR u t = fget QEP_STAT_ERR u s)
    ∧ ∀ j, j ≠ u.val → qep j t = qep j s))
  ∧ (clusterOn (u / 2) s = false → (∀ a b : Bool, ignored (.qepEdge u a b) s) ∧ ignored (.qepIndex u) s)
  ∧ (qepPin u 2 s = false → ignored (.qepIndex u) s)
  ∧ (clusterOn (u / 2) s = true → qepPin u 2 s = true → completes (.qepIndex u) s (fun t =>
    t = { s with regs := t.regs, hits := t.hits, fab := t.fab, pads := t.pads, qep := t.qep } ∧ issued (0xD40 + 2 * u.val) s t
    ∧ qep u t = { qep u s with i := true, runI := 0 } ∧ (∀ j, j ≠ u.val → qep j t = qep j s)
    ∧ sget none t.pads.told (3 * u + 2) = some (!fbitAt QEP_CFG_INV u 2 s)
    ∧ fget QEP_IDX_POS_POS u t = fget QEP_POS_POS u s % 2 ^ 32 ∧ fget QEP_IDX_HI_FRAME u t = s.pos.frame % 2 ^ 32
    ∧ fget QEP_IDX_LO_LINE u t = s.pos.line % 2 ^ 12 ∧ fget QEP_IDX_LO_DOT u t = s.pos.dot % 2 ^ 14 ∧ fget QEP_STAT_IDX_SEEN u t = 1
    ∧ fget QEP_POS_POS u t = (if fbit QEP_CFG_IDX_CLEAR u s then word (qepNet u s) else fget QEP_POS_POS u s)
    ∧ onlyFields [(QEP_IDX_POS_POS, u), (QEP_IDX_HI_FRAME, u), (QEP_IDX_LO_LINE, u), (QEP_IDX_LO_DOT, u), (QEP_STAT_IDX_SEEN, u),
        (QEP_POS_POS, u)] s t))
  ∧ (∀ (k : Fin 2) (es : List Nat), es = (qep u s).edges.filter (fun e => decide (e < s.time)) → completes (.qepLatch u k) s (fun t =>
    t = { s with regs := t.regs } ∧ onlyFields [(qepResPos k, u.val), (qepResAge k, u.val), (qepResInt k, u.val)] s t
    ∧ fget (qepResPos k) u t = word (sint (fget QEP_POS_POS u s) - qepNet u s)
    ∧ fget (qepResAge k) u t = (if es = [] then 0 else min (s.time - es.getD 0 0) (2 ^ 32 - 1))
    ∧ fget (qepResInt k) u t = (if es.length < 2 then 0 else min (es.getD 0 0 - es.getD 1 0) (2 ^ 32 - 1))))
  ∧ (∀ v : Word, clusterOn (u / 2) s = true → completes (.qepPosWrite u v) s (fun t =>
    t = { s with regs := t.regs } ∧ onlyFields [(QEP_POS_POS, u)] s t ∧ fget QEP_POS_POS u t = word (v.toInt + qepNet u s)))
  ∧ (∀ v : Word, clusterOn (u / 2) s = false → exec (.qepPosWrite u v) s = .next { s with resp := ⟨0, true⟩ })

/-- A slot of a unit whose frame or timeout is in progress sets SKIPPED and reports; of a unit with no protocol it does nothing; with
DEADLINE 0 it only adds 1 to SEQ and issues its event; otherwise it starts a frame in this dot with MA high and sets the deadline.
A result, 3 dots after the last sample of SSI, or in a dot in which a BiSS frame with that delay may have been sampled, ends the
frame, starts the timeout, and writes the data (of SSI from Gray code where GRAY says so) and what else the frame carried, adding
1 to SEQ and issuing the event, unless the CRC of a BiSS frame fails: that sets CRC_ERR and reports alone. In any other dot a
result does nothing. A deadline in a frame ends it, starting the timeout, with TIMEOUT set and a report. The end of the timeout
leaves MA high. Without a frame in progress a result and a deadline do nothing. (03_sensing.md R91, R92, 05_fabric_timers_image.md
R127) -/
def Obligations.SerialEncoders : Prop :=
  ∀ (s : State) (u : Fin 24),
  ((seu u s).frame ≠ none ∨ (seu u s).timeout = true → completes (.seuSlotFire u) s (fun t =>
    t = { s with regs := t.regs, hits := t.hits, flt := t.flt } ∧ reported (rsrc (u / 6) 56) u 0 s t
    ∧ onlyFields [(SEU_STAT_SKIPPED, u)] s t ∧ fget SEU_STAT_SKIPPED u t = 1))
  ∧ ((seu u s).frame = none → (seu u s).timeout = false → fget SEU_CFG_PROTO u s = 0 → ignored (.seuSlotFire u) s)
  ∧ ((seu u s).frame = none → (seu u s).timeout = false → fget SEU_CFG_PROTO u s ≠ 0 → fget SEU_TIMING_DEADLINE u s = 0 →
    completes (.seuSlotFire u) s (fun t => t = { s with regs := t.regs, fab := t.fab } ∧ issued (0xDA0 + u.val) s t
      ∧ onlyFields [(SEU_STAT_SEQ, u)] s t ∧ fget SEU_STAT_SEQ u t = (fget SEU_STAT_SEQ u s + 1) % 2 ^ SEU_STAT_SEQ.w))
  ∧ ((seu u s).frame = none → (seu u s).timeout = false → fget SEU_CFG_PROTO u s ≠ 0 → fget SEU_TIMING_DEADLINE u s ≠ 0 →
    completes (.seuSlotFire u) s (fun t => t = { s with seu := t.seu, due := t.due } ∧ seu u t = { SeuH.init with frame := some s.time }
      ∧ t.due = s.due ++ [(s.time + 2, .seuMa u), (s.time + (2 + fget SEU_TIMING_DEADLINE u s), .cmd (.seuDeadline u))]
      ∧ ∀ j, j ≠ u.val → seu j t = seu j s))
  ∧ (∀ (r : SeuFrame), ∀ p ∈ (seu u s).frame, fget SEU_CFG_PROTO u s = 1 →
    s.time = p + 2 + 2 * fget SEU_CFG_DIV u s * fget SEU_CFG_BITS u s + fget SEU_CFG_SSI_DLY u s + 3 →
    completes (.seuResult u r) s (fun t => t = { s with regs := t.regs, seu := t.seu, due := t.due, fab := t.fab }
      ∧ issued (0xDA0 + u.val) s t ∧ seu u t = { SeuH.init with timeout := true } ∧ (∀ j, j ≠ u.val → seu j t = seu j s)
      ∧ (s.time + (p + 2 + 2 * fget SEU_CFG_DIV u s * fget SEU_CFG_BITS u s + fget SEU_CFG_DIV u s + fget SEU_TIMING_TIMEOUT u s - s.time),
          Due.cmd (.seuTimeoutEnd u)) ∈ t.due
      ∧ (∀ d, d = (if fbit SEU_CFG_GRAY u s then fromGray 6 (r.data.toNat % 2 ^ fget SEU_CFG_BITS u s) else r.data.toNat % 2 ^ fget SEU_CFG_BITS u s) →
          fget SEU_DATA_LO_DATA u t = d % 2 ^ 32 ∧ fget SEU_DATA_HI_DATA u t = d / 2 ^ 32 % 2 ^ SEU_DATA_HI_DATA.w)
      ∧ fget SEU_STAT_SEQ u t = (fget SEU_STAT_SEQ u s + 1) % 2 ^ SEU_STAT_SEQ.w
      ∧ onlyFields [(SEU_STAT_SEQ, u), (SEU_DATA_LO_DATA, u), (SEU_DATA_HI_DATA, u)] s t))
  ∧ (∀ (r : SeuFrame), ∀ p ∈ (seu u s).frame, fget SEU_CFG_PROTO u s ≠ 1 →
    ∀ first : Nat, first = p + 2 + fget SEU_CFG_DIV u s + r.dly.toNat + 3
      + 2 * fget SEU_CFG_DIV u s * (fget SEU_CFG_BITS u s + fget SEU_CRC_LEN u s + 5) →
    first ≤ s.time → (s.time - first) % (2 * fget SEU_CFG_DIV u s) = 0 →
    (fget SEU_CRC_LEN u s = 0 ∨ seuCrc (fget SEU_CRC_LEN u s) (fget SEU_CRC_POLY u s) (fget SEU_CFG_BITS u s)
        (r.data.toNat % 2 ^ fget SEU_CFG_BITS u s) r.nE r.nW
      = 2 ^ fget SEU_CRC_LEN u s - 1 - r.crc.toNat % 2 ^ fget SEU_CRC_LEN u s) →
    completes (.seuResult u r) s (fun t => t = { s with regs := t.regs, seu := t.seu, due := t.due, fab := t.fab }
      ∧ issued (0xDA0 + u.val) s t ∧ seu u t = { SeuH.init with timeout := true, ma := .cdm (fbit SEU_CDM_CDM u s) }
      ∧ (∀ j, j ≠ u.val → seu j t = seu j s)
      ∧ (s.time + (s.time - 3 + fget SEU_TIMING_TIMEOUT u s - s.time), Due.cmd (.seuTimeoutEnd u)) ∈ t.due
      ∧ fget SEU_DATA_LO_DATA u t = r.data.toNat % 2 ^ fget SEU_CFG_BITS u s % 2 ^ 32
      ∧ fget SEU_DATA_HI_DATA u t = r.data.toNat % 2 ^ fget SEU_CFG_BITS u s / 2 ^ 32 % 2 ^ SEU_DATA_HI_DATA.w
      ∧ fget SEU_STAT_DLY u t = r.dly.toNat % 2 ^ SEU_STAT_DLY.w ∧ fget SEU_STAT_NE u t = r.nE.toNat
      ∧ fget SEU_STAT_NW u t = r.nW.toNat ∧ fget SEU_STAT_CDS u t = r.cds.toNat
      ∧ fget SEU_STAT_SEQ u t = (fget SEU_STAT_SEQ u s + 1) % 2 ^ SEU_STAT_SEQ.w
      ∧ onlyFields [(SEU_STAT_SEQ, u), (SEU_DATA_LO_DATA, u), (SEU_DATA_HI_DATA, u), (SEU_STAT_CDS, u), (SEU_STAT_DLY, u), (SEU_STAT_NW, u),
          (SEU_STAT_NE, u)] s t))
  ∧ (∀ (r : SeuFrame), ∀ p ∈ (seu u s).frame, fget SEU_CFG_PROTO u s ≠ 1 →
    ∀ first : Nat, first = p + 2 + fget SEU_CFG_DIV u s + r.dly.toNat + 3
      + 2 * fget SEU_CFG_DIV u s * (fget SEU_CFG_BITS u s + fget SEU_CRC_LEN u s + 5) →
    first ≤ s.time → (s.time - first) % (2 * fget SEU_CFG_DIV u s) = 0 → fget SEU_CRC_LEN u s ≠ 0 →
    seuCrc (fget SEU_CRC_LEN u s) (fget SEU_CRC_POLY u s) (fget SEU_CFG_BITS u s) (r.data.toNat % 2 ^ fget SEU_CFG_BITS u s) r.nE r.nW
      ≠ 2 ^ fget SEU_CRC_LEN u s - 1 - r.crc.toNat % 2 ^ fget SEU_CRC_LEN u s →
    completes (.seuResult u r) s (fun t => t = { s with regs := t.regs, hits := t.hits, seu := t.seu, due := t.due, flt := t.flt }
      ∧ reported (rsrc (u / 6) 55) u 0 s t ∧ seu u t = { SeuH.init with timeout := true, ma := .cdm (fbit SEU_CDM_CDM u s) }
      ∧ (∀ j, j ≠ u.val → seu j t = seu j s) ∧ (s.time + (s.time - 3 + fget SEU_TIMING_TIMEOUT u s - s.time), Due.cmd (.seuTimeoutEnd u)) ∈ t.due
      ∧ onlyFields [(SEU_STAT_CRC_ERR, u)] s t ∧ fget SEU_STAT_CRC_ERR u t = 1))
  ∧ (∀ r : SeuFrame, ∀ p ∈ (seu u s).frame, fget SEU_CFG_PROTO u s = 1 →
    s.time ≠ p + 2 + 2 * fget SEU_CFG_DIV u s * fget SEU_CFG_BITS u s + fget SEU_CFG_SSI_DLY u s + 3 → ignored (.seuResult u r) s)
  ∧ (∀ r : SeuFrame, ∀ p ∈ (seu u s).frame, fget SEU_CFG_PROTO u s ≠ 1 →
    ∀ first : Nat, first = p + 2 + fget SEU_CFG_DIV u s + r.dly.toNat + 3
      + 2 * fget SEU_CFG_DIV u s * (fget SEU_CFG_BITS u s + fget SEU_CRC_LEN u s + 5) →
    s.time < first ∨ (s.time - first) % (2 * fget SEU_CFG_DIV u s) ≠ 0 → ignored (.seuResult u r) s)
  ∧ ((seu u s).frame = none → (∀ r : SeuFrame, ignored (.seuResult u r) s) ∧ ignored (.seuDeadline u) s)
  ∧ ((seu u s).frame ≠ none → completes (.seuDeadline u) s (fun t =>
    t = { s with regs := t.regs, hits := t.hits, seu := t.seu, due := t.due, flt := t.flt } ∧ reported (rsrc (u / 6) 57) u 0 s t
    ∧ seu u t = { SeuH.init with timeout := true } ∧ (∀ j, j ≠ u.val → seu j t = seu j s)
    ∧ (s.time + (s.time + fget SEU_TIMING_TIMEOUT u s - s.time), Due.cmd (.seuTimeoutEnd u)) ∈ t.due
    ∧ onlyFields [(SEU_STAT_TIMEOUT, u)] s t ∧ fget SEU_STAT_TIMEOUT u t = 1))
  ∧ completes (.seuTimeoutEnd u) s (fun t => t = { s with seu := t.seu } ∧ seu u t = { seu u s with timeout := false, ma := .high }
    ∧ ∀ j, j ≠ u.val → seu j t = seu j s)

/-- At a step of its run the loop engine does what R108 says of MOV, LDK, ADD, SUB, MUL, MAC, DIV, NEG, ABS, MIN, MAX, SCALE, SHIFT
and SQRT: the result word by the exact formula, rounded once and saturated under R107, SAT (and DIVZ for a zero divisor) in
CTX_STAT, exactly the cycles of the table, the run at its next step, or ended by E or at step 2,047. A result for words 0 to 3 is
not written: BADOP and a report. All other context words, engines, registers and memory stay as they are. (04_loop_engine.md R99,
R100, R103, R105, R106, R107, R108) -/
def Obligations.StepsOfArithmetic : Prop :=
  ∀ (s : State) (c : Fin 24) (w : StepW) (r : Run), atStep c r s →
  stepYields (.stepMov c w) c w r 1 [] s (fun W => ([(w.d.val, W w.a)], []))
  ∧ stepYields (.stepLdk c w) c w r 1 [] s (fun _ =>
      ([(w.d.val, saturated (w.imm.toInt * 2 ^ w.q.val))], satBits (w.imm.toInt * 2 ^ w.q.val)))
  ∧ stepYields (.stepAdd c w) c w r 1 [] s (fun W => ([(w.d.val, saturated (W w.a + W w.b))], satBits (W w.a + W w.b)))
  ∧ stepYields (.stepSub c w) c w r 1 [] s (fun W => ([(w.d.val, saturated (W w.a - W w.b))], satBits (W w.a - W w.b)))
  ∧ stepYields (.stepMul c w) c w r 2 [] s (fun W =>
      ([(w.d.val, saturated (rounded w.q (W w.a * W w.b)))], satBits (rounded w.q (W w.a * W w.b))))
  ∧ stepYields (.stepMac c w) c w r 2 [] s (fun W =>
      ([(w.d.val, saturated (rounded w.q (W w.d * 2 ^ w.q.val + W w.a * W w.b)))],
        satBits (rounded w.q (W w.d * 2 ^ w.q.val + W w.a * W w.b))))
  ∧ stepYields (.stepDiv c w) c w r 12 [] s (fun W =>
      if W w.b = 0 then ([(w.d.val, if W w.a = 0 then 0 else if W w.a < 0 then -2 ^ 31 else 2 ^ 31 - 1)], [8])
      else ([(w.d.val, saturated ((W w.a * 2 ^ w.q.val).tdiv (W w.b)))], satBits ((W w.a * 2 ^ w.q.val).tdiv (W w.b))))
  ∧ stepYields (.stepNeg c w) c w r 1 [] s (fun W => ([(w.d.val, saturated (-W w.a))], satBits (-W w.a)))
  ∧ stepYields (.stepAbs c w) c w r 1 [] s (fun W => ([(w.d.val, saturated |W w.a|)], satBits |W w.a|))
  ∧ stepYields (.stepMin c w) c w r 1 [] s (fun W => ([(w.d.val, if W w.a ≤ W w.b then W w.a else W w.b)], []))
  ∧ stepYields (.stepMax c w) c w r 1 [] s (fun W => ([(w.d.val, if W w.a ≤ W w.b then W w.b else W w.a)], []))
  ∧ stepYields (.stepScale c w) c w r 3 [] s (fun W =>
      ([(w.d.val, saturated (rounded w.q ((W w.a - W w.b) * W w.c)))], satBits (rounded w.q ((W w.a - W w.b) * W w.c))))
  ∧ stepYields (.stepShift c w) c w r 1 [] s (fun W =>
      let n : Int := (BitVec.ofNat 6 w.imm.toNat).toInt
      let v := if 0 ≤ n then W w.a * 2 ^ n.toNat else rounded (-n).toNat (W w.a)
      ([(w.d.val, saturated v)], satBits v))
  ∧ stepYields (.stepSqrt c w) c w r 10 [] s (fun W =>
      if W w.a < 0 then ([(w.d.val, 0)], [0])
      else ([(w.d.val, saturated (Nat.sqrt ((W w.a).toNat * 2 ^ w.q.val)))], satBits (Nat.sqrt ((W w.a).toNat * 2 ^ w.q.val))))

/-- SAT, RATE, DEAD, HYST, VLIM, CMPGT, CMPEQ, SEL, AND, OR, XOR and ANGLE write what R108 and R501 say, with LIMIT (bit 2) where a
value is limited and SAT where one saturates; HYST between its limits writes nothing. A result for words 0 to 3 or beyond 63 is
not written: BADOP and a report; VLIM of a pair beyond word 63 is refused so whole. Each takes its cycles and changes nothing
else. A vector that VLIM scales has no magnitude above its limit. (04_loop_engine.md R99, R100, R103, R105, R106, R107, R108,
R501) -/
def Obligations.StepsOfLimitsAndLogic : Prop :=
  (∀ (s : State) (c : Fin 24) (w : StepW) (r : Run), atStep c r s →
  stepYields (.stepSat c w) c w r 2 [] s (fun W =>
      let v := if W w.a > W w.b then W w.b else if W w.a < W w.c then W w.c else W w.a
      ([(w.d.val, v)], if v = W w.a then [] else [2]))
  ∧ stepYields (.stepRate c w) c w r 4 [] s (fun W =>
      let lim := max (W w.b) 0
      let diff := saturated (W w.a - W w.d)
      let m := min (max diff (-lim)) lim
      ([(w.d.val, saturated (W w.d + m))], satBits (W w.a - W w.d) ++ (if m = diff then [] else [2]) ++ satBits (W w.d + m)))
  ∧ stepYields (.stepDead c w) c w r 2 [] s (fun W =>
      if |W w.a| ≤ W w.b ∨ W w.a = 0 then ([(w.d.val, 0)], [])
      else
        let v := if 0 < W w.a then W w.a - W w.b else W w.a + W w.b
        ([(w.d.val, saturated v)], satBits v))
  ∧ stepYields (.stepHyst c w) c w r 2 [] s (fun W =>
      (if W w.a > W w.b then [(w.d.val, 1)] else if W w.a < W w.c then [(w.d.val, 0)] else [], []))
  ∧ stepYields (.stepVlim c w) c w r 16 [w.a + 1] s (fun W =>
      let lim := (max (W w.b) 0).toNat
      let m2 := (W w.a).natAbs ^ 2 + (W (w.a + 1)).natAbs ^ 2
      if m2 ≤ lim ^ 2 then ([(w.d.val, W w.a), (w.d.val + 1, W (w.a + 1))], [])
      else
        let k : Int := Nat.sqrt (lim ^ 2 * 2 ^ 62 / m2)
        ([(w.d.val, (W w.a * k).tdiv (2 ^ 31)), (w.d.val + 1, (W (w.a + 1) * k).tdiv (2 ^ 31))], [2]))
  ∧ stepYields (.stepCmpgt c w) c w r 1 [] s (fun W => ([(w.d.val, if W w.b < W w.a then 1 else 0)], []))
  ∧ stepYields (.stepCmpeq c w) c w r 1 [] s (fun W => ([(w.d.val, if W w.b = W w.a then 1 else 0)], []))
  ∧ stepYields (.stepSel c w) c w r 1 [] s (fun W => ([(w.d.val, if W w.a = 0 then W w.c else W w.b)], []))
  ∧ stepYields (.stepAnd c w) c w r 1 [] s (fun W =>
      ([(w.d.val, (BitVec.ofInt 32 (W w.a) &&& BitVec.ofInt 32 (W w.b)).toInt)], []))
  ∧ stepYields (.stepOr c w) c w r 1 [] s (fun W =>
      ([(w.d.val, (BitVec.ofInt 32 (W w.a) ||| BitVec.ofInt 32 (W w.b)).toInt)], []))
  ∧ stepYields (.stepXor c w) c w r 1 [] s (fun W =>
      ([(w.d.val, (BitVec.ofInt 32 (W w.a) ^^^ BitVec.ofInt 32 (W w.b)).toInt)], []))
  ∧ stepYields (.stepAngle c w) c w r 3 [] s (fun W => ([(w.d.val, (BitVec.ofInt 32 (W w.a * W w.b + W w.c)).toInt)], [])))
  ∧ (∀ x y lim : Int, (vlim x y lim).1 ^ 2 + (vlim x y lim).2.1 ^ 2 ≤ (max lim 0) ^ 2)

/-- PI, PID, BIQ, LPF1, INTG, DIFF, SS2, SS3, SS4 and SPDMT write what R108 and R109 lay down, each value by its exact formula,
rounded once and saturated, with SAT, LIMIT and DIVZ in CTX_STAT as they say, in exactly the table's cycles, and change nothing
else. A result for words 0 to 3 or beyond 63 is not written: BADOP and a report; a block that reaches beyond word 63 is refused so
whole. (04_loop_engine.md R99, R100, R103, R105, R106, R107, R108, R109) -/
def Obligations.StepsOfControl : Prop :=
  ∀ (s : State) (c : Fin 24) (w : StepW) (r : Run), atStep c r s →
  (∀ pid : Bool, stepYields (if pid then .stepPid c w else .stepPi c w) c w r (if pid then 16 else 12)
    [w.b + (if pid then 6 else 4)] s (fun W =>
      let b := w.b.val
      let e := saturated (W w.a - W w.c)
      let i0 := rounded w.q (W (b + 2) * 2 ^ w.q.val + W (b + 1) * e)
      let i1 := min (max (saturated i0) (W (b + 4))) (W (b + 3))
      let d := if pid then W (b + 5) * (e - W (b + 6)) else 0
      let u0 := rounded w.q (W b * e + i1 * 2 ^ w.q.val + d)
      let u1 := min (saturated u0) (W (b + 3))
      let i2 := if saturated u0 > W (b + 3) ∧ W (b + 1) * e > 0 then W (b + 2) else i1
      let u2 := max u1 (W (b + 4))
      let i3 := if u1 < W (b + 4) ∧ W (b + 1) * e < 0 then W (b + 2) else i2
      ([(b + 2, i3)] ++ (if pid then [(b + 6, e)] else []) ++ [(w.d.val, u2)],
        satBits (W w.a - W w.c) ++ satBits i0 ++ satBits u0
          ++ (if saturated u0 > W (b + 3) ∨ u1 < W (b + 4) then [2] else []))))
  ∧ stepYields (.stepBiq c w) c w r 8 [w.b + 6] s (fun W =>
      let b := w.b.val
      let one : Int := 2 ^ w.q.val
      let y := rounded w.q (W b * W w.a + W (b + 5) * one)
      let s1 := rounded w.q (W (b + 1) * W w.a - W (b + 3) * saturated y + W (b + 6) * one)
      let s2 := rounded w.q (W (b + 2) * W w.a - W (b + 4) * saturated y)
      ([(b + 5, saturated s1), (b + 6, saturated s2), (w.d.val, saturated y)], satBits y ++ satBits s1 ++ satBits s2))
  ∧ stepYields (.stepLpf1 c w) c w r 3 [] s (fun W =>
      let p := rounded w.q (W w.b * (W w.a - W w.d))
      ([(w.d.val, saturated (W w.d + saturated p))], satBits p ++ satBits (W w.d + saturated p)))
  ∧ stepYields (.stepIntg c w) c w r 3 [w.c + 1] s (fun W =>
      let p := rounded w.q (W w.a * W w.b)
      let x := saturated (W w.d + saturated p)
      let v := if x > W w.c then W w.c else if x < W (w.c + 1) then W (w.c + 1) else x
      ([(w.d.val, v)], satBits p ++ satBits (W w.d + saturated p) ++ (if v = x then [] else [2])))
  ∧ stepYields (.stepDiff c w) c w r 2 [] s (fun W =>
      ([(w.d.val, saturated (W w.a - W w.b)), (w.b.val, W w.a)], satBits (W w.a - W w.b)))
  ∧ (∀ n : Fin 3, stepYields (match n with | 0 => .stepSs2 c w | 1 => .stepSs3 c w | _ => .stepSs4 c w) c w r
    (match n with | 0 => 12 | 1 => 19 | _ => 28) [w.b + (match n with | 0 => 10 | 1 => 18 | _ => 28)] s (fun W =>
      let m := n.val + 2
      let b := w.b.val
      let x (i : Nat) : Int := W (b + m * m + 2 * m + 1 + i)
      let y := rounded w.q (((List.range m).map (fun i => W (b + m * m + m + i) * x i)).sum + W (b + m * m + 2 * m) * W w.a)
      let row (i : Nat) : Int :=
        rounded w.q (((List.range m).map (fun k => W (b + m * i + k) * x k)).sum + W (b + m * m + i) * W w.a)
      ((w.d.val, saturated y) :: (List.range m).map (fun i => (b + m * m + 2 * m + 1 + i, saturated (row i))),
        satBits y ++ (List.range m).flatMap (fun i => satBits (row i)))))
  ∧ stepYields (.stepSpdmt c w) c w r 14 [w.a + 2, w.b + 2] s (fun W =>
      let dp := (BitVec.ofInt 32 (W w.a - W w.b)).toInt
      let u (x : Nat) : Int := (BitVec.ofInt 32 (W x)).toNat
      let dt := u (w.b + 2) + u (w.b + 1) - u (w.a + 1)
      let v := (dp * 2 ^ w.q.val).tdiv dt
      ([(w.d.val, if dt ≤ 0 ∨ dp = 0 then 0 else saturated v), (w.b.val, W w.a), (w.b.val + 1, W (w.a + 1))],
        if dt ≤ 0 then [8] else if dp = 0 then [] else satBits v))

/-- TBL and TBL2 interpolate in the local table, write nothing where a dimension is 0 and are refused where the table leaves it;
SINCOS, CLARKE, ICLARKE, PARK, IPARK, DECPL, SVM and SVM3 write what R108, R111 and R501 lay down, rounded once and saturated,
with SAT and OVM (bit 1) in CTX_STAT, in exactly the table's cycles, and change nothing else. A result for words 0 to 3 or beyond
63 is not written: BADOP and a report; operands beyond word 63 are refused so whole. (04_loop_engine.md R99, R103, R107, R108,
R109, R111, R501) -/
def Obligations.StepsOfTransforms : Prop :=
  ∀ (s : State) (c : Fin 24) (w : StepW) (r : Run), atStep c r s →
  (bits w.imm.toNat 21 11 ≠ 0 → bits w.imm.toNat 10 0 + bits w.imm.toNat 21 11 ≤ 2048 → stepYields (.stepTbl c w) c w r 6 [] s (fun W =>
      ([(w.d.val, tableAt c (bits w.imm.toNat 10 0) (bits w.imm.toNat 21 11) (BitVec.ofInt 32 (W w.a)).toNat s)], [])))
  ∧ (2048 < bits w.imm.toNat 10 0 + bits w.imm.toNat 21 11 → bits w.imm.toNat 21 11 ≠ 0 → stepRefused (.stepTbl c w) c w r 6 s)
  ∧ (bits w.imm.toNat 16 11 ≠ 0 → bits w.imm.toNat 22 17 ≠ 0 →
    2048 < bits w.imm.toNat 10 0 + bits w.imm.toNat 16 11 * bits w.imm.toNat 22 17 → stepRefused (.stepTbl2 c w) c w r 12 s)
  ∧ (bits w.imm.toNat 21 11 = 0 → stepYields (.stepTbl c w) c w r 6 [] s (fun _ => ([], [])))
  ∧ (bits w.imm.toNat 16 11 = 0 ∨ bits w.imm.toNat 22 17 = 0 → stepYields (.stepTbl2 c w) c w r 12 [] s (fun _ => ([], [])))
  ∧ (bits w.imm.toNat 16 11 ≠ 0 → bits w.imm.toNat 22 17 ≠ 0 →
    bits w.imm.toNat 10 0 + bits w.imm.toNat 16 11 * bits w.imm.toNat 22 17 ≤ 2048 → stepYields (.stepTbl2 c w) c w r 12 [] s (fun W =>
      let base := bits w.imm.toNat 10 0
      let nc := bits w.imm.toNat 16 11
      let x := (BitVec.ofInt 32 (W w.a)).toNat
      let y := min (BitVec.ofInt 32 (W w.b)).toNat ((bits w.imm.toNat 22 17 - 1) * 2 ^ 16)
      let r0 := tableAt c (base + y / 2 ^ 16 * nc) nc x s
      ([(w.d.val, if y % 2 ^ 16 = 0 then r0
        else r0 + ((tableAt c (base + (y / 2 ^ 16 + 1) * nc) nc x s - r0) * ((y % 2 ^ 16 : Nat) : Int) + 2 ^ 15) / 2 ^ 16)], [])))
  ∧ stepYields (.stepSincos c w) c w r 8 [] s (fun W =>
      ([(w.d.val, sincos 0 (word (W w.a))), (w.d.val + 1, sincos 1 (word (W w.a)))], []))
  ∧ stepYields (.stepClarke c w) c w r 4 [] s (fun W =>
      let al := (2 * (2 * W w.a - W w.b - W w.c) + 3) / 6
      let be := overSqrt3 (if w.imm.getLsbD 0 then W w.b - W w.c else W w.a + 2 * W w.b)
      ([(w.d.val, if w.imm.getLsbD 0 then saturated al else W w.a), (w.d.val + 1, saturated be)],
        (if w.imm.getLsbD 0 then satBits al else []) ++ satBits be))
  ∧ stepYields (.stepIclarke c w) c w r 4 [w.a + 1] s (fun W =>
      let p := phases (W w.a) (W (w.a + 1))
      ([(w.d.val, W w.a), (w.d.val + 1, saturated p.2.1), (w.d.val + 2, saturated p.2.2)], satBits p.2.1 ++ satBits p.2.2))
  ∧ stepYields (.stepPark c w) c w r 6 [w.a + 1, w.b + 1] s (fun W =>
      let d := rounded w.q (W w.a * W w.b + W (w.a + 1) * W (w.b + 1))
      let q := rounded w.q (-W w.a * W (w.b + 1) + W (w.a + 1) * W w.b)
      ([(w.d.val, saturated d), (w.d.val + 1, saturated q)], satBits d ++ satBits q))
  ∧ stepYields (.stepIpark c w) c w r 6 [w.a + 1, w.b + 1] s (fun W =>
      let al := rounded w.q (W w.a * W w.b - W (w.a + 1) * W (w.b + 1))
      let be := rounded w.q (W w.a * W (w.b + 1) + W (w.a + 1) * W w.b)
      ([(w.d.val, saturated al), (w.d.val + 1, saturated be)], satBits al ++ satBits be))
  ∧ stepYields (.stepDecpl c w) c w r 10 [w.a + 1, w.b + 1, w.c + 3] s (fun W =>
      let one : Int := 2 ^ w.q.val
      let d := rounded (2 * w.q) (W w.a * one * one - W w.c * W (w.c + 1) * W (w.b + 1))
      let q := rounded (2 * w.q) (W (w.a + 1) * one * one + W w.c * (W (w.c + 2) * W w.b + W (w.c + 3) * one))
      ([(w.d.val, saturated d), (w.d.val + 1, saturated q)], satBits d ++ satBits q))
  ∧ (∀ three : Bool, stepYields (if three then .stepSvm3 c w else .stepSvm c w) c w r (if three then 32 else 24) [w.a + 1] s (fun W =>
      let v := svm (W w.a) (W (w.a + 1)) (w.imm.getLsbD 0) three
      ([(w.d.val, v.1.getD 0 0), (w.d.val + 1, v.1.getD 1 0), (w.d.val + 2, v.1.getD 2 0)], if v.2 then [1] else [])))

/-- The integer part that the model forms of a multiple of the square root of 3 is the exact one. CLARKE's second result before
saturation is v / sqrt 3 rounded to the nearest integer, halves up, and the second and third of ICLARKE are -a/2 + (sqrt 3/2) b
and -a/2 - (sqrt 3/2) b rounded so. A result of SINCOS before the free offset is used lies within 4 of the last bit of the scaled
sine that the model computes, unless it is held at the largest or least word. (04_loop_engine.md R107, R108, R501) -/
def Obligations.ExactConstants : Prop :=
  (∀ y : Int, floorSqrt3 y = ⌊(y : ℝ) * Real.sqrt 3⌋)
  ∧ (∀ v : Int, overSqrt3 v = ⌊(v : ℝ) / Real.sqrt 3 + 1 / 2⌋)
  ∧ (∀ a b : Int, (phases a b).1 = a
    ∧ (phases a b).2.1 = ⌊-(a : ℝ) / 2 + Real.sqrt 3 / 2 * b + 1 / 2⌋ ∧ (phases a b).2.2 = ⌊-(a : ℝ) / 2 - Real.sqrt 3 / 2 * b + 1 / 2⌋)
  ∧ (∀ u : Nat, sincos 1 u = 2 ^ 31 - 1 ∨ sincos 1 u = -2 ^ 31 ∨ |sincos 1 u * 2 ^ 65 - sinTurn u| ≤ 4 * 2 ^ 65)
  ∧ (∀ u : Nat, sincos 0 u = 2 ^ 31 - 1 ∨ sincos 0 u = -2 ^ 31 ∨ |sincos 0 u * 2 ^ 65 - sinTurn (u + 2 ^ 30)| ≤ 4 * 2 ^ 65)

/-- NOP, GETF, GETS, GETQ, GETE, GETC, GETT, GETR and GETX write the words that R108 names, GETF and GETS offset, scaled and rounded
with STALE_IN (bit 10) where the source is stale or missed, from what the step's first cycle has latched or, before that, from
what is readable in the dot; a channel above 15, a unit above 5 or an absent context is refused with BADOP, as is a result for
words 0 to 3 or beyond 63. MBXT writes the selected fresh bits and clears them. A context word of the own cluster is seen as it
stands, of the own region as at the last LINE_START, of another region as at the one before. No register and no other context
changes. (01_sweep.md R33, 04_loop_engine.md R100, R102, R106, R108, 03_sensing.md R80, R84, R89, R96) -/
def Obligations.StepsOfInput : Prop :=
  ∀ (s : State) (c : Fin 24) (w : StepW) (r : Run), atStep c r s →
  stepYields (.stepNop c w) c w r 1 [] s (fun _ => ([], []))
  ∧ (∀ ch : Nat, ch = w.imm.toNat % 16 + bits (ctxGet (128 * c + r.ctx) 0 s) 27 24 → ∀ k : Nat, k = w.imm.toNat / 16 % 2 →
    if 15 < ch then stepRefused (.stepGetf c w) c w r 3 s
    else stepYields (.stepGetf c w) c w r 3 [] s (fun W =>
      let i := runInput r [sint (fseen (if k = 0 then SDF_RES0_R else SDF_RES1_R) (16 * c + ch) s)]
        (fseen (if k = 0 then SDF_STAT_STALE0 else SDF_STAT_STALE1) (16 * c + ch) s % 2 == 1)
      let x := rounded w.q ((i.1.getD 0 0 - W w.b) * W w.c)
      ([(w.d.val, saturated x)], satBits x ++ if i.2 then [10] else [])))
  ∧ (∀ u : Nat, u = 16 * (4 * (c.val / 6) + w.imm.toNat % 4) + w.imm.toNat / 4 % 16 → stepYields (.stepGets c w) c w r 3 [] s (fun W =>
      let i := runInput r [(fseen SAR_RES_VALUE u s : Int)] (fseen SAR_RES_MISSED u s % 2 == 1)
      let x := rounded w.q ((i.1.getD 0 0 - W w.b) * W w.c)
      ([(w.d.val, saturated x)], satBits x ++ if i.2 then [10] else [])))
  ∧ (∀ u : Nat, u = 2 * c.val + w.imm.toNat % 2 → w.imm.toNat / 2 % 2 = 0 → stepYields (.stepGetq c w) c w r 3 [] s (fun _ => inWords w.d
      (runInput r [sint (fseen QEP_RES0_POS_POS u s), sint (fseen QEP_RES0_AGE_AGE u s), sint (fseen QEP_RES0_INT_INT u s)] false).1))
  ∧ (∀ u : Nat, u = 2 * c.val + w.imm.toNat % 2 → w.imm.toNat / 2 % 2 = 1 → stepYields (.stepGetq c w) c w r 3 [] s (fun _ => inWords w.d
      (runInput r [sint (fseen QEP_RES1_POS_POS u s), sint (fseen QEP_RES1_AGE_AGE u s), sint (fseen QEP_RES1_INT_INT u s)] false).1))
  ∧ (if 5 < w.imm.toNat % 8 then stepRefused (.stepGete c w) c w r 3 s
    else stepYields (.stepGete c w) c w r 3 [] s (fun _ => inWords w.d
      (runInput r [sint (fseen SEU_DATA_LO_DATA (6 * (c.val / 6) + w.imm.toNat % 8) s),
        sint (fseen SEU_DATA_HI_DATA (6 * (c.val / 6) + w.imm.toNat % 8) s), sint (seuStatWord (6 * (c.val / 6) + w.imm.toNat % 8) s)] false).1))
  ∧ stepYields (.stepGetc c w) c w r 2 [] s (fun _ =>
      inWords w.d (runInput r
        [(((List.range 16).map (fun j => if fseen CMP_STAT_OUT (16 * (c.val / 6) + j) s % 2 = 1 then 2 ^ j else 0)).sum : Nat)] false).1)
  ∧ stepYields (.stepGett c w) c w r 2 [] s (fun _ =>
      inWords w.d (runInput r [sint (fget TMR_COUNT_COUNT (4 * c.val + w.imm.toNat % 4) s)] false).1)
  ∧ stepYields (.stepGetr c w) c w r 2 [] s (fun _ =>
      inWords w.d (runInput r
        [sint ((List.range 32).map (fun i => if 0x1C0 + 32 * c.val + i ∈ s.fab.sinks then 2 ^ i else 0)).sum] false).1)
  ∧ (∀ g : Nat, g = w.imm.toNat / 2 ^ 6 % 2 ^ 12 → ∀ x : Nat, x = w.imm.toNat % 64 →
    if 3072 ≤ g ∨ clusterOn (g / 128) s = false then stepRefused (.stepGetx c w) c w r 2 s
    else stepYields (.stepGetx c w) c w r 2 [] s (fun _ =>
      inWords w.d (runInput r [sint (if g / 128 = c.val then ctxGet g x s
        else if g / 768 = c.val / 6 then sget 0 s.ctx1 (64 * g + x) else sget 0 s.ctx2 (64 * g + x))] false).1))
  ∧ completes (.stepMbxt c w) s (fun t => t = { s with ctx := t.ctx, hits := t.hits, eng := t.eng, trace := t.trace, flt := t.flt }
      ∧ engineAfter c w 2 r s t
      ∧ (if 4 ≤ w.d.val then t.flt = s.flt else reported (csrc c 4) (128 * c + r.ctx) r.cycle s t)
      ∧ ctxGet (128 * c + r.ctx) 1 t = (if 4 ≤ w.d.val then ctxGet (128 * c + r.ctx) 1 s else (ctxGet (128 * c + r.ctx) 1 s ||| 64) % 2 ^ 32)
      ∧ ∀ h x, 64 * h + x ≠ 64 * (128 * c + r.ctx) + 1 → ctxGet h x t = ctxGet h x
          (if 4 ≤ w.d.val then ctxApply (128 * c + r.ctx) w.d (runWordN c r s 55 &&& w.imm.toNat % 256)
              (ctxApply (128 * c + r.ctx) 55 (runWordN c r s 55 &&& w.imm.toNat % 256) s)
            else ctxApply (128 * c + r.ctx) 55 (runWordN c r s 55 &&& w.imm.toNat % 256) s))

/-- PUTC writes the shadow compares of its leg, or of the two legs of its pair, formed as R110 says, and no other register, or hands
them over 3 dots later where a spare serves; of a pair the even leg is written by the fifth cycle; MODE 3 and a leg out of range
are refused. PUTW writes the running context at once and another of the own cluster at the end of the dot; otherwise the value
crosses, in its last form of the line; an absent context and words 0 to 3 are refused. PUTE issues its event where W[A] is not 0
or IMM[4] is set; PUTL sets its level; PUBL hands the value to its publish entry, where a host's value of the same dot stands and
CLASH is set. SYNC waits. CORE is refused in CORE_MODE 0, takes 1 cycle with budget 0, and otherwise lets the run wait with its
budget and starts a loop core that is on and not LOCKED at its address. SKIP passes over nothing where W[A] is not 0, else over
IMM[7:0] steps, with their cycles where IMM[27] is set, ending where one ends the run. Without a run, after its end and while it
waits for its core no step does anything. (01_sweep.md R33, R35, 04_loop_engine.md R100, R101, R108, R109, R110, R117,
02_legs_pwm.md R61, 06_kremotos_link.md R167) -/
def Obligations.StepsOfOutput : Prop :=
  (∀ (s : State) (c : Fin 24) (w : StepW) (r : Run), atStep c r s →
  (∀ j : Nat, j = w.imm.toNat % 8 + bits (ctxGet (128 * c + r.ctx) 0 s) 30 28 →
    (w.imm.toNat / 8 % 4 = 3 ∨ (w.imm.toNat / 8 % 4 < 2 ∧ 5 < j) → stepRefused (.stepPutc c w) c w r 6 s)
    ∧ (w.imm.toNat / 8 % 4 = 2 → 2 < j → stepRefused (.stepPutc c w) c w r 10 s)
    ∧ (∀ k : Compares, k = (if w.imm.toNat / 8 % 4 = 0 then triangleCompares (runWord c r s w.a) (runWordN c r s w.b)
          else sawtoothCompares (runWord c r s w.a) (runWord c r s w.c) (runWordN c r s w.b)) →
        w.imm.toNat / 8 % 4 < 2 → j ≤ 5 → fbit LPE_STAT_SUBST c s = false →
        completes (.stepPutc c w) s (fun t => t = { s with regs := t.regs, hits := t.hits, eng := t.eng } ∧ engineAfter c w 6 r s t
          ∧ onlyFields (compareFields (6 * c + j)) s t ∧ shadowHolds (6 * c + j) k t))
    ∧ (∀ k : Compares, k = (if w.imm.toNat / 8 % 4 = 0 then triangleCompares (runWord c r s w.a) (runWordN c r s w.b)
          else sawtoothCompares (runWord c r s w.a) (runWord c r s w.c) (runWordN c r s w.b)) →
        w.imm.toNat / 8 % 4 < 2 → j ≤ 5 → fbit LPE_STAT_SUBST c s = true → completes (.stepPutc c w) s (fun t =>
          t = { s with due := t.due, eng := t.eng } ∧ engineAfter c w 6 r s t
          ∧ scheduled 3 (.legQuad (6 * c + j) k.period k.cmpa k.cmpb k.fine) s t))
    ∧ (∀ k : Compares, k = triangleCompares (max (runWord c r s w.a) 0) (runWordN c r s w.b) →
        ∀ m : Compares, m = triangleCompares (if 0 ≤ runWord c r s w.a then 2 ^ 31 - 1 else 2 ^ 31 + runWord c r s w.a) (runWordN c r s w.b) →
        w.imm.toNat / 8 % 4 = 2 → j ≤ 2 → fbit LPE_STAT_SUBST c s = true → completes (.stepPutc c w) s (fun t =>
          t = { s with due := t.due, eng := t.eng } ∧ engineAfter c w 10 r s t
          ∧ t.due = s.due ++ (if r.half then [] else [(s.time + 3, Due.legQuad (6 * c + 2 * j) k.period k.cmpa k.cmpb k.fine)])
            ++ [(s.time + 3, .legQuad (6 * c + 2 * j + 1) m.period m.cmpa m.cmpb m.fine)]))
    ∧ (w.imm.toNat / 8 % 4 = 2 → j ≤ 2 → r.half = true → fbit LPE_STAT_SUBST c s = false → completes (.stepPutc c w) s (fun t =>
        t = { s with regs := t.regs, hits := t.hits, eng := t.eng } ∧ engineAfter c w 10 r s t
        ∧ onlyFields (compareFields (6 * c + 2 * j + 1)) s t
        ∧ shadowHolds (6 * c + 2 * j + 1) (triangleCompares (if 0 ≤ runWord c r s w.a then 2 ^ 31 - 1 else 2 ^ 31 + runWord c r s w.a)
            (runWordN c r s w.b)) t))
    ∧ (w.imm.toNat / 8 % 4 = 2 → j ≤ 2 → r.half = false → fbit LPE_STAT_SUBST c s = false → completes (.stepPutc c w) s (fun t =>
        t = { s with regs := t.regs, hits := t.hits, eng := t.eng } ∧ engineAfter c w 10 r s t
        ∧ onlyFields (compareFields (6 * c + 2 * j) ++ compareFields (6 * c + 2 * j + 1)) s t
        ∧ shadowHolds (6 * c + 2 * j) (triangleCompares (max (runWord c r s w.a) 0) (runWordN c r s w.b)) t
        ∧ shadowHolds (6 * c + 2 * j + 1) (triangleCompares (min (2 ^ 31 + runWord c r s w.a) (2 ^ 31 - 1))
            (runWordN c r s w.b)) t)))
  ∧ (∀ g : Nat, g = w.imm.toNat / 2 ^ 6 % 2 ^ 12 → ∀ x : Nat, x = w.imm.toNat % 64 →
    if 3072 ≤ g ∨ clusterOn (g / 128) s = false ∨ x < 4 then stepRefused (.stepPutw c w) c w r 2 s
    else if g = 128 * c.val + r.ctx then completes (.stepPutw c w) s (fun t => t = { s with ctx := t.ctx, eng := t.eng, trace := t.trace }
      ∧ engineAfter c w 2 r s t ∧ ∀ h y, ctxGet h y t = ctxGet h y (ctxApply g x (runWordN c r s w.a) s))
    else if g / 128 = c.val then completes (.stepPutw c w) s (fun t => t = { s with due := t.due, eng := t.eng } ∧ engineAfter c w 2 r s t
      ∧ scheduled 0 (.ctxPut g x (runWordN c r s w.a)) s t)
    else completes (.stepPutw c w) s (fun t => t = { s with cross := t.cross, eng := t.eng } ∧ engineAfter c w 2 r s t
      ∧ t.cross = s.cross.filter (fun e => !(e.left == (if g / 768 = c.val / 6 then 1 else 2) && e.far == (g / 768 != c.val / 6)
            && e.ctx == g && e.word == x))
          ++ [⟨if g / 768 = c.val / 6 then 1 else 2, g / 768 != c.val / 6, g, x, runWordN c r s w.a⟩]))
  ∧ (runWord c r s w.a ≠ 0 ∨ w.imm.getLsbD 4 = true → completes (.stepPute c w) s (fun t => t = { s with fab := t.fab, eng := t.eng }
      ∧ engineAfter c w 1 r s t ∧ issued (0x1000 + 32 * c.val + w.imm.toNat % 16) s t))
  ∧ (runWord c r s w.a = 0 → w.imm.getLsbD 4 = false → stepYields (.stepPute c w) c w r 1 [] s (fun _ => ([], [])))
  ∧ completes (.stepPutl c w) s (fun t => t = { s with eng := t.eng } ∧ (eng c t).run = some (afterStep w 1 r)
      ∧ (∀ i, (eng c t).out.testBit i = if i = w.imm.toNat % 16 then decide (runWord c r s w.a ≠ 0) else (eng c s).out.testBit i)
      ∧ ∀ k, k ≠ c.val → eng k t = eng k s)
  ∧ (∀ e : Nat, e = w.imm.toNat % 2 ^ 10 → completes (.stepPubl c w) s (fun t => t = { s with regs := t.regs, hits := t.hits, eng := t.eng, link := t.link }
      ∧ engineAfter c w 4 r s t ∧ fget PUB_STAT_WRITTEN e t = 1
      ∧ (sget (0, false) s.link.handed e ≠ (s.time + 1, true) → fget PUB_VALUE_VALUE e t = runWordN c r s w.a % 2 ^ 32
          ∧ fget PUB_PPOS_LINE e t = s.pos.line % 2 ^ 12 ∧ fget PUB_PPOS_DOT e t = s.pos.dot % 2 ^ 14)
      ∧ ((sget (0, false) s.link.handed e).1 = s.time + 1 → fget PUB_STAT_CLASH e t = 1)
      ∧ onlyFields [(PUB_VALUE_VALUE, e), (PUB_STAT_WRITTEN, e), (PUB_PPOS_LINE, e), (PUB_PPOS_DOT, e), (PUB_STAT_CLASH, e)] s t))
  ∧ stepYields (.stepSync c w) c w r (max 1 (w.imm.toNat % 2 ^ 12 - r.cycle)) [] s (fun _ => ([], []))
  ∧ (runWord c r s w.a ≠ 0 → stepYields (.stepSkip c w) c w r 1 [] s (fun _ => ([], [])))
  ∧ (runWord c r s w.a = 0 → completes (.stepSkip c w) s (fun t => t = { s with eng := t.eng }
      ∧ eng c t = { eng c s with run := some (passedOver c (w.imm.getLsbD 27) s (w.imm.toNat % 256) (afterStep w 1 r)) }
      ∧ ∀ k, k ≠ c.val → eng k t = eng k s))
  ∧ (fbit LPE_CFG_CORE_MODE c s = false → stepRefused (.stepCore c w) c w r 10 s)
  ∧ (fbit LPE_CFG_CORE_MODE c s = true → w.imm.toNat / 2 ^ 16 = 0 → stepYields (.stepCore c w) c w r 1 [] s (fun _ => ([], [])))
  ∧ (fbit LPE_CFG_CORE_MODE c s = true → w.imm.toNat / 2 ^ 16 ≠ 0 → completes (.stepCore c w) s (fun t =>
      t = { s with eng := t.eng, cpus := t.cpus } ∧ (eng c t).run = some { r with core := some (r.cycle + 6, w.imm.toNat / 2 ^ 16) }
      ∧ ((cpu (16 + c) s).state ≠ .off → fbit EXC_STAT_LOCKED (16 + c) s = false →
          (cpu (16 + c) t).state = .run ∧ (cpu (16 + c) t).pc = 4 * (w.imm.toNat % 2 ^ 16))
      ∧ ∀ k, k ≠ 16 + c.val → cpu k t = cpu k s)))
  ∧ (∀ (s : State) (c : Fin 24) (w : StepW), (∀ r ∈ (eng c s).run, r.ended = true ∨ r.core ≠ none) →
    ∀ i ∈ [Instr.stepNop c w, .stepGetf c w, .stepGets c w, .stepGetq c w, .stepGete c w, .stepGetc c w, .stepGett c w, .stepGetr c w,
      .stepGetx c w, .stepMbxt c w, .stepPutc c w, .stepPutw c w, .stepPute c w, .stepPutl c w, .stepPubl c w, .stepMov c w,
      .stepLdk c w, .stepAdd c w, .stepSub c w, .stepMul c w, .stepMac c w, .stepDiv c w, .stepNeg c w, .stepAbs c w, .stepMin c w,
      .stepMax c w, .stepScale c w, .stepShift c w, .stepSqrt c w, .stepSat c w, .stepRate c w, .stepDead c w, .stepHyst c w,
      .stepVlim c w, .stepCmpgt c w, .stepCmpeq c w, .stepSel c w, .stepSkip c w, .stepAnd c w, .stepOr c w, .stepXor c w, .stepPi c w,
      .stepPid c w, .stepBiq c w, .stepLpf1 c w, .stepIntg c w, .stepDiff c w, .stepSs2 c w, .stepSs3 c w, .stepSs4 c w, .stepTbl c w,
      .stepTbl2 c w, .stepSincos c w, .stepClarke c w, .stepIclarke c w, .stepPark c w, .stepIpark c w, .stepDecpl c w, .stepSvm c w,
      .stepSvm3 c w, .stepSpdmt c w, .stepAngle c w, .stepCore c w, .stepSync c w], ignored i s)

/-- For any duty and period, the compares of a triangle carrier in fine steps are P x 16 - h and P x 16 + h with h between 0 and P x
16: a duty of zero or less gives equal compares, a full duty the whole period. Those of a sawtooth lie in order within the period
from the start, which is never negative. Conditions 3 and 4 of R62 therefore hold. (04_loop_engine.md R110, 02_legs_pwm.md R62) -/
def Obligations.ComparesOfADuty : Prop :=
  (∀ (d : Int) (p : Nat), ∃ h ≤ p * 16, (triangleCompares d p).cmpa * 32 + (triangleCompares d p).fine % 256 = p * 16 - h
    ∧ (triangleCompares d p).cmpb * 32 + (triangleCompares d p).fine / 256 = p * 16 + h ∧ (triangleCompares d p).period = p
    ∧ (d ≤ 0 → h = 0) ∧ (2 ^ 31 - 1 ≤ d → h = p * 16))
  ∧ (∀ (d st : Int) (p : Nat), ∃ a b, (sawtoothCompares d st p).cmpa * 32 + (sawtoothCompares d st p).fine % 256 = a
    ∧ (sawtoothCompares d st p).cmpb * 32 + (sawtoothCompares d st p).fine / 256 = b ∧ a ≤ b ∧ b ≤ p * 32 ∧ (st ≤ 0 → a = 0)
    ∧ (d ≤ 0 → b = a))

/-- A kick in RUN puts the context at the end of the queue, or sets bit 4 of CTX_STAT where it is queued already or the queue is full
(QFULL and a report then); outside RUN it sets CFG_REFUSED, in a disabled cluster it ends in a bus error. A slot dispatches the
context its entry names in the same way in RUN and does nothing outside it. A dispatch start takes the head: lost in a halted
engine, discarded with EN clear, else a run begins at the context's ENTRY in the first free cycle and RUNNING is set. A run's end
counts CTX_RUNS, stamps its start, clears RUNNING, frees the engine at its last cycle and releases its holds, 3 dots later where a
spare serves; one that ran past step 2,047 sets RUNOFF and reports. A routine's return within its budget ends the CORE step 4
cycles later, a later one does nothing, one that no run waits for leaves the core idle in CORE_MODE 1; a spent budget cuts the run
with CUT and BUDGET and reports. Memory is free of errors. Without what they need these commands do nothing. (04_loop_engine.md
R101, R104, R105, R112, R113, R114, R117, R118, R119, 15_faults.md R378, 00_scope.md R5) -/
def Obligations.EngineDispatch : Prop :=
  ∀ (s : State) (c : Fin 24),
  (∀ ctx : Fin 128, clusterOn c s = false → exec (.lpeKick c ctx) s = .next { s with resp := ⟨0, true⟩ })
  ∧ (∀ ctx : Fin 128, clusterOn c s = true → regionRun (c / 6) s = false → completes (.lpeKick c ctx) s (fun t => t = { s with regs := t.regs, hits := t.hits }
    ∧ onlyFields [(LPE_STAT_CFG_REFUSED, c)] s t ∧ fget LPE_STAT_CFG_REFUSED c t = 1))
  ∧ (∀ ctx : Fin 128, clusterOn c s = true → regionRun (c / 6) s = true → (∀ e ∈ (eng c s).queue, e.1 ≠ ctx.val) → (eng c s).queue.length < 32 →
    completes (.lpeKick c ctx) s (fun t => t = { s with regs := t.regs, eng := t.eng }
      ∧ eng c t = { eng c s with queue := (eng c s).queue ++ [(ctx.val, s.time)] } ∧ (∀ j, j ≠ c.val → eng j t = eng j s)
      ∧ fget LPE_STAT_QDEPTH c t = (eng c s).queue.length + 1 ∧ onlyFields [(LPE_STAT_QDEPTH, c), (LPE_STAT_QMAX, c)] s t))
  ∧ (∀ ctx : Fin 128, clusterOn c s = true → regionRun (c / 6) s = true → (∃ e ∈ (eng c s).queue, e.1 = ctx.val) → completes (.lpeKick c ctx) s (fun t =>
      t = { s with ctx := t.ctx, hits := t.hits } ∧ ctxGet (128 * c.val + ctx.val) 1 t = (ctxGet (128 * c.val + ctx.val) 1 s ||| 16) % 2 ^ 32
      ∧ ∀ h x, 64 * h + x ≠ 64 * (128 * c.val + ctx.val) + 1 → ctxGet h x t = ctxGet h x s))
  ∧ (∀ ctx : Fin 128, clusterOn c s = true → regionRun (c / 6) s = true → (∀ e ∈ (eng c s).queue, e.1 ≠ ctx.val) → 32 ≤ (eng c s).queue.length →
    completes (.lpeKick c ctx) s (fun t => t = { s with regs := t.regs, ctx := t.ctx, hits := t.hits, flt := t.flt }
      ∧ onlyFields [(LPE_STAT_QFULL, c)] s t ∧ fget LPE_STAT_QFULL c t = 1 ∧ reported (csrc c 6) (128 * c.val + ctx.val) 0 s t
      ∧ ctxGet (128 * c.val + ctx.val) 1 t = (ctxGet (128 * c.val + ctx.val) 1 s ||| 16) % 2 ^ 32
      ∧ ∀ h x, 64 * h + x ≠ 64 * (128 * c.val + ctx.val) + 1 → ctxGet h x t = ctxGet h x s))
  ∧ (∀ e : Fin 256, regionRun (c / 6) s = true → clusterOn c s = true → memorySound s →
    exec (.lpeSlotFire c e) s = exec (.lpeKick c (Fin.ofNat 128 (mread (0x44000000 + 0x10000 * c + 0xE004 + 8 * e) 4 s))) s)
  ∧ (∀ e : Fin 256, regionRun (c / 6) s = false ∨ clusterOn c s = false → ignored (.lpeSlotFire c e) s)
  ∧ ((eng c s).run ≠ none ∨ (eng c s).queue = [] → ignored (.dispatchStart c) s)
  ∧ ((eng c s).run = none → ∀ q ∈ (eng c s).queue.head?, ∀ ctx, ctx = q.1 → ∀ d, d = q.2 → ∀ rest, rest = (eng c s).queue.tail → (eng c s).halted = true →
    completes (.dispatchStart c) s (fun t => t = { s with regs := t.regs, eng := t.eng }
      ∧ eng c t = { eng c s with queue := rest } ∧ fget LPE_LOST_LOST c t = min (fget LPE_LOST_LOST c s + 1) 65535
      ∧ onlyFields [(LPE_LOST_LOST, c), (LPE_STAT_QDEPTH, c), (LPE_STAT_QMAX, c)] s t))
  ∧ ((eng c s).run = none → ∀ q ∈ (eng c s).queue.head?, ∀ ctx, ctx = q.1 → ∀ d, d = q.2 → ∀ rest, rest = (eng c s).queue.tail → (eng c s).halted = false →
    (ctxGet (128 * c + ctx) 0 s).testBit 31 = false → completes (.dispatchStart c) s (fun t => t = { s with regs := t.regs, eng := t.eng }
      ∧ eng c t = { eng c s with queue := rest } ∧ onlyFields [(LPE_STAT_QDEPTH, c), (LPE_STAT_QMAX, c)] s t))
  ∧ ((eng c s).run = none → ∀ q ∈ (eng c s).queue.head?, ∀ ctx, ctx = q.1 → ∀ d, d = q.2 → ∀ rest, rest = (eng c s).queue.tail → (eng c s).halted = false →
    (ctxGet (128 * c + ctx) 0 s).testBit 31 = true → completes (.dispatchStart c) s (fun t =>
      t = { s with regs := t.regs, hits := t.hits, eng := t.eng, holds := t.holds } ∧ (∀ j, j ≠ c.val → eng j t = eng j s)
      ∧ eng c t = { eng c s with queue := rest, run := some ⟨ctx, bits (ctxGet (128 * c + ctx) 0 s) 10 0, 2,
          max (max (eng c s).freeAt (2 * d)) (2 * s.time), s.pos, false, none, none, false⟩ }
      ∧ (∀ e, e ∈ t.holds ↔ e ∈ s.holds ∨ ∃ j < 6, (ctxGet (128 * c + ctx) 0 s).testBit (16 + j) = true ∧ e = (6 * c + j, 128 * c + ctx))
      ∧ fget LPE_STAT_RUNNING c t = 1 ∧ fget LPE_STAT_QDEPTH c t = rest.length % 64
      ∧ onlyFields [(LPE_STAT_QDEPTH, c), (LPE_STAT_QMAX, c), (LPE_STAT_RUNNING, c), (LPE_BUSY_MAXWAIT, c)] s t))
  ∧ ((eng c s).run = none → ignored (.runEnd c) s ∧ ignored (.coreBudgetExpiry c) s)
  ∧ (clusterOn c s = false → ∀ n, ignored (.lcxRetWrite c n) s)
  ∧ (fbit LPE_CFG_CORE_MODE c s = false → (∀ r ∈ (eng c s).run, r.core = none) → ∀ n, ignored (.lcxRetWrite c n) s)
  ∧ (fbit LPE_CFG_CORE_MODE c s = true → clusterOn c s = true → (∀ r ∈ (eng c s).run, r.core = none) → ∀ n, completes (.lcxRetWrite c n) s (fun t =>
      t = { s with cpus := t.cpus } ∧ cpu (16 + c) t = { cpu (16 + c) s with state := .idle } ∧ ∀ k, k ≠ 16 + c.val → cpu k t = cpu k s))
  ∧ (∀ r ∈ (eng c s).run, memorySound s → completes (.runEnd c) s (fun t =>
      t = { s with regs := t.regs, hits := t.hits, ctx := t.ctx, eng := t.eng, holds := t.holds, due := t.due, flt := t.flt }
      ∧ eng c t = { eng c s with run := none, freeAt := r.start + r.cycle, busy := (eng c s).busy + (r.start + r.cycle - max (eng c s).from_ r.start) }
      ∧ (∀ j, j ≠ c.val → eng j t = eng j s)
      ∧ ctxGet (128 * c + r.ctx) 2 t = (ctxGet (128 * c + r.ctx) 2 s + 1) % 2 ^ 32
      ∧ ctxGet (128 * c + r.ctx) 3 t = (r.start % 2 * 2 ^ 26 + r.pos.line * 2 ^ 14 + r.pos.dot) % 2 ^ 32
      ∧ (if r.ended = true ∧ r.pc = 2048 ∧ (stepWord c 2047 s).testBit 28 = false
        then ctxGet (128 * c + r.ctx) 1 t = (ctxGet (128 * c + r.ctx) 1 s ||| 32) % 2 ^ 32
          ∧ reported (csrc c 5) (128 * c + r.ctx) (r.cycle - 1) s t
        else ctxGet (128 * c + r.ctx) 1 t = ctxGet (128 * c + r.ctx) 1 s ∧ t.flt = s.flt)
      ∧ (∀ h x, (∀ k, 1 ≤ k ∧ k ≤ 3 → 64 * h + x ≠ 64 * (128 * c + r.ctx) + k) → ctxGet h x t = ctxGet h x s)
      ∧ (if fbit LPE_STAT_SUBST c s
        then t.holds = s.holds ∧ scheduled 3 (.release (heldLegs c (128 * c + r.ctx) s)) s t
        else t.due = s.due ∧ ∀ e, t.holds.count e = s.holds.count e
          - if e.1 / 6 = c.val ∧ e.2 = 128 * c + r.ctx ∧ (ctxGet (128 * c + r.ctx) 0 s).testBit (16 + e.1 % 6) = true then 1 else 0)
      ∧ fget LPE_STAT_RUNNING c t = 0 ∧ onlyFields [(LPE_STAT_RUNNING, c)] s t))
  ∧ (∀ r ∈ (eng c s).run, clusterOn c s = true → ∀ b ∈ r.core, ∀ n, n ≤ b.2 → r.cycle ≤ b.1 → completes (.lcxRetWrite c n) s (fun t =>
      t = { s with eng := t.eng, cpus := t.cpus } ∧ cpu (16 + c) t = { cpu (16 + c) s with state := .idle } ∧ (∀ k, k ≠ 16 + c.val → cpu k t = cpu k s)
      ∧ eng c t = { eng c s with run := some ⟨r.ctx, r.pc + 1, b.1 + n + 4, r.start, r.pos,
          (stepWord c r.pc s).testBit 28 || decide (2047 ≤ r.pc), none, none, false⟩ } ∧ ∀ j, j ≠ c.val → eng j t = eng j s))
  ∧ (∀ r ∈ (eng c s).run, ∀ b ∈ r.core, ∀ n, b.2 < n → ignored (.lcxRetWrite c n) s)
  ∧ (∀ r ∈ (eng c s).run, r.core = none → ignored (.coreBudgetExpiry c) s)
  ∧ (∀ r ∈ (eng c s).run, ∀ b ∈ r.core, memorySound s → completes (.coreBudgetExpiry c) s (fun t =>
      t = { s with regs := t.regs, hits := t.hits, ctx := t.ctx, eng := t.eng, holds := t.holds, due := t.due, flt := t.flt, cpus := t.cpus }
      ∧ (eng c t).run = none ∧ (eng c t).held = (eng c s).held ∧ (eng c t).freeAt = r.start + (b.1 + b.2) ∧ (∀ j, j ≠ c.val → eng j t = eng j s)
      ∧ reported (csrc c 7) (128 * c + r.ctx) (b.1 + b.2) s t ∧ fget LPE_STAT_RUNNING c t = 0
      ∧ ctxGet (128 * c + r.ctx) 1 t = (ctxGet (128 * c + r.ctx) 1 s ||| 640) % 2 ^ 32
      ∧ ctxGet (128 * c + r.ctx) 2 t = (ctxGet (128 * c + r.ctx) 2 s + 1) % 2 ^ 32
      ∧ (∀ h x, (∀ k, 1 ≤ k ∧ k ≤ 3 → 64 * h + x ≠ 64 * (128 * c + r.ctx) + k) → ctxGet h x t = ctxGet h x s)
      ∧ (fbit EXC_STAT_LOCKED (16 + c) s = false → fbit EXC_STAT_IN_REFUGE (16 + c) s = false →
          (cpu (16 + c) t).faults = (cpu (16 + c) s).faults ++ [csrc c 7])
      ∧ (∀ k, k ≠ 16 + c.val → cpu k t = cpu k s)
      ∧ onlyFields [(LPE_STAT_RUNNING, c), (CPU_LOST_FAULTS, 16 + c), (EXC_STAT_FAULT_PEND, 16 + c)] s t))

/-- A mismatch of a cluster's own pair, where the engine has run up to its cycle, halts the engine with HALTED and LOCK_ERR, cuts its
run, issues LPE_HALT and reports LPE_LOCK with the run's context and cycle; it does nothing where a spare serves or a self-test
masks it. One of the spare in service halts the served cluster so, sets SPARE_FAIL and reports LPE_NOSPARE; of a spare that
shadows, it sets SPARE_FAIL and reports LPE_SPARE. Where an LPE_LOCK report is latched whose entry calls for it, the spare is set
to take over at the next frame, or the one after where fewer than 3 lines are left, if it is enabled for the cluster, ready, idle
and sound; otherwise LPE_NOSPARE's fault bit is set. RSP_CFG is refused while the spare serves or for a cluster that is absent,
else takes the word: EN starts the mirror copy, which sets MIRROR_READY 8,001 dots later while EN stands. A takeover sets
IN_SERVICE, SERVING, SUBST and the frame, reports, lets the engine run and leaves the memory in use, or zero where a self-test
wiped the mirror. RETURN waits for the restart, and only while the region is STOPPED. (04_loop_engine.md R119, R120, R121, R122,
R123, 15_faults.md R378, R382) -/
def Obligations.LockstepAndSpare : Prop :=
  ∀ (s : State),
  (∀ (c : Fin 24) (h : Fin 2), clusterOn c s = true → fbit LPE_STAT_SUBST c s = false → testing (16 + c) s = false →
    engineNext c (2 * s.time + h) s = none → memorySound s → completes (.lockstepMismatch ⟨.cluster c, h⟩) s (fun t =>
    t = { s with regs := t.regs, hits := t.hits, ctx := t.ctx, eng := t.eng, holds := t.holds, fab := t.fab, flt := t.flt }
    ∧ (eng c t).run = none ∧ (eng c t).halted = true ∧ (eng c t).queue = (eng c s).queue ∧ (∀ j, j ≠ c.val → eng j t = eng j s)
    ∧ fget LPE_STAT_HALTED c t = 1 ∧ fget LPE_STAT_LOCK_ERR c t = 1 ∧ issued (0x1300 + c.val) s t
    ∧ reported (csrc c 8) (runInfo c (2 * s.time + h) s).1 (runInfo c (2 * s.time + h) s).2 s t
    ∧ (∀ r ∈ (eng c s).run, ctxGet (128 * c + r.ctx) 1 t = (ctxGet (128 * c + r.ctx) 1 s ||| 512) % 2 ^ 32
        ∧ fget LPE_STAT_RUNNING c t = 0 ∧ runInfo c (2 * s.time + h) s = (128 * c + r.ctx, 2 * s.time + h - r.start))
    ∧ onlyFields [(LPE_STAT_HALTED, c), (LPE_STAT_LOCK_ERR, c), (LPE_STAT_RUNNING, c)] s t))
  ∧ (∀ (n : Fin 4) (h : Fin 2) (c : Nat), c = 6 * n.val + fget RSP_STAT_SERVING n s → fget RSP_STAT_SERVING n s < 6 →
    fbit RSP_STAT_IN_SERVICE n s = true → fbit LPE_STAT_SUBST c s = true → engineNext (Fin.ofNat 24 c) (2 * s.time + h) s = none → memorySound s →
    completes (.lockstepMismatch ⟨.spare n, h⟩) s (fun t =>
    t = { s with regs := t.regs, hits := t.hits, ctx := t.ctx, eng := t.eng, due := t.due, fab := t.fab, flt := t.flt }
    ∧ (eng c t).run = none ∧ (eng c t).halted = true ∧ (∀ j, j ≠ c → eng j t = eng j s)
    ∧ fget LPE_STAT_HALTED c t = 1 ∧ fget LPE_STAT_LOCK_ERR c t = 1 ∧ fget RSP_STAT_SPARE_FAIL n t = 1 ∧ issued (0x1300 + c) s t
    ∧ reported (rsrc n 60) c 0 s t
    ∧ onlyFields [(LPE_STAT_HALTED, c), (LPE_STAT_LOCK_ERR, c), (LPE_STAT_RUNNING, c), (RSP_STAT_SPARE_FAIL, n.val)] s t))
  ∧ (∀ c : Fin 24, ∀ r ∈ s.flt.reports, r.src = csrc c 8 → s.flt.reports = [r] → (reaction (csrc c 8) s).testBit 7 = true → completes .faultReportLatch s (fun t =>
    (canTakeOver (c / 6) (c % 6) s = true →
      spare (c / 6) t = { spare (c / 6) s with takeAt := some ((r.pos.frame + (if r.pos.line + 3 ≤ linesEff s then 1 else 2)) % 2 ^ 32, c.val % 6) })
    ∧ (canTakeOver (c / 6) (c % 6) s = false → t.spare = s.spare ∧ (reporterOn (rsrc (c / 6) 60) s = true → fbitAt FLT_RG_HI_BITS (c / 6) 28 t = true))))
  ∧ (∀ (c : Fin 24) (h : Fin 2), clusterOn c s = false ∨ fbit LPE_STAT_SUBST c s = true ∨ testing (16 + c) s = true →
    ignored (.lockstepMismatch ⟨.cluster c, h⟩) s)
  ∧ (∀ (n : Fin 4) (h : Fin 2), fbit RSP_STAT_IN_SERVICE n s = false → testing (48 + n) s = false → completes (.lockstepMismatch ⟨.spare n, h⟩) s (fun t =>
    t = { s with regs := t.regs, hits := t.hits, flt := t.flt } ∧ reported (rsrc n 59) (6 * n + fget RSP_CFG_DESIG n s) 0 s t
    ∧ onlyFields [(RSP_STAT_SPARE_FAIL, n)] s t ∧ fget RSP_STAT_SPARE_FAIL n t = 1))
  ∧ (∀ (n : Fin 4) (v : Word), v.toNat / 256 % 2 = fget RSP_CFG_EN n s → v.toNat % 8 = fget RSP_CFG_DESIG n s → ignored (.rspCfgWrite n v) s)
  ∧ (∀ (n : Fin 4) (v : Word), v.toNat / 256 % 2 ≠ fget RSP_CFG_EN n s ∨ v.toNat % 8 ≠ fget RSP_CFG_DESIG n s →
    fbit RSP_STAT_IN_SERVICE n s = true ∨ 5 < v.toNat % 8 ∨ clusterOn (6 * n + v.toNat % 8) s = false →
    completes (.rspCfgWrite n v) s (fun t => t = { s with regs := t.regs, hits := t.hits } ∧ onlyFields [(RSP_STAT_CFG_REFUSED, n)] s t
      ∧ fget RSP_STAT_CFG_REFUSED n t = 1))
  ∧ (∀ (n : Fin 4) (v : Word), v.toNat / 256 % 2 ≠ fget RSP_CFG_EN n s ∨ v.toNat % 8 ≠ fget RSP_CFG_DESIG n s →
    fbit RSP_STAT_IN_SERVICE n s = false → v.toNat % 8 ≤ 5 → clusterOn (6 * n + v.toNat % 8) s = true → completes (.rspCfgWrite n v) s (fun t =>
      t = { s with regs := t.regs, spare := t.spare, due := t.due } ∧ fget RSP_CFG_EN n t = v.toNat / 256 % 2 ∧ fget RSP_CFG_DESIG n t = v.toNat % 8
      ∧ fget RSP_STAT_MIRROR_READY n t = 0 ∧ (∀ k, k ≠ n.val → spare k t = spare k s)
      ∧ spare n t = (if v.toNat / 256 % 2 = 1 then { spare n s with wiped := false } else spare n s)
      ∧ t.due = s.due.filter (fun e => !(e.2 == Due.cmd (.mirrorCopyDone n)))
          ++ (if v.toNat / 256 % 2 = 1 then [(s.time + 8001, Due.cmd (.mirrorCopyDone n))] else [])
      ∧ onlyFields [(RSP_CFG_EN, n), (RSP_CFG_DESIG, n), (RSP_STAT_MIRROR_READY, n)] s t))
  ∧ (∀ n : Fin 4, fbit RSP_CFG_EN n s = true → completes (.mirrorCopyDone n) s (fun t => t = { s with regs := t.regs, hits := t.hits }
    ∧ onlyFields [(RSP_STAT_MIRROR_READY, n)] s t ∧ fget RSP_STAT_MIRROR_READY n t = 1))
  ∧ (∀ n : Fin 4, fbit RSP_CFG_EN n s = false → ignored (.mirrorCopyDone n) s)
  ∧ (∀ n : Fin 4, (spare n s).takeAt = none → ignored (.spareTakeover n) s)
  ∧ (∀ (n : Fin 4) (f j : Nat), (spare n s).takeAt = some (f, j) → j < 6 → completes (.spareTakeover n) s (fun t =>
    fget RSP_STAT_IN_SERVICE n t = 1 ∧ fget RSP_STAT_SWAP_DONE n t = 1 ∧ fget RSP_STAT_SERVING n t = j
    ∧ fget RSP_SWAPF_FRAME n t = s.pos.frame % 2 ^ 32 ∧ fget LPE_STAT_SUBST (6 * n + j) t = 1
    ∧ (spare n t).takeAt = none ∧ (eng (6 * n + j) t).halted = false
    ∧ reported (rsrc n 58) (6 * n + j) 0 s t
    ∧ ∀ a, a < 2 ^ 40 → mget a t = if (spare n s).wiped && inMirror (6 * n + j) a then 0 else mget a s))
  ∧ (∀ n : Fin 4, regionStopped n s = true → fbit RSP_STAT_IN_SERVICE n s = true → completes (.return n) s (fun t =>
    t = { s with spare := t.spare } ∧ spare n t = { spare n s with back := true } ∧ ∀ k, k ≠ n.val → spare k t = spare k s))
  ∧ (∀ n : Fin 4, regionStopped n s = false ∨ fbit RSP_STAT_IN_SERVICE n s = false → ignored (.return n) s)

/-- A route entry that fails a check, or that touches, as it was or as it becomes, a region that is not STOPPED, sets FAB_CFG_REFUSED
and changes nothing else. Any other takes its place in the next dot: the entry of its sink then reads as written but with SINK 0,
and every other byte of memory and every register stays. A write of FAB_SOFT sets all 32 levels of its word in the next dot. A
write of FAB_PULSE issues in the next dot the pulse of each bit that is 1 and no other. A sink whose entry has COUNT 0 is 0.
(05_fabric_timers_image.md R129, R130, R133, R134, R142) -/
def Obligations.RoutesAndSoftLevels : Prop :=
  ∀ s : State,
  (∀ (k : Fin 1728) (v : BitVec 128),
    (routeBad k v.toNat s = true ∨ ∃ n ∈ rtRegions k (routeEntry k s) ++ rtRegions k v.toNat, regionStopped n s = false) →
    completes (.routeWrite k v) s (fun t => t = { s with regs := t.regs, hits := t.hits } ∧ fget FAB_STAT_CFG_REFUSED 0 t = 1
      ∧ onlyFields [(FAB_STAT_CFG_REFUSED, 0)] s t))
  ∧ (∀ (k : Fin 1728) (v : BitVec 128), routeBad k v.toNat s = false →
    (∀ n ∈ rtRegions k (routeEntry k s) ++ rtRegions k v.toNat, regionStopped n s = true) →
    completes (.routeWrite k v) s (fun t => t = { s with due := t.due } ∧ scheduled 1 (.route k v.toNat) s t))
  ∧ (∀ (k : Fin 1728) (v : BitVec 128), routeEntry k (settle (.route k v.toNat) s) = v.toNat / 2 ^ 16 * 2 ^ 16
    ∧ settle (.route k v.toNat) s = { s with mem := (settle (.route k v.toNat) s).mem }
    ∧ ∀ a, (a < 0x45000000 + 16 * k.val ∨ 0x45000000 + 16 * k.val + 16 ≤ a) → mget a (settle (.route k v.toNat) s) = mget a s)
  ∧ (∀ v : Word, completes (.fabSoftWrite 0 v) s (fun t => t = { s with due := t.due } ∧ scheduled 1 (.field FAB_SOFT0_LEVEL 0 v.toNat) s t))
  ∧ (∀ v : Word, completes (.fabSoftWrite 1 v) s (fun t => t = { s with due := t.due } ∧ scheduled 1 (.field FAB_SOFT1_LEVEL 0 v.toNat) s t))
  ∧ (∀ (k : Fin 2) (v : Word), completes (.fabPulseWrite k v) s (fun t => t = { s with due := t.due }
    ∧ t.due = s.due ++ ((List.range 32).filter (fun b => v.toNat.testBit b)).map (fun b => (s.time + 1, Due.fire (0x1640 + 32 * k.val + b)))))
  ∧ (∀ k : Fin 1728, (mget (0x45000000 + 16 * k.val + 3) s).toNat % 8 = 0 → sinkInput k s = false)

/-- At its wrap a running timer counts from 0, takes group TG where an automatic commit is due, issues PER unless a commit of the dot
halts it, and is DONE if it is a one-shot whose start is a wrap. An armed compare of a timer neither halted, done nor held that is
not ahead of the count fires: its event is issued, LATE is set where the count has passed it, nothing else among the registers
changes. A reset of a timer not held captures the count of the next dot, clears DONE and makes the next dot a period start, with
PER only where the count would have wrapped. A write of RESET or COMMIT_NOW acts in the dot after it, a commit puts the shadow of
group TG into effect. OUT acts a dot later: 0 on CMP1 or while held, 1 on CMP0 alone, 0 on a period start. In an absent cluster a
write is a bus error. Out of turn these commands do nothing. (05_fabric_timers_image.md R135, R136, R137, R139, R140, R141) -/
def Obligations.GeneralTimers : Prop :=
  ∀ (s : State) (t : Fin 96),
  (timerRunning t s = false → timerLive t s = false ∨ (tmr t s).startNext = false → ignored (.timerPer t) s)
  ∧ (timerLive t s = false → ∀ c, ignored (.timerCompareFire t c) s)
  ∧ (timerRunning t s = true ∨ (timerLive t s = true ∧ (tmr t s).startNext = true) → completes (.timerPer t) s (fun u =>
    u = { s with regs := u.regs, hits := u.hits, tmr := u.tmr, fab := u.fab, due := u.due }
    ∧ onlyFields [(TMR_COUNT_COUNT, t), (TMR_PERIOD_VALUE_E, t), (TMR_CMP0_VALUE_E, t), (TMR_CMP1_VALUE_E, t), (TMR_STAT_PEND, t),
        (TMR_STAT_COMMIT_DONE, t), (TMR_STAT_DONE, t)] s u
    ∧ fget TMR_COUNT_COUNT t u = 0
    ∧ (if fget TMR_PERIOD_VALUE_E t u = 0 ∨ timerHaltsNow t s = true then u.fab = s.fab ∧ fget TMR_STAT_DONE t u = fget TMR_STAT_DONE t s
      else issued (0xE02 + 4 * t) s u
        ∧ if fbit TMR_CFG_ONESHOT t s = true ∧ (tmr t s).fromHalt = false then fget TMR_STAT_DONE t u = 1
          else fget TMR_STAT_DONE t u = fget TMR_STAT_DONE t s)
    ∧ (if fbit TMR_CFG_COMMIT_AT t s = true ∧ fbit TMR_STAT_PEND t s = true ∧ fbit TMR_CTRL_COMMIT_HOLD t s = false then
        fget TMR_PERIOD_VALUE_E t u = fget TMR_PERIOD_VALUE t s % 2 ^ 32 ∧ fget TMR_CMP0_VALUE_E t u = fget TMR_CMP0_VALUE t s % 2 ^ 32
        ∧ fget TMR_CMP1_VALUE_E t u = fget TMR_CMP1_VALUE t s % 2 ^ 32 ∧ fget TMR_STAT_PEND t u = 0 ∧ fget TMR_STAT_COMMIT_DONE t u = 1
      else onlyFields [(TMR_COUNT_COUNT, t), (TMR_STAT_DONE, t)] s u
        ∧ (fget TMR_PERIOD_VALUE_E t s ≠ 0 → timerHaltsNow t s = false →
            (tmr t u).arm0 = !(fbit TMR_CFG_ONESHOT t s && !(tmr t s).fromHalt) ∧ (tmr t u).arm1 = (tmr t u).arm0))
    ∧ ∀ j, j ≠ t.val → tmr j u = tmr j s))
  ∧ (∀ (c : Cmp) (v : Nat), v = (match c with | .a => fget TMR_CMP0_VALUE_E t s | .b => fget TMR_CMP1_VALUE_E t s) →
    ∀ d : Nat, d = (fget TMR_COUNT_COUNT t s + 2 ^ 32 - v % 2 ^ 32) % 2 ^ 32 → timerLive t s = true →
    ((match c with | .a => (tmr t s).arm0 | .b => (tmr t s).arm1) = false ∨ 2 ^ 31 ≤ d ∨ v = fget TMR_PERIOD_VALUE_E t s →
      ignored (.timerCompareFire t c) s)
    ∧ ((match c with | .a => (tmr t s).arm0 | .b => (tmr t s).arm1) = true → d < 2 ^ 31 → v ≠ fget TMR_PERIOD_VALUE_E t s →
      completes (.timerCompareFire t c) s (fun u =>
        u = { s with regs := u.regs, hits := u.hits, tmr := u.tmr, fab := u.fab, due := u.due }
        ∧ issued (0xE00 + 4 * t + (match c with | .a => 0 | .b => 1)) s u
        ∧ tmr t u = (match c with
            | .a => { tmr t s with arm0 := false, ev0 := true }
            | .b => { tmr t s with arm1 := false, ev1 := true })
        ∧ onlyFields [(TMR_STAT_LATE, t)] s u ∧ (d = 0 → fget TMR_STAT_LATE t u = fget TMR_STAT_LATE t s)
        ∧ (d ≠ 0 → fget TMR_STAT_LATE t u = 1))))
  ∧ (timerHeld t s = true → ignored (.timerReset t) s)
  ∧ (∀ w : Bool, w = ((tmr t s).startNext || (timerAdvances t s && fget TMR_COUNT_COUNT t s + 1 == fget TMR_PERIOD_VALUE_E t s)) →
    ∀ n : Nat, n = (if w || fget TMR_PERIOD_VALUE_E t s == 0 then 0 else if timerAdvances t s then fget TMR_COUNT_COUNT t s + 1 else fget TMR_COUNT_COUNT t s) →
    timerHeld t s = false → completes (.timerReset t) s (fun u => u = { s with regs := u.regs, due := u.due }
      ∧ onlyFields [(TMR_CAP_COUNT, t), (TMR_STAT_DONE, t)] s u ∧ fget TMR_CAP_COUNT t u = n % 2 ^ 32 ∧ fget TMR_STAT_DONE t u = 0
      ∧ (if fget TMR_PERIOD_VALUE_E t s = 0 then u.due = s.due else scheduled 1 (.timerStart t w) s u)))
  ∧ (∀ w : Bool, timerHeld t s = true → settle (.timerStart t w) s = s)
  ∧ (∀ w : Bool, timerHeld t s = false → ∀ u : State, u = settle (.timerStart t w) s → fget TMR_COUNT_COUNT t u = 0
    ∧ (if w = true ∧ fget TMR_PERIOD_VALUE_E t u ≠ 0 ∧ timerHaltsNow t u = false then issued (0xE02 + 4 * t) s u else u.fab = s.fab)
    ∧ fget TMR_STAT_DONE t u = fget TMR_STAT_DONE t s ∧ u.mem = s.mem ∧ ∀ j, j ≠ t.val → tmr j u = tmr j s)
  ∧ (∀ u : State, u = settle (.timerCommit t) s → fget TMR_PERIOD_VALUE_E t u = fget TMR_PERIOD_VALUE t s % 2 ^ 32
    ∧ fget TMR_CMP0_VALUE_E t u = fget TMR_CMP0_VALUE t s % 2 ^ 32 ∧ fget TMR_CMP1_VALUE_E t u = fget TMR_CMP1_VALUE t s % 2 ^ 32
    ∧ fget TMR_STAT_PEND t u = 0 ∧ fget TMR_STAT_COMMIT_DONE t u = 1 ∧ u.fab = s.fab ∧ ∀ j, j ≠ t.val → tmr j u = tmr j s)
  ∧ (∀ u : State, u = settle (.timerOut t) s → onlyFields [(TMR_STAT_OUT, t)] s u
    ∧ fget TMR_STAT_OUT t u = (if timerHeld t s = true ∨ (tmr t s).ev1 = true then 0 else if (tmr t s).ev0 = true then 1
        else if (tmr t s).evReset = true then 0 else fget TMR_STAT_OUT t s))
  ∧ (clusterOn (t / 4) s = true → completes (.tmrCtrlReset t) s (fun u => u = { s with due := u.due } ∧ scheduled 1 (.cmd (.timerReset t)) s u)
    ∧ completes (.tmrCommitNow t) s (fun u => u = { s with due := u.due } ∧ scheduled 1 (.timerCommit t) s u))
  ∧ (clusterOn (t / 4) s = false → exec (.tmrCtrlReset t) s = .next { s with resp := ⟨0, true⟩ }
    ∧ exec (.tmrCommitNow t) s = .next { s with resp := ⟨0, true⟩ })

/-- START of a region that is not STOPPED, or while an image loads, sets START_REFUSED only; otherwise the region is STARTING and its
restart frame is the next frame, or the one after where fewer than three whole lines are left. At the restart the region is in
RUN, its start frame is the present one, no engine of the region stays halted, its legs and held timers take their groups and
count on from their PHASE, and a spare told to return gives its cluster back. Out of turn a restart does nothing. STOP of a
STARTING region makes it STOPPED again and nothing else; of a region in RUN it stops it: its state is 0, no engine of it has a run
or a queue, its converters stop, its held timers' OUT goes low, no event of its legs is still to come, and memory, contexts and
engines of other regions stay. STOP of a STOPPED region does nothing. (05_fabric_timers_image.md R142, R143, R144,
04_loop_engine.md R121, R119) -/
def Obligations.RegionsStopAndStart : Prop :=
  ∀ (s : State) (n : Fin 4),
  (regionState n s ≠ 0 ∨ fbit FAB_STAT_BUSY 0 s = true → completes (.regionStart n) s (fun t =>
    t = { s with regs := t.regs, hits := t.hits } ∧ onlyFields [(RGN_STAT_START_REFUSED, n)] s t ∧ fget RGN_STAT_START_REFUSED n t = 1))
  ∧ (regionState n s = 0 → fbit FAB_STAT_BUSY 0 s = false → completes (.regionStart n) s (fun t =>
    t = { s with regs := t.regs, restart := t.restart } ∧ onlyFields [(RGN_STAT_STATE, n)] s t ∧ regionState n t = 1
    ∧ sget none t.restart n = some ((s.pos.frame + (if s.pos.line + 3 ≤ linesEff s then 1 else 2)) % 2 ^ 32)
    ∧ ∀ k, k ≠ n.val → sget none t.restart k = sget none s.restart k))
  ∧ (regionState n s ≠ 1 → ignored (.regionRestart n) s)
  ∧ (regionState n s = 1 → completes (.regionRestart n) s (fun t =>
    regionState n t = 2 ∧ fget RGN_STARTF_FRAME n t = s.pos.frame % 2 ^ 32 ∧ t.pos = s.pos ∧ t.flt = s.flt
    ∧ ((spare n s).back = false → t.mem = s.mem ∧ t.ctx = s.ctx)
    ∧ ((spare n s).back = true → (spare n t).back = false ∧ fget RSP_STAT_IN_SERVICE n t = 0
        ∧ fget LPE_STAT_SUBST (6 * n.val + fget RSP_STAT_SERVING n s) t = 0)
    ∧ (∀ l ∈ regionLegs n s, ∀ p : Nat, p = fget LEG_PERIOD_PERIOD l s → fget LEG_PERIOD_PERIOD_E l t = p
        ∧ fget LEG_STAT_PEND l t = 0 ∧ (p ≠ 0 → fget LEG_COUNT_COUNT l t = fget LEG_PHASE_COUNT l s % p))
    ∧ (∀ k ∈ regionTimers n s, ∀ p : Nat, p = fget TMR_PERIOD_VALUE k s → fbit TMR_CFG_FREE k s = false → fget TMR_PERIOD_VALUE_E k t = p
        ∧ fget TMR_STAT_PEND k t = 0 ∧ fget TMR_STAT_DONE k t = 0 ∧ (p ≠ 0 → fget TMR_COUNT_COUNT k t = fget TMR_PHASE_COUNT k s % p))
    ∧ (∀ c ∈ regionClusters n s, (eng c t).halted = false ∧ fget LPE_LOST_LOST c t = 0
        ∧ (fbit LPE_STAT_SUBST c s = false → fget LPE_STAT_HALTED c t = 0))
    ∧ (∀ c, c / 6 ≠ n.val → eng c t = eng c s)
    ∧ ∀ k, k ≠ n.val → regionState k t = regionState k s))
  ∧ (regionState n s = 0 → ignored (.regionStop n) s)
  ∧ (regionState n s = 1 → completes (.regionStop n) s (fun t => t = { s with regs := t.regs, restart := t.restart }
    ∧ onlyFields [(RGN_STAT_STATE, n)] s t ∧ regionState n t = 0 ∧ sget none t.restart n = none))
  ∧ (regionState n s = 2 → completes (.regionStop n) s (fun t =>
    regionState n t = 0 ∧ t.mem = s.mem ∧ t.pos = s.pos ∧ t.time = s.time ∧ t.flt = s.flt
    ∧ (∀ c ∈ regionClusters n s, (eng c t).run = none ∧ (eng c t).queue = [] ∧ fget CLG_CONV_RUN c t = 0 ∧ fget CLG_CONV_WAIT c t = 0)
    ∧ (∀ c, c / 6 ≠ n.val → eng c t = eng c s)
    ∧ (∀ k ∈ regionTimers n s, fbit TMR_CFG_FREE k s = false → fget TMR_STAT_OUT k t = 0)
    ∧ (∀ e ∈ t.due, ∀ x < 144, e.2 ≠ .fire (0x100 + 144 * n + x))
    ∧ (∀ g x, g / 768 ≠ n.val → x < 64 → ctxGet g x t = ctxGet g x s)
    ∧ ∀ k, k ≠ n.val → regionState k t = regionState k s))

/-- FAB_LOAD and FAB_DEFAULT are refused with CFG_REFUSED while a region is not STOPPED or a load is under way. Accepted, LOAD starts
the check pass of its slot, ceil(LENGTH/16) dots long, and DEFAULT the default image 2,048 dots later; both set BUSY. A check pass
that finds no failure lets the apply pass follow after ceil(LENGTH/16) + 64 dots; a failure, of a reload also a check word that
differs from FAB_CRC, puts its code and section into WHY and SECTION and lets the default image load. The end of the apply pass
clears BUSY, DEFAULTED and WHY, sets LOAD_DONE, FAB_CRC and FAB_IMAGE_SERIAL, and with AUTORUN starts the regions, but after a
reload; the default image sets DEFAULTED and LOAD_DONE, clears BUSY, the contexts, FAB_CRC and FAB_IMAGE_SERIAL, and reports
FAB_LOAD after a failure only. No pass changes memory below the engine memories. Out of turn these events do nothing. A slot
without the magic word fails check 1. (05_fabric_timers_image.md R151, R152, R153, R154, 17_power.md R445) -/
def Obligations.ImageLoads : Prop :=
  ∀ s : State,
  ((∃ n ∈ [0, 1, 2, 3], regionState n s ≠ 0) ∨ fbit FAB_STAT_BUSY 0 s = true →
    ∀ i ∈ [Instr.fabLoad 0, .fabLoad 1, .fabLoad 2, .fabLoad 3, .fabDefault], completes i s (fun t =>
      t = { s with regs := t.regs, hits := t.hits } ∧ onlyFields [(FAB_STAT_CFG_REFUSED, 0)] s t ∧ fget FAB_STAT_CFG_REFUSED 0 t = 1))
  ∧ ((∀ n < 4, regionState n s = 0) → fbit FAB_STAT_BUSY 0 s = false →
    completes .fabDefault s (fun t => t = { s with regs := t.regs, hits := t.hits, due := t.due, img := some (none, 0, 0) }
      ∧ onlyFields [(FAB_STAT_BUSY, 0)] s t ∧ fget FAB_STAT_BUSY 0 t = 1 ∧ scheduled 2048 (.cmd .defaultImageLoaded) s t)
    ∧ ∀ k : Fin 4, completes (.fabLoad k) s (fun t => t.img = some (some k.val, 0, 0xFFFF) ∧ fget FAB_STAT_BUSY 0 t = 1
        ∧ fget FAB_CTRL_SLOT 0 t = k.val ∧ t.pos = s.pos ∧ t.legs = s.legs ∧ t.ctx = s.ctx ∧ t.flt = s.flt
        ∧ (s.cfs = [] → s.cfsWait = [] → ∀ n : Nat, n = mread (0x10000008 + 0x400000 * k.val) 4 s →
            t = { s with regs := t.regs, hits := t.hits, due := t.due, img := t.img } ∧ onlyFields [(FAB_STAT_BUSY, 0), (FAB_CTRL_SLOT, 0)] s t
            ∧ (68 ≤ n → n ≤ 0x400000 → scheduled ((n + 15) / 16) (.cmd .imageCheckPassEnd) s t))))
  ∧ (∀ g ∈ s.img, ∀ k ∈ g.1, checkImage k s = none → ∀ b : Nat, b = 0x10000000 + 0x400000 * k →
    (s.pwr.reload = .running → mread (b + mread (b + 8) 4 s - 4) 4 s = fget FAB_CRC_CRC 0 s) →
    completes .imageCheckPassEnd s (fun t => t = { s with due := t.due }
      ∧ scheduled ((mread (0x10000008 + 0x400000 * k) 4 s + 15) / 16 + 64) (.cmd .imageApplyEnd) s t))
  ∧ (∀ g ∈ s.img, ∀ k ∈ g.1, ∀ b : Nat, b = 0x10000000 + 0x400000 * k → ∀ e ∈ (checkImage k s).or (if s.pwr.reload = .running ∧
      mread (b + mread (b + 8) 4 s - 4) 4 s ≠ fget FAB_CRC_CRC 0 s then some (6, 0xFFFF) else none), completes .imageCheckPassEnd s (fun t =>
      t = { s with regs := t.regs, hits := t.hits, due := t.due, img := some (none, e) }
      ∧ onlyFields [(FAB_STAT_BUSY, 0), (FAB_STAT_WHY, 0), (FAB_STAT_SECTION, 0)] s t
      ∧ fget FAB_STAT_WHY 0 t = e.1 % 256 ∧ fget FAB_STAT_SECTION 0 t = e.2 % 65536 ∧ scheduled 2048 (.cmd .defaultImageLoaded) s t))
  ∧ (∀ k, mread (0x10000000 + 0x400000 * k) 4 s ≠ 0x474D4946 → checkImage k s = some (1, 0xFFFF))
  ∧ (∀ g ∈ s.img, ∀ k ∈ g.1, completes .imageApplyEnd s (fun t => t.img = none ∧ fget FAB_STAT_BUSY 0 t = 0
      ∧ fget FAB_STAT_DEFAULTED 0 t = 0 ∧ fget FAB_STAT_LOAD_DONE 0 t = 1 ∧ fget FAB_STAT_WHY 0 t = 0 ∧ t.pos = s.pos ∧ t.time = s.time
      ∧ t.flt = s.flt ∧ (∀ b : Nat, b = 0x10000000 + 0x400000 * k →
          fget FAB_CRC_CRC 0 t = mread (b + mread (b + 8) 4 s - 4) 4 s % 2 ^ 32 ∧ fget FAB_IMAGE_SERIAL 0 t = mread (b + 0x14) 4 s % 2 ^ 32
          ∧ ∀ n, n < 4 → regionState n s = 0 →
              regionState n t = (if (mread (b + 0x12) 2 s).testBit 0 = true ∧ s.pwr.reload = .none then 1 else 0))
      ∧ ∀ a, a < 0x44000000 → mget a t = mget a s))
  ∧ (∀ g ∈ s.img, g.1 = none → ∀ why : Nat, why = g.2.1 → completes .defaultImageLoaded s (fun t => t.img = none ∧ t.ctx = []
      ∧ fget FAB_STAT_BUSY 0 t = 0 ∧ fget FAB_STAT_DEFAULTED 0 t = 1 ∧ fget FAB_STAT_LOAD_DONE 0 t = 1 ∧ fget FAB_CRC_CRC 0 t = 0
      ∧ fget FAB_IMAGE_SERIAL 0 t = 0 ∧ t.pos = s.pos ∧ (why = 0 → t.flt = s.flt) ∧ (why ≠ 0 → reported 0x103 0 0 s t)
      ∧ ∀ a, a < 0x44000000 → mget a t = mget a s))
  ∧ (s.img = none → ignored .imageCheckPassEnd s ∧ ignored .imageApplyEnd s ∧ ignored .defaultImageLoaded s)

/-- A lane that fails leaves service and reports LNK_LANE; a port left with fewer than two lanes goes DOWN, and reports LNK_PORT if it
was UP. A lane that returns, 1,024 good cells complete, is in service again. A HELLO records the neighbour; it brings the port UP
where it agrees with the wiring rule and two lanes are in service, and to MISWIRED where it disagrees. A delay request on an UP
port is remembered with its arrival in fine steps; the matching response yields t4 - t1 - RES, and LNK_PDLY is half the mean of
the last 16, rounded. Everything else stays, and an OFF port or a stray response changes nothing. (06_kremotos_link.md R161, R163,
R164, R165, R178, R183) -/
def Obligations.LinkPorts : Prop :=
  ∀ (s : State) (p : Fin 4),
  (∀ l : Fin 3, fbitAt LNK_PSTAT_LANE_OK p l s = false → completes (.laneFail p l) s (fun t => t = { s with ports := t.ports }
    ∧ port p t = { port p s with agreed := sset 0 (port p s).agreed l 0 } ∧ ∀ j, j ≠ p.val → port j t = port j s))
  ∧ (∀ (l : Fin 3) (down : Bool), down = (decide (lanesOk p s < 3) && decide (2 ≤ portState p s)) → fbitAt LNK_PSTAT_LANE_OK p l s = true →
    completes (.laneFail p l) s (fun t => t = { s with regs := t.regs, ports := t.ports, flt := t.flt }
      ∧ (∀ i < 3, fbitAt LNK_PSTAT_LANE_OK p i t = (fbitAt LNK_PSTAT_LANE_OK p i s && i != l.val))
      ∧ portState p t = (if down then 1 else portState p s)
      ∧ t.flt = { s.flt with reports := s.flt.reports ++ reportOf 0x110 p l s ++
          (if down && portState p s == 2 then reportOf 0x112 p 0 s else []) }
      ∧ onlyFields ((LNK_PSTAT_LANE_OK, p) :: if down then [(LNK_PSTAT_STATE, p), (LNK_PSTAT_CAND, p)] else []) s t
      ∧ (∀ h : PortH, h = { port p s with agreed := sset 0 (port p s).agreed l 0 } →
          port p t = if down && portState p s == 2 then { h with delays := [], req := none, resp := none, timing := none, geom := none } else h)
      ∧ ∀ j, j ≠ p.val → port j t = port j s))
  ∧ (∀ l : Fin 3, completes (.laneReturn p l) s (fun t => t = { s with regs := t.regs, hits := t.hits, ports := t.ports }
      ∧ port p t = { port p s with agreed := sset 0 (port p s).agreed l 1024 } ∧ (∀ j, j ≠ p.val → port j t = port j s)
      ∧ onlyFields [(LNK_PSTAT_LANE_OK, p)] s t
      ∧ ∀ i < 3, fbitAt LNK_PSTAT_LANE_OK p i t = (fbitAt LNK_PSTAT_LANE_OK p i s || i == l.val)))
  ∧ (portState p s = 0 → ∀ q a, ignored (.helloReceive p q a) s)
  ∧ (∀ (q : Fin 4) (a : BitVec 18), portState p s ≠ 0 → completes (.helloReceive p q a) s (fun t =>
      t = { s with regs := t.regs, hits := t.hits, ports := t.ports, flt := t.flt }
      ∧ fget LNK_PNBR_ADDR p t = a.toNat ∧ fget LNK_PNBR_PORT p t = q.val ∧ fget LNK_PNBR_VALID p t = 1
      ∧ portState p t = (if neighbour p s = some (a.toNat, q.val) then if 2 ≤ lanesOk p s then 2 else portState p s else 3)
      ∧ (∀ j, j ≠ p.val → port j t = port j s)
      ∧ onlyFields [(LNK_PNBR_ADDR, p), (LNK_PNBR_PORT, p), (LNK_PNBR_VALID, p), (LNK_PSTAT_STATE, p), (LNK_PSTAT_CAND, p)] s t
      ∧ t.flt = { s.flt with reports := s.flt.reports ++
          (if portState p s = 2 ∧ portState p t ≠ 2 then reportOf 0x112 p 0 s else [])
          ++ (if portState p s ≠ 3 ∧ portState p t = 3 then reportOf 0x113 p 0 s else []) }))
  ∧ (portUp p s = false → ∀ n f, ignored (.dlyReqReceive p n f) s ∧ ∀ r, ignored (.dlyRespReceive p n r f) s)
  ∧ (∀ (n : Byte) (f : Fin 32), portUp p s = true → completes (.dlyReqReceive p n f) s (fun t => t = { s with ports := t.ports }
      ∧ port p t = { port p s with resp := some (n.toNat, 32 * s.time + f.val) } ∧ ∀ j, j ≠ p.val → port j t = port j s))
  ∧ (∀ (n : Byte) (r : Word) (f : Fin 32), (∀ e ∈ (port p s).req, e.1 ≠ n.toNat) → ignored (.dlyRespReceive p n r f) s)
  ∧ (∀ (n : Byte) (r : Word) (f : Fin 32), ∀ e ∈ (port p s).req, e.1 = n.toNat → portUp p s = true →
    ∀ d : List Int, d = ((32 * s.time + f.val - e.2 - r.toNat) :: (port p s).delays).take 16 →
    completes (.dlyRespReceive p n r f) s (fun t => t = { s with regs := t.regs, ports := t.ports }
      ∧ port p t = { port p s with req := none, delays := d } ∧ (∀ j, j ≠ p.val → port j t = port j s)
      ∧ onlyFields [(LNK_PDLY_DELAY, p)] s t ∧ sint (fget LNK_PDLY_DELAY p t) = sint (word ((d.sum + d.length) / (2 * d.length)))))

/-- A good cell has the effect of its content, counts for its lanes, and its 1,024th in a row returns a lane. A cell with one lane bad
is taken as if that lane had carried what the other two give, and the lane error and the rebuilding are counted. A cell with two
lanes bad, unequal headers or wrong parity is dropped and counted, with a TIMING cell before it. A timing pair of LNK_SYNC.MASTER
on an UP port is kept, another ignored; a follower relays a pair of its master along the ring with HOPS raised and RHOPS lowered;
without that only the port changes. In a slot an UP port sends a begun pair's GEOM cell, else the timing pair, else HELLO, else
DLY_REQ, else the first record ready to be forwarded, and with nothing due IDLE; a port not UP sends HELLO or IDLE.
(06_kremotos_link.md R159, R160, R165, R168, R172, R177, R178) -/
def Obligations.LinkCells : Prop :=
  (∀ (s : State) (p : Fin 4) (c : CellIn), portState p s = 0 → ignored (.cellReceive p c) s ∧ ∀ f, ignored (.cellSlotSend p f) s)
  ∧ (∀ (s : State) (p : Fin 4) (c : CellIn), portState p s ≠ 0 → (∀ l < 3, fbitAt LNK_PSTAT_LANE_OK p l s = true) →
    (c.h0 = 1 ∨ c.h0 = 2 → c.h1 = c.h0 → c.hs = c.h0 → c.ds = c.d0 ^^^ c.d1 → exec (.cellReceive p c) s
        = .next (takeCell p (c.h0 == 1) (c.d0.toNat + 2 ^ 64 * c.d1.toNat) c.fine (laneCells p true s)))
    ∧ ((c.h0 = 0 ∨ c.h0 = 3) → (c.h1 = 1 ∨ c.h1 = 2) → c.hs = c.h1 → exec (.cellReceive p c) s
        = .next (takeCell p (c.h1 == 1) ((c.d1 ^^^ c.ds).toNat + 2 ^ 64 * c.d1.toNat) c.fine
          (fcount LNK_PRECON_COUNT p 1 (laneCells p false (fcount LNK_PLANE_L0 p 1 s)))))
    ∧ ((c.h1 = 0 ∨ c.h1 = 3) → (c.h0 = 1 ∨ c.h0 = 2) → c.hs = c.h0 → exec (.cellReceive p c) s
        = .next (takeCell p (c.h0 == 1) (c.d0.toNat + 2 ^ 64 * (c.d0 ^^^ c.ds).toNat) c.fine
          (fcount LNK_PRECON_COUNT p 1 (laneCells p false (fcount LNK_PLANE_L1 p 1 s)))))
    ∧ ((c.hs = 0 ∨ c.hs = 3) → (c.h0 = 1 ∨ c.h0 = 2) → c.h1 = c.h0 → exec (.cellReceive p c) s
        = .next (takeCell p (c.h0 == 1) (c.d0.toNat + 2 ^ 64 * c.d1.toNat) c.fine
          (fcount LNK_PRECON_COUNT p 1 (laneCells p false (fcount LNK_PLANE_LS p 1 s)))))
    ∧ (((c.h0 = 1 ∨ c.h0 = 2) ∧ (c.h1 = 1 ∨ c.h1 = 2) ∧ (c.hs = 1 ∨ c.hs = 2) ∧ ¬(c.h1 = c.h0 ∧ c.hs = c.h0 ∧ c.ds = c.d0 ^^^ c.d1))
        ∨ ((c.h0 = 0 ∨ c.h0 = 3) ∧ (c.h1 = 0 ∨ c.h1 = 3)) →
        completes (.cellReceive p c) s (fun t => t = { s with regs := t.regs, ports := t.ports }
          ∧ fget LNK_PDROP_COUNT p t = min (fget LNK_PDROP_COUNT p s + (if (port p s).timing = none then 1 else 2)) (2 ^ 32 - 1)
          ∧ (port p t).timing = none ∧ (∀ l < 3, sget 0 (port p t).agreed l = 0) ∧ (∀ j, j ≠ p.val → port j t = port j s)
          ∧ onlyFields [(LNK_PDROP_COUNT, p), (LNK_PLANE_L0, p), (LNK_PLANE_L1, p), (LNK_PLANE_LS, p)] s t)))
  ∧ (∀ (s : State) (p : Fin 4) (v : BitVec 128) (f : Fin 32), (port p s).timing = none →
    .next (takeCell p true v.toNat 0 s) = exec (.dataCellReceive p v) s
    ∧ (v.toNat % 256 = 0 → takeCell p false v.toNat f s = s)
    ∧ (v.toNat % 256 = 3 → .next (takeCell p false v.toNat f s) = exec (.dlyReqReceive p (BitVec.ofNat 8 (v.toNat / 2 ^ 8)) f) s)
    ∧ (v.toNat % 256 = 4 → .next (takeCell p false v.toNat f s)
        = exec (.dlyRespReceive p (BitVec.ofNat 8 (v.toNat / 2 ^ 8)) (BitVec.ofNat 32 (v.toNat / 2 ^ 32)) f) s)
    ∧ (v.toNat % 256 = 5 → .next (takeCell p false v.toNat f s)
        = exec (.helloReceive p (Fin.ofNat 4 (v.toNat / 2 ^ 8)) (BitVec.ofNat 18 (v.toNat / 2 ^ 32))) s))
  ∧ (∀ (s : State) (p : Fin 4) (good : Bool), laneCells p good s = { s with regs := (laneCells p good s).regs, hits := (laneCells p good s).hits,
                                                                            ports := (laneCells p good s).ports }
    ∧ onlyFields (if good then [(LNK_PSTAT_LANE_OK, p)] else []) s (laneCells p good s)
    ∧ (∀ j, j ≠ p.val → port j (laneCells p good s) = port j s)
    ∧ (∀ l < 3, fbitAt LNK_PSTAT_LANE_OK p l (laneCells p good s)
        = (fbitAt LNK_PSTAT_LANE_OK p l s || (good && decide (1023 ≤ sget 0 (port p s).agreed l)))))
  ∧ (∀ (s : State) (p : Fin 4) (a g : BitVec 128) (f : Fin 32), portUp p s = false → ignored (.timingPairReceive p a g f) s)
  ∧ (∀ (s : State) (p : Fin 4) (a g : BitVec 128) (f : Fin 32) (w : TPair), w = withGeom (timingCell a.toNat (fineNow f s)) g.toNat →
    portUp p s = true →
    (w.master ≠ s.link.master → ignored (.timingPairReceive p a g f) s)
    ∧ (s.swp.mode ≠ 2 → w.master = s.link.master → completes (.timingPairReceive p a g f) s (fun t => t = { s with ports := t.ports }
      ∧ port p t = { port p s with pair := some w } ∧ ∀ j, j ≠ p.val → port j t = port j s))
    ∧ (s.swp.mode = 2 → w.master = s.link.master → w.hops < 510 → p = 0 → 1 < w.rhops → portUp 1 s = true → (port 1 s).relayed = false →
      completes (.timingPairReceive p a g f) s (fun t => (port 0 t).pair = some w ∧ t.link.ringPair = true ∧ t.mem = s.mem ∧ t.ctx = s.ctx
        ∧ (port 1 t).relay = some ⟨0, { w with hops := w.hops + 1, rhops := w.rhops - 1 }⟩ ∧ (port 1 t).relayed = true)))
  ∧ (∀ (s : State) (p : Fin 4) (f : Fin 32), portState p s ≠ 0 → portUp p s = false →
    completes (.cellSlotSend p f) s (fun t => t = { s with ports := t.ports } ∧ (∀ j, j ≠ p.val → port j t = port j s)
      ∧ port p t = { port p s with helloDue := false, out := (if (port p s).helloDue then 5 + p * 2 ^ 8 + fget LNK_ADDR_ADDR 0 s * 2 ^ 32 else 0, false) }))
  ∧ (∀ (s : State) (p : Fin 4) (f : Fin 32), portUp p s = true →
    (∀ v, (port p s).geom = some v → completes (.cellSlotSend p f) s (fun t => t = { s with ports := t.ports }
      ∧ port p t = { port p s with geom := none, out := (v, false) } ∧ ∀ j, j ≠ p.val → port j t = port j s))
    ∧ ((port p s).geom = none → (port p s).pairDue = true → completes (.cellSlotSend p f) s (fun t => t = { s with ports := t.ports }
      ∧ (port p t).out = (timingWord 0 (ringSize s - 1) s.pos.frame (txPos s.pos.line s.pos.dot f) (fget LNK_ADDR_ADDR 0 s), false)
      ∧ (port p t).pairDue = false ∧ (port p t).geom = some (geomWord (geomEff s) 0) ∧ ∀ j, j ≠ p.val → port j t = port j s))
    ∧ ((port p s).geom = none → (port p s).pairDue = false → (port p s).relay = none →
      ((port p s).helloDue = true → completes (.cellSlotSend p f) s (fun t => t = { s with ports := t.ports }
        ∧ port p t = { port p s with helloDue := false, out := (5 + p * 2 ^ 8 + fget LNK_ADDR_ADDR 0 s * 2 ^ 32, false) }))
      ∧ ((port p s).helloDue = false → (port p s).reqDue = true → completes (.cellSlotSend p f) s (fun t => t = { s with ports := t.ports }
        ∧ port p t = { port p s with reqDue := false, req := some ((port p s).seq, fineNow f s), seq := ((port p s).seq + 1) % 256,
                                     out := (3 + (port p s).seq * 2 ^ 8, false) }))
      ∧ (∀ e ∈ (port p s).fwd.find? (fun e => decide ((e.1 : Int) ≤ fineNow f s)), (port p s).helloDue = false → (port p s).reqDue = false →
          (port p s).resp = none → completes (.cellSlotSend p f) s (fun t =>
            t = { s with ports := t.ports }
            ∧ port p t = { port p s with out := (e.2, true), fwd := (port p s).fwd.erase e, tx := min ((port p s).tx + 1) 65535 }))
      ∧ ((port p s).helloDue = false → (port p s).reqDue = false → (port p s).resp = none → (port p s).fwd = [] → s.link.own = [] →
        completes (.cellSlotSend p f) s (fun t => t = { s with ports := t.ports } ∧ port p t = { port p s with out := (0, false) }))))

/-- A value handed to a publish entry is kept with its position and marks it WRITTEN, and CLASH where the dot has already handed one
over. At the window every written entry with a scope is queued on the ports in use of its scope, and no entry is WRITTEN any more;
everything else stays; with the link off nothing happens. A record on a port not UP is not seen. A record without scope, of
another frame, too late in the frame, or the node's own is counted late and goes no further. Any other goes on round the ring with
HOPS lowered, 40 dots later, and waits for its lookup. A lookup that finds the record's own entry stages the value for the
destination's mailbox word; an entry all zero matches nothing; any other with another tag sets DIR_BAD. Without a lookup under way
nothing happens. (06_kremotos_link.md R166, R167, R168, R169, R170, R171, R172, R173, R174, R175) -/
def Obligations.LinkRecords : Prop :=
  (∀ (s : State) (e : Fin 1024) (v : Word), completes (.pubValueWrite e v) s (fun t => t = { s with regs := t.regs, hits := t.hits, link := t.link }
    ∧ t.link = { s.link with handed := t.link.handed } ∧ sget (0, false) t.link.handed e = (s.time + 1, true)
    ∧ fget PUB_VALUE_VALUE e t = v.toNat ∧ fget PUB_STAT_WRITTEN e t = 1 ∧ fget PUB_PPOS_LINE e t = s.pos.line % 2 ^ 12
    ∧ fget PUB_PPOS_DOT e t = s.pos.dot % 2 ^ 14 ∧ (if (sget (0, false) s.link.handed e).1 = s.time + 1 then fget PUB_STAT_CLASH e t = 1
        else fget PUB_STAT_CLASH e t = fget PUB_STAT_CLASH e s)
    ∧ onlyFields [(PUB_VALUE_VALUE, e), (PUB_STAT_WRITTEN, e), (PUB_PPOS_LINE, e), (PUB_PPOS_DOT, e), (PUB_STAT_CLASH, e)] s t))
  ∧ (∀ s : State, fbit LNK_CTRL_EN 0 s = false → ignored .publishSnapshot s)
  ∧ (∀ s : State, fbit LNK_CTRL_EN 0 s = true → completes .publishSnapshot s (fun t => t = { s with regs := t.regs, link := t.link }
    ∧ onlyRegs [PUB_STAT_WRITTEN] s t
    ∧ (∀ e < 1024, fbit PUB_STAT_WRITTEN e t = false)
    ∧ t.link = { s.link with own := t.link.own }
    ∧ t.link.own = s.link.own ++ ((List.range 1024).filter (fun e => fbit PUB_STAT_WRITTEN e s && fget PUB_CFG_SCOPE e s != 0)).map (fun e =>
        (ownRecord e s, ((if fget PUB_CFG_SCOPE e s = 1 then [0, 1] else if fget PUB_CFG_SCOPE e s = 2 then [0, 1, 2]
          else [0, 1, 2, 3]) : List Nat).filter (fun p => inUse p s), false))))
  ∧ (∀ (s : State) (p : Fin 4) (v : BitVec 128), portUp p s = false → ignored (.dataCellReceive p v) s)
  ∧ (∀ (s : State) (p : Fin 4) (v : BitVec 128) (late : Bool), late = (decide (v.toNat / 2 ^ 24 % 4 = 0)
      || decide (v.toNat / 2 ^ 32 % 256 ≠ s.pos.frame % 256) || decide (frameDots s ≤ s.pos.line * dotsEff s + s.pos.dot + 400) || stepWithin 400 s
      || decide (v.toNat / 2 ^ 40 % 2 ^ 18 = fget LNK_ADDR_ADDR 0 s)) → portUp p s = true →
    (late = true → completes (.dataCellReceive p v) s (fun t => t = { s with ports := t.ports, link := { s.link with flate := s.link.flate + 1 } }
      ∧ (port p t) = { port p s with rx := min ((port p s).rx + 1) 65535 } ∧ ∀ j, j ≠ p.val → port j t = port j s))
    ∧ (late = false → fbit LNK_DIR_EN 0 s = true → (p.val < 2 → v.toNat / 2 ^ 26 % 64 ≤ 1) → completes (.dataCellReceive p v) s (fun t =>
        t = { s with ports := t.ports, link := { s.link with frx := s.link.frx + 1, lookups := s.link.lookups ++ [(p.val, v.toNat)] } }
        ∧ ∀ j, j ≠ p.val → port j t = port j s))
    ∧ (late = false → fbit LNK_DIR_EN 0 s = true → p.val < 2 → 1 < v.toNat / 2 ^ 26 % 64 → portUp (1 - p.val) s = true →
        (port (1 - p.val) s).fwd.length < 4096 → completes (.dataCellReceive p v) s (fun t =>
          t = { s with ports := t.ports, link := { s.link with frx := s.link.frx + 1, lookups := s.link.lookups ++ [(p.val, v.toNat)] } }
          ∧ port (1 - p.val) t = { port (1 - p.val) s with fwd := (port (1 - p.val) s).fwd ++ [(32 * (s.time + 40), v.toNat - 2 ^ 26)] })))
  ∧ (∀ s : State, s.link.lookups = [] → ignored .directoryLookupDone s)
  ∧ (∀ (s : State) (p v : Nat) (rest : List (Nat × Nat)) (a : Nat), a = dirAddr (v % 2 ^ 24) s → s.link.lookups = (p, v) :: rest → gateway s = false →
    memorySound s → unitValid a s = true →
    (mread a 16 s = 0 → completes .directoryLookupDone s (fun t => t = { s with link := { s.link with lookups := rest } }))
    ∧ (mread a 4 s % 2 ^ 24 ≠ v % 2 ^ 24 → mread a 16 s ≠ 0 → completes .directoryLookupDone s (fun t =>
        t = { s with regs := t.regs, hits := t.hits, link := { s.link with lookups := rest, dir := true } }
        ∧ onlyFields [(LNK_STAT_DIR_BAD, 0)] s t ∧ fget LNK_STAT_DIR_BAD 0 t = 1))
    ∧ (∀ d : Nat, d = mread (a + 8) 8 s % 2 ^ 16 → mread a 4 s = v % 2 ^ 24 + 2 ^ 24 → d / 8 % 2 ^ 12 < 3072 →
        clusterOn (d / 8 % 2 ^ 12 / 128) s = true → s.link.staged = [] → completes .directoryLookupDone s (fun t =>
          t = { s with link := { s.link with lookups := rest, fmatch := s.link.fmatch + 1, staged := t.link.staged } }
          ∧ t.link.staged = [(d / 8 % 2 ^ 12, d % 8, v % 2 ^ 24, v / 2 ^ 40 % 2 ^ 18, v / 2 ^ 64 % 2 ^ 32)])))

/-- A write of SEV is an arrival: it counts in ARR with the first position and the last payload kept, or sets SAT at 255; a source
without EN, or in SLEEP, counts nothing. The chosen source's arrivals of earlier dots move into a record of 16 bytes, at most one
in a dot; arrivals of the dot itself stay in ARR, one that made the source eligible apart; SAT is 0, OUT is set without AUTOACK. A
record of an earlier dot that is performed is stored whole, its tag cleared, and TAIL advances in the next dot; one that fails
puts its queue in error, returns COUNT to ARR, clears OUT and is reported; where the controller or the ring's memory is off
nothing happens. An ACK clears OUT. EVC_CFG takes its fields and clears ARR and SAT with EN. A SIZE of 0 stops a queue and drops
its records under way; the SIZE held changes nothing; one out of range, in use or with its ring in no one memory is refused; an
accepted one starts at index 0. HEAD moves only over filled records, otherwise the write is refused. When the hold-off is over the
line rises where it may: the hold-off is loaded and a WAIT of the target ends; while the target's domain is off and WAKE is 1 a
wake request goes out in its place. Each command leaves memory and every register not named. (10_events.md R259, R260, R261, R262,
R263, R264, R265, R266, R267, R272) -/
def Obligations.EventSourcesAndQueues : Prop :=
  ∀ s : State,
  (∀ (k : Fin 256) (v : Word), fbit EVC_CFG_EN (0x300 + k) s = false ∨ 3 ≤ fget PWR_STAT_STATE 0 s → ignored (.sevWrite k v) s)
  ∧ (∀ (k : Fin 256) (v : Word), ∀ n : Nat, n = 0x300 + k.val → fbit EVC_CFG_EN n s = true → fget PWR_STAT_STATE 0 s < 3 →
    completes (.sevWrite k v) s (fun t => t = { s with regs := t.regs, hits := t.hits, evs := t.evs }
      ∧ fget EVC_ST_ARR n t = (if fget EVC_ST_ARR n s = 255 then 255 else (fget EVC_ST_ARR n s + 1) % 256)
      ∧ (fget EVC_ST_ARR n s = 255 → fget EVC_ST_SAT n t = 1)
      ∧ (fget EVC_ST_ARR n s ≠ 255 → (evSrc n t).payload = v.toNat
        ∧ (evSrc n t).first = (if fget EVC_ST_ARR n s = 0 then s.pos else (evSrc n s).first))
      ∧ (fget EVC_ST_ARR n s = 255 → (evSrc n t).payload = (evSrc n s).payload ∧ (evSrc n t).first = (evSrc n s).first)
      ∧ onlyRegs [EVC_ST_ARR, EVC_ST_SAT, EVQ_STAT_FULL_HIT] s t
      ∧ ∀ j, j ≠ n → fget EVC_ST_ARR j t = fget EVC_ST_ARR j s ∧ fget EVC_ST_SAT j t = fget EVC_ST_SAT j s))
  ∧ (chosen s = none ∨ 3 ≤ fget PWR_STAT_STATE 0 s ∨ s.recAt = some s.time → ignored .eventRecordChoose s)
  ∧ (∀ n ∈ chosen s, fget PWR_STAT_STATE 0 s < 3 → s.recAt ≠ some s.time → completes .eventRecordChoose s (fun t =>
    t = { s with regs := t.regs, hits := t.hits, evs := t.evs, recs := t.recs, recAt := some s.time }
    ∧ (∃ r ∈ t.recs, t.recs = s.recs ++ [r] ∧ r.queue = fget EVC_CFG_QUEUE n s ∧ r.source = n ∧ r.first = (evSrc n s).first
        ∧ r.at_ = s.time ∧ r.done = false
        ∧ (∀ i : Nat, i = fget EVQ_TAIL_INDEX r.queue s + (s.recs.filter (fun x => x.queue == r.queue)).length → ∀ m : Nat, m = fget EVQ_SIZE_SIZE r.queue s →
            r.addr = flat (16 * fget EVQ_BASE_ADDR r.queue s + 16 * (i % m)) s
            ∧ ∀ p : Nat, p = ((arrivedNow n s).map EvDot.payload).getD (evSrc n s).payload → r.data = 2 ^ 31 * ((fget EVQ_TAIL_LAP r.queue s + i / m) % 2) + 2 ^ 24 * r.sat.toNat + 2 ^ 16 * r.count + n
              + 2 ^ 32 * posLo r.first + 2 ^ 64 * r.first.frame + 2 ^ 96 * p)
        ∧ (arrivedNow n s = none → r.count = fget EVC_ST_ARR n s ∧ r.sat = fbit EVC_ST_SAT n s ∧ fget EVC_ST_ARR n t = 0)
        ∧ ∀ d ∈ arrivedNow n s, (d.was = 0 → r.count = 1 ∧ r.sat = false ∧ fget EVC_ST_ARR n t = min (d.n - 1) 255)
          ∧ (d.was ≠ 0 → r.count = d.was ∧ r.sat = d.sat ∧ fget EVC_ST_ARR n t = min d.n 255))
    ∧ fget EVC_ST_SAT n t = 0 ∧ fget EVC_ST_OUT n t = (if fbit EVC_CFG_AUTOACK n s then fget EVC_ST_OUT n s else 1)
    ∧ onlyRegs [EVC_ST_ARR, EVC_ST_SAT, EVC_ST_OUT, EVQ_STAT_FULL_HIT] s t
    ∧ ∀ j, j ≠ n → fget EVC_ST_ARR j t = fget EVC_ST_ARR j s ∧ fget EVC_ST_OUT j t = fget EVC_ST_OUT j s))
  ∧ (∀ (q : Fin 8) (e : Bool), (∀ r ∈ s.recs.find? (underWay q), s.time ≤ r.at_) ∨ 3 ≤ fget PWR_STAT_STATE 0 s ∨ ringOn q s = false → ignored (.recordStorePerformed q e) s)
  ∧ (∀ (q : Fin 8), ∀ r ∈ s.recs.find? (underWay q), r.at_ < s.time → fget PWR_STAT_STATE 0 s < 3 → ringOn q s = true →
    completes (.recordStorePerformed q false) s (fun t =>
    t = { s with recs := t.recs, due := t.due, mem := t.mem, valid := t.valid, tags := t.tags, poison := t.poison, soft := t.soft, memh := t.memh }
    ∧ t.recs = s.recs.map (fun x => if x = r then { x with done := true } else x) ∧ scheduled 1 (.tail q) s t ∧ (r.addr % 16 = 0 → r.addr / 16 ∉ t.tags) ∧ mread r.addr 16 t = r.data % 2 ^ 128
    ∧ ∀ a, (a < r.addr ∨ r.addr + 16 ≤ a) → mget a t = mget a s))
  ∧ (∀ (q : Fin 8), ∀ r ∈ s.recs.find? (underWay q), r.at_ < s.time → fget PWR_STAT_STATE 0 s < 3 → ringOn q s = true →
    completes (.recordStorePerformed q true) s (fun t =>
    t = { s with regs := t.regs, hits := t.hits, evs := t.evs, recs := s.recs.filter (fun x => !underWay q x), flt := t.flt }
    ∧ fget EVQ_STAT_ERR q t = 1 ∧ fget EVC_ST_OUT r.source t = 0 ∧ (evSrc r.source t).first = r.first
    ∧ ((s.recs.filter (underWay q)).length = 1 → fget EVC_ST_ARR r.source t = min (fget EVC_ST_ARR r.source s + r.count) 255 ∧ reported 0x104 r.queue 0 s t)
    ∧ onlyRegs [EVC_ST_ARR, EVC_ST_SAT, EVC_ST_OUT, EVQ_STAT_ERR, EVQ_STAT_FULL_HIT] s t))
  ∧ (∀ n : Fin 1024, fbit EVC_ST_OUT n s = false → ignored (.evcAck n) s)
  ∧ (∀ n : Fin 1024, fbit EVC_ST_OUT n s = true → completes (.evcAck n) s (fun t => t = { s with regs := t.regs, hits := t.hits, evs := t.evs }
    ∧ fget EVC_ST_OUT n t = 0 ∧ onlyRegs [EVC_ST_OUT, EVQ_STAT_FULL_HIT] s t ∧ ∀ j, j ≠ n.val → fget EVC_ST_OUT j t = fget EVC_ST_OUT j s))
  ∧ (∀ (n : Fin 1024) (v : Word), completes (.evcCfgWrite n v) s (fun t => t = { s with regs := t.regs, hits := t.hits, evs := t.evs }
    ∧ fget EVC_CFG_EN n t = v.toNat / 2 ^ 31 ∧ fget EVC_CFG_AUTOACK n t = v.toNat / 2 ^ 30 % 2 ∧ fget EVC_CFG_TAG n t = v.toNat / 2 ^ 8 % 2 ^ 16
    ∧ fget EVC_CFG_QUEUE n t = v.toNat % 8
    ∧ (v.toNat < 2 ^ 31 → fget EVC_ST_ARR n t = 0 ∧ fget EVC_ST_SAT n t = 0)
    ∧ (2 ^ 31 ≤ v.toNat → fget EVC_ST_ARR n t = fget EVC_ST_ARR n s ∧ fget EVC_ST_SAT n t = fget EVC_ST_SAT n s)
    ∧ onlyRegs [EVC_CFG_EN, EVC_CFG_AUTOACK, EVC_CFG_TAG, EVC_CFG_QUEUE, EVC_ST_ARR, EVC_ST_SAT, EVQ_STAT_FULL_HIT] s t))
  ∧ (∀ (q : Fin 8) (v : Word), v.toNat % 2 ^ 17 = 0 → completes (.evqSizeWrite q v) s (fun t =>
    t = { s with regs := t.regs, hits := t.hits, evs := t.evs, recs := s.recs.filter (fun r => r.queue != q.val),
                 due := s.due.filter (fun e => e.2 != .tail q) }
    ∧ fget EVQ_SIZE_SIZE q t = 0 ∧ onlyRegs [EVQ_SIZE_SIZE, EVQ_STAT_FULL_HIT] s t))
  ∧ (∀ (q : Fin 8) (v : Word), v.toNat % 2 ^ 17 ≠ 0 → v.toNat % 2 ^ 17 = fget EVQ_SIZE_SIZE q s → ignored (.evqSizeWrite q v) s)
  ∧ (∀ (q : Fin 8) (v : Word) (ok : Bool), ok = (decide (fget EVQ_SIZE_SIZE q s = 0) && decide (2 ≤ v.toNat % 2 ^ 17)
      && decide (v.toNat % 2 ^ 17 ≤ 65536) && ringPlaced (16 * fget EVQ_BASE_ADDR q s) (v.toNat % 2 ^ 17)) → v.toNat % 2 ^ 17 ≠ 0 →
    v.toNat % 2 ^ 17 ≠ fget EVQ_SIZE_SIZE q s → completes (.evqSizeWrite q v) s (fun t => t = { s with regs := t.regs, hits := t.hits, evs := t.evs, due := t.due }
      ∧ (ok = true → fget EVQ_SIZE_SIZE q t = v.toNat % 2 ^ 17 ∧ fget EVQ_HEAD_INDEX q t = 0 ∧ fget EVQ_TAIL_INDEX q t = 0
          ∧ fget EVQ_TAIL_LAP q t = 1 ∧ fget EVQ_STAT_ERR q t = 0)
      ∧ (ok = false → fget EVC_STAT_CFG_REFUSED 0 t = 1 ∧ onlyFields [(EVC_STAT_CFG_REFUSED, 0)] s t ∧ t.evs = s.evs ∧ t.due = s.due)))
  ∧ (∀ (q : Fin 8) (v : Word), ∀ m : Nat, m = fget EVQ_SIZE_SIZE q s → ∀ h : Nat, h = fget EVQ_HEAD_INDEX q s → ∀ n : Nat, n = v.toNat % 2 ^ 16 →
    (n < m → (n + m - h) % m ≤ (fget EVQ_TAIL_INDEX q s + m - h) % m → completes (.evqHeadWrite q v) s (fun t =>
      fget EVQ_HEAD_INDEX q t = n ∧ t.mem = s.mem ∧ t.recs = s.recs ∧ t.flt = s.flt ∧ t.pos = s.pos
      ∧ onlyRegs [EVQ_HEAD_INDEX, EVQ_STAT_INT, EVQ_STAT_FULL_HIT, EVQ_HOLD_COUNT] s t))
    ∧ (m ≤ n ∨ (fget EVQ_TAIL_INDEX q s + m - h) % m < (n + m - h) % m → completes (.evqHeadWrite q v) s (fun t =>
      t = { s with regs := t.regs, hits := t.hits } ∧ fget EVC_STAT_CFG_REFUSED 0 t = 1 ∧ onlyFields [(EVC_STAT_CFG_REFUSED, 0)] s t)))
  ∧ (∀ q : Fin 8, ∀ rise : Bool, rise = (decide (fget PWR_STAT_STATE 0 s < 3) && fbit EVQ_CFG_IEN q s
      && decide (fget EVQ_HEAD_INDEX q s ≠ fget EVQ_TAIL_INDEX q s) && !fbit EVQ_STAT_INT q s) →
    ∀ away : Bool, away = (fbit EVQ_CFG_WAKE q s && !domainOn (15 + fget EVQ_CFG_CORE q s) s) →
    (rise = false → completes (.evqHoldExpiry q) s (fun t =>
      t = { s with regs := t.regs, woke := ndel q s.woke } ∧ fget EVQ_HOLD_COUNT q t = 0 ∧ onlyFields [(EVQ_HOLD_COUNT, q)] s t))
    ∧ (rise = true → away = true → completes (.evqHoldExpiry q) s (fun t =>
      t = { s with regs := t.regs, due := t.due, woke := t.woke } ∧ fget EVQ_HOLD_COUNT q t = 0 ∧ onlyFields [(EVQ_HOLD_COUNT, q)] s t
      ∧ (q.val ∈ s.woke → t.due = s.due ∧ t.woke = s.woke)
      ∧ (q.val ∉ s.woke → scheduled 0 (.cmd (.wakeAccept 3 (BitVec.ofNat 10 q))) s t ∧ t.woke = nput q s.woke)))
    ∧ (rise = true → away = false → completes (.evqHoldExpiry q) s (fun t =>
      t = { s with regs := t.regs, hits := t.hits, woke := ndel q s.woke, cpus := t.cpus }
      ∧ fget EVQ_STAT_INT q t = 1 ∧ fget EVQ_HOLD_COUNT q t = fget EVQ_CFG_HOLDOFF q s % 2 ^ 12
      ∧ onlyFields [(EVQ_STAT_INT, q), (EVQ_HOLD_COUNT, q)] s t
      ∧ (∀ i : Nat, (cpu i t).state = if i = fget EVQ_CFG_CORE q s ∧ (cpu i s).state = .wait then .run else (cpu i s).state)
      ∧ ∀ i : Nat, i ≠ fget EVQ_CFG_CORE q s → cpu i t = cpu i s)))

/-- An entry that fires joins its cluster's dispatch queue, or with eight waiting is dropped and reported; outside RUN or in CORE_MODE
1 it does nothing, and for a LOCKED core it is only counted. A read of LCD_POP answers what the dot found presented; by the core
that serves the cluster it takes that head and presents the next, by any other it leaves it; of an absent cluster it is a bus
error. A posted store error is reported only. A discard is refused out of range or while one runs, and of no unit does nothing;
when it is done its units read 0 with no tags or errors. A Rambler step with an interval of 0 only lets the errors stand that have
come, through memory without errors it only moves its walker on; no step changes a byte or a register of another block. A repair
is refused while one runs, and with MEM_NOSPARE where the bank has no free row; when done the row is mapped and recorded. START
fetches the descriptor, or is refused while BUSY; STOP ends a BUSY channel. (10_events.md R269, R270, 11_memory_dma.md R282, R284,
R285, R286, R287, R288, R291, R296) -/
def Obligations.DispatchAndMemoryControl : Prop :=
  ∀ s : State,
  (∀ (c : Fin 24) (e : Fin 32), regionRun (c / 6) s = false ∨ clusterOn c s = false ∨ fbit LPE_CFG_CORE_MODE c s = true → ignored (.lcdEntryFire c e) s)
  ∧ (∀ (c : Fin 24) (e : Fin 32), regionRun (c / 6) s = true → clusterOn c s = true → fbit LPE_CFG_CORE_MODE c s = false →
    (fbit EXC_STAT_LOCKED (16 + c) s = true → completes (.lcdEntryFire c e) s (fun t => t = { s with regs := t.regs }
      ∧ onlyFields [(CPU_LOST_DISP, 16 + c)] s t ∧ fget CPU_LOST_DISP (16 + c) t = min (fget CPU_LOST_DISP (16 + c) s + 1) 65535))
    ∧ (fbit EXC_STAT_LOCKED (16 + c) s = false → 8 ≤ (lcdQueue c s).length → completes (.lcdEntryFire c e) s (fun t =>
        t = { s with regs := t.regs, hits := t.hits, flt := t.flt } ∧ onlyFields [(LCD_STAT_DROPPED, c)] s t ∧ fget LCD_STAT_DROPPED c t = 1
        ∧ reported (csrc c 3) e 0 s t))
    ∧ (fbit EXC_STAT_LOCKED (16 + c) s = false → (lcdQueue c s).length < 8 → completes (.lcdEntryFire c e) s (fun t =>
        t = { s with regs := t.regs, lcd := t.lcd, cpus := t.cpus } ∧ lcdQueue c t = lcdQueue c s ++ [e.val]
        ∧ onlyFields [(LCD_STAT_DEPTH, c), (LCD_POP_VALID, c), (LCD_POP_ENTRY, c), (LCD_POP_TAG, c)] s t
        ∧ fget LCD_STAT_DEPTH c t = (lcdQueue c s).length + 1 ∧ fget LCD_POP_VALID c t = 1
        ∧ (lcdQueue c s = [] → fget LCD_POP_ENTRY c t = e.val ∧ fget LCD_POP_TAG c t = fget LCD_ENT_HI_W (32 * c + e) s % 2 ^ 16)
        ∧ (∀ j, j ≠ c.val → lcdQueue j t = lcdQueue j s) ∧ (∀ j, j ≠ 16 + c.val → cpu j t = cpu j s)
        ∧ (lcdQueue c s = [] → (cpu (16 + c) s).state = .wait → (cpu (16 + c) t).state = .run)
        ∧ (lcdQueue c s ≠ [] ∨ (cpu (16 + c) s).state ≠ .wait → t.cpus = s.cpus))))
  ∧ (∀ (c : Fin 24) (r : Byte), clusterOn c s = false → exec (.lcdPop c r) s = .next { s with resp := ⟨0, true⟩ })
  ∧ (∀ (c : Fin 24) (r : Byte), clusterOn c s = true → ∀ w : Nat, w = 2 ^ 31 * fseen LCD_POP_VALID c s + 2 ^ 16 * fseen LCD_POP_ENTRY c s + fseen LCD_POP_TAG c s →
    (r.toNat ≠ 16 + c.val ∨ fseen LCD_POP_VALID c s ≠ 1 → exec (.lcdPop c r) s = .next { s with resp := ⟨BitVec.ofNat 32 w, false⟩ })
    ∧ (r.toNat = 16 + c.val → fseen LCD_POP_VALID c s = 1 → completes (.lcdPop c r) s (fun t =>
      t = { s with resp := ⟨BitVec.ofNat 32 w, false⟩, regs := t.regs, regs0 := t.regs0, lcd := t.lcd }
      ∧ lcdQueue c t = (lcdQueue c s).tail
      ∧ onlyFields [(LCD_STAT_DEPTH, c), (LCD_POP_VALID, c), (LCD_POP_ENTRY, c), (LCD_POP_TAG, c)] s t
      ∧ fget LCD_STAT_DEPTH c t = ((lcdQueue c s).length - 1) % 2 ^ LCD_STAT_DEPTH.w
      ∧ ((lcdQueue c t).length = 0 → fget LCD_POP_VALID c t = 0)
      ∧ (∀ e ∈ (lcdQueue c t).head?, fget LCD_POP_VALID c t = 1 ∧ fget LCD_POP_ENTRY c t = e % 32
          ∧ fget LCD_POP_TAG c t = fget LCD_ENT_HI_W (32 * c + e) s % 2 ^ 16)
      ∧ ∀ j, j ≠ c.val → lcdQueue j t = lcdQueue j s)))
  ∧ (∀ (r : Byte) (a : Word), completes (.postedStoreError r a) s (fun t => t = { s with flt := t.flt }
    ∧ reported 0x10A (flat a.toNat s % 2 ^ 32) (memInfo (flat a.toNat s) r.toNat) s t))
  ∧ (∀ m : Fin 4, fbit MEM_STAT_DISC_BUSY 0 s = true ∨ (0 < fget MEM_DISC_CNT_COUNT 0 s ∧ (discMemory m).2.1 < fget MEM_DISC_START_UNIT 0 s + fget MEM_DISC_CNT_COUNT 0 s) →
    completes (.memDiscGo m) s (fun t => t = { s with regs := t.regs, hits := t.hits }
      ∧ onlyFields [(MEM_DISC_MEM, 0), (MEM_STAT_CFG_REFUSED, 0)] s t ∧ fget MEM_STAT_CFG_REFUSED 0 t = 1))
  ∧ (∀ m : Fin 4, fbit MEM_STAT_DISC_BUSY 0 s = false → fget MEM_DISC_START_UNIT 0 s + fget MEM_DISC_CNT_COUNT 0 s ≤ (discMemory m).2.1 →
    0 < fget MEM_DISC_CNT_COUNT 0 s → completes (.memDiscGo m) s (fun t => t = { s with regs := t.regs, hits := t.hits, memh := t.memh }
      ∧ t.memh = { s.memh with disc := some (m.val, fget MEM_DISC_START_UNIT 0 s, fget MEM_DISC_CNT_COUNT 0 s) }
      ∧ onlyFields [(MEM_DISC_MEM, 0), (MEM_STAT_DISC_BUSY, 0)] s t ∧ fget MEM_STAT_DISC_BUSY 0 t = 1))
  ∧ (∀ m : Fin 4, fbit MEM_STAT_DISC_BUSY 0 s = false → fget MEM_DISC_CNT_COUNT 0 s = 0 →
    completes (.memDiscGo m) s (fun t => t = { s with regs := t.regs } ∧ onlyFields [(MEM_DISC_MEM, 0)] s t))
  ∧ (s.memh.disc = none → ignored .discardDone s)
  ∧ (∀ e ∈ s.memh.disc, ∀ b : Nat, b = (discMemory e.1).1 → ∀ z : Nat, z = (discMemory e.1).2.2 → completes .discardDone s (fun t =>
    t = { s with regs := t.regs, memh := { s.memh with disc := none }, valid := t.valid, mem := t.mem, tags := t.tags, poison := t.poison, soft := t.soft }
    ∧ onlyFields [(MEM_STAT_DISC_BUSY, 0)] s t ∧ fget MEM_STAT_DISC_BUSY 0 t = 0
    ∧ (∀ a, b + z * e.2.1 ≤ a → a < b + z * (e.2.1 + e.2.2) → mget a t = 0) ∧ ∀ a, (a < b + z * e.2.1 ∨ b + z * (e.2.1 + e.2.2) ≤ a) → mget a t = mget a s))
  ∧ (∀ w : Fin 5, fget RMB_CFG_INTERVAL w s = 0 → ignored (.ramblerStep w []) s)
  ∧ (∀ (w : Fin 5) (us : List (Nat × Bool)), completes (.ramblerStep w us) s (fun t =>
    t = { s with regs := t.regs, hits := t.hits, memh := t.memh, poison := t.poison, soft := t.soft, flt := t.flt }
    ∧ onlyRegs [RMB_POS_POS, RMB_PASS_PASS, RMB_STAT_FIXED, RMB_STAT_UE, MEM_CE_CNT_COUNT, MEM_UE_CNT_COUNT, MEM_LASTERR_UE, MEM_LASTERR_MEM,
        MEM_ERRADDR_ADDR, MEM_ERRADDR_HI_A32, MEM_STAT_REP_BUSY, MEM_REP_STAT_CAND, MEM_REP_STAT_REFUSED] s t
    ∧ (fget RMB_CFG_INTERVAL w s = 0 → t.regs = s.regs ∧ t.flt = s.flt ∧ (∀ u ∈ us, if u.2 then u.1 ∈ t.poison else u.1 ∈ t.soft))))
  ∧ (∀ w : Fin 5, fget RMB_CFG_INTERVAL w s ≠ 0 → s.memh.handed = [] → s.poison = [] → s.soft = [] → 
    completes (.ramblerStep w []) s (fun t => t = { s with regs := t.regs, memh := t.memh } ∧ onlyFields [(RMB_POS_POS, w), (RMB_PASS_PASS, w)] s t
      ∧ (sget 0 s.memh.off w < sget 0 t.memh.off w ∨ sget 0 t.memh.off w = 0) ∧ t.memh.handed = []))
  ∧ (∀ r : BitVec 23, fbit MEM_STAT_REP_BUSY 0 s = true → completes (.memRepair r) s (fun t => t = { s with regs := t.regs, hits := t.hits }
    ∧ onlyFields [(MEM_REP_STAT_REFUSED, 0)] s t ∧ fget MEM_REP_STAT_REFUSED 0 t = 1))
  ∧ (∀ r : BitVec 23, fbit MEM_STAT_REP_BUSY 0 s = false → (s.memh.rows.filter (fun x => x / 2 ^ 15 == r.toNat / 2 ^ 15)).length < 8 →
    completes (.memRepair r) s (fun t => t = { s with regs := t.regs, hits := t.hits, memh := { s.memh with repairing := some r.toNat, repairBy := 0 } }
      ∧ onlyFields [(MEM_STAT_REP_BUSY, 0)] s t ∧ fget MEM_STAT_REP_BUSY 0 t = 1))
  ∧ (∀ r : BitVec 23, fbit MEM_STAT_REP_BUSY 0 s = false → 8 ≤ (s.memh.rows.filter (fun x => x / 2 ^ 15 == r.toNat / 2 ^ 15)).length →
    completes (.memRepair r) s (fun t => t = { s with regs := t.regs, hits := t.hits, flt := t.flt }
      ∧ onlyFields [(MEM_REP_STAT_REFUSED, 0)] s t ∧ fget MEM_REP_STAT_REFUSED 0 t = 1
      ∧ reported 0x10E (rowOffset r.toNat % 2 ^ 32) (memInfo (2 ^ 32 + rowOffset r.toNat) 0) s t))
  ∧ (s.memh.repairing = none → ignored .rowRepairDone s)
  ∧ (∀ r ∈ s.memh.repairing, completes .rowRepairDone s (fun t => t = { s with regs := t.regs, mem := t.mem, soft := t.soft, memh := t.memh, flt := t.flt }
    ∧ (∀ w ∈ s.soft, ¬(2 ^ 32 ≤ 8 * w ∧ 8 * w < 2 ^ 34 ∧ rowCode (8 * w - 2 ^ 32) = r) → w ∈ t.soft)
    ∧ (∀ w ∈ t.soft, w ∈ s.soft ∧ (2 ^ 32 ≤ 8 * w → 8 * w < 2 ^ 34 → rowCode (8 * w - 2 ^ 32) = r → wordSoft w s = false))
    ∧ t.memh = { s.memh with repairing := none, rows := s.memh.rows ++ [r] } ∧ fget MEM_STAT_REP_BUSY 0 t = 0 ∧ fget MEM_REP_USED_COUNT 0 t = (s.memh.rows.length + 1) % 2 ^ MEM_REP_USED_COUNT.w
    ∧ onlyFields [(MEM_STAT_REP_BUSY, 0), (MEM_REP_USED_COUNT, 0)] s t ∧ reported 0x10D (rowOffset r % 2 ^ 32) (memInfo (2 ^ 32 + rowOffset r) s.memh.repairBy) s t
    ∧ (repairCount s < 2048 → mread (0x11800004 + 4 * repairCount s) 4 t = r % 2 ^ 32 ∧ mread 0x11800000 4 t = repairCount s + 1)))
  ∧ (∀ c : Fin 64, fbit CH_STAT_BUSY c s = true → completes (.chCtrlStart c) s (fun t => t = { s with regs := t.regs, hits := t.hits }
    ∧ onlyFields [(CH_STAT_CFG_REFUSED, c)] s t ∧ fget CH_STAT_CFG_REFUSED c t = 1))
  ∧ (∀ c : Fin 64, fbit CH_STAT_BUSY c s = false → completes (.chCtrlStart c) s (fun t => t = { s with regs := t.regs, hits := t.hits, dma := t.dma }
    ∧ onlyFields [(CH_STAT_BUSY, c), (CH_CUR_ADDR, c), (CH_DONE_BYTES, c)] s t ∧ fget CH_STAT_BUSY c t = 1 ∧ fget CH_DONE_BYTES c t = 0
    ∧ fget CH_CUR_ADDR c t = 32 * fget CH_DESC_ADDR c s % 2 ^ 32 ∧ (dma c t).phase = .fetch ∧ ∀ j, j ≠ c.val → dma j t = dma j s))
  ∧ (∀ c : Fin 64, fbit CH_STAT_BUSY c s = false → ignored (.chCtrlStop c) s)
  ∧ (∀ c : Fin 64, fbit CH_STAT_BUSY c s = true → completes (.chCtrlStop c) s (fun t => t = { s with regs := t.regs, hits := t.hits, dma := t.dma }
    ∧ onlyFields [(CH_STAT_BUSY, c), (CH_STAT_STOPPED, c)] s t ∧ fget CH_STAT_BUSY c t = 0 ∧ fget CH_STAT_STOPPED c t = 1 ∧ dma c t = DmaH.init
    ∧ ∀ j, j ≠ c.val → dma j t = dma j s))

/-- A channel not in the phase that a command needs, or whose next fetch a BARRIER still bars, ignores it. Over sound general SRAM: a
fetch that CH_QCAP allows takes the descriptor's words, one that it does not allow stops the channel with code 1 at the
descriptor's address; a fill gives every byte of the destination its pattern byte; a copy gives the destination the bytes that the
source held, overlapping or not; a compare finds whether the ranges differ and counts the bytes before the first difference; every
other byte of memory stays. Completion stores DONE, MISMATCH and CH_DONE in the result words, posts the event where EVENT is 1,
with BARRIER in the dot after, and goes on to NEXT or ends; without authority for the result words it stops the channel with code
1. An error that a transfer met, or that the target of a data read or write of its operation answers, ends it: BUSY clears, ERR,
ERRCODE and ERRADDR are set, the channel is idle and DMA_ERR is reported. (11_memory_dma.md R289, R290, R291, R292, R294, R295,
R296, R297) -/
def Obligations.DmaChannels : Prop :=
  ∀ (s : State) (c : Fin 64), ∀ h : DmaH, h = dma c s →
  (h.phase ≠ .fetch ∨ (running s = true ∧ s.time < h.from_) → ignored (.descriptorFetch c) s)
  ∧ (h.phase ≠ .work ∨ h.w0 % 16 ≠ 0 → ignored (.dmaCopy c) s) ∧ (h.phase ≠ .work ∨ h.w0 % 16 ≠ 1 → ignored (.dmaFill c) s)
  ∧ (h.phase ≠ .work ∨ h.w0 % 16 ≠ 2 → ignored (.dmaCompare c) s) ∧ (h.phase ≠ .work ∨ h.w0 % 16 ≠ 3 → ignored (.dmaComparePattern c) s)
  ∧ (h.phase ≠ .done → ignored (.descriptorComplete c) s)
  ∧ (h.phase = .idle ∨ h.phase = .done → ∀ w a, ignored (.dmaErrorStop c w a) s)
  ∧ (h.phase = .work → (1 < h.w0 % 16 → ∀ a, ignored (.dmaErrorStop c true a) s) ∧ (h.w0 % 16 = 1 → ∀ a, ignored (.dmaErrorStop c false a) s))
  ∧ (∀ a : Nat, a = fget CH_CUR_ADDR c s → h.phase = .fetch → (running s = true → h.from_ ≤ s.time) →
    (capCheck (slotCap CH_QCAP_CAP c s) [permLD] a 32 false).isSome = true →
    completes (.descriptorFetch c) s (fun t => t = { s with regs := t.regs, hits := t.hits, dma := t.dma, flt := t.flt, evs := t.evs }
      ∧ fget CH_STAT_BUSY c t = 0 ∧ fget CH_STAT_ERR c t = 1 ∧ fget CH_STAT_ERRCODE c t = 1 ∧ fget CH_ERRADDR_ADDR c t = a % 2 ^ 32
      ∧ dma c t = DmaH.init ∧ reported (0x140 + c) a 1 s t))
  ∧ (∀ a : Nat, a = fget CH_CUR_ADDR c s → h.phase = .fetch → (running s = true → h.from_ ≤ s.time) →
    (capCheck (slotCap CH_QCAP_CAP c s) [permLD] a 32 false).isSome = false →
    0x20000000 ≤ a → a + 32 ≤ 0x20800000 → s.valid.contains (a - a % 256) = true → a % 32 = 0 → s.poison = [] → s.soft = [] →
    ∀ d : DmaH, d = ⟨.work, mread a 4 s, mread (a + 4) 4 s, mread (a + 8) 4 s, mread (a + 12) 4 s, mread (a + 16) 4 s, mread (a + 20) 4 s, false, 0⟩ →
    dmaCheck c d (setDma c d s) = none → completes (.descriptorFetch c) s (fun t => t = { s with regs := t.regs, dma := t.dma }
      ∧ dma c t = (if d.len = 0 then { d with phase := .done } else d) ∧ onlyFields [(CH_DONE_BYTES, c)] s t ∧ fget CH_DONE_BYTES c t = 0))
  ∧ (h.phase = .work → h.w0 % 16 = 1 → 0x20000000 ≤ h.dst → h.dst + h.len ≤ 0x20800000 → 0 < h.len → s.poison = [] → s.soft = [] →
    completes (.dmaFill c) s (fun t => dma c t = { h with phase := .done } ∧ onlyFields [(CH_DONE_BYTES, c)] s t
      ∧ fget CH_DONE_BYTES c t = h.len % 2 ^ 32 ∧ t.flt = s.flt ∧ t.pos = s.pos
      ∧ (∀ a, h.dst ≤ a → a < h.dst + h.len → (mget a t).toNat = h.pattern / 2 ^ (8 * (a % 4)) % 256)
      ∧ ∀ a, (a < h.dst ∨ h.dst + h.len ≤ a) → mget a t = mget a s))
  ∧ (h.phase = .work → h.w0 % 16 = 0 → 0x20000000 ≤ h.dst → h.dst + h.len ≤ 0x20800000 → 0x20000000 ≤ h.src → h.src + h.len ≤ 0x20800000 →
    0 < h.len → s.poison = [] → s.soft = [] → (∀ a, a < h.len → s.valid.contains (h.src + a - (h.src + a) % 256) = true) →
    completes (.dmaCopy c) s (fun t => dma c t = { h with phase := .done } ∧ onlyFields [(CH_DONE_BYTES, c)] s t
      ∧ fget CH_DONE_BYTES c t = h.len % 2 ^ 32 ∧ t.flt = s.flt ∧ t.pos = s.pos
      ∧ (∀ a, a < h.len → mget (h.dst + a) t = mget (h.src + a) s) ∧ ∀ a, (a < h.dst ∨ h.dst + h.len ≤ a) → mget a t = mget a s))
  ∧ (h.phase = .work → 0x20000000 ≤ h.dst → h.dst + h.len ≤ 0x20800000 → 0x20000000 ≤ h.src → h.src + h.len ≤ 0x20800000 →
    0 < h.len → s.poison = [] → s.soft = [] → (∀ a, a < h.len → s.valid.contains (h.src + a - (h.src + a) % 256) = true) →
    (∀ a, a < h.len → s.valid.contains (h.dst + a - (h.dst + a) % 256) = true) →
    (h.w0 % 16 = 2 → completes (.dmaCompare c) s (fun t => t = { s with regs := t.regs, dma := t.dma } ∧ onlyFields [(CH_DONE_BYTES, c)] s t
      ∧ (dma c t).phase = .done ∧ ((dma c t).mismatch = false ↔ ∀ a, a < h.len → mget (h.src + a) s = mget (h.dst + a) s)
      ∧ ∀ a, a < fget CH_DONE_BYTES c t → a < h.len → mget (h.src + a) s = mget (h.dst + a) s))
    ∧ (h.w0 % 16 = 3 → completes (.dmaComparePattern c) s (fun t => t = { s with regs := t.regs, dma := t.dma }
      ∧ onlyFields [(CH_DONE_BYTES, c)] s t ∧ (dma c t).phase = .done
      ∧ ((dma c t).mismatch = false ↔ ∀ a, a < h.len → (mget (h.dst + a) s).toNat = h.pattern / 2 ^ (8 * ((h.dst + a) % 4)) % 256))))
  ∧ (h.phase = .done → (capCheck (slotCap CH_QCAP_CAP c s) [permST] (fget CH_CUR_ADDR c s + 24) 8 true).isSome = true →
    completes (.descriptorComplete c) s (fun t => t = { s with regs := t.regs, hits := t.hits, dma := t.dma, flt := t.flt, evs := t.evs }
      ∧ fget CH_STAT_BUSY c t = 0 ∧ fget CH_STAT_ERR c t = 1 ∧ fget CH_STAT_ERRCODE c t = 1 ∧ dma c t = DmaH.init
      ∧ fget CH_ERRADDR_ADDR c t = (fget CH_CUR_ADDR c s + 24) % 2 ^ 32 ∧ reported (0x140 + c) (fget CH_CUR_ADDR c s + 24) 1 s t))
  ∧ (h.phase = .done → (capCheck (slotCap CH_QCAP_CAP c s) [permST] (fget CH_CUR_ADDR c s + 24) 8 true).isSome = false →
    0x20000000 ≤ fget CH_CUR_ADDR c s → fget CH_CUR_ADDR c s + 32 ≤ 0x20800000 → s.poison = [] → s.soft = [] → fget CH_CUR_ADDR c s % 32 = 0 →
    completes (.descriptorComplete c) s (fun t => t.flt = s.flt ∧ t.pos = s.pos
      ∧ mread (fget CH_CUR_ADDR c s + 24) 4 t = 2 ^ 31 + h.mismatch.toNat * 256
      ∧ mread (fget CH_CUR_ADDR c s + 28) 4 t = fget CH_DONE_BYTES c s % 2 ^ 32
      ∧ (if h.w0.testBit 6 = true ∨ (h.mismatch = true ∧ h.w0.testBit 7 = true) then fget CH_STAT_BUSY c t = 0 ∧ dma c t = DmaH.init
        else fget CH_CUR_ADDR c t = h.next % 2 ^ 32 ∧ fget CH_DONE_BYTES c t = 0
          ∧ dma c t = { DmaH.init with phase := .fetch, from_ := if h.w0.testBit 4 then s.time + 1 else 0 })
      ∧ (∀ p : Nat, p = 2 ^ 16 * (h.w0 / 2 ^ 16 % 2 ^ 16) + h.mismatch.toNat →
          (h.w0.testBit 5 = false → t.evs = s.evs ∧ t.due = s.due)
          ∧ (h.w0.testBit 5 = true → h.w0.testBit 4 = true → scheduled 1 (.arrive (0x100 + c) p) s t ∧ t.evs = s.evs)
          ∧ (h.w0.testBit 5 = true → h.w0.testBit 4 = false → fbit EVC_CFG_EN (0x100 + c) s = true → fget PWR_STAT_STATE 0 s < 3 →
              t.due = s.due ∧ (fget EVC_ST_ARR (0x100 + c) s < 255 → fget EVC_ST_ARR (0x100 + c) t = fget EVC_ST_ARR (0x100 + c) s + 1
                ∧ (evSrc (0x100 + c) t).payload = p)))
      ∧ t.legs = s.legs ∧ t.ctx = s.ctx ∧ t.fab = s.fab ∧ (∀ j, j ≠ c.val → dma j t = dma j s)
      ∧ onlyRegs [CH_STAT_BUSY, CH_CUR_ADDR, CH_DONE_BYTES, EVC_ST_ARR, EVC_ST_SAT, EVQ_STAT_FULL_HIT] s t
      ∧ ∀ a, (a < fget CH_CUR_ADDR c s + 24 ∨ fget CH_CUR_ADDR c s + 32 ≤ a) → mget a t = mget a s))
  ∧ (∀ (w : Bool) (a : Word) (x : Nat), h.phase = .failed 1 x → completes (.dmaErrorStop c w a) s (fun t =>
    t = { s with regs := t.regs, hits := t.hits, dma := t.dma, flt := t.flt, evs := t.evs }
    ∧ fget CH_STAT_BUSY c t = 0 ∧ fget CH_STAT_ERR c t = 1 ∧ fget CH_STAT_ERRCODE c t = 1 ∧ fget CH_ERRADDR_ADDR c t = x % 2 ^ 32
    ∧ dma c t = DmaH.init ∧ reported (0x140 + c) x 1 s t))
  ∧ (∀ (w : Bool) (a : Word), h.phase = .fetch → completes (.dmaErrorStop c w a) s (fun t => dma c t = DmaH.init
    ∧ fget CH_STAT_BUSY c t = 0 ∧ fget CH_STAT_ERR c t = 1 ∧ fget CH_STAT_ERRCODE c t = 8 ∧ reported (0x140 + c) (fget CH_CUR_ADDR c s) 8 s t
    ∧ t.mem = s.mem))
  ∧ (∀ (w : Bool) (a : Word), h.phase = .work → (if w then h.w0 % 16 < 2 else h.w0 % 16 ∈ [0, 2, 3]) → 0x20000000 ≤ h.dst → h.dst + h.len ≤ 0x20800000 → 0x20000000 ≤ h.src →
    h.src + h.len ≤ 0x20800000 → 0 < h.len → h.dst ≤ a.toNat → a.toNat < h.dst + h.len → s.poison = [] → s.soft = [] →
    (∀ x, x < h.len → s.valid.contains (h.src + x - (h.src + x) % 256) = true) →
    0x20000000 ≤ fget CH_CUR_ADDR c s → fget CH_CUR_ADDR c s + 32 ≤ 0x20800000 → fget CH_CUR_ADDR c s % 32 = 0 →
    completes (.dmaErrorStop c w a) s (fun t => fget CH_STAT_BUSY c t = 0 ∧ fget CH_STAT_ERR c t = 1 ∧ fget CH_STAT_ERRCODE c t = (if w then 7 else 6)
      ∧ fget CH_ERRADDR_ADDR c t = a.toNat ∧ dma c t = DmaH.init ∧ reported (0x140 + c) a.toNat (if w then 7 else 6) s t
      ∧ fget CH_CUR_ADDR c t = fget CH_CUR_ADDR c s ∧ (∀ j, j ≠ c.val → dma j t = dma j s)
      ∧ ∀ x, (x < h.dst ∨ h.dst + h.len ≤ x) → (x < fget CH_CUR_ADDR c s + 24 ∨ fget CH_CUR_ADDR c s + 32 ≤ x) → mget x t = mget x s))

/-- A COMMIT only makes group DISP pending. At the start of vertical blanking VBLANK is set, the pending commit is over, and one that
no condition refuses lets every in-effect field take its shadow's value, with COMMIT_DONE; one that is refused shows its first
failing condition in REJECT_WHY and reports. A display frame start counts the frame, ends VBLANK and takes the timing in effect. A
line beyond the active ones is not composed; one that is has as many 24-bit pixels as the line is wide, all SCN_BG where nothing
is drawn, and capture takes it, or drops it where the buffer is full. An underrun of the line being scanned at pixel x keeps the
pixels before it and sends, and captures, the others as SCN_BG; a line counts once, the first one's number is kept; without such a
line or beyond its pixels it does nothing. CAPTURE_DONE without a waiting line does nothing; else the lines that wait go to
memory, one that SCN_WCAP does not allow is dropped and reported, and the event of a frame whose lines are all written comes in
the next dot. (12_lantern_graphics.md R301, R315, 13_composition_scanout.md R327, R336, R337, R339, R340, R343, R344, R347, R348) -/
def Obligations.DisplayFramesAndLines : Prop :=
  ∀ s : State,
  completes .scnCtrlCommit s (fun t => t = { s with regs := t.regs, hits := t.hits } ∧ onlyFields [(SCN_STAT_PEND, 0)] s t ∧ fget SCN_STAT_PEND 0 t = 1)
  ∧ completes .vblankStart s (fun t => fget SCN_STAT_VBLANK 0 t = 1 ∧ fbit SCN_STAT_PEND 0 t = false ∧ t.mem = s.mem ∧ t.pos = s.pos ∧ t.ctx = s.ctx
    ∧ (fbit SCN_STAT_PEND 0 s = true → dispReject s = 0 → fget SCN_STAT_COMMIT_DONE 0 t = 1
        ∧ ∀ f ∈ dispFields, ∀ u, fget f.eff u t = fget f.fld u s)
    ∧ (fbit SCN_STAT_PEND 0 s = true → dispReject s ≠ 0 → fget SCN_STAT_REJECT 0 t = 1
        ∧ fget SCN_STAT_REJECT_WHY 0 t = dispReject s ∧ fget SCN_STAT_COMMIT_DONE 0 t = fget SCN_STAT_COMMIT_DONE 0 s
        ∧ (∀ e ∈ reportOf 0x11E 0 0 s, e ∈ t.flt.reports)
        ∧ t.disp = s.disp)
    ∧ (fbit SCN_STAT_PEND 0 s = false → fget SCN_STAT_COMMIT_DONE 0 t = fget SCN_STAT_COMMIT_DONE 0 s
        ∧ fget SCN_STAT_REJECT 0 t = fget SCN_STAT_REJECT 0 s)
    ∧ fget SCN_UNDER_COUNT 0 t = s.scan.under % 2 ^ SCN_UNDER_COUNT.w ∧ t.scan.under = 0 ∧ t.scan.drop = 0)
  ∧ completes .displayFrameStart s (fun t => t.mem = s.mem ∧ t.pos = s.pos ∧ fget SCN_FRAMES_COUNT 0 t = (fget SCN_FRAMES_COUNT 0 s + 1) % 2 ^ 32
    ∧ fget SCN_STAT_VBLANK 0 t = 0 ∧ t.scan.timing = timingEff s ∧ onlyRegs [SCN_FRAMES_COUNT, SCN_STAT_VBLANK, SCN_STAT_MISMATCH, TRC_STAT_COLS] s t
    ∧ t = { s with regs := t.regs, hits := t.hits, scan := t.scan, trace := t.trace, flt := t.flt }
    ∧ (frameMismatch s = false → t.flt = s.flt ∧ fget SCN_STAT_MISMATCH 0 t = fget SCN_STAT_MISMATCH 0 s)
    ∧ (frameMismatch s = true → reported 0x11D 0 0 s t ∧ fget SCN_STAT_MISMATCH 0 t = 1))
  ∧ (∀ (y : Fin 1200) (b : Bool), (lineTiming y s).vactive ≤ y.val → ignored (.lineCompose y b) s)
  ∧ (∀ y : Fin 1200, y.val < (lineTiming y s).vactive → completes (.lineCompose y true) s (fun t => t.scan.row = y.val ∧ t.mem = s.mem ∧ t.pos = s.pos
    ∧ t.scan.made = true ∧ t.scan.kept = false ∧ t.scan.capQ = s.scan.capQ ∧ t.scan.sent = s.scan.sent
    ∧ (fbit SCN_CAP_CFG_EN_E 0 s = true → s.scan.rll = [] → 0 < (lineTiming y s).hactive → t.scan.capDrop = s.scan.capDrop + 1)
    ∧ t.scan.pixels.length = (lineTiming y s).hactive ∧ ∀ p ∈ t.scan.pixels, p < 2 ^ 24))
  ∧ (∀ y : Fin 1200, y.val < (lineTiming y s).vactive → fbit SCN_CAP_CFG_EN_E 0 s = true → s.scan.rll = [] → 0 < (lineTiming y s).hactive →
    completes (.lineCompose y false) s (fun t => t.scan.row = y.val ∧ t.mem = s.mem ∧ t.pos = s.pos ∧ t.scan.made = true
    ∧ (s.scan.capQ.length < 2 → t.scan.kept = true ∧ t.scan.capDrop = s.scan.capDrop
        ∧ ∀ b : Nat, b = (if fget SCN_CAP_CFG_FMT_E 0 s = 3 then 4 else if fget SCN_CAP_CFG_FMT_E 0 s = 1 then 2 else 1) →
          t.scan.capQ = s.scan.capQ ++ [⟨y, fget SCN_CAP_ADDR_ADDR_E 0 s + y * fget SCN_CAP_PITCH_PITCH_E 0 s, b,
            t.scan.pixels.map (fun p => ofArgb (fget SCN_CAP_CFG_FMT_E 0 s) (0xFF000000 + p))⟩])
    ∧ (2 ≤ s.scan.capQ.length → t.scan.kept = false ∧ t.scan.capQ = s.scan.capQ ∧ t.scan.capDrop = s.scan.capDrop + 1
        ∧ fget SCN_CAPSTAT_DROP 0 t = min (fget SCN_CAPSTAT_DROP 0 s + 1) (2 ^ SCN_CAPSTAT_DROP.w - 1))))
  ∧ (∀ y : Fin 1200, y.val < (lineTiming y s).vactive → s.scan.rll = [] → (∀ p < 4, fbit TP_CFG_EN_E p s = false) → spritesOn y s = [] →
    fbit SCN_MODE_FLAT_EN_E 0 s = false → fget TRC_WIN1_W_E 0 s = 0 → fbit SCN_CAP_CFG_EN_E 0 s = false →
    completes (.lineCompose y false) s (fun t => t = { s with scan := t.scan }
      ∧ t.scan = { s.scan with row := y.val, made := true, kept := false, pixels := List.replicate (lineTiming y s).hactive (fget SCN_BG_RGB_E 0 s % 2 ^ 24) }))
  ∧ (∀ x : Fin 1920, (∀ l ∈ s.scan.sent, l.pixels.length ≤ x.val) → ignored (.lineUnderrun x) s)
  ∧ (∀ x : Fin 1920, ∀ l ∈ s.scan.sent, x.val < l.pixels.length →
    ∀ u : SentLine, u = { l with under := true, pixels := l.pixels.take x ++ List.replicate (l.pixels.length - x) (fget SCN_BG_RGB_E 0 s) } →
    ∀ h : Scan, h = { s.scan with
      sent := some u
      under := s.scan.under + (if l.under then 0 else 1)
      underLine := if l.under then s.scan.underLine else some (s.scan.underLine.getD l.row) } →
    (l.kept = false → completes (.lineUnderrun x) s (fun t => t = { s with scan := h }))
    ∧ (l.kept = true → (∃ e ∈ s.scan.capQ, e.row = l.row) → completes (.lineUnderrun x) s (fun t => t = { s with scan := t.scan }
        ∧ t.scan = { h with capQ := t.scan.capQ } ∧ t.scan.capQ = s.scan.capQ.map (fun e => if e.row = l.row then { e with
            px := e.px.take x ++ List.replicate (l.pixels.length - x) (ofArgb (fget SCN_CAP_CFG_FMT_E 0 s) (0xFF000000 + fget SCN_BG_RGB_E 0 s)) }
          else e)))
    ∧ (l.kept = true → (∀ e ∈ s.scan.capQ, e.row ≠ l.row) → ∀ b : Nat, b = (if fget SCN_CAP_CFG_FMT_E 0 s = 3 then 4 else 2) →
        fget SCN_CAP_CFG_FMT_E 0 s ∈ [1, 3] →
        ∀ a : Nat, a = fget SCN_CAP_ADDR_ADDR_E 0 s + l.row * fget SCN_CAP_PITCH_PITCH_E 0 s + x * b → ∀ n : Nat, n = b * (l.pixels.length - x) →
        (capCheck (slotCap SCN_WCAP_CAP 0 s) [permST] a n true).isSome = false → 0x20000000 ≤ a → a + n ≤ 0x20800000 → s.poison = [] → s.soft = [] →
        completes (.lineUnderrun x) s (fun t => t.scan = h ∧ t.flt = s.flt ∧ t.regs = s.regs ∧ t.pos = s.pos
          ∧ (∀ i, i < l.pixels.length - x → mread (a + b * i) b t = ofArgb (fget SCN_CAP_CFG_FMT_E 0 s) (0xFF000000 + fget SCN_BG_RGB_E 0 s) % 2 ^ (8 * b))
          ∧ ∀ k, (k < a ∨ a + n ≤ k) → mget k t = mget k s)))
  ∧ (s.scan.capQ = [] → ignored .captureDone s)
  ∧ (∀ e ∈ s.scan.capQ, s.scan.capQ = [e] →
    ∀ done : List (Nat × Nat), done = (s.scan.capEnds.filter (fun w => w.1 == 1)) → ∀ more : List (Nat × Nat), more = (s.scan.capEnds.filter (fun w => w.1 != 1)) →
    ((capCheck (slotCap SCN_WCAP_CAP 0 s) [permST] e.addr (e.px.length * e.bpp) true).isSome = true → done = [] → more = [] →
      completes .captureDone s (fun t => t = { s with regs := t.regs, hits := t.hits, flt := t.flt, scan := { s.scan with capQ := [], capDrop := s.scan.capDrop + 1 } }
        ∧ reported 0x11F 0 0 s t ∧ onlyFields [(SCN_CAPSTAT_DROP, 0)] s t))
    ∧ ((capCheck (slotCap SCN_WCAP_CAP 0 s) [permST] e.addr (e.px.length * e.bpp) true).isSome = false → 0x20000000 ≤ e.addr →
        e.addr + e.px.length * e.bpp ≤ 0x20800000 → e.bpp ∈ [1, 2, 4] → 0 < e.px.length → s.poison = [] → s.soft = [] → (∀ w ∈ more, 1 < w.1) →
        completes .captureDone s (fun t => t.scan = { s.scan with capQ := [], capEnds := more.map (fun w => (w.1 - 1, w.2)) } ∧ t.flt = s.flt
          ∧ t.regs = s.regs ∧ t.pos = s.pos ∧ t.evs = s.evs
          ∧ t.due = s.due ++ done.map (fun w => (s.time + 1, Due.arrive 0x18A (w.2 % 2 ^ 16)))
          ∧ (∀ i, i < e.px.length → mread (e.addr + e.bpp * i) e.bpp t = e.px.getD i 0 % 2 ^ (8 * e.bpp))
          ∧ ∀ k, (k < e.addr ∨ e.addr + e.px.length * e.bpp ≤ k) → mget k t = mget k s)))

/-- TRAIN stops the stream until training has passed; its result sets TRAINED, or LINK_LOST with a report, and without a training
under way does nothing. A loss of a trained link clears TRAINED, sets LINK_LOST and reports. A hot-plug change sets HPD, 0 while
no pin carries it, and nothing but its event follows; the same level again does nothing. An AUX transaction of no bytes is done at
once; the end of one in progress sets AUX_DONE, and AUX_ERR where it was not acknowledged; an acknowledged read fills LEN bytes
and no others. (13_composition_scanout.md R346, R348, R351) -/
def Obligations.DisplayPortAndAux : Prop :=
  ∀ s : State,
  completes .train s (fun t => t = { s with regs := t.regs, hits := t.hits, evs := t.evs, dp := { s.dp with training := true } }
    ∧ onlyRegs [DP_STAT_TRAINED, EVC_ST_ARR, EVC_ST_SAT, EVQ_STAT_FULL_HIT] s t ∧ fget DP_STAT_TRAINED 0 t = 0)
  ∧ (∀ b, s.dp.training = false → ignored (.dpTrainResult b) s)
  ∧ (s.dp.training = true → completes (.dpTrainResult true) s (fun t =>
    t = { s with regs := t.regs, hits := t.hits, evs := t.evs, dp := { s.dp with training := false } } ∧ fget DP_STAT_TRAINED 0 t = 1
    ∧ onlyRegs [DP_STAT_TRAINED, EVC_ST_ARR, EVC_ST_SAT, EVQ_STAT_FULL_HIT] s t))
  ∧ (s.dp.training = true → completes (.dpTrainResult false) s (fun t =>
    t = { s with regs := t.regs, hits := t.hits, evs := t.evs, flt := t.flt, dp := { s.dp with training := false } } ∧ fget DP_STAT_LINK_LOST 0 t = 1
    ∧ reported 0x120 0 0 s t ∧ onlyRegs [DP_STAT_LINK_LOST, EVC_ST_ARR, EVC_ST_SAT, EVQ_STAT_FULL_HIT] s t))
  ∧ (fbit DP_STAT_TRAINED 0 s = false → ignored .dpLinkLoss s)
  ∧ (fbit DP_STAT_TRAINED 0 s = true → completes .dpLinkLoss s (fun t =>
    t = { s with regs := t.regs, hits := t.hits, evs := t.evs, flt := t.flt } ∧ fget DP_STAT_LINK_LOST 0 t = 1 ∧ fget DP_STAT_TRAINED 0 t = 0
    ∧ reported 0x120 0 0 s t ∧ onlyRegs [DP_STAT_TRAINED, DP_STAT_LINK_LOST, EVC_ST_ARR, EVC_ST_SAT, EVQ_STAT_FULL_HIT] s t))
  ∧ (∀ b c : Bool, c = (b && pinCarries 240 0x10 s) → fget DP_STAT_HPD 0 s = c.toNat → ignored (.dpHpdChange b) s)
  ∧ (∀ b c : Bool, c = (b && pinCarries 240 0x10 s) → fget DP_STAT_HPD 0 s ≠ c.toNat → completes (.dpHpdChange b) s (fun t => t = { s with regs := t.regs, hits := t.hits, evs := t.evs }
    ∧ fget DP_STAT_HPD 0 t = c.toNat ∧ onlyRegs [DP_STAT_HPD, EVC_ST_ARR, EVC_ST_SAT, EVQ_STAT_FULL_HIT] s t
    ∧ (fbit EVC_CFG_EN 0x18B s = true → fget PWR_STAT_STATE 0 s < 3 → fget EVC_ST_ARR 0x18B s = 0 → fget EVC_ST_ARR 0x18B t = 1)))
  ∧ (fget DP_AUX_LEN 0 s = 0 → completes .auxGo s (fun t => t = { s with regs := t.regs, hits := t.hits }
    ∧ onlyFields [(DP_STAT_AUX_DONE, 0)] s t ∧ fget DP_STAT_AUX_DONE 0 t = 1))
  ∧ (fget DP_AUX_LEN 0 s ≠ 0 → exec .auxGo s = .next { s with dp := { s.dp with aux := true } })
  ∧ (∀ b d, s.dp.aux = false → ignored (.auxDone b d) s)
  ∧ (∀ d, s.dp.aux = true → completes (.auxDone false d) s (fun t => t = { s with regs := t.regs, hits := t.hits, dp := { s.dp with aux := false } }
    ∧ onlyFields [(DP_STAT_AUX_DONE, 0), (DP_STAT_AUX_ERR, 0)] s t ∧ fget DP_STAT_AUX_DONE 0 t = 1 ∧ fget DP_STAT_AUX_ERR 0 t = 1))
  ∧ (∀ d : BitVec 128, s.dp.aux = true → fget DP_AUX_CMD 0 s % 2 = 1 → completes (.auxDone true d) s (fun t =>
    t = { s with regs := t.regs, hits := t.hits, dp := { s.dp with aux := false } } ∧ fget DP_STAT_AUX_DONE 0 t = 1
    ∧ (∀ i < 16, fget DP_AUXDATA_DATA (i / 4) t / 2 ^ (8 * (i % 4)) % 256
        = (if i < fget DP_AUX_LEN 0 s then d.toNat / 2 ^ (8 * i) % 256 else fget DP_AUXDATA_DATA (i / 4) s / 2 ^ (8 * (i % 4)) % 256))
    ∧ onlyRegs [DP_STAT_AUX_DONE, DP_AUXDATA_DATA] s t))
  ∧ (∀ d, s.dp.aux = true → fget DP_AUX_CMD 0 s % 2 = 0 → completes (.auxDone true d) s (fun t =>
    t = { s with regs := t.regs, hits := t.hits, dp := { s.dp with aux := false } } ∧ onlyFields [(DP_STAT_AUX_DONE, 0)] s t
    ∧ fget DP_STAT_AUX_DONE 0 t = 1))

/-- An operation that is not the one started does nothing. On one row of ARGB8888 pixels in sound general SRAM, FILL gives every pixel
COLOUR, COPY the source pixel, KEY the source pixel unless it matches the key under the mask, BLEND the source laid over the
destination; the row is counted, the operation is then done, and no byte outside the row changes. BE_COMPLETE ends a done
operation and clears BUSY; an error met, or one of the target after a number of rows, ends it with ERR, its code and a report, the
rows before it written. FL_CTRL.GO while BUSY is refused, for a picture of no pixels is done at once, with a failed check ends at
once with its code, otherwise sets BUSY. FLATTEN_DONE writes what is left of the picture, FL_BG where there is no bitmap, counts
its rows, clears BUSY and raises its event; an error of the target before the first row ends it with its code and no write; not
BUSY, it does nothing. (12_lantern_graphics.md R317, R318, R321, R323, R324, R325, 13_composition_scanout.md R328, R330, R334,
R335) -/
def Obligations.BlockEngineAndFlattener : Prop :=
  ∀ s : State,
  (s.be ≠ .work ∨ beOp s ≠ 0 → ignored .beCopy s) ∧ (s.be ≠ .work ∨ beOp s ≠ 1 → ignored .beFill s)
  ∧ (s.be ≠ .work ∨ beOp s ≠ 2 → ignored .beKey s) ∧ (s.be ≠ .work ∨ beOp s ≠ 3 → ignored .beBlend s)
  ∧ (s.be ≠ .done → ignored .beComplete s) ∧ (s.be = .idle ∨ s.be = .done → ∀ w r, ignored (.beErrorStop w r) s)
  ∧ (∀ w : Nat, w = fget BE_SIZE_W 0 s → ∀ a : Nat, a = fget BE_SRC_ADDR 0 s → ∀ d : Nat, d = fget BE_DST_ADDR 0 s →
    s.be = .work → fget BE_SIZE_H 0 s = 1 → beDfmt s = 3 → beSfmt s = 3 → s.poison = [] → s.soft = [] →
    0x20000000 ≤ d → d + 4 * w ≤ 0x20800000 → 0x20000000 ≤ a → a + 4 * w ≤ 0x20800000 → a % 4 = 0 → d % 4 = 0 →
    (∀ x, x < w → s.valid.contains (a + 4 * x - (a + 4 * x) % 256) = true ∧ s.valid.contains (d + 4 * x - (d + 4 * x) % 256) = true) →
    (beOp s = 0 → completes .beCopy s (fun t => t = { s with regs := t.regs, be := .done, mem := t.mem, tags := t.tags, memh := t.memh }
      ∧ onlyFields [(BE_ROWS_ROWS, 0)] s t ∧ (∀ x, x < w → mread (d + 4 * x) 4 t = mread (a + 4 * x) 4 s)
      ∧ ∀ b, (b < d ∨ d + 4 * w ≤ b) → mget b t = mget b s))
    ∧ (beOp s = 1 → completes .beFill s (fun t => t = { s with regs := t.regs, be := .done, mem := t.mem, tags := t.tags, memh := t.memh }
      ∧ onlyFields [(BE_ROWS_ROWS, 0)] s t ∧ fget BE_ROWS_ROWS 0 t = (fget BE_ROWS_ROWS 0 s + 1) % 2 ^ BE_ROWS_ROWS.w
      ∧ (∀ x, x < w → mread (d + 4 * x) 4 t = fget BE_COLOUR_COLOUR 0 s % 2 ^ 32) ∧ ∀ b, (b < d ∨ d + 4 * w ≤ b) → mget b t = mget b s))
    ∧ (beOp s = 2 → completes .beKey s (fun t => t = { s with regs := t.regs, be := .done, mem := t.mem, tags := t.tags, memh := t.memh }
      ∧ onlyFields [(BE_ROWS_ROWS, 0)] s t
      ∧ (∀ x, x < w → mread (d + 4 * x) 4 t = if mread (a + 4 * x) 4 s &&& fget BE_KMASK_MASK 0 s = fget BE_KEY_KEY 0 s &&& fget BE_KMASK_MASK 0 s
          then mread (d + 4 * x) 4 s else mread (a + 4 * x) 4 s)
      ∧ ∀ b, (b < d ∨ d + 4 * w ≤ b) → mget b t = mget b s))
    ∧ (beOp s = 3 → completes .beBlend s (fun t => t = { s with regs := t.regs, be := .done, mem := t.mem, tags := t.tags, memh := t.memh }
      ∧ onlyFields [(BE_ROWS_ROWS, 0)] s t
      ∧ (∀ x, x < w → mread (d + 4 * x) 4 t = blend (mread (a + 4 * x) 4 s) (mread (d + 4 * x) 4 s) % 2 ^ 32)
      ∧ ∀ b, (b < d ∨ d + 4 * w ≤ b) → mget b t = mget b s)))
  ∧ (∀ (wr : Bool) (r : Nat), s.be = .work → (r = 0 ∨ (beOp s = 1 ∧ fget BE_SIZE_H 0 s = 1)) → ∀ d : Nat, d = fget BE_DST_ADDR 0 s →
    ∀ w : Nat, w = fget BE_SIZE_W 0 s → beDfmt s = 3 → s.poison = [] → s.soft = [] → 0x20000000 ≤ d → d + 4 * w ≤ 0x20800000 → d % 4 = 0 →
    completes (.beErrorStop wr r) s (fun t => t.be = .idle ∧ fget BE_STAT_BUSY 0 t = 0 ∧ fget BE_STAT_ERR 0 t = 1
      ∧ fget BE_STAT_ERRCODE 0 t = (if wr then 6 else 5) ∧ reported 0x118 0 0 s t
      ∧ fget BE_ROWS_ROWS 0 t = (if r = 0 then fget BE_ROWS_ROWS 0 s else (fget BE_ROWS_ROWS 0 s + 1) % 2 ^ BE_ROWS_ROWS.w)
      ∧ onlyRegs [BE_STAT_BUSY, BE_STAT_ERR, BE_STAT_ERRCODE, BE_ROWS_ROWS, EVC_ST_ARR, EVC_ST_SAT, EVQ_STAT_FULL_HIT] s t
      ∧ (0 < r → ∀ x, x < w → mread (d + 4 * x) 4 t = fget BE_COLOUR_COLOUR 0 s % 2 ^ 32)
      ∧ ∀ b, (r = 0 ∨ b < d ∨ d + 4 * w ≤ b) → mget b t = mget b s))
  ∧ (s.be = .done → completes .beComplete s (fun t => t = { s with regs := t.regs, hits := t.hits, evs := t.evs, be := .idle }
    ∧ fget BE_STAT_BUSY 0 t = 0 ∧ onlyRegs [BE_STAT_BUSY, EVC_ST_ARR, EVC_ST_SAT, EVQ_STAT_FULL_HIT] s t))
  ∧ (∀ (k : Nat) (w : Bool) (r x : Nat), 0 < k → k < 8 → s.be = .failed k x → completes (.beErrorStop w r) s (fun t =>
    t = { s with regs := t.regs, hits := t.hits, evs := t.evs, flt := t.flt, be := .idle } ∧ reported 0x118 0 0 s t
    ∧ fget BE_STAT_BUSY 0 t = 0 ∧ fget BE_STAT_ERR 0 t = 1 ∧ fget BE_STAT_ERRCODE 0 t = k
    ∧ onlyRegs [BE_STAT_BUSY, BE_STAT_ERR, BE_STAT_ERRCODE, EVC_ST_ARR, EVC_ST_SAT, EVQ_STAT_FULL_HIT] s t))
  ∧ (fbit FL_STAT_BUSY 0 s = true → completes .flCtrlGo s (fun t => t = { s with regs := t.regs, hits := t.hits }
    ∧ onlyFields [(FL_STAT_CFG_REFUSED, 0)] s t ∧ fget FL_STAT_CFG_REFUSED 0 t = 1))
  ∧ (∀ ok : Bool, ok = (fget FL_SIZE_W 0 s == 0 || fget FL_SIZE_H 0 s == 0) → fbit FL_STAT_BUSY 0 s = false →
    (ok = true → completes .flCtrlGo s (fun t => t = { s with regs := t.regs, hits := t.hits, evs := t.evs, flx := 0 } ∧ fget FL_STAT_BUSY 0 t = 0
      ∧ fget FL_ROWS_ROWS 0 t = 0 ∧ fget FL_STAT_ERR 0 t = fget FL_STAT_ERR 0 s))
    ∧ (ok = false → flCheck s = 0 → completes .flCtrlGo s (fun t => t = { s with regs := t.regs, hits := t.hits, flx := 0 } ∧ fget FL_STAT_BUSY 0 t = 1
      ∧ fget FL_ROWS_ROWS 0 t = 0 ∧ fget FL_BADTILE_COUNT 0 t = 0 ∧ onlyFields [(FL_STAT_BUSY, 0), (FL_ROWS_ROWS, 0), (FL_BADTILE_COUNT, 0)] s t))
    ∧ (ok = false → flCheck s ≠ 0 → completes .flCtrlGo s (fun t => t = { s with regs := t.regs, hits := t.hits, evs := t.evs, flx := 0 }
      ∧ fget FL_STAT_BUSY 0 t = 0 ∧ fget FL_STAT_ERR 0 t = 1 ∧ fget FL_STAT_ERRCODE 0 t = flCheck s % 2 ^ FL_STAT_ERRCODE.w)))
  ∧ (fbit FL_STAT_BUSY 0 s = false → ∀ e, ignored (.flattenDone e) s)
  ∧ (∀ d : Nat, d = 64 * fget FL_DST_ADDR 0 s → fbit FL_STAT_BUSY 0 s = true → bmOn 0 s = false → bmOn 1 s = false → fget FL_SIZE_H 0 s = 1 →
    0x20000000 ≤ d → d + 4 * fget FL_SIZE_W 0 s ≤ 0x20800000 → s.poison = [] → s.soft = [] → fget FL_ROWS_ROWS 0 s = 0 → 0 < fget FL_SIZE_W 0 s →
    completes (.flattenDone none) s (fun t =>
      fget FL_STAT_BUSY 0 t = 0 ∧ fget FL_ROWS_ROWS 0 t = 1 ∧ t.flt = s.flt ∧ t.pos = s.pos
      ∧ (fbit EVC_CFG_EN 0x189 s = true → fget PWR_STAT_STATE 0 s < 3 → fget EVC_ST_ARR 0x189 s = 0 →
          fget EVC_ST_ARR 0x189 t = 1 ∧ (evSrc 0x189 t).payload = 0)
      ∧ onlyRegs [FL_STAT_BUSY, FL_ROWS_ROWS, EVC_ST_ARR, EVC_ST_SAT, EVQ_STAT_FULL_HIT] s t
      ∧ (∀ x, x < s.flx → mread (d + 4 * x) 4 t = mread (d + 4 * x) 4 s)
      ∧ (∀ x, s.flx ≤ x → x < fget FL_SIZE_W 0 s → mread (d + 4 * x) 4 t = 2 ^ 24 * 255 + fget FL_BG_RGB 0 s % 2 ^ 24)
      ∧ ∀ b, (b < d ∨ d + 4 * fget FL_SIZE_W 0 s ≤ b) → mget b t = mget b s))
  ∧ (fbit FL_STAT_BUSY 0 s = true → fget FL_SIZE_H 0 s ≤ fget FL_ROWS_ROWS 0 s → completes (.flattenDone none) s (fun t =>
      t = { s with regs := t.regs, hits := t.hits, evs := t.evs } ∧ fget FL_STAT_BUSY 0 t = 0 ∧ fget FL_STAT_ERR 0 t = fget FL_STAT_ERR 0 s))
  ∧ (∀ w : Bool, fbit FL_STAT_BUSY 0 s = true → completes (.flattenDone (some (w, 0))) s (fun t =>
      t = { s with regs := t.regs, hits := t.hits, evs := t.evs } ∧ fget FL_STAT_BUSY 0 t = 0 ∧ fget FL_STAT_ERR 0 t = 1
      ∧ fget FL_STAT_ERRCODE 0 t = (if w then 6 else 5) ∧ onlyRegs [FL_STAT_BUSY, FL_STAT_ERR, FL_STAT_ERRCODE, EVC_ST_ARR, EVC_ST_SAT, EVQ_STAT_FULL_HIT] s t))

/-- A strobe acts in its own dot only: it issues its event, counts the sample, shows the values of the sample that ends, and while the
block runs forms the next, whose output o is the sum of its inputs under the gains of the nodes' codes, rounded by 22 bits and
clamped to 24; while it does not run nothing is formed and the outputs are 0. A gain code c from 1 to 255 is the nearest integer
to 10^((c - 231)/40) x 2^22. A PCM read that fails ends a sounding PCM voice with ERR and a report; a fetch that AUD_RCAP allows
in sound general SRAM gives that voice the samples read and keeps at most 64; other voices ignore both. COMMIT and CLEAR of an
input wait for the next sample, in a strobe's dot for the one after. A loss of lock clears LOCKED, sets ASRC_LOST and reports
where the port was locked, and the count of good frames restarts. A peer frame on a port that does not convert, or without BCLK or
FSYNC on its pins, does nothing; one of a wrong length loses the lock, one of 256 periods counts towards 1,024, then locks, and
TDM_RATIO takes the sweep period over the frame's dots. (14_audio.md R352, R353, R357, R361, R362, R363, R368, R369, R370,
01_sweep.md R31) -/
def Obligations.AudioBlock : Prop :=
  (∀ c : Fin 256, 0 < c.val → 0 < gain c ∧ (2 * gain c - 1) ^ 40 * 10 ^ (231 - c.val) ≤ 2 ^ 920 * 10 ^ (c.val - 231)
    ∧ 2 ^ 920 * 10 ^ (c.val - 231) < (2 * gain c + 1) ^ 40 * 10 ^ (231 - c.val))
  ∧ (∀ (s : State) (d : List (BitVec 24)), strobeDue s = false → ignored (.audioSampleStrobe d) s)
  ∧ (∀ (s : State) (d : List (BitVec 24)), audioFormed s → strobeDue s = true → completes (.audioSampleStrobe d) s (fun t => t.mem = s.mem ∧ t.pos = s.pos
    ∧ t.ctx = s.ctx ∧ t.legs = s.legs ∧ t.flt = s.flt ∧ issued 4 s t ∧ strobeDue t = false
    ∧ fget AUD_SAMPLE_COUNT 0 t = (if s.aud.begun then (fget AUD_SAMPLE_COUNT 0 s + 1) % 2 ^ AUD_SAMPLE_COUNT.w else fget AUD_SAMPLE_COUNT 0 s)
    ∧ audioFormed t ∧ t.aud.begun = true ∧ t.aud.out = (if audioRuns s then s.aud.next.out else [])
    ∧ (∀ e ∈ s.aud.next.fields, e.1.id = IN_VAL_SAMPLE.id → (s.aud.next.fields.filter (fun x => x.1.id == e.1.id && x.2.1 == e.2.1)).length = 1 →
        fget IN_VAL_SAMPLE e.2.1 t = e.2.2 % 2 ^ 24)
    ∧ (audioRuns s = false → t.aud.next = AudioOut.none)
    ∧ (audioRuns s = true → ∀ o, o < 40 → sget 0 t.aud.next.out o
        = sample24 (min (max (rounded 22 ((t.aud.codes.filter (fun e => e.1 % 40 == o)).foldl (fun (n : Int) e =>
            n + (if e.1 / 40 < 96 then sampleInt (((t.aud.next.fields.find? (fun f => f.1.id == IN_VAL_SAMPLE.id && f.2.1 == e.1 / 40)).map (fun f => f.2.2)).getD 0)
              else 0) * (gain e.2 : Int)) 0)) (-2 ^ 23)) (2 ^ 23 - 1)))
    ∧ (audioRuns s = true → nodesLive s = [] → ∀ o, sget 0 t.aud.next.out o = 0)))
  ∧ (∀ (s : State) (v : Fin 32), fbit VC_CFG_EN v s = false ∨ fget VC_CFG_WAVE v s ≠ 4 →
    ignored (.pcmReadFail v) s ∧ ∀ i n, ignored (.pcmFetch v i n) s)
  ∧ (∀ (s : State) (v : Fin 32), fbit VC_CFG_EN v s = true → fget VC_CFG_WAVE v s = 4 → completes (.pcmReadFail v) s (fun t =>
    t = { s with regs := t.regs, hits := t.hits, evs := t.evs, flt := t.flt, aud := t.aud }
    ∧ t.aud = { s.aud with next := { s.aud.next with ends := s.aud.next.ends.filter (fun e => e != v.val) } } ∧ reported 0x121 0 0 s t
    ∧ fget VC_STAT_ENDED v t = 1 ∧ fget VC_STAT_ERR v t = 1
    ∧ ((voice v s).start = false → fget VC_CFG_EN v t = 0 ∧ fget VC_STAT_ACTIVE v t = 0)
    ∧ ((voice v s).start = true → fget VC_CFG_EN v t = 1 ∧ fget VC_STAT_ACTIVE v t = fget VC_STAT_ACTIVE v s)
    ∧ onlyRegs [VC_CFG_EN, VC_STAT_ACTIVE, VC_STAT_ENDED, VC_STAT_ERR, EVC_ST_ARR, EVC_ST_SAT, EVQ_STAT_FULL_HIT] s t))
  ∧ (∀ (s : State) (v : Fin 32) (i : BitVec 24) (n : Fin 65), fbit VC_CFG_EN v s = true → fget VC_CFG_WAVE v s = 4 →
    ∀ a : Nat, a = 2 * fget VC_PCM_ADDR_ADDR v s + 2 * i.toNat →
    (n.val ≠ 0 → (capCheck (slotCap AUD_RCAP_CAP 0 s) [permLD] a (2 * n) false).isSome = true →
      exec (.pcmFetch v i n) s = exec (.pcmReadFail v) s)
    ∧ (n.val = 0 ∨ ((capCheck (slotCap AUD_RCAP_CAP 0 s) [permLD] a (2 * n) false).isSome = false ∧ 0x20000000 ≤ a ∧ a + 2 * n ≤ 0x20800000) →
        s.poison = [] → s.soft = [] → (∀ k, k < 2 * n.val → s.valid.contains (a + k - (a + k) % 256) = true) →
        completes (.pcmFetch v i n) s (fun t => t = { s with aud := { s.aud with voices := t.aud.voices } }
        ∧ (voice v t).buf.length ≤ 64 ∧ (∀ k, k < n.val → (i.toNat + k, mread (a + 2 * k) 2 s) ∈ (voice v t).buf)
        ∧ (∀ e ∈ (voice v t).buf, (i.toNat ≤ e.1 ∧ e.1 < i.toNat + n ∧ e.2 = mread (a + 2 * (e.1 - i.toNat)) 2 s) ∨ e ∈ (voice v s).buf)
        ∧ voice v t = { voice v s with buf := (voice v t).buf } ∧ ∀ k, k ≠ v.val → voice k t = voice k s)))
  ∧ (∀ (s : State) (i : Fin 96), strobeDue s = false → completes (.inCtrlCommit i) s (fun t => t = { s with aud := { s.aud with commits := t.aud.commits } }
    ∧ ∀ j, j ∈ t.aud.commits ↔ j = i.val ∨ j ∈ s.aud.commits))
  ∧ (∀ (s : State) (i : Fin 96), strobeDue s = false → completes (.inCtrlClear i) s (fun t => t = { s with aud := { s.aud with clears := t.aud.clears } }
    ∧ ∀ j, j ∈ t.aud.clears ↔ j = i.val ∨ j ∈ s.aud.clears))
  ∧ (∀ (s : State) (i : Fin 96), strobeDue s = true →
    completes (.inCtrlCommit i) s (fun t => t = { s with due := t.due } ∧ scheduled 0 (.audioWrite (0x4D001050 + 0x80 * i.val) 1) s t)
    ∧ completes (.inCtrlClear i) s (fun t => t = { s with due := t.due } ∧ scheduled 0 (.audioWrite (0x4D001050 + 0x80 * i.val) 2) s t))
  ∧ (∀ (s : State) (k : Fin 2), ∀ h : AsrcH, h = sget AsrcH.init s.aud.asrc (2 + k) →
    (fbit TDM_STAT_LOCKED (2 + k) s = false → completes (.asrcLockLost k) s (fun t => t = { s with aud := { s.aud with asrc := t.aud.asrc } }
      ∧ sget AsrcH.init t.aud.asrc (2 + k) = { h with good := 0, last := none }
      ∧ ∀ j, j ≠ 2 + k.val → sget AsrcH.init t.aud.asrc j = sget AsrcH.init s.aud.asrc j))
    ∧ (fbit TDM_STAT_LOCKED (2 + k) s = true → completes (.asrcLockLost k) s (fun t =>
      t = { s with regs := t.regs, hits := t.hits, evs := t.evs, flt := t.flt, aud := { s.aud with asrc := t.aud.asrc } } ∧ reported 0x122 0 0 s t
      ∧ sget AsrcH.init t.aud.asrc (2 + k) = { h with good := 0, last := none, lost := some s.time }
      ∧ fget TDM_STAT_LOCKED (2 + k) t = 0 ∧ fget TDM_STAT_ASRC_LOST (2 + k) t = 1
      ∧ onlyRegs [TDM_STAT_LOCKED, TDM_STAT_ASRC_LOST, EVC_ST_ARR, EVC_ST_SAT, EVQ_STAT_FULL_HIT] s t))
    ∧ (agov TDM_CFG_MODE (2 + k) s ≠ 2 ∨ pinCarries (152 + 4 * k) 0x10 s = false ∨ pinCarries (153 + 4 * k) 0x10 s = false → ∀ n : Nat, ignored (.peerFrameReceive k n) s)
    ∧ (∀ n : Nat, agov TDM_CFG_MODE (2 + k) s = 2 → pinCarries (152 + 4 * k) 0x10 s = true → pinCarries (153 + 4 * k) 0x10 s = true → n ≠ 256 → completes (.peerFrameReceive k n) s (fun t =>
      t = { s with regs := t.regs, hits := t.hits, evs := t.evs, flt := t.flt, aud := { s.aud with asrc := t.aud.asrc } }
      ∧ sget AsrcH.init t.aud.asrc (2 + k)
        = { h with good := 0, last := some s.time, lost := if fbit TDM_STAT_LOCKED (2 + k) s then some s.time else h.lost }
      ∧ fget TDM_STAT_LOCKED (2 + k) t = 0
      ∧ (if fbit TDM_STAT_LOCKED (2 + k) s then fget TDM_STAT_ASRC_LOST (2 + k) t = 1 ∧ reported 0x122 0 0 s t else t.regs = s.regs ∧ t.flt = s.flt)
      ∧ onlyRegs [TDM_STAT_LOCKED, TDM_STAT_ASRC_LOST, EVC_ST_ARR, EVC_ST_SAT, EVQ_STAT_FULL_HIT] s t))
    ∧ (agov TDM_CFG_MODE (2 + k) s = 2 → pinCarries (152 + 4 * k) 0x10 s = true → pinCarries (153 + 4 * k) 0x10 s = true → completes (.peerFrameReceive k 256) s (fun t =>
      t = { s with regs := t.regs, hits := t.hits, evs := t.evs, fresh := s.fresh + 8, aud := { s.aud with asrc := t.aud.asrc } }
      ∧ sget AsrcH.init t.aud.asrc (2 + k) = { h with good := min (h.good + 1) 1024, last := some s.time, inputs := (sget AsrcH.init t.aud.asrc (2 + k)).inputs }
      ∧ (pinCarries (154 + 4 * k) 0x10 s = false → (sget AsrcH.init t.aud.asrc (2 + k)).inputs = [])
      ∧ (h.last = none → fget TDM_RATIO_RATIO (2 + k) t = fget TDM_RATIO_RATIO (2 + k) s)
      ∧ (∀ d ∈ h.last, fget TDM_RATIO_RATIO (2 + k) t = audioPeriod s * 2 ^ 24 / max 1 (s.time - d) % 2 ^ TDM_RATIO_RATIO.w)
      ∧ (h.good + 1 < 1024 → fget TDM_STAT_LOCKED (2 + k) t = fget TDM_STAT_LOCKED (2 + k) s)
      ∧ (1023 ≤ h.good → fget TDM_STAT_LOCKED (2 + k) t = 1)
      ∧ onlyRegs [TDM_STAT_LOCKED, TDM_RATIO_RATIO, EVC_ST_ARR, EVC_ST_SAT, EVQ_STAT_FULL_HIT] s t)))

/-- From every state in which the audio sample that waits to take effect names only inputs, taps, node codes, voice states and meter
values, whatever command stands at the front of the queue, and also where the queue is empty and the device runs its next dot, a
step leads to such a state again. A strobe can therefore never write a configuration, a target or a count through a waiting
sample. (14_audio.md R352, R353, R356, R364) -/
def Obligations.AudioSampleStaysFormed : Prop :=
  ∀ s t : State, audioFormed s → step s = .next t → audioFormed t

/-- Of the waiting reports those of the oldest report dot are latched. A report alone in its dot, without reactions, sets its fault
bit, adds 1 to TOTAL and writes the entry at NEXT, or merges into the newest open entry of its group; a fatal one that writes or
raises CLASS freezes the Trail with the end of the dot; while it is frozen the report is only counted in LOST, but its reactions
come: ERR, the trap, the block reset in the next dot, a chip reset 62 dots later. ERR sets the latch. A trap to an off domain or
to a core of an absent cluster is counted in TRAPLOST, one to a LOCKED core in CPU_LOST; otherwise it waits for a boundary, or is
held in the refuge. Closing an entry, FLT_ACK of one or of all, changes only the open bits, and nothing while frozen, nor a close
by lines while STICKY. UNFREEZE clears LOST and ends the freeze with its dot. Release and force act on the latch. A reaction entry
or FLT_CFG is written, or refused whole. (15_faults.md R372, R377, R379, R380, R381, R382, R384, R387, R390) -/
def Obligations.FaultCollector : Prop :=
  ∀ s : State,
  (s.flt.reports = [] → ignored .faultReportLatch s)
  ∧ (∀ r ∈ s.flt.reports.head?, (∀ x ∈ s.flt.reports.tail, r.at_ < x.at_) → reaction r.src s = 0 → fget PWR_WAKECFG_FCLASS 0 s = 0 → r.src < 512 →
    ∀ F : Fld, F = (if r.src < 0x100 then (if r.src % 64 < 32 then FLT_RG_LO_BITS else FLT_RG_HI_BITS) else FLT_PKG_BITS) →
    ∀ n : Nat, n = (if r.src < 0x100 then r.src / 64 else (r.src - 0x100) / 32) → ∀ i : Nat, i = fget FLT_TRAIL_NEXT 0 s → ∀ c : Nat, c = classOf r.src →
    (fbit FLT_STAT_FROZEN 0 s = true → completes .faultReportLatch s (fun t =>
      t = { s with regs := t.regs, hits := t.hits, flt := { s.flt with reports := s.flt.reports.tail } } ∧ fbitAt F n (r.src % 32) t = true
      ∧ fget FLT_TOTAL_COUNT 0 t = (fget FLT_TOTAL_COUNT 0 s + 1) % 2 ^ 32 ∧ fget FLT_STAT_LOST 0 t = min (fget FLT_STAT_LOST 0 s + 1) 65535
      ∧ onlyFields [(F, n), (FLT_TOTAL_COUNT, 0), (FLT_STAT_LOST, 0)] s t))
    ∧ (fbit FLT_STAT_FROZEN 0 s = false → openOf (mergeGroup r.src) s = none → completes .faultReportLatch s (fun t =>
      t = { s with regs := t.regs, hits := t.hits, due := t.due, flt := { s.flt with reports := s.flt.reports.tail, openLines := t.flt.openLines } }
      ∧ fbitAt F n (r.src % 32) t = true ∧ fget FLT_TOTAL_COUNT 0 t = (fget FLT_TOTAL_COUNT 0 s + 1) % 2 ^ 32
      ∧ trail i 0 t = r.src + 2 ^ 10 * c + 2 ^ 12 * c + 2 ^ 15 * (fbit FLT_CFG_STICKY 0 s || decide (fget FLT_CFG_MERGE_LINES 0 s ≠ 0)).toNat
      ∧ trail i 1 t = posLo r.pos % 2 ^ 32 ∧ trail i 2 t = r.pos.frame % 2 ^ 32 ∧ trail i 3 t = r.info0 % 2 ^ 32 ∧ trail i 4 t = r.info1 % 2 ^ 32
      ∧ trail i 5 t = r.src ∧ trail i 6 t = posLo r.pos % 2 ^ 32 ∧ trail i 7 t = r.pos.frame % 2 ^ 32
      ∧ fget FLT_TRAIL_NEXT 0 t = (i + 1) % 32 ∧ fget FLT_TRAIL_COUNT 0 t = min (fget FLT_TRAIL_COUNT 0 s + 1) 32
      ∧ (if running s = true ∧ c = 2 then scheduled 0 (.freeze true) s t ∧ fget FLT_STAT_FROZEN 0 t = 0 else t.due = s.due ∧ fbit FLT_STAT_FROZEN 0 t = (c == 2))
      ∧ onlyFields ((F, n) :: (FLT_TOTAL_COUNT, 0) :: (FLT_TRAIL_NEXT, 0) :: (FLT_TRAIL_COUNT, 0) :: (FLT_STAT_FROZEN, 0)
          :: (List.range 8).map (fun w => (TRAIL_W, 8 * i + w))) s t))
    ∧ (fbit FLT_STAT_FROZEN 0 s = false → ∀ k ∈ openOf (mergeGroup r.src) s, completes .faultReportLatch s (fun t =>
      t = { s with regs := t.regs, hits := t.hits, due := t.due, flt := { s.flt with reports := s.flt.reports.tail } }
      ∧ fbitAt F n (r.src % 32) t = true ∧ fget FLT_TOTAL_COUNT 0 t = (fget FLT_TOTAL_COUNT 0 s + 1) % 2 ^ 32
      ∧ bits (trail k 0 t) 9 0 = bits (trail k 0 s) 9 0 ∧ bits (trail k 0 t) 11 10 = max (bits (trail k 0 s) 11 10) c
      ∧ bits (trail k 0 t) 13 12 = bits (trail k 0 s) 13 12 ∧ (bits (trail k 0 s) 9 0 ≠ r.src → (trail k 0 t).testBit 14 = true)
      ∧ (trail k 0 t).testBit 15 = true ∧ bits (trail k 0 t) 23 16 = min (bits (trail k 0 s) 23 16 + 1) 255
      ∧ trail k 5 t = r.src ∧ trail k 6 t = posLo r.pos % 2 ^ 32 ∧ trail k 7 t = r.pos.frame % 2 ^ 32
      ∧ (if running s = true ∧ bits (trail k 0 s) 11 10 < 2 ∧ c = 2 then scheduled 0 (.freeze true) s t ∧ fget FLT_STAT_FROZEN 0 t = 0
        else t.due = s.due ∧ fbit FLT_STAT_FROZEN 0 t = (decide (bits (trail k 0 s) 11 10 < 2) && c == 2))
      ∧ onlyFields [(F, n), (FLT_TOTAL_COUNT, 0), (FLT_STAT_FROZEN, 0), (TRAIL_W, 8 * k), (TRAIL_W, 8 * k + 5), (TRAIL_W, 8 * k + 6), (TRAIL_W, 8 * k + 7)] s t)))
  ∧ (∀ r ∈ s.flt.reports.head?, (∀ x ∈ s.flt.reports.tail, r.at_ < x.at_) → fget PWR_WAKECFG_FCLASS 0 s = 0 → fbit FLT_STAT_FROZEN 0 s = true →
    ∀ e : Nat, e = reaction r.src s → e.testBit 0 = false → e.testBit 7 = false → (∀ d ∈ s.due, ∀ x, d.2 ≠ .cmd (.chipReset x)) →
    completes .faultReportLatch s (fun t => t = { s with regs := t.regs, hits := t.hits, due := t.due, flt := { s.flt with reports := s.flt.reports.tail } }
      ∧ t.due = s.due ++ (if e.testBit 6 then [(s.time + 1, Due.cmd (.errOutAssert (BitVec.ofNat 10 r.src)))] else [])
        ++ (if bits e 3 2 = 1 ∨ bits e 3 2 = 2 then
            [(s.time + 1, Due.cmd (.faultTrapDelivery (Fin.ofNat 64 (bits e 29 24)) (bits e 3 2 == 2) (BitVec.ofNat 10 r.src)))] else [])
        ++ (if e.testBit 4 then [(s.time + 1, Due.cmd (.blockReset (BitVec.ofNat 10 r.src) (BitVec.ofNat 32 r.info0)))] else [])
        ++ (if e.testBit 5 then [(s.time + 62, Due.cmd (.chipReset (BitVec.ofNat 10 r.src)))] else [])))
  ∧ (∀ b : Bool, fget FLT_STAT_FROZEN 0 (settle (.freeze b) s) = b.toNat ∧ onlyFields [(FLT_STAT_FROZEN, 0)] s (settle (.freeze b) s)
    ∧ settle (.freeze b) s = { s with regs := (settle (.freeze b) s).regs, hits := (settle (.freeze b) s).hits })
  ∧ (∀ src : BitVec 10, completes (.errOutAssert src) s (fun t => t = { s with regs := t.regs, hits := t.hits, flt := { s.flt with errAt := some s.time } }
    ∧ onlyFields [(FLT_STAT_ERR, 0)] s t ∧ fget FLT_STAT_ERR 0 t = 1))
  ∧ (∀ (i : Fin 64) (g : Bool) (src : BitVec 10), ∀ m : Nat, m = src.toNat + (if g then 2 ^ 12 else 0) →
    (coreExists i s = false → i.val < 16 ∨ 40 ≤ i.val → ignored (.faultTrapDelivery i g src) s)
    ∧ (coreExists i s = false → 16 ≤ i.val → i.val < 40 → completes (.faultTrapDelivery i g src) s (fun t => t = { s with regs := t.regs }
      ∧ onlyFields [(FLT_TRAPLOST_COUNT, 0)] s t ∧ fget FLT_TRAPLOST_COUNT 0 t = min (fget FLT_TRAPLOST_COUNT 0 s + 1) (2 ^ FLT_TRAPLOST_COUNT.w - 1)))
    ∧ (coreExists i s = true → domainOn (coreHome i s) s = false → completes (.faultTrapDelivery i g src) s (fun t => t = { s with regs := t.regs }
      ∧ onlyFields [(FLT_TRAPLOST_COUNT, 0)] s t ∧ fget FLT_TRAPLOST_COUNT 0 t = min (fget FLT_TRAPLOST_COUNT 0 s + 1) (2 ^ FLT_TRAPLOST_COUNT.w - 1)))
    ∧ (coreExists i s = true → domainOn (coreHome i s) s = true →
        (fbit EXC_STAT_LOCKED i s = true ∨ (fbit EXC_STAT_IN_REFUGE i s = true ∧ (cpu i s).held ≠ none) → completes (.faultTrapDelivery i g src) s (fun t =>
          t = { s with regs := t.regs } ∧ onlyFields [(CPU_LOST_FAULTS, i)] s t ∧ fget CPU_LOST_FAULTS i t = min (fget CPU_LOST_FAULTS i s + 1) 65535))
        ∧ (fbit EXC_STAT_LOCKED i s = false → fbit EXC_STAT_IN_REFUGE i s = true → (cpu i s).held = none → completes (.faultTrapDelivery i g src) s (fun t =>
          t = { s with regs := t.regs, hits := t.hits, cpus := t.cpus } ∧ onlyFields [(EXC_STAT_FAULT_PEND, i)] s t ∧ fget EXC_STAT_FAULT_PEND i t = 1
          ∧ (cpu i t).held = some m ∧ (cpu i t).faults = (cpu i s).faults ∧ (cpu i t).pc = (cpu i s).pc ∧ ∀ j, j ≠ i.val → cpu j t = cpu j s))
        ∧ (fbit EXC_STAT_LOCKED i s = false → fbit EXC_STAT_IN_REFUGE i s = false → completes (.faultTrapDelivery i g src) s (fun t =>
          t = { s with cpus := t.cpus } ∧ (cpu i t).faults = (cpu i s).faults ++ [m] ∧ (cpu i t).held = (cpu i s).held ∧ (cpu i t).pc = (cpu i s).pc
          ∧ ((cpu i s).state = .wait → (cpu i t).state = .run) ∧ ((cpu i s).state ≠ .wait → (cpu i t).state = (cpu i s).state)
          ∧ ∀ j, j ≠ i.val → cpu j t = cpu j s))))
  ∧ (∀ i : Fin 32, ∀ c ∈ [Instr.trailEntryClose i, Instr.fltAck i],
    (fbit FLT_STAT_FROZEN 0 s = true ∨ entryOpen i s = false → ignored c s)
    ∧ (fbit FLT_CFG_STICKY 0 s = true → ignored (.trailEntryClose i) s)
    ∧ (fbit FLT_STAT_FROZEN 0 s = false → entryOpen i s = true → (fbit FLT_CFG_STICKY 0 s = false ∨ c = .fltAck i) → completes c s (fun t => t = { s with regs := t.regs, flt := t.flt }
      ∧ t.flt = { s.flt with openLines := sdel i s.flt.openLines } ∧ onlyFields [(TRAIL_W, 8 * i)] s t ∧ trail i 0 t = (trail i 0 s - 2 ^ 15) % 2 ^ 32)))
  ∧ (fbit FLT_STAT_FROZEN 0 s = true → ignored .fltAckAll s)
  ∧ (fbit FLT_STAT_FROZEN 0 s = false → completes .fltAckAll s (fun t => t = { s with regs := t.regs, flt := { s.flt with openLines := t.flt.openLines } }
    ∧ onlyRegs [TRAIL_W] s t ∧ (∀ i w, w < 8 → w ≠ 0 → trail i w t = trail i w s)
    ∧ ∀ i, i < 32 → trail i 0 t = if entryOpen i s then (trail i 0 s - 2 ^ 15) % 2 ^ 32 else trail i 0 s))
  ∧ completes .unfreeze s (fun t => t = { s with regs := t.regs, due := t.due } ∧ onlyFields [(FLT_STAT_LOST, 0)] s t ∧ fget FLT_STAT_LOST 0 t = 0
    ∧ (fbit FLT_STAT_FROZEN 0 s = true → scheduled 0 (.freeze false) s t) ∧ (fbit FLT_STAT_FROZEN 0 s = false → t.due = s.due))
  ∧ (fbit FLT_CTRL_ERR_FORCE 0 s = true ∨ s.flt.errAt = some s.time → ignored .errRelease s)
  ∧ (fbit FLT_CTRL_ERR_FORCE 0 s = false → s.flt.errAt ≠ some s.time → completes .errRelease s (fun t => t = { s with regs := t.regs }
    ∧ onlyFields [(FLT_STAT_ERR, 0)] s t ∧ fget FLT_STAT_ERR 0 t = 0))
  ∧ (∀ on : Bool, completes (.errForce on) s (fun t => t = { s with regs := t.regs, hits := t.hits } ∧ onlyFields [(FLT_CTRL_ERR_FORCE, 0), (FLT_STAT_ERR, 0)] s t
    ∧ fget FLT_CTRL_ERR_FORCE 0 t = on.toNat ∧ fget FLT_STAT_ERR 0 t = if on then 1 else fget FLT_STAT_ERR 0 s))
  ∧ (∀ (k : Fin 512) (v : Word), ∀ bad : Bool, bad = (bits v.toNat 3 2 == 3 || (bits v.toNat 3 2 != 0 && !coreOfMap (bits v.toNat 29 24))
        || (v.getLsbD 4 && !blockResets k) || (v.getLsbD 7 && !substitutes k)
        || (k.val == 0x100 && (v.getLsbD 0 || bits v.toNat 3 2 != 0 || v.getLsbD 4 || v.getLsbD 7)) || v.getLsbD 31 || v.getLsbD 30
        || bits v.toNat 15 8 != 0 || v.getLsbD 1 || (fbit FLT_CFG_LOCK 0 s && reaction k s != v.toNat)) →
    (bad = true → completes (.fltRctWrite k v) s (fun t => t = { s with regs := t.regs, hits := t.hits }
      ∧ onlyFields [(FLT_STAT_CFG_REFUSED, 0)] s t ∧ fget FLT_STAT_CFG_REFUSED 0 t = 1))
    ∧ (bad = false → completes (.fltRctWrite k v) s (fun t => t = { s with rct := t.rct } ∧ reaction k t = v.toNat
      ∧ ∀ j, j ≠ k.val → reaction j t = reaction j s)))
  ∧ (∀ v : Word, fbit FLT_CFG_LOCK 0 s = false → completes (.fltCfgWrite v) s (fun t => t = { s with regs := t.regs }
    ∧ onlyFields [(FLT_CFG_LOCK, 0), (FLT_CFG_STICKY, 0), (FLT_CFG_MERGE_LINES, 0)] s t ∧ fget FLT_CFG_LOCK 0 t = v.toNat / 2 ^ 31
    ∧ fget FLT_CFG_STICKY 0 t = v.toNat / 2 ^ 16 % 2 ∧ fget FLT_CFG_MERGE_LINES 0 t = v.toNat % 2 ^ 16))
  ∧ (∀ v : Word, fbit FLT_CFG_LOCK 0 s = true → ∀ same : Bool,
    same = (v.toNat / 2 ^ 16 % 2 == fget FLT_CFG_STICKY 0 s && v.toNat % 2 ^ 16 == fget FLT_CFG_MERGE_LINES 0 s) →
    (same = true → ignored (.fltCfgWrite v) s)
    ∧ (same = false → completes (.fltCfgWrite v) s (fun t => t = { s with regs := t.regs, hits := t.hits }
      ∧ onlyFields [(FLT_STAT_CFG_REFUSED, 0)] s t ∧ fget FLT_STAT_CFG_REFUSED 0 t = 1)))

/-- A block reset by CORE_LOCK starts the core again and clears its LOCKED, IN_REFUGE and CPU_LOCK and CPU_LOST registers; by DMA_ERR
it clears ERR, ERRCODE, CH_DONE, CH_CUR and CH_ERRADDR of the channel; by EVC_QERR it sets the queue's SIZE to 0 (dropping its
records under way: the model's choice, log 81); by DP_LINK it trains the output; by LNK_PORT or LNK_WIRE the port's lanes drop; by
AUD_ASRC the reporting converters start to lock again (which ports: the model's choice, log 87); by SEU_CRC, SEU_BUSY or SEU_TMO
the unit's frame ends and its timeout runs anew; any other source resets nothing. A chip reset puts every register at its reset
value but the fault words, the Trail and the counts, clears memory but the store, and records its source. (15_faults.md R385,
R386, 10_events.md R265, 11_memory_dma.md R296, 13_composition_scanout.md R346, 19_startup_test.md R479) -/
def Obligations.ResetsByTheCollector : Prop :=
  ∀ s : State,
  (∀ i : Word, completes (.blockReset 0x122 i) s (fun t => t = { s with regs := t.regs, hits := t.hits, evs := t.evs, aud := { s.aud with asrc := t.aud.asrc } }
    ∧ onlyRegs [TDM_STAT_LOCKED, EVC_ST_ARR, EVC_ST_SAT, EVQ_STAT_FULL_HIT] s t
    ∧ (∀ p, p ∈ asrcReporters s → fget TDM_STAT_LOCKED p t = 0
        ∧ sget AsrcH.init t.aud.asrc p = { AsrcH.init with lost := (sget AsrcH.init s.aud.asrc p).lost })
    ∧ ∀ p, p ∉ asrcReporters s → fget TDM_STAT_LOCKED p t = fget TDM_STAT_LOCKED p s ∧ sget AsrcH.init t.aud.asrc p = sget AsrcH.init s.aud.asrc p))
  ∧ (∀ (src : BitVec 10) (i : Word), (0x100 ≤ src.toNat ∧ src.toNat < 0x104) ∨ (0x105 ≤ src.toNat ∧ src.toNat < 0x112)
      ∨ (0x114 ≤ src.toNat ∧ src.toNat < 0x120) ∨ src.toNat = 0x121 ∨ (0x123 ≤ src.toNat ∧ src.toNat < 0x140) ∨ 0x1C0 ≤ src.toNat
      ∨ (src.toNat < 0x100 ∧ src.toNat % 64 < 55) → ignored (.blockReset src i) s)
  ∧ (∀ (k : Fin 64) (src : BitVec 10), src = BitVec.ofNat 10 (0x180 + k) → ∀ i : Word, coreExists k s = false → ignored (.blockReset src i) s)
  ∧ (∀ (k : Fin 64) (src : BitVec 10), src = BitVec.ofNat 10 (0x180 + k) → ∀ i : Word, coreExists k s = true → completes (.blockReset src i) s (fun t =>
    t = { s with regs := t.regs, cpus := t.cpus }
    ∧ (∀ F ∈ [CPU_LOCK0_CAUSE, CPU_LOCK0_DETAIL, CPU_LOCK1_PC, CPU_LOCK2_ADDR, CPU_LOST_FAULTS, CPU_LOST_DISP, EXC_STAT_LOCKED, EXC_STAT_IN_REFUGE,
        EXC_STAT_FAULT_PEND, EXC_CTRL_IE, EXC_CTRL_PRECISE], fget F k t = 0)
    ∧ onlyFields ([CPU_LOCK0_CAUSE, CPU_LOCK0_DETAIL, CPU_LOCK1_PC, CPU_LOCK2_ADDR, CPU_LOST_FAULTS, CPU_LOST_DISP, EXC_STAT_LOCKED, EXC_STAT_IN_REFUGE,
        EXC_STAT_FAULT_PEND, EXC_CTRL_IE, EXC_CTRL_PRECISE].map (fun F => (F, k.val))) s t
    ∧ (cpu k t).pc = fget BOOT_SPC_PC k s ∧ (cpu k t).state ≠ .off ∧ (cpu k t).faults = [] ∧ (cpu k t).held = none ∧ (cpu k t).g = []
    ∧ (∀ x, x < 16 → sget Cap.none (cpu k t).c x = slotCap CAP_SEED_CAP (16 * k + x) s) ∧ ∀ j, j ≠ k.val → cpu j t = cpu j s))
  ∧ (∀ (k : Fin 64) (src : BitVec 10), src = BitVec.ofNat 10 (0x140 + k) → ∀ i : Word, completes (.blockReset src i) s (fun t => t = { s with regs := t.regs }
    ∧ (∀ F ∈ [CH_STAT_ERR, CH_STAT_ERRCODE, CH_DONE_BYTES, CH_CUR_ADDR, CH_ERRADDR_ADDR], fget F k t = 0)
    ∧ onlyFields [(CH_STAT_ERR, k), (CH_STAT_ERRCODE, k), (CH_DONE_BYTES, k), (CH_CUR_ADDR, k), (CH_ERRADDR_ADDR, k)] s t))
  ∧ (∀ i : Word, ∀ q : Nat, q = i.toNat % 8 → completes (.blockReset 0x104 i) s (fun t =>
    t = { s with regs := t.regs, hits := t.hits, evs := t.evs, recs := s.recs.filter (fun r => r.queue != q), due := s.due.filter (fun e => e.2 != .tail q) }
    ∧ fget EVQ_SIZE_SIZE q t = 0 ∧ fget EVQ_STAT_ERR q t = fget EVQ_STAT_ERR q s ∧ onlyRegs [EVQ_SIZE_SIZE, EVQ_STAT_FULL_HIT] s t))
  ∧ (∀ src ∈ [(0x112 : BitVec 10), 0x113], ∀ i : Word, ∀ p : Nat, p = i.toNat % 4 → completes (.blockReset src i) s (fun t =>
    t = { s with regs := t.regs, hits := t.hits, ports := t.ports, flt := t.flt } ∧ (∀ l, l < 3 → fbitAt LNK_PSTAT_LANE_OK p l t = false)
    ∧ (2 ≤ portState p s → portState p t = 1) ∧ (portState p s < 2 → portState p t = portState p s)
    ∧ onlyFields [(LNK_PSTAT_LANE_OK, p), (LNK_PSTAT_STATE, p), (LNK_PSTAT_CAND, p)] s t ∧ ∀ j, j ≠ p → port j t = port j s))
  ∧ (∀ i : Word, exec (.blockReset 0x120 i) s = exec .train s ∧ completes .train s (fun t => t.dp.training = true ∧ fget DP_STAT_TRAINED 0 t = 0))
  ∧ (∀ (n : Fin 4) (u : Fin 24), ∀ b ∈ [55, 56, 57], ∀ src : BitVec 10, src = BitVec.ofNat 10 (64 * n + b) → ∀ i : Word, i = BitVec.ofNat 32 u →
    completes (.blockReset src i) s (fun t => t = { s with seu := t.seu, due := t.due } ∧ seu u t = { SeuH.init with timeout := true, ma := .high }
      ∧ t.due = s.due.filter (fun d => d.2 != .cmd (.seuDeadline u) && d.2 != .cmd (.seuTimeoutEnd u))
          ++ [(s.time + fget SEU_TIMING_TIMEOUT u s, .cmd (.seuTimeoutEnd u))] ∧ ∀ j, j ≠ u.val → seu j t = seu j s))
  ∧ (∀ (src : BitVec 10), ∀ kept : List Fld, kept = [FLT_RG_LO_BITS, FLT_RG_HI_BITS, FLT_PKG_BITS, TRAIL_W, FLT_TRAIL_COUNT, FLT_TRAIL_NEXT,
      FLT_STAT_FROZEN, FLT_STAT_LOST, FLT_TOTAL_COUNT, FLT_STAT_ERR] → completes (.chipReset src) s (fun t =>
    t = { resetDevice s with regs := t.regs, hits := t.hits, flt := { (resetDevice s).flt with openLines := s.flt.openLines } }
    ∧ (∀ F ∈ kept, ∀ u, fget F u t = fget F u s) ∧ fget FLT_LASTRST_SOURCE 0 t = src.toNat % 2 ^ FLT_LASTRST_SOURCE.w ∧ fget FLT_LASTRST_VALID 0 t = 1
    ∧ (∀ F : Fld, F.id ∉ kept.map Fld.id → F.id ≠ FLT_LASTRST_SOURCE.id → F.id ≠ FLT_LASTRST_VALID.id → ∀ u, fget F u t = fget F u State.reset)
    ∧ (∀ a, mget a t = if inStore a then mget a s else 0) ∧ t.pos = ⟨0, 0, 0⟩ ∧ t.pending = s.pending ∧ t.cpus = State.reset.cpus))

/-- The first queued word not held back is programmed with good check bits, by a dot that takes it, 28 dots after the one before at
the latest; a word that waited for room takes its place. CFS_LOCK only gains bits. EN starts discovery; its end records the
geometry and sets READY or NOVOL, or NODEV with a report. READ and WRITE move each sector between NAND and buffer, a READ all but
the lost sectors, of which DONE gives the first, a WRITE to the reserve as many as it holds; out of range, without authority, on a
sealed volume, or of count 0 they end with the status of R399; TRIM makes sectors zero, FLUSH changes no data, FORMAT makes a new
volume or ends with NOSPACE. Completion passes the record to NF_DONE, a read of NF_DONE1 takes it. A codeword is counted,
reported, its block queued for refresh. A refresh and a wear move erase one block and take another. A failed block is replaced
from the Canteen, or the volume is sealed. A command that is not in hand does nothing. (16_storage.md R392, R393, R396, R397,
R398, R399, R400, R401, R402, R403, R404, R405) -/
def Obligations.StorageManagers : Prop :=
  ∀ s : State,
  (s.cfs.find? (fun e => !storeHeld e.1 s) = none → ignored .cfsWordProgrammed s)
  ∧ (∀ e ∈ s.cfs.find? (fun e => !storeHeld e.1 s), completes .cfsWordProgrammed s (fun t =>
    t = { s with regs := t.regs, mem := t.mem, cfs := t.cfs, cfsWait := t.cfsWait, cfsAt := s.time, poison := s.poison.filter (fun w => w ≠ e.1), soft := s.soft.filter (fun w => w ≠ e.1) }
    ∧ onlyFields [(CFS_STAT_QDEPTH, 0)] s t ∧ fget CFS_STAT_QDEPTH 0 t = t.cfs.length % 32 ∧ mread (8 * e.1) 8 t = e.2 % 2 ^ 64
    ∧ (s.cfsWait = [] → t.cfs = s.cfs.erase e ∧ t.cfsWait = [])
    ∧ (∀ x ∈ s.cfsWait.head?, s.cfs.length = 16 → t.cfsWait = s.cfsWait.tail
        ∧ t.cfs = s.cfs.erase e ++ [(x.1, mergeWord x.2.1 x.2.2.1 x.2.2.2 x.1 { t with cfs := s.cfs.erase e })])
    ∧ ∀ a, (a < 8 * e.1 ∨ 8 * e.1 + 8 ≤ a) → mget a t = mget a s))
  ∧ (s.cfs = [] ∨ (Config.storeMoves s.time = false ∧ s.time < s.cfsAt + 28) → storeTick s = s)
  ∧ (s.cfs ≠ [] → Config.storeMoves s.time = true ∨ s.cfsAt + 28 ≤ s.time → exec .cfsWordProgrammed s = .next (storeTick s))
  ∧ (∀ v : Word, completes (.cfsLockWrite v) s (fun t => t = { s with regs := t.regs }
    ∧ onlyFields [(CFS_LOCK_GENERAL, 0), (CFS_LOCK_SIGS, 0), (CFS_LOCK_BOOT, 0), (CFS_LOCK_SLOT, 0)] s t
    ∧ (∀ i, i < 10 → fbitAt CFS_LOCK_GENERAL 0 i t = (fbitAt CFS_LOCK_GENERAL 0 i s || v.getLsbD (22 + i)))
    ∧ fbitAt CFS_LOCK_SIGS 0 0 t = (fbitAt CFS_LOCK_SIGS 0 0 s || v.getLsbD 5) ∧ fbitAt CFS_LOCK_BOOT 0 0 t = (fbitAt CFS_LOCK_BOOT 0 0 s || v.getLsbD 4)
    ∧ ∀ i, i < 4 → fbitAt CFS_LOCK_SLOT 0 i t = (fbitAt CFS_LOCK_SLOT 0 i s || v.getLsbD i)))
  ∧ (∀ on : Bool, ∀ was : Bool, was = fbit NF_CTRL_EN 0 s → completes (.nfCtrlEn on) s (fun t =>
    t = { s with regs := t.regs, nand := { s.nand with starting := if on = was then s.nand.starting else on } } ∧ fget NF_CTRL_EN 0 t = on.toNat
    ∧ (on ≠ was → fget NF_STAT_READY 0 t = 0 ∧ fget NF_STAT_NOVOL 0 t = 0) ∧ (on = true → was = false → fget NF_STAT_NODEV 0 t = 0)
    ∧ (on = was → onlyFields [(NF_CTRL_EN, 0)] s t) ∧ onlyFields [(NF_CTRL_EN, 0), (NF_STAT_READY, 0), (NF_STAT_NOVOL, 0), (NF_STAT_NODEV, 0)] s t))
  ∧ (∀ (ts : List NandTarget) (m : BitVec 12), s.nand.starting = false → ignored (.nandInitDone ts m) s)
  ∧ (∀ (ts : List NandTarget) (m : BitVec 12), s.nand.starting = true →
    (ts = [] ∨ 8 < ts.length ∨ (∃ a ∈ ts, ∃ b ∈ ts, sameTarget a b = false) → completes (.nandInitDone ts m) s (fun t =>
      t = { s with regs := t.regs, hits := t.hits, flt := t.flt, nand := { s.nand with starting := false } } ∧ reported 0x1C7 0 0 s t
      ∧ onlyFields [(NF_STAT_NODEV, 0)] s t ∧ fget NF_STAT_NODEV 0 t = 1))
    ∧ (∀ a ∈ ts.head?, ts.length ≤ 8 → (∀ b ∈ ts, sameTarget a b = true) → completes (.nandInitDone ts m) s (fun t =>
      t = { s with regs := t.regs, hits := t.hits, nand := { s.nand with starting := false, targets := ts.length, spb := a.ppb.toNat * 2 ^ a.page.val / 2 } }
      ∧ fget NF_GEOM_TARGETS 0 t = ts.length ∧ fget NF_GEOM_PAGE 0 t = a.page ∧ fget NF_GEOM_PPB 0 t = a.ppb.toNat ∧ fget NF_GEOM_TMODE 0 t = m.toNat
      ∧ (s.nand.formatted = false → fget NF_STAT_NOVOL 0 t = 1
          ∧ onlyRegs [NF_GEOM_TARGETS, NF_GEOM_PAGE, NF_GEOM_PPB, NF_GEOM_TMODE, NF_STAT_NOVOL] s t)
      ∧ (s.nand.formatted = true → fget NF_STAT_READY 0 t = 1 ∧ fget NF_SECTORS_COUNT 0 t = s.nand.sectors % 2 ^ 32
          ∧ fget NF_CANTEEN_LEFT 0 t = s.nand.left % 2 ^ 16 ∧ fget NF_CANTEEN_RESERVE 0 t = s.nand.reserve % 8 ∧ fget NF_BAD_COUNT 0 t = s.nand.bad % 2 ^ 32
          ∧ fget NF_STAT_SEALED 0 t = s.nand.sealed.toNat ∧ fget NF_STAT_LOW 0 t = s.nand.low.toNat
          ∧ onlyRegs [NF_GEOM_TARGETS, NF_GEOM_PAGE, NF_GEOM_PPB, NF_GEOM_TMODE, NF_STAT_READY, NF_SECTORS_COUNT, NF_CANTEEN_LEFT, NF_CANTEEN_RESERVE,
              NF_BAD_COUNT, NF_STAT_SEALED, NF_STAT_LOW, NF_WEAR_MAX, NF_WEAR_MIN] s t))))
  ∧ ((∀ l, nandHand 0 s = none → ignored (.nandRead l) s) ∧ (∀ l, nandHand 1 s = none → ignored (.nandWrite l) s)
    ∧ (nandHand 2 s = none → ignored .nandTrim s) ∧ (nandHand 3 s = none → ignored .nandFlush s) ∧ ∀ g, nandHand 4 s = none → ignored (.nandFormat g) s)
  ∧ (∀ c ∈ nandHand 0 s, ∀ l : List NandCodeword, ∀ st : Nat,
    st = (if c.count = 0 then 0 else if s.nand.sectors < c.lba + c.count then 3
      else if (capCheck (slotCap NF_CAP_CAP 0 s) [permST] c.addr (4096 * c.count) true).isSome then 2 else 9) →
    (st ≠ 9 → completes (.nandRead l) s (fun t => t = { s with nand := { s.nand with hand := .ended st 0 } }))
    ∧ (∀ lost : List Nat, lost = (l.filter (fun x => decide (x.sector.val < c.count) && !x.good)).map (fun x => x.sector.val) →
      st = 9 → 0x20000000 ≤ c.addr → c.addr + 4096 * c.count ≤ 0x20800000 → s.poison = [] → s.soft = [] →
      completes (.nandRead l) s (fun t => t.nand = { s.nand with refresh := t.nand.refresh, hand := if lost = [] then .ended 0 c.count else .ended 4 (lost.min?.getD 0) }
        ∧ onlyFields [(NF_RETRYCNT_COUNT, 0), (NF_UECNT_COUNT, 0), (NF_CORR_COUNT, 0)] s t
        ∧ (fget NF_UECNT_COUNT 0 s < 2 ^ 32 → fget NF_UECNT_COUNT 0 t = min (fget NF_UECNT_COUNT 0 s + lost.length) (2 ^ 32 - 1))
        ∧ (l = [] → t.regs = s.regs ∧ t.flt = s.flt ∧ t.nand.refresh = s.nand.refresh)
        ∧ (∀ (i : Nat) (b : Fin 4096), i < c.count → i ∉ lost → (mget (c.addr + 4096 * i + b) t).toNat = sget 0 s.nand.data (c.lba + i) / 2 ^ (8 * b.val) % 256)
        ∧ (∀ (i : Nat) (b : Fin 4096), i ∈ lost → mget (c.addr + 4096 * i + b) t = mget (c.addr + 4096 * i + b) s)
        ∧ ∀ a, (a < c.addr ∨ c.addr + 4096 * c.count ≤ a) → mget a t = mget a s)))
  ∧ (∀ c ∈ nandHand 1 s, ∀ l : List (Option Nat), ∀ st : Nat,
    st = (if c.count = 0 then 0 else if sealedBefore s then 1 else if s.nand.sectors < c.lba + c.count then 3
      else if (capCheck (slotCap NF_CAP_CAP 0 s) [permLD] c.addr (4096 * c.count) false).isSome then 2 else 9) →
    (st ≠ 9 → completes (.nandWrite l) s (fun t => t = { s with nand := { s.nand with hand := .ended st 0 } }))
    ∧ (∀ n : Nat, n = (match s.nand.hand with
        | .limited m => min m c.count
        | _ => c.count) → st = 9 → 0x20000000 ≤ c.addr → c.addr + 4096 * c.count ≤ 0x20800000 → s.poison = [] → s.soft = [] →
      (∀ a, a < 4096 * c.count → s.valid.contains (c.addr + a - (c.addr + a) % 256) = true) → completes (.nandWrite l) s (fun t =>
        t = { s with regs := t.regs, nand := { s.nand with hand := .ended (if n < c.count then 7 else 0) n, data := t.nand.data, used := t.nand.used, wear := t.nand.wear } }
        ∧ onlyFields [(NF_WEAR_MAX, 0), (NF_WEAR_MIN, 0)] s t
        ∧ (∀ i, i < n → sget 0 t.nand.data (c.lba + i) = mread (c.addr + 4096 * i) 4096 s)
        ∧ ∀ j, (j < c.lba ∨ c.lba + n ≤ j) → sget 0 t.nand.data j = sget 0 s.nand.data j)))
  ∧ (∀ c ∈ nandHand 2 s, ∀ st : Nat, st = (if c.count = 0 then 0 else if sealedBefore s then 1 else if s.nand.sectors < c.lba + c.count then 3 else 0) →
    completes .nandTrim s (fun t => t = { s with nand := { s.nand with hand := .ended st (if st = 0 then c.count else 0), data := t.nand.data } }
      ∧ (st = 0 → ∀ i, i < c.count → sget 0 t.nand.data (c.lba + i) = 0)
      ∧ ∀ j, (st ≠ 0 ∨ j < c.lba ∨ c.lba + c.count ≤ j) → sget 0 t.nand.data j = sget 0 s.nand.data j))
  ∧ (nandHand 3 s ≠ none → completes .nandFlush s (fun t => t = { s with nand := { s.nand with hand := .ended 0 0 } }))
  ∧ (∀ g : Nat, nandHand 4 s ≠ none → ∀ m : Nat, m = 16 * s.nand.targets + 4 + fget NF_CFG_CANTEEN 0 s →
    (g ≤ m → completes (.nandFormat g) s (fun t => t = { s with nand := { s.nand with hand := .ended 6 0 } }))
    ∧ (m < g → completes (.nandFormat g) s (fun t => t = { s with regs := t.regs, hits := t.hits, nand := { s.nand with
          hand := .ended 0 0, formatted := true, sealed := false, low := false, data := [], used := [], refresh := [], blocks := g - m + 8 * s.nand.targets, wearAll := s.nand.wearAll + 1, wear := t.nand.wear, sectors := (g - m) * s.nand.spb, left := fget NF_CFG_CANTEEN 0 s, reserve := 4, bad := 0 } }
        ∧ (∀ b, wearOf b t = wearOf b s + 1) ∧ fget NF_STAT_READY 0 t = 1 ∧ fget NF_STAT_NOVOL 0 t = 0 ∧ fget NF_STAT_SEALED 0 t = 0 ∧ fget NF_STAT_LOW 0 t = 0
        ∧ fget NF_SECTORS_COUNT 0 t = (g - m) * s.nand.spb % 2 ^ 32 ∧ fget NF_CANTEEN_LEFT 0 t = fget NF_CFG_CANTEEN 0 s % 2 ^ 16
        ∧ fget NF_CANTEEN_RESERVE 0 t = 4 ∧ fget NF_BAD_COUNT 0 t = 0
        ∧ onlyRegs [NF_STAT_READY, NF_STAT_NOVOL, NF_STAT_SEALED, NF_STAT_LOW, NF_SECTORS_COUNT, NF_CANTEEN_LEFT, NF_CANTEEN_RESERVE, NF_BAD_COUNT,
            NF_WEAR_MAX, NF_WEAR_MIN] s t)))
  ∧ ((s.nand.queue = [] ∨ ∀ st d, s.nand.hand ≠ .ended st d) → ignored .nandCommandComplete s)
  ∧ (∀ c ∈ s.nand.queue.head?, ∀ st d, s.nand.hand = .ended st d → completes .nandCommandComplete s (fun t =>
    t = { s with regs := t.regs, hits := t.hits, evs := t.evs, nand := { s.nand with queue := s.nand.queue.tail, hand := .none, done := t.nand.done } }
    ∧ t.nand.done = s.nand.done ++ [(c.tag * 2 ^ 16 + s.nand.sealed.toNat * 2 ^ 15 + st, d)]
    ∧ onlyRegs [EVC_ST_ARR, EVC_ST_SAT, EVQ_STAT_FULL_HIT] s t))
  ∧ (present NF_DONE1_WORD1 s.nand.done s = [] → completes .nfDone1Read s (fun t => t = { s with resp := ⟨0, false⟩ }))
  ∧ (∀ e ∈ (present NF_DONE1_WORD1 s.nand.done s).head?, completes .nfDone1Read s (fun t =>
    t = { s with resp := ⟨BitVec.ofNat 32 e.2, false⟩, nand := { s.nand with done := s.nand.done.tail } }))
  ∧ (∀ l, fbit NF_STAT_READY 0 s = false ∨ fget NF_PATROL_HOURS 0 s = 0 → ignored (.patrolRead l) s)
  ∧ (∀ l : List NandCodeword, fbit NF_STAT_READY 0 s = true → fget NF_PATROL_HOURS 0 s ≠ 0 → completes (.patrolRead l) s (fun t =>
    t = { s with regs := t.regs, flt := t.flt, frameRep := t.frameRep, nand := { s.nand with refresh := t.nand.refresh } }
    ∧ onlyFields [(NF_RETRYCNT_COUNT, 0), (NF_UECNT_COUNT, 0), (NF_CORR_COUNT, 0)] s t
    ∧ (fget NF_RETRYCNT_COUNT 0 s < 2 ^ 32 → fget NF_RETRYCNT_COUNT 0 t = min (fget NF_RETRYCNT_COUNT 0 s + (l.map (fun x => x.retries)).sum) (2 ^ 32 - 1))
    ∧ (fget NF_UECNT_COUNT 0 s < 2 ^ 32 → fget NF_UECNT_COUNT 0 t = min (fget NF_UECNT_COUNT 0 s + (l.filter (fun x => !x.good)).length) (2 ^ 32 - 1))
    ∧ (fget NF_CORR_COUNT 0 s < 2 ^ 32 → fget NF_CORR_COUNT 0 t = min (fget NF_CORR_COUNT 0 s + (l.filter (fun x => x.good && x.bits != 0)).length) (2 ^ 32 - 1))))
  ∧ (∀ x : NandCodeword, fbit NF_STAT_READY 0 s = true → fget NF_PATROL_HOURS 0 s ≠ 0 → completes (.patrolRead [x]) s (fun t =>
    t = { s with regs := t.regs, flt := t.flt, frameRep := t.frameRep, nand := { s.nand with refresh := t.nand.refresh } }
    ∧ onlyFields [(NF_RETRYCNT_COUNT, 0), (NF_UECNT_COUNT, 0), (NF_CORR_COUNT, 0)] s t
    ∧ fget NF_RETRYCNT_COUNT 0 t = min (fget NF_RETRYCNT_COUNT 0 s + x.retries) (2 ^ 32 - 1)
    ∧ (x.good = false → fget NF_UECNT_COUNT 0 t = min (fget NF_UECNT_COUNT 0 s + 1) (2 ^ 32 - 1) ∧ reported 0x1C3 0 0 s t ∧ t.nand = s.nand)
    ∧ (x.good = true → t.flt = s.flt ∧ fget NF_CORR_COUNT 0 t = (if x.bits = 0 then fget NF_CORR_COUNT 0 s else min (fget NF_CORR_COUNT 0 s + 1) (2 ^ 32 - 1))
        ∧ (x.bits ≠ 0 → 0x1C2 ∈ t.frameRep)
        ∧ ((x.block ∈ t.nand.refresh) ↔ (x.block ∈ s.nand.refresh ∨ fget NF_CFG2_REFRESH_BITS 0 s ≤ x.bits ∨ x.retries ≠ 0)))))
  ∧ (s.nand.refresh = [] ∨ s.nand.sealed = true ∨ fbit NF_STAT_READY 0 s = false → ignored .blockRefresh s)
  ∧ (∀ b ∈ s.nand.refresh.head?, s.nand.sealed = false → fbit NF_STAT_READY 0 s = true → completes .blockRefresh s (fun t =>
    t = { s with regs := t.regs, nand := { s.nand with refresh := s.nand.refresh.tail, used := t.nand.used, wear := t.nand.wear } }
    ∧ onlyFields [(NF_WEAR_MAX, 0), (NF_WEAR_MIN, 0)] s t ∧ wearOf b t = wearOf b s + 1 ∧ (∀ x, x ≠ b → wearOf x t = wearOf x s) ∧ b ∉ t.nand.used
    ∧ (∀ x ∈ wearPick false (freeBlocks s) s, x ≠ b → x ∈ t.nand.used) ∧ ∀ x ∈ s.nand.used, x ≠ b → x ∈ t.nand.used))
  ∧ (∀ hi ∈ wearPick true (volBlocks s) s, ∀ lo ∈ wearPick false s.nand.used s, ∀ low ∈ wearPick false (volBlocks s) s,
    (s.nand.sealed = true ∨ fbit NF_STAT_READY 0 s = false ∨ wearOf hi s ≤ wearOf low s + fget NF_CFG2_WL_DELTA 0 s → ignored .wearMove s)
    ∧ (s.nand.sealed = false → fbit NF_STAT_READY 0 s = true → wearOf low s + fget NF_CFG2_WL_DELTA 0 s < wearOf hi s → completes .wearMove s (fun t =>
      t = { s with regs := t.regs, nand := { s.nand with used := t.nand.used, wear := t.nand.wear } }
      ∧ onlyFields [(NF_WEAR_MAX, 0), (NF_WEAR_MIN, 0)] s t ∧ wearOf lo t = wearOf lo s + 1 ∧ (∀ x, x ≠ lo → wearOf x t = wearOf x s) ∧ lo ∉ t.nand.used
      ∧ (∀ x ∈ wearPick true (freeBlocks s) s, x ≠ lo → x ∈ t.nand.used) ∧ ∀ x ∈ s.nand.used, x ≠ lo → x ∈ t.nand.used)))
  ∧ (∀ (b : Nat) (bad : Fin 5), fbit NF_STAT_READY 0 s = false ∨ s.nand.sealed = true → ignored (.nandProgramFail b bad) s)
  ∧ (∀ (b : Nat) (bad : Fin 5), fbit NF_STAT_READY 0 s = true → s.nand.sealed = false → 0 < s.nand.left → ∀ low : Bool,
    low = (decide (s.nand.left - 1 ≤ fget NF_CFG_LOW_WATER 0 s) && !s.nand.low) → completes (.nandProgramFail b bad) s (fun t =>
      t = { s with regs := t.regs, hits := t.hits, evs := t.evs, flt := t.flt, nand := { s.nand with
          left := s.nand.left - 1, bad := s.nand.bad + 1, low := s.nand.low || low, wear := t.nand.wear } }
      ∧ t.flt = { s.flt with reports := s.flt.reports ++ (0x1C4 :: if low then [0x1C5] else []).flatMap (fun k => reportOf k 0 0 s) }
      ∧ wearOf b t = s.nand.wearAll ∧ (∀ x, x ≠ b → wearOf x t = wearOf x s) ∧ fget NF_CANTEEN_LEFT 0 t = (s.nand.left - 1) % 2 ^ 16
      ∧ fget NF_BAD_COUNT 0 t = (s.nand.bad + 1) % 2 ^ 32 ∧ fget NF_STAT_LOW 0 t = (s.nand.low || low).toNat
      ∧ onlyRegs [NF_SECTORS_COUNT, NF_CANTEEN_LEFT, NF_CANTEEN_RESERVE, NF_BAD_COUNT, NF_STAT_SEALED, NF_STAT_LOW, NF_WEAR_MAX, NF_WEAR_MIN,
          EVC_ST_ARR, EVC_ST_SAT, EVQ_STAT_FULL_HIT] s t))
  ∧ (∀ (b : Nat) (bad : Fin 5), fbit NF_STAT_READY 0 s = true → s.nand.sealed = false → s.nand.left = 0 → 0 < s.nand.spb → ∀ good : Nat, good = s.nand.reserve - bad → ∀ n : Nat, n = 1 + (s.nand.reserve - good) →
    completes (.nandProgramFail b bad) s (fun t => t = { s with
        regs := t.regs, hits := t.hits, evs := t.evs, flt := t.flt, nand := { s.nand with sealed := true, bad := s.nand.bad + n, reserve := t.nand.reserve, hand := t.nand.hand } }
      ∧ t.flt = { s.flt with reports := s.flt.reports ++ (List.replicate n 0x1C4 ++ [0x1C6]).flatMap (fun k => reportOf k 0 0 s) }
      ∧ t.nand.reserve = good - min good ((handSectors s + s.nand.spb - 1) / s.nand.spb)
      ∧ (∀ c ∈ s.nand.queue.head?, c.op = 1 → s.nand.hand = .none → t.nand.hand = .limited (good * s.nand.spb))
      ∧ ((∀ c ∈ s.nand.queue.head?, c.op ≠ 1) ∨ s.nand.hand ≠ .none → t.nand.hand = s.nand.hand)
      ∧ fget NF_STAT_SEALED 0 t = 1 ∧ fget NF_CANTEEN_RESERVE 0 t = t.nand.reserve % 8
      ∧ onlyRegs [NF_SECTORS_COUNT, NF_CANTEEN_LEFT, NF_CANTEEN_RESERVE, NF_BAD_COUNT, NF_STAT_SEALED, NF_STAT_LOW, NF_WEAR_MAX, NF_WEAR_MIN,
          EVC_ST_ARR, EVC_ST_SAT, EVQ_STAT_FULL_HIT] s t))
  ∧ completes .nfReadyTimeout s (fun t => t = { s with flt := t.flt } ∧ reported 0x1C7 0 0 s t)

/-- A write of Q_PROD or Q_SIZE moves only its ring, or is refused whole; one of the value held does nothing. The oldest descriptor in
hand is written back and Q_CONS passes it in the next dot, or its queue stops; a stopped queue has ERR, its code, and in hand only
what is written back. A received frame is counted away by its FCS, its length or the filter, holds transmission as a PAUSE frame,
counts as without descriptor, or its bytes go to the next descriptor's buffer with status, count, stamp (within 4 fine steps of
the exact one) and INFO. An idle port sends the first frame of its highest ready queue. A link change of the port's mode sets LINK
and SPEED. A cycle start makes the waiting commit and goes to entry 0; an entry that has run its DOTS is followed by the next. An
MDIO operation starts, or is refused while one runs, and ends with the data read. (16_storage.md R410, R411, R412, R413, R414,
R415, R416, R418) -/
def Obligations.FramesAndQueues : Prop :=
  ∀ s : State,
  (∀ (q : Fin 40) (v : Word), qExists q = false → ignored (.qProdWrite q v) s ∧ ignored (.qSizeWrite q v) s ∧ ∀ c, ignored (.queueStop q c) s)
  ∧ (∀ (q : Fin 40) (v : Word), qExists q = true → ∀ r : QRegs, r = qRegs q → ∀ n : Nat, n = fget r.size r.unit s → ∀ p : Nat, p = fget r.prod r.unit s →
    ∀ x : Nat, x = v.toNat % 2 ^ 12 → ∀ ok : Bool, ok = (decide (x < n) && decide ((x + n - p) % n ≤ (fget r.cons r.unit s + 2 * n - p - 1) % n)) →
    (x = p → ignored (.qProdWrite q v) s)
    ∧ (ok = false → x ≠ p → completes (.qProdWrite q v) s (fun t => t = { s with regs := t.regs, hits := t.hits }
      ∧ ∀ F : Fld, F = (if q.val < 32 then ETH_STAT_CFG_REFUSED else CAN_STAT_CFG_REFUSED) → onlyFields [(F, r.block)] s t ∧ fget F r.block t = 1))
    ∧ (ok = true → x ≠ p → completes (.qProdWrite q v) s (fun t => t = { s with regs := t.regs, net := { s.net with q := t.net.q } }
      ∧ onlyFields [(r.prod, r.unit), (r.busy, r.unit)] s t ∧ fget r.prod r.unit t = x ∧ (queue q t).hands = (queue q s).hands ∧ (queue q t).back = (queue q s).back
      ∧ (queue q t).head = (if fget r.cons r.unit s = p then s.pos else (queue q s).head) ∧ ∀ j, j ≠ q.val → queue j t = queue j s)))
  ∧ (∀ (q : Fin 40) (v : Word), qExists q = true → ∀ r : QRegs, r = qRegs q → ∀ n : Nat, n = fget r.size r.unit s → ∀ x : Nat, x = v.toNat % 2 ^ 13 →
    ∀ ok : Bool, ok = (x == 0 || (n == 0 && decide (2 ≤ x) && decide (x ≤ 4096) && ringPlaced (32 * fget r.base r.unit s) (2 * x))) →
    (x ≠ 0 → x = n → ignored (.qSizeWrite q v) s)
    ∧ (ok = false → x ≠ n → completes (.qSizeWrite q v) s (fun t => t = { s with regs := t.regs, hits := t.hits }
      ∧ ∀ F : Fld, F = (if q.val < 32 then ETH_STAT_CFG_REFUSED else CAN_STAT_CFG_REFUSED) → onlyFields [(F, r.block)] s t ∧ fget F r.block t = 1))
    ∧ (ok = true → (x = 0 ∨ x ≠ n) → completes (.qSizeWrite q v) s (fun t => t = { s with regs := t.regs, net := { s.net with q := t.net.q } }
      ∧ onlyFields [(r.size, r.unit), (r.prod, r.unit), (r.cons, r.unit), (r.err, r.unit), (r.busy, r.unit)] s t ∧ fget r.size r.unit t = x
      ∧ fget r.prod r.unit t = 0 ∧ fget r.cons r.unit t = 0 ∧ fget r.err r.unit t = 0 ∧ fget r.busy r.unit t = 0 ∧ queue q t = ⟨[], ⟨0, 0, 0⟩, 0⟩
      ∧ ∀ j, j ≠ q.val → queue j t = queue j s)))
  ∧ (∀ (q : Fin 40) (c : Fin 5), qExists q = true → ∀ r : QRegs, r = qRegs q → fbit r.err r.unit s = false → c ≠ 0 →
    qReady q s ≠ 0 ∨ (queue q s).back < (queue q s).hands.length → completes (.queueStop q c) s (fun t =>
    t = { s with regs := t.regs, hits := t.hits, evs := t.evs, flt := t.flt, net := { s.net with q := t.net.q } }
    ∧ onlyRegs [r.code, r.err, r.busy, EVC_ST_ARR, EVC_ST_SAT, EVQ_STAT_FULL_HIT] s t ∧ fget r.code r.unit t = c ∧ fget r.err r.unit t = 1
    ∧ queue q t = { queue q s with hands := (queue q s).hands.take (queue q s).back } ∧ (∀ j, j ≠ q.val → queue j t = queue j s)
    ∧ reported (if q.val < 32 then 0x1F0 else 0x1F6) 0 0 s t))
  ∧ (∀ (q : Fin 40) (c : Fin 5), fbit (qRegs q).err (qRegs q).unit s = true ∨ c = 0 ∨ (qReady q s = 0 ∧ (queue q s).hands.length ≤ (queue q s).back) → ignored (.queueStop q c) s)
  ∧ (∀ q : Fin 40, (queue q s).hands.length ≤ (queue q s).back → ignored (.queueDescriptorComplete q) s)
  ∧ (∀ q : Fin 40, ∀ n : Nat, n = (queue q s).back → ∀ h ∈ ((queue q s).hands.drop n).head?, ∀ r : QRegs, r = qRegs q → ∀ a : Nat,
    a = 32 * fget r.base r.unit s + 32 * ((fget r.cons r.unit s + n) % fget r.size r.unit s) + 16 →
    (capCheck (qCap q s) [permST] a 16 true).isSome = false → 0x20000000 ≤ a → a + 16 ≤ 0x20800000 → s.poison = [] → s.soft = [] →
    completes (.queueDescriptorComplete q) s (fun t => mread a 16 t = (h.words.foldr (fun w n => w % 2 ^ 32 + 2 ^ 32 * n) 0) % 2 ^ 128
      ∧ (∀ b, (b < a ∨ a + 16 ≤ b) → mget b t = mget b s) ∧ scheduled 1 (.consume q) s t
      ∧ queue q t = { queue q s with back := n + 1 } ∧ (∀ j, j ≠ q.val → queue j t = queue j s) ∧ onlyRegs [r.busy] s t ∧ t.evs = s.evs ∧ t.flt = s.flt ∧ t.pos = s.pos))
  ∧ (∀ q : Fin 40, ∀ n : Nat, n = (queue q s).back → ∀ h ∈ (queue q s).hands.head?, ∀ r : QRegs, r = qRegs q → n ≠ 0 →
    qConsume q s = { s with regs := (qConsume q s).regs, hits := (qConsume q s).hits, evs := (qConsume q s).evs, net := { s.net with q := (qConsume q s).net.q } }
    ∧ fget r.cons r.unit (qConsume q s) = (fget r.cons r.unit s + 1) % fget r.size r.unit s % 2 ^ r.cons.w
    ∧ queue q (qConsume q s) = ⟨(queue q s).hands.tail, s.pos, n - 1⟩ ∧ (∀ j, j ≠ q.val → queue j (qConsume q s) = queue j s)
    ∧ (h.event = false → onlyRegs [r.cons, r.busy] s (qConsume q s)) ∧ onlyRegs [r.cons, r.busy, EVC_ST_ARR, EVC_ST_SAT, EVQ_STAT_FULL_HIT] s (qConsume q s))
  ∧ (∀ q : Fin 40, ∀ n : Nat, n = (queue q s).back → ∀ h ∈ ((queue q s).hands.drop n).head?, ∀ r : QRegs, r = qRegs q →
    (capCheck (qCap q s) [permST] (32 * fget r.base r.unit s + 32 * ((fget r.cons r.unit s + n) % fget r.size r.unit s) + 16) 16 true).isSome = true →
    completes (.queueDescriptorComplete q) s (fun t => t.mem = s.mem ∧ fget r.err r.unit t = 1 ∧ fget r.code r.unit t = 1 ∧ (queue q t).hands = (queue q s).hands.take n
      ∧ fget r.cons r.unit t = fget r.cons r.unit s ∧ reported (if q.val < 32 then 0x1F0 else 0x1F6) 0 0 s t))
  ∧ (∀ (k : Fin 2) (f : List Byte) (fcs : Bool) (x : Fin 32), fbit ETH_CTRL_EN k s = false → ignored (.ethFrameReceive k f fcs x) s)
  ∧ (∀ (k : Fin 2) (f : List Byte) (fcs : Bool) (x : Fin 32), fbit ETH_CTRL_EN k s = true →
    ∀ pass : Bool, pass = ((addrMatch k f s).isSome || (destOf f == 2 ^ 48 - 1 && fbit ETH_CTRL_BCAST k s) || fbit ETH_CTRL_PROMISC k s) →
    ∀ pause : Bool, pause = (fbit ETH_CTRL_PAUSE k s && isPause f) → ∀ q : Nat, q = 16 * k + 8 + rxQueue k f s →
    (fcs = false → completes (.ethFrameReceive k f fcs x) s (fun t => t = { s with regs := t.regs } ∧ onlyFields [(ETH_RX_FCS_COUNT, k)] s t
      ∧ fget ETH_RX_FCS_COUNT k t = min (fget ETH_RX_FCS_COUNT k s + 1) (2 ^ 32 - 1)))
    ∧ (fcs = true → (f.length < 60 ∨ 9018 < f.length) → completes (.ethFrameReceive k f fcs x) s (fun t => t = { s with regs := t.regs }
      ∧ onlyFields [(ETH_RX_LEN_COUNT, k)] s t ∧ fget ETH_RX_LEN_COUNT k t = min (fget ETH_RX_LEN_COUNT k s + 1) (2 ^ 32 - 1)))
    ∧ (fcs = true → 60 ≤ f.length → f.length ≤ 9018 →
      (pause = true → completes (.ethFrameReceive k f fcs x) s (fun t => t = { s with net := { s.net with eth := t.net.eth } }
        ∧ (eth k t).pause = s.time + ethDots k (64 * be16 f 16) s ∧ (eth k t).busy = (eth k s).busy ∧ ∀ j, j ≠ k.val → eth j t = eth j s))
      ∧ (pause = false → pass = false → completes (.ethFrameReceive k f fcs x) s (fun t => t = { s with regs := t.regs }
        ∧ onlyFields [(ETH_RX_FILTERED_COUNT, k)] s t ∧ fget ETH_RX_FILTERED_COUNT k t = min (fget ETH_RX_FILTERED_COUNT k s + 1) (2 ^ 32 - 1)))
      ∧ (pause = false → pass = true → qReady q s = 0 → completes (.ethFrameReceive k f fcs x) s (fun t =>
        t = { s with regs := t.regs, fresh := s.fresh + 1, frameRep := nput 0x1F1 s.frameRep } ∧ onlyFields [(ETH_RX_NODESC_COUNT, k)] s t
        ∧ fget ETH_RX_NODESC_COUNT k t = min (fget ETH_RX_NODESC_COUNT k s + 1) (2 ^ 32 - 1)))
      ∧ (pause = false → pass = true → qReady q s ≠ 0 → ∀ d : Nat, d = qAddr q (queue q s).hands.length s → ∀ b : Nat, b = mread d 4 s →
        ∀ l : Nat, l = mread (d + 4) 2 s → ∀ n : Nat, n = min l f.length → (capCheck (qCap q s) [permLD] d 16 false).isSome = false →
        0x20000000 ≤ d → d + 16 ≤ 0x20800000 → s.valid.contains (d - d % 256) = true → l ≠ 0 → (capCheck (qCap q s) [permST] b n true).isSome = false →
        0x20000000 ≤ b → b + n ≤ 0x20800000 → s.poison = [] → s.soft = [] → completes (.ethFrameReceive k f fcs x) s (fun t =>
          (∀ i, i < n → mget (b + i) t = f.getD i 0) ∧ (∀ a, (a < b ∨ b + n ≤ a) → mget a t = mget a s) ∧ t.fresh = s.fresh + 1 ∧ t.flt = s.flt
          ∧ onlyRegs [ETH_RX_OK_COUNT, (qRegs q).busy] s t ∧ fget ETH_RX_OK_COUNT k t = min (fget ETH_RX_OK_COUNT k s + 1) (2 ^ 32 - 1)
          ∧ (queue q t).hands.length = (queue q s).hands.length + 1 ∧ (queue q t).hands.take (queue q s).hands.length = (queue q s).hands
          ∧ (∃ e ∈ [(-4 : Int), -3, -2, -1, 0, 1, 2, 3, 4], (queue q t).hands.getLast? = some ⟨[2 ^ 31 + (if l < f.length then 2 ^ 24 else 0) + n,
              (stampAt (x.val + e) s).1, (stampAt (x.val + e) s).2, rxInfo k f s], (mread (d + 4) 4 s).testBit 16, if l < f.length then 2 ^ 24 else 0⟩)))))
  ∧ (∀ (k : Fin 2) (x : Fin 32), fbit ETH_CTRL_EN k s = false ∨ fbit ETH_STAT_LINK k s = false ∨ s.time < (eth k s).busy
      ∨ (fbit ETH_CTRL_PAUSE k s = true ∧ s.time < (eth k s).pause)
      ∨ (∀ j, j < 8 → qReady (16 * k + j) s = 0) → ignored (.ethFrameTransmit k x) s)
  ∧ (∀ (k : Fin 2) (x : Fin 32) (j : Fin 8), fbit ETH_CTRL_EN k s = true → fbit ETH_STAT_LINK k s = true → (eth k s).busy ≤ s.time →
    (fbit ETH_CTRL_PAUSE k s = true → (eth k s).pause ≤ s.time) →
    ∀ q : Nat, q = 16 * k + j → (∀ i, i < 8 → j.val < i → qReady (16 * k + i) s = 0) → qReady q s ≠ 0 → ∀ d : Nat, d = qAddr q (queue q s).hands.length s →
    ∀ b : Nat, b = mread d 4 s → ∀ l : Nat, l = mread (d + 4) 2 s → (mread (d + 4) 4 s).testBit 17 = false → 14 ≤ l → l ≤ 9018 → gclOff k s = true →
    fbit ETH_CBS_EN (8 * k + j) s = false → (capCheck (qCap q s) [permLD] d 16 false).isSome = false → 0x20000000 ≤ d → d + 16 ≤ 0x20800000 →
    s.valid.contains (d - d % 256) = true → (capCheck (qCap q s) [permLD] b l false).isSome = false → 0x20000000 ≤ b → b + l ≤ 0x20800000 →
    (∀ a, a < l → s.valid.contains (b + a - (b + a) % 256) = true) → s.poison = [] → s.soft = [] → completes (.ethFrameTransmit k x) s (fun t =>
      t = { s with regs := t.regs, fresh := s.fresh + 1, net := { s.net with q := t.net.q, eth := t.net.eth } }
      ∧ onlyRegs [ETH_TX_OK_COUNT, (qRegs q).busy] s t ∧ fget ETH_TX_OK_COUNT k t = min (fget ETH_TX_OK_COUNT k s + 1) (2 ^ 32 - 1)
      ∧ (eth k t).sent = some (l, mread b l s) ∧ (eth k t).sending = some j.val ∧ (eth k t).busy = s.time + ethDots k (max 60 l + 24) s
      ∧ (queue q t).hands.length = (queue q s).hands.length + 1 ∧ (∀ i, i ≠ q → queue i t = queue i s)
      ∧ (∃ h ∈ (queue q t).hands.getLast?, h.words.head? = some (2 ^ 31 + l) ∧ h.event = (mread (d + 4) 4 s).testBit 16)))
  ∧ (∀ (k : Fin 2) (up : Bool) (v : Fin 4), ∀ fits : Bool, fits = (!up || ((v == 3) == fbit ETH_CTRL_MODE k s)) →
    (fbit ETH_STAT_LINK k s = up ∨ fits = false → ignored (.ethLinkChange k up v) s)
    ∧ (fbit ETH_STAT_LINK k s ≠ up → fits = true → completes (.ethLinkChange k up v) s (fun t =>
    t = { s with regs := t.regs, hits := t.hits, evs := t.evs } ∧ fget ETH_STAT_LINK k t = up.toNat ∧ fget ETH_STAT_SPEED k t = v
    ∧ onlyRegs [ETH_STAT_LINK, ETH_STAT_SPEED, EVC_ST_ARR, EVC_ST_SAT, EVQ_STAT_FULL_HIT] s t)))
  ∧ (∀ k : Fin 2, completes (.gclCommit k) s (fun t => t = { s with regs := t.regs, hits := t.hits } ∧ onlyFields [(ETH_GCL_STAT_PEND, k)] s t
    ∧ fget ETH_GCL_STAT_PEND k t = 1))
  ∧ (∀ k : Fin 2, ∀ c : Nat, c = (if fget ETH_GCL_CYCLE_LINES_E k s = 0 then max 1 (fget ETH_GCL_CYCLE_LINES k s) else fget ETH_GCL_CYCLE_LINES_E k s) →
    (gclStarts k s = true ↔ s.pos.dot = 0 ∧ s.pos.line % c = 0) ∧ (gclStarts k s = false → ignored (.gclCycleStart k) s))
  ∧ (∀ k : Fin 2, gclStarts k s = true → fbit ETH_GCL_STAT_PEND k s = false → completes (.gclCycleStart k) s (fun t => t = { s with regs := t.regs }
    ∧ onlyFields [(ETH_GCL_STAT_ENTRY, k)] s t ∧ fget ETH_GCL_STAT_ENTRY k t = 0))
  ∧ (∀ k : Fin 2, gclStarts k s = true → fbit ETH_GCL_STAT_PEND k s = true → completes (.gclCycleStart k) s (fun t => t = { s with regs := t.regs }
    ∧ onlyRegs [ETH_GCL_STAT_ENTRY, ETH_GCL_STAT_PEND, ETH_GCL_CYCLE_LINES_E, ETH_GCL_LEN_COUNT_E, ETH_GCL_GATES_E, ETH_GCL_DOTS_E] s t
    ∧ fget ETH_GCL_STAT_ENTRY k t = 0 ∧ fget ETH_GCL_STAT_PEND k t = 0 ∧ fget ETH_GCL_CYCLE_LINES_E k t = fget ETH_GCL_CYCLE_LINES k s % 2 ^ ETH_GCL_CYCLE_LINES_E.w
    ∧ fget ETH_GCL_LEN_COUNT_E k t = fget ETH_GCL_LEN_COUNT k s % 2 ^ ETH_GCL_LEN_COUNT_E.w
    ∧ (∀ e, e < 256 → fget ETH_GCL_GATES_E (256 * k + e) t = fget ETH_GCL_GATES (256 * k + e) s % 2 ^ ETH_GCL_GATES_E.w
        ∧ fget ETH_GCL_DOTS_E (256 * k + e) t = fget ETH_GCL_DOTS (256 * k + e) s % 2 ^ ETH_GCL_DOTS_E.w)
    ∧ ∀ u, (u < 256 * k.val ∨ 256 * k.val + 256 ≤ u) → fget ETH_GCL_GATES_E u t = fget ETH_GCL_GATES_E u s ∧ fget ETH_GCL_DOTS_E u t = fget ETH_GCL_DOTS_E u s))
  ∧ (∀ k : Fin 2, ∀ e : Nat, e = fget ETH_GCL_STAT_ENTRY k s → ∀ past : Bool,
    past = decide (((List.range (e + 1)).map (fun i => fget ETH_GCL_DOTS_E (256 * k + i) s)).sum
      ≤ s.pos.line % max 1 (fget ETH_GCL_CYCLE_LINES_E k s) * dotsEff s + s.pos.dot) →
    (fget ETH_GCL_LEN_COUNT_E k s ≤ e + 1 ∨ fget ETH_GCL_CYCLE_LINES_E k s = 0 ∨ past = false → ignored (.gclEntryAdvance k) s)
    ∧ (e + 1 < fget ETH_GCL_LEN_COUNT_E k s → fget ETH_GCL_CYCLE_LINES_E k s ≠ 0 → past = true → completes (.gclEntryAdvance k) s (fun t => t = { s with regs := t.regs }
    ∧ onlyFields [(ETH_GCL_STAT_ENTRY, k)] s t ∧ fget ETH_GCL_STAT_ENTRY k t = (e + 1) % 2 ^ ETH_GCL_STAT_ENTRY.w)))
  ∧ (∀ (c45 : Bool) (phy reg : BitVec 5) (data : BitVec 16), ∀ e ∈ [(Instr.mdioWrite c45 phy reg data, c45, 0, data.toNat),
      (Instr.mdioRead c45 phy reg, c45, 1, fget ETH_MDIO_DATA 0 s % 2 ^ 16), (Instr.mdioAddress phy reg data, true, 2, data.toNat)],
    (fbit ETH_MDIO_STAT_BUSY 0 s = true → completes e.1 s (fun t => t = { s with regs := t.regs, hits := t.hits } ∧ onlyFields [(ETH_STAT_CFG_REFUSED, 0)] s t
      ∧ fget ETH_STAT_CFG_REFUSED 0 t = 1))
    ∧ (fbit ETH_MDIO_STAT_BUSY 0 s = false → completes e.1 s (fun t => t = { s with regs := t.regs, hits := t.hits } ∧ fget ETH_MDIO_STAT_BUSY 0 t = 1
      ∧ fget ETH_MDIO_C45 0 t = e.2.1.toNat ∧ fget ETH_MDIO_OP 0 t = e.2.2.1 ∧ fget ETH_MDIO_PHY 0 t = phy.toNat ∧ fget ETH_MDIO_REG 0 t = reg.toNat
      ∧ fget ETH_MDIO_DATA 0 t = e.2.2.2
      ∧ onlyFields [(ETH_MDIO_STAT_BUSY, 0), (ETH_MDIO_C45, 0), (ETH_MDIO_OP, 0), (ETH_MDIO_PHY, 0), (ETH_MDIO_REG, 0), (ETH_MDIO_DATA, 0)] s t)))
  ∧ (∀ d : BitVec 16, fbit ETH_MDIO_STAT_BUSY 0 s = false → ignored (.mdioDone d) s)
  ∧ (∀ d : BitVec 16, fbit ETH_MDIO_STAT_BUSY 0 s = true → completes (.mdioDone d) s (fun t => t = { s with regs := t.regs, hits := t.hits }
    ∧ fget ETH_MDIO_STAT_BUSY 0 t = 0 ∧ fget ETH_MDIO_STAT_DONE 0 t = 1
    ∧ fget ETH_MDIO_DATA 0 t = (if fget ETH_MDIO_OP 0 s = 1 then d.toNat else fget ETH_MDIO_DATA 0 s)
    ∧ onlyFields [(ETH_MDIO_STAT_BUSY, 0), (ETH_MDIO_STAT_DONE, 0), (ETH_MDIO_DATA, 0)] s t))

/-- Inbound requests come over a link that is up, within BAR0. A poisoned or malformed inbound request is counted and reported; one
that hits no window, crosses its end or fails its check is counted in REFUSED, a read answered with Unsupported Request or
Completer Abort; an allowed one writes its bytes, or answers the bytes of memory; of length 0 it makes no access. A completion or
a timeout waits for the next outbound read. A message is sent by what the host has enabled, else nothing. A doorbell is an
arrival. Outbound accesses over a link that is up are sent to the address that their window gives. Link change, within the limits
of an enabled endpoint, and reset set the link's registers. A CAN FD frame that a filter accepts goes to the next receive
descriptor's buffer; without EN, RX pin, filter or descriptor it is lost. A controller that wins sends its next frame. Its
counters give its state; bus-off reports and is left only by recovery. (16_storage.md R410, R411, R419, R420, R421, R422, R424,
R425, R426, R432, R433) -/
def Obligations.EndpointAndCan : Prop :=
  ∀ s : State,
  (∀ r : PcieRequest, fbit PCIE_STAT_LINK_UP 0 s = false ∨ fget PCIE_BAR0_LOG2SIZE 0 s = 0 ∨ 2 ^ fget PCIE_BAR0_LOG2SIZE 0 s ≤ r.offset.toNat →
    ignored (.pcieInboundRequest r) s)
  ∧ (∀ r : PcieRequest, ∀ o : Nat, o = r.offset.toNat → fbit PCIE_STAT_LINK_UP 0 s = true → fget PCIE_BAR0_LOG2SIZE 0 s ≠ 0 → o < 2 ^ fget PCIE_BAR0_LOG2SIZE 0 s →
    (r.bad = true → completes (.pcieInboundRequest r) s (fun t => t = { s with regs := t.regs, flt := t.flt }
    ∧ onlyFields [(PCIE_POISON_COUNT, 0)] s t ∧ fget PCIE_POISON_COUNT 0 t = min (fget PCIE_POISON_COUNT 0 s + 1) (2 ^ 32 - 1) ∧ reported 0x1F4 0 0 s t))
    ∧ (r.bad = false → ∀ n : Nat, n = r.length.val →
    (pcieWindow o s = none ∨ (∃ k ∈ pcieWindow o s, 4096 * fget PIW_OFFSET_OFFSET k s + 4096 * fget PIW_SIZE_SIZE k s < o + n) →
      completes (.pcieInboundRequest r) s (fun t =>
        t = { s with regs := t.regs, hits := t.hits, evs := t.evs, frameRep := nput 0x1F3 s.frameRep, net := { s.net with pcie := t.net.pcie } }
        ∧ t.net.pcie = { s.net.pcie with answer := if r.write then s.net.pcie.answer else some .unsupported }
        ∧ onlyRegs [PCIE_REFUSED_COUNT, EVC_ST_ARR, EVC_ST_SAT, EVQ_STAT_FULL_HIT] s t
        ∧ fget PCIE_REFUSED_COUNT 0 t = min (fget PCIE_REFUSED_COUNT 0 s + 1) (2 ^ 32 - 1)))
    ∧ (∀ k ∈ pcieWindow o s, ∀ b : Nat, b = 4096 * fget PIW_OFFSET_OFFSET k s → o + n ≤ b + 4096 * fget PIW_SIZE_SIZE k s → ∀ a : Nat,
        a = 4096 * fget PIW_DEST_ADDR k s + (o - b) → ∀ ok : Bool, ok = (capCheck (slotCap PIW_CAP_CAP k s) [if r.write then permST else permLD] a n r.write).isNone →
      (n = 0 → completes (.pcieInboundRequest r) s (fun t => t = { s with net := { s.net with pcie := t.net.pcie } }
        ∧ t.net.pcie = { s.net.pcie with answer := if r.write then s.net.pcie.answer else some (.success 0) }))
      ∧ (0 < n → ok = false → completes (.pcieInboundRequest r) s (fun t =>
        t = { s with regs := t.regs, hits := t.hits, evs := t.evs, frameRep := nput 0x1F3 s.frameRep, net := { s.net with pcie := t.net.pcie } }
        ∧ t.net.pcie = { s.net.pcie with answer := if r.write then s.net.pcie.answer else some .abort }
        ∧ onlyRegs [PCIE_REFUSED_COUNT, EVC_ST_ARR, EVC_ST_SAT, EVQ_STAT_FULL_HIT] s t
        ∧ fget PCIE_REFUSED_COUNT 0 t = min (fget PCIE_REFUSED_COUNT 0 s + 1) (2 ^ 32 - 1)))
      ∧ (0 < n → ok = true → 0x20000000 ≤ a → a + n ≤ 0x20800000 → s.poison = [] → s.soft = [] →
        (r.write = true → completes (.pcieInboundRequest r) s (fun t => t.regs = s.regs ∧ t.flt = s.flt ∧ t.net = s.net ∧ t.pos = s.pos
          ∧ (∀ i, i < n → mget (a + i) t = r.data.getD i 0) ∧ ∀ x, (x < a ∨ a + n ≤ x) → mget x t = mget x s))
        ∧ (r.write = false → (∀ i, i < n → s.valid.contains (a + i - (a + i) % 256) = true) → completes (.pcieInboundRequest r) s (fun t =>
          t = { s with net := { s.net with pcie := { s.net.pcie with answer := some (.success (mread a n s)) } } }))))))
  ∧ (∀ d : Option (BitVec 64), completes (.pcieOutboundCompletion d) s (fun t => t = { s with net := { s.net with pcie := t.net.pcie } }
    ∧ t.net.pcie = { s.net.pcie with ends := s.net.pcie.ends ++ [(d.map (fun v => PcieEnd.data v.toNat)).getD .error] }))
  ∧ completes .pcieCompletionTimeout s (fun t => t = { s with net := { s.net with pcie := { s.net.pcie with ends := s.net.pcie.ends ++ [.timeout] } } })
  ∧ (∀ (a v : Nat) (n : Fin 65), 0x60000000 ≤ a → a < 0x80000000 → ∀ k : Nat, k = (a - 0x60000000) / 2 ^ 26 → ∀ x : Nat,
    x = fget POW_HI_ADDR k s * 2 ^ 32 + fget POW_LO_ADDR k s * 2 ^ 26 + (a - 0x60000000 - 2 ^ 26 * k) →
    (fbit PCIE_STAT_LINK_UP 0 s = true → pcieWrite a n v s = { s with net := { s.net with pcie := { s.net.pcie with out := some ⟨true, x, n, v % 2 ^ (8 * n.val)⟩ } } }
      ∧ (pcieRead a n s).2.net.pcie.out = some ⟨false, x, n, 0⟩ ∧ (pcieRead a n s).2.net.pcie.ends = s.net.pcie.ends.tail
      ∧ (∀ d : Nat, s.net.pcie.ends.head? = some (.data d) → (pcieRead a n s).1 = some (d % 2 ^ (8 * n.val)) ∧ (pcieRead a n s).2.regs = s.regs))
    ∧ (fbit PCIE_STAT_LINK_UP 0 s = false → (pcieRead a n s).1 = none ∧ (pcieRead a n s).2 = pcieWrite a n v s ∧ reported 0x1F4 0 0 s (pcieWrite a n v s)
      ∧ fget PCIE_OUTERR_COUNT 0 (pcieWrite a n v s) = min (fget PCIE_OUTERR_COUNT 0 s + 1) (2 ^ 32 - 1)))
  ∧ (∀ v : Fin 32, s.net.pcie.msi = 0 ∨ fbit PCIE_STAT_LINK_UP 0 s = false → ignored (.pcieMsiSend v) s)
  ∧ (∀ v : Fin 32, s.net.pcie.msi ≠ 0 → fbit PCIE_STAT_LINK_UP 0 s = true → completes (.pcieMsiSend v) s (fun t =>
    t = { s with net := { s.net with pcie := { s.net.pcie with sent := some (v.val, s.net.pcie.msi) } } }))
  ∧ (∀ (i : Fin 8) (v : Word), fbit EVC_CFG_EN (0x153 + i) s = false ∨ 3 ≤ fget PWR_STAT_STATE 0 s → ignored (.pcieDbWrite i v) s)
  ∧ (∀ (i : Fin 8) (v : Word), ∀ n : Nat, n = 0x153 + i.val → fbit EVC_CFG_EN n s = true → fget PWR_STAT_STATE 0 s < 3 →
    completes (.pcieDbWrite i v) s (fun t => t = { s with regs := t.regs, hits := t.hits, evs := t.evs }
      ∧ fget EVC_ST_ARR n t = (if fget EVC_ST_ARR n s = 255 then 255 else (fget EVC_ST_ARR n s + 1) % 256)
      ∧ (fget EVC_ST_ARR n s = 0 → (evSrc n t).payload = v.toNat) ∧ onlyRegs [EVC_ST_ARR, EVC_ST_SAT, EVQ_STAT_FULL_HIT] s t))
  ∧ (∀ (g : Fin 4) (w m : Fin 3), fbit PCIE_CTRL_EN 0 s = false ∨ fget PCIE_CTRL_MAXGEN 0 s < g.val ∨ fget PCIE_CTRL_MAXWIDTH 0 s < w.val → ignored (.pcieLinkChange true g w m) s)
  ∧ (∀ (up : Bool) (g : Fin 4) (w m : Fin 3), up = false ∨ (fbit PCIE_CTRL_EN 0 s = true ∧ g.val ≤ fget PCIE_CTRL_MAXGEN 0 s ∧ w.val ≤ fget PCIE_CTRL_MAXWIDTH 0 s) → completes (.pcieLinkChange up g w m) s (fun t =>
    t = { s with regs := t.regs, hits := t.hits, evs := t.evs, flt := t.flt, net := { s.net with pcie := t.net.pcie } }
    ∧ t.net.pcie = { s.net.pcie with msi := if up then m.val else 0, ends := [] } ∧ fbit PCIE_STAT_LINK_UP 0 t = up
    ∧ (fbit PCIE_STAT_LINK_UP 0 s = up → t.regs = s.regs)
    ∧ (fbit PCIE_STAT_LINK_UP 0 s ≠ up → fget PCIE_STAT_GEN 0 t = g.val % 2 ^ PCIE_STAT_GEN.w ∧ fget PCIE_STAT_WIDTH 0 t = w.val % 2 ^ PCIE_STAT_WIDTH.w)
    ∧ (if fbit PCIE_STAT_LINK_UP 0 s = true ∧ up = false ∧ fbit PCIE_CTRL_EN 0 s = true then reported 0x1F2 0 0 s t else t.flt = s.flt)
    ∧ onlyRegs [PCIE_STAT_LINK_UP, PCIE_STAT_GEN, PCIE_STAT_WIDTH, PCIE_STAT_PERST, EVC_ST_ARR, EVC_ST_SAT, EVQ_STAT_FULL_HIT] s t))
  ∧ (∀ p : Bool, ∀ seen : Bool, seen = (if p then pinCarries 231 0x10 s else fbit PCIE_STAT_LINK_UP 0 s) → (seen = false → ignored (.perstOrHotReset p) s)
    ∧ (seen = true → completes (.perstOrHotReset p) s (fun t =>
    t = { s with regs := t.regs, hits := t.hits, evs := t.evs, flt := t.flt, net := { s.net with pcie := PcieH.init } }
    ∧ fbit PCIE_STAT_LINK_UP 0 t = false ∧ (p = true → fget PCIE_STAT_PERST 0 t = 1)
    ∧ onlyRegs [PCIE_STAT_LINK_UP, PCIE_STAT_GEN, PCIE_STAT_WIDTH, PCIE_STAT_PERST, EVC_ST_ARR, EVC_ST_SAT, EVQ_STAT_FULL_HIT] s t)))
  ∧ (∀ (k : Fin 4) (f : CanFrame), ∀ q : Nat, q = 33 + 2 * k → ∀ hears : Bool, hears = (fbit CAN_CTRL_EN k s && fget CAN_STAT_STATE k s != 2
      && fget CAN_CTRL_MODE k s != 3 && pinCarries (209 + 2 * k) 0x10 s) → ∀ id : Nat, id = (if f.ide then f.id.toNat else f.id.toNat / 2 ^ 18 * 2 ^ 18) → ∀ hit : Option Nat,
    hit = ((List.range 32).find? (fun i => canAccepts k i id f.ide s)).or (if canOpen k s then some 31 else none) →
    (hears = false ∨ (f.fdf = true ∧ fbit CAN_CTRL_FD_EN k s = false) ∨ hit = none ∨ qReady q s = 0 → ignored (.canFrameReceive k f) s)
    ∧ (∀ i ∈ hit, hears = true → (f.fdf = true → fbit CAN_CTRL_FD_EN k s = true) → qReady q s ≠ 0 → ∀ d : Nat, d = qAddr q (queue q s).hands.length s →
      ∀ b : Nat, b = mread d 4 s → ∀ n : Nat, n = (if f.rtr then 0 else dlcLen f.fdf f.dlc) → (capCheck (qCap q s) [permLD] d 16 false).isSome = false →
      0x20000000 ≤ d → d + 16 ≤ 0x20800000 → s.valid.contains (d - d % 256) = true → 72 ≤ mread (d + 4) 2 s →
      (capCheck (qCap q s) [permST] b (8 + n) true).isSome = false → 0x20000000 ≤ b → b + 8 + n ≤ 0x20800000 → s.poison = [] → s.soft = [] →
      completes (.canFrameReceive k f) s (fun t => onlyFields [((qRegs q).busy, (qRegs q).unit)] s t ∧ t.flt = s.flt ∧ t.pos = s.pos
        ∧ mread b 4 t = id + 2 ^ 29 * f.ide.toNat + 2 ^ 30 * f.rtr.toNat + 2 ^ 31 * f.fdf.toNat
        ∧ mread (b + 4) 4 t = f.dlc + 2 ^ 4 * f.brs.toNat + 2 ^ 5 * f.esi.toNat ∧ (∀ j, j < n → mget (b + 8 + j) t = f.data.getD j 0)
        ∧ (∀ a, (a < b ∨ b + 8 + n ≤ a) → mget a t = mget a s) ∧ (∀ j, j ≠ q → queue j t = queue j s)
        ∧ (queue q t).hands = (queue q s).hands ++ [⟨[2 ^ 31 + 8 + n, posLo s.pos, s.pos.frame, i], (mread (d + 4) 4 s).testBit 16, i * 2 ^ 12⟩])))
  ∧ (∀ (k : Fin 4) (won : Bool), canSends k s = false ∨ won = false ∨ qReady (32 + 2 * k) s = 0 → ignored (.canFrameTransmit k won) s)
  ∧ (∀ k : Fin 4, ∀ q : Nat, q = 32 + 2 * k → canSends k s = true → fget CAN_CTRL_MODE k s = 0 → qReady q s = 1 → ∀ d : Nat,
    d = qAddr q (queue q s).hands.length s → ∀ b : Nat, b = mread d 4 s → ∀ l : Nat, l = mread (d + 4) 2 s → (mread (d + 4) 4 s).testBit 17 = false →
    8 ≤ l → l ≤ 72 → (capCheck (qCap q s) [permLD] d 16 false).isSome = false → 0x20000000 ≤ d → d + 16 ≤ 0x20800000 →
    s.valid.contains (d - d % 256) = true → (capCheck (qCap q s) [permLD] b l false).isSome = false → 0x20000000 ≤ b → b + l ≤ 0x20800000 →
    (∀ a, a < l → s.valid.contains (b + a - (b + a) % 256) = true) → s.poison = [] → s.soft = [] → ∀ fd : Bool, fd = (mread b 4 s).testBit 31 →
    ∀ ok : Bool, ok = (l == 8 + dlcLen fd (mread (b + 4) 4 s % 16) && !((mread b 4 s).testBit 30 && fd) && (!fd || fbit CAN_CTRL_FD_EN k s)) →
    completes (.canFrameTransmit k true) s (fun t => t = { s with regs := t.regs, net := { s.net with q := t.net.q, can := t.net.can } }
      ∧ onlyFields [((qRegs q).busy, (qRegs q).unit)] s t ∧ (∀ j, j ≠ q → queue j t = queue j s)
      ∧ (queue q t).hands = (queue q s).hands ++ [⟨if ok then [2 ^ 31 + l, posLo s.pos, s.pos.frame, 0] else [2 ^ 31 + 3 * 2 ^ 24, 0, 0, 0],
          (mread (d + 4) 4 s).testBit 16, 0⟩]
      ∧ can k t = (if ok then { can k s with sent := some (l, mread b l s) } else can k s)))
  ∧ (∀ (k : Fin 4) (tec : BitVec 9) (rec : Byte), fbit CAN_CTRL_EN k s = false → ignored (.canStateChange k tec rec) s)
  ∧ (∀ (k : Fin 4) (tec : BitVec 9) (rec : Byte), fbit CAN_CTRL_EN k s = true → ∀ n : Nat, n = (if fget CAN_STAT_STATE k s = 2 ∨ 256 ≤ tec.toNat then 2
      else if 128 ≤ tec.toNat ∨ 128 ≤ rec.toNat then 1 else 0) → completes (.canStateChange k tec rec) s (fun t =>
    t = { s with regs := t.regs, hits := t.hits, evs := t.evs, flt := t.flt } ∧ fget CAN_STAT_STATE k t = n ∧ fget CAN_STAT_TEC k t = min tec.toNat 255
    ∧ fget CAN_STAT_REC k t = rec.toNat ∧ (if n = 2 ∧ fget CAN_STAT_STATE k s ≠ 2 then reported 0x1F5 0 0 s t else t.flt = s.flt)
    ∧ onlyRegs [CAN_STAT_STATE, CAN_STAT_TEC, CAN_STAT_REC, EVC_ST_ARR, EVC_ST_SAT, EVQ_STAT_FULL_HIT] s t))
  ∧ (∀ k : Fin 4, fget CAN_STAT_STATE k s ≠ 2 → ignored (.recover k) s)
  ∧ (∀ k : Fin 4, fget CAN_STAT_STATE k s = 2 → completes (.recover k) s (fun t => t = { s with net := { s.net with can := t.net.can } }
    ∧ can k t = { can k s with recovering := true } ∧ ∀ j, j ≠ k.val → can j t = can j s))
  ∧ (∀ k : Fin 4, (can k s).recovering = false → ignored (.busoffRecoveryDone k) s)
  ∧ (∀ k : Fin 4, (can k s).recovering = true → completes (.busoffRecoveryDone k) s (fun t =>
    t = { s with regs := t.regs, hits := t.hits, evs := t.evs, net := { s.net with can := t.net.can } } ∧ fget CAN_STAT_STATE k t = 0
    ∧ fget CAN_STAT_TEC k t = 0 ∧ fget CAN_STAT_REC k t = 0 ∧ can k t = { can k s with recovering := false }
    ∧ onlyRegs [CAN_STAT_STATE, CAN_STAT_TEC, CAN_STAT_REC, EVC_ST_ARR, EVC_ST_SAT, EVQ_STAT_FULL_HIT] s t))

/-- A character received enters the UART's FIFO with its error flags, or sets OVERRUN where it is full; without EN, or with RX on no
pin, it is lost. A character sent leaves the transmit FIFO; in an enabled UART the device itself sends the oldest character when
it may, and ends it after its bits. A write of UART_DATA appends, or sets TXFULL; a read takes the oldest with VALID; the idle
time-out is an arrival. An I²C transaction starts, ends at once with no bytes, or is refused; its end sets RESULT, DONE and the
bytes read; a held SCL gives RESULT 4 and I2C_ERR. An SPI transfer is refused, ends at once with COUNT 0, or is BUSY; the FIFO
commands change only their FIFO. Dot by dot a word begins when there is one to send and room to receive; after WORD periods of SCK
it leaves the FIFO and the target's word, cut to WORD bits, 0 without MISO on its pin, enters the other; half a period after the
last the transfer ends. Levels follow the FIFOs; a read finds no entry of its own dot. (16_storage.md R428, R429, R430, R431,
R432, R433) -/
def Obligations.SerialPorts : Prop :=
  ∀ s : State, ∀ tx : List Nat, tx = s.net.uartTx → ∀ rx : List Nat, rx = s.net.uartRx →
  (∀ (c : Byte) (f p b : Bool), fbit UART_CTRL_EN 0 s = false ∨ pinCarries 217 0x10 s = false → ignored (.uartCharacterReceive c f p b) s)
  ∧ (∀ (c : Byte) (f p b : Bool), fbit UART_CTRL_EN 0 s = true → pinCarries 217 0x10 s = true →
    completes (.uartCharacterReceive c f p b) s (fun t =>
      t = { s with regs := t.regs, hits := t.hits, evs := t.evs, frameRep := t.frameRep, net := { s.net with uartRx := t.net.uartRx } }
      ∧ t.net.uartRx = (if rx.length < 64 then rx ++ [c.toNat % 2 ^ (5 + fget UART_CTRL_BITS 0 s) + 2 ^ 9 * f.toNat + 2 ^ 10 * p.toNat + 2 ^ 11 * b.toNat] else rx)
      ∧ (rx.length < 64 → fget UART_FIFO_RXLVL 0 t = rx.length + 1) ∧ (64 ≤ rx.length → fget UART_STAT_OVERRUN 0 t = 1)
      ∧ (f = true → fget UART_STAT_FRAMING 0 t = 1) ∧ (p = true → fget UART_STAT_PARITY 0 t = 1) ∧ (b = true → fget UART_STAT_BREAK 0 t = 1)
      ∧ (f = true ∨ p = true ∨ b = true ∨ 64 ≤ rx.length → 0x1F7 ∈ t.frameRep)
      ∧ (f = false → p = false → b = false → rx.length < 64 → t.frameRep = s.frameRep
          ∧ onlyRegs [UART_FIFO_TXLVL, UART_FIFO_RXLVL, EVC_ST_ARR, EVC_ST_SAT, EVQ_STAT_FULL_HIT] s t)
      ∧ onlyRegs [UART_FIFO_TXLVL, UART_FIFO_RXLVL, UART_STAT_OVERRUN, UART_STAT_FRAMING, UART_STAT_PARITY, UART_STAT_BREAK, EVC_ST_ARR, EVC_ST_SAT,
          EVQ_STAT_FULL_HIT] s t))
  ∧ (tx = [] ∨ fbit UART_CTRL_EN 0 s = false → ignored .uartCharacterSent s)
  ∧ (tx ≠ [] → fbit UART_CTRL_EN 0 s = true → completes .uartCharacterSent s (fun t => t = { s with regs := t.regs, hits := t.hits, evs := t.evs, net := { s.net with uartTx := tx.tail, uartAt := none } }
    ∧ fget UART_FIFO_TXLVL 0 t = (tx.length - 1) % 128 ∧ onlyRegs [UART_FIFO_TXLVL, UART_FIFO_RXLVL, EVC_ST_ARR, EVC_ST_SAT, EVQ_STAT_FULL_HIT] s t
    ∧ (tx.length ≠ fget UART_FIFO_TXTHR 0 s + 1 → t.evs = s.evs)))
  ∧ (∀ c : Byte, 64 ≤ tx.length → completes (.uartDataWrite c) s (fun t => t = { s with regs := t.regs, hits := t.hits }
    ∧ onlyFields [(UART_STAT_TXFULL, 0)] s t ∧ fget UART_STAT_TXFULL 0 t = 1))
  ∧ (∀ c : Byte, tx.length < 64 → completes (.uartDataWrite c) s (fun t => t = { s with regs := t.regs, net := { s.net with uartTx := tx ++ [c.toNat] } }
    ∧ onlyFields [(UART_FIFO_TXLVL, 0), (UART_FIFO_RXLVL, 0)] s t ∧ fget UART_FIFO_TXLVL 0 t = tx.length + 1))
  ∧ (fbit UART_CTRL_EN 0 s = true → (s.net.uartAt = none → tx ≠ [] → uartClear s = true → (uartTick s).net = { s.net with uartAt := some s.time })
    ∧ (∀ d ∈ s.net.uartAt, s.time < d + uartFrame s * uartBit s / 2 → uartTick s = s)
    ∧ (∀ d ∈ s.net.uartAt, uartFrame s * uartBit s ≤ 2 * (s.time - d) → (uartTick s).net.uartTx = tx.tail
        ∧ (uartTick s).net.uartAt = (if 1 < tx.length ∧ uartClear s = true then some s.time else if tx = [] then some d else none)))
  ∧ (present UART_DATA_CHAR rx s = [] → completes .uartDataRead s (fun t => t = { s with resp := ⟨0, false⟩ }))
  ∧ (∀ c ∈ (present UART_DATA_CHAR rx s).head?, completes .uartDataRead s (fun t => t = { s with regs := t.regs, resp := ⟨BitVec.ofNat 32 (c + 2 ^ 8), false⟩, net := { s.net with uartRx := rx.tail } }
    ∧ onlyFields [(UART_FIFO_TXLVL, 0), (UART_FIFO_RXLVL, 0)] s t ∧ fget UART_FIFO_RXLVL 0 t = (rx.length - 1) % 128))
  ∧ (rx = [] → ignored .uartRxTimeout s)
  ∧ (rx ≠ [] → completes .uartRxTimeout s (fun t => t = { s with regs := t.regs, hits := t.hits, evs := t.evs }
    ∧ onlyRegs [EVC_ST_ARR, EVC_ST_SAT, EVQ_STAT_FULL_HIT] s t
    ∧ (fbit EVC_CFG_EN 0x171 s = true → fget PWR_STAT_STATE 0 s < 3 → fget EVC_ST_ARR 0x171 s < 255 → (evSrc 0x171 t).payload = (2 ^ 7 + rx.length) % 2 ^ 32)))
  ∧ (∀ v : Word, ∀ wc : Nat, wc = v.toNat / 2 ^ 8 % 2 ^ 6 → ∀ rc : Nat, rc = v.toNat % 2 ^ 6 →
    ∀ bad : Bool, bad = (fbit I2C_STAT_BUSY 0 s || decide (32 < wc) || decide (32 < rc) || !fbit I2C_CTRL_EN 0 s) →
    (bad = true → completes (.i2cTransaction v) s (fun t => t = { s with regs := t.regs, hits := t.hits } ∧ onlyFields [(I2C_STAT_CFG_REFUSED, 0)] s t
      ∧ fget I2C_STAT_CFG_REFUSED 0 t = 1))
    ∧ (bad = false → completes (.i2cTransaction v) s (fun t => t = { s with regs := t.regs, hits := t.hits, evs := t.evs }
      ∧ fget I2C_CMD_ADDR10 0 t = v.toNat / 2 ^ 30 % 2 ∧ fget I2C_CMD_ADDR 0 t = v.toNat / 2 ^ 16 % 2 ^ 10 ∧ fget I2C_CMD_WCOUNT 0 t = wc ∧ fget I2C_CMD_RCOUNT 0 t = rc
      ∧ (wc + rc ≠ 0 → fget I2C_STAT_BUSY 0 t = 1
          ∧ onlyFields [(I2C_CMD_ADDR10, 0), (I2C_CMD_ADDR, 0), (I2C_CMD_WCOUNT, 0), (I2C_CMD_RCOUNT, 0), (I2C_STAT_BUSY, 0)] s t)
      ∧ (wc + rc = 0 → fget I2C_STAT_BUSY 0 t = 0 ∧ fget I2C_STAT_RESULT 0 t = 0 ∧ fget I2C_STAT_DONE 0 t = 0))))
  ∧ (fbit I2C_STAT_BUSY 0 s = false → (∀ r d x, ignored (.i2cTransactionEnd r d x) s) ∧ ignored .i2cSclTimeout s)
  ∧ (∀ (r : Fin 4) (d : Fin 64) (x : BitVec 256), fbit I2C_STAT_BUSY 0 s = true → ∀ n : Nat, n = min (d.val - fget I2C_CMD_WCOUNT 0 s) (fget I2C_CMD_RCOUNT 0 s) →
    n ≤ 32 → completes (.i2cTransactionEnd r d x) s (fun t => t = { s with regs := t.regs, hits := t.hits, evs := t.evs } ∧ fget I2C_STAT_BUSY 0 t = 0
      ∧ fget I2C_STAT_RESULT 0 t = r ∧ fget I2C_STAT_DONE 0 t = d
      ∧ (∀ i, i < n → fget I2C_RDATA_DATA (i / 4) t / 2 ^ (8 * (i % 4)) % 256 = x.toNat / 2 ^ (8 * i) % 256)
      ∧ onlyRegs [I2C_STAT_BUSY, I2C_STAT_RESULT, I2C_STAT_DONE, I2C_RDATA_DATA, EVC_ST_ARR, EVC_ST_SAT, EVQ_STAT_FULL_HIT] s t))
  ∧ (fbit I2C_STAT_BUSY 0 s = true → completes .i2cSclTimeout s (fun t => t = { s with regs := t.regs, hits := t.hits, evs := t.evs, flt := t.flt }
    ∧ fget I2C_STAT_BUSY 0 t = 0 ∧ fget I2C_STAT_RESULT 0 t = 4 ∧ fget I2C_STAT_DONE 0 t = 0 ∧ reported 0x1F8 0 0 s t
    ∧ onlyRegs [I2C_STAT_BUSY, I2C_STAT_RESULT, I2C_STAT_DONE, EVC_ST_ARR, EVC_ST_SAT, EVQ_STAT_FULL_HIT] s t))
  ∧ (∀ (v : Word) (m : List Word), fbit SPI_STAT_BUSY 0 s = true ∨ fbit SPI_CTRL_EN 0 s = false → completes (.spiTransfer v m) s (fun t =>
    t = { s with regs := t.regs, hits := t.hits } ∧ onlyFields [(SPI_STAT_CFG_REFUSED, 0)] s t ∧ fget SPI_STAT_CFG_REFUSED 0 t = 1))
  ∧ (∀ (v : Word) (m : List Word), ∀ h : SpiH, h = s.net.spi → ∀ n : Nat, n = v.toNat % 2 ^ 16 → fbit SPI_STAT_BUSY 0 s = false → fbit SPI_CTRL_EN 0 s = true →
    (n = 0 → completes (.spiTransfer v m) s (fun t => t.net = { s.net with spi := { h with left := 0, moved := 0, input := m.map BitVec.toNat, at_ := none } }
      ∧ fget SPI_STAT_BUSY 0 t = 0 ∧ fget SPI_STAT_DONE 0 t = 1 ∧ fget SPI_XFER_CS 0 t = v.toNat / 2 ^ 28 % 4 ∧ fget SPI_XFER_COUNT 0 t = 0))
    ∧ (0 < n → completes (.spiTransfer v m) s (fun t =>
      t = { s with regs := t.regs, hits := t.hits, net := { s.net with spi := { h with left := n, moved := 0, input := m.map BitVec.toNat, at_ := none } } }
      ∧ fget SPI_STAT_BUSY 0 t = 1 ∧ fget SPI_XFER_COUNT 0 t = n
      ∧ onlyFields [(SPI_XFER_CS, 0), (SPI_XFER_COUNT, 0), (SPI_FIFO_TXLVL, 0), (SPI_FIFO_RXLVL, 0), (SPI_STAT_BUSY, 0)] s t)))
  ∧ (fbit SPI_STAT_BUSY 0 s = false → spiTick s = s)
  ∧ (∀ h : SpiH, h = s.net.spi → ∀ half : Nat, half = 2 * (fget SPI_CTRL_DIV 0 s + 1) → fbit SPI_STAT_BUSY 0 s = true →
    (h.at_ = none → 0 < h.left → h.tx ≠ [] → h.rx.length < 64 → (spiTick s).net = { s.net with spi := { h with at_ := some s.time } })
    ∧ (h.at_ = none → h.left = 0 ∨ h.tx = [] ∨ 64 ≤ h.rx.length → spiTick s = s)
    ∧ (∀ d ∈ h.at_, 0 < h.left → s.time < d + 2 * half * fget SPI_CTRL_WORD 0 s → spiTick s = s)
    ∧ (∀ d ∈ h.at_, 0 < h.left → d + 2 * half * fget SPI_CTRL_WORD 0 s ≤ s.time → h.tx ≠ [] → ∀ r : Nat, r = h.rx.length →
      (spiTick s).net.spi.tx = h.tx.tail ∧ (spiTick s).net.spi.left = h.left - 1 ∧ (spiTick s).net.spi.moved = h.moved + 1
      ∧ (spiTick s).net.spi.rx.length = r + 1 ∧ (spiTick s).net.spi.rx.take r = h.rx ∧ (spiTick s).net.spi.input = h.input.tail
      ∧ (spiTick s).net.spi.at_ = (if h.left = 1 ∨ (h.tx.tail ≠ [] ∧ r + 1 < 64) then some s.time else none)
      ∧ (pinCarries 226 0x10 s = false → (spiTick s).net.spi.rx.getLast? = some 0)
      ∧ (pinCarries 226 0x10 s = true → ∀ x ∈ h.input.head?, (spiTick s).net.spi.rx.getLast? = some (x % 2 ^ fget SPI_CTRL_WORD 0 s)))
    ∧ (∀ d ∈ h.at_, h.left = 0 → (s.time < d + half → spiTick s = s)
      ∧ (d + half ≤ s.time → fget SPI_STAT_BUSY 0 (spiTick s) = 0 ∧ fget SPI_STAT_DONE 0 (spiTick s) = 1)))
  ∧ (fbit SPI_STAT_BUSY 0 s = false ∨ s.net.spi.left ≠ 0 → ignored .spiTransferEnd s)
  ∧ (fbit SPI_STAT_BUSY 0 s = true → s.net.spi.left = 0 → completes .spiTransferEnd s (fun t =>
    t = { s with regs := t.regs, hits := t.hits, evs := t.evs, net := { s.net with spi := { s.net.spi with at_ := none } } }
    ∧ fget SPI_STAT_BUSY 0 t = 0 ∧ fget SPI_STAT_DONE 0 t = 1
    ∧ onlyRegs [SPI_FIFO_TXLVL, SPI_FIFO_RXLVL, SPI_STAT_BUSY, SPI_STAT_DONE, EVC_ST_ARR, EVC_ST_SAT, EVQ_STAT_FULL_HIT] s t))
  ∧ (∀ w : Word, ∀ h : SpiH, h = s.net.spi →
    (64 ≤ h.tx.length → completes (.spiTxWrite w) s (fun t => t = { s with regs := t.regs, hits := t.hits } ∧ onlyFields [(SPI_STAT_TXFULL, 0)] s t
      ∧ fget SPI_STAT_TXFULL 0 t = 1))
    ∧ (h.tx.length < 64 → completes (.spiTxWrite w) s (fun t =>
      t = { s with regs := t.regs, net := { s.net with spi := { h with tx := h.tx ++ [w.toNat] } } }
      ∧ onlyFields [(SPI_FIFO_TXLVL, 0), (SPI_FIFO_RXLVL, 0)] s t ∧ fget SPI_FIFO_TXLVL 0 t = h.tx.length + 1)))
  ∧ (present SPI_RX_WORD s.net.spi.rx s = [] → completes .spiRxRead s (fun t => t = { s with resp := ⟨0, false⟩ }))
  ∧ (∀ w ∈ (present SPI_RX_WORD s.net.spi.rx s).head?, completes .spiRxRead s (fun t =>
    t = { s with regs := t.regs, resp := ⟨BitVec.ofNat 32 w, false⟩, net := { s.net with spi := { s.net.spi with rx := s.net.spi.rx.tail } } }
      ∧ onlyFields [(SPI_FIFO_TXLVL, 0), (SPI_FIFO_RXLVL, 0)] s t))

/-- A request that R438 refuses sets REFUSE_WHY and CFG_REFUSED; an accepted one for HOLD, DIM, SLEEP or OFF sets BUSY, lists the
domains that go off, highest first, and stops their host cores; RUN from HOLD begins a wake. A write of PWR_RUNOFF is refused, or
takes its bits; newly set bits begin an entry of the domains that are on, cleared ones a wake of those that are off. A wake pin
that is enabled, the alarm and any other accepted wake begin a wake in HOLD, DIM and SLEEP, recording source, index, former state
and position, starting one dot later (401 from SLEEP); during an entry it is held; in RUN other sources than 3 and 6 do nothing,
in OFF none does. (17_power.md R437, R438, R439, R443, R444, R446, R447) -/
def Obligations.PowerRequestsAndWakes : Prop :=
  ∀ s : State,
  (∀ e ∈ [(Instr.requestRun, 0), (.requestHold, 1), (.requestDim, 2), (.requestSleep, 3), (.requestOff, 4)], ∀ c : Nat, c = e.2 →
    ∀ st : Nat, st = fget PWR_STAT_STATE 0 s → ∀ off : List Nat, off = ((List.range 24).filter (fun d => domainOn d s && !stateKeeps c d s)).reverse →
    ∀ why : Nat, why = (if (c = 0 ∧ st ≠ 1) ∨ (c ≠ 0 ∧ st ≠ 0 ∧ st ≠ 1) ∨ (c = 1 ∧ st = 1) then 1 else if 2 ≤ c ∧ allStopped s = false then 2
      else if fbit PWR_STAT_BUSY 0 s then 3 else if fbit FAB_STAT_BUSY 0 s then 4 else if c ≠ 0 ∧ offBusy off s then 5 else 0) →
    (why ≠ 0 → completes e.1 s (fun t => t = { s with regs := t.regs, hits := t.hits, evs := t.evs } ∧ fget PWR_STAT_REFUSE_WHY 0 t = why
      ∧ fget PWR_STAT_CFG_REFUSED 0 t = 1 ∧ onlyRegs [PWR_STAT_REFUSE_WHY, PWR_STAT_CFG_REFUSED, EVC_ST_ARR, EVC_ST_SAT, EVQ_STAT_FULL_HIT] s t))
    ∧ (why = 0 → c = 0 → s.pwr.entering = none → s.pwr.waking = false → completes e.1 s (fun t => t = { s with regs := t.regs, hits := t.hits, pwr := t.pwr }
      ∧ wakeBegins 6 0 (domainsNeeded s) s t ∧ onlyFields wakeFields s t))
    ∧ (why = 0 → c ≠ 0 → completes e.1 s (fun t => t = { s with regs := t.regs, hits := t.hits, cpus := t.cpus, pwr := { s.pwr with entering := some c, off := off, gone := none } }
      ∧ fget PWR_STAT_BUSY 0 t = 1 ∧ onlyFields [(PWR_STAT_BUSY, 0)] s t
      ∧ (∀ k, k < 4 → if 15 + k ∈ off then (cpu k t).state = .off ∧ (cpu k t).g = (cpu k s).g else cpu k t = cpu k s)
      ∧ ∀ k, 4 ≤ k → cpu k t = cpu k s)))
  ∧ (∀ v : Word, ∀ old : Nat → Bool, old = (fun d => decide (3 ≤ d) && fbitAt PWR_RUNOFF_OFF 0 (d - 3) s) → ∀ bad : Bool,
    bad = (fget PWR_STAT_STATE 0 s != 0 || s.pwr.entering.isSome || (List.range 4).any (fun n =>
      (!regionStopped n s && [3 + n, 7 + 2 * n, 8 + 2 * n].any (fun d => v.getLsbD d && !old d))
        || (v.getLsbD (3 + n) && !old (3 + n) && [7 + 2 * n, 8 + 2 * n].any (fun d => !v.getLsbD d))
        || (v.getLsbD (3 + n) && [7 + 2 * n, 8 + 2 * n].any (fun d => !v.getLsbD d && old d)))) →
    ∀ up : List Nat, up = ((List.range 21).map (3 + ·)).filter (fun d => old d && !v.getLsbD d) →
    ∀ off : List Nat, off = ((List.range 24).filter (fun d => domainOn d s && (decide (3 ≤ d) && v.getLsbD d))).reverse →
    (v.toNat / 8 % 2 ^ 21 = fget PWR_RUNOFF_OFF 0 s → ignored (.pwrRunoffWrite v) s)
    ∧ (v.toNat / 8 % 2 ^ 21 ≠ fget PWR_RUNOFF_OFF 0 s →
    (bad = true → completes (.pwrRunoffWrite v) s (fun t => t = { s with regs := t.regs, hits := t.hits } ∧ onlyFields [(PWR_STAT_CFG_REFUSED, 0)] s t
      ∧ fget PWR_STAT_CFG_REFUSED 0 t = 1))
    ∧ (bad = false → up = [] → off = [] → completes (.pwrRunoffWrite v) s (fun t => t = { s with regs := t.regs } ∧ onlyFields [(PWR_RUNOFF_OFF, 0)] s t
      ∧ fget PWR_RUNOFF_OFF 0 t = v.toNat / 8 % 2 ^ 21))
    ∧ (bad = false → up = [] → off ≠ [] → completes (.pwrRunoffWrite v) s (fun t =>
      t = { s with regs := t.regs, hits := t.hits, cpus := t.cpus, pwr := { s.pwr with entering := some 0, off := off, gone := none } }
      ∧ onlyFields [(PWR_RUNOFF_OFF, 0), (PWR_STAT_BUSY, 0)] s t ∧ fget PWR_RUNOFF_OFF 0 t = v.toNat / 8 % 2 ^ 21 ∧ fget PWR_STAT_BUSY 0 t = 1))
    ∧ (bad = false → up ≠ [] → off = [] → s.pwr.waking = false → completes (.pwrRunoffWrite v) s (fun t =>
      t = { s with regs := t.regs, hits := t.hits, pwr := t.pwr } ∧ wakeBegins 6 0 (up.filter (fun d => !domainOn d s && domainUsed d s)) s t
      ∧ onlyFields ((PWR_RUNOFF_OFF, 0) :: wakeFields) s t ∧ fget PWR_RUNOFF_OFF 0 t = v.toNat / 8 % 2 ^ 21))))
  ∧ (∀ k : Fin 4, fbitAt PWR_WAKECFG_PIN_EN 0 k s = false → ignored (.wakePin k) s)
  ∧ (fbit PWR_WAKECFG_ALARM_EN 0 s = false → ignored .wakeAlarm s)
  ∧ (∀ (a : Fin 16) (b : BitVec 10), fget PWR_STAT_STATE 0 s = 4 → ignored (.wakeAccept a b) s)
  ∧ (∀ (a : Fin 16) (b : BitVec 10), fget PWR_STAT_STATE 0 s = 0 → a.val ≠ 3 → a.val ≠ 6 → s.pwr.entering = none → ignored (.wakeAccept a b) s)
  ∧ (∀ b : BitVec 10, fget PWR_STAT_STATE 0 s = 0 → s.pwr.entering = none → ∀ k : Nat, k = fget EVQ_CFG_CORE (b.toNat % 8) s →
    (domainOn (15 + k) s = true → completes (.wakeAccept 3 b) s (fun t => t = { s with regs := t.regs } ∧ onlyFields [(PWR_RUNOFF_OFF, 0)] s t
      ∧ (k < 4 → fbitAt PWR_RUNOFF_OFF 0 (12 + k) t = false)))
    ∧ (domainOn (15 + k) s = false → s.pwr.waking = false → completes (.wakeAccept 3 b) s (fun t => t = { s with regs := t.regs, hits := t.hits, pwr := t.pwr }
      ∧ wakeBegins 3 b.toNat [15 + k] s t ∧ onlyFields ((PWR_RUNOFF_OFF, 0) :: wakeFields) s t)))
  ∧ (∀ (k : Fin 4) (a : Fin 16) (b : BitVec 10), ∀ e ∈ [(Instr.wakeAccept a b, a.val, b.toNat)] ++ (if fbitAt PWR_WAKECFG_PIN_EN 0 k s then [(.wakePin k, 1, k.val)] else [])
      ++ (if fbit PWR_WAKECFG_ALARM_EN 0 s then [(.wakeAlarm, 2, 0)] else []),
    (1 ≤ fget PWR_STAT_STATE 0 s → fget PWR_STAT_STATE 0 s ≤ 3 → s.pwr.entering = none → s.pwr.waking = false → completes e.1 s (fun t =>
      t = { s with regs := t.regs, hits := t.hits, pwr := t.pwr } ∧ wakeBegins e.2.1 e.2.2 (domainsNeeded s) s t
      ∧ onlyFields ((PWR_WAKECFG_ALARM_EN, 0) :: wakeFields) s t ∧ fget PWR_WAKECFG_ALARM_EN 0 t = (if e.1 = .wakeAlarm then 0 else fget PWR_WAKECFG_ALARM_EN 0 s)))
    ∧ (1 ≤ fget PWR_STAT_STATE 0 s → fget PWR_STAT_STATE 0 s ≤ 3 → s.pwr.entering ≠ none → completes e.1 s (fun t =>
      t = { s with regs := t.regs, hits := t.hits, pwr := { s.pwr with held := s.pwr.held ++ [(e.2.1, e.2.2)] } } ∧ fget PWR_STAT_WAKE_HELD 0 t = 1
      ∧ onlyFields [(PWR_WAKECFG_ALARM_EN, 0), (PWR_STAT_WAKE_HELD, 0)] s t)))

/-- An entry takes its domains off one per dot, highest first, and ends in the dot after the last, 400 dots later for SLEEP. When they
have gone off, the state is entered: their bits of PWR_DOMSTAT are 0, BUSY is clear, held wakes are accepted in the next dot, and
for OFF PSU_EN goes low 64 dots later. A wake starts the lowest waiting domain whose needs are on if its units fit, or defers it,
once; DRAM starts with no row repaired, and each entry of the repair table maps its row, is skipped, or reports a full bank. A
domain whose ramp ends is on; when it is the last, PWR_DONE records the position; a host core starts at its PWR_RESUME, the boot
sequencer four dots after STORE of the first start. A ramp that fails reports PWR_RAMP and ends the wait of the domains that need
it. RUN is reached when nothing is left to start. PSU_EN low, in OFF, leaves only the store, the NAND and the wake pins' enables;
the end of OFF is a device reset. (17_power.md R434, R436, R439, R441, R444, R445, R446, R447, R449, 19_startup_test.md R470) -/
def Obligations.PowerSequences : Prop :=
  ∀ s : State,
  (s.pwr.entering = none → ignored .stateEntryDone s)
  ∧ (∀ c ∈ s.pwr.entering, completes .stateEntryDone s (fun t => t.pos = s.pos ∧ t.time = s.time ∧ t.pending = s.pending
    ∧ t.pwr.entering = none ∧ t.pwr.off = [] ∧ t.pwr.held = [] ∧ fget PWR_STAT_STATE 0 t = c % 8 ∧ fget PWR_STAT_BUSY 0 t = 0
    ∧ (∀ d, d < 24 → domainOn d t = (domainOn d s && !s.pwr.off.contains d))
    ∧ (∀ e ∈ s.pwr.held, (s.time + 1, .cmd (.wakeAccept (Fin.ofNat 16 e.1) (BitVec.ofNat 10 e.2))) ∈ t.due)
    ∧ (s.pwr.held ≠ [] → fget PWR_STAT_WAKE_HELD 0 t = 0) ∧ (c = 4 → (s.time + 64, .cmd .psuEnLow) ∈ t.due)
    ∧ (s.pwr.off = [] → s.pwr.held = [] → s.test.bist = none → c ≠ 4 → t = { s with regs := t.regs, pwr := { s.pwr with entering := none, gone := none } }
        ∧ onlyFields [(PWR_STAT_STATE, 0), (PWR_STAT_BUSY, 0)] s t)))
  ∧ (s.pwr.entering = none → entryOn s = s)
  ∧ (∀ c ∈ s.pwr.entering, s.pwr.gone = none → Config.entryMoves s.time = false → entryOn s = s)
  ∧ (∀ c ∈ s.pwr.entering, s.pwr.gone = none → s.pwr.off = [] → Config.entryMoves s.time = true → entryOn s = { s with pwr := { s.pwr with gone := some s.time } })
  ∧ (∀ c ∈ s.pwr.entering, ∀ d ∈ s.pwr.off.head?, s.pwr.gone ≠ none ∨ Config.entryMoves s.time = true →
    (entryOn s).pwr.off = s.pwr.off.tail ∧ (entryOn s).pwr.gone = some s.time ∧ (entryOn s).pwr.entering = some c
    ∧ ∀ j, j < 24 → domainOn j (entryOn s) = (domainOn j s && decide (j ≠ d)))
  ∧ (∀ c ∈ s.pwr.entering, ∀ g ∈ s.pwr.gone, s.pwr.off = [] → ∀ fin : Nat, fin = g + 1 + (if c = 3 then 400 else 0) →
    (s.time < fin → entryOn s = s) ∧ (fin ≤ s.time → exec .stateEntryDone s = .next (entryOn s)))
  ∧ (∀ d ∈ (s.pwr.waiting.find? (fun d => (domainNeeds d).all (fun n => domainOn n s))).or (some 99), ∀ fits : Bool,
    fits = (decide (domainUnits d + (s.pwr.ramping.map (fun e => domainUnits e.1)).sum ≤ fget PWR_BUDGET_UNITS 0 s)
      || (decide (fget PWR_BUDGET_UNITS 0 s < domainUnits d) && s.pwr.ramping == [])) →
    (d = 99 ∨ (fits = false ∧ (fbitAt PWR_DEFER_DOMAINS 0 d s = true ∨ s.pwr.initial = true)) → s.pwr.waiting.all (fun x => x < 24) → ignored .domainStart s)
    ∧ (d < 24 → fits = true → d ≠ 2 ∨ s.pwr.selfRefresh = true → completes .domainStart s (fun t => t = { s with pwr := { s.pwr with
        waiting := ndel d s.pwr.waiting, ramping := s.pwr.ramping ++ [(d, s.time + domainRamp d s)] } }))
    ∧ (d = 2 → fits = true → s.pwr.selfRefresh = false → completes .domainStart s (fun t =>
        t = { s with regs := t.regs, memh := { s.memh with rows := [] }, pwr := t.pwr }
        ∧ t.pwr = { s.pwr with waiting := ndel d s.pwr.waiting, ramping := s.pwr.ramping ++ [(d, s.time + 80000)] }
        ∧ onlyFields [(MEM_REP_USED_COUNT, 0)] s t ∧ fget MEM_REP_USED_COUNT 0 t = 0))
    ∧ (d < 24 → fits = false → fbitAt PWR_DEFER_DOMAINS 0 d s = false → s.pwr.initial = false → completes .domainStart s (fun t =>
        t = { s with regs := t.regs, hits := t.hits } ∧ onlyFields [(PWR_DEFER_DOMAINS, 0), (PWR_WAKE_DEFERRED, 0)] s t
        ∧ fbitAt PWR_DEFER_DOMAINS 0 d t = true ∧ fget PWR_WAKE_DEFERRED 0 t = (fget PWR_WAKE_DEFERRED 0 s + 1) % 2 ^ 8)))
  ∧ (∀ i, ∀ code : Nat, code = mread (repairEntry i) 4 s → ∀ full : Bool, full = decide (8 ≤ (s.memh.rows.filter (fun r => r / 2 ^ 15 == code % 2 ^ 23 / 2 ^ 15)).length) →
    (full = true → repairEntryOn i s = report 0x10E (memAddr (rowOffset code)) (memInfo (2 ^ 32 + rowOffset code) 0) s)
    ∧ (full = false → 2 ^ 23 ≤ code ∨ code ∈ s.memh.rows → repairEntryOn i s = s)
    ∧ (full = false → code < 2 ^ 23 → code ∉ s.memh.rows → (repairEntryOn i s).memh.rows = s.memh.rows ++ [code]
        ∧ fget MEM_REP_USED_COUNT 0 (repairEntryOn i s) = (s.memh.rows.length + 1) % 2 ^ MEM_REP_USED_COUNT.w))
  ∧ (∀ d : Fin 24, s.pwr.ramping.any (fun e => e.1 == d.val) = false → ignored (.domainOn d) s ∧ ignored (.domainRampFail d) s)
  ∧ (∀ d : Fin 24, s.pwr.ramping.any (fun e => e.1 == d.val) = true → ∀ last : Bool, last = (s.pwr.waking && s.pwr.waiting.isEmpty
      && (s.pwr.ramping.filter (fun e => e.1 != d.val)).isEmpty) → completes (.domainOn d) s (fun t => t.pos = s.pos ∧ t.time = s.time ∧ t.pending = s.pending
    ∧ (∀ j, j < 24 → domainOn j t = (domainOn j s || decide (j = d.val))) ∧ t.pwr.ramping = s.pwr.ramping.filter (fun e => e.1 != d.val)
    ∧ t.pwr.waiting = s.pwr.waiting ∧ t.pwr.waking = s.pwr.waking ∧ (d = 2 → t.pwr.selfRefresh = false)
    ∧ (last = true → fget PWR_DONE_LO_LINE 0 t = s.pos.line % 2 ^ 12 ∧ fget PWR_DONE_LO_DOT 0 t = s.pos.dot % 2 ^ 14 ∧ fget PWR_DONE_HI_FRAME 0 t = s.pos.frame % 2 ^ 32)
    ∧ (∀ k, k < 4 → d.val = 15 + k → s.pwr.initial = false → (cpu k t).state = .run ∧ (cpu k t).pc = fget PWR_RESUME_PC k s ∧ fget EXC_CTRL_IE k t = 0)
    ∧ (d = 15 → s.pwr.initial = true → (cpu 0 t).state = .run ∧ (cpu 0 t).c = rootCaps ∧ (s.time + 1, .bootRom) ∈ t.due)
    ∧ (d = 19 → s.pwr.initial = true → (s.time + 4, .cmd .bootHeaderRead) ∈ t.due)
    ∧ (d = 19 → s.pwr.initial = true → fbit NF_CTRL_EN 0 s = true → t.nand.starting = true)))
  ∧ (∀ d : Fin 24, s.pwr.ramping.any (fun e => e.1 == d.val) = true → completes (.domainRampFail d) s (fun t =>
    t = { s with regs := t.regs, flt := t.flt, pwr := { s.pwr with ramping := s.pwr.ramping.filter (fun e => e.1 != d.val), waiting := t.pwr.waiting } }
    ∧ reported 0x1D1 0 0 s t ∧ fget PWR_LASTERR_WHERE 0 t = d ∧ onlyFields [(PWR_LASTERR_WHERE, 0), (PWR_DONE_LO_LINE, 0), (PWR_DONE_LO_DOT, 0), (PWR_DONE_HI_FRAME, 0)] s t
    ∧ (∀ e ∈ t.pwr.waiting, e ∈ s.pwr.waiting ∧ d.val ∉ domainNeeds e)
    ∧ ∀ e ∈ s.pwr.waiting, e ∉ t.pwr.waiting → d.val ∈ domainNeeds e ∨ ∃ n ∈ domainNeeds e, d.val ∈ domainNeeds n ∨ ∃ m ∈ domainNeeds n, d.val ∈ domainNeeds m))
  ∧ (∀ done : Bool, done = (s.pwr.waking && s.pwr.waiting.isEmpty && s.pwr.ramping.isEmpty && !decide (s.pwr.reload = .running)) →
    (done = false → ignored .runReached s)
    ∧ (done = true → completes .runReached s (fun t =>
      t = { s with regs := t.regs, hits := t.hits, evs := t.evs, pwr := { s.pwr with waking := false, initial := false, reload := .none } }
      ∧ fget PWR_STAT_STATE 0 t = 0 ∧ fget PWR_STAT_BUSY 0 t = 0 ∧ onlyRegs [PWR_STAT_STATE, PWR_STAT_BUSY, EVC_ST_ARR, EVC_ST_SAT, EVQ_STAT_FULL_HIT] s t)))
  ∧ (fget PWR_STAT_STATE 0 s ≠ 4 → ignored .psuEnLow s ∧ ignored .offWake s)
  ∧ (fget PWR_STAT_STATE 0 s = 4 → completes .psuEnLow s (fun t => t.swp.stage = .supplies ∧ fget PWR_STAT_STATE 0 t = 4
    ∧ fget PWR_WAKECFG_PIN_EN 0 t = fget PWR_WAKECFG_PIN_EN 0 s % 16 ∧ onlyFields [(PWR_STAT_STATE, 0), (PWR_WAKECFG_PIN_EN, 0)] State.reset t
    ∧ (∀ a, mget a t = if inStore a then mget a s else 0) ∧ t.nand.data = s.nand.data ∧ t.pending = s.pending ∧ t.cpus = State.reset.cpus))
  ∧ (fget PWR_STAT_STATE 0 s = 4 → completes .offWake s (fun t => t.swp = State.reset.swp ∧ t.regs = State.reset.regs
    ∧ (∀ a, mget a t = if inStore a then mget a s else 0) ∧ t.nand.data = s.nand.data ∧ t.pending = s.pending ∧ t.cpus = State.reset.cpus))

/-- A pad or gate word is refused whole, or waits; a handover holds a pin that was driven at the level of the dot before and leaves
another undriven, and the new word governs from the next dot; a latch opens so. PAD_OUT takes its bits, but for those a bit write
changed in the same dot. The boot sequencer records whether the header passes and loads its image slot or the default image.
CORE_START is refused, or starts the core at BOOT_SPC with its seeds, IE, LOCKED and IN_REFUGE at 0. A self-test is refused with
its code, or starts; a JTAG start replaces one that a command made in the same dot; at its end its signature gives the result, and
a mismatch is reported. A JTAG instruction is loaded with its data register; EXTEST, CLAMP and HIGHZ load BYPASS while a region
runs; BIST and MEMACC act only under JTAG_CAP; UID gives the die number, a free value. While EXTEST, CLAMP or HIGHZ stands, every
gate pin is low. (18_pins_package.md R452, R456, R457, R458, R459, R467, 17_power.md R448, 19_startup_test.md R474, R479, R481,
R482, R483) -/
def Obligations.PadsBootAndTest : Prop :=
  ∀ s : State,
  (∀ (p : Fin 256) (v : Word), ∀ ok : Bool, ok = (offers p (v.toNat % 2 ^ 8) s && v.toNat / 2 ^ 11 % 4 != 3) →
    (ok = false → completes (.padCfgWrite p v) s (fun t => t = { s with regs := t.regs, hits := t.hits } ∧ fget PAD_STAT_CFG_REFUSED 0 t = 1
      ∧ fget PAD_REFUSED_GATE 0 t = 0 ∧ fget PAD_REFUSED_NUMBER 0 t = p ∧ onlyFields [(PAD_STAT_CFG_REFUSED, 0), (PAD_REFUSED_GATE, 0), (PAD_REFUSED_NUMBER, 0)] s t))
    ∧ (ok = true → completes (.padCfgWrite p v) s (fun t => t = { s with regs := t.regs, pads := { s.pads with wait := nput p s.pads.wait } }
      ∧ onlyFields [(PAD_CFG_PULL, p), (PAD_CFG_SLEW, p), (PAD_CFG_DRIVE, p), (PAD_CFG_FUNC, p)] s t ∧ padWord p t = v.toNat % 2 ^ 13)))
  ∧ (∀ (l : Fin 144) (v : Word), ∀ ok : Bool, ok = (clusterOn (l.val / 6) s && legState l s == 0 && decide (v.toNat % 4 < 2)) →
    (ok = false → completes (.padLegWrite l v) s (fun t => t = { s with regs := t.regs, hits := t.hits } ∧ fget PAD_STAT_GATE_REFUSED 0 t = 1
      ∧ fget PAD_REFUSED_GATE 0 t = 1 ∧ fget PAD_REFUSED_NUMBER 0 t = l ∧ onlyFields [(PAD_STAT_GATE_REFUSED, 0), (PAD_REFUSED_GATE, 0), (PAD_REFUSED_NUMBER, 0)] s t))
    ∧ (ok = true → completes (.padLegWrite l v) s (fun t => t = { s with regs := t.regs, pads := { s.pads with wait := nput (256 + l.val) s.pads.wait } }
      ∧ onlyFields [(PAD_LEG_SLEW, l), (PAD_LEG_DRIVE, l), (PAD_LEG_FUNC, l)] s t ∧ fget PAD_LEG_SLEW l t = v.toNat / 2 ^ 10 % 2
      ∧ fget PAD_LEG_DRIVE l t = v.toNat / 2 ^ 8 % 4 ∧ fget PAD_LEG_FUNC l t = v.toNat % 4)))
  ∧ (∀ (k : Fin 8) (v : Word), completes (.padOutWrite k v) s (fun t => t = { s with regs := t.regs } ∧ onlyFields [(PAD_OUT_OUT, k)] s t
    ∧ ∀ i, i < 32 → fbitAt PAD_OUT_OUT k i t = if (held PAD_OUT_OUT.id k s).testBit i then fbitAt PAD_OUT_OUT k i s else v.toNat.testBit i))
  ∧ (∀ p : PadRef, (padNo p ∉ s.pads.wait → ignored (.padHandover p) s) ∧ (padNo p ∉ s.pads.latched → ignored (.padLatchOpen p) s))
  ∧ (∀ p : PadRef, ∀ e ∈ (if padNo p ∈ s.pads.wait then [(Instr.padHandover p, s.pads.latched)] else [])
      ++ (if padNo p ∈ s.pads.latched then [(.padLatchOpen p, ndel (padNo p) s.pads.latched)] else []), completes e.1 s (fun t =>
    t = { s with due := t.due, pads := { s.pads with lvl := t.pads.lvl, wait := ndel (padNo p) s.pads.wait, latched := e.2 } }
    ∧ (∀ k : Fin 256, p = .pin k → scheduled 1 (.field PAD_EFF_W k (padWord k s)) s t ∧ (k.val ∈ t.pads.lvl ↔ (if k.val ∈ s.pads.drv1 then k.val ∈ s.pads.lvl1 else outsideLevel k s = true))
        ∧ ∀ j, j ≠ k.val → (j ∈ t.pads.lvl ↔ j ∈ s.pads.lvl))
    ∧ ∀ l : Fin 144, p = .gate l → scheduled 1 (.field PAD_LEG_EFF l (fget PAD_LEG_FUNC l s)) s t ∧ t.pads.lvl = s.pads.lvl))
  ∧ (∀ good : Bool, good = (headerFails 0x11000000 s == 0) →
    (mayLoad s = false → completes .bootHeaderRead s (fun t => t = { s with regs := t.regs } ∧ onlyFields [(BOOT_STAT_HDR_OK, 0)] s t
      ∧ fget BOOT_STAT_HDR_OK 0 t = good.toNat))
    ∧ (mayLoad s = true → (good && (mread 0x1100000C 2 s).testBit 2) = false → completes .bootHeaderRead s (fun t =>
      t = { s with regs := t.regs, hits := t.hits, due := t.due, img := some (none, 0, 0) } ∧ scheduled 2048 (.cmd .defaultImageLoaded) s t
      ∧ onlyFields [(BOOT_STAT_HDR_OK, 0), (FAB_STAT_BUSY, 0)] s t ∧ fget BOOT_STAT_HDR_OK 0 t = good.toNat ∧ fget FAB_STAT_BUSY 0 t = 1))
    ∧ (mayLoad s = true → (good && (mread 0x1100000C 2 s).testBit 2) = true → completes .bootHeaderRead s (fun t =>
      t.img = some (some (mread 0x1100000C 2 s % 4), 0, 0xFFFF) ∧ fget BOOT_STAT_HDR_OK 0 t = 1 ∧ fget FAB_CTRL_SLOT 0 t = mread 0x1100000C 2 s % 4
      ∧ fget FAB_STAT_BUSY 0 t = 1 ∧ (∃ e ∈ t.due, s.time < e.1 ∧ e.2 = Due.cmd .imageCheckPassEnd))))
  ∧ (∀ i : Fin 64, ∀ ok : Bool, ok = (coreExists i s && domainOn (coreHome i s) s && (decide ((cpu i s).state = .off) || fbit EXC_STAT_LOCKED i s)) →
    (ok = false → completes (.coreStart i) s (fun t => t = { s with regs := t.regs, hits := t.hits } ∧ onlyFields [(BOOT_STAT_CFG_REFUSED, 0)] s t
      ∧ fget BOOT_STAT_CFG_REFUSED 0 t = 1))
    ∧ (ok = true → completes (.coreStart i) s (fun t => t = { s with regs := t.regs, cpus := t.cpus }
      ∧ onlyFields ([EXC_CTRL_IE, EXC_CTRL_PRECISE, EXC_STAT_IN_REFUGE, EXC_STAT_LOCKED, EXC_STAT_FAULT_PEND].map (fun F => (F, i.val))) s t
      ∧ (∀ F ∈ [EXC_CTRL_IE, EXC_CTRL_PRECISE, EXC_STAT_IN_REFUGE, EXC_STAT_LOCKED, EXC_STAT_FAULT_PEND], fget F i t = 0)
      ∧ (cpu i t).pc = fget BOOT_SPC_PC i s ∧ (∀ k, k < 16 → sget Cap.none (cpu i t).c k = slotCap CAP_SEED_CAP (16 * i + k) s)
      ∧ ((cpu i t).state = .run ∨ ((cpu i t).state = .idle ∧ 16 ≤ i.val ∧ i.val < 40 ∧ fbit LPE_CFG_CORE_MODE (i - 16) s = true))
      ∧ ∀ j, j ≠ i.val → cpu j t = cpu j s)))
  ∧ (∀ (k : Fin 2) (g : Fin 64), ∀ why : Nat, why = bistRefused k g s → ∀ may : Bool,
      may = ((slotCap JTAG_CAP_CAP 0 s).tag && !(slotCap JTAG_CAP_CAP 0 s).sealed && (slotCap JTAG_CAP_CAP 0 s).has permBIST) →
    (may = false → completes (.bist k g) s (fun t => t.test.ir = .bist ∧ t.test.bist = s.test.bist ∧ fget JTAG_STAT_REFUSED 0 t = 1
      ∧ t = { s with regs := t.regs, hits := t.hits, test := t.test } ∧ onlyFields [(JTAG_STAT_ACTIVE, 0), (JTAG_STAT_REFUSED, 0)] s t))
    ∧ (∀ e ∈ [Instr.bistCtrlGo k g] ++ (if may && held BIST_CTRL_KIND.id 0 s != 1 then [.bist k g] else []),
      (why ≠ 0 → completes e s (fun t => t = { s with regs := t.regs, hits := t.hits, test := t.test } ∧ fget BIST_STAT_CFG_REFUSED 0 t = 1
        ∧ fget BIST_STAT_REFUSE_WHY 0 t = why ∧ t.test.bist = s.test.bist
        ∧ onlyFields [(BIST_CTRL_KIND, 0), (BIST_CTRL_TARGET, 0), (BIST_STAT_CFG_REFUSED, 0), (BIST_STAT_REFUSE_WHY, 0), (JTAG_STAT_ACTIVE, 0)] s t))
      ∧ (why = 0 → completes e s (fun t => t = { s with regs := t.regs, hits := t.hits, due := t.due, fresh := s.fresh + 1, test := t.test }
        ∧ t.test.bist = some (g.val, k.val) ∧ fget BIST_STAT_BUSY 0 t = 1 ∧ (∃ x ∈ t.due, s.time < x.1 ∧ isBistEnd x.2 = true)
        ∧ onlyFields [(BIST_CTRL_KIND, 0), (BIST_CTRL_TARGET, 0), (BIST_STAT_BUSY, 0), (JTAG_STAT_ACTIVE, 0)] s t)))
    ∧ (may = true → held BIST_CTRL_KIND.id 0 s = 1 → s.test.bist.isSome = true → fbit BIST_STAT_BUSY 0 s = true →
      (∀ w, w = bistRefused k g { fset BIST_STAT_BUSY 0 0 s with test := { s.test with bist := none } } →
        completes (.bist k g) s (fun t => t = { s with regs := t.regs, hits := t.hits, due := t.due, fresh := t.fresh, test := t.test }
          ∧ fget BIST_STAT_CFG_REFUSED 0 t = 1 ∧ fget BIST_STAT_REFUSE_WHY 0 t = 1 ∧ fbit BIST_STAT_BUSY 0 t = true
          ∧ (w = 0 → t.test.bist = some (g.val, k.val) ∧ ∀ x ∈ t.due, isBistEnd x.2 = true → x.1 = s.time + 1 + bistDots k g)
          ∧ (w ≠ 0 → t.test.bist = s.test.bist ∧ t.due = s.due)))))
  ∧ (∀ (k : Fin 2) (g : Fin 64), completes (.bistCtrlGo k g) s (fun t => fget BIST_CTRL_KIND 0 t = k ∧ fget BIST_CTRL_TARGET 0 t = g))
  ∧ (∀ x : BitVec 64, s.test.bist = none → ignored (.bistEnd x) s)
  ∧ (∀ x : BitVec 64, ∀ e ∈ s.test.bist, ∀ a : Nat, a = 0x11810000 + 16 * (64 * e.2 + e.1) → s.cfs = [] → s.poison = [] → s.soft = [] → ∀ r : Nat,
    r = (if (mget (a + 8) s).getLsbD 0 = false then 3 else if mread a 8 s = x.toNat then 1 else 2) → e.1 < 52 → e.2 < 2 → (e.2 = 0 ∨ e.1 < 4) →
    completes (.bistEnd x) s (fun t => t.test.bist = none ∧ fget BIST_SIG_LO_SIG 0 t = x.toNat % 2 ^ 32 ∧ fget BIST_SIG_HI_SIG 0 t = x.toNat / 2 ^ 32
      ∧ fget BIST_STAT_RESULT 0 t = r ∧ fget BIST_STAT_DONE 0 t = 1 ∧ fget BIST_STAT_BUSY 0 t = 0
      ∧ onlyFields [(BIST_SIG_LO_SIG, 0), (BIST_SIG_HI_SIG, 0), (BIST_STAT_RESULT, 0), (BIST_STAT_DONE, 0), (BIST_STAT_BUSY, 0)] s t
      ∧ (if r = 2 then reported 0x1E2 0 0 s t else t.flt = s.flt) ∧ t.pos = s.pos
      ∧ (e.2 = 0 → e.1 < 4 → cpu e.1 t = Cpu.init) ∧ (e.2 = 0 → t.mem = s.mem)
      ∧ (e.2 = 1 → ∀ b, mget b t = if 0x47800000 + 0x1000 * e.1 ≤ b ∧ b < 0x47801000 + 0x1000 * e.1 then 0 else mget b s)))
  ∧ (∀ c : BitVec 256, ∀ e ∈ [(Instr.extest c, JtagIr.extest), (.clamp, .clamp), (.highz, .highz)],
    completes e.1 s (fun t => t = { s with regs := t.regs, hits := t.hits, test := t.test } ∧ t.test.bist = s.test.bist
      ∧ (allStopped s = true → t.test.ir = e.2 ∧ fget JTAG_STAT_ACTIVE 0 t = 1 ∧ onlyFields [(JTAG_STAT_ACTIVE, 0)] s t
          ∧ t.test.cells = (if e.2 = .extest then c.toNat else s.test.cells) ∧ ∀ l p, gatePin l p t = false)
      ∧ (allStopped s = false → t.test = { s.test with ir := .bypass, dr := 0 } ∧ fget JTAG_STAT_ACTIVE 0 t = 0 ∧ fget JTAG_STAT_REFUSED 0 t = 1
          ∧ onlyFields [(JTAG_STAT_ACTIVE, 0), (JTAG_STAT_REFUSED, 0)] s t)))
  ∧ (∀ c : BitVec 256, ∀ e ∈ [(Instr.idcode, JtagIr.idcode, (match s.part with | .pl9648 => 0x19648BC7 | .pl9624 => 0x19624BC7)), (.uid, .uid, Config.dieNumber.toNat),
      (.bypass, .bypass, 0), (.samplePreload c, .sample, boundary s), (.bistres, .bistres, fget BIST_SIG_LO_SIG 0 s + 2 ^ 32 * fget BIST_SIG_HI_SIG 0 s
        + 2 ^ 64 * (2 ^ 16 * fget BIST_STAT_REFUSE_WHY 0 s + 2 ^ 8 * fget BIST_STAT_RESULT 0 s + 4 * fget BIST_STAT_CFG_REFUSED 0 s
          + 2 * fget BIST_STAT_DONE 0 s + fget BIST_STAT_BUSY 0 s))],
    completes e.1 s (fun t => t = { s with regs := t.regs, test := { s.test with ir := e.2.1, dr := e.2.2, cells := if e.2.1 = .sample then c.toNat else s.test.cells } }
      ∧ onlyFields [(JTAG_STAT_ACTIVE, 0)] s t ∧ fget JTAG_STAT_ACTIVE 0 t = if e.2.1 = .bypass ∨ e.2.1 = .idcode then 0 else 1))
  ∧ (∀ d : BitVec 72, ∀ v : Nat, v = d.toNat → ∀ a : Nat, a = v % 2 ^ 32 → ∀ k : Cap, k = slotCap JTAG_CAP_CAP 0 s →
    (v.testBit 65 = false → completes (.memacc d) s (fun t => t = { s with regs := t.regs, test := { s.test with ir := .memacc, dr := v } }
      ∧ onlyFields [(JTAG_STAT_ACTIVE, 0)] s t))
    ∧ (v.testBit 65 = true → (capCheck k [if v.testBit 64 then permST else permLD] a 4 (v.testBit 64)).isSome = true → completes (.memacc d) s (fun t =>
      t = { s with regs := t.regs, hits := t.hits, test := { s.test with ir := .memacc, dr := v } } ∧ fget JTAG_STAT_REFUSED 0 t = 1
      ∧ onlyFields [(JTAG_STAT_ACTIVE, 0), (JTAG_STAT_REFUSED, 0)] s t))
    ∧ (v.testBit 65 = true → (capCheck k [if v.testBit 64 then permST else permLD] a 4 (v.testBit 64)).isSome = false → 0x20000000 ≤ a → a + 4 ≤ 0x20800000 →
      a % 4 = 0 → s.poison = [] → s.soft = [] →
      (v.testBit 64 = true → completes (.memacc d) s (fun t => t.test = { s.test with ir := .memacc, dr := v } ∧ mread a 4 t = v / 2 ^ 32 % 2 ^ 32
        ∧ onlyFields [(JTAG_STAT_ACTIVE, 0)] s t ∧ ∀ b, (b < a ∨ a + 4 ≤ b) → mget b t = mget b s))
      ∧ (v.testBit 64 = false → s.valid.contains (a - a % 256) = true → completes (.memacc d) s (fun t =>
        t = { s with regs := t.regs, test := { s.test with ir := .memacc, dr := v - v / 2 ^ 32 % 2 ^ 32 * 2 ^ 32 + mread a 4 s * 2 ^ 32 } }
        ∧ onlyFields [(JTAG_STAT_ACTIVE, 0)] s t))))

/-- Where the instruction begins: NOP, FENCER, FENCEW, FENCE only advance the PC. RET sets PC = g31, JMP and CALL add a displacement
to the address of the next instruction, CALL and JALR write that address to g31 and gD (nothing for g0), JR and JALR take PC from
gA; BZ and BNZ branch by gA, DBNZ first takes 1 from gA. CALL and JALR push the return stack of 8 on a host core, RET pops it; a
host core's next instruction issues at the cycle of R224, a loop core's after the count of R217. Nothing else changes: no other
register, FSTAT bit, memory byte or core. WAIT takes one cycle where a line, dispatch or fault event that ends it stands, waits
where none does, and lets a held-off line of its core rise. With a prefix each raises ILLEGAL, likewise with a register byte above
31 or non-zero unused fields. (07_instruction_set.md R188, R193, R194, R202, R209, 08_pipelines_ordering.md R217, R224, R232,
09_capabilities_exceptions.md R244, 10_events.md R267, R268, R270) -/
def Obligations.ControlInstructions : Prop :=
  ∀ (h : Hdr) (s : State), ∀ i : Nat, i = coreNum h.core → ∀ p : Nat, p = (cpu i s).pc → 
  (h.pre = [] →
    (∀ e ∈ ([(.coreNop h, {}, 0), (.coreFencer h, { alone := true }, 1), (.coreFencew h, { alone := true, drain := true }, 1),
        (.coreFence h, { alone := true, drain := true }, 1)] : List (Instr × Iss × Nat)), acts e.1 h e.2.1 1 1 e.2.2 1 s (fun _ k => k))
    ∧ (waitEnds i s = true → acts (.coreWait h) h { alone := true } 1 1 1 1 s (fun _ k => k))
    ∧ (waitEnds i s = false → (∀ q, q < 8 → fbit EVQ_CFG_IEN q s = true → queueNonempty q s = false) →
        carriesOut (.coreWait h) h { alone := true } 1 s (fun b t => (∀ q ∈ t.woke, q ∈ s.woke)
          ∧ executed h { alone := true } 1 b 1 1 1 (fun k => { k with state := .wait }) s s { t with woke := s.woke }))
    ∧ (waitEnds i s = false → i < 4 → evcRuns s = true → domainOn (15 + i) s = true → (∀ q, q < 8 → fbit EVQ_STAT_INT q s = false) →
        ∀ q, q < 8 → fget EVQ_CFG_CORE q s = i → fbit EVQ_CFG_IEN q s = true → queueNonempty q s = true →
        carriesOut (.coreWait h) h { alone := true } 1 s (fun _ t => fbit EVQ_STAT_INT q t = true ∧ fget EVQ_HOLD_COUNT q t = fget EVQ_CFG_HOLDOFF q s % 2 ^ 12
          ∧ (cpu i t).state = .run ∧ (cpu i t).pc = (p + 1) % 2 ^ 32 ∧ t.mem = s.mem))
    ∧ acts (.coreRet h) h { reads := [31], ctl := true } 1 4 (if (cpu i s).ras.head? = some (gGet i 31 s) then 2 else 6) 1 s
        (fun _ k => { k with pc := gGet i 31 s, ras := k.ras.tail })
    ∧ (∀ d : Word, ∀ r : Nat, r = (p + 5) % 2 ^ 32 →
        acts (.coreJmp h d) h { ctl := true } 5 3 2 1 s (fun _ k => { k with pc := (r + d.toNat) % 2 ^ 32 })
        ∧ acts (.coreCall h d) h { writes := [31], ctl := true } 5 3 2 1 s (fun _ k =>
            withG 31 r { k with pc := (r + d.toNat) % 2 ^ 32, ras := if isHost i then (r :: k.ras).take 8 else k.ras }))
    ∧ (∀ o : BitVec 16, optionX o = false →
        (fieldD o = 0 → fieldB o = 0 → acts (.coreJr h o) h { reads := [fieldA o], ctl := true } 3 4 6 1 s (fun _ k => { k with pc := gGet i (fieldA o) s }))
        ∧ acts (.coreJalr h o) h { reads := [fieldA o], writes := [fieldD o], ctl := true } 3 4 6 1 s (fun _ k =>
            withG (fieldD o) (p + 3) { k with pc := gGet i (fieldA o) s, ras := if isHost i then ((p + 3) % 2 ^ 32 :: k.ras).take 8 else k.ras }))
    ∧ (∀ r : Byte, r.toNat < 32 → ∀ d : Disp, ∀ n : Nat, n = 2 + dispBytes d →
        ∀ e ∈ ([(.coreBz h r d, decide (gGet i r.toNat s = 0)), (.coreBnz h r d, decide (gGet i r.toNat s ≠ 0))] : List (Instr × Bool)),
        if e.2 then acts e.1 h { reads := [r.toNat], ctl := true } n 3 (if dispVal d < 2 ^ 31 then 6 else 2) 1 s
          (fun _ k => { k with pc := ((p + n) % 2 ^ 32 + dispVal d) % 2 ^ 32 })
        else acts e.1 h { reads := [r.toNat], ctl := true } n 1 (if dispVal d < 2 ^ 31 then 0 else 6) 1 s (fun _ k => k))
    ∧ (∀ r : Byte, r.toNat < 32 → ∀ d : BitVec 16, ∀ v : Word, v = gWord i r.toNat s - 1 →
        acts (.coreDbnz h r d) h { reads := [r.toNat], writes := [r.toNat], ctl := true } 4 (if v = 0 then 1 else 3)
          (if v = 0 then (if d.msb then 6 else 0) else (if d.msb then 2 else 6)) 1 s (fun _ k =>
            withG r.toNat v.toNat (if v = 0 then k else { k with pc := (p + 4 + (d.signExtend 32).toNat) % 2 ^ 32 }))))
  ∧ (h.pre ≠ [] → ∀ e ∈ ([(.coreNop h, {}), (.coreWait h, { alone := true }), (.coreFencer h, { alone := true }),
      (.coreFencew h, { alone := true, drain := true }), (.coreFence h, { alone := true, drain := true }), (.coreRet h, { reads := [31], ctl := true }),
      (.coreEret h, { alone := true }), (.coreBrk h, { alone := true })] : List (Instr × Iss)), illegal e.1 h e.2 1 s)
  ∧ (∀ (r : Byte) (d : Disp), (h.pre ≠ [] ∨ 32 ≤ r.toNat) → ∀ e ∈ [Instr.coreBz h r d, .coreBnz h r d],
      illegal e h { reads := [r.toNat], ctl := true } (2 + dispBytes d) s)
  ∧ (∀ o : BitVec 16, (h.pre ≠ [] ∨ optionX o = true ∨ fieldD o ≠ 0 ∨ fieldB o ≠ 0) →
      illegal (.coreJr h o) h { reads := [fieldA o], ctl := true } 3 s)

/-- Every exception of a core whose c15 passes the push check writes the record of R246 below c15's top, narrows c15, loads c14 and PC
from VEC_CAP and VEC_PC, clears IE and takes the count of R249; with a c15 that fails it the refuge handler is entered for reason
1; in the refuge the core becomes LOCKED and is reported. So do TRAP and BRK with the address after them saved. EXCEPTION_ENTRY
takes what stands at the boundary: a held ARITH, then the fetch or opcode exception, a FAULT, an INTERRUPT; else it changes
nothing. REFUGE_ENTRY takes a refuge trap (reason 3) or a failed first fetch of a handler (reason 4). ERET restores c14, c15, IE
and PC from the record, in the refuge from the refuge record, and takes a held fault event up; a record whose c15 does not fit
raises CAP with detail 11, of which the address is free. EXC_CTRL takes IE and PRECISE and sets REF_LOCK only.
(09_capabilities_exceptions.md R244, R245, R246, R247, R248, R249, R250, R252, R254, R255, R256, R257) -/
def Obligations.ExceptionsAndReturn : Prop :=
  ∀ s : State,
  (∀ i, i < 52 → ∀ (e : Exc) (m : Bool) (pc b : Nat), e.cause < 2 ^ 8 → e.detail < 2 ^ 8 → 
    (∀ k ∈ plainKey i (pushAt i s) 64 s, canPush i k s → entered i k e m pc b s (takeException i e m pc b s))
    ∧ (fbit EXC_STAT_IN_REFUGE i s = false → m = false → ∀ d ∈ pushCheck i s, tookRefuge i 1 d (pushAt i s) 0 e pc b s (takeException i e m pc b s))
    ∧ (fbit EXC_STAT_IN_REFUGE i s = true → becameLocked i e pc s (takeException i e m pc b s)))
  ∧ (∀ h : Hdr, h.pre = [] → ∀ i : Nat, i = coreNum h.core → ∀ p : Nat, p = (cpu i s).pc → ∀ imm : Byte, 
    ∀ e ∈ ([(.coreTrap h imm, 2, ⟨8, 0, imm.toNat, 0⟩), (.coreBrk h, 1, ⟨7, 0, 0, 0⟩)] : List (Instr × Nat × Exc)),
      (fbit EXC_STAT_IN_REFUGE i s = false → ∀ k ∈ plainKey i (pushAt i s) 64 s, canPush i k s →
        carriesOut e.1 h { alone := true } e.2.1 s (fun b t => entered i k e.2.2 false ((p + e.2.1) % 2 ^ 32) b s t))
      ∧ (fbit EXC_STAT_IN_REFUGE i s = true → carriesOut e.1 h { alone := true } e.2.1 s (fun _ t => becameLocked i e.2.2 ((p + e.2.1) % 2 ^ 32) s t)))
  ∧ (∀ core : CoreId, ∀ i : Nat, i = coreNum core → ∀ p : Nat, p = (cpu i s).pc → ∀ b : Nat, b = beginCycle i 0 {} s →
    (coreRuns i s = false → ignored (.exceptionEntry core true) s ∧ ignored (.exceptionEntry core false) s ∧ ignored (.refugeEntry core) s)
    ∧ (coreRuns i s = true → instWaits i b {} s = none →
      (∀ e ∈ waitingTrap i s, ∀ c ∈ [Instr.refugeEntry core, .exceptionEntry core false, .exceptionEntry core true],
        completes c s (fun t => tookRefuge i 3 0 0 ((e - 2 ^ 12) % 2 ^ 32) ⟨10, 0, e - 2 ^ 12, 0⟩ p b (dropFault i e s) t))
      ∧ (waitingTrap i s = none → (cpu i s).entry = true → fbit EXC_STAT_IN_REFUGE i s = false → ∀ d ∈ capCheck (cGet i 14 s) [permX] p 1 false,
          ∀ c ∈ [Instr.refugeEntry core, .exceptionEntry core false, .exceptionEntry core true],
          completes c s (fun t => tookRefuge i 4 0 0 0 ⟨2, d, 0, 14⟩ p b s t))
      ∧ (waitingTrap i s = none → ((cpu i s).entry = false ∨ capCheck (cGet i 14 s) [permX] p 1 false = none) → ignored (.refugeEntry core) s)
      ∧ (waitingTrap i s = none → (cpu i s).entry = false → (cpu i s).arith = [] → fbit EXC_STAT_IN_REFUGE i s = false →
          ∀ d ∈ capCheck (cGet i 14 s) [permX] p 1 false, ∀ k ∈ plainKey i (pushAt i s) 64 s, canPush i k s →
          completes (.exceptionEntry core false) s (fun t => entered i k ⟨2, d, 0, 14⟩ false p b s t))
      ∧ (waitingTrap i s = none → fetchFails i p 1 s = (none, s) → ∀ x : Bool,
        (∀ a ∈ (cpu i s).arith, (cpu i s).arith = [a] → i ≥ 4 → ∀ k ∈ plainKey i (pushAt i s) 64 s, canPush i k s → completes (.exceptionEntry core x) s (fun t =>
          entered i k ⟨6, 0, a.1, a.2.1⟩ true p (max b a.2.2) (setCpu i { cpu i s with arith := [] } s) t))
        ∧ ((cpu i s).arith = [] → ∀ k ∈ plainKey i (pushAt i s) 64 s, canPush i k s →
          ((x && undefinedAt i p s) = true → completes (.exceptionEntry core x) s (fun t => entered i k ⟨1, 0, 0, 0⟩ false p b s t))
          ∧ ((x && undefinedAt i p s) = false →
            (∀ e ∈ waitingFault i s, completes (.exceptionEntry core x) s (fun t => entered i k ⟨10, 0, e, 0⟩ false p b (dropFault i e s) t))
            ∧ (waitingFault i s = none → ∀ q ∈ waitingInterrupt i s, completes (.exceptionEntry core x) s (fun t => entered i k ⟨9, 0, q, 0⟩ false p b s t))))
        ∧ ((cpu i s).arith = [] → (x && undefinedAt i p s) = false → waitingFault i s = none → waitingInterrupt i s = none →
            ignored (.exceptionEntry core x) s))))
  ∧ (∀ h : Hdr, h.pre = [] → ∀ i : Nat, i = coreNum h.core → ∀ c : Cap, c = cGet i 15 s → memorySound s →
    (fbit EXC_STAT_IN_REFUGE i s = false → ∀ a : Nat, a = c.base + c.length → a % 16 = 0 → a + 64 ≤ 2 ^ 32 → ∀ k ∈ plainKey i a 64 s, coreTags i a s = true →
      (((capAt (k + 0x30) s).tag ∧ (capAt (k + 0x30) s).sealed = false ∧ (capAt (k + 0x30) s).kind = 0 ∧ c.kind = 0 ∧ (capAt (k + 0x30) s).base = c.base
          ∧ (capAt (k + 0x30) s).perms = c.perms ∧ (capAt (k + 0x30) s).length = c.length + 64) →
        carriesOut (.coreEret h) h { alone := true } 1 s (fun b t => onlyFields [(EXC_CTRL_IE, i)] s t ∧ fget EXC_CTRL_IE i t = mread k 4 s / 2 ^ 16 % 2
          ∧ executed h { alone := true } 1 b (6 + 4 * loadCount (loopPlace i a 16 s) a 16) (10 + hostCount a 64) 1
              (fun m => withC 15 (capAt (k + 0x30) s) (withC 14 (capAt (k + 0x20) s) { m with pc := mread (k + 4) 4 s })) { s with regs := t.regs } s t))
      ∧ (¬((capAt (k + 0x30) s).tag ∧ (capAt (k + 0x30) s).sealed = false ∧ (capAt (k + 0x30) s).kind = 0 ∧ c.kind = 0 ∧ (capAt (k + 0x30) s).base = c.base
          ∧ (capAt (k + 0x30) s).perms = c.perms ∧ (capAt (k + 0x30) s).length = c.length + 64) →
        begins h { alone := true } 1 s → ∀ b : Nat, b = beginCycle i h.wait { alone := true } s → exec (.coreEret h) s = .next (takeException i
          ⟨2, 11, (Config.capOpAddr s.fresh).toNat, 15⟩ false (cpu i s).pc b
          (advance i (((cpu i s).pc + 1) % 2 ^ 32) b { alone := true } { s with fresh := s.fresh + 1 }))))
    ∧ (fbit EXC_STAT_IN_REFUGE i s = true → ∀ k : Nat, k = refugeKey i + 0xF80 →
        carriesOut (.coreEret h) h { alone := true } 1 s (fun b t =>
          onlyFields [(EXC_CTRL_IE, i), (EXC_STAT_IN_REFUGE, i), (EXC_STAT_FAULT_PEND, i)] s t ∧ fget EXC_CTRL_IE i t = mread k 4 s / 2 ^ 16 % 2
          ∧ fget EXC_STAT_IN_REFUGE i t = 0 ∧ fget EXC_STAT_FAULT_PEND i t = (if (cpu i s).held.isSome then 0 else fget EXC_STAT_FAULT_PEND i s)
          ∧ executed h { alone := true } 1 b 18 (10 + hostLoad 0x47800000) 1 (fun m => withC 15 (capAt (k + 0x30) s) (withC 14 (capAt (k + 0x20) s)
              { m with pc := mread (k + 4) 4 s, held := none, faults := m.faults ++ m.held.toList })) { s with regs := t.regs } s t)))
  ∧ (∀ (n : Fin 64) (v : Word), if n.val < 4 ∨ (16 ≤ n.val ∧ n.val < 40) ∨ (48 ≤ n.val ∧ n.val < 52)
    then completes (.excCtrlWrite n v) s (fun t => t = { s with regs := t.regs, hits := t.hits }
      ∧ onlyFields [(EXC_CTRL_IE, n), (EXC_CTRL_PRECISE, n), (EXC_CTRL_REF_LOCK, n)] s t ∧ fget EXC_CTRL_IE n t = v.toNat % 2
      ∧ fget EXC_CTRL_PRECISE n t = v.toNat / 2 % 2 ∧ fget EXC_CTRL_REF_LOCK n t = if v.toNat.testBit 8 then 1 else fget EXC_CTRL_REF_LOCK n s)
    else ignored (.excCtrlWrite n v) s)

/-- Where the instruction begins, an ALU instruction writes to gD its operation on gA and the second source, ADDS and SUBS set SAT
where they clamp, a comparison writes 1 or 0, SEL writes gB where gA is not 0; g0 stays 0. A division gives the results and the
IDZ and IOV of R201; with the bit's trap enabled and PRECISE at 0 it writes its result and holds an ARITH exception, with PRECISE
at 1 raises it and writes none. MUL, MULU, MAC and MACU make MH:ML from the latest value, which lands at the end of cycle b + 2;
MFQ rounds and saturates what has landed, with field B as the fraction bits. MFS reads and MTS writes the special registers,
TICK_LO latching TICK_HI, FSTAT and FCTRL masked, MH and ML once every earlier result has landed. Cycles as in R217 and R223. The
rest of the device stays as it is. Prefixes, X = 1, a field B beside an ALU immediate, and fields that must be 0 raise ILLEGAL.
(07_instruction_set.md R187, R190, R191, R194, R198, R199, R200, R201, R202, R210, 08_pipelines_ordering.md R217, R223) -/
def Obligations.IntegerInstructions : Prop :=
  ∀ (h : Hdr) (s : State), ∀ i : Nat, i = coreNum h.core → ∀ p : Nat, p = (cpu i s).pc → ∀ o : BitVec 16, 
  (h.pre = [] → optionX o = false → ∀ D : Nat, D = fieldD o → ∀ A : Nat, A = fieldA o → ∀ B : Nat, B = fieldB o → ∀ a : Word, a = gWord i A s →
    (∀ src : Src, ∀ b : Word, b = srcWord i o src s → ∀ u : Iss, u = { reads := [A] ++ (if srcReg src then [B] else []), writes := [D] } →
      ((srcReg src || B == 0) = true →
        ∀ e ∈ ([(.coreAdd h o src, a + b, 0), (.coreSub h o src, a - b, 0), (.coreAnd h o src, a &&& b, 0), (.coreOr h o src, a ||| b, 0),
          (.coreXor h o src, a ^^^ b, 0), (.coreAndn h o src, a &&& ~~~b, 0), (.coreShl h o src, a <<< (b.toNat % 32), 0),
          (.coreShr h o src, a >>> (b.toNat % 32), 0), (.coreSar h o src, a.sshiftRight (b.toNat % 32), 0), (.coreRor h o src, a.rotateRight (b.toNat % 32), 0),
          (.coreAdds h o src, clamped (a.toInt + b.toInt)), (.coreSubs h o src, clamped (a.toInt - b.toInt)), (.coreMin h o src, if a.sle b then a else b, 0),
          (.coreMax h o src, if a.sle b then b else a, 0), (.coreMinu h o src, if a ≤ b then a else b, 0), (.coreMaxu h o src, if a ≤ b then b else a, 0)]
          : List (Instr × Word × Nat)), acts e.1 h u (1 + srcBytes src) 1 0 1 s (fun _ k => withG D e.2.1.toNat (flagged e.2.2 k)))
      ∧ (∀ e ∈ ([(.coreCeq h o src, a == b), (.coreCne h o src, a != b), (.coreClt h o src, a.slt b), (.coreCltu h o src, a.ult b),
          (.coreCle h o src, a.sle b), (.coreCleu h o src, a.ule b)] : List (Instr × Bool)),
          acts e.1 h u (1 + srcBytes src) 1 0 1 s (fun _ => withG D e.2.toNat)))
    ∧ (∀ b : Word, b = gWord i B s →
      acts (.coreSel h o) h { reads := [A, B], writes := [D] } 3 1 0 1 s (fun _ k => if a = 0 then k else withG D b.toNat k)
      ∧ (∀ e ∈ ([(.coreDiv h o, if b = 0 then (if a = 0 then 0 else if a.msb then 0x80000000#32 else 0x7FFFFFFF#32, 0x100)
              else if a = 0x80000000#32 ∧ b = 0xFFFFFFFF#32 then (0x7FFFFFFF#32, 0x200) else (a.sdiv b, 0)),
            (.coreDivu h o, if b = 0 then (if a = 0 then 0 else 0xFFFFFFFF#32, 0x100) else (a / b, 0)),
            (.coreRem h o, if b = 0 then (a, 0x100) else (a.srem b, 0)), (.coreRemu h o, if b = 0 then (a, 0x100) else (a % b, 0))]
          : List (Instr × Word × Nat)), ∀ u : Iss, u = { reads := [A, B], writes := [D], alone := true } →
          ((fbit EXC_CTRL_PRECISE i s = false ∨ e.2.2 &&& trapBits (cpu i s).fctrl = 0) → acts e.1 h u 3 34 18 18 s (fun c k =>
              arithHeld (isHost i) p e.2.2 c 18 (withG D e.2.1.toNat (flagged e.2.2 k))))
          ∧ (fbit EXC_CTRL_PRECISE i s = true → e.2.2 &&& trapBits (cpu i s).fctrl ≠ 0 → begins h u 3 s → ∀ c : Nat, c = beginCycle i h.wait u s →
            exec e.1 s = .next (takeException i ⟨6, 0, p, e.2.2⟩ false p c (raiseAt i e.2.2 (c + 17) (advance i ((p + 3) % 2 ^ 32) c u s)))))
      ∧ (D = 0 → ∀ e ∈ ([(.coreMul h o, fun _ => a.signExtend 64 * b.signExtend 64), (.coreMulu h o, fun _ => a.zeroExtend 64 * b.zeroExtend 64),
            (.coreMac h o, fun m => m + a.signExtend 64 * b.signExtend 64), (.coreMacu h o, fun m => m + a.zeroExtend 64 * b.zeroExtend 64)]
          : List (Instr × (BitVec 64 → BitVec 64))),
          acts e.1 h { reads := [A, B], mul := true } 3 1 0 3 s (fun c k =>
            { k with mac := (e.2 (BitVec.ofNat 64 k.mac)).toNat, flight := k.flight ++ [(c + 2, (e.2 (BitVec.ofNat 64 k.mac)).toNat)] })))
    ∧ (A = 0 → acts (.coreMfq h o) h { writes := [D] } 3 1 0 1 s (fun c k =>
        withG D (clamped (rounded B (BitVec.ofNat 64 (macSeen c (cpu i s))).toInt)).1.toNat
          (flagged (clamped (rounded B (BitVec.ofNat 64 (macSeen c (cpu i s))).toInt)).2 k)))
    ∧ (A ≤ 6 → acts (.coreMfs h o) h { writes := [D], alone := decide (5 ≤ A) } 3 (if 5 ≤ A then 2 else 1) (if 5 ≤ A then 1 else 0) 1 s (fun c k =>
        withG D ([macSeen c (cpu i s) % 2 ^ 32, macSeen c (cpu i s) / 2 ^ 32, k.fstat, k.fctrl, i, c % 2 ^ 32, k.tickHi].getD A 0)
          { k with tickHi := if A = 5 then c / 2 ^ 32 % 2 ^ 32 else k.tickHi }))
    ∧ (D ≤ 1 → ∀ u : Iss, u = { reads := [A], mul := true, alone := true } → carriesOut (.coreMts h o) h u 3 s (fun c t =>
        ∀ w : Nat, w = (cpu i s).flight.foldl (fun m e => if e.1 < c then m else max m (e.1 + 1 - c)) 0 →
        ∀ m : Nat, m = (if D = 0 then (cpu i s).mac / 2 ^ 32 * 2 ^ 32 + a.toNat else a.toNat * 2 ^ 32 + (cpu i s).mac % 2 ^ 32) →
        executed h u 3 c (1 + w) (1 + w) 1 (fun k => { k with mac := m, landed := m, flight := [] }) s s t))
    ∧ (D = 3 → acts (.coreMts h o) h { reads := [A], alone := true } 3 1 1 1 s (fun _ k => { k with fctrl := a.toNat &&& 0x7F07 }))
    ∧ (D = 2 → ∀ u : Iss, u = { reads := [A], alone := true } → carriesOut (.coreMts h o) h u 3 s (fun c t =>
        executed h u 3 c 1 1 1 (fun k => { k with fstat := (cpu i t).fstat }) s s t
        ∧ ((∀ e ∈ (cpu i s).sets, e.1 < c) → (cpu i t).fstat = a.toNat &&& 0x71F)
        ∧ (∀ e ∈ (cpu i s).sets, c ≤ e.1 → (cpu i t).fstat &&& e.2 = e.2))))
  ∧ (∀ src : Src, (h.pre ≠ [] ∨ optionX o = true ∨ (srcReg src = false ∧ fieldB o ≠ 0)) → ∀ u : Iss,
      u = { reads := [fieldA o] ++ (if srcReg src then [fieldB o] else []), writes := [fieldD o] } →
      illegal (.coreAdd h o src) h u (1 + srcBytes src) s ∧ illegal (.coreMaxu h o src) h u (1 + srcBytes src) s)
  ∧ ((h.pre ≠ [] ∨ optionX o = true ∨ fieldD o ≠ 0) → illegal (.coreMac h o) h { reads := [fieldA o, fieldB o], mul := true } 3 s)
  ∧ ((h.pre ≠ [] ∨ optionX o = true ∨ 6 < fieldA o) → illegal (.coreMfs h o) h { writes := [fieldD o], alone := decide (5 ≤ fieldA o) } 3 s)
  ∧ ((h.pre ≠ [] ∨ optionX o = true ∨ 3 < fieldD o) → illegal (.coreMts h o) h { reads := [fieldA o], mul := decide (fieldD o ≤ 1), alone := true } 3 s)

/-- Where the instruction begins with prefixes of its row, its capability passes and the bytes lie in one memory without error: LD
writes the little-endian element to gD, or to a pair, LDS its sign-extended value; ST and STI write the element to exactly those
bytes, clearing the tags there, and change no register; SWAP, CAS, AMADD, AMAND and AMOR write the old element to gD and to memory
the new one, CAS only where memory equals gD, at a naturally aligned address. The address is gA + gB times the element size +
displacement modulo 2^32, of an atomic gA + displacement. A loop core's store to general SRAM is performed when it retires, one to
a register block of its cluster or region in the dot of cycle b + 2 or b + 4. A failed check raises CAP, a misaligned atomic or
ordered access ALIGN, an unmapped address DATAERR; a host core's store there is dropped and reported. Other prefixes, X = 1 and
bad pairs raise ILLEGAL. (07_instruction_set.md R195, R196, R197, R212, 08_pipelines_ordering.md R216, R218, R220, R225, R230,
R232, 09_capabilities_exceptions.md R238, 11_memory_dma.md R282) -/
def Obligations.LoadsAndStores : Prop :=
  ∀ (h : Hdr) (s : State), memorySound s → ∀ i : Nat, i = coreNum h.core → ∀ p : Nat, p = (cpu i s).pc → ∀ o : BitVec 16, ∀ D : Nat, D = fieldD o →
  ∀ A : Nat, A = fieldA o → ∀ B : Nat, B = fieldB o → ∀ n : Nat, n = elemSize h.pre → ∀ q : Nat, q = authReg h.pre →
  ∀ rs : List Nat, rs = (if n = 8 then [D, D + 1] else [D]) →
  (∀ d : Disp, ∀ a : Nat, a = (gGet i A s + gGet i B s * n + dispVal d) % 2 ^ 32 → ∀ ord : Bool, ord = (hasOrder h.pre && a % n != 0) →
    (optionX o = false → (n = 8 → pairField D = true) →
      (∀ u : Iss, u = memIss h.pre [A, B] rs → ∀ f : Option Nat, f = capCheck (cGet i q s) [permLD] a n false →
        ∀ e ∈ (if prefixesOk allowLoad h.pre then [(Instr.coreLd h o d, false)] else []) ++ (if prefixesOk allowLoadSigned h.pre then [(.coreLds h o d, true)] else []),
        (f = none → ord = false → ∀ k ∈ plainKey i a n s, acts e.1 h u (3 + dispBytes d) (loadCount (loopPlace i a n s) a n) 0 (hostCount a n) s (fun _ c =>
            if n = 8 then withG (D + 1) (mread (k + 4) 4 s) (withG D (mread k 4 s) c)
            else withG D (if e.2 then ((BitVec.ofNat (8 * n) (mread k n s)).signExtend 32).toNat else mread k n s) c))
        ∧ (∀ x ∈ f, traps e.1 h u (3 + dispBytes d) p ⟨2, x, a, q⟩ s)
        ∧ (f = none → ord = true → traps e.1 h u (3 + dispBytes d) p ⟨3, 0, a, 0⟩ s)
        ∧ (f = none → ord = false → (if isHost i then regionOf a = .hole else loopPlace i a n s = .nothing) → 
            traps e.1 h u (3 + dispBytes d) p ⟨5, 0, a, 0⟩ s))
      ∧ (∀ v : Nat, v = (if n = 8 then gGet i D s + 2 ^ 32 * gGet i (D + 1) s else gGet i D s % 2 ^ (8 * n)) → ∀ w : Word, 
        ∀ e ∈ (if prefixesOk allowStore h.pre then [(Instr.coreSt h o d, memIss h.pre ([A, B] ++ rs) [], 3 + dispBytes d, a, v)] else [])
          ++ (if prefixesOk allowStoreImm h.pre && D == 0 then [(.coreSti h o (BitVec.ofNat 16 (dispVal d)) w, memIss h.pre [A, B] [], 9,
              (gGet i A s + gGet i B s * n + ((BitVec.ofNat 16 (dispVal d)).signExtend 32).toNat) % 2 ^ 32, w.toNat % 2 ^ (8 * n))] else []),
        ∀ a : Nat, a = e.2.2.2.1 → ∀ f : Option Nat, f = capCheck (cGet i q s) [permST] a n true → ∀ ord : Bool, ord = (hasOrder h.pre && a % n != 0) →
        (∀ x ∈ f, traps e.1 h e.2.1 e.2.2.1 p ⟨2, x, a, q⟩ s)
        ∧ (f = none → ord = true → traps e.1 h e.2.1 e.2.2.1 p ⟨3, 0, a, 0⟩ s)
        ∧ (f = none → ord = false →
          (∀ k ∈ plainKey i a n s, carriesOut e.1 h e.2.1 e.2.2.1 s (fun b t => stored k n e.2.2.2.2 s t
            ∧ executed h e.2.1 e.2.2.1 b (storeCount (loopPlace i a n s) a n) 0 1 (fun c => c) (memoryOf t s) s t))
          ∧ (isHost i = true → regionOf a = .hole → carriesOut e.1 h e.2.1 e.2.2.1 s (fun b t => reported 0x10A (memAddr (flat a s)) (memInfo (flat a s) i) s t
            ∧ executed h e.2.1 e.2.2.1 b 0 0 1 (fun c => c) { s with flt := t.flt } s t))
          ∧ (isHost i = false → loopPlace i a n s = .nothing → traps e.1 h e.2.1 e.2.2.1 p ⟨5, 0, a, 0⟩ s)
          ∧ (isHost i = false → (loopPlace i a n s = .sram ∨ (n ≤ 4 ∧ a % n = 0)) →
            ∀ r ∈ [(Place.sram, storeCount .sram a n - 1, storeCount .sram a n), (.own, 2, storeCount .own a n), (.region, 4, storeCount .region a n)],
            loopPlace i a n s = r.1 → carriesOut e.1 h e.2.1 e.2.2.1 s (fun b t =>
              t.due = s.due ++ [(s.time + ((b + r.2.1) / 2 - s.time), .store i a n e.2.2.2.2 false)]
              ∧ executed h e.2.1 e.2.2.1 b r.2.2 0 1 (fun c => c) { s with due := t.due } s t)))))
    ∧ ((prefixesOk allowLoad h.pre = false ∨ optionX o = true ∨ (n = 8 ∧ pairField D = false)) →
        illegal (.coreLd h o d) h (memIss h.pre [A, B] rs) (3 + dispBytes d) s)
    ∧ ((prefixesOk allowStore h.pre = false ∨ optionX o = true ∨ (n = 8 ∧ pairField D = false)) →
        illegal (.coreSt h o d) h (memIss h.pre ([A, B] ++ rs) []) (3 + dispBytes d) s))
  ∧ (∀ d : BitVec 16, ∀ a : Nat, a = (gGet i A s + (d.signExtend 32).toNat) % 2 ^ 32 → prefixesOk allowAtomic h.pre = true → optionX o = false →
    ∀ f : Option Nat, f = capCheck (cGet i q s) [permLD, permST] a n true → ∀ u : Iss, u = { memIss h.pre [A, B, D] [D] with alone := true } →
    ∀ e ∈ ([(.coreSwap h o d, fun _ _ b => some b), (.coreCas h o d, fun v c b => if v = c then some b else none), (.coreAmadd h o d, fun v _ b => some (v + b)),
        (.coreAmand h o d, fun v _ b => some (v &&& b)), (.coreAmor h o d, fun v _ b => some (v ||| b))] : List (Instr × (Nat → Nat → Nat → Option Nat))),
    (∀ x ∈ f, traps e.1 h u 5 p ⟨2, x, a, q⟩ s) ∧ (f = none → a % n ≠ 0 → traps e.1 h u 5 p ⟨3, 0, a, 0⟩ s)
    ∧ (f = none → a % n = 0 → ∀ k ∈ (if isHost i = false ∧ loopPlace i a n s = .sram then some a else plainKey i a n s),
        (isHost i = true ∨ 0x20000 ≤ a) → ∀ v : Nat, v = mread k n s →
        carriesOut e.1 h u 5 s (fun b t => (∀ w ∈ e.2 v (gGet i D s % 2 ^ (8 * n)) (gGet i B s % 2 ^ (8 * n)), stored k n w s t)
          ∧ (e.2 v (gGet i D s % 2 ^ (8 * n)) (gGet i B s % 2 ^ (8 * n)) = none → t = { s with cpus := t.cpus })
          ∧ executed h u 5 b (atomicCount (loopPlace i a n s) a n) 1 (hostCount a n + 4) (fun c => withG D v c) (memoryOf t s) s t)))

/-- Where the instruction begins and its capability covers the bit: BSET, BCLR, BNOT and BST change one bit, BLD writes it to gD, BTAS
writes the old value to gD and sets the bit; BMOV, BAND, BOR and BXOR change the bit at gA by the bit at gB, inverted with X = 1;
BLDW and BSTW move 32 bits from gA's multiple of 32 on, bit 0 at the lowest address. A bit of the core's own RAM, an event flag or
a software output changes at once, a soft level or pulse acts in the dot after, and an instruction that reads and writes a soft
level starts from what a write of the dot has given it. No other bit, register, memory byte or core changes; cycles as in R217 and
R223. A bit that the check or its place refuses raises BITSPACE with its address and changes nothing; prefixes other than a
capability, an imm32 above 20 bits and X = 1 on the one-bit forms raise ILLEGAL. (07_instruction_set.md R192, R193, R205,
08_pipelines_ordering.md R217, R223, 05_fabric_timers_image.md R134, 09_capabilities_exceptions.md R238, R244, R246) -/
def Obligations.BitInstructions : Prop :=
  ∀ (h : Hdr) (s : State), ∀ i : Nat, i = coreNum h.core → ∀ p : Nat, p = (cpu i s).pc → ∀ o : BitVec 16, ∀ D : Nat, D = fieldD o → ∀ A : Nat, A = fieldA o →
  ∀ B : Nat, B = fieldB o → ∀ c : Cap, c = cGet i (authReg h.pre) s → ∀ src : Nat, src = gGet i B s % 2 ^ 20 →
  (s.due = [] → bitOld i (bitPlace src) s = bitRead i (bitPlace src) s)
  ∧ (∀ k, k < 64 → ∀ v : Bool, bitOld i (.soft k) { s with due := [(s.time + 1, .bit (if k < 32 then FAB_SOFT0_LEVEL else FAB_SOFT1_LEVEL) 0 (k % 32) v)] } = (v || meterSoft k s)) ∧
  (∀ at_ : BitAddr, ∀ z : Nat, z = (match at_ with | .reg => 3 | .imm _ => 7) → ∀ ok : Bool, ok = (match at_ with | .reg => true | .imm v => decide (v.toNat < 2 ^ 20)) →
    ∀ b : Nat, b = (match at_ with | .reg => gGet i A s % 2 ^ 20 | .imm v => v.toNat) → ∀ old : Bool, old = bitOld i (bitPlace b) s →
    ∀ now : Bool, now = bitRead i (bitPlace b) s →
    ∀ e ∈ ([(.coreBset h o at_, [permST], some true, none, 1, 2), (.coreBclr h o at_, [permST], some false, none, 1, 2),
        (.coreBnot h o at_, [permLD, permST], some (!old), none, 1, 2), (.coreBld h o at_, [permLD], none, some now, 2, 4),
        (.coreBst h o at_, [permST], some ((gGet i A s).testBit 0), none, 1, 2), (.coreBtas h o at_, [permLD, permST], some true, some old, 2, 6)]
      : List (Instr × List Nat × Option Bool × Option Bool × Nat × Nat)),
    ∀ u : Iss, u = memIss h.pre (if at_ = .reg ∨ e.1 = .coreBst h o at_ then [A] else []) (if e.2.2.2.1.isSome then [D] else []) →
    (prefixesOk allowCap h.pre = true → optionX o = false → ok = true →
      (∀ d ∈ bitRefused c e.2.1 b 1, traps e.1 h u z p ⟨4, d, b, 0⟩ s)
      ∧ (bitRefused c e.2.1 b 1 = none → carriesOut e.1 h u z s (fun m t =>
          (∀ v ∈ e.2.2.1, bitTaken b v s t) ∧ (e.2.2.1 = none → t = { s with cpus := t.cpus })
          ∧ executed h u z m (if b < 2 ^ 16 then e.2.2.2.2.1 else e.2.2.2.2.2) 0 (if e.2.2.2.1.isSome then 3 else 1) (fun k =>
              (match e.2.2.1 with | some v => withBit b v | none => fun k => k) (match e.2.2.2.1 with | some v => withG D v.toNat k | none => k)) t s t)))
    ∧ ((prefixesOk allowCap h.pre = false ∨ optionX o = true ∨ ok = false) → illegal e.1 h u z s))
  ∧ (prefixesOk allowCap h.pre = true → ∀ a : Nat, a = gGet i A s % 2 ^ 20 → ∀ x : Bool, x = bitOld i (bitPlace a) s →
    ∀ y : Bool, y = (bitRead i (bitPlace src) s != optionX o) → ∀ u : Iss, u = memIss h.pre [A, B] [] →
    ∀ e ∈ ([(.coreBmov h o, [permST], y), (.coreBand h o, [permLD, permST], x && y), (.coreBor h o, [permLD, permST], x || y),
        (.coreBxor h o, [permLD, permST], x != y)] : List (Instr × List Nat × Bool)),
    (∀ d ∈ bitRefused c e.2.1 a 1, traps e.1 h u 3 p ⟨4, d, a, 0⟩ s)
    ∧ (bitRefused c e.2.1 a 1 = none → ∀ d ∈ bitRefused c [permLD] src 1, traps e.1 h u 3 p ⟨4, d, src, 0⟩ s)
    ∧ (bitRefused c e.2.1 a 1 = none → bitRefused c [permLD] src 1 = none → carriesOut e.1 h u 3 s (fun m t => bitTaken a e.2.2 s t
        ∧ executed h u 3 m (if a < 2 ^ 16 ∧ src < 2 ^ 16 then 2 else 6) 0 1 (withBit a e.2.2) t s t)))
  ∧ (prefixesOk allowCap h.pre = true → optionX o = false → ∀ b : Nat, b = gGet i A s % 2 ^ 20 / 32 * 32 → ∀ v : Nat, v = gGet i D s →
    (∀ d ∈ bitRefused c [permLD] b 32, traps (.coreBldw h o) h (memIss h.pre [A] [D]) 3 p ⟨4, d, b, 0⟩ s)
    ∧ (bitRefused c [permLD] b 32 = none → acts (.coreBldw h o) h (memIss h.pre [A] [D]) 3 (if b < 2 ^ 16 then 2 else 4) 0 3 s (fun _ =>
        withG D ((List.range 32).foldl (fun m j => m + if bitRead i (bitPlace (b + j)) s then 2 ^ j else 0) 0)))
    ∧ (∀ d ∈ bitRefused c [permST] b 32, traps (.coreBstw h o) h (memIss h.pre [A, D] []) 3 p ⟨4, d, b, 0⟩ s)
    ∧ (bitRefused c [permST] b 32 = none → carriesOut (.coreBstw h o) h (memIss h.pre [A, D] []) 3 s (fun m t =>
        executed h (memIss h.pre [A, D] []) 3 m (if b < 2 ^ 16 then 1 else 2) 0 1 (fun k => { k with bitRam := (cpu i t).bitRam }) t s t
        ∧ t = { s with cpus := t.cpus, due := t.due, fab := { s.fab with flags := t.fab.flags }, regs := t.regs, hits := t.hits }
        ∧ (b < 2 ^ 16 → t = { s with cpus := t.cpus } ∧ (∀ w, w ≠ b / 32 → sget 0 (cpu i t).bitRam w = sget 0 (cpu i s).bitRam w)
            ∧ ∀ j, j < 32 → (sget 0 (cpu i t).bitRam (b / 32)).testBit j = v.testBit j)
        ∧ (0x48000 ≤ b → b < 0x50000 → t = { s with cpus := t.cpus, fab := t.fab } ∧ (∀ j, j < 32 → (b - 0x48000 + j ∈ t.fab.flags ↔ v.testBit j = true))
            ∧ ∀ e ∈ s.fab.flags ++ t.fab.flags, (e < b - 0x48000 ∨ b - 0x48000 + 32 ≤ e) → (e ∈ t.fab.flags ↔ e ∈ s.fab.flags))
        ∧ (0x41600 ≤ b → b < 0x41640 → t = { s with cpus := t.cpus, due := s.due ++ (List.range 32).map (fun j =>
            (s.time + 1, .bit (if b < 0x41620 then FAB_SOFT0_LEVEL else FAB_SOFT1_LEVEL) 0 j (v.testBit j))) })
        ∧ (0x50100 ≤ b → onlyFields [(PAD_OUT_OUT, (b - 0x50100) / 32)] s t ∧ fget PAD_OUT_OUT ((b - 0x50100) / 32) t % 2 ^ 32 = v))))

/-- Where the instruction begins with gB = 0 it only uses its base count. Otherwise, without the repeat prefix or with one element
left, it processes one: BCPY copies the element at gA to gD, BFIL writes gA (a pair for 64 bits) at gD, TSRCH compares the element
at gA with gD's low bits and leaves gA and gB where they match, BCRC feeds its bytes into the CRC-32C state gD; the addresses step
by the element size, down with X = 1, and gB falls by 1; no other byte or register changes. A failing check raises CAP for that
element with the saved PC at the first prefix and the registers as before it. With REP and the sweep at a stand BFIL fills gB
elements at once; while the sweep runs, an instruction that is not over goes on in a later dot. Wrong prefixes, a used nibble
where none is used and bad pairs raise ILLEGAL. (07_instruction_set.md R193, R206, R207, R208, 08_pipelines_ordering.md R217,
R219, R226, 09_capabilities_exceptions.md R238, R244, 00_scope.md R17, 05_fabric_timers_image.md R150) -/
def Obligations.BlockInstructions : Prop :=
  ∀ (h : Hdr) (s : State), memorySound s → ∀ i : Nat, i = coreNum h.core → ∀ p : Nat, p = (cpu i s).pc → ∀ o : BitVec 16, ∀ D : Nat, D = fieldD o →
  ∀ A : Nat, A = fieldA o → ∀ B : Nat, B = fieldB o → ∀ n : Nat, n = elemSize h.pre → ∀ (y : Byte) (stop : Option Nat),
  ∀ src : Nat, src = y.toNat % 16 → ∀ dst : Nat, dst = y.toNat / 16 → ∀ a : Nat, a = gGet i A s → ∀ d : Nat, d = gGet i D s → ∀ left : Nat, left = gGet i B s →
  ∀ dx : Nat, dx = (if optionX o then 2 ^ 32 - n else n) → ∀ base : Nat, base = (if isHost i then 4 else 3) → ∀ wide : Nat, wide = (if n = 8 then 1 else 0) →
  ∀ rs : Nat → List Nat, rs = (fun k => [B, A] ++ (if k = 1 ∧ n = 8 then [A + 1] else []) ++ [D] ++ (if k = 2 ∧ n = 8 then [D + 1] else [])
    ++ [32 + src, 32 + dst]) → ∀ u : Nat → Iss, u = (fun k => { reads := rs k, writes := [B, A, D], mem := true, alone := true }) →
  ∀ read : Option Nat, read = capCheck (cGet i src s) [permLD] a n false → ∀ write : Option Nat, write = capCheck (cGet i dst s) [permST] d n true →
  (∀ e ∈ ([(.coreBcpy h o y stop, 0, true), (.coreBfil h o y stop, 1, src == 0 && (n != 8 || pairField A)), (.coreTsrch h o y stop, 2, dst == 0 && (n != 8 || pairField D)),
      (.coreBcrc h o y stop, 3, dst == 0)] : List (Instr × Nat × Bool)),
    ((prefixesOk allowBlock h.pre && e.2.2) = false → illegal e.1 h (u e.2.1) 4 s)
    ∧ ((prefixesOk allowBlock h.pre && e.2.2) = true →
      (left = 0 → acts e.1 h (u e.2.1) 4 base base 1 s (fun _ k => k))
      ∧ (left ≠ 0 → ∀ x ∈ (if e.2.1 = 1 then none else read), carriesOut e.1 h (u e.2.1) 4 s (fun b t => t = takeException i ⟨2, x, a, src⟩ false p b
          (advance i p b (u e.2.1) s)))
      ∧ (left ≠ 0 → e.2.1 = 1 → ∀ x ∈ write, carriesOut e.1 h (u e.2.1) 4 s (fun b t => t = takeException i ⟨2, x, d, dst⟩ false p b (advance i p b (u e.2.1) s)))
      ∧ (running s = true → carriesOut e.1 h (u e.2.1) 4 s (fun _ t => ∀ r ∈ (cpu i t).block,
          r.o = o ∧ r.k = y ∧ r.size = n ∧ r.rep = true ∧ r.pc = p ∧ r.next = (p + h.pre.length + 4) % 2 ^ 32 ∧ s.time < r.at_ / cyclesPerDot i))))
  ∧ (prefixesOk allowBlock h.pre = true → left ≠ 0 → (hasRepeat h.pre = true → left = 1 ∧ B ≠ A ∧ B ≠ D) →
    (∀ ka ∈ plainKey i a n s, ∀ kd ∈ plainKey i d n s, read = none → write = none → carriesOut (.coreBcpy h o y stop) h (u 0) 4 s (fun b t =>
        stored kd n (mread ka n s) s t ∧ executed h (u 0) 4 b (base + 2 + wide) (base + 1 + wide) 1
          (fun k => stepG B (2 ^ 32 - 1) (stepG A dx (stepG D dx k))) (memoryOf t s) s t))
    ∧ (∀ kd ∈ plainKey i d n s, write = none → src = 0 → (n = 8 → pairField A = true) → carriesOut (.coreBfil h o y stop) h (u 1) 4 s (fun b t =>
        stored kd n (if n = 8 then a + 2 ^ 32 * gGet i (A + 1) s else a) s t ∧ executed h (u 1) 4 b (base + 1 + wide) (base + 1 + wide) 1
          (fun k => stepG B (2 ^ 32 - 1) (stepG D dx k)) (memoryOf t s) s t))
    ∧ (∀ ka ∈ plainKey i a n s, read = none → dst = 0 →
      ((n = 8 → pairField D = true) → acts (.coreTsrch h o y stop) h (u 2) 4 (base + 2 + wide) (base + 1 + wide) 1 s (fun _ k =>
          if mread ka n s = (if n = 8 then d + 2 ^ 32 * gGet i (D + 1) s else d % 2 ^ (8 * n)) then k else stepG B (2 ^ 32 - 1) (stepG A dx k)))
      ∧ acts (.coreBcrc h o y stop) h (u 3) 4 (base + 1 + wide) (base + 1 + wide) 1 s (fun _ k =>
          stepG B (2 ^ 32 - 1) (stepG A dx (withG D (crcBytes (mread ka n s) n d) k)))))
  ∧ (prefixesOk allowBlock h.pre = true → hasRepeat h.pre = true → running s = false → optionX o = false → src = 0 → (n = 8 → pairField A = true) →
    [B, D].all (fun r => r != 0 && r != A && (n != 8 || r != A + 1)) = true → B ≠ D → left ≠ 0 →
    ∀ kd ∈ plainKey i d (n * left) s, capCheck (cGet i dst s) [permST] d (n * left) true = none → 
    carriesOut (.coreBfil h o y stop) h (u 1) 4 s (fun b t =>
      (∀ j, j < left → mread (kd + n * j) n t = (if n = 8 then a + 2 ^ 32 * gGet i (A + 1) s else a % 2 ^ (8 * n)))
      ∧ (∀ x ∈ (s.mem ++ t.mem).map Prod.fst, (x < kd ∨ kd + n * left ≤ x) → mget x t = mget x s)
      ∧ executed h (u 1) 4 b (base + (1 + wide) * left) (base + (1 + wide) * left) 1
          (fun k => withG B 0 (withG D (d + n * left) k)) (memoryOf t s) s t))

/-- Where the instruction begins: CLD loads 16 bytes with their tag, cleared without LDC; CST stores cD with its tag, a tagged one
only with STC into a tag-bearing memory. CMOV copies, CCLR clears the tag, CBASE, CLEN and CPERM narrow an unsealed capability,
CSEAL seals with the type at cB's base, CUNSEAL unseals where cB covers the type; CGET reads a field, of which a number above 5
gives a free value; CJR takes c14 = cA and PC = gB where cA lets the core execute there. c14 is written by CJR alone. A failed
check raises CAP with the detail and the register checked, of which no access gives the address (free), and changes nothing.
Cycles as in R217, R218 and R223; everything else stays. Prefixes, X = 1 and a capability field above 15 raise ILLEGAL.
(07_instruction_set.md R193, R196, 08_pipelines_ordering.md R217, R218, R223, R224, 09_capabilities_exceptions.md R235, R237,
R238, R239, R240, R241) -/
def Obligations.CapabilityInstructions : Prop :=
  ∀ (h : Hdr) (s : State), ∀ i : Nat, i = coreNum h.core → ∀ p : Nat, p = (cpu i s).pc → ∀ o : BitVec 16, ∀ D : Nat, D = fieldD o →
  ∀ A : Nat, A = fieldA o → ∀ B : Nat, B = fieldB o → ∀ a : Cap, a = cGet i A s → ∀ b : Cap, b = cGet i B s → ∀ g : Nat, g = gGet i B s →
  (h.pre = [] → optionX o = false → A < 16 → 
    (D < 16 → ∀ e ∈ ([(.coreCmov h o, [32 + A], 1, 0, 1, .inl a), (.coreCclr h o, [32 + D], 1, 0, 1, .inl { cGet i D s with tag := false }),
        (.coreCbase h o, [32 + A, B], 2, 0, 1, if a.sealed then .inr (2, A) else if a.length < g then .inr (8, A) else .inl (a.withRange (a.base + g) (a.length - g))),
        (.coreClen h o, [32 + A, B], 2, 0, 1, if a.sealed then .inr (2, A) else if a.length < g then .inr (8, A) else .inl (a.withRange a.base g)),
        (.coreCperm h o, [32 + A, B], 2, 0, 1, if a.sealed then .inr (2, A) else .inl (a.withPerms (a.perms &&& (g % 2 ^ 16))))]
        ++ (if B < 16 then [(.coreCseal h o, [32 + A, 32 + B], 3, 1, 2, if a.sealed then .inr (2, A) else if !b.tag then .inr (1, B) else if b.sealed then .inr (2, B)
            else if b.kind ≠ 2 then .inr (3, B) else if !b.has permSEAL then .inr (4, B) else if b.length = 0 then .inr (5, B) else .inl (a.withSeal b.base true a.tag)),
          (.coreCunseal h o, [32 + A, 32 + B], 3, 1, 2, if !a.sealed then .inr (9, A) else if !b.tag then .inr (1, B) else if b.sealed then .inr (2, B)
            else if b.kind ≠ 2 then .inr (3, B) else if !b.has permUNSEAL then .inr (4, B) else if !(decide (b.base ≤ a.otype) && decide (a.otype + 1 ≤ b.base + b.length))
            then .inr (9, B) else .inl (a.withSeal 0 false (a.tag && b.tag)))] else [])
        : List (Instr × List Nat × Nat × Nat × Nat × (Cap ⊕ (Nat × Nat)))),
      ∀ u : Iss, u = { reads := e.2.1, writes := [32 + D], alone := decide (e.2.2.2.1 ≠ 0) } →
      (D ≠ 14 → ∀ k ∈ e.2.2.2.2.2.getLeft?, acts e.1 h u 3 e.2.2.1 e.2.2.2.1 e.2.2.2.2.1 s (fun _ => withC D k))
      ∧ (∀ f ∈ (if D = 14 then some (10, 14) else e.2.2.2.2.2.getRight?), capTraps e.1 h u 3 f.1 f.2 s))
    ∧ ((∀ v ∈ [a.base, min a.length (2 ^ 32 - 1), a.perms, a.otype, a.tag.toNat, a.sealed.toNat][B]?,
          acts (.coreCget h o) h { reads := [32 + A], writes := [D] } 3 1 0 1 s (fun _ => withG D v))
      ∧ (5 < B → carriesOut (.coreCget h o) h { reads := [32 + A], writes := [D] } 3 s (fun m t =>
          executed h { reads := [32 + A], writes := [D] } 3 m 1 0 1 (withG D (Config.cgetOther s.fresh).toNat) { s with fresh := s.fresh + 1 } s t)))
    ∧ (∀ u : Iss, u = { reads := [32 + A, B], ctl := true, alone := true } →
        ∀ d : Option Nat, d = (if !a.tag then some 1 else if a.sealed then some 2 else if a.kind ≠ 0 then some 3 else if !a.has permX then some 4
          else if !(decide (a.base ≤ g) && decide (g + 1 ≤ a.base + a.length)) then some 5 else none) →
        (d = none → acts (.coreCjr h o) h u 3 5 7 1 s (fun _ k => withC 14 a { k with pc := g }))
        ∧ ∀ x ∈ d, capTraps (.coreCjr h o) h u 3 x A s))
  ∧ (∀ d : BitVec 16, optionX o = false → D < 16 → ∀ z : Nat, z = (gGet i A s + g * 16 + (d.signExtend 32).toNat) % 2 ^ 32 → ∀ q : Nat, q = authReg h.pre →
    ∀ k : Cap, k = cGet i D s → 
    (prefixesOk allowCapLoad h.pre = true → ∀ u : Iss, u = memIss h.pre [A, B] [32 + D] → ∀ f : Option Nat, f = capCheck (cGet i q s) [permLD] z 16 false →
      (D = 14 → capTraps (.coreCld h o d) h u 5 10 14 s)
      ∧ (D ≠ 14 → ∀ x ∈ f, traps (.coreCld h o d) h u 5 p ⟨2, x, z, q⟩ s)
      ∧ (D ≠ 14 → f = none → z % 16 ≠ 0 → traps (.coreCld h o d) h u 5 p ⟨3, 0, z, 0⟩ s)
      ∧ (D ≠ 14 → f = none → z % 16 = 0 → memorySound s → ∀ y ∈ plainKey i z 16 s, ∀ tag : Bool, tag = (s.tags.contains (y / 16) && coreTags i z s) →
          acts (.coreCld h o d) h u 5 (loadCount (loopPlace i z 16 s) z 16) 0 (hostCount z 16) s (fun _ => withC D
            ⟨BitVec.ofNat 128 (mread y 16 s), tag && (cGet i q s).has permLDC⟩)))
    ∧ (prefixesOk allowCapStore h.pre = true → ∀ u : Iss, u = memIss h.pre [A, B, 32 + D] [] →
      ∀ f : Option Nat, f = capCheck (cGet i q s) (if k.tag then [permST, permSTC] else [permST]) z 16 true →
      ∀ bare : Bool, bare = (k.tag && !coreTags i (z / 16 * 16) s) →
      (∀ x ∈ f, traps (.coreCst h o d) h u 5 p ⟨2, x, z, q⟩ s)
      ∧ (f = none → bare = true → traps (.coreCst h o d) h u 5 p ⟨2, 7, z, q⟩ s)
      ∧ (f = none → bare = false → z % 16 ≠ 0 → traps (.coreCst h o d) h u 5 p ⟨3, 0, z, 0⟩ s)
      ∧ (f = none → bare = false → z % 16 = 0 → memorySound s →
        (∀ y ∈ plainKey i z 16 s, carriesOut (.coreCst h o d) h u 5 s (fun m t => mread y 16 t = k.v.toNat ∧ memoryElsewhere y 16 s t
          ∧ (y / 16 ∈ t.tags ↔ k.tag = true) ∧ executed h u 5 m (storeCount (loopPlace i z 16 s) z 16) 0 1 (fun c => c) (memoryOf t s) s t))
        ∧ (isHost i = false → loopPlace i z 16 s = .sram → carriesOut (.coreCst h o d) h u 5 s (fun m t =>
            t.due = s.due ++ [(s.time + ((m + 43) / 2 - s.time), .store i z 16 k.v.toNat k.tag)]
            ∧ executed h u 5 m 44 0 1 (fun c => c) { s with due := t.due } s t)))))
  ∧ ((h.pre ≠ [] ∨ optionX o = true ∨ 16 ≤ D ∨ 16 ≤ A) → illegal (.coreCmov h o) h { reads := [32 + A], writes := [32 + D] } 3 s
      ∧ illegal (.coreCseal h o) h { reads := [32 + A, 32 + B], writes := [32 + D], alone := true } 3 s)
  ∧ ((h.pre ≠ [] ∨ optionX o = true ∨ 16 ≤ A) → illegal (.coreCget h o) h { reads := [32 + A], writes := [D] } 3 s
      ∧ illegal (.coreCjr h o) h { reads := [32 + A, B], ctl := true, alone := true } 3 s)
  ∧ (∀ d : BitVec 16, (prefixesOk allowCapStore h.pre = false ∨ optionX o = true ∨ 16 ≤ D) → illegal (.coreCst h o d) h (memIss h.pre [A, B, 32 + D] []) 5 s)

/-- Where the instruction begins, it writes to gD the result that the model's rounding gives for gA, gB or imm32 (for FMA gD too)
under FCTRL's rounding mode and FTZ, ORs the bits that it raises into FSTAT and takes the cycles of R217 and R223, of FMIN and
FMAX free ones; FNEG and FABS change the sign bit alone and raise nothing. A bit whose trap is enabled holds an ARITH exception
with PRECISE at 0, and with PRECISE at 1 raises it in place of the result. Nothing else changes. Of the results themselves: an
operation with a NaN gives 0x7FC00000, with NV for a signalling one; an integer of magnitude up to 2^24 converts to binary32 and
back exactly in every mode; FMIN and FMAX order -0 below +0; a comparison with a NaN is false, and FCUN true. Prefixes, X = 1 and
a non-zero field B of FSQRT raise ILLEGAL. (07_instruction_set.md R190, R191, R194, R203, R204, R211, 08_pipelines_ordering.md
R217, R223, 09_capabilities_exceptions.md R250, R251) -/
def Obligations.FloatInstructions : Prop :=
  (∀ (h : Hdr) (s : State), ∀ i : Nat, i = coreNum h.core → ∀ p : Nat, p = (cpu i s).pc → ∀ o : BitVec 16, ∀ D : Nat, D = fieldD o →
    ∀ A : Nat, A = fieldA o → ∀ B : Nat, B = fieldB o → ∀ imm : Word, ∀ rm : Nat, rm = (cpu i s).fctrl % 4 → ∀ z : Bool, z = (cpu i s).fctrl.testBit 2 →
    ∀ a : Nat, a = gGet i A s → ∀ b : Nat, b = gGet i B s → ∀ x : F32, x = unpack z a → ∀ y : F32, y = unpack z b → ∀ w : F32, w = unpack z imm.toNat →
    ∀ n : Int, n = (BitVec.ofNat 32 a).toInt → ∀ alone : Bool, alone = (fbit EXC_CTRL_PRECISE i s && bits (cpu i s).fctrl 12 8 != 0) →
    (∀ e ∈ ([(.coreFadd h o, [A, B], 3, 4, false, addF rm z x y), (.coreFsub h o, [A, B], 3, 4, false, addF rm z x y.negate),
        (.coreFmul h o, [A, B], 3, 4, false, mulF rm z x y), (.coreFdiv h o, [A, B], 18, 14, true, divF rm z x y),
        (.coreFmin h o, [A, B], 1 + Config.fminLoop, 1 + Config.fminHost, false, minmaxF false (flushed z a) (flushed z b) x y),
        (.coreFmax h o, [A, B], 1 + Config.fminLoop, 1 + Config.fminHost, false, minmaxF true (flushed z a) (flushed z b) x y),
        (.coreFma h o, [A, B, D], 4, 5, false, fmaF rm z (unpack z (gGet i D s)) x y), (.coreFceq h o, [A, B], 1, 2, false, fceqF x y),
        (.coreFclt h o, [A, B], 1, 2, false, fcltF false x y), (.coreFcle h o, [A, B], 1, 2, false, fcltF true x y), (.coreFcun h o, [A, B], 1, 2, false, fcunF x y),
        (.coreFcvtif h o, [A], 3, 4, false, fromInt rm z n 0), (.coreFcvtfi h o, [A], 3, 4, false, toInt rm x 0), (.coreFcvtqf h o, [A], 3, 4, false, fromInt rm z n B),
        (.coreFcvtfq h o, [A], 3, 4, false, toInt rm x B), (.coreFaddi h o imm, [A], 3, 4, false, addF rm z x w), (.coreFmuli h o imm, [A], 3, 4, false, mulF rm z x w),
        (.coreFclti h o imm, [A], 1, 2, false, fcltF false x w)] ++ (if B = 0 then [(.coreFsqrt h o, [A], 18, 16, true, sqrtF rm z x)] else [])
      : List (Instr × List Nat × Nat × Nat × Bool × FRes)),
      ∀ size : Nat, size = (match e.1 with | .coreFaddi _ _ _ => 8 | .coreFmuli _ _ _ => 8 | .coreFclti _ _ _ => 8 | _ => 4) →
      ∀ u : Iss, u = { reads := e.2.1, writes := [D], f32 := true, alone := e.2.2.2.2.1 || alone } →
      (h.pre = [] → optionX o = false → (fbit EXC_CTRL_PRECISE i s = false ∨ e.2.2.2.2.2.f &&& trapBits (cpu i s).fctrl = 0) →
        acts e.1 h u size e.2.2.1 (if e.2.2.2.2.1 || alone then e.2.2.2.1 else 0) e.2.2.2.1 s (fun c k =>
          arithHeld (isHost i) p e.2.2.2.2.2.f c e.2.2.2.1 (withG D e.2.2.2.2.2.v (flagged e.2.2.2.2.2.f k))))
      ∧ (h.pre = [] → optionX o = false → fbit EXC_CTRL_PRECISE i s = true → e.2.2.2.2.2.f &&& trapBits (cpu i s).fctrl ≠ 0 → begins h u size s →
        ∀ c : Nat, c = beginCycle i h.wait u s → exec e.1 s = .next (takeException i ⟨6, 0, p, e.2.2.2.2.2.f⟩ false p c
          (raiseAt i e.2.2.2.2.2.f (c + e.2.2.2.1 - 1) (advance i ((p + size) % 2 ^ 32) c u s))))
      ∧ ((h.pre ≠ [] ∨ optionX o = true) → illegal e.1 h u size s))
    ∧ (B ≠ 0 → illegal (.coreFsqrt h o) h { reads := [A], writes := [D], f32 := true, alone := true } 4 s)
    ∧ (∀ e ∈ ([(.coreFneg h o, a ^^^ 2 ^ 31), (.coreFabs h o, a % 2 ^ 31)] : List (Instr × Nat)), ∀ u : Iss, u = { reads := [A], writes := [D], f32 := true } →
      (h.pre = [] → optionX o = false → acts e.1 h u 4 1 0 1 s (fun _ => withG D e.2)) ∧ ((h.pre ≠ [] ∨ optionX o = true) → illegal e.1 h u 4 s)))
  ∧ (∀ (rm : Nat) (z : Bool) (a b d : Word), ∀ nan : Word → Bool, nan = (fun w => w.toNat / 2 ^ 23 % 2 ^ 8 == 255 && w.toNat % 2 ^ 23 != 0) →
    ∀ quiet : Word → Bool, quiet = (fun w => w.toNat.testBit 22) → ∀ x : F32, x = unpack z a.toNat → ∀ y : F32, y = unpack z b.toNat →
    ((nan a || nan b) = true → (∀ r ∈ [addF rm z x y, mulF rm z x y, divF rm z x y], r.v = 0x7FC00000
        ∧ r.f = if (nan a && !quiet a) || (nan b && !quiet b) then 16 else 0)
      ∧ (fceqF x y).v = 0 ∧ (fcltF false x y) = ⟨0, 16⟩ ∧ (fcltF true x y) = ⟨0, 16⟩ ∧ (fcunF x y).v = 1 ∧ (fmaF rm z (unpack z d.toNat) x y).v = 0x7FC00000)
    ∧ ((nan a || nan b) = false → (fcunF x y) = ⟨0, 0⟩))
  ∧ (∀ (rm : Nat) (z : Bool) (v : Int), -(2 ^ 24) ≤ v → v ≤ 2 ^ 24 → (fromInt rm z v 0).f = 0 ∧ toInt rm (unpack z (fromInt rm z v 0).v) 0 = ⟨(BitVec.ofInt 32 v).toNat, 0⟩)
  ∧ (∀ z : Bool, minmaxF false 0 0x80000000 (unpack z 0) (unpack z 0x80000000) = ⟨0x80000000, 0⟩ ∧ minmaxF true 0x80000000 0 (unpack z 0x80000000) (unpack z 0) = ⟨0, 0⟩)
end

