-- ==== Sys2Proof/Laws/Sparse.lean ====
section
/-! SUPPORT. The laws of sparse tables: what a change reads as, and that every change keeps the canonical form. -/

namespace Sys2Proof.Machine

variable {α : Type}

@[simp] theorem sget_nil (d : α) (k : Nat) : sget d [] k = d := rfl

theorem sget_sput_same (d : α) (k : Nat) (v : α) (m : SMap α) : sget d (sput k v m) k = v := by
  induction m with
  | nil => simp [sput, sget]
  | cons e m ih =>
    obtain ⟨j, w⟩ := e
    unfold sput
    split
    · simp [sget]
    · split
      · simp [sget]
      · rename_i h; simp [sget, h, ih]

theorem sget_sput_other (d : α) {k j : Nat} (h : k ≠ j) (v : α) (m : SMap α) : sget d (sput k v m) j = sget d m j := by
  induction m with
  | nil => simp [sput, sget, h]
  | cons e m ih =>
    obtain ⟨i, w⟩ := e
    unfold sput
    split
    · simp [sget, h]
    · split
      · rename_i h'; subst h'; simp [sget, h]
      · simp [sget, ih]

theorem sget_sdel_same (d : α) (k : Nat) (m : SMap α) : sget d (sdel k m) k = d := by
  induction m with
  | nil => simp [sdel]
  | cons e m ih =>
    obtain ⟨j, w⟩ := e
    unfold sdel
    split
    · exact ih
    · rename_i h; simp [sget, h, ih]

theorem sget_sdel_other (d : α) {k j : Nat} (h : k ≠ j) (m : SMap α) : sget d (sdel k m) j = sget d m j := by
  induction m with
  | nil => simp [sdel]
  | cons e m ih =>
    obtain ⟨i, w⟩ := e
    unfold sdel
    split
    · rename_i h'; subst h'; simp [sget, h, ih]
    · simp [sget, ih]

variable [DecidableEq α]

/-- A table reads what was put at a number. -/
@[simp] theorem sget_sset_same (d : α) (m : SMap α) (k : Nat) (v : α) : sget d (sset d m k v) k = v := by
  unfold sset
  split
  · rename_i h; rw [h, sget_sdel_same]
  · exact sget_sput_same d k v m

/-- A change at one number leaves every other number alone. -/
theorem sget_sset_other (d : α) {e : α} (m : SMap α) {k j : Nat} (h : k ≠ j) (v : α) :
    sget d (sset e m k v) j = sget d m j := by
  unfold sset
  split
  · exact sget_sdel_other d h m
  · exact sget_sput_other d h v m

/-- A table after a change, at any number. -/
theorem sget_sset (d : α) (m : SMap α) (k j : Nat) (v : α) :
    sget d (sset d m k v) j = if k = j then v else sget d m j := by
  split
  · rename_i h; subst h; simp
  · rename_i h; exact sget_sset_other d m h v

/-! ### The canonical form -/

omit [DecidableEq α] in
theorem sorted_cons (j : Nat) (w : α) (m : SMap α) :
    sorted ((j, w) :: m) = true ↔ (∀ e ∈ m, j < e.1) ∧ sorted m = true := by
  simp [sorted]

omit [DecidableEq α] in
theorem mem_sput {k : Nat} {v : α} {m : SMap α} {e : Nat × α} (h : e ∈ sput k v m) : e = (k, v) ∨ e ∈ m := by
  induction m with
  | nil => simpa [sput] using h
  | cons x m ih =>
    obtain ⟨j, w⟩ := x
    unfold sput at h
    split at h
    · simpa using h
    · split at h
      · rcases List.mem_cons.mp h with h | h
        · exact .inl h
        · exact .inr (List.mem_cons_of_mem _ h)
      · rcases List.mem_cons.mp h with h | h
        · exact .inr (h ▸ List.mem_cons_self)
        · rcases ih h with h | h
          · exact .inl h
          · exact .inr (List.mem_cons_of_mem _ h)

omit [DecidableEq α] in
theorem mem_sdel {k : Nat} {m : SMap α} {e : Nat × α} (h : e ∈ sdel k m) : e ∈ m := by
  induction m with
  | nil => simp [sdel] at h
  | cons x m ih =>
    obtain ⟨j, w⟩ := x
    unfold sdel at h
    split at h
    · exact List.mem_cons_of_mem _ (ih h)
    · rcases List.mem_cons.mp h with h | h
      · exact h ▸ List.mem_cons_self
      · exact List.mem_cons_of_mem _ (ih h)

omit [DecidableEq α] in
theorem sorted_sput (k : Nat) (v : α) {m : SMap α} (h : sorted m = true) : sorted (sput k v m) = true := by
  induction m with
  | nil => simp [sput, sorted]
  | cons x m ih =>
    obtain ⟨j, w⟩ := x
    obtain ⟨h1, h2⟩ := (sorted_cons j w m).mp h
    unfold sput
    split
    · rename_i hk
      refine (sorted_cons _ _ _).mpr ⟨fun e he => ?_, h⟩
      rcases List.mem_cons.mp he with he | he
      · subst he; exact hk
      · exact lt_trans hk (h1 e he)
    · split
      · rename_i hk; subst hk; exact (sorted_cons _ _ _).mpr ⟨h1, h2⟩
      · refine (sorted_cons _ _ _).mpr ⟨fun e he => ?_, ih h2⟩
        rcases mem_sput he with he | he
        · subst he; show j < k; omega
        · exact h1 e he

omit [DecidableEq α] in
theorem sorted_sdel (k : Nat) {m : SMap α} (h : sorted m = true) : sorted (sdel k m) = true := by
  induction m with
  | nil => simp [sdel, sorted]
  | cons x m ih =>
    obtain ⟨j, w⟩ := x
    obtain ⟨h1, h2⟩ := (sorted_cons j w m).mp h
    unfold sdel
    split
    · exact ih h2
    · exact (sorted_cons _ _ _).mpr ⟨fun e he => h1 e (mem_sdel he), ih h2⟩

omit [DecidableEq α] in
theorem sorted_filter (p : Nat × α → Bool) {m : SMap α} (h : sorted m = true) : sorted (m.filter p) = true := by
  induction m with
  | nil => simp [sorted]
  | cons x m ih =>
    obtain ⟨j, w⟩ := x
    obtain ⟨h1, h2⟩ := (sorted_cons j w m).mp h
    rw [List.filter_cons]
    split
    · exact (sorted_cons _ _ _).mpr ⟨fun e he => h1 e (List.mem_filter.mp he).1, ih h2⟩
    · exact ih h2

theorem canonical_iff (d : α) (m : SMap α) : canonical d m = true ↔ sorted m = true ∧ ∀ e ∈ m, e.2 ≠ d := by
  simp [canonical]

theorem canonical_nil (d : α) : canonical d ([] : SMap α) = true := by simp [canonical, sorted]

/-- A change keeps the canonical form. -/
theorem canonical_sset (d : α) (k : Nat) (v : α) {m : SMap α} (h : canonical d m = true) : canonical d (sset d m k v) = true := by
  obtain ⟨h1, h2⟩ := (canonical_iff d m).mp h
  unfold sset
  split
  · exact (canonical_iff _ _).mpr ⟨sorted_sdel k h1, fun e he => h2 e (mem_sdel he)⟩
  · rename_i hv
    refine (canonical_iff _ _).mpr ⟨sorted_sput k v h1, fun e he => ?_⟩
    rcases mem_sput he with he | he
    · subst he; exact hv
    · exact h2 e he

theorem canonical_filter (d : α) (p : Nat × α → Bool) {m : SMap α} (h : canonical d m = true) : canonical d (m.filter p) = true := by
  obtain ⟨h1, h2⟩ := (canonical_iff d m).mp h
  exact (canonical_iff _ _).mpr ⟨sorted_filter p h1, fun e he => h2 e (List.mem_filter.mp he).1⟩

end Sys2Proof.Machine
end

