-- ==== Sys2Proof/Laws/State.lean ====
section
/-! SUPPORT. What each operation of Ops.lean leaves alone, one lemma per field of the state, and what fields, memory and context words
read after it. -/

namespace Sys2Proof.Machine

open Sys2Proof

variable (s : State)

theorem mark_field {α : Type} (i u m : Nat) (f : State → α) (h : ∀ l, f { s with hits := l } = f s) : f (mark i u m s) = f s := by
  unfold mark; split
  · exact h _
  · rfl

theorem fsetBit_field {α : Type} (F : Fld) (u i : Nat) (b : Bool) (f : State → α)
    (h : ∀ r l, f { s with regs := r, hits := l } = f s) : f (fsetBit F u i b s) = f s := by
  unfold fsetBit mark; split
  · split
    · exact h _ _
    · exact h _ s.hits
  · exact h _ s.hits

/-! ### fset -/

@[simp] theorem fset_part (F : Fld) (u v : Nat) : (fset F u v s).part = s.part := rfl
@[simp] theorem fset_tscreen (F : Fld) (u v : Nat) : (fset F u v s).tscreen = s.tscreen := rfl
@[simp] theorem fset_mem (F : Fld) (u v : Nat) : (fset F u v s).mem = s.mem := rfl
@[simp] theorem fset_tags (F : Fld) (u v : Nat) : (fset F u v s).tags = s.tags := rfl
@[simp] theorem fset_poison (F : Fld) (u v : Nat) : (fset F u v s).poison = s.poison := rfl
@[simp] theorem fset_soft (F : Fld) (u v : Nat) : (fset F u v s).soft = s.soft := rfl
@[simp] theorem fset_valid (F : Fld) (u v : Nat) : (fset F u v s).valid = s.valid := rfl
@[simp] theorem fset_time (F : Fld) (u v : Nat) : (fset F u v s).time = s.time := rfl
@[simp] theorem fset_pos (F : Fld) (u v : Nat) : (fset F u v s).pos = s.pos := rfl
@[simp] theorem fset_due (F : Fld) (u v : Nat) : (fset F u v s).due = s.due := rfl
@[simp] theorem fset_fresh (F : Fld) (u v : Nat) : (fset F u v s).fresh = s.fresh := rfl
@[simp] theorem fset_resp (F : Fld) (u v : Nat) : (fset F u v s).resp = s.resp := rfl
@[simp] theorem fset_swp (F : Fld) (u v : Nat) : (fset F u v s).swp = s.swp := rfl
@[simp] theorem fset_legs (F : Fld) (u v : Nat) : (fset F u v s).legs = s.legs := rfl
@[simp] theorem fset_startq (F : Fld) (u v : Nat) : (fset F u v s).startq = s.startq := rfl
@[simp] theorem fset_trips (F : Fld) (u v : Nat) : (fset F u v s).trips = s.trips := rfl
@[simp] theorem fset_ctx (F : Fld) (u v : Nat) : (fset F u v s).ctx = s.ctx := rfl
@[simp] theorem fset_holds (F : Fld) (u v : Nat) : (fset F u v s).holds = s.holds := rfl
@[simp] theorem fset_ctx1 (F : Fld) (u v : Nat) : (fset F u v s).ctx1 = s.ctx1 := rfl
@[simp] theorem fset_ctx2 (F : Fld) (u v : Nat) : (fset F u v s).ctx2 = s.ctx2 := rfl
@[simp] theorem fset_regs1 (F : Fld) (u v : Nat) : (fset F u v s).regs1 = s.regs1 := rfl
@[simp] theorem fset_mem1 (F : Fld) (u v : Nat) : (fset F u v s).mem1 = s.mem1 := rfl
@[simp] theorem fset_regs0 (F : Fld) (u v : Nat) : (fset F u v s).regs0 = s.regs0 := rfl
@[simp] theorem fset_ctx0 (F : Fld) (u v : Nat) : (fset F u v s).ctx0 = s.ctx0 := rfl
@[simp] theorem fset_hits (F : Fld) (u v : Nat) : (fset F u v s).hits = s.hits := rfl
@[simp] theorem fset_cross (F : Fld) (u v : Nat) : (fset F u v s).cross = s.cross := rfl
@[simp] theorem fset_eng (F : Fld) (u v : Nat) : (fset F u v s).eng = s.eng := rfl
@[simp] theorem fset_spare (F : Fld) (u v : Nat) : (fset F u v s).spare = s.spare := rfl
@[simp] theorem fset_trace (F : Fld) (u v : Nat) : (fset F u v s).trace = s.trace := rfl
@[simp] theorem fset_sdf (F : Fld) (u v : Nat) : (fset F u v s).sdf = s.sdf := rfl
@[simp] theorem fset_clk (F : Fld) (u v : Nat) : (fset F u v s).clk = s.clk := rfl
@[simp] theorem fset_sar (F : Fld) (u v : Nat) : (fset F u v s).sar = s.sar := rfl
@[simp] theorem fset_cmp (F : Fld) (u v : Nat) : (fset F u v s).cmp = s.cmp := rfl
@[simp] theorem fset_qep (F : Fld) (u v : Nat) : (fset F u v s).qep = s.qep := rfl
@[simp] theorem fset_seu (F : Fld) (u v : Nat) : (fset F u v s).seu = s.seu := rfl
@[simp] theorem fset_fab (F : Fld) (u v : Nat) : (fset F u v s).fab = s.fab := rfl
@[simp] theorem fset_tmr (F : Fld) (u v : Nat) : (fset F u v s).tmr = s.tmr := rfl
@[simp] theorem fset_restart (F : Fld) (u v : Nat) : (fset F u v s).restart = s.restart := rfl
@[simp] theorem fset_img (F : Fld) (u v : Nat) : (fset F u v s).img = s.img := rfl
@[simp] theorem fset_pads (F : Fld) (u v : Nat) : (fset F u v s).pads = s.pads := rfl
@[simp] theorem fset_ports (F : Fld) (u v : Nat) : (fset F u v s).ports = s.ports := rfl
@[simp] theorem fset_link (F : Fld) (u v : Nat) : (fset F u v s).link = s.link := rfl
@[simp] theorem fset_flt (F : Fld) (u v : Nat) : (fset F u v s).flt = s.flt := rfl
@[simp] theorem fset_rct (F : Fld) (u v : Nat) : (fset F u v s).rct = s.rct := rfl
@[simp] theorem fset_evs (F : Fld) (u v : Nat) : (fset F u v s).evs = s.evs := rfl
@[simp] theorem fset_recs (F : Fld) (u v : Nat) : (fset F u v s).recs = s.recs := rfl
@[simp] theorem fset_recAt (F : Fld) (u v : Nat) : (fset F u v s).recAt = s.recAt := rfl
@[simp] theorem fset_woke (F : Fld) (u v : Nat) : (fset F u v s).woke = s.woke := rfl
@[simp] theorem fset_memh (F : Fld) (u v : Nat) : (fset F u v s).memh = s.memh := rfl
@[simp] theorem fset_dma (F : Fld) (u v : Nat) : (fset F u v s).dma = s.dma := rfl
@[simp] theorem fset_disp (F : Fld) (u v : Nat) : (fset F u v s).disp = s.disp := rfl
@[simp] theorem fset_scan (F : Fld) (u v : Nat) : (fset F u v s).scan = s.scan := rfl
@[simp] theorem fset_be (F : Fld) (u v : Nat) : (fset F u v s).be = s.be := rfl
@[simp] theorem fset_flx (F : Fld) (u v : Nat) : (fset F u v s).flx = s.flx := rfl
@[simp] theorem fset_dp (F : Fld) (u v : Nat) : (fset F u v s).dp = s.dp := rfl
@[simp] theorem fset_aud (F : Fld) (u v : Nat) : (fset F u v s).aud = s.aud := rfl
@[simp] theorem fset_cfs (F : Fld) (u v : Nat) : (fset F u v s).cfs = s.cfs := rfl
@[simp] theorem fset_cfsWait (F : Fld) (u v : Nat) : (fset F u v s).cfsWait = s.cfsWait := rfl
@[simp] theorem fset_cfsAt (F : Fld) (u v : Nat) : (fset F u v s).cfsAt = s.cfsAt := rfl
@[simp] theorem fset_nand (F : Fld) (u v : Nat) : (fset F u v s).nand = s.nand := rfl
@[simp] theorem fset_net (F : Fld) (u v : Nat) : (fset F u v s).net = s.net := rfl
@[simp] theorem fset_pwr (F : Fld) (u v : Nat) : (fset F u v s).pwr = s.pwr := rfl
@[simp] theorem fset_test (F : Fld) (u v : Nat) : (fset F u v s).test = s.test := rfl
@[simp] theorem fset_frameRep (F : Fld) (u v : Nat) : (fset F u v s).frameRep = s.frameRep := rfl
@[simp] theorem fset_cpus (F : Fld) (u v : Nat) : (fset F u v s).cpus = s.cpus := rfl
@[simp] theorem fset_lcd (F : Fld) (u v : Nat) : (fset F u v s).lcd = s.lcd := rfl
@[simp] theorem fset_pending (F : Fld) (u v : Nat) : (fset F u v s).pending = s.pending := rfl

/-! ### foff -/

@[simp] theorem foff_part (F : Fld) (u : Nat) : (foff F u s).part = s.part := rfl
@[simp] theorem foff_tscreen (F : Fld) (u : Nat) : (foff F u s).tscreen = s.tscreen := rfl
@[simp] theorem foff_mem (F : Fld) (u : Nat) : (foff F u s).mem = s.mem := rfl
@[simp] theorem foff_tags (F : Fld) (u : Nat) : (foff F u s).tags = s.tags := rfl
@[simp] theorem foff_poison (F : Fld) (u : Nat) : (foff F u s).poison = s.poison := rfl
@[simp] theorem foff_soft (F : Fld) (u : Nat) : (foff F u s).soft = s.soft := rfl
@[simp] theorem foff_valid (F : Fld) (u : Nat) : (foff F u s).valid = s.valid := rfl
@[simp] theorem foff_time (F : Fld) (u : Nat) : (foff F u s).time = s.time := rfl
@[simp] theorem foff_pos (F : Fld) (u : Nat) : (foff F u s).pos = s.pos := rfl
@[simp] theorem foff_due (F : Fld) (u : Nat) : (foff F u s).due = s.due := rfl
@[simp] theorem foff_fresh (F : Fld) (u : Nat) : (foff F u s).fresh = s.fresh := rfl
@[simp] theorem foff_resp (F : Fld) (u : Nat) : (foff F u s).resp = s.resp := rfl
@[simp] theorem foff_swp (F : Fld) (u : Nat) : (foff F u s).swp = s.swp := rfl
@[simp] theorem foff_legs (F : Fld) (u : Nat) : (foff F u s).legs = s.legs := rfl
@[simp] theorem foff_startq (F : Fld) (u : Nat) : (foff F u s).startq = s.startq := rfl
@[simp] theorem foff_trips (F : Fld) (u : Nat) : (foff F u s).trips = s.trips := rfl
@[simp] theorem foff_ctx (F : Fld) (u : Nat) : (foff F u s).ctx = s.ctx := rfl
@[simp] theorem foff_holds (F : Fld) (u : Nat) : (foff F u s).holds = s.holds := rfl
@[simp] theorem foff_ctx1 (F : Fld) (u : Nat) : (foff F u s).ctx1 = s.ctx1 := rfl
@[simp] theorem foff_ctx2 (F : Fld) (u : Nat) : (foff F u s).ctx2 = s.ctx2 := rfl
@[simp] theorem foff_regs1 (F : Fld) (u : Nat) : (foff F u s).regs1 = s.regs1 := rfl
@[simp] theorem foff_mem1 (F : Fld) (u : Nat) : (foff F u s).mem1 = s.mem1 := rfl
@[simp] theorem foff_regs0 (F : Fld) (u : Nat) : (foff F u s).regs0 = s.regs0 := rfl
@[simp] theorem foff_ctx0 (F : Fld) (u : Nat) : (foff F u s).ctx0 = s.ctx0 := rfl
@[simp] theorem foff_hits (F : Fld) (u : Nat) : (foff F u s).hits = s.hits := rfl
@[simp] theorem foff_cross (F : Fld) (u : Nat) : (foff F u s).cross = s.cross := rfl
@[simp] theorem foff_eng (F : Fld) (u : Nat) : (foff F u s).eng = s.eng := rfl
@[simp] theorem foff_spare (F : Fld) (u : Nat) : (foff F u s).spare = s.spare := rfl
@[simp] theorem foff_trace (F : Fld) (u : Nat) : (foff F u s).trace = s.trace := rfl
@[simp] theorem foff_sdf (F : Fld) (u : Nat) : (foff F u s).sdf = s.sdf := rfl
@[simp] theorem foff_clk (F : Fld) (u : Nat) : (foff F u s).clk = s.clk := rfl
@[simp] theorem foff_sar (F : Fld) (u : Nat) : (foff F u s).sar = s.sar := rfl
@[simp] theorem foff_cmp (F : Fld) (u : Nat) : (foff F u s).cmp = s.cmp := rfl
@[simp] theorem foff_qep (F : Fld) (u : Nat) : (foff F u s).qep = s.qep := rfl
@[simp] theorem foff_seu (F : Fld) (u : Nat) : (foff F u s).seu = s.seu := rfl
@[simp] theorem foff_fab (F : Fld) (u : Nat) : (foff F u s).fab = s.fab := rfl
@[simp] theorem foff_tmr (F : Fld) (u : Nat) : (foff F u s).tmr = s.tmr := rfl
@[simp] theorem foff_restart (F : Fld) (u : Nat) : (foff F u s).restart = s.restart := rfl
@[simp] theorem foff_img (F : Fld) (u : Nat) : (foff F u s).img = s.img := rfl
@[simp] theorem foff_pads (F : Fld) (u : Nat) : (foff F u s).pads = s.pads := rfl
@[simp] theorem foff_ports (F : Fld) (u : Nat) : (foff F u s).ports = s.ports := rfl
@[simp] theorem foff_link (F : Fld) (u : Nat) : (foff F u s).link = s.link := rfl
@[simp] theorem foff_flt (F : Fld) (u : Nat) : (foff F u s).flt = s.flt := rfl
@[simp] theorem foff_rct (F : Fld) (u : Nat) : (foff F u s).rct = s.rct := rfl
@[simp] theorem foff_evs (F : Fld) (u : Nat) : (foff F u s).evs = s.evs := rfl
@[simp] theorem foff_recs (F : Fld) (u : Nat) : (foff F u s).recs = s.recs := rfl
@[simp] theorem foff_recAt (F : Fld) (u : Nat) : (foff F u s).recAt = s.recAt := rfl
@[simp] theorem foff_woke (F : Fld) (u : Nat) : (foff F u s).woke = s.woke := rfl
@[simp] theorem foff_memh (F : Fld) (u : Nat) : (foff F u s).memh = s.memh := rfl
@[simp] theorem foff_dma (F : Fld) (u : Nat) : (foff F u s).dma = s.dma := rfl
@[simp] theorem foff_disp (F : Fld) (u : Nat) : (foff F u s).disp = s.disp := rfl
@[simp] theorem foff_scan (F : Fld) (u : Nat) : (foff F u s).scan = s.scan := rfl
@[simp] theorem foff_be (F : Fld) (u : Nat) : (foff F u s).be = s.be := rfl
@[simp] theorem foff_flx (F : Fld) (u : Nat) : (foff F u s).flx = s.flx := rfl
@[simp] theorem foff_dp (F : Fld) (u : Nat) : (foff F u s).dp = s.dp := rfl
@[simp] theorem foff_aud (F : Fld) (u : Nat) : (foff F u s).aud = s.aud := rfl
@[simp] theorem foff_cfs (F : Fld) (u : Nat) : (foff F u s).cfs = s.cfs := rfl
@[simp] theorem foff_cfsWait (F : Fld) (u : Nat) : (foff F u s).cfsWait = s.cfsWait := rfl
@[simp] theorem foff_cfsAt (F : Fld) (u : Nat) : (foff F u s).cfsAt = s.cfsAt := rfl
@[simp] theorem foff_nand (F : Fld) (u : Nat) : (foff F u s).nand = s.nand := rfl
@[simp] theorem foff_net (F : Fld) (u : Nat) : (foff F u s).net = s.net := rfl
@[simp] theorem foff_pwr (F : Fld) (u : Nat) : (foff F u s).pwr = s.pwr := rfl
@[simp] theorem foff_test (F : Fld) (u : Nat) : (foff F u s).test = s.test := rfl
@[simp] theorem foff_frameRep (F : Fld) (u : Nat) : (foff F u s).frameRep = s.frameRep := rfl
@[simp] theorem foff_cpus (F : Fld) (u : Nat) : (foff F u s).cpus = s.cpus := rfl
@[simp] theorem foff_lcd (F : Fld) (u : Nat) : (foff F u s).lcd = s.lcd := rfl
@[simp] theorem foff_pending (F : Fld) (u : Nat) : (foff F u s).pending = s.pending := rfl

/-! ### fadd -/

@[simp] theorem fadd_part (F : Fld) (u n : Nat) : (fadd F u n s).part = s.part := rfl
@[simp] theorem fadd_tscreen (F : Fld) (u n : Nat) : (fadd F u n s).tscreen = s.tscreen := rfl
@[simp] theorem fadd_mem (F : Fld) (u n : Nat) : (fadd F u n s).mem = s.mem := rfl
@[simp] theorem fadd_tags (F : Fld) (u n : Nat) : (fadd F u n s).tags = s.tags := rfl
@[simp] theorem fadd_poison (F : Fld) (u n : Nat) : (fadd F u n s).poison = s.poison := rfl
@[simp] theorem fadd_soft (F : Fld) (u n : Nat) : (fadd F u n s).soft = s.soft := rfl
@[simp] theorem fadd_valid (F : Fld) (u n : Nat) : (fadd F u n s).valid = s.valid := rfl
@[simp] theorem fadd_time (F : Fld) (u n : Nat) : (fadd F u n s).time = s.time := rfl
@[simp] theorem fadd_pos (F : Fld) (u n : Nat) : (fadd F u n s).pos = s.pos := rfl
@[simp] theorem fadd_due (F : Fld) (u n : Nat) : (fadd F u n s).due = s.due := rfl
@[simp] theorem fadd_fresh (F : Fld) (u n : Nat) : (fadd F u n s).fresh = s.fresh := rfl
@[simp] theorem fadd_resp (F : Fld) (u n : Nat) : (fadd F u n s).resp = s.resp := rfl
@[simp] theorem fadd_swp (F : Fld) (u n : Nat) : (fadd F u n s).swp = s.swp := rfl
@[simp] theorem fadd_legs (F : Fld) (u n : Nat) : (fadd F u n s).legs = s.legs := rfl
@[simp] theorem fadd_startq (F : Fld) (u n : Nat) : (fadd F u n s).startq = s.startq := rfl
@[simp] theorem fadd_trips (F : Fld) (u n : Nat) : (fadd F u n s).trips = s.trips := rfl
@[simp] theorem fadd_ctx (F : Fld) (u n : Nat) : (fadd F u n s).ctx = s.ctx := rfl
@[simp] theorem fadd_holds (F : Fld) (u n : Nat) : (fadd F u n s).holds = s.holds := rfl
@[simp] theorem fadd_ctx1 (F : Fld) (u n : Nat) : (fadd F u n s).ctx1 = s.ctx1 := rfl
@[simp] theorem fadd_ctx2 (F : Fld) (u n : Nat) : (fadd F u n s).ctx2 = s.ctx2 := rfl
@[simp] theorem fadd_regs1 (F : Fld) (u n : Nat) : (fadd F u n s).regs1 = s.regs1 := rfl
@[simp] theorem fadd_mem1 (F : Fld) (u n : Nat) : (fadd F u n s).mem1 = s.mem1 := rfl
@[simp] theorem fadd_regs0 (F : Fld) (u n : Nat) : (fadd F u n s).regs0 = s.regs0 := rfl
@[simp] theorem fadd_ctx0 (F : Fld) (u n : Nat) : (fadd F u n s).ctx0 = s.ctx0 := rfl
@[simp] theorem fadd_hits (F : Fld) (u n : Nat) : (fadd F u n s).hits = s.hits := rfl
@[simp] theorem fadd_cross (F : Fld) (u n : Nat) : (fadd F u n s).cross = s.cross := rfl
@[simp] theorem fadd_eng (F : Fld) (u n : Nat) : (fadd F u n s).eng = s.eng := rfl
@[simp] theorem fadd_spare (F : Fld) (u n : Nat) : (fadd F u n s).spare = s.spare := rfl
@[simp] theorem fadd_trace (F : Fld) (u n : Nat) : (fadd F u n s).trace = s.trace := rfl
@[simp] theorem fadd_sdf (F : Fld) (u n : Nat) : (fadd F u n s).sdf = s.sdf := rfl
@[simp] theorem fadd_clk (F : Fld) (u n : Nat) : (fadd F u n s).clk = s.clk := rfl
@[simp] theorem fadd_sar (F : Fld) (u n : Nat) : (fadd F u n s).sar = s.sar := rfl
@[simp] theorem fadd_cmp (F : Fld) (u n : Nat) : (fadd F u n s).cmp = s.cmp := rfl
@[simp] theorem fadd_qep (F : Fld) (u n : Nat) : (fadd F u n s).qep = s.qep := rfl
@[simp] theorem fadd_seu (F : Fld) (u n : Nat) : (fadd F u n s).seu = s.seu := rfl
@[simp] theorem fadd_fab (F : Fld) (u n : Nat) : (fadd F u n s).fab = s.fab := rfl
@[simp] theorem fadd_tmr (F : Fld) (u n : Nat) : (fadd F u n s).tmr = s.tmr := rfl
@[simp] theorem fadd_restart (F : Fld) (u n : Nat) : (fadd F u n s).restart = s.restart := rfl
@[simp] theorem fadd_img (F : Fld) (u n : Nat) : (fadd F u n s).img = s.img := rfl
@[simp] theorem fadd_pads (F : Fld) (u n : Nat) : (fadd F u n s).pads = s.pads := rfl
@[simp] theorem fadd_ports (F : Fld) (u n : Nat) : (fadd F u n s).ports = s.ports := rfl
@[simp] theorem fadd_link (F : Fld) (u n : Nat) : (fadd F u n s).link = s.link := rfl
@[simp] theorem fadd_flt (F : Fld) (u n : Nat) : (fadd F u n s).flt = s.flt := rfl
@[simp] theorem fadd_rct (F : Fld) (u n : Nat) : (fadd F u n s).rct = s.rct := rfl
@[simp] theorem fadd_evs (F : Fld) (u n : Nat) : (fadd F u n s).evs = s.evs := rfl
@[simp] theorem fadd_recs (F : Fld) (u n : Nat) : (fadd F u n s).recs = s.recs := rfl
@[simp] theorem fadd_recAt (F : Fld) (u n : Nat) : (fadd F u n s).recAt = s.recAt := rfl
@[simp] theorem fadd_woke (F : Fld) (u n : Nat) : (fadd F u n s).woke = s.woke := rfl
@[simp] theorem fadd_memh (F : Fld) (u n : Nat) : (fadd F u n s).memh = s.memh := rfl
@[simp] theorem fadd_dma (F : Fld) (u n : Nat) : (fadd F u n s).dma = s.dma := rfl
@[simp] theorem fadd_disp (F : Fld) (u n : Nat) : (fadd F u n s).disp = s.disp := rfl
@[simp] theorem fadd_scan (F : Fld) (u n : Nat) : (fadd F u n s).scan = s.scan := rfl
@[simp] theorem fadd_be (F : Fld) (u n : Nat) : (fadd F u n s).be = s.be := rfl
@[simp] theorem fadd_flx (F : Fld) (u n : Nat) : (fadd F u n s).flx = s.flx := rfl
@[simp] theorem fadd_dp (F : Fld) (u n : Nat) : (fadd F u n s).dp = s.dp := rfl
@[simp] theorem fadd_aud (F : Fld) (u n : Nat) : (fadd F u n s).aud = s.aud := rfl
@[simp] theorem fadd_cfs (F : Fld) (u n : Nat) : (fadd F u n s).cfs = s.cfs := rfl
@[simp] theorem fadd_cfsWait (F : Fld) (u n : Nat) : (fadd F u n s).cfsWait = s.cfsWait := rfl
@[simp] theorem fadd_cfsAt (F : Fld) (u n : Nat) : (fadd F u n s).cfsAt = s.cfsAt := rfl
@[simp] theorem fadd_nand (F : Fld) (u n : Nat) : (fadd F u n s).nand = s.nand := rfl
@[simp] theorem fadd_net (F : Fld) (u n : Nat) : (fadd F u n s).net = s.net := rfl
@[simp] theorem fadd_pwr (F : Fld) (u n : Nat) : (fadd F u n s).pwr = s.pwr := rfl
@[simp] theorem fadd_test (F : Fld) (u n : Nat) : (fadd F u n s).test = s.test := rfl
@[simp] theorem fadd_frameRep (F : Fld) (u n : Nat) : (fadd F u n s).frameRep = s.frameRep := rfl
@[simp] theorem fadd_cpus (F : Fld) (u n : Nat) : (fadd F u n s).cpus = s.cpus := rfl
@[simp] theorem fadd_lcd (F : Fld) (u n : Nat) : (fadd F u n s).lcd = s.lcd := rfl
@[simp] theorem fadd_pending (F : Fld) (u n : Nat) : (fadd F u n s).pending = s.pending := rfl

/-! ### fcount -/

@[simp] theorem fcount_part (F : Fld) (u n : Nat) : (fcount F u n s).part = s.part := rfl
@[simp] theorem fcount_tscreen (F : Fld) (u n : Nat) : (fcount F u n s).tscreen = s.tscreen := rfl
@[simp] theorem fcount_mem (F : Fld) (u n : Nat) : (fcount F u n s).mem = s.mem := rfl
@[simp] theorem fcount_tags (F : Fld) (u n : Nat) : (fcount F u n s).tags = s.tags := rfl
@[simp] theorem fcount_poison (F : Fld) (u n : Nat) : (fcount F u n s).poison = s.poison := rfl
@[simp] theorem fcount_soft (F : Fld) (u n : Nat) : (fcount F u n s).soft = s.soft := rfl
@[simp] theorem fcount_valid (F : Fld) (u n : Nat) : (fcount F u n s).valid = s.valid := rfl
@[simp] theorem fcount_time (F : Fld) (u n : Nat) : (fcount F u n s).time = s.time := rfl
@[simp] theorem fcount_pos (F : Fld) (u n : Nat) : (fcount F u n s).pos = s.pos := rfl
@[simp] theorem fcount_due (F : Fld) (u n : Nat) : (fcount F u n s).due = s.due := rfl
@[simp] theorem fcount_fresh (F : Fld) (u n : Nat) : (fcount F u n s).fresh = s.fresh := rfl
@[simp] theorem fcount_resp (F : Fld) (u n : Nat) : (fcount F u n s).resp = s.resp := rfl
@[simp] theorem fcount_swp (F : Fld) (u n : Nat) : (fcount F u n s).swp = s.swp := rfl
@[simp] theorem fcount_legs (F : Fld) (u n : Nat) : (fcount F u n s).legs = s.legs := rfl
@[simp] theorem fcount_startq (F : Fld) (u n : Nat) : (fcount F u n s).startq = s.startq := rfl
@[simp] theorem fcount_trips (F : Fld) (u n : Nat) : (fcount F u n s).trips = s.trips := rfl
@[simp] theorem fcount_ctx (F : Fld) (u n : Nat) : (fcount F u n s).ctx = s.ctx := rfl
@[simp] theorem fcount_holds (F : Fld) (u n : Nat) : (fcount F u n s).holds = s.holds := rfl
@[simp] theorem fcount_ctx1 (F : Fld) (u n : Nat) : (fcount F u n s).ctx1 = s.ctx1 := rfl
@[simp] theorem fcount_ctx2 (F : Fld) (u n : Nat) : (fcount F u n s).ctx2 = s.ctx2 := rfl
@[simp] theorem fcount_regs1 (F : Fld) (u n : Nat) : (fcount F u n s).regs1 = s.regs1 := rfl
@[simp] theorem fcount_mem1 (F : Fld) (u n : Nat) : (fcount F u n s).mem1 = s.mem1 := rfl
@[simp] theorem fcount_regs0 (F : Fld) (u n : Nat) : (fcount F u n s).regs0 = s.regs0 := rfl
@[simp] theorem fcount_ctx0 (F : Fld) (u n : Nat) : (fcount F u n s).ctx0 = s.ctx0 := rfl
@[simp] theorem fcount_hits (F : Fld) (u n : Nat) : (fcount F u n s).hits = s.hits := rfl
@[simp] theorem fcount_cross (F : Fld) (u n : Nat) : (fcount F u n s).cross = s.cross := rfl
@[simp] theorem fcount_eng (F : Fld) (u n : Nat) : (fcount F u n s).eng = s.eng := rfl
@[simp] theorem fcount_spare (F : Fld) (u n : Nat) : (fcount F u n s).spare = s.spare := rfl
@[simp] theorem fcount_trace (F : Fld) (u n : Nat) : (fcount F u n s).trace = s.trace := rfl
@[simp] theorem fcount_sdf (F : Fld) (u n : Nat) : (fcount F u n s).sdf = s.sdf := rfl
@[simp] theorem fcount_clk (F : Fld) (u n : Nat) : (fcount F u n s).clk = s.clk := rfl
@[simp] theorem fcount_sar (F : Fld) (u n : Nat) : (fcount F u n s).sar = s.sar := rfl
@[simp] theorem fcount_cmp (F : Fld) (u n : Nat) : (fcount F u n s).cmp = s.cmp := rfl
@[simp] theorem fcount_qep (F : Fld) (u n : Nat) : (fcount F u n s).qep = s.qep := rfl
@[simp] theorem fcount_seu (F : Fld) (u n : Nat) : (fcount F u n s).seu = s.seu := rfl
@[simp] theorem fcount_fab (F : Fld) (u n : Nat) : (fcount F u n s).fab = s.fab := rfl
@[simp] theorem fcount_tmr (F : Fld) (u n : Nat) : (fcount F u n s).tmr = s.tmr := rfl
@[simp] theorem fcount_restart (F : Fld) (u n : Nat) : (fcount F u n s).restart = s.restart := rfl
@[simp] theorem fcount_img (F : Fld) (u n : Nat) : (fcount F u n s).img = s.img := rfl
@[simp] theorem fcount_pads (F : Fld) (u n : Nat) : (fcount F u n s).pads = s.pads := rfl
@[simp] theorem fcount_ports (F : Fld) (u n : Nat) : (fcount F u n s).ports = s.ports := rfl
@[simp] theorem fcount_link (F : Fld) (u n : Nat) : (fcount F u n s).link = s.link := rfl
@[simp] theorem fcount_flt (F : Fld) (u n : Nat) : (fcount F u n s).flt = s.flt := rfl
@[simp] theorem fcount_rct (F : Fld) (u n : Nat) : (fcount F u n s).rct = s.rct := rfl
@[simp] theorem fcount_evs (F : Fld) (u n : Nat) : (fcount F u n s).evs = s.evs := rfl
@[simp] theorem fcount_recs (F : Fld) (u n : Nat) : (fcount F u n s).recs = s.recs := rfl
@[simp] theorem fcount_recAt (F : Fld) (u n : Nat) : (fcount F u n s).recAt = s.recAt := rfl
@[simp] theorem fcount_woke (F : Fld) (u n : Nat) : (fcount F u n s).woke = s.woke := rfl
@[simp] theorem fcount_memh (F : Fld) (u n : Nat) : (fcount F u n s).memh = s.memh := rfl
@[simp] theorem fcount_dma (F : Fld) (u n : Nat) : (fcount F u n s).dma = s.dma := rfl
@[simp] theorem fcount_disp (F : Fld) (u n : Nat) : (fcount F u n s).disp = s.disp := rfl
@[simp] theorem fcount_scan (F : Fld) (u n : Nat) : (fcount F u n s).scan = s.scan := rfl
@[simp] theorem fcount_be (F : Fld) (u n : Nat) : (fcount F u n s).be = s.be := rfl
@[simp] theorem fcount_flx (F : Fld) (u n : Nat) : (fcount F u n s).flx = s.flx := rfl
@[simp] theorem fcount_dp (F : Fld) (u n : Nat) : (fcount F u n s).dp = s.dp := rfl
@[simp] theorem fcount_aud (F : Fld) (u n : Nat) : (fcount F u n s).aud = s.aud := rfl
@[simp] theorem fcount_cfs (F : Fld) (u n : Nat) : (fcount F u n s).cfs = s.cfs := rfl
@[simp] theorem fcount_cfsWait (F : Fld) (u n : Nat) : (fcount F u n s).cfsWait = s.cfsWait := rfl
@[simp] theorem fcount_cfsAt (F : Fld) (u n : Nat) : (fcount F u n s).cfsAt = s.cfsAt := rfl
@[simp] theorem fcount_nand (F : Fld) (u n : Nat) : (fcount F u n s).nand = s.nand := rfl
@[simp] theorem fcount_net (F : Fld) (u n : Nat) : (fcount F u n s).net = s.net := rfl
@[simp] theorem fcount_pwr (F : Fld) (u n : Nat) : (fcount F u n s).pwr = s.pwr := rfl
@[simp] theorem fcount_test (F : Fld) (u n : Nat) : (fcount F u n s).test = s.test := rfl
@[simp] theorem fcount_frameRep (F : Fld) (u n : Nat) : (fcount F u n s).frameRep = s.frameRep := rfl
@[simp] theorem fcount_cpus (F : Fld) (u n : Nat) : (fcount F u n s).cpus = s.cpus := rfl
@[simp] theorem fcount_lcd (F : Fld) (u n : Nat) : (fcount F u n s).lcd = s.lcd := rfl
@[simp] theorem fcount_pending (F : Fld) (u n : Nat) : (fcount F u n s).pending = s.pending := rfl

/-! ### fclear -/

@[simp] theorem fclear_part (F : Fld) (u v : Nat) : (fclear F u v s).part = s.part := rfl
@[simp] theorem fclear_tscreen (F : Fld) (u v : Nat) : (fclear F u v s).tscreen = s.tscreen := rfl
@[simp] theorem fclear_mem (F : Fld) (u v : Nat) : (fclear F u v s).mem = s.mem := rfl
@[simp] theorem fclear_tags (F : Fld) (u v : Nat) : (fclear F u v s).tags = s.tags := rfl
@[simp] theorem fclear_poison (F : Fld) (u v : Nat) : (fclear F u v s).poison = s.poison := rfl
@[simp] theorem fclear_soft (F : Fld) (u v : Nat) : (fclear F u v s).soft = s.soft := rfl
@[simp] theorem fclear_valid (F : Fld) (u v : Nat) : (fclear F u v s).valid = s.valid := rfl
@[simp] theorem fclear_time (F : Fld) (u v : Nat) : (fclear F u v s).time = s.time := rfl
@[simp] theorem fclear_pos (F : Fld) (u v : Nat) : (fclear F u v s).pos = s.pos := rfl
@[simp] theorem fclear_due (F : Fld) (u v : Nat) : (fclear F u v s).due = s.due := rfl
@[simp] theorem fclear_fresh (F : Fld) (u v : Nat) : (fclear F u v s).fresh = s.fresh := rfl
@[simp] theorem fclear_resp (F : Fld) (u v : Nat) : (fclear F u v s).resp = s.resp := rfl
@[simp] theorem fclear_swp (F : Fld) (u v : Nat) : (fclear F u v s).swp = s.swp := rfl
@[simp] theorem fclear_legs (F : Fld) (u v : Nat) : (fclear F u v s).legs = s.legs := rfl
@[simp] theorem fclear_startq (F : Fld) (u v : Nat) : (fclear F u v s).startq = s.startq := rfl
@[simp] theorem fclear_trips (F : Fld) (u v : Nat) : (fclear F u v s).trips = s.trips := rfl
@[simp] theorem fclear_ctx (F : Fld) (u v : Nat) : (fclear F u v s).ctx = s.ctx := rfl
@[simp] theorem fclear_holds (F : Fld) (u v : Nat) : (fclear F u v s).holds = s.holds := rfl
@[simp] theorem fclear_ctx1 (F : Fld) (u v : Nat) : (fclear F u v s).ctx1 = s.ctx1 := rfl
@[simp] theorem fclear_ctx2 (F : Fld) (u v : Nat) : (fclear F u v s).ctx2 = s.ctx2 := rfl
@[simp] theorem fclear_regs1 (F : Fld) (u v : Nat) : (fclear F u v s).regs1 = s.regs1 := rfl
@[simp] theorem fclear_mem1 (F : Fld) (u v : Nat) : (fclear F u v s).mem1 = s.mem1 := rfl
@[simp] theorem fclear_regs0 (F : Fld) (u v : Nat) : (fclear F u v s).regs0 = s.regs0 := rfl
@[simp] theorem fclear_ctx0 (F : Fld) (u v : Nat) : (fclear F u v s).ctx0 = s.ctx0 := rfl
@[simp] theorem fclear_hits (F : Fld) (u v : Nat) : (fclear F u v s).hits = s.hits := rfl
@[simp] theorem fclear_cross (F : Fld) (u v : Nat) : (fclear F u v s).cross = s.cross := rfl
@[simp] theorem fclear_eng (F : Fld) (u v : Nat) : (fclear F u v s).eng = s.eng := rfl
@[simp] theorem fclear_spare (F : Fld) (u v : Nat) : (fclear F u v s).spare = s.spare := rfl
@[simp] theorem fclear_trace (F : Fld) (u v : Nat) : (fclear F u v s).trace = s.trace := rfl
@[simp] theorem fclear_sdf (F : Fld) (u v : Nat) : (fclear F u v s).sdf = s.sdf := rfl
@[simp] theorem fclear_clk (F : Fld) (u v : Nat) : (fclear F u v s).clk = s.clk := rfl
@[simp] theorem fclear_sar (F : Fld) (u v : Nat) : (fclear F u v s).sar = s.sar := rfl
@[simp] theorem fclear_cmp (F : Fld) (u v : Nat) : (fclear F u v s).cmp = s.cmp := rfl
@[simp] theorem fclear_qep (F : Fld) (u v : Nat) : (fclear F u v s).qep = s.qep := rfl
@[simp] theorem fclear_seu (F : Fld) (u v : Nat) : (fclear F u v s).seu = s.seu := rfl
@[simp] theorem fclear_fab (F : Fld) (u v : Nat) : (fclear F u v s).fab = s.fab := rfl
@[simp] theorem fclear_tmr (F : Fld) (u v : Nat) : (fclear F u v s).tmr = s.tmr := rfl
@[simp] theorem fclear_restart (F : Fld) (u v : Nat) : (fclear F u v s).restart = s.restart := rfl
@[simp] theorem fclear_img (F : Fld) (u v : Nat) : (fclear F u v s).img = s.img := rfl
@[simp] theorem fclear_pads (F : Fld) (u v : Nat) : (fclear F u v s).pads = s.pads := rfl
@[simp] theorem fclear_ports (F : Fld) (u v : Nat) : (fclear F u v s).ports = s.ports := rfl
@[simp] theorem fclear_link (F : Fld) (u v : Nat) : (fclear F u v s).link = s.link := rfl
@[simp] theorem fclear_flt (F : Fld) (u v : Nat) : (fclear F u v s).flt = s.flt := rfl
@[simp] theorem fclear_rct (F : Fld) (u v : Nat) : (fclear F u v s).rct = s.rct := rfl
@[simp] theorem fclear_evs (F : Fld) (u v : Nat) : (fclear F u v s).evs = s.evs := rfl
@[simp] theorem fclear_recs (F : Fld) (u v : Nat) : (fclear F u v s).recs = s.recs := rfl
@[simp] theorem fclear_recAt (F : Fld) (u v : Nat) : (fclear F u v s).recAt = s.recAt := rfl
@[simp] theorem fclear_woke (F : Fld) (u v : Nat) : (fclear F u v s).woke = s.woke := rfl
@[simp] theorem fclear_memh (F : Fld) (u v : Nat) : (fclear F u v s).memh = s.memh := rfl
@[simp] theorem fclear_dma (F : Fld) (u v : Nat) : (fclear F u v s).dma = s.dma := rfl
@[simp] theorem fclear_disp (F : Fld) (u v : Nat) : (fclear F u v s).disp = s.disp := rfl
@[simp] theorem fclear_scan (F : Fld) (u v : Nat) : (fclear F u v s).scan = s.scan := rfl
@[simp] theorem fclear_be (F : Fld) (u v : Nat) : (fclear F u v s).be = s.be := rfl
@[simp] theorem fclear_flx (F : Fld) (u v : Nat) : (fclear F u v s).flx = s.flx := rfl
@[simp] theorem fclear_dp (F : Fld) (u v : Nat) : (fclear F u v s).dp = s.dp := rfl
@[simp] theorem fclear_aud (F : Fld) (u v : Nat) : (fclear F u v s).aud = s.aud := rfl
@[simp] theorem fclear_cfs (F : Fld) (u v : Nat) : (fclear F u v s).cfs = s.cfs := rfl
@[simp] theorem fclear_cfsWait (F : Fld) (u v : Nat) : (fclear F u v s).cfsWait = s.cfsWait := rfl
@[simp] theorem fclear_cfsAt (F : Fld) (u v : Nat) : (fclear F u v s).cfsAt = s.cfsAt := rfl
@[simp] theorem fclear_nand (F : Fld) (u v : Nat) : (fclear F u v s).nand = s.nand := rfl
@[simp] theorem fclear_net (F : Fld) (u v : Nat) : (fclear F u v s).net = s.net := rfl
@[simp] theorem fclear_pwr (F : Fld) (u v : Nat) : (fclear F u v s).pwr = s.pwr := rfl
@[simp] theorem fclear_test (F : Fld) (u v : Nat) : (fclear F u v s).test = s.test := rfl
@[simp] theorem fclear_frameRep (F : Fld) (u v : Nat) : (fclear F u v s).frameRep = s.frameRep := rfl
@[simp] theorem fclear_cpus (F : Fld) (u v : Nat) : (fclear F u v s).cpus = s.cpus := rfl
@[simp] theorem fclear_lcd (F : Fld) (u v : Nat) : (fclear F u v s).lcd = s.lcd := rfl
@[simp] theorem fclear_pending (F : Fld) (u v : Nat) : (fclear F u v s).pending = s.pending := rfl

/-! ### mark -/

@[simp] theorem mark_part (i u m : Nat) : (mark i u m s).part = s.part := mark_field s i u m State.part fun _ => rfl
@[simp] theorem mark_tscreen (i u m : Nat) : (mark i u m s).tscreen = s.tscreen := mark_field s i u m State.tscreen fun _ => rfl
@[simp] theorem mark_regs (i u m : Nat) : (mark i u m s).regs = s.regs := mark_field s i u m State.regs fun _ => rfl
@[simp] theorem mark_mem (i u m : Nat) : (mark i u m s).mem = s.mem := mark_field s i u m State.mem fun _ => rfl
@[simp] theorem mark_tags (i u m : Nat) : (mark i u m s).tags = s.tags := mark_field s i u m State.tags fun _ => rfl
@[simp] theorem mark_poison (i u m : Nat) : (mark i u m s).poison = s.poison := mark_field s i u m State.poison fun _ => rfl
@[simp] theorem mark_soft (i u m : Nat) : (mark i u m s).soft = s.soft := mark_field s i u m State.soft fun _ => rfl
@[simp] theorem mark_valid (i u m : Nat) : (mark i u m s).valid = s.valid := mark_field s i u m State.valid fun _ => rfl
@[simp] theorem mark_time (i u m : Nat) : (mark i u m s).time = s.time := mark_field s i u m State.time fun _ => rfl
@[simp] theorem mark_pos (i u m : Nat) : (mark i u m s).pos = s.pos := mark_field s i u m State.pos fun _ => rfl
@[simp] theorem mark_due (i u m : Nat) : (mark i u m s).due = s.due := mark_field s i u m State.due fun _ => rfl
@[simp] theorem mark_fresh (i u m : Nat) : (mark i u m s).fresh = s.fresh := mark_field s i u m State.fresh fun _ => rfl
@[simp] theorem mark_resp (i u m : Nat) : (mark i u m s).resp = s.resp := mark_field s i u m State.resp fun _ => rfl
@[simp] theorem mark_swp (i u m : Nat) : (mark i u m s).swp = s.swp := mark_field s i u m State.swp fun _ => rfl
@[simp] theorem mark_legs (i u m : Nat) : (mark i u m s).legs = s.legs := mark_field s i u m State.legs fun _ => rfl
@[simp] theorem mark_startq (i u m : Nat) : (mark i u m s).startq = s.startq := mark_field s i u m State.startq fun _ => rfl
@[simp] theorem mark_trips (i u m : Nat) : (mark i u m s).trips = s.trips := mark_field s i u m State.trips fun _ => rfl
@[simp] theorem mark_ctx (i u m : Nat) : (mark i u m s).ctx = s.ctx := mark_field s i u m State.ctx fun _ => rfl
@[simp] theorem mark_holds (i u m : Nat) : (mark i u m s).holds = s.holds := mark_field s i u m State.holds fun _ => rfl
@[simp] theorem mark_ctx1 (i u m : Nat) : (mark i u m s).ctx1 = s.ctx1 := mark_field s i u m State.ctx1 fun _ => rfl
@[simp] theorem mark_ctx2 (i u m : Nat) : (mark i u m s).ctx2 = s.ctx2 := mark_field s i u m State.ctx2 fun _ => rfl
@[simp] theorem mark_regs1 (i u m : Nat) : (mark i u m s).regs1 = s.regs1 := mark_field s i u m State.regs1 fun _ => rfl
@[simp] theorem mark_mem1 (i u m : Nat) : (mark i u m s).mem1 = s.mem1 := mark_field s i u m State.mem1 fun _ => rfl
@[simp] theorem mark_regs0 (i u m : Nat) : (mark i u m s).regs0 = s.regs0 := mark_field s i u m State.regs0 fun _ => rfl
@[simp] theorem mark_ctx0 (i u m : Nat) : (mark i u m s).ctx0 = s.ctx0 := mark_field s i u m State.ctx0 fun _ => rfl
@[simp] theorem mark_cross (i u m : Nat) : (mark i u m s).cross = s.cross := mark_field s i u m State.cross fun _ => rfl
@[simp] theorem mark_eng (i u m : Nat) : (mark i u m s).eng = s.eng := mark_field s i u m State.eng fun _ => rfl
@[simp] theorem mark_spare (i u m : Nat) : (mark i u m s).spare = s.spare := mark_field s i u m State.spare fun _ => rfl
@[simp] theorem mark_trace (i u m : Nat) : (mark i u m s).trace = s.trace := mark_field s i u m State.trace fun _ => rfl
@[simp] theorem mark_sdf (i u m : Nat) : (mark i u m s).sdf = s.sdf := mark_field s i u m State.sdf fun _ => rfl
@[simp] theorem mark_clk (i u m : Nat) : (mark i u m s).clk = s.clk := mark_field s i u m State.clk fun _ => rfl
@[simp] theorem mark_sar (i u m : Nat) : (mark i u m s).sar = s.sar := mark_field s i u m State.sar fun _ => rfl
@[simp] theorem mark_cmp (i u m : Nat) : (mark i u m s).cmp = s.cmp := mark_field s i u m State.cmp fun _ => rfl
@[simp] theorem mark_qep (i u m : Nat) : (mark i u m s).qep = s.qep := mark_field s i u m State.qep fun _ => rfl
@[simp] theorem mark_seu (i u m : Nat) : (mark i u m s).seu = s.seu := mark_field s i u m State.seu fun _ => rfl
@[simp] theorem mark_fab (i u m : Nat) : (mark i u m s).fab = s.fab := mark_field s i u m State.fab fun _ => rfl
@[simp] theorem mark_tmr (i u m : Nat) : (mark i u m s).tmr = s.tmr := mark_field s i u m State.tmr fun _ => rfl
@[simp] theorem mark_restart (i u m : Nat) : (mark i u m s).restart = s.restart := mark_field s i u m State.restart fun _ => rfl
@[simp] theorem mark_img (i u m : Nat) : (mark i u m s).img = s.img := mark_field s i u m State.img fun _ => rfl
@[simp] theorem mark_pads (i u m : Nat) : (mark i u m s).pads = s.pads := mark_field s i u m State.pads fun _ => rfl
@[simp] theorem mark_ports (i u m : Nat) : (mark i u m s).ports = s.ports := mark_field s i u m State.ports fun _ => rfl
@[simp] theorem mark_link (i u m : Nat) : (mark i u m s).link = s.link := mark_field s i u m State.link fun _ => rfl
@[simp] theorem mark_flt (i u m : Nat) : (mark i u m s).flt = s.flt := mark_field s i u m State.flt fun _ => rfl
@[simp] theorem mark_rct (i u m : Nat) : (mark i u m s).rct = s.rct := mark_field s i u m State.rct fun _ => rfl
@[simp] theorem mark_evs (i u m : Nat) : (mark i u m s).evs = s.evs := mark_field s i u m State.evs fun _ => rfl
@[simp] theorem mark_recs (i u m : Nat) : (mark i u m s).recs = s.recs := mark_field s i u m State.recs fun _ => rfl
@[simp] theorem mark_recAt (i u m : Nat) : (mark i u m s).recAt = s.recAt := mark_field s i u m State.recAt fun _ => rfl
@[simp] theorem mark_woke (i u m : Nat) : (mark i u m s).woke = s.woke := mark_field s i u m State.woke fun _ => rfl
@[simp] theorem mark_memh (i u m : Nat) : (mark i u m s).memh = s.memh := mark_field s i u m State.memh fun _ => rfl
@[simp] theorem mark_dma (i u m : Nat) : (mark i u m s).dma = s.dma := mark_field s i u m State.dma fun _ => rfl
@[simp] theorem mark_disp (i u m : Nat) : (mark i u m s).disp = s.disp := mark_field s i u m State.disp fun _ => rfl
@[simp] theorem mark_scan (i u m : Nat) : (mark i u m s).scan = s.scan := mark_field s i u m State.scan fun _ => rfl
@[simp] theorem mark_be (i u m : Nat) : (mark i u m s).be = s.be := mark_field s i u m State.be fun _ => rfl
@[simp] theorem mark_flx (i u m : Nat) : (mark i u m s).flx = s.flx := mark_field s i u m State.flx fun _ => rfl
@[simp] theorem mark_dp (i u m : Nat) : (mark i u m s).dp = s.dp := mark_field s i u m State.dp fun _ => rfl
@[simp] theorem mark_aud (i u m : Nat) : (mark i u m s).aud = s.aud := mark_field s i u m State.aud fun _ => rfl
@[simp] theorem mark_cfs (i u m : Nat) : (mark i u m s).cfs = s.cfs := mark_field s i u m State.cfs fun _ => rfl
@[simp] theorem mark_cfsWait (i u m : Nat) : (mark i u m s).cfsWait = s.cfsWait := mark_field s i u m State.cfsWait fun _ => rfl
@[simp] theorem mark_cfsAt (i u m : Nat) : (mark i u m s).cfsAt = s.cfsAt := mark_field s i u m State.cfsAt fun _ => rfl
@[simp] theorem mark_nand (i u m : Nat) : (mark i u m s).nand = s.nand := mark_field s i u m State.nand fun _ => rfl
@[simp] theorem mark_net (i u m : Nat) : (mark i u m s).net = s.net := mark_field s i u m State.net fun _ => rfl
@[simp] theorem mark_pwr (i u m : Nat) : (mark i u m s).pwr = s.pwr := mark_field s i u m State.pwr fun _ => rfl
@[simp] theorem mark_test (i u m : Nat) : (mark i u m s).test = s.test := mark_field s i u m State.test fun _ => rfl
@[simp] theorem mark_frameRep (i u m : Nat) : (mark i u m s).frameRep = s.frameRep := mark_field s i u m State.frameRep fun _ => rfl
@[simp] theorem mark_cpus (i u m : Nat) : (mark i u m s).cpus = s.cpus := mark_field s i u m State.cpus fun _ => rfl
@[simp] theorem mark_lcd (i u m : Nat) : (mark i u m s).lcd = s.lcd := mark_field s i u m State.lcd fun _ => rfl
@[simp] theorem mark_pending (i u m : Nat) : (mark i u m s).pending = s.pending := mark_field s i u m State.pending fun _ => rfl

/-! ### fon -/

@[simp] theorem fon_part (F : Fld) (u : Nat) : (fon F u s).part = s.part := mark_field (fset F u 1 s) F.id u 1 State.part fun _ => rfl
@[simp] theorem fon_tscreen (F : Fld) (u : Nat) : (fon F u s).tscreen = s.tscreen := mark_field (fset F u 1 s) F.id u 1 State.tscreen fun _ => rfl
@[simp] theorem fon_mem (F : Fld) (u : Nat) : (fon F u s).mem = s.mem := mark_field (fset F u 1 s) F.id u 1 State.mem fun _ => rfl
@[simp] theorem fon_tags (F : Fld) (u : Nat) : (fon F u s).tags = s.tags := mark_field (fset F u 1 s) F.id u 1 State.tags fun _ => rfl
@[simp] theorem fon_poison (F : Fld) (u : Nat) : (fon F u s).poison = s.poison := mark_field (fset F u 1 s) F.id u 1 State.poison fun _ => rfl
@[simp] theorem fon_soft (F : Fld) (u : Nat) : (fon F u s).soft = s.soft := mark_field (fset F u 1 s) F.id u 1 State.soft fun _ => rfl
@[simp] theorem fon_valid (F : Fld) (u : Nat) : (fon F u s).valid = s.valid := mark_field (fset F u 1 s) F.id u 1 State.valid fun _ => rfl
@[simp] theorem fon_time (F : Fld) (u : Nat) : (fon F u s).time = s.time := mark_field (fset F u 1 s) F.id u 1 State.time fun _ => rfl
@[simp] theorem fon_pos (F : Fld) (u : Nat) : (fon F u s).pos = s.pos := mark_field (fset F u 1 s) F.id u 1 State.pos fun _ => rfl
@[simp] theorem fon_due (F : Fld) (u : Nat) : (fon F u s).due = s.due := mark_field (fset F u 1 s) F.id u 1 State.due fun _ => rfl
@[simp] theorem fon_fresh (F : Fld) (u : Nat) : (fon F u s).fresh = s.fresh := mark_field (fset F u 1 s) F.id u 1 State.fresh fun _ => rfl
@[simp] theorem fon_resp (F : Fld) (u : Nat) : (fon F u s).resp = s.resp := mark_field (fset F u 1 s) F.id u 1 State.resp fun _ => rfl
@[simp] theorem fon_swp (F : Fld) (u : Nat) : (fon F u s).swp = s.swp := mark_field (fset F u 1 s) F.id u 1 State.swp fun _ => rfl
@[simp] theorem fon_legs (F : Fld) (u : Nat) : (fon F u s).legs = s.legs := mark_field (fset F u 1 s) F.id u 1 State.legs fun _ => rfl
@[simp] theorem fon_startq (F : Fld) (u : Nat) : (fon F u s).startq = s.startq := mark_field (fset F u 1 s) F.id u 1 State.startq fun _ => rfl
@[simp] theorem fon_trips (F : Fld) (u : Nat) : (fon F u s).trips = s.trips := mark_field (fset F u 1 s) F.id u 1 State.trips fun _ => rfl
@[simp] theorem fon_ctx (F : Fld) (u : Nat) : (fon F u s).ctx = s.ctx := mark_field (fset F u 1 s) F.id u 1 State.ctx fun _ => rfl
@[simp] theorem fon_holds (F : Fld) (u : Nat) : (fon F u s).holds = s.holds := mark_field (fset F u 1 s) F.id u 1 State.holds fun _ => rfl
@[simp] theorem fon_ctx1 (F : Fld) (u : Nat) : (fon F u s).ctx1 = s.ctx1 := mark_field (fset F u 1 s) F.id u 1 State.ctx1 fun _ => rfl
@[simp] theorem fon_ctx2 (F : Fld) (u : Nat) : (fon F u s).ctx2 = s.ctx2 := mark_field (fset F u 1 s) F.id u 1 State.ctx2 fun _ => rfl
@[simp] theorem fon_regs1 (F : Fld) (u : Nat) : (fon F u s).regs1 = s.regs1 := mark_field (fset F u 1 s) F.id u 1 State.regs1 fun _ => rfl
@[simp] theorem fon_mem1 (F : Fld) (u : Nat) : (fon F u s).mem1 = s.mem1 := mark_field (fset F u 1 s) F.id u 1 State.mem1 fun _ => rfl
@[simp] theorem fon_regs0 (F : Fld) (u : Nat) : (fon F u s).regs0 = s.regs0 := mark_field (fset F u 1 s) F.id u 1 State.regs0 fun _ => rfl
@[simp] theorem fon_ctx0 (F : Fld) (u : Nat) : (fon F u s).ctx0 = s.ctx0 := mark_field (fset F u 1 s) F.id u 1 State.ctx0 fun _ => rfl
@[simp] theorem fon_cross (F : Fld) (u : Nat) : (fon F u s).cross = s.cross := mark_field (fset F u 1 s) F.id u 1 State.cross fun _ => rfl
@[simp] theorem fon_eng (F : Fld) (u : Nat) : (fon F u s).eng = s.eng := mark_field (fset F u 1 s) F.id u 1 State.eng fun _ => rfl
@[simp] theorem fon_spare (F : Fld) (u : Nat) : (fon F u s).spare = s.spare := mark_field (fset F u 1 s) F.id u 1 State.spare fun _ => rfl
@[simp] theorem fon_trace (F : Fld) (u : Nat) : (fon F u s).trace = s.trace := mark_field (fset F u 1 s) F.id u 1 State.trace fun _ => rfl
@[simp] theorem fon_sdf (F : Fld) (u : Nat) : (fon F u s).sdf = s.sdf := mark_field (fset F u 1 s) F.id u 1 State.sdf fun _ => rfl
@[simp] theorem fon_clk (F : Fld) (u : Nat) : (fon F u s).clk = s.clk := mark_field (fset F u 1 s) F.id u 1 State.clk fun _ => rfl
@[simp] theorem fon_sar (F : Fld) (u : Nat) : (fon F u s).sar = s.sar := mark_field (fset F u 1 s) F.id u 1 State.sar fun _ => rfl
@[simp] theorem fon_cmp (F : Fld) (u : Nat) : (fon F u s).cmp = s.cmp := mark_field (fset F u 1 s) F.id u 1 State.cmp fun _ => rfl
@[simp] theorem fon_qep (F : Fld) (u : Nat) : (fon F u s).qep = s.qep := mark_field (fset F u 1 s) F.id u 1 State.qep fun _ => rfl
@[simp] theorem fon_seu (F : Fld) (u : Nat) : (fon F u s).seu = s.seu := mark_field (fset F u 1 s) F.id u 1 State.seu fun _ => rfl
@[simp] theorem fon_fab (F : Fld) (u : Nat) : (fon F u s).fab = s.fab := mark_field (fset F u 1 s) F.id u 1 State.fab fun _ => rfl
@[simp] theorem fon_tmr (F : Fld) (u : Nat) : (fon F u s).tmr = s.tmr := mark_field (fset F u 1 s) F.id u 1 State.tmr fun _ => rfl
@[simp] theorem fon_restart (F : Fld) (u : Nat) : (fon F u s).restart = s.restart := mark_field (fset F u 1 s) F.id u 1 State.restart fun _ => rfl
@[simp] theorem fon_img (F : Fld) (u : Nat) : (fon F u s).img = s.img := mark_field (fset F u 1 s) F.id u 1 State.img fun _ => rfl
@[simp] theorem fon_pads (F : Fld) (u : Nat) : (fon F u s).pads = s.pads := mark_field (fset F u 1 s) F.id u 1 State.pads fun _ => rfl
@[simp] theorem fon_ports (F : Fld) (u : Nat) : (fon F u s).ports = s.ports := mark_field (fset F u 1 s) F.id u 1 State.ports fun _ => rfl
@[simp] theorem fon_link (F : Fld) (u : Nat) : (fon F u s).link = s.link := mark_field (fset F u 1 s) F.id u 1 State.link fun _ => rfl
@[simp] theorem fon_flt (F : Fld) (u : Nat) : (fon F u s).flt = s.flt := mark_field (fset F u 1 s) F.id u 1 State.flt fun _ => rfl
@[simp] theorem fon_rct (F : Fld) (u : Nat) : (fon F u s).rct = s.rct := mark_field (fset F u 1 s) F.id u 1 State.rct fun _ => rfl
@[simp] theorem fon_evs (F : Fld) (u : Nat) : (fon F u s).evs = s.evs := mark_field (fset F u 1 s) F.id u 1 State.evs fun _ => rfl
@[simp] theorem fon_recs (F : Fld) (u : Nat) : (fon F u s).recs = s.recs := mark_field (fset F u 1 s) F.id u 1 State.recs fun _ => rfl
@[simp] theorem fon_recAt (F : Fld) (u : Nat) : (fon F u s).recAt = s.recAt := mark_field (fset F u 1 s) F.id u 1 State.recAt fun _ => rfl
@[simp] theorem fon_woke (F : Fld) (u : Nat) : (fon F u s).woke = s.woke := mark_field (fset F u 1 s) F.id u 1 State.woke fun _ => rfl
@[simp] theorem fon_memh (F : Fld) (u : Nat) : (fon F u s).memh = s.memh := mark_field (fset F u 1 s) F.id u 1 State.memh fun _ => rfl
@[simp] theorem fon_dma (F : Fld) (u : Nat) : (fon F u s).dma = s.dma := mark_field (fset F u 1 s) F.id u 1 State.dma fun _ => rfl
@[simp] theorem fon_disp (F : Fld) (u : Nat) : (fon F u s).disp = s.disp := mark_field (fset F u 1 s) F.id u 1 State.disp fun _ => rfl
@[simp] theorem fon_scan (F : Fld) (u : Nat) : (fon F u s).scan = s.scan := mark_field (fset F u 1 s) F.id u 1 State.scan fun _ => rfl
@[simp] theorem fon_be (F : Fld) (u : Nat) : (fon F u s).be = s.be := mark_field (fset F u 1 s) F.id u 1 State.be fun _ => rfl
@[simp] theorem fon_flx (F : Fld) (u : Nat) : (fon F u s).flx = s.flx := mark_field (fset F u 1 s) F.id u 1 State.flx fun _ => rfl
@[simp] theorem fon_dp (F : Fld) (u : Nat) : (fon F u s).dp = s.dp := mark_field (fset F u 1 s) F.id u 1 State.dp fun _ => rfl
@[simp] theorem fon_aud (F : Fld) (u : Nat) : (fon F u s).aud = s.aud := mark_field (fset F u 1 s) F.id u 1 State.aud fun _ => rfl
@[simp] theorem fon_cfs (F : Fld) (u : Nat) : (fon F u s).cfs = s.cfs := mark_field (fset F u 1 s) F.id u 1 State.cfs fun _ => rfl
@[simp] theorem fon_cfsWait (F : Fld) (u : Nat) : (fon F u s).cfsWait = s.cfsWait := mark_field (fset F u 1 s) F.id u 1 State.cfsWait fun _ => rfl
@[simp] theorem fon_cfsAt (F : Fld) (u : Nat) : (fon F u s).cfsAt = s.cfsAt := mark_field (fset F u 1 s) F.id u 1 State.cfsAt fun _ => rfl
@[simp] theorem fon_nand (F : Fld) (u : Nat) : (fon F u s).nand = s.nand := mark_field (fset F u 1 s) F.id u 1 State.nand fun _ => rfl
@[simp] theorem fon_net (F : Fld) (u : Nat) : (fon F u s).net = s.net := mark_field (fset F u 1 s) F.id u 1 State.net fun _ => rfl
@[simp] theorem fon_pwr (F : Fld) (u : Nat) : (fon F u s).pwr = s.pwr := mark_field (fset F u 1 s) F.id u 1 State.pwr fun _ => rfl
@[simp] theorem fon_test (F : Fld) (u : Nat) : (fon F u s).test = s.test := mark_field (fset F u 1 s) F.id u 1 State.test fun _ => rfl
@[simp] theorem fon_frameRep (F : Fld) (u : Nat) : (fon F u s).frameRep = s.frameRep := mark_field (fset F u 1 s) F.id u 1 State.frameRep fun _ => rfl
@[simp] theorem fon_cpus (F : Fld) (u : Nat) : (fon F u s).cpus = s.cpus := mark_field (fset F u 1 s) F.id u 1 State.cpus fun _ => rfl
@[simp] theorem fon_lcd (F : Fld) (u : Nat) : (fon F u s).lcd = s.lcd := mark_field (fset F u 1 s) F.id u 1 State.lcd fun _ => rfl
@[simp] theorem fon_pending (F : Fld) (u : Nat) : (fon F u s).pending = s.pending := mark_field (fset F u 1 s) F.id u 1 State.pending fun _ => rfl

/-! ### fsetBit -/

@[simp] theorem fsetBit_part (F : Fld) (u i : Nat) (b : Bool) : (fsetBit F u i b s).part = s.part := fsetBit_field s F u i b State.part fun _ _ => rfl
@[simp] theorem fsetBit_tscreen (F : Fld) (u i : Nat) (b : Bool) : (fsetBit F u i b s).tscreen = s.tscreen := fsetBit_field s F u i b State.tscreen fun _ _ => rfl
@[simp] theorem fsetBit_mem (F : Fld) (u i : Nat) (b : Bool) : (fsetBit F u i b s).mem = s.mem := fsetBit_field s F u i b State.mem fun _ _ => rfl
@[simp] theorem fsetBit_tags (F : Fld) (u i : Nat) (b : Bool) : (fsetBit F u i b s).tags = s.tags := fsetBit_field s F u i b State.tags fun _ _ => rfl
@[simp] theorem fsetBit_poison (F : Fld) (u i : Nat) (b : Bool) : (fsetBit F u i b s).poison = s.poison := fsetBit_field s F u i b State.poison fun _ _ => rfl
@[simp] theorem fsetBit_soft (F : Fld) (u i : Nat) (b : Bool) : (fsetBit F u i b s).soft = s.soft := fsetBit_field s F u i b State.soft fun _ _ => rfl
@[simp] theorem fsetBit_valid (F : Fld) (u i : Nat) (b : Bool) : (fsetBit F u i b s).valid = s.valid := fsetBit_field s F u i b State.valid fun _ _ => rfl
@[simp] theorem fsetBit_time (F : Fld) (u i : Nat) (b : Bool) : (fsetBit F u i b s).time = s.time := fsetBit_field s F u i b State.time fun _ _ => rfl
@[simp] theorem fsetBit_pos (F : Fld) (u i : Nat) (b : Bool) : (fsetBit F u i b s).pos = s.pos := fsetBit_field s F u i b State.pos fun _ _ => rfl
@[simp] theorem fsetBit_due (F : Fld) (u i : Nat) (b : Bool) : (fsetBit F u i b s).due = s.due := fsetBit_field s F u i b State.due fun _ _ => rfl
@[simp] theorem fsetBit_fresh (F : Fld) (u i : Nat) (b : Bool) : (fsetBit F u i b s).fresh = s.fresh := fsetBit_field s F u i b State.fresh fun _ _ => rfl
@[simp] theorem fsetBit_resp (F : Fld) (u i : Nat) (b : Bool) : (fsetBit F u i b s).resp = s.resp := fsetBit_field s F u i b State.resp fun _ _ => rfl
@[simp] theorem fsetBit_swp (F : Fld) (u i : Nat) (b : Bool) : (fsetBit F u i b s).swp = s.swp := fsetBit_field s F u i b State.swp fun _ _ => rfl
@[simp] theorem fsetBit_legs (F : Fld) (u i : Nat) (b : Bool) : (fsetBit F u i b s).legs = s.legs := fsetBit_field s F u i b State.legs fun _ _ => rfl
@[simp] theorem fsetBit_startq (F : Fld) (u i : Nat) (b : Bool) : (fsetBit F u i b s).startq = s.startq := fsetBit_field s F u i b State.startq fun _ _ => rfl
@[simp] theorem fsetBit_trips (F : Fld) (u i : Nat) (b : Bool) : (fsetBit F u i b s).trips = s.trips := fsetBit_field s F u i b State.trips fun _ _ => rfl
@[simp] theorem fsetBit_ctx (F : Fld) (u i : Nat) (b : Bool) : (fsetBit F u i b s).ctx = s.ctx := fsetBit_field s F u i b State.ctx fun _ _ => rfl
@[simp] theorem fsetBit_holds (F : Fld) (u i : Nat) (b : Bool) : (fsetBit F u i b s).holds = s.holds := fsetBit_field s F u i b State.holds fun _ _ => rfl
@[simp] theorem fsetBit_ctx1 (F : Fld) (u i : Nat) (b : Bool) : (fsetBit F u i b s).ctx1 = s.ctx1 := fsetBit_field s F u i b State.ctx1 fun _ _ => rfl
@[simp] theorem fsetBit_ctx2 (F : Fld) (u i : Nat) (b : Bool) : (fsetBit F u i b s).ctx2 = s.ctx2 := fsetBit_field s F u i b State.ctx2 fun _ _ => rfl
@[simp] theorem fsetBit_regs1 (F : Fld) (u i : Nat) (b : Bool) : (fsetBit F u i b s).regs1 = s.regs1 := fsetBit_field s F u i b State.regs1 fun _ _ => rfl
@[simp] theorem fsetBit_mem1 (F : Fld) (u i : Nat) (b : Bool) : (fsetBit F u i b s).mem1 = s.mem1 := fsetBit_field s F u i b State.mem1 fun _ _ => rfl
@[simp] theorem fsetBit_regs0 (F : Fld) (u i : Nat) (b : Bool) : (fsetBit F u i b s).regs0 = s.regs0 := fsetBit_field s F u i b State.regs0 fun _ _ => rfl
@[simp] theorem fsetBit_ctx0 (F : Fld) (u i : Nat) (b : Bool) : (fsetBit F u i b s).ctx0 = s.ctx0 := fsetBit_field s F u i b State.ctx0 fun _ _ => rfl
@[simp] theorem fsetBit_cross (F : Fld) (u i : Nat) (b : Bool) : (fsetBit F u i b s).cross = s.cross := fsetBit_field s F u i b State.cross fun _ _ => rfl
@[simp] theorem fsetBit_eng (F : Fld) (u i : Nat) (b : Bool) : (fsetBit F u i b s).eng = s.eng := fsetBit_field s F u i b State.eng fun _ _ => rfl
@[simp] theorem fsetBit_spare (F : Fld) (u i : Nat) (b : Bool) : (fsetBit F u i b s).spare = s.spare := fsetBit_field s F u i b State.spare fun _ _ => rfl
@[simp] theorem fsetBit_trace (F : Fld) (u i : Nat) (b : Bool) : (fsetBit F u i b s).trace = s.trace := fsetBit_field s F u i b State.trace fun _ _ => rfl
@[simp] theorem fsetBit_sdf (F : Fld) (u i : Nat) (b : Bool) : (fsetBit F u i b s).sdf = s.sdf := fsetBit_field s F u i b State.sdf fun _ _ => rfl
@[simp] theorem fsetBit_clk (F : Fld) (u i : Nat) (b : Bool) : (fsetBit F u i b s).clk = s.clk := fsetBit_field s F u i b State.clk fun _ _ => rfl
@[simp] theorem fsetBit_sar (F : Fld) (u i : Nat) (b : Bool) : (fsetBit F u i b s).sar = s.sar := fsetBit_field s F u i b State.sar fun _ _ => rfl
@[simp] theorem fsetBit_cmp (F : Fld) (u i : Nat) (b : Bool) : (fsetBit F u i b s).cmp = s.cmp := fsetBit_field s F u i b State.cmp fun _ _ => rfl
@[simp] theorem fsetBit_qep (F : Fld) (u i : Nat) (b : Bool) : (fsetBit F u i b s).qep = s.qep := fsetBit_field s F u i b State.qep fun _ _ => rfl
@[simp] theorem fsetBit_seu (F : Fld) (u i : Nat) (b : Bool) : (fsetBit F u i b s).seu = s.seu := fsetBit_field s F u i b State.seu fun _ _ => rfl
@[simp] theorem fsetBit_fab (F : Fld) (u i : Nat) (b : Bool) : (fsetBit F u i b s).fab = s.fab := fsetBit_field s F u i b State.fab fun _ _ => rfl
@[simp] theorem fsetBit_tmr (F : Fld) (u i : Nat) (b : Bool) : (fsetBit F u i b s).tmr = s.tmr := fsetBit_field s F u i b State.tmr fun _ _ => rfl
@[simp] theorem fsetBit_restart (F : Fld) (u i : Nat) (b : Bool) : (fsetBit F u i b s).restart = s.restart := fsetBit_field s F u i b State.restart fun _ _ => rfl
@[simp] theorem fsetBit_img (F : Fld) (u i : Nat) (b : Bool) : (fsetBit F u i b s).img = s.img := fsetBit_field s F u i b State.img fun _ _ => rfl
@[simp] theorem fsetBit_pads (F : Fld) (u i : Nat) (b : Bool) : (fsetBit F u i b s).pads = s.pads := fsetBit_field s F u i b State.pads fun _ _ => rfl
@[simp] theorem fsetBit_ports (F : Fld) (u i : Nat) (b : Bool) : (fsetBit F u i b s).ports = s.ports := fsetBit_field s F u i b State.ports fun _ _ => rfl
@[simp] theorem fsetBit_link (F : Fld) (u i : Nat) (b : Bool) : (fsetBit F u i b s).link = s.link := fsetBit_field s F u i b State.link fun _ _ => rfl
@[simp] theorem fsetBit_flt (F : Fld) (u i : Nat) (b : Bool) : (fsetBit F u i b s).flt = s.flt := fsetBit_field s F u i b State.flt fun _ _ => rfl
@[simp] theorem fsetBit_rct (F : Fld) (u i : Nat) (b : Bool) : (fsetBit F u i b s).rct = s.rct := fsetBit_field s F u i b State.rct fun _ _ => rfl
@[simp] theorem fsetBit_evs (F : Fld) (u i : Nat) (b : Bool) : (fsetBit F u i b s).evs = s.evs := fsetBit_field s F u i b State.evs fun _ _ => rfl
@[simp] theorem fsetBit_recs (F : Fld) (u i : Nat) (b : Bool) : (fsetBit F u i b s).recs = s.recs := fsetBit_field s F u i b State.recs fun _ _ => rfl
@[simp] theorem fsetBit_recAt (F : Fld) (u i : Nat) (b : Bool) : (fsetBit F u i b s).recAt = s.recAt := fsetBit_field s F u i b State.recAt fun _ _ => rfl
@[simp] theorem fsetBit_woke (F : Fld) (u i : Nat) (b : Bool) : (fsetBit F u i b s).woke = s.woke := fsetBit_field s F u i b State.woke fun _ _ => rfl
@[simp] theorem fsetBit_memh (F : Fld) (u i : Nat) (b : Bool) : (fsetBit F u i b s).memh = s.memh := fsetBit_field s F u i b State.memh fun _ _ => rfl
@[simp] theorem fsetBit_dma (F : Fld) (u i : Nat) (b : Bool) : (fsetBit F u i b s).dma = s.dma := fsetBit_field s F u i b State.dma fun _ _ => rfl
@[simp] theorem fsetBit_disp (F : Fld) (u i : Nat) (b : Bool) : (fsetBit F u i b s).disp = s.disp := fsetBit_field s F u i b State.disp fun _ _ => rfl
@[simp] theorem fsetBit_scan (F : Fld) (u i : Nat) (b : Bool) : (fsetBit F u i b s).scan = s.scan := fsetBit_field s F u i b State.scan fun _ _ => rfl
@[simp] theorem fsetBit_be (F : Fld) (u i : Nat) (b : Bool) : (fsetBit F u i b s).be = s.be := fsetBit_field s F u i b State.be fun _ _ => rfl
@[simp] theorem fsetBit_flx (F : Fld) (u i : Nat) (b : Bool) : (fsetBit F u i b s).flx = s.flx := fsetBit_field s F u i b State.flx fun _ _ => rfl
@[simp] theorem fsetBit_dp (F : Fld) (u i : Nat) (b : Bool) : (fsetBit F u i b s).dp = s.dp := fsetBit_field s F u i b State.dp fun _ _ => rfl
@[simp] theorem fsetBit_aud (F : Fld) (u i : Nat) (b : Bool) : (fsetBit F u i b s).aud = s.aud := fsetBit_field s F u i b State.aud fun _ _ => rfl
@[simp] theorem fsetBit_cfs (F : Fld) (u i : Nat) (b : Bool) : (fsetBit F u i b s).cfs = s.cfs := fsetBit_field s F u i b State.cfs fun _ _ => rfl
@[simp] theorem fsetBit_cfsWait (F : Fld) (u i : Nat) (b : Bool) : (fsetBit F u i b s).cfsWait = s.cfsWait := fsetBit_field s F u i b State.cfsWait fun _ _ => rfl
@[simp] theorem fsetBit_cfsAt (F : Fld) (u i : Nat) (b : Bool) : (fsetBit F u i b s).cfsAt = s.cfsAt := fsetBit_field s F u i b State.cfsAt fun _ _ => rfl
@[simp] theorem fsetBit_nand (F : Fld) (u i : Nat) (b : Bool) : (fsetBit F u i b s).nand = s.nand := fsetBit_field s F u i b State.nand fun _ _ => rfl
@[simp] theorem fsetBit_net (F : Fld) (u i : Nat) (b : Bool) : (fsetBit F u i b s).net = s.net := fsetBit_field s F u i b State.net fun _ _ => rfl
@[simp] theorem fsetBit_pwr (F : Fld) (u i : Nat) (b : Bool) : (fsetBit F u i b s).pwr = s.pwr := fsetBit_field s F u i b State.pwr fun _ _ => rfl
@[simp] theorem fsetBit_test (F : Fld) (u i : Nat) (b : Bool) : (fsetBit F u i b s).test = s.test := fsetBit_field s F u i b State.test fun _ _ => rfl
@[simp] theorem fsetBit_frameRep (F : Fld) (u i : Nat) (b : Bool) : (fsetBit F u i b s).frameRep = s.frameRep := fsetBit_field s F u i b State.frameRep fun _ _ => rfl
@[simp] theorem fsetBit_cpus (F : Fld) (u i : Nat) (b : Bool) : (fsetBit F u i b s).cpus = s.cpus := fsetBit_field s F u i b State.cpus fun _ _ => rfl
@[simp] theorem fsetBit_lcd (F : Fld) (u i : Nat) (b : Bool) : (fsetBit F u i b s).lcd = s.lcd := fsetBit_field s F u i b State.lcd fun _ _ => rfl
@[simp] theorem fsetBit_pending (F : Fld) (u i : Nat) (b : Bool) : (fsetBit F u i b s).pending = s.pending := fsetBit_field s F u i b State.pending fun _ _ => rfl

/-! ### answer -/

@[simp] theorem answer_part (v : Nat) : (answer v s).part = s.part := rfl
@[simp] theorem answer_tscreen (v : Nat) : (answer v s).tscreen = s.tscreen := rfl
@[simp] theorem answer_regs (v : Nat) : (answer v s).regs = s.regs := rfl
@[simp] theorem answer_mem (v : Nat) : (answer v s).mem = s.mem := rfl
@[simp] theorem answer_tags (v : Nat) : (answer v s).tags = s.tags := rfl
@[simp] theorem answer_poison (v : Nat) : (answer v s).poison = s.poison := rfl
@[simp] theorem answer_soft (v : Nat) : (answer v s).soft = s.soft := rfl
@[simp] theorem answer_valid (v : Nat) : (answer v s).valid = s.valid := rfl
@[simp] theorem answer_time (v : Nat) : (answer v s).time = s.time := rfl
@[simp] theorem answer_pos (v : Nat) : (answer v s).pos = s.pos := rfl
@[simp] theorem answer_due (v : Nat) : (answer v s).due = s.due := rfl
@[simp] theorem answer_fresh (v : Nat) : (answer v s).fresh = s.fresh := rfl
@[simp] theorem answer_swp (v : Nat) : (answer v s).swp = s.swp := rfl
@[simp] theorem answer_legs (v : Nat) : (answer v s).legs = s.legs := rfl
@[simp] theorem answer_startq (v : Nat) : (answer v s).startq = s.startq := rfl
@[simp] theorem answer_trips (v : Nat) : (answer v s).trips = s.trips := rfl
@[simp] theorem answer_ctx (v : Nat) : (answer v s).ctx = s.ctx := rfl
@[simp] theorem answer_holds (v : Nat) : (answer v s).holds = s.holds := rfl
@[simp] theorem answer_ctx1 (v : Nat) : (answer v s).ctx1 = s.ctx1 := rfl
@[simp] theorem answer_ctx2 (v : Nat) : (answer v s).ctx2 = s.ctx2 := rfl
@[simp] theorem answer_regs1 (v : Nat) : (answer v s).regs1 = s.regs1 := rfl
@[simp] theorem answer_mem1 (v : Nat) : (answer v s).mem1 = s.mem1 := rfl
@[simp] theorem answer_regs0 (v : Nat) : (answer v s).regs0 = s.regs0 := rfl
@[simp] theorem answer_ctx0 (v : Nat) : (answer v s).ctx0 = s.ctx0 := rfl
@[simp] theorem answer_hits (v : Nat) : (answer v s).hits = s.hits := rfl
@[simp] theorem answer_cross (v : Nat) : (answer v s).cross = s.cross := rfl
@[simp] theorem answer_eng (v : Nat) : (answer v s).eng = s.eng := rfl
@[simp] theorem answer_spare (v : Nat) : (answer v s).spare = s.spare := rfl
@[simp] theorem answer_trace (v : Nat) : (answer v s).trace = s.trace := rfl
@[simp] theorem answer_sdf (v : Nat) : (answer v s).sdf = s.sdf := rfl
@[simp] theorem answer_clk (v : Nat) : (answer v s).clk = s.clk := rfl
@[simp] theorem answer_sar (v : Nat) : (answer v s).sar = s.sar := rfl
@[simp] theorem answer_cmp (v : Nat) : (answer v s).cmp = s.cmp := rfl
@[simp] theorem answer_qep (v : Nat) : (answer v s).qep = s.qep := rfl
@[simp] theorem answer_seu (v : Nat) : (answer v s).seu = s.seu := rfl
@[simp] theorem answer_fab (v : Nat) : (answer v s).fab = s.fab := rfl
@[simp] theorem answer_tmr (v : Nat) : (answer v s).tmr = s.tmr := rfl
@[simp] theorem answer_restart (v : Nat) : (answer v s).restart = s.restart := rfl
@[simp] theorem answer_img (v : Nat) : (answer v s).img = s.img := rfl
@[simp] theorem answer_pads (v : Nat) : (answer v s).pads = s.pads := rfl
@[simp] theorem answer_ports (v : Nat) : (answer v s).ports = s.ports := rfl
@[simp] theorem answer_link (v : Nat) : (answer v s).link = s.link := rfl
@[simp] theorem answer_flt (v : Nat) : (answer v s).flt = s.flt := rfl
@[simp] theorem answer_rct (v : Nat) : (answer v s).rct = s.rct := rfl
@[simp] theorem answer_evs (v : Nat) : (answer v s).evs = s.evs := rfl
@[simp] theorem answer_recs (v : Nat) : (answer v s).recs = s.recs := rfl
@[simp] theorem answer_recAt (v : Nat) : (answer v s).recAt = s.recAt := rfl
@[simp] theorem answer_woke (v : Nat) : (answer v s).woke = s.woke := rfl
@[simp] theorem answer_memh (v : Nat) : (answer v s).memh = s.memh := rfl
@[simp] theorem answer_dma (v : Nat) : (answer v s).dma = s.dma := rfl
@[simp] theorem answer_disp (v : Nat) : (answer v s).disp = s.disp := rfl
@[simp] theorem answer_scan (v : Nat) : (answer v s).scan = s.scan := rfl
@[simp] theorem answer_be (v : Nat) : (answer v s).be = s.be := rfl
@[simp] theorem answer_flx (v : Nat) : (answer v s).flx = s.flx := rfl
@[simp] theorem answer_dp (v : Nat) : (answer v s).dp = s.dp := rfl
@[simp] theorem answer_aud (v : Nat) : (answer v s).aud = s.aud := rfl
@[simp] theorem answer_cfs (v : Nat) : (answer v s).cfs = s.cfs := rfl
@[simp] theorem answer_cfsWait (v : Nat) : (answer v s).cfsWait = s.cfsWait := rfl
@[simp] theorem answer_cfsAt (v : Nat) : (answer v s).cfsAt = s.cfsAt := rfl
@[simp] theorem answer_nand (v : Nat) : (answer v s).nand = s.nand := rfl
@[simp] theorem answer_net (v : Nat) : (answer v s).net = s.net := rfl
@[simp] theorem answer_pwr (v : Nat) : (answer v s).pwr = s.pwr := rfl
@[simp] theorem answer_test (v : Nat) : (answer v s).test = s.test := rfl
@[simp] theorem answer_frameRep (v : Nat) : (answer v s).frameRep = s.frameRep := rfl
@[simp] theorem answer_cpus (v : Nat) : (answer v s).cpus = s.cpus := rfl
@[simp] theorem answer_lcd (v : Nat) : (answer v s).lcd = s.lcd := rfl
@[simp] theorem answer_pending (v : Nat) : (answer v s).pending = s.pending := rfl

/-! ### busError -/

@[simp] theorem busError_part : (busError s).part = s.part := rfl
@[simp] theorem busError_tscreen : (busError s).tscreen = s.tscreen := rfl
@[simp] theorem busError_regs : (busError s).regs = s.regs := rfl
@[simp] theorem busError_mem : (busError s).mem = s.mem := rfl
@[simp] theorem busError_tags : (busError s).tags = s.tags := rfl
@[simp] theorem busError_poison : (busError s).poison = s.poison := rfl
@[simp] theorem busError_soft : (busError s).soft = s.soft := rfl
@[simp] theorem busError_valid : (busError s).valid = s.valid := rfl
@[simp] theorem busError_time : (busError s).time = s.time := rfl
@[simp] theorem busError_pos : (busError s).pos = s.pos := rfl
@[simp] theorem busError_due : (busError s).due = s.due := rfl
@[simp] theorem busError_fresh : (busError s).fresh = s.fresh := rfl
@[simp] theorem busError_swp : (busError s).swp = s.swp := rfl
@[simp] theorem busError_legs : (busError s).legs = s.legs := rfl
@[simp] theorem busError_startq : (busError s).startq = s.startq := rfl
@[simp] theorem busError_trips : (busError s).trips = s.trips := rfl
@[simp] theorem busError_ctx : (busError s).ctx = s.ctx := rfl
@[simp] theorem busError_holds : (busError s).holds = s.holds := rfl
@[simp] theorem busError_ctx1 : (busError s).ctx1 = s.ctx1 := rfl
@[simp] theorem busError_ctx2 : (busError s).ctx2 = s.ctx2 := rfl
@[simp] theorem busError_regs1 : (busError s).regs1 = s.regs1 := rfl
@[simp] theorem busError_mem1 : (busError s).mem1 = s.mem1 := rfl
@[simp] theorem busError_regs0 : (busError s).regs0 = s.regs0 := rfl
@[simp] theorem busError_ctx0 : (busError s).ctx0 = s.ctx0 := rfl
@[simp] theorem busError_hits : (busError s).hits = s.hits := rfl
@[simp] theorem busError_cross : (busError s).cross = s.cross := rfl
@[simp] theorem busError_eng : (busError s).eng = s.eng := rfl
@[simp] theorem busError_spare : (busError s).spare = s.spare := rfl
@[simp] theorem busError_trace : (busError s).trace = s.trace := rfl
@[simp] theorem busError_sdf : (busError s).sdf = s.sdf := rfl
@[simp] theorem busError_clk : (busError s).clk = s.clk := rfl
@[simp] theorem busError_sar : (busError s).sar = s.sar := rfl
@[simp] theorem busError_cmp : (busError s).cmp = s.cmp := rfl
@[simp] theorem busError_qep : (busError s).qep = s.qep := rfl
@[simp] theorem busError_seu : (busError s).seu = s.seu := rfl
@[simp] theorem busError_fab : (busError s).fab = s.fab := rfl
@[simp] theorem busError_tmr : (busError s).tmr = s.tmr := rfl
@[simp] theorem busError_restart : (busError s).restart = s.restart := rfl
@[simp] theorem busError_img : (busError s).img = s.img := rfl
@[simp] theorem busError_pads : (busError s).pads = s.pads := rfl
@[simp] theorem busError_ports : (busError s).ports = s.ports := rfl
@[simp] theorem busError_link : (busError s).link = s.link := rfl
@[simp] theorem busError_flt : (busError s).flt = s.flt := rfl
@[simp] theorem busError_rct : (busError s).rct = s.rct := rfl
@[simp] theorem busError_evs : (busError s).evs = s.evs := rfl
@[simp] theorem busError_recs : (busError s).recs = s.recs := rfl
@[simp] theorem busError_recAt : (busError s).recAt = s.recAt := rfl
@[simp] theorem busError_woke : (busError s).woke = s.woke := rfl
@[simp] theorem busError_memh : (busError s).memh = s.memh := rfl
@[simp] theorem busError_dma : (busError s).dma = s.dma := rfl
@[simp] theorem busError_disp : (busError s).disp = s.disp := rfl
@[simp] theorem busError_scan : (busError s).scan = s.scan := rfl
@[simp] theorem busError_be : (busError s).be = s.be := rfl
@[simp] theorem busError_flx : (busError s).flx = s.flx := rfl
@[simp] theorem busError_dp : (busError s).dp = s.dp := rfl
@[simp] theorem busError_aud : (busError s).aud = s.aud := rfl
@[simp] theorem busError_cfs : (busError s).cfs = s.cfs := rfl
@[simp] theorem busError_cfsWait : (busError s).cfsWait = s.cfsWait := rfl
@[simp] theorem busError_cfsAt : (busError s).cfsAt = s.cfsAt := rfl
@[simp] theorem busError_nand : (busError s).nand = s.nand := rfl
@[simp] theorem busError_net : (busError s).net = s.net := rfl
@[simp] theorem busError_pwr : (busError s).pwr = s.pwr := rfl
@[simp] theorem busError_test : (busError s).test = s.test := rfl
@[simp] theorem busError_frameRep : (busError s).frameRep = s.frameRep := rfl
@[simp] theorem busError_cpus : (busError s).cpus = s.cpus := rfl
@[simp] theorem busError_lcd : (busError s).lcd = s.lcd := rfl
@[simp] theorem busError_pending : (busError s).pending = s.pending := rfl

/-! ### later -/

@[simp] theorem later_part (n : Nat) (d : Due) : (later n d s).part = s.part := rfl
@[simp] theorem later_tscreen (n : Nat) (d : Due) : (later n d s).tscreen = s.tscreen := rfl
@[simp] theorem later_regs (n : Nat) (d : Due) : (later n d s).regs = s.regs := rfl
@[simp] theorem later_mem (n : Nat) (d : Due) : (later n d s).mem = s.mem := rfl
@[simp] theorem later_tags (n : Nat) (d : Due) : (later n d s).tags = s.tags := rfl
@[simp] theorem later_poison (n : Nat) (d : Due) : (later n d s).poison = s.poison := rfl
@[simp] theorem later_soft (n : Nat) (d : Due) : (later n d s).soft = s.soft := rfl
@[simp] theorem later_valid (n : Nat) (d : Due) : (later n d s).valid = s.valid := rfl
@[simp] theorem later_time (n : Nat) (d : Due) : (later n d s).time = s.time := rfl
@[simp] theorem later_pos (n : Nat) (d : Due) : (later n d s).pos = s.pos := rfl
@[simp] theorem later_fresh (n : Nat) (d : Due) : (later n d s).fresh = s.fresh := rfl
@[simp] theorem later_resp (n : Nat) (d : Due) : (later n d s).resp = s.resp := rfl
@[simp] theorem later_swp (n : Nat) (d : Due) : (later n d s).swp = s.swp := rfl
@[simp] theorem later_legs (n : Nat) (d : Due) : (later n d s).legs = s.legs := rfl
@[simp] theorem later_startq (n : Nat) (d : Due) : (later n d s).startq = s.startq := rfl
@[simp] theorem later_trips (n : Nat) (d : Due) : (later n d s).trips = s.trips := rfl
@[simp] theorem later_ctx (n : Nat) (d : Due) : (later n d s).ctx = s.ctx := rfl
@[simp] theorem later_holds (n : Nat) (d : Due) : (later n d s).holds = s.holds := rfl
@[simp] theorem later_ctx1 (n : Nat) (d : Due) : (later n d s).ctx1 = s.ctx1 := rfl
@[simp] theorem later_ctx2 (n : Nat) (d : Due) : (later n d s).ctx2 = s.ctx2 := rfl
@[simp] theorem later_regs1 (n : Nat) (d : Due) : (later n d s).regs1 = s.regs1 := rfl
@[simp] theorem later_mem1 (n : Nat) (d : Due) : (later n d s).mem1 = s.mem1 := rfl
@[simp] theorem later_regs0 (n : Nat) (d : Due) : (later n d s).regs0 = s.regs0 := rfl
@[simp] theorem later_ctx0 (n : Nat) (d : Due) : (later n d s).ctx0 = s.ctx0 := rfl
@[simp] theorem later_hits (n : Nat) (d : Due) : (later n d s).hits = s.hits := rfl
@[simp] theorem later_cross (n : Nat) (d : Due) : (later n d s).cross = s.cross := rfl
@[simp] theorem later_eng (n : Nat) (d : Due) : (later n d s).eng = s.eng := rfl
@[simp] theorem later_spare (n : Nat) (d : Due) : (later n d s).spare = s.spare := rfl
@[simp] theorem later_trace (n : Nat) (d : Due) : (later n d s).trace = s.trace := rfl
@[simp] theorem later_sdf (n : Nat) (d : Due) : (later n d s).sdf = s.sdf := rfl
@[simp] theorem later_clk (n : Nat) (d : Due) : (later n d s).clk = s.clk := rfl
@[simp] theorem later_sar (n : Nat) (d : Due) : (later n d s).sar = s.sar := rfl
@[simp] theorem later_cmp (n : Nat) (d : Due) : (later n d s).cmp = s.cmp := rfl
@[simp] theorem later_qep (n : Nat) (d : Due) : (later n d s).qep = s.qep := rfl
@[simp] theorem later_seu (n : Nat) (d : Due) : (later n d s).seu = s.seu := rfl
@[simp] theorem later_fab (n : Nat) (d : Due) : (later n d s).fab = s.fab := rfl
@[simp] theorem later_tmr (n : Nat) (d : Due) : (later n d s).tmr = s.tmr := rfl
@[simp] theorem later_restart (n : Nat) (d : Due) : (later n d s).restart = s.restart := rfl
@[simp] theorem later_img (n : Nat) (d : Due) : (later n d s).img = s.img := rfl
@[simp] theorem later_pads (n : Nat) (d : Due) : (later n d s).pads = s.pads := rfl
@[simp] theorem later_ports (n : Nat) (d : Due) : (later n d s).ports = s.ports := rfl
@[simp] theorem later_link (n : Nat) (d : Due) : (later n d s).link = s.link := rfl
@[simp] theorem later_flt (n : Nat) (d : Due) : (later n d s).flt = s.flt := rfl
@[simp] theorem later_rct (n : Nat) (d : Due) : (later n d s).rct = s.rct := rfl
@[simp] theorem later_evs (n : Nat) (d : Due) : (later n d s).evs = s.evs := rfl
@[simp] theorem later_recs (n : Nat) (d : Due) : (later n d s).recs = s.recs := rfl
@[simp] theorem later_recAt (n : Nat) (d : Due) : (later n d s).recAt = s.recAt := rfl
@[simp] theorem later_woke (n : Nat) (d : Due) : (later n d s).woke = s.woke := rfl
@[simp] theorem later_memh (n : Nat) (d : Due) : (later n d s).memh = s.memh := rfl
@[simp] theorem later_dma (n : Nat) (d : Due) : (later n d s).dma = s.dma := rfl
@[simp] theorem later_disp (n : Nat) (d : Due) : (later n d s).disp = s.disp := rfl
@[simp] theorem later_scan (n : Nat) (d : Due) : (later n d s).scan = s.scan := rfl
@[simp] theorem later_be (n : Nat) (d : Due) : (later n d s).be = s.be := rfl
@[simp] theorem later_flx (n : Nat) (d : Due) : (later n d s).flx = s.flx := rfl
@[simp] theorem later_dp (n : Nat) (d : Due) : (later n d s).dp = s.dp := rfl
@[simp] theorem later_aud (n : Nat) (d : Due) : (later n d s).aud = s.aud := rfl
@[simp] theorem later_cfs (n : Nat) (d : Due) : (later n d s).cfs = s.cfs := rfl
@[simp] theorem later_cfsWait (n : Nat) (d : Due) : (later n d s).cfsWait = s.cfsWait := rfl
@[simp] theorem later_cfsAt (n : Nat) (d : Due) : (later n d s).cfsAt = s.cfsAt := rfl
@[simp] theorem later_nand (n : Nat) (d : Due) : (later n d s).nand = s.nand := rfl
@[simp] theorem later_net (n : Nat) (d : Due) : (later n d s).net = s.net := rfl
@[simp] theorem later_pwr (n : Nat) (d : Due) : (later n d s).pwr = s.pwr := rfl
@[simp] theorem later_test (n : Nat) (d : Due) : (later n d s).test = s.test := rfl
@[simp] theorem later_frameRep (n : Nat) (d : Due) : (later n d s).frameRep = s.frameRep := rfl
@[simp] theorem later_cpus (n : Nat) (d : Due) : (later n d s).cpus = s.cpus := rfl
@[simp] theorem later_lcd (n : Nat) (d : Due) : (later n d s).lcd = s.lcd := rfl
@[simp] theorem later_pending (n : Nat) (d : Due) : (later n d s).pending = s.pending := rfl

/-! ### dropDue -/

@[simp] theorem dropDue_part (p : Due → Bool) : (dropDue p s).part = s.part := rfl
@[simp] theorem dropDue_tscreen (p : Due → Bool) : (dropDue p s).tscreen = s.tscreen := rfl
@[simp] theorem dropDue_regs (p : Due → Bool) : (dropDue p s).regs = s.regs := rfl
@[simp] theorem dropDue_mem (p : Due → Bool) : (dropDue p s).mem = s.mem := rfl
@[simp] theorem dropDue_tags (p : Due → Bool) : (dropDue p s).tags = s.tags := rfl
@[simp] theorem dropDue_poison (p : Due → Bool) : (dropDue p s).poison = s.poison := rfl
@[simp] theorem dropDue_soft (p : Due → Bool) : (dropDue p s).soft = s.soft := rfl
@[simp] theorem dropDue_valid (p : Due → Bool) : (dropDue p s).valid = s.valid := rfl
@[simp] theorem dropDue_time (p : Due → Bool) : (dropDue p s).time = s.time := rfl
@[simp] theorem dropDue_pos (p : Due → Bool) : (dropDue p s).pos = s.pos := rfl
@[simp] theorem dropDue_fresh (p : Due → Bool) : (dropDue p s).fresh = s.fresh := rfl
@[simp] theorem dropDue_resp (p : Due → Bool) : (dropDue p s).resp = s.resp := rfl
@[simp] theorem dropDue_swp (p : Due → Bool) : (dropDue p s).swp = s.swp := rfl
@[simp] theorem dropDue_legs (p : Due → Bool) : (dropDue p s).legs = s.legs := rfl
@[simp] theorem dropDue_startq (p : Due → Bool) : (dropDue p s).startq = s.startq := rfl
@[simp] theorem dropDue_trips (p : Due → Bool) : (dropDue p s).trips = s.trips := rfl
@[simp] theorem dropDue_ctx (p : Due → Bool) : (dropDue p s).ctx = s.ctx := rfl
@[simp] theorem dropDue_holds (p : Due → Bool) : (dropDue p s).holds = s.holds := rfl
@[simp] theorem dropDue_ctx1 (p : Due → Bool) : (dropDue p s).ctx1 = s.ctx1 := rfl
@[simp] theorem dropDue_ctx2 (p : Due → Bool) : (dropDue p s).ctx2 = s.ctx2 := rfl
@[simp] theorem dropDue_regs1 (p : Due → Bool) : (dropDue p s).regs1 = s.regs1 := rfl
@[simp] theorem dropDue_mem1 (p : Due → Bool) : (dropDue p s).mem1 = s.mem1 := rfl
@[simp] theorem dropDue_regs0 (p : Due → Bool) : (dropDue p s).regs0 = s.regs0 := rfl
@[simp] theorem dropDue_ctx0 (p : Due → Bool) : (dropDue p s).ctx0 = s.ctx0 := rfl
@[simp] theorem dropDue_hits (p : Due → Bool) : (dropDue p s).hits = s.hits := rfl
@[simp] theorem dropDue_cross (p : Due → Bool) : (dropDue p s).cross = s.cross := rfl
@[simp] theorem dropDue_eng (p : Due → Bool) : (dropDue p s).eng = s.eng := rfl
@[simp] theorem dropDue_spare (p : Due → Bool) : (dropDue p s).spare = s.spare := rfl
@[simp] theorem dropDue_trace (p : Due → Bool) : (dropDue p s).trace = s.trace := rfl
@[simp] theorem dropDue_sdf (p : Due → Bool) : (dropDue p s).sdf = s.sdf := rfl
@[simp] theorem dropDue_clk (p : Due → Bool) : (dropDue p s).clk = s.clk := rfl
@[simp] theorem dropDue_sar (p : Due → Bool) : (dropDue p s).sar = s.sar := rfl
@[simp] theorem dropDue_cmp (p : Due → Bool) : (dropDue p s).cmp = s.cmp := rfl
@[simp] theorem dropDue_qep (p : Due → Bool) : (dropDue p s).qep = s.qep := rfl
@[simp] theorem dropDue_seu (p : Due → Bool) : (dropDue p s).seu = s.seu := rfl
@[simp] theorem dropDue_fab (p : Due → Bool) : (dropDue p s).fab = s.fab := rfl
@[simp] theorem dropDue_tmr (p : Due → Bool) : (dropDue p s).tmr = s.tmr := rfl
@[simp] theorem dropDue_restart (p : Due → Bool) : (dropDue p s).restart = s.restart := rfl
@[simp] theorem dropDue_img (p : Due → Bool) : (dropDue p s).img = s.img := rfl
@[simp] theorem dropDue_pads (p : Due → Bool) : (dropDue p s).pads = s.pads := rfl
@[simp] theorem dropDue_ports (p : Due → Bool) : (dropDue p s).ports = s.ports := rfl
@[simp] theorem dropDue_link (p : Due → Bool) : (dropDue p s).link = s.link := rfl
@[simp] theorem dropDue_flt (p : Due → Bool) : (dropDue p s).flt = s.flt := rfl
@[simp] theorem dropDue_rct (p : Due → Bool) : (dropDue p s).rct = s.rct := rfl
@[simp] theorem dropDue_evs (p : Due → Bool) : (dropDue p s).evs = s.evs := rfl
@[simp] theorem dropDue_recs (p : Due → Bool) : (dropDue p s).recs = s.recs := rfl
@[simp] theorem dropDue_recAt (p : Due → Bool) : (dropDue p s).recAt = s.recAt := rfl
@[simp] theorem dropDue_woke (p : Due → Bool) : (dropDue p s).woke = s.woke := rfl
@[simp] theorem dropDue_memh (p : Due → Bool) : (dropDue p s).memh = s.memh := rfl
@[simp] theorem dropDue_dma (p : Due → Bool) : (dropDue p s).dma = s.dma := rfl
@[simp] theorem dropDue_disp (p : Due → Bool) : (dropDue p s).disp = s.disp := rfl
@[simp] theorem dropDue_scan (p : Due → Bool) : (dropDue p s).scan = s.scan := rfl
@[simp] theorem dropDue_be (p : Due → Bool) : (dropDue p s).be = s.be := rfl
@[simp] theorem dropDue_flx (p : Due → Bool) : (dropDue p s).flx = s.flx := rfl
@[simp] theorem dropDue_dp (p : Due → Bool) : (dropDue p s).dp = s.dp := rfl
@[simp] theorem dropDue_aud (p : Due → Bool) : (dropDue p s).aud = s.aud := rfl
@[simp] theorem dropDue_cfs (p : Due → Bool) : (dropDue p s).cfs = s.cfs := rfl
@[simp] theorem dropDue_cfsWait (p : Due → Bool) : (dropDue p s).cfsWait = s.cfsWait := rfl
@[simp] theorem dropDue_cfsAt (p : Due → Bool) : (dropDue p s).cfsAt = s.cfsAt := rfl
@[simp] theorem dropDue_nand (p : Due → Bool) : (dropDue p s).nand = s.nand := rfl
@[simp] theorem dropDue_net (p : Due → Bool) : (dropDue p s).net = s.net := rfl
@[simp] theorem dropDue_pwr (p : Due → Bool) : (dropDue p s).pwr = s.pwr := rfl
@[simp] theorem dropDue_test (p : Due → Bool) : (dropDue p s).test = s.test := rfl
@[simp] theorem dropDue_frameRep (p : Due → Bool) : (dropDue p s).frameRep = s.frameRep := rfl
@[simp] theorem dropDue_cpus (p : Due → Bool) : (dropDue p s).cpus = s.cpus := rfl
@[simp] theorem dropDue_lcd (p : Due → Bool) : (dropDue p s).lcd = s.lcd := rfl
@[simp] theorem dropDue_pending (p : Due → Bool) : (dropDue p s).pending = s.pending := rfl

/-! ### nextFresh -/

@[simp] theorem nextFresh_part : (nextFresh s).part = s.part := rfl
@[simp] theorem nextFresh_tscreen : (nextFresh s).tscreen = s.tscreen := rfl
@[simp] theorem nextFresh_regs : (nextFresh s).regs = s.regs := rfl
@[simp] theorem nextFresh_mem : (nextFresh s).mem = s.mem := rfl
@[simp] theorem nextFresh_tags : (nextFresh s).tags = s.tags := rfl
@[simp] theorem nextFresh_poison : (nextFresh s).poison = s.poison := rfl
@[simp] theorem nextFresh_soft : (nextFresh s).soft = s.soft := rfl
@[simp] theorem nextFresh_valid : (nextFresh s).valid = s.valid := rfl
@[simp] theorem nextFresh_time : (nextFresh s).time = s.time := rfl
@[simp] theorem nextFresh_pos : (nextFresh s).pos = s.pos := rfl
@[simp] theorem nextFresh_due : (nextFresh s).due = s.due := rfl
@[simp] theorem nextFresh_resp : (nextFresh s).resp = s.resp := rfl
@[simp] theorem nextFresh_swp : (nextFresh s).swp = s.swp := rfl
@[simp] theorem nextFresh_legs : (nextFresh s).legs = s.legs := rfl
@[simp] theorem nextFresh_startq : (nextFresh s).startq = s.startq := rfl
@[simp] theorem nextFresh_trips : (nextFresh s).trips = s.trips := rfl
@[simp] theorem nextFresh_ctx : (nextFresh s).ctx = s.ctx := rfl
@[simp] theorem nextFresh_holds : (nextFresh s).holds = s.holds := rfl
@[simp] theorem nextFresh_ctx1 : (nextFresh s).ctx1 = s.ctx1 := rfl
@[simp] theorem nextFresh_ctx2 : (nextFresh s).ctx2 = s.ctx2 := rfl
@[simp] theorem nextFresh_regs1 : (nextFresh s).regs1 = s.regs1 := rfl
@[simp] theorem nextFresh_mem1 : (nextFresh s).mem1 = s.mem1 := rfl
@[simp] theorem nextFresh_regs0 : (nextFresh s).regs0 = s.regs0 := rfl
@[simp] theorem nextFresh_ctx0 : (nextFresh s).ctx0 = s.ctx0 := rfl
@[simp] theorem nextFresh_hits : (nextFresh s).hits = s.hits := rfl
@[simp] theorem nextFresh_cross : (nextFresh s).cross = s.cross := rfl
@[simp] theorem nextFresh_eng : (nextFresh s).eng = s.eng := rfl
@[simp] theorem nextFresh_spare : (nextFresh s).spare = s.spare := rfl
@[simp] theorem nextFresh_trace : (nextFresh s).trace = s.trace := rfl
@[simp] theorem nextFresh_sdf : (nextFresh s).sdf = s.sdf := rfl
@[simp] theorem nextFresh_clk : (nextFresh s).clk = s.clk := rfl
@[simp] theorem nextFresh_sar : (nextFresh s).sar = s.sar := rfl
@[simp] theorem nextFresh_cmp : (nextFresh s).cmp = s.cmp := rfl
@[simp] theorem nextFresh_qep : (nextFresh s).qep = s.qep := rfl
@[simp] theorem nextFresh_seu : (nextFresh s).seu = s.seu := rfl
@[simp] theorem nextFresh_fab : (nextFresh s).fab = s.fab := rfl
@[simp] theorem nextFresh_tmr : (nextFresh s).tmr = s.tmr := rfl
@[simp] theorem nextFresh_restart : (nextFresh s).restart = s.restart := rfl
@[simp] theorem nextFresh_img : (nextFresh s).img = s.img := rfl
@[simp] theorem nextFresh_pads : (nextFresh s).pads = s.pads := rfl
@[simp] theorem nextFresh_ports : (nextFresh s).ports = s.ports := rfl
@[simp] theorem nextFresh_link : (nextFresh s).link = s.link := rfl
@[simp] theorem nextFresh_flt : (nextFresh s).flt = s.flt := rfl
@[simp] theorem nextFresh_rct : (nextFresh s).rct = s.rct := rfl
@[simp] theorem nextFresh_evs : (nextFresh s).evs = s.evs := rfl
@[simp] theorem nextFresh_recs : (nextFresh s).recs = s.recs := rfl
@[simp] theorem nextFresh_recAt : (nextFresh s).recAt = s.recAt := rfl
@[simp] theorem nextFresh_woke : (nextFresh s).woke = s.woke := rfl
@[simp] theorem nextFresh_memh : (nextFresh s).memh = s.memh := rfl
@[simp] theorem nextFresh_dma : (nextFresh s).dma = s.dma := rfl
@[simp] theorem nextFresh_disp : (nextFresh s).disp = s.disp := rfl
@[simp] theorem nextFresh_scan : (nextFresh s).scan = s.scan := rfl
@[simp] theorem nextFresh_be : (nextFresh s).be = s.be := rfl
@[simp] theorem nextFresh_flx : (nextFresh s).flx = s.flx := rfl
@[simp] theorem nextFresh_dp : (nextFresh s).dp = s.dp := rfl
@[simp] theorem nextFresh_aud : (nextFresh s).aud = s.aud := rfl
@[simp] theorem nextFresh_cfs : (nextFresh s).cfs = s.cfs := rfl
@[simp] theorem nextFresh_cfsWait : (nextFresh s).cfsWait = s.cfsWait := rfl
@[simp] theorem nextFresh_cfsAt : (nextFresh s).cfsAt = s.cfsAt := rfl
@[simp] theorem nextFresh_nand : (nextFresh s).nand = s.nand := rfl
@[simp] theorem nextFresh_net : (nextFresh s).net = s.net := rfl
@[simp] theorem nextFresh_pwr : (nextFresh s).pwr = s.pwr := rfl
@[simp] theorem nextFresh_test : (nextFresh s).test = s.test := rfl
@[simp] theorem nextFresh_frameRep : (nextFresh s).frameRep = s.frameRep := rfl
@[simp] theorem nextFresh_cpus : (nextFresh s).cpus = s.cpus := rfl
@[simp] theorem nextFresh_lcd : (nextFresh s).lcd = s.lcd := rfl
@[simp] theorem nextFresh_pending : (nextFresh s).pending = s.pending := rfl

/-! ### fire -/

@[simp] theorem fire_part (e : Nat) : (fire e s).part = s.part := rfl
@[simp] theorem fire_tscreen (e : Nat) : (fire e s).tscreen = s.tscreen := rfl
@[simp] theorem fire_regs (e : Nat) : (fire e s).regs = s.regs := rfl
@[simp] theorem fire_mem (e : Nat) : (fire e s).mem = s.mem := rfl
@[simp] theorem fire_tags (e : Nat) : (fire e s).tags = s.tags := rfl
@[simp] theorem fire_poison (e : Nat) : (fire e s).poison = s.poison := rfl
@[simp] theorem fire_soft (e : Nat) : (fire e s).soft = s.soft := rfl
@[simp] theorem fire_valid (e : Nat) : (fire e s).valid = s.valid := rfl
@[simp] theorem fire_time (e : Nat) : (fire e s).time = s.time := rfl
@[simp] theorem fire_pos (e : Nat) : (fire e s).pos = s.pos := rfl
@[simp] theorem fire_due (e : Nat) : (fire e s).due = s.due := rfl
@[simp] theorem fire_fresh (e : Nat) : (fire e s).fresh = s.fresh := rfl
@[simp] theorem fire_resp (e : Nat) : (fire e s).resp = s.resp := rfl
@[simp] theorem fire_swp (e : Nat) : (fire e s).swp = s.swp := rfl
@[simp] theorem fire_legs (e : Nat) : (fire e s).legs = s.legs := rfl
@[simp] theorem fire_startq (e : Nat) : (fire e s).startq = s.startq := rfl
@[simp] theorem fire_trips (e : Nat) : (fire e s).trips = s.trips := rfl
@[simp] theorem fire_ctx (e : Nat) : (fire e s).ctx = s.ctx := rfl
@[simp] theorem fire_holds (e : Nat) : (fire e s).holds = s.holds := rfl
@[simp] theorem fire_ctx1 (e : Nat) : (fire e s).ctx1 = s.ctx1 := rfl
@[simp] theorem fire_ctx2 (e : Nat) : (fire e s).ctx2 = s.ctx2 := rfl
@[simp] theorem fire_regs1 (e : Nat) : (fire e s).regs1 = s.regs1 := rfl
@[simp] theorem fire_mem1 (e : Nat) : (fire e s).mem1 = s.mem1 := rfl
@[simp] theorem fire_regs0 (e : Nat) : (fire e s).regs0 = s.regs0 := rfl
@[simp] theorem fire_ctx0 (e : Nat) : (fire e s).ctx0 = s.ctx0 := rfl
@[simp] theorem fire_hits (e : Nat) : (fire e s).hits = s.hits := rfl
@[simp] theorem fire_cross (e : Nat) : (fire e s).cross = s.cross := rfl
@[simp] theorem fire_eng (e : Nat) : (fire e s).eng = s.eng := rfl
@[simp] theorem fire_spare (e : Nat) : (fire e s).spare = s.spare := rfl
@[simp] theorem fire_trace (e : Nat) : (fire e s).trace = s.trace := rfl
@[simp] theorem fire_sdf (e : Nat) : (fire e s).sdf = s.sdf := rfl
@[simp] theorem fire_clk (e : Nat) : (fire e s).clk = s.clk := rfl
@[simp] theorem fire_sar (e : Nat) : (fire e s).sar = s.sar := rfl
@[simp] theorem fire_cmp (e : Nat) : (fire e s).cmp = s.cmp := rfl
@[simp] theorem fire_qep (e : Nat) : (fire e s).qep = s.qep := rfl
@[simp] theorem fire_seu (e : Nat) : (fire e s).seu = s.seu := rfl
@[simp] theorem fire_tmr (e : Nat) : (fire e s).tmr = s.tmr := rfl
@[simp] theorem fire_restart (e : Nat) : (fire e s).restart = s.restart := rfl
@[simp] theorem fire_img (e : Nat) : (fire e s).img = s.img := rfl
@[simp] theorem fire_pads (e : Nat) : (fire e s).pads = s.pads := rfl
@[simp] theorem fire_ports (e : Nat) : (fire e s).ports = s.ports := rfl
@[simp] theorem fire_link (e : Nat) : (fire e s).link = s.link := rfl
@[simp] theorem fire_flt (e : Nat) : (fire e s).flt = s.flt := rfl
@[simp] theorem fire_rct (e : Nat) : (fire e s).rct = s.rct := rfl
@[simp] theorem fire_evs (e : Nat) : (fire e s).evs = s.evs := rfl
@[simp] theorem fire_recs (e : Nat) : (fire e s).recs = s.recs := rfl
@[simp] theorem fire_recAt (e : Nat) : (fire e s).recAt = s.recAt := rfl
@[simp] theorem fire_woke (e : Nat) : (fire e s).woke = s.woke := rfl
@[simp] theorem fire_memh (e : Nat) : (fire e s).memh = s.memh := rfl
@[simp] theorem fire_dma (e : Nat) : (fire e s).dma = s.dma := rfl
@[simp] theorem fire_disp (e : Nat) : (fire e s).disp = s.disp := rfl
@[simp] theorem fire_scan (e : Nat) : (fire e s).scan = s.scan := rfl
@[simp] theorem fire_be (e : Nat) : (fire e s).be = s.be := rfl
@[simp] theorem fire_flx (e : Nat) : (fire e s).flx = s.flx := rfl
@[simp] theorem fire_dp (e : Nat) : (fire e s).dp = s.dp := rfl
@[simp] theorem fire_aud (e : Nat) : (fire e s).aud = s.aud := rfl
@[simp] theorem fire_cfs (e : Nat) : (fire e s).cfs = s.cfs := rfl
@[simp] theorem fire_cfsWait (e : Nat) : (fire e s).cfsWait = s.cfsWait := rfl
@[simp] theorem fire_cfsAt (e : Nat) : (fire e s).cfsAt = s.cfsAt := rfl
@[simp] theorem fire_nand (e : Nat) : (fire e s).nand = s.nand := rfl
@[simp] theorem fire_net (e : Nat) : (fire e s).net = s.net := rfl
@[simp] theorem fire_pwr (e : Nat) : (fire e s).pwr = s.pwr := rfl
@[simp] theorem fire_test (e : Nat) : (fire e s).test = s.test := rfl
@[simp] theorem fire_frameRep (e : Nat) : (fire e s).frameRep = s.frameRep := rfl
@[simp] theorem fire_cpus (e : Nat) : (fire e s).cpus = s.cpus := rfl
@[simp] theorem fire_lcd (e : Nat) : (fire e s).lcd = s.lcd := rfl
@[simp] theorem fire_pending (e : Nat) : (fire e s).pending = s.pending := rfl

/-! ### report -/

@[simp] theorem report_part (src i0 i1 : Nat) : (report src i0 i1 s).part = s.part := rfl
@[simp] theorem report_tscreen (src i0 i1 : Nat) : (report src i0 i1 s).tscreen = s.tscreen := rfl
@[simp] theorem report_regs (src i0 i1 : Nat) : (report src i0 i1 s).regs = s.regs := rfl
@[simp] theorem report_mem (src i0 i1 : Nat) : (report src i0 i1 s).mem = s.mem := rfl
@[simp] theorem report_tags (src i0 i1 : Nat) : (report src i0 i1 s).tags = s.tags := rfl
@[simp] theorem report_poison (src i0 i1 : Nat) : (report src i0 i1 s).poison = s.poison := rfl
@[simp] theorem report_soft (src i0 i1 : Nat) : (report src i0 i1 s).soft = s.soft := rfl
@[simp] theorem report_valid (src i0 i1 : Nat) : (report src i0 i1 s).valid = s.valid := rfl
@[simp] theorem report_time (src i0 i1 : Nat) : (report src i0 i1 s).time = s.time := rfl
@[simp] theorem report_pos (src i0 i1 : Nat) : (report src i0 i1 s).pos = s.pos := rfl
@[simp] theorem report_due (src i0 i1 : Nat) : (report src i0 i1 s).due = s.due := rfl
@[simp] theorem report_fresh (src i0 i1 : Nat) : (report src i0 i1 s).fresh = s.fresh := rfl
@[simp] theorem report_resp (src i0 i1 : Nat) : (report src i0 i1 s).resp = s.resp := rfl
@[simp] theorem report_swp (src i0 i1 : Nat) : (report src i0 i1 s).swp = s.swp := rfl
@[simp] theorem report_legs (src i0 i1 : Nat) : (report src i0 i1 s).legs = s.legs := rfl
@[simp] theorem report_startq (src i0 i1 : Nat) : (report src i0 i1 s).startq = s.startq := rfl
@[simp] theorem report_trips (src i0 i1 : Nat) : (report src i0 i1 s).trips = s.trips := rfl
@[simp] theorem report_ctx (src i0 i1 : Nat) : (report src i0 i1 s).ctx = s.ctx := rfl
@[simp] theorem report_holds (src i0 i1 : Nat) : (report src i0 i1 s).holds = s.holds := rfl
@[simp] theorem report_ctx1 (src i0 i1 : Nat) : (report src i0 i1 s).ctx1 = s.ctx1 := rfl
@[simp] theorem report_ctx2 (src i0 i1 : Nat) : (report src i0 i1 s).ctx2 = s.ctx2 := rfl
@[simp] theorem report_regs1 (src i0 i1 : Nat) : (report src i0 i1 s).regs1 = s.regs1 := rfl
@[simp] theorem report_mem1 (src i0 i1 : Nat) : (report src i0 i1 s).mem1 = s.mem1 := rfl
@[simp] theorem report_regs0 (src i0 i1 : Nat) : (report src i0 i1 s).regs0 = s.regs0 := rfl
@[simp] theorem report_ctx0 (src i0 i1 : Nat) : (report src i0 i1 s).ctx0 = s.ctx0 := rfl
@[simp] theorem report_hits (src i0 i1 : Nat) : (report src i0 i1 s).hits = s.hits := rfl
@[simp] theorem report_cross (src i0 i1 : Nat) : (report src i0 i1 s).cross = s.cross := rfl
@[simp] theorem report_eng (src i0 i1 : Nat) : (report src i0 i1 s).eng = s.eng := rfl
@[simp] theorem report_spare (src i0 i1 : Nat) : (report src i0 i1 s).spare = s.spare := rfl
@[simp] theorem report_trace (src i0 i1 : Nat) : (report src i0 i1 s).trace = s.trace := rfl
@[simp] theorem report_sdf (src i0 i1 : Nat) : (report src i0 i1 s).sdf = s.sdf := rfl
@[simp] theorem report_clk (src i0 i1 : Nat) : (report src i0 i1 s).clk = s.clk := rfl
@[simp] theorem report_sar (src i0 i1 : Nat) : (report src i0 i1 s).sar = s.sar := rfl
@[simp] theorem report_cmp (src i0 i1 : Nat) : (report src i0 i1 s).cmp = s.cmp := rfl
@[simp] theorem report_qep (src i0 i1 : Nat) : (report src i0 i1 s).qep = s.qep := rfl
@[simp] theorem report_seu (src i0 i1 : Nat) : (report src i0 i1 s).seu = s.seu := rfl
@[simp] theorem report_fab (src i0 i1 : Nat) : (report src i0 i1 s).fab = s.fab := rfl
@[simp] theorem report_tmr (src i0 i1 : Nat) : (report src i0 i1 s).tmr = s.tmr := rfl
@[simp] theorem report_restart (src i0 i1 : Nat) : (report src i0 i1 s).restart = s.restart := rfl
@[simp] theorem report_img (src i0 i1 : Nat) : (report src i0 i1 s).img = s.img := rfl
@[simp] theorem report_pads (src i0 i1 : Nat) : (report src i0 i1 s).pads = s.pads := rfl
@[simp] theorem report_ports (src i0 i1 : Nat) : (report src i0 i1 s).ports = s.ports := rfl
@[simp] theorem report_link (src i0 i1 : Nat) : (report src i0 i1 s).link = s.link := rfl
@[simp] theorem report_rct (src i0 i1 : Nat) : (report src i0 i1 s).rct = s.rct := rfl
@[simp] theorem report_evs (src i0 i1 : Nat) : (report src i0 i1 s).evs = s.evs := rfl
@[simp] theorem report_recs (src i0 i1 : Nat) : (report src i0 i1 s).recs = s.recs := rfl
@[simp] theorem report_recAt (src i0 i1 : Nat) : (report src i0 i1 s).recAt = s.recAt := rfl
@[simp] theorem report_woke (src i0 i1 : Nat) : (report src i0 i1 s).woke = s.woke := rfl
@[simp] theorem report_memh (src i0 i1 : Nat) : (report src i0 i1 s).memh = s.memh := rfl
@[simp] theorem report_dma (src i0 i1 : Nat) : (report src i0 i1 s).dma = s.dma := rfl
@[simp] theorem report_disp (src i0 i1 : Nat) : (report src i0 i1 s).disp = s.disp := rfl
@[simp] theorem report_scan (src i0 i1 : Nat) : (report src i0 i1 s).scan = s.scan := rfl
@[simp] theorem report_be (src i0 i1 : Nat) : (report src i0 i1 s).be = s.be := rfl
@[simp] theorem report_flx (src i0 i1 : Nat) : (report src i0 i1 s).flx = s.flx := rfl
@[simp] theorem report_dp (src i0 i1 : Nat) : (report src i0 i1 s).dp = s.dp := rfl
@[simp] theorem report_aud (src i0 i1 : Nat) : (report src i0 i1 s).aud = s.aud := rfl
@[simp] theorem report_cfs (src i0 i1 : Nat) : (report src i0 i1 s).cfs = s.cfs := rfl
@[simp] theorem report_cfsWait (src i0 i1 : Nat) : (report src i0 i1 s).cfsWait = s.cfsWait := rfl
@[simp] theorem report_cfsAt (src i0 i1 : Nat) : (report src i0 i1 s).cfsAt = s.cfsAt := rfl
@[simp] theorem report_nand (src i0 i1 : Nat) : (report src i0 i1 s).nand = s.nand := rfl
@[simp] theorem report_net (src i0 i1 : Nat) : (report src i0 i1 s).net = s.net := rfl
@[simp] theorem report_pwr (src i0 i1 : Nat) : (report src i0 i1 s).pwr = s.pwr := rfl
@[simp] theorem report_test (src i0 i1 : Nat) : (report src i0 i1 s).test = s.test := rfl
@[simp] theorem report_frameRep (src i0 i1 : Nat) : (report src i0 i1 s).frameRep = s.frameRep := rfl
@[simp] theorem report_cpus (src i0 i1 : Nat) : (report src i0 i1 s).cpus = s.cpus := rfl
@[simp] theorem report_lcd (src i0 i1 : Nat) : (report src i0 i1 s).lcd = s.lcd := rfl
@[simp] theorem report_pending (src i0 i1 : Nat) : (report src i0 i1 s).pending = s.pending := rfl

/-! ### ctxSet -/

@[simp] theorem ctxSet_part (g w v : Nat) : (ctxSet g w v s).part = s.part := rfl
@[simp] theorem ctxSet_tscreen (g w v : Nat) : (ctxSet g w v s).tscreen = s.tscreen := rfl
@[simp] theorem ctxSet_regs (g w v : Nat) : (ctxSet g w v s).regs = s.regs := rfl
@[simp] theorem ctxSet_mem (g w v : Nat) : (ctxSet g w v s).mem = s.mem := rfl
@[simp] theorem ctxSet_tags (g w v : Nat) : (ctxSet g w v s).tags = s.tags := rfl
@[simp] theorem ctxSet_poison (g w v : Nat) : (ctxSet g w v s).poison = s.poison := rfl
@[simp] theorem ctxSet_soft (g w v : Nat) : (ctxSet g w v s).soft = s.soft := rfl
@[simp] theorem ctxSet_valid (g w v : Nat) : (ctxSet g w v s).valid = s.valid := rfl
@[simp] theorem ctxSet_time (g w v : Nat) : (ctxSet g w v s).time = s.time := rfl
@[simp] theorem ctxSet_pos (g w v : Nat) : (ctxSet g w v s).pos = s.pos := rfl
@[simp] theorem ctxSet_due (g w v : Nat) : (ctxSet g w v s).due = s.due := rfl
@[simp] theorem ctxSet_fresh (g w v : Nat) : (ctxSet g w v s).fresh = s.fresh := rfl
@[simp] theorem ctxSet_resp (g w v : Nat) : (ctxSet g w v s).resp = s.resp := rfl
@[simp] theorem ctxSet_swp (g w v : Nat) : (ctxSet g w v s).swp = s.swp := rfl
@[simp] theorem ctxSet_legs (g w v : Nat) : (ctxSet g w v s).legs = s.legs := rfl
@[simp] theorem ctxSet_startq (g w v : Nat) : (ctxSet g w v s).startq = s.startq := rfl
@[simp] theorem ctxSet_trips (g w v : Nat) : (ctxSet g w v s).trips = s.trips := rfl
@[simp] theorem ctxSet_holds (g w v : Nat) : (ctxSet g w v s).holds = s.holds := rfl
@[simp] theorem ctxSet_ctx1 (g w v : Nat) : (ctxSet g w v s).ctx1 = s.ctx1 := rfl
@[simp] theorem ctxSet_ctx2 (g w v : Nat) : (ctxSet g w v s).ctx2 = s.ctx2 := rfl
@[simp] theorem ctxSet_regs1 (g w v : Nat) : (ctxSet g w v s).regs1 = s.regs1 := rfl
@[simp] theorem ctxSet_mem1 (g w v : Nat) : (ctxSet g w v s).mem1 = s.mem1 := rfl
@[simp] theorem ctxSet_regs0 (g w v : Nat) : (ctxSet g w v s).regs0 = s.regs0 := rfl
@[simp] theorem ctxSet_ctx0 (g w v : Nat) : (ctxSet g w v s).ctx0 = s.ctx0 := rfl
@[simp] theorem ctxSet_hits (g w v : Nat) : (ctxSet g w v s).hits = s.hits := rfl
@[simp] theorem ctxSet_cross (g w v : Nat) : (ctxSet g w v s).cross = s.cross := rfl
@[simp] theorem ctxSet_eng (g w v : Nat) : (ctxSet g w v s).eng = s.eng := rfl
@[simp] theorem ctxSet_spare (g w v : Nat) : (ctxSet g w v s).spare = s.spare := rfl
@[simp] theorem ctxSet_trace (g w v : Nat) : (ctxSet g w v s).trace = s.trace := rfl
@[simp] theorem ctxSet_sdf (g w v : Nat) : (ctxSet g w v s).sdf = s.sdf := rfl
@[simp] theorem ctxSet_clk (g w v : Nat) : (ctxSet g w v s).clk = s.clk := rfl
@[simp] theorem ctxSet_sar (g w v : Nat) : (ctxSet g w v s).sar = s.sar := rfl
@[simp] theorem ctxSet_cmp (g w v : Nat) : (ctxSet g w v s).cmp = s.cmp := rfl
@[simp] theorem ctxSet_qep (g w v : Nat) : (ctxSet g w v s).qep = s.qep := rfl
@[simp] theorem ctxSet_seu (g w v : Nat) : (ctxSet g w v s).seu = s.seu := rfl
@[simp] theorem ctxSet_fab (g w v : Nat) : (ctxSet g w v s).fab = s.fab := rfl
@[simp] theorem ctxSet_tmr (g w v : Nat) : (ctxSet g w v s).tmr = s.tmr := rfl
@[simp] theorem ctxSet_restart (g w v : Nat) : (ctxSet g w v s).restart = s.restart := rfl
@[simp] theorem ctxSet_img (g w v : Nat) : (ctxSet g w v s).img = s.img := rfl
@[simp] theorem ctxSet_pads (g w v : Nat) : (ctxSet g w v s).pads = s.pads := rfl
@[simp] theorem ctxSet_ports (g w v : Nat) : (ctxSet g w v s).ports = s.ports := rfl
@[simp] theorem ctxSet_link (g w v : Nat) : (ctxSet g w v s).link = s.link := rfl
@[simp] theorem ctxSet_flt (g w v : Nat) : (ctxSet g w v s).flt = s.flt := rfl
@[simp] theorem ctxSet_rct (g w v : Nat) : (ctxSet g w v s).rct = s.rct := rfl
@[simp] theorem ctxSet_evs (g w v : Nat) : (ctxSet g w v s).evs = s.evs := rfl
@[simp] theorem ctxSet_recs (g w v : Nat) : (ctxSet g w v s).recs = s.recs := rfl
@[simp] theorem ctxSet_recAt (g w v : Nat) : (ctxSet g w v s).recAt = s.recAt := rfl
@[simp] theorem ctxSet_woke (g w v : Nat) : (ctxSet g w v s).woke = s.woke := rfl
@[simp] theorem ctxSet_memh (g w v : Nat) : (ctxSet g w v s).memh = s.memh := rfl
@[simp] theorem ctxSet_dma (g w v : Nat) : (ctxSet g w v s).dma = s.dma := rfl
@[simp] theorem ctxSet_disp (g w v : Nat) : (ctxSet g w v s).disp = s.disp := rfl
@[simp] theorem ctxSet_scan (g w v : Nat) : (ctxSet g w v s).scan = s.scan := rfl
@[simp] theorem ctxSet_be (g w v : Nat) : (ctxSet g w v s).be = s.be := rfl
@[simp] theorem ctxSet_flx (g w v : Nat) : (ctxSet g w v s).flx = s.flx := rfl
@[simp] theorem ctxSet_dp (g w v : Nat) : (ctxSet g w v s).dp = s.dp := rfl
@[simp] theorem ctxSet_aud (g w v : Nat) : (ctxSet g w v s).aud = s.aud := rfl
@[simp] theorem ctxSet_cfs (g w v : Nat) : (ctxSet g w v s).cfs = s.cfs := rfl
@[simp] theorem ctxSet_cfsWait (g w v : Nat) : (ctxSet g w v s).cfsWait = s.cfsWait := rfl
@[simp] theorem ctxSet_cfsAt (g w v : Nat) : (ctxSet g w v s).cfsAt = s.cfsAt := rfl
@[simp] theorem ctxSet_nand (g w v : Nat) : (ctxSet g w v s).nand = s.nand := rfl
@[simp] theorem ctxSet_net (g w v : Nat) : (ctxSet g w v s).net = s.net := rfl
@[simp] theorem ctxSet_pwr (g w v : Nat) : (ctxSet g w v s).pwr = s.pwr := rfl
@[simp] theorem ctxSet_test (g w v : Nat) : (ctxSet g w v s).test = s.test := rfl
@[simp] theorem ctxSet_frameRep (g w v : Nat) : (ctxSet g w v s).frameRep = s.frameRep := rfl
@[simp] theorem ctxSet_cpus (g w v : Nat) : (ctxSet g w v s).cpus = s.cpus := rfl
@[simp] theorem ctxSet_lcd (g w v : Nat) : (ctxSet g w v s).lcd = s.lcd := rfl
@[simp] theorem ctxSet_pending (g w v : Nat) : (ctxSet g w v s).pending = s.pending := rfl

/-! ### mset -/

@[simp] theorem mset_part (a : Nat) (b : Byte) : (mset a b s).part = s.part := rfl
@[simp] theorem mset_tscreen (a : Nat) (b : Byte) : (mset a b s).tscreen = s.tscreen := rfl
@[simp] theorem mset_regs (a : Nat) (b : Byte) : (mset a b s).regs = s.regs := rfl
@[simp] theorem mset_tags (a : Nat) (b : Byte) : (mset a b s).tags = s.tags := rfl
@[simp] theorem mset_poison (a : Nat) (b : Byte) : (mset a b s).poison = s.poison := rfl
@[simp] theorem mset_soft (a : Nat) (b : Byte) : (mset a b s).soft = s.soft := rfl
@[simp] theorem mset_valid (a : Nat) (b : Byte) : (mset a b s).valid = s.valid := rfl
@[simp] theorem mset_time (a : Nat) (b : Byte) : (mset a b s).time = s.time := rfl
@[simp] theorem mset_pos (a : Nat) (b : Byte) : (mset a b s).pos = s.pos := rfl
@[simp] theorem mset_due (a : Nat) (b : Byte) : (mset a b s).due = s.due := rfl
@[simp] theorem mset_fresh (a : Nat) (b : Byte) : (mset a b s).fresh = s.fresh := rfl
@[simp] theorem mset_resp (a : Nat) (b : Byte) : (mset a b s).resp = s.resp := rfl
@[simp] theorem mset_swp (a : Nat) (b : Byte) : (mset a b s).swp = s.swp := rfl
@[simp] theorem mset_legs (a : Nat) (b : Byte) : (mset a b s).legs = s.legs := rfl
@[simp] theorem mset_startq (a : Nat) (b : Byte) : (mset a b s).startq = s.startq := rfl
@[simp] theorem mset_trips (a : Nat) (b : Byte) : (mset a b s).trips = s.trips := rfl
@[simp] theorem mset_ctx (a : Nat) (b : Byte) : (mset a b s).ctx = s.ctx := rfl
@[simp] theorem mset_holds (a : Nat) (b : Byte) : (mset a b s).holds = s.holds := rfl
@[simp] theorem mset_ctx1 (a : Nat) (b : Byte) : (mset a b s).ctx1 = s.ctx1 := rfl
@[simp] theorem mset_ctx2 (a : Nat) (b : Byte) : (mset a b s).ctx2 = s.ctx2 := rfl
@[simp] theorem mset_regs1 (a : Nat) (b : Byte) : (mset a b s).regs1 = s.regs1 := rfl
@[simp] theorem mset_mem1 (a : Nat) (b : Byte) : (mset a b s).mem1 = s.mem1 := rfl
@[simp] theorem mset_regs0 (a : Nat) (b : Byte) : (mset a b s).regs0 = s.regs0 := rfl
@[simp] theorem mset_ctx0 (a : Nat) (b : Byte) : (mset a b s).ctx0 = s.ctx0 := rfl
@[simp] theorem mset_hits (a : Nat) (b : Byte) : (mset a b s).hits = s.hits := rfl
@[simp] theorem mset_cross (a : Nat) (b : Byte) : (mset a b s).cross = s.cross := rfl
@[simp] theorem mset_eng (a : Nat) (b : Byte) : (mset a b s).eng = s.eng := rfl
@[simp] theorem mset_spare (a : Nat) (b : Byte) : (mset a b s).spare = s.spare := rfl
@[simp] theorem mset_trace (a : Nat) (b : Byte) : (mset a b s).trace = s.trace := rfl
@[simp] theorem mset_sdf (a : Nat) (b : Byte) : (mset a b s).sdf = s.sdf := rfl
@[simp] theorem mset_clk (a : Nat) (b : Byte) : (mset a b s).clk = s.clk := rfl
@[simp] theorem mset_sar (a : Nat) (b : Byte) : (mset a b s).sar = s.sar := rfl
@[simp] theorem mset_cmp (a : Nat) (b : Byte) : (mset a b s).cmp = s.cmp := rfl
@[simp] theorem mset_qep (a : Nat) (b : Byte) : (mset a b s).qep = s.qep := rfl
@[simp] theorem mset_seu (a : Nat) (b : Byte) : (mset a b s).seu = s.seu := rfl
@[simp] theorem mset_fab (a : Nat) (b : Byte) : (mset a b s).fab = s.fab := rfl
@[simp] theorem mset_tmr (a : Nat) (b : Byte) : (mset a b s).tmr = s.tmr := rfl
@[simp] theorem mset_restart (a : Nat) (b : Byte) : (mset a b s).restart = s.restart := rfl
@[simp] theorem mset_img (a : Nat) (b : Byte) : (mset a b s).img = s.img := rfl
@[simp] theorem mset_pads (a : Nat) (b : Byte) : (mset a b s).pads = s.pads := rfl
@[simp] theorem mset_ports (a : Nat) (b : Byte) : (mset a b s).ports = s.ports := rfl
@[simp] theorem mset_link (a : Nat) (b : Byte) : (mset a b s).link = s.link := rfl
@[simp] theorem mset_flt (a : Nat) (b : Byte) : (mset a b s).flt = s.flt := rfl
@[simp] theorem mset_rct (a : Nat) (b : Byte) : (mset a b s).rct = s.rct := rfl
@[simp] theorem mset_evs (a : Nat) (b : Byte) : (mset a b s).evs = s.evs := rfl
@[simp] theorem mset_recs (a : Nat) (b : Byte) : (mset a b s).recs = s.recs := rfl
@[simp] theorem mset_recAt (a : Nat) (b : Byte) : (mset a b s).recAt = s.recAt := rfl
@[simp] theorem mset_woke (a : Nat) (b : Byte) : (mset a b s).woke = s.woke := rfl
@[simp] theorem mset_memh (a : Nat) (b : Byte) : (mset a b s).memh = s.memh := rfl
@[simp] theorem mset_dma (a : Nat) (b : Byte) : (mset a b s).dma = s.dma := rfl
@[simp] theorem mset_disp (a : Nat) (b : Byte) : (mset a b s).disp = s.disp := rfl
@[simp] theorem mset_scan (a : Nat) (b : Byte) : (mset a b s).scan = s.scan := rfl
@[simp] theorem mset_be (a : Nat) (b : Byte) : (mset a b s).be = s.be := rfl
@[simp] theorem mset_flx (a : Nat) (b : Byte) : (mset a b s).flx = s.flx := rfl
@[simp] theorem mset_dp (a : Nat) (b : Byte) : (mset a b s).dp = s.dp := rfl
@[simp] theorem mset_aud (a : Nat) (b : Byte) : (mset a b s).aud = s.aud := rfl
@[simp] theorem mset_cfs (a : Nat) (b : Byte) : (mset a b s).cfs = s.cfs := rfl
@[simp] theorem mset_cfsWait (a : Nat) (b : Byte) : (mset a b s).cfsWait = s.cfsWait := rfl
@[simp] theorem mset_cfsAt (a : Nat) (b : Byte) : (mset a b s).cfsAt = s.cfsAt := rfl
@[simp] theorem mset_nand (a : Nat) (b : Byte) : (mset a b s).nand = s.nand := rfl
@[simp] theorem mset_net (a : Nat) (b : Byte) : (mset a b s).net = s.net := rfl
@[simp] theorem mset_pwr (a : Nat) (b : Byte) : (mset a b s).pwr = s.pwr := rfl
@[simp] theorem mset_test (a : Nat) (b : Byte) : (mset a b s).test = s.test := rfl
@[simp] theorem mset_frameRep (a : Nat) (b : Byte) : (mset a b s).frameRep = s.frameRep := rfl
@[simp] theorem mset_cpus (a : Nat) (b : Byte) : (mset a b s).cpus = s.cpus := rfl
@[simp] theorem mset_lcd (a : Nat) (b : Byte) : (mset a b s).lcd = s.lcd := rfl
@[simp] theorem mset_pending (a : Nat) (b : Byte) : (mset a b s).pending = s.pending := rfl

/-! ### Fields -/

theorem fget_fset_same (F : Fld) (u v : Nat) : fget F u (fset F u v s) = v % 2 ^ F.w := by simp [fget, fset]

/-- A write of one field of one unit leaves every other field and unit alone. -/
theorem fget_fset_other {F G : Fld} {u w : Nat} (v : Nat) (h : F.id ≠ G.id ∨ u ≠ w) : fget G w (fset F u v s) = fget G w s := by
  simp only [fget, fset, sget_sset]
  split
  · rename_i e
    rw [← e, sget_sset_other _ _ (h.resolve_left fun n => n e)]
  · rfl

theorem fget_mark (G : Fld) (w i u m : Nat) : fget G w (mark i u m s) = fget G w s := by simp [fget]

theorem fget_fon_same (F : Fld) (u : Nat) : fget F u (fon F u s) = 1 % 2 ^ F.w := by simp [fon, fget_mark, fget_fset_same]

theorem fget_fon_other {F G : Fld} {u w : Nat} (h : F.id ≠ G.id ∨ u ≠ w) : fget G w (fon F u s) = fget G w s := by
  simp only [fon, fget_mark]; exact fget_fset_other s 1 h

theorem fget_foff_same (F : Fld) (u : Nat) : fget F u (foff F u s) = 0 := by simp [foff, fget_fset_same]

theorem fget_foff_other {F G : Fld} {u w : Nat} (h : F.id ≠ G.id ∨ u ≠ w) : fget G w (foff F u s) = fget G w s :=
  fget_fset_other s 0 h

theorem fget_fsetBit_other {F G : Fld} {u w : Nat} (i : Nat) (b : Bool) (h : F.id ≠ G.id ∨ u ≠ w) :
    fget G w (fsetBit F u i b s) = fget G w s := by
  unfold fsetBit; split
  · rw [fget_mark]; exact fget_fset_other s _ h
  · exact fget_fset_other s _ h

/-- A field reads the same after any change that leaves the register file alone. -/
theorem fget_congr {s t : State} (h : t.regs = s.regs) (F : Fld) (u : Nat) : fget F u t = fget F u s := by simp [fget, h]

@[simp] theorem fget_answer (F : Fld) (u v : Nat) : fget F u (answer v s) = fget F u s := rfl
@[simp] theorem fget_busError (F : Fld) (u : Nat) : fget F u (busError s) = fget F u s := rfl
@[simp] theorem fget_later (F : Fld) (u n : Nat) (d : Due) : fget F u (later n d s) = fget F u s := rfl
@[simp] theorem fget_dropDue (F : Fld) (u : Nat) (p : Due → Bool) : fget F u (dropDue p s) = fget F u s := rfl
@[simp] theorem fget_nextFresh (F : Fld) (u : Nat) : fget F u (nextFresh s) = fget F u s := rfl
@[simp] theorem fget_fire (F : Fld) (u e : Nat) : fget F u (fire e s) = fget F u s := rfl
@[simp] theorem fget_report (F : Fld) (u src i0 i1 : Nat) : fget F u (report src i0 i1 s) = fget F u s := rfl
@[simp] theorem fget_ctxSet (F : Fld) (u g w v : Nat) : fget F u (ctxSet g w v s) = fget F u s := rfl
@[simp] theorem fget_mset (F : Fld) (u a : Nat) (b : Byte) : fget F u (mset a b s) = fget F u s := rfl

/-! ### Context words -/

theorem ctxGet_ctxSet (g w h x v : Nat) :
    ctxGet h x (ctxSet g w v s) = if 64 * g + w = 64 * h + x then v % 2 ^ 32 else ctxGet h x s := by
  simp only [ctxGet, ctxSet, sget_sset]

/-! ### Memory -/

@[simp] theorem mget_mset_same (a : Nat) (b : Byte) : mget a (mset a b s) = b := by simp [mget, mset]

/-- A byte written leaves every other byte alone. -/
theorem mget_mset_other {a c : Nat} (b : Byte) (h : a ≠ c) : mget c (mset a b s) = mget c s := by
  simp only [mget, mset]; exact sget_sset_other 0 s.mem h b

/-- A write of `n` bytes leaves every byte outside them alone. -/
theorem mget_mwrite_other (a n v c : Nat) (s : State) (h : c < a ∨ a + n ≤ c) : mget c (mwrite a n v s) = mget c s := by
  induction n generalizing a v s with
  | zero => rfl
  | succ n ih => rw [mwrite, ih _ _ _ (by omega), mget_mset_other _ _ (by omega)]

/-- A write of `n` bytes changes memory and nothing else. -/
theorem mwrite_eq (a n v : Nat) (s : State) : mwrite a n v s = { s with mem := (mwrite a n v s).mem } := by
  induction n generalizing a v s with
  | zero => rfl
  | succ n ih => rw [mwrite, ih]; rfl

/-- A byte written keeps the canonical form of memory. -/
theorem mset_wf (a : Nat) (b : Byte) (h : Memory.wf s.mem = true) : Memory.wf (mset a b s).mem = true := canonical_sset 0 a b h

/-- A write of `n` bytes keeps the canonical form of memory. -/
theorem mwrite_wf (a n v : Nat) (s : State) (h : Memory.wf s.mem = true) : Memory.wf (mwrite a n v s).mem = true := by
  induction n generalizing a v s with
  | zero => exact h
  | succ n ih => exact ih _ _ _ (mset_wf s a _ h)

end Sys2Proof.Machine
end

