-- ==== Sys2Proof/WellFormed.lean ====
section
/-! DEFINITION. Well-formed commands: the operand relations that the types do not say. -/

namespace Sys2Proof

/-- The operands of a command stand in the relations that the spec lays down. -/
def Instr.wf : Instr → Bool
  | .registerWrite a _ => decide (a < 2 ^ 32) && decide (a % 4 = 0)
  | _ => true

end Sys2Proof
end

