-- ==== Sys2Proof/Tests/Slice0.lean ====
section
/-! SUPPORT. Small tests: the well-formedness check refuses ill-formed commands, and each statement's hypotheses are met by a named
witness. -/

namespace Sys2Proof.Tests

open Sys2Proof Sys2Proof.Machine

set_option maxRecDepth 20000

/-! ### Small states for the tests -/

/-- The reset state with fields changed. -/
def withFields (fs : List (Fld × Nat × Nat)) : State := forAll fs (fun e t => fset e.1 e.2.1 e.2.2 t) State.reset

/-- A state with fields changed. -/
def plus (fs : List (Fld × Nat × Nat)) (s : State) : State := forAll fs (fun e t => fset e.1 e.2.1 e.2.2 t) s

/-- A run of context 3 at step 7, and a state whose engine 0 stands there. -/
def runAt0 : Run := ⟨3, 7, 20, 100, ⟨0, 0, 50⟩, false, none, none, false⟩
def stateAtStep : State := setEng 0 { EngH.init with run := some runAt0 } State.reset

/-- A step with D = 10, A = 11, B = 12, C = 13, IMM = 5. -/
def stepAt10 : StepW := ⟨10, 11, 12, 13, 0, false, 5⟩

/-- Host core 0 after reset with general registers `g`; loop core 0 started at 0x100 with the same capabilities. -/
def coreState (g : SMap Nat) : State := setCpu 0 { cpu 0 State.reset with g := g } State.reset
def loopState (g : SMap Nat) : State := setCpu 16 { Cpu.init with state := .run, c := rootCaps, pc := 0x100, g := g } State.reset

/-- The headers of host core 0 and of loop core 0 without a prefix. -/
def hostHdr : Hdr := ⟨.host 0, [], 0⟩
def loopHdr : Hdr := ⟨.loop 0, [], 0⟩

/-! ### Well-formed and ill-formed commands -/

/-- An aligned register write is well-formed (R11). -/
theorem test_wf_register_write : (Instr.registerWrite 0x40000004 5).wf = true := by decide

/-- An address that is not a multiple of 4 is refused by the check. -/
theorem test_ill_formed_unaligned : (Instr.registerWrite 0x40000006 5).wf = false := by decide

/-- An address beyond 32 bits is refused by the check. -/
theorem test_ill_formed_beyond_the_map : (Instr.registerWrite (2 ^ 32) 5).wf = false := by decide

/-! ### Single steps against the spec's tables -/

/-- At reset a line has 2,000 dots and a frame 200 lines (00_scope.md, Figures at a glance). -/
theorem test_reset_geometry : fget SWP_GEOM_EFF0_DOTS 0 State.reset = 2000 ∧ fget SWP_GEOM_EFF0_LINES 0 State.reset = 200 := by decide

/-- A step takes the command at the front of the queue (model's step). -/
theorem test_step_takes_front : step { State.reset with pending := [.pllLockRetry] } = .next State.reset := by rfl

/-- No row of the table has bits, so no word spells a command. -/
theorem test_no_word_spells_a_command : decodeTableWord 32 0 = none := by decide

/-- Before the sweep runs, a step on an empty queue changes nothing (log entry 1). -/
theorem test_idle_before_the_sweep : step State.reset = .next State.reset := by rfl

/-- A sweep at 0:199:1999 wraps to the next frame (R9): the dot after position 199:1999 of frame 0. -/
theorem test_position_wraps : addDots State.reset ⟨0, 199, 1999⟩ 1 = ⟨1, 0, 0⟩ := by decide

/-- A release of internal reset leads to the wait for lock (R470). -/
theorem test_release : (match exec .internalResetRelease State.reset with
    | .next t => decide (t.swp.stage = .locking)
    | _ => false) = true := by decide

/-! ### The encodings that the spec works out (07_instruction_set.md R194, R202, R205, R208; 09_capabilities_exceptions.md) -/

theorem test_decode_acquire_load : decodeBytes [0xE2, 0xF4, 0x70, 0x65, 0x00, 0x40, 0x00] = some ([.cap 2, .acquire], codeM 0x70 0x0065 (.d16 0x40))
    ∧ fieldD 0x0065 = 5 ∧ fieldA 0x0065 = 3 ∧ fieldB 0x0065 = 0 := by decide
theorem test_decode_prefix_order : decodeBytes [0xF4, 0xE2, 0x70, 0x65, 0x00, 0x40, 0x00] = some ([.acquire, .cap 2], codeM 0x70 0x0065 (.d16 0x40)) := by decide
theorem test_two_capability_prefixes : prefixesOk allowLoad [.cap 2, .cap 3] = false := by decide
theorem test_decode_load_means (h : Hdr) : codeMeaning (codeM 0x70 0x0065 (.d16 0x40)) h = some (execCoreLd h 0x0065 (.d16 0x40)) := by rfl
theorem test_decode_add : decodeBytes [0x10, 0x84, 0x18] = some ([], codeR 0x10 0x1884) ∧ fieldD 0x1884 = 4 ∧ fieldA 0x1884 = 4 ∧ fieldB 0x1884 = 6 := by decide
theorem test_decode_add_means (h : Hdr) : codeMeaning (codeR 0x10 0x1884) h = some (execCoreAdd h 0x1884 .reg) := by rfl
theorem test_decode_cltu : decodeBytes [0x23, 0x88, 0x18] = some ([], codeR 0x23 0x1888) := by decide
theorem test_decode_cltu_means (h : Hdr) : codeMeaning (codeR 0x23 0x1888) h = some (execCoreCltu h 0x1888 .reg) := by rfl
theorem test_decode_add_imm : decodeBytes [0x40, 0x09, 0x00, 0x93, 0x82, 0x04, 0x00] = some ([], codeSrc 0x10 0x30 0x40 0x0009 (.imm32 0x48293)) := by decide
theorem test_decode_bld : decodeBytes [0x9B, 0x28, 0x01] = some ([], codeBit 3 0x0128 .reg) ∧ fieldD 0x0128 = 8 ∧ fieldA 0x0128 = 9 := by decide
theorem test_decode_bld_means (h : Hdr) : codeMeaning (codeBit 3 0x0128 .reg) h = some (execCoreBld h 0x0128 .reg) := by rfl
theorem test_decode_bclr : decodeBytes [0x99, 0x20, 0x01] = some ([], codeBit 1 0x0120 .reg) := by decide
theorem test_decode_rep_bcpy : decodeBytes [0xF8, 0xB0, 0x62, 0x10, 0x43] = some ([.repeat_], ⟨0xB0, 0x431062, none⟩)
    ∧ srcCapOf 0x43 = 3 ∧ dstCapOf 0x43 = 4 ∧ fieldD 0x1062 = 2 ∧ fieldA 0x1062 = 3 ∧ fieldB 0x1062 = 4 := by decide
theorem test_decode_rep_bcrc : decodeBytes [0xF8, 0xF0, 0xB3, 0x41, 0x0C, 0x00] = some ([.repeat_, .width8], ⟨0xB3, 0x000C41, none⟩) := by decide
theorem test_decode_load_c1 : decodeBytes [0xE1, 0x70, 0x65, 0x00, 0x10, 0x00] = some ([.cap 1], codeM 0x70 0x0065 (.d16 0x10)) := by decide
theorem test_decode_undefined : decodeBytes [0x09] = none ∧ decodeBytes [0x0F, 0x12] = none ∧ decodeBytes [0xF3] = none := by decide

/-- The worked CRC of R208: "123456789" from all ones gives 0x1CF96D7C. -/
theorem test_crc_worked : (List.range 9).foldl (fun c j => crc32Byte c (0x31 + j)) 0xFFFFFFFF = 0x1CF96D7C := by decide +kernel

/-! ### Witnesses for the hypotheses of the statements -/

theorem witness_FrontCommandIsExecuted : State.reset.pending = [] := rfl

theorem witness_MemoryStaysCanonical : Memory.wf State.reset.mem = true ∧ step State.reset = .next (tick State.reset) := ⟨by decide, rfl⟩

theorem witness_IdentityAndQueueKept : step State.reset = .next (tick State.reset) := rfl

theorem witness_StartAndReset :
    (State.reset.swp.stage = .held) ∧ (({ State.reset with swp := { Sweep.init with stage := .supplies } } : State).swp.stage = .supplies)
    ∧ (({ State.reset with swp := { Sweep.init with stage := .locking } } : State).swp.stage = .locking)
    ∧ (({ State.reset with swp := { Sweep.init with stage := .lost } } : State).swp.stage = .lost)
    ∧ (let s : State := { State.reset with swp := { Sweep.init with stage := .running } }
       s.swp.stage = .running ∧ (reaction 0x100 s).testBit 5 = false
       ∧ (reaction 0x100 { s with rct := [(0x100, 0x20)] }).testBit 5 = true) := by decide

theorem witness_GeometryCommit :
    (let s := fset RGN_STAT_STATE 1 2 State.reset; geomWhy (stagedGeom s) s ≠ 0 ∧ allStopped s = false)
    ∧ (let s := fset SWP_CTRL_SYNC_MODE 0 2 State.reset; allStopped s = true ∧ fget SWP_CTRL_SYNC_MODE 0 s = 2)
    ∧ (let s := fset SWP_LINE_DOTS 0 0 (fset SWP_FRAME_LINES 0 0 (fset SWP_AUDIO_K 0 0 (fset SWP_DISP_FRAMES 0 0 State.reset)))
       geomWhy (stagedGeom s) s = 0 ∧ stagedGeom s = ⟨0, 0, 0, 0⟩)
    ∧ (let s := fset SWP_LINE_DOTS 0 1600 (fset SWP_AUDIO_K 0 5 State.reset)
       geomWhy (stagedGeom s) s = 0 ∧ stagedGeom s ≠ ⟨0, 0, 0, 0⟩)
    ∧ (let s : State := { State.reset with swp := { Sweep.init with waiting := some ⟨1600, 0, 5, 0⟩ } }
       s.swp.waiting = some ⟨1600, 0, 5, 0⟩ ∧ s.pos.line = 0 ∧ s.pos.dot = 0)
    ∧ ¬(({ State.reset with pos := ⟨0, 0, 7⟩ } : State).pos.line = 0 ∧ ({ State.reset with pos := ⟨0, 0, 7⟩ } : State).pos.dot = 0) := by
  decide

theorem witness_SyncMode :
    allStopped State.reset = true ∧ fget SWP_CTRL_SYNC_MODE 0 State.reset < 3
    ∧ (let s := fset RGN_STAT_STATE 0 2 State.reset
       allStopped s = false ∧ (2 : Fin 4).val ≠ fget SWP_CTRL_SYNC_MODE 0 s ∧ (2 : Fin 4).val ≠ 3 ∧ (1 : Fin 4).val ≠ fget SWP_CTRL_REF_PORT 0 s)
    ∧ State.reset.pos.line = 0 ∧ State.reset.pos.dot = 0 ∧ ((0 : Fin 4).val ≠ 3)
    ∧ (let s := fset SWP_CTRL_SYNC_MODE 0 2 State.reset; fget SWP_CTRL_SYNC_MODE 0 s = 2 ∧ s.swp.mode ≠ 2)
    ∧ ¬(({ State.reset with pos := ⟨0, 3, 0⟩ } : State).pos.line = 0 ∧ ({ State.reset with pos := ⟨0, 3, 0⟩ } : State).pos.dot = 0) := by
  decide

theorem witness_LinesAndFrames :
    (let s : State := { State.reset with pos := ⟨0, 0, 2000⟩ }; dotsEff s ≤ s.pos.dot)
    ∧ State.reset.pos.dot < dotsEff State.reset ∧ State.reset.pos.line < linesEff State.reset
    ∧ (let s : State := { State.reset with pos := ⟨0, 200, 0⟩ }; linesEff s ≤ s.pos.line)
    ∧ (let s := fset SWP_STATUS_STEP_PENDING 0 1 State.reset
       fbit SWP_STATUS_STEP_PENDING 0 s = true ∧ allStopped s = true)
    ∧ fbit SWP_STATUS_STEP_PENDING 0 State.reset = false ∧ State.reset.swp.armed = false
    ∧ (let s := fset SWP_CTRL_SYNC_MODE 0 2
         { State.reset with swp := { Sweep.init with armed := true, mode := 2, master := some (⟨2000, 200, 4, 16⟩, 9, 0) } }
       stepFrame s = some (⟨2000, 200, 4, 16⟩, 9, 0) ∧ s.swp.armed = true ∧ s.swp.mode = 2 ∧ s.swp.waiting = none
       ∧ fget SWP_CTRL_SYNC_MODE 0 s = 2) := by
  decide

theorem witness_RegisterAccess :
    (2 % 4 ≠ 0 ∨ regionOf 2 ≠ .device) ∧ regionRun 0 (withFields [(RGN_STAT_STATE, 0, 2)]) = true
    ∧ blockPresent 0x41017004 { State.reset with part := .pl9624 } = false ∧ blockPresent 0x41000004 State.reset = true
    ∧ 0x41000004 % 4 = 0 ∧ regionOf 0x41000004 = .device ∧ byteMemory 0x41000004 = false ∧ (findReg 0x41000004).isSome = true
    ∧ regionRun 0 State.reset = false ∧ (0x00FF0031 : Word).toNat / 16 % 4 = 3 ∧ (0x00FF0021 : Word).toNat / 16 % 4 ≠ 3
    ∧ fget SWP_STATUS_GEOM_DONE 0 State.reset < 2 ∧ fget SWP_STATUS_GEOM_REJECT 0 State.reset < 2
    ∧ fget SWP_STATUS_MODE_REJECT 0 State.reset < 2 := by decide

theorem witness_LegCarrier :
    let s := setLeg 0 { LegH.init with armA := true, armB := true, pendH := some 9, pendL := some 9 }
      (withFields [(RGN_STAT_STATE, 0, 2), (LEG_PERIOD_PERIOD_E, 0, 4000), (LEG_COUNT_COUNT, 0, 7), (LEG_CMPA_DOTS_E, 0, 7)])
    legCounts 0 s = true ∧ clusterOn 0 s = true ∧ clusterOn 23 { s with part := .pl9624 } = false ∧ (leg 0 s).midDone = false
    ∧ fget LEG_CMPA_DOTS_E 0 s ≠ fget LEG_PERIOD_PERIOD_E 0 s ∧ fget LEG_CMPB_DOTS_E 0 s ≠ fget LEG_PERIOD_PERIOD_E 0 s
    ∧ fget LEG_CMPA_DOTS_E 1 State.reset = fget LEG_PERIOD_PERIOD_E 1 State.reset
    ∧ fget LEG_CMPB_DOTS_E 1 State.reset = fget LEG_PERIOD_PERIOD_E 1 State.reset ∧ (leg 0 s).armA = true ∧ (leg 0 s).armB = true ∧ (leg 0 s).pulse ≠ .none
    ∧ compareDist (fget LEG_COUNT_COUNT 0 s) (fget LEG_CMPA_DOTS_E 0 s) < 2 ^ 31
    ∧ compareDist (fget LEG_COUNT_COUNT 0 s) (fget LEG_CMPB_DOTS_E 0 s) < 2 ^ 31
    ∧ (leg 0 s).pendH ≠ none ∧ (leg 0 s).pendL ≠ none ∧ legCounts 0 State.reset = false
    ∧ (leg 0 (setLeg 0 { LegH.init with midDone := true } s)).midDone = true := by decide

theorem witness_LegCommits : clusterOn (0 / 6) State.reset = true ∧ clusterOn (143 / 6) { State.reset with part := .pl9624 } = false
    ∧ legCheck 0 State.reset = 0 ∧ legCheck 0 (withFields [(LEG_PERIOD_PERIOD, 0, 9)]) = 1 := by decide

theorem witness_LegTrips :
    (let s := withFields [(LEG_CFG_TRIP_EN, 0, 1)]
     clusterOn (0 / 6) s = true ∧ clusterOn (143 / 6) { s with part := .pl9624 } = false ∧ fbitAt LEG_CFG_TRIP_EN (tripLeg 0 s) 0 s = true ∧ legState 0 s ≠ 2 ∧ tripAsserted 0 s = none
     ∧ fbitAt LEG_CFG_TRIP_EN (tripLeg 0 s) 1 s = false ∧ tripAsserted 0 { s with trips := ⟨[0], []⟩ } ≠ none
     ∧ held LEG_STAT_TRIPPED.id 0 s = 0 ∧ held LEG_STAT_TRIPPED.id 0 (fon LEG_STAT_TRIPPED 0 { s with swp := { s.swp with stage := .running } }) ≠ 0)
    ∧ (let s := withFields [(RGN_STAT_STATE, 0, 2), (CLG_CONV_RUN, 0, 1), (LEG_PERIOD_PERIOD_E, 0, 100), (LEG_CFG_SAFE, 0, 1)]
       3 ≤ legState 0 s ∧ safeLevel 0 .high s = true ∧ padLevel 0 .high s = false ∧ safeLevel 0 .low s = false)
    ∧ legState 0 (setLeg 0 { LegH.init with tripActive := true }
        (withFields [(RGN_STAT_STATE, 0, 2), (CLG_CONV_RUN, 0, 1), (LEG_PERIOD_PERIOD_E, 0, 100)])) = 2 := by decide

theorem witness_Converters :
    clusterOn 0 State.reset = true ∧ clusterOn 23 { State.reset with part := .pl9624 } = false ∧ convAbsent 0 0 State.reset = false ∧ regionStopped 0 State.reset = true ∧ (startQ 0 State.reset).items = []
    ∧ (let s := withFields [(RGN_STAT_STATE, 0, 2)]
       regionStopped 0 s = false ∧ fbitAt CLG_CONV_RUN 0 0 s = false ∧ fbitAt CLG_CONV_WAIT 0 0 s = false)
    ∧ fbitAt CLG_CONV_RUN 0 0 (withFields [(RGN_STAT_STATE, 0, 2), (CLG_CONV_RUN, 0, 1)]) = true
    ∧ convAbsent 0 1 (withFields [(CLG_CFG_THREE_LEVEL, 0, 1)]) = true
    ∧ (startQ 0 (setStartQ 0 ⟨[(3, 7)], none⟩ State.reset)).items = (3, 7) :: [] := by decide

theorem witness_SigmaDelta :
    fget SDF_CFG_M 0 (withFields [(SDF_CFG_M, 0, 8)]) ≠ 0 ∧ fget SDF_CFG_M 0 State.reset = 0
    ∧ (let s := setClk 0 ⟨true, [0], none, false⟩ (withFields [(SDF_COM_CLK_SRC, 0, 1)])
       fbit SDF_COM_CLK_SRC 0 s = true ∧ (clk 0 s).armed = true ∧ mayRise 0 s = true ∧ ∃ e ∈ (clk 0 s).edges, s.time < e + 12)
    ∧ captures 0 (withFields [(SDF_COM_CLK_SRC, 0, 0)]) = true ∧ (sdf 0 State.reset).last ≠ some State.reset.time ∧ (sdf 0 State.reset).conf ≠ some State.reset.time
    ∧ (sdf 0 (setSdf 0 { SdfH.init with conf := some 0 } State.reset)).conf = some State.reset.time
    ∧ clusterOn 23 { State.reset with part := .pl9624 } = false ∧ mayRise 0 (withFields [(SDF_COM_CLK_SRC, 0, 0)]) = false
    ∧ fbit SDF_COM_CLK_SRC 0 (withFields [(SDF_COM_CLK_SRC, 0, 0)]) = false ∧ regionRun 0 State.reset = false
    ∧ sdfMBad (bits (0x00080000 : Word).toNat 24 16) = false ∧ sdfOcBad (bits (0x00080000 : Word).toNat 11 8) 0 = false
    ∧ sdfMBad (bits (0x00030000 : Word).toNat 24 16) = true ∧ fget SDF_CFG_M 0 State.reset ≠ 3
    ∧ (let s := withFields [(RGN_STAT_STATE, 0, 2)]
       regionRun 0 s = true ∧ bits (0x00080000 : Word).toNat 24 16 ≠ fget SDF_CFG_M 0 s ∧ fget SDF_COM_CLK_SRC 0 s ≠ false.toNat)
    ∧ fget SDF_COM_CLK_SRC 0 State.reset ≠ false.toNat ∧ fget SDF_COM_CLK_SRC 0 State.reset = true.toNat
    ∧ (clk 0 (withFields [(SDF_COM_CLK_SRC, 0, 1)])).edges = [] := by decide

theorem witness_SarAndComparators :
    sarBusy 0 State.reset = false ∧ (sar 0 State.reset).entry = none ∧ regionRun 0 State.reset = false
    ∧ (let s := { setSar 0 ⟨some 3, some 0⟩ State.reset with time := 32 }
       sarBusy 0 s = true ∧ (sar 0 s).entry = some 3 ∧ (sar 0 s).start = some 0 ∧ s.time = 0 + 32)
    ∧ fbit CMP_STAT_OUT 0 State.reset = false ∧ fbit CMP_STAT_OUT 0 (withFields [(CMP_STAT_OUT, 0, 1)]) = true
    ∧ regionRun 0 (withFields [(RGN_STAT_STATE, 0, 2)]) = true := by decide

theorem witness_Quadrature :
    clusterOn 0 State.reset = true ∧ clusterOn 23 { State.reset with part := .pl9624 } = false
    ∧ qepPin 0 2 State.reset = false ∧ qepPin 0 2 (withFields [(PAD_EFF_W, 2, 0x10)]) = true
    ∧ (let s := withFields [(PAD_EFF_W, 0, 0x10), (PAD_EFF_W, 1, 0x10)]
       qepPin 0 0 s = true ∧ qepPin 0 1 s = true ∧ fget QEP_POS_POS 0 s < 2 ^ 32 ∧ fget QEP_CFG_MODE 0 s = 0 ∧ (true ≠ (qep 0 s).a) ∧ (true ≠ (qep 0 s).b)) := by
  decide

theorem witness_SerialEncoders :
    (seu 0 State.reset).frame = none ∧ (seu 0 State.reset).timeout = false ∧ fget SEU_CFG_PROTO 0 State.reset = 0
    ∧ (let s := withFields [(SEU_CFG_PROTO, 0, 1)]; fget SEU_CFG_PROTO 0 s ≠ 0 ∧ fget SEU_TIMING_DEADLINE 0 s = 0)
    ∧ fget SEU_TIMING_DEADLINE 0 (withFields [(SEU_TIMING_DEADLINE, 0, 40)]) ≠ 0
    ∧ (let s := { setSeu 0 { SeuH.init with frame := some 0, ma := .clocking } (withFields [(SEU_CFG_PROTO, 0, 1), (SEU_CFG_DIV, 0, 20), (SEU_CFG_BITS, 0, 9)]) with time := 365 }
       (seu 0 s).frame = some 0 ∧ s.time = 0 + 2 + 2 * fget SEU_CFG_DIV 0 s * fget SEU_CFG_BITS 0 s + fget SEU_CFG_SSI_DLY 0 s + 3)
    ∧ (let s := { setSeu 0 { SeuH.init with frame := some 0, ma := .clocking } (withFields [(SEU_CFG_PROTO, 0, 2), (SEU_CRC_LEN, 0, 4), (SEU_CRC_POLY, 0, 3), (SEU_CFG_DIV, 0, 20)]) with time := 425 }
       (s.time - (0 + 2 + fget SEU_CFG_DIV 0 s + (0 : Byte).toNat + 3
          + 2 * fget SEU_CFG_DIV 0 s * (fget SEU_CFG_BITS 0 s + fget SEU_CRC_LEN 0 s + 5))) % (2 * fget SEU_CFG_DIV 0 s) = 0
       ∧ (seu 0 s).frame = some 0 ∧ fget SEU_CFG_PROTO 0 s ≠ 1 ∧ fget SEU_CRC_LEN 0 s ≠ 0
       ∧ seuCrc 4 (fget SEU_CRC_POLY 0 s) (fget SEU_CFG_BITS 0 s) 0 false false ≠ 2 ^ 4 - 1 - (0 : Byte).toNat % 2 ^ 4) := by decide

theorem witness_StepsOfArithmetic : atStep 0 runAt0 stateAtStep ∧ ∀ x ∈ [stepAt10.d.val], 4 ≤ x ∧ x ≤ 63 := by unfold atStep memorySound; decide

theorem witness_StepsOfLimitsAndLogic : atStep 0 runAt0 stateAtStep ∧ stepAt10.a.val + 1 ≤ 63 := by unfold atStep memorySound; decide

theorem witness_StepsOfControl : atStep 0 runAt0 stateAtStep ∧ stepAt10.b.val + 28 ≤ 63 ∧ 4 ≤ stepAt10.b.val := by unfold atStep memorySound; decide

theorem witness_StepsOfTransforms : atStep 0 runAt0 stateAtStep
    ∧ (let w : StepW := { stepAt10 with imm := 0x0022802 }
       bits w.imm.toNat 21 11 ≠ 0 ∧ bits w.imm.toNat 10 0 + bits w.imm.toNat 21 11 ≤ 2048 ∧ bits w.imm.toNat 16 11 ≠ 0
       ∧ bits w.imm.toNat 22 17 ≠ 0 ∧ bits w.imm.toNat 10 0 + bits w.imm.toNat 16 11 * bits w.imm.toNat 22 17 ≤ 2048)
    ∧ bits stepAt10.imm.toNat 21 11 = 0 ∧ bits stepAt10.imm.toNat 16 11 = 0
    ∧ (let w : StepW := { stepAt10 with imm := 0x0022FFF }
       2048 < bits w.imm.toNat 10 0 + bits w.imm.toNat 21 11 ∧ bits w.imm.toNat 21 11 ≠ 0 ∧ bits w.imm.toNat 16 11 ≠ 0
       ∧ bits w.imm.toNat 22 17 ≠ 0 ∧ 2048 < bits w.imm.toNat 10 0 + bits w.imm.toNat 16 11 * bits w.imm.toNat 22 17) := by unfold atStep memorySound; decide

theorem witness_StepsOfInput : atStep 0 runAt0 stateAtStep
    ∧ stepAt10.imm.toNat / 2 % 2 = 0 ∧ ({ stepAt10 with imm := 2 } : StepW).imm.toNat / 2 % 2 = 1 := by unfold atStep memorySound; decide

theorem witness_StepsOfOutput : atStep 0 runAt0 stateAtStep ∧ fbit LPE_STAT_SUBST 0 stateAtStep = false
    ∧ fbit LPE_CFG_CORE_MODE 0 stateAtStep = false ∧ runWord 0 runAt0 stateAtStep 11 = 0
    ∧ (let s := ctxSet 3 11 9 stateAtStep; atStep 0 runAt0 s ∧ runWord 0 runAt0 s 11 ≠ 0)
    ∧ (let s := plus [(LPE_CFG_CORE_MODE, 0, 1), (LPE_STAT_SUBST, 0, 1)] stateAtStep
       atStep 0 runAt0 s ∧ fbit LPE_CFG_CORE_MODE 0 s = true ∧ fbit LPE_STAT_SUBST 0 s = true)
    ∧ (let w : StepW := { stepAt10 with imm := 1 }
       w.imm.getLsbD 4 = false ∧ w.imm.toNat / 2 ^ 16 = 0 ∧ w.imm.toNat / 8 % 4 = 0
       ∧ w.imm.toNat % 8 + bits (ctxGet 3 0 stateAtStep) 30 28 ≤ 2)
    ∧ (eng 0 State.reset).run = none
    ∧ ({ stepAt10 with imm := 0x10005 } : StepW).imm.toNat / 2 ^ 16 ≠ 0
    ∧ ({ stepAt10 with imm := 0x1C } : StepW).imm.toNat / 8 % 4 = 3 ∧ ({ stepAt10 with imm := 0x13 } : StepW).imm.toNat / 8 % 4 = 2 := by
  unfold atStep memorySound; decide

theorem witness_EngineDispatch :
    regionRun 0 State.reset = false
    ∧ (let s := setEng 0 { EngH.init with queue := [(3, 5)] } (withFields [(RGN_STAT_STATE, 0, 2)])
       regionRun 0 s = true ∧ clusterOn 0 s = true ∧ (∀ e ∈ (eng 0 s).queue, e.1 ≠ 4) ∧ (eng 0 s).queue.length < 32
       ∧ (∃ e ∈ (eng 0 s).queue, e.1 = 3) ∧ (eng 0 s).run = none ∧ (3, 5) ∈ (eng 0 s).queue.head? ∧ (eng 0 s).halted = false
       ∧ (ctxGet 3 0 s).testBit 31 = false ∧ (ctxGet 3 0 (ctxSet 3 0 (2 ^ 31) s)).testBit 31 = true)
    ∧ (eng 0 (setEng 0 { EngH.init with halted := true, queue := [(3, 5)] } State.reset)).halted = true
    ∧ 32 ≤ (eng 0 (setEng 0 { EngH.init with queue := (List.range 32).map (fun k => (k, 0)) } State.reset)).queue.length
    ∧ runAt0 ∈ (eng 0 stateAtStep).run ∧ stateAtStep.poison = [] ∧ stateAtStep.soft = [] ∧ runAt0.core = none
    ∧ (let r : Run := { runAt0 with core := some (26, 30) }
       r ∈ (eng 0 (setEng 0 { EngH.init with run := some r } State.reset)).run ∧ (26, 30) ∈ r.core ∧ 20 ≤ 30 ∧ r.cycle ≤ 26) := by decide

theorem witness_LockstepAndSpare :
    fbit RSP_STAT_IN_SERVICE 0 State.reset = false ∧ fbit RSP_CFG_EN 0 State.reset = false ∧ (spare 0 State.reset).takeAt = none
    ∧ (0 : Word).toNat / 256 % 2 = fget RSP_CFG_EN 0 State.reset ∧ (0 : Word).toNat % 8 = fget RSP_CFG_DESIG 0 State.reset
    ∧ (let s := withFields [(RSP_CFG_EN, 0, 1), (RSP_STAT_MIRROR_READY, 0, 1), (RSP_STAT_IN_SERVICE, 1, 1)]
       fbit RSP_CFG_EN 0 s = true ∧ fget RSP_CFG_DESIG 0 s = 0 ∧ fbit RSP_STAT_MIRROR_READY 0 s = true ∧ fbit RSP_STAT_SPARE_FAIL 0 s = false
       ∧ fbit RSP_STAT_IN_SERVICE 1 s = true ∧ regionStopped 1 s = true
       ∧ (reaction (csrc 0 8) { s with rct := [(csrc 0 8, 0x80)] }).testBit 7 = true ∧ canTakeOver 0 0 s = true
       ∧ canTakeOver 1 0 s = false)
    ∧ (let s := withFields [(RSP_STAT_IN_SERVICE, 0, 1), (LPE_STAT_SUBST, 0, 1)]
       fbit RSP_STAT_IN_SERVICE 0 s = true ∧ fbit LPE_STAT_SUBST 0 s = true ∧ fget RSP_STAT_SERVING 0 s = 0 ∧ (engineNext 0 0 s).isNone = true)
    ∧ State.reset.poison = [] ∧ State.reset.soft = []
    ∧ (0x103 : Word).toNat % 8 ≠ fget RSP_CFG_DESIG 0 State.reset ∧ (0x103 : Word).toNat / 256 % 2 = 1 ∧ clusterOn 3 State.reset = true
    ∧ clusterOn 0 State.reset = true ∧ fbit LPE_STAT_SUBST 0 State.reset = false ∧ (engineNext 0 0 State.reset).isNone = true
    ∧ (let s := setSpare 0 ⟨some (4, 3), false, false⟩ State.reset; (spare 0 s).takeAt = some (4, 3)) := by decide

theorem witness_RoutesAndSoftLevels : routeBad 8 0x30000000000000000000001000000 State.reset = true
    ∧ (let v := 0x101000000; routeBad 8 v State.reset = false
       ∧ (∀ n ∈ rtRegions 8 (routeEntry 8 State.reset) ++ rtRegions 8 v, regionStopped n State.reset = true)
       ∧ ∃ n ∈ rtRegions 8 (routeEntry 8 State.reset) ++ rtRegions 8 v, regionStopped n (withFields [(RGN_STAT_STATE, 0, 2)]) = false)
    ∧ (mget 0x45000003 State.reset).toNat % 8 = 0 := by decide

theorem witness_GeneralTimers : timerRunning 0 State.reset = false ∧ timerLive 0 State.reset = false ∧ timerHeld 0 State.reset = true
    ∧ clusterOn (0 / 4) State.reset = true ∧ clusterOn (95 / 4) { State.reset with part := .pl9624 } = false
    ∧ (let s := setTmr 0 ⟨true, true, false, false, false, false, false⟩ (withFields [(TMR_PERIOD_VALUE_E, 0, 100), (TMR_CFG_CLK, 0, 1),
          (TMR_CFG_FREE, 0, 1), (TMR_COUNT_COUNT, 0, 50), (TMR_CMP0_VALUE_E, 0, 50), (TMR_CMP1_VALUE_E, 0, 60)])
       timerRunning 0 s = true ∧ timerLive 0 s = true ∧ timerHaltsNow 0 s = false ∧ timerHeld 0 s = false ∧ (tmr 0 s).arm0 = true ∧ (tmr 0 s).arm1 = true
       ∧ (50 + 2 ^ 32 - 50 % 2 ^ 32) % 2 ^ 32 < 2 ^ 31 ∧ 2 ^ 31 ≤ (50 + 2 ^ 32 - 60 % 2 ^ 32) % 2 ^ 32
       ∧ fget TMR_CMP0_VALUE_E 0 s ≠ fget TMR_PERIOD_VALUE_E 0 s) := by decide

theorem witness_RegionsStopAndStart : regionState 0 State.reset = 0 ∧ fbit FAB_STAT_BUSY 0 State.reset = false
    ∧ (let s := withFields [(FAB_STAT_BUSY, 0, 1), (RGN_STAT_STATE, 0, 1), (RGN_STAT_STATE, 1, 2)]
       fbit FAB_STAT_BUSY 0 s = true ∧ regionState 0 s = 1 ∧ (spare 0 s).back = false ∧ regionState 1 s = 2
       ∧ 0 ∈ regionClusters 0 s ∧ 0 ∈ regionTimers 0 s ∧ fbit TMR_CFG_FREE 0 s = false) := by decide

theorem witness_ImageLoads : (∃ n ∈ [0, 1, 2, 3], regionState n (withFields [(RGN_STAT_STATE, 2, 1)]) ≠ 0)
    ∧ (∀ n < 4, regionState n State.reset = 0) ∧ fbit FAB_STAT_BUSY 0 State.reset = false
    ∧ fbit FAB_STAT_BUSY 0 (withFields [(FAB_STAT_BUSY, 0, 1)]) = true ∧ State.reset.pwr.reload ≠ .running
    ∧ mread 0x10000000 4 State.reset ≠ 0x474D4946 ∧ checkImage 0 State.reset = some (1, 0xFFFF)
    ∧ ({ State.reset with img := some (some 0, 0, 0xFFFF) } : State).img = some (some 0, 0, 0xFFFF)
    ∧ ({ State.reset with img := some (none, 1, 0xFFFF) } : State).img = some (none, 1, 0xFFFF) ∧ State.reset.img = none := by decide

theorem witness_LinkPorts : fbitAt LNK_PSTAT_LANE_OK 0 0 State.reset = false ∧ portState 0 State.reset = 0 ∧ portUp 0 State.reset = false
    ∧ (let s := setPort 0 { PortH.init with req := some (1, 20) } (withFields [(LNK_PSTAT_LANE_OK, 0, 3), (LNK_PSTAT_STATE, 0, 2)])
       fbitAt LNK_PSTAT_LANE_OK 0 1 s = true ∧ (decide (lanesOk 0 s < 3) && decide (2 ≤ portState 0 s)) = true ∧ portState 0 s ≠ 0
       ∧ portUp 0 s = true ∧ (1, 20) ∈ (port 0 s).req ∧ ∀ e ∈ (port 0 s).req, e.1 ≠ (7 : Byte).toNat) := by decide

theorem witness_LinkCells : portState 0 State.reset = 0
    ∧ (let s := plus [(LNK_TOPO_RING_SIZE, 0, 4)] (withFields [(LNK_PSTAT_LANE_OK, 0, 7), (LNK_PSTAT_STATE, 0, 2), (LNK_PSTAT_STATE, 1, 1)])
       portState 0 s ≠ 0 ∧ (∀ l < 3, fbitAt LNK_PSTAT_LANE_OK 0 l s = true) ∧ (port 0 s).timing = none ∧ portUp 0 s = true ∧ portUp 1 s = false
       ∧ (withGeom (timingCell 0x50001 0) 2).master = s.link.master
       ∧ portState 1 s ≠ 0 ∧ s.swp.mode ≠ 2 ∧ (port 0 s).geom = none ∧ (port 0 s).pairDue = false ∧ (port 0 s).relay = none
       ∧ (port 0 s).helloDue = false ∧ (port 0 s).reqDue = false ∧ (port 0 s).resp = none ∧ (port 0 s).fwd = [] ∧ s.link.own = [])
    ∧ (let s : State := { (withFields [(LNK_PSTAT_STATE, 0, 2), (LNK_PSTAT_STATE, 1, 2)]) with swp := { Sweep.init with mode := 2 } }
       s.swp.mode = 2 ∧ (withGeom (timingCell (5 * 2 ^ 96) 0) 2).master ≠ s.link.master ∧ (withGeom (timingCell 0x140001 0) 2).hops < 510
       ∧ 1 < (withGeom (timingCell 0x140001 0) 2).rhops ∧ portUp 1 s = true ∧ (port 1 s).relayed = false)
    ∧ (let s := setPort 0 { PortH.init with fwd := [(64, 1), (0, 7)] } State.reset
       (port 0 s).fwd.find? (fun e => decide ((e.1 : Int) ≤ fineNow 0 s)) = some (0, 7))
    ∧ (let s := setPort 0 { PortH.init with geom := some 5, pairDue := true, helloDue := true, reqDue := true } State.reset
       (port 0 s).geom = some 5 ∧ (port 0 s).pairDue = true ∧ (port 0 s).helloDue = true ∧ (port 0 s).reqDue = true) := by decide

theorem witness_LinkRecords : fbit LNK_CTRL_EN 0 State.reset = false ∧ fbit LNK_CTRL_EN 0 (withFields [(LNK_CTRL_EN, 0, 1)]) = true
    ∧ portUp 0 State.reset = false ∧ State.reset.link.lookups = [] ∧ fbit PUB_STAT_WRITTEN 0 State.reset = false
    ∧ (let s := withFields [(LNK_PSTAT_STATE, 0, 2), (LNK_PSTAT_STATE, 1, 2), (LNK_DIR_EN, 0, 1), (SWP_GEOM_EFF0_DOTS, 0, 1600), (SWP_GEOM_EFF0_LINES, 0, 200)]
       portUp 0 s = true ∧ fbit LNK_DIR_EN 0 s = true ∧ portUp 1 s = true ∧ (port 1 s).fwd.length < 4096
       ∧ ¬(frameDots s ≤ s.pos.line * dotsEff s + s.pos.dot + 400) ∧ stepWithin 400 s = false)
    ∧ (let s : State := { State.reset with link := { LinkH.init with lookups := [(0, 5)] } }
       s.link.lookups = (0, 5) :: [] ∧ gateway s = false ∧ s.link.staged = []
       ∧ unitValid (dirAddr 5 s) { s with valid := [4507828224] } = true
       ∧ mread (dirAddr 5 s) 16 s = 0)
    ∧ (let a := dirAddr 5 State.reset
       let s : State := { State.reset with mem := [(4507828640, 5), (4507828643, 1)] }
       mread a 4 s = 5 + 2 ^ 24 ∧ clusterOn (mread (a + 8) 8 s / 8 / 128) s = true ∧ mread a 4 s % 2 ^ 24 ≠ 7 ∧ mread a 16 s ≠ 0) := by
  refine ⟨by decide, by decide, by decide, by decide, by decide, by decide, ⟨by decide, by decide, by decide, by decide +kernel, by decide +kernel⟩, ?_⟩
  refine ⟨by decide, by decide, by decide, by decide⟩

theorem witness_EventSourcesAndQueues : fbit EVC_CFG_EN 0x300 State.reset = false ∧ chosen State.reset = none
    ∧ (∀ r ∈ State.reset.recs.find? (underWay 0), State.reset.time ≤ r.at_) ∧ fbit EVC_ST_OUT 0 State.reset = false ∧ 3 ≤ fget PWR_STAT_STATE 0 (withFields [(PWR_STAT_STATE, 0, 3)])
    ∧ (let s := setEvSrc 0x300 ⟨⟨0, 0, 0⟩, 7, some 0, none, none⟩ (withFields [(EVC_CFG_EN, 0x300, 1), (EVC_ST_ARR, 0x300, 1), (EVC_ST_OUT, 5, 1),
          (EVQ_SIZE_SIZE, 0, 4), (EVQ_BASE_ADDR, 0, 0x3800000)])
       fbit EVC_CFG_EN 0x300 s = true ∧ fget PWR_STAT_STATE 0 s < 3 ∧ s.recAt ≠ some s.time ∧ chosen s = some 0x300 ∧ fbit EVC_ST_OUT 5 s = true
       ∧ fbit EVQ_CFG_IEN 0 s = false)
    ∧ (let s : State := { State.reset with time := 1, recs := [⟨0, 1, 2, false, ⟨0, 0, 0⟩, 0x38000000, 5, 0, false⟩] }
       s.recs.find? (underWay 0) = some ⟨0, 1, 2, false, ⟨0, 0, 0⟩, 0x38000000, 5, 0, false⟩ ∧ 0 < s.time ∧ ringOn 0 s = true
       ∧ (s.recs.filter (underWay 0)).length = 1)
    ∧ (let s := withFields [(EVQ_SIZE_SIZE, 0, 4), (EVQ_TAIL_INDEX, 0, 2), (EVQ_CFG_IEN, 0, 1)]
       1 < fget EVQ_SIZE_SIZE 0 s ∧ (1 + 4 - 0) % 4 ≤ (fget EVQ_TAIL_INDEX 0 s + 4 - fget EVQ_HEAD_INDEX 0 s) % 4
       ∧ fbit EVQ_CFG_IEN 0 s = true ∧ fget EVQ_HEAD_INDEX 0 s ≠ fget EVQ_TAIL_INDEX 0 s ∧ fbit EVQ_STAT_INT 0 s = false
       ∧ fbit EVQ_CFG_WAKE 0 s = false) := by decide

theorem witness_DispatchAndMemoryControl : regionRun 0 State.reset = false
    ∧ (let s := withFields [(RGN_STAT_STATE, 0, 2)]
       regionRun 0 s = true ∧ clusterOn 0 s = true ∧ fbit LPE_CFG_CORE_MODE 0 s = false ∧ fbit EXC_STAT_LOCKED 16 s = false
       ∧ (lcdQueue 0 s).length < 8 ∧ 8 ≤ (lcdQueue 0 (setLcd 0 [1, 2, 3, 4, 5, 6, 7, 8] s)).length
       ∧ fbit EXC_STAT_LOCKED 16 (plus [(EXC_STAT_LOCKED, 16, 1)] s) = true)
    ∧ (let s := withFields [(MEM_STAT_DISC_BUSY, 0, 1), (MEM_STAT_REP_BUSY, 0, 1), (CH_STAT_BUSY, 0, 1)]
       fbit MEM_STAT_DISC_BUSY 0 s = true ∧ fbit MEM_STAT_REP_BUSY 0 s = true ∧ fbit CH_STAT_BUSY 0 s = true)
    ∧ fbit MEM_STAT_DISC_BUSY 0 State.reset = false ∧ 0 < fget MEM_DISC_CNT_COUNT 0 (withFields [(MEM_DISC_CNT_COUNT, 0, 2)])
    ∧ State.reset.memh.disc = none ∧ State.reset.memh.repairing = none ∧ fbit MEM_STAT_REP_BUSY 0 State.reset = false
    ∧ fbit CH_STAT_BUSY 0 State.reset = false ∧ State.reset.memh.handed = [] ∧ (16 : Byte).toNat = 16 + 0
    ∧ fget RMB_CFG_INTERVAL 0 (withFields [(RMB_CFG_INTERVAL, 0, 0)]) = 0 ∧ fget RMB_CFG_INTERVAL 0 (withFields [(RMB_CFG_INTERVAL, 0, 9)]) ≠ 0
    ∧ (let s : State := { State.reset with memh := { State.reset.memh with disc := some (1, 2, 3), repairing := some 5 } }
       s.memh.disc = some (1, 2, 3) ∧ discMemory 1 = (0x20000000, 32768, 256) ∧ s.memh.repairing = some 5 ∧ repairCount s < 2048) := by decide

theorem witness_DmaChannels : (dma 0 State.reset).phase = .idle
    ∧ (let s := setDma 0 ⟨.work, 1, 8, 0x20000000, 0x20000100, 5, 0, false, 0⟩ (setDma 1 ⟨.fetch, 0, 0, 0, 0, 0, 0, false, 0⟩
          (setDma 2 ⟨.done, 0, 0, 0, 0, 0, 0, false, 0⟩ (setDma 3 ⟨.failed 1 5, 0, 0, 0, 0, 0, 0, false, 0⟩ State.reset)))
       (dma 0 s).phase = .work ∧ (dma 0 s).w0 % 16 = 1 ∧ (dma 1 s).phase = .fetch ∧ (dma 2 s).phase = .done ∧ (dma 3 s).phase = .failed 1 5
       ∧ s.poison = [] ∧ s.soft = [] ∧ (capCheck (slotCap CH_QCAP_CAP 1 s) [permLD] 0 32 false).isSome = true
       ∧ (capCheck (slotCap CH_QCAP_CAP 2 s) [permST] 24 8 true).isSome = true)
    ∧ (∀ a, a < 8 → [0x20000000].contains (0x20000000 + a - (0x20000000 + a) % 256) = true)
    ∧ (let s : State := { (withFields [(CH_CUR_ADDR, 0, 0x20000000), (CH_QCAP_CAP.tag, 0, 1), (CH_QCAP_CAP.w0, 0, 0x20000000), (CH_QCAP_CAP.w1, 0, 0x1000),
          (CH_QCAP_CAP.w2, 0, 0x30000)]) with valid := [0x20000000] }
       (capCheck (slotCap CH_QCAP_CAP 0 s) [permLD] 0x20000000 32 false).isSome = false
       ∧ (capCheck (slotCap CH_QCAP_CAP 0 s) [permST] 0x20000018 8 true).isSome = false
       ∧ dmaCheck 0 ⟨.work, 64, 0, 0, 0, 0, 0, false, 0⟩ s = none) := by decide

theorem witness_DisplayFramesAndLines : fbit SCN_STAT_PEND 0 State.reset = false ∧ fbit SCN_STAT_PEND 0 (withFields [(SCN_STAT_PEND, 0, 1)]) = true
    ∧ frameMismatch State.reset = false ∧ fbit SCN_CAP_CFG_EN_E 0 State.reset = false ∧ fbit SCN_CAP_CFG_EN_E 0 (withFields [(SCN_CAP_CFG_EN_E, 0, 1)]) = true
    ∧ State.reset.scan.sent = none ∧ State.reset.scan.capQ = []
    ∧ (let s : State := { (withFields [(SCN_CAP_CFG_FMT_E, 0, 3), (SCN_WCAP_CAP.tag, 0, 1), (SCN_WCAP_CAP.w0, 0, 0x20000000), (SCN_WCAP_CAP.w1, 0, 0x1000),
            (SCN_WCAP_CAP.w2, 0, 0x30000), (SCN_CAP_ADDR_ADDR_E, 0, 0x20000000)]) with
          scan := { State.reset.scan with sent := some ⟨3, [1, 2, 3], true, false⟩, capQ := [⟨3, 0x20000000, 4, [7, 8]⟩], capEnds := [(1, 5)] } }
       s.scan.sent = some ⟨3, [1, 2, 3], true, false⟩ ∧ (0 : Fin 1920).val < [1, 2, 3].length ∧ s.scan.capQ = [⟨3, 0x20000000, 4, [7, 8]⟩]
       ∧ (capCheck (slotCap SCN_WCAP_CAP 0 s) [permST] 0x20000000 8 true).isSome = false
       ∧ (capCheck (slotCap SCN_WCAP_CAP 0 s) [permST] 0 8 true).isSome = true ∧ fget SCN_CAP_CFG_FMT_E 0 s = 3)
    ∧ (let s : State := { State.reset with scan := { State.reset.scan with timing := ⟨false, 160, 25, 20, 8, 10, 4⟩ } }
       (1 : Fin 1200).val < (lineTiming 1 s).vactive ∧ (lineTiming 1199 s).vactive ≤ (1199 : Fin 1200).val ∧ s.scan.rll = []
       ∧ (∀ p < 4, fbit TP_CFG_EN_E p s = false) ∧ fbit SCN_MODE_FLAT_EN_E 0 s = false ∧ fget TRC_WIN1_W_E 0 s = 0
       ∧ 0 < (lineTiming 1 s).hactive)
    ∧ frameMismatch { State.reset with scan := { State.reset.scan with origin := some 0 } } = true := by decide

theorem witness_DisplayPortAndAux : State.reset.dp.training = false ∧ State.reset.dp.aux = false ∧ fbit DP_STAT_TRAINED 0 State.reset = false
    ∧ fget DP_STAT_HPD 0 State.reset = false.toNat ∧ fget DP_STAT_HPD 0 State.reset ≠ true.toNat
    ∧ pinCarries 240 0x10 State.reset = false ∧ pinCarries 240 0x10 (withFields [(PAD_EFF_W, 240, 0x10)]) = true ∧ fget DP_AUX_LEN 0 State.reset = 0
    ∧ (let s : State := { (withFields [(DP_STAT_TRAINED, 0, 1), (DP_AUX_LEN, 0, 16), (DP_AUX_CMD, 0, 1)]) with dp := ⟨true, true⟩ }
       s.dp.training = true ∧ s.dp.aux = true ∧ fbit DP_STAT_TRAINED 0 s = true ∧ fget DP_AUX_LEN 0 s ≠ 0 ∧ fget DP_AUX_CMD 0 s % 2 = 1
       ∧ fget DP_AUX_LEN 0 s = 16) ∧ fget DP_AUX_CMD 0 State.reset % 2 = 0 := by decide

theorem witness_BlockEngineAndFlattener : State.reset.be = .idle ∧ fbit FL_STAT_BUSY 0 State.reset = false ∧ bmOn 0 State.reset = false
    ∧ (let s : State := { (withFields [(BE_SIZE_W, 0, 2), (BE_SIZE_H, 0, 1), (BE_OP_DFMT, 0, 3), (BE_OP_SFMT, 0, 3), (BE_OP_OP, 0, 1),
          (BE_SRC_ADDR, 0, 0x20000000), (BE_DST_ADDR, 0, 0x20000100)]) with be := .work, valid := [0x20000000, 0x20000100] }
       s.be = .work ∧ beOp s = 1 ∧ fget BE_SIZE_H 0 s = 1 ∧ beDfmt s = 3 ∧ beSfmt s = 3 ∧ s.poison = [] ∧ s.soft = []
       ∧ (∀ x, x < 2 → s.valid.contains (0x20000000 + 4 * x - (0x20000000 + 4 * x) % 256) = true
          ∧ s.valid.contains (0x20000100 + 4 * x - (0x20000100 + 4 * x) % 256) = true))
    ∧ (({ State.reset with be := .failed 5 0 } : State).be = .failed 5 0) ∧ (({ State.reset with be := .done } : State).be = .done)
    ∧ (let s := withFields [(FL_STAT_BUSY, 0, 1), (FL_SIZE_H, 0, 1), (FL_SIZE_W, 0, 2), (FL_DST_ADDR, 0, 0x800000)]
       fbit FL_STAT_BUSY 0 s = true ∧ bmOn 1 s = false ∧ fget FL_SIZE_H 0 s = 1 ∧ 0x20000000 ≤ 64 * fget FL_DST_ADDR 0 s)
    ∧ flCheck (withFields [(FL_SIZE_H, 0, 1), (FL_SIZE_W, 0, 2)]) ≠ 0
    ∧ flCheck (withFields [(FL_SIZE_H, 0, 1), (FL_SIZE_W, 0, 2), (FL_DST_ADDR, 0, 0xC00000), (FL_PITCH_PITCH, 0, 64), (SCN_WCAP_CAP.tag, 0, 1),
          (SCN_WCAP_CAP.w0, 0, 0x30000000), (SCN_WCAP_CAP.w1, 0, 0x1000), (SCN_WCAP_CAP.w2, 0, 0x20000)]) = 0 := by decide

theorem witness_AudioBlock : (∀ e ∈ State.reset.aud.next.fields, e.1 ∈ publishable) ∧ fbit VC_CFG_EN 0 State.reset = false ∧ audioRuns State.reset = false ∧ nodesLive State.reset = []
    ∧ strobeDue State.reset = true ∧ strobeDue { State.reset with pos := ⟨0, 0, 7⟩ } = false
    ∧ (let s := withFields [(VC_CFG_EN, 0, 1), (VC_CFG_WAVE, 0, 4), (AUD_CTRL_EN, 0, 1), (TDM_STAT_LOCKED, 2, 1)]
       fbit VC_CFG_EN 0 s = true ∧ fget VC_CFG_WAVE 0 s = 4 ∧ audioRuns s = true ∧ nodesLive s = [] ∧ fbit TDM_STAT_LOCKED 2 s = true
       ∧ (capCheck (slotCap AUD_RCAP_CAP 0 s) [permLD] 0 2 false).isSome = true ∧ (voice 0 s).start = false)
    ∧ (let s : State := { (withFields [(VC_PCM_ADDR_ADDR, 1, 0x10000000), (AUD_RCAP_CAP.tag, 0, 1), (AUD_RCAP_CAP.w0, 0, 0x20000000), (AUD_RCAP_CAP.w1, 0, 0x1000),
          (AUD_RCAP_CAP.w2, 0, 0x10000)]) with valid := [0x20000000] }
       (capCheck (slotCap AUD_RCAP_CAP 0 s) [permLD] 0x20000000 4 false).isSome = false ∧ s.poison = [] ∧ s.soft = []
       ∧ ∀ k, k < 4 → s.valid.contains (0x20000000 + k - (0x20000000 + k) % 256) = true)
    ∧ agov TDM_CFG_MODE 2 { State.reset with aud := { State.reset.aud with gov := [(TDM_CFG_MODE.id, [(2, 2)])] } } = 2
    ∧ fbit TDM_STAT_LOCKED 2 State.reset = false ∧ agov TDM_CFG_MODE 2 State.reset ≠ 2 ∧ pinCarries 152 0x10 State.reset = false
    ∧ pinCarries 154 0x10 State.reset = false ∧ pinCarries 152 0x10 (withFields [(PAD_EFF_W, 152, 0x10), (PAD_EFF_W, 153, 0x10)]) = true
    ∧ pinCarries 153 0x10 (withFields [(PAD_EFF_W, 152, 0x10), (PAD_EFF_W, 153, 0x10)]) = true := by decide

theorem witness_AudioSampleStaysFormed : (∀ e ∈ State.reset.aud.next.fields, e.1 ∈ publishable) ∧ step State.reset = .next (tick State.reset) :=
  ⟨by decide, rfl⟩

theorem witness_FaultCollector : State.reset.flt.reports = [] ∧ fbit FLT_STAT_FROZEN 0 State.reset = false ∧ entryOpen 0 State.reset = false
    ∧ (let s : State := { State.reset with flt := { State.reset.flt with reports := [⟨0x140, 1, 2, 0, ⟨0, 0, 0⟩⟩] } }
       s.flt.reports.head? = some ⟨0x140, 1, 2, 0, ⟨0, 0, 0⟩⟩ ∧ s.flt.reports.tail = [] ∧ reaction 0x140 s = 0 ∧ fget PWR_WAKECFG_FCLASS 0 s = 0
       ∧ fbit FLT_STAT_FROZEN 0 s = false ∧ openOf (mergeGroup 0x140) s = none ∧ fbit FLT_STAT_FROZEN 0 (plus [(FLT_STAT_FROZEN, 0, 1)] s) = true
       ∧ openOf (mergeGroup 0x140) (plus [(FLT_CFG_STICKY, 0, 1), (TRAIL_W, 0, 0x8141), (FLT_TRAIL_COUNT, 0, 1), (FLT_TRAIL_NEXT, 0, 1)] s) = some 0)
    ∧ (coreExists 4 State.reset = false ∧ coreExists 0 State.reset = true ∧ domainOn (coreHome 1 State.reset) State.reset = false
       ∧ domainOn (coreHome 0 State.reset) (withFields [(PWR_DOMSTAT_ON, 0, 0x8000)]) = true)
    ∧ (let s := withFields [(EXC_STAT_LOCKED, 0, 1), (EXC_STAT_IN_REFUGE, 1, 1), (FLT_CTRL_ERR_FORCE, 0, 1), (FLT_CFG_LOCK, 0, 1), (TRAIL_W, 8, 0x8000)]
       fbit EXC_STAT_LOCKED 0 s = true ∧ fbit EXC_STAT_IN_REFUGE 1 s = true ∧ (cpu 1 s).held = none ∧ fbit EXC_STAT_IN_REFUGE 2 s = false
       ∧ fbit FLT_CTRL_ERR_FORCE 0 s = true ∧ fbit FLT_CFG_LOCK 0 s = true ∧ entryOpen 1 s = true)
    ∧ fbit FLT_CTRL_ERR_FORCE 0 State.reset = false ∧ State.reset.flt.errAt ≠ some State.reset.time ∧ fbit FLT_CFG_LOCK 0 State.reset = false := by decide

theorem witness_ResetsByTheCollector : 0x1C0 ≤ (0x1C5#10).toNat ∧ coreExists 0 State.reset = true
    ∧ coreExists 4 State.reset = false ∧ portState 0 State.reset < 2
    ∧ 2 ≤ portState 0 (withFields [(LNK_PSTAT_STATE, 0, 2)])
    ∧ fbit TDM_STAT_ASRC_LOST 2 (withFields [(TDM_STAT_ASRC_LOST, 2, 1)]) = true := by decide

theorem witness_StorageManagers : State.reset.cfs.find? (fun e => !storeHeld e.1 State.reset) = none ∧ State.reset.nand.starting = false
    ∧ (let s : State := { State.reset with cfs := [(0x2000001, 5)] }
       s.cfs.find? (fun e => !storeHeld e.1 s) = some (0x2000001, 5) ∧ s.cfs ≠ [] ∧ { s with time := 28 }.cfsAt + 28 ≤ { s with time := 28 }.time)
    ∧ present NF_DONE1_WORD1 State.reset.nand.done State.reset = [] ∧ (present NF_DONE1_WORD1 [(5, 6)] State.reset).head? = some (5, 6)
    ∧ (nandHand 0 State.reset = none ∧ nandHand 1 State.reset = none ∧ nandHand 2 State.reset = none ∧ nandHand 3 State.reset = none ∧ nandHand 4 State.reset = none)
    ∧ (let s : State := { (withFields [(NF_STAT_READY, 0, 1), (NF_CAP_CAP.tag, 0, 1), (NF_CAP_CAP.w0, 0, 0x20000000), (NF_CAP_CAP.w1, 0, 0x10000),
          (NF_CAP_CAP.w2, 0, 0x30000)]) with nand := { NandH.init with starting := true, sectors := 8, spb := 4, queue := [⟨0, 7, 1, 1, 0x20000000⟩] } }
       s.nand.starting = true ∧ nandHand 0 s = some ⟨0, 7, 1, 1, 0x20000000⟩ ∧ s.nand.sectors ≥ 1 + 1 ∧ s.nand.hand = .none ∧ 0 < s.nand.spb ∧ s.nand.left = 0
       ∧ (capCheck (slotCap NF_CAP_CAP 0 s) [permST] 0x20000000 4096 true).isSome = false
       ∧ (capCheck (slotCap NF_CAP_CAP 0 s) [permLD] 0x20000000 4096 false).isSome = false ∧ s.nand.queue.head? = some ⟨0, 7, 1, 1, 0x20000000⟩
       ∧ (∀ st d, s.nand.hand ≠ .ended st d) ∧ fbit NF_STAT_READY 0 s = true ∧ s.nand.sealed = false)
    ∧ (let h (op : Nat) : State := { (withFields [(NF_STAT_READY, 0, 1), (NF_PATROL_HOURS, 0, 1)]) with nand := { NandH.init with left := 1, refresh := [3], blocks := 2, used := [1], wear := [(1, 300)], queue := [⟨op, 7, 0, 0, 0⟩] } }
       nandHand 1 (h 1) = some ⟨1, 7, 0, 0, 0⟩ ∧ nandHand 2 (h 2) = some ⟨2, 7, 0, 0, 0⟩ ∧ nandHand 3 (h 3) ≠ none ∧ nandHand 4 (h 4) ≠ none ∧ 0 < (h 0).nand.left
       ∧ (h 0).nand.refresh.head? = some 3 ∧ fget NF_PATROL_HOURS 0 (h 0) ≠ 0 ∧ wearPick true (volBlocks (h 0)) (h 0) = some 1
       ∧ wearPick false (h 0).nand.used (h 0) = some 1 ∧ wearPick false (volBlocks (h 0)) (h 0) = some 0
       ∧ wearOf 0 (h 0) + fget NF_CFG2_WL_DELTA 0 (h 0) < wearOf 1 (h 0)) := by
  refine ⟨by decide, by decide, by decide, by decide, by decide, by decide, ?_, ?_⟩
  · refine ⟨by decide, by decide, by decide, by decide, by decide, by decide, by decide, by decide, by decide, ?_, by decide, by decide⟩
    intro st d h; cases h
  · refine ⟨by decide, by decide, by decide, by decide, by decide, by decide, by decide, by decide, by decide, by decide, by decide⟩

/-- Port 0 with an address that passes, receive queue 0 and transmit queue 0 of four descriptors in general SRAM. -/
def framesReady : State :=
  { (withFields [(ETH_CTRL_EN, 0, 1), (ETH_CTRL_PROMISC, 0, 1), (ETH_STAT_LINK, 0, 1), (ERXQ_SIZE_SIZE, 0, 4), (ERXQ_BASE_ADDR, 0, 0x1000000),
      (ERXQ_PROD_INDEX, 0, 1), (ETXQ_SIZE_SIZE, 0, 4), (ETXQ_BASE_ADDR, 0, 0x1000000), (ETXQ_PROD_INDEX, 0, 1), (ETH_CAP_CAP.tag, 0, 1),
      (ETH_CAP_CAP.w0, 0, 0x20000000), (ETH_CAP_CAP.w1, 0, 0x1000), (ETH_CAP_CAP.w2, 0, 0x30000)]) with
    valid := [0x20000000, 0x20000100], mem := [(0x20000001, 1), (0x20000003, 0x20), (0x20000004, 64)] }
theorem witness_FramesAndQueues : qExists 12 = false ∧ qExists 8 = true ∧ fget (qRegs 8).size (qRegs 8).unit framesReady ≠ 0
    ∧ fget (qRegs 8).size (qRegs 8).unit State.reset = 0 ∧ (queue 8 State.reset).hands.length ≤ (queue 8 State.reset).back
    ∧ fbit (qRegs 8).err (qRegs 8).unit State.reset = false ∧ qReady 8 State.reset = 0 ∧ fget (qRegs 8).prod (qRegs 8).unit framesReady ≠ 0
    ∧ (let s := setQueueH 8 ⟨[⟨[1, 2, 3, 4], true, 0⟩, ⟨[1, 2, 3, 4], true, 0⟩], ⟨0, 0, 0⟩, 1⟩ framesReady
       ((queue 8 s).hands.drop 1).head? = some ⟨[1, 2, 3, 4], true, 0⟩ ∧ (queue 8 s).back = 1 ∧ (queue 8 s).hands.head? = some ⟨[1, 2, 3, 4], true, 0⟩ ∧ (capCheck (qCap 8 s) [permST] 0x20000010 16 true).isSome = false
       ∧ (capCheck (qCap 8 State.reset) [permST] 0x10 16 true).isSome = true ∧ s.poison = [] ∧ s.soft = [])
    ∧ fbit ETH_CTRL_EN 0 State.reset = false ∧ fbit ETH_CTRL_EN 0 framesReady = true ∧ qReady 8 framesReady ≠ 0 ∧ qReady 9 framesReady = 0
    ∧ qAddr 8 0 framesReady = 0x20000000 ∧ mread 0x20000000 4 framesReady = 0x20000100 ∧ mread 0x20000004 2 framesReady = 64
    ∧ (capCheck (qCap 8 framesReady) [permLD] 0x20000000 16 false).isSome = false
    ∧ (capCheck (qCap 8 framesReady) [permST] 0x20000100 60 true).isSome = false
    ∧ qReady 0 framesReady ≠ 0 ∧ (∀ i, i < 8 → 0 < i → qReady i framesReady = 0) ∧ gclOff 0 framesReady = true ∧ fbit ETH_CBS_EN 0 framesReady = false
    ∧ (∀ a, a < 64 → framesReady.valid.contains (0x20000100 + a - (0x20000100 + a) % 256) = true)
    ∧ (mread 0x20000004 4 framesReady).testBit 17 = false ∧ (capCheck (qCap 0 framesReady) [permLD] 0x20000100 64 false).isSome = false
    ∧ fbit ETH_STAT_LINK 0 State.reset ≠ true ∧ gclStarts 0 State.reset = true ∧ gclStarts 0 { State.reset with pos := ⟨0, 0, 1⟩ } = false
    ∧ (let s := withFields [(ETH_GCL_LEN_COUNT_E, 0, 2), (ETH_GCL_CYCLE_LINES_E, 0, 2)]
       fget ETH_GCL_STAT_ENTRY 0 s + 1 < fget ETH_GCL_LEN_COUNT_E 0 s ∧ fget ETH_GCL_CYCLE_LINES_E 0 s ≠ 0
       ∧ ((List.range 1).map (fun i => fget ETH_GCL_DOTS_E i s)).sum ≤ s.pos.line % 2 * dotsEff s + s.pos.dot)
    ∧ fbit ETH_GCL_STAT_PEND 0 State.reset = false
    ∧ fbit ETH_GCL_STAT_PEND 0 (withFields [(ETH_GCL_STAT_PEND, 0, 1)]) = true
    ∧ fbit ETH_MDIO_STAT_BUSY 0 State.reset = false ∧ fbit ETH_MDIO_STAT_BUSY 0 (withFields [(ETH_MDIO_STAT_BUSY, 0, 1)]) = true := by
  refine ⟨by decide, by decide, by decide, by decide, by decide, by decide +kernel, by decide, by decide, by decide, by decide, by decide +kernel,
    by decide +kernel, by decide +kernel, by decide +kernel, by decide +kernel, by decide +kernel, by decide +kernel, by decide, by decide,
    by decide +kernel, by decide +kernel, by decide +kernel, by decide, by decide, by decide, by decide, by decide, by decide⟩

/-- The endpoint with window 0 onto general SRAM, and CAN FD controller 0 with one descriptor in each ring. -/
def endpointReady : State :=
  { (withFields [(PIW_SIZE_SIZE, 0, 1), (PIW_DEST_ADDR, 0, 0x20000), (PIW_CAP_CAP.tag, 0, 1), (PIW_CAP_CAP.w0, 0, 0x20000000), (PIW_CAP_CAP.w1, 0, 0x1000),
      (PIW_CAP_CAP.w2, 0, 0x30000), (PCIE_STAT_LINK_UP, 0, 1), (PCIE_BAR0_LOG2SIZE, 0, 14), (PCIE_CTRL_EN, 0, 1), (PAD_EFF_W, 209, 0x10), (PAD_EFF_W, 231, 0x10),
      (EVC_CFG_EN, 0x153, 1), (CAN_CTRL_EN, 0, 1), (CTXQ_SIZE_SIZE, 0, 4),
      (CTXQ_BASE_ADDR, 0, 0x1000000), (CTXQ_PROD_INDEX, 0, 1), (CRXQ_SIZE_SIZE, 0, 4), (CRXQ_BASE_ADDR, 0, 0x1000000), (CRXQ_PROD_INDEX, 0, 1),
      (CAN_CAP_CAP.tag, 0, 1), (CAN_CAP_CAP.w0, 0, 0x20000000), (CAN_CAP_CAP.w1, 0, 0x1000), (CAN_CAP_CAP.w2, 0, 0x30000)]) with
    valid := [0x20000000, 0x20000100], mem := [(0x20000001, 1), (0x20000003, 0x20), (0x20000004, 72)] }
theorem witness_EndpointAndCan : (fbit PCIE_STAT_LINK_UP 0 State.reset = false ∧ fbit PCIE_STAT_LINK_UP 0 endpointReady = true
      ∧ fget PCIE_BAR0_LOG2SIZE 0 endpointReady ≠ 0 ∧ 8 < 2 ^ fget PCIE_BAR0_LOG2SIZE 0 endpointReady ∧ fbit PCIE_CTRL_EN 0 endpointReady = true
      ∧ fbit PCIE_CTRL_EN 0 State.reset = false ∧ pinCarries 231 0x10 endpointReady = true ∧ pinCarries 231 0x10 State.reset = false
      ∧ canHears 0 endpointReady = true ∧ canHears 0 State.reset = false)
    ∧ ([PcieEnd.data 5].head? = some (.data 5)) ∧ pcieWindow 0 State.reset = none ∧ pcieWindow 8 endpointReady = some 0
    ∧ 4096 * fget PIW_OFFSET_OFFSET 0 endpointReady + 4096 * fget PIW_SIZE_SIZE 0 endpointReady < 4090 + 8
    ∧ (capCheck (slotCap PIW_CAP_CAP 0 endpointReady) [permST] 0x20000008 8 true).isNone = true
    ∧ (capCheck (slotCap PIW_CAP_CAP 0 endpointReady) [permLD] 0x20000008 8 false).isNone = true
    ∧ (capCheck (slotCap PIW_CAP_CAP 0 State.reset) [permLD] 8 8 false).isNone = false ∧ State.reset.net.pcie.msi = 0
    ∧ ({ State.reset.net.pcie with msi := 1 } : PcieH).msi ≠ 0 ∧ fbit PCIE_STAT_LINK_UP 0 endpointReady = true ∧ fbit EVC_CFG_EN 0x153 State.reset = false
    ∧ fbit EVC_CFG_EN 0x153 endpointReady = true ∧ fbit CAN_CTRL_EN 0 State.reset = false ∧ fbit CAN_CTRL_EN 0 endpointReady = true
    ∧ canOpen 0 endpointReady = true ∧ qReady 33 endpointReady ≠ 0 ∧ qAddr 33 0 endpointReady = 0x20000000 ∧ mread 0x20000000 4 endpointReady = 0x20000100
    ∧ 72 ≤ mread 0x20000004 2 endpointReady ∧ (capCheck (qCap 33 endpointReady) [permLD] 0x20000000 16 false).isSome = false
    ∧ (capCheck (qCap 33 endpointReady) [permST] 0x20000100 72 true).isSome = false ∧ canSends 0 State.reset = false ∧ canSends 0 endpointReady = true
    ∧ fget CAN_CTRL_MODE 0 endpointReady = 0 ∧ qReady 32 endpointReady = 1 ∧ (mread 0x20000004 4 endpointReady).testBit 17 = false
    ∧ (capCheck (qCap 32 endpointReady) [permLD] 0x20000100 72 false).isSome = false
    ∧ (∀ a, a < 72 → endpointReady.valid.contains (0x20000100 + a - (0x20000100 + a) % 256) = true)
    ∧ fget CAN_STAT_STATE 0 State.reset ≠ 2 ∧ fget CAN_STAT_STATE 0 (withFields [(CAN_STAT_STATE, 0, 2)]) = 2 ∧ (can 0 State.reset).recovering = false
    ∧ (can 0 (setCan 0 ⟨true, none⟩ State.reset)).recovering = true := by
  refine ⟨by decide +kernel, by decide, by decide, by decide +kernel, by decide +kernel, by decide +kernel, by decide +kernel, by decide, by decide, by decide, by decide, by decide,
    by decide, by decide, by decide, by decide +kernel, by decide +kernel, by decide +kernel, by decide +kernel, by decide +kernel, by decide +kernel,
    by decide +kernel, by decide, by decide +kernel, by decide, by decide +kernel, by decide +kernel, by decide +kernel, by decide +kernel, by decide,
    by decide, by decide, by decide⟩

theorem witness_SerialPorts : fbit UART_CTRL_EN 0 State.reset = false ∧ pinCarries 217 0x10 State.reset = false
    ∧ fbit UART_CTRL_EN 0 (withFields [(UART_CTRL_EN, 0, 1), (PAD_EFF_W, 217, 0x10)]) = true
    ∧ pinCarries 217 0x10 (withFields [(UART_CTRL_EN, 0, 1), (PAD_EFF_W, 217, 0x10)]) = true ∧ uartClear State.reset = true
    ∧ State.reset.net.uartTx = [] ∧ State.reset.net.uartRx = [] ∧ State.reset.net.uartAt = none ∧ 5 < 0 + uartFrame State.reset * 64 / 2
    ∧ uartFrame State.reset * 0 ≤ 2 * (0 - 0) ∧ (present UART_DATA_CHAR [2] State.reset).head? = some 2 ∧ present UART_DATA_CHAR State.reset.net.uartRx State.reset = []
    ∧ (let s : State := { State.reset with net := { NetH.init with uartTx := [1], uartRx := [2], uartAt := some 0, spi := ⟨[1], [2], 3, 0, [4], some 0⟩ } }
       s.net.uartTx ≠ [] ∧ s.net.uartTx.length < 64 ∧ s.net.uartAt = some 0 ∧ (present SPI_RX_WORD s.net.spi.rx s).head? = some 2 ∧ s.net.spi.left ≠ 0
       ∧ s.net.spi.tx.length < 64 ∧ s.net.spi.tx ≠ [] ∧ s.net.spi.rx.length < 64 ∧ s.net.spi.at_ = some 0)
    ∧ 64 ≤ (List.range 64).length ∧ fbit I2C_STAT_BUSY 0 State.reset = false ∧ fbit I2C_STAT_BUSY 0 (withFields [(I2C_STAT_BUSY, 0, 1)]) = true
    ∧ fbit I2C_CTRL_EN 0 State.reset = false ∧ fbit I2C_CTRL_EN 0 (withFields [(I2C_CTRL_EN, 0, 1)]) = true
    ∧ min (5 - fget I2C_CMD_WCOUNT 0 State.reset) (fget I2C_CMD_RCOUNT 0 State.reset) ≤ 32
    ∧ fbit SPI_CTRL_EN 0 State.reset = false ∧ fbit SPI_CTRL_EN 0 (withFields [(SPI_CTRL_EN, 0, 1)]) = true ∧ fbit SPI_STAT_BUSY 0 State.reset = false
    ∧ fbit SPI_STAT_BUSY 0 (withFields [(SPI_STAT_BUSY, 0, 1)]) = true ∧ State.reset.net.spi.left = 0 ∧ State.reset.net.spi.at_ = none
    ∧ present SPI_RX_WORD State.reset.net.spi.rx State.reset = [] := by decide

theorem witness_PowerRequestsAndWakes : requestRefused 0 State.reset = 1 ∧ requestRefused 1 State.reset = 0
    ∧ (let s := withFields [(PWR_STAT_STATE, 0, 1), (PWR_WAKECFG_PIN_EN, 0, 1), (PWR_WAKECFG_ALARM_EN, 0, 1)]
       requestRefused 0 s = 0 ∧ s.pwr.entering = none ∧ s.pwr.waking = false ∧ 1 ≤ fget PWR_STAT_STATE 0 s ∧ fget PWR_STAT_STATE 0 s ≤ 3
       ∧ fbitAt PWR_WAKECFG_PIN_EN 0 0 s = true ∧ fbit PWR_WAKECFG_ALARM_EN 0 s = true)
    ∧ runoffRefused 8 (withFields [(RGN_STAT_STATE, 0, 2)]) = true ∧ runoffRefused 0 State.reset = false ∧ runoffRefused 0x80 State.reset = false
    ∧ ((List.range 24).filter (fun d => domainOn d State.reset && (decide (3 ≤ d) && (0#32).getLsbD d))).reverse = []
    ∧ ((List.range 24).filter (fun d => domainOn d (withFields [(PWR_DOMSTAT_ON, 0, 0x80)]) && (decide (3 ≤ d) && (0x80#32).getLsbD d))).reverse ≠ []
    ∧ runoffRefused 0 (withFields [(PWR_RUNOFF_OFF, 0, 0x10)]) = false
    ∧ ((List.range 21).map (3 + ·)).filter (fun d => maskedOff d (withFields [(PWR_RUNOFF_OFF, 0, 0x10)]) && !(0#32).getLsbD d) ≠ []
    ∧ fbitAt PWR_WAKECFG_PIN_EN 0 0 State.reset = false ∧ fbit PWR_WAKECFG_ALARM_EN 0 State.reset = false
    ∧ fget PWR_STAT_STATE 0 (withFields [(PWR_STAT_STATE, 0, 4)]) = 4 ∧ fget PWR_STAT_STATE 0 State.reset = 0 ∧ State.reset.pwr.entering = none
    ∧ domainOn 15 State.reset = false ∧ domainOn 15 (withFields [(PWR_DOMSTAT_ON, 0, 0x8000)]) = true
    ∧ ({ State.reset.pwr with entering := some 1 } : PwrH).entering ≠ none := by decide

theorem witness_PowerSequences : State.reset.pwr.entering = none ∧ State.reset.pwr.gone = none ∧ State.reset.pwr.off = []
    ∧ ({ State.reset.pwr with gone := some 4, off := [5, 3] } : PwrH).off.head? = some 5 ∧ 4 + 1 + 400 ≤ 405
    ∧ mread (repairEntry 0) 4 State.reset = 0 ∧ (0 : Nat) ∉ State.reset.memh.rows ∧ ({ State.reset.pwr with entering := some 4 } : PwrH).entering = some 4
    ∧ (let s : State := { State.reset with pwr := { State.reset.pwr with waiting := [0, 3] } }
       s.pwr.waiting.find? (fun d => (domainNeeds d).all (fun n => domainOn n s)) = some 0
       ∧ domainUnits 0 + (s.pwr.ramping.map (fun e => domainUnits e.1)).sum ≤ fget PWR_BUDGET_UNITS 0 s ∧ s.pwr.waiting.all (fun x => x < 24) = true)
    ∧ (let s : State := { (withFields [(PWR_DOMSTAT_ON, 0, 3), (PWR_BUDGET_UNITS, 0, 4)]) with pwr := { State.reset.pwr with waiting := [2], ramping := [(4, 9)], waking := true } }
       s.pwr.waiting.find? (fun d => (domainNeeds d).all (fun n => domainOn n s)) = some 2 ∧ s.pwr.selfRefresh = false
       ∧ fget PWR_BUDGET_UNITS 0 s < domainUnits 2 + (s.pwr.ramping.map (fun e => domainUnits e.1)).sum ∧ fbitAt PWR_DEFER_DOMAINS 0 2 s = false
       ∧ s.pwr.initial = false ∧ s.pwr.ramping.any (fun e => e.1 == 4) = true)
    ∧ (let s : State := { State.reset with pwr := { State.reset.pwr with waking := true } }
       (s.pwr.waking && s.pwr.waiting.isEmpty && s.pwr.ramping.isEmpty && !decide (s.pwr.reload = .running)) = true)
    ∧ fget PWR_STAT_STATE 0 State.reset ≠ 4 ∧ fget PWR_STAT_STATE 0 (withFields [(PWR_STAT_STATE, 0, 4)]) = 4 := by decide

theorem witness_PadsBootAndTest : offers 200 0x55 State.reset = false ∧ offers 200 0x01 State.reset = true
    ∧ (clusterOn 0 State.reset = true ∧ legState 0 State.reset = 0) ∧ padNo (.pin 3) ∉ State.reset.pads.wait
    ∧ (let s : State := { State.reset with pads := { State.reset.pads with wait := [3, 257], latched := [4] } }
       held PAD_OUT_OUT.id 0 { s with hits := [(PAD_OUT_OUT.id, 0, 6)] } = 6 ∧ padNo (.pin 3) ∈ s.pads.wait ∧ padNo (.gate 1) ∈ s.pads.wait ∧ padNo (.pin 4) ∈ s.pads.latched)
    ∧ mayLoad State.reset = true ∧ mayLoad (withFields [(FAB_STAT_BUSY, 0, 1)]) = false
    ∧ (coreExists 1 State.reset && domainOn (coreHome 1 State.reset) State.reset) = false
    ∧ (let s := withFields [(PWR_DOMSTAT_ON, 0, 0x10000)]
       coreExists 1 s = true ∧ domainOn (coreHome 1 s) s = true ∧ (cpu 1 s).state = .off ∧ bistRefused 0 1 s = 0 ∧ bistRefused 0 2 s = 3
       ∧ held BIST_CTRL_KIND.id 0 { s with hits := [(BIST_CTRL_KIND.id, 0, 1)] } = 1
       ∧ fbit BIST_STAT_BUSY 0 (withFields [(BIST_STAT_BUSY, 0, 1)]) = true)
    ∧ (let s := withFields [(JTAG_CAP_CAP.tag, 0, 1), (JTAG_CAP_CAP.w0, 0, 0x20000000), (JTAG_CAP_CAP.w1, 0, 0x1000), (JTAG_CAP_CAP.w2, 0, 0x10030000)]
       ((slotCap JTAG_CAP_CAP 0 s).tag && !(slotCap JTAG_CAP_CAP 0 s).sealed && (slotCap JTAG_CAP_CAP 0 s).has permBIST) = true
       ∧ (capCheck (slotCap JTAG_CAP_CAP 0 s) [permST] 0x20000004 4 true).isSome = false
       ∧ (capCheck (slotCap JTAG_CAP_CAP 0 s) [permLD] 0x20000004 4 false).isSome = false)
    ∧ State.reset.test.bist = none ∧ ({ State.reset.test with bist := some (1, 0) } : TestH).bist = some (1, 0)
    ∧ allStopped State.reset = true ∧ allStopped (withFields [(RGN_STAT_STATE, 1, 2)]) = false
    ∧ (0x30000000020000004#72).toNat % 2 ^ 32 = 0x20000004 ∧ (0x30000000020000004#72).toNat.testBit 65 = true := by decide

theorem witness_ControlInstructions : begins hostHdr {} 1 State.reset ∧ begins loopHdr {} 1 (loopState [])
    ∧ (waitEnds 0 State.reset = false ∧ ∀ q, q < 8 → fbit EVQ_CFG_IEN q State.reset = false)
    ∧ waitEnds 0 (withFields [(EVQ_STAT_INT, 2, 1)]) = true
    ∧ (let s := withFields [(PWR_DOMSTAT_ON, 0, 0x8000), (EVQ_CFG_IEN, 1, 1), (EVQ_TAIL_INDEX, 1, 5)]
       waitEnds 0 s = false ∧ evcRuns s = true ∧ domainOn 15 s = true ∧ fget EVQ_CFG_CORE 1 s = 0 ∧ queueNonempty 1 s = true)
    ∧ optionX 0x0020 = false ∧ optionX 0x8020 = true ∧ fieldD 0x0021 ≠ 0 ∧ fieldB 0x0420 ≠ 0 ∧ ¬ (33#8).toNat < 32 := by
  refine ⟨by unfold begins; decide, by unfold begins; decide +kernel, by decide, by decide, by decide, by decide⟩

theorem witness_ExceptionsAndReturn :
    (let s := plus [(EXC_CTRL_IE, 0, 1)] (cSet 0 15 (mkCap 0x20001000 0x100 0x1B 0 false 0 true) State.reset)
     plainKey 0 (pushAt 0 s) 64 s = some 0x200010C0 ∧ canPush 0 0x200010C0 s ∧ begins hostHdr { alone := true } 1 s
     ∧ (let t := setCpu 0 { cpu 0 s with faults := [5] } s
        waitingTrap 0 t = none ∧ waitingFault 0 t = some 5 ∧ fetchFails 0 0 1 t = (none, t))
     ∧ waitingInterrupt 0 (plus [(EVQ_STAT_INT, 2, 1)] s) = some 2 ∧ instWaits 0 (beginCycle 0 0 {} s) {} s = none)
    ∧ (pushCheck 0 State.reset = some 1 ∧ coreRuns 0 State.reset = true ∧ coreRuns 1 State.reset = false)
    ∧ waitingTrap 0 (setCpu 0 { cpu 0 State.reset with faults := [0x1005] } State.reset) = some 0x1005
    ∧ (let s := cSet 0 14 Cap.none (setCpu 0 { cpu 0 State.reset with entry := true } State.reset)
       waitingTrap 0 s = none ∧ (cpu 0 s).entry = true ∧ capCheck (cGet 0 14 s) [permX] (cpu 0 s).pc 1 false = some 1)
    ∧ (let s := setCpu 16 { cpu 16 (loopState []) with arith := [(9, 4, 0)] } (loopState [])
       (cpu 16 s).arith = [(9, 4, 0)] ∧ fetchFails 16 (cpu 16 s).pc 1 s = (none, s))
    ∧ (let s := writeCap 0x20001130 (mkCap 0x20001000 0x140 0x1B 0 false 0 true) (cSet 0 15 (mkCap 0x20001000 0x100 0x1B 0 false 0 true) State.reset)
       plainKey 0 0x20001100 64 s = some 0x20001100 ∧ coreTags 0 0x20001100 s = true ∧ (capAt 0x20001130 s).tag = true
       ∧ (capAt 0x20001130 s).sealed = false ∧ (capAt 0x20001130 s).kind = 0 ∧ (capAt 0x20001130 s).base = 0x20001000
       ∧ (capAt 0x20001130 s).perms = (cGet 0 15 s).perms ∧ (capAt 0x20001130 s).length = (cGet 0 15 s).length + 64)
    ∧ (capAt 0x20001130 State.reset).tag = false ∧ fbit EXC_STAT_IN_REFUGE 0 (withFields [(EXC_STAT_IN_REFUGE, 0, 1)]) = true
    ∧ (undefinedAt 0 0x20000000 (mwrite 0x20000000 1 0x09 State.reset) = true ∧ undefinedAt 0 0x20000000 State.reset = false) := by
  refine ⟨⟨by decide +kernel, by unfold canPush memorySound; decide +kernel, by unfold begins; decide +kernel, by decide +kernel, by decide +kernel, by decide +kernel⟩,
    by decide +kernel, by decide +kernel, by decide +kernel, by decide +kernel, by decide +kernel, by decide +kernel, by decide +kernel⟩

theorem witness_IntegerInstructions : begins hostHdr { reads := [1, 2], writes := [3] } 3 (coreState [(1, 5), (2, 7)])
    ∧ begins loopHdr { reads := [1, 2], writes := [3], alone := true } 3 (loopState [(1, 5)])
    ∧ (fieldD 0x0823 = 3 ∧ fieldA 0x0823 = 1 ∧ fieldB 0x0823 = 2 ∧ optionX 0x0823 = false) ∧ fieldB 0x0023 = 0 ∧ fieldD 0x0820 = 0 ∧ fieldA 0x0803 = 0
    ∧ (let s := plus [(EXC_CTRL_PRECISE, 16, 1)] (setCpu 16 { cpu 16 (loopState [(1, 5)]) with fctrl := 0x2000 } (loopState [(1, 5)]))
       fbit EXC_CTRL_PRECISE 16 s = true ∧ 0x100 &&& trapBits (cpu 16 s).fctrl ≠ 0 ∧ begins loopHdr { reads := [1, 2], writes := [3], alone := true } 3 s)
    ∧ fbit EXC_CTRL_PRECISE 0 State.reset = false := by
  refine ⟨by unfold begins; decide +kernel, by unfold begins; decide +kernel, by decide, by decide, by decide, by decide,
    ⟨by decide, by decide, by unfold begins; decide +kernel⟩, by decide⟩

theorem witness_LoadsAndStores : memorySound State.reset
    ∧ (let s := coreState [(1, 0x20000010)]
       begins hostHdr (memIss [] [1, 0] [3]) 5 s ∧ capCheck (cGet 0 0 s) [permLD] 0x20000010 4 false = none ∧ plainKey 0 0x20000010 4 s = some 0x20000010
       ∧ capCheck (cGet 0 0 s) [permST] 0x20000010 4 true = none ∧ capCheck (cGet 0 0 s) [permLD, permST] 0x20000010 4 true = none
       ∧ capCheck (cGet 0 7 s) [permLD] 0x20000010 4 false = some 1 ∧ regionOf 0x70000000 = .pcie ∧ regionOf 0x00200000 = .hole)
    ∧ (let s := loopState [(1, 0x100010)]
       begins loopHdr (memIss [] [1, 0] [3]) 5 s ∧ plainKey 16 0x100010 4 s = some 0x4A020010 ∧ loopPlace 16 0x20000000 4 s = .sram
       ∧ loopPlace 16 0x41000000 4 s = .own ∧ loopPlace 16 0x40000000 4 s = .region ∧ loopPlace 16 0x50000000 4 s = .nothing)
    ∧ (prefixesOk allowLoad [.acquire, .width64] = true ∧ hasOrder [.acquire] = true ∧ elemSize [.width64] = 8 ∧ pairField 4 = true ∧ pairField 3 = false
       ∧ prefixesOk allowStoreImm [.release] = true ∧ prefixesOk allowAtomic [.acqRel] = true ∧ prefixesOk allowLoad [.release] = false) := by
  refine ⟨by unfold memorySound; decide, ⟨by unfold begins; decide +kernel, by decide +kernel, by decide +kernel, by decide +kernel, by decide +kernel, by decide +kernel⟩,
    ⟨by unfold begins; decide +kernel, by decide +kernel⟩, by decide⟩

theorem witness_BitInstructions :
    (let s := cSet 0 0 (mkCap 0 (2 ^ 20) 3 0 false 1 true) (coreState [(1, 5), (2, 0x48021)])
     begins hostHdr (memIss [] [1] []) 3 s ∧ bitRefused (cGet 0 0 s) [permST] 5 1 = none ∧ bitRefused (cGet 0 0 s) [permLD, permST] 0x48021 1 = none
     ∧ bitRefused (cGet 0 0 s) [permST] 0x50000 1 = some 0 ∧ bitRefused (cGet 0 0 s) [permLD] 0x48020 32 = none)
    ∧ bitRefused (cGet 0 0 State.reset) [permLD] 5 1 = some 3 ∧ ((5#32).toNat < 2 ^ 20 ∧ ¬ (0x148020#32).toNat < 2 ^ 20)
    ∧ prefixesOk allowCap [.cap 3] = true ∧ prefixesOk allowCap [.width8] = false := by
  refine ⟨⟨by unfold begins; decide +kernel, by decide +kernel, by decide +kernel, by decide +kernel⟩, by decide +kernel⟩

theorem witness_BlockInstructions :
    (let s := coreState [(2, 0x20000800), (3, 0x20000820), (4, 3)]
     memorySound s ∧ begins ⟨.host 0, [.repeat_], 0⟩ { reads := [4, 3, 2, 32, 32], writes := [4, 3, 2], mem := true, alone := true } 4 s ∧ gGet 0 4 s = 3
     ∧ plainKey 0 (gGet 0 3 s) 4 s = some 0x20000820 ∧ plainKey 0 (gGet 0 2 s) (4 * 3) s = some 0x20000800 ∧ running s = false
     ∧ capCheck (cGet 0 0 s) [permLD] (gGet 0 3 s) 4 false = none ∧ capCheck (cGet 0 0 s) [permST] (gGet 0 2 s) (4 * 3) true = none
     ∧ capCheck (cGet 0 5 s) [permST] (gGet 0 2 s) 4 true = some 1)
    ∧ (fieldD 0x1062 = 2 ∧ fieldA 0x1062 = 3 ∧ fieldB 0x1062 = 4) ∧ prefixesOk allowBlock [.repeat_, .width8] = true ∧ hasRepeat [.repeat_] = true
    ∧ prefixesOk allowBlock [.cap 1] = false ∧ gGet 0 4 State.reset = 0 := by
  refine ⟨⟨by unfold memorySound; decide, by unfold begins; decide +kernel, by decide +kernel, by decide +kernel, by decide +kernel, by decide +kernel⟩, by decide +kernel⟩

theorem witness_CapabilityInstructions :
    (let s := cSet 0 4 (mkCap 5 3 0x60 0 false 2 true) (cSet 0 5 (mkCap 0x1000 0x100 0x1F 6 true 0 true) (coreState [(1, 0x20000800)]))
     begins hostHdr { reads := [32], writes := [35] } 3 s ∧ (cGet 0 0 s).sealed = false ∧ (cGet 0 5 s).sealed = true ∧ (cGet 0 4 s).kind = 2
     ∧ (cGet 0 4 s).has permSEAL = true ∧ (cGet 0 4 s).has permUNSEAL = true ∧ (cGet 0 4 s).length ≠ 0 ∧ (cGet 0 5 s).otype = 6
     ∧ begins hostHdr (memIss [] [1, 0] [35]) 5 s ∧ capCheck (cGet 0 0 s) [permLD] 0x20000800 16 false = none
     ∧ capCheck (cGet 0 0 s) [permST, permSTC] 0x20000800 16 true = none ∧ plainKey 0 0x20000800 16 s = some 0x20000800 ∧ coreTags 0 0x20000800 s = true
     ∧ (cGet 0 0 s).tag = true ∧ (cGet 0 0 s).has permX = true ∧ (cGet 0 7 s).tag = false ∧ coreTags 0 0x30000000 s = false)
    ∧ loopPlace 16 0x20000000 16 (loopState []) = .sram ∧ prefixesOk allowCapLoad [.acquire] = true ∧ prefixesOk allowCapStore [.width8] = false
    ∧ capField 16 = false := by
  refine ⟨⟨by unfold begins; decide +kernel, by decide +kernel, by decide +kernel, by decide +kernel, by decide +kernel, by decide +kernel, by decide +kernel,
    by decide +kernel, by unfold begins; decide +kernel, by decide +kernel⟩, by decide +kernel⟩

theorem witness_FloatInstructions : begins hostHdr { reads := [1, 2], writes := [3], f32 := true } 4 (coreState [(1, 0x3F800000), (2, 0x80000000)])
    ∧ (let s := plus [(EXC_CTRL_PRECISE, 0, 1)] (setCpu 0 { cpu 0 State.reset with fctrl := 0x1000, g := [(1, 0x7F800001)] } State.reset)
       fbit EXC_CTRL_PRECISE 0 s = true ∧ (addF 0 false (unpack false (gGet 0 1 s)) (unpack false 0)).f &&& trapBits (cpu 0 s).fctrl ≠ 0
       ∧ begins hostHdr { reads := [1, 2], writes := [3], f32 := true, alone := true } 4 s)
    ∧ fbit EXC_CTRL_PRECISE 0 State.reset = false ∧ fieldB 0x0023 = 0 ∧ fieldB 0x0423 ≠ 0 ∧ optionX 0x8023 = true
    ∧ (0x7FC00005#32).toNat / 2 ^ 23 % 2 ^ 8 = 255 ∧ (0x7FC00005#32).toNat % 2 ^ 23 ≠ 0 := by
  refine ⟨by unfold begins; decide +kernel, ⟨by decide +kernel, by decide +kernel, by unfold begins; decide +kernel⟩, by decide +kernel⟩

end Sys2Proof.Tests
end

/-! What no command changes: the part, its T suffix and the queue. -/
namespace Sys2Proof.Machine

open Sys2Proof

/-- What no step but the taking of a command changes: the part, its T suffix, the queue. -/
def fixed (s : State) : Part × Bool × List Instr := (s.part, s.tscreen, s.pending)

/-- What stays fixed in the state that an outcome answers; `none` where it answers no next state. -/
def fixedNext (o : Host.Outcome State Fault Refusal) : Option (Part × Bool × List Instr) :=
  match o with
  | .next t => some (fixed t)
  | _ => none

/-- A change of any other component of the state leaves what is fixed. -/
@[simp] theorem fixed_mk (s : State) (regs mem tags poison soft valid time pos due fresh resp swp legs startq trips ctx holds ctx1 ctx2 regs1
    mem1 regs0 ctx0 hits cross eng spare trace sdf clk sar cmp qep seu fab tmr restart img pads ports link flt rct evs recs recAt woke memh dma
    disp scan be flx dp aud cfs cfsWait cfsAt nand net pwr test frameRep cpus lcd) :
    fixed ⟨s.part, s.tscreen, regs, mem, tags, poison, soft, valid, time, pos, due, fresh, resp, swp, legs, startq, trips, ctx, holds, ctx1,
      ctx2, regs1, mem1, regs0, ctx0, hits, cross, eng, spare, trace, sdf, clk, sar, cmp, qep, seu, fab, tmr, restart, img, pads, ports, link,
      flt, rct, evs, recs, recAt, woke, memh, dma, disp, scan, be, flx, dp, aud, cfs, cfsWait, cfsAt, nand, net, pwr, test, frameRep, cpus, lcd,
      s.pending⟩ = fixed s := rfl

@[simp] theorem fixedNext_next (s : State) : fixedNext (.next s) = some (fixed s) := rfl

@[simp] theorem fixed_ite (c : Prop) [Decidable c] (a b : State) :
    fixed (if c then a else b) = if c then fixed a else fixed b := by split <;> rfl

@[simp] theorem fixedNext_ite (c : Prop) [Decidable c] (a b : Host.Outcome State Fault Refusal) :
    fixedNext (if c then a else b) = if c then fixedNext a else fixedNext b := by split <;> rfl

/-- Running a meaning that leaves what is fixed. -/
@[simp] theorem fixed_ran (o : Host.Outcome State Fault Refusal) (s : State) (h : fixedNext o = some (fixed s)) :
    fixed (ran o s) = fixed s := by
  cases o <;> simp_all [ran, fixedNext]

@[simp] theorem fixed_onlyIf (b : Bool) (f : State → State) (s : State) (h : ∀ t, fixed (f t) = fixed t) :
    fixed (onlyIf b f s) = fixed s := by
  simp [onlyIf, h]

@[simp] theorem fixed_inCluster (c : Nat) (f : State → State) (s : State) (h : ∀ t, fixed (f t) = fixed t) :
    fixed (inCluster c f s) = fixed s := by
  simp [inCluster, h]

@[simp] theorem fixed_foldl {α : Type} (f : State → α → State) (ks : List α) (s : State) (h : ∀ t k, fixed (f t k) = fixed t) :
    fixed (ks.foldl f s) = fixed s := by
  induction ks generalizing s with
  | nil => rfl
  | cons k ks ih => simp [ih, h]

/-- A fold that carries a state beside a value. -/
theorem fixed_foldl_snd {α β : Type} (f : β × State → α → β × State) (ks : List α) (a : β × State) (h : ∀ a k, fixed (f a k).2 = fixed a.2) :
    fixed (ks.foldl f a).2 = fixed a.2 := by
  induction ks generalizing a with
  | nil => rfl
  | cons k ks ih => rw [List.foldl_cons, ih, h]

theorem fixed_foldl_fst {α β : Type} (f : State × β → α → State × β) (ks : List α) (a : State × β) (h : ∀ a k, fixed (f a k).1 = fixed a.1) :
    fixed (ks.foldl f a).1 = fixed a.1 := by
  induction ks generalizing a with
  | nil => rfl
  | cons k ks ih => rw [List.foldl_cons, ih, h]

@[simp] theorem fixed_forAll {α : Type} (ks : List α) (f : α → State → State) (s : State) (h : ∀ k t, fixed (f k t) = fixed t) :
    fixed (forAll ks f s) = fixed s := by
  simp [forAll, h]

/-- The state of an operation's answer, where the answer has been taken apart. -/
theorem fixed_of_snd {α : Type} {p : α × State} {a : α} {s t : State} (hp : p = (a, t)) (h : fixed p.2 = fixed s) :
    fixed t = fixed s := by
  subst hp
  exact h

theorem fixed_of_third {α β : Type} {p : α × β × State} {a : α} {b : β} {s t : State} (hp : p = (a, b, t)) (h : fixed p.2.2 = fixed s) :
    fixed t = fixed s := by
  subst hp
  exact h

/-! ### Machine/Ops.lean -/

@[simp] theorem fixed_busError (s : State) : fixed (busError s) = fixed s := rfl
@[simp] theorem fixed_toCluster (c : Nat) (f : State → State) (s : State) (h : ∀ t, fixed (f t) = fixed t) :
    fixed (toCluster c f s) = fixed s := by
  simp [toCluster, h]
@[simp] theorem fixed_fset (F : Fld) (u v : Nat) (s : State) : fixed (fset F u v s) = fixed s := by simp [fset]
@[simp] theorem fixed_mark (i u m : Nat) (s : State) : fixed (mark i u m s) = fixed s := by simp [mark]
@[simp] theorem fixed_joined (F : Fld) (s : State) : fixed (joined F s) = fixed s := by simp [joined]
@[simp] theorem fixed_fon (F : Fld) (u : Nat) (s : State) : fixed (fon F u s) = fixed s := by simp [fon]
@[simp] theorem fixed_foff (F : Fld) (u : Nat) (s : State) : fixed (foff F u s) = fixed s := by simp [foff]
@[simp] theorem fixed_fsetBit (F : Fld) (u i : Nat) (b : Bool) (s : State) :
    fixed (fsetBit F u i b s) = fixed s := by simp [fsetBit]
@[simp] theorem fixed_fclear (F : Fld) (u v : Nat) (s : State) : fixed (fclear F u v s) = fixed s := by simp [fclear]
@[simp] theorem fixed_fshow (F : Fld) (u v : Nat) (s : State) : fixed (fshow F u v s) = fixed s := by simp [fshow]
@[simp] theorem fixed_fread (F : Fld) (u : Nat) (s : State) : fixed (fread F u s) = fixed s := by simp [fread]
@[simp] theorem fixed_fcount (F : Fld) (u n : Nat) (s : State) : fixed (fcount F u n s) = fixed s := by simp [fcount]
@[simp] theorem fixed_fadd (F : Fld) (u n : Nat) (s : State) : fixed (fadd F u n s) = fixed s := by simp [fadd]
@[simp] theorem fixed_answer (v : Nat) (s : State) : fixed (answer v s) = fixed s := by simp [answer]
@[simp] theorem fixed_later (n : Nat) (d : Due) (s : State) : fixed (later n d s) = fixed s := by simp [later]
@[simp] theorem fixed_dropDue (p : Due → Bool) (s : State) : fixed (dropDue p s) = fixed s := by simp [dropDue]
@[simp] theorem fixed_nextFresh (s : State) : fixed (nextFresh s) = fixed s := by simp [nextFresh]
@[simp] theorem fixed_fire (e : Nat) (s : State) : fixed (fire e s) = fixed s := by simp [fire]
@[simp] theorem fixed_report (src i0 i1 : Nat) (s : State) : fixed (report src i0 i1 s) = fixed s := by simp [report]
@[simp] theorem fixed_setEvSrc (n : Nat) (e : EvSrc) (s : State) : fixed (setEvSrc n e s) = fixed s := by simp [setEvSrc]
@[simp] theorem fixed_noteSource (n dot : Nat) (s : State) : fixed (noteSource n dot s) = fixed s := by simp [noteSource]
@[simp] theorem fixed_noteSources (dot : Nat) (s : State) : fixed (noteSources dot s) = fixed s := by simp [noteSources]
@[simp] theorem fixed_arrive (n payload : Nat) (s : State) : fixed (arrive n payload s) = fixed s := by simp [arrive]
@[simp] theorem fixed_setLcd (c : Nat) (q : List Nat) (s : State) : fixed (setLcd c q s) = fixed s := by simp [setLcd]
@[simp] theorem fixed_emptyLcd (c : Nat) (s : State) : fixed (emptyLcd c s) = fixed s := by simp [emptyLcd]
@[simp] theorem fixed_ctxSet (g w v : Nat) (s : State) : fixed (ctxSet g w v s) = fixed s := by simp [ctxSet]
@[simp] theorem fixed_traceSample (g w v : Nat) (s : State) : fixed (traceSample g w v s) = fixed s := by simp [traceSample]
@[simp] theorem fixed_ctxApply (g w v : Nat) (s : State) : fixed (ctxApply g w v s) = fixed s := by
  simp only [ctxApply]
  split <;> simp
@[simp] theorem fixed_pubWrite (host : Bool) (e v : Nat) (s : State) : fixed (pubWrite host e v s) = fixed s := by simp [pubWrite]
@[simp] theorem fixed_mset (a : Nat) (b : Byte) (s : State) : fixed (mset a b s) = fixed s := by simp [mset]

@[simp] theorem fixed_mwrite (a n v : Nat) (s : State) : fixed (mwrite a n v s) = fixed s := by
  rw [mwrite_eq, fixed_mk]

/-! ### Machine/Cpu.lean -/

@[simp] theorem fixed_setCpu (i : Nat) (h : Cpu) (s : State) : fixed (setCpu i h s) = fixed s := by simp [setCpu]
@[simp] theorem fixed_wakeCpu (i : Nat) (s : State) : fixed (wakeCpu i s) = fixed s := by simp [wakeCpu]
@[simp] theorem fixed_setSlotCap (F : CapFld) (u : Nat) (k : Cap) (s : State) :
    fixed (setSlotCap F u k s) = fixed s := by simp [setSlotCap]

@[simp] theorem fixed_sendFault (i src : Nat) (s : State) : fixed (sendFault i src s) = fixed s := by
  unfold sendFault
  dsimp only
  split
  · simp
  · split
    · split <;> simp
    · simp

@[simp] theorem fixed_startCoreAt (i pc : Nat) (s : State) : fixed (startCoreAt i pc s) = fixed s := by simp [startCoreAt]
@[simp] theorem fixed_startCore (i : Nat) (s : State) : fixed (startCore i s) = fixed s := by simp [startCore]
@[simp] theorem fixed_stopCore (i : Nat) (s : State) : fixed (stopCore i s) = fixed s := by simp [stopCore]

/-! ### Machine/Memory.lean -/

@[simp] theorem fixed_startRepair (code req : Nat) (s : State) : fixed (startRepair code req s) = fixed s := by simp [startRepair]
@[simp] theorem fixed_rowCandidate (f req : Nat) (s : State) : fixed (rowCandidate f req s) = fixed s := by simp [rowCandidate]
@[simp] theorem fixed_lastError (f : Nat) (ue : Bool) (s : State) : fixed (lastError f ue s) = fixed s := by simp [lastError]
@[simp] theorem fixed_correctedRead (w req : Nat) (s : State) : fixed (correctedRead w req s) = fixed s := by simp [correctedRead]
@[simp] theorem fixed_uncorrectableRead (w req : Nat) (s : State) : fixed (uncorrectableRead w req s) = fixed s := by
  simp [uncorrectableRead]
@[simp] theorem fixed_checkWords (ws : List Nat) (req : Nat) (s : State) : fixed (checkWords ws req s).2 = fixed s := by
  simp only [checkWords]
  split <;> simp

@[simp] theorem fixed_mergeWords (ws : List Nat) (req : Nat) (s : State) : fixed (mergeWords ws req s).2 = fixed s := by
  have h := fixed_checkWords ws req s
  unfold mergeWords
  split
  · rfl
  · split <;> simp_all

@[simp] theorem fixed_ctxMerge (g : Nat) (xs : List Nat) (f : State → State) (s : State) (hf : ∀ t, fixed (f t) = fixed t) :
    fixed (ctxMerge g xs f s) = fixed s := by
  have h := fixed_mergeWords ((xs.map (ctxPlace g)).eraseDups) 0x87 s
  unfold ctxMerge
  split <;> simp_all

@[simp] theorem fixed_setCtxStat (g b : Nat) (s : State) : fixed (setCtxStat g b s) = fixed s := by simp [setCtxStat]
@[simp] theorem fixed_countReads (f : State → Nat) (req : Nat) (s : State) :
    fixed (countReads f req s) = fixed s := by simp [countReads]

@[simp] theorem fixed_readMem (f n req : Nat) (s : State) : fixed (readMem f n req s).2 = fixed s := by
  have h := fixed_checkWords ((wordsOf f n).filter (fun w => !liveIn f n w s)) req s
  unfold readMem
  split <;> simp_all

@[simp] theorem fixed_makeValid (f : Nat) (s : State) : fixed (makeValid f s) = fixed s := by
  simp only [makeValid]
  split <;> simp
@[simp] theorem fixed_putMem (f n v : Nat) (s : State) : fixed (putMem f n v s) = fixed s := by simp [putMem]

@[simp] theorem fixed_writeMem (f n v req : Nat) (s : State) : fixed (writeMem f n v req s).2 = fixed s := by
  have h := fixed_checkWords (partWords f n) req s
  unfold writeMem
  split <;> simp_all

@[simp] theorem fixed_cacheStore (f n v req : Nat) (s : State) : fixed (cacheStore f n v req s) = fixed s := by simp [cacheStore]

@[simp] theorem fixed_readCap (f req : Nat) (s : State) : fixed (readCap f req s).2 = fixed s := by
  have h := fixed_readMem f 16 req s
  unfold readCap
  split <;> simp_all

@[simp] theorem fixed_writeCap (f : Nat) (k : Cap) (s : State) : fixed (writeCap f k s) = fixed s := by simp [writeCap]

/-! ### Machine/Legs.lean -/

@[simp] theorem fixed_setLeg (l : Nat) (h : LegH) (s : State) : fixed (setLeg l h s) = fixed s := by simp [setLeg]
@[simp] theorem fixed_drivePad (l : Nat) (p : GatePad) (b : Bool) (s : State) : fixed (drivePad l p b s) = fixed s := by
  simp only [drivePad]
  split <;> simp
@[simp] theorem fixed_setPend (l : Nat) (p : GatePad) (t : Option Nat) (s : State) : fixed (setPend l p t s) = fixed s := by
  simp only [setPend]
  split <;> simp
@[simp] theorem fixed_padOffIn (l : Nat) (p : GatePad) (n : Nat) (s : State) :
    fixed (padOffIn l p n s) = fixed s := by simp [padOffIn]
@[simp] theorem fixed_padOnIn (l : Nat) (p : GatePad) (n fine : Nat) (s : State) : fixed (padOnIn l p n fine s) = fixed s := by
  simp [padOnIn]
@[simp] theorem fixed_padsFollow (l : Nat) (level : Bool) (fine : Nat) (s : State) :
    fixed (padsFollow l level fine s) = fixed s := by
  simp [padsFollow]
@[simp] theorem fixed_parkPads (l : Nat) (s : State) : fixed (parkPads l s) = fixed s := by simp [parkPads]
@[simp] theorem fixed_enterSwitching (l : Nat) (s : State) : fixed (enterSwitching l s) = fixed s := by simp [enterSwitching]
@[simp] theorem fixed_tripPads (l : Nat) (s : State) : fixed (tripPads l s) = fixed s := by simp [tripPads]
@[simp] theorem fixed_recordTrip (l src : Nat) (s : State) : fixed (recordTrip l src s) = fixed s := by simp [recordTrip]
@[simp] theorem fixed_tripLegBy (l src : Nat) (s : State) : fixed (tripLegBy l src s) = fixed s := by simp [tripLegBy]
@[simp] theorem fixed_switchOrHalt (l : Nat) (s : State) : fixed (switchOrHalt l s) = fixed s := by simp [switchOrHalt]
@[simp] theorem fixed_beginSwitching (l : Nat) (s : State) : fixed (beginSwitching l s) = fixed s := by
  simp only [beginSwitching]
  split <;> simp
@[simp] theorem fixed_tripResume (l : Nat) (s : State) : fixed (tripResume l s) = fixed s := by simp [tripResume]
@[simp] theorem fixed_refEvent (l : Nat) (h : LegH) (s : State) : fixed (refEvent l h s) = fixed s := by simp [refEvent]
@[simp] theorem fixed_applyRef (l : Nat) (s : State) : fixed (applyRef l s) = fixed s := by simp [applyRef]
@[simp] theorem fixed_declareFullOn (l : Nat) (s : State) : fixed (declareFullOn l s) = fixed s := by simp [declareFullOn]
@[simp] theorem fixed_decidePulse (l : Nat) (s : State) : fixed (decidePulse l s) = fixed s := by
  unfold decidePulse
  split <;> simp
@[simp] theorem fixed_takeGroup (g : List (Fld × Fld)) (u : Nat) (s : State) :
    fixed (takeGroup g u s) = fixed s := by simp [takeGroup]
@[simp] theorem fixed_periodCut (l old : Nat) (switching : Bool) (s : State) : fixed (periodCut l old switching s) = fixed s := by
  simp [periodCut]
@[simp] theorem fixed_legCommit (l : Nat) (s : State) : fixed (legCommit l s) = fixed s := by simp [legCommit]
@[simp] theorem fixed_legAutoCommit (l ev : Nat) (s : State) : fixed (legAutoCommit l ev s) = fixed s := by
  unfold legAutoCommit
  (repeat' split) <;> simp
@[simp] theorem fixed_legPstart (l : Nat) (s : State) : fixed (legPstart l s) = fixed s := by simp [legPstart]
@[simp] theorem fixed_execLegPstart (l : Fin 144) (s : State) :
    fixedNext (execLegPstart l s) = some (fixed s) := by simp [execLegPstart]
@[simp] theorem fixed_legMid (l : Nat) (s : State) : fixed (legMid l s) = fixed s := by simp [legMid]
@[simp] theorem fixed_execLegMid (l : Fin 144) (s : State) : fixedNext (execLegMid l s) = some (fixed s) := by simp [execLegMid]
@[simp] theorem fixed_compareFire (l : Nat) (c : Cmp) (s : State) : fixed (compareFire l c s) = fixed s := by simp [compareFire]
@[simp] theorem fixed_execCompareFire (l : Fin 144) (c : Cmp) (s : State) :
    fixedNext (execCompareFire l c s) = some (fixed s) := by
  simp [execCompareFire]
@[simp] theorem fixed_deadTimeExpiry (l : Nat) (p : GatePad) (s : State) : fixed (deadTimeExpiry l p s) = fixed s := by
  simp [deadTimeExpiry]
@[simp] theorem fixed_execDeadTimeExpiry (l : Fin 144) (p : GatePad) (s : State) :
    fixedNext (execDeadTimeExpiry l p s) = some (fixed s) := by
  simp [execDeadTimeExpiry]
@[simp] theorem fixed_legShadowReg (l r v : Nat) (s : State) : fixed (legShadowReg l r v s) = fixed s := by
  simp only [legShadowReg]
  split <;> simp
@[simp] theorem fixed_legQuad (l period cmpa cmpb fine : Nat) (s : State) :
    fixed (legQuad l period cmpa cmpb fine s) = fixed s := by
  simp [legQuad]
@[simp] theorem fixed_legShadowWrite (l : Nat) (w : LegShadow) (s : State) : fixed (legShadowWrite l w s) = fixed s := by
  simp only [legShadowWrite]
  split <;> simp
@[simp] theorem fixed_execLegShadowWrite (l : Fin 144) (w : LegShadow) (s : State) :
    fixedNext (execLegShadowWrite l w s) = some (fixed s) := by
  simp [execLegShadowWrite]
@[simp] theorem fixed_execLegCommitNow (l : Fin 144) (s : State) : fixedNext (execLegCommitNow l s) = some (fixed s) := by
  simp [execLegCommitNow]
@[simp] theorem fixed_forceTrip (l : Nat) (s : State) : fixed (forceTrip l s) = fixed s := by simp [forceTrip]
@[simp] theorem fixed_execForceTrip (l : Fin 144) (s : State) :
    fixedNext (execForceTrip l s) = some (fixed s) := by simp [execForceTrip]
@[simp] theorem fixed_clearTripped (l : Nat) (s : State) : fixed (clearTripped l s) = fixed s := by simp [clearTripped]
@[simp] theorem fixed_execTrippedClear (l : Fin 144) (s : State) : fixedNext (execTrippedClear l s) = some (fixed s) := by
  simp [execTrippedClear]
@[simp] theorem fixed_execTripPinFilterPass (n : Fin 8) (low : Bool) (s : State) :
    fixedNext (execTripPinFilterPass n low s) = some (fixed s) := by
  simp [execTripPinFilterPass]
@[simp] theorem fixed_tripByLine (l line : Nat) (s : State) : fixed (tripByLine l line s) = fixed s := by simp [tripByLine]
@[simp] theorem fixed_execTripLineAssert (l : Fin 144) (line : Fin 16) (s : State) :
    fixedNext (execTripLineAssert l line s) = some (fixed s) := by
  simp [execTripLineAssert]
@[simp] theorem fixed_setStartQ (n : Nat) (q : StartQ) (s : State) : fixed (setStartQ n q s) = fixed s := by simp [setStartQ]
@[simp] theorem fixed_enqueueConv (c k : Nat) (s : State) : fixed (enqueueConv c k s) = fixed s := by simp [enqueueConv]
@[simp] theorem fixed_stopConv (c k : Nat) (s : State) : fixed (stopConv c k s) = fixed s := by simp [stopConv]
@[simp] theorem fixed_startConv (c k : Nat) (s : State) : fixed (startConv c k s) = fixed s := by simp [startConv]
@[simp] theorem fixed_execConverterStart (c : Fin 24) (k : Fin 2) (s : State) :
    fixedNext (execConverterStart c k s) = some (fixed s) := by
  simp [execConverterStart]
@[simp] theorem fixed_execConverterStop (c : Fin 24) (k : Fin 2) (s : State) :
    fixedNext (execConverterStop c k s) = some (fixed s) := by
  simp [execConverterStop]
@[simp] theorem fixed_execConverterRelease (n : Fin 4) (s : State) : fixedNext (execConverterRelease n s) = some (fixed s) := by
  simp only [execConverterRelease]
  split <;> simp

/-! ### Machine/Loop.lean -/

@[simp] theorem fixed_setEng (c : Nat) (h : EngH) (s : State) : fixed (setEng c h s) = fixed s := by simp [setEng]
@[simp] theorem fixed_dropHolds (hs : List (Nat × Nat)) (s : State) : fixed (dropHolds hs s) = fixed s := by simp [dropHolds]
@[simp] theorem fixed_endRun (c k : Nat) (cut : Bool) (s : State) : fixed (endRun c k cut s) = fixed s := by
  simp only [endRun]
  split <;> simp
@[simp] theorem fixed_setSpare (n : Nat) (h : SpareH) (s : State) : fixed (setSpare n h s) = fixed s := by simp [setSpare]
@[simp] theorem fixed_lockHalt (c k : Nat) (s : State) : fixed (lockHalt c k s) = fixed s := by simp [lockHalt]
@[simp] theorem fixed_lockFound (c k : Nat) (s : State) : fixed (lockFound c k s) = fixed s := by simp [lockFound]
@[simp] theorem fixed_badOp (c : Nat) (r : Run) (s : State) : fixed (badOp c r s) = fixed s := by simp [badOp]
@[simp] theorem fixed_tracedWrite (g x v : Nat) (s : State) : fixed (tracedWrite g x v s) = fixed s := by simp [tracedWrite]
@[simp] theorem fixed_stepWrite (c : Nat) (r : Run) (x : Nat) (v : Int) (s : State) : fixed (stepWrite c r x v s) = fixed s := by
  simp [stepWrite]
@[simp] theorem fixed_engineReads (ks : List Nat) (s : State) : fixed (engineReads ks s).2 = fixed s := by
  simp only [engineReads]
  split <;> simp

@[simp] theorem fixed_applyRes (c : Nat) (r : Run) (res : Res) (s : State) : fixed (applyRes c r res s) = fixed s := by
  have h := fixed_mergeWords (ctxKeys c r (res.1.map Prod.fst)).eraseDups 0x87 s
  unfold applyRes
  split <;> simp_all

@[simp] theorem fixed_advanceTo (c pc n : Nat) (ended : Bool) (s : State) : fixed (advanceTo c pc n ended s) = fixed s := by
  simp only [advanceTo]
  split <;> simp
@[simp] theorem fixed_runOff (c : Nat) (r : Run) (s : State) : fixed (runOff c r s) = fixed s := by simp [runOff]
@[simp] theorem fixed_finishRun (c : Nat) (r : Run) (s : State) : fixed (finishRun c r s) = fixed s := by simp [finishRun]
@[simp] theorem fixed_stepEnd (c n : Nat) (e : Bool) (s : State) : fixed (stepEnd c n e s) = fixed s := by
  simp only [stepEnd]
  split <;> simp

@[simp] theorem fixed_stepDo (c : Fin 24) (w : StepW) (k n : Nat) (f : Run → State → State) (s : State) (hf : ∀ r t, fixed (f r t) = fixed t) :
    fixed (stepDo c w k n f s) = fixed s := by
  unfold stepDo
  split
  · rfl
  · next r _ =>
    have h := fixed_engineReads (operandKeys c k w r s) s
    split
    · rfl
    · split
      · simp [hf]
      · split <;> simp_all

@[simp] theorem fixed_stepPure (c : Fin 24) (w : StepW) (k n : Nat) (f : (Nat → Int) → Res) (s : State) :
    fixed (stepPure c w k n f s) = fixed s := by
  simp [stepPure]
@[simp] theorem fixed_stepGet (c : Fin 24) (w : StepW) (k n : Nat) (bad : Run → State → Bool) (f : (Nat → Int) → List Int × Bool → Res) (s : State) :
    fixed (stepGet c w k n bad f s) = fixed s := by
  simp [stepGet]
@[simp] theorem fixed_execStepNop (c : Fin 24) (w : StepW) (s : State) : fixedNext (execStepNop c w s) = some (fixed s) := by
  simp [execStepNop]
@[simp] theorem fixed_execStepGetf (c : Fin 24) (w : StepW) (s : State) : fixedNext (execStepGetf c w s) = some (fixed s) := by
  simp [execStepGetf]
@[simp] theorem fixed_execStepGets (c : Fin 24) (w : StepW) (s : State) : fixedNext (execStepGets c w s) = some (fixed s) := by
  simp [execStepGets]
@[simp] theorem fixed_execStepGetq (c : Fin 24) (w : StepW) (s : State) : fixedNext (execStepGetq c w s) = some (fixed s) := by
  simp [execStepGetq]
@[simp] theorem fixed_execStepGete (c : Fin 24) (w : StepW) (s : State) : fixedNext (execStepGete c w s) = some (fixed s) := by
  simp [execStepGete]
@[simp] theorem fixed_execStepGetc (c : Fin 24) (w : StepW) (s : State) : fixedNext (execStepGetc c w s) = some (fixed s) := by
  simp [execStepGetc]
@[simp] theorem fixed_execStepGett (c : Fin 24) (w : StepW) (s : State) : fixedNext (execStepGett c w s) = some (fixed s) := by
  simp [execStepGett]
@[simp] theorem fixed_execStepGetr (c : Fin 24) (w : StepW) (s : State) : fixedNext (execStepGetr c w s) = some (fixed s) := by
  simp [execStepGetr]
@[simp] theorem fixed_execStepGetx (c : Fin 24) (w : StepW) (s : State) : fixedNext (execStepGetx c w s) = some (fixed s) := by
  simp [execStepGetx]
@[simp] theorem fixed_execStepMbxt (c : Fin 24) (w : StepW) (s : State) : fixedNext (execStepMbxt c w s) = some (fixed s) := by
  simp [execStepMbxt]
@[simp] theorem fixed_writeCompares (c l : Nat) (k : Compares) (s : State) : fixed (writeCompares c l k s) = fixed s := by
  simp [writeCompares]
@[simp] theorem fixed_putcEven (c : Nat) (w : StepW) (r : Run) (s : State) :
    fixed (putcEven c w r s) = fixed s := by simp [putcEven]

@[simp] theorem fixed_execStepPutc (c : Fin 24) (w : StepW) (s : State) : fixedNext (execStepPutc c w s) = some (fixed s) := by
  simp only [execStepPutc]; (repeat' split) <;> simp_all

@[simp] theorem fixed_putOwn (g x v : Nat) (s : State) : fixed (putOwn g x v s) = fixed s := by simp [putOwn]
@[simp] theorem fixed_putAcross (far : Bool) (g x v : Nat) (s : State) :
    fixed (putAcross far g x v s) = fixed s := by simp [putAcross]
@[simp] theorem fixed_execStepPutw (c : Fin 24) (w : StepW) (s : State) : fixedNext (execStepPutw c w s) = some (fixed s) := by
  simp [execStepPutw]
@[simp] theorem fixed_execStepPute (c : Fin 24) (w : StepW) (s : State) : fixedNext (execStepPute c w s) = some (fixed s) := by
  simp [execStepPute]
@[simp] theorem fixed_execStepPutl (c : Fin 24) (w : StepW) (s : State) : fixedNext (execStepPutl c w s) = some (fixed s) := by
  simp [execStepPutl]
@[simp] theorem fixed_execStepPubl (c : Fin 24) (w : StepW) (s : State) : fixedNext (execStepPubl c w s) = some (fixed s) := by
  simp [execStepPubl]
@[simp] theorem fixed_execStepMov (c : Fin 24) (w : StepW) (s : State) : fixedNext (execStepMov c w s) = some (fixed s) := by
  simp [execStepMov]
@[simp] theorem fixed_execStepLdk (c : Fin 24) (w : StepW) (s : State) : fixedNext (execStepLdk c w s) = some (fixed s) := by
  simp [execStepLdk]
@[simp] theorem fixed_execStepAdd (c : Fin 24) (w : StepW) (s : State) : fixedNext (execStepAdd c w s) = some (fixed s) := by
  simp [execStepAdd]
@[simp] theorem fixed_execStepSub (c : Fin 24) (w : StepW) (s : State) : fixedNext (execStepSub c w s) = some (fixed s) := by
  simp [execStepSub]
@[simp] theorem fixed_execStepMul (c : Fin 24) (w : StepW) (s : State) : fixedNext (execStepMul c w s) = some (fixed s) := by
  simp [execStepMul]
@[simp] theorem fixed_execStepMac (c : Fin 24) (w : StepW) (s : State) : fixedNext (execStepMac c w s) = some (fixed s) := by
  simp [execStepMac]
@[simp] theorem fixed_execStepDiv (c : Fin 24) (w : StepW) (s : State) : fixedNext (execStepDiv c w s) = some (fixed s) := by
  simp [execStepDiv]
@[simp] theorem fixed_execStepNeg (c : Fin 24) (w : StepW) (s : State) : fixedNext (execStepNeg c w s) = some (fixed s) := by
  simp [execStepNeg]
@[simp] theorem fixed_execStepAbs (c : Fin 24) (w : StepW) (s : State) : fixedNext (execStepAbs c w s) = some (fixed s) := by
  simp [execStepAbs]
@[simp] theorem fixed_execStepMin (c : Fin 24) (w : StepW) (s : State) : fixedNext (execStepMin c w s) = some (fixed s) := by
  simp [execStepMin]
@[simp] theorem fixed_execStepMax (c : Fin 24) (w : StepW) (s : State) : fixedNext (execStepMax c w s) = some (fixed s) := by
  simp [execStepMax]
@[simp] theorem fixed_execStepScale (c : Fin 24) (w : StepW) (s : State) : fixedNext (execStepScale c w s) = some (fixed s) := by
  simp [execStepScale]
@[simp] theorem fixed_execStepShift (c : Fin 24) (w : StepW) (s : State) : fixedNext (execStepShift c w s) = some (fixed s) := by
  simp [execStepShift]
@[simp] theorem fixed_execStepSqrt (c : Fin 24) (w : StepW) (s : State) : fixedNext (execStepSqrt c w s) = some (fixed s) := by
  simp [execStepSqrt]
@[simp] theorem fixed_execStepSat (c : Fin 24) (w : StepW) (s : State) : fixedNext (execStepSat c w s) = some (fixed s) := by
  simp [execStepSat]
@[simp] theorem fixed_execStepRate (c : Fin 24) (w : StepW) (s : State) : fixedNext (execStepRate c w s) = some (fixed s) := by
  simp [execStepRate]
@[simp] theorem fixed_execStepDead (c : Fin 24) (w : StepW) (s : State) : fixedNext (execStepDead c w s) = some (fixed s) := by
  simp [execStepDead]
@[simp] theorem fixed_execStepHyst (c : Fin 24) (w : StepW) (s : State) : fixedNext (execStepHyst c w s) = some (fixed s) := by
  simp [execStepHyst]
@[simp] theorem fixed_execStepVlim (c : Fin 24) (w : StepW) (s : State) : fixedNext (execStepVlim c w s) = some (fixed s) := by
  simp [execStepVlim]
@[simp] theorem fixed_execStepCmpgt (c : Fin 24) (w : StepW) (s : State) : fixedNext (execStepCmpgt c w s) = some (fixed s) := by
  simp [execStepCmpgt]
@[simp] theorem fixed_execStepCmpeq (c : Fin 24) (w : StepW) (s : State) : fixedNext (execStepCmpeq c w s) = some (fixed s) := by
  simp [execStepCmpeq]
@[simp] theorem fixed_execStepSel (c : Fin 24) (w : StepW) (s : State) : fixedNext (execStepSel c w s) = some (fixed s) := by
  simp [execStepSel]
@[simp] theorem fixed_execStepAnd (c : Fin 24) (w : StepW) (s : State) : fixedNext (execStepAnd c w s) = some (fixed s) := by
  simp [execStepAnd]
@[simp] theorem fixed_execStepOr (c : Fin 24) (w : StepW) (s : State) : fixedNext (execStepOr c w s) = some (fixed s) := by
  simp [execStepOr]
@[simp] theorem fixed_execStepXor (c : Fin 24) (w : StepW) (s : State) : fixedNext (execStepXor c w s) = some (fixed s) := by
  simp [execStepXor]

@[simp] theorem fixed_passOver (c : Nat) (timed : Bool) (n : Nat) (s : State) : fixed (passOver c timed n s) = fixed s := by
  induction n generalizing s with
  | zero => rfl
  | succ n ih =>
    unfold passOver
    split
    · rfl
    · split
      · rfl
      · rw [ih, fixed_stepEnd]

@[simp] theorem fixed_execStepSkip (c : Fin 24) (w : StepW) (s : State) : fixedNext (execStepSkip c w s) = some (fixed s) := by
  unfold execStepSkip
  split
  · rfl
  · next r _ =>
    split
    · rfl
    · have h : fixed (if r.latch.isSome then (true, s) else engineReads (ctxKeys c r (operandWords 0x25 w)) s).2 = fixed s := by
        split <;> simp
      split
      · next t ht => simp [fixed_of_snd ht h]
      · next t ht => simp [fixed_of_snd ht h]

@[simp] theorem fixed_execStepPi (c : Fin 24) (w : StepW) (s : State) : fixedNext (execStepPi c w s) = some (fixed s) := by
  simp [execStepPi]
@[simp] theorem fixed_execStepPid (c : Fin 24) (w : StepW) (s : State) : fixedNext (execStepPid c w s) = some (fixed s) := by
  simp [execStepPid]
@[simp] theorem fixed_execStepBiq (c : Fin 24) (w : StepW) (s : State) : fixedNext (execStepBiq c w s) = some (fixed s) := by
  simp [execStepBiq]
@[simp] theorem fixed_execStepLpf1 (c : Fin 24) (w : StepW) (s : State) : fixedNext (execStepLpf1 c w s) = some (fixed s) := by
  simp [execStepLpf1]
@[simp] theorem fixed_execStepIntg (c : Fin 24) (w : StepW) (s : State) : fixedNext (execStepIntg c w s) = some (fixed s) := by
  simp [execStepIntg]
@[simp] theorem fixed_execStepDiff (c : Fin 24) (w : StepW) (s : State) : fixedNext (execStepDiff c w s) = some (fixed s) := by
  simp [execStepDiff]
@[simp] theorem fixed_execStepSs2 (c : Fin 24) (w : StepW) (s : State) : fixedNext (execStepSs2 c w s) = some (fixed s) := by
  simp [execStepSs2]
@[simp] theorem fixed_execStepSs3 (c : Fin 24) (w : StepW) (s : State) : fixedNext (execStepSs3 c w s) = some (fixed s) := by
  simp [execStepSs3]
@[simp] theorem fixed_execStepSs4 (c : Fin 24) (w : StepW) (s : State) : fixedNext (execStepSs4 c w s) = some (fixed s) := by
  simp [execStepSs4]

@[simp] theorem fixed_fromTable (c : Nat) (r : Run) (ks : List Nat) (d : Nat) (v : Int) (s : State) :
    fixed (fromTable c r ks d v s) = fixed s := by
  have h := fixed_engineReads ks s
  unfold fromTable
  split <;> simp_all

@[simp] theorem fixed_execStepTbl (c : Fin 24) (w : StepW) (s : State) : fixedNext (execStepTbl c w s) = some (fixed s) := by
  simp [execStepTbl]
@[simp] theorem fixed_execStepTbl2 (c : Fin 24) (w : StepW) (s : State) : fixedNext (execStepTbl2 c w s) = some (fixed s) := by
  simp [execStepTbl2]
@[simp] theorem fixed_execStepSincos (c : Fin 24) (w : StepW) (s : State) :
    fixedNext (execStepSincos c w s) = some (fixed s) := by
  simp [execStepSincos]
@[simp] theorem fixed_execStepClarke (c : Fin 24) (w : StepW) (s : State) :
    fixedNext (execStepClarke c w s) = some (fixed s) := by
  simp [execStepClarke]
@[simp] theorem fixed_execStepIclarke (c : Fin 24) (w : StepW) (s : State) :
    fixedNext (execStepIclarke c w s) = some (fixed s) := by
  simp [execStepIclarke]
@[simp] theorem fixed_execStepPark (c : Fin 24) (w : StepW) (s : State) : fixedNext (execStepPark c w s) = some (fixed s) := by
  simp [execStepPark]
@[simp] theorem fixed_execStepIpark (c : Fin 24) (w : StepW) (s : State) : fixedNext (execStepIpark c w s) = some (fixed s) := by
  simp [execStepIpark]
@[simp] theorem fixed_execStepDecpl (c : Fin 24) (w : StepW) (s : State) : fixedNext (execStepDecpl c w s) = some (fixed s) := by
  simp [execStepDecpl]
@[simp] theorem fixed_execStepSvm (c : Fin 24) (w : StepW) (s : State) : fixedNext (execStepSvm c w s) = some (fixed s) := by
  simp [execStepSvm]
@[simp] theorem fixed_execStepSvm3 (c : Fin 24) (w : StepW) (s : State) : fixedNext (execStepSvm3 c w s) = some (fixed s) := by
  simp [execStepSvm3]
@[simp] theorem fixed_execStepSpdmt (c : Fin 24) (w : StepW) (s : State) : fixedNext (execStepSpdmt c w s) = some (fixed s) := by
  simp [execStepSpdmt]
@[simp] theorem fixed_execStepAngle (c : Fin 24) (w : StepW) (s : State) : fixedNext (execStepAngle c w s) = some (fixed s) := by
  simp [execStepAngle]
@[simp] theorem fixed_execStepSync (c : Fin 24) (w : StepW) (s : State) : fixedNext (execStepSync c w s) = some (fixed s) := by
  simp only [execStepSync]
  split <;> simp
@[simp] theorem fixed_handOver (c pc at_ : Nat) (s : State) : fixed (handOver c pc at_ s) = fixed s := by simp [handOver]

@[simp] theorem fixed_execStepCore (c : Fin 24) (w : StepW) (s : State) : fixedNext (execStepCore c w s) = some (fixed s) := by
  simp only [execStepCore]; (repeat' split) <;> simp_all

@[simp] theorem fixed_idleCore (c : Nat) (s : State) : fixed (idleCore c s) = fixed s := by simp [idleCore]

@[simp] theorem fixed_coreReturn (c n : Nat) (s : State) : fixed (coreReturn c n s) = fixed s := by
  simp only [coreReturn]; (repeat' split) <;> simp_all

@[simp] theorem fixed_execLcxRetWrite (c : Fin 24) (n : Nat) (s : State) :
    fixedNext (execLcxRetWrite c n s) = some (fixed s) := by
  simp [execLcxRetWrite]
@[simp] theorem fixed_budgetExpiry (c : Nat) (s : State) : fixed (budgetExpiry c s) = fixed s := by
  unfold budgetExpiry
  (repeat' split) <;> simp
@[simp] theorem fixed_execCoreBudgetExpiry (c : Fin 24) (s : State) : fixedNext (execCoreBudgetExpiry c s) = some (fixed s) := by
  simp [execCoreBudgetExpiry]
@[simp] theorem fixed_coreModeOn (c : Nat) (s : State) : fixed (coreModeOn c s) = fixed s := by simp [coreModeOn]
@[simp] theorem fixed_coreModeWrite (c v : Nat) (s : State) : fixed (coreModeWrite c v s) = fixed s := by simp [coreModeWrite]

/-! ### Machine/Pixels.lean -/

@[simp] theorem fixed_readPixels (bpp n a : Nat) (s : State) : fixed (readPixels bpp n a s).2 = fixed s := by
  have h := fixed_checkWords (((chunks 64 a (n * bpp)).map (fun p => p.1 / 64 * 64)).flatMap (fun b => wordsOf (flat b s) 64)) 0x80 s
  unfold readPixels
  dsimp only
  split <;> simp_all

@[simp] theorem fixed_writeRuns (rs : List (Nat × Nat × Nat)) (s : State) : fixed (writeRuns rs s).2 = fixed s := by
  induction rs generalizing s with
  | nil => rfl
  | cons r rs ih =>
    obtain ⟨a, n, v⟩ := r
    have h := fixed_writeMem (flat a s) n v 0x80 s
    unfold writeRuns
    split <;> simp_all

@[simp] theorem fixed_writePixels (bpp : Nat) (ps : List (Option Nat)) (a : Nat) (s : State) :
    fixed (writePixels bpp ps a s).2 = fixed s := by
  simp [writePixels]
@[simp] theorem fixed_beEnd (code : Nat) (s : State) : fixed (beEnd code s) = fixed s := by simp [beEnd]
@[simp] theorem fixed_beStart (s : State) : fixed (beStart s) = fixed s := by simp [beStart]

@[simp] theorem fixed_beRow (op r : Nat) (s : State) : fixed (beRow op r s).2 = fixed s := by
  unfold beRow
  extract_lets w sb db a d
  have hs : fixed (if op = 1 then (some (List.replicate w 0), s) else readPixels sb w a s).2 = fixed s := by split <;> simp
  split
  · simp_all
  · next ps t ht =>
    have hd : fixed (if op = 3 then readPixels db w d t else (some (List.replicate w 0), t)).2 = fixed t := by split <;> simp
    split
    · simp_all
    · next qs u hu =>
      have hw := fixed_writePixels db ((ps.zip qs).map (fun x => bePixel op u x.1 x.2)) d u
      split <;> simp_all

@[simp] theorem fixed_beRows (op : Nat) (rs : List Nat) (s : State) : fixed (beRows op rs s) = fixed s := by
  induction rs generalizing s with
  | nil => simp [beRows]
  | cons r rs ih =>
    have h := fixed_beRow op r s
    unfold beRows
    split <;> simp_all

@[simp] theorem fixed_beRun (op : Nat) (s : State) : fixed (beRun op s) = fixed s := by simp [beRun]
@[simp] theorem fixed_execBeCopy (s : State) : fixedNext (execBeCopy s) = some (fixed s) := by simp [execBeCopy]
@[simp] theorem fixed_execBeFill (s : State) : fixedNext (execBeFill s) = some (fixed s) := by simp [execBeFill]
@[simp] theorem fixed_execBeKey (s : State) : fixedNext (execBeKey s) = some (fixed s) := by simp [execBeKey]
@[simp] theorem fixed_execBeBlend (s : State) : fixedNext (execBeBlend s) = some (fixed s) := by simp [execBeBlend]
@[simp] theorem fixed_execBeComplete (s : State) : fixedNext (execBeComplete s) = some (fixed s) := by simp [execBeComplete]

@[simp] theorem fixed_execBeErrorStop (write : Bool) (rows : Nat) (s : State) :
    fixedNext (execBeErrorStop write rows s) = some (fixed s) := by
  simp only [execBeErrorStop]; (repeat' split) <;> simp_all

/-! ### Machine/Audio.lean -/

@[simp] theorem fixed_setVoice (v : Nat) (h : VoiceH) (s : State) : fixed (setVoice v h s) = fixed s := by simp [setVoice]
@[simp] theorem fixed_voiceEnd (v : Nat) (err : Bool) (s : State) : fixed (voiceEnd v err s) = fixed s := by simp [voiceEnd]
@[simp] theorem fixed_execPcmReadFail (v : Fin 32) (s : State) : fixedNext (execPcmReadFail v s) = some (fixed s) := by
  simp [execPcmReadFail]
@[simp] theorem fixed_bqStage (i j : Nat) (x : Int) (s : State) : fixed (bqStage i j x s).2 = fixed s := by simp [bqStage]

@[simp] theorem fixed_bqInput (i : Nat) (x : Int) (s : State) : fixed (bqInput i x s).2 = fixed s := by
  unfold bqInput
  exact fixed_foldl_snd _ _ (x * 2 ^ 8, s) fun a j => fixed_bqStage i j a.1 a.2

@[simp] theorem fixed_bqCommit (i : Nat) (s : State) : fixed (bqCommit i s) = fixed s := by simp [bqCommit]
@[simp] theorem fixed_bqClear (i : Nat) (s : State) : fixed (bqClear i s) = fixed s := by simp [bqClear]
@[simp] theorem fixed_execInCtrlCommit (i : Fin 96) (s : State) : fixedNext (execInCtrlCommit i s) = some (fixed s) := by
  simp [execInCtrlCommit]
@[simp] theorem fixed_execInCtrlClear (i : Fin 96) (s : State) : fixedNext (execInCtrlClear i s) = some (fixed s) := by
  simp [execInCtrlClear]
@[simp] theorem fixed_nodeStep (k : Nat) (s : State) : fixed (nodeStep k s) = fixed s := by simp [nodeStep]
@[simp] theorem fixed_meterSample (m : Nat) (x : Int) (s : State) : fixed (meterSample m x s).2 = fixed s := by simp [meterSample]
@[simp] theorem fixed_audioPublish (s : State) : fixed (audioPublish s) = fixed s := by simp [audioPublish]

@[simp] theorem fixed_audioForm (din : List (BitVec 24)) (n : Nat) (s : State) : fixed (audioForm din n s) = fixed s := by
  unfold audioForm
  extract_lets live s1 s2 _ s3 _ s4 vs s5 raw
  have h5 : fixed s5 = fixed s := by simp [s5, s4, s3, s2, s1]
  split
  next xs s6 h6 =>
  extract_lets outs measured
  split
  next ms s7 h7 =>
  have h6 := fixed_of_snd h6 (fixed_foldl_snd _ _ _ fun a e => fixed_bqInput e.1 e.2 a.2)
  have h7 := fixed_of_snd h7 (fixed_foldl_snd _ _ _ fun a e => fixed_meterSample e.1 e.2 a.2)
  rw [fixed_mk, h7, h6, h5]

@[simp] theorem fixed_asrcEvent (p : Nat) (s : State) : fixed (asrcEvent p s) = fixed s := by simp [asrcEvent]
@[simp] theorem fixed_asrcAnew (p : Nat) (s : State) : fixed (asrcAnew p s) = fixed s := by simp [asrcAnew]
@[simp] theorem fixed_audioGovern (s : State) : fixed (audioGovern s) = fixed s := by simp [audioGovern]

@[simp] theorem fixed_audioStrobe (din : List (BitVec 24)) (s : State) : fixed (audioStrobe din s) = fixed s := by
  simp only [audioStrobe]; (repeat' split) <;> simp_all

@[simp] theorem fixed_execAudioSampleStrobe (din : List (BitVec 24)) (s : State) :
    fixedNext (execAudioSampleStrobe din s) = some (fixed s) := by
  simp [execAudioSampleStrobe]
@[simp] theorem fixed_strobeLeft (s : State) : fixed (strobeLeft s) = fixed s := by simp [strobeLeft]
@[simp] theorem fixed_asrcLost (fsync : Bool) (p : Nat) (s : State) : fixed (asrcLost fsync p s) = fixed s := by simp [asrcLost]
@[simp] theorem fixed_execAsrcLockLost (k : Fin 2) (s : State) : fixedNext (execAsrcLockLost k s) = some (fixed s) := by
  simp [execAsrcLockLost]

@[simp] theorem fixed_execPeerFrameReceive (k : Fin 2) (n : Nat) (s : State) :
    fixedNext (execPeerFrameReceive k n s) = some (fixed s) := by
  unfold execPeerFrameReceive
  extract_lets p h good inputs s1 a s2
  have h1 : fixed s1 = fixed s := by
    simp only [s1]
    split <;> simp
  have h2 : fixed s2 = fixed s := by simp only [s2, fixed_mk, h1]
  simp [h2]

/-! ### Machine/Store.lean -/

@[simp] theorem fixed_programWord (e : Nat × Nat) (s : State) : fixed (programWord e s) = fixed s := by simp [programWord]
@[simp] theorem fixed_setStoreQueue (q : List (Nat × Nat)) (s : State) :
    fixed (setStoreQueue q s) = fixed s := by simp [setStoreQueue]
@[simp] theorem fixed_storeNext (s : State) : fixed (storeNext s) = fixed s := by simp [storeNext]

@[simp] theorem fixed_admitWaiting (es : List (Nat × Nat × Nat × Nat)) (s : State) : fixed (admitWaiting es s) = fixed s := by
  induction es generalizing s with
  | nil => simp [admitWaiting]
  | cons e es ih => simp [admitWaiting, ih]

@[simp] theorem fixed_programNext (s : State) : fixed (programNext s) = fixed s := by
  simp only [programNext]
  split <;> simp
@[simp] theorem fixed_storeTick (s : State) : fixed (storeTick s) = fixed s := by simp [storeTick]
@[simp] theorem fixed_execCfsWordProgrammed (s : State) : fixedNext (execCfsWordProgrammed s) = some (fixed s) := by
  simp [execCfsWordProgrammed]
@[simp] theorem fixed_programSlot (k : Nat) (s : State) : fixed (programSlot k s) = fixed s := by simp [programSlot]
@[simp] theorem fixed_checkStore (ws : List Nat) (s : State) : fixed (checkStore ws s).2 = fixed s := by
  simp only [checkStore]
  split <;> simp

@[simp] theorem fixed_readStore (f n : Nat) (s : State) : fixed (readStore f n s).2 = fixed s := by
  have h := fixed_checkStore (wordsOf f n) s
  unfold readStore
  split <;> simp_all

@[simp] theorem fixed_queueWord (w f n v : Nat) (s : State) : fixed (queueWord w f n v s) = fixed s := by simp [queueWord]

@[simp] theorem fixed_writeStore (f n v : Nat) (s : State) : fixed (writeStore f n v s).2 = fixed s := by
  have h := fixed_checkStore (partWords f n) s
  unfold writeStore
  split
  · rfl
  · split <;> simp_all

@[simp] theorem fixed_cfsLockWrite (v : Nat) (s : State) : fixed (cfsLockWrite v s) = fixed s := by simp [cfsLockWrite]
@[simp] theorem fixed_execCfsLockWrite (v : Word) (s : State) : fixedNext (execCfsLockWrite v s) = some (fixed s) := by
  simp [execCfsLockWrite]

/-! ### Machine/Map.lean -/

@[simp] theorem fixed_loadRow (r : RegRow) (u v : Nat) (s : State) : fixed (loadRow r u v s) = fixed s :=
  fixed_forAll _ _ _ fun f t => by split <;> simp

/-! ### Machine/Events.lean -/

@[simp] theorem fixed_evLine (q : Nat) (s : State) : fixed (evLine q s) = fixed s := by simp [evLine]
@[simp] theorem fixed_evLines (s : State) : fixed (evLines s) = fixed s := by simp [evLines]
@[simp] theorem fixed_lineFalls (q : Nat) (s : State) : fixed (lineFalls q s) = fixed s := by simp [lineFalls]
@[simp] theorem fixed_chooseRecord (n : Nat) (s : State) : fixed (chooseRecord n s) = fixed s := by simp [chooseRecord]
@[simp] theorem fixed_chooseSince (lim : Nat) (s : State) : fixed (chooseSince lim s) = fixed s := by
  unfold chooseSince
  (repeat' split) <;> simp
@[simp] theorem fixed_chooseNow (s : State) : fixed (chooseNow s) = fixed s := by simp [chooseNow]
@[simp] theorem fixed_execEventRecordChoose (s : State) : fixedNext (execEventRecordChoose s) = some (fixed s) := by
  simp [execEventRecordChoose]
@[simp] theorem fixed_recordFails (r : EvOut) (s : State) : fixed (recordFails r s) = fixed s := by simp [recordFails]
@[simp] theorem fixed_execRecordStorePerformed (q : Fin 8) (err : Bool) (s : State) :
    fixedNext (execRecordStorePerformed q err s) = some (fixed s) := by
  simp only [execRecordStorePerformed]
  split <;> simp
@[simp] theorem fixed_tailAdvances (q : Nat) (s : State) : fixed (tailAdvances q s) = fixed s := by
  simp only [tailAdvances]
  split <;> simp
@[simp] theorem fixed_execEvcAck (n : Fin 1024) (s : State) : fixedNext (execEvcAck n s) = some (fixed s) := by simp [execEvcAck]
@[simp] theorem fixed_execSevWrite (k : Fin 256) (v : Word) (s : State) : fixedNext (execSevWrite k v s) = some (fixed s) := by
  simp [execSevWrite]
@[simp] theorem fixed_execEvcCfgWrite (n : Fin 1024) (v : Word) (s : State) :
    fixedNext (execEvcCfgWrite n v s) = some (fixed s) := by
  simp [execEvcCfgWrite]
@[simp] theorem fixed_queueRefuse (s : State) : fixed (queueRefuse s) = fixed s := by simp [queueRefuse]
@[simp] theorem fixed_dropRecords (q : Nat) (s : State) : fixed (dropRecords q s) = fixed s := by simp [dropRecords]
@[simp] theorem fixed_execEvqSizeWrite (q : Fin 8) (v : Word) (s : State) :
    fixedNext (execEvqSizeWrite q v s) = some (fixed s) := by
  simp [execEvqSizeWrite]
@[simp] theorem fixed_execEvqHeadWrite (q : Fin 8) (v : Word) (s : State) :
    fixedNext (execEvqHeadWrite q v s) = some (fixed s) := by
  simp [execEvqHeadWrite]
@[simp] theorem fixed_execEvqHoldExpiry (q : Fin 8) (s : State) : fixedNext (execEvqHoldExpiry q s) = some (fixed s) := by
  simp [execEvqHoldExpiry]
@[simp] theorem fixed_evqBaseWrite (q v : Nat) (s : State) : fixed (evqBaseWrite q v s) = fixed s := by simp [evqBaseWrite]
@[simp] theorem fixed_evqCfgWrite (q v : Nat) (s : State) : fixed (evqCfgWrite q v s) = fixed s := by simp [evqCfgWrite]
@[simp] theorem fixed_execLcdEntryFire (c : Fin 24) (e : Fin 32) (s : State) :
    fixedNext (execLcdEntryFire c e s) = some (fixed s) := by
  simp [execLcdEntryFire]
@[simp] theorem fixed_lcdRemove (c : Nat) (s : State) : fixed (lcdRemove c s) = fixed s := by simp [lcdRemove]
@[simp] theorem fixed_lcdRead (c req : Nat) (s : State) : fixed (lcdRead c req s) = fixed s := by simp [lcdRead]
@[simp] theorem fixed_execLcdPop (c : Fin 24) (req : Byte) (s : State) : fixedNext (execLcdPop c req s) = some (fixed s) := by
  simp [execLcdPop]

/-! ### Machine/Flatten.lean -/

@[simp] theorem fixed_flEnd (code : Nat) (s : State) : fixed (flEnd code s) = fixed s := by simp [flEnd]
@[simp] theorem fixed_flGo (s : State) : fixed (flGo s) = fixed s := by simp [flGo]
@[simp] theorem fixed_execFlCtrlGo (s : State) : fixedNext (execFlCtrlGo s) = some (fixed s) := by simp [execFlCtrlGo]
@[simp] theorem fixed_flBadTiles (x y : Nat) (s : State) : fixed (flBadTiles x y s) = fixed s := by simp [flBadTiles]

@[simp] theorem fixed_flPart (s : State) : fixed (flPart s).2 = fixed s := by
  unfold flPart
  extract_lets x y ps s1
  have h1 : fixed s1 = fixed s := by simp [s1]
  clear_value ps s1
  cases ps with
  | none => exact h1
  | some ps =>
    dsimp only
    split
    · next t ht => simp [fixed_of_snd ht (fixed_writePixels _ _ _ _), h1]
    · next t ht => simp [fixed_of_snd ht (fixed_writePixels _ _ _ _), h1]

@[simp] theorem fixed_flParts (rows n : Nat) (s : State) : fixed (flParts rows n s).2 = fixed s := by
  induction n generalizing s with
  | zero => rfl
  | succ n ih =>
    have h := fixed_flPart s
    unfold flParts
    split
    · rfl
    · split <;> simp_all

@[simp] theorem fixed_execFlattenDone (stop : Option (Bool × Nat)) (s : State) :
    fixedNext (execFlattenDone stop s) = some (fixed s) := by
  simp [execFlattenDone]

@[simp] theorem fixed_flattenOn (s : State) : fixed (flattenOn s) = fixed s := by
  have h := fixed_flPart s
  unfold flattenOn
  split
  · split
    · simp
    · split
      · split <;> simp_all
      · rfl
  · rfl

/-! ### Machine/Iface.lean -/

@[simp] theorem fixed_setQueueH (q : Nat) (h : QueueH) (s : State) : fixed (setQueueH q h s) = fixed s := by simp [setQueueH]
@[simp] theorem fixed_blockRefuses (q : Nat) (s : State) : fixed (blockRefuses q s) = fixed s := by simp [blockRefuses]
@[simp] theorem fixed_prodWrite (q v : Nat) (s : State) : fixed (prodWrite q v s) = fixed s := by simp [prodWrite]
@[simp] theorem fixed_execQProdWrite (q : Fin 40) (v : Word) (s : State) : fixedNext (execQProdWrite q v s) = some (fixed s) := by
  simp [execQProdWrite]
@[simp] theorem fixed_qSizeWrite (q v : Nat) (s : State) : fixed (qSizeWrite q v s) = fixed s := by simp [qSizeWrite]
@[simp] theorem fixed_execQSizeWrite (q : Fin 40) (v : Word) (s : State) : fixedNext (execQSizeWrite q v s) = some (fixed s) := by
  simp [execQSizeWrite]
@[simp] theorem fixed_qBaseWrite (q v : Nat) (s : State) : fixed (qBaseWrite q v s) = fixed s := by simp [qBaseWrite]
@[simp] theorem fixed_qStop (q code : Nat) (s : State) : fixed (qStop q code s) = fixed s := by simp [qStop]
@[simp] theorem fixed_execQueueStop (q : Fin 40) (code : Fin 5) (s : State) :
    fixedNext (execQueueStop q code s) = some (fixed s) := by
  simp [execQueueStop]
@[simp] theorem fixed_setEth (k : Nat) (h : EthH) (s : State) : fixed (setEth k h s) = fixed s := by simp [setEth]
@[simp] theorem fixed_execEthLinkChange (k : Fin 2) (up : Bool) (speed : Fin 4) (s : State) :
    fixedNext (execEthLinkChange k up speed s) = some (fixed s) := by
  simp [execEthLinkChange]
@[simp] theorem fixed_gclCommit (k : Nat) (s : State) : fixed (gclCommit k s) = fixed s := by simp [gclCommit]
@[simp] theorem fixed_execGclCommit (k : Fin 2) (s : State) :
    fixedNext (execGclCommit k s) = some (fixed s) := by simp [execGclCommit]
@[simp] theorem fixed_execGclCycleStart (k : Fin 2) (s : State) : fixedNext (execGclCycleStart k s) = some (fixed s) := by
  simp [execGclCycleStart]
@[simp] theorem fixed_execGclEntryAdvance (k : Fin 2) (s : State) : fixedNext (execGclEntryAdvance k s) = some (fixed s) := by
  simp [execGclEntryAdvance]
@[simp] theorem fixed_creditTick (k : Nat) (s : State) : fixed (creditTick k s) = fixed s := by simp [creditTick]
@[simp] theorem fixed_cbsWrite (k q v : Nat) (s : State) : fixed (cbsWrite k q v s) = fixed s := by simp [cbsWrite]
@[simp] theorem fixed_mdioGo (c45 : Bool) (op phy reg data : Nat) (s : State) :
    fixed (mdioGo c45 op phy reg data s) = fixed s := by
  simp [mdioGo]
@[simp] theorem fixed_execMdioWrite (c45 : Bool) (phy reg : BitVec 5) (data : BitVec 16) (s : State) :
    fixedNext (execMdioWrite c45 phy reg data s) = some (fixed s) := by
  simp [execMdioWrite]
@[simp] theorem fixed_execMdioRead (c45 : Bool) (phy reg : BitVec 5) (s : State) :
    fixedNext (execMdioRead c45 phy reg s) = some (fixed s) := by
  simp [execMdioRead]
@[simp] theorem fixed_execMdioAddress (phy reg : BitVec 5) (data : BitVec 16) (s : State) :
    fixedNext (execMdioAddress phy reg data s) = some (fixed s) := by
  simp [execMdioAddress]
@[simp] theorem fixed_execMdioDone (data : BitVec 16) (s : State) : fixedNext (execMdioDone data s) = some (fixed s) := by
  simp [execMdioDone]
@[simp] theorem fixed_setPcie (h : PcieH) (s : State) : fixed (setPcie h s) = fixed s := by simp [setPcie]
@[simp] theorem fixed_outFails (bit : Nat) (s : State) : fixed (outFails bit s) = fixed s := by simp [outFails]
@[simp] theorem fixed_sendOut (write : Bool) (a n v : Nat) (s : State) :
    fixed (sendOut write a n v s) = fixed s := by simp [sendOut]

@[simp] theorem fixed_pcieRead (a n : Nat) (s : State) : fixed (pcieRead a n s).2 = fixed s := by
  simp only [pcieRead]; (repeat' split) <;> simp_all

@[simp] theorem fixed_pcieWrite (a n v : Nat) (s : State) : fixed (pcieWrite a n v s) = fixed s := by simp [pcieWrite]
@[simp] theorem fixed_execPcieOutboundCompletion (data : Option (BitVec 64)) (s : State) :
    fixedNext (execPcieOutboundCompletion data s) = some (fixed s) := by
  simp [execPcieOutboundCompletion]
@[simp] theorem fixed_execPcieCompletionTimeout (s : State) : fixedNext (execPcieCompletionTimeout s) = some (fixed s) := by
  simp [execPcieCompletionTimeout]
@[simp] theorem fixed_msiSend (v : Nat) (s : State) : fixed (msiSend v s) = fixed s := by simp [msiSend]
@[simp] theorem fixed_execPcieMsiSend (v : Fin 32) (s : State) : fixedNext (execPcieMsiSend v s) = some (fixed s) := by
  simp [execPcieMsiSend]
@[simp] theorem fixed_execPcieDbWrite (i : Fin 8) (v : Word) (s : State) :
    fixedNext (execPcieDbWrite i v s) = some (fixed s) := by
  simp [execPcieDbWrite]
@[simp] theorem fixed_pcieLink (up : Bool) (gen width : Nat) (s : State) :
    fixed (pcieLink up gen width s) = fixed s := by simp [pcieLink]
@[simp] theorem fixed_execPcieLinkChange (up : Bool) (gen : Fin 4) (width msi : Fin 3) (s : State) :
    fixedNext (execPcieLinkChange up gen width msi s) = some (fixed s) := by
  simp [execPcieLinkChange]
@[simp] theorem fixed_execPerstOrHotReset (perst : Bool) (s : State) :
    fixedNext (execPerstOrHotReset perst s) = some (fixed s) := by
  simp [execPerstOrHotReset]
@[simp] theorem fixed_setCan (k : Nat) (h : CanH) (s : State) : fixed (setCan k h s) = fixed s := by simp [setCan]
@[simp] theorem fixed_canState (k st : Nat) (s : State) : fixed (canState k st s) = fixed s := by simp [canState]
@[simp] theorem fixed_execCanStateChange (k : Fin 4) (tec : BitVec 9) (errs : Byte) (s : State) :
    fixedNext (execCanStateChange k tec errs s) = some (fixed s) := by
  simp [execCanStateChange]
@[simp] theorem fixed_canRecover (k : Nat) (s : State) : fixed (canRecover k s) = fixed s := by simp [canRecover]
@[simp] theorem fixed_execRecover (k : Fin 4) (s : State) : fixedNext (execRecover k s) = some (fixed s) := by simp [execRecover]
@[simp] theorem fixed_execBusoffRecoveryDone (k : Fin 4) (s : State) :
    fixedNext (execBusoffRecoveryDone k s) = some (fixed s) := by
  simp [execBusoffRecoveryDone]
@[simp] theorem fixed_setUart (tx rx : List Nat) (s : State) : fixed (setUart tx rx s) = fixed s := by simp [setUart]
@[simp] theorem fixed_uartLine (d : Option Nat) (s : State) : fixed (uartLine d s) = fixed s := by simp [uartLine]
@[simp] theorem fixed_uartError (flags : Nat) (s : State) : fixed (uartError flags s) = fixed s := by simp [uartError]
@[simp] theorem fixed_execUartCharacterReceive (ch : Byte) (framing parity brk : Bool) (s : State) :
    fixedNext (execUartCharacterReceive ch framing parity brk s) = some (fixed s) := by
  simp [execUartCharacterReceive]
@[simp] theorem fixed_execUartCharacterSent (s : State) : fixedNext (execUartCharacterSent s) = some (fixed s) := by
  simp only [execUartCharacterSent]
  split <;> simp
@[simp] theorem fixed_uartWrite (c : Nat) (s : State) : fixed (uartWrite c s) = fixed s := by simp [uartWrite]
@[simp] theorem fixed_execUartDataWrite (ch : Byte) (s : State) : fixedNext (execUartDataWrite ch s) = some (fixed s) := by
  simp [execUartDataWrite]
@[simp] theorem fixed_uartRead (s : State) : fixed (uartRead s) = fixed s := by
  simp only [uartRead]
  split <;> simp
@[simp] theorem fixed_execUartDataRead (s : State) : fixedNext (execUartDataRead s) = some (fixed s) := by simp [execUartDataRead]
@[simp] theorem fixed_uartTick (s : State) : fixed (uartTick s) = fixed s := by simp [uartTick]
@[simp] theorem fixed_execUartRxTimeout (s : State) :
    fixedNext (execUartRxTimeout s) = some (fixed s) := by simp [execUartRxTimeout]
@[simp] theorem fixed_i2cEnds (result done : Nat) (s : State) : fixed (i2cEnds result done s) = fixed s := by simp [i2cEnds]
@[simp] theorem fixed_i2cCommand (v : Nat) (s : State) : fixed (i2cCommand v s) = fixed s := by simp [i2cCommand]
@[simp] theorem fixed_execI2cTransaction (v : Word) (s : State) : fixedNext (execI2cTransaction v s) = some (fixed s) := by
  simp [execI2cTransaction]
@[simp] theorem fixed_i2cData (done data : Nat) (s : State) : fixed (i2cData done data s) = fixed s := by simp [i2cData]
@[simp] theorem fixed_execI2cTransactionEnd (result : Fin 4) (done : Fin 64) (data : BitVec 256) (s : State) :
    fixedNext (execI2cTransactionEnd result done data s) = some (fixed s) := by
  simp [execI2cTransactionEnd]
@[simp] theorem fixed_execI2cSclTimeout (s : State) :
    fixedNext (execI2cSclTimeout s) = some (fixed s) := by simp [execI2cSclTimeout]
@[simp] theorem fixed_setSpi (h : SpiH) (s : State) : fixed (setSpi h s) = fixed s := by simp [setSpi]

@[simp] theorem fixed_spiWord (s : State) : fixed (spiWord s) = fixed s := by
  simp only [spiWord]; (repeat' split) <;> simp_all

@[simp] theorem fixed_spiEnds (s : State) : fixed (spiEnds s) = fixed s := by simp [spiEnds]
@[simp] theorem fixed_spiXfer (v : Nat) (input : List Nat) (s : State) : fixed (spiXfer v input s) = fixed s := by simp [spiXfer]
@[simp] theorem fixed_execSpiTransfer (v : Word) (miso : List Word) (s : State) :
    fixedNext (execSpiTransfer v miso s) = some (fixed s) := by
  simp [execSpiTransfer]
@[simp] theorem fixed_execSpiTransferEnd (s : State) :
    fixedNext (execSpiTransferEnd s) = some (fixed s) := by simp [execSpiTransferEnd]
@[simp] theorem fixed_spiAt (d : Option Nat) (s : State) : fixed (spiAt d s) = fixed s := by simp [spiAt]
@[simp] theorem fixed_spiTick (s : State) : fixed (spiTick s) = fixed s := by
  unfold spiTick
  (repeat' split) <;> simp
@[simp] theorem fixed_spiWrite (w : Nat) (s : State) : fixed (spiWrite w s) = fixed s := by simp [spiWrite]
@[simp] theorem fixed_execSpiTxWrite (w : Word) (s : State) :
    fixedNext (execSpiTxWrite w s) = some (fixed s) := by simp [execSpiTxWrite]
@[simp] theorem fixed_spiRead (s : State) : fixed (spiRead s) = fixed s := by
  simp only [spiRead]
  split <;> simp
@[simp] theorem fixed_execSpiRxRead (s : State) : fixedNext (execSpiRxRead s) = some (fixed s) := by simp [execSpiRxRead]

/-! ### Machine/Nand.lean -/

@[simp] theorem fixed_setNand (h : NandH) (s : State) : fixed (setNand h s) = fixed s := by simp [setNand]
@[simp] theorem fixed_showWear (s : State) : fixed (showWear s) = fixed s := by simp [showWear]
@[simp] theorem fixed_takeBlock (highest : Bool) (s : State) : fixed (takeBlock highest s) = fixed s := by
  simp only [takeBlock]
  split <;> simp
@[simp] theorem fixed_eraseBlock (b : Nat) (s : State) : fixed (eraseBlock b s) = fixed s := by simp [eraseBlock]
@[simp] theorem fixed_showVolume (s : State) : fixed (showVolume s) = fixed s := by simp [showVolume]
@[simp] theorem fixed_nandEnable (on : Bool) (s : State) : fixed (nandEnable on s) = fixed s := by simp [nandEnable]
@[simp] theorem fixed_execNfCtrlEn (on : Bool) (s : State) :
    fixedNext (execNfCtrlEn on s) = some (fixed s) := by simp [execNfCtrlEn]
@[simp] theorem fixed_nandDev (s : State) : fixed (nandDev s) = fixed s := by simp [nandDev]

@[simp] theorem fixed_execNandInitDone (ts : List NandTarget) (tmode : BitVec 12) (s : State) :
    fixedNext (execNandInitDone ts tmode s) = some (fixed s) := by
  simp only [execNandInitDone]; (repeat' split) <;> simp_all

@[simp] theorem fixed_nandPush (s : State) : fixed (nandPush s) = fixed s := by simp [nandPush]
@[simp] theorem fixed_nandEnds (status done : Nat) (s : State) : fixed (nandEnds status done s) = fixed s := by simp [nandEnds]
@[simp] theorem fixed_execNandTrim (s : State) : fixedNext (execNandTrim s) = some (fixed s) := by
  simp only [execNandTrim]
  split <;> simp
@[simp] theorem fixed_execNandFlush (s : State) : fixedNext (execNandFlush s) = some (fixed s) := by
  simp only [execNandFlush]
  split <;> simp
@[simp] theorem fixed_execNandFormat (good : Nat) (s : State) : fixedNext (execNandFormat good s) = some (fixed s) := by
  simp only [execNandFormat]
  split <;> simp
@[simp] theorem fixed_execNandCommandComplete (s : State) : fixedNext (execNandCommandComplete s) = some (fixed s) := by
  simp only [execNandCommandComplete]
  split <;> simp
@[simp] theorem fixed_nandDone1 (s : State) : fixed (nandDone1 s) = fixed s := by
  simp only [nandDone1]
  split <;> simp
@[simp] theorem fixed_execNfDone1Read (s : State) : fixedNext (execNfDone1Read s) = some (fixed s) := by simp [execNfDone1Read]
@[simp] theorem fixed_codeword (x : NandCodeword) (s : State) : fixed (codeword x s) = fixed s := by simp [codeword]
@[simp] theorem fixed_execPatrolRead (cws : List NandCodeword) (s : State) :
    fixedNext (execPatrolRead cws s) = some (fixed s) := by
  simp [execPatrolRead]
@[simp] theorem fixed_execBlockRefresh (s : State) : fixedNext (execBlockRefresh s) = some (fixed s) := by
  simp only [execBlockRefresh]
  split <;> simp
@[simp] theorem fixed_execWearMove (s : State) : fixedNext (execWearMove s) = some (fixed s) := by
  simp only [execWearMove]
  split <;> simp
@[simp] theorem fixed_canteenBlock (b : Nat) (s : State) : fixed (canteenBlock b s) = fixed s := by simp [canteenBlock]
@[simp] theorem fixed_sealVolume (bad : Nat) (s : State) : fixed (sealVolume bad s) = fixed s := by simp [sealVolume]
@[simp] theorem fixed_execNandProgramFail (b : Nat) (bad : Fin 5) (s : State) :
    fixedNext (execNandProgramFail b bad s) = some (fixed s) := by
  simp [execNandProgramFail]
@[simp] theorem fixed_execNfReadyTimeout (s : State) :
    fixedNext (execNfReadyTimeout s) = some (fixed s) := by simp [execNfReadyTimeout]

/-! ### Machine/Sensing.lean -/

@[simp] theorem fixed_tryField (F : Fld) (u v : Nat) (bad : Bool) (refuse : State → State) (s : State)
    (hrefuse : ∀ t, fixed (refuse t) = fixed t) :
    fixed (tryField F u v bad refuse s) = fixed s := by
  simp only [tryField]; (repeat' split) <;> simp_all

@[simp] theorem fixed_setSdf (ch : Nat) (h : SdfH) (s : State) : fixed (setSdf ch h s) = fixed s := by simp [setSdf]
@[simp] theorem fixed_setClk (c : Nat) (h : ClkH) (s : State) : fixed (setClk c h s) = fixed s := by simp [setClk]
@[simp] theorem fixed_updFilling (ch : Nat) (s : State) : fixed (updFilling ch s) = fixed s := by simp [updFilling]
@[simp] theorem fixed_execSdfLatch (ch : Fin 384) (k : Fin 2) (s : State) : fixedNext (execSdfLatch ch k s) = some (fixed s) := by
  simp [execSdfLatch]
@[simp] theorem fixed_reconfigure (ch : Nat) (s : State) : fixed (reconfigure ch s) = fixed s := by simp [reconfigure]
@[simp] theorem fixed_writeSdfCfg (ch v : Nat) (s : State) : fixed (writeSdfCfg ch v s) = fixed s := by simp [writeSdfCfg]
@[simp] theorem fixed_writeClkSrc (c v : Nat) (s : State) : fixed (writeClkSrc c v s) = fixed s := by simp [writeClkSrc]
@[simp] theorem fixed_execSdfCfgWrite (w : SdfWrite) (s : State) : fixedNext (execSdfCfgWrite w s) = some (fixed s) := by
  simp only [execSdfCfgWrite]
  split <;> simp
@[simp] theorem fixed_fastPath (ch : Fin 384) (s : State) : fixed (fastPath ch s) = fixed s := by simp [fastPath]
@[simp] theorem fixed_captureBit (ch : Fin 384) (high : Bool) (s : State) :
    fixed (captureBit ch high s) = fixed s := by simp [captureBit]
@[simp] theorem fixed_execBitCapture (ch : Fin 384) (high : Bool) (s : State) :
    fixedNext (execBitCapture ch high s) = some (fixed s) := by
  simp [execBitCapture]

@[simp] theorem fixed_capturesLeft (s : State) : fixed (capturesLeft s) = fixed s :=
  fixed_forAll _ _ _ fun ch t => by split <;> simp

@[simp] theorem fixed_ocDecision (ch : Nat) (high : Bool) (s : State) :
    fixed (ocDecision ch high s) = fixed s := by simp [ocDecision]
@[simp] theorem fixed_execSdfOcDecision (ch : Fin 384) (high : Bool) (s : State) :
    fixedNext (execSdfOcDecision ch high s) = some (fixed s) := by
  simp [execSdfOcDecision]
@[simp] theorem fixed_execOcLiveFall (ch : Fin 384) (s : State) : fixedNext (execOcLiveFall ch s) = some (fixed s) := by
  simp [execOcLiveFall]
@[simp] theorem fixed_execSdfClklost (c : Fin 24) (s : State) :
    fixedNext (execSdfClklost c s) = some (fixed s) := by simp [execSdfClklost]
@[simp] theorem fixed_clockEdge (c : Nat) (s : State) : fixed (clockEdge c s) = fixed s := by simp [clockEdge]
@[simp] theorem fixed_execExternalClockEdge (c : Fin 24) (s : State) :
    fixedNext (execExternalClockEdge c s) = some (fixed s) := by
  simp [execExternalClockEdge]
@[simp] theorem fixed_clocksLeft (s : State) : fixed (clocksLeft s) = fixed s := by simp [clocksLeft]
@[simp] theorem fixed_setSar (v : Nat) (h : SarH) (s : State) : fixed (setSar v h s) = fixed s := by simp [setSar]
@[simp] theorem fixed_execSarTrigger (v e : Fin 16) (s : State) : fixedNext (execSarTrigger v e s) = some (fixed s) := by
  simp [execSarTrigger]
@[simp] theorem fixed_sarResult (v e : Nat) (value : BitVec 16) (s : State) :
    fixed (sarResult v e value s) = fixed s := by simp [sarResult]
@[simp] theorem fixed_execSarResult (v : Fin 16) (value : BitVec 16) (s : State) :
    fixedNext (execSarResult v value s) = some (fixed s) := by
  simp only [execSarResult]
  split <;> simp

@[simp] theorem fixed_sarsLeft (s : State) : fixed (sarsLeft s) = fixed s :=
  fixed_forAll _ _ _ fun e t => by split <;> simp

@[simp] theorem fixed_setCmp (j : Nat) (h : CmpH) (s : State) : fixed (setCmp j h s) = fixed s := by
  unfold setCmp
  split <;> simp
@[simp] theorem fixed_execComparatorCrossing (j : Fin 64) (above : Bool) (s : State) :
    fixedNext (execComparatorCrossing j above s) = some (fixed s) := by
  simp [execComparatorCrossing]
@[simp] theorem fixed_execCmpFabricChange (j : Fin 64) (level : Bool) (s : State) :
    fixedNext (execCmpFabricChange j level s) = some (fixed s) := by
  simp [execCmpFabricChange]
@[simp] theorem fixed_cmpCompares (j : Nat) (h : CmpH) (s : State) : fixed (cmpCompares j h s) = fixed s := by simp [cmpCompares]
@[simp] theorem fixed_cmpThrArrives (j v : Nat) (s : State) : fixed (cmpThrArrives j v s) = fixed s := by simp [cmpThrArrives]
@[simp] theorem fixed_cmpCfgArrives (j v : Nat) (s : State) : fixed (cmpCfgArrives j v s) = fixed s := by simp [cmpCfgArrives]
@[simp] theorem fixed_writeCmpThr (j v : Nat) (s : State) : fixed (writeCmpThr j v s) = fixed s := by simp [writeCmpThr]
@[simp] theorem fixed_writeCmpCfg (j v : Nat) (s : State) : fixed (writeCmpCfg j v s) = fixed s := by simp [writeCmpCfg]
@[simp] theorem fixed_execCmpThrWrite (j : Fin 64) (w : CmpWrite) (s : State) :
    fixedNext (execCmpThrWrite j w s) = some (fixed s) := by
  simp only [execCmpThrWrite]
  split <;> simp
@[simp] theorem fixed_setQep (u : Nat) (h : QepH) (s : State) : fixed (setQep u h s) = fixed s := by simp [setQep]
@[simp] theorem fixed_countEdge (u : Nat) (d : Int) (s : State) : fixed (countEdge u d s) = fixed s := by simp [countEdge]
@[simp] theorem fixed_tellPin (p : Nat) (b : Bool) (s : State) : fixed (tellPin p b s) = fixed s := by simp [tellPin]
@[simp] theorem fixed_qepCount (u : Nat) (a b : Bool) (s : State) : fixed (qepCount u a b s) = fixed s := by simp [qepCount]
@[simp] theorem fixed_tellQep (u k : Nat) (b : Bool) (s : State) : fixed (tellQep u k b s) = fixed s := by simp [tellQep]
@[simp] theorem fixed_qepEdge (u : Nat) (a b : Bool) (s : State) : fixed (qepEdge u a b s) = fixed s := by simp [qepEdge]
@[simp] theorem fixed_execQepEdge (u : Fin 48) (a b : Bool) (s : State) : fixedNext (execQepEdge u a b s) = some (fixed s) := by
  simp [execQepEdge]
@[simp] theorem fixed_qepIndexed (u : Nat) (s : State) : fixed (qepIndexed u s) = fixed s := by simp [qepIndexed]
@[simp] theorem fixed_qepIndex (u : Nat) (s : State) : fixed (qepIndex u s) = fixed s := by simp [qepIndex]
@[simp] theorem fixed_qepTick (u : Nat) (s : State) : fixed (qepTick u s) = fixed s := by simp [qepTick]
@[simp] theorem fixed_qepsOn (s : State) : fixed (qepsOn s) = fixed s := by simp [qepsOn]
@[simp] theorem fixed_execQepIndex (u : Fin 48) (s : State) :
    fixedNext (execQepIndex u s) = some (fixed s) := by simp [execQepIndex]
@[simp] theorem fixed_execQepLatch (u : Fin 48) (k : Fin 2) (s : State) : fixedNext (execQepLatch u k s) = some (fixed s) := by
  simp [execQepLatch]
@[simp] theorem fixed_execQepPosWrite (u : Fin 48) (v : Word) (s : State) :
    fixedNext (execQepPosWrite u v s) = some (fixed s) := by
  simp [execQepPosWrite]
@[simp] theorem fixed_setSeu (u : Nat) (h : SeuH) (s : State) : fixed (setSeu u h s) = fixed s := by simp [setSeu]
@[simp] theorem fixed_execSeuSlotFire (u : Fin 24) (s : State) : fixedNext (execSeuSlotFire u s) = some (fixed s) := by
  simp [execSeuSlotFire]
@[simp] theorem fixed_seuTimeout (u : Fin 24) (ma : MaLevel) (began : Nat) (s : State) :
    fixed (seuTimeout u ma began s) = fixed s := by
  simp [seuTimeout]
@[simp] theorem fixed_seuResult (u : Fin 24) (p : Nat) (r : SeuFrame) (s : State) : fixed (seuResult u p r s) = fixed s := by
  simp [seuResult]
@[simp] theorem fixed_execSeuResult (u : Fin 24) (r : SeuFrame) (s : State) :
    fixedNext (execSeuResult u r s) = some (fixed s) := by
  simp only [execSeuResult]
  split <;> simp
@[simp] theorem fixed_bissSample (u : Nat) (x : Bool) (s : State) : fixed (bissSample u x s) = fixed s := by
  simp only [bissSample]
  split <;> simp

@[simp] theorem fixed_seuSample (u p : Nat) (s : State) : fixed (seuSample u p s) = fixed s := by
  simp only [seuSample]; (repeat' split) <;> simp_all

@[simp] theorem fixed_framesLeft (s : State) : fixed (framesLeft s) = fixed s :=
  fixed_forAll _ _ _ fun u t => by split <;> simp

@[simp] theorem fixed_execSeuDeadline (u : Fin 24) (s : State) : fixedNext (execSeuDeadline u s) = some (fixed s) := by
  simp only [execSeuDeadline]
  split <;> simp
@[simp] theorem fixed_execSeuTimeoutEnd (u : Fin 24) (s : State) : fixedNext (execSeuTimeoutEnd u s) = some (fixed s) := by
  simp [execSeuTimeoutEnd]

/-! ### Machine/Pads.lean -/

@[simp] theorem fixed_pinsTick (s : State) : fixed (pinsTick s) = fixed s := by simp [pinsTick]
@[simp] theorem fixed_padRefuse (gate : Bool) (n : Nat) (s : State) : fixed (padRefuse gate n s) = fixed s := by simp [padRefuse]
@[simp] theorem fixed_padWaits (n : Nat) (s : State) : fixed (padWaits n s) = fixed s := by simp [padWaits]
@[simp] theorem fixed_putPadWord (p v : Nat) (s : State) : fixed (putPadWord p v s) = fixed s := by simp [putPadWord]
@[simp] theorem fixed_execPadCfgWrite (p : Fin 256) (v : Word) (s : State) :
    fixedNext (execPadCfgWrite p v s) = some (fixed s) := by
  simp [execPadCfgWrite]
@[simp] theorem fixed_handover (p : PadRef) (s : State) : fixed (handover p s) = fixed s := by
  simp only [handover]
  split <;> simp
@[simp] theorem fixed_execPadHandover (p : PadRef) (s : State) : fixedNext (execPadHandover p s) = some (fixed s) := by
  simp [execPadHandover]
@[simp] theorem fixed_padOutSet (k v : Nat) (s : State) : fixed (padOutSet k v s) = fixed s := by simp [padOutSet]
@[simp] theorem fixed_execPadOutWrite (k : Fin 8) (v : Word) (s : State) :
    fixedNext (execPadOutWrite k v s) = some (fixed s) := by
  simp [execPadOutWrite]
@[simp] theorem fixed_execPadLegWrite (l : Fin 144) (v : Word) (s : State) :
    fixedNext (execPadLegWrite l v s) = some (fixed s) := by
  simp [execPadLegWrite]
@[simp] theorem fixed_execPadLatchOpen (p : PadRef) (s : State) : fixedNext (execPadLatchOpen p s) = some (fixed s) := by
  simp [execPadLatchOpen]

/-! ### Machine/Display.lean -/

@[simp] theorem fixed_dispCommit (s : State) : fixed (dispCommit s) = fixed s := fixed_forAll _ _ _ fun _ _ => rfl

@[simp] theorem fixed_dispReload (s : State) : fixed (dispReload s) = fixed s := fixed_forAll _ _ _ fun _ _ => rfl

@[simp] theorem fixed_rasterWrite (off v : Nat) (s : State) : fixed (rasterWrite off v s) = fixed s := by
  simp only [rasterWrite]
  split <;> simp
@[simp] theorem fixed_rasterLine (y : Nat) (s : State) : fixed (rasterLine y s) = fixed s := by simp [rasterLine]
@[simp] theorem fixed_spriteDrops (y : Nat) (s : State) : fixed (spriteDrops y s) = fixed s := by simp [spriteDrops]
@[simp] theorem fixed_captureDrop (s : State) : fixed (captureDrop s) = fixed s := by simp [captureDrop]
@[simp] theorem fixed_captureFailed (s : State) : fixed (captureFailed s) = fixed s := by
  simp only [captureFailed]
  split <;> simp
@[simp] theorem fixed_captureLine (y : Nat) (ps : List Nat) (full : Bool) (s : State) :
    fixed (captureLine y ps full s) = fixed s := by
  simp [captureLine]

@[simp] theorem fixed_captureWrite (e : CapLine) (s : State) : fixed (captureWrite e s) = fixed s := by
  have h := fixed_writePixels e.bpp (e.px.map some) e.addr s
  simp only [captureWrite, fixed_ite, fixed_report, fixed_captureFailed]
  split
  · rfl
  · split <;> simp_all

@[simp] theorem fixed_captureNext (s : State) : fixed (captureNext s) = fixed s := by
  simp only [captureNext]
  split <;> simp
@[simp] theorem fixed_captureEnds (s : State) : fixed (captureEnds s) = fixed s := by simp [captureEnds]
@[simp] theorem fixed_execLineCompose (y : Fin 1200) (full : Bool) (s : State) :
    fixedNext (execLineCompose y full s) = some (fixed s) := by
  simp [execLineCompose]
@[simp] theorem fixed_underrun (l : SentLine) (s : State) : fixed (underrun l s) = fixed s := by simp [underrun]
@[simp] theorem fixed_captureTail (x y : Nat) (tail : List Nat) (s : State) : fixed (captureTail x y tail s) = fixed s := by
  simp [captureTail]
@[simp] theorem fixed_execLineUnderrun (x : Fin 1920) (s : State) : fixedNext (execLineUnderrun x s) = some (fixed s) := by
  simp only [execLineUnderrun]
  split <;> simp
@[simp] theorem fixed_beamLine (l : Nat) (s : State) : fixed (beamLine l s) = fixed s := by simp [beamLine]

@[simp] theorem fixed_traceColumn (s : State) : fixed (traceColumn s) = fixed s := by
  refine (fixed_forAll _ _ _ fun k t => ?_).trans ?_
  · rfl
  · simp

@[simp] theorem fixed_execDisplayFrameStart (s : State) : fixedNext (execDisplayFrameStart s) = some (fixed s) := by
  simp [execDisplayFrameStart]
@[simp] theorem fixed_dispCheck (s : State) : fixed (dispCheck s) = fixed s := by simp [dispCheck]
@[simp] theorem fixed_execScnCtrlCommit (s : State) :
    fixedNext (execScnCtrlCommit s) = some (fixed s) := by simp [execScnCtrlCommit]
@[simp] theorem fixed_rllCopy (s : State) : fixed (rllCopy s) = fixed s := by
  simp only [rllCopy]
  split <;> simp
@[simp] theorem fixed_frameCounts (s : State) : fixed (frameCounts s) = fixed s := by simp [frameCounts]
@[simp] theorem fixed_execVblankStart (s : State) : fixedNext (execVblankStart s) = some (fixed s) := by simp [execVblankStart]
@[simp] theorem fixed_execCaptureDone (s : State) : fixedNext (execCaptureDone s) = some (fixed s) := by simp [execCaptureDone]
@[simp] theorem fixed_dpEvent (s : State) : fixed (dpEvent s) = fixed s := by simp [dpEvent]

@[simp] theorem fixed_dpChange (f : State → State) (s : State) (hf : ∀ t, fixed (f t) = fixed t) :
    fixed (dpChange f s) = fixed s := by
  simp [dpChange, hf]

@[simp] theorem fixed_dpTrain (s : State) : fixed (dpTrain s) = fixed s := by simp [dpTrain]
@[simp] theorem fixed_execTrain (s : State) : fixedNext (execTrain s) = some (fixed s) := by simp [execTrain]
@[simp] theorem fixed_execDpTrainResult (ok : Bool) (s : State) : fixedNext (execDpTrainResult ok s) = some (fixed s) := by
  simp [execDpTrainResult]
@[simp] theorem fixed_execDpLinkLoss (s : State) : fixedNext (execDpLinkLoss s) = some (fixed s) := by simp [execDpLinkLoss]
@[simp] theorem fixed_execDpHpdChange (level : Bool) (s : State) : fixedNext (execDpHpdChange level s) = some (fixed s) := by
  simp [execDpHpdChange]
@[simp] theorem fixed_hpdOn (s : State) : fixed (hpdOn s) = fixed s := by simp [hpdOn]
@[simp] theorem fixed_auxGo (s : State) : fixed (auxGo s) = fixed s := by simp [auxGo]
@[simp] theorem fixed_execAuxGo (s : State) : fixedNext (execAuxGo s) = some (fixed s) := by simp [execAuxGo]
@[simp] theorem fixed_execAuxDone (ack : Bool) (data : BitVec 128) (s : State) :
    fixedNext (execAuxDone ack data s) = some (fixed s) := by
  simp [execAuxDone]

/-! ### Machine/Engine.lean -/

@[simp] theorem fixed_execRunEnd (c : Fin 24) (s : State) : fixedNext (execRunEnd c s) = some (fixed s) := by
  simp only [execRunEnd]
  split <;> simp
@[simp] theorem fixed_setQueue (c : Nat) (q : List (Nat × Nat)) (s : State) :
    fixed (setQueue c q s) = fixed s := by simp [setQueue]
@[simp] theorem fixed_enqueue (c ctx : Nat) (s : State) : fixed (enqueue c ctx s) = fixed s := by simp [enqueue]

@[simp] theorem fixed_execLpeSlotFire (c : Fin 24) (e : Fin 256) (s : State) :
    fixedNext (execLpeSlotFire c e s) = some (fixed s) := by
  have h := fixed_engineReads [slotKey c e] s
  unfold execLpeSlotFire
  split
  · split <;> simp_all
  · rfl

@[simp] theorem fixed_execLpeKick (c : Fin 24) (ctx : Fin 128) (s : State) :
    fixedNext (execLpeKick c ctx s) = some (fixed s) := by
  simp [execLpeKick]
@[simp] theorem fixed_dispatch (c : Nat) (s : State) : fixed (dispatch c s) = fixed s := by
  simp only [dispatch]
  split <;> simp
@[simp] theorem fixed_execDispatchStart (c : Fin 24) (s : State) : fixedNext (execDispatchStart c s) = some (fixed s) := by
  simp [execDispatchStart]
@[simp] theorem fixed_doStep (c : Fin 24) (x : Nat) (s : State) : fixedNext (doStep c x s) = some (fixed s) := by
  simp only [doStep]
  split <;> simp

@[simp] theorem fixed_takeLatch (c : Nat) (r : Run) (x : Nat) (s : State) : fixed (takeLatch c r x s) = fixed s := by
  have h := fixed_engineReads (stepKey c r.pc :: operandKeys c (bits x 63 58) (stepFields x) r s) s
  unfold takeLatch
  dsimp only
  split <;> simp_all

@[simp] theorem fixed_halfStep (c : Nat) (r : Run) (x : Nat) (s : State) :
    fixed (halfStep c r x s) = fixed s := by simp [halfStep]

theorem fixed_engineNext {c : Fin 24} {lim : Nat} {s t : State} (h : engineNext c lim s = some t) : fixed t = fixed s := by
  unfold engineNext at h
  grind [fixed_finishRun, fixed_budgetExpiry, fixed_takeLatch, fixed_ran, fixed_doStep, fixed_halfStep, fixed_dispatch]

@[simp] theorem fixed_engineOn (c : Fin 24) (lim n : Nat) (s : State) : fixed (engineOn c lim n s) = fixed s := by
  induction n generalizing s with
  | zero => rfl
  | succ n ih =>
    unfold engineOn
    split
    · next t ht => rw [ih, fixed_engineNext ht]
    · rfl

@[simp] theorem fixed_engineThrough (c : Fin 24) (lim : Nat) (s : State) : fixed (engineThrough c lim s) = fixed s := by
  simp [engineThrough]
@[simp] theorem fixed_enginesOn (s : State) : fixed (enginesOn s) = fixed s := by simp [enginesOn]
@[simp] theorem fixed_applyHeld (w : Nat × Nat × Nat) (s : State) : fixed (applyHeld w s) = fixed s := by simp [applyHeld]
@[simp] theorem fixed_releaseHeld (c : Nat) (s : State) : fixed (releaseHeld c s) = fixed s := by simp [releaseHeld]
@[simp] theorem fixed_stopEngine (c : Nat) (s : State) : fixed (stopEngine c s) = fixed s := by simp [stopEngine]
@[simp] theorem fixed_execLockstepMismatch (p : LockPair) (s : State) :
    fixedNext (execLockstepMismatch p s) = some (fixed s) := by
  simp only [execLockstepMismatch]
  split <;> simp
@[simp] theorem fixed_startMirror (n : Fin 4) (s : State) : fixed (startMirror n s) = fixed s := by simp [startMirror]
@[simp] theorem fixed_execRspCfgWrite (n : Fin 4) (v : Word) (s : State) :
    fixedNext (execRspCfgWrite n v s) = some (fixed s) := by
  simp [execRspCfgWrite]
@[simp] theorem fixed_execMirrorCopyDone (n : Fin 4) (s : State) : fixedNext (execMirrorCopyDone n s) = some (fixed s) := by
  simp [execMirrorCopyDone]
@[simp] theorem fixed_mirrorWipe (c : Nat) (s : State) : fixed (mirrorWipe c s) = fixed s := by simp [mirrorWipe]

@[simp] theorem fixed_ownKeep (c : Nat) (wiped : Bool) (s : State) : fixed (ownKeep c wiped s) = fixed s := by
  unfold ownKeep
  extract_lets m x s1 s2 g away s3
  have h1 : fixed s1 = fixed s := fixed_forAll _ _ _ fun _ _ => rfl
  have h2 : fixed s2 = fixed s1 := fixed_forAll _ _ _ fun _ _ => rfl
  have h3 : fixed s3 = fixed s := by simp [s3, h2, h1]
  simp [h3]

@[simp] theorem fixed_ownWipe (c : Nat) (s : State) : fixed (ownWipe c s) = fixed s := by simp [ownWipe]

@[simp] theorem fixed_ownBack (c : Nat) (s : State) : fixed (ownBack c s) = fixed s := by
  unfold ownBack
  extract_lets m x g s1 back s2 s3 s4 s5
  have h2 : fixed s2 = fixed s := by simp [s2, s1]
  have h3 : fixed s3 = fixed (ownWipe c s2) := fixed_forAll _ _ _ fun _ _ => rfl
  have h4 : fixed s4 = fixed s := by simp [s4, h3, h2]
  have h5 : fixed s5 = fixed s4 := fixed_forAll _ _ _ fun _ _ => rfl
  simp [h5, h4]

@[simp] theorem fixed_execSpareTakeover (n : Fin 4) (s : State) : fixedNext (execSpareTakeover n s) = some (fixed s) := by
  simp only [execSpareTakeover]
  split <;> simp
@[simp] theorem fixed_execReturn (n : Fin 4) (s : State) : fixedNext (execReturn n s) = some (fixed s) := by simp [execReturn]

/-! ### Machine/Follower.lean -/

@[simp] theorem fixed_syncTo (n : Nat) (s : State) : fixed (syncTo n s) = fixed s := by simp [syncTo]
@[simp] theorem fixed_syncCounts (inBand outBand : Nat) (s : State) :
    fixed (syncCounts inBand outBand s) = fixed s := by simp [syncCounts]

@[simp] theorem fixed_measure (m : Int) (step : Bool) (s : State) : fixed (measure m step s) = fixed s := by
  simp only [measure]; (repeat' split) <;> simp_all

@[simp] theorem fixed_syncFrameEnd (s : State) : fixed (syncFrameEnd s) = fixed s := by simp [syncFrameEnd]

/-! ### Machine/Link.lean -/

@[simp] theorem fixed_setPort (p : Nat) (h : PortH) (s : State) : fixed (setPort p h s) = fixed s := by simp [setPort]
@[simp] theorem fixed_portTo (p n : Nat) (s : State) : fixed (portTo p n s) = fixed s := by simp [portTo]
@[simp] theorem fixed_portRefresh (p : Nat) (s : State) : fixed (portRefresh p s) = fixed s := by simp [portRefresh]
@[simp] theorem fixed_setAgreed (p lane n : Nat) (s : State) : fixed (setAgreed p lane n s) = fixed s := by simp [setAgreed]
@[simp] theorem fixed_execLaneFail (p : Fin 4) (lane : Fin 3) (s : State) :
    fixedNext (execLaneFail p lane s) = some (fixed s) := by
  simp [execLaneFail]
@[simp] theorem fixed_execLaneReturn (p : Fin 4) (lane : Fin 3) (s : State) :
    fixedNext (execLaneReturn p lane s) = some (fixed s) := by
  simp [execLaneReturn]
@[simp] theorem fixed_laneCells (p : Nat) (good : Bool) (s : State) : fixed (laneCells p good s) = fixed s := by simp [laneCells]
@[simp] theorem fixed_dropCell (p : Nat) (s : State) : fixed (dropCell p s) = fixed s := by simp [dropCell]
@[simp] theorem fixed_hello (p q addr : Nat) (s : State) : fixed (hello p q addr s) = fixed s := by simp [hello]
@[simp] theorem fixed_execHelloReceive (p q : Fin 4) (addr : BitVec 18) (s : State) :
    fixedNext (execHelloReceive p q addr s) = some (fixed s) := by
  simp [execHelloReceive]
@[simp] theorem fixed_dlyReq (p seq fine : Nat) (s : State) : fixed (dlyReq p seq fine s) = fixed s := by simp [dlyReq]
@[simp] theorem fixed_execDlyReqReceive (p : Fin 4) (seq : Byte) (fine : Fin 32) (s : State) :
    fixedNext (execDlyReqReceive p seq fine s) = some (fixed s) := by
  simp [execDlyReqReceive]
@[simp] theorem fixed_dlyResp (p seq res fine : Nat) (s : State) : fixed (dlyResp p seq res fine s) = fixed s := by
  simp only [dlyResp]
  split <;> simp
@[simp] theorem fixed_execDlyRespReceive (p : Fin 4) (seq : Byte) (res : Word) (fine : Fin 32) (s : State) :
    fixedNext (execDlyRespReceive p seq res fine s) = some (fixed s) := by
  simp [execDlyRespReceive]
@[simp] theorem fixed_phaseMeasure (p : Nat) (t : TPair) (s : State) :
    fixed (phaseMeasure p t s) = fixed s := by simp [phaseMeasure]
@[simp] theorem fixed_relayOn (p from_ : Nat) (t : TPair) (s : State) : fixed (relayOn p from_ t s) = fixed s := by simp [relayOn]
@[simp] theorem fixed_relayPair (p : Nat) (t : TPair) (s : State) : fixed (relayPair p t s) = fixed s := by simp [relayPair]
@[simp] theorem fixed_timingPair (p : Nat) (t : TPair) (s : State) : fixed (timingPair p t s) = fixed s := by simp [timingPair]
@[simp] theorem fixed_execTimingPairReceive (p : Fin 4) (timing geom : BitVec 128) (fine : Fin 32) (s : State) :
    fixedNext (execTimingPairReceive p timing geom fine s) = some (fixed s) := by
  simp [execTimingPairReceive]
@[simp] theorem fixed_forward (p v at_ : Nat) (s : State) : fixed (forward p v at_ s) = fixed s := by simp [forward]
@[simp] theorem fixed_crossTiers (p v : Nat) (s : State) : fixed (crossTiers p v s) = fixed s := by simp [crossTiers]
@[simp] theorem fixed_lateRecord (s : State) : fixed (lateRecord s) = fixed s := by simp [lateRecord]
@[simp] theorem fixed_dataCell (p v fine : Nat) (s : State) : fixed (dataCell p v fine s) = fixed s := by simp [dataCell]
@[simp] theorem fixed_execDataCellReceive (p : Fin 4) (v : BitVec 128) (s : State) :
    fixedNext (execDataCellReceive p v s) = some (fixed s) := by
  simp [execDataCellReceive]
@[simp] theorem fixed_dirBad (s : State) : fixed (dirBad s) = fixed s := by simp [dirBad]
@[simp] theorem fixed_stage (g m v : Nat) (s : State) : fixed (stage g m v s) = fixed s := by
  simp only [stage]
  split <;> simp
@[simp] theorem fixed_markSeen (a : Nat) (s : State) : fixed (markSeen a s) = fixed s := by simp [markSeen]
@[simp] theorem fixed_deliver (x v : Nat) (s : State) : fixed (deliver x v s) = fixed s := by simp [deliver]

@[simp] theorem fixed_lookup (p v : Nat) (s : State) : fixed (lookup p v s) = fixed s := by
  generalize hL : lookup = L
  delta lookup at hL
  subst hL
  beta_reduce
  extract_lets a
  have h := fixed_readMem a 16 0x82 s
  generalize readMem a 16 0x82 s = r at h ⊢
  obtain ⟨_ | x, t⟩ := r
  · simpa using h
  · simpa using h

@[simp] theorem fixed_execDirectoryLookupDone (s : State) : fixedNext (execDirectoryLookupDone s) = some (fixed s) := by
  simp only [execDirectoryLookupDone]
  split <;> simp
@[simp] theorem fixed_loseTiming (p : Nat) (s : State) : fixed (loseTiming p s) = fixed s := by
  simp only [loseTiming]
  split <;> simp
@[simp] theorem fixed_notTaken (p : Nat) (s : State) : fixed (notTaken p s) = fixed s := by simp [notTaken]

@[simp] theorem fixed_takeCell (p : Nat) (data : Bool) (v fine : Nat) (s : State) :
    fixed (takeCell p data v fine s) = fixed s := by
  simp only [takeCell]; (repeat' split) <;> simp_all

@[simp] theorem fixed_execCellReceive (p : Fin 4) (c : CellIn) (s : State) :
    fixedNext (execCellReceive p c s) = some (fixed s) := by
  simp only [execCellReceive]; (repeat' split) <;> simp_all

@[simp] theorem fixed_sendCell (p v : Nat) (data : Bool) (h : PortH) (s : State) : fixed (sendCell p v data h s) = fixed s := by
  simp [sendCell]
@[simp] theorem fixed_execCellSlotSend_sendOwn (p : Nat) (h : PortH) (s : State) :
    fixedNext (execCellSlotSend.sendOwn p h s) = some (fixed s) := by
  simp only [execCellSlotSend.sendOwn]
  split <;> simp

@[simp] theorem fixed_execCellSlotSend (p : Fin 4) (fine : Fin 32) (s : State) :
    fixedNext (execCellSlotSend p fine s) = some (fixed s) := by
  simp only [execCellSlotSend]; (repeat' split) <;> simp_all

@[simp] theorem fixed_execPubValueWrite (e : Fin 1024) (v : Word) (s : State) :
    fixedNext (execPubValueWrite e v s) = some (fixed s) := by
  simp [execPubValueWrite]
@[simp] theorem fixed_execPublishSnapshot (s : State) :
    fixedNext (execPublishSnapshot s) = some (fixed s) := by simp [execPublishSnapshot]
@[simp] theorem fixed_linkLastDot (s : State) : fixed (linkLastDot s) = fixed s := by simp [linkLastDot]

@[simp] theorem fixed_mailbox (g m v : Nat) (s : State) : fixed (mailbox g m v s) = fixed s := by
  unfold mailbox
  split
  · next t ht => exact fixed_of_snd ht (fixed_mergeWords _ _ _)
  · next t ht => simp [fixed_of_snd ht (fixed_mergeWords _ _ _)]

@[simp] theorem fixed_linkFrameStart (s : State) : fixed (linkFrameStart s) = fixed s := by
  simp only [linkFrameStart]; (repeat' split) <;> simp_all

@[simp] theorem fixed_linkLineOne (s : State) : fixed (linkLineOne s) = fixed s := by simp [linkLineOne]

/-! ### Machine/MemCtl.lean -/

@[simp] theorem fixed_execPostedStoreError (req : Byte) (a : Word) (s : State) :
    fixedNext (execPostedStoreError req a s) = some (fixed s) := by
  simp [execPostedStoreError]
@[simp] theorem fixed_discardUnit (m u : Nat) (s : State) : fixed (discardUnit m u s) = fixed s := by simp [discardUnit]
@[simp] theorem fixed_discardGo (m : Nat) (s : State) : fixed (discardGo m s) = fixed s := by simp [discardGo]
@[simp] theorem fixed_execMemDiscGo (m : Fin 4) (s : State) :
    fixedNext (execMemDiscGo m s) = some (fixed s) := by simp [execMemDiscGo]
@[simp] theorem fixed_discardTick (s : State) : fixed (discardTick s) = fixed s := by
  simp only [discardTick]
  split <;> simp

@[simp] theorem fixed_discardRange (m u n : Nat) (s : State) : fixed (discardRange m u n s) = fixed s := by
  induction n generalizing u s with
  | zero => rfl
  | succ n ih => simp [discardRange, ih]

@[simp] theorem fixed_execDiscardDone (s : State) : fixedNext (execDiscardDone s) = some (fixed s) := by
  simp only [execDiscardDone]
  split <;> simp
@[simp] theorem fixed_walkOn (w n : Nat) (s : State) : fixed (walkOn w n s) = fixed s := by simp [walkOn]
@[simp] theorem fixed_walkFix (w x : Nat) (s : State) : fixed (walkFix w x s) = fixed s := by simp [walkFix]
@[simp] theorem fixed_walkBad (w x : Nat) (s : State) : fixed (walkBad w x s) = fixed s := by simp [walkBad]

@[simp] theorem fixed_walkStep (w : Nat) (s : State) : fixed (walkStep w s) = fixed s := by
  simp only [walkStep]; (repeat' split) <;> simp_all

@[simp] theorem fixed_upset (us : List (Nat × Bool)) (s : State) : fixed (upset us s) = fixed s := by simp [upset]
@[simp] theorem fixed_execRamblerStep (w : Fin 5) (us : List (Nat × Bool)) (s : State) :
    fixedNext (execRamblerStep w us s) = some (fixed s) := by
  simp [execRamblerStep]
@[simp] theorem fixed_ceReports (s : State) : fixed (ceReports s) = fixed s := by simp [ceReports]
@[simp] theorem fixed_execMemRepair (code : BitVec 23) (s : State) : fixedNext (execMemRepair code s) = some (fixed s) := by
  simp [execMemRepair]
@[simp] theorem fixed_execRowRepairDone (s : State) : fixedNext (execRowRepairDone s) = some (fixed s) := by
  simp only [execRowRepairDone]
  split <;> simp
@[simp] theorem fixed_setDma (ch : Nat) (h : DmaH) (s : State) : fixed (setDma ch h s) = fixed s := by simp [setDma]
@[simp] theorem fixed_channelStart (ch : Nat) (s : State) : fixed (channelStart ch s) = fixed s := by simp [channelStart]
@[simp] theorem fixed_channelStop (ch : Nat) (s : State) : fixed (channelStop ch s) = fixed s := by simp [channelStop]
@[simp] theorem fixed_execChCtrlStart (ch : Fin 64) (s : State) : fixedNext (execChCtrlStart ch s) = some (fixed s) := by
  simp [execChCtrlStart]
@[simp] theorem fixed_execChCtrlStop (ch : Fin 64) (s : State) : fixedNext (execChCtrlStop ch s) = some (fixed s) := by
  simp [execChCtrlStop]

/-! ### Machine/Faults.lean -/

@[simp] theorem fixed_setFaultBit (src : Nat) (s : State) : fixed (setFaultBit src s) = fixed s := by simp [setFaultBit]
@[simp] theorem fixed_setTrail (i w v : Nat) (s : State) : fixed (setTrail i w v s) = fixed s := by simp [setTrail]

@[simp] theorem fixed_closeEntry (i : Nat) (s : State) : fixed (closeEntry i s) = fixed s := by
  unfold closeEntry
  by_cases h : entryOpen i s
  · rw [if_pos h, fixed_mk, fixed_setTrail]
  · rw [if_neg h]

@[simp] theorem fixed_mergeReport (i : Nat) (r : Report) (s : State) :
    fixed (mergeReport i r s).1 = fixed s := by simp [mergeReport]
@[simp] theorem fixed_writeEntry (r : Report) (s : State) : fixed (writeEntry r s) = fixed s := by simp [writeEntry]
@[simp] theorem fixed_trailReport (r : Report) (s : State) : fixed (trailReport r s).1 = fixed s := by
  unfold trailReport
  (repeat' split) <;> simp

@[simp] theorem fixed_substitution (r : Report) (s : State) : fixed (substitution r s).2 = fixed s := by
  simp only [substitution]; (repeat' split) <;> simp_all

@[simp] theorem fixed_substitutions (rs : List Report) (s : State) : fixed (substitutions rs s).2 = fixed s := by
  induction rs generalizing s with
  | nil => rfl
  | cons r rs ih => simp [substitutions, ih]

@[simp] theorem fixed_faultWake (src : Nat) (s : State) : fixed (faultWake src s) = fixed s := by simp [faultWake]
@[simp] theorem fixed_askChipReset (src : Nat) (s : State) : fixed (askChipReset src s) = fixed s := by simp [askChipReset]
@[simp] theorem fixed_react (r : Report) (i : Option Nat) (s : State) : fixed (react r i s) = fixed s := by simp [react]
@[simp] theorem fixed_latchReport (r : Report) (s : State) : fixed (latchReport r s).1 = fixed s := by simp [latchReport]
@[simp] theorem fixed_freeze (s : State) : fixed (freeze s) = fixed s := by simp [freeze]

@[simp] theorem fixed_latchAll (rs : List Report) (s : State) : fixed (latchAll rs s) = fixed s := by
  unfold latchAll
  split
  next more t ht =>
  rw [fixed_onlyIf _ _ _ fixed_freeze, fixed_foldl_fst]
  · exact fixed_of_snd ht (fixed_substitutions _ _)
  · exact fun a r => fixed_latchReport r a.1

@[simp] theorem fixed_execFaultReportLatch (s : State) : fixedNext (execFaultReportLatch s) = some (fixed s) := by
  simp only [execFaultReportLatch]
  split <;> simp
@[simp] theorem fixed_execErrOutAssert (e : BitVec 10) (s : State) : fixedNext (execErrOutAssert e s) = some (fixed s) := by
  simp [execErrOutAssert]
@[simp] theorem fixed_execFaultTrapDelivery (core : Fin 64) (refuge : Bool) (src : BitVec 10) (s : State) :
    fixedNext (execFaultTrapDelivery core refuge src s) = some (fixed s) := by
  simp [execFaultTrapDelivery]
@[simp] theorem fixed_relockPort (p : Nat) (s : State) : fixed (relockPort p s) = fixed s := by simp [relockPort]
@[simp] theorem fixed_blockReset (src info0 : Nat) (s : State) : fixed (blockReset src info0 s) = fixed s := by
  unfold blockReset
  (repeat' split) <;> simp
@[simp] theorem fixed_execBlockReset (src : BitVec 10) (info0 : Word) (s : State) :
    fixedNext (execBlockReset src info0 s) = some (fixed s) := by
  simp [execBlockReset]
@[simp] theorem fixed_execTrailEntryClose (i : Fin 32) (s : State) : fixedNext (execTrailEntryClose i s) = some (fixed s) := by
  simp [execTrailEntryClose]
@[simp] theorem fixed_execFltAck (i : Fin 32) (s : State) : fixedNext (execFltAck i s) = some (fixed s) := by simp [execFltAck]
@[simp] theorem fixed_ackAll (s : State) : fixed (ackAll s) = fixed s := by simp [ackAll]
@[simp] theorem fixed_execFltAckAll (s : State) : fixedNext (execFltAckAll s) = some (fixed s) := by simp [execFltAckAll]
@[simp] theorem fixed_unfreeze (s : State) : fixed (unfreeze s) = fixed s := by simp [unfreeze]
@[simp] theorem fixed_execUnfreeze (s : State) : fixedNext (execUnfreeze s) = some (fixed s) := by simp [execUnfreeze]
@[simp] theorem fixed_errRelease (s : State) : fixed (errRelease s) = fixed s := by simp [errRelease]
@[simp] theorem fixed_execErrRelease (s : State) : fixedNext (execErrRelease s) = some (fixed s) := by simp [execErrRelease]
@[simp] theorem fixed_errForce (on : Bool) (s : State) : fixed (errForce on s) = fixed s := by simp [errForce]
@[simp] theorem fixed_execErrForce (on : Bool) (s : State) :
    fixedNext (execErrForce on s) = some (fixed s) := by simp [execErrForce]
@[simp] theorem fixed_fltCtrlWrite (v : Nat) (s : State) : fixed (fltCtrlWrite v s) = fixed s := by simp [fltCtrlWrite]
@[simp] theorem fixed_fltAckWrite (v : Nat) (s : State) : fixed (fltAckWrite v s) = fixed s := by simp [fltAckWrite]
@[simp] theorem fixed_rctWrite (src v : Nat) (s : State) : fixed (rctWrite src v s) = fixed s := by simp [rctWrite]
@[simp] theorem fixed_execFltRctWrite (src : Fin 512) (v : Word) (s : State) :
    fixedNext (execFltRctWrite src v s) = some (fixed s) := by
  simp [execFltRctWrite]
@[simp] theorem fixed_fltCfgWrite (v : Nat) (s : State) : fixed (fltCfgWrite v s) = fixed s := by simp [fltCfgWrite]
@[simp] theorem fixed_execFltCfgWrite (v : Word) (s : State) :
    fixedNext (execFltCfgWrite v s) = some (fixed s) := by simp [execFltCfgWrite]

/-! ### Machine/Fabric.lean -/

@[simp] theorem fixed_fabricShift (s : State) : fixed (fabricShift s) = fixed s := by simp [fabricShift]
@[simp] theorem fixed_sinksTick (s : State) : fixed (sinksTick s) = fixed s := by simp [sinksTick]
@[simp] theorem fixed_putRoute (k v : Nat) (s : State) : fixed (putRoute k v s) = fixed s := by simp [putRoute]
@[simp] theorem fixed_execRouteWrite (k : Fin 1728) (v : BitVec 128) (s : State) :
    fixedNext (execRouteWrite k v s) = some (fixed s) := by
  simp [execRouteWrite]
@[simp] theorem fixed_execFabSoftWrite (k : Fin 2) (v : Word) (s : State) :
    fixedNext (execFabSoftWrite k v s) = some (fixed s) := by
  simp [execFabSoftWrite]
@[simp] theorem fixed_execFabPulseWrite (k : Fin 2) (v : Word) (s : State) :
    fixedNext (execFabPulseWrite k v s) = some (fixed s) := by
  simp [execFabPulseWrite]
@[simp] theorem fixed_setTmr (t : Nat) (h : TmrH) (s : State) : fixed (setTmr t h s) = fixed s := by simp [setTmr]
@[simp] theorem fixed_outEvent (t : Nat) (h : TmrH) (s : State) : fixed (outEvent t h s) = fixed s := by simp [outEvent]
@[simp] theorem fixed_applyOut (t : Nat) (s : State) : fixed (applyOut t s) = fixed s := by simp [applyOut]
@[simp] theorem fixed_timerCut (t old : Nat) (s : State) : fixed (timerCut t old s) = fixed s := by simp [timerCut]
@[simp] theorem fixed_timerCommit (t : Nat) (s : State) : fixed (timerCommit t s) = fixed s := by simp [timerCommit]
@[simp] theorem fixed_timerPeriod (t : Nat) (s : State) : fixed (timerPeriod t s) = fixed s := by simp [timerPeriod]
@[simp] theorem fixed_timerAutoCommit (t : Nat) (s : State) : fixed (timerAutoCommit t s) = fixed s := by simp [timerAutoCommit]
@[simp] theorem fixed_timerPer (t : Nat) (s : State) : fixed (timerPer t s) = fixed s := by simp [timerPer]
@[simp] theorem fixed_execTimerPer (t : Fin 96) (s : State) :
    fixedNext (execTimerPer t s) = some (fixed s) := by simp [execTimerPer]
@[simp] theorem fixed_execTimerCompareFire (t : Fin 96) (c : Cmp) (s : State) :
    fixedNext (execTimerCompareFire t c s) = some (fixed s) := by
  simp [execTimerCompareFire]
@[simp] theorem fixed_execTimerReset (t : Fin 96) (s : State) :
    fixedNext (execTimerReset t s) = some (fixed s) := by simp [execTimerReset]
@[simp] theorem fixed_timerStart (t : Nat) (per : Bool) (s : State) : fixed (timerStart t per s) = fixed s := by simp [timerStart]
@[simp] theorem fixed_execTmrCtrlReset (t : Fin 96) (s : State) : fixedNext (execTmrCtrlReset t s) = some (fixed s) := by
  simp [execTmrCtrlReset]
@[simp] theorem fixed_execTmrCommitNow (t : Fin 96) (s : State) : fixedNext (execTmrCommitNow t s) = some (fixed s) := by
  simp [execTmrCommitNow]
@[simp] theorem fixed_timerShadow (t r v : Nat) (s : State) : fixed (timerShadow t r v s) = fixed s := by simp [timerShadow]
@[simp] theorem fixed_timerRestart (t : Nat) (s : State) : fixed (timerRestart t s) = fixed s := by simp [timerRestart]
@[simp] theorem fixed_stopRegion (n : Nat) (s : State) : fixed (stopRegion n s) = fixed s := by simp [stopRegion]
@[simp] theorem fixed_execRegionStop (n : Fin 4) (s : State) :
    fixedNext (execRegionStop n s) = some (fixed s) := by simp [execRegionStop]
@[simp] theorem fixed_startRegion (n : Nat) (s : State) : fixed (startRegion n s) = fixed s := by simp [startRegion]
@[simp] theorem fixed_execRegionStart (n : Fin 4) (s : State) : fixedNext (execRegionStart n s) = some (fixed s) := by
  simp [execRegionStart]
@[simp] theorem fixed_legRestart (l : Nat) (s : State) : fixed (legRestart l s) = fixed s := by simp [legRestart]
@[simp] theorem fixed_engineRestart (c : Nat) (s : State) : fixed (engineRestart c s) = fixed s := by simp [engineRestart]
@[simp] theorem fixed_spareReturn (n : Nat) (s : State) : fixed (spareReturn n s) = fixed s := by
  unfold spareReturn
  (repeat' split) <;> simp
@[simp] theorem fixed_execRegionRestart (n : Fin 4) (s : State) : fixedNext (execRegionRestart n s) = some (fixed s) := by
  simp [execRegionRestart]

/-! ### Machine/Image.lean -/

@[simp] theorem fixed_loadHook (a u : Nat) (old s : State) : fixed (loadHook a u old s) = fixed s := by
  unfold loadHook
  (repeat' split) <;> simp
@[simp] theorem fixed_loadReg (a v : Nat) (s : State) : fixed (loadReg a v s) = fixed s := by
  simp only [loadReg]
  split <;> simp
@[simp] theorem fixed_clearRange (lo hi : Nat) (s : State) : fixed (clearRange lo hi s) = fixed s := by simp [clearRange]

@[simp] theorem fixed_loadHooks (old s : State) : fixed (loadHooks old s) = fixed s :=
  fixed_forAll _ _ _ fun a t => by split <;> simp

@[simp] theorem fixed_defaultValues (s : State) : fixed (defaultValues s) = fixed s := by
  unfold defaultValues
  extract_lets s1 s2
  have h1 : fixed s1 = fixed s := fixed_forAll _ _ _ fun a t => by split <;> simp
  simp [s2, h1]

@[simp] theorem fixed_copyBytes (a d n : Nat) (s : State) : fixed (copyBytes a d n s) = fixed s := by
  induction n generalizing a d s with
  | zero => rfl
  | succ n ih => rw [copyBytes, ih, fixed_mset]

@[simp] theorem fixed_applySection (b : Nat) (x : Section) (s : State) : fixed (applySection b x s) = fixed s := by
  unfold applySection
  split
  · simp
  · extract_lets s1
    have h1 : fixed s1 = fixed s := fixed_forAll _ _ _ fun e t => by split <;> simp
    split <;> simp [h1]

@[simp] theorem fixed_padsAt (s : State) : fixed (padsAt s) = fixed s := by simp [padsAt]
@[simp] theorem fixed_reloadEnds (s : State) : fixed (reloadEnds s) = fixed s := by simp [reloadEnds]
@[simp] theorem fixed_applyImage (k : Nat) (s : State) : fixed (applyImage k s) = fixed s := by simp [applyImage]
@[simp] theorem fixed_startLoad (k : Nat) (s : State) : fixed (startLoad k s) = fixed s := by simp [startLoad]
@[simp] theorem fixed_startDefault (why sec : Nat) (s : State) :
    fixed (startDefault why sec s) = fixed s := by simp [startDefault]
@[simp] theorem fixed_execFabLoad (k : Fin 4) (s : State) : fixedNext (execFabLoad k s) = some (fixed s) := by simp [execFabLoad]
@[simp] theorem fixed_execFabDefault (s : State) : fixedNext (execFabDefault s) = some (fixed s) := by simp [execFabDefault]

@[simp] theorem fixed_execImageCheckPassEnd (s : State) : fixedNext (execImageCheckPassEnd s) = some (fixed s) := by
  simp only [execImageCheckPassEnd]; (repeat' split) <;> simp_all

@[simp] theorem fixed_execImageApplyEnd (s : State) : fixedNext (execImageApplyEnd s) = some (fixed s) := by
  simp only [execImageApplyEnd]
  split <;> simp
@[simp] theorem fixed_execDefaultImageLoaded (s : State) : fixedNext (execDefaultImageLoaded s) = some (fixed s) := by
  simp only [execDefaultImageLoaded]
  split <;> simp

/-! ### Machine/Power.lean -/

@[simp] theorem fixed_clearField (d base : Nat) (dims : List (Nat × Nat)) (f : Fld) (s : State) :
    fixed (clearField d base dims f s) = fixed s := by
  simp [clearField]
@[simp] theorem fixed_clearRegs (d : Nat) (s : State) : fixed (clearRegs d s) = fixed s := by simp [clearRegs]
@[simp] theorem fixed_loseMemory (p : Nat → Bool) (s : State) : fixed (loseMemory p s) = fixed s := by simp [loseMemory]
@[simp] theorem fixed_loseCluster (c : Nat) (s : State) : fixed (loseCluster c s) = fixed s := by simp [loseCluster]
@[simp] theorem fixed_loseState (d : Nat) (s : State) : fixed (loseState d s) = fixed s := by simp [loseState]

@[simp] theorem fixed_saveDomain (d : Nat) (s : State) : fixed (saveDomain d s) = fixed s := by
  unfold saveDomain
  refine (fixed_forAll _ _ _ fun e t => ?_).trans (fixed_forAll _ _ _ fun e t => ?_)
  · split <;> simp
  · split <;> simp

@[simp] theorem fixed_restoreFails (off : Nat) (s : State) : fixed (restoreFails off s) = fixed s := by simp [restoreFails]

@[simp] theorem fixed_restoreDomain (d : Nat) (s : State) : fixed (restoreDomain d s) = fixed s := by
  unfold restoreDomain
  refine (fixed_forAll _ _ _ fun e t => ?_).trans (fixed_forAll _ _ _ fun e t => ?_)
  · split
    · split
      · next v t' ht =>
        rw [← fixed_of_snd ht (fixed_readMem _ _ _ _)]
        exact fixed_forAll _ _ _ fun f x => by split <;> simp
      · next t' ht => simp [fixed_of_snd ht (fixed_readMem _ _ _ _)]
    · rfl
  · split
    · split
      · next k t' ht => simp [fixed_of_snd ht (fixed_readCap _ _ _)]
      · next t' ht => simp [fixed_of_snd ht (fixed_readCap _ _ _)]
    · rfl

@[simp] theorem fixed_latchPads (d : Nat) (s : State) : fixed (latchPads d s) = fixed s := by simp [latchPads]
@[simp] theorem fixed_requestFails (why : Nat) (s : State) : fixed (requestFails why s) = fixed s := by simp [requestFails]
@[simp] theorem fixed_stopHosts (ds : List Nat) (s : State) : fixed (stopHosts ds s) = fixed s := by simp [stopHosts]
@[simp] theorem fixed_enter (c : Nat) (ds : List Nat) (s : State) : fixed (enter c ds s) = fixed s := by simp [enter]
@[simp] theorem fixed_switchOff (d : Nat) (refresh : Bool) (s : State) :
    fixed (switchOff d refresh s) = fixed s := by simp [switchOff]
@[simp] theorem fixed_recordWake (src idx : Nat) (s : State) : fixed (recordWake src idx s) = fixed s := by simp [recordWake]
@[simp] theorem fixed_beginWake (src idx : Nat) (ds : List Nat) (s : State) : fixed (beginWake src idx ds s) = fixed s := by
  simp [beginWake]
@[simp] theorem fixed_joinWake (src idx : Nat) (ds : List Nat) (s : State) :
    fixed (joinWake src idx ds s) = fixed s := by simp [joinWake]
@[simp] theorem fixed_wakeDomains (src idx : Nat) (ds : List Nat) (s : State) : fixed (wakeDomains src idx ds s) = fixed s := by
  simp [wakeDomains]
@[simp] theorem fixed_acceptWake (src idx : Nat) (s : State) : fixed (acceptWake src idx s) = fixed s := by simp [acceptWake]
@[simp] theorem fixed_execWakeAccept (src : Fin 16) (idx : BitVec 10) (s : State) :
    fixedNext (execWakeAccept src idx s) = some (fixed s) := by
  simp [execWakeAccept]
@[simp] theorem fixed_execWakePin (k : Fin 4) (s : State) : fixedNext (execWakePin k s) = some (fixed s) := by simp [execWakePin]
@[simp] theorem fixed_execWakeAlarm (s : State) : fixedNext (execWakeAlarm s) = some (fixed s) := by simp [execWakeAlarm]
@[simp] theorem fixed_powerRequest (c : Nat) (s : State) : fixed (powerRequest c s) = fixed s := by simp [powerRequest]
@[simp] theorem fixed_execRequestRun (s : State) : fixedNext (execRequestRun s) = some (fixed s) := by simp [execRequestRun]
@[simp] theorem fixed_execRequestHold (s : State) : fixedNext (execRequestHold s) = some (fixed s) := by simp [execRequestHold]
@[simp] theorem fixed_execRequestDim (s : State) : fixedNext (execRequestDim s) = some (fixed s) := by simp [execRequestDim]
@[simp] theorem fixed_execRequestSleep (s : State) : fixedNext (execRequestSleep s) = some (fixed s) := by simp [execRequestSleep]
@[simp] theorem fixed_execRequestOff (s : State) : fixedNext (execRequestOff s) = some (fixed s) := by simp [execRequestOff]
@[simp] theorem fixed_bistAbort (s : State) : fixed (bistAbort s) = fixed s := by
  simp only [bistAbort]
  split <;> simp
@[simp] theorem fixed_collectorLost (s : State) : fixed (collectorLost s) = fixed s := by simp [collectorLost]
@[simp] theorem fixed_goesOff (c d : Nat) (s : State) : fixed (goesOff c d s) = fixed s := by simp [goesOff]
@[simp] theorem fixed_execStateEntryDone (s : State) : fixedNext (execStateEntryDone s) = some (fixed s) := by
  simp only [execStateEntryDone]
  split <;> simp
@[simp] theorem fixed_runoffWrite (v : Nat) (s : State) : fixed (runoffWrite v s) = fixed s := by simp [runoffWrite]
@[simp] theorem fixed_execPwrRunoffWrite (v : Word) (s : State) : fixedNext (execPwrRunoffWrite v s) = some (fixed s) := by
  simp [execPwrRunoffWrite]
@[simp] theorem fixed_repairClear (s : State) : fixed (repairClear s) = fixed s := by simp [repairClear]
@[simp] theorem fixed_repairEntryOn (i : Nat) (s : State) : fixed (repairEntryOn i s) = fixed s := by simp [repairEntryOn]
@[simp] theorem fixed_repairOn (s : State) : fixed (repairOn s) = fixed s := by
  unfold repairOn
  (repeat' split) <;> simp
@[simp] theorem fixed_execDomainStart (s : State) : fixedNext (execDomainStart s) = some (fixed s) := by
  simp only [execDomainStart]
  split <;> simp
@[simp] theorem fixed_wakeSettled (s : State) : fixed (wakeSettled s) = fixed s := by simp [wakeSettled]
@[simp] theorem fixed_reloadStarts (s : State) : fixed (reloadStarts s) = fixed s := by simp [reloadStarts]
@[simp] theorem fixed_audioRestored (s : State) : fixed (audioRestored s) = fixed s := by simp [audioRestored]
@[simp] theorem fixed_startHost (k : Nat) (s : State) : fixed (startHost k s) = fixed s := by simp [startHost]
@[simp] theorem fixed_domainComesOn (d : Nat) (s : State) : fixed (domainComesOn d s) = fixed s := by simp [domainComesOn]
@[simp] theorem fixed_execDomainOn (d : Fin 24) (s : State) :
    fixedNext (execDomainOn d s) = some (fixed s) := by simp [execDomainOn]
@[simp] theorem fixed_execDomainRampFail (d : Fin 24) (s : State) : fixedNext (execDomainRampFail d s) = some (fixed s) := by
  simp [execDomainRampFail]
@[simp] theorem fixed_execRunReached (s : State) : fixedNext (execRunReached s) = some (fixed s) := by simp [execRunReached]
@[simp] theorem fixed_resetDevice (s : State) : fixed (resetDevice s) = fixed s := by simp [resetDevice]
@[simp] theorem fixed_execPsuEnLow (s : State) : fixedNext (execPsuEnLow s) = some (fixed s) := by simp [execPsuEnLow]
@[simp] theorem fixed_execOffWake (s : State) : fixedNext (execOffWake s) = some (fixed s) := by simp [execOffWake]

/-! ### Machine/Reset.lean -/

@[simp] theorem fixed_setStage (g : Stage) (s : State) : fixed (setStage g s) = fixed s := by simp [setStage]
@[simp] theorem fixed_execDeviceReset (s : State) : fixedNext (execDeviceReset s) = some (fixed s) := by simp [execDeviceReset]
@[simp] theorem fixed_execPsuEnHigh (s : State) : fixedNext (execPsuEnHigh s) = some (fixed s) := by simp [execPsuEnHigh]
@[simp] theorem fixed_execInternalResetRelease (s : State) : fixedNext (execInternalResetRelease s) = some (fixed s) := by
  simp [execInternalResetRelease]
@[simp] theorem fixed_execPllLockRetry (s : State) : fixedNext (execPllLockRetry s) = some (fixed s) := by simp [execPllLockRetry]
@[simp] theorem fixed_execSweepStart (s : State) : fixedNext (execSweepStart s) = some (fixed s) := by simp [execSweepStart]

@[simp] theorem fixed_chipReset (src : Nat) (s : State) : fixed (chipReset src s) = fixed s := by
  unfold chipReset
  extract_lets keep t
  have ht : fixed t = fixed (resetDevice s) := fixed_forAll _ _ _ fun _ _ => rfl
  simp [ht]

@[simp] theorem fixed_execChipReset (src : BitVec 10) (s : State) : fixedNext (execChipReset src s) = some (fixed s) := by
  simp [execChipReset]
@[simp] theorem fixed_execSwpPll (s : State) : fixedNext (execSwpPll s) = some (fixed s) := by simp [execSwpPll]
@[simp] theorem fixed_execPllRelock (s : State) : fixedNext (execPllRelock s) = some (fixed s) := by simp [execPllRelock]
@[simp] theorem fixed_execBootHeaderRead (s : State) :
    fixedNext (execBootHeaderRead s) = some (fixed s) := by simp [execBootHeaderRead]

@[simp] theorem fixed_romCopy (src dst n : Nat) (s : State) : fixed (romCopy src dst n s) = fixed s := by
  induction n generalizing src dst s with
  | zero => simp [romCopy]
  | succ n ih => simp [romCopy, ih]

@[simp] theorem fixed_bootFrom (b src : Nat) (s : State) : fixed (bootFrom b src s) = fixed s := by simp [bootFrom]

@[simp] theorem fixed_flashCopy (n : Nat) (s : State) : fixed (flashCopy n s) = fixed s := by
  induction n with
  | zero => rfl
  | succ n ih => simp [flashCopy, ih]

@[simp] theorem fixed_bootFails (s : State) : fixed (bootFails s) = fixed s := by simp [bootFails]
@[simp] theorem fixed_bootSpi (s : State) : fixed (bootSpi s) = fixed s := by simp [bootSpi]
@[simp] theorem fixed_bootRom (s : State) : fixed (bootRom s) = fixed s := by simp [bootRom]
@[simp] theorem fixed_coreStart (i : Nat) (s : State) : fixed (coreStart i s) = fixed s := by simp [coreStart]
@[simp] theorem fixed_execCoreStart (core : Fin 64) (s : State) : fixedNext (execCoreStart core s) = some (fixed s) := by
  simp [execCoreStart]
@[simp] theorem fixed_bistStart (kind t : Nat) (s : State) : fixed (bistStart kind t s) = fixed s := by simp [bistStart]
@[simp] theorem fixed_bistCommand (kind t : Nat) (s : State) : fixed (bistCommand kind t s) = fixed s := by simp [bistCommand]
@[simp] theorem fixed_execBistCtrlGo (kind : Fin 2) (target : Fin 64) (s : State) :
    fixedNext (execBistCtrlGo kind target s) = some (fixed s) := by
  simp [execBistCtrlGo]
@[simp] theorem fixed_targetReset (t : Nat) (s : State) : fixed (targetReset t s) = fixed s := by simp [targetReset]
@[simp] theorem fixed_targetWipe (t : Nat) (s : State) : fixed (targetWipe t s) = fixed s := by simp [targetWipe]
@[simp] theorem fixed_execBistEnd (sig : BitVec 64) (s : State) : fixedNext (execBistEnd sig s) = some (fixed s) := by
  simp only [execBistEnd]
  split <;> simp
@[simp] theorem fixed_loadIr (ir : JtagIr) (dr : Nat) (s : State) : fixed (loadIr ir dr s) = fixed s := by simp [loadIr]
@[simp] theorem fixed_loadPins (ir : JtagIr) (dr : Nat) (s : State) : fixed (loadPins ir dr s) = fixed s := by simp [loadPins]
@[simp] theorem fixed_execExtest (cells : BitVec 256) (s : State) :
    fixedNext (execExtest cells s) = some (fixed s) := by simp [execExtest]
@[simp] theorem fixed_execIdcode (s : State) : fixedNext (execIdcode s) = some (fixed s) := by simp [execIdcode]
@[simp] theorem fixed_execSamplePreload (cells : BitVec 256) (s : State) :
    fixedNext (execSamplePreload cells s) = some (fixed s) := by
  simp [execSamplePreload]
@[simp] theorem fixed_execClamp (s : State) : fixedNext (execClamp s) = some (fixed s) := by simp [execClamp]
@[simp] theorem fixed_execHighz (s : State) : fixedNext (execHighz s) = some (fixed s) := by simp [execHighz]
@[simp] theorem fixed_bistUndone (s : State) : fixed (bistUndone s) = fixed s := by simp [bistUndone]
@[simp] theorem fixed_bistJtag (kind t : Nat) (s : State) : fixed (bistJtag kind t s) = fixed s := by simp [bistJtag]
@[simp] theorem fixed_execBist (kind : Fin 2) (target : Fin 64) (s : State) :
    fixedNext (execBist kind target s) = some (fixed s) := by
  simp [execBist]
@[simp] theorem fixed_execBistres (s : State) : fixedNext (execBistres s) = some (fixed s) := by simp [execBistres]
@[simp] theorem fixed_execUid (s : State) : fixedNext (execUid s) = some (fixed s) := by simp [execUid]
@[simp] theorem fixed_execBypass (s : State) : fixedNext (execBypass s) = some (fixed s) := by simp [execBypass]

/-! ### Machine/Timebase.lean -/

@[simp] theorem fixed_geomCommit (s : State) : fixed (geomCommit s) = fixed s := by
  simp only [geomCommit]
  split <;> simp
@[simp] theorem fixed_execGeomCommit (s : State) : fixedNext (execGeomCommit s) = some (fixed s) := by simp [execGeomCommit]
@[simp] theorem fixed_putGeom (g : Geom) (s : State) : fixed (putGeom g s) = fixed s := by simp [putGeom]
@[simp] theorem fixed_geomChange (g : Geom) (s : State) : fixed (geomChange g s) = fixed s := by simp [geomChange]
@[simp] theorem fixed_geomEffect (s : State) : fixed (geomEffect s) = fixed s := by
  simp only [geomEffect]
  split <;> simp
@[simp] theorem fixed_execGeomCommitEffect (s : State) : fixedNext (execGeomCommitEffect s) = some (fixed s) := by
  simp [execGeomCommitEffect]
@[simp] theorem fixed_modeWrite (m p : Nat) (s : State) : fixed (modeWrite m p s) = fixed s := by simp [modeWrite]
@[simp] theorem fixed_execSyncMode (m : Fin 4) (s : State) :
    fixedNext (execSyncMode m s) = some (fixed s) := by simp [execSyncMode]
@[simp] theorem fixed_execRefPort (p : Fin 4) (s : State) : fixedNext (execRefPort p s) = some (fixed s) := by simp [execRefPort]
@[simp] theorem fixed_showTiming (p : Nat) (s : State) : fixed (showTiming p s) = fixed s := by simp [showTiming]
@[simp] theorem fixed_pairsDue (s : State) : fixed (pairsDue s) = fixed s := by simp [pairsDue]
@[simp] theorem fixed_modeEffect (s : State) : fixed (modeEffect s) = fixed s := by simp [modeEffect]
@[simp] theorem fixed_execModeChangeEffect (s : State) : fixedNext (execModeChangeEffect s) = some (fixed s) := by
  simp [execModeChangeEffect]
@[simp] theorem fixed_crossings (s : State) : fixed (crossings s) = fixed s := by simp [crossings]

@[simp] theorem fixed_holdCounts (s : State) : fixed (holdCounts s) = fixed s :=
  fixed_forAll _ _ _ fun q t => by split <;> simp

@[simp] theorem fixed_trailCounts (s : State) : fixed (trailCounts s) = fixed s := by simp [trailCounts]
@[simp] theorem fixed_busyCounts (s : State) : fixed (busyCounts s) = fixed s := by simp [busyCounts]
@[simp] theorem fixed_slew (s : State) : fixed (slew s) = fixed s := by simp [slew]
@[simp] theorem fixed_lineBegins (s : State) : fixed (lineBegins s) = fixed s := by simp [lineBegins]
@[simp] theorem fixed_frameBegins (s : State) : fixed (frameBegins s) = fixed s := by simp [frameBegins]
@[simp] theorem fixed_lineStart (s : State) : fixed (lineStart s) = fixed s := by simp [lineStart]
@[simp] theorem fixed_execLineStart (s : State) : fixedNext (execLineStart s) = some (fixed s) := by simp [execLineStart]
@[simp] theorem fixed_frameStart (s : State) : fixed (frameStart s) = fixed s := by simp [frameStart]
@[simp] theorem fixed_execFrameStart (s : State) : fixedNext (execFrameStart s) = some (fixed s) := by simp [execFrameStart]
@[simp] theorem fixed_stepArm (s : State) : fixed (stepArm s) = fixed s := by simp [stepArm]
@[simp] theorem fixed_execStepArm (s : State) : fixedNext (execStepArm s) = some (fixed s) := by simp [execStepArm]
@[simp] theorem fixed_followerStep (s : State) : fixed (followerStep s) = fixed s := by
  simp only [followerStep]
  split <;> simp
@[simp] theorem fixed_execFollowerStep (s : State) : fixedNext (execFollowerStep s) = some (fixed s) := by simp [execFollowerStep]
@[simp] theorem fixed_readNow (s : State) : fixed (readNow s) = fixed s := by simp [readNow]
@[simp] theorem fixed_execSwpNowLoRead (s : State) : fixedNext (execSwpNowLoRead s) = some (fixed s) := by simp [execSwpNowLoRead]

/-! ### Machine/Access.lean -/

@[simp] theorem fixed_answered (f : State → State) (s : State) (hf : ∀ t, fixed (f t) = fixed t) :
    fixed (answered f s).2 = fixed s := by
  simp [answered, hf]

@[simp] theorem fixed_readRow (r : RegRow) (u req : Nat) (s : State) : fixed (readRow r u req s).2 = fixed s := by
  have hooks : ∀ e ∈ readHooks req, ∀ u s, fixed (e.2 u s) = fixed s := by simp [readHooks]
  unfold readRow
  split
  · next e he => exact fixed_answered _ _ fun t => hooks e (List.mem_of_find?_eq_some he) u t
  · exact fixed_forAll _ _ _ fun f t => by split <;> simp

@[simp] theorem fixed_readWord (a req : Nat) (s : State) : fixed (readWord a req s).2 = fixed s := by
  unfold readWord
  (repeat' split) <;> simp
@[simp] theorem fixed_refuseAt (a u : Nat) (s : State) : fixed (refuseAt a u s) = fixed s := by simp [refuseAt]
@[simp] theorem fixed_writeField (f : FieldRow) (a u v : Nat) (s : State) : fixed (writeField f a u v s) = fixed s := by
  simp only [writeField]
  split <;> simp
@[simp] theorem fixed_writeRow (r : RegRow) (a u v : Nat) (s : State) : fixed (writeRow r a u v s) = fixed s := by simp [writeRow]

/-! ### Machine/Writes.lean -/

@[simp] theorem fixed_onBit (v b : Nat) (f : State → State) (s : State) (hf : ∀ t, fixed (f t) = fixed t) :
    fixed (onBit v b f s) = fixed s := by
  simp only [onBit]; (repeat' split) <;> simp_all

@[simp] theorem fixed_w1c (F : Fld) (u v : Nat) (s : State) : fixed (w1c F u v s) = fixed s := by simp [w1c]
@[simp] theorem fixed_plainWrite (a v : Nat) (s : State) : fixed (plainWrite a v s) = fixed s := by
  simp only [plainWrite]
  split <;> simp
@[simp] theorem fixed_legStatWrite (u v : Nat) (s : State) : fixed (legStatWrite u v s) = fixed s := by simp [legStatWrite]
@[simp] theorem fixed_convWrite (c v : Nat) (s : State) : fixed (convWrite c v s) = fixed s := by simp [convWrite]
@[simp] theorem fixed_legCtrlWrite (l v : Nat) (s : State) : fixed (legCtrlWrite l v s) = fixed s := by simp [legCtrlWrite]
@[simp] theorem fixed_qepCfgWrite (u v : Nat) (s : State) : fixed (qepCfgWrite u v s) = fixed s := by
  simp only [qepCfgWrite]
  split <;> simp
@[simp] theorem fixed_fabCtrlWrite (v : Nat) (s : State) : fixed (fabCtrlWrite v s) = fixed s := by simp [fabCtrlWrite]
@[simp] theorem fixed_rgnCtrlWrite (n v : Nat) (s : State) : fixed (rgnCtrlWrite n v s) = fixed s := by simp [rgnCtrlWrite]
@[simp] theorem fixed_tmrCtrlWrite (t v : Nat) (s : State) : fixed (tmrCtrlWrite t v s) = fixed s := by simp [tmrCtrlWrite]
@[simp] theorem fixed_linkWrite (a v : Nat) (s : State) : fixed (linkWrite a v s) = fixed s := by simp [linkWrite]
@[simp] theorem fixed_excCtrlWrite (i v : Nat) (s : State) : fixed (excCtrlWrite i v s) = fixed s := by simp [excCtrlWrite]
@[simp] theorem fixed_memDiscWrite (v : Nat) (s : State) : fixed (memDiscWrite v s) = fixed s := by simp [memDiscWrite]
@[simp] theorem fixed_voiceCfgWrite (u v : Nat) (s : State) : fixed (voiceCfgWrite u v s) = fixed s := by simp [voiceCfgWrite]
@[simp] theorem fixed_voiceAddrWrite (u v : Nat) (s : State) : fixed (voiceAddrWrite u v s) = fixed s := by simp [voiceAddrWrite]
@[simp] theorem fixed_nodeWrite (u v : Nat) (s : State) : fixed (nodeWrite u v s) = fixed s := by simp [nodeWrite]
@[simp] theorem fixed_mdioWrite (v : Nat) (s : State) : fixed (mdioWrite v s) = fixed s := by simp [mdioWrite]
@[simp] theorem fixed_canCtrlWrite (k v : Nat) (s : State) : fixed (canCtrlWrite k v s) = fixed s := by simp [canCtrlWrite]

theorem fixed_hooksA : ∀ e ∈ hooksA, ∀ u v s, fixed (e.2 u v s) = fixed s := by
  simp [hooksA]

theorem fixed_hooksB : ∀ e ∈ hooksB, ∀ u v s, fixed (e.2 u v s) = fixed s := by
  simp [hooksB]

theorem fixed_hooksC : ∀ e ∈ hooksC, ∀ u v s, fixed (e.2 u v s) = fixed s := by
  simp [hooksC]

theorem fixed_hooksD : ∀ e ∈ hooksD, ∀ u v s, fixed (e.2 u v s) = fixed s := by
  simp [hooksD]

@[simp] theorem fixed_writeReg (r : RegRow) (a u v : Nat) (s : State) : fixed (writeReg r a u v s) = fixed s := by
  unfold writeReg
  split
  · next e he =>
    have hm := List.mem_of_find?_eq_some he
    simp only [writeHooks, List.mem_append] at hm
    rcases hm with ((hm | hm) | hm) | hm
    · exact fixed_hooksA e hm u v s
    · exact fixed_hooksB e hm u v s
    · exact fixed_hooksC e hm u v s
    · exact fixed_hooksD e hm u v s
  · simp

@[simp] theorem fixed_holdOrApply (c : Nat) (w : Nat × Nat × Nat) (s : State) :
    fixed (holdOrApply c w s) = fixed s := by simp [holdOrApply]
@[simp] theorem fixed_lpeWrite (a v : Nat) (m : LpeArea) (s : State) : fixed (lpeWrite a v m s) = fixed s := by
  simp only [lpeWrite]
  split <;> simp
@[simp] theorem fixed_cleanWords (ws : List Nat) (s : State) : fixed (cleanWords ws s) = fixed s := by simp [cleanWords]

theorem fixed_slotLocked {k : CapRow} {u : Nat} {s : State} {f : State → State} (h : slotLocked k u s = some f) (t : State) :
    fixed (f t) = fixed t := by
  unfold slotLocked at h
  split at h
  · cases h; simp
  · split at h
    · cases h; simp
    · split at h
      · cases h; simp
      · cases h

@[simp] theorem fixed_writeSlot (k : CapRow) (u : Nat) (c : Cap) (s : State) : fixed (writeSlot k u c s) = fixed s := by
  unfold writeSlot
  split
  · next f hf => simp [fixed_slotLocked hf]
  · simp

@[simp] theorem fixed_writeWord (a v : Nat) (s : State) : fixed (writeWord a v s).2 = fixed s := by
  unfold writeWord
  (repeat' split) <;> simp

/-! ### Machine/Bus.lean -/

@[simp] theorem fixed_wordsFrom (a req n : Nat) (s : State) : fixed (wordsFrom a req n s).2 = fixed s := by
  induction n generalizing a s with
  | zero => rfl
  | succ n ih =>
    unfold wordsFrom
    split
    · next t ht => exact fixed_of_snd ht (fixed_readWord _ _ _)
    · next v t ht =>
      have h := fixed_of_snd ht (fixed_readWord _ _ _)
      split
      · next u hu => exact (fixed_of_snd hu (ih _ _)).trans h
      · next w u hu => exact (fixed_of_snd hu (ih _ _)).trans h

@[simp] theorem fixed_readWords (a req n : Nat) (s : State) : fixed (readWords a req n s).2 = fixed s := by
  simp only [readWords]
  split <;> simp

@[simp] theorem fixed_devRead (a n req : Nat) (s : State) : fixed (devRead a n req s).2 = fixed s := by
  have hc : fixed (if (lpeArea a).isSome && blockPresent a s then checkWords (wordsOf a n) req s else (true, s)).2 = fixed s := by
    split <;> simp
  unfold devRead
  split
  · simp
  · split
    · rfl
    · split
      · next t ht => exact fixed_of_snd ht hc
      · next t ht =>
        have h := fixed_of_snd ht hc
        split
        · split
          · next v u hu => exact (fixed_of_snd hu (fixed_readWord _ _ _)).trans h
          · next u hu => exact (fixed_of_snd hu (fixed_readWord _ _ _)).trans h
        · simp [h]

@[simp] theorem fixed_writeWordBy (req a v : Nat) (s : State) : fixed (writeWordBy req a v s).2 = fixed s := by
  simp only [writeWordBy]
  split <;> simp

@[simp] theorem fixed_wordsTo (req a v n : Nat) (s : State) : fixed (wordsTo req a v n s) = fixed s := by
  induction n generalizing a v s with
  | zero => rfl
  | succ n ih => simp [wordsTo, ih]

@[simp] theorem fixed_writeWords (req a v n : Nat) (s : State) : fixed (writeWords req a v n s).2 = fixed s := by
  simp only [writeWords]
  split <;> simp

theorem fixed_devQuad {a : Nat} {k : Cap} {s t : State} (h : devQuad a k s = some t) : fixed t = fixed s := by
  unfold devQuad at h
  dsimp only at h
  split at h
  · cases h; simp
  · split at h
    · cases h; simp
    · split at h
      · cases h; simp
      · split at h
        · cases h; simp
        · cases h

@[simp] theorem fixed_devWrite (a n v req : Nat) (s : State) : fixed (devWrite a n v req s).2 = fixed s := by
  have hc : fixed (if (lpeArea a).isSome then checkWords (partWords a n) req s else (true, s)).2 = fixed s := by split <;> simp
  unfold devWrite
  split
  · simp
  · split
    · rfl
    · split
      · next t ht =>
        split at ht
        · exact fixed_devQuad ht
        · cases ht
      · split
        · rfl
        · split
          · next t ht => exact fixed_of_snd ht hc
          · next t ht =>
            have h := fixed_of_snd ht hc
            dsimp only
            split <;> simp [h]

@[simp] theorem fixed_dramRead (a n req : Nat) (s : State) : fixed (dramRead a n req s).2 = fixed s := by
  unfold dramRead
  split
  · rfl
  · extract_lets m
    split
    · next t ht => exact fixed_of_snd ht (fixed_readMem _ _ _ _)
    · next v t ht =>
      have h := fixed_of_snd ht (fixed_readMem _ _ _ _)
      split
      · exact h
      · split
        · next u hu => exact (fixed_of_snd hu (fixed_readMem _ _ _ _)).trans h
        · next w u hu => exact (fixed_of_snd hu (fixed_readMem _ _ _ _)).trans h

@[simp] theorem fixed_dramWrite (a n v req : Nat) (s : State) : fixed (dramWrite a n v req s).2 = fixed s := by
  unfold dramWrite
  split
  · rfl
  · extract_lets m
    split
    · simp
    · split
      · next t ht => exact fixed_of_snd ht (fixed_writeMem _ _ _ _ _)
      · next t ht => rw [fixed_writeMem, fixed_of_snd ht (fixed_writeMem _ _ _ _ _)]

@[simp] theorem fixed_busRead (a n req : Nat) (s : State) : fixed (busRead a n req s).2 = fixed s := by
  unfold busRead
  (repeat' split) <;> simp
@[simp] theorem fixed_busWrite (a n v req : Nat) (s : State) : fixed (busWrite a n v req s).2 = fixed s := by
  unfold busWrite
  (repeat' split) <;> simp

@[simp] theorem fixed_busReadCap (a req : Nat) (s : State) : fixed (busReadCap a req s).2 = fixed s := by
  unfold busReadCap
  split
  · rfl
  · split
    · next t ht => exact fixed_of_snd ht (fixed_busRead _ _ _ _)
    · next v t ht => exact fixed_of_snd ht (fixed_busRead _ _ _ _)

@[simp] theorem fixed_busWriteCap (a : Nat) (k : Cap) (req : Nat) (s : State) : fixed (busWriteCap a k req s).2 = fixed s := by
  unfold busWriteCap
  split
  · simp
  · split
    · next t ht => exact fixed_of_snd ht (fixed_busWrite _ _ _ _ _)
    · next t ht => simp [fixed_of_snd ht (fixed_busWrite _ _ _ _ _)]

@[simp] theorem fixed_readParts (req : Nat) (ps : List (Nat × Nat)) (s : State) : fixed (readParts req ps s).2.2 = fixed s := by
  induction ps generalizing s with
  | nil => rfl
  | cons p ps ih =>
    unfold readParts
    split
    · next t ht => exact fixed_of_snd ht (fixed_busRead _ _ _ _)
    · next v t ht => simp [ih, fixed_of_snd ht (fixed_busRead _ _ _ _)]

@[simp] theorem fixed_readEach (req : Nat) (ps : List (Nat × Nat)) (s : State) : fixed (readEach req ps s).2.2 = fixed s := by
  induction ps generalizing s with
  | nil => rfl
  | cons p ps ih =>
    unfold readEach
    split
    · next t ht => exact fixed_of_snd ht (fixed_busRead _ _ _ _)
    · next v t ht => simp [ih, fixed_of_snd ht (fixed_busRead _ _ _ _)]

@[simp] theorem fixed_writeParts (a v req : Nat) (ps : List (Nat × Nat)) (s : State) :
    fixed (writeParts a v req ps s).2 = fixed s := by
  induction ps generalizing s with
  | nil => rfl
  | cons p ps ih =>
    unfold writeParts
    split
    · next t ht => exact fixed_of_snd ht (fixed_busWrite _ _ _ _ _)
    · next t ht => rw [ih, fixed_of_snd ht (fixed_busWrite _ _ _ _ _)]

@[simp] theorem fixed_writeUnder (k : Cap) (a n v req : Nat) (s : State) : fixed (writeUnder k a n v req s).2 = fixed s := by
  simp only [writeUnder]
  split <;> simp

@[simp] theorem fixed_writePartsUnder (k : Cap) (a v req : Nat) (ps : List (Nat × Nat)) (s : State) :
    fixed (writePartsUnder k a v req ps s).2 = fixed s := by
  unfold writePartsUnder
  extract_lets ok
  split
  · next t ht => exact fixed_of_snd ht (fixed_writeParts _ _ _ _ _)
  · simp

@[simp] theorem fixed_execRegisterWrite (addr : Nat) (v : Word) (s : State) :
    fixedNext (execRegisterWrite addr v s) = some (fixed s) := by
  unfold execRegisterWrite
  split
  · split
    · next t ht => simp [fixed_of_snd ht (fixed_devWrite _ _ _ _ _)]
    · next t ht => simp [fixed_of_snd ht (fixed_devWrite _ _ _ _ _)]
  · rfl

@[simp] theorem fixed_execExcCtrlWrite (core : Fin 64) (v : Word) (s : State) :
    fixedNext (execExcCtrlWrite core v s) = some (fixed s) := by
  simp [execExcCtrlWrite]

/-! ### Machine/Dma.lean -/

@[simp] theorem fixed_dmaEvent (ch err : Nat) (s : State) : fixed (dmaEvent ch err s) = fixed s := by simp [dmaEvent]

@[simp] theorem fixed_dmaResult (ch err : Nat) (s : State) : fixed (dmaResult ch err s).2.2 = fixed s := by
  unfold dmaResult
  dsimp only
  split
  · rfl
  · split
    · next t ht => exact fixed_of_snd ht (fixed_writeUnder _ _ _ _ _ _)
    · next t ht => exact fixed_of_snd ht (fixed_writeUnder _ _ _ _ _ _)

@[simp] theorem fixed_dmaStop (ch err a : Nat) (s : State) : fixed (dmaStop ch err a s) = fixed s := by simp [dmaStop]

@[simp] theorem fixed_execDescriptorFetch (ch : Fin 64) (s : State) : fixedNext (execDescriptorFetch ch s) = some (fixed s) := by
  unfold execDescriptorFetch
  dsimp only
  split
  · rfl
  · split
    · simp
    · split
      · next x t ht => simp [fixed_of_third ht (fixed_readParts _ _ _)]
      · next v t ht =>
        have h := fixed_of_third ht (fixed_readParts _ _ _)
        split <;> simp [h]

@[simp] theorem fixed_dmaRead (ch a n : Nat) (down : Bool) (stop : Option Nat) (s : State) :
    fixed (dmaRead ch a n down stop s).2.2 = fixed s := by
  simp [dmaRead]
@[simp] theorem fixed_dmaDone (ch n : Nat) (s : State) : fixed (dmaDone ch n s) = fixed s := by simp [dmaDone]
@[simp] theorem fixed_dmaPhase (ch : Nat) (p : DmaPhase) (s : State) : fixed (dmaPhase ch p s) = fixed s := by simp [dmaPhase]

@[simp] theorem fixed_dmaStore (ch v : Nat) (down : Bool) (s : State) : fixed (dmaStore ch v down s) = fixed s := by
  unfold dmaStore
  dsimp only
  split
  · next t ht => simp [fixed_of_snd ht (fixed_writePartsUnder _ _ _ _ _ _)]
  · next x t ht => simp [fixed_of_snd ht (fixed_writePartsUnder _ _ _ _ _ _)]

@[simp] theorem fixed_dmaStoreUntil (ch v x : Nat) (down : Bool) (s : State) : fixed (dmaStoreUntil ch v x down s) = fixed s := by
  simp [dmaStoreUntil]
@[simp] theorem fixed_dmaReadFailed (ch v off x : Nat) (down : Bool) (s : State) :
    fixed (dmaReadFailed ch v off x down s) = fixed s := by
  simp [dmaReadFailed]

@[simp] theorem fixed_execDmaCopy (ch : Fin 64) (s : State) : fixedNext (execDmaCopy ch s) = some (fixed s) := by
  unfold execDmaCopy
  dsimp only
  split
  · rfl
  · split
    · next v t ht => simp [fixed_of_third ht (fixed_dmaRead _ _ _ _ _ _)]
    · next v off x t ht => simp [fixed_of_third ht (fixed_dmaRead _ _ _ _ _ _)]

@[simp] theorem fixed_execDmaFill (ch : Fin 64) (s : State) :
    fixedNext (execDmaFill ch s) = some (fixed s) := by simp [execDmaFill]
@[simp] theorem fixed_dmaCompared (ch v w : Nat) (s : State) : fixed (dmaCompared ch v w s) = fixed s := by simp [dmaCompared]

@[simp] theorem fixed_dmaCompareWith (ch v : Nat) (s : State) : fixed (dmaCompareWith ch v s) = fixed s := by
  unfold dmaCompareWith
  dsimp only
  split
  · next w t ht => simp [fixed_of_third ht (fixed_dmaRead _ _ _ _ _ _)]
  · next w off x t ht => simp [fixed_of_third ht (fixed_dmaRead _ _ _ _ _ _)]

@[simp] theorem fixed_execDmaCompare (ch : Fin 64) (s : State) : fixedNext (execDmaCompare ch s) = some (fixed s) := by
  unfold execDmaCompare
  dsimp only
  split
  · rfl
  · split
    · next v t ht => simp [fixed_of_third ht (fixed_dmaRead _ _ _ _ _ _)]
    · next v off x t ht => simp [fixed_of_third ht (fixed_dmaRead _ _ _ _ _ _)]

@[simp] theorem fixed_execDmaComparePattern (ch : Fin 64) (s : State) :
    fixedNext (execDmaComparePattern ch s) = some (fixed s) := by
  simp [execDmaComparePattern]

@[simp] theorem fixed_execDescriptorComplete (ch : Fin 64) (s : State) :
    fixedNext (execDescriptorComplete ch s) = some (fixed s) := by
  unfold execDescriptorComplete
  dsimp only
  split
  · rfl
  · split
    · next a t ht =>
      have h := fixed_of_third ht (fixed_dmaResult _ _ _)
      split <;> simp [h]
    · next err a t _ ht => simp [fixed_of_third ht (fixed_dmaResult _ _ _)]

@[simp] theorem fixed_execDmaErrorStop (ch : Fin 64) (write : Bool) (a : Word) (s : State) :
    fixedNext (execDmaErrorStop ch write a s) = some (fixed s) := by
  simp only [execDmaErrorStop]; (repeat' split) <;> simp_all

@[simp] theorem fixed_execMemacc (dr : BitVec 72) (s : State) : fixedNext (execMemacc dr s) = some (fixed s) := by
  unfold execMemacc
  extract_lets v a write k s1
  have h1 : fixed s1 = fixed s := by simp [s1]
  clear_value v s1
  split
  · simp [h1]
  · split
    · simp [h1]
    · split
      · simp [h1]
      · split
        · next x t ht => simp [fixed_of_snd ht (fixed_busRead _ _ _ _), h1]
        · next t ht => simp [fixed_of_snd ht (fixed_busRead _ _ _ _), h1]

/-! ### Machine/CoreMem.lean -/

@[simp] theorem fixed_gSet (i n v : Nat) (s : State) : fixed (gSet i n v s) = fixed s := by simp [gSet]
@[simp] theorem fixed_gPut (i r n v : Nat) (s : State) : fixed (gPut i r n v s) = fixed s := by simp [gPut]
@[simp] theorem fixed_cSet (i k : Nat) (c : Cap) (s : State) : fixed (cSet i k c s) = fixed s := by simp [cSet]
@[simp] theorem fixed_windowWrite (g o n v : Nat) (s : State) : fixed (windowWrite g o n v s) = fixed s := by simp [windowWrite]
@[simp] theorem fixed_regionRead (i a n : Nat) (s : State) : fixed (regionRead i a n s).2 = fixed s := by
  simp only [regionRead]
  split <;> simp

@[simp] theorem fixed_coreRead (i a n : Nat) (s : State) : fixed (coreRead i a n s).2 = fixed s := by
  unfold coreRead
  split
  · split <;> simp
  · split
    case h_4 =>
      split
      · next t ht => exact fixed_of_snd ht (fixed_checkWords _ _ _)
      · next t ht => exact fixed_of_snd ht (fixed_checkWords _ _ _)
    all_goals simp [apply_ite]

@[simp] theorem fixed_cachedWrite (a n v i : Nat) (s : State) : fixed (cachedWrite a n v i s).2 = fixed s := by
  unfold cachedWrite
  (repeat' split) <;> simp

@[simp] theorem fixed_sramStore (i a n v b : Nat) (tag : Bool) (s : State) : fixed (sramStore i a n v b tag s).2 = fixed s := by
  unfold sramStore
  split
  · simp
  · next t ht => exact fixed_of_snd ht (fixed_busWrite _ _ _ _ _)

@[simp] theorem fixed_coreWrite (i a n v b : Nat) (s : State) : fixed (coreWrite i a n v b s).2 = fixed s := by
  unfold coreWrite
  split
  · split <;> simp
  · split
    case h_4 =>
      split
      · next t ht =>
        have h := fixed_of_snd ht (fixed_checkWords _ _ _)
        dsimp only
        split <;> simp [h]
      · next t ht => exact fixed_of_snd ht (fixed_checkWords _ _ _)
    case h_5 =>
      dsimp only
      split
      · split <;> simp
      · simp
    all_goals simp [apply_ite]

@[simp] theorem fixed_atomicWrite (i a n v b : Nat) (s : State) : fixed (atomicWrite i a n v b s).2 = fixed s := by
  simp only [atomicWrite]
  split <;> simp
@[simp] theorem fixed_postedError (i a : Nat) (s : State) : fixed (postedError i a s) = fixed s := by simp [postedError]

@[simp] theorem fixed_storeArrives (req a n v : Nat) (tag : Bool) (s : State) :
    fixed (storeArrives req a n v tag s) = fixed s := by
  have h : fixed (if n = 16 then busWriteCap a ⟨BitVec.ofNat 128 v, tag⟩ req s else busWrite a n v req s).2 = fixed s := by
    split <;> simp
  unfold storeArrives
  split
  · next t ht => exact fixed_of_snd ht h
  · next t ht => simp [fixed_of_snd ht h]

@[simp] theorem fixed_storeWrite (i a n v b : Nat) (s : State) : fixed (storeWrite i a n v b s).2 = fixed s := by
  unfold storeWrite
  split
  · next t ht => exact fixed_of_snd ht (fixed_coreWrite _ _ _ _ _ _)
  · next t ht =>
    have h := fixed_of_snd ht (fixed_coreWrite _ _ _ _ _ _)
    split <;> simp [h]

@[simp] theorem fixed_coreReadCap (i a : Nat) (s : State) : fixed (coreReadCap i a s).2 = fixed s := by
  unfold coreReadCap
  split
  · split <;> simp
  · split
    case h_4 =>
      split
      · next v t ht => exact fixed_of_snd ht (fixed_coreRead _ _ _ _)
      · next t ht => exact fixed_of_snd ht (fixed_coreRead _ _ _ _)
    all_goals simp

@[simp] theorem fixed_coreWriteCap (i a : Nat) (k : Cap) (b : Nat) (s : State) : fixed (coreWriteCap i a k b s).2 = fixed s := by
  unfold coreWriteCap
  (repeat' split) <;> simp

/-! ### Machine/Flags.lean -/

@[simp] theorem fixed_raise (i f : Nat) (s : State) : fixed (raise i f s) = fixed s := by simp [raise]
@[simp] theorem fixed_raiseAt (i f c : Nat) (s : State) : fixed (raiseAt i f c s) = fixed s := by simp [raiseAt]

/-! ### Machine/Exceptions.lean -/

@[simp] theorem fixed_pushWords (i a b : Nat) (ks : List Cap) (s : State) : fixed (pushWords i a b ks s).2 = fixed s := by
  induction ks generalizing a b s with
  | nil => rfl
  | cons k ks ih =>
    have h : fixed (if slotDenied (cGet i 15 s) a 16 then (false, s) else coreWriteCap i a k b s).2 = fixed s := by split <;> simp
    unfold pushWords
    split
    · next t ht => rw [ih, fixed_of_snd ht h]
    · next t ht => exact fixed_of_snd ht h

@[simp] theorem fixed_lockCore (i : Nat) (e : Exc) (pc : Nat) (s : State) :
    fixed (lockCore i e pc s) = fixed s := by simp [lockCore]
@[simp] theorem fixed_refugeEntry (i why det at_ src : Nat) (r : List Cap) (b : Nat) (s : State) :
    fixed (refugeEntry i why det at_ src r b s) = fixed s := by
  simp [refugeEntry]

@[simp] theorem fixed_takeException (i : Nat) (e : Exc) (imprecise : Bool) (pc b : Nat) (s : State) :
    fixed (takeException i e imprecise pc b s) = fixed s := by
  generalize hL : takeException = L
  delta takeException at hL
  subst hL
  beta_reduce
  by_cases hr : fbit EXC_STAT_IN_REFUGE i s
  · rw [if_pos hr, fixed_lockCore]
  · rw [if_neg hr]
    extract_lets r k at_
    have h := fixed_pushWords i at_ b r s
    generalize pushWords i at_ b r s = w at h ⊢
    obtain ⟨ok, t⟩ := w
    cases pushCheck i s with
    | none => cases ok <;> simpa using h
    | some e => simp

@[simp] theorem fixed_dropFault (i e : Nat) (s : State) : fixed (dropFault i e s) = fixed s := by simp [dropFault]
@[simp] theorem fixed_takeTrap (i e pc b : Nat) (s : State) : fixed (takeTrap i e pc b s) = fixed s := by simp [takeTrap]
@[simp] theorem fixed_takeArith (i pc b : Nat) (s : State) : fixed (takeArith i pc b s) = fixed s := by
  simp only [takeArith]
  split <;> simp

@[simp] theorem fixed_arithsOn (s : State) : fixed (arithsOn s) = fixed s := by
  unfold arithsOn
  refine fixed_forAll _ _ _ fun i t => ?_
  extract_lets h pc
  split
  · split
    · simp
    · rfl
  · rfl

@[simp] theorem fixed_fetchFails (i a n : Nat) (s : State) : fixed (fetchFails i a n s).2 = fixed s := by
  unfold fetchFails
  split
  · rfl
  · split
    · rfl
    · split
      · next v t ht => exact fixed_of_snd ht (fixed_coreRead _ _ _ _)
      · next t ht => exact fixed_of_snd ht (fixed_coreRead _ _ _ _)

@[simp] theorem fixed_Did_fail (e : Exc) (s : State) : fixed (Did.fail e s).s = fixed s := by simp [Did.fail]
@[simp] theorem fixed_advance (i next b : Nat) (u : Iss) (s : State) : fixed (advance i next b u s) = fixed s := by simp [advance]
@[simp] theorem fixed_spend (i b n lat : Nat) (ws : List Nat) (s : State) :
    fixed (spend i b n lat ws s) = fixed s := by simp [spend]
@[simp] theorem fixed_passOn (i pc b hold : Nat) (ws : List Nat) (s : State) :
    fixed (passOn i pc b hold ws s) = fixed s := by simp [passOn]

theorem fixed_takeWaiting {i pc b : Nat} {s t : State} (h : takeWaiting i pc b s = some t) : fixed t = fixed s := by
  unfold takeWaiting at h
  split at h
  · cases h; simp
  · obtain ⟨q, _, rfl⟩ := Option.map_eq_some_iff.mp h
    simp

@[simp] theorem fixed_runInst (c : Code) (u : Iss) (h : Hdr) (legal : Bool) (body : Ins → State → Did) (s : State)
    (hbody : ∀ x t, fixed (body x t).s = fixed t) : fixedNext (runInst c u h legal body s) = some (fixed s) := by
  unfold runInst
  extract_lets i pc b size _ first f d w
  have hf : fixed f.2 = fixed s := fixed_fetchFails _ _ _ _
  have hd : fixed d.s = fixed s := by
    simp only [d]
    split
    · simp [hf]
    · split <;> simp [hbody, hf]
  have hw : ∀ t, w = some t → fixed t = fixed s := fun t ht => fixed_takeWaiting ht
  clear_value first f d w
  split
  · rfl
  · split
    · simp
    · split
      · simp
      · split
        · simpa using hf
        · split
          · split <;> simp [hf]
          · split
            · simp [hd]
            · simp [hw]
            · simp [hd]

@[simp] theorem fixed_execExceptionEntry (core : CoreId) (illegal : Bool) (s : State) :
    fixedNext (execExceptionEntry core illegal s) = some (fixed s) := by
  unfold execExceptionEntry
  extract_lets i pc b first f e w
  have hf : fixed f.2 = fixed s := fixed_fetchFails _ _ _ _
  have hw : fixed (w.getD s) = fixed s := by
    cases h : w with
    | none => rfl
    | some t => exact fixed_takeWaiting h
  clear_value first f e w
  split
  · rfl
  · split
    · simp
    · split
      · simp
      · split
        · simpa using hf
        · split
          · simp
          · split
            · simp [hf]
            · simp [hw]

@[simp] theorem fixed_execRefugeEntry (core : CoreId) (s : State) : fixedNext (execRefugeEntry core s) = some (fixed s) := by
  simp only [execRefugeEntry]; (repeat' split) <;> simp_all

@[simp] theorem fixed_readRecord (i a n : Nat) (s : State) : fixed (readRecord i a n s).2.2 = fixed s := by
  induction n generalizing a s with
  | zero => rfl
  | succ n ih =>
    unfold readRecord
    split
    · next t ht => exact fixed_of_snd ht (fixed_coreReadCap _ _ _)
    · next k t ht => simp [ih, fixed_of_snd ht (fixed_coreReadCap _ _ _)]

@[simp] theorem fixed_restoreFrom (i : Nat) (r : List Cap) (s : State) :
    fixed (restoreFrom i r s) = fixed s := by simp [restoreFrom]

@[simp] theorem fixed_eretPlain (x : Ins) (s : State) : fixed (eretPlain x s).s = fixed s := by
  unfold eretPlain
  dsimp only
  split
  · simp
  · split
    · next e t ht => simp [fixed_of_third ht (fixed_readRecord _ _ _ _)]
    · next r t ht =>
      have h := fixed_of_third ht (fixed_readRecord _ _ _ _)
      split <;> simp [h]

@[simp] theorem fixed_eretRefuge (x : Ins) (s : State) : fixed (eretRefuge x s).s = fixed s := by
  unfold eretRefuge
  dsimp only
  split
  · next e t ht => simp [fixed_of_third ht (fixed_readRecord _ _ _ _)]
  · next r t ht =>
    have h := fixed_of_third ht (fixed_readRecord _ _ _ _)
    dsimp only
    split <;> simp [h]

/-! ### Machine/IsaInt.lean -/

@[simp] theorem fixed_plainInst (op : Nat) (u : Iss) (h : Hdr) (body : Ins → State → Did) (s : State)
    (hbody : ∀ i t, fixed (body i t).s = fixed t) :
    fixedNext (plainInst op u h body s) = some (fixed s) := by
  simp [plainInst, hbody]

@[simp] theorem fixed_execCoreNop (h : Hdr) (s : State) : fixedNext (execCoreNop h s) = some (fixed s) := by simp [execCoreNop]
@[simp] theorem fixed_execCoreWait (h : Hdr) (s : State) : fixedNext (execCoreWait h s) = some (fixed s) := by simp [execCoreWait]
@[simp] theorem fixed_execCoreBrk (h : Hdr) (s : State) : fixedNext (execCoreBrk h s) = some (fixed s) := by simp [execCoreBrk]
@[simp] theorem fixed_execCoreFencer (h : Hdr) (s : State) :
    fixedNext (execCoreFencer h s) = some (fixed s) := by simp [execCoreFencer]
@[simp] theorem fixed_execCoreFencew (h : Hdr) (s : State) :
    fixedNext (execCoreFencew h s) = some (fixed s) := by simp [execCoreFencew]
@[simp] theorem fixed_execCoreFence (h : Hdr) (s : State) :
    fixedNext (execCoreFence h s) = some (fixed s) := by simp [execCoreFence]
@[simp] theorem fixed_jump (i t : Nat) (s : State) : fixed (jump i t s) = fixed s := by simp [jump]
@[simp] theorem fixed_pushReturn (i a : Nat) (s : State) : fixed (pushReturn i a s) = fixed s := by simp [pushReturn]
@[simp] theorem fixed_execCoreRet (h : Hdr) (s : State) : fixedNext (execCoreRet h s) = some (fixed s) := by simp [execCoreRet]

@[simp] theorem fixed_execCoreEret (h : Hdr) (s : State) : fixedNext (execCoreEret h s) = some (fixed s) :=
  fixed_plainInst _ _ _ _ _ fun x t => by split <;> simp

@[simp] theorem fixed_execCoreTrap (h : Hdr) (imm : Byte) (s : State) : fixedNext (execCoreTrap h imm s) = some (fixed s) := by
  simp [execCoreTrap]
@[simp] theorem fixed_srcInst (c : Code) (h : Hdr) (o : BitVec 16) (src : Src) (legal : Bool) (f : Nat → Nat → FRes) (s : State) :
    fixedNext (srcInst c h o src legal f s) = some (fixed s) := by
  simp [srcInst]
@[simp] theorem fixed_aluInst (k : Nat) (h : Hdr) (o : BitVec 16) (src : Src) (f : Nat → Nat → FRes) (s : State) :
    fixedNext (aluInst k h o src f s) = some (fixed s) := by
  simp [aluInst]
@[simp] theorem fixed_execCoreAdd (h : Hdr) (o : BitVec 16) (src : Src) (s : State) :
    fixedNext (execCoreAdd h o src s) = some (fixed s) := by
  simp [execCoreAdd]
@[simp] theorem fixed_execCoreSub (h : Hdr) (o : BitVec 16) (src : Src) (s : State) :
    fixedNext (execCoreSub h o src s) = some (fixed s) := by
  simp [execCoreSub]
@[simp] theorem fixed_execCoreAnd (h : Hdr) (o : BitVec 16) (src : Src) (s : State) :
    fixedNext (execCoreAnd h o src s) = some (fixed s) := by
  simp [execCoreAnd]
@[simp] theorem fixed_execCoreOr (h : Hdr) (o : BitVec 16) (src : Src) (s : State) :
    fixedNext (execCoreOr h o src s) = some (fixed s) := by
  simp [execCoreOr]
@[simp] theorem fixed_execCoreXor (h : Hdr) (o : BitVec 16) (src : Src) (s : State) :
    fixedNext (execCoreXor h o src s) = some (fixed s) := by
  simp [execCoreXor]
@[simp] theorem fixed_execCoreAndn (h : Hdr) (o : BitVec 16) (src : Src) (s : State) :
    fixedNext (execCoreAndn h o src s) = some (fixed s) := by
  simp [execCoreAndn]
@[simp] theorem fixed_execCoreShl (h : Hdr) (o : BitVec 16) (src : Src) (s : State) :
    fixedNext (execCoreShl h o src s) = some (fixed s) := by
  simp [execCoreShl]
@[simp] theorem fixed_execCoreShr (h : Hdr) (o : BitVec 16) (src : Src) (s : State) :
    fixedNext (execCoreShr h o src s) = some (fixed s) := by
  simp [execCoreShr]
@[simp] theorem fixed_execCoreSar (h : Hdr) (o : BitVec 16) (src : Src) (s : State) :
    fixedNext (execCoreSar h o src s) = some (fixed s) := by
  simp [execCoreSar]
@[simp] theorem fixed_execCoreRor (h : Hdr) (o : BitVec 16) (src : Src) (s : State) :
    fixedNext (execCoreRor h o src s) = some (fixed s) := by
  simp [execCoreRor]
@[simp] theorem fixed_execCoreAdds (h : Hdr) (o : BitVec 16) (src : Src) (s : State) :
    fixedNext (execCoreAdds h o src s) = some (fixed s) := by
  simp [execCoreAdds]
@[simp] theorem fixed_execCoreSubs (h : Hdr) (o : BitVec 16) (src : Src) (s : State) :
    fixedNext (execCoreSubs h o src s) = some (fixed s) := by
  simp [execCoreSubs]
@[simp] theorem fixed_execCoreMin (h : Hdr) (o : BitVec 16) (src : Src) (s : State) :
    fixedNext (execCoreMin h o src s) = some (fixed s) := by
  simp [execCoreMin]
@[simp] theorem fixed_execCoreMax (h : Hdr) (o : BitVec 16) (src : Src) (s : State) :
    fixedNext (execCoreMax h o src s) = some (fixed s) := by
  simp [execCoreMax]
@[simp] theorem fixed_execCoreMinu (h : Hdr) (o : BitVec 16) (src : Src) (s : State) :
    fixedNext (execCoreMinu h o src s) = some (fixed s) := by
  simp [execCoreMinu]
@[simp] theorem fixed_execCoreMaxu (h : Hdr) (o : BitVec 16) (src : Src) (s : State) :
    fixedNext (execCoreMaxu h o src s) = some (fixed s) := by
  simp [execCoreMaxu]
@[simp] theorem fixed_cmpInst (j : Nat) (h : Hdr) (o : BitVec 16) (src : Src) (f : Nat → Nat → Bool) (s : State) :
    fixedNext (cmpInst j h o src f s) = some (fixed s) := by
  simp [cmpInst]
@[simp] theorem fixed_execCoreCeq (h : Hdr) (o : BitVec 16) (src : Src) (s : State) :
    fixedNext (execCoreCeq h o src s) = some (fixed s) := by
  simp [execCoreCeq]
@[simp] theorem fixed_execCoreCne (h : Hdr) (o : BitVec 16) (src : Src) (s : State) :
    fixedNext (execCoreCne h o src s) = some (fixed s) := by
  simp [execCoreCne]
@[simp] theorem fixed_execCoreClt (h : Hdr) (o : BitVec 16) (src : Src) (s : State) :
    fixedNext (execCoreClt h o src s) = some (fixed s) := by
  simp [execCoreClt]
@[simp] theorem fixed_execCoreCltu (h : Hdr) (o : BitVec 16) (src : Src) (s : State) :
    fixedNext (execCoreCltu h o src s) = some (fixed s) := by
  simp [execCoreCltu]
@[simp] theorem fixed_execCoreCle (h : Hdr) (o : BitVec 16) (src : Src) (s : State) :
    fixedNext (execCoreCle h o src s) = some (fixed s) := by
  simp [execCoreCle]
@[simp] theorem fixed_execCoreCleu (h : Hdr) (o : BitVec 16) (src : Src) (s : State) :
    fixedNext (execCoreCleu h o src s) = some (fixed s) := by
  simp [execCoreCleu]

@[simp] theorem fixed_regInst (op : Nat) (u : Iss) (h : Hdr) (o : BitVec 16) (legal : Bool) (body : Ins → State → Did) (s : State)
    (hbody : ∀ i t, fixed (body i t).s = fixed t) :
    fixedNext (regInst op u h o legal body s) = some (fixed s) := by
  simp [regInst, hbody]

@[simp] theorem fixed_execCoreSel (h : Hdr) (o : BitVec 16) (s : State) : fixedNext (execCoreSel h o s) = some (fixed s) := by
  simp [execCoreSel]
@[simp] theorem fixed_arithEnd (x : Ins) (d : Nat) (r : FRes) (n hold lat : Nat) (s : State) :
    fixed (arithEnd x d r n hold lat s).s = fixed s := by
  unfold arithEnd
  (repeat' split) <;> simp
@[simp] theorem fixed_divInst (op : Nat) (h : Hdr) (o : BitVec 16) (f : Nat → Nat → FRes) (s : State) :
    fixedNext (divInst op h o f s) = some (fixed s) := by
  simp [divInst]
@[simp] theorem fixed_execCoreDiv (h : Hdr) (o : BitVec 16) (s : State) : fixedNext (execCoreDiv h o s) = some (fixed s) := by
  simp [execCoreDiv]
@[simp] theorem fixed_execCoreDivu (h : Hdr) (o : BitVec 16) (s : State) : fixedNext (execCoreDivu h o s) = some (fixed s) := by
  simp [execCoreDivu]
@[simp] theorem fixed_execCoreRem (h : Hdr) (o : BitVec 16) (s : State) : fixedNext (execCoreRem h o s) = some (fixed s) := by
  simp [execCoreRem]
@[simp] theorem fixed_execCoreRemu (h : Hdr) (o : BitVec 16) (s : State) : fixedNext (execCoreRemu h o s) = some (fixed s) := by
  simp [execCoreRemu]
@[simp] theorem fixed_mulInst (op : Nat) (h : Hdr) (o : BitVec 16) (f : Nat → Nat → Nat → Nat) (s : State) :
    fixedNext (mulInst op h o f s) = some (fixed s) := by
  simp [mulInst]
@[simp] theorem fixed_execCoreMul (h : Hdr) (o : BitVec 16) (s : State) : fixedNext (execCoreMul h o s) = some (fixed s) := by
  simp [execCoreMul]
@[simp] theorem fixed_execCoreMulu (h : Hdr) (o : BitVec 16) (s : State) : fixedNext (execCoreMulu h o s) = some (fixed s) := by
  simp [execCoreMulu]
@[simp] theorem fixed_execCoreMac (h : Hdr) (o : BitVec 16) (s : State) : fixedNext (execCoreMac h o s) = some (fixed s) := by
  simp [execCoreMac]
@[simp] theorem fixed_execCoreMacu (h : Hdr) (o : BitVec 16) (s : State) : fixedNext (execCoreMacu h o s) = some (fixed s) := by
  simp [execCoreMacu]
@[simp] theorem fixed_execCoreMfq (h : Hdr) (o : BitVec 16) (s : State) : fixedNext (execCoreMfq h o s) = some (fixed s) := by
  simp [execCoreMfq]
@[simp] theorem fixed_execCoreMfs (h : Hdr) (o : BitVec 16) (s : State) : fixedNext (execCoreMfs h o s) = some (fixed s) := by
  simp [execCoreMfs]
@[simp] theorem fixed_specialWrite (i n v b : Nat) (s : State) : fixed (specialWrite i n v b s) = fixed s := by
  simp only [specialWrite]
  split <;> simp
@[simp] theorem fixed_execCoreMts (h : Hdr) (o : BitVec 16) (s : State) : fixedNext (execCoreMts h o s) = some (fixed s) := by
  simp [execCoreMts]
@[simp] theorem fixed_branchEnd (x : Ins) (taken : Bool) (d : Disp) (s : State) : fixed (branchEnd x taken d s).s = fixed s := by
  simp only [branchEnd]
  split <;> simp

@[simp] theorem fixed_branchInst (op : Nat) (ws : List Nat) (h : Hdr) (r : Byte) (d : Disp) (body : Nat → Ins → State → Did) (s : State)
    (hbody : ∀ r i t, fixed (body r i t).s = fixed t) :
    fixedNext (branchInst op ws h r d body s) = some (fixed s) := by
  simp [branchInst, hbody]

@[simp] theorem fixed_execCoreBz (h : Hdr) (r : Byte) (d : Disp) (s : State) :
    fixedNext (execCoreBz h r d s) = some (fixed s) := by
  simp [execCoreBz]
@[simp] theorem fixed_execCoreBnz (h : Hdr) (r : Byte) (d : Disp) (s : State) :
    fixedNext (execCoreBnz h r d s) = some (fixed s) := by
  simp [execCoreBnz]

/-- The effect of DBNZ that its `branchInst` runs. -/
def dbnzBody (d : BitVec 16) (a : Nat) (x : Ins) (s : State) : Did :=
  let v := (opSub (gGet x.i a s) 1).v
  branchEnd x (v != 0) (.d16 d) (gSet x.i a v s)

theorem execCoreDbnz_eq (h : Hdr) (r : Byte) (d : BitVec 16) (s : State) :
    execCoreDbnz h r d s = branchInst 0x88 (gr r.toNat) h r (.d16 d) (dbnzBody d) s := rfl

theorem fixed_branchEnd_gSet (a : Nat) (d : BitVec 16) (x : Ins) (s : State) :
    fixed (branchEnd x ((opSub (gGet x.i a s) 1).v != 0) (.d16 d) (gSet x.i a (opSub (gGet x.i a s) 1).v s)).s = fixed s := by simp

theorem fixed_dbnzBody (d : BitVec 16) (a : Nat) (x : Ins) (s : State) : fixed (dbnzBody d a x s).s = fixed s :=
  fixed_branchEnd_gSet a d x s

@[simp] theorem fixed_execCoreDbnz (h : Hdr) (r : Byte) (d : BitVec 16) (s : State) :
    fixedNext (execCoreDbnz h r d s) = some (fixed s) :=
  (execCoreDbnz_eq h r d s) ▸ fixed_branchInst _ _ _ _ _ _ _ (fixed_dbnzBody d)

@[simp] theorem fixed_execCoreJmp (h : Hdr) (d : Word) (s : State) :
    fixedNext (execCoreJmp h d s) = some (fixed s) := by simp [execCoreJmp]
@[simp] theorem fixed_execCoreCall (h : Hdr) (d : Word) (s : State) : fixedNext (execCoreCall h d s) = some (fixed s) := by
  simp [execCoreCall]
@[simp] theorem fixed_execCoreJr (h : Hdr) (o : BitVec 16) (s : State) : fixedNext (execCoreJr h o s) = some (fixed s) := by
  simp [execCoreJr]
@[simp] theorem fixed_execCoreJalr (h : Hdr) (o : BitVec 16) (s : State) : fixedNext (execCoreJalr h o s) = some (fixed s) := by
  simp [execCoreJalr]

/-! ### Machine/IsaMem.lean -/

@[simp] theorem fixed_loadInst (op : Nat) (h : Hdr) (o : BitVec 16) (d : Disp) (w : Allows) (f : Nat → Nat → Nat) (s : State) :
    fixedNext (loadInst op h o d w f s) = some (fixed s) := by
  unfold loadInst
  refine fixed_runInst _ _ _ _ _ _ fun x t => ?_
  extract_lets a
  split
  · simp
  · split
    · next u hu => simp [fixed_of_snd hu (fixed_coreRead _ _ _ _)]
    · next v u hu => simp [fixed_of_snd hu (fixed_coreRead _ _ _ _)]

@[simp] theorem fixed_execCoreLd (h : Hdr) (o : BitVec 16) (d : Disp) (s : State) :
    fixedNext (execCoreLd h o d s) = some (fixed s) := by
  simp [execCoreLd]
@[simp] theorem fixed_execCoreLds (h : Hdr) (o : BitVec 16) (d : Disp) (s : State) :
    fixedNext (execCoreLds h o d s) = some (fixed s) := by
  simp [execCoreLds]

@[simp] theorem fixed_slotWrite (i k : Nat) (a n : Nat) (f : State → Bool × State) (s : State)
    (hf : ∀ t, fixed (f t).2 = fixed t) :
    fixed (slotWrite i k a n f s).2 = fixed s := by
  simp only [slotWrite]; (repeat' split) <;> simp_all

@[simp] theorem fixed_storeEnd (x : Ins) (a n v : Nat) (s : State) : fixed (storeEnd x a n v s).s = fixed s := by
  have h : fixed (if slotDenied (cGet x.i (authReg x.pre) s) a n && isHost x.i then (true, postedError x.i a s)
      else storeWrite x.i a n v x.b s).2 = fixed s := by split <;> simp
  unfold storeEnd
  split
  · simp
  · split
    · next t ht => simp [fixed_of_snd ht h]
    · next t ht => simp [fixed_of_snd ht h]

@[simp] theorem fixed_execCoreSt (h : Hdr) (o : BitVec 16) (d : Disp) (s : State) :
    fixedNext (execCoreSt h o d s) = some (fixed s) := by
  simp [execCoreSt]
@[simp] theorem fixed_execCoreSti (h : Hdr) (o d : BitVec 16) (imm : Word) (s : State) :
    fixedNext (execCoreSti h o d imm s) = some (fixed s) := by
  simp [execCoreSti]

@[simp] theorem fixed_atomicInst (op : Nat) (h : Hdr) (o d : BitVec 16) (f : Nat → Nat → Nat → Option Nat) (s : State) :
    fixedNext (atomicInst op h o d f s) = some (fixed s) := by
  unfold atomicInst
  refine fixed_runInst _ _ _ _ _ _ fun x t => ?_
  extract_lets a
  split
  · simp
  · split
    · simp
    · split
      · next u hu => simp [fixed_of_snd hu (fixed_coreRead _ _ _ _)]
      · next v u hu =>
        have h := fixed_of_snd hu (fixed_coreRead _ _ _ _)
        extract_lets w
        have hw : fixed w.2 = fixed u := by
          simp only [w]
          split
          · exact fixed_slotWrite _ _ _ _ _ _ fun _ => fixed_atomicWrite _ _ _ _ _ _
          · rfl
        clear_value w
        split <;> simp_all

@[simp] theorem fixed_execCoreSwap (h : Hdr) (o d : BitVec 16) (s : State) :
    fixedNext (execCoreSwap h o d s) = some (fixed s) := by
  simp [execCoreSwap]
@[simp] theorem fixed_execCoreCas (h : Hdr) (o d : BitVec 16) (s : State) : fixedNext (execCoreCas h o d s) = some (fixed s) := by
  simp [execCoreCas]
@[simp] theorem fixed_execCoreAmadd (h : Hdr) (o d : BitVec 16) (s : State) :
    fixedNext (execCoreAmadd h o d s) = some (fixed s) := by
  simp [execCoreAmadd]
@[simp] theorem fixed_execCoreAmand (h : Hdr) (o d : BitVec 16) (s : State) :
    fixedNext (execCoreAmand h o d s) = some (fixed s) := by
  simp [execCoreAmand]
@[simp] theorem fixed_execCoreAmor (h : Hdr) (o d : BitVec 16) (s : State) :
    fixedNext (execCoreAmor h o d s) = some (fixed s) := by
  simp [execCoreAmor]

/-! ### Machine/IsaBit.lean -/

@[simp] theorem fixed_bitWrite (i : Nat) (p : BitPlace) (v : Bool) (s : State) : fixed (bitWrite i p v s) = fixed s := by
  simp only [bitWrite]
  split <;> simp

@[simp] theorem fixed_bitInst (j : Nat) (h : Hdr) (o : BitVec 16) (at_ : BitAddr) (ps : List Nat) (body : Ins → BitPlace → State → Did)
    (s : State) (hbody : ∀ x p t, fixed (body x p t).s = fixed t) : fixedNext (bitInst j h o at_ ps body s) = some (fixed s) := by
  unfold bitInst
  refine fixed_runInst _ _ _ _ _ _ fun x t => ?_
  extract_lets b
  split <;> simp [hbody]

@[simp] theorem fixed_execCoreBset (h : Hdr) (o : BitVec 16) (at_ : BitAddr) (s : State) :
    fixedNext (execCoreBset h o at_ s) = some (fixed s) := by
  simp [execCoreBset]
@[simp] theorem fixed_execCoreBclr (h : Hdr) (o : BitVec 16) (at_ : BitAddr) (s : State) :
    fixedNext (execCoreBclr h o at_ s) = some (fixed s) := by
  simp [execCoreBclr]
@[simp] theorem fixed_execCoreBnot (h : Hdr) (o : BitVec 16) (at_ : BitAddr) (s : State) :
    fixedNext (execCoreBnot h o at_ s) = some (fixed s) := by
  simp [execCoreBnot]
@[simp] theorem fixed_execCoreBld (h : Hdr) (o : BitVec 16) (at_ : BitAddr) (s : State) :
    fixedNext (execCoreBld h o at_ s) = some (fixed s) := by
  simp [execCoreBld]
@[simp] theorem fixed_execCoreBst (h : Hdr) (o : BitVec 16) (at_ : BitAddr) (s : State) :
    fixedNext (execCoreBst h o at_ s) = some (fixed s) := by
  simp [execCoreBst]
@[simp] theorem fixed_execCoreBtas (h : Hdr) (o : BitVec 16) (at_ : BitAddr) (s : State) :
    fixedNext (execCoreBtas h o at_ s) = some (fixed s) := by
  simp [execCoreBtas]

@[simp] theorem fixed_bitPair (op : Nat) (h : Hdr) (o : BitVec 16) (ps : List Nat) (f : Bool → Bool → Bool) (s : State) :
    fixedNext (bitPair op h o ps f s) = some (fixed s) := by
  unfold bitPair
  refine fixed_runInst _ _ _ _ _ _ fun x t => ?_
  extract_lets a b
  split
  · simp
  · split <;> simp

@[simp] theorem fixed_execCoreBmov (h : Hdr) (o : BitVec 16) (s : State) : fixedNext (execCoreBmov h o s) = some (fixed s) := by
  simp [execCoreBmov]
@[simp] theorem fixed_execCoreBand (h : Hdr) (o : BitVec 16) (s : State) : fixedNext (execCoreBand h o s) = some (fixed s) := by
  simp [execCoreBand]
@[simp] theorem fixed_execCoreBor (h : Hdr) (o : BitVec 16) (s : State) : fixedNext (execCoreBor h o s) = some (fixed s) := by
  simp [execCoreBor]
@[simp] theorem fixed_execCoreBxor (h : Hdr) (o : BitVec 16) (s : State) : fixedNext (execCoreBxor h o s) = some (fixed s) := by
  simp [execCoreBxor]
@[simp] theorem fixed_bitsWrite (i b v : Nat) (s : State) : fixed (bitsWrite i b v s) = fixed s := by simp [bitsWrite]

@[simp] theorem fixed_execCoreBldw (h : Hdr) (o : BitVec 16) (s : State) : fixedNext (execCoreBldw h o s) = some (fixed s) := by
  unfold execCoreBldw
  refine fixed_runInst _ _ _ _ _ _ fun x t => ?_
  extract_lets b
  split <;> simp

@[simp] theorem fixed_execCoreBstw (h : Hdr) (o : BitVec 16) (s : State) : fixedNext (execCoreBstw h o s) = some (fixed s) := by
  unfold execCoreBstw
  refine fixed_runInst _ _ _ _ _ _ fun x t => ?_
  extract_lets b
  split <;> simp

/-! ### Machine/IsaBlock.lean -/

@[simp] theorem fixed_stepReg (i r n : Nat) (o : BitVec 16) (s : State) : fixed (stepReg i r n o s) = fixed s := by simp [stepReg]
@[simp] theorem fixed_countDown (i : Nat) (o : BitVec 16) (s : State) : fixed (countDown i o s) = fixed s := by simp [countDown]

@[simp] theorem fixed_elemRead (i k a n : Nat) (s : State) : fixed (elemRead i k a n s).2.2 = fixed s := by
  unfold elemRead
  split
  · rfl
  · split
    · next t ht => simp [fixed_of_snd ht (fixed_coreRead _ _ _ _)]
    · next v t ht => simp [fixed_of_snd ht (fixed_coreRead _ _ _ _)]

@[simp] theorem fixed_elemWrite (i k a n v b : Nat) (s : State) : fixed (elemWrite i k a n v b s).2 = fixed s := by
  unfold elemWrite
  have h : fixed (slotWrite i k a n (coreWrite i a n v b) s).2 = fixed s := fixed_slotWrite _ _ _ _ _ _ fun _ => fixed_coreWrite _ _ _ _ _ _
  split
  · rfl
  · split
    · next t ht => simp [fixed_of_snd ht h]
    · next t ht => simp [fixed_of_snd ht h]

@[simp] theorem fixed_element (i : Nat) (r : BlockRun) (s : State) : fixed (element i r s).s = fixed s := by
  unfold element
  extract_lets n o a d
  cases r.kind with
  | bcpy =>
    dsimp only
    split
    · next ht => exact fixed_of_third ht (fixed_elemRead _ _ _ _ _)
    · next v t ht =>
      have h := fixed_of_third ht (fixed_elemRead _ _ _ _ _)
      split
      · next hu => exact (fixed_of_snd hu (fixed_elemWrite _ _ _ _ _ _ _)).trans h
      · next hu => simp [fixed_of_snd hu (fixed_elemWrite _ _ _ _ _ _ _), h]
  | bfil =>
    dsimp only
    split
    · next hu => exact fixed_of_snd hu (fixed_elemWrite _ _ _ _ _ _ _)
    · next hu => simp [fixed_of_snd hu (fixed_elemWrite _ _ _ _ _ _ _)]
  | tsrch =>
    dsimp only
    split
    · next ht => exact fixed_of_third ht (fixed_elemRead _ _ _ _ _)
    · next v t ht =>
      have h := fixed_of_third ht (fixed_elemRead _ _ _ _ _)
      split <;> simp [h]
  | bcrc =>
    dsimp only
    split
    · next ht => exact fixed_of_third ht (fixed_elemRead _ _ _ _ _)
    · next v t ht => simp [fixed_of_third ht (fixed_elemRead _ _ _ _ _)]

@[simp] theorem fixed_blockEnd (i pc n : Nat) (r : BlockRun) (s : State) :
    fixed (blockEnd i pc n r s) = fixed s := by simp [blockEnd]

@[simp] theorem fixed_blockLeaves (i : Nat) (r : BlockRun) (s : State) : fixed (blockLeaves i r s) = fixed s := by
  unfold blockLeaves
  extract_lets t
  have h : fixed t = fixed s := fixed_blockEnd _ _ _ _ _
  clear_value t
  split
  · simp [h]
  · cases hw : takeWaiting i r.pc r.at_ t with
    | none => exact h
    | some u => exact (fixed_takeWaiting hw).trans h

@[simp] theorem fixed_blockGo (i m : Nat) (r : BlockRun) (s : State) : fixed (blockGo i m r s).2 = fixed s := by
  induction m generalizing r s with
  | zero => simp [blockGo]
  | succ m ih =>
    unfold blockGo
    split
    · simp
    · split
      · simp
      · extract_lets seen e fin ends
        have h : fixed e.s = fixed s := fixed_element _ _ _
        clear_value e ends
        split
        · simp
        · split
          · simp [h]
          · split
            · simp [h]
            · exact (ih _ _).trans h

@[simp] theorem fixed_blockInst (op : Nat) (kind : BlockKind) (h : Hdr) (o : BitVec 16) (k : Byte) (stop : Option Nat) (legal : Bool) (s : State) :
    fixedNext (blockInst op kind h o k stop legal s) = some (fixed s) := by
  simp [blockInst]

@[simp] theorem fixed_blocksGoOn (s : State) : fixed (blocksGoOn s) = fixed s := by
  unfold blocksGoOn
  refine fixed_forAll _ _ _ fun i t => ?_
  split
  · split
    · rfl
    · split
      · next u hu =>
        have h := fixed_of_snd hu (fixed_blockGo _ _ _ _)
        split
        · simp [h]
        · split <;> simp [h]
      · next u hu => exact fixed_of_snd hu (fixed_blockGo _ _ _ _)
  · rfl

@[simp] theorem fixed_execCoreBcpy (h : Hdr) (o : BitVec 16) (k : Byte) (stop : Option Nat) (s : State) :
    fixedNext (execCoreBcpy h o k stop s) = some (fixed s) := by
  simp [execCoreBcpy]
@[simp] theorem fixed_execCoreBfil (h : Hdr) (o : BitVec 16) (k : Byte) (stop : Option Nat) (s : State) :
    fixedNext (execCoreBfil h o k stop s) = some (fixed s) := by
  simp [execCoreBfil]
@[simp] theorem fixed_execCoreTsrch (h : Hdr) (o : BitVec 16) (k : Byte) (stop : Option Nat) (s : State) :
    fixedNext (execCoreTsrch h o k stop s) = some (fixed s) := by
  simp [execCoreTsrch]
@[simp] theorem fixed_execCoreBcrc (h : Hdr) (o : BitVec 16) (k : Byte) (stop : Option Nat) (s : State) :
    fixedNext (execCoreBcrc h o k stop s) = some (fixed s) := by
  simp [execCoreBcrc]

/-! ### Machine/IsaCap.lean -/

@[simp] theorem fixed_capFails (d k : Nat) (s : State) : fixed (capFails d k s).s = fixed s := by simp [capFails]

@[simp] theorem fixed_execCoreCld (h : Hdr) (o d : BitVec 16) (s : State) : fixedNext (execCoreCld h o d s) = some (fixed s) := by
  unfold execCoreCld
  refine fixed_runInst _ _ _ _ _ _ fun x t => ?_
  split
  · simp
  · extract_lets a
    split
    · rfl
    · split
      · next u hu => simp [fixed_of_snd hu (fixed_coreReadCap _ _ _)]
      · next k u hu => simp [fixed_of_snd hu (fixed_coreReadCap _ _ _)]

@[simp] theorem fixed_execCoreCst (h : Hdr) (o d : BitVec 16) (s : State) : fixedNext (execCoreCst h o d s) = some (fixed s) := by
  unfold execCoreCst
  refine fixed_runInst _ _ _ _ _ _ fun x t => ?_
  extract_lets k a
  have hw : fixed (slotWrite x.i (authReg x.pre) a 16 (coreWriteCap x.i a k x.b) t).2 = fixed t :=
    fixed_slotWrite _ _ _ _ _ _ fun _ => fixed_coreWriteCap _ _ _ _ _
  split
  · rfl
  · split
    · rfl
    · split
      · rfl
      · split
        · next u hu => split <;> simp [fixed_of_snd hu hw]
        · next u hu => simp [fixed_of_snd hu hw]

@[simp] theorem fixed_capInst (op : Nat) (rs : List Nat) (h : Hdr) (o : BitVec 16) (legal : Bool) (n hold lat : Nat)
    (f : Nat → State → Cap ⊕ (Nat × Nat)) (s : State) : fixedNext (capInst op rs h o legal n hold lat f s) = some (fixed s) := by
  unfold capInst
  refine fixed_regInst _ _ _ _ _ _ _ fun x t => ?_
  split
  · simp
  · split <;> simp

@[simp] theorem fixed_execCoreCmov (h : Hdr) (o : BitVec 16) (s : State) : fixedNext (execCoreCmov h o s) = some (fixed s) := by
  simp [execCoreCmov]
@[simp] theorem fixed_execCoreCbase (h : Hdr) (o : BitVec 16) (s : State) : fixedNext (execCoreCbase h o s) = some (fixed s) := by
  simp [execCoreCbase]
@[simp] theorem fixed_execCoreClen (h : Hdr) (o : BitVec 16) (s : State) : fixedNext (execCoreClen h o s) = some (fixed s) := by
  simp [execCoreClen]
@[simp] theorem fixed_execCoreCperm (h : Hdr) (o : BitVec 16) (s : State) : fixedNext (execCoreCperm h o s) = some (fixed s) := by
  simp [execCoreCperm]
@[simp] theorem fixed_execCoreCseal (h : Hdr) (o : BitVec 16) (s : State) : fixedNext (execCoreCseal h o s) = some (fixed s) := by
  simp [execCoreCseal]
@[simp] theorem fixed_execCoreCunseal (h : Hdr) (o : BitVec 16) (s : State) :
    fixedNext (execCoreCunseal h o s) = some (fixed s) := by
  simp [execCoreCunseal]
@[simp] theorem fixed_execCoreCget (h : Hdr) (o : BitVec 16) (s : State) : fixedNext (execCoreCget h o s) = some (fixed s) := by
  simp only [execCoreCget]
  split <;> simp

@[simp] theorem fixed_execCoreCjr (h : Hdr) (o : BitVec 16) (s : State) : fixedNext (execCoreCjr h o s) = some (fixed s) := by
  unfold execCoreCjr
  refine fixed_regInst _ _ _ _ _ _ _ fun x t => ?_
  extract_lets k g d
  clear_value d
  split <;> simp

@[simp] theorem fixed_execCoreCclr (h : Hdr) (o : BitVec 16) (s : State) : fixedNext (execCoreCclr h o s) = some (fixed s) := by
  simp [execCoreCclr]

/-! ### Machine/IsaFloat.lean -/

@[simp] theorem fixed_floatInst (e : Nat) (h : Hdr) (o : BitVec 16) (legal : Bool) (imm : Option Word) (n lat : Nat) (stall : Bool) (f : FIn → FRes) (s : State) :
    fixedNext (floatInst e h o legal imm n lat stall f s) = some (fixed s) := by
  simp [floatInst]
@[simp] theorem fixed_execCoreFadd (h : Hdr) (o : BitVec 16) (s : State) : fixedNext (execCoreFadd h o s) = some (fixed s) := by
  simp [execCoreFadd]
@[simp] theorem fixed_execCoreFsub (h : Hdr) (o : BitVec 16) (s : State) : fixedNext (execCoreFsub h o s) = some (fixed s) := by
  simp [execCoreFsub]
@[simp] theorem fixed_execCoreFmul (h : Hdr) (o : BitVec 16) (s : State) : fixedNext (execCoreFmul h o s) = some (fixed s) := by
  simp [execCoreFmul]
@[simp] theorem fixed_execCoreFdiv (h : Hdr) (o : BitVec 16) (s : State) : fixedNext (execCoreFdiv h o s) = some (fixed s) := by
  simp [execCoreFdiv]
@[simp] theorem fixed_execCoreFsqrt (h : Hdr) (o : BitVec 16) (s : State) : fixedNext (execCoreFsqrt h o s) = some (fixed s) := by
  simp [execCoreFsqrt]
@[simp] theorem fixed_execCoreFmin (h : Hdr) (o : BitVec 16) (s : State) : fixedNext (execCoreFmin h o s) = some (fixed s) := by
  simp [execCoreFmin]
@[simp] theorem fixed_execCoreFmax (h : Hdr) (o : BitVec 16) (s : State) : fixedNext (execCoreFmax h o s) = some (fixed s) := by
  simp [execCoreFmax]
@[simp] theorem fixed_signInst (e : Nat) (h : Hdr) (o : BitVec 16) (f : Nat → Nat) (s : State) :
    fixedNext (signInst e h o f s) = some (fixed s) := by
  simp [signInst]
@[simp] theorem fixed_execCoreFneg (h : Hdr) (o : BitVec 16) (s : State) : fixedNext (execCoreFneg h o s) = some (fixed s) := by
  simp [execCoreFneg]
@[simp] theorem fixed_execCoreFabs (h : Hdr) (o : BitVec 16) (s : State) : fixedNext (execCoreFabs h o s) = some (fixed s) := by
  simp [execCoreFabs]
@[simp] theorem fixed_execCoreFma (h : Hdr) (o : BitVec 16) (s : State) : fixedNext (execCoreFma h o s) = some (fixed s) := by
  simp [execCoreFma]
@[simp] theorem fixed_execCoreFceq (h : Hdr) (o : BitVec 16) (s : State) : fixedNext (execCoreFceq h o s) = some (fixed s) := by
  simp [execCoreFceq]
@[simp] theorem fixed_execCoreFclt (h : Hdr) (o : BitVec 16) (s : State) : fixedNext (execCoreFclt h o s) = some (fixed s) := by
  simp [execCoreFclt]
@[simp] theorem fixed_execCoreFcle (h : Hdr) (o : BitVec 16) (s : State) : fixedNext (execCoreFcle h o s) = some (fixed s) := by
  simp [execCoreFcle]
@[simp] theorem fixed_execCoreFcun (h : Hdr) (o : BitVec 16) (s : State) : fixedNext (execCoreFcun h o s) = some (fixed s) := by
  simp [execCoreFcun]
@[simp] theorem fixed_execCoreFcvtif (h : Hdr) (o : BitVec 16) (s : State) :
    fixedNext (execCoreFcvtif h o s) = some (fixed s) := by
  simp [execCoreFcvtif]
@[simp] theorem fixed_execCoreFcvtfi (h : Hdr) (o : BitVec 16) (s : State) :
    fixedNext (execCoreFcvtfi h o s) = some (fixed s) := by
  simp [execCoreFcvtfi]
@[simp] theorem fixed_execCoreFcvtqf (h : Hdr) (o : BitVec 16) (s : State) :
    fixedNext (execCoreFcvtqf h o s) = some (fixed s) := by
  simp [execCoreFcvtqf]
@[simp] theorem fixed_execCoreFcvtfq (h : Hdr) (o : BitVec 16) (s : State) :
    fixedNext (execCoreFcvtfq h o s) = some (fixed s) := by
  simp [execCoreFcvtfq]
@[simp] theorem fixed_execCoreFaddi (h : Hdr) (o : BitVec 16) (imm : Word) (s : State) :
    fixedNext (execCoreFaddi h o imm s) = some (fixed s) := by
  simp [execCoreFaddi]
@[simp] theorem fixed_execCoreFmuli (h : Hdr) (o : BitVec 16) (imm : Word) (s : State) :
    fixedNext (execCoreFmuli h o imm s) = some (fixed s) := by
  simp [execCoreFmuli]
@[simp] theorem fixed_execCoreFclti (h : Hdr) (o : BitVec 16) (imm : Word) (s : State) :
    fixedNext (execCoreFclti h o imm s) = some (fixed s) := by
  simp [execCoreFclti]

/-! ### Machine/Net.lean -/

@[simp] theorem fixed_fetchDesc (q : Nat) (s : State) : fixed (fetchDesc q s).2 = fixed s := by
  unfold fetchDesc
  extract_lets a
  split
  · simp
  · split
    · next t ht => simp [fixed_of_third ht (fixed_readParts _ _ _)]
    · next t ht => exact fixed_of_third ht (fixed_readParts _ _ _)

@[simp] theorem fixed_bufRead (q a n : Nat) (s : State) : fixed (bufRead q a n s).2 = fixed s := by
  unfold bufRead
  split
  · simp
  · split
    · next t ht => simp [fixed_of_third ht (fixed_readParts _ _ _)]
    · next t ht => exact fixed_of_third ht (fixed_readParts _ _ _)

@[simp] theorem fixed_bufWrite (q a n v : Nat) (s : State) : fixed (bufWrite q a n v s).2 = fixed s := by
  unfold bufWrite
  split
  · simp
  · split
    · next t ht => simp [fixed_of_snd ht (fixed_writePartsUnder _ _ _ _ _ _)]
    · next t ht => exact fixed_of_snd ht (fixed_writePartsUnder _ _ _ _ _ _)

@[simp] theorem fixed_pushHand (q : Nat) (h : Hand) (s : State) : fixed (pushHand q h s) = fixed s := by simp [pushHand]

@[simp] theorem fixed_zeroLens (q n : Nat) (s : State) : fixed (zeroLens q n s) = fixed s := by
  induction n generalizing s with
  | zero => rfl
  | succ n ih =>
    unfold zeroLens
    split
    · rfl
    · extract_lets a
      split
      · split
        · next t ht => exact fixed_of_snd ht (fixed_fetchDesc _ _)
        · next t ht => split <;> simp [ih, fixed_of_snd ht (fixed_fetchDesc _ _)]
      · rfl

@[simp] theorem fixed_qEvent (q detail i : Nat) (s : State) : fixed (qEvent q detail i s) = fixed s := by simp [qEvent]
@[simp] theorem fixed_qConsume (q : Nat) (s : State) : fixed (qConsume q s) = fixed s := by
  simp only [qConsume]
  split <;> simp

@[simp] theorem fixed_execQueueDescriptorComplete (q : Fin 40) (s : State) :
    fixedNext (execQueueDescriptorComplete q s) = some (fixed s) := by
  unfold execQueueDescriptorComplete
  extract_lets n
  split
  · rfl
  · extract_lets a
    split
    · simp
    · split
      · next t ht => simp [fixed_of_snd ht (fixed_writePartsUnder _ _ _ _ _ _)]
      · next t ht => simp [fixed_of_snd ht (fixed_writePartsUnder _ _ _ _ _ _)]

@[simp] theorem fixed_ethStamp (x : Int) (s : State) : fixed (ethStamp x s).2 = fixed s := by simp [ethStamp]

@[simp] theorem fixed_rxDeliver (q : Nat) (f : List Byte) (info : Nat) (stamp : Nat × Nat) (n : Nat) (s : State) :
    fixed (rxDeliver q f info stamp n s) = fixed s := by
  induction n generalizing s with
  | zero => rfl
  | succ n ih =>
    unfold rxDeliver
    extract_lets k
    split
    · exact (fixed_mk _ ..).trans (fixed_fcount _ _ _ _)
    · split
      · next t ht => exact fixed_of_snd ht (fixed_fetchDesc _ _)
      · next t ht =>
        have h := fixed_of_snd ht (fixed_fetchDesc _ _)
        extract_lets len
        split
        · simp [ih, h]
        · split
          · next u hu => exact (fixed_of_snd hu (fixed_bufWrite _ _ _ _ _)).trans h
          · next u hu => simp [fixed_of_snd hu (fixed_bufWrite _ _ _ _ _), h]

@[simp] theorem fixed_execEthFrameReceive (k : Fin 2) (frame : List Byte) (fcs : Bool) (fine : Fin 32) (s : State) :
    fixedNext (execEthFrameReceive k frame fcs fine s) = some (fixed s) := by
  simp [execEthFrameReceive]

@[simp] theorem fixed_txTry (k q fine n : Nat) (s : State) : fixed (txTry k q fine n s).2 = fixed s := by
  induction n generalizing s with
  | zero => rfl
  | succ n ih =>
    unfold txTry
    extract_lets m
    split
    · rfl
    · split
      · next t ht => exact fixed_of_snd ht (fixed_fetchDesc _ _)
      · next t ht =>
        have h := fixed_of_snd ht (fixed_fetchDesc _ _)
        extract_lets len ev launch
        split
        · simp [ih, h]
        · split
          · exact h
          · split
            · next u hu => exact (fixed_of_snd hu (fixed_bufRead _ _ _ _)).trans h
            · next v u hu =>
              have hu := (fixed_of_snd hu (fixed_bufRead _ _ _ _)).trans h
              simp [hu]

@[simp] theorem fixed_txFirst (k fine : Nat) (qs : List Nat) (s : State) : fixed (txFirst k fine qs s) = fixed s := by
  induction qs generalizing s with
  | nil => rfl
  | cons q qs ih =>
    unfold txFirst
    split
    · next t ht => exact fixed_of_snd ht (fixed_txTry _ _ _ _ _)
    · next t ht => exact (ih t).trans (fixed_of_snd ht (fixed_txTry _ _ _ _ _))

@[simp] theorem fixed_execEthFrameTransmit (k : Fin 2) (fine : Fin 32) (s : State) :
    fixedNext (execEthFrameTransmit k fine s) = some (fixed s) := by
  simp [execEthFrameTransmit]

@[simp] theorem fixed_canDeliver (k n v filter m : Nat) (s : State) : fixed (canDeliver k n v filter m s) = fixed s := by
  induction m generalizing s with
  | zero => rfl
  | succ m ih =>
    unfold canDeliver
    extract_lets q
    split
    · rfl
    · split
      · next t ht => exact fixed_of_snd ht (fixed_fetchDesc _ _)
      · next t ht =>
        have h := fixed_of_snd ht (fixed_fetchDesc _ _)
        extract_lets len
        split
        · simp [ih, h]
        · split
          · next u hu => exact (fixed_of_snd hu (fixed_bufWrite _ _ _ _ _)).trans h
          · next u hu => simp [fixed_of_snd hu (fixed_bufWrite _ _ _ _ _), h]

@[simp] theorem fixed_canReceive (k n v : Nat) (s : State) : fixed (canReceive k n v s) = fixed s := by
  simp only [canReceive]
  split <;> simp
@[simp] theorem fixed_execCanFrameReceive (k : Fin 4) (f : CanFrame) (s : State) :
    fixedNext (execCanFrameReceive k f s) = some (fixed s) := by
  simp [execCanFrameReceive]

@[simp] theorem fixed_canTry (k n : Nat) (s : State) : fixed (canTry k n s) = fixed s := by
  induction n generalizing s with
  | zero => rfl
  | succ n ih =>
    unfold canTry
    extract_lets q
    split
    · rfl
    · split
      · next t ht => exact fixed_of_snd ht (fixed_fetchDesc _ _)
      · next t ht =>
        have h := fixed_of_snd ht (fixed_fetchDesc _ _)
        extract_lets len ev bad
        have hb : ∀ u, fixed (bad u) = fixed u := fun u => by simp [bad, ih]
        clear_value bad
        split
        · simp [ih, h]
        · split
          · simp [hb, h]
          · split
            · exact h
            · split
              · next u hu => exact (fixed_of_snd hu (fixed_bufRead _ _ _ _)).trans h
              · next v u hu =>
                have hu := (fixed_of_snd hu (fixed_bufRead _ _ _ _)).trans h
                extract_lets fdf
                split
                · simp [hb, hu]
                · next w _ => split <;> simp [w, hu]

@[simp] theorem fixed_execCanFrameTransmit (k : Fin 4) (won : Bool) (s : State) :
    fixedNext (execCanFrameTransmit k won s) = some (fixed s) := by
  simp [execCanFrameTransmit]
@[simp] theorem fixed_pcieAnswer (a : PcieAnswer) (s : State) : fixed (pcieAnswer a s) = fixed s := by simp [pcieAnswer]
@[simp] theorem fixed_pcieRefuse (write : Bool) (window : Nat) (a : PcieAnswer) (s : State) :
    fixed (pcieRefuse write window a s) = fixed s := by
  simp [pcieRefuse]

@[simp] theorem fixed_execPcieInboundRequest (r : PcieRequest) (s : State) :
    fixedNext (execPcieInboundRequest r s) = some (fixed s) := by
  unfold execPcieInboundRequest
  extract_lets n o
  split
  · rfl
  · split
    · simp
    · split
      · simp
      · extract_lets base a
        split
        · simp
        · split
          · split <;> simp
          · split
            · simp
            · split
              · simp
              · split
                · next t ht => simp [fixed_of_third ht (fixed_readParts _ _ _)]
                · next t ht => simp [fixed_of_third ht (fixed_readParts _ _ _)]

@[simp] theorem fixed_readSectors (a lba : Nat) (lost : List Nat) (n i : Nat) (s : State) :
    fixed (readSectors a lba lost n i s).2 = fixed s := by
  induction n generalizing i s with
  | zero => rfl
  | succ n ih =>
    unfold readSectors
    split
    · exact ih _ _
    · split
      · next t ht => exact (ih _ _).trans (fixed_of_snd ht (fixed_writePartsUnder _ _ _ _ _ _))
      · next t ht => exact fixed_of_snd ht (fixed_writePartsUnder _ _ _ _ _ _)

@[simp] theorem fixed_execNandRead (cws : List NandCodeword) (s : State) : fixedNext (execNandRead cws s) = some (fixed s) := by
  unfold execNandRead
  split
  · rfl
  · split
    · simp
    · split
      · simp
      · split
        · simp
        · extract_lets cws lost
          split
          next i t ht =>
          have h : fixed t = fixed s := (fixed_of_snd ht (fixed_readSectors _ _ _ _ _ _)).trans (by simp)
          split
          · simp [h]
          · split <;> simp [h]

@[simp] theorem fixed_writeSectors (a lba n i : Nat) (s : State) : fixed (writeSectors a lba n i s).2 = fixed s := by
  induction n generalizing i s with
  | zero => rfl
  | succ n ih =>
    unfold writeSectors
    split
    · next t ht => simp [ih, fixed_of_third ht (fixed_readParts _ _ _)]
    · next t ht => exact fixed_of_third ht (fixed_readParts _ _ _)

@[simp] theorem fixed_execNandWrite (turns : List (Option Nat)) (s : State) :
    fixedNext (execNandWrite turns s) = some (fixed s) := by
  unfold execNandWrite
  split
  · rfl
  · split
    · simp
    · split
      · simp
      · split
        · simp
        · split
          · simp
          · extract_lets n w
            have hw : fixed w = fixed s := fixed_forAll _ _ _ fun t u => by split <;> simp
            clear_value w
            split
            next i t ht =>
            have h : fixed t = fixed s := (fixed_of_snd ht (fixed_writeSectors _ _ _ _ _)).trans hw
            split
            · simp [h]
            · split <;> simp [h]

/-! ### Machine/Prefetch.lean -/

@[simp] theorem fixed_pcmRead (v i n : Nat) (s : State) : fixed (pcmRead v i n s).2 = fixed s := by
  unfold pcmRead
  extract_lets a
  split
  · rfl
  · split
    · rfl
    · split
      · split
        · next t ht => exact fixed_of_third ht (fixed_readEach _ _ _)
        · next t ht => exact fixed_of_third ht (fixed_readEach _ _ _)
      · split
        · next t ht => exact fixed_of_snd ht (fixed_busRead _ _ _ _)
        · next t ht => exact fixed_of_snd ht (fixed_busRead _ _ _ _)

@[simp] theorem fixed_execPcmFetch (v : Fin 32) (i : BitVec 24) (n : Fin 65) (s : State) :
    fixedNext (execPcmFetch v i n s) = some (fixed s) := by
  unfold execPcmFetch
  split
  · split
    · next t ht => simp [fixed_of_snd ht (fixed_pcmRead _ _ _ _)]
    · next t ht => simp [fixed_of_snd ht (fixed_pcmRead _ _ _ _)]
  · rfl

/-! ### Machine/Dispatch.lean -/

@[simp] theorem fixed_exec (i : Instr) (s : State) : fixedNext (exec i s) = some (fixed s) := by
  simp only [exec]
  split <;> simp

/-! ### Machine/IsaCode.lean -/

theorem fixed_aluCode (k : Nat) (h : Hdr) (o : BitVec 16) (src : Src) (s : State) :
    fixedNext (aluCode k h o src s) = some (fixed s) := by
  unfold aluCode
  split <;> simp

theorem fixed_compareCode (j : Nat) (h : Hdr) (o : BitVec 16) (src : Src) (s : State) :
    fixedNext (compareCode j h o src s) = some (fixed s) := by
  unfold compareCode
  split <;> simp

theorem fixed_bitCode (j : Nat) (h : Hdr) (o : BitVec 16) (b : BitAddr) (s : State) :
    fixedNext (bitCode j h o b s) = some (fixed s) := by
  unfold bitCode
  split <;> simp

theorem fixed_singleCode {c : Code} {h : Hdr} {f : Meaning} (hf : singleCode c h = some f) (s : State) :
    fixedNext (f s) = some (fixed s) := by
  unfold singleCode at hf
  extract_lets o at hf
  split at hf <;> simp only [Option.some.injEq, reduceCtorEq] at hf <;> subst hf <;> simp

theorem fixed_escapedCode {c : Code} {h : Hdr} {f : Meaning} (hf : escapedCode c h = some f) (s : State) :
    fixedNext (f s) = some (fixed s) := by
  unfold escapedCode at hf
  extract_lets o at hf
  split at hf <;> simp only [Option.some.injEq, reduceCtorEq] at hf <;> subst hf <;> simp

/-- A code's meaning is the one that its branch of the table names. -/
theorem fixed_of_some {m f : Meaning} (hm : ∀ s, fixedNext (m s) = some (fixed s)) (hf : some m = some f) (s : State) :
    fixedNext (f s) = some (fixed s) :=
  Option.some.inj hf ▸ hm s

theorem fixed_codeMeaning {c : Code} {h : Hdr} {f : Meaning} (hf : codeMeaning c h = some f) (s : State) :
    fixedNext (f s) = some (fixed s) := by
  unfold codeMeaning at hf
  extract_lets op at hf
  split_ifs at hf
  · exact fixed_of_some (fixed_aluCode _ _ _ _) hf s
  · exact fixed_of_some (fixed_compareCode _ _ _ _) hf s
  · exact fixed_of_some (fixed_aluCode _ _ _ _) hf s
  · exact fixed_of_some (fixed_aluCode _ _ _ _) hf s
  · exact fixed_of_some (fixed_compareCode _ _ _ _) hf s
  · exact fixed_of_some (fixed_compareCode _ _ _ _) hf s
  · exact fixed_of_some (fixed_bitCode _ _ _ _) hf s
  · exact fixed_of_some (fixed_bitCode _ _ _ _) hf s
  · exact fixed_escapedCode hf s
  · exact fixed_singleCode hf s

@[simp] theorem fixed_runCode (h : Hdr) (c : Code) (s : State) : fixed (runCode h c s) = fixed s := by
  unfold runCode
  split
  · next f hf => exact fixed_ran _ _ (fixed_codeMeaning hf s)
  · rfl

/-! ### Machine/Tick.lean -/

@[simp] theorem fixed_perform (i : Instr) (s : State) : fixed (perform i s) = fixed s := by
  have h := fixed_exec i s
  unfold perform
  split
  · next ht => rw [ht] at h; exact Option.some.inj h
  · rfl
  · rfl

@[simp] theorem fixed_settle (d : Due) (s : State) : fixed (settle d s) = fixed s := by
  simp only [settle]
  split <;> simp
@[simp] theorem fixed_settleDue (n : Nat) (s : State) : fixed (settleDue n s) = fixed s := by simp [settleDue]
@[simp] theorem fixed_endFrame (s : State) : fixed (endFrame s) = fixed s := by simp [endFrame]
@[simp] theorem fixed_sweepOn (s : State) : fixed (sweepOn s) = fixed s := by simp [sweepOn]

@[simp] theorem fixed_frameBoundary (s : State) : fixed (frameBoundary s) = fixed s := by
  unfold frameBoundary
  split
  · extract_lets t
    have h : fixed t = fixed s := fixed_forAll _ _ _ fun n u => by
      split
      · split <;> simp
      · rfl
    refine (fixed_forAll _ _ _ fun n u => ?_).trans h
    split
    · split <;> simp
    · rfl
  · rfl

@[simp] theorem fixed_deadTimes (before : Bool) (s : State) : fixed (deadTimes before s) = fixed s := by simp [deadTimes]
@[simp] theorem fixed_legOn (l : Nat) (s : State) : fixed (legOn l s) = fixed s := by simp [legOn]
@[simp] theorem fixed_legMidTest (l : Nat) (s : State) : fixed (legMidTest l s) = fixed s := by simp [legMidTest]
@[simp] theorem fixed_legCompares (l : Nat) (s : State) : fixed (legCompares l s) = fixed s := by simp [legCompares]

@[simp] theorem fixed_releaseAll (n : Fin 4) (k : Nat) (s : State) : fixed (releaseAll n k s) = fixed s := by
  induction k generalizing s with
  | zero => rfl
  | succ k ih =>
    unfold releaseAll
    split
    · simp [ih]
    · rfl

@[simp] theorem fixed_tripLevels (s : State) : fixed (tripLevels s) = fixed s := by
  unfold tripLevels
  split
  · rfl
  · refine fixed_forAll _ _ _ fun l t => ?_
    split
    · split <;> simp
    · rfl

@[simp] theorem fixed_timerOn (e : Nat × Bool) (s : State) : fixed (timerOn e s) = fixed s := by simp [timerOn]
@[simp] theorem fixed_timerCompares (t : Nat) (s : State) : fixed (timerCompares t s) = fixed s := by simp [timerCompares]
@[simp] theorem fixed_timerResetsNow (s : State) : fixed (timerResetsNow s) = fixed s := by simp [timerResetsNow]
@[simp] theorem fixed_fabricEvents (s : State) : fixed (fabricEvents s) = fixed s := by simp [fabricEvents]
@[simp] theorem fixed_sdfSlots (s : State) : fixed (sdfSlots s) = fixed s := by simp [sdfSlots]
@[simp] theorem fixed_qepSlots (s : State) : fixed (qepSlots s) = fixed s := by simp [qepSlots]
@[simp] theorem fixed_seuSlots (s : State) : fixed (seuSlots s) = fixed s := by simp [seuSlots]
@[simp] theorem fixed_sarSlots (s : State) : fixed (sarSlots s) = fixed s := by simp [sarSlots]
@[simp] theorem fixed_lpeFires (s : State) : fixed (lpeFires s) = fixed s := by simp [lpeFires]
@[simp] theorem fixed_heldOn (s : State) : fixed (heldOn s) = fixed s := by simp [heldOn]
@[simp] theorem fixed_lcdFires (s : State) : fixed (lcdFires s) = fixed s := by simp [lcdFires]

@[simp] theorem fixed_clockLosses (s : State) : fixed (clockLosses s) = fixed s :=
  fixed_forAll _ _ _ fun e t => by
    split
    · split <;> simp
    · rfl

@[simp] theorem fixed_padsOn (s : State) : fixed (padsOn s) = fixed s := by
  unfold padsOn
  split
  · exact (fixed_forAll _ _ _ fun _ _ => fixed_perform _ _).trans (fixed_forAll _ _ _ fun _ _ => fixed_perform _ _)
  · rfl

@[simp] theorem fixed_linkOn (s : State) : fixed (linkOn s) = fixed s := by simp [linkOn]
@[simp] theorem fixed_latchReports (s : State) : fixed (latchReports s) = fixed s := by
  simp only [latchReports]
  split <;> simp

@[simp] theorem fixed_memoryOn (s : State) : fixed (memoryOn s) = fixed s := by
  unfold memoryOn
  extract_lets t u
  have h : fixed u = fixed s := (fixed_storeTick _).trans (fixed_forAll _ _ _ fun w v => by
    extract_lets n
    split <;> simp)
  clear_value u
  split <;> simp [h]

@[simp] theorem fixed_gatesOn (k : Fin 2) (n : Nat) (s : State) : fixed (gatesOn k n s) = fixed s := by
  induction n generalizing s with
  | zero => rfl
  | succ n ih =>
    unfold gatesOn
    split
    · simp [ih]
    · rfl

@[simp] theorem fixed_portsOn (s : State) : fixed (portsOn s) = fixed s := by simp [portsOn]

@[simp] theorem fixed_entryOn (s : State) : fixed (entryOn s) = fixed s := by
  unfold entryOn
  split
  · rfl
  · split
    · split
      · extract_lets p t
        have h : fixed t = fixed s := rfl
        clear_value t
        split
        · exact (fixed_mk _ ..).trans ((fixed_goesOff _ _ _).trans h)
        · exact h
      · rfl
    · split
      · exact (fixed_mk _ ..).trans (fixed_goesOff _ _ _)
      · split <;> simp

@[simp] theorem fixed_powerOn (s : State) : fixed (powerOn s) = fixed s := by simp [powerOn]

@[simp] theorem fixed_asrcOn (s : State) : fixed (asrcOn s) = fixed s :=
  fixed_forAll _ _ _ fun k t => by
    split
    · split <;> simp
    · rfl

@[simp] theorem fixed_displayOn (s : State) : fixed (displayOn s) = fixed s := by
  unfold displayOn
  split
  · extract_lets t u
    have h : fixed u = fixed s := by simp [u, t]
    clear_value u
    split
    · simp [h]
    · exact h
  · rfl

@[simp] theorem fixed_whileRunning (f : State → State) (s : State) (h : ∀ t, fixed (f t) = fixed t) :
    fixed (whileRunning f s) = fixed s := by
  simp [whileRunning, h]

@[simp] theorem fixed_withHolds (f : State → State) (s : State) (h : ∀ t, fixed (f t) = fixed t) :
    fixed (withHolds f s) = fixed s := by
  simp [withHolds, h]

@[simp] theorem fixed_carriersOn (ls : List Nat) (ts : List (Nat × Bool)) (s : State) : fixed (carriersOn ls ts s) = fixed s := by
  simp [carriersOn]
@[simp] theorem fixed_noteStates (s : State) : fixed (noteStates s) = fixed s := by simp [noteStates]
@[simp] theorem fixed_dotEnds (s : State) : fixed (dotEnds s) = fixed s := by simp [dotEnds]
@[simp] theorem fixed_dotBegins (ls : List Nat) (ts : List (Nat × Bool)) (s : State) : fixed (dotBegins ls ts s) = fixed s := by
  simp [dotBegins]
@[simp] theorem fixed_blocksOn (s : State) : fixed (blocksOn s) = fixed s := by simp [blocksOn]
@[simp] theorem fixed_dotCloses (s : State) : fixed (dotCloses s) = fixed s := by simp [dotCloses]
@[simp] theorem fixed_dotRuns (ts : List (Nat × Bool)) (s : State) : fixed (dotRuns ts s) = fixed s := by simp [dotRuns]
@[simp] theorem fixed_tick (s : State) : fixed (tick s) = fixed s := by simp [tick]

/-! ### What a step does with its command -/

theorem step_cons (c : Instr) (rest : List Instr) (s : State) (h : s.pending = c :: rest) : step s = exec c { s with pending := rest } := by
  simp [step, h]

theorem step_nil (s : State) (h : s.pending = []) : step s = .next (tick s) := by simp [step, h]

theorem fixedNext_eq_some {o : Host.Outcome State Fault Refusal} {x : Part × Bool × List Instr} (h : fixedNext o = some x) :
    ∃ t, o = .next t ∧ fixed t = x := by
  cases o with
  | next t => exact ⟨t, rfl, Option.some.inj h⟩
  | fault f => cases h
  | refused r => cases h

/-- Every command answers a next state with the part, the suffix and the queue that it finds. -/
theorem exec_next_fixed (c : Instr) (s : State) : ∃ t, exec c s = .next t ∧ fixed t = fixed s := fixedNext_eq_some (fixed_exec c s)

/-- A step takes the front of the queue and changes nothing else of what is fixed. -/
theorem step_fixed {s t : State} (h : step s = .next t) : fixed t = (s.part, s.tscreen, s.pending.tail) := by
  cases hp : s.pending with
  | nil =>
    obtain rfl : tick s = t := Host.Outcome.next.inj ((step_nil s hp).symm.trans h)
    rw [fixed_tick, fixed, hp, List.tail_nil]
  | cons c rest =>
    obtain ⟨u, hu, hf⟩ := exec_next_fixed c { s with pending := rest }
    obtain rfl : u = t := Host.Outcome.next.inj (hu.symm.trans ((step_cons c rest s hp).symm.trans h))
    exact hf

/-- Settles O4: every function of the model leaves what is fixed, so a step changes only the front of the queue. -/
theorem identityAndQueueKept : Obligations.IdentityAndQueueKept := by
  intro s t h
  have hf := step_fixed h
  simp only [fixed, Prod.mk.injEq] at hf
  exact hf

/-- Settles O2: no command's meaning answers a fault or a refusal. -/
theorem everyCommandAnswersNext : Obligations.EveryCommandAnswersNext := fun c s =>
  let ⟨t, ht, _⟩ := exec_next_fixed c s
  ⟨t, ht⟩

/-- Settles O1, from the equations of `step`. -/
theorem frontCommandIsExecuted : Obligations.FrontCommandIsExecuted :=
  ⟨fun c rest s => step_cons c rest { s with pending := c :: rest } rfl, step_nil⟩

end Sys2Proof.Machine

/-! The two statements of the scope that fail: each with a state that the model evaluates to the refuting outcome. -/
namespace Sys2Proof.Machine

open Sys2Proof

/-! ### A context word that crosses into a word with a single-bit error -/

/-- The last dot of a line, in which a PUTW write is to cross into word 4 of context 0; the memory word of that place holds a single-bit
error. -/
def crossingOnSoftWord : State :=
  { State.reset with pos := ⟨0, 0, 2000⟩, cross := [⟨1, false, 0, 4, 7⟩], soft := [ctxPlace 0 4] }

theorem crossingOnSoftWord_lineEnds : dotsEff crossingOnSoftWord ≤ crossingOnSoftWord.pos.dot := by decide

/-- The write of part of the word reads it first (R283), and the Rambler's count takes the error (R281). -/
theorem lineStart_counts_soft_error :
    fget MEM_CE_CNT_COUNT 4 crossingOnSoftWord = 0 ∧ fget MEM_CE_CNT_COUNT 4 (lineStart crossingOnSoftWord) = 1 := by
  decide +kernel

/-- Refutes O9: LINE_START also counts the memory errors that its context crossings find, in MEM_CE_CNT, which the statement's list of
registers leaves out. -/
theorem not_linesAndFrames : ¬ Obligations.LinesAndFrames := by
  intro h
  obtain ⟨hline, -⟩ := h crossingOnSoftWord
  obtain ⟨t, ht, -, -, -, -, -, -, -, -, -, -, -, hregs⟩ := hline crossingOnSoftWord_lineEnds
  obtain rfl : lineStart crossingOnSoftWord = t := Host.Outcome.next.inj ht
  obtain ⟨hbefore, hafter⟩ := lineStart_counts_soft_error
  have hkept := hregs MEM_CE_CNT_COUNT (by decide) 4
  omega

/-! ### A mark wider than its field -/

/-- GEOM_DONE is 1, and what the present dot has set of it, of one bit, is recorded as its bit 1. -/
def wideMark : State := fset SWP_STATUS_GEOM_DONE 0 1 { State.reset with hits := [(SWP_STATUS_GEOM_DONE.id, 0, 2)] }

/-- A write of 1 to GEOM_DONE clears it: the mark keeps only the bits that it names. -/
theorem registerWrite_clears_wideMark :
    fget SWP_STATUS_GEOM_DONE 0 (ran (exec (.registerWrite 0x40000014 0x100) wideMark) wideMark) = 0 := by decide +kernel

/-- Refutes O10, in the clause of SWP_STATUS: it takes any mark on a W1C bit as one that keeps the bit, but a clear keeps the bits of the
mark alone (R13). No run marks a bit that the field does not have; the statement is of every state. -/
theorem not_registerAccess : ¬ Obligations.RegisterAccess := by
  intro h
  obtain ⟨-, -, -, -, hstatus, -, -⟩ := h wideMark 0x100
  obtain ⟨t, ht, -, -, hbits⟩ := hstatus
  have hzero : fget SWP_STATUS_GEOM_DONE 0 t = 0 := by simpa only [ht, ran] using registerWrite_clears_wideMark
  have hone := hbits (8, SWP_STATUS_GEOM_DONE) (by decide) (by decide)
  have hheld : held SWP_STATUS_GEOM_DONE.id 0 wideMark = 2 := by decide
  have hwas : fget SWP_STATUS_GEOM_DONE 0 wideMark = 1 := by decide
  simp [hzero, hheld, hwas] at hone

end Sys2Proof.Machine

namespace Sys2Proof.Machine

open Sys2Proof

/-! ### Registers: what a list of fields leaves alone -/

theorem clusterOn_congr {s t : State} (h : t.part = s.part) (c : Nat) : clusterOn c t = clusterOn c s := by
  rw [clusterOn, clusterOn, clusterEnable, clusterEnable, h]

section
variable {fs : List (Fld × Nat)} {s t u : State}

theorem onlyFields.refl (fs : List (Fld × Nat)) (s : State) : onlyFields fs s s := fun _ _ _ => rfl

/-- An operation that leaves the register file alone. -/
theorem onlyFields.congr (h : onlyFields fs s t) (hr : u.regs = t.regs) : onlyFields fs s u := fun F w hF =>
  (fget_congr hr F w).trans (h F w hF)

theorem onlyFields.trans (h : onlyFields fs s t) (h' : onlyFields fs t u) : onlyFields fs s u := fun F w hF =>
  (h' F w hF).trans (h F w hF)

theorem onlyFields.mono {gs : List (Fld × Nat)} (h : onlyFields fs s t) (hs : fs ⊆ gs) : onlyFields gs s t := fun F w hF =>
  h F w fun e he => hF e (hs he)

theorem onlyFields.fset (h : onlyFields fs s t) {F : Fld} {w : Nat} (v : Nat) (hm : (F, w) ∈ fs) : onlyFields fs s (fset F w v t) := by
  intro G x hG
  rw [fget_fset_other t v (by have := hG _ hm; tauto)]
  exact h G x hG

theorem onlyFields.fon (h : onlyFields fs s t) {F : Fld} {w : Nat} (hm : (F, w) ∈ fs) : onlyFields fs s (fon F w t) :=
  (h.fset 1 hm).congr (by simp [Machine.fon])

theorem onlyFields.foff (h : onlyFields fs s t) {F : Fld} {w : Nat} (hm : (F, w) ∈ fs) : onlyFields fs s (foff F w t) := h.fset 0 hm

/-- A register that none of the fields belongs to reads as before. -/
theorem onlyFields.reg (h : onlyFields fs s t) {F : Fld} (hF : fs.all (fun e => e.1.id != F.id) = true) (w : Nat) : fget F w t = fget F w s :=
  h F w fun e he => by
    have hne : e.1.id ≠ F.id := by simpa using List.all_eq_true.mp hF e he
    exact fun hsame => hne hsame.1.symm

/-- What a block reports is as before where its power and the registers that place it are. -/
theorem onlyFields.reportOf (h : onlyFields fs s t)
    (hF : [LPE_STAT_SUBST, PWR_STAT_STATE, PWR_DOMSTAT_ON].all (fun F => fs.all (fun e => e.1.id != F.id)) = true)
    (hpart : t.part = s.part) (htime : t.time = s.time) (hpos : t.pos = s.pos) (src i0 i1 : Nat) : reportOf src i0 i1 t = reportOf src i0 i1 s := by
  simp only [List.all_cons, List.all_nil, Bool.and_true, Bool.and_eq_true] at hF
  obtain ⟨hsub, hstate, hdom⟩ := hF
  have hs : ∀ c, fbit LPE_STAT_SUBST c t = fbit LPE_STAT_SUBST c s := fun c => by rw [fbit, fbit, h.reg hsub]
  have hd : ∀ d, domainOn d t = domainOn d s := fun d => by rw [domainOn, domainOn, fbitAt, fbitAt, h.reg hdom]
  have hsrc : srcDomain src t = srcDomain src s := by simp only [srcDomain, coreHome, hs]
  have hon : reporterOn src t = reporterOn src s := by
    unfold reporterOn
    rw [hsrc, h.reg hstate, clusterOn_congr hpart]
    cases srcDomain src s with
    | none => rfl
    | some d => exact congrArg (_ && ·) (hd d)
  rw [Machine.reportOf, Machine.reportOf, hon, htime, hpos]

/-- A report that a later state has found, where the moment and what decides whether the block reports are those of `s`. -/
theorem reported_congr {src i0 i1 : Nat} (hflt : t.flt = s.flt) (hrep : reportOf src i0 i1 t = reportOf src i0 i1 s)
    (h : reported src i0 i1 t u) : reported src i0 i1 s u := by
  rw [reported, ← hflt, ← hrep]
  exact h

end

/-- Setting a bit changes the register file and the marks of the dot. -/
theorem fon_eq (F : Fld) (u : Nat) (s : State) : fon F u s = { fset F u 1 s with hits := (fon F u s).hits } := by
  unfold fon mark
  split <;> rfl

/-- `t` differs from `s` in the register file and the marks of the dot alone. -/
def RegsOnly (s t : State) : Prop := ∃ r l, t = { s with regs := r, hits := l }

theorem RegsOnly.refl (s : State) : RegsOnly s s := ⟨_, _, rfl⟩

theorem RegsOnly.fset {s t : State} (h : RegsOnly s t) (F : Fld) (u v : Nat) : RegsOnly s (fset F u v t) := by
  obtain ⟨r, l, rfl⟩ := h
  exact ⟨_, _, rfl⟩

theorem RegsOnly.fon {s t : State} (h : RegsOnly s t) (F : Fld) (u : Nat) : RegsOnly s (fon F u t) := by
  rw [fon_eq]
  obtain ⟨r, l, rfl⟩ := h
  exact ⟨_, _, rfl⟩

theorem RegsOnly.foff {s t : State} (h : RegsOnly s t) (F : Fld) (u : Nat) : RegsOnly s (foff F u t) := h.fset F u 0

theorem inCluster_on {c : Nat} {s : State} (h : clusterOn c s = true) (f : State → State) : inCluster c f s = f s := if_pos h

theorem inCluster_off {c : Nat} {s : State} (h : clusterOn c s = false) (f : State → State) : inCluster c f s = s := if_neg (by simp [h])

theorem toCluster_on {c : Nat} {s : State} (h : clusterOn c s = true) (f : State → State) : toCluster c f s = f s := if_pos h

theorem toCluster_off {c : Nat} {s : State} (h : clusterOn c s = false) (f : State → State) : toCluster c f s = busError s := if_neg (by simp [h])

theorem forAll_cons {α : Type} (k : α) (ks : List α) (f : α → State → State) (s : State) :
    forAll (k :: ks) f s = forAll ks f (f k s) := rfl

/-- What each step keeps, all steps together keep. -/
theorem forAll_induct {α : Type} (P : State → Prop) (ks : List α) (f : α → State → State) (s : State) (h0 : P s)
    (h : ∀ k ∈ ks, ∀ t, P t → P (f k t)) : P (forAll ks f s) := by
  induction ks generalizing s with
  | nil => exact h0
  | cons k ks ih => exact ih _ (h k List.mem_cons_self s h0) fun j hj => h j (List.mem_cons_of_mem _ hj)

/-! ### 32-bit numbers -/

theorem word_sint (n : Nat) : word (sint n) = n % 2 ^ 32 := by simp [word, sint]

theorem word_sint_of_lt {n : Nat} (h : n < 2 ^ 32) : word (sint n) = n := by rw [word_sint, Nat.mod_eq_of_lt h]

theorem word_lt (i : Int) : word i < 2 ^ 32 := (BitVec.ofInt 32 i).isLt

theorem word_mod (i : Int) : word i % 2 ^ 32 = word i := Nat.mod_eq_of_lt (word_lt i)

theorem word_sint_word_add (i j : Int) : word (sint (word i) + j) = word (i + j) := by
  simp [word, sint, BitVec.ofInt_add]

end Sys2Proof.Machine

namespace Sys2Proof.Machine

open Sys2Proof

/-! ### Quadrature units -/

@[simp] theorem qep_setQep_same (u : Nat) (h : QepH) (s : State) : qep u (setQep u h s) = h := sget_sset_same _ _ _ _

theorem qep_setQep_other {u j : Nat} (hj : j ≠ u) (h : QepH) (s : State) : qep j (setQep u h s) = qep j s :=
  sget_sset_other _ _ (Ne.symm hj) _

@[simp] theorem qep_fset (j : Nat) (F : Fld) (u v : Nat) (s : State) : qep j (fset F u v s) = qep j s := rfl
@[simp] theorem qep_fon (j : Nat) (F : Fld) (u : Nat) (s : State) : qep j (fon F u s) = qep j s := by simp [qep]
@[simp] theorem qep_report (j src i0 i1 : Nat) (s : State) : qep j (report src i0 i1 s) = qep j s := rfl
@[simp] theorem fget_setQep (F : Fld) (w u : Nat) (h : QepH) (s : State) : fget F w (setQep u h s) = fget F w s := rfl
@[simp] theorem fget_tellPin (F : Fld) (w p : Nat) (b : Bool) (s : State) : fget F w (tellPin p b s) = fget F w s := rfl
@[simp] theorem qep_tellPin (j p : Nat) (b : Bool) (s : State) : qep j (tellPin p b s) = qep j s := rfl

/-- The levels that a command tells change the pins alone. -/
theorem tellQep_eq (u k : Nat) (b : Bool) (s : State) : tellQep u k b s = { s with pads := (tellQep u k b s).pads } := by
  unfold tellQep
  split <;> rfl

@[simp] theorem fget_tellQep (F : Fld) (w u k : Nat) (b : Bool) (s : State) : fget F w (tellQep u k b s) = fget F w s := by
  rw [tellQep_eq]
  rfl

@[simp] theorem qep_tellQep (j u k : Nat) (b : Bool) (s : State) : qep j (tellQep u k b s) = qep j s := by
  rw [tellQep_eq]
  rfl

@[simp] theorem qepPin_tellQep (w i u k : Nat) (b : Bool) (s : State) : qepPin w i (tellQep u k b s) = qepPin w i s := by
  simp [qepPin, pinCarries]

theorem told_tellQep_same {u k : Nat} {s : State} (b : Bool) (h : qepPin u k s = true) :
    sget none (tellQep u k b s).pads.told (3 * u + k) = some (b != fbitAt QEP_CFG_INV u k s) := by
  simp [tellQep, h, tellPin]

theorem told_tellQep_other {u k p : Nat} (b : Bool) (s : State) (h : 3 * u + k ≠ p) :
    sget none (tellQep u k b s).pads.told p = sget none s.pads.told p := by
  unfold tellQep
  split
  · simp only [tellPin]
    exact sget_sset_other _ _ h _
  · rfl

/-- The fields that edges write. -/
def edgeFields (u : Nat) : List (Fld × Nat) := [(QEP_POS_POS, u), (QEP_STAT_DIR, u), (QEP_STAT_ERR, u)]

/-- What `ds` counted edges do to unit `u`: `t` differs from `s` in what the unit keeps of its edges, in POS and in DIR. -/
structure EdgesCounted (u : Nat) (ds : List Int) (s t : State) : Prop where
  frame : ∃ r q, t = { s with regs := r, qep := q }
  fields : onlyFields (edgeFields u) s t
  level : (qep u t).i = (qep u s).i
  others : ∀ j, j ≠ u → qep j t = qep j s
  pos : fget QEP_POS_POS u s < 2 ^ 32 → fget QEP_POS_POS u t = word (sint (fget QEP_POS_POS u s) + ds.sum)
  dir : fget QEP_STAT_DIR u t = (ds.getLast?.map fun d => (decide (0 < d)).toNat).getD (fget QEP_STAT_DIR u s)
  err : fget QEP_STAT_ERR u t = fget QEP_STAT_ERR u s

theorem edgesCounted_nil (u : Nat) (s : State) : EdgesCounted u [] s s where
  frame := ⟨_, _, rfl⟩
  fields := onlyFields.refl _ _
  level := rfl
  others _ _ := rfl
  pos h := by simp [word_sint_of_lt h]
  dir := rfl
  err := rfl

theorem fget_pos_countEdge (u : Nat) (d : Int) (s : State) :
    fget QEP_POS_POS u (countEdge u d s) = word (sint (fget QEP_POS_POS u s) + d) := by
  simp only [countEdge]
  rw [fget_fset_other _ _ (Or.inl (by decide)), fget_fset_same]
  exact word_mod _

theorem fget_dir_countEdge (u : Nat) (d : Int) (s : State) : fget QEP_STAT_DIR u (countEdge u d s) = (decide (0 < d)).toNat := by
  simp only [countEdge, fget_fset_same]
  cases decide (d > 0) <;> rfl

/-- One edge more, counted first. -/
theorem EdgesCounted.cons {u : Nat} {d : Int} {ds : List Int} {s t : State} (h : EdgesCounted u ds (countEdge u d s) t) :
    EdgesCounted u (d :: ds) s t where
  frame := by
    obtain ⟨r, q, rfl⟩ := h.frame
    exact ⟨r, q, rfl⟩
  fields := (((onlyFields.refl (edgeFields u) s).congr (u := setQep u _ s) rfl).fset _ (by simp [edgeFields])
    |>.fset _ (by simp [edgeFields])).trans h.fields
  level := by rw [h.level]; simp [countEdge]
  others j hj := by rw [h.others j hj]; simp [countEdge, qep_setQep_other hj]
  pos _ := by
    rw [h.pos (by rw [fget_pos_countEdge]; exact word_lt _), fget_pos_countEdge, word_sint_word_add, List.sum_cons, add_assoc]
  dir := by
    rw [h.dir, fget_dir_countEdge, List.getLast?_cons]
    cases ds.getLast? <;> rfl
  err := by rw [h.err, countEdge, fget_fset_other _ _ (Or.inl (by decide)), fget_fset_other _ _ (Or.inl (by decide))]; rfl

theorem edgesCounted (u : Nat) (ds : List Int) (s : State) : EdgesCounted u ds s (forAll ds (fun d t => countEdge u d t) s) := by
  induction ds generalizing s with
  | nil => exact edgesCounted_nil u s
  | cons d ds ih => exact (ih _).cons

/-- The filtered levels change within what a unit keeps. -/
theorem EdgesCounted.setLevels {u : Nat} {ds : List Int} {s t : State} (h : EdgesCounted u ds s t) (a b : Bool) :
    EdgesCounted u ds s (setQep u { qep u t with a := a, b := b } t) where
  frame := by
    obtain ⟨r, q, rfl⟩ := h.frame
    exact ⟨r, _, rfl⟩
  fields := h.fields.congr rfl
  level := by rw [qep_setQep_same]; exact h.level
  others j hj := by rw [qep_setQep_other hj, h.others j hj]
  pos := h.pos
  dir := h.dir
  err := h.err

/-- The steps that a change of the levels of unit `u` to `a` and `b` counts. -/
def levelSteps (u : Nat) (a b : Bool) (s : State) : List Int := qepSteps (fget QEP_CFG_MODE u s) (qep u s).a (qep u s).b a b

/-- The unit with the edges counted and at its new levels. -/
def levelsCounted (u : Nat) (a b : Bool) (s : State) : State :=
  let t := forAll (levelSteps u a b s) (fun d t => countEdge u d t) s
  setQep u { qep u t with a := a, b := b } t

theorem levelsCounted_counted (u : Nat) (a b : Bool) (s : State) : EdgesCounted u (levelSteps u a b s) s (levelsCounted u a b s) :=
  (edgesCounted u _ s).setLevels a b

/-- In quadrature mode, both levels change at once. -/
def bothChange (u : Nat) (a b : Bool) (s : State) : Prop := fget QEP_CFG_MODE u s = 0 ∧ a ≠ (qep u s).a ∧ b ≠ (qep u s).b

/-- A change of both levels at once is an error, which is reported (R88). -/
theorem qepCount_of_both {u : Nat} {a b : Bool} {s : State} (h : bothChange u a b s) :
    qepCount u a b s = report (csrc (u / 2) 2) u 0 (fon QEP_STAT_ERR u (levelsCounted u a b s)) := by
  obtain ⟨hmode, ha, hb⟩ := h
  refine if_pos ?_
  simp [hmode, ha.symm, hb.symm]

theorem qepCount_of_not_both {u : Nat} {a b : Bool} {s : State} (h : ¬ bothChange u a b s) : qepCount u a b s = levelsCounted u a b s := by
  refine if_neg fun hc => h ?_
  simp only [Bool.and_eq_true, decide_eq_true_eq, bne_iff_ne, ne_eq] at hc
  obtain ⟨⟨hmode, ha⟩, hb⟩ := hc
  exact ⟨hmode, Ne.symm ha, Ne.symm hb⟩

/-- The unit, its neighbours and the pins are the same with the error as without it. -/
theorem qep_qepCount (u j : Nat) (a b : Bool) (s : State) : qep j (qepCount u a b s) = qep j (levelsCounted u a b s) := by
  by_cases h : bothChange u a b s
  · rw [qepCount_of_both h, qep_report, qep_fon]
  · rw [qepCount_of_not_both h]

theorem fget_qepCount {F : Fld} (hF : F.id ≠ QEP_STAT_ERR.id) (u w : Nat) (a b : Bool) (s : State) :
    fget F w (qepCount u a b s) = fget F w (levelsCounted u a b s) := by
  by_cases h : bothChange u a b s
  · rw [qepCount_of_both h, fget_report, fget_fon_other _ (Or.inl hF.symm)]
  · rw [qepCount_of_not_both h]

theorem onlyFields_qepCount (u : Nat) (a b : Bool) (s : State) : onlyFields (edgeFields u) s (qepCount u a b s) := by
  have hm := (levelsCounted_counted u a b s).fields
  by_cases h : bothChange u a b s
  · rw [qepCount_of_both h]
    exact (hm.fon (by simp [edgeFields])).congr rfl
  · rwa [qepCount_of_not_both h]

theorem qepCount_frame (u : Nat) (a b : Bool) (s : State) :
    ∃ r l q f, qepCount u a b s = { s with regs := r, hits := l, qep := q, flt := f } := by
  obtain ⟨r, q, hm⟩ := (levelsCounted_counted u a b s).frame
  by_cases h : bothChange u a b s
  · rw [qepCount_of_both h, fon_eq, hm]
    exact ⟨_, _, _, _, rfl⟩
  · rw [qepCount_of_not_both h, hm]
    exact ⟨_, _, _, _, rfl⟩

/-- The error is reported as the edge found the device. -/
theorem reported_qepCount {u : Nat} {a b : Bool} {s : State} (h : bothChange u a b s) :
    reported (csrc (u / 2) 2) u 0 s (qepCount u a b s) := by
  obtain ⟨r, q, hm⟩ := (levelsCounted_counted u a b s).frame
  have hf := (levelsCounted_counted u a b s).fields.fon (F := QEP_STAT_ERR) (w := u) (by simp [edgeFields])
  have hr := hf.reportOf rfl (by simp [hm]) (by simp [hm]) (by simp [hm]) (csrc (u / 2) 2) u 0
  rw [qepCount_of_both h, reported, report, hr]
  simp [hm]

theorem flt_qepCount {u : Nat} {a b : Bool} {s : State} (h : ¬ bothChange u a b s) : (qepCount u a b s).flt = s.flt := by
  obtain ⟨r, q, hm⟩ := (levelsCounted_counted u a b s).frame
  rw [qepCount_of_not_both h, hm]

theorem fget_err_qepCount_of_both {u : Nat} {a b : Bool} {s : State} (h : bothChange u a b s) :
    fget QEP_STAT_ERR u (qepCount u a b s) = 1 := by
  rw [qepCount_of_both h, fget_report, fget_fon_same]
  rfl

theorem fget_err_qepCount {u : Nat} {a b : Bool} {s : State} (h : ¬ bothChange u a b s) :
    fget QEP_STAT_ERR u (qepCount u a b s) = fget QEP_STAT_ERR u s := by
  rw [qepCount_of_not_both h, (levelsCounted_counted u a b s).err]

/-- The unit as QEP_EDGE finds it once the levels have been told. -/
def edgeTold (u : Nat) (a b : Bool) (s : State) : State :=
  setQep u { qep u s with runA := 0, runB := 0 } (tellQep u 1 b (tellQep u 0 a s))

theorem edgeTold_eq (u : Nat) (a b : Bool) (s : State) :
    edgeTold u a b s = { s with qep := (edgeTold u a b s).qep, pads := (edgeTold u a b s).pads } := by
  rw [edgeTold, tellQep_eq, tellQep_eq]
  rfl

@[simp] theorem fget_edgeTold (F : Fld) (w u : Nat) (a b : Bool) (s : State) : fget F w (edgeTold u a b s) = fget F w s := by
  simp [edgeTold]

@[simp] theorem qepPin_edgeTold (w k u : Nat) (a b : Bool) (s : State) : qepPin w k (edgeTold u a b s) = qepPin w k s := by
  simp [qepPin, pinCarries]

theorem qep_edgeTold_same (u : Nat) (a b : Bool) (s : State) : qep u (edgeTold u a b s) = { qep u s with runA := 0, runB := 0 } := by
  simp [edgeTold]

theorem qep_edgeTold_other {u j : Nat} (hj : j ≠ u) (a b : Bool) (s : State) : qep j (edgeTold u a b s) = qep j s := by
  simp [edgeTold, qep_setQep_other hj]

theorem levelSteps_edgeTold (u : Nat) (a b a' b' : Bool) (s : State) : levelSteps u a b (edgeTold u a' b' s) = levelSteps u a b s := by
  simp [levelSteps, qep_edgeTold_same]

theorem bothChange_edgeTold (u : Nat) (a b a' b' : Bool) (s : State) : bothChange u a b (edgeTold u a' b' s) ↔ bothChange u a b s := by
  simp [bothChange, qep_edgeTold_same]

/-- The pins that carry A and B hold the levels told. -/
theorem told_edgeTold {u : Nat} {a b : Bool} {s : State} :
    ∀ p ∈ [(0, a), (1, b)], qepPin u p.1 s = true →
      sget none (edgeTold u a b s).pads.told (3 * u + p.1) = some (p.2 != fbitAt QEP_CFG_INV u p.1 s) := by
  have hinv : ∀ k, fbitAt QEP_CFG_INV u k (tellQep u 0 a s) = fbitAt QEP_CFG_INV u k s := fun k => by simp [fbitAt]
  simp only [List.mem_cons, List.not_mem_nil, or_false, forall_eq_or_imp, forall_eq]
  constructor
  · intro h
    exact (told_tellQep_other b _ (by omega)).trans (told_tellQep_same a h)
  · intro h
    exact (told_tellQep_same b ((qepPin_tellQep _ _ _ _ _ _).trans h)).trans (by rw [hinv])

/-- QEP_EDGE brings the levels of the inputs that pins carry to the levels told, and counts their change. -/
theorem qepEdge_eq (u : Nat) (a b : Bool) (s : State) :
    qepEdge u a b s = qepCount u (if qepPin u 0 s then a else (qep u s).a) (if qepPin u 1 s then b else (qep u s).b) (edgeTold u a b s) := by
  show qepCount u (if qepPin u 0 (edgeTold u a b s) then a else _) (if qepPin u 1 (edgeTold u a b s) then b else _) (edgeTold u a b s) = _
  rw [qepPin_edgeTold, qepPin_edgeTold]

end Sys2Proof.Machine

namespace Sys2Proof.Machine

open Sys2Proof

/-! ### The index of a quadrature unit -/

/-- The unit as QEP_INDEX finds it once the level of I has been told. -/
def indexTold (u : Nat) (s : State) : State := tellQep u 2 true (setQep u { qep u s with i := true, runI := 0 } s)

theorem indexTold_eq (u : Nat) (s : State) : indexTold u s = { s with qep := (indexTold u s).qep, pads := (indexTold u s).pads } := by
  rw [indexTold, tellQep_eq]
  rfl

@[simp] theorem fget_indexTold (F : Fld) (w u : Nat) (s : State) : fget F w (indexTold u s) = fget F w s := by simp [indexTold]

theorem qep_indexTold_same (u : Nat) (s : State) : qep u (indexTold u s) = { qep u s with i := true, runI := 0 } := by simp [indexTold]

theorem qep_indexTold_other {u j : Nat} (hj : j ≠ u) (s : State) : qep j (indexTold u s) = qep j s := by
  simp [indexTold, qep_setQep_other hj]

theorem told_indexTold {u : Nat} {s : State} (h : qepPin u 2 s = true) :
    sget none (indexTold u s).pads.told (3 * u + 2) = some (!fbitAt QEP_CFG_INV u 2 s) :=
  (told_tellQep_same (s := setQep u { qep u s with i := true, runI := 0 } s) true h).trans (by simp [fbitAt])

theorem qepNet_indexTold (u : Nat) (s : State) : qepNet u (indexTold u s) = qepNet u s := by
  have htime : (indexTold u s).time = s.time := by rw [indexTold_eq]
  simp only [qepNet, qep_indexTold_same, htime]

theorem qepIndex_of_pin {u : Nat} {s : State} (h : qepPin u 2 s = true) : qepIndex u s = qepIndexed u (indexTold u s) := if_pos h

/-- The fields that the index writes. -/
def indexFields (u : Nat) : List (Fld × Nat) :=
  [(QEP_IDX_POS_POS, u), (QEP_IDX_HI_FRAME, u), (QEP_IDX_LO_LINE, u), (QEP_IDX_LO_DOT, u), (QEP_STAT_IDX_SEEN, u), (QEP_POS_POS, u)]

theorem onlyFields_qepIndexed (u : Nat) (s : State) : onlyFields (indexFields u) s (qepIndexed u s) := by
  have h := (((((onlyFields.refl (indexFields u) s).fset (F := QEP_IDX_POS_POS) (w := u) (fget QEP_POS_POS u s) (by simp [indexFields])).fset
    (F := QEP_IDX_LO_DOT) (w := u) s.pos.dot (by simp [indexFields])).fset (F := QEP_IDX_LO_LINE) (w := u) s.pos.line (by simp [indexFields])).fset
    (F := QEP_IDX_HI_FRAME) (w := u) s.pos.frame (by simp [indexFields])).fon (F := QEP_STAT_IDX_SEEN) (w := u) (by simp [indexFields])
  unfold qepIndexed
  extract_lets s1 s2 s3 s4
  refine onlyFields.congr (t := s4) ?_ rfl
  simp only [s4]
  split
  · exact h.fset _ (by simp [indexFields])
  · exact h

theorem qepIndexed_frame (u : Nat) (s : State) :
    ∃ r l, qepIndexed u s = { s with regs := r, hits := l, fab := { s.fab with now := nput (0x0D40 + 2 * u) s.fab.now } } := by
  unfold qepIndexed
  extract_lets s1 s2 s3 s4
  have h3 : RegsOnly s s3 := ((((RegsOnly.refl s).fset _ _ _).fset _ _ _).fset _ _ _ |>.fset _ _ _).fon _ _
  have h4 : RegsOnly s s4 := by
    simp only [s4]
    split
    · exact h3.fset _ _ _
    · exact h3
  obtain ⟨r, l, h4⟩ := h4
  exact ⟨r, l, by rw [h4]; rfl⟩

/-- What the index leaves in the registers: the position copied, the sweep position, the bit, the position cleared where IDX_CLEAR is set. -/
theorem fget_qepIndexed (u : Nat) (s : State) :
    fget QEP_IDX_POS_POS u (qepIndexed u s) = fget QEP_POS_POS u s % 2 ^ 32
    ∧ fget QEP_IDX_HI_FRAME u (qepIndexed u s) = s.pos.frame % 2 ^ 32
    ∧ fget QEP_IDX_LO_LINE u (qepIndexed u s) = s.pos.line % 2 ^ 12 ∧ fget QEP_IDX_LO_DOT u (qepIndexed u s) = s.pos.dot % 2 ^ 14
    ∧ fget QEP_STAT_IDX_SEEN u (qepIndexed u s) = 1
    ∧ fget QEP_POS_POS u (qepIndexed u s) = if fbit QEP_CFG_IDX_CLEAR u s then word (qepNet u s) else fget QEP_POS_POS u s := by
  have hnet := word_mod (qepNet u s)
  simp only [qepIndexed, fget_fire]
  split <;> simp (disch := exact Or.inl (by decide)) only [fget_fset_same, fget_fset_other, fget_fon_same, fget_fon_other]
  · exact ⟨rfl, rfl, rfl, rfl, rfl, hnet⟩
  · exact ⟨rfl, rfl, rfl, rfl, rfl, trivial⟩

/-! ### The latch slots and a write of the position -/

theorem qepRes_ids (k : Nat) : (qepResPos k).id ≠ (qepResAge k).id ∧ (qepResPos k).id ≠ (qepResInt k).id ∧ (qepResAge k).id ≠ (qepResInt k).id := by
  unfold qepResPos qepResAge qepResInt
  split <;> decide

theorem qepRes_widths (k : Nat) : (qepResPos k).w = 32 ∧ (qepResAge k).w = 32 ∧ (qepResInt k).w = 32 := by
  unfold qepResPos qepResAge qepResInt
  split <;> decide

/-- The time since the last of the edges `es`, 0 where there is none (R89). -/
def edgeAge (now : Nat) (es : List Nat) : Nat := if es = [] then 0 else min (now - es.getD 0 0) (2 ^ 32 - 1)

/-- The time between the last two of the edges `es`, 0 where there are fewer (R89). -/
def edgeInterval (es : List Nat) : Nat := if es.length < 2 then 0 else min (es.getD 0 0 - es.getD 1 0) (2 ^ 32 - 1)

theorem edgeAge_mod (now : Nat) (es : List Nat) : edgeAge now es % 2 ^ 32 = edgeAge now es := by
  unfold edgeAge
  split <;> omega

theorem edgeInterval_mod (es : List Nat) : edgeInterval es % 2 ^ 32 = edgeInterval es := by
  unfold edgeInterval
  split <;> omega

/-- The edges that a latch slot counts: those of earlier dots. -/
def edgesBefore (u : Nat) (s : State) : List Nat := (qep u s).edges.filter (fun e => decide (e < s.time))

theorem execQepLatch_eq (u : Fin 48) (k : Fin 2) (s : State) :
    execQepLatch u k s = .next (fset (qepResInt k) u (edgeInterval (edgesBefore u s)) (fset (qepResAge k) u (edgeAge s.time (edgesBefore u s))
      (fset (qepResPos k) u (word (sint (fget QEP_POS_POS u s) - qepNet u s)) s))) := by
  unfold execQepLatch
  extract_lets es age int
  have hage : age = edgeAge s.time es := by
    simp only [age, edgeAge]
    rcases es with _ | ⟨e, es⟩
    · rfl
    · simp
  have hint : int = edgeInterval es := by
    simp only [int, edgeInterval]
    rcases es with _ | ⟨e, _ | ⟨e', es⟩⟩
    · rfl
    · rfl
    · simp
  rw [hage, hint]
  rfl

/-- What a latch slot leaves in its three registers. -/
theorem fget_latch (P A I : Fld) (hid : P.id ≠ A.id ∧ P.id ≠ I.id ∧ A.id ≠ I.id) (u p a i : Nat) (s : State) :
    fget P u (fset I u i (fset A u a (fset P u p s))) = p % 2 ^ P.w ∧ fget A u (fset I u i (fset A u a (fset P u p s))) = a % 2 ^ A.w
    ∧ fget I u (fset I u i (fset A u a (fset P u p s))) = i % 2 ^ I.w := by
  obtain ⟨hpa, hpi, hai⟩ := hid
  refine ⟨?_, ?_, fget_fset_same _ _ _ _⟩
  · rw [fget_fset_other _ _ (Or.inl hpi.symm), fget_fset_other _ _ (Or.inl hpa.symm), fget_fset_same]
  · rw [fget_fset_other _ _ (Or.inl hai.symm), fget_fset_same]

/-! ### The statement -/

/-- Settles O17: an edge by induction on the steps that it counts, the other commands from what each register write leaves alone. -/
theorem quadrature : Obligations.Quadrature := by
  intro s u
  refine ⟨fun a b a' b' ha hb hon => ?_, fun hoff => ⟨fun a b => congrArg Host.Outcome.next (inCluster_off hoff _), congrArg Host.Outcome.next (inCluster_off hoff _)⟩,
    fun hpin => ?_, fun hon hpin => ?_, fun k es hes => ?_, fun v hon => ?_, fun v hoff => congrArg Host.Outcome.next (toCluster_off hoff _)⟩
  · set told := edgeTold u a b s with htold
    have hc := levelsCounted_counted u a' b' told
    have hstep : levelSteps u a' b' told = qepSteps (fget QEP_CFG_MODE u s) (qep u s).a (qep u s).b a' b' := levelSteps_edgeTold _ _ _ _ _ _
    have hboth : bothChange u a' b' told ↔ bothChange u a' b' s := bothChange_edgeTold _ _ _ _ _ _
    refine ⟨qepCount u a' b' told, ?_, ?_, ?_, ?_, ?_, ?_, ?_, fun hpos => ?_, ?_, fun hmode hA hB => ?_, fun hone => ?_, fun j hj => ?_⟩
    · rw [ha, hb]
      exact congrArg Host.Outcome.next ((inCluster_on hon _).trans (qepEdge_eq _ _ _ _))
    · obtain ⟨r, l, q, f, ht⟩ := qepCount_frame u a' b' told
      rw [ht, htold, edgeTold_eq]
    · rw [qep_qepCount, levelsCounted, qep_setQep_same]
    · rw [qep_qepCount, levelsCounted, qep_setQep_same]
    · rw [qep_qepCount, hc.level, htold, qep_edgeTold_same]
    · obtain ⟨r, l, q, f, ht⟩ := qepCount_frame u a' b' told
      rw [ht]
      exact told_edgeTold
    · exact (onlyFields.refl _ s).congr (by rw [htold, edgeTold_eq]) |>.trans (onlyFields_qepCount u a' b' told)
    · rw [fget_qepCount (by decide), hc.pos (by rwa [htold, fget_edgeTold]), hstep, htold, fget_edgeTold]
    · rw [fget_qepCount (by decide), hc.dir, hstep, htold, fget_edgeTold]
      cases (qepSteps (fget QEP_CFG_MODE u s) (qep u s).a (qep u s).b a' b').getLast? <;> rfl
    · have h := hboth.mpr ⟨hmode, hA, hB⟩
      have hfields := (onlyFields.refl [] s).congr (u := told) (by rw [htold, edgeTold_eq])
      exact ⟨fget_err_qepCount_of_both h, reported_congr (by rw [htold, edgeTold_eq]) (hfields.reportOf rfl (by rw [htold, edgeTold_eq])
        (by rw [htold, edgeTold_eq]) (by rw [htold, edgeTold_eq]) _ _ _) (reported_qepCount h)⟩
    · have h : ¬ bothChange u a' b' told := fun h => by
        obtain ⟨hmode, hA, hB⟩ := hboth.mp h
        tauto
      refine ⟨(flt_qepCount h).trans ?_, (fget_err_qepCount h).trans (fget_edgeTold _ _ _ _ _ _)⟩
      rw [htold, edgeTold_eq]
    · rw [qep_qepCount, hc.others j hj, htold, qep_edgeTold_other hj]
  · have hidle : qepIndex u s = s := if_neg (by simp [hpin])
    exact congrArg Host.Outcome.next ((ite_congr rfl (fun _ => hidle) fun _ => rfl).trans (ite_self s))
  · obtain ⟨r, l, ht⟩ := qepIndexed_frame u (indexTold u s)
    obtain ⟨hpos, hframe, hline, hdot, hseen, hcleared⟩ := fget_qepIndexed u (indexTold u s)
    have hkept : ∀ j, qep j (qepIndexed u (indexTold u s)) = qep j (indexTold u s) := fun j => by rw [ht]; rfl
    have hclr : fbit QEP_CFG_IDX_CLEAR u (indexTold u s) = fbit QEP_CFG_IDX_CLEAR u s := by simp [fbit]
    have hplace : (indexTold u s).pos = s.pos := by rw [indexTold_eq]
    have hfab : (indexTold u s).fab = s.fab := by rw [indexTold_eq]
    refine ⟨qepIndexed u (indexTold u s), congrArg Host.Outcome.next ((inCluster_on hon _).trans (qepIndex_of_pin hpin)), ?_, ?_, ?_,
      fun j hj => ?_, ?_, ?_, ?_, ?_, ?_, hseen, ?_, ?_⟩
    · rw [ht, indexTold_eq]
    · rw [issued, ht, hfab]
    · rw [hkept, qep_indexTold_same]
    · rw [hkept, qep_indexTold_other hj]
    · rw [ht]
      exact told_indexTold hpin
    · rw [hpos, fget_indexTold]
    · rw [hframe, hplace]
    · rw [hline, hplace]
    · rw [hdot, hplace]
    · rw [hcleared, hclr, qepNet_indexTold, fget_indexTold]
    · exact ((onlyFields.refl _ s).congr (by rw [indexTold_eq])).trans (onlyFields_qepIndexed u (indexTold u s))
  · obtain ⟨hp, ha, hi⟩ := fget_latch (qepResPos k) (qepResAge k) (qepResInt k) (qepRes_ids k) u
      (word (sint (fget QEP_POS_POS u s) - qepNet u s)) (edgeAge s.time es) (edgeInterval es) s
    obtain ⟨hwp, hwa, hwi⟩ := qepRes_widths k
    subst hes
    refine ⟨_, execQepLatch_eq u k s, rfl, ?_, ?_, ?_, ?_⟩
    · exact (((onlyFields.refl _ s).fset _ (by simp)).fset _ (by simp)).fset _ (by simp)
    · exact hp.trans (by rw [hwp, word_mod])
    · exact ha.trans (by rw [hwa, edgeAge_mod]; rfl)
    · exact hi.trans (by rw [hwi, edgeInterval_mod]; rfl)
  · refine ⟨fset QEP_POS_POS u (word (v.toInt + qepNet u s)) s, congrArg Host.Outcome.next (toCluster_on hon _), rfl,
      (onlyFields.refl _ s).fset _ (by simp), ?_⟩
    rw [fget_fset_same]
    exact word_mod _

end Sys2Proof.Machine

namespace Sys2Proof.Machine

open Sys2Proof

/-! ### Sigma-delta channels: what they keep -/

@[simp] theorem sdf_setSdf_same (ch : Nat) (h : SdfH) (s : State) : sdf ch (setSdf ch h s) = h := sget_sset_same _ _ _ _

theorem sdf_setSdf_other {ch j : Nat} (hj : j ≠ ch) (h : SdfH) (s : State) : sdf j (setSdf ch h s) = sdf j s :=
  sget_sset_other _ _ (Ne.symm hj) _

@[simp] theorem sdf_fset (j : Nat) (F : Fld) (u v : Nat) (s : State) : sdf j (fset F u v s) = sdf j s := rfl
@[simp] theorem sdf_later (j n : Nat) (d : Due) (s : State) : sdf j (later n d s) = sdf j s := rfl
@[simp] theorem sdf_updFilling (j ch : Nat) (s : State) : sdf j (updFilling ch s) = sdf j s := rfl
@[simp] theorem fget_setSdf (F : Fld) (w ch : Nat) (h : SdfH) (s : State) : fget F w (setSdf ch h s) = fget F w s := rfl

@[simp] theorem clk_setClk_same (c : Nat) (h : ClkH) (s : State) : clk c (setClk c h s) = h := sget_sset_same _ _ _ _

theorem clk_setClk_other {c j : Nat} (hj : j ≠ c) (h : ClkH) (s : State) : clk j (setClk c h s) = clk j s :=
  sget_sset_other _ _ (Ne.symm hj) _

@[simp] theorem clk_fset (j : Nat) (F : Fld) (u v : Nat) (s : State) : clk j (fset F u v s) = clk j s := rfl
@[simp] theorem clk_fon (j : Nat) (F : Fld) (u : Nat) (s : State) : clk j (fon F u s) = clk j s := by simp [clk]
@[simp] theorem fget_setClk (F : Fld) (w c : Nat) (h : ClkH) (s : State) : fget F w (setClk c h s) = fget F w s := rfl

/-! ### The fast path -/

/-- The fast path may move its runs and set effects for later; it writes no register. -/
structure FastPathMoves (ch : Nat) (s t : State) : Prop where
  frame : ∃ q d, t = { s with sdf := q, due := d }
  runs : ∃ hi lo, sdf ch t = { sdf ch s with hiRun := hi, loRun := lo }
  others : ∀ j, j ≠ ch → sdf j t = sdf j s

theorem FastPathMoves.refl (ch : Nat) (s : State) : FastPathMoves ch s s := ⟨⟨_, _, rfl⟩, ⟨_, _, rfl⟩, fun _ _ => rfl⟩

theorem FastPathMoves.setRuns {ch : Nat} (hi lo : Nat) (s : State) :
    FastPathMoves ch s (setSdf ch { sdf ch s with hiRun := hi, loRun := lo } s) :=
  ⟨⟨_, _, rfl⟩, ⟨_, _, sdf_setSdf_same _ _ _⟩, fun _ hj => sdf_setSdf_other hj _ _⟩

theorem FastPathMoves.later {ch : Nat} {s t : State} (h : FastPathMoves ch s t) (c : Prop) [Decidable c] (n : Nat) (d : Due) :
    FastPathMoves ch s (if c then later n d t else t) := by
  split
  · obtain ⟨q, e, ht⟩ := h.frame
    exact ⟨⟨q, t.due ++ [(t.time + n, d)], by rw [ht]; rfl⟩, h.runs, h.others⟩
  · exact h

theorem fastPath_moves (ch : Fin 384) (s : State) : FastPathMoves ch s (fastPath ch s) := by
  unfold fastPath
  extract_lets n
  split
  · exact .refl _ _
  · exact (((FastPathMoves.setRuns _ _ s).later _ _ _).later _ _ _).later _ _ _

theorem fastPath_of_off {ch : Fin 384} {s : State} (h : fget SDF_CFG_OC_N ch s = 0) : fastPath ch s = s := if_pos h

/-- The filter of a channel with one more bit in its window. -/
def bitTakenIn (ch : Nat) (high : Bool) (s : State) : State :=
  updFilling ch (setSdf ch { sdf ch s with bits := ((s.time, high) :: (sdf ch s).bits).take 768, count := (sdf ch s).count + 1, last := some s.time } s)

theorem captureBit_of_configured {ch : Fin 384} {s : State} (h : (sdf ch s).conf = some s.time) (high : Bool) :
    captureBit ch high s = setSdf ch { sdf ch s with last := some s.time } s := if_pos h

theorem captureBit_of_counts {ch : Fin 384} {s : State} (h : (sdf ch s).conf ≠ some s.time) (high : Bool) :
    captureBit ch high s = fastPath ch (bitTakenIn ch high s) := if_neg h

theorem sdf_bitTakenIn (ch : Nat) (high : Bool) (s : State) :
    sdf ch (bitTakenIn ch high s) =
      { sdf ch s with bits := ((s.time, high) :: (sdf ch s).bits).take 768, count := (sdf ch s).count + 1, last := some s.time } := by
  simp [bitTakenIn]

theorem fget_bitTakenIn {F : Fld} (hF : F.id ≠ SDF_STAT_FILLING.id) (w ch : Nat) (high : Bool) (s : State) :
    fget F w (bitTakenIn ch high s) = fget F w s := fget_fset_other _ _ (Or.inl hF.symm)

theorem onlyFields_bitTakenIn (ch : Nat) (high : Bool) (s : State) : onlyFields [(SDF_STAT_FILLING, ch)] s (bitTakenIn ch high s) :=
  ((onlyFields.refl _ s).congr (u := setSdf ch _ s) rfl).fset _ (by simp)

theorem fastPath_bitTakenIn_frame (ch : Fin 384) (high : Bool) (s : State) : ∃ r q d,
    fastPath ch (bitTakenIn ch high s) = { s with regs := r, sdf := q, due := d } := by
  obtain ⟨q, d, h⟩ := (fastPath_moves ch (bitTakenIn ch high s)).frame
  exact ⟨_, q, d, h⟩

theorem execBitCapture_of_captures {ch : Fin 384} {s : State} (hon : clusterOn (ch / 16) s = true) (hcap : captures ch s = true)
    (hlast : (sdf ch s).last ≠ some s.time) (high : Bool) : execBitCapture ch high s = .next (captureBit ch high s) :=
  congrArg Host.Outcome.next (if_pos (by simp [hon, hcap, hlast]))

theorem execBitCapture_of_not {ch : Fin 384} {s : State} (h : clusterOn (ch / 16) s = false ∨ captures ch s = false ∨ (sdf ch s).last = some s.time)
    (high : Bool) : execBitCapture ch high s = .next s :=
  congrArg Host.Outcome.next (if_neg (by rcases h with h | h | h <;> simp [h]))

/-! ### Latch slots -/

theorem toNat_mod_two (b : Bool) : b.toNat % 2 = b.toNat := by cases b <;> rfl

theorem execSdfLatch_of_pos {ch : Fin 384} {s : State} (h : fget SDF_CFG_M ch s ≠ 0) (k : Fin 2) :
    execSdfLatch ch k s = .next (fset (sdfStale k) ch (!clkOk (ch / 16) s).toNat
      (fset (sdfRes k) ch (word (sinc3 (fget SDF_CFG_M ch s) ((sdf ch s).bits.filter (fun e => e.1 + 4 ≤ s.time)))) s)) := if_neg h

/-! ### The external clock -/

theorem execExternalClockEdge_of_rise {c : Fin 24} {s : State} (h : mayRise c s = true) :
    execExternalClockEdge c s = .next (clockEdge c (setClk c { clk c s with told := true } s)) := congrArg Host.Outcome.next (if_pos h)

/-- The state in which a command has told of an edge of cluster `c`'s clock, detected in the present dot. -/
def edgeSeen (c : Nat) (s : State) : State :=
  setClk c { clk c s with rose := some s.time, told := true } (setClk c { clk c s with told := true } s)

/-- The edge counts: CLK_OK is set and the watch armed (R79). -/
def edgeCounted (c : Nat) (s : State) : State :=
  fon SDF_COM_CLK_OK c (setClk c ⟨true, (s.time :: (clk c s).edges).take 2, some s.time, true⟩ (edgeSeen c s))

theorem clockEdge_told (c : Nat) (s : State) : clockEdge c (setClk c { clk c s with told := true } s) =
    if (clk c s).edges.any (fun e => decide (s.time < e + 12)) then fon SDF_COM_CLK_FAST c (edgeSeen c s) else edgeCounted c s := by
  simp only [clockEdge, clk_setClk_same]
  rfl

/-- An edge far enough from the last that counted sets CLK_OK (R79). -/
theorem execExternalClockEdge_of_far {c : Fin 24} {s : State} (hrise : mayRise c s = true) (h : ∀ e ∈ (clk c s).edges, e + 12 ≤ s.time) :
    execExternalClockEdge c s = .next (edgeCounted c s) := by
  have hfar : ¬ (clk c s).edges.any (fun e => decide (s.time < e + 12)) = true := by simpa using h
  rw [execExternalClockEdge_of_rise hrise, clockEdge_told, if_neg hfar]

/-- An edge too near to the last that counted sets CLK_FAST alone (R79). -/
theorem execExternalClockEdge_of_near {c : Fin 24} {s : State} (hrise : mayRise c s = true) (h : ∃ e ∈ (clk c s).edges, s.time < e + 12) :
    execExternalClockEdge c s = .next (fon SDF_COM_CLK_FAST c (edgeSeen c s)) := by
  have hnear : (clk c s).edges.any (fun e => decide (s.time < e + 12)) = true := by simpa using h
  rw [execExternalClockEdge_of_rise hrise, clockEdge_told, if_pos hnear]

theorem edgeSeen_frame (c : Nat) (s : State) : ∃ k, edgeSeen c s = { s with clk := k } := ⟨_, rfl⟩

theorem clk_edgeSeen_same (c : Nat) (s : State) : clk c (edgeSeen c s) = { clk c s with rose := some s.time, told := true } :=
  clk_setClk_same _ _ _

theorem clk_edgeSeen_other {c j : Nat} (hj : j ≠ c) (s : State) : clk j (edgeSeen c s) = clk j s :=
  (clk_setClk_other hj _ _).trans (clk_setClk_other hj _ _)

/-- A bit set beside a change of the watches. -/
theorem fon_clk_frame (F : Fld) (u : Nat) {s t : State} {k : SMap ClkH} (h : t = { s with clk := k }) :
    ∃ r l k, fon F u t = { s with regs := r, hits := l, clk := k } := by
  obtain ⟨r, l, hf⟩ := (RegsOnly.refl t).fon F u
  exact ⟨r, l, k, by rw [hf, h]⟩

theorem onlyFields_fon_edgeSeen (F : Fld) (c : Nat) (s : State) : onlyFields [(F, c)] s (fon F c (edgeSeen c s)) :=
  onlyFields.fon ((onlyFields.refl [(F, c)] s).congr (u := edgeSeen c s) rfl) (by simp)

theorem edgeCounted_frame (c : Nat) (s : State) : ∃ r l k, edgeCounted c s = { s with regs := r, hits := l, clk := k } :=
  fon_clk_frame (t := setClk c _ (edgeSeen c s)) SDF_COM_CLK_OK c rfl

theorem clk_edgeCounted_same (c : Nat) (s : State) :
    clk c (edgeCounted c s) = ⟨true, (s.time :: (clk c s).edges).take 2, some s.time, true⟩ := by
  rw [edgeCounted, clk_fon, clk_setClk_same]

theorem clk_edgeCounted_other {c j : Nat} (hj : j ≠ c) (s : State) : clk j (edgeCounted c s) = clk j s := by
  rw [edgeCounted, clk_fon, clk_setClk_other hj, clk_edgeSeen_other hj]

theorem onlyFields_edgeCounted (c : Nat) (s : State) : onlyFields [(SDF_COM_CLK_OK, c)] s (edgeCounted c s) :=
  onlyFields.fon ((onlyFields.refl [(SDF_COM_CLK_OK, c)] s).congr
    (u := setClk c ⟨true, (s.time :: (clk c s).edges).take 2, some s.time, true⟩ (edgeSeen c s)) rfl) (by simp)

theorem mayRise_iff (c : Nat) (s : State) :
    mayRise c s = true ↔ clusterOn c s = true ∧ fbit SDF_COM_CLK_SRC c s = true ∧ ∀ d ∈ (clk c s).rose, d + 1 < s.time := by
  cases h : (clk c s).rose with
  | none => simp [mayRise, h]
  | some d => simp [mayRise, h, and_assoc]

/-! ### One field of a write that may be refused -/

/-- A field that takes its value holds it; the value fits the field. -/
theorem fget_tryField_taken (F : Fld) {u v : Nat} (hv : v < 2 ^ F.w) (refuse : State → State) (s : State) :
    fget F u (tryField F u v false refuse s) = v := by
  unfold tryField
  split
  · assumption
  · simp [fget_fset_same, Nat.mod_eq_of_lt hv]

theorem onlyFields.tryField {fs : List (Fld × Nat)} {s t : State} (h : onlyFields fs s t) {F R : Fld} {u : Nat} (v : Nat) (bad : Bool)
    (hF : bad = false → (F, u) ∈ fs) (hR : bad = true → (R, u) ∈ fs) : onlyFields fs s (tryField F u v bad (Machine.fon R u) t) := by
  unfold Machine.tryField
  split
  · exact h
  · cases bad with
    | false => exact h.fset v (hF rfl)
    | true => exact h.fon (hR rfl)

theorem RegsOnly.tryField {s t : State} (h : RegsOnly s t) (F R : Fld) (u v : Nat) (bad : Bool) :
    RegsOnly s (tryField F u v bad (Machine.fon R u) t) := by
  unfold Machine.tryField
  split
  · exact h
  · split
    · exact h.fon R u
    · exact h.fset F u v

/-- Where a field would change and may not, the refusal is set. -/
theorem fget_tryField_refused {F R : Fld} {u v : Nat} {s : State} (hv : fget F u s ≠ v) (hR : R.w = 1) :
    fget R u (tryField F u v true (fon R u) s) = 1 := by
  rw [tryField, if_neg hv, if_pos rfl, fget_fon_same, hR]
  rfl

/-- A refusal once set stays set. -/
theorem fget_tryField_keeps_refusal {F R : Fld} {u : Nat} {s : State} (h : fget R u s = 1) (hF : F.id ≠ R.id) (hR : R.w = 1) (v : Nat)
    (bad : Bool) : fget R u (tryField F u v bad (fon R u) s) = 1 := by
  unfold tryField
  split
  · exact h
  · split
    · rw [fget_fon_same, hR]
      rfl
    · rw [fget_fset_other _ _ (Or.inl hF), h]

theorem fget_tryField_other {F G R : Fld} (hF : F.id ≠ G.id) (hR : R.id ≠ G.id) (u w v : Nat) (bad : Bool) (s : State) :
    fget G w (tryField F u v bad (fon R u) s) = fget G w s := by
  unfold tryField
  split
  · rfl
  · split
    · exact fget_fon_other _ (Or.inl hR)
    · exact fget_fset_other _ _ (Or.inl hF)

theorem bits_lt (n hi lo : Nat) : bits n hi lo < 2 ^ (hi + 1 - lo) := Nat.mod_lt _ (Nat.two_pow_pos _)

end Sys2Proof.Machine

namespace Sys2Proof.Machine

open Sys2Proof

/-! ### A channel configured -/

/-- What a channel keeps when it is configured in the present dot: the dot of its last capture. -/
def configured (ch : Nat) (s : State) : SdfH := { SdfH.init with last := (sdf ch s).last, conf := some s.time }

theorem reconfigure_frame (ch : Nat) (s : State) :
    ∃ r, reconfigure ch s = { s with regs := r, sdf := (setSdf ch (configured ch s) s).sdf } := ⟨_, rfl⟩

@[simp] theorem sdf_reconfigure_same (ch : Nat) (s : State) : sdf ch (reconfigure ch s) = configured ch s := by
  simp [reconfigure, configured]

theorem sdf_reconfigure_other {ch j : Nat} (hj : j ≠ ch) (s : State) : sdf j (reconfigure ch s) = sdf j s := by
  simp [reconfigure, sdf_setSdf_other hj]

theorem onlyFields_reconfigure {fs : List (Fld × Nat)} {ch : Nat} {s t : State} (h : onlyFields fs s t) (hm : (SDF_STAT_FILLING, ch) ∈ fs) :
    onlyFields fs s (reconfigure ch t) := (h.congr (u := setSdf ch _ t) rfl).fset _ hm

theorem fget_reconfigure {F : Fld} (hF : F.id ≠ SDF_STAT_FILLING.id) (w ch : Nat) (s : State) :
    fget F w (reconfigure ch s) = fget F w s :=
  fget_fset_other _ _ (Or.inl hF.symm)

theorem reconfigureAll_frame (ks : List Nat) (s : State) : ∃ r q, forAll ks reconfigure s = { s with regs := r, sdf := q } :=
  forAll_induct (fun t => ∃ r q, t = { s with regs := r, sdf := q }) ks reconfigure s ⟨_, _, rfl⟩ fun k _ t ⟨r, q, ht⟩ => by
    obtain ⟨r', h⟩ := reconfigure_frame k t
    rw [h, ht]
    exact ⟨_, _, rfl⟩

theorem onlyFields_reconfigureAll {fs : List (Fld × Nat)} {ks : List Nat} {s t : State} (h : onlyFields fs s t)
    (hm : ∀ k ∈ ks, (SDF_STAT_FILLING, k) ∈ fs) : onlyFields fs s (forAll ks reconfigure t) :=
  forAll_induct (onlyFields fs s) ks reconfigure t h fun k hk _ hu => onlyFields_reconfigure hu (hm k hk)

theorem fget_reconfigureAll {F : Fld} (hF : F.id ≠ SDF_STAT_FILLING.id) (w : Nat) (ks : List Nat) (s : State) :
    fget F w (forAll ks reconfigure s) = fget F w s :=
  forAll_induct (fun t => fget F w t = fget F w s) ks reconfigure s rfl fun k _ t ht => (fget_reconfigure hF w k t).trans ht

/-- Each channel of a list is configured, and no other is touched. -/
theorem sdf_reconfigureAll (ks : List Nat) (j : Nat) (s : State) :
    sdf j (forAll ks reconfigure s) = if j ∈ ks then configured j s else sdf j s := by
  induction ks generalizing s with
  | nil => rfl
  | cons k ks ih =>
    rw [forAll_cons, ih]
    obtain ⟨r, hk⟩ := reconfigure_frame k s
    have htime : (reconfigure k s).time = s.time := by rw [hk]
    by_cases hj : j = k
    · subst hj
      have hsame : configured j (reconfigure j s) = configured j s := by simp only [configured, sdf_reconfigure_same, htime]
      simp [hsame]
    · have hsame : configured j (reconfigure k s) = configured j s := by simp only [configured, sdf_reconfigure_other hj, htime]
      simp [hj, hsame, sdf_reconfigure_other hj]

/-! ### SDF_CFG -/

/-- The fields of SDF_CFG as a write of `v` leaves them: each judged by its own range, OC_N and OC_CONSEC also by one another (R82, R500). -/
def cfgFields (ch v : Nat) (s : State) : State :=
  let m := bits v 24 16
  let n := bits v 11 8
  let q := bits v 6 4
  let run := regionRun (ch / 96) s
  let refuse := fon SDF_STAT_CFG_REFUSED ch
  let n' := if sdfNBad n then fget SDF_CFG_OC_N ch s else n
  let badQ := sdfQBad n' q || sdfPairBad n' q
  let q' := if badQ then fget SDF_CFG_OC_CONSEC ch s else q
  let badN := sdfNBad n || sdfPairBad n q || sdfQBad n q' || sdfPairBad n q'
  let s1 := tryField SDF_CFG_M ch m (sdfMBad m || run) refuse s
  let s1 := tryField SDF_CFG_OC_N ch n (badN || run) refuse s1
  let s1 := if badQ then refuse s1 else tryField SDF_CFG_OC_CONSEC ch q run refuse s1
  tryField SDF_CFG_SKEW ch (bits v 3 0) run refuse s1

/-- The four fields hold what the word gives them. -/
def cfgTaken (ch v : Nat) (t : State) : Bool :=
  fget SDF_CFG_M ch t == bits v 24 16 && fget SDF_CFG_OC_N ch t == bits v 11 8 && fget SDF_CFG_OC_CONSEC ch t == bits v 6 4
    && fget SDF_CFG_SKEW ch t == bits v 3 0

/-- The four fields hold what they held. -/
def cfgHeld (ch : Nat) (s t : State) : Bool :=
  fget SDF_CFG_M ch t == fget SDF_CFG_M ch s && fget SDF_CFG_OC_N ch t == fget SDF_CFG_OC_N ch s
    && fget SDF_CFG_OC_CONSEC ch t == fget SDF_CFG_OC_CONSEC ch s && fget SDF_CFG_SKEW ch t == fget SDF_CFG_SKEW ch s

theorem writeSdfCfg_eq (ch v : Nat) (s : State) : writeSdfCfg ch v s =
    if cfgTaken ch v (cfgFields ch v s) || !cfgHeld ch s (cfgFields ch v s) then reconfigure ch (cfgFields ch v s) else cfgFields ch v s := rfl

/-- The fields of SDF_CFG. -/
def cfgFieldList (ch : Nat) : List (Fld × Nat) := [(SDF_CFG_M, ch), (SDF_CFG_OC_N, ch), (SDF_CFG_OC_CONSEC, ch), (SDF_CFG_SKEW, ch)]

theorem cfgFields_regsOnly (ch v : Nat) (s : State) : RegsOnly s (cfgFields ch v s) := by
  unfold cfgFields
  extract_lets m n q run refuse n' badQ q' badN s1 s2 s3
  have h2 : RegsOnly s s2 := ((RegsOnly.refl s).tryField _ _ _ _ _).tryField _ _ _ _ _
  have h3 : RegsOnly s s3 := by
    simp only [s3]
    split
    · exact h2.fon _ _
    · exact h2.tryField _ _ _ _ _
  exact h3.tryField _ _ _ _ _

/-! An acceptable word outside RUN -/

/-- Four fields written one after the other. -/
def cfgWritten (ch v : Nat) (s : State) : State :=
  let refuse := fon SDF_STAT_CFG_REFUSED ch
  tryField SDF_CFG_SKEW ch (bits v 3 0) false refuse (tryField SDF_CFG_OC_CONSEC ch (bits v 6 4) false refuse
    (tryField SDF_CFG_OC_N ch (bits v 11 8) false refuse (tryField SDF_CFG_M ch (bits v 24 16) false refuse s)))

theorem cfgFields_of_good {ch v : Nat} {s : State} (hrun : regionRun (ch / 96) s = false) (hm : sdfMBad (bits v 24 16) = false)
    (hoc : sdfOcBad (bits v 11 8) (bits v 6 4) = false) : cfgFields ch v s = cfgWritten ch v s := by
  simp only [sdfOcBad, Bool.or_eq_false_iff] at hoc
  obtain ⟨⟨hn, hq⟩, hp⟩ := hoc
  simp [cfgFields, cfgWritten, hrun, hm, hn, hq, hp]

theorem tryField_taken_frame (F : Fld) (u v : Nat) (refuse : State → State) (s : State) :
    ∃ r, tryField F u v false refuse s = { s with regs := r } := by
  unfold tryField
  split
  · exact ⟨_, rfl⟩
  · exact ⟨_, rfl⟩

theorem cfgWritten_frame (ch v : Nat) (s : State) : ∃ r, cfgWritten ch v s = { s with regs := r } := by
  unfold cfgWritten
  extract_lets refuse
  obtain ⟨r1, h1⟩ := tryField_taken_frame SDF_CFG_M ch (bits v 24 16) refuse s
  rw [h1]
  obtain ⟨r2, h2⟩ := tryField_taken_frame SDF_CFG_OC_N ch (bits v 11 8) refuse { s with regs := r1 }
  rw [h2]
  obtain ⟨r3, h3⟩ := tryField_taken_frame SDF_CFG_OC_CONSEC ch (bits v 6 4) refuse { s with regs := r2 }
  rw [h3]
  exact tryField_taken_frame SDF_CFG_SKEW ch (bits v 3 0) refuse { s with regs := r3 }

theorem onlyFields_cfgWritten (ch v : Nat) (s : State) : onlyFields (cfgFieldList ch) s (cfgWritten ch v s) :=
  ((((onlyFields.refl _ s).tryField _ false (by simp [cfgFieldList]) nofun).tryField _ false (by simp [cfgFieldList]) nofun).tryField _ false
    (by simp [cfgFieldList]) nofun).tryField _ false (by simp [cfgFieldList]) nofun

/-- Every field holds its part of the word. -/
theorem fget_cfgWritten (ch v : Nat) (s : State) :
    fget SDF_CFG_M ch (cfgWritten ch v s) = bits v 24 16 ∧ fget SDF_CFG_OC_N ch (cfgWritten ch v s) = bits v 11 8
    ∧ fget SDF_CFG_OC_CONSEC ch (cfgWritten ch v s) = bits v 6 4 ∧ fget SDF_CFG_SKEW ch (cfgWritten ch v s) = bits v 3 0 := by
  refine ⟨?_, ?_, ?_, fget_tryField_taken _ (bits_lt _ _ _) _ _⟩
  · rw [cfgWritten, fget_tryField_other (by decide) (by decide), fget_tryField_other (by decide) (by decide),
      fget_tryField_other (by decide) (by decide), fget_tryField_taken _ (bits_lt _ _ _)]
  · rw [cfgWritten, fget_tryField_other (by decide) (by decide), fget_tryField_other (by decide) (by decide),
      fget_tryField_taken _ (bits_lt _ _ _)]
  · rw [cfgWritten, fget_tryField_other (by decide) (by decide), fget_tryField_taken _ (bits_lt _ _ _)]

theorem writeSdfCfg_of_good {ch v : Nat} {s : State} (hrun : regionRun (ch / 96) s = false) (hm : sdfMBad (bits v 24 16) = false)
    (hoc : sdfOcBad (bits v 11 8) (bits v 6 4) = false) : writeSdfCfg ch v s = reconfigure ch (cfgWritten ch v s) := by
  obtain ⟨h1, h2, h3, h4⟩ := fget_cfgWritten ch v s
  rw [writeSdfCfg_eq, cfgFields_of_good hrun hm hoc]
  exact if_pos (by simp [cfgTaken, h1, h2, h3, h4])

/-! A word that changes a field in RUN -/

/-- The refusal of SDF_CFG alone has been written. -/
structure OnlyRefused (ch : Nat) (s t : State) : Prop where
  frame : RegsOnly s t
  fields : onlyFields [(SDF_STAT_CFG_REFUSED, ch)] s t

theorem OnlyRefused.refl (ch : Nat) (s : State) : OnlyRefused ch s s := ⟨RegsOnly.refl s, onlyFields.refl _ s⟩

theorem OnlyRefused.tryField {ch : Nat} {s t : State} (h : OnlyRefused ch s t) (F : Fld) (v : Nat) :
    OnlyRefused ch s (tryField F ch v true (fon SDF_STAT_CFG_REFUSED ch) t) :=
  ⟨h.frame.tryField _ _ _ _ _, h.fields.tryField v true nofun fun _ => by simp⟩

theorem OnlyRefused.fon {ch : Nat} {s t : State} (h : OnlyRefused ch s t) : OnlyRefused ch s (fon SDF_STAT_CFG_REFUSED ch t) :=
  ⟨h.frame.fon _ _, h.fields.fon (by simp)⟩

/-- OC_CONSEC in RUN: refused where it disagrees with OC_N or would change. -/
def consecTried (ch q : Nat) (badQ : Bool) (t : State) : State :=
  if badQ then fon SDF_STAT_CFG_REFUSED ch t else tryField SDF_CFG_OC_CONSEC ch q true (fon SDF_STAT_CFG_REFUSED ch) t

theorem cfgFields_of_run {ch v : Nat} {s : State} (hrun : regionRun (ch / 96) s = true) :
    ∃ badQ, cfgFields ch v s = tryField SDF_CFG_SKEW ch (bits v 3 0) true (fon SDF_STAT_CFG_REFUSED ch)
      (consecTried ch (bits v 6 4) badQ (tryField SDF_CFG_OC_N ch (bits v 11 8) true (fon SDF_STAT_CFG_REFUSED ch)
        (tryField SDF_CFG_M ch (bits v 24 16) true (fon SDF_STAT_CFG_REFUSED ch) s))) := by
  unfold cfgFields
  extract_lets m n q run refuse n' badQ q' badN s1 s2 s3
  refine ⟨badQ, ?_⟩
  simp only [s3, s2, s1, run, hrun, Bool.or_true]
  rfl

theorem OnlyRefused.consecTried {ch : Nat} {s t : State} (h : OnlyRefused ch s t) (q : Nat) (badQ : Bool) :
    OnlyRefused ch s (consecTried ch q badQ t) := by
  unfold Machine.consecTried
  split
  · exact h.fon
  · exact h.tryField _ _

theorem fget_consecTried_keeps {ch : Nat} {t : State} (h : fget SDF_STAT_CFG_REFUSED ch t = 1) (q : Nat) (badQ : Bool) :
    fget SDF_STAT_CFG_REFUSED ch (consecTried ch q badQ t) = 1 := by
  unfold consecTried
  split
  · exact fget_fon_same _ _ _
  · exact fget_tryField_keeps_refusal h (by decide) rfl _ _

theorem fget_consecTried_refused {ch q : Nat} {t : State} (h : fget SDF_CFG_OC_CONSEC ch t ≠ q) (badQ : Bool) :
    fget SDF_STAT_CFG_REFUSED ch (consecTried ch q badQ t) = 1 := by
  unfold consecTried
  split
  · exact fget_fon_same _ _ _
  · exact fget_tryField_refused h rfl

/-- In RUN no field changes. -/
theorem cfgFields_onlyRefused {ch v : Nat} {s : State} (hrun : regionRun (ch / 96) s = true) : OnlyRefused ch s (cfgFields ch v s) := by
  obtain ⟨badQ, h⟩ := cfgFields_of_run (v := v) hrun
  rw [h]
  exact (((OnlyRefused.refl ch s).tryField _ _).tryField _ _ |>.consecTried _ _).tryField _ _

/-- The word would change a field of SDF_CFG. -/
def cfgChanges (ch v : Nat) (s : State) : Prop :=
  bits v 24 16 ≠ fget SDF_CFG_M ch s ∨ bits v 11 8 ≠ fget SDF_CFG_OC_N ch s ∨ bits v 3 0 ≠ fget SDF_CFG_SKEW ch s
    ∨ bits v 6 4 ≠ fget SDF_CFG_OC_CONSEC ch s

theorem fget_refused_cfgFields_of_run {ch v : Nat} {s : State} (hrun : regionRun (ch / 96) s = true) (hc : cfgChanges ch v s) :
    fget SDF_STAT_CFG_REFUSED ch (cfgFields ch v s) = 1 := by
  obtain ⟨badQ, h⟩ := cfgFields_of_run (v := v) hrun
  have h1 := (OnlyRefused.refl ch s).tryField SDF_CFG_M (bits v 24 16)
  have h2 := h1.tryField SDF_CFG_OC_N (bits v 11 8)
  have h3 := h2.consecTried (bits v 6 4) badQ
  rw [h]
  rcases hc with hM | hN | hS | hQ
  · refine fget_tryField_keeps_refusal (fget_consecTried_keeps (fget_tryField_keeps_refusal ?_ (by decide) rfl _ _) _ _) (by decide) rfl _ _
    exact fget_tryField_refused hM.symm rfl
  · refine fget_tryField_keeps_refusal (fget_consecTried_keeps ?_ _ _) (by decide) rfl _ _
    exact fget_tryField_refused (by rw [h1.fields.reg rfl]; exact hN.symm) rfl
  · exact fget_tryField_refused (by rw [h3.fields.reg rfl]; exact hS.symm) rfl
  · refine fget_tryField_keeps_refusal (fget_consecTried_refused ?_ _) (by decide) rfl _ _
    rw [h2.fields.reg rfl]
    exact hQ.symm

theorem writeSdfCfg_of_run {ch v : Nat} {s : State} (hrun : regionRun (ch / 96) s = true) (hc : cfgChanges ch v s) :
    writeSdfCfg ch v s = cfgFields ch v s := by
  have h := (cfgFields_onlyRefused (v := v) hrun).fields
  rw [writeSdfCfg_eq]
  refine if_neg ?_
  simp only [cfgTaken, cfgHeld, h.reg (F := SDF_CFG_M) rfl, h.reg (F := SDF_CFG_OC_N) rfl, h.reg (F := SDF_CFG_OC_CONSEC) rfl,
    h.reg (F := SDF_CFG_SKEW) rfl]
  rcases hc with h | h | h | h <;> simp [h.symm]

/-! A word with an M out of range -/

theorem fget_m_cfgFields {ch v : Nat} {s : State} (hbad : sdfMBad (bits v 24 16) = true) (hne : fget SDF_CFG_M ch s ≠ bits v 24 16) :
    fget SDF_CFG_M ch (cfgFields ch v s) = fget SDF_CFG_M ch s ∧ fget SDF_STAT_CFG_REFUSED ch (cfgFields ch v s) = 1 := by
  unfold cfgFields
  extract_lets m n q run refuse n' badQ q' badN s1 s2 s3
  have hs1 : s1 = fon SDF_STAT_CFG_REFUSED ch s := by
    simp only [s1, m, hbad, Bool.true_or]
    exact (if_neg hne).trans (if_pos rfl)
  have h2 : fget SDF_CFG_M ch s2 = fget SDF_CFG_M ch s ∧ fget SDF_STAT_CFG_REFUSED ch s2 = 1 := by
    refine ⟨(fget_tryField_other (by decide) (by decide) _ _ _ _ _).trans ?_, fget_tryField_keeps_refusal ?_ (by decide) rfl _ _⟩
    · rw [hs1, fget_fon_other _ (Or.inl (by decide))]
    · rw [hs1, fget_fon_same]
      rfl
  have h3 : fget SDF_CFG_M ch s3 = fget SDF_CFG_M ch s ∧ fget SDF_STAT_CFG_REFUSED ch s3 = 1 := by
    simp only [s3]
    split
    · exact ⟨(fget_fon_other _ (Or.inl (by decide))).trans h2.1, fget_fon_same _ _ _⟩
    · exact ⟨(fget_tryField_other (by decide) (by decide) _ _ _ _ _).trans h2.1, fget_tryField_keeps_refusal h2.2 (by decide) rfl _ _⟩
  exact ⟨(fget_tryField_other (by decide) (by decide) _ _ _ _ _).trans h3.1, fget_tryField_keeps_refusal h3.2 (by decide) rfl _ _⟩

theorem writeSdfCfg_frame (ch v : Nat) (s : State) : ∃ r l q, writeSdfCfg ch v s = { s with regs := r, hits := l, sdf := q } := by
  obtain ⟨r, l, h⟩ := cfgFields_regsOnly ch v s
  rw [writeSdfCfg_eq, h]
  split
  · exact ⟨_, _, _, rfl⟩
  · exact ⟨_, _, _, rfl⟩

theorem fget_writeSdfCfg {F : Fld} (hF : F.id ≠ SDF_STAT_FILLING.id) (w ch v : Nat) (s : State) :
    fget F w (writeSdfCfg ch v s) = fget F w (cfgFields ch v s) := by
  rw [writeSdfCfg_eq]
  split
  · exact fget_reconfigure hF w ch _
  · rfl

end Sys2Proof.Machine

namespace Sys2Proof.Machine

open Sys2Proof

/-! ### SDF_COM.CLK_SRC -/

theorem writeClkSrc_of_same {c v : Nat} {s : State} (h : fget SDF_COM_CLK_SRC c s = v) : writeClkSrc c v s = s := if_pos h

theorem writeClkSrc_of_run {c v : Nat} {s : State} (h : fget SDF_COM_CLK_SRC c s ≠ v) (hrun : regionRun (c / 6) s = true) :
    writeClkSrc c v s = fon SDF_COM_CFG_REFUSED c s := (if_neg h).trans (if_pos hrun)

/-- The numbers of the 16 channels of cluster `c`. -/
def clusterChannels (c : Nat) : List Nat := (List.range 16).map (fun i => 16 * c + i)

theorem mem_clusterChannels {c ch : Nat} : ch ∈ clusterChannels c ↔ ch / 16 = c := by
  simp only [clusterChannels, List.mem_map, List.mem_range]
  constructor
  · rintro ⟨i, hi, rfl⟩
    omega
  · intro h
    exact ⟨ch % 16, by omega, by omega⟩

/-- The cluster with its clock source changed, the watch of the external clock at rest. -/
def sourceChanged (c v : Nat) (s : State) : State :=
  foff SDF_COM_CLK_OK c (setClk c { clk c s with armed := false, edges := [] } (fset SDF_COM_CLK_SRC c v s))

theorem writeClkSrc_of_change {c v : Nat} {s : State} (h : fget SDF_COM_CLK_SRC c s ≠ v) (hrun : regionRun (c / 6) s = false) :
    writeClkSrc c v s = forAll (clusterChannels c) reconfigure (sourceChanged c v s) :=
  (if_neg h).trans (if_neg (by simp [hrun]))

theorem configured_sourceChanged (c v j : Nat) (s : State) : configured j (sourceChanged c v s) = configured j s := rfl

theorem clk_sourceChanged_same (c v : Nat) (s : State) : clk c (sourceChanged c v s) = { clk c s with armed := false, edges := [] } :=
  clk_setClk_same _ _ _

theorem clk_sourceChanged_other {c j : Nat} (hj : j ≠ c) (v : Nat) (s : State) : clk j (sourceChanged c v s) = clk j s :=
  (clk_setClk_other hj _ _).trans rfl

theorem fget_src_sourceChanged (c : Nat) (ext : Bool) (s : State) : fget SDF_COM_CLK_SRC c (sourceChanged c ext.toNat s) = ext.toNat := by
  rw [sourceChanged, fget_foff_other _ (Or.inl (by decide)), fget_setClk, fget_fset_same]
  exact toNat_mod_two ext

theorem onlyFields_sourceChanged {fs : List (Fld × Nat)} {c : Nat} (hsrc : (SDF_COM_CLK_SRC, c) ∈ fs) (hok : (SDF_COM_CLK_OK, c) ∈ fs)
    (v : Nat) (s : State) : onlyFields fs s (sourceChanged c v s) :=
  (((onlyFields.refl fs s).fset v hsrc).congr (u := setClk c { clk c s with armed := false, edges := [] } (fset SDF_COM_CLK_SRC c v s)) rfl).foff hok

/-! ### A decision of the fast path -/

theorem ocDecision_frame (ch : Nat) (high : Bool) (s : State) : ∃ r l, ocDecision ch high s =
    { s with regs := r, hits := l, fab := { s.fab with now := nput (0x600 + 4 * ch + if high then 0 else 1) s.fab.now } } := by
  obtain ⟨r, l, h⟩ := ((RegsOnly.refl s).fon (if high then SDF_STAT_OC_HI else SDF_STAT_OC_LO) ch).fon SDF_STAT_OC_LIVE ch
  exact ⟨r, l, by rw [ocDecision, h]; rfl⟩

theorem onlyFields_ocDecision (ch : Nat) (high : Bool) (s : State) :
    onlyFields [(SDF_STAT_OC_LIVE, ch), (if high then SDF_STAT_OC_HI else SDF_STAT_OC_LO, ch)] s (ocDecision ch high s) :=
  (((onlyFields.refl _ s).fon (by simp)).fon (by simp)).congr rfl

theorem fget_ocDecision (ch : Nat) (high : Bool) (s : State) : fget SDF_STAT_OC_LIVE ch (ocDecision ch high s) = 1
    ∧ fget (if high then SDF_STAT_OC_HI else SDF_STAT_OC_LO) ch (ocDecision ch high s) = 1 := by
  refine ⟨fget_fon_same _ _ _, ?_⟩
  rw [ocDecision, fget_fire]
  cases high
  · exact (fget_fon_other _ (Or.inl (by decide))).trans (fget_fon_same _ _ _)
  · exact (fget_fon_other _ (Or.inl (by decide))).trans (fget_fon_same _ _ _)

/-! ### The loss of an external clock -/

/-- The bits that show the loss. -/
def clockLost (c : Nat) (s : State) : State := fon SDF_COM_CLK_LOST c (foff SDF_COM_CLK_OK c s)

theorem execSdfClklost_of_armed {c : Fin 24} {s : State} (hsrc : fbit SDF_COM_CLK_SRC c s = true) (h : (clk c s).armed = true) :
    execSdfClklost c s = .next (report (csrc c 1) 0 0 (fire (0x0C00 + c) (clockLost c s))) := if_pos (by simp [hsrc, h])

theorem execSdfClklost_of_not {c : Fin 24} {s : State} (h : fbit SDF_COM_CLK_SRC c s = false ∨ (clk c s).armed = false) :
    execSdfClklost c s = .next s := if_neg (by rcases h with h | h <;> simp [h])

theorem onlyFields_clockLost (c : Nat) (s : State) : onlyFields [(SDF_COM_CLK_OK, c), (SDF_COM_CLK_LOST, c)] s (clockLost c s) :=
  ((onlyFields.refl _ s).foff (by simp)).fon (by simp)

theorem clockLost_regsOnly (c : Nat) (s : State) : RegsOnly s (clockLost c s) := ((RegsOnly.refl s).foff _ _).fon _ _

theorem fget_clockLost (c : Nat) (s : State) : fget SDF_COM_CLK_OK c (clockLost c s) = 0 ∧ fget SDF_COM_CLK_LOST c (clockLost c s) = 1 :=
  ⟨(fget_fon_other _ (Or.inl (by decide))).trans (fget_foff_same _ _ _), fget_fon_same _ _ _⟩

/-- The loss issues its event and is reported. -/
theorem clockLoss_reports (c : Nat) (s : State) : ∃ r l,
    report (csrc c 1) 0 0 (fire (0x0C00 + c) (clockLost c s)) =
      { s with regs := r, hits := l, fab := { s.fab with now := nput (0x0C00 + c) s.fab.now }
               flt := { s.flt with reports := s.flt.reports ++ reportOf (csrc c 1) 0 0 s } } := by
  obtain ⟨r, l, h⟩ := clockLost_regsOnly c s
  have hf := (onlyFields_clockLost c s).congr (u := fire (0x0C00 + c) (clockLost c s)) rfl
  have hrep := hf.reportOf rfl (by simp [h]) (by simp [h]) (by simp [h]) (csrc c 1) 0 0
  refine ⟨r, l, ?_⟩
  rw [report, hrep, h]
  rfl

/-! ### The statement -/

/-- Settles O15: each command from the frame of the register writes that it makes, SDF_CFG in its cases of an acceptable word, of a region in
RUN and of an M out of range. -/
theorem sigmaDelta : Obligations.SigmaDelta := by
  intro s
  refine ⟨fun ch high hon hcap hlast hconf => ?_, fun ch high hon hcap hlast hconf => ?_,
    fun ch high h => execBitCapture_of_not h high, fun ch hm => ?_, fun ch hm => ?_, fun ch k hm => if_pos hm,
    fun ch high hon => ?_, fun ch high hoff => congrArg Host.Outcome.next (inCluster_off hoff _), fun ch => ?_,
    fun c hsrc harmed => ?_, fun c h => execSdfClklost_of_not h, fun c hrise hfar => ?_, fun c hrise hnear => ?_,
    fun c h => congrArg Host.Outcome.next (if_neg (by simp [h])), fun c => mayRise_iff c s,
    fun ch v hon hrun hm hoc => ?_, fun ch v hon hrun hc => ?_, fun ch v hon hbad hne => ?_,
    fun c ext hon hsame => ?_, fun c ext hon hne hrun => ?_,
    fun ch v hoff => congrArg Host.Outcome.next (toCluster_off hoff _), fun c ext hoff => congrArg Host.Outcome.next (toCluster_off hoff _),
    fun c ext hon hne hrun => ?_⟩
  · obtain ⟨-, ⟨hi, lo, hruns⟩, hothers⟩ := fastPath_moves ch (bitTakenIn ch high s)
    obtain ⟨r, q, d, hframe⟩ := fastPath_bitTakenIn_frame ch high s
    obtain ⟨q', d', hmoved⟩ := (fastPath_moves ch (bitTakenIn ch high s)).frame
    refine ⟨fastPath ch (bitTakenIn ch high s),
      (execBitCapture_of_captures hon hcap hlast high).trans (congrArg Host.Outcome.next (captureBit_of_counts hconf high)),
      by rw [hframe], (onlyFields_bitTakenIn ch high s).congr (by rw [hmoved]), ?_, ?_, ?_, fun hn => ?_, fun j hj => ?_⟩
    · rw [hruns, sdf_bitTakenIn]
    · rw [hruns, sdf_bitTakenIn]
    · rw [hruns, sdf_bitTakenIn]
    · rw [fastPath_of_off ((fget_bitTakenIn (by decide) _ _ _ _).trans hn)]
      rfl
    · rw [hothers j hj, bitTakenIn, sdf_updFilling, sdf_setSdf_other hj]
  · exact ⟨setSdf ch { sdf ch s with last := some s.time } s,
      (execBitCapture_of_captures hon hcap hlast high).trans (congrArg Host.Outcome.next (captureBit_of_configured hconf high)),
      rfl, sdf_setSdf_same _ _ _, fun j hj => sdf_setSdf_other hj _ _⟩
  · refine ⟨_, execSdfLatch_of_pos hm 0, rfl, ((onlyFields.refl _ s).fset _ (by simp [sdfRes])).fset _ (by simp [sdfStale]), ?_, ?_⟩
    · exact (fget_fset_other _ _ (Or.inl (by decide))).trans ((fget_fset_same _ _ _ _).trans (word_mod _))
    · exact (fget_fset_same _ _ _ _).trans (toNat_mod_two _)
  · refine ⟨_, execSdfLatch_of_pos hm 1, rfl, ((onlyFields.refl _ s).fset _ (by simp [sdfRes])).fset _ (by simp [sdfStale]), ?_, ?_⟩
    · exact (fget_fset_other _ _ (Or.inl (by decide))).trans ((fget_fset_same _ _ _ _).trans (word_mod _))
    · exact (fget_fset_same _ _ _ _).trans (toNat_mod_two _)
  · obtain ⟨r, l, h⟩ := ocDecision_frame ch high s
    obtain ⟨hlive, hside⟩ := fget_ocDecision ch high s
    refine ⟨ocDecision ch high s, congrArg Host.Outcome.next (inCluster_on hon _), by rw [h], ?_, hlive, hside, onlyFields_ocDecision ch high s⟩
    rw [issued, h]
  · exact ⟨foff SDF_STAT_OC_LIVE ch s, rfl, rfl, (onlyFields.refl _ s).foff (by simp), fget_foff_same _ _ _⟩
  · obtain ⟨r, l, h⟩ := clockLoss_reports c s
    obtain ⟨hok, hlost⟩ := fget_clockLost c s
    refine ⟨_, execSdfClklost_of_armed hsrc harmed, by rw [h], by rw [issued, h], by rw [reported, h],
      (onlyFields_clockLost c s).congr (by rw [report_regs, fire_regs]), by rw [fget_report, fget_fire, hok], by rw [fget_report, fget_fire, hlost]⟩
  · obtain ⟨r, l, k, h⟩ := edgeCounted_frame c s
    exact ⟨edgeCounted c s, execExternalClockEdge_of_far hrise hfar, by rw [h], clk_edgeCounted_same c s,
      fun j hj => clk_edgeCounted_other hj s, onlyFields_edgeCounted c s, fget_fon_same _ _ _⟩
  · obtain ⟨k, hseen⟩ := edgeSeen_frame c s
    obtain ⟨r, l, k, h⟩ := fon_clk_frame SDF_COM_CLK_FAST c hseen
    exact ⟨fon SDF_COM_CLK_FAST c (edgeSeen c s), execExternalClockEdge_of_near hrise hnear, by rw [h],
      (clk_fon _ _ _ _).trans (clk_edgeSeen_same c s), fun j hj => (clk_fon _ _ _ _).trans (clk_edgeSeen_other hj s),
      onlyFields_fon_edgeSeen _ c s, fget_fon_same _ _ _⟩
  · obtain ⟨r, h⟩ := cfgWritten_frame ch v.toNat s
    obtain ⟨hM, hN, hQ, hS⟩ := fget_cfgWritten ch v.toNat s
    refine ⟨reconfigure ch (cfgWritten ch v.toNat s),
      congrArg Host.Outcome.next ((toCluster_on hon _).trans (writeSdfCfg_of_good hrun hm hoc)), by rw [h]; rfl,
      (fget_reconfigure (by decide) _ _ _).trans hM, (fget_reconfigure (by decide) _ _ _).trans hN, (fget_reconfigure (by decide) _ _ _).trans hQ,
      (fget_reconfigure (by decide) _ _ _).trans hS, ?_, ?_⟩
    · rw [sdf_reconfigure_same, h]
      rfl
    · exact onlyFields_reconfigure ((onlyFields_cfgWritten ch v.toNat s).mono (by simp [cfgFieldList])) (by simp)
  · obtain ⟨⟨r, l, h⟩, hf⟩ := cfgFields_onlyRefused (v := v.toNat) hrun
    exact ⟨cfgFields ch v.toNat s, congrArg Host.Outcome.next ((toCluster_on hon _).trans (writeSdfCfg_of_run hrun hc)), by rw [h], hf,
      fget_refused_cfgFields_of_run hrun hc⟩
  · obtain ⟨r, l, q, h⟩ := writeSdfCfg_frame ch v.toNat s
    obtain ⟨hM, hR⟩ := fget_m_cfgFields hbad hne
    exact ⟨writeSdfCfg ch v.toNat s, congrArg Host.Outcome.next (toCluster_on hon _), by rw [h],
      (fget_writeSdfCfg (by decide) _ _ _ _).trans hM, (fget_writeSdfCfg (by decide) _ _ _ _).trans hR⟩
  · exact congrArg Host.Outcome.next ((toCluster_on hon _).trans (writeClkSrc_of_same hsame))
  · exact ⟨fon SDF_COM_CFG_REFUSED c s, congrArg Host.Outcome.next ((toCluster_on hon _).trans (writeClkSrc_of_run hne hrun)), by rw [fon_eq]; rfl,
      (onlyFields.refl _ s).fon (by simp), fget_fon_same _ _ _⟩
  · set m := sourceChanged c ext.toNat s with hm
    obtain ⟨r, q, h⟩ := reconfigureAll_frame (clusterChannels c) m
    have hclk : ∀ j, clk j (forAll (clusterChannels c) reconfigure m) = clk j m := fun j => by rw [h]; rfl
    refine ⟨forAll (clusterChannels c) reconfigure m, congrArg Host.Outcome.next ((toCluster_on hon _).trans (writeClkSrc_of_change hne hrun)),
      by rw [h]; rfl, (fget_reconfigureAll (by decide) _ _ _).trans (fget_src_sourceChanged c ext s),
      (fget_reconfigureAll (by decide) _ _ _).trans (fget_foff_same _ _ _), fun j hj => ?_, ?_, fun i hi => ?_, fun ch hch => ?_, ?_⟩
    · rw [hclk, hm, clk_sourceChanged_other hj]
    · rw [hclk, hm, clk_sourceChanged_same]
    · rw [sdf_reconfigureAll, if_pos (mem_clusterChannels.mpr (by omega)), hm, configured_sourceChanged]
      rfl
    · rw [sdf_reconfigureAll, if_neg fun hin => hch (mem_clusterChannels.mp hin)]
      rfl
    · refine onlyFields_reconfigureAll (onlyFields_sourceChanged (by simp) (by simp) _ _) fun k hk => ?_
      obtain ⟨i, hi, rfl⟩ := List.mem_map.mp hk
      exact List.mem_append_right _ (List.mem_map.mpr ⟨i, hi, rfl⟩)

end Sys2Proof.Machine

/-! The reset state, and two statements that fail: each with a state that the model evaluates to the refuting outcome. -/
namespace Sys2Proof.Machine

open Sys2Proof

/-- Settles O5: each part of the reset state is evaluated. -/
theorem resetState : Obligations.ResetState := by
  unfold Obligations.ResetState
  decide

/-! ### A commit that moves the phase origin a second time -/

/-- A frame boundary at dot 100 where a commit waits, in a sweep whose phase origin moved once before, from dot 0 to dot 40. -/
def commitAtBoundary : State :=
  { State.reset with time := 100, swp := { Sweep.init with waiting := some ⟨1600, 0, 5, 0⟩, origin := 40 } }

/-- The origin that the commit replaces is kept beside the new one (R30, R31). -/
theorem geomEffect_keeps_replaced_origin :
    commitAtBoundary.swp.origin0 = 0 ∧ (geomEffect commitAtBoundary).swp.origin0 = 40 := by decide

/-- Refutes O7, in the clause of the effect: the sweep also keeps the origin that the commit replaces, as the origin before the present one,
which the statement says stays as it was. -/
theorem not_geometryCommit : ¬ Obligations.GeometryCommit := by
  intro h
  obtain ⟨-, -, -, -, -, heffect, -⟩ := h commitAtBoundary
  obtain ⟨t, ht, hframe, -⟩ := heffect ⟨1600, 0, 5, 0⟩ rfl rfl rfl
  obtain rfl : geomEffect commitAtBoundary = t := Host.Outcome.next.inj ht
  obtain ⟨hbefore, hafter⟩ := geomEffect_keeps_replaced_origin
  have hkept : (geomEffect commitAtBoundary).swp.origin0 = commitAtBoundary.swp.origin0 := congrArg (fun u => u.swp.origin0) hframe
  omega

/-! ### A write across clusters that a trace tap samples -/

/-- A PUTW step that names word 4 of context 128, the first of cluster 1. -/
def putwAcross : StepW := ⟨0, 4, 0, 0, 0, false, 0x2004⟩

/-- A run of context 0 at its first step. -/
def putwRun : Run := ⟨0, 0, 0, 0, ⟨0, 0, 0⟩, false, none, none, false⟩

/-- Engine 0 at the step, and trace tap 0 enabled for the word that it names. -/
def tappedWord : State :=
  setEng 0 { EngH.init with run := some putwRun } { State.reset with trace := [(0, ⟨true, 128, 4, none⟩)] }

theorem tappedWord_atStep : atStep 0 putwRun tappedWord := ⟨rfl, rfl, rfl, rfl, rfl⟩

/-- The tap samples the value in the step's own dot (R311). -/
theorem stepPutw_samples_tapped_word :
    (sget TapH.init tappedWord.trace 0).range = none
    ∧ (sget TapH.init (ran (exec (.stepPutw 0 putwAcross) tappedWord) tappedWord).trace 0).range = some (0, 0) := by decide

/-- Refutes O25, in PUTW's clause of another cluster: a trace tap that names the word samples the value on its way, and the statement says
that the crossings and the engine alone change. -/
theorem not_stepsOfOutput : ¬ Obligations.StepsOfOutput := by
  intro h
  obtain ⟨hsteps, -⟩ := h
  obtain ⟨-, hputw, -⟩ := hsteps tappedWord 0 putwAcross putwRun tappedWord_atStep
  have hclause := hputw 128 (by decide) 4 (by decide)
  rw [if_neg (by decide), if_neg (by decide), if_neg (by decide)] at hclause
  obtain ⟨t, ht, hframe, -⟩ := hclause
  obtain ⟨hbefore, hafter⟩ := stepPutw_samples_tapped_word
  have hkept : t.trace = tappedWord.trace := by rw [hframe]
  simp [ht, ran, hkept, hbefore] at hafter

end Sys2Proof.Machine

/-! What a step of a loop engine does where memory is sound: its end, a refusal, a result. -/
namespace Sys2Proof.Machine

open Sys2Proof

/-! ### Loop engines: what the engine keeps -/

@[simp] theorem eng_setEng_same (c : Nat) (h : EngH) (s : State) : eng c (setEng c h s) = h := sget_sset_same _ _ _ _

theorem eng_setEng_other {c j : Nat} (hj : j ≠ c) (h : EngH) (s : State) : eng j (setEng c h s) = eng j s :=
  sget_sset_other _ _ (Ne.symm hj) _

theorem atStep.run {c : Nat} {r : Run} {s : State} (h : atStep c r s) : (eng c s).run = some r := h.1

theorem atStep.sound {c : Nat} {r : Run} {s : State} (h : atStep c r s) : memorySound s := by
  obtain ⟨-, -, -, hs⟩ := h
  exact hs

/-- The end of a step puts the run at its next step (R105). -/
theorem stepEnd_of_run {c : Nat} {r : Run} {s : State} (h : (eng c s).run = some r) (n : Nat) (e : Bool) :
    stepEnd c n e s = setEng c { eng c s with run := some (nextStep e n r) } s := by
  simp only [stepEnd, advanceTo, h]
  rfl

/-! ### Operands and results where memory is sound -/

theorem engineReads_of_sound {s : State} (h : memorySound s) (ks : List Nat) : engineReads ks s = (true, s) := by
  obtain ⟨hp, hs⟩ := h
  simp [engineReads, hp, hs]

theorem mergeWords_of_sound {s : State} (h : memorySound s) (ks : List Nat) (req : Nat) : mergeWords ks req s = (true, s) := by
  obtain ⟨hp, hs⟩ := h
  simp [mergeWords, hp, hs]

theorem ctxMerge_of_sound {s : State} (h : memorySound s) (g : Nat) (xs : List Nat) (f : State → State) : ctxMerge g xs f s = f s := by
  simp only [ctxMerge, mergeWords_of_sound h]

theorem rword_eq (c : Nat) (r : Run) (x : Nat) (s : State) : rword c r x s = runWordN c r s x := rfl

theorem rinput_eq (r : Run) (now : List Int × Bool) : rinput r now = runInput r now.1 now.2 := rfl

theorem mayWrite_eq (x : Nat) : mayWrite x = resultWord x := by simp [mayWrite, resultWord]

/-! ### Rounding and saturation -/

theorem sat32_eq (x : Int) : sat32 x = (saturated x, satBits x) := by
  have hmax : maxWord = 2147483647 := rfl
  have hmin : minWord = -2147483648 := rfl
  unfold sat32 satBits saturated
  split
  · rw [if_neg (by omega)]
    exact Prod.ext (by simp only; omega) rfl
  · split
    · rw [if_neg (by omega)]
      exact Prod.ext (by simp only; omega) rfl
    · rw [if_pos (by omega)]
      exact Prod.ext (by simp only; omega) rfl

theorem rnd_eq (q : Nat) (x : Int) : rnd q x = (saturated (rounded q x), satBits (rounded q x)) := sat32_eq _

/-! ### The status bits that a step sets -/

theorem forAll_nil {α : Type} (f : α → State → State) (s : State) : forAll [] f s = s := rfl

/-- `t` differs from `s` in CTX_STAT of context `g` and the marks of the dot alone. -/
structure StatChanged (g : Nat) (s t : State) : Prop where
  frame : ∃ c l, t = { s with ctx := c, hits := l }
  other : ∀ h x, 64 * h + x ≠ 64 * g + 1 → ctxGet h x t = ctxGet h x s

theorem StatChanged.refl (g : Nat) (s : State) : StatChanged g s s := ⟨⟨_, _, rfl⟩, fun _ _ _ => rfl⟩

theorem StatChanged.trans {g : Nat} {s t u : State} (h : StatChanged g s t) (h' : StatChanged g t u) : StatChanged g s u := by
  refine ⟨?_, fun k x hx => (h'.other k x hx).trans (h.other k x hx)⟩
  obtain ⟨c, l, rfl⟩ := h.frame
  obtain ⟨c', l', rfl⟩ := h'.frame
  exact ⟨_, _, rfl⟩

theorem StatChanged.sound {g : Nat} {s t : State} (h : StatChanged g s t) (hs : memorySound s) : memorySound t := by
  obtain ⟨c, l, rfl⟩ := h.frame
  exact hs

@[simp] theorem ctxGet_mark (h x i u m : Nat) (s : State) : ctxGet h x (mark i u m s) = ctxGet h x s := by simp [ctxGet]

theorem setCtxStat_of_sound {s : State} (hs : memorySound s) (g b : Nat) :
    setCtxStat g b s = mark statMark g (2 ^ b) (ctxSet g 1 (ctxGet g 1 s ||| 2 ^ b) s) := ctxMerge_of_sound hs _ _ _

theorem mark_eq (i u m : Nat) (s : State) : mark i u m s = { s with hits := (mark i u m s).hits } := by
  unfold mark
  split <;> rfl

theorem setCtxStat_changed {s : State} (hs : memorySound s) (g b : Nat) : StatChanged g s (setCtxStat g b s) := by
  rw [setCtxStat_of_sound hs]
  refine ⟨?_, fun h x hx => ?_⟩
  · rw [mark_eq]
    exact ⟨_, _, rfl⟩
  · rw [ctxGet_mark, ctxGet_ctxSet, if_neg (Ne.symm hx)]

theorem ctxGet_setCtxStat_same {s : State} (hs : memorySound s) (g b : Nat) :
    ctxGet g 1 (setCtxStat g b s) = (ctxGet g 1 s ||| 2 ^ b) % 2 ^ 32 := by
  rw [setCtxStat_of_sound hs, ctxGet_mark, ctxGet_ctxSet, if_pos rfl]

/-- The bits of a list are set one after the other. -/
theorem setCtxStats_changed {s : State} (hs : memorySound s) (g : Nat) (bs : List Nat) :
    StatChanged g s (forAll bs (fun b u => setCtxStat g b u) s)
    ∧ ctxGet g 1 (forAll bs (fun b u => setCtxStat g b u) s) = bs.foldl (fun m b => (m ||| 2 ^ b) % 2 ^ 32) (ctxGet g 1 s) := by
  induction bs generalizing s with
  | nil => exact ⟨.refl g s, rfl⟩
  | cons b bs ih =>
    have hb := setCtxStat_changed hs g b
    obtain ⟨hrest, hstat⟩ := ih (hb.sound hs)
    exact ⟨hb.trans hrest, hstat.trans (by rw [ctxGet_setCtxStat_same hs]; rfl)⟩

/-- A refusal: BADOP and its report (R100). -/
theorem badOp_eq (c : Nat) (r : Run) (s : State) :
    badOp c r s = report (csrc c 4) (128 * c + r.ctx) r.cycle (setCtxStat (128 * c + r.ctx) 6 s) := rfl

/-! ### The words that a step writes -/

/-- Outside context word number `k`, the states `s` and `t` hold the same words, and the link has delivered the same mailboxes. -/
structure SameWords (k : Nat) (s t : State) : Prop where
  word : ∀ h x, 64 * h + x ≠ k → ctxGet h x t = ctxGet h x s
  link : t.link = s.link
  time : t.time = s.time

theorem ctxApply_eq (g w v : Nat) (s : State) : ctxApply g w v s = { s with ctx := (ctxApply g w v s).ctx } := by
  unfold ctxApply
  split
  case _ => rfl
  case _ => rfl
  case _ => rfl
  case _ => rfl
  case _ => rfl
  case _ => split <;> rfl

/-- What a write by the word's own rule leaves in a word that a step may write (R99, R102). -/
def appliedWord (g w v : Nat) (s : State) : Nat :=
  if w = 55 then ((ctxGet g 55 s - (ctxGet g 55 s &&& (v &&& 0xFF))) ||| freshNow g s) % 2 ^ 32
  else if 56 ≤ w ∧ linkWrote g (w - 56) s then ctxGet g w s else v % 2 ^ 32

theorem ctxGet_ctxApply {g w : Nat} (hw : 4 ≤ w) (v h x : Nat) (s : State) :
    ctxGet h x (ctxApply g w v s) = if 64 * g + w = 64 * h + x then appliedWord g w v s else ctxGet h x s := by
  unfold ctxApply appliedWord
  split
  case h_1 => omega
  case h_2 => omega
  case h_3 => omega
  case h_4 => omega
  case h_5 => exact ctxGet_ctxSet _ _ _ _ _ _
  case h_6 hne =>
    rw [if_neg (hne · : ¬ w = 55)]
    by_cases hlink : 56 ≤ w ∧ linkWrote g (w - 56) s = true
    · rw [if_pos hlink, if_pos (by simpa using hlink)]
      split
      · rename_i hx
        simp [ctxGet, hx]
      · rfl
    · rw [if_neg hlink, if_neg (by simpa using hlink)]
      exact ctxGet_ctxSet _ _ _ _ _ _

theorem appliedWord_congr {g k : Nat} {s t : State} (h : SameWords k s t) {w : Nat} (hk : 64 * g + w ≠ k) (v : Nat) :
    appliedWord g w v t = appliedWord g w v s := by
  have hwrote : ∀ m, linkWrote g m t = linkWrote g m s := fun m => by rw [linkWrote, linkWrote, h.link, h.time]
  have hfresh : freshNow g t = freshNow g s := by simp only [freshNow, hwrote]
  unfold appliedWord
  by_cases h55 : w = 55
  · subst h55
    rw [if_pos rfl, if_pos rfl, h.word g 55 hk, hfresh]
  · rw [if_neg h55, if_neg h55, hwrote, h.word g w hk]

/-- A write of a result does to both states the same. -/
theorem SameWords.apply {g k : Nat} {s t : State} (h : SameWords k s t) {w : Nat} (hw : 4 ≤ w) (hk : 64 * g + w ≠ k) (v : Nat) :
    SameWords k (ctxApply g w v s) (ctxApply g w v t) := by
  refine ⟨fun j x hx => ?_, ?_, ?_⟩
  · rw [ctxGet_ctxApply hw, ctxGet_ctxApply hw, appliedWord_congr h hk, h.word j x hx]
  · rw [ctxApply_eq, ctxApply_eq g w v s]
    exact h.link
  · rw [ctxApply_eq, ctxApply_eq g w v s]
    exact h.time

/-- The taps that name the word sample it, and nothing else changes (R311). -/
theorem traceSample_frame (g x v : Nat) (s : State) : ∃ tr, traceSample g x v s = { s with trace := tr } := by
  unfold traceSample
  refine forAll_induct (fun t => ∃ tr, t = { s with trace := tr }) _ _ s ⟨_, rfl⟩ fun k _ t ht => ?_
  obtain ⟨tr, rfl⟩ := ht
  extract_lets h
  split
  · exact ⟨_, rfl⟩
  · exact ⟨_, rfl⟩

theorem tracedWrite_frame (g x v : Nat) (s : State) : ∃ tr, tracedWrite g x v s = { ctxApply g x v s with trace := tr } :=
  traceSample_frame g x _ (ctxApply g x v s)

theorem ctxGet_tracedWrite (h y g x v : Nat) (s : State) : ctxGet h y (tracedWrite g x v s) = ctxGet h y (ctxApply g x v s) := by
  obtain ⟨tr, ht⟩ := tracedWrite_frame g x v s
  rw [ht]
  rfl

/-! ### A refusal, and a result -/

/-- What a refused step of run `r` leaves beside its end: BADOP and its report (R100). -/
structure Refused (c : Nat) (r : Run) (s t : State) : Prop where
  frame : ∃ x l f, t = { s with ctx := x, hits := l, flt := f }
  report : reported (csrc c 4) (128 * c + r.ctx) r.cycle s t
  stat : ctxGet (128 * c + r.ctx) 1 t = (ctxGet (128 * c + r.ctx) 1 s ||| 64) % 2 ^ 32
  other : ∀ h x, 64 * h + x ≠ 64 * (128 * c + r.ctx) + 1 → ctxGet h x t = ctxGet h x s

theorem badOp_refused {s : State} (hs : memorySound s) (c : Nat) (r : Run) : Refused c r s (badOp c r s) := by
  have hstat := ctxGet_setCtxStat_same hs (128 * c + r.ctx) 6
  obtain ⟨⟨x, l, hframe⟩, hother⟩ := setCtxStat_changed hs (128 * c + r.ctx) 6
  rw [badOp_eq]
  refine ⟨?_, ?_, hstat, hother⟩
  · rw [hframe]
    exact ⟨_, _, _, rfl⟩
  · rw [hframe]
    rfl

theorem stepWrite_of_result {x : Nat} (h : resultWord x = true) (c : Nat) (r : Run) (v : Int) (s : State) :
    stepWrite c r x v s = tracedWrite (128 * c + r.ctx) x (word v) s := if_pos ((mayWrite_eq x).trans h)

theorem stepWrite_of_not {x : Nat} (h : ¬ resultWord x = true) (c : Nat) (r : Run) (v : Int) (s : State) : stepWrite c r x v s = s :=
  if_neg (by rwa [mayWrite_eq])

/-- `t` differs from `s` in context words and what the taps sample alone, and CTX_STAT of context `g` is as it was. -/
structure WordsChanged (g : Nat) (s t : State) : Prop where
  frame : ∃ x tr, t = { s with ctx := x, trace := tr }
  stat : ctxGet g 1 t = ctxGet g 1 s

theorem WordsChanged.refl (g : Nat) (s : State) : WordsChanged g s s := ⟨⟨_, _, rfl⟩, rfl⟩

theorem WordsChanged.trans {g : Nat} {s t u : State} (h : WordsChanged g s t) (h' : WordsChanged g t u) : WordsChanged g s u := by
  refine ⟨?_, h'.stat.trans h.stat⟩
  obtain ⟨x, tr, rfl⟩ := h.frame
  obtain ⟨x', tr', rfl⟩ := h'.frame
  exact ⟨_, _, rfl⟩

theorem resultWord_bounds {x : Nat} (h : resultWord x = true) : 4 ≤ x ∧ x ≤ 63 := by simpa [resultWord] using h

theorem tracedWrite_changed {x : Nat} (h : resultWord x = true) (g v : Nat) (s : State) : WordsChanged g s (tracedWrite g x v s) := by
  obtain ⟨hlo, hhi⟩ := resultWord_bounds h
  refine ⟨?_, ?_⟩
  · obtain ⟨tr, ht⟩ := tracedWrite_frame g x v s
    rw [ht, ctxApply_eq]
    exact ⟨_, _, rfl⟩
  · rw [ctxGet_tracedWrite, ctxGet_ctxApply hlo, if_neg (by omega)]

/-- The samples aside, a traced write is a write by the word's own rule. -/
theorem SameWords.traced {g k : Nat} {s t : State} (h : SameWords k s t) {w : Nat} (hw : 4 ≤ w) (hk : 64 * g + w ≠ k) (v : Nat) :
    SameWords k (ctxApply g w v s) (tracedWrite g w v t) := by
  obtain ⟨hword, hlink, htime⟩ := h.apply hw hk v
  obtain ⟨tr, ht⟩ := tracedWrite_frame g w v t
  rw [ht]
  exact ⟨hword, hlink, htime⟩

theorem stepWrites_changed (c : Nat) (r : Run) (ws : List (Nat × Int)) (s : State) :
    WordsChanged (128 * c + r.ctx) s (forAll ws (fun e u => stepWrite c r e.1 e.2 u) s) := by
  refine forAll_induct (WordsChanged (128 * c + r.ctx) s) ws _ s (.refl _ _) fun e _ t ht => ?_
  by_cases he : resultWord e.1 = true
  · rw [stepWrite_of_result he]
    exact ht.trans (tracedWrite_changed he _ _ _)
  · rwa [stepWrite_of_not he]

/-- The results reach the words that may take them, in their order. -/
theorem stepWrites_same (c : Nat) (r : Run) (ws : List (Nat × Int)) {s t : State} (h : SameWords (64 * (128 * c + r.ctx) + 1) s t) :
    SameWords (64 * (128 * c + r.ctx) + 1)
      (forAll (ws.filter (fun e => resultWord e.1)) (fun e u => ctxApply (128 * c + r.ctx) e.1 (word e.2) u) s)
      (forAll ws (fun e u => stepWrite c r e.1 e.2 u) t) := by
  induction ws generalizing s t with
  | nil => exact h
  | cons e ws ih =>
    by_cases he : resultWord e.1 = true
    · obtain ⟨hlo, hhi⟩ := resultWord_bounds he
      rw [List.filter_cons, if_pos he, forAll_cons, forAll_cons, stepWrite_of_result he]
      exact ih (h.traced hlo (by omega) _)
    · rw [List.filter_cons, if_neg he, forAll_cons, stepWrite_of_not he]
      exact ih h

/-- What the result `res` of a step of run `r` leaves beside the step's end (R100). -/
structure Applied (c : Nat) (r : Run) (res : Res) (s t : State) : Prop where
  frame : ∃ x l tr f, t = { s with ctx := x, hits := l, trace := tr, flt := f }
  report : if res.1.all (fun e => resultWord e.1) then t.flt = s.flt else reported (csrc c 4) (128 * c + r.ctx) r.cycle s t
  stat : ctxGet (128 * c + r.ctx) 1 t
    = (res.2 ++ if res.1.all (fun e => resultWord e.1) then [] else [6]).foldl (fun m b => (m ||| 2 ^ b) % 2 ^ 32)
        (ctxGet (128 * c + r.ctx) 1 s)
  words : ∀ h x, 64 * h + x ≠ 64 * (128 * c + r.ctx) + 1 →
    ctxGet h x t = ctxGet h x (forAll (res.1.filter (fun e => resultWord e.1))
      (fun e u => ctxApply (128 * c + r.ctx) e.1 (word e.2) u) s)

/-- The bits and the words of a result, before a word that may not be written is refused. -/
def resultWritten (c : Nat) (r : Run) (res : Res) (s : State) : State :=
  forAll res.1 (fun e u => stepWrite c r e.1 e.2 u) (forAll res.2 (fun b u => setCtxStat (128 * c + r.ctx) b u) s)

theorem applyRes_of_sound {s : State} (hs : memorySound s) (c : Nat) (r : Run) (res : Res) :
    applyRes c r res s = if res.1.all (fun e => resultWord e.1) then resultWritten c r res s else badOp c r (resultWritten c r res s) := by
  simp only [applyRes, mergeWords_of_sound hs, mayWrite_eq]
  rfl

theorem resultWritten_spec {s : State} (hs : memorySound s) (c : Nat) (r : Run) (res : Res) :
    (∃ x l tr, resultWritten c r res s = { s with ctx := x, hits := l, trace := tr })
    ∧ ctxGet (128 * c + r.ctx) 1 (resultWritten c r res s) = res.2.foldl (fun m b => (m ||| 2 ^ b) % 2 ^ 32) (ctxGet (128 * c + r.ctx) 1 s)
    ∧ SameWords (64 * (128 * c + r.ctx) + 1)
        (forAll (res.1.filter (fun e => resultWord e.1)) (fun e u => ctxApply (128 * c + r.ctx) e.1 (word e.2) u) s)
        (resultWritten c r res s) := by
  obtain ⟨hbits, hstat⟩ := setCtxStats_changed hs (128 * c + r.ctx) res.2
  have hwords := stepWrites_changed c r res.1 (forAll res.2 (fun b u => setCtxStat (128 * c + r.ctx) b u) s)
  obtain ⟨x, l, hb⟩ := hbits.frame
  refine ⟨?_, hwords.stat.trans hstat, stepWrites_same c r res.1 ⟨hbits.other, by rw [hb], by rw [hb]⟩⟩
  obtain ⟨x', tr, hw⟩ := hwords.frame
  exact ⟨x', l, tr, by rw [resultWritten, hw, hb]⟩

theorem applyRes_applied {s : State} (hs : memorySound s) (c : Nat) (r : Run) (res : Res) : Applied c r res s (applyRes c r res s) := by
  obtain ⟨⟨x, l, tr, hframe⟩, hstat, hwords⟩ := resultWritten_spec hs c r res
  rw [applyRes_of_sound hs]
  by_cases hall : res.1.all (fun e => resultWord e.1) = true
  · rw [if_pos hall]
    refine ⟨⟨x, l, tr, s.flt, hframe⟩, ?_, ?_, hwords.word⟩
    · rw [if_pos hall, hframe]
    · rw [if_pos hall, List.append_nil, hstat]
  · rw [if_neg hall]
    have hsound : memorySound (resultWritten c r res s) := by
      rw [hframe]
      exact hs
    have hbad := badOp_refused hsound c r
    obtain ⟨x', l', f, hb⟩ := hbad.frame
    refine ⟨⟨x', l', tr, f, by rw [hb, hframe]⟩, ?_, ?_, fun h y hy => (hbad.other h y hy).trans (hwords.word h y hy)⟩
    · rw [if_neg hall]
      have hreport := hbad.report
      rw [reported, hframe] at hreport
      rw [reported, hframe]
      exact hreport
    · rw [if_neg hall, List.foldl_append, hbad.stat, hstat]
      rfl

/-! ### Steps as the statements speak of them -/

section
variable {i : Instr} {c : Nat} {w : StepW} {r : Run} {n : Nat} {s t : State}

theorem stepEnd_engineAfter (hrun : (eng c s).run = some r) (heng : t.eng = s.eng) :
    ∃ e, stepEnd c n w.e t = { t with eng := e } ∧ engineAfter c w n r s (stepEnd c n w.e t) := by
  have hsame : ∀ j, eng j t = eng j s := fun j => by rw [eng, eng, heng]
  have hend := stepEnd_of_run (c := c) (s := t) (by rw [hsame, hrun]) n w.e
  refine ⟨_, hend, ?_, fun j hj => ?_⟩
  · rw [hend, eng_setEng_same, hsame]
    rfl
  · rw [hend, eng_setEng_other hj, hsame]

/-- A step that does no more than end refused. -/
theorem stepRefused_of_exec (hat : atStep c r s) (h : exec i s = .next (stepEnd c n w.e (badOp c r s))) : stepRefused i c w r n s := by
  have hs := hat.sound
  obtain ⟨⟨x, l, f, hframe⟩, hreport, hstat, hother⟩ := badOp_refused hs c r
  obtain ⟨e, hend, hengine⟩ := stepEnd_engineAfter (n := n) (w := w) hat.run (t := badOp c r s) (by rw [hframe])
  refine ⟨_, h, ?_, hengine, ?_, ?_, ?_⟩
  · rw [hend, hframe]
  · rw [reported, hend]
    exact hreport
  · rw [hend]
    exact hstat
  · rw [hend]
    exact hother

/-- A step that ends with the result that `f` gives, or refused where it reads beyond word 63. -/
theorem stepYields_of_exec {reads : List Nat} {f : (Nat → Int) → List (Nat × Int) × List Nat} (hat : atStep c r s)
    (hbad : (∃ x ∈ reads, 63 < x) → exec i s = .next (stepEnd c n w.e (badOp c r s)))
    (h : (∀ x ∈ reads, x ≤ 63) → exec i s = .next (stepEnd c n w.e (applyRes c r (f (runWord c r s)) s))) :
    stepYields i c w r n reads s f := by
  refine ⟨fun hr => stepRefused_of_exec hat (hbad hr), fun hr => ?_⟩
  have hs := hat.sound
  obtain ⟨⟨x, l, tr, f', hframe⟩, hreport, hstat, hwords⟩ := applyRes_applied hs c r (f (runWord c r s))
  obtain ⟨e, hend, hengine⟩ := stepEnd_engineAfter (n := n) (w := w) hat.run (t := applyRes c r (f (runWord c r s)) s) (by rw [hframe])
  refine ⟨_, h hr, ?_, hengine, ?_, ?_, ?_⟩
  · rw [hend, hframe]
  · rw [reported, hend]
    exact hreport
  · rw [hend]
    exact hstat
  · rw [hend]
    exact hwords

/-- A step that reads nothing beyond its operand fields. -/
theorem stepYields_nil_of_exec {f : (Nat → Int) → List (Nat × Int) × List Nat} (hat : atStep c r s)
    (h : exec i s = .next (stepEnd c n w.e (applyRes c r (f (runWord c r s)) s))) : stepYields i c w r n [] s f :=
  stepYields_of_exec hat (by simp) fun _ => h

end

end Sys2Proof.Machine

/-! The steps that read from outside their context. -/
namespace Sys2Proof.Machine

open Sys2Proof

/-! ### Steps that read from outside their context -/

section
variable {c : Fin 24} {w : StepW} {r : Run} {k n : Nat} {s : State}

/-- A step that the cluster stands at does its work and ends (R105). -/
theorem stepDo_of_atStep (hat : atStep c r s) (f : Run → State → State) : stepDo c w k n f s = stepEnd c n w.e (f r s) := by
  obtain ⟨hrun, hended, hcore, hs⟩ := hat
  simp [stepDo, hrun, hended, hcore, engineReads_of_sound hs]

section
variable {i : Instr} {bad : Run → State → Bool} {f : (Nat → Int) → List Int × Bool → Res}

/-- Where nothing forbids it, what the step makes of its inputs is its result. -/
theorem stepYields_of_get {g : (Nat → Int) → List (Nat × Int) × List Nat} (hat : atStep c r s) (hexec : exec i s = .next (stepGet c w k n bad f s))
    (hbad : bad r s = false)
    (hfg : f (runWord c r s) (runInput r (stepInput c k w r s).1 (stepInput c k w r s).2) = g (runWord c r s)) :
    stepYields i c w r n [] s g := by
  refine stepYields_nil_of_exec hat (hexec.trans (congrArg Host.Outcome.next ?_))
  rw [stepGet, stepDo_of_atStep hat, hbad, ← hfg, rinput_eq]
  rfl

theorem stepRefused_of_get (hat : atStep c r s) (hexec : exec i s = .next (stepGet c w k n bad f s)) (hbad : bad r s = true) :
    stepRefused i c w r n s := by
  refine stepRefused_of_exec hat (hexec.trans (congrArg Host.Outcome.next ?_))
  rw [stepGet, stepDo_of_atStep hat, hbad]
  rfl

end

end

theorem applyRes_nil {s : State} (hs : memorySound s) (c : Nat) (r : Run) : applyRes c r ([], []) s = s := applyRes_of_sound hs c r _

theorem scaled_eq (w : StepW) (x : Int) (stale : Bool) (W : Nat → Int) :
    scaled w x stale W = ([(w.d.val, saturated (rounded w.q ((x - W w.b) * W w.c)))],
      satBits (rounded w.q ((x - W w.b) * W w.c)) ++ if stale then [10] else []) := by
  simp only [scaled, rnd_eq]
  rfl

/-- Bits gathered from a test are the sum of their powers of two. -/
theorem gather_eq_sum (n : Nat) (f : Nat → Bool) : gather n f = ((List.range n).map (fun i => if f i then 2 ^ i else 0)).sum := by
  have h : ∀ (l : List Nat) (a : Nat), l.foldl (fun a i => if f i then a + 2 ^ i else a) a = a + (l.map (fun i => if f i then 2 ^ i else 0)).sum := by
    intro l
    induction l with
    | nil => simp
    | cons i l ih =>
      intro a
      rw [List.foldl_cons, ih, List.map_cons, List.sum_cons]
      split <;> omega
  rw [gather, h, Nat.zero_add]

/-- The low bits of an immediate. -/
theorem immBits_zero (w : StepW) (hi : Nat) : immBits w hi 0 = w.imm.toNat % 2 ^ (hi + 1) := by simp [immBits, bits]

theorem word_natCast (n : Nat) : word (n : Int) = n % 2 ^ 32 := by simp [word]

theorem ctxAbsent_iff (g : Nat) (s : State) : ctxAbsent g s = true ↔ 3072 ≤ g ∨ clusterOn (g / 128) s = false := by simp [ctxAbsent]

/-! What each kind reads (R33, R108). -/

theorem stepInput_getf (c : Nat) (w : StepW) (r : Run) (s : State) : stepInput c 0x01 w r s =
    ([sint (fseen (if w.imm.toNat / 16 % 2 = 0 then SDF_RES0_R else SDF_RES1_R) (16 * c + getfChannel c w r s) s)],
      fseen (if w.imm.toNat / 16 % 2 = 0 then SDF_STAT_STALE0 else SDF_STAT_STALE1) (16 * c + getfChannel c w r s) s % 2 == 1) := by
  have h : immBits w 4 4 = w.imm.toNat / 16 % 2 := rfl
  rw [stepInput, h]
  split <;> rfl

theorem stepInput_gets (c : Nat) (w : StepW) (r : Run) (s : State) : stepInput c 0x02 w r s =
    ([(fseen SAR_RES_VALUE (16 * (4 * (c / 6) + w.imm.toNat % 4) + w.imm.toNat / 4 % 16) s : Int)],
      fseen SAR_RES_MISSED (16 * (4 * (c / 6) + w.imm.toNat % 4) + w.imm.toNat / 4 % 16) s % 2 == 1) := by
  rw [stepInput, immBits_zero]
  rfl

theorem stepInput_getq (c : Nat) (w : StepW) (r : Run) (s : State) : stepInput c 0x03 w r s =
    if w.imm.toNat / 2 % 2 = 0 then
      ([sint (fseen QEP_RES0_POS_POS (2 * c + w.imm.toNat % 2) s), sint (fseen QEP_RES0_AGE_AGE (2 * c + w.imm.toNat % 2) s),
        sint (fseen QEP_RES0_INT_INT (2 * c + w.imm.toNat % 2) s)], false)
    else
      ([sint (fseen QEP_RES1_POS_POS (2 * c + w.imm.toNat % 2) s), sint (fseen QEP_RES1_AGE_AGE (2 * c + w.imm.toNat % 2) s),
        sint (fseen QEP_RES1_INT_INT (2 * c + w.imm.toNat % 2) s)], false) := by
  rw [stepInput, immBits_zero]
  rfl

theorem stepInput_gete (c : Nat) (w : StepW) (r : Run) (s : State) : stepInput c 0x04 w r s =
    ([sint (fseen SEU_DATA_LO_DATA (6 * (c / 6) + w.imm.toNat % 8) s), sint (fseen SEU_DATA_HI_DATA (6 * (c / 6) + w.imm.toNat % 8) s),
      sint (seuStatWord (6 * (c / 6) + w.imm.toNat % 8) s)], false) := by
  rw [stepInput, immBits_zero]
  rfl

theorem stepInput_getc (c : Nat) (w : StepW) (r : Run) (s : State) : stepInput c 0x05 w r s =
    ([((((List.range 16).map (fun j => if fseen CMP_STAT_OUT (16 * (c / 6) + j) s % 2 = 1 then 2 ^ j else 0)).sum : Nat) : Int)], false) := by
  rw [stepInput, gather_eq_sum]
  simp only [beq_iff_eq]

theorem stepInput_gett (c : Nat) (w : StepW) (r : Run) (s : State) : stepInput c 0x06 w r s =
    ([sint (fget TMR_COUNT_COUNT (4 * c + w.imm.toNat % 4) s)], false) := by
  rw [stepInput, immBits_zero]
  rfl

theorem stepInput_getr (c : Nat) (w : StepW) (r : Run) (s : State) : stepInput c 0x07 w r s =
    ([sint ((List.range 32).map (fun i => if 0x1C0 + 32 * c + i ∈ s.fab.sinks then 2 ^ i else 0)).sum], false) := by
  rw [stepInput, gather_eq_sum]
  simp only [List.contains_iff_mem]

theorem stepInput_getx (c : Nat) (w : StepW) (r : Run) (s : State) : stepInput c 0x08 w r s =
    ([sint (ctxSeen c (w.imm.toNat / 2 ^ 6 % 2 ^ 12) (w.imm.toNat % 64) s)], false) := by
  rw [stepInput, immBits_zero]
  rfl

/-! ### MBXT -/

/-- The fresh bits that a MBXT step takes (R102, R108). -/
def freshBits (c : Nat) (w : StepW) (r : Run) (s : State) : Nat := runWordN c r s 55 &&& w.imm.toNat % 256

/-- They are its result. -/
def freshResult (c : Nat) (w : StepW) (r : Run) (s : State) : Res := ([(w.d.val, (freshBits c w r s : Int))], [])

theorem freshResult_bits (c : Nat) (w : StepW) (r : Run) (s : State) : (freshResult c w r s).2 = [] := rfl

/-- Before its result is written, the step has cleared them in word 55. -/
def freshTaken (c : Nat) (w : StepW) (r : Run) (s : State) : State := tracedWrite (128 * c + r.ctx) 55 (freshBits c w r s) s

theorem word_freshBits (c : Nat) (w : StepW) (r : Run) (s : State) : word (freshBits c w r s : Int) = freshBits c w r s := by
  rw [word_natCast]
  exact Nat.mod_eq_of_lt (Nat.lt_of_le_of_lt Nat.and_le_right (by omega))

theorem execStepMbxt_of_atStep {c : Fin 24} {r : Run} {s : State} (hat : atStep c r s) (w : StepW) :
    execStepMbxt c w s = .next (stepEnd c 2 w.e (applyRes c r (freshResult c w r s) (freshTaken c w r s))) := by
  have hs := hat.sound
  rw [execStepMbxt, stepDo_of_atStep hat]
  simp only [ctxMerge_of_sound hs, rword_eq, immBits_zero]
  rfl

theorem freshTaken_same (c : Nat) (w : StepW) (r : Run) (s : State) : SameWords (64 * (128 * c + r.ctx) + 1)
    (ctxApply (128 * c + r.ctx) 55 (freshBits c w r s) s) (freshTaken c w r s) :=
  SameWords.traced ⟨fun _ _ _ => rfl, rfl, rfl⟩ (by decide) (by omega) _

theorem freshTaken_changed (c : Nat) (w : StepW) (r : Run) (s : State) : WordsChanged (128 * c + r.ctx) s (freshTaken c w r s) :=
  tracedWrite_changed (x := 55) (by decide) _ _ s

section
variable {c : Nat} {w : StepW} {r : Run} {s t : State} (h : Applied c r (freshResult c w r s) (freshTaken c w r s) t)
include h

/-! What a MBXT step leaves beside its end, by whether its result may be written. -/

theorem mbxt_frame : ∃ x l tr f, t = { s with ctx := x, hits := l, trace := tr, flt := f } := by
  obtain ⟨x, l, tr, f, ht⟩ := h.frame
  obtain ⟨x', tr', hs⟩ := (freshTaken_changed c w r s).frame
  exact ⟨x, l, tr, f, by rw [ht, hs]⟩

theorem mbxt_of_result (hd : 4 ≤ w.d.val) : t.flt = s.flt
    ∧ ctxGet (128 * c + r.ctx) 1 t = ctxGet (128 * c + r.ctx) 1 s
    ∧ ∀ j x, 64 * j + x ≠ 64 * (128 * c + r.ctx) + 1 → ctxGet j x t = ctxGet j x
        (ctxApply (128 * c + r.ctx) w.d.val (freshBits c w r s) (ctxApply (128 * c + r.ctx) 55 (freshBits c w r s) s)) := by
  have hresult : resultWord w.d.val = true := by simp only [resultWord, decide_eq_true_eq]; omega
  have hall : (freshResult c w r s).1.all (fun e => resultWord e.1) = true := by simp [freshResult, hresult]
  have hfilter : (freshResult c w r s).1.filter (fun e => resultWord e.1) = [(w.d.val, (freshBits c w r s : Int))] := by
    simp [freshResult, hresult]
  obtain ⟨-, hreport, hstat, hwords⟩ := h
  rw [if_pos hall] at hreport
  rw [if_pos hall, freshResult_bits, List.append_nil, List.foldl_nil] at hstat
  rw [hfilter] at hwords
  obtain ⟨⟨x, tr, hs⟩, hkept⟩ := freshTaken_changed c w r s
  refine ⟨hreport.trans (by rw [hs]), hstat.trans hkept, fun j x hx => (hwords j x hx).trans ?_⟩
  rw [forAll_cons, forAll_nil, word_freshBits]
  exact ((freshTaken_same c w r s).apply hd (by omega) _).word j x hx

theorem mbxt_of_not (hd : ¬ 4 ≤ w.d.val) : reported (csrc c 4) (128 * c + r.ctx) r.cycle s t
    ∧ ctxGet (128 * c + r.ctx) 1 t = (ctxGet (128 * c + r.ctx) 1 s ||| 64) % 2 ^ 32
    ∧ ∀ j x, 64 * j + x ≠ 64 * (128 * c + r.ctx) + 1 → ctxGet j x t = ctxGet j x (ctxApply (128 * c + r.ctx) 55 (freshBits c w r s) s) := by
  have hresult : resultWord w.d.val = false := by simp only [resultWord, decide_eq_false_iff_not]; omega
  have hall : ¬ (freshResult c w r s).1.all (fun e => resultWord e.1) = true := by simp [freshResult, hresult]
  have hfilter : (freshResult c w r s).1.filter (fun e => resultWord e.1) = [] := by simp [freshResult, hresult]
  obtain ⟨-, hreport, hstat, hwords⟩ := h
  rw [if_neg hall] at hreport
  rw [if_neg hall, freshResult_bits, List.nil_append, List.foldl_cons, List.foldl_nil] at hstat
  rw [hfilter, forAll_nil] at hwords
  obtain ⟨⟨x, tr, hs⟩, hkept⟩ := freshTaken_changed c w r s
  refine ⟨?_, ?_, fun j x hx => (hwords j x hx).trans ((freshTaken_same c w r s).word j x hx)⟩
  · rw [reported, hs] at hreport
    exact hreport
  · rw [hstat, hkept]
    rfl

end

/-! ### The statement -/

/-- Settles O24: each step that reads from outside its context ends with a result of its inputs or refused; MBXT applies its result
after it has cleared the bits that it took. -/
theorem stepsOfInput : Obligations.StepsOfInput := by
  intro s c w r hat
  have hs := hat.sound
  refine ⟨?_, fun ch hch k hk => ?_, fun u hu => ?_, fun u hu hslot => ?_, fun u hu hslot => ?_, ?_, ?_, ?_, ?_, fun g hg x hx => ?_, ?_⟩
  · refine stepYields_nil_of_exec hat (congrArg Host.Outcome.next ?_)
    rw [stepDo_of_atStep hat, applyRes_nil hs]
  · have hchannel : getfChannel c w r s = ch := by rw [hch, getfChannel, immBits_zero]; rfl
    split
    next hfar => exact stepRefused_of_get hat rfl (by simpa [hchannel] using hfar)
    next hfar =>
      refine stepYields_of_get hat rfl (by simpa [hchannel] using hfar) ?_
      rw [scaled_eq, stepInput_getf, hchannel, hk]
  · refine stepYields_of_get hat rfl rfl ?_
    rw [scaled_eq, stepInput_gets, hu]
  · refine stepYields_of_get hat rfl rfl ?_
    rw [stepInput_getq, hu, if_pos hslot]
    rfl
  · refine stepYields_of_get hat rfl rfl ?_
    rw [stepInput_getq, hu, if_neg (by omega)]
    rfl
  · split
    next hunit => exact stepRefused_of_get hat rfl (by simpa [immBits_zero] using hunit)
    next hunit =>
      refine stepYields_of_get hat rfl (by simpa [immBits_zero] using hunit) ?_
      rw [stepInput_gete]
      rfl
  · refine stepYields_of_get hat rfl rfl ?_
    rw [stepInput_getc]
    rfl
  · refine stepYields_of_get hat rfl rfl ?_
    rw [stepInput_gett]
    rfl
  · refine stepYields_of_get hat rfl rfl ?_
    rw [stepInput_getr]
    rfl
  · have habsent : ctxAbsent (immBits w 17 6) s = true ↔ 3072 ≤ g ∨ clusterOn (g / 128) s = false := by
      rw [hg]
      exact ctxAbsent_iff _ s
    split
    next h => exact stepRefused_of_get hat rfl (habsent.mpr h)
    next h =>
      refine stepYields_of_get hat rfl (Bool.eq_false_iff.mpr (mt habsent.mp h)) ?_
      rw [stepInput_getx, hg, hx]
      rfl
  · have htaken : memorySound (freshTaken c w r s) := by
      obtain ⟨x, tr, h⟩ := (freshTaken_changed c w r s).frame
      rw [h]
      exact hs
    have hexec := execStepMbxt_of_atStep hat w
    have happlied := applyRes_applied htaken c r (freshResult c w r s)
    generalize applyRes c r (freshResult c w r s) (freshTaken c w r s) = t at hexec happlied
    obtain ⟨x, l, tr, f, hframe⟩ := mbxt_frame happlied
    obtain ⟨e, hend, hengine⟩ := stepEnd_engineAfter (n := 2) (w := w) (t := t) hat.run (by rw [hframe])
    refine ⟨_, hexec, by rw [hend, hframe], hengine, ?_⟩
    rw [reported, hend]
    by_cases hd : 4 ≤ w.d.val
    · rw [if_pos hd, if_pos hd, if_pos hd]
      have hresult := mbxt_of_result happlied hd
      exact hresult
    · rw [if_neg hd, if_neg hd, if_neg hd]
      have hrefused := mbxt_of_not happlied hd
      exact hrefused

end Sys2Proof.Machine

namespace Sys2Proof.Machine

open Sys2Proof

/-! ### Reports and counts beside register writes -/

/-- A report made behind register writes is the one that the state before them makes: they leave alone what decides whether the block
reports (R372). -/
theorem onlyFields.reported {fs : List (Fld × Nat)} {s t : State} (h : onlyFields fs s t)
    (hF : [LPE_STAT_SUBST, PWR_STAT_STATE, PWR_DOMSTAT_ON].all (fun F => fs.all (fun e => e.1.id != F.id)) = true)
    (hpart : t.part = s.part) (htime : t.time = s.time) (hpos : t.pos = s.pos) (hflt : t.flt = s.flt) (src i0 i1 : Nat) :
    Machine.reported src i0 i1 s (report src i0 i1 t) :=
  reported_congr hflt (h.reportOf hF hpart htime hpos src i0 i1) rfl

theorem onlyFields.fadd {fs : List (Fld × Nat)} {s t : State} (h : onlyFields fs s t) {F : Fld} {w : Nat} (n : Nat) (hm : (F, w) ∈ fs) :
    onlyFields fs s (fadd F w n t) := h.fset _ hm

theorem onlyFields.fclear {fs : List (Fld × Nat)} {s t : State} (h : onlyFields fs s t) {F : Fld} {w : Nat} (v : Nat) (hm : (F, w) ∈ fs) :
    onlyFields fs s (fclear F w v t) := h.fset _ hm

theorem onlyFields.fire {fs : List (Fld × Nat)} {s t : State} (h : onlyFields fs s t) (e : Nat) : onlyFields fs s (fire e t) := h.congr rfl

theorem onlyFields.report {fs : List (Fld × Nat)} {s t : State} (h : onlyFields fs s t) (src i0 i1 : Nat) :
    onlyFields fs s (report src i0 i1 t) := h.congr rfl

theorem onlyFields.later {fs : List (Fld × Nat)} {s t : State} (h : onlyFields fs s t) (n : Nat) (d : Due) : onlyFields fs s (later n d t) :=
  h.congr rfl

/-- `t` differs from `s` in the register file alone. -/
def RegFileOnly (s t : State) : Prop := ∃ r, t = { s with regs := r }

theorem RegFileOnly.refl (s : State) : RegFileOnly s s := ⟨_, rfl⟩

theorem RegFileOnly.fset {s t : State} (h : RegFileOnly s t) (F : Fld) (u v : Nat) : RegFileOnly s (fset F u v t) := by
  obtain ⟨r, rfl⟩ := h
  exact ⟨_, rfl⟩

theorem RegFileOnly.fadd {s t : State} (h : RegFileOnly s t) (F : Fld) (u n : Nat) : RegFileOnly s (fadd F u n t) := h.fset F u _

theorem RegFileOnly.foff {s t : State} (h : RegFileOnly s t) (F : Fld) (u : Nat) : RegFileOnly s (foff F u t) := h.fset F u 0

theorem RegFileOnly.fclear {s t : State} (h : RegFileOnly s t) (F : Fld) (u v : Nat) : RegFileOnly s (fclear F u v t) := h.fset F u _

/-- A field of a register write that is not refused. -/
theorem RegFileOnly.tryField {s t : State} (h : RegFileOnly s t) (F : Fld) (u v : Nat) (refuse : State → State) :
    RegFileOnly s (tryField F u v false refuse t) := by
  obtain ⟨r, h⟩ := h
  obtain ⟨r', ht⟩ := tryField_taken_frame F u v refuse t
  exact ⟨r', by rw [ht, h]⟩

theorem fget_fadd_same (F : Fld) (u n : Nat) (s : State) : fget F u (fadd F u n s) = (fget F u s + n) % 2 ^ F.w := fget_fset_same _ _ _ _

theorem fget_fadd_other {F G : Fld} {u w : Nat} (n : Nat) (s : State) (h : F.id ≠ G.id ∨ u ≠ w) : fget G w (fadd F u n s) = fget G w s :=
  fget_fset_other _ _ h

/-! ### SAR converters -/

@[simp] theorem sar_setSar_same (v : Nat) (h : SarH) (s : State) : sar v (setSar v h s) = h := sget_sset_same _ _ _ _

theorem sar_setSar_other {v j : Nat} (hj : j ≠ v) (h : SarH) (s : State) : sar j (setSar v h s) = sar j s :=
  sget_sset_other _ _ (Ne.symm hj) _

@[simp] theorem fget_setSar (F : Fld) (w v : Nat) (h : SarH) (s : State) : fget F w (setSar v h s) = fget F w s := rfl

theorem execSarTrigger_of_idle {v : Fin 16} {s : State} (h : sarBusy v s = false) (e : Fin 16) :
    execSarTrigger v e s = .next (setSar v ⟨some e.val, some s.time⟩ s) := if_neg (by simp [h])

/-- The bits that show a trigger missed (R85). -/
def triggerMissed (v e : Nat) (s : State) : State := fon SAR_STAT_OVERRUN v (fon SAR_RES_MISSED (16 * v + e) s)

theorem execSarTrigger_of_busy {v : Fin 16} {s : State} (h : sarBusy v s = true) (e : Fin 16) :
    execSarTrigger v e s = .next (report (rsrc (v / 4) 54) v e (triggerMissed v e s)) := if_pos h

theorem triggerMissed_regsOnly (v e : Nat) (s : State) : RegsOnly s (triggerMissed v e s) := ((RegsOnly.refl s).fon _ _).fon _ _

theorem onlyFields_triggerMissed (v e : Nat) (s : State) :
    onlyFields [(SAR_STAT_OVERRUN, v), (SAR_RES_MISSED, 16 * v + e)] s (triggerMissed v e s) :=
  ((onlyFields.refl _ s).fon (by simp)).fon (by simp)

theorem fget_triggerMissed (v e : Nat) (s : State) : fget SAR_STAT_OVERRUN v (triggerMissed v e s) = 1
    ∧ fget SAR_RES_MISSED (16 * v + e) (triggerMissed v e s) = 1 :=
  ⟨fget_fon_same _ _ _, (fget_fon_other _ (Or.inl (by decide))).trans (fget_fon_same _ _ _)⟩

theorem sarDone_of_due {v e p : Nat} {s : State} (he : (sar v s).entry = some e) (hp : (sar v s).start = some p) (ht : s.time = p + 32) :
    sarDone v s = some e := by simp [sarDone, he, hp, ht]

theorem sarDone_of_not {v : Nat} {s : State} (h : (sar v s).entry = none ∨ ∀ p ∈ (sar v s).start, s.time ≠ p + 32) : sarDone v s = none := by
  rcases h with he | hp
  · simp [sarDone, he]
  · rcases he : (sar v s).entry with _ | e
    · simp [sarDone, he]
    · rcases hs : (sar v s).start with _ | p
      · simp [sarDone, he, hs]
      · simp [sarDone, he, hs, hp p (by simp [hs])]

theorem execSarResult_of_done {v : Fin 16} {e : Nat} {s : State} (h : sarDone v s = some e) (x : BitVec 16) :
    execSarResult v x s = .next (sarResult v e x s) := by simp only [execSarResult, h]

theorem execSarResult_of_not_done {v : Fin 16} {s : State} (h : sarDone v s = none) (x : BitVec 16) : execSarResult v x s = .next s := by
  simp only [execSarResult, h]

theorem sarResult_frame (v e : Nat) (x : BitVec 16) (s : State) : ∃ r, sarResult v e x s =
    { s with regs := r, sar := (setSar v { sar v s with entry := none } s).sar
             fab := { s.fab with now := nput (0x0DC0 + v) s.fab.now } } := by
  have hwrites := (((RegFileOnly.refl (setSar v { sar v s with entry := none } s)).fset SAR_RES_VALUE (16 * v + e) x.toNat).fadd
    SAR_RES_SEQ (16 * v + e) 1).foff SAR_RES_MISSED (16 * v + e)
  obtain ⟨r, h⟩ := hwrites
  exact ⟨r, by rw [sarResult, h]; rfl⟩

theorem onlyFields_sarResult (v e : Nat) (x : BitVec 16) (s : State) :
    onlyFields [(SAR_RES_VALUE, 16 * v + e), (SAR_RES_SEQ, 16 * v + e), (SAR_RES_MISSED, 16 * v + e)] s (sarResult v e x s) := by
  have hheld := (onlyFields.refl [(SAR_RES_VALUE, 16 * v + e), (SAR_RES_SEQ, 16 * v + e), (SAR_RES_MISSED, 16 * v + e)] s).congr
    (u := setSar v { sar v s with entry := none } s) rfl
  exact (((hheld.fset _ (by simp)).fadd 1 (by simp)).foff (by simp)).fire _

/-- The result register of the entry: the value, SEQ one further, MISSED clear (R84). -/
theorem fget_sarResult (v e : Nat) (x : BitVec 16) (s : State) :
    fget SAR_RES_VALUE (16 * v + e) (sarResult v e x s) = x.toNat ∧ fget SAR_RES_MISSED (16 * v + e) (sarResult v e x s) = 0
    ∧ fget SAR_RES_SEQ (16 * v + e) (sarResult v e x s) = (fget SAR_RES_SEQ (16 * v + e) s + 1) % 2 ^ SAR_RES_SEQ.w := by
  simp only [sarResult, fget_fire]
  simp (disch := exact Or.inl (by decide)) only [fget_foff_same, fget_foff_other, fget_fadd_same, fget_fadd_other, fget_fset_same,
    fget_fset_other, fget_setSar, and_true]
  exact Nat.mod_eq_of_lt x.isLt

/-! ### Comparators -/

/-- The output of a comparator that holds `h` (R87). -/
def cmpOut (h : CmpH) : Bool := h.en && (h.above != h.invert)

/-- A comparator's new state, and its output at the fabric 16 dots later where it changes (R87). -/
theorem setCmp_eq (j : Fin 64) (h : CmpH) (s : State) : setCmp j h s =
    { s with cmp := sset CmpH.init s.cmp j { h with out := cmpOut h }
             due := if cmpOut h = (cmp j s).out then s.due else s.due ++ [(s.time + 16, .cmd (.cmpFabricChange j (cmpOut h)))] } := by
  by_cases hout : cmpOut h = (cmp j s).out
  · rw [if_pos hout]
    exact if_pos hout
  · rw [if_neg hout]
    exact (if_neg hout).trans (dif_pos j.isLt)

theorem cmp_setCmp_same (j : Fin 64) (h : CmpH) (s : State) : cmp j (setCmp j h s) = { h with out := cmpOut h } := by
  rw [setCmp_eq]
  exact sget_sset_same _ _ _ _

theorem cmp_setCmp_other {j : Fin 64} {i : Nat} (hi : i ≠ j) (h : CmpH) (s : State) : cmp i (setCmp j h s) = cmp i s := by
  rw [setCmp_eq]
  exact sget_sset_other _ _ (Ne.symm hi) _

theorem due_setCmp (j : Fin 64) (h : CmpH) (s : State) : if cmpOut h = (cmp j s).out then (setCmp j h s).due = s.due
    else scheduled 16 (.cmd (.cmpFabricChange j (cmpOut h))) s (setCmp j h s) := by
  rw [setCmp_eq]
  split
  · rfl
  · rfl

/-- The bit that a change of the fabric level sets. -/
def changeBit (level : Bool) : Fld := if level then CMP_STAT_ROSE else CMP_STAT_FELL

theorem changeBit_id (level : Bool) : (changeBit level).id ≠ CMP_STAT_OUT.id ∧ (changeBit level).w = 1 := by cases level <;> decide

/-- The fabric level of comparator `j` has become `level`. -/
def levelChanged (j : Nat) (level : Bool) (s : State) : State :=
  fire (0x0C40 + 4 * j + (if level then 1 else 2)) (fon (changeBit level) j (fset CMP_STAT_OUT j level.toNat s))

theorem execCmpFabricChange_of_same {j : Fin 64} {level : Bool} {s : State} (h : fbit CMP_STAT_OUT j s = level) :
    execCmpFabricChange j level s = .next s := if_pos h

theorem execCmpFabricChange_of_change {j : Fin 64} {level : Bool} {s : State} (h : fbit CMP_STAT_OUT j s ≠ level) :
    execCmpFabricChange j level s = .next (levelChanged j level s) := if_neg h

theorem levelChanged_frame (j : Nat) (level : Bool) (s : State) : ∃ r l, levelChanged j level s =
    { s with regs := r, hits := l, fab := { s.fab with now := nput (0x0C40 + 4 * j + (if level then 1 else 2)) s.fab.now } } := by
  obtain ⟨r, l, h⟩ := ((RegsOnly.refl s).fset CMP_STAT_OUT j level.toNat).fon (changeBit level) j
  exact ⟨r, l, by rw [levelChanged, h]; rfl⟩

theorem onlyFields_levelChanged (j : Nat) (level : Bool) (s : State) :
    onlyFields [(CMP_STAT_OUT, j), (changeBit level, j)] s (levelChanged j level s) :=
  (((onlyFields.refl _ s).fset _ (by simp)).fon (by simp)).fire _

theorem fget_levelChanged (j : Nat) (level : Bool) (s : State) :
    fget CMP_STAT_OUT j (levelChanged j level s) = level.toNat ∧ fget (changeBit level) j (levelChanged j level s) = 1 := by
  obtain ⟨hid, hw⟩ := changeBit_id level
  constructor
  · rw [levelChanged, fget_fire, fget_fon_other _ (Or.inl hid), fget_fset_same]
    exact toNat_mod_two level
  · rw [levelChanged, fget_fire, fget_fon_same, hw]
    rfl

/-- What a change of the fabric level does (R87): the level, its bit and its event. -/
theorem completes_cmpFabricChange {j : Fin 64} {level : Bool} {s : State} (h : fbit CMP_STAT_OUT j s ≠ level) :
    completes (.cmpFabricChange j level) s (fun t => t = { s with regs := t.regs, hits := t.hits, fab := t.fab }
      ∧ issued (0x0C40 + 4 * j + (if level then 1 else 2)) s t ∧ onlyFields [(CMP_STAT_OUT, j), (changeBit level, j)] s t
      ∧ fget CMP_STAT_OUT j t = level.toNat ∧ fget (changeBit level) j t = 1) := by
  obtain ⟨r, l, hframe⟩ := levelChanged_frame j level s
  exact ⟨levelChanged j level s, execCmpFabricChange_of_change h, by rw [hframe], by rw [issued, hframe], onlyFields_levelChanged j level s,
    fget_levelChanged j level s⟩

/-! ### CMP_CFG -/

/-- The four stop-only fields of CMP_CFG as a write of `v` leaves them, `run` where the region is in RUN (R77, R95). -/
def cmpFieldsTried (run : Bool) (j v : Nat) (s : State) : State :=
  let refuse := fon CMP_CFG_CFG_REFUSED j
  tryField CMP_CFG_INVERT j (bits v 8 8) run refuse (tryField CMP_CFG_HYST j (bits v 13 12) run refuse
    (tryField CMP_CFG_AIN j (bits v 20 16) run refuse (tryField CMP_CFG_EN j (bits v 31 31) run refuse s)))

/-- CMP_CFG as a write of `v` leaves it. -/
def cmpCfgWritten (j v : Nat) (s : State) : State :=
  cmpFieldsTried (regionRun (j / 16) s) j v (fclear CMP_CFG_CFG_REFUSED j (bits v 0 0) s)

theorem writeCmpCfg_eq (j v : Nat) (s : State) :
    writeCmpCfg j v s = later 2 (.cmpCfg j (cmpCfgWord j (cmpCfgWritten j v s))) (cmpCfgWritten j v s) := rfl

/-- Outside RUN every field takes its part of the word. -/
theorem fget_cmpFieldsTried_taken (j v : Nat) (s : State) :
    fget CMP_CFG_EN j (cmpFieldsTried false j v s) = bits v 31 31 ∧ fget CMP_CFG_AIN j (cmpFieldsTried false j v s) = bits v 20 16
    ∧ fget CMP_CFG_HYST j (cmpFieldsTried false j v s) = bits v 13 12 ∧ fget CMP_CFG_INVERT j (cmpFieldsTried false j v s) = bits v 8 8 := by
  refine ⟨?_, ?_, ?_, fget_tryField_taken _ (bits_lt _ _ _) _ _⟩
  · rw [cmpFieldsTried, fget_tryField_other (by decide) (by decide), fget_tryField_other (by decide) (by decide),
      fget_tryField_other (by decide) (by decide), fget_tryField_taken _ (bits_lt _ _ _)]
  · rw [cmpFieldsTried, fget_tryField_other (by decide) (by decide), fget_tryField_other (by decide) (by decide),
      fget_tryField_taken _ (bits_lt _ _ _)]
  · rw [cmpFieldsTried, fget_tryField_other (by decide) (by decide), fget_tryField_taken _ (bits_lt _ _ _)]

/-- The fields of CMP_CFG. -/
def cmpFieldList (j : Nat) : List (Fld × Nat) :=
  [(CMP_CFG_EN, j), (CMP_CFG_AIN, j), (CMP_CFG_HYST, j), (CMP_CFG_INVERT, j), (CMP_CFG_CFG_REFUSED, j)]

theorem onlyFields_cmpCfgWritten (j v : Nat) (s : State) : onlyFields (cmpFieldList j) s (cmpCfgWritten j v s) := by
  unfold cmpCfgWritten cmpFieldsTried
  exact (((((onlyFields.refl _ s).fclear _ (by simp [cmpFieldList])).tryField _ _ (by simp [cmpFieldList]) (by simp [cmpFieldList])).tryField _ _
    (by simp [cmpFieldList]) (by simp [cmpFieldList])).tryField _ _ (by simp [cmpFieldList]) (by simp [cmpFieldList])).tryField _ _
    (by simp [cmpFieldList]) (by simp [cmpFieldList])

theorem cmpCfgWritten_regsOnly (j v : Nat) (s : State) : RegsOnly s (cmpCfgWritten j v s) := by
  unfold cmpCfgWritten cmpFieldsTried
  exact (((((RegsOnly.refl s).fset CMP_CFG_CFG_REFUSED j _).tryField _ _ _ _ _).tryField _ _ _ _ _).tryField _ _ _ _ _).tryField _ _ _ _ _

theorem cmpCfgWritten_of_run {j : Nat} {s : State} (h : regionRun (j / 16) s = true) (v : Nat) :
    cmpCfgWritten j v s = cmpFieldsTried true j v (fclear CMP_CFG_CFG_REFUSED j (bits v 0 0) s) := by rw [cmpCfgWritten, h]

theorem cmpCfgWritten_of_stopped {j : Nat} {s : State} (h : regionRun (j / 16) s = false) (v : Nat) :
    cmpCfgWritten j v s = cmpFieldsTried false j v (fclear CMP_CFG_CFG_REFUSED j (bits v 0 0) s) := by rw [cmpCfgWritten, h]

theorem cmpCfgWritten_regFileOnly {j : Nat} {s : State} (h : regionRun (j / 16) s = false) (v : Nat) : RegFileOnly s (cmpCfgWritten j v s) := by
  rw [cmpCfgWritten_of_stopped h, cmpFieldsTried]
  exact (((((RegFileOnly.refl s).fclear _ _ _).tryField _ _ _ _).tryField _ _ _ _).tryField _ _ _ _).tryField _ _ _ _

/-- In RUN the refusal bit alone may change. -/
theorem onlyFields_cmpCfgWritten_of_run {j : Nat} {s : State} (h : regionRun (j / 16) s = true) (v : Nat) :
    onlyFields [(CMP_CFG_CFG_REFUSED, j)] s (cmpCfgWritten j v s) := by
  rw [cmpCfgWritten_of_run h, cmpFieldsTried]
  exact (((((onlyFields.refl _ s).fclear _ (by simp)).tryField _ true nofun (by simp)).tryField _ true nofun (by simp)).tryField _ true nofun
    (by simp)).tryField _ true nofun (by simp)

theorem cmpCfgWord_of_run {j : Nat} {s : State} (h : regionRun (j / 16) s = true) (v : Nat) :
    cmpCfgWord j (cmpCfgWritten j v s) = cmpCfgWord j s := by
  have hf := onlyFields_cmpCfgWritten_of_run h v
  simp only [cmpCfgWord, hf.reg (F := CMP_CFG_EN) rfl, hf.reg (F := CMP_CFG_AIN) rfl, hf.reg (F := CMP_CFG_HYST) rfl,
    hf.reg (F := CMP_CFG_INVERT) rfl]

/-- The word would change a field of CMP_CFG. -/
def cmpCfgChanges (j v : Nat) (s : State) : Prop :=
  bits v 31 31 ≠ fget CMP_CFG_EN j s ∨ bits v 20 16 ≠ fget CMP_CFG_AIN j s ∨ bits v 13 12 ≠ fget CMP_CFG_HYST j s
    ∨ bits v 8 8 ≠ fget CMP_CFG_INVERT j s

/-- In RUN a word that would change a field is refused. -/
theorem fget_refused_cmpFieldsTried {j v : Nat} {s : State} (h : cmpCfgChanges j v s) :
    fget CMP_CFG_CFG_REFUSED j (cmpFieldsTried true j v s) = 1 := by
  have hkeep {t : State} (ht : fget CMP_CFG_CFG_REFUSED j t = 1) {F : Fld} (hF : F.id ≠ CMP_CFG_CFG_REFUSED.id) (x : Nat) :
      fget CMP_CFG_CFG_REFUSED j (tryField F j x true (fon CMP_CFG_CFG_REFUSED j) t) = 1 := fget_tryField_keeps_refusal ht hF rfl x true
  have hmem : true = true → (CMP_CFG_CFG_REFUSED, j) ∈ [(CMP_CFG_CFG_REFUSED, j)] := fun _ => List.mem_singleton_self _
  have h1 := (onlyFields.refl _ s).tryField (F := CMP_CFG_EN) (bits v 31 31) true nofun hmem
  have h2 := h1.tryField (F := CMP_CFG_AIN) (bits v 20 16) true nofun hmem
  have h3 := h2.tryField (F := CMP_CFG_HYST) (bits v 13 12) true nofun hmem
  rcases h with hen | hain | hhyst | hinv
  · exact hkeep (hkeep (hkeep (fget_tryField_refused hen.symm rfl) (by decide) _) (by decide) _) (by decide) _
  · exact hkeep (hkeep (fget_tryField_refused (by rw [h1.reg rfl]; exact hain.symm) rfl) (by decide) _) (by decide) _
  · exact hkeep (fget_tryField_refused (by rw [h2.reg rfl]; exact hhyst.symm) rfl) (by decide) _
  · exact fget_tryField_refused (by rw [h3.reg rfl]; exact hinv.symm) rfl

theorem fget_refused_cmpCfgWritten {j v : Nat} {s : State} (hrun : regionRun (j / 16) s = true) (h : cmpCfgChanges j v s) :
    fget CMP_CFG_CFG_REFUSED j (cmpCfgWritten j v s) = 1 := by
  have hf := (onlyFields.refl _ s).fclear (bits v 0 0) (List.mem_singleton_self (CMP_CFG_CFG_REFUSED, j))
  rw [cmpCfgWritten_of_run hrun]
  refine fget_refused_cmpFieldsTried ?_
  rw [cmpCfgChanges, hf.reg (F := CMP_CFG_EN) rfl, hf.reg (F := CMP_CFG_AIN) rfl, hf.reg (F := CMP_CFG_HYST) rfl,
    hf.reg (F := CMP_CFG_INVERT) rfl]
  exact h

/-- The fields of a CMP_CFG word (R95). -/
theorem bits_cmpCfg (v : Word) : bits v.toNat 31 31 = v.toNat / 2 ^ 31 ∧ bits v.toNat 20 16 = v.toNat / 2 ^ 16 % 32
    ∧ bits v.toNat 13 12 = v.toNat / 2 ^ 12 % 4 ∧ bits v.toNat 8 8 = v.toNat / 2 ^ 8 % 2 := by
  refine ⟨Nat.mod_eq_of_lt ?_, rfl, rfl, rfl⟩
  have := v.isLt
  omega

/-! ### The statement -/

/-- Settles O16: each command from its equations by case, and what the writes of its registers leave alone. -/
theorem sarAndComparators : Obligations.SarAndComparators := by
  intro s
  refine ⟨fun v e hidle => ?_, fun v e hbusy => ?_, fun v x e p he hp ht => ?_, fun v x h => execSarResult_of_not_done (sarDone_of_not h) x,
    fun j above => ?_, fun j hout => ?_, fun j hout => ?_, fun j b hb => execCmpFabricChange_of_same hb, fun j v => ?_,
    fun j v hrun => ?_, fun j v hrun => ?_⟩
  · exact ⟨_, execSarTrigger_of_idle hidle e, rfl, sar_setSar_same _ _ _, fun j hj => sar_setSar_other hj _ _⟩
  · obtain ⟨r, l, hframe⟩ := triggerMissed_regsOnly v e s
    have hf := onlyFields_triggerMissed v e s
    refine ⟨_, execSarTrigger_of_busy hbusy e, by rw [hframe]; rfl, ?_, hf.report _ _ _, fget_triggerMissed v e s⟩
    exact hf.reported rfl (by rw [hframe]) (by rw [hframe]) (by rw [hframe]) (by rw [hframe]) _ _ _
  · obtain ⟨r, hframe⟩ := sarResult_frame v e x s
    obtain ⟨hvalue, hmissed, hseq⟩ := fget_sarResult v e x s
    have hsar : ∀ j, sar j (sarResult v e x s) = sar j (setSar v { sar v s with entry := none } s) := fun j => by rw [hframe]; rfl
    refine ⟨_, execSarResult_of_done (sarDone_of_due he hp ht) x, by rw [hframe], by rw [issued, hframe], hvalue, hmissed, hseq,
      onlyFields_sarResult v e x s, ?_, fun j hj => ?_⟩
    · rw [hsar, sar_setSar_same]
    · rw [hsar, sar_setSar_other hj]
  · have hcmp := cmp_setCmp_same j { cmp j s with above := above } s
    refine ⟨setCmp j { cmp j s with above := above } s, rfl, by rw [setCmp_eq], hcmp, ?_, fun i hi => cmp_setCmp_other hi _ s⟩
    rw [hcmp]
    exact due_setCmp j { cmp j s with above := above } s
  · have h := completes_cmpFabricChange (j := j) (level := true) (s := s) (by simp [hout])
    rwa [if_pos rfl, show 0x0C40 + 4 * j.val + 1 = 0xC41 + 4 * j.val by omega] at h
  · have h := completes_cmpFabricChange (j := j) (level := false) (s := s) (by simp [hout])
    rwa [if_neg (by simp), show 0x0C40 + 4 * j.val + 2 = 0xC42 + 4 * j.val by omega] at h
  · refine ⟨writeCmpThr j v.toNat s, rfl, rfl, rfl, ((onlyFields.refl _ s).fset _ (by simp)).later _ _, ?_⟩
    exact (fget_fset_same _ _ _ _).trans (by simp [bits, CMP_THR_THRESH])
  · have hf := onlyFields_cmpCfgWritten j v.toNat s
    obtain ⟨r, hframe⟩ := cmpCfgWritten_regFileOnly hrun v.toNat
    obtain ⟨hen, hain, hhyst, hinv⟩ := fget_cmpFieldsTried_taken j v.toNat (fclear CMP_CFG_CFG_REFUSED j (bits v.toNat 0 0) s)
    obtain ⟨ben, bain, bhyst, binv⟩ := bits_cmpCfg v
    rw [← cmpCfgWritten_of_stopped hrun] at hen hain hhyst hinv
    refine ⟨writeCmpCfg j v.toNat s, rfl, ?_⟩
    rw [writeCmpCfg_eq]
    refine ⟨by rw [hframe]; rfl, by rw [scheduled, hframe]; rfl, hf.later _ _, ?_⟩
    simp only [fget_later]
    exact ⟨hen.trans ben, hain.trans bain, hhyst.trans bhyst, hinv.trans binv⟩
  · have hf := onlyFields_cmpCfgWritten_of_run hrun v.toNat
    obtain ⟨r, l, hframe⟩ := cmpCfgWritten_regsOnly j v.toNat s
    obtain ⟨ben, bain, bhyst, binv⟩ := bits_cmpCfg v
    refine ⟨writeCmpCfg j v.toNat s, rfl, ?_⟩
    rw [writeCmpCfg_eq, cmpCfgWord_of_run hrun]
    refine ⟨by rw [hframe]; rfl, by rw [scheduled, hframe]; rfl, hf.later _ _, fun hne => ?_⟩
    rw [← ben, ← bain, ← bhyst, ← binv] at hne
    rw [fget_later]
    exact fget_refused_cmpCfgWritten hrun hne

end Sys2Proof.Machine

namespace Sys2Proof.Machine

open Sys2Proof

/-! ### Serial encoder units -/

@[simp] theorem seu_setSeu_same (u : Nat) (h : SeuH) (s : State) : seu u (setSeu u h s) = h := sget_sset_same _ _ _ _

theorem seu_setSeu_other {u j : Nat} (hj : j ≠ u) (h : SeuH) (s : State) : seu j (setSeu u h s) = seu j s :=
  sget_sset_other _ _ (Ne.symm hj) _

theorem seu_congr {s t : State} (h : t.seu = s.seu) (j : Nat) : seu j t = seu j s := by rw [seu, seu, h]

@[simp] theorem seu_later (j n : Nat) (d : Due) (s : State) : seu j (later n d s) = seu j s := rfl
@[simp] theorem seu_dropDue (j : Nat) (p : Due → Bool) (s : State) : seu j (dropDue p s) = seu j s := rfl

/-! ### A slot -/

theorem execSeuSlotFire_of_busy {u : Fin 24} {s : State} (h : (seu u s).frame ≠ none ∨ (seu u s).timeout = true) :
    execSeuSlotFire u s = .next (report (rsrc (u / 6) 56) u 0 (fon SEU_STAT_SKIPPED u s)) :=
  if_pos (by simpa [Option.isSome_iff_ne_none] using h)

section
variable {u : Fin 24} {s : State} (hframe : (seu u s).frame = none) (htimeout : (seu u s).timeout = false)
include hframe htimeout

theorem execSeuSlotFire_of_no_protocol (hproto : fget SEU_CFG_PROTO u s = 0) : execSeuSlotFire u s = .next s :=
  (if_neg (by simp [hframe, htimeout])).trans (if_pos hproto)

theorem execSeuSlotFire_of_no_deadline (hproto : fget SEU_CFG_PROTO u s ≠ 0) (hdead : fget SEU_TIMING_DEADLINE u s = 0) :
    execSeuSlotFire u s = .next (fire (0x0DA0 + u) (fadd SEU_STAT_SEQ u 1 s)) :=
  (if_neg (by simp [hframe, htimeout])).trans ((if_neg hproto).trans (if_pos hdead))

theorem execSeuSlotFire_of_deadline (hproto : fget SEU_CFG_PROTO u s ≠ 0) (hdead : fget SEU_TIMING_DEADLINE u s ≠ 0) :
    execSeuSlotFire u s = .next (later (2 + fget SEU_TIMING_DEADLINE u s) (.cmd (.seuDeadline u))
      (later 2 (.seuMa u) (setSeu u { SeuH.init with frame := some s.time } s))) :=
  (if_neg (by simp [hframe, htimeout])).trans ((if_neg hproto).trans (if_neg hdead))

end

/-! ### The end of a frame -/

/-- A frame of unit `u` has ended: MA is held at `ma`, and the timeout is set to end `n` dots later (R92). -/
structure FrameEnded (u : Fin 24) (ma : MaLevel) (n : Nat) (s t : State) : Prop where
  unit : seu u t = { SeuH.init with timeout := true, ma := ma }
  others : ∀ j, j ≠ u.val → seu j t = seu j s
  due : (s.time + n, Due.cmd (.seuTimeoutEnd u)) ∈ t.due

theorem seuTimeout_frame (u : Fin 24) (ma : MaLevel) (began : Nat) (s : State) :
    ∃ q d, seuTimeout u ma began s = { s with seu := q, due := d } := ⟨_, _, rfl⟩

theorem seuTimeout_ends (u : Fin 24) (ma : MaLevel) (began : Nat) (s : State) :
    FrameEnded u ma (began + fget SEU_TIMING_TIMEOUT u s - s.time) s (seuTimeout u ma began s) where
  unit := by simp [seuTimeout]
  others j hj := by simp [seuTimeout, seu_setSeu_other hj]
  due := List.mem_append_right _ (List.mem_singleton_self _)

@[simp] theorem fget_seuTimeout (F : Fld) (w : Nat) (u : Fin 24) (ma : MaLevel) (began : Nat) (s : State) :
    fget F w (seuTimeout u ma began s) = fget F w s := rfl

/-- What is written after the end leaves it as it is. -/
theorem FrameEnded.congr {u : Fin 24} {ma : MaLevel} {n : Nat} {s t t' : State} (h : FrameEnded u ma n s t) (hseu : t'.seu = t.seu)
    (hdue : t'.due = t.due) : FrameEnded u ma n s t' where
  unit := (seu_congr hseu u).trans h.unit
  others j hj := (seu_congr hseu j).trans (h.others j hj)
  due := by rw [hdue]; exact h.due

/-! ### A result -/

/-- The data `d` of a frame is written, one result further (R91, R92). -/
def dataWritten (u d : Nat) (s : State) : State :=
  fadd SEU_STAT_SEQ u 1 (fset SEU_DATA_HI_DATA u (d / 2 ^ 32) (fset SEU_DATA_LO_DATA u d s))

/-- What else a BiSS-C frame carried is written (R91). -/
def lineWritten (u : Nat) (r : SeuFrame) (s : State) : State :=
  fset SEU_STAT_CDS u r.cds.toNat (fset SEU_STAT_DLY u r.dly.toNat (fset SEU_STAT_NW u r.nW.toNat (fset SEU_STAT_NE u r.nE.toNat s)))

theorem RegFileOnly.dataWritten {s t : State} (h : RegFileOnly s t) (u d : Nat) : RegFileOnly s (dataWritten u d t) :=
  ((h.fset _ _ _).fset _ _ _).fadd _ _ _

theorem RegFileOnly.lineWritten {s t : State} (h : RegFileOnly s t) (u : Nat) (r : SeuFrame) : RegFileOnly s (lineWritten u r t) :=
  (((h.fset _ _ _).fset _ _ _).fset _ _ _).fset _ _ _

/-- The fields that hold the data of a frame and count the results. -/
def dataFields (u : Nat) : List (Fld × Nat) := [(SEU_STAT_SEQ, u), (SEU_DATA_LO_DATA, u), (SEU_DATA_HI_DATA, u)]

/-- The fields that hold what else a BiSS-C frame carried. -/
def lineFields (u : Nat) : List (Fld × Nat) := [(SEU_STAT_CDS, u), (SEU_STAT_DLY, u), (SEU_STAT_NW, u), (SEU_STAT_NE, u)]

theorem onlyFields_dataWritten (u d : Nat) (s : State) : onlyFields (dataFields u) s (dataWritten u d s) :=
  (((onlyFields.refl _ s).fset _ (by simp [dataFields])).fset _ (by simp [dataFields])).fadd _ (by simp [dataFields])

theorem onlyFields_lineWritten (u : Nat) (r : SeuFrame) (s : State) : onlyFields (lineFields u) s (lineWritten u r s) :=
  ((((onlyFields.refl _ s).fset _ (by simp [lineFields])).fset _ (by simp [lineFields])).fset _ (by simp [lineFields])).fset _
    (by simp [lineFields])

theorem fget_dataWritten (u d : Nat) (s : State) : fget SEU_DATA_LO_DATA u (dataWritten u d s) = d % 2 ^ 32
    ∧ fget SEU_DATA_HI_DATA u (dataWritten u d s) = d / 2 ^ 32 % 2 ^ SEU_DATA_HI_DATA.w
    ∧ fget SEU_STAT_SEQ u (dataWritten u d s) = (fget SEU_STAT_SEQ u s + 1) % 2 ^ SEU_STAT_SEQ.w := by
  simp (disch := exact Or.inl (by decide)) only [dataWritten, fget_fadd_same, fget_fadd_other, fget_fset_same, fget_fset_other, and_true]
  rfl

theorem fget_lineWritten (u : Nat) (r : SeuFrame) (s : State) : fget SEU_STAT_DLY u (lineWritten u r s) = r.dly.toNat % 2 ^ SEU_STAT_DLY.w
    ∧ fget SEU_STAT_NE u (lineWritten u r s) = r.nE.toNat ∧ fget SEU_STAT_NW u (lineWritten u r s) = r.nW.toNat
    ∧ fget SEU_STAT_CDS u (lineWritten u r s) = r.cds.toNat := by
  simp (disch := exact Or.inl (by decide)) only [lineWritten, fget_fset_same, fget_fset_other]
  exact ⟨trivial, toNat_mod_two _, toNat_mod_two _, toNat_mod_two _⟩

/-- The data bits of a frame of unit `u`. -/
def frameData (u : Nat) (r : SeuFrame) (s : State) : Nat := r.data.toNat % 2 ^ fget SEU_CFG_BITS u s

/-- The data of an SSI frame, from Gray code where GRAY says so (R91). -/
def ssiData (u : Nat) (r : SeuFrame) (s : State) : Nat :=
  if fbit SEU_CFG_GRAY u s then fromGray 6 (frameData u r s) else frameData u r s

/-- The rising edge of MA that ends an SSI frame whose slot fired in dot `p` (R92). -/
def ssiEnd (u p : Nat) (s : State) : Nat := p + 2 + 2 * fget SEU_CFG_DIV u s * fget SEU_CFG_BITS u s + fget SEU_CFG_DIV u s

/-- The state in which a BiSS-C frame has ended in the present dot: MA signals the CDM bit from the last sample on (R92). -/
def bissEnded (u : Fin 24) (s : State) : State := seuTimeout u (.cdm (fbit SEU_CDM_CDM u s)) (s.time - 3) s

/-- The CRC of a BiSS-C frame holds, or there is none (R91). -/
def crcHolds (u : Nat) (r : SeuFrame) (s : State) : Prop :=
  fget SEU_CRC_LEN u s = 0 ∨ seuCrc (fget SEU_CRC_LEN u s) (fget SEU_CRC_POLY u s) (fget SEU_CFG_BITS u s) (frameData u r s) r.nE r.nW
    = 2 ^ fget SEU_CRC_LEN u s - 1 - r.crc.toNat % 2 ^ fget SEU_CRC_LEN u s

theorem seuResult_of_ssi {u : Fin 24} {s : State} (h : fget SEU_CFG_PROTO u s = 1) (p : Nat) (r : SeuFrame) :
    seuResult u p r s = fire (0x0DA0 + u) (dataWritten u (ssiData u r s) (seuTimeout u .high (ssiEnd u p s) s)) := if_pos h

theorem seuResult_of_biss {u : Fin 24} {r : SeuFrame} {s : State} (h : fget SEU_CFG_PROTO u s ≠ 1) (hcrc : crcHolds u r s) (p : Nat) :
    seuResult u p r s = fire (0x0DA0 + u) (dataWritten u (frameData u r s) (lineWritten u r (bissEnded u s))) :=
  (if_neg h).trans (if_pos (by simpa [crcHolds, frameData] using hcrc))

theorem seuResult_of_bad_crc {u : Fin 24} {r : SeuFrame} {s : State} (h : fget SEU_CFG_PROTO u s ≠ 1) (hcrc : ¬ crcHolds u r s) (p : Nat) :
    seuResult u p r s = report (rsrc (u / 6) 55) u 0 (fon SEU_STAT_CRC_ERR u (bissEnded u s)) :=
  (if_neg h).trans (if_neg (by simpa [crcHolds, frameData] using hcrc))

/-- The first dot in which the result of a BiSS-C frame with the line delay of `r` may be written (R91, R92). -/
def bissFirst (u p : Nat) (r : SeuFrame) (s : State) : Nat :=
  p + 2 + fget SEU_CFG_DIV u s + r.dly.toNat + 3 + 2 * fget SEU_CFG_DIV u s * (fget SEU_CFG_BITS u s + fget SEU_CRC_LEN u s + 5)

theorem seuReady_ssi_iff {u : Nat} {s : State} (h : fget SEU_CFG_PROTO u s = 1) (p : Nat) (r : SeuFrame) : seuReady u p r s = true ↔
    s.time = p + 2 + 2 * fget SEU_CFG_DIV u s * fget SEU_CFG_BITS u s + fget SEU_CFG_SSI_DLY u s + 3 := by
  simp only [seuReady, if_pos h, decide_eq_true_eq]

theorem seuReady_biss_iff {u : Nat} {s : State} (h : fget SEU_CFG_PROTO u s ≠ 1) (p : Nat) (r : SeuFrame) : seuReady u p r s = true ↔
    bissFirst u p r s ≤ s.time ∧ (s.time - bissFirst u p r s) % (2 * fget SEU_CFG_DIV u s) = 0 := by
  simp only [seuReady, if_neg h, Bool.and_eq_true, decide_eq_true_eq, beq_iff_eq, bissFirst]

theorem execSeuResult_of_ready {u : Fin 24} {p : Nat} {r : SeuFrame} {s : State} (hp : p ∈ (seu u s).frame)
    (h : seuReady u p r s = true) : execSeuResult u r s = .next (seuResult u p r s) := by
  rw [Option.mem_def] at hp
  simp only [execSeuResult, hp, h, if_true]

theorem execSeuResult_of_not_ready {u : Fin 24} {p : Nat} {r : SeuFrame} {s : State} (hp : p ∈ (seu u s).frame)
    (h : ¬ seuReady u p r s = true) : execSeuResult u r s = .next s := by
  rw [Option.mem_def] at hp
  simp only [execSeuResult, hp, if_neg h]

theorem execSeuResult_of_no_frame {u : Fin 24} {s : State} (h : (seu u s).frame = none) (r : SeuFrame) : execSeuResult u r s = .next s := by
  simp only [execSeuResult, h]

theorem execSeuDeadline_of_no_frame {u : Fin 24} {s : State} (h : (seu u s).frame = none) : execSeuDeadline u s = .next s := by
  simp only [execSeuDeadline, h]

theorem execSeuDeadline_of_frame {u : Fin 24} {s : State} (h : (seu u s).frame ≠ none) :
    execSeuDeadline u s = .next (report (rsrc (u / 6) 57) u 0 (fon SEU_STAT_TIMEOUT u (seuTimeout u .high s.time s))) := by
  obtain ⟨p, hp⟩ := Option.ne_none_iff_exists'.mp h
  simp only [execSeuDeadline, hp]

/-- A frame that ends with an event, behind writes of registers alone. -/
theorem ended_issuing {u : Fin 24} {ma : MaLevel} {began : Nat} {s t : State} (h : RegFileOnly (seuTimeout u ma began s) t) (e : Nat) :
    fire e t = { s with regs := (fire e t).regs, seu := (fire e t).seu, due := (fire e t).due, fab := (fire e t).fab }
    ∧ issued e s (fire e t) ∧ FrameEnded u ma (began + fget SEU_TIMING_TIMEOUT u s - s.time) s (fire e t) := by
  obtain ⟨q, d, hended⟩ := seuTimeout_frame u ma began s
  obtain ⟨r, ht⟩ := h
  refine ⟨?_, ?_, (seuTimeout_ends u ma began s).congr ?_ ?_⟩
  · rw [ht, hended]
    rfl
  · rw [issued, ht, hended]
    rfl
  · rw [ht]
    rfl
  · rw [ht]
    rfl

/-- A frame that ends with a report: the bit `F` shows it, and nothing else of the registers changes. -/
theorem completes_ended_reporting {c : Instr} {u : Fin 24} {s : State} {F : Fld} {src began : Nat} {ma : MaLevel}
    (hc : exec c s = .next (report src u 0 (fon F u (seuTimeout u ma began s))))
    (hF : [LPE_STAT_SUBST, PWR_STAT_STATE, PWR_DOMSTAT_ON].all (fun G => [(F, u.val)].all (fun e => e.1.id != G.id)) = true) (hw : F.w = 1) :
    completes c s (fun t => t = { s with regs := t.regs, hits := t.hits, seu := t.seu, due := t.due, flt := t.flt }
      ∧ reported src u 0 s t ∧ FrameEnded u ma (began + fget SEU_TIMING_TIMEOUT u s - s.time) s t
      ∧ onlyFields [(F, u.val)] s t ∧ fget F u t = 1) := by
  obtain ⟨q, d, hended⟩ := seuTimeout_frame u ma began s
  obtain ⟨r, l, hbit⟩ := (RegsOnly.refl (seuTimeout u ma began s)).fon F u
  have hf := ((onlyFields.refl [(F, u.val)] s).congr (u := seuTimeout u ma began s) rfl).fon (List.mem_singleton_self (F, u.val))
  refine ⟨_, hc, ?_, ?_, (seuTimeout_ends u ma began s).congr ?_ ?_, hf.report _ _ _, ?_⟩
  · rw [hbit, hended]
    rfl
  · exact hf.reported hF (by rw [hbit, hended]) (by rw [hbit, hended]) (by rw [hbit, hended]) (by rw [hbit, hended]) _ _ _
  · rw [hbit]
    rfl
  · rw [hbit]
    rfl
  · rw [fget_report, fget_fon_same, hw]
    rfl

/-! ### The statement -/

/-- Settles O18: each command from its equations by case; what a frame's end sets and what a result writes are stated once. -/
theorem serialEncoders : Obligations.SerialEncoders := by
  intro s u
  refine ⟨fun hbusy => ?_, fun hframe htimeout hproto => execSeuSlotFire_of_no_protocol hframe htimeout hproto,
    fun hframe htimeout hproto hdead => ?_, fun hframe htimeout hproto hdead => ?_, fun r p hp hproto htime => ?_,
    fun r p hp hproto first hfirst hle hmod hcrc => ?_, fun r p hp hproto first hfirst hle hmod hlen hcrc => ?_,
    fun r p hp hproto htime => execSeuResult_of_not_ready hp (mt (seuReady_ssi_iff hproto p r).mp htime),
    fun r p hp hproto first hfirst hnot => ?_,
    fun hframe => ⟨fun r => execSeuResult_of_no_frame hframe r, execSeuDeadline_of_no_frame hframe⟩, fun hframe => ?_, ?_⟩
  · have hf := (onlyFields.refl _ s).fon (List.mem_singleton_self (SEU_STAT_SKIPPED, u.val))
    obtain ⟨r, l, hbit⟩ := (RegsOnly.refl s).fon SEU_STAT_SKIPPED u
    refine ⟨_, execSeuSlotFire_of_busy hbusy, by rw [hbit]; rfl, ?_, hf.report _ _ _, fget_fon_same _ _ _⟩
    exact hf.reported rfl (by rw [hbit]) (by rw [hbit]) (by rw [hbit]) (by rw [hbit]) _ _ _
  · exact ⟨_, execSeuSlotFire_of_no_deadline hframe htimeout hproto hdead, rfl, rfl, ((onlyFields.refl _ s).fadd _ (by simp)).fire _,
      fget_fadd_same _ _ _ _⟩
  · exact ⟨_, execSeuSlotFire_of_deadline hframe htimeout hproto hdead, rfl, by simp, List.append_assoc _ _ _,
      fun j hj => by simp [seu_setSeu_other hj]⟩
  · have hexec := (execSeuResult_of_ready hp ((seuReady_ssi_iff hproto p r).mpr htime)).trans
      (congrArg Host.Outcome.next (seuResult_of_ssi hproto p r))
    obtain ⟨hframe, hissued, hend⟩ := ended_issuing ((RegFileOnly.refl (seuTimeout u .high (ssiEnd u p s) s)).dataWritten u (ssiData u r s))
      (0x0DA0 + u)
    obtain ⟨hlo, hhi, hseq⟩ := fget_dataWritten u (ssiData u r s) (seuTimeout u .high (ssiEnd u p s) s)
    have hf := (onlyFields.refl (dataFields u) s).congr (u := seuTimeout u .high (ssiEnd u p s) s) rfl
    refine ⟨_, hexec, hframe, hissued, hend.unit, hend.others, hend.due, fun d hd => ?_, hseq.trans (by rw [fget_seuTimeout]),
      (hf.trans (onlyFields_dataWritten u _ _)).fire _⟩
    subst hd
    exact ⟨hlo, hhi⟩
  · subst hfirst
    have hexec := (execSeuResult_of_ready hp ((seuReady_biss_iff hproto p r).mpr ⟨hle, hmod⟩)).trans
      (congrArg Host.Outcome.next (seuResult_of_biss hproto hcrc p))
    obtain ⟨hframe, hissued, hend⟩ := ended_issuing (((RegFileOnly.refl (bissEnded u s)).lineWritten u r).dataWritten u (frameData u r s))
      (0x0DA0 + u)
    obtain ⟨hlo, hhi, hseq⟩ := fget_dataWritten u (frameData u r s) (lineWritten u r (bissEnded u s))
    obtain ⟨hdly, hnE, hnW, hcds⟩ := fget_lineWritten u r (bissEnded u s)
    have hf := onlyFields_dataWritten u (frameData u r s) (lineWritten u r (bissEnded u s))
    have hlf := (onlyFields.refl (lineFields u) s).congr (u := bissEnded u s) rfl |>.trans (onlyFields_lineWritten u r (bissEnded u s))
    refine ⟨_, hexec, hframe, hissued, hend.unit, hend.others, hend.due, hlo, hhi, (hf.reg rfl u).trans hdly, (hf.reg rfl u).trans hnE,
      (hf.reg rfl u).trans hnW, (hf.reg rfl u).trans hcds, hseq.trans (by rw [hlf.reg rfl u]), ?_⟩
    exact ((hlf.mono (by simp [lineFields])).trans (hf.mono (by simp [dataFields]))).fire _
  · subst hfirst
    have hbad : ¬ crcHolds u r s := not_or.mpr ⟨hlen, hcrc⟩
    have hexec := (execSeuResult_of_ready hp ((seuReady_biss_iff hproto p r).mpr ⟨hle, hmod⟩)).trans
      (congrArg Host.Outcome.next (seuResult_of_bad_crc hproto hbad p))
    obtain ⟨t, ht, hframe, hrep, hend, hf, hset⟩ := completes_ended_reporting (c := .seuResult u r) hexec rfl rfl
    exact ⟨t, ht, hframe, hrep, hend.unit, hend.others, hend.due, hf, hset⟩
  · subst hfirst
    refine execSeuResult_of_not_ready hp fun hready => ?_
    obtain ⟨hle, hmod⟩ := (seuReady_biss_iff hproto p r).mp hready
    rcases hnot with hbefore | hother
    · exact absurd hle (Nat.not_le.mpr hbefore)
    · exact hother hmod
  · obtain ⟨t, ht, hframe, hrep, hend, hf, hset⟩ := completes_ended_reporting (c := .seuDeadline u) (execSeuDeadline_of_frame hframe) rfl rfl
    exact ⟨t, ht, hframe, hrep, hend.unit, hend.others, hend.due, hf, hset⟩
  · exact ⟨setSeu u { seu u s with timeout := false, ma := .high } s, rfl, rfl, seu_setSeu_same _ _ _, fun j hj => seu_setSeu_other hj _ _⟩

end Sys2Proof.Machine

/-! Steps that compute from the words of their own context alone. -/
namespace Sys2Proof.Machine

open Sys2Proof

/-! ### Steps that compute from the words of their context -/

section
variable {c : Fin 24} {w : StepW} {r : Run} {k n : Nat} {s : State} {i : Instr} {f g : (Nat → Int) → List (Nat × Int) × List Nat}

/-- Such a step yields its result where none of its operands lies beyond word 63, and is refused else (R103). -/
theorem stepYields_of_pure {reads : List Nat} (hat : atStep c r s) (hexec : exec i s = .next (stepPure c w k n f s))
    (hreads : (∃ x ∈ operandWords k w, 63 < x) ↔ ∃ x ∈ reads, 63 < x) (hfg : f (runWord c r s) = g (runWord c r s)) :
    stepYields i c w r n reads s g := by
  have hany : (operandWords k w).any (fun x => 63 < x) = true ↔ ∃ x ∈ reads, 63 < x := by simpa using hreads
  refine stepYields_of_exec hat (fun hbad => ?_) (fun hok => ?_)
  · rw [hexec, stepPure, stepDo_of_atStep hat, if_pos (hany.mpr hbad)]
  · rw [hexec, stepPure, stepDo_of_atStep hat, if_neg (by rw [hany]; push Not; exact hok), ← hfg]
    rfl

/-- The words that the operand fields of a step name. -/
def fieldWords (w : StepW) : List Nat := [w.a, w.b, w.c, w.d]

/-- A step whose operands are words of its fields reads nothing beyond word 63. -/
theorem stepYields_of_fields (hat : atStep c r s) (hexec : exec i s = .next (stepPure c w k n f s))
    (hreads : operandWords k w ⊆ fieldWords w) (hfg : f (runWord c r s) = g (runWord c r s)) : stepYields i c w r n [] s g := by
  refine stepYields_of_pure hat hexec ?_ hfg
  have hle : ∀ x ∈ fieldWords w, x ≤ 63 := by
    simp only [fieldWords, List.forall_mem_cons]
    exact ⟨by omega, by omega, by omega, by omega, by simp⟩
  simpa using fun x hx => hle x (hreads hx)

end

theorem a_subset_fieldWords (w : StepW) : [w.a.val] ⊆ fieldWords w := by simp [fieldWords]

theorem ab_subset_fieldWords (w : StepW) : [w.a.val, w.b.val] ⊆ fieldWords w := by simp [fieldWords]

theorem abc_subset_fieldWords (w : StepW) : [w.a.val, w.b.val, w.c.val] ⊆ fieldWords w := by simp [fieldWords]

theorem dab_subset_fieldWords (w : StepW) : [w.d.val, w.a.val, w.b.val] ⊆ fieldWords w := by simp [fieldWords]

theorem put_sat32 (d : Fin 64) (x : Int) : put d (sat32 x) = ([(d.val, saturated x)], satBits x) := by
  rw [sat32_eq]
  rfl

theorem put_rnd (d : Fin 64) (q : Nat) (x : Int) : put d (rnd q x) = ([(d.val, saturated (rounded q x))], satBits (rounded q x)) :=
  put_sat32 d _

/-! ### Arithmetic -/

theorem largest_of_sign (x : Int) :
    (if x > 0 then maxWord else if x < 0 then minWord else 0) = if x = 0 then 0 else if x < 0 then -2 ^ 31 else 2 ^ 31 - 1 := by
  rcases lt_trichotomy x 0 with h | h | h
  · rw [if_neg (by omega), if_pos h, if_neg (by omega), if_pos h]
    rfl
  · simp [h]
  · rw [if_pos h, if_neg (by omega), if_neg (by omega)]
    rfl

/-- The result of DIV (R108). -/
theorem put_quotient (d : Fin 64) (q : Nat) (x y : Int) :
    (if y = 0 then put d (if x > 0 then maxWord else if x < 0 then minWord else 0, [8]) else put d (sat32 (tdiv (x * 2 ^ q) y)))
    = if y = 0 then ([(d.val, if x = 0 then 0 else if x < 0 then -2 ^ 31 else 2 ^ 31 - 1)], [8])
      else ([(d.val, saturated ((x * 2 ^ q).tdiv y))], satBits ((x * 2 ^ q).tdiv y)) := by
  rw [largest_of_sign, put_sat32]
  rfl

theorem shiftCount_toInt (w : StepW) :
    (BitVec.ofNat 6 w.imm.toNat).toInt = if immBits w 5 0 < 32 then (immBits w 5 0 : Int) else (immBits w 5 0 : Int) - 64 := by
  rw [BitVec.toInt_eq_toNat_cond, BitVec.toNat_ofNat, immBits_zero]
  split <;> split <;> omega

/-- The result of SHIFT: IMM[5:0] is a signed count (R108). -/
theorem put_shifted (w : StepW) (x : Int) :
    put w.d (if immBits w 5 0 < 32 then sat32 (x * 2 ^ immBits w 5 0) else rnd (64 - immBits w 5 0) x)
    = let n : Int := (BitVec.ofNat 6 w.imm.toNat).toInt
      let v := if 0 ≤ n then x * 2 ^ n.toNat else rounded (-n).toNat x
      ([(w.d.val, saturated v)], satBits v) := by
  have hlt : immBits w 5 0 < 64 := by
    rw [immBits_zero]
    omega
  simp only [shiftCount_toInt]
  split
  · rw [if_pos (by omega), Int.toNat_natCast]
    exact put_sat32 _ _
  · rw [if_neg (by omega), show (-((immBits w 5 0 : Int) - 64)).toNat = 64 - immBits w 5 0 by omega]
    exact put_rnd _ _ _

/-- Settles O19: each step computes from the words that its fields name, and its result is the one stated. -/
theorem stepsOfArithmetic : Obligations.StepsOfArithmetic := by
  intro s c w r hat
  refine ⟨stepYields_of_fields hat rfl (a_subset_fieldWords w) rfl, ?_, ?_, ?_, ?_, ?_, ?_, ?_, ?_, ?_, ?_, ?_, ?_, ?_⟩
  · exact stepYields_of_fields hat rfl (List.nil_subset _) (put_sat32 _ _)
  · exact stepYields_of_fields hat rfl (ab_subset_fieldWords w) (put_sat32 _ _)
  · exact stepYields_of_fields hat rfl (ab_subset_fieldWords w) (put_sat32 _ _)
  · exact stepYields_of_fields hat rfl (ab_subset_fieldWords w) (put_rnd _ _ _)
  · exact stepYields_of_fields hat rfl (dab_subset_fieldWords w) (put_rnd _ _ _)
  · exact stepYields_of_fields hat rfl (ab_subset_fieldWords w) (put_quotient _ _ _ _)
  · exact stepYields_of_fields hat rfl (a_subset_fieldWords w) (put_sat32 _ _)
  · exact stepYields_of_fields hat rfl (a_subset_fieldWords w) ((put_sat32 _ _).trans (by rw [Int.natCast_natAbs]))
  · exact stepYields_of_fields hat rfl (ab_subset_fieldWords w) rfl
  · exact stepYields_of_fields hat rfl (ab_subset_fieldWords w) rfl
  · exact stepYields_of_fields hat rfl (abc_subset_fieldWords w) (put_rnd _ _ _)
  · exact stepYields_of_fields hat rfl (a_subset_fieldWords w) (put_shifted w _)
  · refine stepYields_of_fields hat rfl (a_subset_fieldWords w) ?_
    rw [put_sat32]
    rfl

end Sys2Proof.Machine

namespace Sys2Proof.Machine

open Sys2Proof

/-! ### Operands beyond word 63 (R103) -/

theorem not_field_beyond (i : Fin 64) : ¬ 63 < i.val := by omega

theorem pair_beyond (a b : Fin 64) : (∃ x ∈ [a.val, a.val + 1, b.val], 63 < x) ↔ ∃ x ∈ [a.val + 1], 63 < x := by
  simp [not_field_beyond]

theorem fields_pair_beyond (d a b c : Fin 64) :
    (∃ x ∈ [d.val, a.val, b.val, c.val, c.val + 1], 63 < x) ↔ ∃ x ∈ [c.val + 1], 63 < x := by
  simp [not_field_beyond]

/-- A block reaches beyond word 63 where its last word does. -/
theorem block_beyond (b n : Nat) : (∃ x ∈ block b (n + 1), 63 < x) ↔ ∃ x ∈ [b + n], 63 < x := by
  simp only [block, List.mem_map, List.mem_range, List.mem_singleton, exists_eq_left]
  constructor
  · rintro ⟨x, ⟨i, hi, rfl⟩, h⟩
    omega
  · exact fun h => ⟨b + n, ⟨n, by omega, rfl⟩, h⟩

theorem field_block_beyond (a : Fin 64) (b n : Nat) : (∃ x ∈ a.val :: block b (n + 1), 63 < x) ↔ ∃ x ∈ [b + n], 63 < x := by
  rw [List.exists_mem_cons_iff, or_iff_right (not_field_beyond a), block_beyond]

theorem fields_block_beyond (a c : Fin 64) (b n : Nat) :
    (∃ x ∈ [a.val, c.val] ++ block b (n + 1), 63 < x) ↔ ∃ x ∈ [b + n], 63 < x := by
  rw [List.cons_append, List.exists_mem_cons_iff, or_iff_right (not_field_beyond a)]
  exact field_block_beyond c b n

theorem append_beyond (xs ys : List Nat) : (∃ x ∈ xs ++ ys, 63 < x) ↔ (∃ x ∈ xs, 63 < x) ∨ ∃ x ∈ ys, 63 < x := by
  simp [or_and_right, exists_or]

theorem blocks_beyond (a b m n : Nat) :
    (∃ x ∈ block a (m + 1) ++ block b (n + 1), 63 < x) ↔ ∃ x ∈ [a + m, b + n], 63 < x := by
  rw [append_beyond, block_beyond, block_beyond]
  exact (append_beyond [_] [_]).symm

/-! ### Words and their bits -/

theorem ofNat_word (x : Int) : BitVec.ofNat 32 (word x) = BitVec.ofInt 32 x := (BitVec.ofNat_toNat _ _).trans (BitVec.setWidth_eq _)

theorem sint_word (x : Int) : sint (word x) = (BitVec.ofInt 32 x).toInt := congrArg BitVec.toInt (ofNat_word x)

theorem sint_word_and (x y : Int) : sint (word x &&& word y) = (BitVec.ofInt 32 x &&& BitVec.ofInt 32 y).toInt := by
  rw [sint, BitVec.ofNat_and, ofNat_word, ofNat_word]

theorem sint_word_or (x y : Int) : sint (word x ||| word y) = (BitVec.ofInt 32 x ||| BitVec.ofInt 32 y).toInt := by
  rw [sint, BitVec.ofNat_or, ofNat_word, ofNat_word]

theorem sint_word_xor (x y : Int) : sint (word x ^^^ word y) = (BitVec.ofInt 32 x ^^^ BitVec.ofInt 32 y).toInt := by
  rw [sint, BitVec.ofNat_xor, ofNat_word, ofNat_word]

/-! ### Limits -/

/-- The result of DEAD (R108). -/
theorem put_outside (d : Fin 64) (x b : Int) :
    put d (if x = 0 ∨ (x.natAbs : Int) ≤ b then (0, []) else sat32 (if x > 0 then x - b else x + b))
    = if |x| ≤ b ∨ x = 0 then ([(d.val, 0)], [])
      else ([(d.val, saturated (if 0 < x then x - b else x + b))], satBits (if 0 < x then x - b else x + b)) := by
  simp only [Int.natCast_natAbs, or_comm (a := x = 0)]
  split
  · rfl
  · exact put_sat32 _ _

/-- The result of VLIM (R501). -/
theorem vlim_result (d : Nat) (x y lim : Int) :
    (([(d, (vlim x y lim).1), (d + 1, (vlim x y lim).2.1)], if (vlim x y lim).2.2 then [2] else []) : Res)
    = let l := (max lim 0).toNat
      let m2 := x.natAbs ^ 2 + y.natAbs ^ 2
      if m2 ≤ l ^ 2 then ([(d, x), (d + 1, y)], [])
      else
        let k : Int := Nat.sqrt (l ^ 2 * 2 ^ 62 / m2)
        ([(d, (x * k).tdiv (2 ^ 31)), (d + 1, (y * k).tdiv (2 ^ 31))], [2]) := by
  unfold vlim
  dsimp only
  split <;> rfl

/-- A quotient truncated toward zero, times the divisor, is no longer than the dividend. -/
theorem tdiv_sq_mul_sq_le (x d : Int) : (x.tdiv d) ^ 2 * d ^ 2 ≤ x ^ 2 := by
  rw [← mul_pow, sq_le_sq, mul_comm, abs_mul, ← Int.natCast_natAbs, ← Int.natCast_natAbs, ← Int.natCast_natAbs, Int.natAbs_tdiv]
  exact_mod_cast Nat.mul_div_le _ _

/-- The factor of R501 brings a vector of squared length `m` within the limit `l`. -/
theorem factor_sq_mul_le (l m : Nat) : Nat.sqrt (l ^ 2 * 2 ^ 62 / m) ^ 2 * m ≤ l ^ 2 * 2 ^ 62 :=
  (Nat.mul_le_mul_right m (Nat.sqrt_le' _)).trans (Nat.div_mul_le_self _ _)

theorem vlim_within (x y lim : Int) : (vlim x y lim).1 ^ 2 + (vlim x y lim).2.1 ^ 2 ≤ (max lim 0) ^ 2 := by
  have hl : (((max lim 0).toNat : Nat) : Int) = max lim 0 := Int.toNat_of_nonneg (le_max_right _ _)
  have hm : ((x.natAbs ^ 2 + y.natAbs ^ 2 : Nat) : Int) = x ^ 2 + y ^ 2 := by simp
  rw [← hl]
  unfold vlim
  dsimp only
  split
  next hle =>
    rw [← hm]
    exact_mod_cast hle
  next =>
    have hfactor := factor_sq_mul_le (max lim 0).toNat (x.natAbs ^ 2 + y.natAbs ^ 2)
    generalize (max lim 0).toNat = l at hfactor ⊢
    generalize Nat.sqrt (l ^ 2 * 2 ^ 62 / (x.natAbs ^ 2 + y.natAbs ^ 2)) = k at hfactor ⊢
    have hk : (k : Int) ^ 2 * (x ^ 2 + y ^ 2) ≤ (l : Int) ^ 2 * 2 ^ 62 := by
      rw [← hm]
      exact_mod_cast hfactor
    have hx := tdiv_sq_mul_sq_le (x * k) (2 ^ 31)
    have hy := tdiv_sq_mul_sq_le (y * k) (2 ^ 31)
    simp only [tdiv]
    nlinarith only [hk, hx, hy]

/-- Settles O20: each step's result is the one stated, and VLIM alone reads beyond its fields. -/
theorem stepsOfLimitsAndLogic : Obligations.StepsOfLimitsAndLogic := by
  refine ⟨fun s c w r hat => ⟨?_, ?_, ?_, ?_, ?_, ?_, ?_, ?_, ?_, ?_, ?_, ?_⟩, vlim_within⟩
  · exact stepYields_of_fields hat rfl (abc_subset_fieldWords w) rfl
  · refine stepYields_of_fields hat rfl (dab_subset_fieldWords w) ?_
    simp only [sat32_eq]
    rfl
  · exact stepYields_of_fields hat rfl (ab_subset_fieldWords w) (put_outside _ _ _)
  · refine stepYields_of_fields hat rfl (abc_subset_fieldWords w) ?_
    split
    · rfl
    · split <;> rfl
  · exact stepYields_of_pure hat rfl (pair_beyond w.a w.b) (vlim_result _ _ _ _)
  · exact stepYields_of_fields hat rfl (ab_subset_fieldWords w) rfl
  · refine stepYields_of_fields hat rfl (ab_subset_fieldWords w) ?_
    simp only [eq_comm (a := runWord c r s w.a)]
    rfl
  · refine stepYields_of_fields hat rfl (abc_subset_fieldWords w) ?_
    simp only [ne_eq, ite_not]
    rfl
  · exact stepYields_of_fields hat rfl (ab_subset_fieldWords w) (congrArg (putv w.d) (sint_word_and _ _))
  · exact stepYields_of_fields hat rfl (ab_subset_fieldWords w) (congrArg (putv w.d) (sint_word_or _ _))
  · exact stepYields_of_fields hat rfl (ab_subset_fieldWords w) (congrArg (putv w.d) (sint_word_xor _ _))
  · exact stepYields_of_fields hat rfl (abc_subset_fieldWords w) (congrArg (putv w.d) (sint_word _))

end Sys2Proof.Machine

namespace Sys2Proof.Machine

open Sys2Proof

/-! ### Controllers, state space and speed -/

/-- PI and PID (R109): the anti-windup keeps the integral where the output is held at a limit that the error pushes against. -/
theorem controller_eq (pid : Bool) (w : StepW) (W : Nat → Int) : controller pid w W =
    let b := w.b.val
    let e := saturated (W w.a - W w.c)
    let i0 := rounded w.q (W (b + 2) * 2 ^ w.q.val + W (b + 1) * e)
    let i1 := min (max (saturated i0) (W (b + 4))) (W (b + 3))
    let d := if pid then W (b + 5) * (e - W (b + 6)) else 0
    let u0 := rounded w.q (W b * e + i1 * 2 ^ w.q.val + d)
    let u1 := min (saturated u0) (W (b + 3))
    let i2 := if saturated u0 > W (b + 3) ∧ W (b + 1) * e > 0 then W (b + 2) else i1
    let u2 := max u1 (W (b + 4))
    let i3 := if u1 < W (b + 4) ∧ W (b + 1) * e < 0 then W (b + 2) else i2
    ([(b + 2, i3)] ++ (if pid then [(b + 6, e)] else []) ++ [(w.d.val, u2)],
      satBits (W w.a - W w.c) ++ satBits i0 ++ satBits u0
        ++ (if saturated u0 > W (b + 3) ∨ u1 < W (b + 4) then [2] else [])) := by
  simp only [controller, sat32_eq, rnd_eq, clampHi]
  generalize saturated (W w.a - W w.c) = e
  generalize rounded w.q (W (w.b.val + 2) * 2 ^ w.q.val + W (w.b.val + 1) * e) = i0
  generalize min (max (saturated i0) (W (w.b.val + 4))) (W (w.b.val + 3)) = i1
  generalize rounded w.q (W w.b.val * e + i1 * 2 ^ w.q.val + _) = u0
  by_cases hhi : saturated u0 > W (w.b.val + 3)
  · rw [if_pos hhi, min_eq_right hhi.le]
    by_cases hlo : W (w.b.val + 3) < W (w.b.val + 4)
    · simp [hhi, hlo, max_eq_right hlo.le]
    · simp [hhi, hlo, max_eq_left (not_lt.mp hlo)]
  · rw [if_neg hhi, min_eq_left (not_lt.mp hhi)]
    by_cases hlo : saturated u0 < W (w.b.val + 4)
    · simp [hhi, hlo, max_eq_right hlo.le]
    · simp [hhi, hlo, max_eq_left (not_lt.mp hlo)]

theorem sumTo_eq (n : Nat) (f : Nat → Int) : sumTo n f = ((List.range n).map f).sum := by
  rw [sumTo, List.sum_eq_foldl, List.foldl_map]

/-- SSn (R109), with the places of the block written out. -/
theorem stateSpace_eq (m : Nat) (w : StepW) (W : Nat → Int) : stateSpace m w W =
    let b := w.b.val
    let x (i : Nat) : Int := W (b + m * m + 2 * m + 1 + i)
    let y := rounded w.q (((List.range m).map (fun i => W (b + m * m + m + i) * x i)).sum + W (b + m * m + 2 * m) * W w.a)
    let row (i : Nat) : Int := rounded w.q (((List.range m).map (fun k => W (b + m * i + k) * x k)).sum + W (b + m * m + i) * W w.a)
    ((w.d.val, saturated y) :: (List.range m).map (fun i => (b + m * m + 2 * m + 1 + i, saturated (row i))),
      satBits y ++ (List.range m).flatMap (fun i => satBits (row i))) := by
  have hj : w.b.val + m * m + m + m = w.b.val + m * m + 2 * m := by omega
  simp only [stateSpace, sumTo_eq, rnd_eq, hj]

/-- A speed of SPDMT: no time gives 0 and DIVZ, no way 0 (R109). -/
theorem speed_eq (dp dt : Int) (q : Nat) :
    (if dt ≤ 0 then (0, [8]) else if dp = 0 then (0, []) else sat32 (tdiv (dp * 2 ^ q) dt) : Val)
    = (if dt ≤ 0 ∨ dp = 0 then 0 else saturated ((dp * 2 ^ q).tdiv dt),
        if dt ≤ 0 then [8] else if dp = 0 then [] else satBits ((dp * 2 ^ q).tdiv dt)) := by
  rw [sat32_eq]
  by_cases hdt : dt ≤ 0
  · simp only [if_pos hdt, if_pos (Or.inl hdt : dt ≤ 0 ∨ dp = 0)]
  · by_cases hdp : dp = 0
    · simp only [if_neg hdt, if_pos hdp, if_pos (Or.inr hdp : dt ≤ 0 ∨ dp = 0)]
    · simp only [if_neg hdt, if_neg hdp, if_neg (not_or.mpr ⟨hdt, hdp⟩)]
      rfl

/-- Settles O21: each step's result is the one stated, and it is refused where the last word of its block lies beyond word 63. -/
theorem stepsOfControl : Obligations.StepsOfControl := by
  intro s c w r hat
  refine ⟨fun pid => ?_, ?_, ?_, ?_, ?_, fun n => ?_, ?_⟩
  · cases pid
    case false => exact stepYields_of_pure hat rfl (fields_block_beyond w.a w.c w.b 4) (controller_eq false w _)
    case true => exact stepYields_of_pure hat rfl (fields_block_beyond w.a w.c w.b 6) (controller_eq true w _)
  · refine stepYields_of_pure hat rfl (field_block_beyond w.a w.b 6) ?_
    simp only [biquad, rnd_eq]
  · refine stepYields_of_fields hat rfl (dab_subset_fieldWords w) ?_
    simp only [rnd_eq, sat32_eq]
    rfl
  · refine stepYields_of_pure hat rfl (fields_pair_beyond w.d w.a w.b w.c) ?_
    simp only [rnd_eq, sat32_eq]
    rfl
  · refine stepYields_of_fields hat rfl (ab_subset_fieldWords w) ?_
    simp only [sat32_eq]
  · match n with
    | 0 => exact stepYields_of_pure hat rfl (field_block_beyond w.a w.b 10) (stateSpace_eq 2 w _)
    | 1 => exact stepYields_of_pure hat rfl (field_block_beyond w.a w.b 18) (stateSpace_eq 3 w _)
    | 2 => exact stepYields_of_pure hat rfl (field_block_beyond w.a w.b 28) (stateSpace_eq 4 w _)
  · refine stepYields_of_pure hat rfl (blocks_beyond w.a w.b 2 2) ?_
    simp only [sint_word, speed_eq]
    rfl

end Sys2Proof.Machine

namespace Sys2Proof.Machine

open Sys2Proof

/-! ### Compares of a duty (R110) -/

theorem splitCompares_fine_steps (p a b : Nat) :
    (splitCompares p a b).cmpa * 32 + (splitCompares p a b).fine % 256 = a
    ∧ (splitCompares p a b).cmpb * 32 + (splitCompares p a b).fine / 256 = b := by
  simp only [splitCompares]
  omega

theorem dutySteps_of_nonpos {d : Int} (hd : d ≤ 0) (p k : Nat) : dutySteps d p k = 0 := if_pos hd

theorem dutySteps_of_full {d : Int} (hd : 2 ^ 31 - 1 ≤ d) (p k : Nat) : dutySteps d p k = p * k := by
  rw [dutySteps, if_neg (by omega)]
  exact if_pos hd

/-- Below the full duty the steps fall short of the period by more than the rounding adds. -/
theorem dutySteps_le (d : Int) (p k : Nat) : dutySteps d p k ≤ p * k := by
  unfold dutySteps
  split
  next => exact Nat.zero_le _
  next =>
    split
    next => exact le_rfl
    next hfull =>
      have hd : 2 * d.toNat ≤ 2 ^ 32 := by
        have : maxWord = 2 ^ 31 - 1 := rfl
        omega
      have hprod : 2 * d.toNat * (p * k) ≤ 2 ^ 32 * (p * k) := Nat.mul_le_mul_right _ hd
      rw [Nat.mul_assoc (2 * d.toNat)]
      omega

/-- Settles O26: a triangle gives its steps on both sides of the middle, a sawtooth its start and its end held within the period. -/
theorem comparesOfADuty : Obligations.ComparesOfADuty := by
  refine ⟨fun d p => ?_, fun d st p => ?_⟩
  · obtain ⟨ha, hb⟩ := splitCompares_fine_steps p (p * 16 - dutySteps d p 16) (p * 16 + dutySteps d p 16)
    exact ⟨dutySteps d p 16, dutySteps_le d p 16, ha, hb, rfl, fun hd => dutySteps_of_nonpos hd p 16, fun hd => dutySteps_of_full hd p 16⟩
  · obtain ⟨ha, hb⟩ := splitCompares_fine_steps p (min st.toNat (p * 32)) (min (min st.toNat (p * 32) + dutySteps d p 32) (p * 32))
    refine ⟨_, _, ha, hb, by omega, min_le_right _ _, by omega, fun hd => ?_⟩
    rw [dutySteps_of_nonpos hd]
    omega

/-! ### Multiples of the square root of 3 (R501) -/

theorem irrational_sqrt_three : Irrational (√3) := by
  simpa using Nat.Prime.irrational_sqrt Nat.prime_three

theorem floorSqrt3_nat (n : Nat) : ((Nat.sqrt (3 * n ^ 2) : Nat) : Int) = ⌊(n : ℝ) * √3⌋ := by
  have h : (n : ℝ) * √3 = √((3 * n ^ 2 : Nat) : ℝ) := by
    push_cast
    rw [mul_comm 3, Real.sqrt_mul (by positivity), Real.sqrt_sq (by positivity)]
  rw [h, Real.floor_real_sqrt_eq_nat_sqrt]

theorem floor_neg_of_irrational {x : ℝ} (hx : Irrational x) : ⌊-x⌋ = -⌊x⌋ - 1 := by
  have hceil : ⌈x⌉ = ⌊x⌋ + 1 := (Int.ceil_eq_floor_add_one_iff_notMem x).mpr fun ⟨n, hn⟩ => hx.ne_int n hn.symm
  rw [Int.floor_neg, hceil]
  omega

theorem floorSqrt3_exact (y : Int) : floorSqrt3 y = ⌊(y : ℝ) * √3⌋ := by
  simp only [floorSqrt3, floorSqrt3_nat]
  split
  next hy => rw [Nat.cast_natAbs, abs_of_nonneg hy]
  next hy =>
    have habs : ((y.natAbs : Nat) : ℝ) = -(y : ℝ) := by
      rw [Nat.cast_natAbs, abs_of_neg (by omega), Int.cast_neg]
    have hirr : Irrational (-(y : ℝ) * √3) := by
      rw [← Int.cast_neg]
      exact irrational_sqrt_three.intCast_mul (by omega)
    rw [habs, ← floor_neg_of_irrational hirr, neg_mul, neg_neg]

/-- An integer part plus an integer, divided downward by `n`, is the integer part of the exact quotient. -/
theorem floor_add_div (x : ℝ) (m : Int) (n : Nat) : (⌊x⌋ + m) / (n : Int) = ⌊(x + m) / n⌋ := by
  rw [Int.floor_div_natCast, Int.floor_add_intCast]

theorem overSqrt3_exact (v : Int) : overSqrt3 v = ⌊(v : ℝ) / √3 + 1 / 2⌋ := by
  have h3 : √3 * √3 = 3 := Real.mul_self_sqrt (by norm_num)
  have hdiv : ((2 * v : Int) * √3 + (3 : Int)) / (6 : Nat) = (v : ℝ) / √3 + 1 / 2 := by
    have : √3 ≠ 0 := by positivity
    field_simp
    push_cast
    linear_combination 4 * (v : ℝ) * h3
  have h : (floorSqrt3 (2 * v) + 3) / 6 = ⌊(v : ℝ) / √3 + 1 / 2⌋ := by
    rw [floorSqrt3_exact, ← hdiv]
    exact floor_add_div _ 3 6
  unfold overSqrt3
  split
  next hv => norm_num [hv]
  next => exact h

theorem floorSqrt3_zero : floorSqrt3 0 = 0 := by decide

/-- A phase of ICLARKE: the floor of (y sqrt 3 + 1 - a) / 2. -/
theorem phase_exact (a y : Int) : (floorSqrt3 y + 1 - a) / 2 = ⌊-(a : ℝ) / 2 + √3 / 2 * y + 1 / 2⌋ := by
  have hdiv : ((y : ℝ) * √3 + (1 - a : Int)) / (2 : Nat) = -(a : ℝ) / 2 + √3 / 2 * y + 1 / 2 := by
    push_cast
    ring
  rw [floorSqrt3_exact, ← hdiv, add_sub_assoc]
  exact floor_add_div _ (1 - a) 2

theorem phases_eq (a b : Int) : phases a b = (a, (floorSqrt3 b + 1 - a) / 2, (floorSqrt3 (-b) + 1 - a) / 2) := by
  unfold phases
  split
  next hb => simp [hb, floorSqrt3_zero]
  next => rfl

theorem phases_exact (a b : Int) : (phases a b).1 = a
    ∧ (phases a b).2.1 = ⌊-(a : ℝ) / 2 + √3 / 2 * b + 1 / 2⌋ ∧ (phases a b).2.2 = ⌊-(a : ℝ) / 2 - √3 / 2 * b + 1 / 2⌋ := by
  rw [phases_eq]
  refine ⟨rfl, phase_exact a b, (phase_exact a (-b)).trans ?_⟩
  rw [Int.cast_neg, mul_neg, ← sub_eq_add_neg]

/-! ### The sine (R108) -/

/-- A result of SINCOS, from the sine scaled by 2^96 and the free offset. -/
def sineWord (x off : Int) : Int :=
  let n := (x + 2 ^ 64) / 2 ^ 65
  let r := if ((n + off) * 2 ^ 65 - x).natAbs ≤ 4 * 2 ^ 65 then n + off else n
  min (max r minWord) maxWord

theorem sincos_zero (u : Nat) : sincos 0 u = sineWord (sinTurn (u + 2 ^ 30)) (Config.sincosOffset 0 u) := by
  rw [sincos, if_pos rfl, sineWord]

theorem sincos_one (u : Nat) : sincos 1 u = sineWord (sinTurn u) (Config.sincosOffset 1 u) := by
  rw [sincos, if_neg Nat.one_ne_zero, sineWord]

/-- The rounded sine is within half of the last bit, and an offset is used within 4 of it. -/
theorem sineWord_within (x off : Int) :
    sineWord x off = 2 ^ 31 - 1 ∨ sineWord x off = -2 ^ 31 ∨ |sineWord x off * 2 ^ 65 - x| ≤ 4 * 2 ^ 65 := by
  have hmax : maxWord = 2 ^ 31 - 1 := rfl
  have hmin : minWord = -2 ^ 31 := rfl
  have hnear : ∀ r : Int, |r * 2 ^ 65 - x| ≤ 4 * 2 ^ 65 →
      min (max r minWord) maxWord = 2 ^ 31 - 1 ∨ min (max r minWord) maxWord = -2 ^ 31
      ∨ |min (max r minWord) maxWord * 2 ^ 65 - x| ≤ 4 * 2 ^ 65 := fun r hr => by
    rcases le_total r minWord with hlo | hlo
    · exact Or.inr (Or.inl (by omega))
    · rcases le_total r maxWord with hhi | hhi
      · rw [max_eq_left hlo, min_eq_left hhi]
        exact Or.inr (Or.inr hr)
      · exact Or.inl (by omega)
  unfold sineWord
  dsimp only
  split
  next hoff => exact hnear _ (by rw [Int.abs_eq_natAbs]; exact_mod_cast hoff)
  next => exact hnear _ (by rw [abs_le]; omega)

/-- Settles O23, with the square root of 3 irrational and one floor for each quotient. -/
theorem exactConstants : Obligations.ExactConstants :=
  ⟨floorSqrt3_exact, overSqrt3_exact, phases_exact, fun u => sincos_one u ▸ sineWord_within _ _,
    fun u => sincos_zero u ▸ sineWord_within _ _⟩

end Sys2Proof.Machine

/-! Two statements about the loop engine that fail: each with a state that the model evaluates to the refuting outcome. -/
namespace Sys2Proof.Machine

open Sys2Proof

/-! ### A table index wider than a word -/

/-- A TBL step from word 4 to word 5, for the table of two entries from local word 0 on. -/
def tblTwoEntries : StepW := ⟨5, 4, 0, 0, 0, false, 0x1000⟩

/-- A run of context 0 at its first step. -/
def tblRun : Run := ⟨0, 0, 0, 0, ⟨0, 0, 0⟩, false, none, none, false⟩

/-- Word 4 of context 0 holds 2^32, which is wider than a word; the table's first entry is 0, its second 1. -/
def wideIndex : State :=
  setEng 0 { EngH.init with run := some tblRun } { State.reset with ctx := [(4, 2 ^ 32)], mem := [(0x4400C004, 1)] }

theorem wideIndex_atStep : atStep 0 tblRun wideIndex := ⟨rfl, rfl, rfl, rfl, rfl⟩

/-- The step holds the index, as it stands, at the last entry. -/
theorem stepTbl_of_wideIndex : ctxGet 0 5 (ran (exec (.stepTbl 0 tblTwoEntries) wideIndex) wideIndex) = 1 := by decide

/-- Cut to 32 bits, as the statement reads it, the index names the first entry. -/
theorem tableAt_of_cut_wideIndex : tableAt 0 0 2 (BitVec.ofInt 32 (runWord 0 tblRun wideIndex 4)).toNat wideIndex = 0 := by decide

/-- Refutes O22, in the first clause of TBL: it cuts the index to 32 bits, and the model takes the context word as it stands. No run
leaves a word wider than 32 bits; the statement is of every state. -/
theorem not_stepsOfTransforms : ¬ Obligations.StepsOfTransforms := by
  intro h
  obtain ⟨htbl, -⟩ := h wideIndex 0 tblTwoEntries tblRun wideIndex_atStep
  obtain ⟨-, hyields⟩ := htbl (by decide) (by decide)
  obtain ⟨t, ht, -, -, -, -, hwords⟩ := hyields (by simp)
  have hone : ctxGet 0 5 t = 1 := by simpa only [ht, ran] using stepTbl_of_wideIndex
  have hzero : ctxGet 0 5 t = ctxGet 0 5 (ctxApply 0 5 (word 0) wideIndex) := by
    rw [← tableAt_of_cut_wideIndex]
    exact hwords 0 5 (by decide)
  exact absurd (hone.symm.trans hzero) (by decide)

/-! ### A dropped dispatch whose status word is poisoned -/

/-- Region 0 is in RUN and context 0 waits in the queue of cluster 0; the memory word that holds its CTX_STAT is uncorrectable. -/
def queuedOnPoison : State :=
  fset RGN_STAT_STATE 0 2 (setEng 0 { EngH.init with queue := [(0, 0)] } { State.reset with poison := [ctxPlace 0 1] })

/-- Nothing is merged into a word with an uncorrectable error (R283): DROPPED stays as it was. -/
theorem lpeKick_of_queuedOnPoison : ctxGet 0 1 (ran (exec (.lpeKick 0 0) queuedOnPoison) queuedOnPoison) = 0 := by decide

/-- Refutes O27, in the clause of a context that is queued already: unlike those of a run's end it does not ask that memory be free of
errors, and bit 4 of CTX_STAT is not set in a word that is uncorrectable. -/
theorem not_engineDispatch : ¬ Obligations.EngineDispatch := by
  intro h
  obtain ⟨-, -, -, hdropped, -⟩ := h queuedOnPoison 0
  obtain ⟨t, ht, -, hstat, -⟩ := hdropped 0 (by decide) (by decide) ⟨(0, 0), by decide, rfl⟩
  have hzero : ctxGet 0 1 t = 0 := by simpa only [ht, ran] using lpeKick_of_queuedOnPoison
  have hset : ctxGet 0 1 t = (ctxGet 0 1 queuedOnPoison ||| 16) % 2 ^ 32 := hstat
  exact absurd (hzero.symm.trans hset) (by decide)

end Sys2Proof.Machine

/-! The halt on a mismatch, and the spare pairs. -/
namespace Sys2Proof.Machine

open Sys2Proof

/-! ### The engine halts (R119) -/

theorem eng_congr {s t : State} (h : t.eng = s.eng) (j : Nat) : eng j t = eng j s := by rw [eng, eng, h]

@[simp] theorem eng_foff (j : Nat) (F : Fld) (u : Nat) (s : State) : eng j (foff F u s) = eng j s := rfl
@[simp] theorem ctxGet_foff (h x : Nat) (F : Fld) (u : Nat) (s : State) : ctxGet h x (foff F u s) = ctxGet h x s := rfl
@[simp] theorem ctxGet_setEng (h x c : Nat) (e : EngH) (s : State) : ctxGet h x (setEng c e s) = ctxGet h x s := rfl
@[simp] theorem fget_setEng (F : Fld) (u c : Nat) (h : EngH) (s : State) : fget F u (setEng c h s) = fget F u s := rfl

theorem engineThrough_of_none {c : Fin 24} {lim : Nat} {s : State} (h : engineNext c lim s = none) : engineThrough c lim s = s := by
  simp only [engineThrough, engineOn, h]

/-- What the cut of cluster `c`'s run, if there is one, leaves (R105, R114). -/
structure RunCut (c : Nat) (s t : State) : Prop where
  frame : ∃ r l x e h d, t = { s with regs := r, hits := l, ctx := x, eng := e, holds := h, due := d }
  due : fbit LPE_STAT_SUBST c s = false → t.due = s.due
  holds : fbit LPE_STAT_SUBST c s = true → t.holds = s.holds
  run : (eng c t).run = none
  queue : (eng c t).queue = (eng c s).queue
  others : ∀ j, j ≠ c → eng j t = eng j s
  ended : ∀ r ∈ (eng c s).run, ctxGet (128 * c + r.ctx) 1 t = (ctxGet (128 * c + r.ctx) 1 s ||| 512) % 2 ^ 32
    ∧ fget LPE_STAT_RUNNING c t = 0
  fields : onlyFields [(LPE_STAT_RUNNING, c)] s t

/-- CUT, CTX_RUNS and CTX_STAMP of a run that is cut. -/
def cutWords (c : Nat) (r : Run) (s : State) : State :=
  let u := setCtxStat (128 * c + r.ctx) 9 s
  ctxSet (128 * c + r.ctx) 3 (r.start % 2 * 2 ^ 26 + posLo r.pos) (ctxSet (128 * c + r.ctx) 2 (ctxGet (128 * c + r.ctx) 2 u + 1) u)

/-- Cluster `c`'s engine, free from engine cycle `k` on of its run `r` (R124). -/
def freedEng (c k : Nat) (r : Run) (s : State) : EngH :=
  { eng c s with run := none, freeAt := k, busy := (eng c s).busy + (k - max (eng c s).from_ r.start) }

/-- The engine is free of the run, before its holds end. -/
def runStopped (c k : Nat) (r : Run) (s : State) : State := foff LPE_STAT_RUNNING c (setEng c (freedEng c k r s) (cutWords c r s))

theorem endRun_of_run {c : Nat} {r : Run} {s : State} (hs : memorySound s) (hrun : (eng c s).run = some r) (k : Nat) :
    endRun c k true s = if fbit LPE_STAT_SUBST c (runStopped c k r s)
      then later 3 (.release (heldLegs c (128 * c + r.ctx) (runStopped c k r s))) (runStopped c k r s)
      else dropHolds (heldLegs c (128 * c + r.ctx) (runStopped c k r s)) (runStopped c k r s) := by
  have hsound := (setCtxStat_changed hs (128 * c + r.ctx) 9).sound hs
  simp only [endRun, hrun, if_true, runCtx, ctxMerge_of_sound hsound]
  rfl

theorem cutWords_frame {s : State} (hs : memorySound s) (c : Nat) (r : Run) : ∃ x l, cutWords c r s = { s with ctx := x, hits := l } := by
  obtain ⟨x, l, h⟩ := (setCtxStat_changed hs (128 * c + r.ctx) 9).frame
  exact ⟨_, l, by rw [cutWords, h]; rfl⟩

theorem ctxGet_cutWords {s : State} (hs : memorySound s) (c : Nat) (r : Run) :
    ctxGet (128 * c + r.ctx) 1 (cutWords c r s) = (ctxGet (128 * c + r.ctx) 1 s ||| 512) % 2 ^ 32 := by
  rw [cutWords, ctxGet_ctxSet, if_neg (by omega), ctxGet_ctxSet, if_neg (by omega)]
  exact ctxGet_setCtxStat_same hs _ 9

theorem runStopped_cut {c : Nat} {r : Run} {s : State} (hs : memorySound s) (hrun : (eng c s).run = some r) (k : Nat) :
    RunCut c s (runStopped c k r s) := by
  have hstat := ctxGet_cutWords hs c r
  obtain ⟨x, l, h⟩ := cutWords_frame hs c r
  rw [runStopped]
  generalize cutWords c r s = t at hstat h
  subst h
  refine ⟨⟨_, _, _, _, _, _, rfl⟩, fun _ => rfl, fun _ => rfl, ?_, ?_, fun j hj => ?_, fun r' hr' => ⟨?_, fget_foff_same _ _ _⟩, ?_⟩
  · rw [eng_foff, eng_setEng_same, freedEng]
  · rw [eng_foff, eng_setEng_same, freedEng]
  · rw [eng_foff, eng_setEng_other hj]
    rfl
  · obtain rfl : r = r' := Option.some.inj (hrun.symm.trans hr')
    rw [ctxGet_foff, ctxGet_setEng, hstat]
  · exact ((onlyFields.refl _ s).congr rfl).foff (by simp)

theorem RunCut.later {c : Nat} {s t : State} (h : RunCut c s t) (hsub : fbit LPE_STAT_SUBST c s = true) (n : Nat) (d : Due) :
    RunCut c s (later n d t) := by
  obtain ⟨rg, l, x, e, hs, q, rfl⟩ := h.frame
  exact ⟨⟨_, _, _, _, _, _, rfl⟩, fun hown => by simp [hsub] at hown, h.holds, h.run, h.queue, h.others, h.ended, h.fields.later n d⟩

theorem RunCut.dropHolds {c : Nat} {s t : State} (h : RunCut c s t) (hsub : fbit LPE_STAT_SUBST c s = false) (hs : List (Nat × Nat)) :
    RunCut c s (dropHolds hs t) := by
  obtain ⟨rg, l, x, e, hl, q, rfl⟩ := h.frame
  exact ⟨⟨_, _, _, _, _, _, rfl⟩, h.due, fun hserved => by simp [hsub] at hserved, h.run, h.queue, h.others, h.ended, h.fields.congr rfl⟩

theorem RunCut.refl {c : Nat} {s : State} (hrun : (eng c s).run = none) : RunCut c s s :=
  ⟨⟨_, _, _, _, _, _, rfl⟩, fun _ => rfl, fun _ => rfl, hrun, rfl, fun _ _ => rfl, by simp [hrun], .refl _ _⟩

theorem RunCut.subst {c : Nat} {s t : State} (h : RunCut c s t) : fbit LPE_STAT_SUBST c t = fbit LPE_STAT_SUBST c s := by
  rw [fbit, fbit, h.fields.reg (F := LPE_STAT_SUBST) rfl]

theorem endRun_cut {s : State} (hs : memorySound s) (c k : Nat) : RunCut c s (endRun c k true s) := by
  cases hrun : (eng c s).run with
  | none =>
    have hend : endRun c k true s = s := by simp only [endRun, hrun]
    rw [hend]
    exact .refl hrun
  | some r =>
    have hcut := runStopped_cut hs hrun k
    rw [endRun_of_run hs hrun, hcut.subst]
    split
    next hsub => exact hcut.later hsub _ _
    next hsub => exact hcut.dropHolds (by simpa using hsub) _

/-- What the halt of cluster `c`'s engine leaves (R119). -/
structure LockHalted (c : Nat) (s t : State) : Prop where
  frame : ∃ r l x e h d, t = { s with
    regs := r, hits := l, ctx := x, eng := e, holds := h, due := d, fab := { s.fab with now := nput (0x1300 + c) s.fab.now } }
  due : fbit LPE_STAT_SUBST c s = false → t.due = s.due
  holds : fbit LPE_STAT_SUBST c s = true → t.holds = s.holds
  run : (eng c t).run = none
  halted : (eng c t).halted = true
  queue : (eng c t).queue = (eng c s).queue
  others : ∀ j, j ≠ c → eng j t = eng j s
  bits : fget LPE_STAT_HALTED c t = 1 ∧ fget LPE_STAT_LOCK_ERR c t = 1
  ended : ∀ r ∈ (eng c s).run, ctxGet (128 * c + r.ctx) 1 t = (ctxGet (128 * c + r.ctx) 1 s ||| 512) % 2 ^ 32
    ∧ fget LPE_STAT_RUNNING c t = 0
  fields : onlyFields [(LPE_STAT_HALTED, c), (LPE_STAT_LOCK_ERR, c), (LPE_STAT_RUNNING, c)] s t

theorem lockHalt_eq (c k : Nat) (s : State) : lockHalt c k s =
    fire (0x1300 + c) (fon LPE_STAT_LOCK_ERR c (setEng c { eng c (endRun c k true s) with halted := true }
      (fon LPE_STAT_HALTED c (endRun c k true s)))) := rfl

theorem lockHalt_halted {s : State} (hs : memorySound s) (c k : Nat) : LockHalted c s (lockHalt c k s) := by
  have hcut := endRun_cut hs c k
  rw [lockHalt_eq]
  generalize endRun c k true s = t at hcut
  obtain ⟨rg, l, x, e, hl, q, hframe⟩ := hcut.frame
  have heng : ∀ j, eng j (fire (0x1300 + c) (fon LPE_STAT_LOCK_ERR c (setEng c { eng c t with halted := true } (fon LPE_STAT_HALTED c t))))
      = eng j (setEng c { eng c t with halted := true } t) := fun j => eng_congr (by simp [setEng]) j
  refine ⟨?_, fun h => ?_, fun h => ?_, ?_, ?_, ?_, fun j hj => ?_, ?_, fun r hr => ?_, ?_⟩
  · rw [fon_eq, fon_eq LPE_STAT_HALTED, hframe]
    exact ⟨_, _, _, _, _, _, rfl⟩
  · simpa [setEng] using hcut.due h
  · simpa [setEng] using hcut.holds h
  · rw [heng, eng_setEng_same]
    exact hcut.run
  · rw [heng, eng_setEng_same]
  · rw [heng, eng_setEng_same]
    exact hcut.queue
  · rw [heng, eng_setEng_other hj]
    exact hcut.others j hj
  · rw [fget_fire, fget_fire]
    refine ⟨?_, fget_fon_same _ _ _⟩
    exact (fget_fon_other _ (Or.inl (by decide))).trans (fget_fon_same _ _ _)
  · obtain ⟨hstat, hrunning⟩ := hcut.ended r hr
    refine ⟨by simpa [ctxGet, setEng] using hstat, ?_⟩
    rw [fget_fire, fget_fon_other _ (Or.inl (by decide))]
    exact (fget_fon_other _ (Or.inl (by decide))).trans hrunning
  · have hfields := (hcut.fields.mono (gs := [(LPE_STAT_HALTED, c), (LPE_STAT_LOCK_ERR, c), (LPE_STAT_RUNNING, c)]) (by simp)).fon
      (F := LPE_STAT_HALTED) (w := c) (by simp)
    exact ((hfields.congr (u := setEng c { eng c t with halted := true } (fon LPE_STAT_HALTED c t)) rfl).fon (by simp)).fire _

/-! ### A mismatch of a cluster's own pair -/

theorem lockFound_of_own {c : Nat} {s : State} (h : fbit LPE_STAT_SUBST c s = false) (k : Nat) :
    lockFound c k s = report (csrc c 8) (runInfo c k s).1 (runInfo c k s).2 (lockHalt c k s) := if_neg (by simp [h])

theorem lockFound_of_served {c : Nat} {s : State} (h : fbit LPE_STAT_SUBST c s = true) (k : Nat) :
    lockFound c k s = report (rsrc (c / 6) 60) c 0 (lockHalt c k (fon RSP_STAT_SPARE_FAIL (c / 6) s)) := if_pos h

theorem runInfo_of_run {c : Nat} {r : Run} {s : State} (h : (eng c s).run = some r) (k : Nat) :
    runInfo c k s = (128 * c + r.ctx, k - r.start) := by
  simp only [runInfo, h]
  rfl

theorem execLockstepMismatch_of_own {c : Fin 24} {h : Fin 2} {s : State} (hon : clusterOn c s = true) (hown : fbit LPE_STAT_SUBST c s = false)
    (htest : testing (16 + c) s = false) (hnext : engineNext c (2 * s.time + h) s = none) :
    execLockstepMismatch ⟨.cluster c, h⟩ s = .next (lockFound c (2 * s.time + h) s) := by
  simp only [execLockstepMismatch, hon, hown, htest, engineThrough_of_none hnext]
  rfl

theorem lockstepMismatch_cluster_halts {s : State} (c : Fin 24) (h : Fin 2) (hon : clusterOn c s = true) (hown : fbit LPE_STAT_SUBST c s = false)
    (htest : testing (16 + c) s = false) (hnext : engineNext c (2 * s.time + h) s = none) (hs : memorySound s) :
    completes (.lockstepMismatch ⟨.cluster c, h⟩) s (fun t =>
    t = { s with regs := t.regs, hits := t.hits, ctx := t.ctx, eng := t.eng, holds := t.holds, fab := t.fab, flt := t.flt }
    ∧ (eng c t).run = none ∧ (eng c t).halted = true ∧ (eng c t).queue = (eng c s).queue ∧ (∀ j, j ≠ c.val → eng j t = eng j s)
    ∧ fget LPE_STAT_HALTED c t = 1 ∧ fget LPE_STAT_LOCK_ERR c t = 1 ∧ issued (0x1300 + c.val) s t
    ∧ reported (csrc c 8) (runInfo c (2 * s.time + h) s).1 (runInfo c (2 * s.time + h) s).2 s t
    ∧ (∀ r ∈ (eng c s).run, ctxGet (128 * c + r.ctx) 1 t = (ctxGet (128 * c + r.ctx) 1 s ||| 512) % 2 ^ 32
        ∧ fget LPE_STAT_RUNNING c t = 0 ∧ runInfo c (2 * s.time + h) s = (128 * c + r.ctx, 2 * s.time + h - r.start))
    ∧ onlyFields [(LPE_STAT_HALTED, c), (LPE_STAT_LOCK_ERR, c), (LPE_STAT_RUNNING, c)] s t) := by
  refine ⟨_, execLockstepMismatch_of_own hon hown htest hnext, ?_⟩
  rw [lockFound_of_own hown]
  have hhalt := lockHalt_halted hs c (2 * s.time + h)
  generalize lockHalt c (2 * s.time + h) s = t at hhalt
  obtain ⟨hframe, hdue, -, hrun, hhalted, hqueue, hothers, ⟨hbit, herr⟩, hended, hfields⟩ := hhalt
  specialize hdue hown
  obtain ⟨rg, l, x, e, hl, q, rfl⟩ := hframe
  obtain rfl : q = s.due := hdue
  refine ⟨rfl, hrun, hhalted, hqueue, hothers, hbit, herr, rfl, hfields.reported rfl rfl rfl rfl rfl _ _ _, fun r hr => ?_, hfields.report _ _ _⟩
  obtain ⟨hstat, hrunning⟩ := hended r hr
  exact ⟨hstat, hrunning, runInfo_of_run hr _⟩

/-! ### A mismatch of a spare (R122) -/

theorem execLockstepMismatch_of_serving {n : Fin 4} {h : Fin 2} {c : Nat} {s : State} (hc : c = 6 * n.val + fget RSP_STAT_SERVING n s)
    (hin : fbit RSP_STAT_IN_SERVICE n s = true) (hnext : engineNext (Fin.ofNat 24 c) (2 * s.time + h) s = none) :
    execLockstepMismatch ⟨.spare n, h⟩ s = .next (lockFound c (2 * s.time + h) s) := by
  subst hc
  simp only [execLockstepMismatch, hin, if_true, engineThrough_of_none hnext]

theorem lockstepMismatch_serving_halts {s : State} (n : Fin 4) (h : Fin 2) (c : Nat) (hc : c = 6 * n.val + fget RSP_STAT_SERVING n s)
    (hlt : fget RSP_STAT_SERVING n s < 6) (hin : fbit RSP_STAT_IN_SERVICE n s = true) (hsub : fbit LPE_STAT_SUBST c s = true)
    (hnext : engineNext (Fin.ofNat 24 c) (2 * s.time + h) s = none) (hs : memorySound s) :
    completes (.lockstepMismatch ⟨.spare n, h⟩) s (fun t =>
    t = { s with regs := t.regs, hits := t.hits, ctx := t.ctx, eng := t.eng, due := t.due, fab := t.fab, flt := t.flt }
    ∧ (eng c t).run = none ∧ (eng c t).halted = true ∧ (∀ j, j ≠ c → eng j t = eng j s)
    ∧ fget LPE_STAT_HALTED c t = 1 ∧ fget LPE_STAT_LOCK_ERR c t = 1 ∧ fget RSP_STAT_SPARE_FAIL n t = 1 ∧ issued (0x1300 + c) s t
    ∧ reported (rsrc n 60) c 0 s t
    ∧ onlyFields [(LPE_STAT_HALTED, c), (LPE_STAT_LOCK_ERR, c), (LPE_STAT_RUNNING, c), (RSP_STAT_SPARE_FAIL, n.val)] s t) := by
  refine ⟨_, execLockstepMismatch_of_serving hc hin hnext, ?_⟩
  have hregion : c / 6 = n.val := by omega
  rw [lockFound_of_served hsub, hregion]
  have hfail : onlyFields [(RSP_STAT_SPARE_FAIL, n.val)] s (fon RSP_STAT_SPARE_FAIL n s) := (onlyFields.refl _ s).fon (by simp)
  have hset : fget RSP_STAT_SPARE_FAIL n (fon RSP_STAT_SPARE_FAIL n s) = 1 := fget_fon_same _ _ _
  obtain ⟨rg, l, hframe⟩ := (RegsOnly.refl s).fon RSP_STAT_SPARE_FAIL n
  generalize fon RSP_STAT_SPARE_FAIL n s = u at hfail hset hframe
  subst hframe
  have hhalt := lockHalt_halted (s := { s with regs := rg, hits := l }) hs c (2 * s.time + h)
  generalize lockHalt c (2 * s.time + h) { s with regs := rg, hits := l } = t at hhalt
  obtain ⟨hframe, -, hholds, hrun, hhalted, -, hothers, ⟨hbit, herr⟩, -, hfields⟩ := hhalt
  have hsame : fbit LPE_STAT_SUBST c { s with regs := rg, hits := l } = fbit LPE_STAT_SUBST c s := by
    rw [fbit, fbit, hfail.reg (F := LPE_STAT_SUBST) rfl]
  specialize hholds (hsame.trans hsub)
  obtain ⟨rg', l', x, e, hl, q, rfl⟩ := hframe
  obtain rfl : hl = s.holds := hholds
  have hall := (hfail.mono (gs := [(LPE_STAT_HALTED, c), (LPE_STAT_LOCK_ERR, c), (LPE_STAT_RUNNING, c), (RSP_STAT_SPARE_FAIL, n.val)])
    (by simp)).trans (hfields.mono (by simp))
  refine ⟨rfl, hrun, hhalted, hothers, hbit, herr, ?_, rfl, hall.reported rfl rfl rfl rfl rfl _ _ _, hall.report _ _ _⟩
  exact (hfields.reg (F := RSP_STAT_SPARE_FAIL) rfl n).trans hset

theorem lockstepMismatch_shadow_reports {s : State} (n : Fin 4) (h : Fin 2)
    (hout : fbit RSP_STAT_IN_SERVICE n s = false) (htest : testing (48 + n) s = false) :
    completes (.lockstepMismatch ⟨.spare n, h⟩) s (fun t =>
    t = { s with regs := t.regs, hits := t.hits, flt := t.flt } ∧ reported (rsrc n 59) (6 * n + fget RSP_CFG_DESIG n s) 0 s t
    ∧ onlyFields [(RSP_STAT_SPARE_FAIL, n)] s t ∧ fget RSP_STAT_SPARE_FAIL n t = 1) := by
  refine ⟨report (rsrc n 59) (6 * n + fget RSP_CFG_DESIG n s) 0 (fon RSP_STAT_SPARE_FAIL n s), ?_, ?_⟩
  · show execLockstepMismatch ⟨.spare n, h⟩ s = _
    simp only [execLockstepMismatch, hout, htest]
    rfl
  · have hfail : onlyFields [(RSP_STAT_SPARE_FAIL, n.val)] s (fon RSP_STAT_SPARE_FAIL n s) := (onlyFields.refl _ s).fon (by simp)
    have hset : fget RSP_STAT_SPARE_FAIL n (fon RSP_STAT_SPARE_FAIL n s) = 1 := fget_fon_same _ _ _
    obtain ⟨rg, l, hframe⟩ := (RegsOnly.refl s).fon RSP_STAT_SPARE_FAIL n
    rw [hframe] at hfail hset ⊢
    exact ⟨rfl, hfail.reported rfl rfl rfl rfl rfl _ _ _, hfail.report _ _ _, hset⟩

theorem lockstepMismatch_ignored {s : State} (c : Fin 24) (h : Fin 2)
    (hmask : clusterOn c s = false ∨ fbit LPE_STAT_SUBST c s = true ∨ testing (16 + c) s = true) :
    ignored (.lockstepMismatch ⟨.cluster c, h⟩) s := by
  refine if_neg ?_
  simp only [Bool.and_eq_true, Bool.not_eq_true']
  rcases hmask with hmask | hmask | hmask <;> simp [hmask]

end Sys2Proof.Machine

namespace Sys2Proof.Machine

open Sys2Proof

/-! ### RSP_CFG and the mirror (R120) -/

theorem spare_congr {s t : State} (h : t.spare = s.spare) (n : Nat) : spare n t = spare n s := by rw [spare, spare, h]

@[simp] theorem spare_setSpare_same (n : Nat) (h : SpareH) (s : State) : spare n (setSpare n h s) = h := sget_sset_same _ _ _ _

theorem spare_setSpare_other {n k : Nat} (hk : k ≠ n) (h : SpareH) (s : State) : spare k (setSpare n h s) = spare k s :=
  sget_sset_other _ _ (Ne.symm hk) _

theorem rspCfg_bits (v : Word) : bits v.toNat 8 8 = v.toNat / 256 % 2 ∧ bits v.toNat 2 0 = v.toNat % 8 := by simp [bits]

theorem execRspCfgWrite_of_same {n : Fin 4} {v : Word} {s : State} (hen : v.toNat / 256 % 2 = fget RSP_CFG_EN n s)
    (hdes : v.toNat % 8 = fget RSP_CFG_DESIG n s) : execRspCfgWrite n v s = .next s := by
  obtain ⟨hb, hd⟩ := rspCfg_bits v
  simp [execRspCfgWrite, hb, hd, hen, hdes]

/-- EN and DESIG take the word, and the mirror is not ready. -/
def rspCfgTaken (n : Nat) (v : Word) (s : State) : State :=
  foff RSP_STAT_MIRROR_READY n (fset RSP_CFG_EN n (v.toNat / 256 % 2) (fset RSP_CFG_DESIG n (v.toNat % 8) s))

section
variable {n : Fin 4} {v : Word} {s : State} (hchange : v.toNat / 256 % 2 ≠ fget RSP_CFG_EN n s ∨ v.toNat % 8 ≠ fget RSP_CFG_DESIG n s)
include hchange

theorem rspCfg_not_same : ¬ (fget RSP_CFG_EN n s == bits v.toNat 8 8 && fget RSP_CFG_DESIG n s == bits v.toNat 2 0) = true := by
  obtain ⟨hb, hd⟩ := rspCfg_bits v
  simp only [hb, hd, Bool.and_eq_true, beq_iff_eq]
  omega

theorem execRspCfgWrite_of_refused
    (hbad : fbit RSP_STAT_IN_SERVICE n s = true ∨ 5 < v.toNat % 8 ∨ clusterOn (6 * n + v.toNat % 8) s = false) :
    execRspCfgWrite n v s = .next (fon RSP_STAT_CFG_REFUSED n s) := by
  obtain ⟨-, hd⟩ := rspCfg_bits v
  refine (if_neg (rspCfg_not_same hchange)).trans (if_pos ?_)
  simpa only [hd, Bool.or_eq_true, decide_eq_true_eq, Bool.not_eq_true', or_assoc] using hbad

theorem execRspCfgWrite_of_taken (hout : fbit RSP_STAT_IN_SERVICE n s = false) (hdes : v.toNat % 8 ≤ 5)
    (hon : clusterOn (6 * n + v.toNat % 8) s = true) : execRspCfgWrite n v s = .next (if v.toNat / 256 % 2 = 1
      then later 8001 (.cmd (.mirrorCopyDone n)) (dropDue (fun d => d == .cmd (.mirrorCopyDone n))
        (setSpare n { spare n s with wiped := false } (rspCfgTaken n v s)))
      else dropDue (fun d => d == .cmd (.mirrorCopyDone n)) (rspCfgTaken n v s)) := by
  obtain ⟨hb, hd⟩ := rspCfg_bits v
  have hok : ¬ (fbit RSP_STAT_IN_SERVICE n s || decide (5 < bits v.toNat 2 0) || !clusterOn (6 * n.val + bits v.toNat 2 0) s) = true := by
    simp only [hd, hout, hon, Bool.false_or, Bool.not_true, Bool.or_false, decide_eq_true_eq]
    omega
  refine (if_neg (rspCfg_not_same hchange)).trans ((if_neg hok).trans ?_)
  rw [hb, hd]
  split <;> rfl

theorem rspCfgWrite_refused (hbad : fbit RSP_STAT_IN_SERVICE n s = true ∨ 5 < v.toNat % 8 ∨ clusterOn (6 * n + v.toNat % 8) s = false) :
    completes (.rspCfgWrite n v) s (fun t => t = { s with regs := t.regs, hits := t.hits } ∧ onlyFields [(RSP_STAT_CFG_REFUSED, n)] s t
      ∧ fget RSP_STAT_CFG_REFUSED n t = 1) := by
  refine ⟨_, execRspCfgWrite_of_refused hchange hbad, ?_, (onlyFields.refl _ s).fon (by simp), fget_fon_same _ _ _⟩
  obtain ⟨r, l, h⟩ := (RegsOnly.refl s).fon RSP_STAT_CFG_REFUSED n
  rw [h]

theorem rspCfgWrite_taken (hout : fbit RSP_STAT_IN_SERVICE n s = false) (hdes : v.toNat % 8 ≤ 5)
    (hon : clusterOn (6 * n + v.toNat % 8) s = true) : completes (.rspCfgWrite n v) s (fun t =>
      t = { s with regs := t.regs, spare := t.spare, due := t.due } ∧ fget RSP_CFG_EN n t = v.toNat / 256 % 2 ∧ fget RSP_CFG_DESIG n t = v.toNat % 8
      ∧ fget RSP_STAT_MIRROR_READY n t = 0 ∧ (∀ k, k ≠ n.val → spare k t = spare k s)
      ∧ spare n t = (if v.toNat / 256 % 2 = 1 then { spare n s with wiped := false } else spare n s)
      ∧ t.due = s.due.filter (fun e => !(e.2 == Due.cmd (.mirrorCopyDone n)))
          ++ (if v.toNat / 256 % 2 = 1 then [(s.time + 8001, Due.cmd (.mirrorCopyDone n))] else [])
      ∧ onlyFields [(RSP_CFG_EN, n), (RSP_CFG_DESIG, n), (RSP_STAT_MIRROR_READY, n)] s t) := by
  refine ⟨_, execRspCfgWrite_of_taken hchange hout hdes hon, ?_⟩
  have hfields : onlyFields [(RSP_CFG_EN, n.val), (RSP_CFG_DESIG, n.val), (RSP_STAT_MIRROR_READY, n.val)] s (rspCfgTaken n v s) :=
    (((onlyFields.refl _ s).fset _ (by simp)).fset _ (by simp)).foff (by simp)
  have hready : fget RSP_STAT_MIRROR_READY n (rspCfgTaken n v s) = 0 := fget_foff_same _ _ _
  have hen : fget RSP_CFG_EN n (rspCfgTaken n v s) = v.toNat / 256 % 2 := by
    rw [rspCfgTaken, fget_foff_other _ (Or.inl (by decide)), fget_fset_same]
    exact Nat.mod_mod _ 2
  have hdesig : fget RSP_CFG_DESIG n (rspCfgTaken n v s) = v.toNat % 8 := by
    rw [rspCfgTaken, fget_foff_other _ (Or.inl (by decide)), fget_fset_other _ _ (Or.inl (by decide)), fget_fset_same]
    exact Nat.mod_mod _ 8
  obtain ⟨r, hframe⟩ := (((RegFileOnly.refl s).fset RSP_CFG_DESIG n (v.toNat % 8)).fset RSP_CFG_EN n (v.toNat / 256 % 2)).foff
    RSP_STAT_MIRROR_READY n
  rw [← rspCfgTaken] at hframe
  rw [hframe] at hfields hready hen hdesig ⊢
  by_cases hone : v.toNat / 256 % 2 = 1
  · rw [if_pos hone, if_pos hone, if_pos hone]
    refine ⟨rfl, hen, hdesig, hready, fun k hk => ?_, ?_, rfl, hfields⟩
    · exact spare_setSpare_other hk { spare n s with wiped := false } s
    · exact spare_setSpare_same n { spare n s with wiped := false } s
  · rw [if_neg hone, if_neg hone, if_neg hone]
    exact ⟨rfl, hen, hdesig, hready, fun _ _ => rfl, rfl, (List.append_nil _).symm, hfields⟩

end

theorem mirrorCopyDone_sets_ready {s : State} (n : Fin 4) (hen : fbit RSP_CFG_EN n s = true) :
    completes (.mirrorCopyDone n) s (fun t => t = { s with regs := t.regs, hits := t.hits }
      ∧ onlyFields [(RSP_STAT_MIRROR_READY, n)] s t ∧ fget RSP_STAT_MIRROR_READY n t = 1) := by
  refine ⟨_, congrArg Host.Outcome.next (if_pos hen), ?_, (onlyFields.refl _ s).fon (by simp), fget_fon_same _ _ _⟩
  obtain ⟨r, l, h⟩ := (RegsOnly.refl s).fon RSP_STAT_MIRROR_READY n
  rw [h]

theorem mirrorCopyDone_ignored {s : State} (n : Fin 4) (hen : fbit RSP_CFG_EN n s = false) : ignored (.mirrorCopyDone n) s :=
  congrArg Host.Outcome.next (if_neg (by simp [hen]))

/-! ### RETURN (R123) -/

theorem return_waits {s : State} (n : Fin 4) (hstop : regionStopped n s = true) (hin : fbit RSP_STAT_IN_SERVICE n s = true) :
    completes (.return n) s (fun t =>
      t = { s with spare := t.spare } ∧ spare n t = { spare n s with back := true } ∧ ∀ k, k ≠ n.val → spare k t = spare k s) :=
  ⟨setSpare n { spare n s with back := true } s, congrArg Host.Outcome.next (if_pos (by simp [hstop, hin])), rfl, spare_setSpare_same _ _ _,
    fun _ hk => spare_setSpare_other hk _ _⟩

theorem return_ignored {s : State} (n : Fin 4) (h : regionStopped n s = false ∨ fbit RSP_STAT_IN_SERVICE n s = false) :
    ignored (.return n) s := by
  refine congrArg Host.Outcome.next (if_neg ?_)
  rcases h with h | h <;> simp [h]

end Sys2Proof.Machine

namespace Sys2Proof.Machine

open Sys2Proof

/-! ### The substitute reaction (R382) -/

/-- The spares, and the fault bits of the regions' sources from 32 on: of the collector's work on a report only the setting of its fault bit
changes them. -/
def spareView (s : State) : SMap SpareH × SMap Nat := (s.spare, sget [] s.regs FLT_RG_HI_BITS.id)

theorem spareView_congr {s t : State} (hspare : t.spare = s.spare) (hregs : t.regs = s.regs) : spareView t = spareView s := by
  rw [spareView, spareView, hspare, hregs]

theorem spareView_fset {F : Fld} (hF : F.id ≠ FLT_RG_HI_BITS.id) (u v : Nat) (s : State) : spareView (fset F u v s) = spareView s :=
  congrArg (s.spare, ·) (sget_sset_other _ _ hF _)

theorem spareView_fon {F : Fld} (hF : F.id ≠ FLT_RG_HI_BITS.id) (u : Nat) (s : State) : spareView (fon F u s) = spareView s :=
  (spareView_congr (by simp) (by simp [fon])).trans (spareView_fset hF u 1 s)

theorem spareView_onlyIf {b : Bool} {f : State → State} {s : State} (h : spareView (f s) = spareView s) :
    spareView (onlyIf b f s) = spareView s := by
  unfold onlyIf
  split
  · exact h
  · rfl

theorem spareView_noteSource (n dot : Nat) (s : State) : spareView (noteSource n dot s) = spareView s := by
  have hfull : ∀ b, spareView (onlyIf b (fon EVQ_STAT_FULL_HIT (fget EVC_CFG_QUEUE n s)) s) = spareView s := fun b =>
    spareView_onlyIf (spareView_fon (by decide) _ _)
  unfold noteSource
  dsimp only
  split
  · split
    · exact hfull _
    · exact hfull _
  · exact hfull _

theorem spareView_arrive (n payload : Nat) (s : State) : spareView (arrive n payload s) = spareView s := by
  unfold arrive
  split
  · dsimp only
    split
    · exact spareView_fon (by decide) _ _
    · exact (spareView_noteSource _ _ _).trans (spareView_fset (by decide) _ _ _)
  · rfl

theorem spareView_setTrail (i w v : Nat) (s : State) : spareView (setTrail i w v s) = spareView s := spareView_fset (by decide) _ _ _

theorem spareView_flt (f : Collector) (s : State) : spareView { s with flt := f } = spareView s := rfl

theorem spareView_closeEntry (i : Nat) (s : State) : spareView (closeEntry i s) = spareView s := by
  unfold closeEntry
  by_cases h : entryOpen i s = true
  · rw [if_pos h, spareView_flt, spareView_setTrail]
  · rw [if_neg h]

theorem spareView_writeEntry (r : Report) (s : State) : spareView (writeEntry r s) = spareView s := by
  unfold writeEntry
  refine (spareView_fset (by decide) _ _ _).trans ((spareView_fset (by decide) _ _ _).trans ?_)
  exact forAll_induct (fun t => spareView t = spareView s) _ _ _ (spareView_closeEntry _ _)
    fun e _ t ht => (spareView_setTrail _ _ _ _).trans ht

theorem spareView_mergeReport (i : Nat) (r : Report) (s : State) : spareView (mergeReport i r s).1 = spareView s := by
  unfold mergeReport
  simp only [spareView_setTrail]

theorem spareView_trailReport (r : Report) (s : State) : spareView (trailReport r s).1 = spareView s := by
  unfold trailReport
  split
  · exact spareView_fset (by decide) _ _ _
  · split
    · exact spareView_mergeReport _ _ _
    · exact spareView_writeEntry _ _

theorem spareView_askChipReset (src : Nat) (s : State) : spareView (askChipReset src s) = spareView s := by
  unfold askChipReset
  dsimp only
  split <;> rfl

theorem spareView_react (r : Report) (i : Option Nat) (s : State) : spareView (react r i s) = spareView s := by
  unfold react
  dsimp only
  rw [faultWake, spareView_onlyIf rfl, spareView_onlyIf (spareView_askChipReset _ _), spareView_onlyIf rfl, spareView_onlyIf rfl,
    spareView_onlyIf rfl, spareView_onlyIf (spareView_arrive _ _ _)]

theorem spareView_freeze (s : State) : spareView (freeze s) = spareView s := by
  unfold freeze
  split
  · rfl
  · exact spareView_fon (by decide) _ _

/-- A fault bit that is set. -/
theorem fbitAt_fsetBit (F : Fld) (u i v k : Nat) (s : State) (hk : k < F.w) :
    fbitAt F v k (fsetBit F u i true s) = (fbitAt F v k s || (decide (u = v ∧ i = k))) := by
  unfold fbitAt fsetBit
  rw [if_pos rfl, fget_mark]
  by_cases huv : u = v
  · subst huv
    rw [fget_fset_same, Nat.testBit_mod_two_pow, Nat.testBit_or, Nat.testBit_two_pow]
    simp [hk]
  · rw [fget_fset_other _ _ (Or.inr huv)]
    simp [huv]

theorem spareView_latchReport (r : Report) (s : State) : spareView (latchReport r s).1 = spareView (setFaultBit r.src s) := by
  unfold latchReport
  exact (spareView_react _ _ _).trans ((spareView_trailReport _ _).trans (spareView_fset (by decide) _ _ _))

theorem setFaultBit_spare (src : Nat) (s : State) : (setFaultBit src s).spare = s.spare := by
  unfold setFaultBit
  split <;> exact fsetBit_spare _ _ _ _ _

/-- The fault bit of LPE_NOSPARE of region `n` is set. -/
def noSpareBit (n : Nat) (s : State) : Bool := fbitAt FLT_RG_HI_BITS n 28 s

theorem noSpareBit_congr {s t : State} (h : spareView t = spareView s) (n : Nat) : noSpareBit n t = noSpareBit n s := by
  have hbits := congrArg Prod.snd h
  exact congrArg (fun m => (sget FLT_RG_HI_BITS.rst m n).testBit 28) hbits

theorem noSpareBit_setFaultBit {n src : Nat} {s : State} (h : noSpareBit n s = true) : noSpareBit n (setFaultBit src s) = true := by
  unfold setFaultBit noSpareBit
  split
  · split
    · exact (congrArg (Nat.testBit · 28) (fget_fsetBit_other s _ _ (Or.inl (by decide)))).trans h
    · rw [fbitAt_fsetBit _ _ _ _ _ _ (by decide)]
      exact Bool.or_eq_true_iff.mpr (Or.inl h)
  · exact (congrArg (Nat.testBit · 28) (fget_fsetBit_other s _ _ (Or.inl (by decide)))).trans h

theorem noSpareBit_setFaultBit_same {n : Nat} (hn : n < 4) (s : State) : noSpareBit n (setFaultBit (rsrc n 60) s) = true := by
  have hsrc : rsrc n 60 < 0x100 ∧ ¬ rsrc n 60 % 0x40 < 32 ∧ rsrc n 60 / 0x40 = n ∧ rsrc n 60 % 32 = 28 := by
    unfold rsrc
    omega
  obtain ⟨hlt, hhigh, hregion, hbit⟩ := hsrc
  rw [noSpareBit, setFaultBit, if_pos hlt, if_neg hhigh, hregion, hbit, fbitAt_fsetBit _ _ _ _ _ _ (by decide)]
  simp

/-- The collector latches reports one after the other. -/
def latchEach (rs : List Report) (a : State × Bool) : State × Bool :=
  rs.foldl (fun a r => let b := latchReport r a.1; (b.1, a.2 || b.2)) a

theorem latchEach_cons (r : Report) (rs : List Report) (a : State × Bool) :
    latchEach (r :: rs) a = latchEach rs ((latchReport r a.1).1, a.2 || (latchReport r a.1).2) := rfl

theorem spare_of_view {s t : State} (h : spareView t = spareView s) : t.spare = s.spare := congrArg Prod.fst h

theorem latchEach_spare (rs : List Report) (a : State × Bool) : (latchEach rs a).1.spare = a.1.spare := by
  induction rs generalizing a with
  | nil => rfl
  | cons r rs ih => rw [latchEach_cons, ih, spare_of_view (spareView_latchReport r a.1), setFaultBit_spare]

theorem latchEach_noSpareBit {n : Nat} (hn : n < 4) (rs : List Report) (a : State × Bool)
    (h : noSpareBit n a.1 = true ∨ ∃ r ∈ rs, r.src = rsrc n 60) : noSpareBit n (latchEach rs a).1 = true := by
  induction rs generalizing a with
  | nil => simpa [latchEach] using h
  | cons r rs ih =>
    have hview := noSpareBit_congr (spareView_latchReport r a.1) n
    rw [latchEach_cons]
    refine ih _ ?_
    rcases h with h | ⟨q, hq, hsrc⟩
    · exact Or.inl (hview.trans (noSpareBit_setFaultBit h))
    · rcases List.mem_cons.mp hq with rfl | hq
      · rw [hsrc] at hview
        exact Or.inl (hview.trans (noSpareBit_setFaultBit_same hn _))
      · exact Or.inr ⟨q, hq, hsrc⟩

theorem mem_insertReport {x r : Report} {l : List Report} (h : x = r ∨ x ∈ l) : x ∈ insertReport r l := by
  induction l with
  | nil => simpa [insertReport] using h
  | cons q l ih =>
    unfold insertReport
    split
    · simpa using h
    · rcases h with h | h
      · exact List.mem_cons_of_mem _ (ih (Or.inl h))
      · rcases List.mem_cons.mp h with rfl | h
        · exact List.mem_cons_self
        · exact List.mem_cons_of_mem _ (ih (Or.inr h))

theorem mem_orderReports {x : Report} {rs : List Report} (h : x ∈ rs) : x ∈ orderReports rs := by
  have hall : ∀ (l : List Report), x ∈ rs ∨ x ∈ l → x ∈ rs.foldl (fun l r => insertReport r l) l := by
    clear h
    induction rs with
    | nil => simp
    | cons r rs ih =>
      intro l hl
      refine ih _ ?_
      rcases hl with hl | hl
      · rcases List.mem_cons.mp hl with rfl | hl
        · exact Or.inr (mem_insertReport (Or.inl rfl))
        · exact Or.inl hl
      · exact Or.inr (mem_insertReport (Or.inr hl))
  exact hall [] (Or.inl h)

/-- The spares after the collector has latched `rs` are those that the substitute reactions leave. -/
theorem latchAll_spare (rs : List Report) (s : State) : (latchAll rs s).spare = (substitutions rs s).2.spare := by
  have heach := latchEach_spare (orderReports (rs ++ (substitutions rs s).1)) ((substitutions rs s).2, false)
  refine Eq.trans ?_ heach
  exact congrArg Prod.fst (spareView_onlyIf (spareView_freeze _))

/-- LPE_NOSPARE's bit is set where a substitute reaction has reported it. -/
theorem latchAll_noSpareBit {n : Nat} (hn : n < 4) {rs : List Report} {s : State} (h : ∃ r ∈ (substitutions rs s).1, r.src = rsrc n 60) :
    noSpareBit n (latchAll rs s) = true := by
  obtain ⟨r, hr, hsrc⟩ := h
  have heach := latchEach_noSpareBit hn (orderReports (rs ++ (substitutions rs s).1)) ((substitutions rs s).2, false)
    (Or.inr ⟨r, mem_orderReports (List.mem_append_right _ hr), hsrc⟩)
  refine Eq.trans ?_ heach
  exact noSpareBit_congr (spareView_onlyIf (spareView_freeze _)) n

/-- A report of LPE_LOCK names the spare's region and the cluster's place in it. -/
theorem csrc_lock (c : Fin 24) : csrc c 8 / 0x40 = c.val / 6 ∧ csrc c 8 % 0x40 / 9 = c.val % 6 ∧ substitutes (csrc c 8) = true := by
  have hlt : csrc c 8 = 0x40 * (c.val / 6) + (9 * (c.val % 6) + 8) := rfl
  have hmod : csrc c 8 % 0x40 = 9 * (c.val % 6) + 8 := by omega
  refine ⟨by omega, by omega, ?_⟩
  rw [substitutes, hmod]
  simp only [Bool.and_eq_true, decide_eq_true_eq, beq_iff_eq]
  omega

theorem substitutions_lock {c : Fin 24} {r : Report} {s : State} (hsrc : r.src = csrc c 8) (hreact : (reaction (csrc c 8) s).testBit 7 = true) :
    substitutions [r] s = if canTakeOver (c / 6) (c % 6) s
      then ([], setSpare (c / 6) { spare (c / 6) s with takeAt := some (takeoverFrame r.pos s, c.val % 6) } s)
      else (if reporterOn (rsrc (c / 6) 60) s then [⟨rsrc (c / 6) 60, 6 * (c / 6) + c % 6, 0, r.at_, r.pos⟩] else [], s) := by
  obtain ⟨hregion, hplace, hsub⟩ := csrc_lock c
  simp only [substitutions, substitution, hsrc, hregion, hplace, hsub, hreact, Bool.and_self, if_true, List.append_nil]

theorem execFaultReportLatch_of_one {r : Report} {s : State} (h : s.flt.reports = [r]) :
    execFaultReportLatch s = .next (latchAll [r] { s with flt := { s.flt with reports := [] } }) := by
  simp [execFaultReportLatch, oldestReport, h]

theorem faultReportLatch_substitutes {s : State} (c : Fin 24) (r : Report) (hsrc : r.src = csrc c 8) (hone : s.flt.reports = [r])
    (hreact : (reaction (csrc c 8) s).testBit 7 = true) : completes .faultReportLatch s (fun t =>
    (canTakeOver (c / 6) (c % 6) s = true →
      spare (c / 6) t = { spare (c / 6) s with takeAt := some ((r.pos.frame + (if r.pos.line + 3 ≤ linesEff s then 1 else 2)) % 2 ^ 32, c.val % 6) })
    ∧ (canTakeOver (c / 6) (c % 6) s = false → t.spare = s.spare
      ∧ (reporterOn (rsrc (c / 6) 60) s = true → fbitAt FLT_RG_HI_BITS (c / 6) 28 t = true))) := by
  refine ⟨_, execFaultReportLatch_of_one hone, ?_⟩
  have hsub := substitutions_lock (s := { s with flt := { s.flt with reports := [] } }) hsrc hreact
  have hspare := latchAll_spare [r] { s with flt := { s.flt with reports := [] } }
  have hbit := latchAll_noSpareBit (n := c / 6) (by omega) (rs := [r]) (s := { s with flt := { s.flt with reports := [] } })
  have hcan : canTakeOver (c / 6) (c % 6) { s with flt := { s.flt with reports := [] } } = canTakeOver (c / 6) (c % 6) s := rfl
  have hon : reporterOn (rsrc (c / 6) 60) { s with flt := { s.flt with reports := [] } } = reporterOn (rsrc (c / 6) 60) s := rfl
  rw [hsub, hcan] at hspare hbit
  refine ⟨fun h => ?_, fun h => ⟨?_, fun hrep => ?_⟩⟩
  · rw [if_pos h] at hspare
    exact (spare_congr hspare _).trans (spare_setSpare_same _ _ _)
  · rw [hspare, if_neg (by simp [h])]
  · rw [if_neg (by simp [h]), hon, if_pos hrep] at hbit
    exact hbit ⟨_, List.mem_singleton_self _, rfl⟩

end Sys2Proof.Machine

namespace Sys2Proof.Machine

open Sys2Proof

/-! ### The spare takes over (R121) -/

/-- A table without the numbers that `p` names. -/
theorem sget_filter_key {α : Type} (d : α) (p : Nat → Bool) (m : SMap α) (k : Nat) :
    sget d (m.filter (fun e => !p e.1)) k = if p k then d else sget d m k := by
  induction m with
  | nil => simp
  | cons e m ih =>
    obtain ⟨j, v⟩ := e
    by_cases hp : p j = true
    · rw [List.filter_cons_of_neg (by simp [hp]), ih]
      by_cases hj : j = k
      · subst hj
        simp [hp]
      · simp [sget, hj]
    · rw [List.filter_cons_of_pos (by simp [hp])]
      by_cases hj : j = k
      · subst hj
        simp [sget, hp]
      · simp [sget, hj, ih]

theorem mget_mirrorWipe (c a : Nat) (s : State) : mget a (mirrorWipe c s) = if inMirror c a then 0 else mget a s := sget_filter_key 0 _ _ _

/-- The pair's own bytes are put away above those of the map. -/
theorem putAway_frame (m : List (Nat × Byte)) (s : State) :
    ∃ m', forAll m (fun e t => { t with mem := sset 0 t.mem (ownAt + e.1) e.2 }) s = { s with mem := m' }
      ∧ ∀ a, a < 2 ^ 40 → sget 0 m' a = mget a s := by
  refine forAll_induct (fun t => ∃ m', t = { s with mem := m' } ∧ ∀ a, a < 2 ^ 40 → sget 0 m' a = mget a s) m _ s ⟨s.mem, rfl, fun _ _ => rfl⟩ ?_
  rintro e - t ⟨m', rfl, hm⟩
  refine ⟨_, rfl, fun a ha => ?_⟩
  have hne : ownAt + e.1 ≠ a := by
    have : ownAt = 2 ^ 40 := rfl
    omega
  exact (sget_sset_other 0 m' hne e.2).trans (hm a ha)

theorem putAwayCtx_frame (x : List (Nat × Nat)) (s : State) :
    ∃ x', forAll x (fun e t => { t with ctx := sset 0 t.ctx (ownCtx + e.1) e.2 }) s = { s with ctx := x' } := by
  refine forAll_induct (fun t => ∃ x', t = { s with ctx := x' }) x _ s ⟨s.ctx, rfl⟩ ?_
  rintro e - t ⟨x', rfl⟩
  exact ⟨_, rfl⟩

/-- `t` differs from `s` in its memories and cores alone. -/
def MemoriesOnly (s t : State) : Prop := ∃ m x g p f q, t = { s with mem := m, ctx := x, tags := g, poison := p, soft := f, cpus := q }

theorem ownKeep_sound (c : Nat) (s : State) : MemoriesOnly s (ownKeep c false s) ∧ ∀ a, a < 2 ^ 40 → mget a (ownKeep c false s) = mget a s := by
  obtain ⟨m, hm, hread⟩ := putAway_frame (s.mem.filter (fun e => inMirror c e.1)) s
  obtain ⟨x, hx⟩ := putAwayCtx_frame (s.ctx.filter (fun e => ctxIn c e.1)) { s with mem := m }
  simp only [ownKeep, hm, hx]
  exact ⟨⟨_, _, _, _, _, _, rfl⟩, hread⟩

theorem ownKeep_of_wiped (c : Nat) (s : State) : ownKeep c true s = mirrorWipe c (ownKeep c false s) := rfl

theorem ownKeep_memories (c : Nat) (wiped : Bool) (s : State) : MemoriesOnly s (ownKeep c wiped s) := by
  obtain ⟨⟨m, x, g, p, f, q, h⟩, -⟩ := ownKeep_sound c s
  cases wiped with
  | false => exact ⟨_, _, _, _, _, _, h⟩
  | true => exact ⟨_, _, _, _, _, _, by rw [ownKeep_of_wiped, h]; rfl⟩

theorem mget_ownKeep (c : Nat) (wiped : Bool) (s : State) {a : Nat} (ha : a < 2 ^ 40) :
    mget a (ownKeep c wiped s) = if wiped && inMirror c a then 0 else mget a s := by
  obtain ⟨-, hread⟩ := ownKeep_sound c s
  cases wiped with
  | false => simpa using hread a ha
  | true => rw [ownKeep_of_wiped, mget_mirrorWipe, hread a ha, Bool.true_and]

/-- The fields that the start of core `i` clears (R243). -/
def startFields (i : Nat) : List (Fld × Nat) :=
  [(EXC_CTRL_IE, i), (EXC_CTRL_PRECISE, i), (EXC_STAT_IN_REFUGE, i), (EXC_STAT_LOCKED, i), (EXC_STAT_FAULT_PEND, i)]

theorem startCore_frame (i : Nat) (s : State) : ∃ r q, startCore i s = { s with regs := r, cpus := q } := by
  have hcpu : ∀ h, RegFileOnly (setCpu i h s) (foff EXC_CTRL_IE i (foff EXC_CTRL_PRECISE i (foff EXC_STAT_IN_REFUGE i (foff EXC_STAT_LOCKED i
      (foff EXC_STAT_FAULT_PEND i (setCpu i h s)))))) := fun h =>
    (((((RegFileOnly.refl _).foff _ _).foff _ _).foff _ _).foff _ _).foff _ _
  obtain ⟨r, h⟩ := hcpu _
  exact ⟨r, _, h⟩

theorem onlyFields_startCore (i : Nat) (s : State) : onlyFields (startFields i) s (startCore i s) := by
  have hcpu : ∀ h, onlyFields (startFields i) s (setCpu i h s) := fun _ => (onlyFields.refl _ s).congr rfl
  exact (((((hcpu _).foff (by simp [startFields])).foff (by simp [startFields])).foff (by simp [startFields])).foff
    (by simp [startFields])).foff (by simp [startFields])

/-- The fields that show the core dispatch queue of cluster `c` (R273). -/
def lcdFields (c : Nat) : List (Fld × Nat) := [(LCD_POP_VALID, c), (LCD_POP_ENTRY, c), (LCD_POP_TAG, c), (LCD_STAT_DEPTH, c)]

theorem emptyLcd_frame (c : Nat) (s : State) : ∃ r q, emptyLcd c s = { s with regs := r, lcd := q } := by
  obtain ⟨r, h⟩ := ((((RegFileOnly.refl { s with lcd := sset [] s.lcd c [] }).fset LCD_STAT_DEPTH c 0).fset LCD_POP_TAG c 0).fset
    LCD_POP_ENTRY c 0).fset LCD_POP_VALID c 0
  exact ⟨r, _, h⟩

theorem onlyFields_emptyLcd (c : Nat) (s : State) : onlyFields (lcdFields c) s (emptyLcd c s) := by
  have hlcd : ∀ q, onlyFields (lcdFields c) s { s with lcd := q } := fun _ => (onlyFields.refl _ s).congr rfl
  exact ((((hlcd _).fset _ (by simp [lcdFields])).fset _ (by simp [lcdFields])).fset _ (by simp [lcdFields])).fset _ (by simp [lcdFields])

/-- The cluster's memories, core and dispatch queue as the spare takes them over. -/
def mirrorInUse (c : Nat) (wiped : Bool) (s : State) : State := emptyLcd c (startCore (loopId c) (ownKeep c wiped s))

theorem mirrorInUse_frame (c : Nat) (wiped : Bool) (s : State) :
    ∃ r m x g p f q l, mirrorInUse c wiped s = { s with regs := r, mem := m, ctx := x, tags := g, poison := p, soft := f, cpus := q, lcd := l } := by
  obtain ⟨m, x, g, p, f, q, hkeep⟩ := ownKeep_memories c wiped s
  obtain ⟨r, q', hstart⟩ := startCore_frame (loopId c) (ownKeep c wiped s)
  obtain ⟨r', l, hempty⟩ := emptyLcd_frame c (startCore (loopId c) (ownKeep c wiped s))
  exact ⟨r', m, x, g, p, f, q', l, by rw [mirrorInUse, hempty, hstart, hkeep]⟩

theorem onlyFields_mirrorInUse (c : Nat) (wiped : Bool) (s : State) :
    onlyFields (startFields (loopId c) ++ lcdFields c) s (mirrorInUse c wiped s) := by
  have hkeep : onlyFields (startFields (loopId c) ++ lcdFields c) s (ownKeep c wiped s) := by
    obtain ⟨m, x, g, p, f, q, h⟩ := ownKeep_memories c wiped s
    rw [h]
    exact (onlyFields.refl _ s).congr rfl
  exact (hkeep.trans ((onlyFields_startCore _ _).mono (by simp))).trans ((onlyFields_emptyLcd _ _).mono (by simp))

theorem mget_mirrorInUse (c : Nat) (wiped : Bool) (s : State) {a : Nat} (ha : a < 2 ^ 40) :
    mget a (mirrorInUse c wiped s) = if wiped && inMirror c a then 0 else mget a s := by
  obtain ⟨r, q, hstart⟩ := startCore_frame (loopId c) (ownKeep c wiped s)
  obtain ⟨r', l, hempty⟩ := emptyLcd_frame c (startCore (loopId c) (ownKeep c wiped s))
  rw [mirrorInUse, hempty, hstart]
  exact mget_ownKeep c wiped s ha

/-- IN_SERVICE, SWAP_DONE and SERVING show the takeover of place `j` of region `n`. -/
def serviceShown (n j : Nat) (s : State) : State := fset RSP_STAT_SERVING n j (fon RSP_STAT_SWAP_DONE n (fon RSP_STAT_IN_SERVICE n s))

/-- The registers of the takeover, its frame and SUBST of the cluster among them. -/
def swapShown (n j : Nat) (s : State) : State :=
  fon LPE_STAT_SUBST (6 * n + j) (fset RSP_SWAPF_FRAME n (serviceShown n j s).pos.frame (serviceShown n j s))

/-- The spare serves place `j` of region `n`, and the engine runs. -/
def swapped (n j : Nat) (s : State) : State :=
  let u := swapShown n j (setSpare n { spare n s with takeAt := none } s)
  setEng (6 * n + j) { eng (6 * n + j) u with halted := false } u

theorem swapShown_regsOnly (n j : Nat) (s : State) : RegsOnly s (swapShown n j s) :=
  (((((RegsOnly.refl s).fon _ _).fon _ _).fset _ _ _).fset _ _ _).fon _ _

/-- The fields of the takeover. -/
def swapFields (n j : Nat) : List (Fld × Nat) :=
  [(LPE_STAT_SUBST, 6 * n + j), (RSP_SWAPF_FRAME, n), (RSP_STAT_SERVING, n), (RSP_STAT_SWAP_DONE, n), (RSP_STAT_IN_SERVICE, n)]

theorem onlyFields_swapShown (n j : Nat) (s : State) : onlyFields (swapFields n j) s (swapShown n j s) :=
  (((((onlyFields.refl _ s).fon (by simp [swapFields])).fon (by simp [swapFields])).fset _ (by simp [swapFields])).fset _
    (by simp [swapFields])).fon (by simp [swapFields])

theorem fget_swapped (F : Fld) (u n j : Nat) (s : State) :
    fget F u (swapped n j s) = fget F u (swapShown n j (setSpare n { spare n s with takeAt := none } s)) := by
  rw [swapped, fget_setEng]

theorem onlyFields_swapped (n j : Nat) (s : State) : onlyFields (swapFields n j) s (swapped n j s) := by
  have hspare : onlyFields (swapFields n j) s (setSpare n { spare n s with takeAt := none } s) := (onlyFields.refl _ s).congr rfl
  intro F u hF
  rw [fget_swapped]
  exact hspare.trans (onlyFields_swapShown n j _) F u hF

theorem fget_swapShown (n : Nat) {j : Nat} (hj : j < 6) (s : State) : fget RSP_STAT_IN_SERVICE n (swapShown n j s) = 1
    ∧ fget RSP_STAT_SWAP_DONE n (swapShown n j s) = 1 ∧ fget RSP_STAT_SERVING n (swapShown n j s) = j
    ∧ fget RSP_SWAPF_FRAME n (swapShown n j s) = s.pos.frame % 2 ^ 32 ∧ fget LPE_STAT_SUBST (6 * n + j) (swapShown n j s) = 1 := by
  have hserving : j % 2 ^ RSP_STAT_SERVING.w = j := Nat.mod_eq_of_lt (by show j < 8; omega)
  have hpos : (serviceShown n j s).pos = s.pos := by simp [serviceShown]
  rw [swapShown, hpos, serviceShown]
  simp (disch := exact Or.inl (by decide)) only [fget_fon_same, fget_fon_other, fget_fset_same, fget_fset_other, hserving]
  exact ⟨rfl, rfl, trivial, rfl, rfl⟩

theorem swapped_shown (n : Nat) {j : Nat} (hj : j < 6) (s : State) : fget RSP_STAT_IN_SERVICE n (swapped n j s) = 1
    ∧ fget RSP_STAT_SWAP_DONE n (swapped n j s) = 1 ∧ fget RSP_STAT_SERVING n (swapped n j s) = j
    ∧ fget RSP_SWAPF_FRAME n (swapped n j s) = s.pos.frame % 2 ^ 32 ∧ fget LPE_STAT_SUBST (6 * n + j) (swapped n j s) = 1 := by
  rw [fget_swapped, fget_swapped, fget_swapped, fget_swapped, fget_swapped]
  exact fget_swapShown n hj (setSpare n { spare n s with takeAt := none } s)

theorem spare_swapped (n j : Nat) (s : State) : spare n (swapped n j s) = { spare n s with takeAt := none } := by
  obtain ⟨r, l, h⟩ := swapShown_regsOnly n j (setSpare n { spare n s with takeAt := none } s)
  rw [swapped, h]
  exact spare_setSpare_same _ _ _

theorem swapped_runs (n j : Nat) (s : State) : (eng (6 * n + j) (swapped n j s)).halted = false := by
  rw [swapped, eng_setEng_same]

theorem swapped_frame (n j : Nat) (s : State) : ∃ r l e p, swapped n j s = { s with regs := r, hits := l, eng := e, spare := p } := by
  obtain ⟨r, l, h⟩ := swapShown_regsOnly n j (setSpare n { spare n s with takeAt := none } s)
  exact ⟨_, _, _, _, by rw [swapped, h]; rfl⟩

theorem execSpareTakeover_of_due {n : Fin 4} {f j : Nat} {s : State} (h : (spare n s).takeAt = some (f, j)) :
    execSpareTakeover n s = .next (report (rsrc n 58) (6 * n + j) 0
      (mirrorInUse (6 * n + j) (spare n (swapped n j s)).wiped (swapped n j s))) := by
  unfold execSpareTakeover
  rw [h]
  rfl

theorem execSpareTakeover_of_none {n : Fin 4} {s : State} (h : (spare n s).takeAt = none) : execSpareTakeover n s = .next s := by
  simp only [execSpareTakeover, h]

/-- What a source of a region itself reports depends on no spare in service (R372, R436). -/
theorem reportOf_region {n b : Nat} (hn : n < 4) (hb : 54 ≤ b ∧ b < 64) {s t : State} (hstate : fget PWR_STAT_STATE 0 t = fget PWR_STAT_STATE 0 s)
    (hon : fget PWR_DOMSTAT_ON 0 t = fget PWR_DOMSTAT_ON 0 s) (htime : t.time = s.time) (hpos : t.pos = s.pos) (i0 i1 : Nat) :
    reportOf (rsrc n b) i0 i1 t = reportOf (rsrc n b) i0 i1 s := by
  have hsrc : rsrc n b < 0x100 ∧ 54 ≤ rsrc n b % 64 := by
    unfold rsrc
    omega
  obtain ⟨hlt, hhigh⟩ := hsrc
  have hdom : ∀ u, srcDomain (rsrc n b) u = some (3 + rsrc n b / 64) := fun u => by
    rw [srcDomain, if_pos hlt, if_pos (Or.inl hhigh)]
  have hrep : reporterOn (rsrc n b) t = reporterOn (rsrc n b) s := by
    simp only [reporterOn, hdom, hhigh, decide_true, Bool.or_true, Bool.true_or, hstate, domainOn, fbitAt, hon]
  rw [reportOf, reportOf, hrep, htime, hpos]

theorem spareTakeover_completes {s : State} (n : Fin 4) (f j : Nat) (h : (spare n s).takeAt = some (f, j)) (hj : j < 6) :
    completes (.spareTakeover n) s (fun t =>
    fget RSP_STAT_IN_SERVICE n t = 1 ∧ fget RSP_STAT_SWAP_DONE n t = 1 ∧ fget RSP_STAT_SERVING n t = j
    ∧ fget RSP_SWAPF_FRAME n t = s.pos.frame % 2 ^ 32 ∧ fget LPE_STAT_SUBST (6 * n + j) t = 1
    ∧ (spare n t).takeAt = none ∧ (eng (6 * n + j) t).halted = false
    ∧ reported (rsrc n 58) (6 * n + j) 0 s t
    ∧ ∀ a, a < 2 ^ 40 → mget a t = if (spare n s).wiped && inMirror (6 * n + j) a then 0 else mget a s) := by
  refine ⟨_, execSpareTakeover_of_due h, ?_⟩
  obtain ⟨hin, hdone, hserving, hat, hsub⟩ := swapped_shown n hj s
  have hswapped := onlyFields_swapped n j s
  have hspare := spare_swapped n j s
  have hruns := swapped_runs n j s
  obtain ⟨r, l, e, sp, hswap⟩ := swapped_frame n j s
  generalize swapped n j s = u at hin hdone hserving hat hsub hswapped hspare hruns hswap ⊢
  have hwiped : (spare n u).wiped = (spare n s).wiped := by rw [hspare]
  rw [hwiped]
  have hfields := onlyFields_mirrorInUse (6 * n + j) (spare n s).wiped u
  have hmem := fun a => mget_mirrorInUse (6 * n + j) (spare n s).wiped u (a := a)
  obtain ⟨rg, m, x, g, p, f, q, lq, hframe⟩ := mirrorInUse_frame (6 * n + j) (spare n s).wiped u
  generalize mirrorInUse (6 * n + j) (spare n s).wiped u = t at hfields hmem hframe
  refine ⟨(hfields.reg (F := RSP_STAT_IN_SERVICE) rfl n).trans hin, (hfields.reg (F := RSP_STAT_SWAP_DONE) rfl n).trans hdone,
    (hfields.reg (F := RSP_STAT_SERVING) rfl n).trans hserving, (hfields.reg (F := RSP_SWAPF_FRAME) rfl n).trans hat,
    (hfields.reg (F := LPE_STAT_SUBST) rfl _).trans hsub, ?_, ?_, ?_, fun a ha => (hmem a ha).trans ?_⟩
  · rw [hframe]
    exact congrArg SpareH.takeAt hspare
  · rw [hframe]
    exact hruns
  · have hstate := (hfields.reg (F := PWR_STAT_STATE) rfl 0).trans (hswapped.reg (F := PWR_STAT_STATE) rfl 0)
    have hon := (hfields.reg (F := PWR_DOMSTAT_ON) rfl 0).trans (hswapped.reg (F := PWR_DOMSTAT_ON) rfl 0)
    have htime : t.time = s.time := by rw [hframe, hswap]
    have hpos : t.pos = s.pos := by rw [hframe, hswap]
    have hflt : t.flt = s.flt := by rw [hframe, hswap]
    exact reported_congr hflt (reportOf_region n.isLt (b := 58) (by decide) hstate hon htime hpos _ _) rfl
  · rw [hswap]
    rfl

/-! ### The statement -/

/-- Settles O28: the halt of a pair, what the collector makes of its report, the configuration of the spare, its takeover and its return. -/
theorem lockstepAndSpare : Obligations.LockstepAndSpare := by
  intro s
  exact ⟨lockstepMismatch_cluster_halts, lockstepMismatch_serving_halts, fun c r _ => faultReportLatch_substitutes c r, lockstepMismatch_ignored,
    lockstepMismatch_shadow_reports, fun _ _ => execRspCfgWrite_of_same, fun _ _ => rspCfgWrite_refused, fun _ _ => rspCfgWrite_taken,
    mirrorCopyDone_sets_ready, mirrorCopyDone_ignored, fun _ => execSpareTakeover_of_none, spareTakeover_completes, return_waits, return_ignored⟩

end Sys2Proof.Machine

/-! The routes, the soft levels and the soft pulses of the trigger fabric. -/
namespace Sys2Proof.Machine

open Sys2Proof

/-! ### Memory read back -/

/-- The `n` bytes just written read as the number they were given, cut to its `n` low bytes. -/
theorem mread_mwrite_same (a n v : Nat) (s : State) : mread a n (mwrite a n v s) = v % 256 ^ n := by
  induction n generalizing a v s with
  | zero => simp [mread, Nat.mod_one]
  | succ n ih =>
    have hlow : mget a (mwrite (a + 1) n (v / 256) (mset a (BitVec.ofNat 8 v) s)) = BitVec.ofNat 8 v := by
      rw [mget_mwrite_other _ _ _ _ _ (by omega), mget_mset_same]
    rw [mread, mwrite, ih, hlow, BitVec.toNat_ofNat, Nat.pow_succ' (m := 256), Nat.mod_mul]

/-- Byte `i` of the bytes read as a number is the memory's byte at that place. -/
theorem mread_byte {i n : Nat} (hi : i < n) (a : Nat) (s : State) : mread a n s / 256 ^ i % 256 = (mget (a + i) s).toNat := by
  induction n generalizing a i with
  | zero => omega
  | succ n ih =>
    have hbyte := (mget a s).isLt
    cases i with
    | zero => simp only [mread, Nat.add_zero]; omega
    | succ i =>
      have hrest : mread a (n + 1) s / 256 = mread (a + 1) n s := by rw [mread]; omega
      rw [Nat.pow_succ', ← Nat.div_div_eq_div_mul, hrest, ih (by omega), Nat.add_right_comm, Nat.add_assoc]

/-! ### Route entries (R129, R130, R133) -/

section
variable {k : Fin 1728} {v : BitVec 128} {s : State}

theorem anyRun_iff {ns : List Nat} : ns.any (fun n => regionRun n s) = true ↔ ∃ n ∈ ns, regionStopped n s = false := by
  simp [regionStopped]

theorem execRouteWrite_of_refused
    (h : routeBad k v.toNat s = true ∨ ∃ n ∈ rtRegions k (routeEntry k s) ++ rtRegions k v.toNat, regionStopped n s = false) :
    execRouteWrite k v s = .next (fon FAB_STAT_CFG_REFUSED 0 s) :=
  if_pos (by rw [Bool.or_eq_true, anyRun_iff]; exact h)

theorem execRouteWrite_of_taken (hgood : routeBad k v.toNat s = false)
    (hstop : ∀ n ∈ rtRegions k (routeEntry k s) ++ rtRegions k v.toNat, regionStopped n s = true) :
    execRouteWrite k v s = .next (later 1 (.route k v.toNat) s) :=
  if_neg (by
    rw [Bool.or_eq_true, anyRun_iff, hgood]
    rintro (h | ⟨n, hn, hrun⟩)
    · exact absurd h (by decide)
    · simp [hstop n hn] at hrun)

end

/-- The entry of a sink after its write: SINK reads 0, the rest as written (R133). -/
theorem routeEntry_putRoute (k v : Nat) (hv : v < 2 ^ 128) (s : State) : routeEntry k (putRoute k v s) = v / 2 ^ 16 * 2 ^ 16 := by
  rw [routeEntry, putRoute, mread_mwrite_same]
  exact Nat.mod_eq_of_lt (by omega)

theorem mget_putRoute_other (k v : Nat) (s : State) {a : Nat} (ha : a < 0x45000000 + 16 * k ∨ 0x45000000 + 16 * k + 16 ≤ a) :
    mget a (putRoute k v s) = mget a s := mget_mwrite_other _ _ _ _ _ ha

theorem rtCount_routeEntry (k : Nat) (s : State) : rtCount (routeEntry k s) = (mget (0x45000000 + 16 * k + 3) s).toNat :=
  mread_byte (by decide : 3 < 16) _ s

/-- A sink without terms is 0 (R130). -/
theorem sinkInput_of_no_terms {k : Nat} {s : State} (h : rtCount (routeEntry k s) % 8 = 0) : sinkInput k s = false := if_pos h

/-! ### Soft pulses (R134) -/

/-- Effects set one after another for the same later dot. -/
theorem forAll_later {α : Type} (bs : List α) (n : Nat) (d : α → Due) (s : State) :
    forAll bs (fun b t => later n (d b) t) s = { s with due := s.due ++ bs.map (fun b => (s.time + n, d b)) } := by
  induction bs generalizing s with
  | nil => simp [forAll]
  | cons b bs ih => rw [forAll_cons, ih]; simp [later]

/-! ### The statement -/

/-- Settles O29: a route write is refused or set for the next dot, and what it sets puts the 16 bytes of its entry. -/
theorem routesAndSoftLevels : Obligations.RoutesAndSoftLevels := by
  intro s
  refine ⟨fun k v h => ⟨_, execRouteWrite_of_refused h, ?_, ?_, ?_⟩,
    fun k v hgood hstop => ⟨_, execRouteWrite_of_taken hgood hstop, rfl, rfl⟩,
    fun k v => ⟨routeEntry_putRoute k _ v.isLt s, mwrite_eq _ _ _ s, fun a => mget_putRoute_other k _ s⟩,
    fun v => ⟨_, rfl, rfl, rfl⟩, fun v => ⟨_, rfl, rfl, rfl⟩, fun k v => ⟨_, congrArg Host.Outcome.next (forAll_later _ _ _ s), rfl, rfl⟩, fun k h => ?_⟩
  · rw [fon_eq]; rfl
  · exact fget_fon_same s _ _
  · exact (onlyFields.refl _ _).fon (by simp)
  · exact sinkInput_of_no_terms (by rw [rtCount_routeEntry]; exact h)

end Sys2Proof.Machine

/-! The general timers: what each of their operations moves, and what it leaves. -/
namespace Sys2Proof.Machine

open Sys2Proof

/-! ### What the timers hold beside their registers -/

@[simp] theorem tmr_setTmr_same (t : Nat) (h : TmrH) (s : State) : tmr t (setTmr t h s) = h := sget_sset_same _ _ _ _

theorem tmr_setTmr_other {t j : Nat} (hj : j ≠ t) (h : TmrH) (s : State) : tmr j (setTmr t h s) = tmr j s :=
  sget_sset_other _ _ (Ne.symm hj) _

theorem tmr_congr {s u : State} (h : u.tmr = s.tmr) (j : Nat) : tmr j u = tmr j s := by rw [tmr, tmr, h]

@[simp] theorem tmr_fon (j : Nat) (F : Fld) (u : Nat) (s : State) : tmr j (fon F u s) = tmr j s := tmr_congr (fon_tmr ..) j
@[simp] theorem tmr_fire (j e : Nat) (s : State) : tmr j (fire e s) = tmr j s := rfl
@[simp] theorem fget_setTmr (F : Fld) (w t : Nat) (h : TmrH) (s : State) : fget F w (setTmr t h s) = fget F w s := rfl

/-- An event issued on top of changes that leave the fabric's events alone. -/
theorem issued_fire {s u : State} (h : u.fab = s.fab) (e : Nat) : issued e s (fire e u) := by
  rw [issued, ← h]
  rfl

@[simp] theorem timerHaltsNow_fire (t e : Nat) (s : State) : timerHaltsNow t (fire e s) = timerHaltsNow t s := rfl

/-- OUT is told of an event once for the next dot (R136). -/
theorem outEvent_cases (t : Nat) (h : TmrH) (s : State) :
    outEvent t h s = setTmr t h s ∨ outEvent t h s = later 1 (.timerOut t) (setTmr t h s) := by
  unfold outEvent
  dsimp only
  split
  · exact .inl rfl
  · exact .inr rfl

theorem tmr_outEvent_same (t : Nat) (h : TmrH) (s : State) : tmr t (outEvent t h s) = h := by
  rcases outEvent_cases t h s with e | e <;> rw [e] <;> exact tmr_setTmr_same t h s

/-! ### Timer `t` has moved -/

/-- From `s` to `u` only timer `t` has moved: of the registers the fields `fs` at most; what has been set for a later dot is no commit. -/
structure TimerMoved (t : Nat) (fs : List (Fld × Nat)) (s u : State) : Prop where
  frame : ∃ r l m d, u = { s with regs := r, hits := l, tmr := m, due := d }
  fields : onlyFields fs s u
  due : ∃ es, u.due = s.due ++ es ∧ ∀ e ∈ es, ∀ j, e.2 ≠ Due.timerCommit j
  others : ∀ j, j ≠ t → tmr j u = tmr j s

section
variable {t : Nat} {fs : List (Fld × Nat)} {s u : State}

theorem TimerMoved.refl (t : Nat) (fs : List (Fld × Nat)) (s : State) : TimerMoved t fs s s :=
  ⟨⟨_, _, _, _, rfl⟩, onlyFields.refl _ _, ⟨[], by simp, by simp⟩, fun _ _ => rfl⟩

theorem TimerMoved.mono {gs : List (Fld × Nat)} (h : TimerMoved t fs s u) (hs : fs ⊆ gs) : TimerMoved t gs s u :=
  { h with fields := h.fields.mono hs }

theorem TimerMoved.fset (h : TimerMoved t fs s u) {F : Fld} {w : Nat} (v : Nat) (hm : (F, w) ∈ fs) : TimerMoved t fs s (fset F w v u) := by
  refine ⟨?_, h.fields.fset v hm, h.due, h.others⟩
  obtain ⟨r, l, m, d, rfl⟩ := h.frame
  exact ⟨_, _, _, _, rfl⟩

theorem TimerMoved.fon (h : TimerMoved t fs s u) {F : Fld} {w : Nat} (hm : (F, w) ∈ fs) : TimerMoved t fs s (fon F w u) := by
  refine ⟨?_, h.fields.fon hm, by rw [fon_due]; exact h.due, fun j hj => (tmr_fon ..).trans (h.others j hj)⟩
  rw [fon_eq]
  obtain ⟨r, l, m, d, rfl⟩ := h.frame
  exact ⟨_, _, _, _, rfl⟩

theorem TimerMoved.setTmr (h : TimerMoved t fs s u) (k : TmrH) : TimerMoved t fs s (setTmr t k u) := by
  refine ⟨?_, h.fields.congr rfl, h.due, fun j hj => (tmr_setTmr_other hj k u).trans (h.others j hj)⟩
  obtain ⟨r, l, m, d, rfl⟩ := h.frame
  exact ⟨_, _, _, _, rfl⟩

theorem TimerMoved.later (h : TimerMoved t fs s u) (n : Nat) {d : Due} (hd : ∀ j, d ≠ .timerCommit j) : TimerMoved t fs s (later n d u) := by
  refine ⟨?_, h.fields.congr rfl, ?_, h.others⟩
  · obtain ⟨r, l, m, x, rfl⟩ := h.frame
    exact ⟨_, _, _, _, rfl⟩
  · obtain ⟨es, hes, hno⟩ := h.due
    refine ⟨es ++ [(u.time + n, d)], by rw [Machine.later, hes, List.append_assoc], fun e he => ?_⟩
    rcases List.mem_append.mp he with he | he
    · exact hno e he
    · rw [List.mem_singleton.mp he]
      exact hd

theorem TimerMoved.outEvent (h : TimerMoved t fs s u) (k : TmrH) : TimerMoved t fs s (outEvent t k u) := by
  rcases outEvent_cases t k u with e | e <;> rw [e]
  · exact h.setTmr k
  · exact (h.setTmr k).later 1 (by simp)

theorem TimerMoved.trans {v : State} (h : TimerMoved t fs s u) (h' : TimerMoved t fs u v) : TimerMoved t fs s v := by
  refine ⟨?_, h.fields.trans h'.fields, ?_, fun j hj => (h'.others j hj).trans (h.others j hj)⟩
  · obtain ⟨r, l, m, d, rfl⟩ := h.frame
    obtain ⟨r', l', m', d', rfl⟩ := h'.frame
    exact ⟨_, _, _, _, rfl⟩
  · obtain ⟨es, hes, hno⟩ := h.due
    obtain ⟨es', hes', hno'⟩ := h'.due
    exact ⟨es ++ es', by rw [hes', hes, List.append_assoc], fun e he => (List.mem_append.mp he).elim (hno e) (hno' e)⟩

theorem TimerMoved.fab (h : TimerMoved t fs s u) : u.fab = s.fab := by
  obtain ⟨r, l, m, d, rfl⟩ := h.frame
  rfl

theorem TimerMoved.mem (h : TimerMoved t fs s u) : u.mem = s.mem := by
  obtain ⟨r, l, m, d, rfl⟩ := h.frame
  rfl

/-- Whether a commit of the present dot halts the timer is as before where the shadow of PERIOD is. -/
theorem TimerMoved.halts (h : TimerMoved t fs s u) (hF : fs.all (fun e => e.1.id != TMR_PERIOD_VALUE.id) = true) :
    timerHaltsNow t u = timerHaltsNow t s := by
  have htime : u.time = s.time := by
    obtain ⟨r, l, m, d, rfl⟩ := h.frame
    rfl
  obtain ⟨es, hes, hno⟩ := h.due
  unfold timerHaltsNow
  rw [h.fields.reg hF, htime, hes, List.any_append, List.any_eq_false (l := es) |>.mpr, Bool.or_false]
  intro e he
  split
  · exact absurd ‹_› (hno e he _)
  · simp

end

/-! ### The commit of group TG (R139) -/

section
variable (t : Nat) (s : State)

theorem takeGroup_groupTG : takeGroup groupTG t s = fset TMR_CMP1_VALUE_E t (fget TMR_CMP1_VALUE t s)
    (fset TMR_CMP0_VALUE_E t (fget TMR_CMP0_VALUE t s) (fset TMR_PERIOD_VALUE_E t (fget TMR_PERIOD_VALUE t s) s)) := by
  simp (disch := (left; decide)) only [takeGroup, groupTG, forAll, List.foldl_cons, List.foldl_nil, fget_fset_other]

theorem timerCut_moved {fs : List (Fld × Nat)} {u : State} (old : Nat) (h : TimerMoved t fs s u) : TimerMoved t fs s (timerCut t old u) := by
  unfold timerCut
  dsimp only
  split
  · exact (h.outEvent _).later 1 (by simp)
  · split
    · exact h.setTmr _
    · exact h

/-- The cut of the period in progress is for the next dot: no register changes in this one. -/
theorem fget_timerCut (old : Nat) (F : Fld) (w : Nat) : fget F w (timerCut t old s) = fget F w s :=
  (timerCut_moved t s (fs := []) old (.refl t _ s)).fields F w (by simp)

/-- The fields that a commit writes. -/
def commitFields : List (Fld × Nat) :=
  [(TMR_PERIOD_VALUE_E, t), (TMR_CMP0_VALUE_E, t), (TMR_CMP1_VALUE_E, t), (TMR_STAT_PEND, t), (TMR_STAT_COMMIT_DONE, t)]

theorem timerCommit_moved : TimerMoved t (commitFields t) s (timerCommit t s) := by
  unfold timerCommit
  rw [takeGroup_groupTG]
  refine timerCut_moved t s _ (TimerMoved.fset (TimerMoved.fon (.fset (.fset (.fset (.refl t _ s) _ ?_) _ ?_) _ ?_) ?_) 0 ?_) <;>
    simp [commitFields]

/-- Group TG takes effect (R139). -/
structure GroupTaken (t : Nat) (s u : State) : Prop where
  period : fget TMR_PERIOD_VALUE_E t u = fget TMR_PERIOD_VALUE t s % 2 ^ 32
  cmp0 : fget TMR_CMP0_VALUE_E t u = fget TMR_CMP0_VALUE t s % 2 ^ 32
  cmp1 : fget TMR_CMP1_VALUE_E t u = fget TMR_CMP1_VALUE t s % 2 ^ 32
  pend : fget TMR_STAT_PEND t u = 0
  done : fget TMR_STAT_COMMIT_DONE t u = 1

theorem timerCommit_taken : GroupTaken t s (timerCommit t s) := by
  constructor <;> unfold timerCommit <;>
    simp (disch := (left; decide)) only [fget_timerCut, takeGroup_groupTG, fget_foff_other, fget_foff_same, fget_fon_other,
      fget_fon_same, fget_fset_other, fget_fset_same] <;> rfl

/-! ### A period start (R135, R136) -/

theorem timerPeriod_moved : TimerMoved t [(TMR_COUNT_COUNT, t)] s (timerPeriod t s) :=
  ((TimerMoved.refl t _ s).fset 0 (by simp)).outEvent _

theorem fget_count_timerPeriod : fget TMR_COUNT_COUNT t (timerPeriod t s) = 0 := by
  have hkeep : fget TMR_COUNT_COUNT t (timerPeriod t s) = fget TMR_COUNT_COUNT t (fset TMR_COUNT_COUNT t 0 s) :=
    ((TimerMoved.refl t [] _).outEvent _).fields _ _ (by simp)
  rw [hkeep, fget_fset_same, Nat.zero_mod]

/-- The period of timer `t` begins in the present dot, with the automatic commit that is due. -/
def periodBegun : State := timerAutoCommit t (timerPeriod t s)

/-- An automatic commit is due at the period start (R139). -/
def autoCommits : Bool := fbit TMR_CFG_COMMIT_AT t s && fbit TMR_STAT_PEND t s && !fbit TMR_CTRL_COMMIT_HOLD t s

theorem periodBegun_eq : periodBegun t s = if autoCommits t s then timerCommit t (timerPeriod t s) else timerPeriod t s := by
  have hreg : ∀ F : Fld, F.id ≠ TMR_COUNT_COUNT.id → fget F t (timerPeriod t s) = fget F t s := fun F hF =>
    (timerPeriod_moved t s).fields F t (by simp [hF])
  unfold periodBegun timerAutoCommit autoCommits fbit
  rw [hreg _ (by decide), hreg _ (by decide), hreg _ (by decide)]

/-- The fields that a period start writes beside DONE. -/
def beginFields : List (Fld × Nat) := (TMR_COUNT_COUNT, t) :: commitFields t

theorem periodBegun_moved : TimerMoved t (beginFields t) s (periodBegun t s) := by
  have hstart := (timerPeriod_moved t s).mono (gs := beginFields t) (by simp [beginFields])
  rw [periodBegun_eq]
  split
  · exact hstart.trans ((timerCommit_moved t _).mono (List.subset_cons_self _ _))
  · exact hstart

theorem fget_count_periodBegun : fget TMR_COUNT_COUNT t (periodBegun t s) = 0 := by
  rw [periodBegun_eq]
  split
  · exact ((timerCommit_moved t _).fields.reg rfl t).trans (fget_count_timerPeriod t s)
  · exact fget_count_timerPeriod t s

theorem periodBegun_taken (h : autoCommits t s = true) : GroupTaken t s (periodBegun t s) := by
  have hmoved := timerPeriod_moved t s
  rw [periodBegun_eq, if_pos h]
  obtain ⟨hp, h0, h1, hpend, hdone⟩ := timerCommit_taken t (timerPeriod t s)
  exact ⟨hp.trans (by rw [hmoved.fields.reg rfl]), h0.trans (by rw [hmoved.fields.reg rfl]),
    h1.trans (by rw [hmoved.fields.reg rfl]), hpend, hdone⟩

theorem periodBegun_of_no_commit (h : autoCommits t s = false) : periodBegun t s = timerPeriod t s := by
  rw [periodBegun_eq, if_neg (by simp [h])]

/-- The period start goes without PER: the timer is halted, or a commit of this dot halts it (R52, R135). -/
def perSilent : Bool := decide (fget TMR_PERIOD_VALUE_E t (periodBegun t s) = 0) || timerHaltsNow t s

/-- The start is a wrap of a one-shot timer, which is done with it (R137). -/
def oneShotEnds : Bool := fbit TMR_CFG_ONESHOT t s && !(tmr t s).fromHalt

/-- A one-shot timer has ended: DONE is set, no compare stays armed. -/
def timerEnded : State := fon TMR_STAT_DONE t (setTmr t { tmr t s with arm0 := false, arm1 := false } s)

theorem halts_periodBegun : timerHaltsNow t (periodBegun t s) = timerHaltsNow t s := (periodBegun_moved t s).halts rfl

theorem timerPer_eq : timerPer t s =
    if perSilent t s then periodBegun t s
    else if oneShotEnds t s then timerEnded t (fire (0xE02 + 4 * t) (periodBegun t s))
    else fire (0xE02 + 4 * t) (periodBegun t s) := by
  have hone : fbit TMR_CFG_ONESHOT t (periodBegun t s) = fbit TMR_CFG_ONESHOT t s := by
    rw [fbit, fbit, (periodBegun_moved t s).fields.reg rfl]
  rw [perSilent, oneShotEnds, ← halts_periodBegun, ← hone]
  rfl

theorem execTimerPer_of_turn {t : Fin 96} {s : State} (h : timerRunning t s = true ∨ (timerLive t s = true ∧ (tmr t s).startNext = true)) :
    execTimerPer t s = .next (timerPer t s) := by
  rw [execTimerPer, if_pos (by simpa [and_comm] using h)]

theorem execTimerPer_of_not {t : Fin 96} {s : State} (hrun : timerRunning t s = false)
    (h : timerLive t s = false ∨ (tmr t s).startNext = false) : execTimerPer t s = .next s := by
  rw [execTimerPer, if_neg (by rcases h with h | h <;> simp [hrun, h])]

theorem timerPer_of_silent {t : Nat} {s : State} (h : perSilent t s = true) : timerPer t s = periodBegun t s := by
  rw [timerPer_eq, if_pos h]

theorem timerPer_of_issued {t : Nat} {s : State} (h : perSilent t s = false) : timerPer t s =
    if oneShotEnds t s then timerEnded t (fire (0xE02 + 4 * t) (periodBegun t s)) else fire (0xE02 + 4 * t) (periodBegun t s) := by
  rw [timerPer_eq, if_neg (by simp [h])]

theorem timerEnded_frame : ∃ r l m, timerEnded t s = { s with regs := r, hits := l, tmr := m } := by
  rw [timerEnded, fon_eq]
  exact ⟨_, _, _, rfl⟩

theorem fget_timerEnded {F : Fld} (hF : TMR_STAT_DONE.id ≠ F.id) (w : Nat) : fget F w (timerEnded t s) = fget F w s := by
  rw [timerEnded, fget_fon_other _ (.inl hF), fget_setTmr]

theorem tmr_timerEnded_other {t j : Nat} (hj : j ≠ t) (s : State) : tmr j (timerEnded t s) = tmr j s := by
  rw [timerEnded, tmr_fon, tmr_setTmr_other hj]

theorem onlyFields_timerEnded {t : Nat} {s u : State} {fs : List (Fld × Nat)} (h : onlyFields fs s u) (hm : (TMR_STAT_DONE, t) ∈ fs) :
    onlyFields fs s (timerEnded t u) :=
  (h.congr (u := setTmr t { tmr t u with arm0 := false, arm1 := false } u) rfl).fon hm

theorem timerPer_frame : ∃ r l m f d, timerPer t s = { s with regs := r, hits := l, tmr := m, fab := f, due := d } := by
  obtain ⟨r, l, m, d, hbegun⟩ := (periodBegun_moved t s).frame
  obtain ⟨r', l', m', hended⟩ := timerEnded_frame t (fire (0xE02 + 4 * t) (periodBegun t s))
  rw [timerPer_eq, hended, hbegun]
  split
  · exact ⟨_, _, _, _, _, rfl⟩
  · split <;> exact ⟨_, _, _, _, _, rfl⟩

/-- Only DONE may change with the end of a one-shot timer, beside what the period start changes. -/
theorem onlyFields_timerPer {t : Nat} {s : State} {fs : List (Fld × Nat)} (h : onlyFields fs s (periodBegun t s))
    (hm : (TMR_STAT_DONE, t) ∈ fs) : onlyFields fs s (timerPer t s) := by
  have hfire := h.congr (u := fire (0xE02 + 4 * t) (periodBegun t s)) (fire_regs ..)
  rw [timerPer_eq]
  split
  · exact h
  · split
    · exact onlyFields_timerEnded hfire hm
    · exact hfire

theorem fget_timerPer {F : Fld} (hF : TMR_STAT_DONE.id ≠ F.id) (w : Nat) : fget F w (timerPer t s) = fget F w (periodBegun t s) := by
  rw [timerPer_eq]
  split
  · rfl
  · split
    · exact (fget_timerEnded t _ hF w).trans (fget_fire ..)
    · exact fget_fire ..

theorem tmr_timerPer_other {t j : Nat} (hj : j ≠ t) (s : State) : tmr j (timerPer t s) = tmr j s := by
  rw [← (periodBegun_moved t s).others j hj, timerPer_eq]
  split
  · rfl
  · split
    · exact (tmr_timerEnded_other hj _).trans (tmr_fire ..)
    · exact tmr_fire ..

/-- PER and DONE at a period start (R135, R137). -/
theorem timerPer_event : if fget TMR_PERIOD_VALUE_E t (timerPer t s) = 0 ∨ timerHaltsNow t s = true
    then (timerPer t s).fab = s.fab ∧ fget TMR_STAT_DONE t (timerPer t s) = fget TMR_STAT_DONE t s
    else issued (0xE02 + 4 * t) s (timerPer t s)
      ∧ if fbit TMR_CFG_ONESHOT t s = true ∧ (tmr t s).fromHalt = false then fget TMR_STAT_DONE t (timerPer t s) = 1
        else fget TMR_STAT_DONE t (timerPer t s) = fget TMR_STAT_DONE t s := by
  have hsilent : (fget TMR_PERIOD_VALUE_E t (timerPer t s) = 0 ∨ timerHaltsNow t s = true) ↔ perSilent t s = true := by
    rw [fget_timerPer t s (by decide), perSilent, Bool.or_eq_true, decide_eq_true_eq]
  have hone : (fbit TMR_CFG_ONESHOT t s = true ∧ (tmr t s).fromHalt = false) ↔ oneShotEnds t s = true := by simp [oneShotEnds]
  have hdone : fget TMR_STAT_DONE t (periodBegun t s) = fget TMR_STAT_DONE t s := (periodBegun_moved t s).fields.reg rfl t
  have hfab := (periodBegun_moved t s).fab
  have hissued := issued_fire hfab (0xE02 + 4 * t)
  simp only [hsilent, hone]
  split
  next h =>
    rw [timerPer_of_silent h]
    exact ⟨hfab, hdone⟩
  next h =>
    rw [timerPer_of_issued (by simpa using h)]
    split
    · exact ⟨(fon_fab ..).trans hissued, fget_fon_same _ _ _⟩
    · exact ⟨hissued, (fget_fire ..).trans hdone⟩

/-- The compares of a timer whose period begins without a commit: armed, but for a one-shot timer that has ended (R136, R137). -/
theorem timerPer_arms {t : Nat} {s : State} (hno : autoCommits t s = false) (hp : fget TMR_PERIOD_VALUE_E t s ≠ 0)
    (hgo : timerHaltsNow t s = false) :
    (tmr t (timerPer t s)).arm0 = !oneShotEnds t s ∧ (tmr t (timerPer t s)).arm1 = !oneShotEnds t s := by
  have hbegun := periodBegun_of_no_commit t s hno
  have hper : fget TMR_PERIOD_VALUE_E t (timerPeriod t s) = fget TMR_PERIOD_VALUE_E t s := (timerPeriod_moved t s).fields.reg rfl t
  have hkept : (tmr t (timerPeriod t s)).arm0 = true ∧ (tmr t (timerPeriod t s)).arm1 = true := by
    rw [timerPeriod, tmr_outEvent_same]
    exact ⟨rfl, rfl⟩
  rw [timerPer_of_issued (by rw [perSilent, hbegun, hper]; simp [hp, hgo]), hbegun]
  cases oneShotEnds t s
  · exact hkept
  · simp [timerEnded]

theorem timerPer_completes {t : Fin 96} {s : State} (h : timerRunning t s = true ∨ (timerLive t s = true ∧ (tmr t s).startNext = true)) :
    completes (.timerPer t) s (fun u =>
      u = { s with regs := u.regs, hits := u.hits, tmr := u.tmr, fab := u.fab, due := u.due }
      ∧ onlyFields (beginFields t ++ [(TMR_STAT_DONE, t.val)]) s u ∧ fget TMR_COUNT_COUNT t u = 0
      ∧ (if fget TMR_PERIOD_VALUE_E t u = 0 ∨ timerHaltsNow t s = true then u.fab = s.fab ∧ fget TMR_STAT_DONE t u = fget TMR_STAT_DONE t s
        else issued (0xE02 + 4 * t) s u
          ∧ if fbit TMR_CFG_ONESHOT t s = true ∧ (tmr t s).fromHalt = false then fget TMR_STAT_DONE t u = 1
            else fget TMR_STAT_DONE t u = fget TMR_STAT_DONE t s)
      ∧ (if fbit TMR_CFG_COMMIT_AT t s = true ∧ fbit TMR_STAT_PEND t s = true ∧ fbit TMR_CTRL_COMMIT_HOLD t s = false then
          fget TMR_PERIOD_VALUE_E t u = fget TMR_PERIOD_VALUE t s % 2 ^ 32 ∧ fget TMR_CMP0_VALUE_E t u = fget TMR_CMP0_VALUE t s % 2 ^ 32
          ∧ fget TMR_CMP1_VALUE_E t u = fget TMR_CMP1_VALUE t s % 2 ^ 32 ∧ fget TMR_STAT_PEND t u = 0 ∧ fget TMR_STAT_COMMIT_DONE t u = 1
        else onlyFields [(TMR_COUNT_COUNT, t.val), (TMR_STAT_DONE, t.val)] s u
          ∧ (fget TMR_PERIOD_VALUE_E t s ≠ 0 → timerHaltsNow t s = false →
              (tmr t u).arm0 = !(fbit TMR_CFG_ONESHOT t s && !(tmr t s).fromHalt) ∧ (tmr t u).arm1 = (tmr t u).arm0))
      ∧ ∀ j, j ≠ t.val → tmr j u = tmr j s) := by
  refine ⟨_, execTimerPer_of_turn h, ?_, onlyFields_timerPer ((periodBegun_moved _ s).fields.mono (List.subset_append_left _ _)) (by simp),
    (fget_timerPer _ s (by decide) _).trans (fget_count_periodBegun _ s), timerPer_event _ s, ?_, fun j hj => tmr_timerPer_other hj s⟩
  · obtain ⟨r, l, m, f, d, hframe⟩ := timerPer_frame t.val s
    rw [hframe]
  · have hauto : (fbit TMR_CFG_COMMIT_AT t s = true ∧ fbit TMR_STAT_PEND t s = true ∧ fbit TMR_CTRL_COMMIT_HOLD t s = false)
        ↔ autoCommits t s = true := by simp [autoCommits, and_assoc]
    simp only [hauto]
    split
    next hc =>
      obtain ⟨hp, h0, h1, hpend, hdone⟩ := periodBegun_taken _ s hc
      simp only [fget_timerPer _ s (show TMR_STAT_DONE.id ≠ TMR_PERIOD_VALUE_E.id by decide),
        fget_timerPer _ s (show TMR_STAT_DONE.id ≠ TMR_CMP0_VALUE_E.id by decide),
        fget_timerPer _ s (show TMR_STAT_DONE.id ≠ TMR_CMP1_VALUE_E.id by decide),
        fget_timerPer _ s (show TMR_STAT_DONE.id ≠ TMR_STAT_PEND.id by decide),
        fget_timerPer _ s (show TMR_STAT_DONE.id ≠ TMR_STAT_COMMIT_DONE.id by decide)]
      exact ⟨hp, h0, h1, hpend, hdone⟩
    next hc =>
      have hno : autoCommits t s = false := by simpa using hc
      refine ⟨onlyFields_timerPer ?_ (by simp), fun hp hgo => ?_⟩
      · rw [periodBegun_of_no_commit _ s hno]
        exact (timerPeriod_moved _ s).fields.mono (by simp)
      · obtain ⟨h0, h1⟩ := timerPer_arms hno hp hgo
        exact ⟨h0, h1.trans h0.symm⟩

end

/-! ### Compares (R136) -/

/-- The value in effect of compare `c` of timer `t`, and whether it is armed. -/
def compareValue (t : Nat) (c : Cmp) (s : State) : Nat :=
  match c with
  | .a => fget TMR_CMP0_VALUE_E t s
  | .b => fget TMR_CMP1_VALUE_E t s

def compareArmed (t : Nat) (c : Cmp) (s : State) : Bool :=
  match c with
  | .a => (tmr t s).arm0
  | .b => (tmr t s).arm1

/-- What a timer holds once compare `c` has fired. -/
def withFired (c : Cmp) (h : TmrH) : TmrH :=
  match c with
  | .a => { h with arm0 := false, ev0 := true }
  | .b => { h with arm1 := false, ev1 := true }

/-- The place of compare `c` among a timer's sources (R127). -/
def comparePlace (c : Cmp) : Nat :=
  match c with
  | .a => 0
  | .b => 1

/-- Compare `c` of timer `t` has fired at distance `d`. -/
def compareFired (t : Nat) (c : Cmp) (d : Nat) (s : State) : State :=
  let u := fire (0xE00 + 4 * t + comparePlace c) (outEvent t (withFired c (tmr t s)) s)
  if d = 0 then u else fon TMR_STAT_LATE t u

section
variable {t : Fin 96} {c : Cmp} {s : State}

theorem execTimerCompareFire_eq (t : Fin 96) (c : Cmp) (s : State) : execTimerCompareFire t c s =
    let d := compareDist (fget TMR_COUNT_COUNT t s) (compareValue t c s)
    if timerLive t s && compareArmed t c s && decide (d < 2 ^ 31) && compareValue t c s != fget TMR_PERIOD_VALUE_E t s
    then .next (compareFired t c d s) else .next s := by
  cases c <;> rfl

theorem timerCompareFire_of_not_live (h : timerLive t s = false) : ignored (.timerCompareFire t c) s :=
  (execTimerCompareFire_eq t c s).trans (if_neg (by simp [h]))

theorem timerCompareFire_of_waiting (h : compareArmed t c s = false ∨ 2 ^ 31 ≤ compareDist (fget TMR_COUNT_COUNT t s) (compareValue t c s)
    ∨ compareValue t c s = fget TMR_PERIOD_VALUE_E t s) : ignored (.timerCompareFire t c) s := by
  refine (execTimerCompareFire_eq t c s).trans (if_neg fun hall => ?_)
  simp only [Bool.and_eq_true, decide_eq_true_eq, bne_iff_ne] at hall
  obtain ⟨⟨⟨-, harm⟩, hnear⟩, hp⟩ := hall
  rcases h with h | h | h
  · simp [harm] at h
  · exact Nat.not_lt.mpr h hnear
  · exact hp h

/-- The fire of a compare (R51, R136). -/
theorem timerCompareFire_of_armed (hlive : timerLive t s = true) (harm : compareArmed t c s = true) {d : Nat}
    (hd : d = compareDist (fget TMR_COUNT_COUNT t s) (compareValue t c s)) (hnear : d < 2 ^ 31)
    (hv : compareValue t c s ≠ fget TMR_PERIOD_VALUE_E t s) : completes (.timerCompareFire t c) s (fun u =>
      u = { s with regs := u.regs, hits := u.hits, tmr := u.tmr, fab := u.fab, due := u.due }
      ∧ issued (0xE00 + 4 * t + comparePlace c) s u ∧ tmr t u = withFired c (tmr t s) ∧ onlyFields [(TMR_STAT_LATE, t.val)] s u
      ∧ (d = 0 → fget TMR_STAT_LATE t u = fget TMR_STAT_LATE t s) ∧ (d ≠ 0 → fget TMR_STAT_LATE t u = 1)) := by
  have hexec : execTimerCompareFire t c s = .next (compareFired t c d s) := by
    rw [execTimerCompareFire_eq, ← hd]
    exact if_pos (by simpa [hlive, harm, hv] using hnear)
  have hout := (TimerMoved.refl t.val [] s).outEvent (withFired c (tmr t s))
  have htmr := tmr_outEvent_same t.val (withFired c (tmr t s)) s
  have hreg : ∀ F w, fget F w (outEvent t.val (withFired c (tmr t s)) s) = fget F w s := fun F w => hout.fields F w (by simp)
  have hissued := issued_fire hout.fab (0xE00 + 4 * t + comparePlace c)
  have honly : onlyFields [(TMR_STAT_LATE, t.val)] s
      (fire (0xE00 + 4 * t + comparePlace c) (outEvent t.val (withFired c (tmr t s)) s)) := fun F w _ => hreg F w
  obtain ⟨r, l, m, x, hframe⟩ := hout.frame
  refine ⟨_, hexec, ?_⟩
  unfold compareFired
  dsimp only
  split
  next hzero =>
    exact ⟨by rw [hframe]; rfl, hissued, htmr, honly, fun _ => hreg _ _, fun h => absurd hzero h⟩
  next hlate =>
    refine ⟨by rw [fon_eq, hframe]; rfl, (fon_fab ..).trans hissued, (tmr_fon ..).trans htmr, honly.fon (by simp), fun h => absurd h hlate,
      fun _ => fget_fon_same _ _ _⟩

end

/-! ### Resets (R137) -/

section
variable {t : Fin 96} {s : State}

theorem timerReset_of_held (h : timerHeld t s = true) : ignored (.timerReset t) s := if_pos h

/-- The count that the next dot would have held (R137). -/
def nextCount (t : Nat) (s : State) : Nat :=
  if timerWraps t s || fget TMR_PERIOD_VALUE_E t s == 0 then 0
  else if timerAdvances t s then fget TMR_COUNT_COUNT t s + 1 else fget TMR_COUNT_COUNT t s

/-- The count is captured and DONE cleared. -/
def countCaptured (t : Nat) (s : State) : State := foff TMR_STAT_DONE t (fset TMR_CAP_COUNT t (nextCount t s) s)

theorem execTimerReset_of_free (h : timerHeld t s = false) : execTimerReset t s =
    if fget TMR_PERIOD_VALUE_E t s == 0 then .next (countCaptured t s)
    else .next (later 1 (.timerStart t (timerWraps t s)) (countCaptured t s)) :=
  if_neg (by simp [h])

theorem countCaptured_shown (t : Nat) (s : State) : onlyFields [(TMR_CAP_COUNT, t), (TMR_STAT_DONE, t)] s (countCaptured t s)
    ∧ fget TMR_CAP_COUNT t (countCaptured t s) = nextCount t s % 2 ^ 32 ∧ fget TMR_STAT_DONE t (countCaptured t s) = 0 :=
  ⟨((onlyFields.refl _ s).fset _ (by simp)).foff (by simp),
    (fget_foff_other _ (.inl (by decide))).trans (fget_fset_same _ _ _ _), fget_foff_same _ _ _⟩

theorem timerReset_captures (h : timerHeld t s = false) : completes (.timerReset t) s (fun u => u = { s with regs := u.regs, due := u.due }
    ∧ onlyFields [(TMR_CAP_COUNT, t.val), (TMR_STAT_DONE, t.val)] s u ∧ fget TMR_CAP_COUNT t u = nextCount t s % 2 ^ 32
    ∧ fget TMR_STAT_DONE t u = 0
    ∧ (if fget TMR_PERIOD_VALUE_E t s = 0 then u.due = s.due else scheduled 1 (.timerStart t (timerWraps t s)) s u)) := by
  obtain ⟨honly, hcap, hdone⟩ := countCaptured_shown t s
  have hexec := execTimerReset_of_free h
  by_cases hp : fget TMR_PERIOD_VALUE_E t s = 0
  · exact ⟨_, hexec.trans (if_pos (by simp [hp])), rfl, honly, hcap, hdone, by rw [if_pos hp]; rfl⟩
  · exact ⟨_, hexec.trans (if_neg (by simp [hp])), rfl, honly, hcap, hdone, by rw [if_neg hp]; rfl⟩

end

/-- The period start that a reset has called for (R137). -/
theorem timerStart_of_free {t : Nat} {s : State} (h : timerHeld t s = false) (per : Bool) : timerStart t per s =
    if per && fget TMR_PERIOD_VALUE_E t (periodBegun t s) != 0 && !timerHaltsNow t (periodBegun t s)
    then fire (0xE02 + 4 * t) (periodBegun t s) else periodBegun t s :=
  if_neg (by simp [h])

theorem timerStart_shown {t : Nat} {s : State} (h : timerHeld t s = false) (per : Bool) : fget TMR_COUNT_COUNT t (timerStart t per s) = 0
    ∧ (if per = true ∧ fget TMR_PERIOD_VALUE_E t (timerStart t per s) ≠ 0 ∧ timerHaltsNow t (timerStart t per s) = false
      then issued (0xE02 + 4 * t) s (timerStart t per s) else (timerStart t per s).fab = s.fab)
    ∧ fget TMR_STAT_DONE t (timerStart t per s) = fget TMR_STAT_DONE t s ∧ (timerStart t per s).mem = s.mem
    ∧ ∀ j, j ≠ t → tmr j (timerStart t per s) = tmr j s := by
  have hmoved := periodBegun_moved t s
  have hcount := fget_count_periodBegun t s
  have hdone : fget TMR_STAT_DONE t (periodBegun t s) = fget TMR_STAT_DONE t s := hmoved.fields.reg rfl t
  rw [timerStart_of_free h per]
  split
  next hper =>
    have hcond : per = true ∧ fget TMR_PERIOD_VALUE_E t (periodBegun t s) ≠ 0 ∧ timerHaltsNow t (periodBegun t s) = false := by
      simpa [and_assoc] using hper
    refine ⟨(fget_fire ..).trans hcount, ?_, (fget_fire ..).trans hdone, hmoved.mem, fun j hj => (tmr_fire ..).trans (hmoved.others j hj)⟩
    rw [fget_fire, timerHaltsNow_fire, if_pos hcond]
    exact issued_fire hmoved.fab _
  next hper => exact ⟨hcount, by rw [if_neg (by simpa [and_assoc] using hper)]; exact hmoved.fab, hdone, hmoved.mem, hmoved.others⟩

/-! ### OUT (R136, R140) -/

theorem applyOut_shown (t : Nat) (s : State) : onlyFields [(TMR_STAT_OUT, t)] s (applyOut t s)
    ∧ fget TMR_STAT_OUT t (applyOut t s) = (if timerHeld t s = true ∨ (tmr t s).ev1 = true then 0 else if (tmr t s).ev0 = true then 1
        else if (tmr t s).evReset = true then 0 else fget TMR_STAT_OUT t s) := by
  have hseen : onlyFields [(TMR_STAT_OUT, t)] s (setTmr t { tmr t s with evReset := false, ev0 := false, ev1 := false } s) :=
    (onlyFields.refl _ s).congr rfl
  have hheld : timerHeld t (setTmr t { tmr t s with evReset := false, ev0 := false, ev1 := false } s) = timerHeld t s := rfl
  unfold applyOut
  simp only [hheld, Bool.or_eq_true]
  split
  · exact ⟨hseen.foff (by simp), fget_foff_same _ _ _⟩
  · split
    · exact ⟨hseen.fon (by simp), fget_fon_same _ _ _⟩
    · split
      · exact ⟨hseen.foff (by simp), fget_foff_same _ _ _⟩
      · exact ⟨hseen, rfl⟩

/-! ### The statement -/

/-- Settles O30, clause by clause: the period start, the compares, the reset and the start it calls for, the commit, OUT, the writes. -/
theorem generalTimers : Obligations.GeneralTimers := by
  intro s t
  refine ⟨execTimerPer_of_not, fun h c => timerCompareFire_of_not_live h, timerPer_completes, ?_, timerReset_of_held, ?_, fun w h => if_pos h,
    ?_, ?_, ?_, ?_, ?_⟩
  · intro c v hv d hd hlive
    subst hv hd
    cases c with
    | a => exact ⟨timerCompareFire_of_waiting (c := .a), fun harm hnear hp => timerCompareFire_of_armed (c := .a) hlive harm rfl hnear hp⟩
    | b => exact ⟨timerCompareFire_of_waiting (c := .b), fun harm hnear hp => timerCompareFire_of_armed (c := .b) hlive harm rfl hnear hp⟩
  · intro w hw n hn h
    subst hw hn
    exact timerReset_captures h
  · rintro w h u rfl
    exact timerStart_shown h w
  · rintro u rfl
    obtain ⟨hp, h0, h1, hpend, hdone⟩ := timerCommit_taken t s
    exact ⟨hp, h0, h1, hpend, hdone, (timerCommit_moved t s).fab, (timerCommit_moved t s).others⟩
  · rintro u rfl
    exact applyOut_shown t s
  · intro hon
    exact ⟨⟨_, congrArg Host.Outcome.next (toCluster_on hon _), rfl, rfl⟩, ⟨_, congrArg Host.Outcome.next (toCluster_on hon _), rfl, rfl⟩⟩
  · intro hoff
    exact ⟨congrArg Host.Outcome.next (toCluster_off hoff _), congrArg Host.Outcome.next (toCluster_off hoff _)⟩

end Sys2Proof.Machine

/-! Two statements about the regions and the image that fail: each with a state that the model evaluates to the refuting outcome. -/
namespace Sys2Proof.Machine

open Sys2Proof

/-! ### A restart that refuses a leg's group -/

/-- Region 0 has been told to start, after PERIOD 8, which R62 refuses, went to the shadow of leg 0. -/
def startingOnBadPeriod : State :=
  let s := ran (exec (.legShadowWrite 0 (.reg 0 8)) State.reset) State.reset
  ran (exec (.regionStart 0) s) s

theorem startingOnBadPeriod_shown : regionState 0 startingOnBadPeriod = 1 ∧ 0 ∈ regionLegs 0 startingOnBadPeriod
    ∧ fget LEG_PERIOD_PERIOD 0 startingOnBadPeriod = 8 ∧ legCheck 0 startingOnBadPeriod = 1 := by decide

/-- The restart commits the leg's group under the check of R62, which refuses it: the PERIOD in effect stays 0. -/
theorem regionRestart_keeps_refused_period :
    fget LEG_PERIOD_PERIOD_E 0 (ran (exec (.regionRestart 0) startingOnBadPeriod) startingOnBadPeriod) = 0 := by decide +kernel

/-- Refutes O31, in the clause of the legs at a restart: it takes every PERIOD in the shadow into effect, but the commit of a restart refuses
a group that R62 condemns. Two commands lead from reset to such a state. -/
theorem not_regionsStopAndStart : ¬ Obligations.RegionsStopAndStart := by
  intro h
  obtain ⟨hstate, hleg, hshadow, -⟩ := startingOnBadPeriod_shown
  obtain ⟨-, -, -, hrestart, -⟩ := h startingOnBadPeriod 0
  obtain ⟨t, ht, -, -, -, -, -, -, hlegs, -⟩ := hrestart hstate
  obtain ⟨heff, -⟩ := hlegs 0 hleg 8 hshadow.symm
  have hzero : fget LEG_PERIOD_PERIOD_E 0 t = 0 := by simpa only [ht, ran] using regionRestart_keeps_refused_period
  omega

/-! ### A queue depth that its queue does not have -/

/-- No word waits in the store's queue, but QDEPTH reads 5. -/
def staleDepth : State := fset CFS_STAT_QDEPTH 0 5 State.reset

/-- A load that begins takes its slot's words out of the queue and shows the queue's length anew (R151, R407). -/
theorem fabLoad_sets_queue_depth : fget CFS_STAT_QDEPTH 0 staleDepth = 5
    ∧ fget CFS_STAT_QDEPTH 0 (ran (exec (.fabLoad 0) staleDepth) staleDepth) = 0 := by decide

theorem staleDepth_mayLoad : (∀ n < 4, regionState n staleDepth = 0) ∧ fbit FAB_STAT_BUSY 0 staleDepth = false := by decide

/-- Refutes O32, in the clause of an accepted LOAD with an empty queue: its list of registers leaves out CFS_STAT.QDEPTH, which the load
writes. The statement is of every state, and so also of one whose depth is not its queue's length. -/
theorem not_imageLoads : ¬ Obligations.ImageLoads := by
  intro h
  obtain ⟨hstopped, hidle⟩ := staleDepth_mayLoad
  obtain ⟨-, haccepted, -⟩ := h staleDepth
  obtain ⟨-, hload⟩ := haccepted hstopped hidle
  obtain ⟨t, ht, -, -, -, -, -, -, -, hempty⟩ := hload 0
  obtain ⟨-, hkept, -⟩ := hempty rfl rfl _ rfl
  obtain ⟨hfive, hzero⟩ := fabLoad_sets_queue_depth
  have hnow : fget CFS_STAT_QDEPTH 0 t = 0 := by simpa only [ht, ran] using hzero
  have hwas := hkept.reg (F := CFS_STAT_QDEPTH) (by decide) 0
  omega

end Sys2Proof.Machine

namespace Sys2Proof.Machine

open Sys2Proof

/-! A statement about the link's ports that fails: with a state that the model evaluates to the refuting outcome. -/

/-! ### A pair that waits to be relayed on a port that goes DOWN -/

/-- Port 0 is UP with two of its lanes in service, and a pair that came on port 1 waits to be relayed on it. -/
def relayWaits : State :=
  setPort 0 { PortH.init with relay := some ⟨1, timingCell 0x140001 0⟩, relayed := true }
    (fset LNK_PSTAT_LANE_OK 0 3 (fset LNK_PSTAT_STATE 0 2 State.reset))

theorem relayWaits_goesDown : fbitAt LNK_PSTAT_LANE_OK 0 0 relayWaits = true
    ∧ (decide (lanesOk 0 relayWaits < 3) && decide (2 ≤ portState 0 relayWaits)) = true ∧ portState 0 relayWaits = 2
    ∧ (port 0 relayWaits).relay ≠ none := by decide

/-- A port that leaves UP drops the pair that waits on it, since its delay is measured anew (R165, R179). -/
theorem laneFail_drops_relay : (port 0 (ran (exec (.laneFail 0 0) relayWaits) relayWaits)).relay = none := by decide

/-- Refutes O33, in the clause of a lane that fails: of a port that leaves UP it keeps the pair that waits to be relayed, but the port
drops it together with its delay measurements and the half pairs. -/
theorem not_linkPorts : ¬ Obligations.LinkPorts := by
  intro h
  obtain ⟨hlane, hdown, hup, hrelay⟩ := relayWaits_goesDown
  obtain ⟨-, hfail, -⟩ := h relayWaits 0
  obtain ⟨t, ht, -, -, -, -, -, hport, -⟩ := hfail 0 true hdown.symm hlane
  have hkept : (port 0 t).relay = (port 0 relayWaits).relay := by
    rw [show port 0 t = _ from hport _ rfl]
    simp only [Bool.true_and, Fin.val_zero, hup, beq_self_eq_true, if_true]
  have hdropped : (port 0 t).relay = none := by simpa only [ht, ran] using laneFail_drops_relay
  exact hrelay (hkept.symm.trans hdropped)

end Sys2Proof.Machine

namespace Sys2Proof.Machine

open Sys2Proof

/-! What the link's ports hold, and what becomes of a record: published, received, forwarded, looked up in the directory. -/

/-! ### Ports -/

@[simp] theorem port_setPort_same (p : Nat) (h : PortH) (s : State) : port p (setPort p h s) = h := sget_sset_same _ _ _ _

theorem port_setPort_other {p j : Nat} (hj : j ≠ p) (h : PortH) (s : State) : port j (setPort p h s) = port j s :=
  sget_sset_other _ _ (Ne.symm hj) _

theorem port_congr {s t : State} (h : t.ports = s.ports) (j : Nat) : port j t = port j s := by rw [port, port, h]

@[simp] theorem fget_setPort (F : Fld) (u p : Nat) (h : PortH) (s : State) : fget F u (setPort p h s) = fget F u s := rfl

/-! ### A value handed to a publish entry (R167) -/

/-- A value has been handed to publish entry `e` in the present dot. -/
def handedNow (e : Nat) (s : State) : Bool := (sget (0, false) s.link.handed e).1 == s.time + 1

/-- CLASH of entry `e` where the dot has handed it a value before. -/
def clashNoted (e : Nat) (s : State) : State := onlyIf (handedNow e s) (fon PUB_STAT_CLASH e) s

/-- Entry `e` takes the host's value `v` with the present position. -/
def valueTaken (e v : Nat) (s : State) : State :=
  fset PUB_PPOS_LINE e s.pos.line (fset PUB_PPOS_DOT e s.pos.dot (fon PUB_STAT_WRITTEN e (fset PUB_VALUE_VALUE e v
    { s with link := { s.link with handed := sset (0, false) s.link.handed e (s.time + 1, true) } })))

theorem pubWrite_host (e v : Nat) (s : State) : pubWrite true e v s = valueTaken e v (clashNoted e s) := by
  simp only [pubWrite, Bool.not_true, Bool.and_false, Bool.false_eq_true, if_false]
  rfl

theorem clashNoted_regsOnly (e : Nat) (s : State) : RegsOnly s (clashNoted e s) := by
  unfold clashNoted onlyIf
  split
  · exact (RegsOnly.refl s).fon _ _
  · exact RegsOnly.refl s

theorem onlyFields_clashNoted (e : Nat) (s : State) : onlyFields [(PUB_STAT_CLASH, e)] s (clashNoted e s) := by
  unfold clashNoted onlyIf
  split
  · exact (onlyFields.refl _ s).fon (by simp)
  · exact onlyFields.refl _ s

theorem fget_clash_clashNoted (e : Nat) (s : State) :
    fget PUB_STAT_CLASH e (clashNoted e s) = if handedNow e s then 1 else fget PUB_STAT_CLASH e s := by
  unfold clashNoted onlyIf
  split
  · exact fget_fon_same _ _ _
  · rfl

/-- The fields that a value handed over writes, CLASH apart. -/
def valueFields (e : Nat) : List (Fld × Nat) := [(PUB_VALUE_VALUE, e), (PUB_STAT_WRITTEN, e), (PUB_PPOS_LINE, e), (PUB_PPOS_DOT, e)]

theorem valueTaken_frame (e v : Nat) (s : State) : ∃ r l, valueTaken e v s = { s with
    regs := r, hits := l, link := { s.link with handed := sset (0, false) s.link.handed e (s.time + 1, true) } } := by
  rw [valueTaken, fon_eq]
  exact ⟨_, _, rfl⟩

theorem onlyFields_valueTaken (e v : Nat) (s : State) : onlyFields (valueFields e) s (valueTaken e v s) := by
  unfold valueTaken
  refine onlyFields.fset (onlyFields.fset (onlyFields.fon (onlyFields.fset ?_ v ?_) ?_) _ ?_) _ ?_
  · exact (onlyFields.refl _ s).congr rfl
  all_goals simp [valueFields]

theorem fget_valueTaken (e v : Nat) (s : State) : fget PUB_VALUE_VALUE e (valueTaken e v s) = v % 2 ^ 32
    ∧ fget PUB_STAT_WRITTEN e (valueTaken e v s) = 1 ∧ fget PUB_PPOS_LINE e (valueTaken e v s) = s.pos.line % 2 ^ 12
    ∧ fget PUB_PPOS_DOT e (valueTaken e v s) = s.pos.dot % 2 ^ 14 := by
  unfold valueTaken
  refine ⟨?_, ?_, fget_fset_same _ _ _ _, ?_⟩
  · rw [fget_fset_other _ _ (.inl (by decide)), fget_fset_other _ _ (.inl (by decide)), fget_fon_other _ (.inl (by decide)), fget_fset_same]
    rfl
  · rw [fget_fset_other _ _ (.inl (by decide)), fget_fset_other _ _ (.inl (by decide)), fget_fon_same]
    rfl
  · rw [fget_fset_other _ _ (.inl (by decide)), fget_fset_same]
    rfl

theorem pubValueWrite_completes (s : State) (e : Fin 1024) (v : Word) : completes (.pubValueWrite e v) s (fun t =>
    t = { s with regs := t.regs, hits := t.hits, link := t.link } ∧ t.link = { s.link with handed := t.link.handed }
    ∧ sget (0, false) t.link.handed e = (s.time + 1, true) ∧ fget PUB_VALUE_VALUE e t = v.toNat ∧ fget PUB_STAT_WRITTEN e t = 1
    ∧ fget PUB_PPOS_LINE e t = s.pos.line % 2 ^ 12 ∧ fget PUB_PPOS_DOT e t = s.pos.dot % 2 ^ 14
    ∧ (if (sget (0, false) s.link.handed e).1 = s.time + 1 then fget PUB_STAT_CLASH e t = 1
        else fget PUB_STAT_CLASH e t = fget PUB_STAT_CLASH e s)
    ∧ onlyFields [(PUB_VALUE_VALUE, e), (PUB_STAT_WRITTEN, e), (PUB_PPOS_LINE, e), (PUB_PPOS_DOT, e), (PUB_STAT_CLASH, e)] s t) := by
  refine ⟨_, congrArg Host.Outcome.next (pubWrite_host e v.toNat s), ?_⟩
  obtain ⟨r, l, hclash⟩ := clashNoted_regsOnly e s
  obtain ⟨r', l', hframe⟩ := valueTaken_frame e v.toNat (clashNoted e s)
  obtain ⟨hvalue, hwritten, hline, hdot⟩ := fget_valueTaken e v.toNat (clashNoted e s)
  have honly := onlyFields_valueTaken e v.toNat (clashNoted e s)
  have hshown : fget PUB_STAT_CLASH e (valueTaken e v.toNat (clashNoted e s)) = if handedNow e s then 1 else fget PUB_STAT_CLASH e s :=
    (honly.reg rfl e).trans (fget_clash_clashNoted e s)
  have hpos : (clashNoted e s).pos = s.pos := by rw [hclash]
  have htime : (clashNoted e s).time = s.time := by rw [hclash]
  refine ⟨?_, ?_, ?_, by rw [hvalue, Nat.mod_eq_of_lt v.isLt], hwritten, by rw [hline, hpos], by rw [hdot, hpos], ?_, ?_⟩
  · rw [hframe, hclash]
  · rw [hframe, hclash]
  · rw [hframe, ← htime]
    simp only [sget_sset_same]
  · by_cases hnow : (sget (0, false) s.link.handed e).1 = s.time + 1
    · rw [if_pos hnow, hshown, if_pos (by simpa [handedNow] using hnow)]
    · rw [if_neg hnow, hshown, if_neg (by simpa [handedNow] using hnow)]
  · exact ((onlyFields_clashNoted e s).mono (by simp)).trans (honly.mono (by simp [valueFields]))

/-! ### The publish window (R167, R168) -/

/-- Entry `e` has a value that is to be published. -/
def publishes (e : Nat) (s : State) : Bool := fbit PUB_STAT_WRITTEN e s && fget PUB_CFG_SCOPE e s != 0

/-- The record of entry `e` as it is queued: on the ports in use of its scope, sent on none yet. -/
def queuedRecord (e : Nat) (s : State) : Nat × List Nat × Bool :=
  (ownRecord e s, ((if fget PUB_CFG_SCOPE e s = 1 then [0, 1] else if fget PUB_CFG_SCOPE e s = 2 then [0, 1, 2] else [0, 1, 2, 3]) :
    List Nat).filter (fun p => inUse p s), false)

/-- What the window does with entry `e`. -/
def entryPublished (e : Nat) (s : State) : State :=
  if fbit PUB_STAT_WRITTEN e s then
    foff PUB_STAT_WRITTEN e (if fget PUB_CFG_SCOPE e s = 0 then s else { s with link := { s.link with own := s.link.own ++ [queuedRecord e s] } })
  else s

theorem execPublishSnapshot_of_on {s : State} (h : fbit LNK_CTRL_EN 0 s = true) :
    execPublishSnapshot s = .next (forAll (List.range 1024) entryPublished s) := by
  rw [execPublishSnapshot, if_pos h]
  refine congrArg (fun f => Host.Outcome.next (forAll (List.range 1024) f s)) (funext fun e => funext fun t => ?_)
  unfold entryPublished queuedRecord
  split
  · refine congrArg (foff PUB_STAT_WRITTEN e) ?_
    split
    · rfl
    · split <;> simp_all
  · rfl

theorem entryPublished_frame (e : Nat) (s : State) : ∃ r, entryPublished e s = { s with
    regs := r, link := { s.link with own := s.link.own ++ if publishes e s then [queuedRecord e s] else [] } } := by
  unfold entryPublished publishes
  cases hw : fbit PUB_STAT_WRITTEN e s
  · exact ⟨s.regs, by simp⟩
  · by_cases hs : fget PUB_CFG_SCOPE e s = 0
    · exact ⟨(foff PUB_STAT_WRITTEN e s).regs, by simp [hs]; rfl⟩
    · exact ⟨(foff PUB_STAT_WRITTEN e s).regs, by simp [hs]; rfl⟩

theorem onlyFields_entryPublished (e : Nat) (s : State) : onlyFields [(PUB_STAT_WRITTEN, e)] s (entryPublished e s) := by
  unfold entryPublished
  split
  · refine onlyFields.foff ?_ (by simp)
    split
    · exact onlyFields.refl _ s
    · exact (onlyFields.refl _ s).congr rfl
  · exact onlyFields.refl _ s

theorem written_entryPublished_same (e : Nat) (s : State) : fbit PUB_STAT_WRITTEN e (entryPublished e s) = false := by
  unfold entryPublished
  split
  · rw [fbit, fget_foff_same]
    rfl
  · exact Bool.eq_false_iff.mpr ‹_›

/-- The neighbours follow from the address and the topology. -/
theorem neighbour_congr {s t : State} (p : Nat) (haddr : fget LNK_ADDR_ADDR 0 t = fget LNK_ADDR_ADDR 0 s)
    (hring : fget LNK_TOPO_RING_SIZE 0 t = fget LNK_TOPO_RING_SIZE 0 s) (hrings : fget LNK_TOPO_RINGS 0 t = fget LNK_TOPO_RINGS 0 s)
    (hgroups : fget LNK_TOPO_GROUPS 0 t = fget LNK_TOPO_GROUPS 0 s) : neighbour p t = neighbour p s := by
  unfold neighbour adG adN adP ringSize nRings nGroups
  rw [haddr, hring, hrings, hgroups]

/-- The entry's record is the same in any state that agrees in position and in the registers but for WRITTEN. -/
theorem queuedRecord_congr {ks : List Nat} {s t : State} (h : onlyFields (ks.map (fun k => (PUB_STAT_WRITTEN, k))) s t) (hpos : t.pos = s.pos)
    (e : Nat) : queuedRecord e t = queuedRecord e s := by
  have hreg : ∀ F : Fld, PUB_STAT_WRITTEN.id ≠ F.id → ∀ u, fget F u t = fget F u s := fun F hF u =>
    h F u fun x hx => by
      obtain ⟨k, -, rfl⟩ := List.mem_map.mp hx
      exact fun hsame => hF hsame.1.symm
  have huse : ∀ p, inUse p t = inUse p s := fun p => by
    rw [inUse, inUse, neighbour_congr p (hreg _ (by decide) 0) (hreg _ (by decide) 0) (hreg _ (by decide) 0) (hreg _ (by decide) 0)]
  have hrecord : ownRecord e t = ownRecord e s := by
    simp only [ownRecord, ringSize, hpos, hreg PUB_CFG_TAG (by decide), hreg PUB_CFG_SCOPE (by decide), hreg LNK_ADDR_ADDR (by decide),
      hreg LNK_TOPO_RING_SIZE (by decide), hreg PUB_VALUE_VALUE (by decide), hreg PUB_PPOS_LINE (by decide), hreg PUB_PPOS_DOT (by decide)]
  simp only [queuedRecord, hrecord, huse, hreg PUB_CFG_SCOPE (by decide)]

/-- The window has dealt with the entries `es`. -/
structure EntriesPublished (es : List Nat) (s t : State) : Prop where
  frame : ∃ r, t = { s with regs := r, link := { s.link with own := s.link.own ++ (es.filter (publishes · s)).map (queuedRecord · s) } }
  fields : onlyFields (es.map (fun k => (PUB_STAT_WRITTEN, k))) s t
  written : ∀ e ∈ es, fbit PUB_STAT_WRITTEN e t = false

theorem entriesPublished (es : List Nat) (hes : es.Nodup) (s : State) : EntriesPublished es s (forAll es entryPublished s) := by
  induction es generalizing s with
  | nil => exact ⟨⟨s.regs, by simp [forAll_nil]⟩, onlyFields.refl _ s, by simp⟩
  | cons e es ih =>
    obtain ⟨hout, hnodup⟩ := List.nodup_cons.mp hes
    obtain ⟨⟨r, hrest⟩, hfields, hwritten⟩ := ih hnodup (entryPublished e s)
    obtain ⟨r', hone⟩ := entryPublished_frame e s
    have honly := onlyFields_entryPublished e s
    have hrecords : (queuedRecord · (entryPublished e s)) = (queuedRecord · s) := funext fun k =>
      queuedRecord_congr (ks := [e]) honly (by rw [hone]) k
    have hscope : ∀ k, fget PUB_CFG_SCOPE k (entryPublished e s) = fget PUB_CFG_SCOPE k s := honly.reg rfl
    have hfilter : es.filter (publishes · (entryPublished e s)) = es.filter (publishes · s) := List.filter_congr fun k hk => by
      have hne : k ≠ e := fun h => hout (h ▸ hk)
      simp only [publishes, fbit, hscope, honly PUB_STAT_WRITTEN k (by simp [hne])]
    refine ⟨⟨r, ?_⟩, (honly.mono (by simp)).trans (hfields.mono (by simp)), fun k hk => ?_⟩
    · rw [forAll_cons, hrest, hfilter, hrecords, hone]
      cases hp : publishes e s <;> simp [hp]
    · rw [forAll_cons]
      by_cases hke : k ∈ es
      · exact hwritten k hke
      · obtain rfl : k = e := (List.mem_cons.mp hk).resolve_right hke
        rw [fbit, hfields PUB_STAT_WRITTEN k (by simpa using fun j hj (h : k = j) => hke (h ▸ hj))]
        exact written_entryPublished_same k s

theorem publishSnapshot_completes {s : State} (h : fbit LNK_CTRL_EN 0 s = true) : completes .publishSnapshot s (fun t =>
    t = { s with regs := t.regs, link := t.link } ∧ onlyRegs [PUB_STAT_WRITTEN] s t ∧ (∀ e < 1024, fbit PUB_STAT_WRITTEN e t = false)
    ∧ t.link = { s.link with own := t.link.own }
    ∧ t.link.own = s.link.own ++ ((List.range 1024).filter (publishes · s)).map (queuedRecord · s)) := by
  refine ⟨_, execPublishSnapshot_of_on h, ?_⟩
  obtain ⟨⟨r, hframe⟩, hfields, hwritten⟩ := entriesPublished (List.range 1024) List.nodup_range s
  refine ⟨by rw [hframe], fun F hF u => hfields F u fun x hx => ?_, fun e he => hwritten e (List.mem_range.mpr he), by rw [hframe],
    by rw [hframe]⟩
  obtain ⟨k, -, rfl⟩ := List.mem_map.mp hx
  exact fun hsame => hF (by simp [hsame.1])

/-! ### A record arrives (R169 to R172) -/

/-- Port `p` has counted a data cell. -/
def cellCounted (p : Nat) (s : State) : State := setPort p { port p s with rx := min ((port p s).rx + 1) 65535 } s

/-- The record is for no one here: without scope, of another frame, too late in the frame, or the node's own. -/
def recordLate (v : Nat) (s : State) : Prop :=
  recScope v = 0 ∨ recFseq v ≠ s.pos.frame % 256 ∨ last400 s = true ∨ recSrc v = fget LNK_ADDR_ADDR 0 s

theorem recordLate_iff (v : Nat) (s : State) : recordLate v s ↔ (decide (v / 2 ^ 24 % 4 = 0) || decide (v / 2 ^ 32 % 256 ≠ s.pos.frame % 256)
    || decide (frameDots s ≤ s.pos.line * dotsEff s + s.pos.dot + 400) || stepWithin 400 s
    || decide (v / 2 ^ 40 % 2 ^ 18 = fget LNK_ADDR_ADDR 0 s)) = true := by
  simp only [recordLate, recScope, recFseq, recSrc, bits, last400, Bool.or_eq_true, decide_eq_true_eq, or_assoc, Nat.reducePow, Nat.reduceAdd,
    Nat.reduceSub]

theorem dataCell_of_down {p : Nat} {s : State} (h : portUp p s = false) (v fine : Nat) : dataCell p v fine s = s := by simp [dataCell, h]

theorem dataCell_of_late {p v : Nat} {s : State} (hup : portUp p s = true) (hlate : recordLate v s) (fine : Nat) :
    dataCell p v fine s = lateRecord (cellCounted p s) := by
  have hlate' : recordLate v (cellCounted p s) := hlate
  unfold recordLate at hlate'
  simp only [dataCell, hup, Bool.not_true, Bool.false_eq_true, if_false]
  exact if_pos hlate'

/-- A record that goes on: LNK_FRX counts it. -/
def recordCounted (p : Nat) (s : State) : State :=
  { cellCounted p s with link := { s.link with frx := s.link.frx + 1 } }

/-- A record goes on round the ring with HOPS lowered, where it came by the ring and has hops left. -/
def sentRound (p v fine : Nat) (s : State) : State :=
  if p < 2 ∧ 1 < recHops v then forward (1 - p) (recWithHops v (recHops v - 1)) (32 * (s.time + 40) + fine) s else s

/-- A record waits for its lookup. -/
def lookupWaits (p v : Nat) (s : State) : State := { s with link := { s.link with lookups := s.link.lookups ++ [(p, v)] } }

theorem forward_regs (p v at_ : Nat) (s : State) (F : Fld) (hF : F.id ≠ LNK_POVF_COUNT.id) (u : Nat) :
    fget F u (forward p v at_ s) = fget F u s := by
  unfold forward
  split
  · rfl
  · dsimp only
    split
    · exact fget_fset_other _ _ (.inl (Ne.symm hF))
    · rfl

theorem dataCell_of_looked_up {p v : Nat} {s : State} (hup : portUp p s = true) (hlate : ¬ recordLate v s) (hdir : fbit LNK_DIR_EN 0 s = true)
    (fine : Nat) : dataCell p v fine s = lookupWaits p v (sentRound p v fine (recordCounted p s)) := by
  have hlate' : ¬ recordLate v (cellCounted p s) := hlate
  unfold recordLate at hlate'
  simp only [dataCell, hup, Bool.not_true, Bool.false_eq_true, if_false]
  refine (if_neg hlate').trans (if_pos ?_)
  split
  · rw [fbit, forward_regs _ _ _ _ _ (by decide)]
    exact hdir
  · exact hdir

theorem sentRound_of_no_hops {p v : Nat} (h : p < 2 → recHops v ≤ 1) (fine : Nat) (s : State) : sentRound p v fine s = s :=
  if_neg fun hgo => absurd (h hgo.1) (by omega)

theorem forward_of_room {p : Nat} {s : State} (hup : portUp p s = true) (hroom : (port p s).fwd.length < 4096) (v at_ : Nat) :
    forward p v at_ s = setPort p { port p s with fwd := (port p s).fwd ++ [(at_, v)] } s := by
  simp [forward, hup, Nat.not_le.mpr hroom]

/-- HOPS lowered by one, where it is not 0. -/
theorem recWithHops_pred {v : Nat} (h : 1 < recHops v) : recWithHops v (recHops v - 1) = v - 2 ^ 26 := by
  simp only [recWithHops, recHops, bits, Nat.reducePow, Nat.reduceAdd, Nat.reduceSub] at h ⊢
  omega

theorem port_cellCounted_other {p j : Nat} (hj : j ≠ p) (s : State) : port j (cellCounted p s) = port j s := port_setPort_other hj _ s

theorem dataCellReceive_of_late {s : State} (p : Fin 4) (v : BitVec 128) (hup : portUp p s = true) (hlate : recordLate v.toNat s) :
    completes (.dataCellReceive p v) s (fun t => t = { s with ports := t.ports, link := { s.link with flate := s.link.flate + 1 } }
      ∧ (port p t) = { port p s with rx := min ((port p s).rx + 1) 65535 } ∧ ∀ j, j ≠ p.val → port j t = port j s) :=
  ⟨_, congrArg Host.Outcome.next (dataCell_of_late hup hlate 0), rfl, port_setPort_same _ _ s, fun _ hj => port_cellCounted_other hj s⟩

theorem dataCellReceive_of_last_hop {s : State} (p : Fin 4) (v : BitVec 128) (hup : portUp p s = true) (hlate : ¬ recordLate v.toNat s)
    (hdir : fbit LNK_DIR_EN 0 s = true) (hhops : p.val < 2 → recHops v.toNat ≤ 1) :
    completes (.dataCellReceive p v) s (fun t =>
      t = { s with ports := t.ports, link := { s.link with frx := s.link.frx + 1, lookups := s.link.lookups ++ [(p.val, v.toNat)] } }
      ∧ ∀ j, j ≠ p.val → port j t = port j s) := by
  refine ⟨_, congrArg Host.Outcome.next (dataCell_of_looked_up hup hlate hdir 0), ?_⟩
  rw [sentRound_of_no_hops hhops]
  exact ⟨rfl, fun _ hj => port_cellCounted_other hj s⟩

theorem sentRound_of_hops {p v : Nat} {s : State} (hp : p < 2) (hhops : 1 < recHops v) (hon : portUp (1 - p) s = true)
    (hroom : (port (1 - p) s).fwd.length < 4096) (fine : Nat) : sentRound p v fine s =
      setPort (1 - p) { port (1 - p) s with fwd := (port (1 - p) s).fwd ++ [(32 * (s.time + 40) + fine, v - 2 ^ 26)] } s := by
  rw [sentRound, if_pos ⟨hp, hhops⟩, recWithHops_pred hhops, forward_of_room hon hroom]

theorem recordCounted_frame (p : Nat) (s : State) : ∃ m, recordCounted p s =
    { s with ports := m, link := { s.link with frx := s.link.frx + 1 } } := ⟨_, rfl⟩

theorem recordCounted_onward_frame (p q : Nat) (h : PortH) (v : Nat) (s : State) : ∃ m, lookupWaits p v (setPort q h (recordCounted p s)) =
    { s with ports := m, link := { s.link with frx := s.link.frx + 1, lookups := s.link.lookups ++ [(p, v)] } } := by
  obtain ⟨m, hm⟩ := recordCounted_frame p s
  rw [hm]
  exact ⟨_, rfl⟩

theorem dataCellReceive_of_sent_round {s : State} (p : Fin 4) (v : BitVec 128) (hup : portUp p s = true) (hlate : ¬ recordLate v.toNat s)
    (hdir : fbit LNK_DIR_EN 0 s = true) (hp : p.val < 2) (hhops : 1 < recHops v.toNat) (hon : portUp (1 - p.val) s = true)
    (hroom : (port (1 - p.val) s).fwd.length < 4096) :
    completes (.dataCellReceive p v) s (fun t =>
      t = { s with ports := t.ports, link := { s.link with frx := s.link.frx + 1, lookups := s.link.lookups ++ [(p.val, v.toNat)] } }
      ∧ port (1 - p.val) t = { port (1 - p.val) s with fwd := (port (1 - p.val) s).fwd ++ [(32 * (s.time + 40), v.toNat - 2 ^ 26)] }) := by
  have hport : port (1 - p.val) (recordCounted p s) = port (1 - p.val) s := port_cellCounted_other (by omega) s
  have hon' : portUp (1 - p.val) (recordCounted p s) = true := hon
  have htime : (recordCounted p s).time = s.time := rfl
  refine ⟨_, congrArg Host.Outcome.next (dataCell_of_looked_up hup hlate hdir 0), ?_⟩
  rw [sentRound_of_hops hp hhops hon' (by rwa [hport]), hport, htime, Nat.add_zero]
  generalize PortH.mk _ _ _ _ _ _ _ _ _ _ _ _ _ _ _ _ _ _ = h
  obtain ⟨m, hframe⟩ := recordCounted_onward_frame p (1 - p.val) h v.toNat s
  exact ⟨by rw [hframe], port_setPort_same _ h _⟩

/-! ### Numbers in memory -/

theorem mread_lt (a n : Nat) (s : State) : mread a n s < 256 ^ n := by
  induction n generalizing a with
  | zero => simp [mread]
  | succ n ih =>
    have hbyte := (mget a s).isLt
    have hrest := ih (a + 1)
    rw [mread, Nat.pow_succ']
    omega

theorem mread_add (a m n : Nat) (s : State) : mread a (m + n) s = mread a m s + 256 ^ m * mread (a + m) n s := by
  induction m generalizing a with
  | zero => simp [mread]
  | succ m ih =>
    rw [Nat.add_right_comm, mread, mread, ih, Nat.pow_succ', Nat.add_assoc a 1 m, Nat.add_comm 1 m, Nat.mul_add, Nat.mul_assoc, Nat.add_assoc]

theorem mread_congr {s t : State} (h : t.mem = s.mem) (a n : Nat) : mread a n t = mread a n s := by
  induction n generalizing a with
  | zero => rfl
  | succ n ih => rw [mread, mread, ih, mget, mget, h]

theorem readMem_of_sound {s : State} (h : memorySound s) (f n req : Nat) : readMem f n req s = (some (mread f n s), s) := by
  obtain ⟨hp, hs⟩ := h
  have hgood : ∀ ws, checkWords ws req s = (true, s) := fun ws => by
    have hbad : ws.find? (fun w => wordBad w s) = none := List.find?_eq_none.mpr (by simp [wordBad, hp])
    have hsoft : ws.filter (fun w => wordSoft w s) = [] := List.filter_eq_nil_iff.mpr (by simp [wordSoft, hs])
    rw [checkWords, hbad, hsoft, forAll_nil]
  rw [readMem, hgood]

theorem mread_entry_low (a : Nat) (s : State) : bits (mread a 16 s) 31 0 = mread a 4 s := by
  have hlt := mread_lt a 4 s
  rw [show 16 = 4 + 12 from rfl, mread_add]
  simp only [bits, Nat.reducePow, Nat.reduceAdd, Nat.reduceSub, Nat.div_one] at hlt ⊢
  omega

theorem mread_entry_high (a : Nat) (s : State) : bits (mread a 16 s) 127 64 = mread (a + 8) 8 s := by
  have hlow := mread_lt a 8 s
  have hlt := mread_lt (a + 8) 8 s
  rw [show 16 = 8 + 8 from rfl, mread_add]
  simp only [bits, Nat.reducePow, Nat.reduceAdd, Nat.reduceSub] at hlow hlt ⊢
  omega

/-! ### A directory lookup (R173 to R175) -/

theorem deliver_zero (v : Nat) (s : State) : deliver 0 v s = s := rfl

theorem deliver_of_other_tag {x v : Nat} (hx : x ≠ 0) (htag : bits x 31 0 % 2 ^ 24 ≠ recTag v) (s : State) : deliver x v s = dirBad s := by
  have hbad : bits (bits x 31 0) 23 0 ≠ recTag v ∨ 5 ≤ bits (bits x 31 0) 26 24 := .inl (by simpa [bits] using htag)
  exact (if_neg hx).trans (if_pos hbad)

/-- An entry of the record's own tag with one destination. -/
theorem deliver_of_one {x v : Nat} (hone : bits x 31 0 = recTag v + 2 ^ 24) {d : Nat} (hd : d = bits x 127 64 % 2 ^ 16) {s : State}
    (hword : d / 8 % 2 ^ 12 < 3072) (hon : clusterOn (d / 8 % 2 ^ 12 / 128) s = true) :
    deliver x v s = stage (d / 8 % 2 ^ 12) (d % 8) v s := by
  have htag : recTag v < 2 ^ 24 := bits_lt v 23 0
  have hx : x ≠ 0 := fun h => by simp [h, bits] at hone
  have hown : ¬ (bits (bits x 31 0) 23 0 ≠ recTag v ∨ 5 ≤ bits (bits x 31 0) 26 24) := by
    rw [hone]
    simp only [bits, Nat.reducePow, Nat.reduceAdd, Nat.reduceSub] at htag ⊢
    omega
  have hcount : bits (bits x 31 0) 26 24 = 1 := by
    rw [hone]
    simp only [bits, Nat.reducePow, Nat.reduceAdd, Nat.reduceSub] at htag ⊢
    omega
  have hfirst : bits (bits x 127 64) (16 * 0 + 15) (16 * 0) = d := by simp [hd, bits]
  have hgroup : bits d 14 3 = d / 8 % 2 ^ 12 := rfl
  refine ((if_neg hx).trans (if_neg hown)).trans ?_
  rw [hcount]
  simp only [List.range_one, forAll_cons, forAll_nil, hfirst, hgroup, hon, Nat.not_le.mpr hword, Bool.true_eq_false, or_self, if_false]

theorem stage_of_first {s : State} (h : s.link.staged = []) (g m v : Nat) : stage g m v s = { s with
    link := { s.link with fmatch := s.link.fmatch + 1, staged := [(g, m, recTag v, recSrc v, recValue v)] } } := by
  simp [stage, h]

/-- The oldest lookup is under way no more. -/
def lookupTaken (rest : List (Nat × Nat)) (s : State) : State := { s with link := { s.link with lookups := rest } }

/-- The definition of `lookup` is put in by `delta`: its equation is too deep for the kernel. -/
theorem lookup_of_read {v x : Nat} {s : State} (hread : readMem (dirAddr (recTag v) s) 16 0x82 s = (some x, s)) (hgate : gateway s = false)
    (p : Nat) : lookup p v s = deliver x v s := by
  generalize hL : lookup = L
  delta lookup at hL
  subst hL
  beta_reduce
  extract_lets a
  simp only [a, hread, hgate, Bool.false_and, Bool.false_eq_true, if_false]

theorem execDirectoryLookupDone_of_sound {s : State} {p v : Nat} {rest : List (Nat × Nat)} (h : s.link.lookups = (p, v) :: rest)
    (hgate : gateway s = false) (hsound : memorySound s) :
    execDirectoryLookupDone s = .next (deliver (mread (dirAddr (recTag v) s) 16 s) v (lookupTaken rest s)) := by
  have haddr : dirAddr (recTag v) (lookupTaken rest s) = dirAddr (recTag v) s := rfl
  have hsound' : memorySound (lookupTaken rest s) := hsound
  have hgate' : gateway (lookupTaken rest s) = false := hgate
  have hread := readMem_of_sound hsound' (dirAddr (recTag v) (lookupTaken rest s)) 16 0x82
  rw [execDirectoryLookupDone, h]
  show Host.Outcome.next (lookup p v (lookupTaken rest s)) = _
  rw [lookup_of_read hread hgate' p, haddr, mread_congr (s := s) (t := lookupTaken rest s) rfl]

theorem directoryLookupDone_completes {s : State} {p v a : Nat} {rest : List (Nat × Nat)} (ha : a = dirAddr (v % 2 ^ 24) s)
    (h : s.link.lookups = (p, v) :: rest) (hgate : gateway s = false) (hsound : memorySound s) :
    (mread a 16 s = 0 → completes .directoryLookupDone s (fun t => t = { s with link := { s.link with lookups := rest } }))
    ∧ (mread a 4 s % 2 ^ 24 ≠ v % 2 ^ 24 → mread a 16 s ≠ 0 → completes .directoryLookupDone s (fun t =>
        t = { s with regs := t.regs, hits := t.hits, link := { s.link with lookups := rest, dir := true } }
        ∧ onlyFields [(LNK_STAT_DIR_BAD, 0)] s t ∧ fget LNK_STAT_DIR_BAD 0 t = 1))
    ∧ (∀ d : Nat, d = mread (a + 8) 8 s % 2 ^ 16 → mread a 4 s = v % 2 ^ 24 + 2 ^ 24 → d / 8 % 2 ^ 12 < 3072 →
        clusterOn (d / 8 % 2 ^ 12 / 128) s = true → s.link.staged = [] → completes .directoryLookupDone s (fun t =>
          t = { s with link := { s.link with lookups := rest, fmatch := s.link.fmatch + 1, staged := t.link.staged } }
          ∧ t.link.staged = [(d / 8 % 2 ^ 12, d % 8, v % 2 ^ 24, v / 2 ^ 40 % 2 ^ 18, v / 2 ^ 64 % 2 ^ 32)])) := by
  have htag : recTag v = v % 2 ^ 24 := congrArg (· % 2 ^ 24) (Nat.div_one v)
  have hdone := execDirectoryLookupDone_of_sound h hgate hsound
  rw [htag, ← ha] at hdone
  refine ⟨fun hzero => ⟨_, hdone, ?_⟩, fun hother hx => ⟨_, hdone, ?_⟩, fun d hd hone hword hon hnone => ⟨_, hdone, ?_⟩⟩
  · rw [hzero, deliver_zero]
    rfl
  · have hentry : bits (mread a 16 s) 31 0 % 2 ^ 24 ≠ recTag v := by
      rw [mread_entry_low, htag]
      exact hother
    rw [deliver_of_other_tag hx hentry, dirBad]
    refine ⟨?_, onlyFields.fon ?_ (by simp), fget_fon_same _ _ _⟩
    · rw [fon_eq]
      rfl
    · exact (onlyFields.refl _ s).congr rfl
  · have hentry : bits (mread a 16 s) 31 0 = recTag v + 2 ^ 24 := by rw [mread_entry_low, htag, hone]
    have hdest : d = bits (mread a 16 s) 127 64 % 2 ^ 16 := by rw [mread_entry_high, hd]
    have hon' : clusterOn (d / 8 % 2 ^ 12 / 128) (lookupTaken rest s) = true := hon
    have hnone' : (lookupTaken rest s).link.staged = [] := hnone
    rw [deliver_of_one hentry hdest hword hon', stage_of_first hnone', htag]
    exact ⟨rfl, rfl⟩

/-! ### The statement -/

/-- Settles O35: the value handed over, the publish window by induction over the entries, the record's arrival and its way on, and the
lookup by what its directory entry holds. -/
theorem linkRecords : Obligations.LinkRecords := by
  unfold Obligations.LinkRecords
  refine ⟨pubValueWrite_completes, fun s hoff => ?_, fun s hon => publishSnapshot_completes hon, fun s p v hdown => ?_,
    fun s p v late hlate hup => ?_, fun s hnone => ?_, fun s p v rest a ha h hgate hsound _ => directoryLookupDone_completes ha h hgate hsound⟩
  · exact if_neg (by simp [hoff])
  · exact congrArg Host.Outcome.next (dataCell_of_down hdown v.toNat 0)
  · have hiff : late = true ↔ recordLate v.toNat s := by rw [recordLate_iff, hlate]
    have hgoes : late = false → ¬ recordLate v.toNat s := fun h hr => by simp [hiff.mpr hr] at h
    exact ⟨fun h => dataCellReceive_of_late p v hup (hiff.mp h),
      fun h hdir hhops => dataCellReceive_of_last_hop p v hup (hgoes h) hdir hhops,
      fun h hdir hp hhops hon hroom => dataCellReceive_of_sent_round p v hup (hgoes h) hdir hp hhops hon hroom⟩
  · show execDirectoryLookupDone s = .next s
    rw [execDirectoryLookupDone, hnone]

end Sys2Proof.Machine

namespace Sys2Proof.Machine

open Sys2Proof

/-! The cells of the link: received, rebuilt or dropped, timing pairs kept and relayed, cells sent. -/

/-! ### Changes that stay within the ports -/

/-- `t` differs from `s` in what the ports hold alone. -/
def PortsOnly (s t : State) : Prop := ∃ m, t = { s with ports := m }

theorem PortsOnly.refl (s : State) : PortsOnly s s := ⟨_, rfl⟩

theorem PortsOnly.setPort {s t : State} (h : PortsOnly s t) (p : Nat) (k : PortH) : PortsOnly s (setPort p k t) := by
  obtain ⟨m, rfl⟩ := h
  exact ⟨_, rfl⟩

/-- `t` differs from `s` in the register file and in what the ports hold alone. -/
def RegsAndPorts (s t : State) : Prop := ∃ r m, t = { s with regs := r, ports := m }

theorem RegsAndPorts.refl (s : State) : RegsAndPorts s s := ⟨_, _, rfl⟩

theorem RegsAndPorts.setPort {s t : State} (h : RegsAndPorts s t) (p : Nat) (k : PortH) : RegsAndPorts s (setPort p k t) := by
  obtain ⟨r, m, rfl⟩ := h
  exact ⟨_, _, rfl⟩

theorem RegsAndPorts.fcount {s t : State} (h : RegsAndPorts s t) (F : Fld) (u n : Nat) : RegsAndPorts s (fcount F u n t) := by
  obtain ⟨r, m, rfl⟩ := h
  exact ⟨_, _, rfl⟩

/-! ### Counts that saturate -/

theorem fget_fcount_same (F : Fld) (u n : Nat) (s : State) : fget F u (fcount F u n s) = min (fget F u s + n) (2 ^ F.w - 1) := by
  have hpos := Nat.two_pow_pos F.w
  exact (fget_fset_same _ _ _ _).trans (Nat.mod_eq_of_lt (by omega))

theorem onlyFields.fcount {fs : List (Fld × Nat)} {s t : State} (h : onlyFields fs s t) {F : Fld} {w : Nat} (n : Nat) (hm : (F, w) ∈ fs) :
    onlyFields fs s (fcount F w n t) := h.fset _ hm

/-! ### The cells in a row of the lanes (R161) -/

/-- The cells in a row of a lane after one more cell, good or not. -/
def inRow (good : Bool) (n : Nat) : Nat := if good then min (n + 1) 1024 else 0

/-- What a cell does for one lane. -/
def laneCell (p : Nat) (good : Bool) (l : Nat) (s : State) : State :=
  if inRow good (sget 0 (port p s).agreed l) = 1024 then
    fsetBit LNK_PSTAT_LANE_OK p l true (setAgreed p l (inRow good (sget 0 (port p s).agreed l)) s)
  else setAgreed p l (inRow good (sget 0 (port p s).agreed l)) s

theorem laneCells_eq (p : Nat) (good : Bool) (s : State) : laneCells p good s = forAll [0, 1, 2] (laneCell p good) s := rfl

theorem inRow_full_iff (good : Bool) (n : Nat) : inRow good n = 1024 ↔ good = true ∧ 1023 ≤ n := by
  unfold inRow
  cases good
  · simp
  · simp only [if_true, true_and]
    omega

@[simp] theorem port_fsetBit (j : Nat) (F : Fld) (u i : Nat) (b : Bool) (s : State) : port j (fsetBit F u i b s) = port j s :=
  port_congr (fsetBit_ports ..) j

theorem port_laneCell (p : Nat) (good : Bool) (l j : Nat) (s : State) :
    port j (laneCell p good l s) = port j (setAgreed p l (inRow good (sget 0 (port p s).agreed l)) s) := by
  unfold laneCell
  split
  · exact port_fsetBit _ _ _ _ _ _
  · rfl

theorem fbitAt_laneCell (p : Nat) (good : Bool) (l : Nat) {k : Nat} (hk : k < 3) (s : State) : fbitAt LNK_PSTAT_LANE_OK p k (laneCell p good l s)
    = (fbitAt LNK_PSTAT_LANE_OK p k s || (good && decide (1023 ≤ sget 0 (port p s).agreed l) && decide (l = k))) := by
  unfold laneCell
  by_cases hfull : inRow good (sget 0 (port p s).agreed l) = 1024
  · obtain ⟨hgood, hn⟩ := (inRow_full_iff _ _).mp hfull
    rw [if_pos hfull, fbitAt_fsetBit _ _ _ _ _ _ hk]
    simp only [hgood, hn, decide_true, Bool.and_true, Bool.true_and, true_and]
    rfl
  · have hnot : (good && decide (1023 ≤ sget 0 (port p s).agreed l)) = false := by
      rw [inRow_full_iff] at hfull
      simpa using hfull
    rw [if_neg hfull, hnot, Bool.false_and, Bool.or_false]
    rfl

/-- The lanes `ls` of port `p` have counted a cell. -/
structure LanesCounted (p : Nat) (good : Bool) (ls : List Nat) (s t : State) : Prop where
  frame : ∃ r h m, t = { s with regs := r, hits := h, ports := m }
  fields : onlyFields (if good then [(LNK_PSTAT_LANE_OK, p)] else []) s t
  others : ∀ j, j ≠ p → port j t = port j s
  ok : ∀ k < 3, fbitAt LNK_PSTAT_LANE_OK p k t
    = (fbitAt LNK_PSTAT_LANE_OK p k s || (good && decide (1023 ≤ sget 0 (port p s).agreed k) && decide (k ∈ ls)))

theorem laneCell_frame (p : Nat) (good : Bool) (l : Nat) (s : State) :
    ∃ r h m, laneCell p good l s = { s with regs := r, hits := h, ports := m } := by
  unfold laneCell fsetBit
  split
  · rw [if_pos rfl, mark_eq]
    exact ⟨_, _, _, rfl⟩
  · exact ⟨_, _, _, rfl⟩

theorem onlyFields_laneCell (p : Nat) (good : Bool) (l : Nat) (s : State) :
    onlyFields (if good then [(LNK_PSTAT_LANE_OK, p)] else []) s (laneCell p good l s) := by
  unfold laneCell
  by_cases hfull : inRow good (sget 0 (port p s).agreed l) = 1024
  · obtain ⟨rfl, -⟩ := (inRow_full_iff _ _).mp hfull
    rw [if_pos hfull]
    intro F u hF
    have hother := hF (LNK_PSTAT_LANE_OK, p) (by simp)
    exact fget_fsetBit_other _ _ _ (by tauto)
  · rw [if_neg hfull]
    exact (onlyFields.refl _ s).congr rfl

theorem lanesCounted (p : Nat) (good : Bool) (ls : List Nat) (hls : ls.Nodup) (s : State) :
    LanesCounted p good ls s (forAll ls (laneCell p good) s) := by
  induction ls generalizing s with
  | nil => exact ⟨⟨_, _, _, rfl⟩, onlyFields.refl _ s, fun _ _ => rfl, fun k _ => by simp [forAll_nil]⟩
  | cons l ls ih =>
    obtain ⟨hout, hnodup⟩ := List.nodup_cons.mp hls
    obtain ⟨⟨r, h, m, hframe⟩, hfields, hothers, hok⟩ := ih hnodup (laneCell p good l s)
    obtain ⟨r', h', m', hone⟩ := laneCell_frame p good l s
    rw [forAll_cons]
    refine ⟨⟨r, h, m, by rw [hframe, hone]⟩, (onlyFields_laneCell p good l s).trans hfields, fun j hj => ?_, fun k hk => ?_⟩
    · rw [hothers j hj, port_laneCell]
      exact port_setPort_other hj _ s
    · rw [hok k hk, fbitAt_laneCell p good l hk]
      by_cases hkl : k = l
      · subst hkl
        simp [hout]
      · have hrow : sget 0 (port p (laneCell p good l s)).agreed k = sget 0 (port p s).agreed k := by
          rw [port_laneCell, setAgreed, port_setPort_same]
          exact sget_sset_other _ _ (Ne.symm hkl) _
        simp [hrow, hkl, Ne.symm hkl]

theorem laneCells_counted (p : Nat) (good : Bool) (s : State) : LanesCounted p good [0, 1, 2] s (laneCells p good s) :=
  laneCells_eq p good s ▸ lanesCounted p good [0, 1, 2] (by decide) s

/-- A cell that is not good: no lane has a cell in a row any more. -/
theorem laneCells_bad (p : Nat) (s : State) : laneCells p false s = setAgreed p 2 0 (setAgreed p 1 0 (setAgreed p 0 0 s)) := rfl

/-! ### A cell is dropped (R160) -/

/-- Port `p` has dropped `n` cells; the TIMING cell of the last slot is dropped where `n` counts it. -/
structure CellsDropped (p n : Nat) (s t : State) : Prop where
  frame : RegsAndPorts s t
  fields : onlyFields [(LNK_PDROP_COUNT, p)] s t
  count : fget LNK_PDROP_COUNT p t = min (fget LNK_PDROP_COUNT p s + n) (2 ^ 32 - 1)
  held : ∃ b, port p t = { port p s with timing := none, dropRose := b }
  others : ∀ j, j ≠ p → port j t = port j s

theorem dropCell_frame (p : Nat) {s t : State} (h : RegsAndPorts s t) : RegsAndPorts s (dropCell p t) := (h.setPort _ _).fcount _ _ _

theorem onlyFields_dropCell {p : Nat} {s t : State} (h : onlyFields [(LNK_PDROP_COUNT, p)] s t) :
    onlyFields [(LNK_PDROP_COUNT, p)] s (dropCell p t) := by
  refine onlyFields.fcount ?_ 1 (by simp)
  exact h.congr rfl

theorem fget_dropCell (p : Nat) (s : State) : fget LNK_PDROP_COUNT p (dropCell p s) = min (fget LNK_PDROP_COUNT p s + 1) (2 ^ 32 - 1) :=
  fget_fcount_same _ _ _ _

theorem port_dropCell_same (p : Nat) (s : State) : port p (dropCell p s) = { port p s with dropRose := true } := port_setPort_same _ _ s

theorem port_dropCell_other {p j : Nat} (hj : j ≠ p) (s : State) : port j (dropCell p s) = port j s := port_setPort_other hj _ s

theorem loseTiming_of_none {p : Nat} {s : State} (h : (port p s).timing = none) : loseTiming p s = s := by rw [loseTiming, h]

theorem loseTiming_of_some {p : Nat} {s : State} (h : (port p s).timing ≠ none) :
    loseTiming p s = dropCell p (setPort p { port p s with timing := none } s) := by
  obtain ⟨t, ht⟩ := Option.ne_none_iff_exists'.mp h
  rw [loseTiming, ht]

theorem notTaken_dropped (p : Nat) (s : State) : CellsDropped p (if (port p s).timing = none then 1 else 2) s (notTaken p s) := by
  unfold notTaken
  by_cases h : (port p s).timing = none
  · rw [loseTiming_of_none h, if_pos h]
    exact ⟨dropCell_frame p (RegsAndPorts.refl s), onlyFields_dropCell (onlyFields.refl _ s), fget_dropCell p s,
      ⟨true, by rw [port_dropCell_same, ← h]⟩, fun j hj => port_dropCell_other hj s⟩
  · rw [loseTiming_of_some h, if_neg h]
    refine ⟨dropCell_frame p (dropCell_frame p ((RegsAndPorts.refl s).setPort _ _)), onlyFields_dropCell (onlyFields_dropCell ?_), ?_,
      ⟨true, ?_⟩, fun j hj => ?_⟩
    · exact (onlyFields.refl _ s).congr rfl
    · rw [fget_dropCell, fget_dropCell, fget_setPort]
      omega
    · rw [port_dropCell_same, port_dropCell_same, port_setPort_same]
    · rw [port_dropCell_other hj, port_dropCell_other hj, port_setPort_other hj]

/-! ### A cell is received (R159, R160) -/

theorem badHeader_eq_false_iff (h : BitVec 2) : badHeader h = false ↔ h = 1 ∨ h = 2 := by revert h; decide

theorem badHeader_eq_true_iff (h : BitVec 2) : badHeader h = true ↔ h = 0 ∨ h = 3 := by revert h; decide

/-- The lanes with an invalid header have counted it. -/
def headersCounted (p : Nat) (c : CellIn) (s : State) : State :=
  onlyIf (badHeader c.hs) (fcount LNK_PLANE_LS p 1) (onlyIf (badHeader c.h1) (fcount LNK_PLANE_L1 p 1)
    (onlyIf (badHeader c.h0) (fcount LNK_PLANE_L0 p 1) s))

theorem RegsAndPorts.onlyIf_fcount {s t : State} (h : RegsAndPorts s t) (b : Bool) (F : Fld) (u n : Nat) :
    RegsAndPorts s (onlyIf b (Machine.fcount F u n) t) := by
  cases b
  · exact h
  · exact h.fcount F u n

theorem onlyFields.onlyIf_fcount {fs : List (Fld × Nat)} {s t : State} (h : onlyFields fs s t) (b : Bool) {F : Fld} {u : Nat} (n : Nat)
    (hm : (F, u) ∈ fs) : onlyFields fs s (onlyIf b (Machine.fcount F u n) t) := by
  cases b
  · exact h
  · exact h.fcount n hm

@[simp] theorem port_onlyIf_fcount (j : Nat) (b : Bool) (F : Fld) (u n : Nat) (s : State) : port j (onlyIf b (fcount F u n) s) = port j s := by
  cases b <;> rfl

/-- The counts of invalid headers of a port. -/
def headerFields (p : Nat) : List (Fld × Nat) := [(LNK_PLANE_L0, p), (LNK_PLANE_L1, p), (LNK_PLANE_LS, p)]

theorem headersCounted_frame (p : Nat) (c : CellIn) (s : State) : RegsAndPorts s (headersCounted p c s) :=
  (((RegsAndPorts.refl s).onlyIf_fcount _ _ _ _).onlyIf_fcount _ _ _ _).onlyIf_fcount _ _ _ _

theorem onlyFields_headersCounted (p : Nat) (c : CellIn) (s : State) : onlyFields (headerFields p) s (headersCounted p c s) :=
  (((onlyFields.refl (headerFields p) s).onlyIf_fcount _ 1 (by simp [headerFields])).onlyIf_fcount _ 1 (by simp [headerFields])).onlyIf_fcount
    _ 1 (by simp [headerFields])

@[simp] theorem port_headersCounted (j p : Nat) (c : CellIn) (s : State) : port j (headersCounted p c s) = port j s := by
  simp only [headersCounted, port_onlyIf_fcount]

/-- What becomes of a cell by the lanes that are bad, once the headers and the cells in a row are counted. -/
def cellJudged (p : Nat) (c : CellIn) (bad0 bad1 bads : Bool) (s : State) : State :=
  match bad0, bad1, bads with
  | false, false, false =>
    if c.h0 = c.h1 ∧ c.h0 = c.hs ∧ c.ds = c.d0 ^^^ c.d1 then takeCell p (c.h0 == 1) (c.d0.toNat + 2 ^ 64 * c.d1.toNat) c.fine s
    else notTaken p s
  | true, false, false =>
    if c.h1 = c.hs then takeCell p (c.h1 == 1) ((c.d1 ^^^ c.ds).toNat + 2 ^ 64 * c.d1.toNat) c.fine (fcount LNK_PRECON_COUNT p 1 s)
    else notTaken p s
  | false, true, false =>
    if c.h0 = c.hs then takeCell p (c.h0 == 1) (c.d0.toNat + 2 ^ 64 * (c.d0 ^^^ c.ds).toNat) c.fine (fcount LNK_PRECON_COUNT p 1 s)
    else notTaken p s
  | false, false, true =>
    if c.h0 = c.h1 then takeCell p (c.h0 == 1) (c.d0.toNat + 2 ^ 64 * c.d1.toNat) c.fine (fcount LNK_PRECON_COUNT p 1 s)
    else notTaken p s
  | _, _, _ => notTaken p s

/-- On a port whose lanes are all in service a lane is bad by its header alone. -/
theorem execCellReceive_of_lanes {p : Fin 4} {s : State} (hon : portState p s ≠ 0) (hlanes : ∀ l < 3, fbitAt LNK_PSTAT_LANE_OK p l s = true)
    (c : CellIn) : execCellReceive p c s = .next (cellJudged p c (badHeader c.h0) (badHeader c.h1) (badHeader c.hs)
      (laneCells p (cellAgrees c) (headersCounted p c s))) := by
  have hok : ∀ l < 3, fbitAt LNK_PSTAT_LANE_OK p l (headersCounted p c s) = true := fun l hl => by
    rw [fbitAt, (onlyFields_headersCounted p c s).reg rfl]
    exact hlanes l hl
  have hbad : ∀ (b : Bool), ∀ l < 3, (b || !fbitAt LNK_PSTAT_LANE_OK p l (headersCounted p c s)) = b := fun b l hl => by
    rw [hok l hl, Bool.not_true, Bool.or_false]
  refine (if_neg hon).trans ?_
  show (match badHeader c.h0 || !fbitAt LNK_PSTAT_LANE_OK p 0 (headersCounted p c s),
      badHeader c.h1 || !fbitAt LNK_PSTAT_LANE_OK p 1 (headersCounted p c s),
      badHeader c.hs || !fbitAt LNK_PSTAT_LANE_OK p 2 (headersCounted p c s) with
    | false, false, false => Host.Outcome.next _
    | true, false, false => .next _
    | false, true, false => .next _
    | false, false, true => .next _
    | _, _, _ => .next _) = _
  rw [hbad _ 0 (by decide), hbad _ 1 (by decide), hbad _ 2 (by decide)]
  unfold cellJudged
  split <;> rfl

section
variable {p : Fin 4} {s : State} {c : CellIn}

theorem cellReceive_of_good (hon : portState p s ≠ 0) (hlanes : ∀ l < 3, fbitAt LNK_PSTAT_LANE_OK p l s = true)
    (h0 : c.h0 = 1 ∨ c.h0 = 2) (h1 : c.h1 = c.h0) (hs : c.hs = c.h0) (hd : c.ds = c.d0 ^^^ c.d1) :
    exec (.cellReceive p c) s = .next (takeCell p (c.h0 == 1) (c.d0.toNat + 2 ^ 64 * c.d1.toNat) c.fine (laneCells p true s)) := by
  have hvalid : badHeader c.h0 = false := (badHeader_eq_false_iff _).mpr h0
  have hagree : cellAgrees c = true := by simp [cellAgrees, hvalid, h1, hs, hd]
  refine (execCellReceive_of_lanes hon hlanes c).trans ?_
  simp only [h1, hs, hvalid, hagree, headersCounted, onlyIf, cellJudged, Bool.false_eq_true, if_false]
  rw [if_pos ⟨trivial, trivial, hd⟩]

theorem cellAgrees_of_bad (h : badHeader c.h0 = true ∨ badHeader c.h1 = true ∨ badHeader c.hs = true) : cellAgrees c = false := by
  refine Bool.eq_false_iff.mpr fun hagree => ?_
  simp only [cellAgrees, Bool.and_eq_true, Bool.not_eq_true', beq_iff_eq] at hagree
  obtain ⟨⟨⟨h0, h1⟩, hs⟩, -⟩ := hagree
  rw [← h1, ← hs, h0] at h
  simp at h

theorem cellReceive_rebuilds_lane0 (hon : portState p s ≠ 0) (hlanes : ∀ l < 3, fbitAt LNK_PSTAT_LANE_OK p l s = true)
    (h0 : c.h0 = 0 ∨ c.h0 = 3) (h1 : c.h1 = 1 ∨ c.h1 = 2) (hs : c.hs = c.h1) : exec (.cellReceive p c) s
      = .next (takeCell p (c.h1 == 1) ((c.d1 ^^^ c.ds).toNat + 2 ^ 64 * c.d1.toNat) c.fine
        (fcount LNK_PRECON_COUNT p 1 (laneCells p false (fcount LNK_PLANE_L0 p 1 s)))) := by
  have hbad : badHeader c.h0 = true := (badHeader_eq_true_iff _).mpr h0
  have hvalid : badHeader c.h1 = false := (badHeader_eq_false_iff _).mpr h1
  refine (execCellReceive_of_lanes hon hlanes c).trans ?_
  simp only [cellAgrees_of_bad (.inl hbad), hs, hbad, hvalid, headersCounted, onlyIf, cellJudged, Bool.false_eq_true, if_false, if_true]

theorem cellReceive_rebuilds_lane1 (hon : portState p s ≠ 0) (hlanes : ∀ l < 3, fbitAt LNK_PSTAT_LANE_OK p l s = true)
    (h1 : c.h1 = 0 ∨ c.h1 = 3) (h0 : c.h0 = 1 ∨ c.h0 = 2) (hs : c.hs = c.h0) : exec (.cellReceive p c) s
      = .next (takeCell p (c.h0 == 1) (c.d0.toNat + 2 ^ 64 * (c.d0 ^^^ c.ds).toNat) c.fine
        (fcount LNK_PRECON_COUNT p 1 (laneCells p false (fcount LNK_PLANE_L1 p 1 s)))) := by
  have hbad : badHeader c.h1 = true := (badHeader_eq_true_iff _).mpr h1
  have hvalid : badHeader c.h0 = false := (badHeader_eq_false_iff _).mpr h0
  refine (execCellReceive_of_lanes hon hlanes c).trans ?_
  simp only [cellAgrees_of_bad (.inr (.inl hbad)), hs, hbad, hvalid, headersCounted, onlyIf, cellJudged, Bool.false_eq_true, if_false, if_true]

theorem cellReceive_without_parity (hon : portState p s ≠ 0) (hlanes : ∀ l < 3, fbitAt LNK_PSTAT_LANE_OK p l s = true)
    (hs : c.hs = 0 ∨ c.hs = 3) (h0 : c.h0 = 1 ∨ c.h0 = 2) (h1 : c.h1 = c.h0) : exec (.cellReceive p c) s
      = .next (takeCell p (c.h0 == 1) (c.d0.toNat + 2 ^ 64 * c.d1.toNat) c.fine
        (fcount LNK_PRECON_COUNT p 1 (laneCells p false (fcount LNK_PLANE_LS p 1 s)))) := by
  have hbad : badHeader c.hs = true := (badHeader_eq_true_iff _).mpr hs
  have hvalid : badHeader c.h0 = false := (badHeader_eq_false_iff _).mpr h0
  refine (execCellReceive_of_lanes hon hlanes c).trans ?_
  simp only [cellAgrees_of_bad (.inr (.inr hbad)), h1, hbad, hvalid, headersCounted, onlyIf, cellJudged, Bool.false_eq_true, if_false, if_true]

/-- A cell that is not to be used: valid headers that differ or wrong parity, or two lanes bad. -/
def cellUnusable (c : CellIn) : Prop :=
  ((c.h0 = 1 ∨ c.h0 = 2) ∧ (c.h1 = 1 ∨ c.h1 = 2) ∧ (c.hs = 1 ∨ c.hs = 2) ∧ ¬(c.h1 = c.h0 ∧ c.hs = c.h0 ∧ c.ds = c.d0 ^^^ c.d1))
    ∨ ((c.h0 = 0 ∨ c.h0 = 3) ∧ (c.h1 = 0 ∨ c.h1 = 3))

theorem execCellReceive_of_unusable (hon : portState p s ≠ 0) (hlanes : ∀ l < 3, fbitAt LNK_PSTAT_LANE_OK p l s = true)
    (h : cellUnusable c) : execCellReceive p c s = .next (notTaken p (laneCells p false (headersCounted p c s))) := by
  rw [execCellReceive_of_lanes hon hlanes]
  simp only [cellUnusable, ← badHeader_eq_false_iff, ← badHeader_eq_true_iff] at h
  rcases h with ⟨h0, h1, hs, hne⟩ | ⟨h0, h1⟩
  · have hdiffer : ¬(c.h0 = c.h1 ∧ c.h0 = c.hs ∧ c.ds = c.d0 ^^^ c.d1) := fun ⟨e1, es, ed⟩ => hne ⟨e1.symm, es.symm, ed⟩
    have hagree : cellAgrees c = false := by
      refine Bool.eq_false_iff.mpr fun hagree => hdiffer ?_
      simpa [cellAgrees, h0, and_assoc] using hagree
    rw [h0, h1, hs, hagree]
    exact congrArg Host.Outcome.next (if_neg hdiffer)
  · rw [cellAgrees_of_bad (.inl h0), h0, h1]
    cases badHeader c.hs <;> rfl

theorem cellReceive_of_unusable (hon : portState p s ≠ 0) (hlanes : ∀ l < 3, fbitAt LNK_PSTAT_LANE_OK p l s = true)
    (h : cellUnusable c) : completes (.cellReceive p c) s (fun t => t = { s with regs := t.regs, ports := t.ports }
      ∧ fget LNK_PDROP_COUNT p t = min (fget LNK_PDROP_COUNT p s + (if (port p s).timing = none then 1 else 2)) (2 ^ 32 - 1)
      ∧ (port p t).timing = none ∧ (∀ l < 3, sget 0 (port p t).agreed l = 0) ∧ (∀ j, j ≠ p.val → port j t = port j s)
      ∧ onlyFields [(LNK_PDROP_COUNT, p), (LNK_PLANE_L0, p), (LNK_PLANE_L1, p), (LNK_PLANE_LS, p)] s t) := by
  refine ⟨_, execCellReceive_of_unusable hon hlanes h, ?_⟩
  have hheads := onlyFields_headersCounted p c s
  have hlaned := laneCells_counted p false (headersCounted p c s)
  have hdropped := notTaken_dropped p (laneCells p false (headersCounted p c s))
  have hframe : RegsAndPorts s (laneCells p false (headersCounted p c s)) := by
    rw [laneCells_bad]
    exact (((headersCounted_frame p c s).setPort _ _).setPort _ _).setPort _ _
  have hport : port p (laneCells p false (headersCounted p c s))
      = { port p s with agreed := sset 0 (sset 0 (sset 0 (port p s).agreed 0 0) 1 0) 2 0 } := by
    simp only [laneCells_bad, setAgreed, port_setPort_same, port_headersCounted]
  have hmid : onlyFields (headerFields p) s (laneCells p false (headersCounted p c s)) := hheads.trans (hlaned.fields.mono (by simp))
  obtain ⟨b, hheld⟩ := hdropped.held
  have hdrop := hdropped.count
  rw [hport, hmid.reg rfl] at hdrop
  refine ⟨?_, hdrop, by rw [hheld], fun l hl => ?_, fun j hj => ?_, ?_⟩
  · obtain ⟨r, m, hm⟩ := hframe
    obtain ⟨r', m', hm'⟩ := hdropped.frame
    rw [hm', hm]
  · rw [hheld, hport]
    simp only [sget_sset]
    interval_cases l <;> rfl
  · rw [hdropped.others j hj, hlaned.others j hj, port_headersCounted]
  · exact (hmid.mono (by simp [headerFields])).trans (hdropped.fields.mono (by simp))

end

/-! ### A cell is taken (R165) -/

/-- What a control cell of a TYPE other than GEOM does where no TIMING cell waits. -/
def controlTaken (p kind v fine : Nat) (s : State) : State :=
  match kind with
  | 0 => s
  | 1 => setPort p { port p s with timing := some (timingCell v (fineNow fine s)) } s
  | 3 => dlyReq p (bits v 15 8) fine s
  | 4 => dlyResp p (bits v 15 8) (bits v 63 32) fine s
  | 5 => hello p (bits v 9 8) (bits v 49 32) s
  | _ => dropCell p s

section
variable {p : Fin 4} {s : State} (h : (port p s).timing = none) (v : BitVec 128) (f : Fin 32)
include h

theorem takeCell_data : .next (takeCell p true v.toNat 0 s) = exec (.dataCellReceive p v) s := by
  show _ = Host.Outcome.next (dataCell p v.toNat 0 s)
  simp only [takeCell, loseTiming_of_none h, Bool.not_true, Bool.false_and, Bool.false_eq_true, if_false, if_true]

theorem takeCell_of_control (hk : v.toNat % 256 ≠ 2) : takeCell p false v.toNat f s = controlTaken p (v.toNat % 256) v.toNat f s := by
  simp only [takeCell, loseTiming_of_none h, Bool.not_false, Bool.true_and, beq_iff_eq, hk, Bool.false_eq_true, if_false]
  rfl

theorem takeCell_idle (hk : v.toNat % 256 = 0) : takeCell p false v.toNat f s = s := by
  rw [takeCell_of_control h v f (by omega), hk]
  rfl

theorem takeCell_dlyReq (hk : v.toNat % 256 = 3) :
    .next (takeCell p false v.toNat f s) = exec (.dlyReqReceive p (BitVec.ofNat 8 (v.toNat / 2 ^ 8)) f) s := by
  rw [takeCell_of_control h v f (by omega), hk]
  rfl

theorem takeCell_dlyResp (hk : v.toNat % 256 = 4) : .next (takeCell p false v.toNat f s)
    = exec (.dlyRespReceive p (BitVec.ofNat 8 (v.toNat / 2 ^ 8)) (BitVec.ofNat 32 (v.toNat / 2 ^ 32)) f) s := by
  rw [takeCell_of_control h v f (by omega), hk]
  rfl

theorem takeCell_hello (hk : v.toNat % 256 = 5) : .next (takeCell p false v.toNat f s)
    = exec (.helloReceive p (Fin.ofNat 4 (v.toNat / 2 ^ 8)) (BitVec.ofNat 18 (v.toNat / 2 ^ 32))) s := by
  rw [takeCell_of_control h v f (by omega), hk]
  rfl

end

/-! ### A timing pair arrives (R177 to R180) -/

/-- What a phase measurement moves: registers, marks, reports and the sweep's own state, but neither its mode nor the state of a port. -/
structure PhaseMoves (s t : State) : Prop where
  frame : ∃ r h w f, t = { s with regs := r, hits := h, swp := w, flt := f }
  mode : t.swp.mode = s.swp.mode
  state : ∀ p, portState p t = portState p s

section
variable {s t : State}

theorem PhaseMoves.refl (s : State) : PhaseMoves s s := ⟨⟨_, _, _, _, rfl⟩, rfl, fun _ => rfl⟩

theorem PhaseMoves.trans {u : State} (h : PhaseMoves s t) (h' : PhaseMoves t u) : PhaseMoves s u := by
  obtain ⟨⟨r, l, w, f, rfl⟩, hmode, hstate⟩ := h
  obtain ⟨⟨r', l', w', f', rfl⟩, hmode', hstate'⟩ := h'
  exact ⟨⟨_, _, _, _, rfl⟩, hmode'.trans hmode, fun p => (hstate' p).trans (hstate p)⟩

theorem PhaseMoves.fset (h : PhaseMoves s t) {F : Fld} (hF : F.id ≠ LNK_PSTAT_STATE.id) (u v : Nat) : PhaseMoves s (fset F u v t) :=
  h.trans ⟨⟨_, _, _, _, rfl⟩, rfl, fun _ => fget_fset_other _ _ (.inl hF)⟩

theorem PhaseMoves.fon (h : PhaseMoves s t) {F : Fld} (hF : F.id ≠ LNK_PSTAT_STATE.id) (u : Nat) : PhaseMoves s (fon F u t) := by
  refine h.trans ⟨?_, by rw [fon_swp], fun _ => fget_fon_other _ (.inl hF)⟩
  rw [fon_eq]
  exact ⟨_, _, _, _, rfl⟩

theorem PhaseMoves.setSwp (h : PhaseMoves s t) {w : Sweep} (hw : w.mode = t.swp.mode) : PhaseMoves s { t with swp := w } :=
  h.trans ⟨⟨_, _, _, _, rfl⟩, hw, fun _ => rfl⟩

theorem PhaseMoves.syncCounts (h : PhaseMoves s t) (m n : Nat) : PhaseMoves s (syncCounts m n t) := h.setSwp rfl

theorem PhaseMoves.report (h : PhaseMoves s t) (src i0 i1 : Nat) : PhaseMoves s (report src i0 i1 t) :=
  h.trans ⟨⟨_, _, _, _, rfl⟩, rfl, fun _ => rfl⟩

theorem PhaseMoves.ite {u : State} (c : Prop) [Decidable c] (h : PhaseMoves s t) (h' : PhaseMoves s u) : PhaseMoves s (if c then t else u) := by
  split
  · exact h
  · exact h'

theorem PhaseMoves.syncTo (h : PhaseMoves s t) (n : Nat) : PhaseMoves s (syncTo n t) := by
  have hset : PhaseMoves s (Machine.fset SWP_STATUS_STATE 0 n t) := h.fset (by decide) 0 n
  exact .ite _ h (.ite _ (hset.report _ _ _) hset)

end

theorem measure_moves (m : Int) (step : Bool) (s : State) : PhaseMoves s (measure m step s) := by
  unfold measure
  dsimp only
  generalize ht : fset SWP_PHASE_ERR_ERR 0 (word m) { s with swp := { s.swp with measured := true, missing := 0, phase := m } } = t
  have hphase : PhaseMoves s t := by
    rw [← ht]
    refine PhaseMoves.fset ?_ (by decide) 0 (word m)
    exact (PhaseMoves.refl s).setSwp rfl
  refine .ite _ (.ite _ (((hphase.fon (by decide) 0).syncTo 3).syncCounts 0 0) ?_) (.refl s)
  split
  · exact .ite _ ((hphase.syncTo 2).syncCounts 0 0) (hphase.syncCounts _ _)
  · exact .ite _ ((hphase.syncTo 1).syncCounts 0 0) (hphase.syncCounts _ _)
  · exact .ite _ hphase ((hphase.syncTo 1).syncCounts _ _)
  · exact hphase

theorem phaseMeasure_moves (p : Nat) (w : TPair) (s : State) : PhaseMoves s (phaseMeasure p w s) := by
  unfold phaseMeasure
  split
  · refine PhaseMoves.trans ?_ (measure_moves _ _ _)
    exact (PhaseMoves.refl s).setSwp rfl
  · exact PhaseMoves.refl s

theorem phaseMeasure_of_no_follower {s : State} (h : s.swp.mode ≠ 2) (p : Nat) (w : TPair) : phaseMeasure p w s = s :=
  if_neg fun hf => h hf.2.2

theorem relayPair_of_not {s : State} {w : TPair} (h : s.swp.mode ≠ 2 ∨ w.master ≠ s.link.master) (p : Nat) : relayPair p w s = s :=
  if_pos (by tauto)

/-- Port `p` keeps the pair that has arrived on it. -/
def pairKept (p : Nat) (w : TPair) (s : State) : State := setPort p { port p s with pair := some w } s

theorem timingPair_of_down {p : Nat} {s : State} (h : portUp p s = false) (w : TPair) : timingPair p w s = s := if_neg (by simp [h])

theorem timingPair_of_other {p : Nat} {s : State} {w : TPair} (hup : portUp p s = true) (hm : w.master ≠ s.link.master) : timingPair p w s = s := by
  have hother : (w.master == s.link.master) = false := beq_false_of_ne hm
  simp only [timingPair, hup, hother, if_true, Bool.false_eq_true, if_false]
  exact relayPair_of_not (.inr hm) p

theorem timingPair_of_mine {p : Nat} {s : State} {w : TPair} (hup : portUp p s = true) (hm : w.master = s.link.master) :
    timingPair p w s = relayPair p w (phaseMeasure p w (pairKept p w s)) := by
  simp only [timingPair, hup, hm, beq_self_eq_true, if_true]
  rfl

theorem relayOn_portsOnly {s t : State} (h : PortsOnly s t) (p q : Nat) (w : TPair) : PortsOnly s (relayOn p q w t) := by
  unfold relayOn
  dsimp only
  split
  · exact h
  · exact h.setPort _ _

theorem port_relayOn_other {p j : Nat} (hj : j ≠ p) (q : Nat) (w : TPair) (s : State) : port j (relayOn p q w s) = port j s := by
  unfold relayOn
  dsimp only
  split
  · rfl
  · exact port_setPort_other hj _ s

theorem relayOn_of_free {p : Nat} {s : State} (hup : portUp p s = true) (hfree : (port p s).relayed = false) (q : Nat) (w : TPair) :
    relayOn p q w s = setPort p { port p s with relay := some ⟨q, w⟩, relayed := true } s := by
  simp only [relayOn, hfree, hup, Bool.not_true, Bool.or_false, Bool.false_eq_true, if_false]

/-- The pair as a follower sends it on round its ring. -/
def ringPairOn (w : TPair) : TPair := { w with hops := w.hops + 1, rhops := w.rhops - 1 }

/-- The ring's first pair of the frame has been seen. -/
def ringNoted (s : State) : State := { s with link := { s.link with ringPair := true } }

/-- Port 1 has a pair to relay that came on port 0. -/
def relayedRound (w : TPair) (s : State) : State :=
  setPort 1 { port 1 s with relay := some ⟨0, ringPairOn w⟩, relayed := true } (ringNoted s)

/-- A pair that came on port 0 is to leave on port 1; the first one is relayed on a gateway's tier ports too. -/
theorem relayPair_of_ring {s : State} {w : TPair} (hmode : s.swp.mode = 2) (hm : w.master = s.link.master) (hhops : w.hops < 510)
    (hround : 1 < w.rhops) (hup : portUp 1 s = true) (hfree : (port 1 s).relayed = false) :
    relayPair 0 w s = onlyIf (!s.link.ringPair && gateway (relayedRound w s))
      (fun t => relayOn 3 0 (ringPairOn w) (relayOn 2 0 (ringPairOn w) t)) (relayedRound w s) := by
  have hgo : ¬(s.swp.mode ≠ 2 ∨ w.master ≠ s.link.master ∨ 510 ≤ w.hops) := by simp [hmode, hm, hhops]
  have hleft : 0 < w.rhops - 1 := by omega
  have hup' : portUp 1 (ringNoted s) = true := hup
  have hfree' : (port 1 (ringNoted s)).relayed = false := hfree
  have hring : relayOn 1 0 (ringPairOn w) (ringNoted s) = relayedRound w s := relayOn_of_free hup' hfree' 0 (ringPairOn w)
  rw [← hring]
  unfold relayPair
  rw [if_neg hgo]
  dsimp only
  rw [if_pos (by decide), if_pos hleft]
  rfl

theorem onlyIf_cases {P : State → Prop} (b : Bool) (f : State → State) {s : State} (h : P s) (hf : P (f s)) : P (onlyIf b f s) := by
  cases b
  · exact h
  · exact hf

/-- What a relay round the ring leaves: ports 0 and 1 are as after the relay itself, and only ports have changed beside. -/
theorem relayPair_of_ring_ports {s : State} {w : TPair} (hmode : s.swp.mode = 2) (hm : w.master = s.link.master) (hhops : w.hops < 510)
    (hround : 1 < w.rhops) (hup : portUp 1 s = true) (hfree : (port 1 s).relayed = false) :
    PortsOnly (ringNoted s) (relayPair 0 w s) ∧ port 0 (relayPair 0 w s) = port 0 s
      ∧ port 1 (relayPair 0 w s) = { port 1 s with relay := some ⟨0, ringPairOn w⟩, relayed := true } := by
  have honly : PortsOnly (ringNoted s) (relayedRound w s) := (PortsOnly.refl _).setPort _ _
  have hzero : port 0 (relayedRound w s) = port 0 s := port_setPort_other (by decide) _ _
  have hone : port 1 (relayedRound w s) = { port 1 s with relay := some ⟨0, ringPairOn w⟩, relayed := true } := port_setPort_same _ _ _
  rw [relayPair_of_ring hmode hm hhops hround hup hfree]
  refine onlyIf_cases (P := fun u => PortsOnly (ringNoted s) u ∧ port 0 u = port 0 s
    ∧ port 1 u = { port 1 s with relay := some ⟨0, ringPairOn w⟩, relayed := true }) _ _ ⟨honly, hzero, hone⟩
    ⟨relayOn_portsOnly (relayOn_portsOnly honly _ _ _) _ _ _, ?_, ?_⟩
  · rw [port_relayOn_other (by decide), port_relayOn_other (by decide), hzero]
  · rw [port_relayOn_other (by decide), port_relayOn_other (by decide), hone]

theorem timingPairReceive_kept {s : State} (p : Fin 4) (a g : BitVec 128) (f : Fin 32) {w : TPair}
    (hw : w = withGeom (timingCell a.toNat (fineNow f s)) g.toNat) (hup : portUp p s = true) (hmode : s.swp.mode ≠ 2)
    (hm : w.master = s.link.master) : completes (.timingPairReceive p a g f) s (fun t => t = { s with ports := t.ports }
      ∧ port p t = { port p s with pair := some w } ∧ ∀ j, j ≠ p.val → port j t = port j s) := by
  subst hw
  have hmode' : (pairKept p (withGeom (timingCell a.toNat (fineNow f s)) g.toNat) s).swp.mode ≠ 2 := hmode
  refine ⟨_, congrArg Host.Outcome.next (timingPair_of_mine hup hm), ?_⟩
  rw [phaseMeasure_of_no_follower hmode', relayPair_of_not (.inl hmode')]
  exact ⟨rfl, port_setPort_same _ _ _, fun j hj => port_setPort_other hj _ _⟩

theorem timingPairReceive_relayed {s : State} (a g : BitVec 128) (f : Fin 32) {w : TPair}
    (hw : w = withGeom (timingCell a.toNat (fineNow f s)) g.toNat) (hup : portUp 0 s = true) (hmode : s.swp.mode = 2)
    (hm : w.master = s.link.master) (hhops : w.hops < 510) (hround : 1 < w.rhops) (hout : portUp 1 s = true)
    (hfree : (port 1 s).relayed = false) : completes (.timingPairReceive 0 a g f) s (fun t => (port 0 t).pair = some w ∧ t.link.ringPair = true
      ∧ t.mem = s.mem ∧ t.ctx = s.ctx ∧ (port 1 t).relay = some ⟨0, { w with hops := w.hops + 1, rhops := w.rhops - 1 }⟩
      ∧ (port 1 t).relayed = true) := by
  subst hw
  generalize hv : withGeom (timingCell a.toNat (fineNow f s)) g.toNat = w at hm hhops hround ⊢
  obtain ⟨⟨r, l, x, e, hframe⟩, hmode', hstate⟩ := phaseMeasure_moves 0 w (pairKept 0 w s)
  have hports : (phaseMeasure 0 w (pairKept 0 w s)).ports = (pairKept 0 w s).ports := by rw [hframe]
  have hlink : (phaseMeasure 0 w (pairKept 0 w s)).link = s.link := by
    rw [hframe]
    rfl
  have hmem : (phaseMeasure 0 w (pairKept 0 w s)).mem = s.mem ∧ (phaseMeasure 0 w (pairKept 0 w s)).ctx = s.ctx := by
    rw [hframe]
    exact ⟨rfl, rfl⟩
  have hzero : port 0 (phaseMeasure 0 w (pairKept 0 w s)) = { port 0 s with pair := some w } :=
    (port_congr hports 0).trans (port_setPort_same _ _ _)
  have hone : port 1 (phaseMeasure 0 w (pairKept 0 w s)) = port 1 s := (port_congr hports 1).trans (port_setPort_other (by decide) _ _)
  have hup' : portUp 1 (phaseMeasure 0 w (pairKept 0 w s)) = true := by
    rw [portUp, hstate]
    exact hout
  obtain ⟨⟨m, hu⟩, huzero, huone⟩ := relayPair_of_ring_ports (hmode'.trans hmode) (hm.trans (congrArg LinkH.master hlink).symm) hhops hround
    hup' (by rw [hone, hfree])
  have hlast : timingPair 0 w s = relayPair 0 w (phaseMeasure 0 w (pairKept 0 w s)) := timingPair_of_mine hup hm
  refine ⟨_, congrArg Host.Outcome.next ((congrArg (fun w => timingPair 0 w s) hv).trans hlast), by rw [huzero, hzero], by rw [hu]; rfl,
    by rw [hu]; exact hmem.1, by rw [hu]; exact hmem.2, by rw [huone]; rfl, by rw [huone]⟩

/-! ### A cell is sent (R165, R168, R172) -/

/-- What a slot does that sends the cell `v` from port `p`, which holds `h` then. -/
theorem completes_of_sendCell {i : Instr} {s : State} {p v : Nat} {data : Bool} {h : PortH} (hexec : exec i s = .next (sendCell p v data h s)) :
    completes i s (fun t => t = { s with ports := t.ports }
      ∧ port p t = { h with out := (v, data), tx := if data then min (h.tx + 1) 65535 else h.tx } ∧ ∀ j, j ≠ p → port j t = port j s) :=
  ⟨_, hexec, rfl, port_setPort_same _ _ _, fun _ hj => port_setPort_other hj _ _⟩

theorem completes.imp {i : Instr} {s : State} {P Q : State → Prop} (h : completes i s P) (hPQ : ∀ t, P t → Q t) : completes i s Q := by
  obtain ⟨t, ht, hp⟩ := h
  exact ⟨t, ht, hPQ t hp⟩

/-- The HELLO cell of port `p`. -/
def helloWord (p : Nat) (s : State) : Nat := 5 + p * 2 ^ 8 + fget LNK_ADDR_ADDR 0 s * 2 ^ 32

/-- The TIMING cell that a master sends at `fine` of the present dot. -/
def ownTiming (fine : Nat) (s : State) : Nat :=
  timingWord 0 (ringSize s - 1) s.pos.frame (txPos s.pos.line s.pos.dot fine) (fget LNK_ADDR_ADDR 0 s)

section
variable {s : State} {p : Fin 4} {f : Fin 32}

theorem cellSlotSend_of_not_up (hon : portState p s ≠ 0) (hup : portUp p s = false) : exec (.cellSlotSend p f) s
    = .next (sendCell p (if (port p s).helloDue then helloWord p s else 0) false { port p s with helloDue := false } s) := by
  refine (if_neg hon).trans ((if_neg (by simp [hup])).trans ?_)
  cases hdue : (port p s).helloDue
  · have hsame : { port p s with helloDue := false } = port p s := by rw [← hdue]
    rw [hsame]
    rfl
  · rfl

theorem portState_of_up (hup : portUp p s = true) : portState p s ≠ 0 := by
  have htwo : portState p s = 2 := by simpa [portUp] using hup
  omega

theorem cellSlotSend_geom (hup : portUp p s = true) {v : Nat} (hg : (port p s).geom = some v) :
    exec (.cellSlotSend p f) s = .next (sendCell p v false { port p s with geom := none } s) := by
  refine (if_neg (portState_of_up hup)).trans ((if_pos hup).trans ?_)
  simp only [hg]

theorem cellSlotSend_pair (hup : portUp p s = true) (hg : (port p s).geom = none) (hpair : (port p s).pairDue = true) :
    exec (.cellSlotSend p f) s = .next (sendCell p (ownTiming f s) false
      { port p s with pairDue := false, geom := some (geomWord (geomEff s) 0) } s) := by
  refine (if_neg (portState_of_up hup)).trans ((if_pos hup).trans ?_)
  simp only [hg, hpair, if_true]
  rfl

section
variable (hup : portUp p s = true) (hg : (port p s).geom = none) (hpair : (port p s).pairDue = false) (hrelay : (port p s).relay = none)
include hup hg hpair hrelay

theorem cellSlotSend_hello (hhello : (port p s).helloDue = true) :
    exec (.cellSlotSend p f) s = .next (sendCell p (helloWord p s) false { port p s with helloDue := false } s) := by
  refine (if_neg (portState_of_up hup)).trans ((if_pos hup).trans ?_)
  simp only [hg, hpair, hrelay, hhello, Option.filter_none, Bool.false_eq_true, if_false, if_true]
  rfl

theorem cellSlotSend_request (hhello : (port p s).helloDue = false) (hreq : (port p s).reqDue = true) :
    exec (.cellSlotSend p f) s = .next (sendCell p (3 + (port p s).seq * 2 ^ 8) false
      { port p s with reqDue := false, req := some ((port p s).seq, fineNow f s), seq := ((port p s).seq + 1) % 256 } s) := by
  refine (if_neg (portState_of_up hup)).trans ((if_pos hup).trans ?_)
  simp only [hg, hpair, hrelay, hhello, hreq, Option.filter_none, Bool.false_eq_true, if_false, if_true]

section
variable (hhello : (port p s).helloDue = false) (hreq : (port p s).reqDue = false) (hresp : (port p s).resp = none)
include hhello hreq hresp

theorem cellSlotSend_forwarded {e : Nat × Nat} (he : (port p s).fwd.find? (fun e => decide ((e.1 : Int) ≤ fineNow f s)) = some e) :
    exec (.cellSlotSend p f) s = .next (sendCell p e.2 true { port p s with fwd := (port p s).fwd.erase e } s) := by
  refine (if_neg (portState_of_up hup)).trans ((if_pos hup).trans ?_)
  simp only [hg, hpair, hrelay, hhello, hreq, hresp, he, Option.filter_none, Bool.false_eq_true, if_false]

theorem cellSlotSend_idle (hfwd : (port p s).fwd = []) (hown : s.link.own = []) :
    exec (.cellSlotSend p f) s = .next (sendCell p 0 false (port p s) s) := by
  refine (if_neg (portState_of_up hup)).trans ((if_pos hup).trans ?_)
  simp only [hg, hpair, hrelay, hhello, hreq, hresp, hfwd, List.find?_nil, Option.filter_none, Bool.false_eq_true, if_false,
    execCellSlotSend.sendOwn, hown, popOwn]

end
end
end

/-! ### The statement -/

/-- Settles O34: a received cell by its headers and its lanes, the effect of what it carries, the lanes' cells in a row by induction over
the lanes, a timing pair kept or relayed, and the cell of a slot by its precedence. -/
theorem linkCells : Obligations.LinkCells := by
  unfold Obligations.LinkCells
  refine ⟨fun s p c hoff => ⟨if_pos hoff, fun f => if_pos hoff⟩, fun s p c hon hlanes => ?_, fun s p v f hnone => ?_, fun s p good => ?_,
    fun s p a g f hdown => ?_, fun s p a g f w hw hup => ?_, fun s p f hon hdown => ?_, fun s p f hup => ?_⟩
  · exact ⟨cellReceive_of_good hon hlanes, cellReceive_rebuilds_lane0 hon hlanes, cellReceive_rebuilds_lane1 hon hlanes,
      cellReceive_without_parity hon hlanes, cellReceive_of_unusable hon hlanes⟩
  · exact ⟨takeCell_data hnone v, takeCell_idle hnone v f, takeCell_dlyReq hnone v f, takeCell_dlyResp hnone v f, takeCell_hello hnone v f⟩
  · obtain ⟨⟨r, h, m, hframe⟩, hfields, hothers, hok⟩ := laneCells_counted p good s
    refine ⟨by rw [hframe], hfields, hothers, fun l hl => ?_⟩
    have hmem : l ∈ [0, 1, 2] := by
      simp
      omega
    simpa [hmem] using hok l hl
  · exact congrArg Host.Outcome.next (timingPair_of_down hdown _)
  · refine ⟨fun hm => ?_, timingPairReceive_kept p a g f hw hup, fun hmode hm hhops hp hround hout hfree => ?_⟩
    · subst hw
      exact congrArg Host.Outcome.next (timingPair_of_other hup hm)
    · subst hp
      exact timingPairReceive_relayed a g f hw hup hmode hm hhops hround hout hfree
  · exact (completes_of_sendCell (cellSlotSend_of_not_up hon hdown)).imp fun t ⟨ht, hport, hothers⟩ => ⟨ht, hothers, hport⟩
  · refine ⟨fun v hg => completes_of_sendCell (cellSlotSend_geom hup hg), fun hg hpair => ?_, fun hg hpair hrelay => ⟨fun hhello => ?_,
      fun hhello hreq => ?_, fun e he hhello hreq hresp => ?_, fun hhello hreq hresp hfwd hown => ?_⟩⟩
    · refine (completes_of_sendCell (cellSlotSend_pair hup hg hpair)).imp fun t ⟨ht, hport, hothers⟩ => ?_
      rw [hport]
      exact ⟨ht, rfl, rfl, rfl, hothers⟩
    · exact (completes_of_sendCell (cellSlotSend_hello hup hg hpair hrelay hhello)).imp fun t ⟨ht, hport, _⟩ => ⟨ht, hport⟩
    · exact (completes_of_sendCell (cellSlotSend_request hup hg hpair hrelay hhello hreq)).imp fun t ⟨ht, hport, _⟩ => ⟨ht, hport⟩
    · exact (completes_of_sendCell (cellSlotSend_forwarded hup hg hpair hrelay hhello hreq hresp he)).imp
        fun t ⟨ht, hport, _⟩ => ⟨ht, hport⟩
    · exact (completes_of_sendCell (cellSlotSend_idle hup hg hpair hrelay hhello hreq hresp hfwd hown)).imp
        fun t ⟨ht, hport, _⟩ => ⟨ht, hport⟩

end Sys2Proof.Machine

/-! The statement of the control instructions that fails, with a state that the model evaluates to the refuting outcome. -/
namespace Sys2Proof.Machine

open Sys2Proof

/-! ### A WAIT that two lines end -/

/-- Queues 0 and 1 target host core 0 and are not empty, and queue 1 is in its hold-off; host core 0 stands at its first instruction. -/
def twoLinesRise : State :=
  forAll [(PWR_DOMSTAT_ON, 0, 0x8000), (EVQ_CFG_IEN, 0, 1), (EVQ_TAIL_INDEX, 0, 5), (EVQ_CFG_IEN, 1, 1), (EVQ_TAIL_INDEX, 1, 5), (EVQ_HOLD_COUNT, 1, 3)]
    (fun e t => fset e.1 e.2.1 e.2.2 t) State.reset

theorem twoLinesRise_begins : begins ⟨.host 0, [], 0⟩ { alone := true } 1 twoLinesRise := by
  unfold begins
  decide +kernel

theorem twoLinesRise_wakes :
    waitEnds 0 twoLinesRise = false ∧ evcRuns twoLinesRise = true ∧ domainOn 15 twoLinesRise = true
    ∧ (∀ q, q < 8 → fbit EVQ_STAT_INT q twoLinesRise = false) ∧ fget EVQ_CFG_CORE 1 twoLinesRise = 0 ∧ fbit EVQ_CFG_IEN 1 twoLinesRise = true
    ∧ queueNonempty 1 twoLinesRise = true := by
  decide +kernel

/-- The line of queue 0 rises first and ends the WAIT, so that the hold-off of queue 1 stands (R267, R268). -/
theorem wait_leaves_second_line_down :
    fbit EVQ_STAT_INT 1 (ran (exec (.coreWait ⟨.host 0, [], 0⟩) twoLinesRise) twoLinesRise) = false := by
  decide +kernel

/-- Refutes O53, in WAIT's clause of a line that rises: it lets the line of every queue of the core rise, but the first to rise ends the
WAIT, and a later queue in its hold-off stays down. -/
theorem not_controlInstructions : ¬ Obligations.ControlInstructions := by
  intro h
  obtain ⟨hplain, -⟩ := h ⟨.host 0, [], 0⟩ twoLinesRise 0 rfl _ rfl
  obtain ⟨-, -, -, hwait, -⟩ := hplain rfl
  obtain ⟨hends, hevc, hdom, hint, hcore, hien, hfull⟩ := twoLinesRise_wakes
  obtain ⟨t, ht, hrose, -⟩ := hwait hends (by decide) hevc hdom hint 1 (by decide) hcore hien hfull twoLinesRise_begins
  have hdown := wait_leaves_second_line_down
  simp [ht, ran, hrose] at hdown

end Sys2Proof.Machine

/-! How a core carries out an instruction that begins: the rules of its registers, what stands between an instruction's own effect and the
next state. -/
namespace Sys2Proof.Machine

open Sys2Proof

/-! ### Cores: registers read after a change -/

@[simp] theorem cpu_setCpu_same (i : Nat) (k : Cpu) (s : State) : cpu i (setCpu i k s) = k := sget_sset_same _ _ _ _

theorem cpu_setCpu_other {i j : Nat} (hj : j ≠ i) (k : Cpu) (s : State) : cpu j (setCpu i k s) = cpu j s := sget_sset_other _ _ (Ne.symm hj) _

@[simp] theorem fget_setCpu (F : Fld) (w i : Nat) (k : Cpu) (s : State) : fget F w (setCpu i k s) = fget F w s := rfl

theorem setCpu_frame {r t : State} (h : t = { r with cpus := t.cpus }) (i : Nat) (k : Cpu) :
    setCpu i k t = { r with cpus := (setCpu i k t).cpus } :=
  congrArg (fun x : State => { x with cpus := sset Cpu.init t.cpus i k }) h

theorem gGet_lt (i n : Nat) (s : State) : gGet i n s < 2 ^ 32 := by
  unfold gGet
  split
  · decide
  · exact Nat.mod_lt _ (by decide)

@[simp] theorem gGet_mod (i n : Nat) (s : State) : gGet i n s % 2 ^ 32 = gGet i n s := Nat.mod_eq_of_lt (gGet_lt i n s)

@[simp] theorem gWord_toNat (i n : Nat) (s : State) : (gWord i n s).toNat = gGet i n s := by
  rw [gWord, BitVec.toNat_ofNat, gGet_mod]

theorem gGet_congr {i : Nat} {s t : State} (h : (cpu i t).g = (cpu i s).g) (n : Nat) : gGet i n t = gGet i n s := by rw [gGet, gGet, h]

theorem cGet_congr {i : Nat} {s t : State} (h : (cpu i t).c = (cpu i s).c) (n : Nat) : cGet i n t = cGet i n s := by rw [cGet, cGet, h]

/-! ### What an instruction does to its core -/

/-- Core `i` has gone from `s` to `t` by `f`, the other cores are as before, and the rest of the state is that of `r`. -/
structure CoreStep (i : Nat) (f : Cpu → Cpu) (s r t : State) : Prop where
  frame : t = { r with cpus := t.cpus }
  core : cpu i t = f (cpu i s)
  others : ∀ j, j ≠ i → cpu j t = cpu j s

namespace CoreStep

variable {i : Nat} {f : Cpu → Cpu} {s r t : State}

theorem refl (i : Nat) (s : State) : CoreStep i (fun k => k) s s s := ⟨rfl, rfl, fun _ _ => rfl⟩

/-- A change of the rest of the state. -/
theorem rest (h : CoreStep i f s r t) {q u : State} (hc : u.cpus = t.cpus) (hq : u = { q with cpus := u.cpus }) : CoreStep i f s q u where
  frame := hq
  core := by rw [← h.core, cpu, cpu, hc]
  others j hj := by rw [← h.others j hj, cpu, cpu, hc]

theorem setCpu (h : CoreStep i f s r t) (g : Cpu → Cpu) : CoreStep i (fun k => g (f k)) s r (setCpu i (g (cpu i t)) t) where
  frame := setCpu_frame h.frame _ _
  core := by rw [cpu_setCpu_same, h.core]
  others j hj := by rw [cpu_setCpu_other hj, h.others j hj]

theorem gSet (h : CoreStep i f s r t) (n v : Nat) : CoreStep i (fun k => withG n v (f k)) s r (gSet i n v t) := by
  by_cases hn : n = 0
  · simpa only [Machine.gSet, withG, if_pos hn] using h
  · simpa only [Machine.gSet, withG, if_neg hn] using h.setCpu (fun k => { k with g := sset 0 k.g n (v % 2 ^ 32) })

theorem cSet (h : CoreStep i f s r t) (n : Nat) (c : Cap) : CoreStep i (fun k => withC n c (f k)) s r (cSet i n c t) :=
  h.setCpu (fun k => { k with c := sset Cap.none k.c n c })

theorem jump (h : CoreStep i f s r t) (a : Nat) : CoreStep i (fun k => { f k with pc := a % 2 ^ 32 }) s r (jump i a t) :=
  h.setCpu (fun k => { k with pc := a % 2 ^ 32 })

theorem raise (h : CoreStep i f s r t) (x : Nat) : CoreStep i (fun k => flagged x (f k)) s r (raise i x t) := by
  by_cases hx : x = 0
  · simpa only [Machine.raise, flagged, hx, if_pos, Nat.or_zero] using h
  · simpa only [Machine.raise, flagged, if_neg hx] using h.setCpu (fun k => { k with fstat := k.fstat ||| x })

end CoreStep

/-- `f` neither reads nor writes what the issue of an instruction keeps of a core: the cycle from which it may begin the next, its issue
slots, the readiness of its registers, the cycles of FSTAT settings. -/
def IssueBlind (f : Cpu → Cpu) : Prop := ∀ (k : Cpu) (a : Nat) (b : Option (Nat × Iss × Bool)) (c : SMap Nat) (d : List (Nat × Nat)),
  f { k with free := a, slot := b, ready := c, sets := d } = { f k with free := a, slot := b, ready := c, sets := d }

namespace IssueBlind

variable {f g : Cpu → Cpu}

theorem id : IssueBlind (fun k => k) := fun _ _ _ _ _ => rfl

theorem comp (hg : IssueBlind g) (hf : IssueBlind f) : IssueBlind (fun k => g (f k)) := fun k a b c d =>
  (congrArg g (hf k a b c d)).trans (hg (f k) a b c d)

theorem withG (n v : Nat) : IssueBlind (withG n v) := fun k a b c d => by
  unfold Machine.withG
  split <;> rfl

theorem stepG (n x : Nat) : IssueBlind (stepG n x) := fun k a b c d => IssueBlind.withG n _ k a b c d

theorem withC (n : Nat) (v : Cap) : IssueBlind (withC n v) := fun _ _ _ _ _ => rfl

theorem flagged (x : Nat) : IssueBlind (flagged x) := fun _ _ _ _ _ => rfl

theorem arithHeld (host : Bool) (pc x b lat : Nat) : IssueBlind (arithHeld host pc x b lat) := fun k a _ c d => by
  unfold Machine.arithHeld
  split <;> rfl

theorem free (hf : IssueBlind f) (k : Cpu) : (f k).free = k.free := by
  have h := congrArg Cpu.free (hf k k.free k.slot k.ready k.sets)
  exact h

end IssueBlind

/-! ### An instruction begins -/

/-- The instruction of `size` bytes behind its prefixes that the core of `h` begins and that issues as `u` says. -/
def insAt (h : Hdr) (u : Iss) (size : Nat) (s : State) : Ins :=
  ⟨coreNum h.core, (cpu (coreNum h.core) s).pc, ((cpu (coreNum h.core) s).pc + h.pre.length + size) % 2 ^ 32,
    beginCycle (coreNum h.core) h.wait u s, h.pre⟩

/-- The state in which it acts: the core has gone on to the next instruction. -/
def afterIssue (h : Hdr) (u : Iss) (size : Nat) (s : State) : State :=
  advance (coreNum h.core) (((cpu (coreNum h.core) s).pc + h.pre.length + size) % 2 ^ 32) (beginCycle (coreNum h.core) h.wait u s) u s

/-- What the core makes of what the instruction did: the exception is taken, or its cycles are used. -/
def concluded (x : Ins) (u : Iss) (d : Did) : State :=
  match d.exc with
  | some e => takeException x.i e false (if d.after then x.next else x.pc) (x.b + d.at_) d.s
  | none => spend x.i x.b (if isHost x.i then d.hold else d.n) d.lat u.writes d.s

section
variable {h : Hdr} {u : Iss} {size : Nat} {s : State}

theorem cpu_afterIssue_other {j : Nat} (hj : j ≠ coreNum h.core) : cpu j (afterIssue h u size s) = cpu j s := cpu_setCpu_other hj _ _

theorem afterIssue_frame : afterIssue h u size s = { s with cpus := (afterIssue h u size s).cpus } := rfl

/-- The core as the statements speak of it, beside what the issue keeps. -/
theorem cpu_afterIssue : ∃ b d, cpu (coreNum h.core) (afterIssue h u size s)
    = { begun (beginCycle (coreNum h.core) h.wait u s) ((cpu (coreNum h.core) s).pc + h.pre.length + size) (cpu (coreNum h.core) s) with
        slot := b, sets := d } := ⟨_, _, cpu_setCpu_same _ _ _⟩

@[simp] theorem gGet_afterIssue (n : Nat) : gGet (coreNum h.core) n (afterIssue h u size s) = gGet (coreNum h.core) n s := by
  obtain ⟨b, d, hcpu⟩ := cpu_afterIssue (h := h) (u := u) (size := size) (s := s)
  exact gGet_congr (by rw [hcpu, begun]) n

@[simp] theorem cGet_afterIssue (n : Nat) : cGet (coreNum h.core) n (afterIssue h u size s) = cGet (coreNum h.core) n s := by
  obtain ⟨b, d, hcpu⟩ := cpu_afterIssue (h := h) (u := u) (size := size) (s := s)
  exact cGet_congr (by rw [hcpu, begun]) n

/-- Where an instruction begins, its effect alone decides: nothing waits, and nothing else stands at the boundary (R221, R245). -/
theorem runInst_of_begins {c : Code} (hb : begins h u size s) (hlen : codeLen c = size) (legal : Bool) (body : Ins → State → Did) :
    runInst c u h legal body s
      = .next (concluded (insAt h u size s) u (if legal then body (insAt h u size s) (afterIssue h u size s) else .fail excIllegal s)) := by
  obtain ⟨hruns, hwaits, htrap, hfault, hint, harith, hfetch⟩ := hb
  have hwaiting : takeWaiting (coreNum h.core) (cpu (coreNum h.core) s).pc (beginCycle (coreNum h.core) h.wait u s) s = none := by
    rw [takeWaiting, hfault, hint]
    rfl
  have hfirst : ∀ b lat other, arithFirst (coreNum h.core) b lat other s = false := fun b lat other => by rw [arithFirst, harith]; rfl
  subst hlen
  unfold runInst
  simp only [hruns, hwaits, htrap, hfetch, hwaiting, hfirst, Bool.not_true, Bool.false_eq_true, if_false]
  rw [concluded, insAt, afterIssue, Nat.add_assoc, wrap32]
  generalize (if legal = true then _ else _ : Did) = d
  cases d.exc <;> cases hentry : ((cpu (coreNum h.core) s).entry && !fbit EXC_STAT_IN_REFUGE (coreNum h.core) s) <;> rfl

/-- An encoding that the row refuses (R194). -/
theorem illegal_of_row {e : Instr} {c : Code} {legal : Bool} {body : Ins → State → Did} (hexec : exec e s = runInst c u h legal body s)
    (hlen : codeLen c = size) (hlegal : legal = false) : illegal e h u size s := fun hb => by
  rw [hexec, runInst_of_begins hb hlen, hlegal]
  rfl

/-- An instruction that raises an exception. -/
theorem runInst_of_fail {c : Code} {legal : Bool} {body : Ins → State → Did} {x : Exc} {t : State} (hb : begins h u size s)
    (hlen : codeLen c = size) (hlegal : legal = true) (hbody : body (insAt h u size s) (afterIssue h u size s) = .fail x t) :
    runInst c u h legal body s
      = .next (takeException (coreNum h.core) x false (cpu (coreNum h.core) s).pc (beginCycle (coreNum h.core) h.wait u s) t) := by
  rw [runInst_of_begins hb hlen, hlegal, if_pos rfl, hbody]
  rfl

theorem traps_of_fail {e : Instr} {c : Code} {legal : Bool} {body : Ins → State → Did} {x : Exc} (hexec : exec e s = runInst c u h legal body s)
    (hlen : codeLen c = size) (hlegal : legal = true)
    (hbody : body (insAt h u size s) (afterIssue h u size s) = .fail x (afterIssue h u size s)) :
    traps e h u size (cpu (coreNum h.core) s).pc x s := fun hb => by
  rw [hexec, runInst_of_fail hb hlen hlegal hbody]
  rfl

/-- An instruction that goes through: the state after it. -/
theorem carriesOut_of_done {e : Instr} {c : Code} {legal : Bool} {body : Ins → State → Did} {t : State} {n hold lat : Nat} {P : Nat → State → Prop}
    (hexec : exec e s = runInst c u h legal body s) (hlen : codeLen c = size) (hlegal : legal = true)
    (hbody : body (insAt h u size s) (afterIssue h u size s) = { s := t, n := n, hold := hold, lat := lat })
    (hP : P (beginCycle (coreNum h.core) h.wait u s) (spend (coreNum h.core) (beginCycle (coreNum h.core) h.wait u s)
      (if isHost (coreNum h.core) then hold else n) lat u.writes t)) : carriesOut e h u size s P := fun hb => by
  refine ⟨_, ?_, hP⟩
  rw [hexec, runInst_of_begins hb hlen, hlegal, if_pos rfl, hbody]
  rfl

/-! ### An instruction has been executed -/

theorem foldl_sset_of_mem {b x : Nat} {ws : List Nat} (hx : x ∈ ws) (m : SMap Nat) : sget 0 (ws.foldl (fun m r => sset 0 m r b) m) x = b := by
  induction ws using List.reverseRecOn with
  | nil => simp at hx
  | append_singleton ws w ih =>
    rw [List.foldl_append, List.foldl_cons, List.foldl_nil, sget_sset]
    split
    · rfl
    · next hw =>
      rcases List.mem_append.mp hx with hx | hx
      · exact ih hx
      · exact absurd (List.mem_singleton.mp hx).symm hw

/-- The use of an instruction's cycles, after what it did to its core: `g` is `f` beside the cycles of FSTAT settings and the cycle from which
the core is free, which the instruction's own count stands for. -/
theorem executed_of_spend {f g : Cpu → Cpu} {r t : State} {n hold lat m : Nat} (hf : IssueBlind f)
    (hstep : CoreStep (coreNum h.core) g (afterIssue h u size s) r t)
    (hg : g (cpu (coreNum h.core) (afterIssue h u size s)) = { f (cpu (coreNum h.core) (afterIssue h u size s)) with
      free := (cpu (coreNum h.core) t).free, sets := (cpu (coreNum h.core) t).sets })
    (hfree : max (cpu (coreNum h.core) t).free (beginCycle (coreNum h.core) h.wait u s + m)
      = max (cpu (coreNum h.core) s).free (beginCycle (coreNum h.core) h.wait u s + if isHost (coreNum h.core) then hold else n)) :
    executed h u size (beginCycle (coreNum h.core) h.wait u s) n hold lat f r s
      (spend (coreNum h.core) (beginCycle (coreNum h.core) h.wait u s) m lat u.writes t) := by
  obtain ⟨b, d, hcpu⟩ := cpu_afterIssue (h := h) (u := u) (size := size) (s := s)
  have hcore := hstep.core
  rw [hg, hcpu, hf _ _ b _ d] at hcore
  refine ⟨?_, fun j hj => ?_, ?_, fun hhost x hx hx0 => ?_⟩
  · exact setCpu_frame hstep.frame _ _
  · rw [spend, cpu_setCpu_other hj, hstep.others j hj, cpu_afterIssue_other hj]
  · rw [spend, cpu_setCpu_same, hfree, hcore]
  · rw [spend, cpu_setCpu_same, if_pos hhost]
    exact foldl_sset_of_mem (by simp [hx, hx0]) _

/-- An instruction that does `f` to its core, the cycles of FSTAT settings aside, and leaves the cycles to its count. -/
theorem executed_of_coreStep {f g : Cpu → Cpu} {r t : State} {n hold lat : Nat} (hf : IssueBlind f)
    (hstep : CoreStep (coreNum h.core) g (afterIssue h u size s) r t)
    (hg : g (cpu (coreNum h.core) (afterIssue h u size s)) = { f (cpu (coreNum h.core) (afterIssue h u size s)) with
      sets := (g (cpu (coreNum h.core) (afterIssue h u size s))).sets }) :
    executed h u size (beginCycle (coreNum h.core) h.wait u s) n hold lat f r s
      (spend (coreNum h.core) (beginCycle (coreNum h.core) h.wait u s) (if isHost (coreNum h.core) then hold else n) lat u.writes t) := by
  obtain ⟨b, d, hcpu⟩ := cpu_afterIssue (h := h) (u := u) (size := size) (s := s)
  have hfree : (cpu (coreNum h.core) t).free = (cpu (coreNum h.core) s).free := by rw [hstep.core, hg, hf.free, hcpu, begun]
  refine executed_of_spend hf hstep ?_ (by rw [hfree])
  rw [hstep.core, hg]

/-- An instruction that acts on its core alone. -/
theorem acts_of_coreStep {e : Instr} {c : Code} {legal : Bool} {body : Ins → State → Did} {t : State} {n hold lat : Nat} {f : Nat → Cpu → Cpu}
    (hexec : exec e s = runInst c u h legal body s) (hlen : codeLen c = size) (hlegal : legal = true)
    (hbody : body (insAt h u size s) (afterIssue h u size s) = { s := t, n := n, hold := hold, lat := lat })
    (hf : IssueBlind (f (beginCycle (coreNum h.core) h.wait u s)))
    (hstep : CoreStep (coreNum h.core) (f (beginCycle (coreNum h.core) h.wait u s)) (afterIssue h u size s) (afterIssue h u size s) t) :
    acts e h u size n hold lat s f :=
  carriesOut_of_done hexec hlen hlegal hbody (executed_of_coreStep hf (hstep.rest rfl hstep.frame) rfl)

/-! ### A result that raises FSTAT bits (R191, R250, R251) -/

/-- Bits set in cycle `c`, which a host core keeps. -/
theorem CoreStep.raiseAt {i : Nat} {f : Cpu → Cpu} {s r t : State} (hs : CoreStep i f s r t) (x c : Nat) :
    CoreStep i (fun k => { flagged x (f k) with sets := if x = 0 ∨ isHost i = false then (f k).sets else (f k).sets ++ [(c, x)] }) s r
      (raiseAt i x c t) := by
  by_cases hx : x = 0
  · simpa only [Machine.raiseAt, flagged, hx, if_pos, Nat.or_zero, true_or] using hs
  · cases hhost : isHost i with
    | false =>
      simp only [Machine.raiseAt, if_neg hx, hhost, Bool.not_false, if_true, or_true]
      exact hs.raise x
    | true =>
      simp only [Machine.raiseAt, if_neg hx, hhost, Bool.not_true, Bool.false_eq_true, if_false, Bool.true_eq_false, or_false]
      exact (hs.raise x).setCpu (fun k => { k with sets := k.sets ++ [(c, x)] })

theorem fctrl_afterIssue : (cpu (coreNum h.core) (afterIssue h u size s)).fctrl = (cpu (coreNum h.core) s).fctrl := by
  obtain ⟨b, d, hcpu⟩ := cpu_afterIssue (h := h) (u := u) (size := size) (s := s)
  rw [hcpu, begun]

theorem arithHeld_of_untrapped {host : Bool} {pc x b lat : Nat} {k : Cpu} (hbits : x &&& trapBits k.fctrl = 0) : arithHeld host pc x b lat k = k :=
  if_pos hbits

theorem arithHeld_of_trapped {host : Bool} {pc x b lat : Nat} {k : Cpu} (hbits : x &&& trapBits k.fctrl ≠ 0) :
    arithHeld host pc x b lat k = { k with arith := k.arith ++ [(pc, x, if host then b + lat else 0)] } := if_neg hbits

@[simp] theorem fctrl_withG (n v : Nat) (k : Cpu) : (withG n v k).fctrl = k.fctrl := by
  unfold withG
  split <;> rfl

theorem withG_sets (n v : Nat) (k : Cpu) (q : List (Nat × Nat)) : withG n v { k with sets := q } = { withG n v k with sets := q } := by
  unfold withG
  split <;> rfl

/-- What stands behind a result with FSTAT bits, where none of them raises ARITH in its place. -/
theorem arithEnd_of_held {x : Ins} {D : Nat} {r : FRes} {n hold lat : Nat} {s : State}
    (htrap : fbit EXC_CTRL_PRECISE x.i s = false ∨ r.f &&& trapBits (cpu x.i s).fctrl = 0) :
    ∃ t g, arithEnd x D r n hold lat s = { s := t, n := n, hold := hold, lat := lat } ∧ CoreStep x.i g s s t ∧ g (cpu x.i s)
      = { arithHeld (isHost x.i) x.pc r.f x.b lat (withG D r.v (flagged r.f (cpu x.i s))) with sets := (g (cpu x.i s)).sets } := by
  have hset := ((CoreStep.refl x.i s).raiseAt r.f (x.b + lat - 1)).gSet D r.v
  by_cases hbits : r.f &&& trapBits (cpu x.i s).fctrl = 0
  · refine ⟨_, _, if_pos hbits, hset, ?_⟩
    rw [arithHeld_of_untrapped (by rwa [fctrl_withG])]
    simp only [withG_sets]
  · have hprec : ¬fbit EXC_CTRL_PRECISE x.i s = true := by rw [htrap.resolve_right hbits]; decide
    refine ⟨_, _, (if_neg hbits).trans (if_neg hprec),
      hset.setCpu (fun k => { k with arith := k.arith ++ [(x.pc, r.f, if isHost x.i then x.b + lat else 0)] }), ?_⟩
    rw [arithHeld_of_trapped (by rwa [fctrl_withG])]
    simp only [withG_sets]

/-- A result `r` for gD, where no bit of it raises ARITH in its place: a bit whose trap is enabled holds an exception. -/
theorem acts_of_arithEnd {e : Instr} {c : Code} {legal : Bool} {body : Ins → State → Did} {D : Nat} {r : FRes} {n hold lat : Nat}
    (hexec : exec e s = runInst c u h legal body s) (hlen : codeLen c = size) (hlegal : legal = true)
    (hbody : body (insAt h u size s) (afterIssue h u size s) = arithEnd (insAt h u size s) D r n hold lat (afterIssue h u size s))
    (htrap : fbit EXC_CTRL_PRECISE (coreNum h.core) s = false ∨ r.f &&& trapBits (cpu (coreNum h.core) s).fctrl = 0) :
    acts e h u size n hold lat s (fun b k =>
      arithHeld (isHost (coreNum h.core)) (cpu (coreNum h.core) s).pc r.f b lat (withG D r.v (flagged r.f k))) := by
  obtain ⟨t, g, hend, hstep, hg⟩ := arithEnd_of_held (x := insAt h u size s) (D := D) (r := r) (n := n) (hold := hold) (lat := lat)
    (s := afterIssue h u size s) (by rwa [insAt, fctrl_afterIssue])
  have hblind : ∀ b, IssueBlind (fun k => arithHeld (isHost (coreNum h.core)) (cpu (coreNum h.core) s).pc r.f b lat (withG D r.v (flagged r.f k))) :=
    fun b => (IssueBlind.arithHeld _ _ _ _ _).comp ((IssueBlind.withG _ _).comp (IssueBlind.flagged _))
  exact carriesOut_of_done hexec hlen hlegal (hbody.trans hend) (executed_of_coreStep (hblind _) (hstep.rest rfl hstep.frame) hg)

/-- With PRECISE at 1 a bit whose trap is enabled raises ARITH, and nothing is written. -/
theorem exec_of_arithEnd_precise {e : Instr} {c : Code} {legal : Bool} {body : Ins → State → Did} {D : Nat} {r : FRes} {n hold lat : Nat}
    (hexec : exec e s = runInst c u h legal body s) (hlen : codeLen c = size) (hlegal : legal = true)
    (hbody : body (insAt h u size s) (afterIssue h u size s) = arithEnd (insAt h u size s) D r n hold lat (afterIssue h u size s))
    (hprec : fbit EXC_CTRL_PRECISE (coreNum h.core) s = true) (hbits : r.f &&& trapBits (cpu (coreNum h.core) s).fctrl ≠ 0)
    (hb : begins h u size s) :
    exec e s = .next (takeException (coreNum h.core) ⟨6, 0, (cpu (coreNum h.core) s).pc, r.f⟩ false (cpu (coreNum h.core) s).pc
      (beginCycle (coreNum h.core) h.wait u s) (raiseAt (coreNum h.core) r.f (beginCycle (coreNum h.core) h.wait u s + lat - 1)
        (afterIssue h u size s))) := by
  have hprec' : fbit EXC_CTRL_PRECISE (coreNum h.core) (afterIssue h u size s) = true := hprec
  rw [hexec, runInst_of_begins hb hlen, hlegal, if_pos rfl, hbody, arithEnd]
  simp only [insAt, fctrl_afterIssue, hbits, hprec', if_false, if_true]
  rfl

end

end Sys2Proof.Machine

/-! The integer instructions: what each operation gives, and what it does to its core. -/
namespace Sys2Proof.Machine

open Sys2Proof

/-! ### Words and numbers -/

@[simp] theorem sint_toNat (a : Word) : sint a.toNat = a.toInt := by rw [sint, BitVec.ofNat_toNat, BitVec.setWidth_eq]

/-- A result word and the FSTAT bits that it raises, as a result of the model. -/
def asRes (e : Word × Nat) : FRes := ⟨e.1.toNat, e.2⟩

theorem clamp32_eq (x : Int) : clamp32 x = asRes (clamped x) := by
  unfold clamp32 clamped saturated
  split
  · have hmin : min (max x (-2 ^ 31)) (2 ^ 31 - 1) = -2 ^ 31 := by omega
    rw [hmin, if_neg (by omega)]
    rfl
  · split
    · have hmax : min (max x (-2 ^ 31)) (2 ^ 31 - 1) = 2 ^ 31 - 1 := by omega
      rw [hmax, if_neg (by omega)]
      rfl
    · have hsame : min (max x (-2 ^ 31)) (2 ^ 31 - 1) = x := by omega
      rw [hsame, if_pos rfl]
      rfl

/-- A number that is a word raises nothing. -/
theorem val_eq {n : Nat} {v : Word} (h : n % 2 ^ 32 = v.toNat) : val n = asRes (v, 0) := by rw [val, h, asRes]

theorem val_toNat (v : Word) : val v.toNat = asRes (v, 0) := val_eq (Nat.mod_eq_of_lt v.isLt)

/-- The low part and the high part of a number rotated to the right do not meet. -/
theorem rotateRight_split (n k : Nat) (hn : n < 2 ^ 32) (hk : k < 32) :
    (n / 2 ^ k + n * 2 ^ (32 - k)) % 2 ^ 32 = n >>> k ||| n <<< (32 - k) % 2 ^ 32 := by
  have hpow : 2 ^ (32 - k) * 2 ^ k = 2 ^ 32 := by rw [← Nat.pow_add, Nat.sub_add_cancel (by omega)]
  have hlow : n / 2 ^ k < 2 ^ (32 - k) := by rwa [Nat.div_lt_iff_lt_mul (by positivity), hpow]
  have hhigh : n * 2 ^ (32 - k) % 2 ^ 32 = 2 ^ (32 - k) * (n % 2 ^ k) := by rw [← hpow, Nat.mul_comm n, Nat.mul_mod_mul_left]
  have hlt : 2 ^ (32 - k) * (n % 2 ^ k) + n / 2 ^ k < 2 ^ 32 := calc
    _ < 2 ^ (32 - k) * (n % 2 ^ k) + 2 ^ (32 - k) := by omega
    _ = 2 ^ (32 - k) * (n % 2 ^ k + 1) := by ring
    _ ≤ 2 ^ (32 - k) * 2 ^ k := Nat.mul_le_mul_left _ (Nat.mod_lt _ (by positivity))
    _ = 2 ^ 32 := hpow
  rw [Nat.shiftRight_eq_div_pow, Nat.shiftLeft_eq, hhigh, Nat.or_comm, ← Nat.two_pow_add_eq_or_of_lt hlow, ← Nat.add_mod_mod, hhigh,
    Nat.add_comm, Nat.mod_eq_of_lt hlt]

/-! ### The ALU's operations (R201, R210) -/

section
variable (a b : Word)

theorem opAdd_eq : opAdd a.toNat b.toNat = asRes (a + b, 0) := val_eq (BitVec.toNat_add a b).symm

theorem opSub_eq : opSub a.toNat b.toNat = asRes (a - b, 0) := val_eq (by rw [BitVec.toNat_sub, Nat.add_comm])

theorem opAnd_eq : opAnd a.toNat b.toNat = asRes (a &&& b, 0) := by rw [opAnd, ← BitVec.toNat_and, val_toNat]

theorem opOr_eq : opOr a.toNat b.toNat = asRes (a ||| b, 0) := by rw [opOr, ← BitVec.toNat_or, val_toNat]

theorem opXor_eq : opXor a.toNat b.toNat = asRes (a ^^^ b, 0) := by rw [opXor, ← BitVec.toNat_xor, val_toNat]

theorem opAndn_eq : opAndn a.toNat b.toNat = asRes (a &&& ~~~b, 0) := by
  rw [opAndn, ← BitVec.toNat_not, ← BitVec.toNat_and, val_toNat]

theorem opShl_eq : opShl a.toNat b.toNat = asRes (a <<< (b.toNat % 32), 0) := val_eq (by rw [BitVec.toNat_shiftLeft, Nat.shiftLeft_eq])

theorem opShr_eq : opShr a.toNat b.toNat = asRes (a >>> (b.toNat % 32), 0) := by
  rw [opShr, ← Nat.shiftRight_eq_div_pow, ← BitVec.toNat_ushiftRight, val_toNat]

theorem opSar_eq : opSar a.toNat b.toNat = asRes (a.sshiftRight (b.toNat % 32), 0) := by
  have hdiv : a.toInt / 2 ^ (b.toNat % 32) = a.toInt >>> (b.toNat % 32) := (Int.shiftRight_eq_div_pow _ _).symm
  rw [opSar, sint_toNat, word, hdiv, ← BitVec.sshiftRight, val_toNat]

theorem opRor_eq : opRor a.toNat b.toNat = asRes (a.rotateRight (b.toNat % 32), 0) :=
  val_eq (by rw [BitVec.toNat_rotateRight, Nat.mod_mod, rotateRight_split _ _ a.isLt (Nat.mod_lt _ (by decide))])

theorem opAdds_eq : opAdds a.toNat b.toNat = asRes (clamped (a.toInt + b.toInt)) := by rw [opAdds, sint_toNat, sint_toNat, clamp32_eq]

theorem opSubs_eq : opSubs a.toNat b.toNat = asRes (clamped (a.toInt - b.toInt)) := by rw [opSubs, sint_toNat, sint_toNat, clamp32_eq]

theorem opMin_eq : opMin a.toNat b.toNat = asRes (if a.sle b then a else b, 0) := by
  simp only [opMin, sint_toNat, BitVec.sle_iff_toInt_le]
  split <;> exact val_toNat _

theorem opMax_eq : opMax a.toNat b.toNat = asRes (if a.sle b then b else a, 0) := by
  simp only [opMax, sint_toNat, BitVec.sle_iff_toInt_le]
  split <;> exact val_toNat _

theorem opMinu_eq : opMinu a.toNat b.toNat = asRes (if a ≤ b then a else b, 0) := by
  rw [opMinu, Nat.min_def, ← apply_ite BitVec.toNat]
  exact val_toNat _

theorem opMaxu_eq : opMaxu a.toNat b.toNat = asRes (if a ≤ b then b else a, 0) := by
  rw [opMaxu, Nat.max_def, ← apply_ite BitVec.toNat]
  exact val_toNat _

/-! ### Division (R201) -/

theorem toNat_eq_zero_iff : a.toNat = 0 ↔ a = 0 := BitVec.toNat_inj (y := 0#32)

theorem ofInt_tdiv : BitVec.ofInt 32 (a.toInt.tdiv b.toInt) = a.sdiv b := BitVec.eq_of_toInt_eq (by rw [BitVec.toInt_sdiv, BitVec.toInt_ofInt])

theorem ofInt_tmod : BitVec.ofInt 32 (a.toInt.tmod b.toInt) = a.srem b := by rw [← BitVec.toInt_srem, BitVec.ofInt_toInt]

theorem opDiv_eq : opDiv a.toNat b.toNat
    = asRes (if b = 0 then (if a = 0 then 0 else if a.msb then 0x80000000#32 else 0x7FFFFFFF#32, 0x100)
        else if a = 0x80000000#32 ∧ b = 0xFFFFFFFF#32 then (0x7FFFFFFF#32, 0x200) else (a.sdiv b, 0)) := by
  have hmin : a.toNat = 2 ^ 31 ↔ a = 0x80000000#32 := BitVec.toNat_inj (y := 0x80000000#32)
  have hone : b.toNat = 2 ^ 32 - 1 ↔ b = 0xFFFFFFFF#32 := BitVec.toNat_inj (y := 0xFFFFFFFF#32)
  have hneg : a.msb = true ↔ a.toInt < 0 := by rw [BitVec.msb_eq_toInt, decide_eq_true_iff]
  simp only [opDiv, sint_toNat, hmin, hone, hneg, toNat_eq_zero_iff]
  split
  · split
    · rfl
    · split <;> rfl
  · split
    · rfl
    · rw [word, ofInt_tdiv, val_toNat]

theorem opDivu_eq : opDivu a.toNat b.toNat = asRes (if b = 0 then (if a = 0 then 0 else 0xFFFFFFFF#32, 0x100) else (a / b, 0)) := by
  simp only [opDivu, toNat_eq_zero_iff]
  split
  · split <;> rfl
  · rw [← BitVec.toNat_udiv, val_toNat]

theorem opRem_eq : opRem a.toNat b.toNat = asRes (if b = 0 then (a, 0x100) else (a.srem b, 0)) := by
  simp only [opRem, sint_toNat, toNat_eq_zero_iff]
  split
  · rfl
  · rw [word, ofInt_tmod, val_toNat]

theorem opRemu_eq : opRemu a.toNat b.toNat = asRes (if b = 0 then (a, 0x100) else (a % b, 0)) := by
  simp only [opRemu, toNat_eq_zero_iff]
  split
  · rfl
  · rw [← BitVec.toNat_umod, val_toNat]

/-! ### The multiplier (R198 to R200) -/

theorem mulSigned_eq : mulSigned a.toNat b.toNat = (a.signExtend 64 * b.signExtend 64).toNat := by
  rw [mulSigned, sint_toNat, sint_toNat]
  congr 1
  apply BitVec.eq_of_toInt_eq
  rw [BitVec.toInt_mul, BitVec.toInt_signExtend_of_le (by decide), BitVec.toInt_signExtend_of_le (by decide), BitVec.toInt_ofInt]

theorem mulUnsigned_eq : a.toNat * b.toNat = (a.zeroExtend 64 * b.zeroExtend 64).toNat := by
  have hlt : a.toNat * b.toNat < 2 ^ 64 := by nlinarith [a.isLt, b.isLt]
  rw [BitVec.toNat_mul, BitVec.toNat_setWidth_of_le (by decide), BitVec.toNat_setWidth_of_le (by decide), Nat.mod_eq_of_lt hlt]

end

theorem mfqVal_eq (m n : Nat) : mfqVal m n = asRes (clamped (rounded n (BitVec.ofNat 64 m).toInt)) := clamp32_eq _

end Sys2Proof.Machine

/-! How the instructions of two sources are carried out. -/
namespace Sys2Proof.Machine

open Sys2Proof

/-! ### Encodings that a row allows -/

theorem prefixesOk_allowNone {ps : List Prefix} : prefixesOk allowNone ps = true ↔ ps = [] := by
  cases ps with
  | nil => exact ⟨fun _ => rfl, fun _ => rfl⟩
  | cons p ps =>
    have hrow : allowNone.has p = false := by cases p <;> rfl
    simp [prefixesOk, hrow]

theorem regLegal {h : Hdr} {o : BitVec 16} {legal : Bool} (hpre : h.pre = []) (hX : optionX o = false) (hl : legal = true) :
    (prefixesOk allowNone h.pre && !optionX o && legal) = true := by rw [prefixesOk_allowNone.mpr hpre, hX, hl]; rfl

theorem regRefused {h : Hdr} {o : BitVec 16} {legal : Bool} (hbad : h.pre ≠ [] ∨ optionX o = true ∨ legal = false) :
    (prefixesOk allowNone h.pre && !optionX o && legal) = false := by
  rcases hbad with hpre | hX | hl
  · rw [Bool.eq_false_iff.mpr (mt prefixesOk_allowNone.mp hpre)]; rfl
  · rw [hX, Bool.not_true, Bool.and_false]; rfl
  · rw [hl, Bool.and_false]

theorem flagged_zero (k : Cpu) : flagged 0 k = k := by rw [flagged, Nat.or_zero]

/-! ### Two sources -/

theorem srcVal_eq (i : Nat) (o : BitVec 16) (src : Src) (s : State) : srcVal i o src s = (srcWord i o src s).toNat := by
  cases src with
  | reg => exact (gWord_toNat _ _ _).symm
  | imm8 v => rfl
  | imm32 v => rfl

section
variable {e : Instr} {h : Hdr} {o : BitVec 16} {src : Src} {s : State}

@[simp] theorem srcVal_afterIssue {u : Iss} {size : Nat} :
    srcVal (coreNum h.core) o src (afterIssue h u size s) = srcVal (coreNum h.core) o src s := by
  cases src <;> simp [srcVal]

theorem srcInst_eq (c : Code) (h : Hdr) (o : BitVec 16) (src : Src) (legal : Bool) (f : Nat → Nat → FRes) (s : State) :
    srcInst c h o src legal f s = runInst c { reads := [fieldA o] ++ (if srcReg src then [fieldB o] else []), writes := [fieldD o] } h
      (prefixesOk allowNone h.pre && !optionX o && legal) (fun x t =>
        { s := gSet x.i (fieldD o) (f (gGet x.i (fieldA o) t) (srcVal x.i o src t)).v (raise x.i (f (gGet x.i (fieldA o) t) (srcVal x.i o src t)).f t) }) s := rfl

theorem acts_srcInst {c : Code} {legal : Bool} {f : Nat → Nat → FRes} {v x : Nat} (hexec : exec e s = srcInst c h o src legal f s)
    (hlen : codeLen c = 1 + srcBytes src) (hpre : h.pre = []) (hX : optionX o = false) (hl : legal = true)
    (hv : f (gGet (coreNum h.core) (fieldA o) s) (srcVal (coreNum h.core) o src s) = ⟨v, x⟩) :
    acts e h { reads := [fieldA o] ++ (if srcReg src then [fieldB o] else []), writes := [fieldD o] } (1 + srcBytes src) 1 0 1 s
      (fun _ k => withG (fieldD o) v (flagged x k)) :=
  acts_of_coreStep (hexec.trans (srcInst_eq ..)) hlen (regLegal hpre hX hl) (by simp only [insAt, gGet_afterIssue, srcVal_afterIssue, hv])
    ((IssueBlind.withG _ _).comp (IssueBlind.flagged _)) (((CoreStep.refl _ _).raise _).gSet _ _)

theorem codeLen_codeSrc_alu {k : Nat} (hk : k < 16) : codeLen (codeSrc (0x10 + k) (0x30 + k) (0x40 + k) o src) = 1 + srcBytes src := by
  have hops : ∀ k < 16, codeLen ⟨0x10 + k, 0, none⟩ = 3 ∧ codeLen ⟨0x30 + k, 0, none⟩ = 4 ∧ codeLen ⟨0x40 + k, 0, none⟩ = 7 := by decide
  obtain ⟨hreg, himm8, himm32⟩ := hops k hk
  cases src with
  | reg => exact hreg
  | imm8 v => exact himm8
  | imm32 v => exact himm32

theorem codeLen_codeSrc_cmp {j : Nat} (hj : j < 6) : codeLen (codeSrc (0x20 + j) (0x50 + j) (0x58 + j) o src) = 1 + srcBytes src := by
  have hops : ∀ j < 6, codeLen ⟨0x20 + j, 0, none⟩ = 3 ∧ codeLen ⟨0x50 + j, 0, none⟩ = 4 ∧ codeLen ⟨0x58 + j, 0, none⟩ = 7 := by decide
  obtain ⟨hreg, himm8, himm32⟩ := hops j hj
  cases src with
  | reg => exact hreg
  | imm8 v => exact himm8
  | imm32 v => exact himm32

/-- An ALU instruction writes what its operation gives. -/
theorem acts_aluInst {k : Nat} {f : Nat → Nat → FRes} {r : Word × Nat} (hexec : exec e s = aluInst k h o src f s) (hk : k < 16)
    (hpre : h.pre = []) (hX : optionX o = false) (hB : (srcReg src || fieldB o == 0) = true)
    (hv : f (gWord (coreNum h.core) (fieldA o) s).toNat (srcWord (coreNum h.core) o src s).toNat = asRes r) :
    acts e h { reads := [fieldA o] ++ (if srcReg src then [fieldB o] else []), writes := [fieldD o] } (1 + srcBytes src) 1 0 1 s
      (fun _ k => withG (fieldD o) r.1.toNat (flagged r.2 k)) :=
  acts_srcInst hexec (codeLen_codeSrc_alu hk) hpre hX hB (by rw [← gWord_toNat, srcVal_eq, hv, asRes])

/-- A comparison writes 1 or 0. -/
theorem acts_cmpInst {j : Nat} {f : Nat → Nat → Bool} {v : Bool} (hexec : exec e s = cmpInst j h o src f s) (hj : j < 6)
    (hpre : h.pre = []) (hX : optionX o = false)
    (hv : f (gWord (coreNum h.core) (fieldA o) s).toNat (srcWord (coreNum h.core) o src s).toNat = v) :
    acts e h { reads := [fieldA o] ++ (if srcReg src then [fieldB o] else []), writes := [fieldD o] } (1 + srcBytes src) 1 0 1 s
      (fun _ => withG (fieldD o) v.toNat) := by
  have hval : val v.toNat = ⟨v.toNat, 0⟩ := by cases v <;> rfl
  simpa only [flagged_zero] using acts_srcInst (x := 0) hexec (codeLen_codeSrc_cmp hj) hpre hX rfl (by rw [← gWord_toNat, srcVal_eq, hv, hval])

end

end Sys2Proof.Machine

/-! O55: the integer instructions. -/
namespace Sys2Proof.Machine

open Sys2Proof

section
variable {e : Instr} {h : Hdr} {o : BitVec 16} {s : State}

@[simp] theorem gWord_afterIssue {u : Iss} {size n : Nat} : gWord (coreNum h.core) n (afterIssue h u size s) = gWord (coreNum h.core) n s := by
  rw [gWord, gGet_afterIssue, gWord]

theorem sets_afterIssue {u : Iss} {size : Nat} : (cpu (coreNum h.core) (afterIssue h u size s)).sets
    = (cpu (coreNum h.core) s).sets.filter (fun e => decide (beginCycle (coreNum h.core) h.wait u s ≤ e.1)) :=
  congrArg Cpu.sets (cpu_setCpu_same _ _ _)

/-! ### What the instructions of three registers do -/

theorem exec_coreSel : exec (.coreSel h o) s = runInst (codeR 0x26 o) { reads := [fieldA o, fieldB o], writes := [fieldD o] } h
    (prefixesOk allowNone h.pre && !optionX o && true) (fun x t =>
      { s := if gGet x.i (fieldA o) t = 0 then t else gSet x.i (fieldD o) (gGet x.i (fieldB o) t) t }) s := rfl

theorem divInst_eq (op : Nat) (h : Hdr) (o : BitVec 16) (f : Nat → Nat → FRes) (s : State) : divInst op h o f s
    = runInst (codeR op o) { reads := [fieldA o, fieldB o], writes := [fieldD o], alone := true } h
      (prefixesOk allowNone h.pre && !optionX o && true) (fun x t =>
        arithEnd x (fieldD o) (f (gGet x.i (fieldA o) t) (gGet x.i (fieldB o) t)) 34 18 18 t) s := rfl

theorem mulInst_eq (op : Nat) (h : Hdr) (o : BitVec 16) (f : Nat → Nat → Nat → Nat) (s : State) : mulInst op h o f s
    = runInst (codeR op o) { reads := [fieldA o, fieldB o], mul := true } h (prefixesOk allowNone h.pre && !optionX o && (fieldD o == 0)) (fun x t =>
        { s := setCpu x.i (macPut x.b (f (cpu x.i t).mac (gGet x.i (fieldA o) t) (gGet x.i (fieldB o) t)) (cpu x.i t)) t, lat := 3 }) s := rfl

theorem exec_coreAdd {src : Src} : exec (.coreAdd h o src) s = aluInst 0 h o src opAdd s := rfl

theorem exec_coreMaxu {src : Src} : exec (.coreMaxu h o src) s = aluInst 15 h o src opMaxu s := rfl

theorem exec_coreMac : exec (.coreMac h o) s = mulInst 0x2D h o (fun m a b => m + mulSigned a b) s := rfl

theorem exec_coreMfq : exec (.coreMfq h o) s = runInst (codeR 0x2F o) { writes := [fieldD o] } h
    (prefixesOk allowNone h.pre && !optionX o && (fieldA o == 0)) (fun x t =>
      { s := gSet x.i (fieldD o) (mfqVal (macSeen x.b (cpu x.i t)) (fieldB o)).v
          (raise x.i (mfqVal (macSeen x.b (cpu x.i t)) (fieldB o)).f t) }) s := rfl

theorem exec_coreMfs : exec (.coreMfs h o) s = runInst (codeR 0x60 o) { writes := [fieldD o], alone := decide (5 ≤ fieldA o) } h
    (prefixesOk allowNone h.pre && !optionX o && decide (fieldA o ≤ 6)) (fun x t =>
      { s := gSet x.i (fieldD o) (specialRead x.i (fieldA o) x.b t)
          (if fieldA o = 5 then setCpu x.i { cpu x.i t with tickHi := wrap32 (x.b / 2 ^ 32) } t else t)
        n := if decide (5 ≤ fieldA o) then 2 else 1
        hold := if decide (5 ≤ fieldA o) then 1 else 0 }) s := rfl

theorem exec_coreMts : exec (.coreMts h o) s = runInst (codeR 0x61 o) { reads := [fieldA o], mul := decide (fieldD o ≤ 1), alone := true } h
    (prefixesOk allowNone h.pre && !optionX o && decide (fieldD o ≤ 3)) (fun x t =>
      { s := specialWrite x.i (fieldD o) (gGet x.i (fieldA o) t) x.b t
        n := 1 + if fieldD o ≤ 1 then macLanded x.b (cpu x.i t) - x.b else 0
        hold := 1 + if fieldD o ≤ 1 then macLanded x.b (cpu x.i t) - x.b else 0 }) s := rfl

/-! ### SEL and the divisions -/

theorem acts_sel (hpre : h.pre = []) (hX : optionX o = false) :
    acts (.coreSel h o) h { reads := [fieldA o, fieldB o], writes := [fieldD o] } 3 1 0 1 s
      (fun _ k => if gWord (coreNum h.core) (fieldA o) s = 0 then k else withG (fieldD o) (gWord (coreNum h.core) (fieldB o) s).toNat k) := by
  simp only [← toNat_eq_zero_iff, gWord_toNat]
  by_cases ha : gGet (coreNum h.core) (fieldA o) s = 0
  · simp only [if_pos ha]
    exact acts_of_coreStep exec_coreSel rfl (regLegal hpre hX rfl) (by simp only [insAt, gGet_afterIssue, if_pos ha]) IssueBlind.id
      (CoreStep.refl _ _)
  · simp only [if_neg ha]
    exact acts_of_coreStep exec_coreSel rfl (regLegal hpre hX rfl) (by simp only [insAt, gGet_afterIssue, if_neg ha]) (IssueBlind.withG _ _)
      ((CoreStep.refl _ _).gSet _ _)

theorem acts_divInst {op : Nat} {f : Nat → Nat → FRes} {r : Word × Nat} (hexec : exec e s = divInst op h o f s)
    (hlen : codeLen (codeR op o) = 3) (hpre : h.pre = []) (hX : optionX o = false)
    (hr : f (gWord (coreNum h.core) (fieldA o) s).toNat (gWord (coreNum h.core) (fieldB o) s).toNat = asRes r)
    (htrap : fbit EXC_CTRL_PRECISE (coreNum h.core) s = false ∨ r.2 &&& trapBits (cpu (coreNum h.core) s).fctrl = 0) :
    acts e h { reads := [fieldA o, fieldB o], writes := [fieldD o], alone := true } 3 34 18 18 s (fun c k =>
      arithHeld (isHost (coreNum h.core)) (cpu (coreNum h.core) s).pc r.2 c 18 (withG (fieldD o) r.1.toNat (flagged r.2 k))) :=
  acts_of_arithEnd (r := asRes r) (hexec.trans (divInst_eq ..)) hlen (regLegal hpre hX rfl)
    (by simp only [← hr, insAt, gGet_afterIssue, gWord_toNat]) htrap

theorem exec_divInst_precise {op : Nat} {f : Nat → Nat → FRes} {r : Word × Nat} {u : Iss} (hexec : exec e s = divInst op h o f s)
    (hlen : codeLen (codeR op o) = 3) (hpre : h.pre = []) (hX : optionX o = false)
    (hr : f (gWord (coreNum h.core) (fieldA o) s).toNat (gWord (coreNum h.core) (fieldB o) s).toNat = asRes r)
    (hu : u = { reads := [fieldA o, fieldB o], writes := [fieldD o], alone := true })
    (hprec : fbit EXC_CTRL_PRECISE (coreNum h.core) s = true) (hbits : r.2 &&& trapBits (cpu (coreNum h.core) s).fctrl ≠ 0)
    (hb : begins h u 3 s) :
    exec e s = .next (takeException (coreNum h.core) ⟨6, 0, (cpu (coreNum h.core) s).pc, r.2⟩ false (cpu (coreNum h.core) s).pc
      (beginCycle (coreNum h.core) h.wait u s) (raiseAt (coreNum h.core) r.2 (beginCycle (coreNum h.core) h.wait u s + 17)
        (afterIssue h u 3 s))) := by
  subst hu
  exact exec_of_arithEnd_precise (D := fieldD o) (r := asRes r) (n := 34) (hold := 18) (lat := 18) (hexec.trans (divInst_eq ..)) hlen (regLegal hpre hX rfl)
    (by simp only [← hr, insAt, gGet_afterIssue, gWord_toNat]) hprec hbits hb

/-- A division whose operation gives `r`: the result, or the ARITH exception in its place. -/
theorem divides {op : Nat} {f : Nat → Nat → FRes} {r : Word × Nat} (hexec : exec e s = divInst op h o f s)
    (hlen : codeLen (codeR op o) = 3) (hpre : h.pre = []) (hX : optionX o = false)
    (hr : f (gWord (coreNum h.core) (fieldA o) s).toNat (gWord (coreNum h.core) (fieldB o) s).toNat = asRes r) :
    ∀ u : Iss, u = { reads := [fieldA o, fieldB o], writes := [fieldD o], alone := true } →
      ((fbit EXC_CTRL_PRECISE (coreNum h.core) s = false ∨ r.2 &&& trapBits (cpu (coreNum h.core) s).fctrl = 0) →
        acts e h u 3 34 18 18 s (fun c k =>
          arithHeld (isHost (coreNum h.core)) (cpu (coreNum h.core) s).pc r.2 c 18 (withG (fieldD o) r.1.toNat (flagged r.2 k))))
      ∧ (fbit EXC_CTRL_PRECISE (coreNum h.core) s = true → r.2 &&& trapBits (cpu (coreNum h.core) s).fctrl ≠ 0 → begins h u 3 s →
        ∀ c : Nat, c = beginCycle (coreNum h.core) h.wait u s → exec e s = .next (takeException (coreNum h.core)
          ⟨6, 0, (cpu (coreNum h.core) s).pc, r.2⟩ false (cpu (coreNum h.core) s).pc c (raiseAt (coreNum h.core) r.2 (c + 17)
            (advance (coreNum h.core) (((cpu (coreNum h.core) s).pc + 3) % 2 ^ 32) c u s)))) := by
  rintro _ rfl
  refine ⟨acts_divInst hexec hlen hpre hX hr, ?_⟩
  rintro hprec hbits hb _ rfl
  have hexc := exec_divInst_precise hexec hlen hpre hX hr rfl hprec hbits hb
  rwa [afterIssue, hpre] at hexc

/-! ### The multiplier and its result (R198 to R200) -/

theorem mac_afterIssue {u : Iss} {size : Nat} : (cpu (coreNum h.core) (afterIssue h u size s)).mac = (cpu (coreNum h.core) s).mac := by
  obtain ⟨b, d, hcpu⟩ := cpu_afterIssue (h := h) (u := u) (size := size) (s := s)
  rw [hcpu, begun]

/-- What has landed stays so. -/
theorem macSeen_begun (b next : Nat) (k : Cpu) : macSeen b (begun b next k) = macSeen b k := by
  have hnone : (k.flight.filter (fun e => !decide (e.1 < b))).filter (fun e => decide (e.1 < b)) = [] := by
    rw [List.filter_filter, List.filter_eq_nil_iff]
    simp
  rw [begun, macSeen, hnone]
  rfl

theorem macSeen_afterIssue {u : Iss} {size : Nat} : macSeen (beginCycle (coreNum h.core) h.wait u s) (cpu (coreNum h.core) (afterIssue h u size s))
    = macSeen (beginCycle (coreNum h.core) h.wait u s) (cpu (coreNum h.core) s) := by
  obtain ⟨b, d, hcpu⟩ := cpu_afterIssue (h := h) (u := u) (size := size) (s := s)
  rw [hcpu]
  exact macSeen_begun _ ((cpu (coreNum h.core) s).pc + h.pre.length + size) _

/-- The cycles that a core waits for the multiplier results under way. -/
theorem foldl_landed (b : Nat) (l : List (Nat × Nat)) (m : Nat) :
    (l.filter (fun e => !decide (e.1 < b))).foldl (fun m e => max m (e.1 + 1)) (b + m)
      = b + l.foldl (fun m e => if e.1 < b then m else max m (e.1 + 1 - b)) m := by
  induction l generalizing m with
  | nil => rfl
  | cons e l ih =>
    by_cases he : e.1 < b
    · rw [List.filter_cons_of_neg (by simpa using he), List.foldl_cons, if_pos he, ih]
    · rw [List.filter_cons_of_pos (by simpa using he), List.foldl_cons, List.foldl_cons, if_neg he, ← ih]
      congr 1
      omega

theorem macLanded_begun (b next : Nat) (k : Cpu) : macLanded b (begun b next k) - b
    = k.flight.foldl (fun m e => if e.1 < b then m else max m (e.1 + 1 - b)) 0 := by
  have hlanded := foldl_landed b k.flight 0
  rw [Nat.add_zero] at hlanded
  exact Nat.sub_eq_of_eq_add (hlanded.trans (Nat.add_comm _ _))

theorem macLanded_afterIssue {u : Iss} {size : Nat} : macLanded (beginCycle (coreNum h.core) h.wait u s) (cpu (coreNum h.core) (afterIssue h u size s))
      - beginCycle (coreNum h.core) h.wait u s
    = (cpu (coreNum h.core) s).flight.foldl (fun m e => if e.1 < beginCycle (coreNum h.core) h.wait u s then m
        else max m (e.1 + 1 - beginCycle (coreNum h.core) h.wait u s)) 0 := by
  obtain ⟨b, d, hcpu⟩ := cpu_afterIssue (h := h) (u := u) (size := size) (s := s)
  rw [hcpu]
  exact macLanded_begun _ ((cpu (coreNum h.core) s).pc + h.pre.length + size) _

theorem acts_mulInst {op : Nat} {f : Nat → Nat → Nat → Nat} {g : BitVec 64 → BitVec 64} (hexec : exec e s = mulInst op h o f s)
    (hlen : codeLen (codeR op o) = 3) (hpre : h.pre = []) (hX : optionX o = false) (hD : fieldD o = 0)
    (hg : ∀ m, f m (gWord (coreNum h.core) (fieldA o) s).toNat (gWord (coreNum h.core) (fieldB o) s).toNat % 2 ^ 64 = (g (BitVec.ofNat 64 m)).toNat) :
    acts e h { reads := [fieldA o, fieldB o], mul := true } 3 1 0 3 s (fun c k =>
      { k with mac := (g (BitVec.ofNat 64 k.mac)).toNat, flight := k.flight ++ [(c + 2, (g (BitVec.ofNat 64 k.mac)).toNat)] }) :=
  acts_of_coreStep (hexec.trans (mulInst_eq ..)) hlen (regLegal hpre hX (by rw [hD]; rfl))
    (by simp only [insAt, macPut, ← gWord_toNat, gWord_afterIssue, hg]) (fun _ _ _ _ _ => rfl)
    ((CoreStep.refl _ _).setCpu (fun k => { k with
      mac := (g (BitVec.ofNat 64 k.mac)).toNat
      flight := k.flight ++ [(beginCycle (coreNum h.core) h.wait { reads := [fieldA o, fieldB o], mul := true } s + 2,
        (g (BitVec.ofNat 64 k.mac)).toNat)] }))

theorem acts_mfq (hpre : h.pre = []) (hX : optionX o = false) (hA : fieldA o = 0) :
    acts (.coreMfq h o) h { writes := [fieldD o] } 3 1 0 1 s (fun c k =>
      withG (fieldD o) (clamped (rounded (fieldB o) (BitVec.ofNat 64 (macSeen c (cpu (coreNum h.core) s))).toInt)).1.toNat
        (flagged (clamped (rounded (fieldB o) (BitVec.ofNat 64 (macSeen c (cpu (coreNum h.core) s))).toInt)).2 k)) :=
  acts_of_coreStep exec_coreMfq rfl (regLegal hpre hX (by rw [hA]; rfl)) (by simp only [insAt, macSeen_afterIssue, mfqVal_eq, asRes])
    ((IssueBlind.withG _ _).comp (IssueBlind.flagged _)) (((CoreStep.refl _ _).raise _).gSet _ _)

/-! ### The special registers (R190, R191, R199) -/

theorem specialRead_eq (i n b : Nat) (s : State) (hn : n ≤ 6) : specialRead i n b s
    = [macSeen b (cpu i s) % 2 ^ 32, macSeen b (cpu i s) / 2 ^ 32, (cpu i s).fstat, (cpu i s).fctrl, i, b % 2 ^ 32, (cpu i s).tickHi].getD n 0 := by
  interval_cases n <;> rfl

theorem acts_mfs (hpre : h.pre = []) (hX : optionX o = false) (hA : fieldA o ≤ 6) :
    acts (.coreMfs h o) h { writes := [fieldD o], alone := decide (5 ≤ fieldA o) } 3 (if 5 ≤ fieldA o then 2 else 1)
      (if 5 ≤ fieldA o then 1 else 0) 1 s (fun c k =>
        withG (fieldD o) ([macSeen c (cpu (coreNum h.core) s) % 2 ^ 32, macSeen c (cpu (coreNum h.core) s) / 2 ^ 32, k.fstat, k.fctrl,
            coreNum h.core, c % 2 ^ 32, k.tickHi].getD (fieldA o) 0)
          { k with tickHi := if fieldA o = 5 then c / 2 ^ 32 % 2 ^ 32 else k.tickHi }) := by
  have htick : ∀ (c : Nat) (t : State), CoreStep (coreNum h.core)
      (fun k => { k with tickHi := if fieldA o = 5 then c / 2 ^ 32 % 2 ^ 32 else k.tickHi }) t t
      (if fieldA o = 5 then setCpu (coreNum h.core) { cpu (coreNum h.core) t with tickHi := wrap32 (c / 2 ^ 32) } t else t) := fun c t => by
    by_cases h5 : fieldA o = 5
    · simp only [if_pos h5]
      exact (CoreStep.refl _ _).setCpu (fun k => { k with tickHi := c / 2 ^ 32 % 2 ^ 32 })
    · simp only [if_neg h5]
      exact CoreStep.refl _ _
  refine carriesOut_of_done exec_coreMfs rfl (regLegal hpre hX (decide_eq_true hA)) (by simp only [decide_eq_true_iff]; rfl)
    (executed_of_coreStep (fun k a b c d => by simp only [withG]; split <;> rfl) (((htick _ _).gSet _ _).rest rfl ((htick _ _).gSet _ _).frame) ?_)
  simp only [specialRead_eq _ _ _ _ hA, insAt, macSeen_afterIssue]

theorem exec_coreMts_of_alone (hD : 1 < fieldD o) : exec (.coreMts h o) s = runInst (codeR 0x61 o) { reads := [fieldA o], alone := true } h
    (prefixesOk allowNone h.pre && !optionX o && decide (fieldD o ≤ 3)) (fun x t =>
      { s := specialWrite x.i (fieldD o) (gGet x.i (fieldA o) t) x.b t, n := 1, hold := 1 }) s := by
  simp only [exec_coreMts, if_neg (Nat.not_le.mpr hD), decide_eq_false (Nat.not_le.mpr hD)]

/-- The bits that results under way set in cycle `b` or later. -/
def setLater (b : Nat) (l : List (Nat × Nat)) : Nat := l.foldl (fun f e => if b ≤ e.1 then f ||| e.2 else f) 0

theorem or_and_of_covers {m x : Nat} (y : Nat) (hm : m &&& x = x) : (m ||| y) &&& x = x := by
  rw [Nat.and_or_distrib_right, hm]
  exact Nat.eq_of_testBit_eq fun i => by
    cases hx : x.testBit i <;> simp [hx]

theorem and_foldl_set {b x : Nat} (l : List (Nat × Nat)) {m : Nat} (hm : m &&& x = x) :
    l.foldl (fun f e => if b ≤ e.1 then f ||| e.2 else f) m &&& x = x := by
  induction l generalizing m with
  | nil => exact hm
  | cons e l ih =>
    rw [List.foldl_cons]
    refine ih ?_
    split
    · exact or_and_of_covers _ hm
    · exact hm

theorem and_setLater {b : Nat} {l : List (Nat × Nat)} {e : Nat × Nat} (he : e ∈ l) (hb : b ≤ e.1) : setLater b l &&& e.2 = e.2 := by
  obtain ⟨l, r, rfl⟩ := List.append_of_mem he
  rw [setLater, List.foldl_append, List.foldl_cons, if_pos hb]
  exact and_foldl_set r (by rw [Nat.or_comm, or_and_of_covers _ (Nat.and_self _)])

theorem setLater_filter_of_before {b : Nat} {l : List (Nat × Nat)} (hl : ∀ e ∈ l, e.1 < b) :
    setLater b (l.filter (fun e => decide (b ≤ e.1))) = 0 := by
  rw [List.filter_eq_nil_iff.mpr fun e he => by simpa using hl e he]
  rfl

/-- MTS to FSTAT: a bit that a result under way sets is 1 after it. -/
theorem carriesOut_mts_fstat (hpre : h.pre = []) (hX : optionX o = false) (hD : fieldD o = 2) :
    carriesOut (.coreMts h o) h { reads := [fieldA o], alone := true } 3 s (fun c t =>
      executed h { reads := [fieldA o], alone := true } 3 c 1 1 1 (fun k => { k with fstat := (cpu (coreNum h.core) t).fstat }) s s t
      ∧ ((∀ e ∈ (cpu (coreNum h.core) s).sets, e.1 < c) → (cpu (coreNum h.core) t).fstat = gGet (coreNum h.core) (fieldA o) s &&& 0x71F)
      ∧ (∀ e ∈ (cpu (coreNum h.core) s).sets, c ≤ e.1 → (cpu (coreNum h.core) t).fstat &&& e.2 = e.2)) := by
  generalize hf : (gGet (coreNum h.core) (fieldA o) s &&& fstatMask) |||
    setLater (beginCycle (coreNum h.core) h.wait { reads := [fieldA o], alone := true } s)
      (cpu (coreNum h.core) (afterIssue h { reads := [fieldA o], alone := true } 3 s)).sets = f
  have hstep := (CoreStep.refl (coreNum h.core) (afterIssue h { reads := [fieldA o], alone := true } 3 s)).setCpu (fun k => { k with fstat := f })
  refine carriesOut_of_done (exec_coreMts_of_alone (by omega)) rfl (regLegal hpre hX (by rw [hD]; rfl))
    (t := setCpu (coreNum h.core) { cpu (coreNum h.core) (afterIssue h { reads := [fieldA o], alone := true } 3 s) with fstat := f }
      (afterIssue h { reads := [fieldA o], alone := true } 3 s)) (by simp only [insAt, gGet_afterIssue, hD, ← hf]; rfl) ?_
  have hexecuted := executed_of_coreStep (f := fun k => { k with fstat := f }) (n := 1) (hold := 1) (lat := 1) (fun _ _ _ _ _ => rfl)
    (hstep.rest rfl hstep.frame) rfl
  obtain ⟨-, -, hcore, -⟩ := id hexecuted
  rw [congrArg Cpu.fstat hcore]
  refine ⟨hexecuted, fun hbefore => ?_, fun e he hc => ?_⟩
  · rw [← hf, sets_afterIssue, setLater_filter_of_before hbefore, Nat.or_zero]
    rfl
  · have hlate : e ∈ (cpu (coreNum h.core) (afterIssue h { reads := [fieldA o], alone := true } 3 s)).sets := by
      rw [sets_afterIssue]
      exact List.mem_filter.mpr ⟨he, decide_eq_true hc⟩
    rw [← hf, Nat.or_comm]
    exact or_and_of_covers _ (and_setLater hlate hc)

theorem acts_mts_fctrl (hpre : h.pre = []) (hX : optionX o = false) (hD : fieldD o = 3) :
    acts (.coreMts h o) h { reads := [fieldA o], alone := true } 3 1 1 1 s
      (fun _ k => { k with fctrl := gGet (coreNum h.core) (fieldA o) s &&& 0x7F07 }) :=
  acts_of_coreStep (exec_coreMts_of_alone (by omega)) rfl (regLegal hpre hX (by rw [hD]; rfl)) (by simp only [insAt, gGet_afterIssue, hD]; rfl)
    (fun _ _ _ _ _ => rfl) ((CoreStep.refl _ _).setCpu (fun k => { k with fctrl := gGet (coreNum h.core) (fieldA o) s &&& 0x7F07 }))

theorem specialWrite_mac {i n v b : Nat} {s : State} (hn : n ≤ 1) : ∀ m : Nat,
    m = (if n = 0 then (cpu i s).mac / 2 ^ 32 * 2 ^ 32 + v else v * 2 ^ 32 + (cpu i s).mac % 2 ^ 32) →
    specialWrite i n v b s = setCpu i { cpu i s with mac := m, landed := m, flight := [] } s := by
  rintro _ rfl
  interval_cases n <;> rfl

theorem carriesOut_mts_mac (hpre : h.pre = []) (hX : optionX o = false) (hD : fieldD o ≤ 1) :
    carriesOut (.coreMts h o) h { reads := [fieldA o], mul := true, alone := true } 3 s (fun c t =>
      ∀ w : Nat, w = (cpu (coreNum h.core) s).flight.foldl (fun m e => if e.1 < c then m else max m (e.1 + 1 - c)) 0 →
      ∀ m : Nat, m = (if fieldD o = 0 then (cpu (coreNum h.core) s).mac / 2 ^ 32 * 2 ^ 32 + gGet (coreNum h.core) (fieldA o) s
        else gGet (coreNum h.core) (fieldA o) s * 2 ^ 32 + (cpu (coreNum h.core) s).mac % 2 ^ 32) →
      executed h { reads := [fieldA o], mul := true, alone := true } 3 c (1 + w) (1 + w) 1
        (fun k => { k with mac := m, landed := m, flight := [] }) s s t) := by
  have hexec := exec_coreMts (h := h) (o := o) (s := s)
  simp only [if_pos hD, decide_eq_true hD] at hexec
  refine carriesOut_of_done hexec rfl (regLegal hpre hX (decide_eq_true (by omega))) rfl ?_
  rintro w hw m hm
  simp only [insAt, macLanded_afterIssue, ← hw, gGet_afterIssue]
  rw [specialWrite_mac hD m (by rw [hm, mac_afterIssue])]
  have hstep := (CoreStep.refl (coreNum h.core) (afterIssue h { reads := [fieldA o], mul := true, alone := true } 3 s)).setCpu
    (fun k => { k with mac := m, landed := m, flight := [] })
  exact executed_of_coreStep (fun _ _ _ _ _ => rfl) (hstep.rest rfl hstep.frame) rfl

end

/-! ### Comparisons of words and of their numbers -/

section
variable (a b : Word)

theorem beq_toNat : (a.toNat == b.toNat) = (a == b) := by rw [Bool.eq_iff_iff, beq_iff_eq, beq_iff_eq, BitVec.toNat_inj]

theorem bne_toNat : (a.toNat != b.toNat) = (a != b) := congrArg not (beq_toNat a b)

theorem slt_toNat : decide (sint a.toNat < sint b.toNat) = a.slt b := by rw [sint_toNat, sint_toNat, BitVec.slt]

theorem sle_toNat : decide (sint a.toNat ≤ sint b.toNat) = a.sle b := by rw [sint_toNat, sint_toNat, BitVec.sle]

end

/-! ### The instructions and their operations -/

section
variable (h : Hdr) (o : BitVec 16) (s : State) (src : Src) (a b : Word)

theorem alu_operations : ∀ e ∈ ([(.coreAdd h o src, a + b, 0), (.coreSub h o src, a - b, 0), (.coreAnd h o src, a &&& b, 0),
      (.coreOr h o src, a ||| b, 0), (.coreXor h o src, a ^^^ b, 0), (.coreAndn h o src, a &&& ~~~b, 0), (.coreShl h o src, a <<< (b.toNat % 32), 0),
      (.coreShr h o src, a >>> (b.toNat % 32), 0), (.coreSar h o src, a.sshiftRight (b.toNat % 32), 0), (.coreRor h o src, a.rotateRight (b.toNat % 32), 0),
      (.coreAdds h o src, clamped (a.toInt + b.toInt)), (.coreSubs h o src, clamped (a.toInt - b.toInt)), (.coreMin h o src, if a.sle b then a else b, 0),
      (.coreMax h o src, if a.sle b then b else a, 0), (.coreMinu h o src, if a ≤ b then a else b, 0), (.coreMaxu h o src, if a ≤ b then b else a, 0)]
      : List (Instr × Word × Nat)),
    ∃ k < 16, ∃ f, exec e.1 s = aluInst k h o src f s ∧ f a.toNat b.toNat = asRes e.2 := by
  simp only [List.forall_mem_cons]
  exact ⟨⟨0, by decide, opAdd, rfl, opAdd_eq a b⟩,
    ⟨1, by decide, opSub, rfl, opSub_eq a b⟩,
    ⟨2, by decide, opAnd, rfl, opAnd_eq a b⟩,
    ⟨3, by decide, opOr, rfl, opOr_eq a b⟩,
    ⟨4, by decide, opXor, rfl, opXor_eq a b⟩,
    ⟨5, by decide, opAndn, rfl, opAndn_eq a b⟩,
    ⟨6, by decide, opShl, rfl, opShl_eq a b⟩,
    ⟨7, by decide, opShr, rfl, opShr_eq a b⟩,
    ⟨8, by decide, opSar, rfl, opSar_eq a b⟩,
    ⟨9, by decide, opRor, rfl, opRor_eq a b⟩,
    ⟨10, by decide, opAdds, rfl, opAdds_eq a b⟩,
    ⟨11, by decide, opSubs, rfl, opSubs_eq a b⟩,
    ⟨12, by decide, opMin, rfl, opMin_eq a b⟩,
    ⟨13, by decide, opMax, rfl, opMax_eq a b⟩,
    ⟨14, by decide, opMinu, rfl, opMinu_eq a b⟩,
    ⟨15, by decide, opMaxu, rfl, opMaxu_eq a b⟩, List.forall_mem_nil _⟩

theorem comparisons : ∀ e ∈ ([(.coreCeq h o src, a == b), (.coreCne h o src, a != b), (.coreClt h o src, a.slt b), (.coreCltu h o src, a.ult b),
      (.coreCle h o src, a.sle b), (.coreCleu h o src, a.ule b)] : List (Instr × Bool)),
    ∃ j < 6, ∃ f, exec e.1 s = cmpInst j h o src f s ∧ f a.toNat b.toNat = e.2 := by
  simp only [List.forall_mem_cons]
  exact ⟨⟨0, by decide, fun a b => a == b, rfl, beq_toNat a b⟩, ⟨1, by decide, fun a b => a != b, rfl, bne_toNat a b⟩,
    ⟨2, by decide, fun a b => decide (sint a < sint b), rfl, slt_toNat a b⟩, ⟨3, by decide, fun a b => decide (a < b), rfl, rfl⟩,
    ⟨4, by decide, fun a b => decide (sint a ≤ sint b), rfl, sle_toNat a b⟩, ⟨5, by decide, fun a b => decide (a ≤ b), rfl, rfl⟩, List.forall_mem_nil _⟩

theorem divisions : ∀ e ∈ ([(.coreDiv h o, if b = 0 then (if a = 0 then 0 else if a.msb then 0x80000000#32 else 0x7FFFFFFF#32, 0x100)
        else if a = 0x80000000#32 ∧ b = 0xFFFFFFFF#32 then (0x7FFFFFFF#32, 0x200) else (a.sdiv b, 0)),
      (.coreDivu h o, if b = 0 then (if a = 0 then 0 else 0xFFFFFFFF#32, 0x100) else (a / b, 0)),
      (.coreRem h o, if b = 0 then (a, 0x100) else (a.srem b, 0)), (.coreRemu h o, if b = 0 then (a, 0x100) else (a % b, 0))]
      : List (Instr × Word × Nat)),
    ∃ op f, codeLen (codeR op o) = 3 ∧ exec e.1 s = divInst op h o f s ∧ f a.toNat b.toNat = asRes e.2 := by
  simp only [List.forall_mem_cons]
  exact ⟨⟨0x27, opDiv, rfl, rfl, opDiv_eq a b⟩, ⟨0x28, opDivu, rfl, rfl, opDivu_eq a b⟩, ⟨0x29, opRem, rfl, rfl, opRem_eq a b⟩,
    ⟨0x2A, opRemu, rfl, rfl, opRemu_eq a b⟩, List.forall_mem_nil _⟩

theorem multiplications : ∀ e ∈ ([(.coreMul h o, fun _ => a.signExtend 64 * b.signExtend 64), (.coreMulu h o, fun _ => a.zeroExtend 64 * b.zeroExtend 64),
      (.coreMac h o, fun m => m + a.signExtend 64 * b.signExtend 64), (.coreMacu h o, fun m => m + a.zeroExtend 64 * b.zeroExtend 64)]
      : List (Instr × (BitVec 64 → BitVec 64))),
    ∃ op f, codeLen (codeR op o) = 3 ∧ exec e.1 s = mulInst op h o f s ∧ ∀ m, f m a.toNat b.toNat % 2 ^ 64 = (e.2 (BitVec.ofNat 64 m)).toNat := by
  have hmul : ∀ n : BitVec 64, n.toNat % 2 ^ 64 = n.toNat := fun n => Nat.mod_eq_of_lt n.isLt
  have hmac : ∀ (m : Nat) (n : BitVec 64), (m + n.toNat) % 2 ^ 64 = (BitVec.ofNat 64 m + n).toNat := fun m n => by
    rw [BitVec.toNat_add, BitVec.toNat_ofNat, Nat.mod_add_mod]
  simp only [List.forall_mem_cons]
  exact ⟨⟨0x2B, fun _ a b => mulSigned a b, rfl, rfl, fun _ => by simp only [mulSigned_eq, hmul]⟩, ⟨0x2C, fun _ a b => a * b, rfl, rfl, fun _ => by simp only [mulUnsigned_eq, hmul]⟩,
    ⟨0x2D, fun m a b => m + mulSigned a b, rfl, rfl, fun _ => by simp only [mulSigned_eq, hmac]⟩, ⟨0x2E, fun m a b => m + a * b, rfl, rfl, fun _ => by simp only [mulUnsigned_eq, hmac]⟩, List.forall_mem_nil _⟩

end

/-- Settles O55: each operation's result is the one that the statement names, and the instruction's own equation says what becomes of it. -/
theorem integerInstructions : Obligations.IntegerInstructions := by
  unfold Obligations.IntegerInstructions
  rintro h s _ rfl _ rfl o
  refine ⟨?_, ?_, fun hbad => ?_, fun hbad => ?_, fun hbad => ?_⟩
  · rintro hpre hX _ rfl _ rfl _ rfl _ rfl
    refine ⟨?_, ?_, acts_mfq hpre hX, acts_mfs hpre hX, ?_, fun hD => ?_, ?_⟩
    · rintro src _ rfl _ rfl
      refine ⟨fun hB e he => ?_, fun e he => ?_⟩
      · obtain ⟨k, hk, f, hexec, hr⟩ := alu_operations h o s src _ _ e he
        exact acts_aluInst hexec hk hpre hX hB hr
      · obtain ⟨j, hj, f, hexec, hr⟩ := comparisons h o s src _ _ e he
        exact acts_cmpInst hexec hj hpre hX hr
    · rintro _ rfl
      refine ⟨acts_sel hpre hX, fun e he => ?_, fun hD e he => ?_⟩
      · obtain ⟨op, f, hlen, hexec, hr⟩ := divisions h o s _ _ e he
        exact divides hexec hlen hpre hX hr
      · obtain ⟨op, f, hlen, hexec, hg⟩ := multiplications h o s _ _ e he
        exact acts_mulInst hexec hlen hpre hX hD hg
    · rintro hD _ rfl
      simpa only [gWord_toNat] using carriesOut_mts_mac hpre hX hD
    · simpa only [gWord_toNat] using acts_mts_fctrl hpre hX hD
    · rintro hD _ rfl
      simpa only [gWord_toNat] using carriesOut_mts_fstat hpre hX hD
  · rintro src hbad _ rfl
    have hrefused : (prefixesOk allowNone h.pre && !optionX o && (srcReg src || fieldB o == 0)) = false :=
      regRefused (hbad.imp_right (Or.imp_right fun ⟨hreg, hB⟩ => by rw [hreg, Bool.false_or, beq_eq_false_iff_ne]; exact hB))
    exact ⟨illegal_of_row (exec_coreAdd.trans (srcInst_eq ..)) (codeLen_codeSrc_alu (k := 0) (by decide)) hrefused,
      illegal_of_row (exec_coreMaxu.trans (srcInst_eq ..)) (codeLen_codeSrc_alu (k := 15) (by decide)) hrefused⟩
  · exact illegal_of_row (exec_coreMac.trans (mulInst_eq ..)) rfl (regRefused (hbad.imp_right (Or.imp_right beq_eq_false_iff_ne.mpr)))
  · exact illegal_of_row exec_coreMfs rfl (regRefused (hbad.imp_right (Or.imp_right fun hA => decide_eq_false (Nat.not_le.mpr hA))))
  · exact illegal_of_row exec_coreMts rfl (regRefused (hbad.imp_right (Or.imp_right fun hD => decide_eq_false (Nat.not_le.mpr hD))))

end Sys2Proof.Machine

/-! O60: the binary32 instructions. -/
namespace Sys2Proof.Machine

open Sys2Proof

/-! ### How a binary32 instruction is carried out -/

section
variable {h : Hdr} {o : BitVec 16} {s : State}

/-- The registers that the escaped instruction `k` reads. -/
def floatReads (k : Nat) (o : BitVec 16) (imm : Option Word) : List Nat :=
  [fieldA o] ++ (if imm.isNone && decide (k ≠ 0x04 ∧ k < 0x0E) then [fieldB o] else []) ++ (if k = 0x09 then [fieldD o] else [])

/-- The second operand: the immediate, or gB. -/
def floatSecond (o : BitVec 16) (imm : Option Word) (i : Nat) (s : State) : Nat :=
  match imm with
  | some v => v.toNat
  | none => gGet i (fieldB o) s

/-- The operands of a binary32 instruction of core `i`. -/
def floatIn (o : BitVec 16) (imm : Option Word) (i : Nat) (s : State) : FIn :=
  ⟨gGet i (fieldD o) s, gGet i (fieldA o) s, floatSecond o imm i s, (cpu i s).fctrl % 4, (cpu i s).fctrl.testBit 2⟩

/-- How a binary32 instruction issues. -/
def floatIss (k : Nat) (h : Hdr) (o : BitVec 16) (imm : Option Word) (stall : Bool) (s : State) : Iss :=
  { reads := floatReads k o imm, writes := [fieldD o], f32 := true, alone := stall || preciseFloat (coreNum h.core) s }

theorem floatIn_afterIssue {imm : Option Word} {u : Iss} {size : Nat} :
    floatIn o imm (coreNum h.core) (afterIssue h u size s) = floatIn o imm (coreNum h.core) s := by
  cases imm <;> simp [floatIn, floatSecond, fctrl_afterIssue]

theorem preciseFloat_afterIssue {u : Iss} {size : Nat} :
    preciseFloat (coreNum h.core) (afterIssue h u size s) = preciseFloat (coreNum h.core) s := by
  rw [preciseFloat, fctrl_afterIssue, preciseFloat]
  rfl

theorem fRM_eq (i : Nat) (s : State) : fRM i s = (cpu i s).fctrl % 4 := by rw [fRM, bits, Nat.pow_zero, Nat.div_one]; rfl

theorem floatInst_eq (k : Nat) (h : Hdr) (o : BitVec 16) (legal : Bool) (imm : Option Word) (n lat : Nat) (stall : Bool) (f : FIn → FRes) (s : State) :
    floatInst k h o legal imm n lat stall f s
      = runInst ⟨0x0F00 + k, o.toNat + 2 ^ 16 * (imm.map BitVec.toNat).getD 0, none⟩ (floatIss k h o imm stall s) h
        (prefixesOk allowNone h.pre && !optionX o && legal) (fun x t =>
          arithEnd x (fieldD o) (f (floatIn o imm x.i t)) n (if stall || preciseFloat x.i t then lat else 0) lat t) s := by
  have hbody : ∀ (i : Nat) (t : State), (⟨gGet i (fieldD o) t, gGet i (fieldA o) t, floatSecond o imm i t, fRM i t, fFTZ i t⟩ : FIn)
      = floatIn o imm i t := fun i t => by rw [fRM_eq]; rfl
  simp only [← hbody]
  cases imm <;> rfl

/-- A binary32 instruction whose operation gives `r`: the result, or the ARITH exception in its place. -/
theorem floats {e : Instr} {k size n lat : Nat} {imm : Option Word} {stall legal : Bool} {f : FIn → FRes} {r : FRes}
    (hexec : exec e s = floatInst k h o legal imm n lat stall f s) (hlegal : legal = true)
    (hlen : codeLen ⟨0x0F00 + k, o.toNat + 2 ^ 16 * (imm.map BitVec.toNat).getD 0, none⟩ = size)
    (hr : f (floatIn o imm (coreNum h.core) s) = r) :
    ∀ u : Iss, u = floatIss k h o imm stall s →
      (h.pre = [] → optionX o = false → (fbit EXC_CTRL_PRECISE (coreNum h.core) s = false ∨ r.f &&& trapBits (cpu (coreNum h.core) s).fctrl = 0) →
        acts e h u size n (if stall || preciseFloat (coreNum h.core) s then lat else 0) lat s (fun c q =>
          arithHeld (isHost (coreNum h.core)) (cpu (coreNum h.core) s).pc r.f c lat (withG (fieldD o) r.v (flagged r.f q))))
      ∧ (h.pre = [] → optionX o = false → fbit EXC_CTRL_PRECISE (coreNum h.core) s = true → r.f &&& trapBits (cpu (coreNum h.core) s).fctrl ≠ 0 →
        begins h u size s → ∀ c : Nat, c = beginCycle (coreNum h.core) h.wait u s → exec e s = .next (takeException (coreNum h.core)
          ⟨6, 0, (cpu (coreNum h.core) s).pc, r.f⟩ false (cpu (coreNum h.core) s).pc c (raiseAt (coreNum h.core) r.f (c + lat - 1)
            (advance (coreNum h.core) (((cpu (coreNum h.core) s).pc + size) % 2 ^ 32) c u s))))
      ∧ ((h.pre ≠ [] ∨ optionX o = true) → illegal e h u size s) := by
  rintro _ rfl
  have hbody : ∀ u, arithEnd (insAt h u size s) (fieldD o) (f (floatIn o imm (insAt h u size s).i (afterIssue h u size s))) n
        (if stall || preciseFloat (insAt h u size s).i (afterIssue h u size s) then lat else 0) lat (afterIssue h u size s)
      = arithEnd (insAt h u size s) (fieldD o) r n (if stall || preciseFloat (coreNum h.core) s then lat else 0) lat (afterIssue h u size s) :=
    fun u => by rw [insAt, floatIn_afterIssue, preciseFloat_afterIssue, hr]
  refine ⟨fun hpre hX htrap => ?_, ?_, fun hbad => ?_⟩
  · exact acts_of_arithEnd (hexec.trans (floatInst_eq ..)) hlen (regLegal hpre hX hlegal) (hbody _) htrap
  · rintro hpre hX hprec hbits hb _ rfl
    have hexc := exec_of_arithEnd_precise (hexec.trans (floatInst_eq ..)) hlen (regLegal hpre hX hlegal) (hbody _) hprec hbits hb
    rwa [afterIssue, hpre] at hexc
  · exact illegal_of_row (hexec.trans (floatInst_eq ..)) hlen (regRefused (hbad.imp_right Or.inl))

end

/-- What the statement lists of a binary32 instruction is what the model gives: the escaped instruction, its reads, its size, its result. -/
def floatRow (h : Hdr) (o : BitVec 16) (s : State) (e : Instr × List Nat × Nat × Nat × Bool × FRes) : Prop :=
  ∃ k imm legal f, exec e.1 s = floatInst k h o legal imm e.2.2.1 e.2.2.2.1 e.2.2.2.2.1 f s ∧ legal = true
    ∧ codeLen ⟨0x0F00 + k, o.toNat + 2 ^ 16 * (imm.map BitVec.toNat).getD 0, none⟩
      = (match e.1 with | .coreFaddi _ _ _ => 8 | .coreFmuli _ _ _ => 8 | .coreFclti _ _ _ => 8 | _ => 4)
    ∧ floatReads k o imm = e.2.1 ∧ f (floatIn o imm (coreNum h.core) s) = e.2.2.2.2.2

theorem floatRows (h : Hdr) (o : BitVec 16) (s : State) (imm : Word) : ∀ rm : Nat, rm = (cpu (coreNum h.core) s).fctrl % 4 →
    ∀ z : Bool, z = (cpu (coreNum h.core) s).fctrl.testBit 2 → ∀ a : Nat, a = gGet (coreNum h.core) (fieldA o) s →
    ∀ b : Nat, b = gGet (coreNum h.core) (fieldB o) s → ∀ x : F32, x = unpack z a → ∀ y : F32, y = unpack z b → ∀ w : F32, w = unpack z imm.toNat →
    ∀ n : Int, n = (BitVec.ofNat 32 a).toInt →
    ∀ e ∈ ([(.coreFadd h o, [fieldA o, fieldB o], 3, 4, false, addF rm z x y), (.coreFsub h o, [fieldA o, fieldB o], 3, 4, false, addF rm z x y.negate),
        (.coreFmul h o, [fieldA o, fieldB o], 3, 4, false, mulF rm z x y), (.coreFdiv h o, [fieldA o, fieldB o], 18, 14, true, divF rm z x y),
        (.coreFmin h o, [fieldA o, fieldB o], 1 + Config.fminLoop, 1 + Config.fminHost, false, minmaxF false (flushed z a) (flushed z b) x y),
        (.coreFmax h o, [fieldA o, fieldB o], 1 + Config.fminLoop, 1 + Config.fminHost, false, minmaxF true (flushed z a) (flushed z b) x y),
        (.coreFma h o, [fieldA o, fieldB o, fieldD o], 4, 5, false, fmaF rm z (unpack z (gGet (coreNum h.core) (fieldD o) s)) x y),
        (.coreFceq h o, [fieldA o, fieldB o], 1, 2, false, fceqF x y), (.coreFclt h o, [fieldA o, fieldB o], 1, 2, false, fcltF false x y),
        (.coreFcle h o, [fieldA o, fieldB o], 1, 2, false, fcltF true x y), (.coreFcun h o, [fieldA o, fieldB o], 1, 2, false, fcunF x y),
        (.coreFcvtif h o, [fieldA o], 3, 4, false, fromInt rm z n 0), (.coreFcvtfi h o, [fieldA o], 3, 4, false, toInt rm x 0),
        (.coreFcvtqf h o, [fieldA o], 3, 4, false, fromInt rm z n (fieldB o)), (.coreFcvtfq h o, [fieldA o], 3, 4, false, toInt rm x (fieldB o)),
        (.coreFaddi h o imm, [fieldA o], 3, 4, false, addF rm z x w), (.coreFmuli h o imm, [fieldA o], 3, 4, false, mulF rm z x w),
        (.coreFclti h o imm, [fieldA o], 1, 2, false, fcltF false x w)] : List (Instr × List Nat × Nat × Nat × Bool × FRes)), floatRow h o s e := by
  rintro _ rfl _ rfl _ rfl _ rfl _ rfl _ rfl _ rfl _ rfl
  simp only [List.forall_mem_cons]
  exact ⟨⟨0x00, none, true, fun x => addF x.rm x.ftz x.A x.B, rfl, rfl, rfl, rfl, rfl⟩,
    ⟨0x01, none, true, fun x => addF x.rm x.ftz x.A x.B.negate, rfl, rfl, rfl, rfl, rfl⟩,
    ⟨0x02, none, true, fun x => mulF x.rm x.ftz x.A x.B, rfl, rfl, rfl, rfl, rfl⟩,
    ⟨0x03, none, true, fun x => divF x.rm x.ftz x.A x.B, rfl, rfl, rfl, rfl, rfl⟩,
    ⟨0x05, none, true, fun x => minmaxF false (flushed x.ftz x.a) (flushed x.ftz x.b) x.A x.B, rfl, rfl, rfl, rfl, rfl⟩,
    ⟨0x06, none, true, fun x => minmaxF true (flushed x.ftz x.a) (flushed x.ftz x.b) x.A x.B, rfl, rfl, rfl, rfl, rfl⟩,
    ⟨0x09, none, true, fun x => fmaF x.rm x.ftz x.D x.A x.B, rfl, rfl, rfl, rfl, rfl⟩,
    ⟨0x0A, none, true, fun x => fceqF x.A x.B, rfl, rfl, rfl, rfl, rfl⟩,
    ⟨0x0B, none, true, fun x => fcltF false x.A x.B, rfl, rfl, rfl, rfl, rfl⟩,
    ⟨0x0C, none, true, fun x => fcltF true x.A x.B, rfl, rfl, rfl, rfl, rfl⟩,
    ⟨0x0D, none, true, fun x => fcunF x.A x.B, rfl, rfl, rfl, rfl, rfl⟩,
    ⟨0x0E, none, true, fun x => fromInt x.rm x.ftz (sint x.a) 0, rfl, rfl, rfl, rfl, rfl⟩,
    ⟨0x0F, none, true, fun x => toInt x.rm x.A 0, rfl, rfl, rfl, rfl, rfl⟩,
    ⟨0x10, none, true, fun x => fromInt x.rm x.ftz (sint x.a) (fieldB o), rfl, rfl, rfl, rfl, rfl⟩,
    ⟨0x11, none, true, fun x => toInt x.rm x.A (fieldB o), rfl, rfl, rfl, rfl, rfl⟩,
    ⟨0x20, some imm, true, fun x => addF x.rm x.ftz x.A x.B, rfl, rfl, rfl, rfl, rfl⟩,
    ⟨0x21, some imm, true, fun x => mulF x.rm x.ftz x.A x.B, rfl, rfl, rfl, rfl, rfl⟩,
    ⟨0x22, some imm, true, fun x => fcltF false x.A x.B, rfl, rfl, rfl, rfl, rfl⟩,
    List.forall_mem_nil _⟩

end Sys2Proof.Machine

/-! O60: what the binary32 operations give. -/
namespace Sys2Proof.Machine

open Sys2Proof

/-! ### NaN operands -/

/-- A word that is a NaN, and whether it is a quiet one (R203). -/
def wordNaN (w : Word) : Bool := w.toNat / 2 ^ 23 % 2 ^ 8 == 255 && w.toNat % 2 ^ 23 != 0

theorem bits_low (n hi : Nat) : bits n hi 0 = n % 2 ^ (hi + 1) := by rw [bits, Nat.pow_zero, Nat.div_one, Nat.sub_zero]

theorem quiet_iff (m : Nat) : decide (m % 2 ^ 23 < 2 ^ 22) = !m.testBit 22 := by
  rw [Nat.testBit_eq_decide_div_mod_eq, ← decide_not, decide_eq_decide]
  omega

theorem unpack_of_nan {z : Bool} {w : Word} (hnan : wordNaN w = true) : unpack z w.toNat = .nan (!w.toNat.testBit 22) := by
  obtain ⟨hx, hm⟩ := Bool.and_eq_true_iff.mp hnan
  have hx' : bits w.toNat 30 23 = 255 := beq_iff_eq.mp hx
  have hm' : w.toNat % 2 ^ 23 ≠ 0 := bne_iff_ne.mp hm
  rw [unpack, if_pos hx', bits_low, if_neg hm', quiet_iff]

theorem isNaN_unpack (z : Bool) (w : Word) : (unpack z w.toNat).isNaN = wordNaN w := by
  cases hnan : wordNaN w with
  | true => rw [unpack_of_nan hnan]; rfl
  | false =>
    unfold unpack
    dsimp only
    split
    · next hx =>
      have hm : bits w.toNat 22 0 = 0 := by
        rw [wordNaN, show w.toNat / 2 ^ 23 % 2 ^ 8 = 255 from hx] at hnan
        rw [bits_low]
        simpa using hnan
      rw [if_pos hm, F32.isNaN]
      simp
    · split
      · split <;> rfl
      · rfl

theorem nv_unpack (z : Bool) (w : Word) : (unpack z w.toNat).nv = if wordNaN w && !w.toNat.testBit 22 then 16 else 0 := by
  cases hnan : wordNaN w with
  | true =>
    rw [unpack_of_nan hnan]
    cases w.toNat.testBit 22 <;> rfl
  | false =>
    have hnumber := isNaN_unpack z w
    rw [hnan] at hnumber
    cases hx : unpack z w.toNat with
    | nan q => rw [hx] at hnumber; cases hnumber
    | inf n => rfl
    | zero n => rfl
    | fin n m e => rfl

/-- With a NaN among two operands the result is the quiet NaN, NV of a signalling one; a comparison is false, FCUN true. -/
theorem nan_results (rm : Nat) (z : Bool) (a b : Word) (d : F32) (hnan : (wordNaN a || wordNaN b) = true) :
    (∀ r ∈ [addF rm z (unpack z a.toNat) (unpack z b.toNat), mulF rm z (unpack z a.toNat) (unpack z b.toNat),
        divF rm z (unpack z a.toNat) (unpack z b.toNat)], r.v = 0x7FC00000
      ∧ r.f = if (wordNaN a && !a.toNat.testBit 22) || (wordNaN b && !b.toNat.testBit 22) then 16 else 0)
    ∧ (fceqF (unpack z a.toNat) (unpack z b.toNat)).v = 0 ∧ fcltF false (unpack z a.toNat) (unpack z b.toNat) = ⟨0, 16⟩
    ∧ fcltF true (unpack z a.toNat) (unpack z b.toNat) = ⟨0, 16⟩ ∧ (fcunF (unpack z a.toNat) (unpack z b.toNat)).v = 1
    ∧ (fmaF rm z d (unpack z a.toNat) (unpack z b.toNat)).v = 0x7FC00000 := by
  have hop : ((unpack z a.toNat).isNaN || (unpack z b.toNat).isNaN) = true := by rw [isNaN_unpack, isNaN_unpack, hnan]
  have hnv : (unpack z a.toNat).nv ||| (unpack z b.toNat).nv
      = if (wordNaN a && !a.toNat.testBit 22) || (wordNaN b && !b.toNat.testBit 22) then 16 else 0 := by
    rw [nv_unpack, nv_unpack]
    cases wordNaN a && !a.toNat.testBit 22 <;> cases wordNaN b && !b.toNat.testBit 22 <;> rfl
  have heq : (!(unpack z a.toNat).isNaN && !(unpack z b.toNat).isNaN) = false := by rw [← Bool.not_or, hop]; rfl
  refine ⟨?_, ?_, if_pos hop, if_pos hop, ?_, ?_⟩
  · have hadd : addF rm z (unpack z a.toNat) (unpack z b.toNat) = ⟨quietNaN, _⟩ := if_pos hop
    have hmul : mulF rm z (unpack z a.toNat) (unpack z b.toNat) = ⟨quietNaN, _⟩ := if_pos hop
    have hdiv : divF rm z (unpack z a.toNat) (unpack z b.toNat) = ⟨quietNaN, _⟩ := if_pos hop
    simp only [hadd, hmul, hdiv, hnv, List.forall_mem_cons]
    exact ⟨⟨rfl, trivial⟩, ⟨rfl, trivial⟩, ⟨rfl, trivial⟩, List.forall_mem_nil _⟩
  · rw [fceqF, heq]; rfl
  · rw [fcunF, hop]; rfl
  · rw [fmaF, if_pos hop]; rfl

theorem fcun_of_numbers (z : Bool) (a b : Word) (hnan : (wordNaN a || wordNaN b) = false) :
    fcunF (unpack z a.toNat) (unpack z b.toNat) = ⟨0, 0⟩ := by
  obtain ⟨ha, hb⟩ := Bool.or_eq_false_iff.mp hnan
  simp [fcunF, isNaN_unpack, nv_unpack, ha, hb]

/-! ### Integers up to 2^24 (R204) -/

theorem roundShift_exact (rm : Nat) (neg : Bool) (q d : Nat) : roundShift rm neg (q * 2 ^ d) d = (q, false) := by
  have hpos : 0 < 2 ^ d := Nat.two_pow_pos d
  unfold roundShift
  rw [Nat.mul_mod_left, Nat.mul_div_cancel _ hpos]
  rcases rm with _ | _ | _ | rm <;> simp [hpos.ne]

/-- A number that is `x` times 2^q, as a multiple of 2^q. -/
theorem roundTo_exact (rm : Nat) (neg : Bool) {m x : Nat} {e q : Int} (hm : m * 2 ^ (e - q).toNat = x * 2 ^ (q - e).toNat) :
    roundTo rm neg m e q = (x, false) := by
  unfold roundTo
  split
  · next hq =>
    rw [hm, show (q - e).toNat = 0 by omega, Nat.pow_zero, Nat.mul_one]
  · next hq =>
    rw [show (e - q).toNat = 0 by omega, Nat.pow_zero, Nat.mul_one] at hm
    rw [hm, roundShift_exact]

/-- The integer `m` as a binary32 number: `x` times 2^(t-23), with `t` its top bit. -/
structure Normal (m x t : Nat) : Prop where
  top : Nat.log2 m = t
  low : 2 ^ 23 ≤ x
  high : x < 2 ^ 24
  eq : m * 2 ^ (23 - t) = x * 2 ^ (t - 23)
  small : t ≤ 24

theorem normal_exists {m : Nat} (hpos : 0 < m) (hm : m ≤ 2 ^ 24) : ∃ x t, Normal m x t := by
  rcases hm.lt_or_eq with hlt | rfl
  · have hlog : Nat.log2 m ≤ 23 := Nat.lt_succ_iff.mp ((Nat.log2_lt hpos.ne').mpr hlt)
    have hlow : 2 ^ Nat.log2 m ≤ m := Nat.log2_self_le hpos.ne'
    have hhigh : m < 2 ^ (Nat.log2 m + 1) := Nat.lt_log2_self
    refine ⟨m * 2 ^ (23 - Nat.log2 m), Nat.log2 m, rfl, ?_, ?_, ?_, by omega⟩
    · calc 2 ^ 23 = 2 ^ Nat.log2 m * 2 ^ (23 - Nat.log2 m) := by rw [← Nat.pow_add, Nat.add_sub_cancel' hlog]
        _ ≤ _ := Nat.mul_le_mul_right _ hlow
    · calc m * 2 ^ (23 - Nat.log2 m) < 2 ^ (Nat.log2 m + 1) * 2 ^ (23 - Nat.log2 m) := Nat.mul_lt_mul_of_pos_right hhigh (Nat.two_pow_pos _)
        _ = 2 ^ 24 := by rw [← Nat.pow_add, show Nat.log2 m + 1 + (23 - Nat.log2 m) = 24 by omega]
    · rw [Nat.sub_eq_zero_of_le hlog, Nat.pow_zero, Nat.mul_one]
  · exact ⟨2 ^ 23, 24, by decide, by decide, by decide, by decide, by decide⟩

/-- The word of the number with sign `neg`, top bit `t` and significand `x`. -/
def packed (neg : Bool) (x t : Nat) : Nat := signBit neg + (t + 127) * 2 ^ 23 + (x - 2 ^ 23)

theorem roundF_normal (rm : Nat) (z neg : Bool) {m x t : Nat} (h : Normal m x t) : roundF rm z neg m 0 = ⟨packed neg x t, 0⟩ := by
  obtain ⟨htop, hlow, hhigh, heq, hsmall⟩ := h
  have hq : max ((t : Int) + 0 - 23) (-149) = t - 23 := by omega
  have hround : roundTo rm neg m 0 ((t : Int) - 23) = (x, false) := roundTo_exact rm neg (by
    rw [show ((0 : Int) - (t - 23)).toNat = 23 - t by omega, show ((t : Int) - 23 - 0).toNat = t - 23 by omega, heq])
  have hexp : ((t : Int) - 23 + 150).toNat = t + 127 := by omega
  unfold roundF
  simp only [htop, hq, hround, decide_eq_false (show x ≠ 2 ^ 24 by omega), Bool.false_eq_true, if_false, if_neg (show ¬x < 2 ^ 23 by omega),
    if_neg (show ¬254 < (t : Int) - 23 + 150 by omega), hexp]
  rfl

theorem unpack_packed (z neg : Bool) {m x t : Nat} (h : Normal m x t) : unpack z (packed neg x t) = .fin neg x (t - 23) := by
  obtain ⟨-, hlow, hhigh, -, hsmall⟩ := h
  have hbit : neg.toNat ≤ 1 := Bool.toNat_le neg
  have hword : packed neg x t = neg.toNat * 2147483648 + (t + 127) * 8388608 + (x - 8388608) := by
    cases neg <;> rfl
  have hsign : (packed neg x t).testBit 31 = neg := by
    rw [Nat.testBit_eq_decide_div_mod_eq, hword, show (neg.toNat * 2147483648 + (t + 127) * 8388608 + (x - 8388608)) / 2 ^ 31 = neg.toNat by omega]
    cases neg <;> rfl
  have hexp : bits (packed neg x t) 30 23 = t + 127 := by
    rw [bits, hword]
    omega
  have hfrac : bits (packed neg x t) 22 0 = x - 8388608 := by
    rw [bits_low, hword]
    omega
  unfold unpack
  simp only [hsign, hexp, hfrac, if_neg (show ¬t + 127 = 255 by omega), if_neg (show ¬t + 127 = 0 by omega)]
  rw [show x - 8388608 + 2 ^ 23 = x by omega, show ((t + 127 : Nat) : Int) - 150 = t - 23 by omega]

theorem toInt_normal (rm : Nat) (neg : Bool) {m x t : Nat} (h : Normal m x t) (hm : m ≤ 2 ^ 24) :
    toInt rm (.fin neg x (t - 23)) 0 = ⟨if neg then word (-(m : Int)) else m, 0⟩ := by
  have hround : roundTo rm neg x ((t : Int) - 23 + (0 : Nat)) 0 = (m, false) := roundTo_exact rm neg (by
    rw [show ((t : Int) - 23 + (0 : Nat) - 0).toNat = t - 23 by omega, show ((0 : Int) - (t - 23 + (0 : Nat))).toNat = 23 - t by omega, h.eq])
  unfold toInt
  simp only [hround, if_neg (show ¬2 ^ 31 < m by omega), if_neg (show ¬2 ^ 31 ≤ m by omega)]
  cases neg <;> rfl

/-- An integer of magnitude up to 2^24 converts to binary32 and back exactly. -/
theorem integer_exact (rm : Nat) (z : Bool) (v : Int) (hlow : -(2 ^ 24) ≤ v) (hhigh : v ≤ 2 ^ 24) :
    (fromInt rm z v 0).f = 0 ∧ toInt rm (unpack z (fromInt rm z v 0).v) 0 = ⟨(BitVec.ofInt 32 v).toNat, 0⟩ := by
  by_cases hv : v = 0
  · subst hv
    have hfrom : fromInt rm z 0 0 = ⟨0, 0⟩ := by rw [fromInt, roundInt, if_pos rfl]; rfl
    have hzero : unpack z 0 = .zero false := by simp [unpack, bits]
    rw [hfrom]
    exact ⟨rfl, by rw [hzero]; rfl⟩
  · obtain ⟨x, t, h⟩ := normal_exists (m := v.natAbs) (by omega) (by omega)
    have hfrom : fromInt rm z v 0 = ⟨packed (decide (v < 0)) x t, 0⟩ := (if_neg hv).trans (roundF_normal rm z _ h)
    rw [hfrom]
    refine ⟨rfl, ?_⟩
    rw [unpack_packed z _ h, toInt_normal rm _ h (by omega)]
    have hword : (if decide (v < 0) = true then word (-(v.natAbs : Int)) else v.natAbs) = (BitVec.ofInt 32 v).toNat := by
      simp only [decide_eq_true_iff]
      split
      · rw [show -(v.natAbs : Int) = v by omega, word]
      · rw [BitVec.toNat_ofInt]
        omega
    rw [hword]

/-! ### The statement -/

section
variable {h : Hdr} {o : BitVec 16} {s : State}

theorem exec_coreFsqrt : exec (.coreFsqrt h o) s = floatInst 0x04 h o (fieldB o == 0) none 18 16 true (fun x => sqrtF x.rm x.ftz x.A) s := rfl

theorem floatRow_sqrt (hB : fieldB o = 0) : floatRow h o s (.coreFsqrt h o, [fieldA o], 18, 16, true,
    sqrtF ((cpu (coreNum h.core) s).fctrl % 4) ((cpu (coreNum h.core) s).fctrl.testBit 2)
      (unpack ((cpu (coreNum h.core) s).fctrl.testBit 2) (gGet (coreNum h.core) (fieldA o) s))) :=
  ⟨_, _, _, _, exec_coreFsqrt, by rw [hB]; rfl, rfl, rfl, rfl⟩

theorem signInst_eq (k : Nat) (h : Hdr) (o : BitVec 16) (f : Nat → Nat) (s : State) : signInst k h o f s
    = runInst (codeR (0x0F00 + k) o) { reads := [fieldA o], writes := [fieldD o], f32 := true } h (prefixesOk allowNone h.pre && !optionX o)
      (fun x t => { s := gSet x.i (fieldD o) (f (gGet x.i (fieldA o) t)) t }) s := rfl

/-- FNEG and FABS act on the sign bit alone. -/
theorem signs {e : Instr} {k v : Nat} {f : Nat → Nat} (hexec : exec e s = signInst k h o f s) (hlen : codeLen (codeR (0x0F00 + k) o) = 4)
    (hv : f (gGet (coreNum h.core) (fieldA o) s) = v) : ∀ u : Iss, u = { reads := [fieldA o], writes := [fieldD o], f32 := true } →
      (h.pre = [] → optionX o = false → acts e h u 4 1 0 1 s (fun _ => withG (fieldD o) v))
      ∧ ((h.pre ≠ [] ∨ optionX o = true) → illegal e h u 4 s) := by
  rintro _ rfl
  have hlegal : (prefixesOk allowNone h.pre && !optionX o) = (prefixesOk allowNone h.pre && !optionX o && true) := (Bool.and_true _).symm
  refine ⟨fun hpre hX => ?_, fun hbad => ?_⟩
  · exact acts_of_coreStep (hexec.trans (signInst_eq ..)) hlen (hlegal.trans (regLegal hpre hX rfl)) (by simp only [insAt, gGet_afterIssue, hv])
      (IssueBlind.withG _ _) ((CoreStep.refl _ _).gSet _ _)
  · exact illegal_of_row (hexec.trans (signInst_eq ..)) hlen (hlegal.trans (regRefused (hbad.imp_right Or.inl)))

end

theorem minmax_zeros (z : Bool) : minmaxF false 0 0x80000000 (unpack z 0) (unpack z 0x80000000) = ⟨0x80000000, 0⟩
    ∧ minmaxF true 0x80000000 0 (unpack z 0x80000000) (unpack z 0) = ⟨0, 0⟩ := by
  cases z <;> decide

/-- Settles O60: each row of the statement's list is one of the model's, and the results of NaN operands and of integers follow from the
operations themselves. -/
theorem floatInstructions : Obligations.FloatInstructions := by
  unfold Obligations.FloatInstructions
  refine ⟨?_, ?_, integer_exact, minmax_zeros⟩
  · rintro h s _ rfl _ rfl o _ rfl _ rfl _ rfl imm rm hrm z hz a ha b hb x hx y hy w hw n hn _ rfl
    refine ⟨fun e he size hsize u hu => ?_, fun hB => ?_, ?_⟩
    · have hrow : floatRow h o s e := by
        rcases List.mem_append.mp he with hlisted | hsqrt
        · exact floatRows h o s imm rm hrm z hz a ha b hb x hx y hy w hw n hn e hlisted
        · by_cases hB : fieldB o = 0
          · rw [if_pos hB, List.mem_singleton, hx, ha, hrm, hz] at hsqrt
            rw [hsqrt]
            exact floatRow_sqrt hB
          · rw [if_neg hB] at hsqrt
            cases hsqrt
      obtain ⟨k, imm, legal, f, hexec, hlegal, hlen, hreads, hr⟩ := hrow
      exact floats hexec hlegal (hlen.trans hsize.symm) hr u (by rw [hu, floatIss, hreads]; rfl)
    · exact illegal_of_row (exec_coreFsqrt.trans (floatInst_eq ..)) rfl (regRefused (.inr (.inr (beq_eq_false_iff_ne.mpr hB))))
    · subst ha
      simp only [List.forall_mem_cons]
      exact ⟨signs (k := 7) (f := fun a => a ^^^ 2 ^ 31) rfl rfl rfl, signs (k := 8) (f := fun a => a % 2 ^ 31) rfl rfl rfl, List.forall_mem_nil _⟩
  · rintro rm z a b d _ rfl _ rfl _ rfl _ rfl
    exact ⟨nan_results rm z a b _, fcun_of_numbers z a b⟩

end Sys2Proof.Machine

/-! The plain memories of a core, where no word holds an error: what its reads and writes give. -/
namespace Sys2Proof.Machine

open Sys2Proof

/-! ### Accesses to sound memory -/

theorem memorySound_afterIssue {h : Hdr} {u : Iss} {size : Nat} {s : State} (hs : memorySound s) : memorySound (afterIssue h u size s) := hs

theorem wordBad_of_sound {s : State} (hs : memorySound s) (w : Nat) : wordBad w s = false := by
  rw [wordBad, hs.1, List.contains_nil, Bool.and_false]

theorem checkWords_of_sound {s : State} (hs : memorySound s) (ws : List Nat) (req : Nat) : checkWords ws req s = (true, s) := by
  have hbad : ws.find? (fun w => wordBad w s) = none := List.find?_eq_none.mpr (by simp [wordBad_of_sound hs])
  have hsoft : ws.filter (fun w => wordSoft w s) = [] := List.filter_eq_nil_iff.mpr (by simp [wordSoft, hs.2])
  rw [checkWords, hbad, hsoft, forAll_nil]

theorem writeMem_of_sound {s : State} (hs : memorySound s) (f n v req : Nat) : writeMem f n v req s = (true, putMem f n v s) := by
  rw [writeMem, checkWords_of_sound hs]

theorem cacheStore_of_sound {s : State} (hs : memorySound s) (f n v req : Nat) : cacheStore f n v req s = putMem f n v s := by
  have hbad : (partWords f n).filter (fun w => wordBad w s) = [] := List.filter_eq_nil_iff.mpr (by simp [wordBad_of_sound hs])
  rw [cacheStore, hbad, if_pos rfl, writeMem_of_sound hs]

/-! ### What a write leaves -/

theorem makeValid_of_sound {s : State} (hs : memorySound s) (f : Nat) : ∃ v, makeValid f s = { s with valid := v } := by
  obtain ⟨hp, hq⟩ := hs
  unfold makeValid
  split
  · split
    · exact ⟨s.valid, rfl⟩
    · next u _ _ _ => exact ⟨nput u s.valid, by simp only [hp, hq, List.filter_nil]⟩
  · exact ⟨s.valid, rfl⟩

theorem forAll_makeValid_of_sound {s : State} (hs : memorySound s) (ws : List Nat) : ∃ v, forAll ws makeValid s = { s with valid := v } :=
  forAll_induct (fun t => ∃ v, t = { s with valid := v }) ws makeValid s ⟨s.valid, rfl⟩ fun w _ t ⟨v, ht⟩ => by
    have hsound : memorySound t := by rw [ht]; exact hs
    obtain ⟨v', h'⟩ := makeValid_of_sound hsound w
    exact ⟨v', by rw [h', ht]⟩

/-- The words that a write touches, among those of a tag. -/
theorem tagged_iff {f n w : Nat} (hn : 0 < n) : ((wordsOf f n).contains (2 * w) || (wordsOf f n).contains (2 * w + 1)) = false
    ↔ 16 * w + 16 ≤ f ∨ f + n ≤ 16 * w := by
  have hmem : ∀ x, x ∈ wordsOf f n ↔ f / 8 ≤ x ∧ x < (f + n + 7) / 8 := fun x => by
    rw [wordsOf, if_neg hn.ne']
    simp only [List.mem_map, List.mem_range]
    constructor
    · rintro ⟨a, ha, rfl⟩
      omega
    · intro hx
      exact ⟨x - f / 8, by omega, by omega⟩
  rw [Bool.or_eq_false_iff, List.contains_eq_mem, List.contains_eq_mem, decide_eq_false_iff_not, decide_eq_false_iff_not, hmem, hmem]
  omega

section
variable {s : State} (hs : memorySound s) (f n v : Nat)
include hs

/-- A write changes the bytes, the valid pages and the tags of the words that it touches. -/
theorem putMem_of_sound : ∃ v' m, putMem f n v s = mwrite f n v { s with
    valid := v', memh := m, tags := s.tags.filter (fun t => !((wordsOf f n).contains (2 * t) || (wordsOf f n).contains (2 * t + 1))) } := by
  obtain ⟨v', hvalid⟩ := forAll_makeValid_of_sound hs ((wordsOf f n).map (8 * ·))
  obtain ⟨hp, hq⟩ := hs
  refine ⟨v', if s.memh.live = [] then s.memh else { s.memh with
    live := s.memh.live.filter (fun b => [].contains (b / 8) && (covers f n (b / 8) == false)) }, ?_⟩
  unfold putMem
  simp only [hvalid, hp, hq, List.filter_nil]

theorem putMem_frame : putMem f n v s = memoryOf (putMem f n v s) s := by
  obtain ⟨v', m, h⟩ := putMem_of_sound hs f n v
  rw [h, mwrite_eq]
  rfl

theorem memorySound_putMem : memorySound (putMem f n v s) := by
  rw [putMem_frame hs]
  exact hs

theorem mget_putMem_other {a : Nat} (ha : a < f ∨ f + n ≤ a) : mget a (putMem f n v s) = mget a s := by
  obtain ⟨v', m, h⟩ := putMem_of_sound hs f n v
  rw [h, mget_mwrite_other _ _ _ _ _ ha]
  rfl

theorem mread_putMem_same : mread f n (putMem f n v s) = v % 2 ^ (8 * n) := by
  obtain ⟨v', m, h⟩ := putMem_of_sound hs f n v
  rw [h, mread_mwrite_same, Nat.pow_mul]

theorem mem_tags_putMem (hn : 0 < n) (w : Nat) : w ∈ (putMem f n v s).tags ↔ w ∈ s.tags ∧ (16 * w + 16 ≤ f ∨ f + n ≤ 16 * w) := by
  obtain ⟨v', m, h⟩ := putMem_of_sound hs f n v
  rw [← tagged_iff hn, h, mwrite_eq]
  simp only [List.mem_filter, Bool.not_eq_true']

theorem stored_putMem (hn : 0 < n) : stored f n v s (putMem f n v s) :=
  ⟨mread_putMem_same hs f n v, fun _ ha => mget_putMem_other hs f n v ha, mem_tags_putMem hs f n v hn⟩

end

/-! ### A core's plain memories (R216, R225, R275) -/

theorem within_iff {a lo n : Nat} : within a lo n = true ↔ lo ≤ a ∧ a < lo + n := by
  rw [within, Bool.and_eq_true, decide_eq_true_iff, decide_eq_true_iff]

theorem region_sram {a : Nat} (ha : regionOf a = .sram) : 0x20000000 ≤ a ∧ a < 0x20800000 := by
  unfold regionOf at ha
  simp only [within_iff] at ha
  split_ifs at ha
  omega

theorem region_dram {a : Nat} (ha : regionOf a = .dram) : 0x80000000 ≤ a ∧ a < 0x100000000 := by
  unfold regionOf at ha
  simp only [within_iff] at ha
  split_ifs at ha
  omega

theorem regionOf_dram {a : Nat} (hlow : 0x80000000 ≤ a) (hhigh : a < 0x100000000) : regionOf a = .dram := by
  unfold regionOf
  simp only [within_iff]
  rw [if_neg (by omega), if_neg (by omega), if_neg (by omega), if_neg (by omega), if_neg (by omega), if_neg (by omega), if_neg (by omega),
    if_pos (by omega)]

/-- Where the bytes of a host core's plain access lie. -/
inductive HostPlain (a n : Nat) (s : State) : Nat → Prop where
  | sram (first : regionOf a = .sram) (last : regionOf (a + n - 1) = .sram) : HostPlain a n s a
  | dram (first : regionOf a = .dram) (last : regionOf (a + n - 1) = .dram) (window : a % 2 ^ 28 + n ≤ 2 ^ 28) (up : dramUp s = true) :
      HostPlain a n s (flat a s)

theorem hostPlain {i a n k : Nat} {s : State} (hhost : isHost i = true) (hn : 0 < n) (hk : k ∈ plainKey i a n s) : HostPlain a n s k := by
  rw [plainKey, if_pos hhost] at hk
  split_ifs at hk with hsram hdram
  · cases hk
    exact .sram hsram.1 hsram.2
  · obtain ⟨hfirst, hwindow, hup⟩ := hdram
    cases hk
    have hrange := region_dram hfirst
    exact .dram hfirst (regionOf_dram (by omega) (by omega)) hwindow hup
  · cases hk

/-- Where the bytes of a loop core's plain access lie. -/
inductive LoopPlain (i a n : Nat) (s : State) : Nat → Prop where
  | code {k : Nat} (place : loopPlace i a n s = .code k) : LoopPlain i a n s k
  | data {k : Nat} (place : loopPlace i a n s = .data k) : LoopPlain i a n s k
  | refuge {k : Nat} (place : loopPlace i a n s = .refuge k) : LoopPlain i a n s k

theorem loopPlain {i a n k : Nat} {s : State} (hhost : isHost i = false) (hk : k ∈ plainKey i a n s) : LoopPlain i a n s k := by
  rw [plainKey, hhost, if_neg (by decide)] at hk
  cases hplace : loopPlace i a n s with
  | code f => rw [hplace] at hk; cases hk; exact .code hplace
  | data f => rw [hplace] at hk; cases hk; exact .data hplace
  | refuge f => rw [hplace] at hk; cases hk; exact .refuge hplace
  | window => rw [hplace] at hk; cases hk
  | ret => rw [hplace] at hk; cases hk
  | own => rw [hplace] at hk; cases hk
  | region => rw [hplace] at hk; cases hk
  | sram => rw [hplace] at hk; cases hk
  | nothing => rw [hplace] at hk; cases hk

/-- A host core's refuge SRAM is no general SRAM and no DRAM. -/
theorem ownRefuge_of_plain {i a n k : Nat} {s : State} (hhost : isHost i = true) (hplain : HostPlain a n s k) (m : Nat) : ownRefuge i a m s = false := by
  have hi : i < 4 := of_decide_eq_true hhost
  have hout : ¬(refugeKey i ≤ a ∧ a + m ≤ refugeKey i + 0x1000) := by
    rw [refugeKey]
    cases hplain with
    | sram hfirst _ => have := region_sram hfirst; omega
    | dram hfirst _ _ _ => have := region_dram hfirst; omega
  rw [ownRefuge, ← Bool.decide_and, decide_eq_false hout, Bool.false_and]

theorem min_window {a n : Nat} (h : a % 2 ^ 28 + n ≤ 2 ^ 28) : min n (2 ^ 28 - a % 2 ^ 28) = n := by omega

section
variable {s : State} (hs : memorySound s)
include hs

theorem busRead_of_plain {a n k : Nat} (hplain : HostPlain a n s k) (req : Nat) : busRead a n req s = (some (mread k n s), s) := by
  cases hplain with
  | sram hfirst hlast => rw [busRead, hfirst, hlast, if_neg (not_not.mpr rfl)]; exact readMem_of_sound hs _ _ _
  | dram hfirst hlast hwindow hup =>
    rw [busRead, hfirst, hlast, if_neg (not_not.mpr rfl)]
    simp only [dramRead, hup, min_window hwindow, readMem_of_sound hs, Bool.not_true, Bool.false_eq_true, if_false, if_true]

theorem busWrite_of_plain {a n k : Nat} (hplain : HostPlain a n s k) (v req : Nat) : busWrite a n v req s = (true, putMem k n v s) := by
  cases hplain with
  | sram hfirst hlast => rw [busWrite, hfirst, hlast, if_neg (not_not.mpr rfl)]; exact writeMem_of_sound hs _ _ _ _
  | dram hfirst hlast hwindow hup =>
    rw [busWrite, hfirst, hlast, if_neg (not_not.mpr rfl)]
    simp only [dramWrite, hup, min_window hwindow, writeMem_of_sound hs, Bool.not_true, Bool.false_eq_true, if_false, if_true]

theorem cachedWrite_of_plain {a n k : Nat} (hplain : HostPlain a n s k) (v req : Nat) : cachedWrite a n v req s = (true, putMem k n v s) := by
  cases hplain with
  | sram hfirst hlast =>
    unfold cachedWrite
    simp only [hfirst, hlast, ne_eq, not_true, if_false, cacheStore_of_sound hs]
  | dram hfirst hlast hwindow hup =>
    unfold cachedWrite
    simp only [hfirst, hlast, hup, min_window hwindow, cacheStore_of_sound hs, Bool.not_true, Bool.false_or, ne_eq, not_true, decide_false,
      Bool.false_eq_true, if_false, if_true]

/-- A core reads its plain memory. -/
theorem coreRead_of_plain {i a n k : Nat} (hn : 0 < n) (hk : k ∈ plainKey i a n s) : coreRead i a n s = (some (mread k n s), s) := by
  cases hhost : isHost i with
  | true =>
    have hplain := hostPlain hhost hn hk
    rw [coreRead, if_pos hhost, ownRefuge_of_plain hhost hplain, if_neg (by decide), busRead_of_plain hs hplain]
  | false =>
    rw [coreRead, hhost, if_neg (by decide)]
    cases loopPlain hhost hk with
    | code hplace => rw [hplace]; exact readMem_of_sound hs _ _ _
    | data hplace => rw [hplace]; exact readMem_of_sound hs _ _ _
    | refuge hplace => rw [hplace]; exact readMem_of_sound hs _ _ _

/-- A core writes its plain memory. -/
theorem coreWrite_of_plain {i a n k : Nat} (hn : 0 < n) (hk : k ∈ plainKey i a n s) (v b : Nat) :
    coreWrite i a n v b s = (true, putMem k n v s) := by
  cases hhost : isHost i with
  | true =>
    have hplain := hostPlain hhost hn hk
    rw [coreWrite, if_pos hhost, ownRefuge_of_plain hhost hplain, if_neg (by decide), cachedWrite_of_plain hs hplain]
  | false =>
    rw [coreWrite, hhost, if_neg (by decide)]
    cases loopPlain hhost hk with
    | code hplace => rw [hplace]; exact writeMem_of_sound hs _ _ _ _
    | data hplace => rw [hplace]; exact writeMem_of_sound hs _ _ _ _
    | refuge hplace => rw [hplace]; exact writeMem_of_sound hs _ _ _ _

end

end Sys2Proof.Machine

/-! Capabilities in a core's plain memories, and the instructions that make them. -/
namespace Sys2Proof.Machine

open Sys2Proof

/-! ### Capabilities in memory (R237) -/

theorem mem_nput {k w : Nat} {m : List Nat} : w ∈ nput k m ↔ w = k ∨ w ∈ m := by
  induction m with
  | nil => simp [nput]
  | cons j m ih =>
    unfold nput
    split
    · simp
    · split
      · next h => subst h; simp
      · simp only [List.mem_cons, ih]
        tauto

theorem loopPlace_key {i a n k : Nat} {s : State} (hplain : LoopPlain i a n s k) : k % 16 = a % 16 := by
  have hcode : codeBase i % 16 = 0 := by unfold codeBase; split <;> omega
  have hrefuge : refugeKey i % 16 = 0 := by unfold refugeKey; omega
  have hkey : loopPlace i a n s = .code k ∨ loopPlace i a n s = .data k ∨ loopPlace i a n s = .refuge k := by
    cases hplain with
    | code h => exact .inl h
    | data h => exact .inr (.inl h)
    | refuge h => exact .inr (.inr h)
  unfold loopPlace at hkey
  split_ifs at hkey <;> simp at hkey <;> omega

theorem flat_sram {a : Nat} (ha : regionOf a = .sram) (s : State) : flat a s = a := by
  have hrange := region_sram ha
  rw [flat, if_pos (by omega)]

theorem plainKey_mod {i a n k : Nat} {s : State} (hn : 0 < n) (hk : k ∈ plainKey i a n s) : k % 16 = a % 16 := by
  cases hhost : isHost i with
  | true =>
    cases hostPlain hhost hn hk with
    | sram _ _ => rfl
    | dram hfirst _ _ _ =>
      have hrange := region_dram hfirst
      rw [flat, if_neg (by omega)]
      omega
  | false => exact loopPlace_key (loopPlain hhost hk)

theorem tagBearing_of_plain {a n k : Nat} {s : State} (hplain : HostPlain a n s k) : tagBearing a = true := by
  cases hplain with
  | sram hfirst _ => rw [tagBearing, hfirst]
  | dram hfirst _ _ _ => rw [tagBearing, hfirst]

theorem flat_of_plain {a n k : Nat} {s : State} (hplain : HostPlain a n s k) : flat a s = k := by
  cases hplain with
  | sram hfirst _ => exact flat_sram hfirst s
  | dram _ _ _ _ => rfl

theorem not_device_of_plain {a n k : Nat} {s : State} (hplain : HostPlain a n s k) : regionOf a ≠ .device := by
  cases hplain with
  | sram hfirst _ => rw [hfirst]; decide
  | dram hfirst _ _ _ => rw [hfirst]; decide

theorem mem_writeCap (f : Nat) (c : Cap) (s : State) : (writeCap f c s).mem = (putMem f 16 c.v.toNat s).mem := by
  unfold writeCap
  split <;> rfl

section
variable {s : State} (hs : memorySound s)
include hs

theorem readCap_of_sound (f req : Nat) : readCap f req s = (some ⟨BitVec.ofNat 128 (mread f 16 s), s.tags.contains (f / 16)⟩, s) := by
  rw [readCap, readMem_of_sound hs]

/-- A core reads a capability of its plain memory. -/
theorem coreReadCap_of_plain {i a k : Nat} (hk : k ∈ plainKey i a 16 s) : coreReadCap i a s
    = (some ⟨BitVec.ofNat 128 (mread k 16 s), s.tags.contains (k / 16) && coreTags i a s⟩, s) := by
  cases hhost : isHost i with
  | true =>
    have hplain := hostPlain hhost (by decide) hk
    rw [coreReadCap, coreTags, if_pos hhost, if_pos hhost, ownRefuge_of_plain hhost hplain, if_neg (by decide), busReadCap, busRead_of_plain hs hplain]
    simp [not_device_of_plain hplain, flat_of_plain hplain, tagBearing_of_plain hplain]
  | false =>
    have hread := coreRead_of_plain hs (by decide) hk
    unfold coreReadCap coreTags
    cases loopPlain hhost hk with
    | code hplace => simp [hhost, hplace, hread]
    | data hplace => simp [hhost, hplace, readCap_of_sound hs]
    | refuge hplace => simp [hhost, hplace, readCap_of_sound hs]

/-- A core writes a capability of its plain memory. -/
theorem coreWriteCap_of_plain {i a k : Nat} {c : Cap} (hk : k ∈ plainKey i a 16 s) (htag : (c.tag && !coreTags i a s) = false) (b : Nat) :
    coreWriteCap i a c b s = (true, writeCap k c s) := by
  cases hhost : isHost i with
  | true =>
    have hplain := hostPlain hhost (by decide) hk
    have hkey : flat a (putMem k 16 c.v.toNat s) = flat a s := by rw [putMem_frame hs]; rfl
    rw [coreWriteCap, if_pos hhost, ownRefuge_of_plain hhost hplain, if_neg (by decide), busWriteCap, busWrite_of_plain hs hplain, writeCap]
    simp [not_device_of_plain hplain, hkey, flat_of_plain hplain, tagBearing_of_plain hplain]
  | false =>
    have hwrite := coreWrite_of_plain hs (by decide) hk c.v.toNat b
    unfold coreWriteCap
    cases loopPlain hhost hk with
    | code hplace =>
      have hbare : c.tag = false := by simpa [coreTags, hhost, hplace] using htag
      simp [hhost, hplace, hwrite, writeCap, hbare]
    | data hplace => simp [hhost, hplace]
    | refuge hplace => simp [hhost, hplace]

theorem writeCap_frame (f : Nat) (c : Cap) : writeCap f c s = memoryOf (writeCap f c s) s := by
  unfold writeCap
  split
  · rw [putMem_frame hs]; rfl
  · rw [putMem_frame hs]; rfl

theorem mem_tags_writeCap {f : Nat} (hf : f % 16 = 0) (c : Cap) (w : Nat) : w ∈ (writeCap f c s).tags
    ↔ if w = f / 16 then c.tag = true else w ∈ s.tags := by
  have hput : w ∈ (putMem f 16 c.v.toNat s).tags ↔ w ∈ s.tags ∧ w ≠ f / 16 := by
    rw [mem_tags_putMem hs f 16 _ (by decide), show (16 * w + 16 ≤ f ∨ f + 16 ≤ 16 * w) ↔ w ≠ f / 16 by omega]
  unfold writeCap
  by_cases hw : w = f / 16
  · subst hw
    cases c.tag <;> simp [mem_nput, hput]
  · cases c.tag <;> simp [hw, mem_nput, hput]

end

end Sys2Proof.Machine

/-! O59: the capability instructions. -/
namespace Sys2Proof.Machine

open Sys2Proof

section
variable {e : Instr} {h : Hdr} {o : BitVec 16} {s : State}

/-- An instruction that raises CAP where no access gives the address. -/
theorem capTraps_of_fail {u : Iss} {size d k : Nat} {c : Code} {legal : Bool} {body : Ins → State → Did} (hexec : exec e s = runInst c u h legal body s)
    (hlen : codeLen c = size) (hlegal : legal = true)
    (hbody : body (insAt h u size s) (afterIssue h u size s) = capFails d k (afterIssue h u size s)) : capTraps e h u size d k s := fun hb => by
  rw [hexec, runInst_of_fail hb hlen hlegal hbody]
  rfl

/-! ### The instructions that make a capability -/

/-- What comes of the capability made, or of the check that fails. -/
def capMade (D n hold lat i : Nat) (r : Cap ⊕ (Nat × Nat)) (t : State) : Did :=
  if D = 14 then capFails 10 14 t
  else match r with
    | .inl k => { s := cSet i D k t, n := n, hold := hold, lat := lat }
    | .inr e => capFails e.1 e.2 t

theorem capInst_eq (op : Nat) (rs : List Nat) (h : Hdr) (o : BitVec 16) (legal : Bool) (n hold lat : Nat) (f : Nat → State → Cap ⊕ (Nat × Nat))
    (s : State) : capInst op rs h o legal n hold lat f s
      = runInst (codeR op o) { reads := rs, writes := [32 + fieldD o], alone := decide (hold ≠ 0) } h
        (prefixesOk allowNone h.pre && !optionX o && (capField (fieldD o) && legal)) (fun x t => capMade (fieldD o) n hold lat x.i (f x.i t) t) s := rfl

/-- What the statement lists of an instruction that makes a capability is what the model gives. -/
def madeRow (h : Hdr) (o : BitVec 16) (s : State) (e : Instr × List Nat × Nat × Nat × Nat × (Cap ⊕ (Nat × Nat))) : Prop :=
  ∃ op legal f, exec e.1 s = capInst op e.2.1 h o legal e.2.2.1 e.2.2.2.1 e.2.2.2.2.1 f s ∧ legal = true ∧ codeLen (codeR op o) = 3
    ∧ ∀ u, f (coreNum h.core) (afterIssue h u 3 s) = e.2.2.2.2.2

theorem carried_of_madeRow {r : Instr × List Nat × Nat × Nat × Nat × (Cap ⊕ (Nat × Nat))} (hrow : madeRow h o s r) (hpre : h.pre = [])
    (hX : optionX o = false) (hD : fieldD o < 16) :
    ∀ u : Iss, u = { reads := r.2.1, writes := [32 + fieldD o], alone := decide (r.2.2.2.1 ≠ 0) } →
      (fieldD o ≠ 14 → ∀ k ∈ r.2.2.2.2.2.getLeft?, acts r.1 h u 3 r.2.2.1 r.2.2.2.1 r.2.2.2.2.1 s (fun _ => withC (fieldD o) k))
      ∧ (∀ f ∈ (if fieldD o = 14 then some (10, 14) else r.2.2.2.2.2.getRight?), capTraps r.1 h u 3 f.1 f.2 s) := by
  obtain ⟨op, legal, f, hexec, hlegal, hlen, hmade⟩ := hrow
  rintro _ rfl
  have hrowLegal := regLegal (legal := capField (fieldD o) && legal) hpre hX (by rw [hlegal, capField, decide_eq_true hD]; rfl)
  refine ⟨fun h14 k hk => ?_, fun x hx => ?_⟩
  · have hleft := Sum.getLeft?_eq_some_iff.mp hk
    exact acts_of_coreStep (hexec.trans (capInst_eq ..)) hlen hrowLegal (by simp only [insAt, hmade, hleft, capMade, if_neg h14])
      (IssueBlind.withC _ _) ((CoreStep.refl _ _).cSet _ _)
  · refine capTraps_of_fail (hexec.trans (capInst_eq ..)) hlen hrowLegal ?_
    by_cases h14 : fieldD o = 14
    · rw [if_pos h14] at hx
      cases hx
      simp only [capMade, if_pos h14]
    · rw [if_neg h14] at hx
      have hright := Sum.getRight?_eq_some_iff.mp hx
      simp only [insAt, hmade, hright, capMade, if_neg h14]

end

/-- The functions that the model gives CBASE, CLEN and CPERM: what `f` makes of an unsealed capability that covers gB bytes. -/
def narrowedBy (o : BitVec 16) (f : Cap → Nat → Cap) (i : Nat) (s : State) : Cap ⊕ (Nat × Nat) :=
  let k := cGet i (fieldA o) s
  let g := gGet i (fieldB o) s
  if k.sealed then .inr (2, fieldA o) else if k.length < g then .inr (8, fieldA o) else .inl (f k g)

theorem exec_coreCbase (h : Hdr) (o : BitVec 16) (s : State) : exec (.coreCbase h o) s = capInst 0xC3 [32 + fieldA o, fieldB o] h o
    (capField (fieldA o)) 2 0 1 (narrowedBy o (fun k g => k.withRange (k.base + g) (k.length - g))) s := rfl

theorem exec_coreClen (h : Hdr) (o : BitVec 16) (s : State) : exec (.coreClen h o) s = capInst 0xC4 [32 + fieldA o, fieldB o] h o
    (capField (fieldA o)) 2 0 1 (narrowedBy o (fun k g => k.withRange k.base g)) s := rfl

theorem exec_coreCperm (h : Hdr) (o : BitVec 16) (s : State) : exec (.coreCperm h o) s = capInst 0xC5 [32 + fieldA o, fieldB o] h o
    (capField (fieldA o)) 2 0 1 (fun i s => if (cGet i (fieldA o) s).sealed then .inr (2, fieldA o)
      else .inl ((cGet i (fieldA o) s).withPerms ((cGet i (fieldA o) s).perms &&& (gGet i (fieldB o) s % 2 ^ 16)))) s := rfl

theorem madeRows (h : Hdr) (o : BitVec 16) (s : State) (hA : fieldA o < 16) : ∀ a : Cap, a = cGet (coreNum h.core) (fieldA o) s →
    ∀ g : Nat, g = gGet (coreNum h.core) (fieldB o) s →
    ∀ e ∈ ([(.coreCmov h o, [32 + fieldA o], 1, 0, 1, .inl a),
        (.coreCclr h o, [32 + fieldD o], 1, 0, 1, .inl { cGet (coreNum h.core) (fieldD o) s with tag := false }),
        (.coreCbase h o, [32 + fieldA o, fieldB o], 2, 0, 1,
          if a.sealed then .inr (2, fieldA o) else if a.length < g then .inr (8, fieldA o) else .inl (a.withRange (a.base + g) (a.length - g))),
        (.coreClen h o, [32 + fieldA o, fieldB o], 2, 0, 1,
          if a.sealed then .inr (2, fieldA o) else if a.length < g then .inr (8, fieldA o) else .inl (a.withRange a.base g)),
        (.coreCperm h o, [32 + fieldA o, fieldB o], 2, 0, 1,
          if a.sealed then .inr (2, fieldA o) else .inl (a.withPerms (a.perms &&& (g % 2 ^ 16))))]
      : List (Instr × List Nat × Nat × Nat × Nat × (Cap ⊕ (Nat × Nat)))), madeRow h o s e := by
  rintro _ rfl _ rfl
  have hfield : capField (fieldA o) = true := decide_eq_true hA
  simp only [List.forall_mem_cons]
  refine ⟨⟨0xC2, capField (fieldA o), fun i s => .inl (cGet i (fieldA o) s), rfl, hfield, rfl, fun u => ?_⟩,
    ⟨0xCA, true, fun i s => .inl (cGet i (fieldD o) s).untagged, rfl, rfl, rfl, fun u => ?_⟩,
    ⟨_, _, _, exec_coreCbase h o s, hfield, rfl, fun u => ?_⟩, ⟨_, _, _, exec_coreClen h o s, hfield, rfl, fun u => ?_⟩,
    ⟨_, _, _, exec_coreCperm h o s, hfield, rfl, fun u => ?_⟩, List.forall_mem_nil _⟩
  · simp only [cGet_afterIssue]
  · simp only [cGet_afterIssue, Cap.untagged]
  · simp only [narrowedBy, cGet_afterIssue, gGet_afterIssue]
  · simp only [narrowedBy, cGet_afterIssue, gGet_afterIssue]
  · simp only [cGet_afterIssue, gGet_afterIssue]

end Sys2Proof.Machine

/-! The capability instructions that seal, and those that read a field or jump. -/
namespace Sys2Proof.Machine

open Sys2Proof

/-! ### CSEAL and CUNSEAL -/

/-- What comes of the checks of a seal capability in register `B`: the one that fails, or `x`. -/
def orRefused (B : Nat) (x : Cap ⊕ (Nat × Nat)) : Option Nat → Cap ⊕ (Nat × Nat)
  | some d => .inr (d, B)
  | none => x

theorem orRefused_sealFails (B : Nat) (x : Cap ⊕ (Nat × Nat)) (b : Cap) (p : Nat) : orRefused B x (sealFails b p)
    = if !b.tag then .inr (1, B) else if b.sealed then .inr (2, B) else if b.kind ≠ 2 then .inr (3, B) else if !b.has p then .inr (4, B) else x := by
  unfold sealFails
  split_ifs <;> rfl

theorem exec_coreCseal (h : Hdr) (o : BitVec 16) (s : State) : exec (.coreCseal h o) s = capInst 0xC6 [32 + fieldA o, 32 + fieldB o] h o
    (capField (fieldA o) && capField (fieldB o)) 3 1 2 (fun i s => if (cGet i (fieldA o) s).sealed then .inr (2, fieldA o)
      else orRefused (fieldB o) (if (cGet i (fieldB o) s).length = 0 then .inr (5, fieldB o)
        else .inl ((cGet i (fieldA o) s).withSeal (cGet i (fieldB o) s).base true (cGet i (fieldA o) s).tag)) (sealFails (cGet i (fieldB o) s) permSEAL)) s := rfl

theorem exec_coreCunseal (h : Hdr) (o : BitVec 16) (s : State) : exec (.coreCunseal h o) s = capInst 0xC7 [32 + fieldA o, 32 + fieldB o] h o
    (capField (fieldA o) && capField (fieldB o)) 3 1 2 (fun i s => if !(cGet i (fieldA o) s).sealed then .inr (9, fieldA o)
      else orRefused (fieldB o) (if !(cGet i (fieldB o) s).covers (cGet i (fieldA o) s).otype 1 then .inr (9, fieldB o)
        else .inl ((cGet i (fieldA o) s).withSeal 0 false ((cGet i (fieldA o) s).tag && (cGet i (fieldB o) s).tag)))
        (sealFails (cGet i (fieldB o) s) permUNSEAL)) s := rfl

theorem sealRows (h : Hdr) (o : BitVec 16) (s : State) (hA : fieldA o < 16) (hB : fieldB o < 16) : ∀ a : Cap, a = cGet (coreNum h.core) (fieldA o) s →
    ∀ b : Cap, b = cGet (coreNum h.core) (fieldB o) s →
    ∀ e ∈ ([(.coreCseal h o, [32 + fieldA o, 32 + fieldB o], 3, 1, 2, if a.sealed then .inr (2, fieldA o) else if !b.tag then .inr (1, fieldB o)
            else if b.sealed then .inr (2, fieldB o) else if b.kind ≠ 2 then .inr (3, fieldB o) else if !b.has permSEAL then .inr (4, fieldB o)
            else if b.length = 0 then .inr (5, fieldB o) else .inl (a.withSeal b.base true a.tag)),
        (.coreCunseal h o, [32 + fieldA o, 32 + fieldB o], 3, 1, 2, if !a.sealed then .inr (9, fieldA o) else if !b.tag then .inr (1, fieldB o)
            else if b.sealed then .inr (2, fieldB o) else if b.kind ≠ 2 then .inr (3, fieldB o) else if !b.has permUNSEAL then .inr (4, fieldB o)
            else if !(decide (b.base ≤ a.otype) && decide (a.otype + 1 ≤ b.base + b.length)) then .inr (9, fieldB o)
            else .inl (a.withSeal 0 false (a.tag && b.tag)))]
      : List (Instr × List Nat × Nat × Nat × Nat × (Cap ⊕ (Nat × Nat)))), madeRow h o s e := by
  rintro _ rfl _ rfl
  have hfields : (capField (fieldA o) && capField (fieldB o)) = true := by rw [capField, capField, decide_eq_true hA, decide_eq_true hB]; rfl
  simp only [List.forall_mem_cons]
  refine ⟨⟨_, _, _, exec_coreCseal h o s, hfields, rfl, fun u => ?_⟩, ⟨_, _, _, exec_coreCunseal h o s, hfields, rfl, fun u => ?_⟩,
    List.forall_mem_nil _⟩
  · simp only [cGet_afterIssue, orRefused_sealFails]
  · simp only [cGet_afterIssue, orRefused_sealFails, Cap.covers]

/-! ### CGET and CJR -/

section
variable {h : Hdr} {o : BitVec 16} {s : State}

/-- The field of a capability that CGET reads. -/
def capPart (a : Cap) (n : Nat) : Nat :=
  match n with
  | 0 => a.base
  | 1 => min a.length (2 ^ 32 - 1)
  | 2 => a.perms
  | 3 => a.otype
  | 4 => a.tag.toNat
  | _ => a.sealed.toNat

theorem capPart_of_mem {a : Cap} {n v : Nat}
    (hv : v ∈ [a.base, min a.length (2 ^ 32 - 1), a.perms, a.otype, a.tag.toNat, a.sealed.toNat][n]?) : n ≤ 5 ∧ capPart a n = v := by
  have hn : n ≤ 5 := by
    by_contra hlarge
    rw [List.getElem?_eq_none (by simpa using by omega)] at hv
    cases hv
  refine ⟨hn, ?_⟩
  interval_cases n <;> exact Option.some.inj hv

theorem exec_coreCget : exec (.coreCget h o) s = runInst (codeR 0xC8 o) { reads := [32 + fieldA o], writes := [fieldD o] } h
    (prefixesOk allowNone h.pre && !optionX o && capField (fieldA o)) (fun x t =>
      if fieldB o ≤ 5 then { s := gSet x.i (fieldD o) (capPart (cGet x.i (fieldA o) t) (fieldB o)) t }
      else { s := gSet x.i (fieldD o) (Config.cgetOther t.fresh).toNat (nextFresh t) }) s := rfl

theorem acts_cget (hpre : h.pre = []) (hX : optionX o = false) (hA : fieldA o < 16) {v : Nat} (hB : fieldB o ≤ 5)
    (hv : capPart (cGet (coreNum h.core) (fieldA o) s) (fieldB o) = v) :
    acts (.coreCget h o) h { reads := [32 + fieldA o], writes := [fieldD o] } 3 1 0 1 s (fun _ => withG (fieldD o) v) :=
  acts_of_coreStep exec_coreCget rfl (regLegal hpre hX (decide_eq_true hA)) (by simp only [insAt, if_pos hB, cGet_afterIssue, hv])
    (IssueBlind.withG _ _) ((CoreStep.refl _ _).gSet _ _)

/-- A number that names no field: a free value. -/
theorem carriesOut_cget_free (hpre : h.pre = []) (hX : optionX o = false) (hA : fieldA o < 16) (hB : 5 < fieldB o) :
    carriesOut (.coreCget h o) h { reads := [32 + fieldA o], writes := [fieldD o] } 3 s (fun m t =>
      executed h { reads := [32 + fieldA o], writes := [fieldD o] } 3 m 1 0 1 (withG (fieldD o) (Config.cgetOther s.fresh).toNat)
        { s with fresh := s.fresh + 1 } s t) := by
  have hstep := ((CoreStep.refl (coreNum h.core) (afterIssue h { reads := [32 + fieldA o], writes := [fieldD o] } 3 s)).rest
    (u := nextFresh (afterIssue h { reads := [32 + fieldA o], writes := [fieldD o] } 3 s)) (q := { s with fresh := s.fresh + 1 }) rfl rfl).gSet
    (fieldD o) (Config.cgetOther s.fresh).toNat
  exact carriesOut_of_done exec_coreCget rfl (regLegal hpre hX (decide_eq_true hA)) (if_neg (Nat.not_le.mpr hB))
    (executed_of_coreStep (IssueBlind.withG _ _) hstep rfl)

/-- The end of an instruction whose checks of register `k` fail, or which does `x`. -/
def orCapFails (k : Nat) (t : State) (x : Did) : Option Nat → Did
  | some d => capFails d k t
  | none => x

theorem exec_coreCjr : exec (.coreCjr h o) s = runInst (codeR 0xC9 o) { reads := [32 + fieldA o, fieldB o], ctl := true, alone := true } h
    (prefixesOk allowNone h.pre && !optionX o && capField (fieldA o)) (fun x t =>
      orCapFails (fieldA o) t { s := jump x.i (gGet x.i (fieldB o) t) (cSet x.i 14 (cGet x.i (fieldA o) t) t), n := 5, hold := 7 }
        (if !(cGet x.i (fieldA o) t).tag then some 1 else if (cGet x.i (fieldA o) t).sealed then some 2 else if (cGet x.i (fieldA o) t).kind ≠ 0 then some 3
          else if !(cGet x.i (fieldA o) t).has permX then some 4
          else if !((cGet x.i (fieldA o) t).covers (gGet x.i (fieldB o) t) 1) then some 5 else none)) s := rfl

/-- CJR takes c14 and the PC, where the capability lets the core execute there. -/
theorem carried_cjr (hpre : h.pre = []) (hX : optionX o = false) (hA : fieldA o < 16) : ∀ a : Cap, a = cGet (coreNum h.core) (fieldA o) s →
    ∀ g : Nat, g = gGet (coreNum h.core) (fieldB o) s → ∀ u : Iss, u = { reads := [32 + fieldA o, fieldB o], ctl := true, alone := true } →
    ∀ d : Option Nat, d = (if !a.tag then some 1 else if a.sealed then some 2 else if a.kind ≠ 0 then some 3 else if !a.has permX then some 4
      else if !(decide (a.base ≤ g) && decide (g + 1 ≤ a.base + a.length)) then some 5 else none) →
    (d = none → acts (.coreCjr h o) h u 3 5 7 1 s (fun _ k => withC 14 a { k with pc := g })) ∧ ∀ x ∈ d, capTraps (.coreCjr h o) h u 3 x (fieldA o) s := by
  rintro _ rfl _ rfl _ rfl d hd
  have hlegal := regLegal (legal := capField (fieldA o)) hpre hX (decide_eq_true hA)
  refine ⟨fun hnone => ?_, fun x hx => ?_⟩
  · have hpc : (fun k : Cpu => withC 14 (cGet (coreNum h.core) (fieldA o) s) { k with pc := gGet (coreNum h.core) (fieldB o) s })
        = fun k => { withC 14 (cGet (coreNum h.core) (fieldA o) s) k with pc := gGet (coreNum h.core) (fieldB o) s % 2 ^ 32 } := by rw [gGet_mod]; rfl
    refine acts_of_coreStep exec_coreCjr rfl hlegal (by simp only [insAt, cGet_afterIssue, gGet_afterIssue, Cap.covers, ← hd, hnone]; rfl)
      (fun _ _ _ _ _ => rfl) ?_
    rw [hpc]
    exact ((CoreStep.refl _ _).cSet _ _).jump _
  · rw [hx] at hd
    exact capTraps_of_fail exec_coreCjr rfl hlegal (by simp only [insAt, cGet_afterIssue, gGet_afterIssue, Cap.covers, ← hd]; rfl)

end

end Sys2Proof.Machine

/-! The accesses of loads and stores: their address, their checks, what stands in the way of them. -/
namespace Sys2Proof.Machine

open Sys2Proof

/-! ### Places of loop cores -/

theorem loopPlain_low {i a n k : Nat} {s : State} (hplain : LoopPlain i a n s k) : a + n ≤ 0x110000 := by
  have hkey : loopPlace i a n s = .code k ∨ loopPlace i a n s = .data k ∨ loopPlace i a n s = .refuge k := by
    cases hplain with
    | code h => exact .inl h
    | data h => exact .inr (.inl h)
    | refuge h => exact .inr (.inr h)
  unfold loopPlace at hkey
  split_ifs at hkey <;> simp at hkey <;> omega

theorem regions_of_loop_sram {i a n : Nat} {s : State} (hplace : loopPlace i a n s = .sram) :
    regionOf a = .sram ∧ regionOf (a + n - 1) = .sram := by
  unfold loopPlace at hplace
  split_ifs at hplace with _ _ _ _ _ _ _ _ _ hregions
  exact hregions

/-! ### Image slots (R392) -/

theorem slotDenied_of_outside {k : Cap} {a n : Nat} (h : a + n ≤ 0x10000000 ∨ 0x11000000 ≤ a) : slotDenied k a n = false := by
  have hmeets : meets a n 0x10000000 0x11000000 = false := by
    rw [meets, Bool.and_assoc, ← Bool.decide_and, decide_eq_false (by omega), Bool.and_false]
  rw [slotDenied, hmeets, Bool.false_and]

theorem slotDenied_of_sram {k : Cap} {a n : Nat} (ha : regionOf a = .sram) : slotDenied k a n = false := by
  have hrange := region_sram ha
  exact slotDenied_of_outside (by omega)

theorem slotDenied_of_plain {c : Cap} {i a n k : Nat} {s : State} (hn : 0 < n) (hk : k ∈ plainKey i a n s) : slotDenied c a n = false := by
  cases hhost : isHost i with
  | true =>
    cases hostPlain hhost hn hk with
    | sram hfirst _ => exact slotDenied_of_sram hfirst
    | dram hfirst _ _ _ =>
      have hrange := region_dram hfirst
      exact slotDenied_of_outside (by omega)
  | false =>
    have hlow := loopPlain_low (loopPlain hhost hk)
    exact slotDenied_of_outside (by omega)

theorem slotWrite_of_allowed {i q a n : Nat} {s : State} (h : slotDenied (cGet i q s) a n = false) (f : State → Bool × State) :
    slotWrite i q a n f s = f s := by rw [slotWrite, h]; rfl

/-! ### A loop core's store to general SRAM (R218) -/

theorem busWrite_of_sram {a n : Nat} {s : State} (hs : memorySound s) (ha : regionOf a = .sram) (hl : regionOf (a + n - 1) = .sram) (v req : Nat) :
    busWrite a n v req s = (true, putMem a n v s) := by
  rw [busWrite, ha, hl, if_neg (not_not.mpr rfl)]
  exact writeMem_of_sound hs _ _ _ _

theorem sramStore_of_sound {i a n : Nat} {s : State} (hs : memorySound s) (hplace : loopPlace i a n s = .sram) (v b : Nat) (tag : Bool) :
    sramStore i a n v b tag s = (true, later ((b + storeCount .sram a n - 1) / 2 - s.time) (.store i a n v tag) s) := by
  obtain ⟨hfirst, hlast⟩ := regions_of_loop_sram hplace
  rw [sramStore, busWrite_of_sram hs hfirst hlast]

section
variable {h : Hdr} {o : BitVec 16} {s : State} {u : Iss} {size : Nat}

/-! ### The checks of an access (R196, R238) -/

@[simp] theorem dataAddr_afterIssue (n d : Nat) : dataAddr (coreNum h.core) o n d (afterIssue h u size s) = dataAddr (coreNum h.core) o n d s := by
  simp [dataAddr]

theorem loopPlace_afterIssue (i a n : Nat) : loopPlace i a n (afterIssue h u size s) = loopPlace i a n s := rfl

theorem plainKey_afterIssue (i a n : Nat) : plainKey i a n (afterIssue h u size s) = plainKey i a n s := rfl

theorem coreTags_afterIssue (i a : Nat) : coreTags i a (afterIssue h u size s) = coreTags i a s := rfl

theorem accessFails_of_cap {ps : List Nat} {a n d : Nat} {write aligned : Bool}
    (hcap : capCheck (cGet (coreNum h.core) (authReg h.pre) s) ps a n write = some d) :
    accessFails (insAt h u size s) ps a n write aligned (afterIssue h u size s) = some ⟨2, d, a, authReg h.pre⟩ := by
  simp only [accessFails, insAt, cGet_afterIssue, hcap]
  rfl

theorem accessFails_of_align {ps : List Nat} {a n : Nat} {write aligned : Bool}
    (hcap : capCheck (cGet (coreNum h.core) (authReg h.pre) s) ps a n write = none) (halign : (aligned && a % n != 0) = true) :
    accessFails (insAt h u size s) ps a n write aligned (afterIssue h u size s) = some ⟨3, 0, a, 0⟩ := by
  simp only [accessFails, insAt, cGet_afterIssue, hcap, halign, if_true]
  rfl

theorem accessFails_of_pass {ps : List Nat} {a n : Nat} {write aligned : Bool}
    (hcap : capCheck (cGet (coreNum h.core) (authReg h.pre) s) ps a n write = none) (halign : (aligned && a % n != 0) = false) :
    accessFails (insAt h u size s) ps a n write aligned (afterIssue h u size s) = none := by
  simp only [accessFails, insAt, cGet_afterIssue, hcap, halign, Bool.false_eq_true, if_false]

/-! ### Changes of memory -/

/-- A change of memory alone, after the issue. -/
theorem coreStep_of_memory {t : State} (ht : t = memoryOf t (afterIssue h u size s)) :
    CoreStep (coreNum h.core) (fun k => k) (afterIssue h u size s) (memoryOf t s) t := by
  have hcpus : t.cpus = (afterIssue h u size s).cpus := by rw [ht]; rfl
  exact (CoreStep.refl _ _).rest hcpus (ht.trans (by rw [hcpus]; rfl))

end

end Sys2Proof.Machine

/-! CLD and CST, and with them O59. -/
namespace Sys2Proof.Machine

open Sys2Proof

/-! ### What CLD and CST do -/

/-- What CLD does where it begins. -/
def cldDid (o d : BitVec 16) (x : Ins) (t : State) : Did :=
  if fieldD o = 14 then capFails 10 14 t
  else
    let a := dataAddr x.i o 16 (dispVal (.d16 d)) t
    match accessFails x [permLD] a 16 false true t with
    | some e => .fail e t
    | none =>
      match coreReadCap x.i a t with
      | (none, t) => .fail (excData a) t
      | (some k, t') =>
        let c := if (cGet x.i (authReg x.pre) t).has permLDC then k else k.untagged
        { s := cSet x.i (fieldD o) c t', n := loadCount (loopPlace x.i a 16 t) a 16, lat := hostCount a 16 }

/-- What CST does where it begins. -/
def cstDid (o d : BitVec 16) (x : Ins) (t : State) : Did :=
  let k := cGet x.i (fieldD o) t
  let a := dataAddr x.i o 16 (dispVal (.d16 d)) t
  match accessFails x (if k.tag then [permST, permSTC] else [permST]) a 16 true false t with
  | some e => .fail e t
  | none =>
    if k.tag && !coreTags x.i (a / 16 * 16) t then .fail (excCap 7 a (authReg x.pre)) t
    else if a % 16 ≠ 0 then .fail (excAlign a) t
    else
      match slotWrite x.i (authReg x.pre) a 16 (coreWriteCap x.i a k x.b) t with
      | (false, t) => if isHost x.i then { s := postedError x.i a t } else .fail (excData a) t
      | (true, t') => { s := t', n := storeCount (loopPlace x.i a 16 t) a 16 }

section
variable {h : Hdr} {o : BitVec 16} {d : BitVec 16} {s : State}

theorem exec_coreCld : exec (.coreCld h o d) s = runInst (codeM 0xC0 o (.d16 d)) (memIss h.pre [fieldA o, fieldB o] [32 + fieldD o]) h
    (prefixesOk allowCapLoad h.pre && !optionX o && capField (fieldD o)) (cldDid o d) s := rfl

theorem exec_coreCst : exec (.coreCst h o d) s = runInst (codeM 0xC1 o (.d16 d)) (memIss h.pre [fieldA o, fieldB o, 32 + fieldD o] []) h
    (prefixesOk allowCapStore h.pre && !optionX o && capField (fieldD o)) (cstDid o d) s := rfl

theorem cldDid_of_c14 {x : Ins} {t : State} (hD : fieldD o = 14) : cldDid o d x t = capFails 10 14 t := if_pos hD

theorem cldDid_of_fail {x : Ins} {t : State} {e : Exc} {a : Nat} (hD : fieldD o ≠ 14) (ha : dataAddr x.i o 16 (dispVal (.d16 d)) t = a)
    (hfail : accessFails x [permLD] a 16 false true t = some e) : cldDid o d x t = .fail e t := by
  subst ha
  simp only [cldDid, if_neg hD, hfail]

theorem cldDid_of_read {x : Ins} {t t' : State} {k : Cap} {a : Nat} (hD : fieldD o ≠ 14) (ha : dataAddr x.i o 16 (dispVal (.d16 d)) t = a)
    (hpass : accessFails x [permLD] a 16 false true t = none) (hread : coreReadCap x.i a t = (some k, t')) : cldDid o d x t
      = { s := cSet x.i (fieldD o) ⟨k.v, k.tag && (cGet x.i (authReg x.pre) t).has permLDC⟩ t'
          n := loadCount (loopPlace x.i a 16 t) a 16
          lat := hostCount a 16 } := by
  subst ha
  simp only [cldDid, if_neg hD, hpass, hread]
  cases (cGet x.i (authReg x.pre) t).has permLDC
  · rw [Bool.and_false]; rfl
  · rw [Bool.and_true]; rfl

section
variable {x : Ins} {t : State} {a : Nat} {k : Cap} (ha : dataAddr x.i o 16 (dispVal (.d16 d)) t = a) (hk : cGet x.i (fieldD o) t = k)
include ha hk

theorem cstDid_of_fail {e : Exc} (hfail : accessFails x (if k.tag then [permST, permSTC] else [permST]) a 16 true false t = some e) :
    cstDid o d x t = .fail e t := by
  subst ha hk
  simp only [cstDid, hfail]

variable (hpass : accessFails x (if k.tag then [permST, permSTC] else [permST]) a 16 true false t = none)
include hpass

theorem cstDid_of_bare (hbare : (k.tag && !coreTags x.i (a / 16 * 16) t) = true) : cstDid o d x t = .fail ⟨2, 7, a, authReg x.pre⟩ t := by
  subst ha hk
  simp only [cstDid, hpass, hbare, if_true]
  rfl

variable (hbare : (k.tag && !coreTags x.i (a / 16 * 16) t) = false)
include hbare

theorem cstDid_of_align (halign : a % 16 ≠ 0) : cstDid o d x t = .fail ⟨3, 0, a, 0⟩ t := by
  subst ha hk
  simp only [cstDid, hpass, hbare, Bool.false_eq_true, if_false, if_pos halign]
  rfl

theorem cstDid_of_write (halign : a % 16 = 0) (hslot : slotDenied (cGet x.i (authReg x.pre) t) a 16 = false) {t' : State}
    (hwrite : coreWriteCap x.i a k x.b t = (true, t')) : cstDid o d x t = { s := t', n := storeCount (loopPlace x.i a 16 t) a 16 } := by
  subst ha hk
  simp only [cstDid, hpass, hbare, Bool.false_eq_true, if_false, halign, ne_eq, not_true, slotWrite_of_allowed hslot, hwrite]

end

theorem memLegal {w : Allows} {legal : Bool} (hpre : prefixesOk w h.pre = true) (hX : optionX o = false) (hl : legal = true) :
    (prefixesOk w h.pre && !optionX o && legal) = true := by rw [hpre, hX, hl]; rfl

/-- CLD loads a capability where nothing stands in the way. -/
theorem carried_cld (hX : optionX o = false) (hD : fieldD o < 16) (hpre : prefixesOk allowCapLoad h.pre = true) :
    ∀ z : Nat, z = dataAddr (coreNum h.core) o 16 (dispVal (.d16 d)) s → ∀ u : Iss, u = memIss h.pre [fieldA o, fieldB o] [32 + fieldD o] →
    ∀ f : Option Nat, f = capCheck (cGet (coreNum h.core) (authReg h.pre) s) [permLD] z 16 false →
      (fieldD o = 14 → capTraps (.coreCld h o d) h u 5 10 14 s)
      ∧ (fieldD o ≠ 14 → ∀ x ∈ f, traps (.coreCld h o d) h u 5 (cpu (coreNum h.core) s).pc ⟨2, x, z, authReg h.pre⟩ s)
      ∧ (fieldD o ≠ 14 → f = none → z % 16 ≠ 0 → traps (.coreCld h o d) h u 5 (cpu (coreNum h.core) s).pc ⟨3, 0, z, 0⟩ s)
      ∧ (fieldD o ≠ 14 → f = none → z % 16 = 0 → memorySound s → ∀ y ∈ plainKey (coreNum h.core) z 16 s,
          ∀ tag : Bool, tag = (s.tags.contains (y / 16) && coreTags (coreNum h.core) z s) →
          acts (.coreCld h o d) h u 5 (loadCount (loopPlace (coreNum h.core) z 16 s) z 16) 0 (hostCount z 16) s (fun _ => withC (fieldD o)
            ⟨BitVec.ofNat 128 (mread y 16 s), tag && (cGet (coreNum h.core) (authReg h.pre) s).has permLDC⟩)) := by
  rintro z hz u rfl _ rfl
  have hlegal := memLegal hpre hX (decide_eq_true hD : capField (fieldD o) = true)
  have haddr : ∀ u, dataAddr (insAt h u 5 s).i o 16 (dispVal (.d16 d)) (afterIssue h u 5 s) = z := fun _ => (dataAddr_afterIssue _ _).trans hz.symm
  refine ⟨fun h14 => ?_, fun h14 x hx => ?_, fun h14 hpass halign => ?_, fun h14 hpass halign hs y hy tag htag => ?_⟩
  · exact capTraps_of_fail exec_coreCld rfl hlegal (cldDid_of_c14 h14)
  · exact traps_of_fail exec_coreCld rfl hlegal (cldDid_of_fail h14 (haddr _) (accessFails_of_cap hx))
  · exact traps_of_fail exec_coreCld rfl hlegal (cldDid_of_fail h14 (haddr _) (accessFails_of_align hpass (bne_iff_ne.mpr halign)))
  · refine acts_of_coreStep exec_coreCld rfl hlegal (cldDid_of_read h14 (haddr _) (accessFails_of_pass hpass (by rw [halign]; rfl))
      (coreReadCap_of_plain (memorySound_afterIssue hs) hy)) (IssueBlind.withC _ _) ?_
    rw [htag, insAt, cGet_afterIssue, mread_congr (s := s) rfl]
    exact (CoreStep.refl _ _).cSet _ _

/-- CST stores a capability where nothing stands in the way. -/
theorem carried_cst (hX : optionX o = false) (hD : fieldD o < 16) (hpre : prefixesOk allowCapStore h.pre = true) :
    ∀ z : Nat, z = dataAddr (coreNum h.core) o 16 (dispVal (.d16 d)) s → ∀ k : Cap, k = cGet (coreNum h.core) (fieldD o) s →
    ∀ u : Iss, u = memIss h.pre [fieldA o, fieldB o, 32 + fieldD o] [] →
    ∀ f : Option Nat, f = capCheck (cGet (coreNum h.core) (authReg h.pre) s) (if k.tag then [permST, permSTC] else [permST]) z 16 true →
    ∀ bare : Bool, bare = (k.tag && !coreTags (coreNum h.core) (z / 16 * 16) s) →
      (∀ x ∈ f, traps (.coreCst h o d) h u 5 (cpu (coreNum h.core) s).pc ⟨2, x, z, authReg h.pre⟩ s)
      ∧ (f = none → bare = true → traps (.coreCst h o d) h u 5 (cpu (coreNum h.core) s).pc ⟨2, 7, z, authReg h.pre⟩ s)
      ∧ (f = none → bare = false → z % 16 ≠ 0 → traps (.coreCst h o d) h u 5 (cpu (coreNum h.core) s).pc ⟨3, 0, z, 0⟩ s)
      ∧ (f = none → bare = false → z % 16 = 0 → memorySound s →
        (∀ y ∈ plainKey (coreNum h.core) z 16 s, carriesOut (.coreCst h o d) h u 5 s (fun m t => mread y 16 t = k.v.toNat
          ∧ memoryElsewhere y 16 s t ∧ (y / 16 ∈ t.tags ↔ k.tag = true)
          ∧ executed h u 5 m (storeCount (loopPlace (coreNum h.core) z 16 s) z 16) 0 1 (fun c => c) (memoryOf t s) s t))
        ∧ (isHost (coreNum h.core) = false → loopPlace (coreNum h.core) z 16 s = .sram → carriesOut (.coreCst h o d) h u 5 s (fun m t =>
            t.due = s.due ++ [(s.time + ((m + 43) / 2 - s.time), .store (coreNum h.core) z 16 k.v.toNat k.tag)]
            ∧ executed h u 5 m 44 0 1 (fun c => c) { s with due := t.due } s t))) := by
  rintro z hz k hk u rfl _ rfl _ rfl
  have hlegal := memLegal hpre hX (decide_eq_true hD : capField (fieldD o) = true)
  have haddr : ∀ u, dataAddr (insAt h u 5 s).i o 16 (dispVal (.d16 d)) (afterIssue h u 5 s) = z := fun _ => (dataAddr_afterIssue _ _).trans hz.symm
  have hcap : ∀ u, cGet (insAt h u 5 s).i (fieldD o) (afterIssue h u 5 s) = k := fun _ => (cGet_afterIssue _).trans hk.symm
  refine ⟨fun x hx => ?_, fun hpass hbare => ?_, fun hpass hbare halign => ?_, fun hpass hbare halign hs => ⟨fun y hy => ?_, fun hhost hplace => ?_⟩⟩
  · exact traps_of_fail exec_coreCst rfl hlegal (cstDid_of_fail (haddr _) (hcap _) (accessFails_of_cap hx))
  · exact traps_of_fail exec_coreCst rfl hlegal (cstDid_of_bare (haddr _) (hcap _) (accessFails_of_pass hpass rfl) hbare)
  · exact traps_of_fail exec_coreCst rfl hlegal (cstDid_of_align (haddr _) (hcap _) (accessFails_of_pass hpass rfl) hbare halign)
  · have hz16 : z / 16 * 16 = z := Nat.div_mul_cancel (Nat.dvd_of_mod_eq_zero halign)
    have hsound := memorySound_afterIssue (h := h) (u := memIss h.pre [fieldA o, fieldB o, 32 + fieldD o] []) (size := 5) hs
    have hkey : y % 16 = 0 := (plainKey_mod (by decide) hy).trans halign
    have hmem := mem_writeCap y k (afterIssue h (memIss h.pre [fieldA o, fieldB o, 32 + fieldD o] []) 5 s)
    have htags := mem_tags_writeCap hsound hkey k
    refine carriesOut_of_done exec_coreCst rfl hlegal (cstDid_of_write (haddr _) (hcap _) (accessFails_of_pass hpass rfl) hbare halign
      (slotDenied_of_plain (by decide) hy) (coreWriteCap_of_plain hsound hy (hz16 ▸ hbare) _)) ⟨?_, ⟨fun a ha => ?_, fun w hw => ?_⟩, ?_, ?_⟩
    · rw [spend, mread_congr (t := setCpu _ _ _) hmem, mread_putMem_same hsound, Nat.mod_eq_of_lt k.v.isLt]
    · have hother := mget_putMem_other hsound y 16 k.v.toNat ha
      rwa [mget, ← hmem] at hother
    · exact (htags w).trans (by rw [if_neg (by omega)]; rfl)
    · exact (htags (y / 16)).trans (by rw [if_pos rfl])
    · exact executed_of_coreStep IssueBlind.id (coreStep_of_memory (writeCap_frame hsound y k)) rfl
  · have hsound := memorySound_afterIssue (h := h) (u := memIss h.pre [fieldA o, fieldB o, 32 + fieldD o] []) (size := 5) hs
    have hplace' : loopPlace (insAt h (memIss h.pre [fieldA o, fieldB o, 32 + fieldD o] []) 5 s).i z 16
      (afterIssue h (memIss h.pre [fieldA o, fieldB o, 32 + fieldD o] []) 5 s) = .sram := hplace
    have hwrite : ∀ b, coreWriteCap (coreNum h.core) z k b (afterIssue h (memIss h.pre [fieldA o, fieldB o, 32 + fieldD o] []) 5 s)
        = (true, later ((b + 43) / 2 - s.time) (.store (coreNum h.core) z 16 k.v.toNat k.tag)
          (afterIssue h (memIss h.pre [fieldA o, fieldB o, 32 + fieldD o] []) 5 s)) := fun b => by
      have hstore := sramStore_of_sound hsound hplace k.v.toNat b k.tag
      unfold coreWriteCap
      rw [hhost, if_neg (by decide), loopPlace_afterIssue, hplace]
      exact hstore
    refine carriesOut_of_done exec_coreCst rfl hlegal (cstDid_of_write (haddr _) (hcap _) (accessFails_of_pass hpass rfl) hbare halign
      (slotDenied_of_sram (regions_of_loop_sram hplace).1) (hwrite _)) ⟨rfl, ?_⟩
    rw [hplace']
    exact executed_of_coreStep IssueBlind.id ((CoreStep.refl _ _).rest rfl rfl) rfl

end

theorem exec_coreCmov (h : Hdr) (o : BitVec 16) (s : State) : exec (.coreCmov h o) s
    = capInst 0xC2 [32 + fieldA o] h o (capField (fieldA o)) 1 0 1 (fun i s => .inl (cGet i (fieldA o) s)) s := rfl

theorem capField_of_large {n : Nat} (hn : 16 ≤ n) : capField n = false := decide_eq_false (Nat.not_lt.mpr hn)

/-- Settles O59. -/
theorem capabilityInstructions : Obligations.CapabilityInstructions := by
  unfold Obligations.CapabilityInstructions
  rintro h s _ rfl _ rfl o _ rfl _ rfl _ rfl a ha b hb g hg
  refine ⟨fun hpre hX hA => ⟨fun hD e he => ?_, ⟨fun v hv => ?_, carriesOut_cget_free hpre hX hA⟩, carried_cjr hpre hX hA a ha g hg⟩, ?_,
    fun hbad => ⟨?_, ?_⟩, fun hbad => ⟨?_, ?_⟩, fun d hbad => ?_⟩
  · refine carried_of_madeRow ?_ hpre hX hD
    rcases List.mem_append.mp he with hmade | hsealed
    · exact madeRows h o s hA a ha g hg e hmade
    · by_cases hB : fieldB o < 16
      · rw [if_pos hB] at hsealed
        exact sealRows h o s hA hB a ha b hb e hsealed
      · rw [if_neg hB] at hsealed
        cases hsealed
  · obtain ⟨hB, hpart⟩ := capPart_of_mem hv
    exact acts_cget hpre hX hA hB (ha ▸ hpart)
  · rintro d hX hD z hz _ rfl k hk
    have haddr : z = dataAddr (coreNum h.core) o 16 (dispVal (.d16 d)) s := by rw [hz, hg]; rfl
    exact ⟨fun hpre => carried_cld hX hD hpre z haddr, fun hpre => carried_cst hX hD hpre z haddr k hk⟩
  · exact illegal_of_row ((exec_coreCmov h o s).trans (capInst_eq ..)) rfl (regRefused (hbad.imp_right (Or.imp_right fun hlarge => by
      rw [Bool.and_eq_false_iff]
      exact hlarge.imp capField_of_large capField_of_large)))
  · exact illegal_of_row ((exec_coreCseal h o s).trans (capInst_eq ..)) rfl (regRefused (hbad.imp_right (Or.imp_right fun hlarge => by
      rw [Bool.and_eq_false_iff, Bool.and_eq_false_iff]
      exact hlarge.imp capField_of_large (fun hA => .inl (capField_of_large hA)))))
  · exact illegal_of_row exec_coreCget rfl (regRefused (hbad.imp_right (Or.imp_right capField_of_large)))
  · exact illegal_of_row exec_coreCjr rfl (regRefused (hbad.imp_right (Or.imp_right capField_of_large)))
  · refine illegal_of_row exec_coreCst rfl ?_
    rcases hbad with hpre | hX | hD
    · rw [hpre, Bool.false_and, Bool.false_and]
    · rw [hX, Bool.not_true, Bool.and_false, Bool.false_and]
    · rw [capField_of_large hD, Bool.and_false]

end Sys2Proof.Machine

/-! The statement of the bit instructions that fails, with a state that the model evaluates to the refuting outcome. -/
namespace Sys2Proof.Machine

open Sys2Proof

/-- Register g1 of host core 0 holds the bit address of soft level 0, which is 0 while an event of its source stands in the present dot. -/
def softEvent : State := gSet 0 1 0x41600 { State.reset with fab := { State.reset.fab with now := [0x1600] } }

theorem softEvent_address : gGet 0 (fieldB 0x0400#16) softEvent % 2 ^ 20 = 0x41600 := by decide +kernel

/-- The bit reads as its source does, 1; a read, modify and write starts from the level, 0. -/
theorem softEvent_reads : bitOld 0 (bitPlace 0x41600) softEvent = false ∧ bitRead 0 (bitPlace 0x41600) softEvent = true := by decide +kernel

/-- Refutes O57, in its first clause: with no effect pending it takes the value that a soft level's write starts from as the one that is
read, but a read shows an event of the source in the present dot too, which a statement of every state does not exclude. -/
theorem not_bitInstructions : ¬ Obligations.BitInstructions := by
  intro h
  obtain ⟨hsame, -⟩ := h ⟨.host 0, [], 0⟩ softEvent 0 rfl _ rfl 0x0400#16 _ rfl _ rfl _ rfl _ rfl _ softEvent_address.symm
  obtain ⟨hold, hread⟩ := softEvent_reads
  have hdue : softEvent.due = [] := by decide +kernel
  rw [hold, hread] at hsame
  exact absurd (hsame hdue) (by decide)

end Sys2Proof.Machine

/-! O56: loads. -/
namespace Sys2Proof.Machine

open Sys2Proof

/-! ### Elements (R197) -/

theorem elemSize_cases (ps : List Prefix) : elemSize ps = 1 ∨ elemSize ps = 2 ∨ elemSize ps = 4 ∨ elemSize ps = 8 := by
  unfold elemSize
  induction ps with
  | nil => exact .inr (.inr (.inl rfl))
  | cons p ps ih =>
    rw [List.findSome?_cons]
    cases p with
    | width8 => exact .inl rfl
    | width16 => exact .inr (.inl rfl)
    | width64 => exact .inr (.inr (.inr rfl))
    | _ => exact ih

theorem elemSize_pos (ps : List Prefix) : 0 < elemSize ps := by
  rcases elemSize_cases ps with h | h | h | h <;> omega

theorem withG_mod (n v : Nat) (k : Cpu) : withG n (v % 2 ^ 32) k = withG n v k := by rw [withG, withG, Nat.mod_mod]

/-- A core whose register, or pair, has taken an element. -/
def withElem (r n v : Nat) (k : Cpu) : Cpu := if n = 8 then withG (r + 1) (v / 2 ^ 32) (withG r v k) else withG r v k

theorem IssueBlind.withElem (r n v : Nat) : IssueBlind (withElem r n v) := by
  unfold Machine.withElem
  split
  · exact (IssueBlind.withG _ _).comp (IssueBlind.withG _ _)
  · exact IssueBlind.withG _ _

theorem CoreStep.gPut {i : Nat} {f : Cpu → Cpu} {s r t : State} (hs : CoreStep i f s r t) (d n v : Nat) :
    CoreStep i (fun k => withElem d n v (f k)) s r (gPut i d n v t) := by
  by_cases hn : n = 8
  · simpa only [Machine.gPut, Machine.withElem, if_pos hn] using (hs.gSet d v).gSet (d + 1) (v / 2 ^ 32)
  · simpa only [Machine.gPut, Machine.withElem, if_neg hn] using hs.gSet d v

/-- A pair takes 8 bytes of memory, the lower half first. -/
theorem withElem_mread (r k : Nat) (s : State) (c : Cpu) : withElem r 8 (mread k 8 s) c = withG (r + 1) (mread (k + 4) 4 s) (withG r (mread k 4 s) c) := by
  have hread : mread k 8 s = mread k 4 s + 256 ^ 4 * mread (k + 4) 4 s := mread_add k 4 4 s
  have hlt : mread k 4 s < 256 ^ 4 := mread_lt k 4 s
  rw [withElem, if_pos rfl, ← withG_mod r, show mread k 8 s % 2 ^ 32 = mread k 4 s by omega, show mread k 8 s / 2 ^ 32 = mread (k + 4) 4 s by omega]

/-- What LDS makes of an element. -/
def signed (n v : Nat) : Nat := if v.testBit (8 * n - 1) then v + (2 ^ 32 - 2 ^ (8 * n)) else v

theorem signed_eq {n v : Nat} (hn : 0 < n) (h4 : n ≤ 4) (hv : v < 2 ^ (8 * n)) : signed n v = ((BitVec.ofNat (8 * n) v).signExtend 32).toNat := by
  have hmsb : (BitVec.ofNat (8 * n) v).msb = v.testBit (8 * n - 1) := by
    rw [BitVec.msb_eq_getLsbD_last, BitVec.getLsbD_ofNat, decide_eq_true (by omega), Bool.true_and]
  have hval : (BitVec.ofNat (8 * n) v).toNat = v := by rw [BitVec.toNat_ofNat, Nat.mod_eq_of_lt hv]
  rw [BitVec.toNat_signExtend, hmsb, BitVec.toNat_setWidth, hval, Nat.mod_eq_of_lt (hv.trans_le (Nat.pow_le_pow_right (by decide) (by omega))), signed]
  split <;> rfl

/-! ### Loads (R195, R197, R218, R225) -/

/-- What a load does where it begins. -/
def loadDid (o : BitVec 16) (d : Disp) (n : Nat) (f : Nat → Nat → Nat) (x : Ins) (t : State) : Did :=
  let a := dataAddr x.i o n (dispVal d) t
  match accessFails x [permLD] a n false (hasOrder x.pre) t with
  | some e => .fail e t
  | none =>
    match coreRead x.i a n t with
    | (none, t) => .fail (excData a) t
    | (some v, t') => { s := gPut x.i (fieldD o) n (f n v) t', n := loadCount (loopPlace x.i a n t) a n, lat := hostCount a n }

section
variable {h : Hdr} {o : BitVec 16} {d : Disp} {s : State}

theorem mread_afterIssue {u : Iss} {size : Nat} (k n : Nat) : mread k n (afterIssue h u size s) = mread k n s :=
  mread_congr (s := s) (t := afterIssue h u size s) rfl k n

/-- How a load issues. -/
def loadIss (h : Hdr) (o : BitVec 16) : Iss :=
  memIss h.pre [fieldA o, fieldB o] (if elemSize h.pre = 8 then [fieldD o, fieldD o + 1] else [fieldD o])

theorem loadInst_eq (op : Nat) (h : Hdr) (o : BitVec 16) (d : Disp) (w : Allows) (f : Nat → Nat → Nat) (s : State) : loadInst op h o d w f s
    = runInst (codeM op o d) (loadIss h o) h (prefixesOk w h.pre && !optionX o && (elemSize h.pre != 8 || pairField (fieldD o)))
      (loadDid o d (elemSize h.pre) f) s := rfl

theorem exec_coreLd : exec (.coreLd h o d) s = loadInst 0x70 h o d allowLoad (fun _ v => v) s := rfl

theorem exec_coreLds : exec (.coreLds h o d) s = loadInst 0x72 h o d allowLoadSigned signed s := rfl

section
variable {n a : Nat} {f : Nat → Nat → Nat} {x : Ins} {t : State} (ha : dataAddr x.i o n (dispVal d) t = a)
include ha

theorem loadDid_of_fail {e : Exc} (hfail : accessFails x [permLD] a n false (hasOrder x.pre) t = some e) : loadDid o d n f x t = .fail e t := by
  subst ha
  simp only [loadDid, hfail]

variable (hpass : accessFails x [permLD] a n false (hasOrder x.pre) t = none)
include hpass

theorem loadDid_of_error {t' : State} (hread : coreRead x.i a n t = (none, t')) : loadDid o d n f x t = .fail ⟨5, 0, a, 0⟩ t' := by
  subst ha
  simp only [loadDid, hpass, hread]
  rfl

theorem loadDid_of_read {v : Nat} {t' : State} (hread : coreRead x.i a n t = (some v, t')) : loadDid o d n f x t
    = { s := gPut x.i (fieldD o) n (f n v) t', n := loadCount (loopPlace x.i a n t) a n, lat := hostCount a n } := by
  subst ha
  simp only [loadDid, hpass, hread]

end

theorem region_hole {a : Nat} (ha : regionOf a = .hole) : a < 0x40000000 ∨ 0x60000000 ≤ a := by
  unfold regionOf at ha
  simp only [within_iff] at ha
  split_ifs at ha
  omega

theorem ownRefuge_of_hole {i a : Nat} (hhost : isHost i = true) (hhole : regionOf a = .hole) {n : Nat} {t : State} : ownRefuge i a n t = false := by
  have hi : i < 4 := of_decide_eq_true hhost
  have hdevice : ¬(refugeKey i ≤ a ∧ a + n ≤ refugeKey i + 0x1000) := by
    have hrange := region_hole hhole
    rw [refugeKey]
    omega
  rw [ownRefuge, ← Bool.decide_and, decide_eq_false hdevice, Bool.false_and]

/-- An address that leads to nothing is a bus error of a read (R216, R278). -/
theorem coreRead_of_hole {i a n : Nat} {t : State} (hhole : if isHost i then regionOf a = .hole else loopPlace i a n t = .nothing) :
    coreRead i a n t = (none, t) := by
  cases hhost : isHost i with
  | true =>
    rw [if_pos hhost] at hhole
    rw [coreRead, if_pos hhost, ownRefuge_of_hole hhost hhole, if_neg (by decide), busRead, hhole]
    split <;> rfl
  | false =>
    rw [hhost, if_neg (by decide)] at hhole
    rw [coreRead, hhost, if_neg (by decide), hhole]

theorem elemLegal {w : Allows} (hpre : prefixesOk w h.pre = true) (hX : optionX o = false) (hpair : elemSize h.pre = 8 → pairField (fieldD o) = true) :
    (prefixesOk w h.pre && !optionX o && (elemSize h.pre != 8 || pairField (fieldD o))) = true :=
  memLegal hpre hX (by rw [Bool.or_eq_true, bne_iff_ne]; exact (em (elemSize h.pre = 8)).symm.imp_right hpair)

/-- A load reads its element where nothing stands in the way. -/
theorem carried_load {e : Instr} {op : Nat} {w : Allows} {f : Nat → Nat → Nat} (hexec : exec e s = loadInst op h o d w f s)
    (hlen : codeLen (codeM op o d) = 3 + dispBytes d) (hs : memorySound s) (hpre : prefixesOk w h.pre = true) (hX : optionX o = false)
    (hpair : elemSize h.pre = 8 → pairField (fieldD o) = true) : ∀ n : Nat, n = elemSize h.pre →
    ∀ a : Nat, a = dataAddr (coreNum h.core) o n (dispVal d) s → ∀ ord : Bool, ord = (hasOrder h.pre && a % n != 0) → ∀ u : Iss, u = loadIss h o →
    ∀ r : Option Nat, r = capCheck (cGet (coreNum h.core) (authReg h.pre) s) [permLD] a n false →
      (r = none → ord = false → ∀ k ∈ plainKey (coreNum h.core) a n s, acts e h u (3 + dispBytes d) (loadCount (loopPlace (coreNum h.core) a n s) a n) 0
        (hostCount a n) s (fun _ => withElem (fieldD o) n (f n (mread k n s))))
      ∧ (∀ x ∈ r, traps e h u (3 + dispBytes d) (cpu (coreNum h.core) s).pc ⟨2, x, a, authReg h.pre⟩ s)
      ∧ (r = none → ord = true → traps e h u (3 + dispBytes d) (cpu (coreNum h.core) s).pc ⟨3, 0, a, 0⟩ s)
      ∧ (r = none → ord = false → (if isHost (coreNum h.core) then regionOf a = .hole else loopPlace (coreNum h.core) a n s = .nothing) →
          traps e h u (3 + dispBytes d) (cpu (coreNum h.core) s).pc ⟨5, 0, a, 0⟩ s) := by
  rintro _ rfl a ha ord hord _ rfl _ rfl
  have hexec' := hexec.trans (loadInst_eq ..)
  have hlegal := elemLegal hpre hX hpair
  have haddr : ∀ u size, dataAddr (insAt h u size s).i o (elemSize h.pre) (dispVal d) (afterIssue h u size s) = a := fun _ _ =>
    (dataAddr_afterIssue _ _).trans ha.symm
  subst hord
  refine ⟨fun hpass hord k hk => ?_, fun x hx => ?_, fun hpass hord => ?_, fun hpass hord hhole => ?_⟩
  · refine acts_of_coreStep hexec' hlen hlegal (loadDid_of_read (haddr _ _) (accessFails_of_pass hpass hord)
      (coreRead_of_plain (memorySound_afterIssue hs) (elemSize_pos _) hk)) (IssueBlind.withElem _ _ _) ?_
    rw [mread_afterIssue]
    exact (CoreStep.refl _ _).gPut _ _ _
  · exact traps_of_fail hexec' hlen hlegal (loadDid_of_fail (haddr _ _) (accessFails_of_cap hx))
  · exact traps_of_fail hexec' hlen hlegal (loadDid_of_fail (haddr _ _) (accessFails_of_align hpass hord))
  · exact traps_of_fail hexec' hlen hlegal (loadDid_of_error (haddr _ _) (accessFails_of_pass hpass hord) (coreRead_of_hole hhole))

theorem codeLen_codeM {op : Nat} (h16 : codeLen ⟨op, 0, none⟩ = 5) (h32 : codeLen ⟨op + 1, 0, none⟩ = 7) : codeLen (codeM op o d) = 3 + dispBytes d := by
  cases d with
  | d16 v => exact h16
  | d32 v => exact h32

/-- LD fills the rest of the register with zeros, or takes a pair. -/
theorem withElem_ld (n r k : Nat) (s : State) : withElem r n (mread k n s)
    = fun c => if n = 8 then withG (r + 1) (mread (k + 4) 4 s) (withG r (mread k 4 s) c) else withG r (mread k n s) c := by
  funext c
  by_cases hn : n = 8
  · subst hn
    rw [withElem_mread, if_pos rfl]
  · rw [withElem, if_neg hn, if_neg hn]

/-- LDS fills the rest of the register with copies of the top bit. -/
theorem withElem_lds {n : Nat} (hn : n = 1 ∨ n = 2 ∨ n = 4 ∨ n = 8) (r k : Nat) (s : State) : withElem r n (signed n (mread k n s))
    = fun c => if n = 8 then withG (r + 1) (mread (k + 4) 4 s) (withG r (mread k 4 s) c)
        else withG r ((BitVec.ofNat (8 * n) (mread k n s)).signExtend 32).toNat c := by
  by_cases h8 : n = 8
  · subst h8
    have hsame : signed 8 (mread k 8 s) = mread k 8 s := by simp [signed]
    simp only [hsame, withElem_ld, if_true]
  · have hlt : mread k n s < 2 ^ (8 * n) := by
      rw [Nat.pow_mul]
      exact mread_lt k n s
    funext c
    rw [withElem, if_neg h8, if_neg h8, signed_eq (by omega) (by omega) hlt]

end

end Sys2Proof.Machine

/-! O56: stores. -/
namespace Sys2Proof.Machine

open Sys2Proof

theorem stored_congr {k n v : Nat} {s t s' t' : State} (h : stored k n v s t) (hs : s'.mem = s.mem ∧ s'.tags = s.tags)
    (ht : t'.mem = t.mem ∧ t'.tags = t.tags) : stored k n v s' t' := by
  obtain ⟨hread, hother, htags⟩ := h
  refine ⟨(mread_congr ht.1 k n).trans hread, fun a ha => ?_, fun w => ?_⟩
  · rw [mget, mget, ht.1, hs.1]
    exact hother a ha
  · rw [ht.2, hs.2]
    exact htags w

/-! ### What a store does (R218, R220, R225, R282) -/

section
variable {x : Ins} {a n v : Nat} {t : State}

theorem storeEnd_of_fail {e : Exc} (hfail : accessFails x [permST] a n true (hasOrder x.pre) t = some e) : storeEnd x a n v t = .fail e t := by
  simp only [storeEnd, hfail]

theorem storeWrite_of_write {i b : Nat} {t' : State} (hwrite : coreWrite i a n v b t = (true, t')) : storeWrite i a n v b t = (true, t') := by
  rw [storeWrite, hwrite]

section
variable (hpass : accessFails x [permST] a n true (hasOrder x.pre) t = none)
include hpass

theorem storeEnd_of_write {t' : State} (hslot : (slotDenied (cGet x.i (authReg x.pre) t) a n && isHost x.i) = false) (hwrite : coreWrite x.i a n v x.b t = (true, t')) :
    storeEnd x a n v t = { s := t', n := storeCount (loopPlace x.i a n t) a n } := by
  simp only [storeEnd, hpass, hslot, Bool.false_eq_true, if_false, storeWrite_of_write hwrite]

/-- A host core's store to an unmapped address is dropped and reported. -/
theorem storeEnd_of_hole (hhost : isHost x.i = true) (hhole : regionOf a = .hole) :
    storeEnd x a n v t = { s := postedError x.i a t, n := storeCount (loopPlace x.i a n t) a n } := by
  have hwrite : coreWrite x.i a n v x.b t = (false, t) := by
    have hcached : cachedWrite a n v x.i t = (false, t) := by
      unfold cachedWrite
      rw [hhole]
      simp only [busWrite, hhole]
      split <;> rfl
    rw [coreWrite, if_pos hhost, ownRefuge_of_hole hhost hhole, if_neg (by decide), hcached]
  have hposted : storeWrite x.i a n v x.b t = (true, postedError x.i a t) := by simp [storeWrite, hwrite, hhost, hhole]
  simp only [storeEnd, hpass, hposted, ite_self]

/-- A loop core's store to an address that leads to nothing is a bus error. -/
theorem storeEnd_of_nothing (hhost : isHost x.i = false) (hplace : loopPlace x.i a n t = .nothing) : storeEnd x a n v t = .fail ⟨5, 0, a, 0⟩ t := by
  have hwrite : coreWrite x.i a n v x.b t = (false, t) := by rw [coreWrite, hhost, if_neg (by decide), hplace]
  have herror : storeWrite x.i a n v x.b t = (false, t) := by simp [storeWrite, hwrite, hhost]
  simp only [storeEnd, hpass, hhost, Bool.and_false, Bool.false_eq_true, if_false, herror]
  rfl

end

/-- A loop core's store to general SRAM, or an aligned one to a register block, is under way. -/
theorem coreWrite_of_later {i b : Nat} (hs : memorySound t) (hhost : isHost i = false)
    (halign : loopPlace i a n t = .sram ∨ (n ≤ 4 ∧ a % n = 0)) {r : Place × Nat × Nat}
    (hr : r ∈ [(Place.sram, storeCount .sram a n - 1, storeCount .sram a n), (.own, 2, storeCount .own a n), (.region, 4, storeCount .region a n)])
    (hplace : loopPlace i a n t = r.1) : coreWrite i a n v b t = (true, later ((b + r.2.1) / 2 - t.time) (.store i a n v false) t)
      ∧ storeCount (loopPlace i a n t) a n = r.2.2 := by
  have hcount : 1 ≤ storeCount .sram a n := Nat.le_add_left 1 _ |>.trans (Nat.add_le_add_left (by decide : 1 ≤ 40) _)
  unfold coreWrite
  rw [hhost, if_neg (by decide)]
  simp only [List.mem_cons, List.not_mem_nil, or_false] at hr
  rcases hr with rfl | rfl | rfl
  · rw [hplace]
    refine ⟨?_, rfl⟩
    have hstore := sramStore_of_sound hs hplace v b false
    rw [Nat.add_sub_assoc hcount] at hstore
    exact hstore
  · rw [hplace] at halign ⊢
    exact ⟨if_pos (halign.resolve_left (fun h => nomatch h)), rfl⟩
  · rw [hplace] at halign ⊢
    exact ⟨if_pos (halign.resolve_left (fun h => nomatch h)), rfl⟩

end

section
variable {h : Hdr} {o : BitVec 16} {s : State}

/-- A store where nothing stands in the way. -/
theorem carried_store {e : Instr} {c : Code} {u : Iss} {size a n v : Nat} {legal : Bool} {body : Ins → State → Did}
    (hexec : exec e s = runInst c u h legal body s) (hlen : codeLen c = size) (hlegal : legal = true)
    (hbody : body (insAt h u size s) (afterIssue h u size s) = storeEnd (insAt h u size s) a n v (afterIssue h u size s)) (hs : memorySound s)
    (hn : 0 < n) : ∀ f : Option Nat, f = capCheck (cGet (coreNum h.core) (authReg h.pre) s) [permST] a n true →
      ∀ ord : Bool, ord = (hasOrder h.pre && a % n != 0) →
      (∀ x ∈ f, traps e h u size (cpu (coreNum h.core) s).pc ⟨2, x, a, authReg h.pre⟩ s)
      ∧ (f = none → ord = true → traps e h u size (cpu (coreNum h.core) s).pc ⟨3, 0, a, 0⟩ s)
      ∧ (f = none → ord = false →
        (∀ k ∈ plainKey (coreNum h.core) a n s, carriesOut e h u size s (fun b t => stored k n v s t
          ∧ executed h u size b (storeCount (loopPlace (coreNum h.core) a n s) a n) 0 1 (fun c => c) (memoryOf t s) s t))
        ∧ (isHost (coreNum h.core) = true → regionOf a = .hole → carriesOut e h u size s (fun b t =>
            reported 0x10A (memAddr (flat a s)) (memInfo (flat a s) (coreNum h.core)) s t
            ∧ executed h u size b 0 0 1 (fun c => c) { s with flt := t.flt } s t))
        ∧ (isHost (coreNum h.core) = false → loopPlace (coreNum h.core) a n s = .nothing → traps e h u size (cpu (coreNum h.core) s).pc ⟨5, 0, a, 0⟩ s)
        ∧ (isHost (coreNum h.core) = false → (loopPlace (coreNum h.core) a n s = .sram ∨ (n ≤ 4 ∧ a % n = 0)) →
          ∀ r ∈ [(Place.sram, storeCount .sram a n - 1, storeCount .sram a n), (.own, 2, storeCount .own a n), (.region, 4, storeCount .region a n)],
          loopPlace (coreNum h.core) a n s = r.1 → carriesOut e h u size s (fun b t =>
            t.due = s.due ++ [(s.time + ((b + r.2.1) / 2 - s.time), .store (coreNum h.core) a n v false)]
            ∧ executed h u size b r.2.2 0 1 (fun c => c) { s with due := t.due } s t))) := by
  rintro f hf ord rfl
  subst hf
  have hsound := memorySound_afterIssue (h := h) (u := u) (size := size) hs
  refine ⟨fun x hx => ?_, fun hpass hord => ?_, fun hpass hord => ⟨fun k hk => ?_, fun hhost hhole => ?_, fun hhost hplace => ?_,
    fun hhost halign r hr hplace => ?_⟩⟩
  · exact traps_of_fail hexec hlen hlegal (hbody.trans (storeEnd_of_fail (accessFails_of_cap hx)))
  · exact traps_of_fail hexec hlen hlegal (hbody.trans (storeEnd_of_fail (accessFails_of_align hpass hord)))
  · refine carriesOut_of_done hexec hlen hlegal (hbody.trans (storeEnd_of_write (accessFails_of_pass hpass hord) (by rw [slotDenied_of_plain hn hk, Bool.false_and])
      (coreWrite_of_plain hsound hn hk _ _))) ⟨?_, ?_⟩
    · exact stored_congr (stored_putMem hsound k n v hn) ⟨rfl, rfl⟩ ⟨rfl, rfl⟩
    · exact executed_of_coreStep IssueBlind.id (coreStep_of_memory (putMem_frame hsound k n v)) rfl
  · refine carriesOut_of_done hexec hlen hlegal (hbody.trans (storeEnd_of_hole (accessFails_of_pass hpass hord) hhost hhole)) ⟨rfl, ?_⟩
    have hexecuted := executed_of_coreStep (h := h) (u := u) (size := size) (s := s) (f := fun k => k) (n := 0) (hold := 0) (lat := 1) IssueBlind.id
      ((CoreStep.refl _ _).rest (u := postedError (coreNum h.core) a (afterIssue h u size s)) rfl
        (q := { s with flt := (postedError (coreNum h.core) a (afterIssue h u size s)).flt }) rfl) rfl
    rw [hhost] at hexecuted ⊢
    exact hexecuted
  · exact traps_of_fail hexec hlen hlegal (hbody.trans (storeEnd_of_nothing (accessFails_of_pass hpass hord) hhost hplace))
  · obtain ⟨hwrite, hcount⟩ := coreWrite_of_later (v := v) (b := beginCycle (coreNum h.core) h.wait u s) hsound hhost halign hr hplace
    refine carriesOut_of_done hexec hlen hlegal (hbody.trans (storeEnd_of_write (accessFails_of_pass hpass hord) (by rw [insAt, hhost, Bool.and_false])
      hwrite)) ⟨rfl, ?_⟩
    rw [show storeCount (loopPlace (insAt h u size s).i a n (afterIssue h u size s)) a n = r.2.2 from hcount]
    exact executed_of_coreStep IssueBlind.id ((CoreStep.refl _ _).rest rfl rfl) rfl

end

end Sys2Proof.Machine

/-! The atomics, and with them O56. -/
namespace Sys2Proof.Machine

open Sys2Proof

/-! ### What an atomic does (R196, R212, R216, R230) -/

/-- What an atomic does where it begins. -/
def atomicDid (o : BitVec 16) (d : BitVec 16) (n : Nat) (f : Nat → Nat → Nat → Option Nat) (x : Ins) (t : State) : Did :=
  let a := atomicAddr x.i o (dispVal (.d16 d)) t
  match accessFails x [permLD, permST] a n true true t with
  | some e => .fail e t
  | none =>
    if !atomicAllowed x.i a n t then .fail (excData a) t
    else match coreRead x.i a n t with
    | (none, t) => .fail (excData a) t
    | (some v, t1) =>
      let w := match f v (gElem x.i (fieldD o) n t1) (gElem x.i (fieldB o) n t1) with
        | some u => slotWrite x.i (authReg x.pre) a n (atomicWrite x.i a n (u % 2 ^ (8 * n)) x.b) t1
        | none => (true, t1)
      match w with
      | (false, t) => .fail (excData a) t
      | (true, t2) => { s := gSet x.i (fieldD o) v t2, n := atomicCount (loopPlace x.i a n t) a n, hold := 1, lat := hostCount a n + 4 }

theorem atomicInst_eq (op : Nat) (h : Hdr) (o : BitVec 16) (d : BitVec 16) (f : Nat → Nat → Nat → Option Nat) (s : State) : atomicInst op h o d f s
    = runInst (codeM op o (.d16 d)) { memIss h.pre [fieldA o, fieldB o, fieldD o] [fieldD o] with alone := true } h
      (prefixesOk allowAtomic h.pre && !optionX o) (atomicDid o d (elemSize h.pre) f) s := rfl

section
variable {o : BitVec 16} {d : BitVec 16} {n a : Nat} {f : Nat → Nat → Nat → Option Nat} {x : Ins} {t : State}
  (ha : atomicAddr x.i o (dispVal (.d16 d)) t = a)
include ha

theorem atomicDid_of_fail {e : Exc} (hfail : accessFails x [permLD, permST] a n true true t = some e) : atomicDid o d n f x t = .fail e t := by
  subst ha
  simp only [atomicDid, hfail]

variable (hpass : accessFails x [permLD, permST] a n true true t = none) (hallowed : atomicAllowed x.i a n t = true) {v : Nat}
  (hread : coreRead x.i a n t = (some v, t))
include hpass hallowed hread

theorem atomicDid_of_none (hf : f v (gElem x.i (fieldD o) n t) (gElem x.i (fieldB o) n t) = none) : atomicDid o d n f x t
    = { s := gSet x.i (fieldD o) v t, n := atomicCount (loopPlace x.i a n t) a n, hold := 1, lat := hostCount a n + 4 } := by
  subst ha
  simp only [atomicDid, hpass, hallowed, hread, hf, Bool.not_true, Bool.false_eq_true, if_false]

theorem atomicDid_of_write {w : Nat} {t' : State} (hf : f v (gElem x.i (fieldD o) n t) (gElem x.i (fieldB o) n t) = some w)
    (hslot : slotDenied (cGet x.i (authReg x.pre) t) a n = false) (hwrite : atomicWrite x.i a n (w % 2 ^ (8 * n)) x.b t = (true, t')) :
    atomicDid o d n f x t
      = { s := gSet x.i (fieldD o) v t', n := atomicCount (loopPlace x.i a n t) a n, hold := 1, lat := hostCount a n + 4 } := by
  subst ha
  simp only [atomicDid, hpass, hallowed, hread, hf, slotWrite_of_allowed hslot, hwrite, Bool.not_true, Bool.false_eq_true, if_false]

end

/-! ### Where an atomic's element lies -/

section
variable {i a n k : Nat} {s : State} (hs : memorySound s) (hn : 0 < n)
  (hk : k ∈ (if isHost i = false ∧ loopPlace i a n s = .sram then some a else plainKey i a n s))
include hs hn hk

theorem atomic_read : coreRead i a n s = (some (mread k n s), s) := by
  by_cases hsram : isHost i = false ∧ loopPlace i a n s = .sram
  · rw [if_pos hsram] at hk
    cases hk
    obtain ⟨hhost, hplace⟩ := hsram
    obtain ⟨hfirst, hlast⟩ := regions_of_loop_sram hplace
    rw [coreRead, hhost, if_neg (by decide), hplace]
    exact busRead_of_plain hs (.sram hfirst hlast) i
  · rw [if_neg hsram] at hk
    exact coreRead_of_plain hs hn hk

theorem atomic_write (v b : Nat) : atomicWrite i a n v b s = (true, putMem k n v s) := by
  by_cases hsram : isHost i = false ∧ loopPlace i a n s = .sram
  · rw [if_pos hsram] at hk
    cases hk
    obtain ⟨hhost, hplace⟩ := hsram
    obtain ⟨hfirst, hlast⟩ := regions_of_loop_sram hplace
    rw [atomicWrite, hhost, hplace, if_pos (by decide)]
    exact busWrite_of_sram hs hfirst hlast v i
  · rw [if_neg hsram] at hk
    have hplace : (!isHost i && loopPlace i a n s == .sram) = false := by
      rw [Bool.eq_false_iff]
      simpa using hsram
    rw [atomicWrite, hplace, if_neg (by decide), coreWrite_of_plain hs hn hk]

omit hs in
theorem atomic_slot (c : Cap) : slotDenied c a n = false := by
  by_cases hsram : isHost i = false ∧ loopPlace i a n s = .sram
  · exact slotDenied_of_sram (regions_of_loop_sram hsram.2).1
  · rw [if_neg hsram] at hk
    exact slotDenied_of_plain hn hk

omit hs in
theorem atomic_allowed (hcode : isHost i = true ∨ 0x20000 ≤ a) : atomicAllowed i a n s = true := by
  unfold atomicAllowed
  cases hhost : isHost i with
  | true =>
    rw [if_neg (by simp [hhost])] at hk
    cases hostPlain hhost hn hk with
    | sram hfirst _ => rw [hfirst]; rfl
    | dram hfirst _ _ _ => rw [hfirst]; rfl
  | false =>
    have hlow := hcode.resolve_left (by rw [hhost]; decide)
    by_cases hplace : loopPlace i a n s = .sram
    · rw [hplace]; rfl
    · rw [if_neg (by simp [hplace])] at hk
      cases loopPlain hhost hk with
      | code hplace =>
        unfold loopPlace at hplace
        split_ifs at hplace
        omega
      | data hplace => rw [hplace]; rfl
      | refuge hplace => rw [hplace]; rfl

end

/-- A row without the width of 64 bits moves no element of 8 bytes. -/
theorem elemSize_ne_eight {w : Allows} {ps : List Prefix} (hw : w.wide = false) (hpre : prefixesOk w ps = true) : elemSize ps ≠ 8 := by
  obtain ⟨-, hall⟩ := Bool.and_eq_true_iff.mp hpre
  intro h8
  have hwide : .width64 ∈ ps := by
    unfold elemSize at h8
    clear hpre hall
    induction ps with
    | nil => cases h8
    | cons p ps ih =>
      rw [List.findSome?_cons] at h8
      cases p with
      | width8 => cases h8
      | width16 => cases h8
      | width64 => exact List.mem_cons_self
      | _ => exact List.mem_cons_of_mem _ (ih h8)
  have hrow := List.all_eq_true.mp hall _ hwide
  rw [Allows.has, hw] at hrow
  cases hrow

section
variable {h : Hdr} {o : BitVec 16} {d : BitVec 16} {s : State}

theorem gElem_afterIssue {u : Iss} {size : Nat} (r : Nat) {n : Nat} (hn : n ≠ 8) :
    gElem (coreNum h.core) r n (afterIssue h u size s) = gGet (coreNum h.core) r s % 2 ^ (8 * n) := by rw [gElem, if_neg hn, gGet_afterIssue]

theorem memoryOf_gSet (i r v : Nat) (t : State) : memoryOf (gSet i r v t) s = memoryOf t s := by
  unfold gSet
  split <;> rfl

theorem gSet_memory (i r v : Nat) (t : State) : (gSet i r v t).mem = t.mem ∧ (gSet i r v t).tags = t.tags := by
  unfold gSet
  split <;> exact ⟨rfl, rfl⟩

theorem stored_mod (k n v : Nat) (s t : State) : stored k n (v % 2 ^ (8 * n)) s t ↔ stored k n v s t := by rw [stored, stored, Nat.mod_mod]

/-- An atomic where nothing stands in the way. -/
theorem carried_atomic {e : Instr} {op : Nat} {f : Nat → Nat → Nat → Option Nat} (hexec : exec e s = atomicInst op h o d f s)
    (hlen : codeLen (codeM op o (.d16 d)) = 5) (hs : memorySound s) (hpre : prefixesOk allowAtomic h.pre = true) (hX : optionX o = false) :
    ∀ n : Nat, n = elemSize h.pre → ∀ a : Nat, a = atomicAddr (coreNum h.core) o (dispVal (.d16 d)) s →
    ∀ r : Option Nat, r = capCheck (cGet (coreNum h.core) (authReg h.pre) s) [permLD, permST] a n true →
    ∀ u : Iss, u = { memIss h.pre [fieldA o, fieldB o, fieldD o] [fieldD o] with alone := true } →
      (∀ x ∈ r, traps e h u 5 (cpu (coreNum h.core) s).pc ⟨2, x, a, authReg h.pre⟩ s)
      ∧ (r = none → a % n ≠ 0 → traps e h u 5 (cpu (coreNum h.core) s).pc ⟨3, 0, a, 0⟩ s)
      ∧ (r = none → a % n = 0 →
        ∀ k ∈ (if isHost (coreNum h.core) = false ∧ loopPlace (coreNum h.core) a n s = .sram then some a else plainKey (coreNum h.core) a n s),
        (isHost (coreNum h.core) = true ∨ 0x20000 ≤ a) → ∀ v : Nat, v = mread k n s → carriesOut e h u 5 s (fun b t =>
          (∀ w ∈ f v (gGet (coreNum h.core) (fieldD o) s % 2 ^ (8 * n)) (gGet (coreNum h.core) (fieldB o) s % 2 ^ (8 * n)), stored k n w s t)
          ∧ (f v (gGet (coreNum h.core) (fieldD o) s % 2 ^ (8 * n)) (gGet (coreNum h.core) (fieldB o) s % 2 ^ (8 * n)) = none → t = { s with cpus := t.cpus })
          ∧ executed h u 5 b (atomicCount (loopPlace (coreNum h.core) a n s) a n) 1 (hostCount a n + 4) (fun c => withG (fieldD o) v c)
            (memoryOf t s) s t)) := by
  rintro n hsize a haddr r hr u hu
  have hn : 0 < n := hsize ▸ elemSize_pos _
  have h8 : n ≠ 8 := hsize ▸ elemSize_ne_eight rfl hpre
  have hexec' : exec e s = runInst (codeM op o (.d16 d)) u h (prefixesOk allowAtomic h.pre && !optionX o) (atomicDid o d n f) s := by
    rw [hu, hsize]
    exact hexec.trans (atomicInst_eq ..)
  have hlegal : (prefixesOk allowAtomic h.pre && !optionX o) = true := by rw [hpre, hX]; rfl
  have ha : atomicAddr (insAt h u 5 s).i o (dispVal (.d16 d)) (afterIssue h u 5 s) = a := by
    rw [haddr, atomicAddr, insAt, gGet_afterIssue, atomicAddr]
  have hsound := memorySound_afterIssue (h := h) (u := u) (size := 5) hs
  subst hr
  refine ⟨fun x hx => ?_, fun hpass halign => ?_, fun hpass halign k hk hcode v hv => ?_⟩
  · exact traps_of_fail hexec' hlen hlegal (atomicDid_of_fail ha (accessFails_of_cap hx))
  · exact traps_of_fail hexec' hlen hlegal (atomicDid_of_fail ha (accessFails_of_align hpass (bne_iff_ne.mpr halign)))
  · have hchecked := accessFails_of_pass (h := h) (u := u) (size := 5) (s := s) hpass (aligned := true) (by rw [halign]; rfl)
    have hallowed := atomic_allowed (s := afterIssue h u 5 s) hn hk hcode
    have hread := atomic_read hsound hn hk
    rw [mread_afterIssue, ← hv] at hread
    have hD := gElem_afterIssue (h := h) (u := u) (size := 5) (s := s) (fieldD o) h8
    have hB := gElem_afterIssue (h := h) (u := u) (size := 5) (s := s) (fieldB o) h8
    cases hf : f v (gGet (coreNum h.core) (fieldD o) s % 2 ^ (8 * n)) (gGet (coreNum h.core) (fieldB o) s % 2 ^ (8 * n)) with
    | none =>
      have hstep := (CoreStep.refl (coreNum h.core) (afterIssue h u 5 s)).gSet (fieldD o) v
      refine carriesOut_of_done hexec' hlen hlegal (atomicDid_of_none ha hchecked hallowed hread (by rw [insAt, hD, hB, hf]))
        ⟨fun w hw => (nomatch hw), fun _ => setCpu_frame hstep.frame _ _, ?_⟩
      rw [show ∀ i m l ws t, memoryOf (spend i (beginCycle (coreNum h.core) h.wait u s) m l ws t) s = memoryOf t s from fun _ _ _ _ _ => rfl, memoryOf_gSet]
      exact executed_of_coreStep (IssueBlind.withG _ _) (hstep.rest rfl hstep.frame) rfl
    | some w =>
      have hstep := (coreStep_of_memory (putMem_frame hsound k n (w % 2 ^ (8 * n)))).gSet (fieldD o) v
      refine carriesOut_of_done hexec' hlen hlegal (atomicDid_of_write ha hchecked hallowed hread (by rw [insAt, hD, hB, hf])
        (atomic_slot hn hk _) (atomic_write hsound hn hk _ _)) ⟨fun w' hw => ?_, fun hnone => (nomatch hnone), ?_⟩
      · cases hw
        have hstored := stored_putMem hsound k n (w % 2 ^ (8 * n)) hn
        rw [stored_mod] at hstored
        exact stored_congr hstored ⟨rfl, rfl⟩ (gSet_memory _ _ _ _)
      · rw [show ∀ i m l ws t, memoryOf (spend i (beginCycle (coreNum h.core) h.wait u s) m l ws t) s = memoryOf t s from fun _ _ _ _ _ => rfl, memoryOf_gSet]
        exact executed_of_coreStep (IssueBlind.withG _ _) hstep rfl

end

/-! ### The statement -/

section
variable {h : Hdr} {o : BitVec 16} {s : State}

theorem exec_coreSt {d : Disp} : exec (.coreSt h o d) s = runInst (codeM 0x74 o d)
    (memIss h.pre ([fieldA o, fieldB o] ++ if elemSize h.pre = 8 then [fieldD o, fieldD o + 1] else [fieldD o]) []) h
    (prefixesOk allowStore h.pre && !optionX o && (elemSize h.pre != 8 || pairField (fieldD o))) (fun x t =>
      storeEnd x (dataAddr x.i o (elemSize h.pre) (dispVal d) t) (elemSize h.pre) (gElem x.i (fieldD o) (elemSize h.pre) t) t) s := rfl

theorem exec_coreSti {d : BitVec 16} {w : Word} : exec (.coreSti h o d w) s
    = runInst ⟨0x7B, o.toNat + 2 ^ 16 * d.toNat + 2 ^ 32 * w.toNat, none⟩ (memIss h.pre [fieldA o, fieldB o] []) h
      (prefixesOk allowStoreImm h.pre && !optionX o && fieldD o == 0) (fun x t =>
        storeEnd x (dataAddr x.i o (elemSize h.pre) (dispVal (.d16 d)) t) (elemSize h.pre) (w.toNat % 2 ^ (8 * elemSize h.pre)) t) s := rfl

theorem elemRefused {w : Allows} (hbad : prefixesOk w h.pre = false ∨ optionX o = true ∨ (elemSize h.pre = 8 ∧ pairField (fieldD o) = false)) :
    (prefixesOk w h.pre && !optionX o && (elemSize h.pre != 8 || pairField (fieldD o))) = false := by
  rcases hbad with hpre | hX | ⟨h8, hpair⟩
  · rw [hpre, Bool.false_and, Bool.false_and]
  · rw [hX, Bool.not_true, Bool.and_false, Bool.false_and]
  · rw [h8, hpair, Bool.and_eq_false_iff]
    exact .inr rfl

theorem atomics (d : BitVec 16) : ∀ e ∈ ([(.coreSwap h o d, fun _ _ b => some b), (.coreCas h o d, fun v c b => if v = c then some b else none),
      (.coreAmadd h o d, fun v _ b => some (v + b)), (.coreAmand h o d, fun v _ b => some (v &&& b)), (.coreAmor h o d, fun v _ b => some (v ||| b))]
      : List (Instr × (Nat → Nat → Nat → Option Nat))),
    ∃ op, codeLen (codeM op o (.d16 d)) = 5 ∧ exec e.1 s = atomicInst op h o d e.2 s := by
  simp only [List.forall_mem_cons]
  exact ⟨⟨0x76, rfl, rfl⟩, ⟨0x77, rfl, rfl⟩, ⟨0x78, rfl, rfl⟩, ⟨0x79, rfl, rfl⟩, ⟨0x7A, rfl, rfl⟩, List.forall_mem_nil _⟩

end

/-- Settles O56. -/
theorem loadsAndStores : Obligations.LoadsAndStores := by
  unfold Obligations.LoadsAndStores
  rintro h s hs _ rfl _ rfl o _ rfl _ rfl _ rfl n hn _ rfl rs hrs
  have hpos : 0 < n := hn ▸ elemSize_pos _
  refine ⟨fun d a ha ord hord => ⟨fun hX hpair => ⟨fun u hu r hr e he => ?_, fun v hv w e he => ?_⟩, fun hbad => ?_, fun hbad => ?_⟩,
    fun d a ha hpre hX r hr u hu e he => ?_⟩
  · have hiss : u = loadIss h o := by rw [hu, hrs, hn, loadIss]
    have hpair' : elemSize h.pre = 8 → pairField (fieldD o) = true := hn ▸ hpair
    rcases List.mem_append.mp he with hld | hlds
    · obtain ⟨hpre, hld⟩ := List.mem_ite_nil_right.mp hld
      rw [List.mem_singleton.mp hld]
      have hcarried := carried_load exec_coreLd (codeLen_codeM rfl rfl) hs hpre hX hpair' n hn a ha ord hord u hiss r hr
      simpa only [withElem_ld, Bool.false_eq_true, if_false] using hcarried
    · obtain ⟨hpre, hlds⟩ := List.mem_ite_nil_right.mp hlds
      rw [List.mem_singleton.mp hlds]
      have hcarried := carried_load exec_coreLds (codeLen_codeM rfl rfl) hs hpre hX hpair' n hn a ha ord hord u hiss r hr
      simpa only [withElem_lds (hn ▸ elemSize_cases h.pre), if_true] using hcarried
  · rintro b hb f hf ord hord
    rcases List.mem_append.mp he with hst | hsti
    · obtain ⟨hpre, hst⟩ := List.mem_ite_nil_right.mp hst
      rw [List.mem_singleton.mp hst] at hb ⊢
      have hb' : b = dataAddr (coreNum h.core) o (elemSize h.pre) (dispVal d) s := by rw [hb, ← hn]; exact ha
      subst hrs hn
      refine carried_store exec_coreSt (codeLen_codeM rfl rfl) (elemLegal hpre hX hpair) ?_ hs hpos f hf ord hord
      simp only [insAt, dataAddr_afterIssue, ← hb', gElem, gGet_afterIssue, ← hv]
    · obtain ⟨hlegal, hsti⟩ := List.mem_ite_nil_right.mp hsti
      rw [List.mem_singleton.mp hsti] at hb ⊢
      have hb' : b = dataAddr (coreNum h.core) o (elemSize h.pre) (dispVal (.d16 (BitVec.ofNat 16 (dispVal d)))) s := by rw [hb, ← hn]; rfl
      obtain ⟨hpre, hD⟩ := Bool.and_eq_true_iff.mp hlegal
      subst hn
      refine carried_store exec_coreSti rfl (by rw [hpre, hX, hD]; rfl) ?_ hs hpos f hf ord hord
      simp only [insAt, dataAddr_afterIssue, ← hb']
  · subst hrs hn
    exact illegal_of_row (exec_coreLd.trans (loadInst_eq ..)) (codeLen_codeM rfl rfl) (elemRefused hbad)
  · subst hrs hn
    exact illegal_of_row exec_coreSt (codeLen_codeM rfl rfl) (elemRefused hbad)
  · obtain ⟨op, hlen, hexec⟩ := atomics (s := s) d e he
    exact carried_atomic hexec hlen hs hpre hX n hn a ha r hr u hu

end Sys2Proof.Machine

/-! Nothing that a core reads or writes at once counts a dot (R17, R20): the accesses leave the time as it was. -/
namespace Sys2Proof.Machine

open Sys2Proof

/-- The dot in which a state stands. -/
def stamp (s : State) : Nat := s.time

/-- The dot in which the state stands that an outcome answers; `none` where it answers no next state. -/
def stampNext (o : Host.Outcome State Fault Refusal) : Option Nat :=
  match o with
  | .next t => some (stamp t)
  | _ => none

/-- A change of any other component of the state leaves the dot. -/
@[simp] theorem stamp_mk (s : State) (part tscreen regs mem tags poison soft valid pos due fresh resp swp legs startq trips ctx holds ctx1 ctx2
    regs1 mem1 regs0 ctx0 hits cross eng spare trace sdf clk sar cmp qep seu fab tmr restart img pads ports link flt rct evs recs recAt woke
    memh dma disp scan be flx dp aud cfs cfsWait cfsAt nand net pwr test frameRep cpus lcd pending) :
    stamp ⟨part, tscreen, regs, mem, tags, poison, soft, valid, s.time, pos, due, fresh, resp, swp, legs, startq, trips, ctx, holds, ctx1,
      ctx2, regs1, mem1, regs0, ctx0, hits, cross, eng, spare, trace, sdf, clk, sar, cmp, qep, seu, fab, tmr, restart, img, pads, ports, link,
      flt, rct, evs, recs, recAt, woke, memh, dma, disp, scan, be, flx, dp, aud, cfs, cfsWait, cfsAt, nand, net, pwr, test, frameRep, cpus, lcd,
      pending⟩ = stamp s := rfl

@[simp] theorem stampNext_next (s : State) : stampNext (.next s) = some (stamp s) := rfl

@[simp] theorem stampNext_ite (c : Prop) [Decidable c] (a b : Host.Outcome State Fault Refusal) :
    stampNext (if c then a else b) = if c then stampNext a else stampNext b := by split <;> rfl

@[simp] theorem stamp_ite (c : Prop) [Decidable c] (a b : State) :
    stamp (if c then a else b) = if c then stamp a else stamp b := by split <;> rfl
@[simp] theorem stamp_ran (o : Host.Outcome State Fault Refusal) (s : State) (h : stampNext o = some (stamp s)) :
    stamp (ran o s) = stamp s := by
  cases o <;> simp_all [ran, stampNext]
@[simp] theorem stamp_onlyIf (b : Bool) (f : State → State) (s : State) (h : ∀ t, stamp (f t) = stamp t) :
    stamp (onlyIf b f s) = stamp s := by
  simp [onlyIf, h]
@[simp] theorem stamp_foldl {α : Type} (f : State → α → State) (ks : List α) (s : State) (h : ∀ t k, stamp (f t k) = stamp t) :
    stamp (ks.foldl f s) = stamp s := by
  induction ks generalizing s with
  | nil => rfl
  | cons k ks ih => simp [ih, h]
@[simp] theorem stamp_forAll {α : Type} (ks : List α) (f : α → State → State) (s : State) (h : ∀ k t, stamp (f k t) = stamp t) :
    stamp (forAll ks f s) = stamp s := by
  simp [forAll, h]
theorem stamp_of_snd {α : Type} {p : α × State} {a : α} {s t : State} (hp : p = (a, t)) (h : stamp p.2 = stamp s) :
    stamp t = stamp s := by
  subst hp
  exact h

/-! ### Machine/Ops.lean -/

@[simp] theorem stamp_busError (s : State) : stamp (busError s) = stamp s := rfl
@[simp] theorem stamp_toCluster (c : Nat) (f : State → State) (s : State) (h : ∀ t, stamp (f t) = stamp t) :
    stamp (toCluster c f s) = stamp s := by
  simp [toCluster, h]
@[simp] theorem stamp_fset (F : Fld) (u v : Nat) (s : State) : stamp (fset F u v s) = stamp s := by simp [fset]
@[simp] theorem stamp_mark (i u m : Nat) (s : State) : stamp (mark i u m s) = stamp s := by simp [mark]
@[simp] theorem stamp_fon (F : Fld) (u : Nat) (s : State) : stamp (fon F u s) = stamp s := by simp [fon]
@[simp] theorem stamp_foff (F : Fld) (u : Nat) (s : State) : stamp (foff F u s) = stamp s := by simp [foff]
@[simp] theorem stamp_fsetBit (F : Fld) (u i : Nat) (b : Bool) (s : State) :
    stamp (fsetBit F u i b s) = stamp s := by simp [fsetBit]
@[simp] theorem stamp_fclear (F : Fld) (u v : Nat) (s : State) : stamp (fclear F u v s) = stamp s := by simp [fclear]
@[simp] theorem stamp_fshow (F : Fld) (u v : Nat) (s : State) : stamp (fshow F u v s) = stamp s := by simp [fshow]
@[simp] theorem stamp_fread (F : Fld) (u : Nat) (s : State) : stamp (fread F u s) = stamp s := by simp [fread]
@[simp] theorem stamp_fcount (F : Fld) (u n : Nat) (s : State) : stamp (fcount F u n s) = stamp s := by simp [fcount]
@[simp] theorem stamp_answer (v : Nat) (s : State) : stamp (answer v s) = stamp s := by simp [answer]
@[simp] theorem stamp_later (n : Nat) (d : Due) (s : State) : stamp (later n d s) = stamp s := by simp [later]
@[simp] theorem stamp_dropDue (p : Due → Bool) (s : State) : stamp (dropDue p s) = stamp s := by simp [dropDue]
@[simp] theorem stamp_nextFresh (s : State) : stamp (nextFresh s) = stamp s := by simp [nextFresh]
@[simp] theorem stamp_report (src i0 i1 : Nat) (s : State) : stamp (report src i0 i1 s) = stamp s := by simp [report]
@[simp] theorem stamp_setEvSrc (n : Nat) (e : EvSrc) (s : State) : stamp (setEvSrc n e s) = stamp s := by simp [setEvSrc]
@[simp] theorem stamp_noteSource (n dot : Nat) (s : State) : stamp (noteSource n dot s) = stamp s := by simp [noteSource]
@[simp] theorem stamp_noteSources (dot : Nat) (s : State) : stamp (noteSources dot s) = stamp s := by simp [noteSources]
@[simp] theorem stamp_arrive (n payload : Nat) (s : State) : stamp (arrive n payload s) = stamp s := by simp [arrive]
@[simp] theorem stamp_setLcd (c : Nat) (q : List Nat) (s : State) : stamp (setLcd c q s) = stamp s := by simp [setLcd]
@[simp] theorem stamp_emptyLcd (c : Nat) (s : State) : stamp (emptyLcd c s) = stamp s := by simp [emptyLcd]
@[simp] theorem stamp_ctxSet (g w v : Nat) (s : State) : stamp (ctxSet g w v s) = stamp s := by simp [ctxSet]
@[simp] theorem stamp_traceSample (g w v : Nat) (s : State) : stamp (traceSample g w v s) = stamp s := by simp [traceSample]
@[simp] theorem stamp_ctxApply (g w v : Nat) (s : State) : stamp (ctxApply g w v s) = stamp s := by
  simp only [ctxApply]
  split <;> simp
@[simp] theorem stamp_pubWrite (host : Bool) (e v : Nat) (s : State) : stamp (pubWrite host e v s) = stamp s := by simp [pubWrite]
@[simp] theorem stamp_mwrite (a n v : Nat) (s : State) : stamp (mwrite a n v s) = stamp s := by
  rw [mwrite_eq, stamp_mk]

/-! ### Machine/Cpu.lean -/

@[simp] theorem stamp_setCpu (i : Nat) (h : Cpu) (s : State) : stamp (setCpu i h s) = stamp s := by simp [setCpu]
@[simp] theorem stamp_wakeCpu (i : Nat) (s : State) : stamp (wakeCpu i s) = stamp s := by simp [wakeCpu]
@[simp] theorem stamp_setSlotCap (F : CapFld) (u : Nat) (k : Cap) (s : State) :
    stamp (setSlotCap F u k s) = stamp s := by simp [setSlotCap]
@[simp] theorem stamp_startCoreAt (i pc : Nat) (s : State) : stamp (startCoreAt i pc s) = stamp s := by simp [startCoreAt]
@[simp] theorem stamp_startCore (i : Nat) (s : State) : stamp (startCore i s) = stamp s := by simp [startCore]
@[simp] theorem stamp_stopCore (i : Nat) (s : State) : stamp (stopCore i s) = stamp s := by simp [stopCore]

/-! ### Machine/Memory.lean -/

@[simp] theorem stamp_startRepair (code req : Nat) (s : State) : stamp (startRepair code req s) = stamp s := by simp [startRepair]
@[simp] theorem stamp_rowCandidate (f req : Nat) (s : State) : stamp (rowCandidate f req s) = stamp s := by simp [rowCandidate]
@[simp] theorem stamp_lastError (f : Nat) (ue : Bool) (s : State) : stamp (lastError f ue s) = stamp s := by simp [lastError]
@[simp] theorem stamp_correctedRead (w req : Nat) (s : State) : stamp (correctedRead w req s) = stamp s := by simp [correctedRead]
@[simp] theorem stamp_uncorrectableRead (w req : Nat) (s : State) : stamp (uncorrectableRead w req s) = stamp s := by
  simp [uncorrectableRead]
@[simp] theorem stamp_checkWords (ws : List Nat) (req : Nat) (s : State) : stamp (checkWords ws req s).2 = stamp s := by
  simp only [checkWords]
  split <;> simp
@[simp] theorem stamp_mergeWords (ws : List Nat) (req : Nat) (s : State) : stamp (mergeWords ws req s).2 = stamp s := by
  have h := stamp_checkWords ws req s
  unfold mergeWords
  split
  · rfl
  · split <;> simp_all
@[simp] theorem stamp_ctxMerge (g : Nat) (xs : List Nat) (f : State → State) (s : State) (hf : ∀ t, stamp (f t) = stamp t) :
    stamp (ctxMerge g xs f s) = stamp s := by
  have h := stamp_mergeWords ((xs.map (ctxPlace g)).eraseDups) 0x87 s
  unfold ctxMerge
  split <;> simp_all
@[simp] theorem stamp_setCtxStat (g b : Nat) (s : State) : stamp (setCtxStat g b s) = stamp s := by simp [setCtxStat]
@[simp] theorem stamp_readMem (f n req : Nat) (s : State) : stamp (readMem f n req s).2 = stamp s := by
  have h := stamp_checkWords ((wordsOf f n).filter (fun w => !liveIn f n w s)) req s
  unfold readMem
  split <;> simp_all
@[simp] theorem stamp_makeValid (f : Nat) (s : State) : stamp (makeValid f s) = stamp s := by
  simp only [makeValid]
  split <;> simp
@[simp] theorem stamp_putMem (f n v : Nat) (s : State) : stamp (putMem f n v s) = stamp s := by simp [putMem]
@[simp] theorem stamp_writeMem (f n v req : Nat) (s : State) : stamp (writeMem f n v req s).2 = stamp s := by
  have h := stamp_checkWords (partWords f n) req s
  unfold writeMem
  split <;> simp_all
@[simp] theorem stamp_cacheStore (f n v req : Nat) (s : State) : stamp (cacheStore f n v req s) = stamp s := by simp [cacheStore]

/-! ### Machine/Legs.lean -/

@[simp] theorem stamp_setLeg (l : Nat) (h : LegH) (s : State) : stamp (setLeg l h s) = stamp s := by simp [setLeg]
@[simp] theorem stamp_setPend (l : Nat) (p : GatePad) (t : Option Nat) (s : State) : stamp (setPend l p t s) = stamp s := by
  simp only [setPend]
  split <;> simp
@[simp] theorem stamp_padOffIn (l : Nat) (p : GatePad) (n : Nat) (s : State) :
    stamp (padOffIn l p n s) = stamp s := by simp [padOffIn]
@[simp] theorem stamp_padOnIn (l : Nat) (p : GatePad) (n fine : Nat) (s : State) : stamp (padOnIn l p n fine s) = stamp s := by
  simp [padOnIn]
@[simp] theorem stamp_parkPads (l : Nat) (s : State) : stamp (parkPads l s) = stamp s := by simp [parkPads]
@[simp] theorem stamp_tripPads (l : Nat) (s : State) : stamp (tripPads l s) = stamp s := by simp [tripPads]
@[simp] theorem stamp_recordTrip (l src : Nat) (s : State) : stamp (recordTrip l src s) = stamp s := by simp [recordTrip]
@[simp] theorem stamp_tripLegBy (l src : Nat) (s : State) : stamp (tripLegBy l src s) = stamp s := by simp [tripLegBy]
@[simp] theorem stamp_legShadowReg (l r v : Nat) (s : State) : stamp (legShadowReg l r v s) = stamp s := by
  simp only [legShadowReg]
  split <;> simp
@[simp] theorem stamp_legQuad (l period cmpa cmpb fine : Nat) (s : State) :
    stamp (legQuad l period cmpa cmpb fine s) = stamp s := by
  simp [legQuad]
@[simp] theorem stamp_forceTrip (l : Nat) (s : State) : stamp (forceTrip l s) = stamp s := by simp [forceTrip]
@[simp] theorem stamp_clearTripped (l : Nat) (s : State) : stamp (clearTripped l s) = stamp s := by simp [clearTripped]
@[simp] theorem stamp_setStartQ (n : Nat) (q : StartQ) (s : State) : stamp (setStartQ n q s) = stamp s := by simp [setStartQ]
@[simp] theorem stamp_enqueueConv (c k : Nat) (s : State) : stamp (enqueueConv c k s) = stamp s := by simp [enqueueConv]
@[simp] theorem stamp_stopConv (c k : Nat) (s : State) : stamp (stopConv c k s) = stamp s := by simp [stopConv]
@[simp] theorem stamp_startConv (c k : Nat) (s : State) : stamp (startConv c k s) = stamp s := by simp [startConv]

/-! ### Machine/Loop.lean -/

@[simp] theorem stamp_setEng (c : Nat) (h : EngH) (s : State) : stamp (setEng c h s) = stamp s := by simp [setEng]
@[simp] theorem stamp_dropHolds (hs : List (Nat × Nat)) (s : State) : stamp (dropHolds hs s) = stamp s := by simp [dropHolds]
@[simp] theorem stamp_endRun (c k : Nat) (cut : Bool) (s : State) : stamp (endRun c k cut s) = stamp s := by
  simp only [endRun]
  split <;> simp
@[simp] theorem stamp_setSpare (n : Nat) (h : SpareH) (s : State) : stamp (setSpare n h s) = stamp s := by simp [setSpare]
@[simp] theorem stamp_tracedWrite (g x v : Nat) (s : State) : stamp (tracedWrite g x v s) = stamp s := by simp [tracedWrite]
@[simp] theorem stamp_advanceTo (c pc n : Nat) (ended : Bool) (s : State) : stamp (advanceTo c pc n ended s) = stamp s := by
  simp only [advanceTo]
  split <;> simp
@[simp] theorem stamp_stepEnd (c n : Nat) (e : Bool) (s : State) : stamp (stepEnd c n e s) = stamp s := by
  simp only [stepEnd]
  split <;> simp
@[simp] theorem stamp_idleCore (c : Nat) (s : State) : stamp (idleCore c s) = stamp s := by simp [idleCore]
@[simp] theorem stamp_coreReturn (c n : Nat) (s : State) : stamp (coreReturn c n s) = stamp s := by
  simp only [coreReturn]; (repeat' split) <;> simp_all
@[simp] theorem stamp_coreModeOn (c : Nat) (s : State) : stamp (coreModeOn c s) = stamp s := by simp [coreModeOn]
@[simp] theorem stamp_coreModeWrite (c v : Nat) (s : State) : stamp (coreModeWrite c v s) = stamp s := by simp [coreModeWrite]

/-! ### Machine/Pixels.lean -/

@[simp] theorem stamp_beEnd (code : Nat) (s : State) : stamp (beEnd code s) = stamp s := by simp [beEnd]
@[simp] theorem stamp_beStart (s : State) : stamp (beStart s) = stamp s := by simp [beStart]

/-! ### Machine/Audio.lean -/

@[simp] theorem stamp_setVoice (v : Nat) (h : VoiceH) (s : State) : stamp (setVoice v h s) = stamp s := by simp [setVoice]
@[simp] theorem stamp_execInCtrlCommit (i : Fin 96) (s : State) : stampNext (execInCtrlCommit i s) = some (stamp s) := by
  simp [execInCtrlCommit]
@[simp] theorem stamp_execInCtrlClear (i : Fin 96) (s : State) : stampNext (execInCtrlClear i s) = some (stamp s) := by
  simp [execInCtrlClear]

/-! ### Machine/Store.lean -/

@[simp] theorem stamp_programWord (e : Nat × Nat) (s : State) : stamp (programWord e s) = stamp s := by simp [programWord]
@[simp] theorem stamp_setStoreQueue (q : List (Nat × Nat)) (s : State) :
    stamp (setStoreQueue q s) = stamp s := by simp [setStoreQueue]
@[simp] theorem stamp_storeNext (s : State) : stamp (storeNext s) = stamp s := by simp [storeNext]
@[simp] theorem stamp_admitWaiting (es : List (Nat × Nat × Nat × Nat)) (s : State) : stamp (admitWaiting es s) = stamp s := by
  induction es generalizing s with
  | nil => simp [admitWaiting]
  | cons e es ih => simp [admitWaiting, ih]
@[simp] theorem stamp_programNext (s : State) : stamp (programNext s) = stamp s := by
  simp only [programNext]
  split <;> simp
@[simp] theorem stamp_programSlot (k : Nat) (s : State) : stamp (programSlot k s) = stamp s := by simp [programSlot]
@[simp] theorem stamp_checkStore (ws : List Nat) (s : State) : stamp (checkStore ws s).2 = stamp s := by
  simp only [checkStore]
  split <;> simp
@[simp] theorem stamp_readStore (f n : Nat) (s : State) : stamp (readStore f n s).2 = stamp s := by
  have h := stamp_checkStore (wordsOf f n) s
  unfold readStore
  split <;> simp_all
@[simp] theorem stamp_queueWord (w f n v : Nat) (s : State) : stamp (queueWord w f n v s) = stamp s := by simp [queueWord]
@[simp] theorem stamp_writeStore (f n v : Nat) (s : State) : stamp (writeStore f n v s).2 = stamp s := by
  have h := stamp_checkStore (partWords f n) s
  unfold writeStore
  split
  · rfl
  · split <;> simp_all
@[simp] theorem stamp_cfsLockWrite (v : Nat) (s : State) : stamp (cfsLockWrite v s) = stamp s := by simp [cfsLockWrite]

/-! ### Machine/Events.lean -/

@[simp] theorem stamp_evLine (q : Nat) (s : State) : stamp (evLine q s) = stamp s := by simp [evLine]
@[simp] theorem stamp_execEvcAck (n : Fin 1024) (s : State) : stampNext (execEvcAck n s) = some (stamp s) := by simp [execEvcAck]
@[simp] theorem stamp_execEvcCfgWrite (n : Fin 1024) (v : Word) (s : State) :
    stampNext (execEvcCfgWrite n v s) = some (stamp s) := by
  simp [execEvcCfgWrite]
@[simp] theorem stamp_queueRefuse (s : State) : stamp (queueRefuse s) = stamp s := by simp [queueRefuse]
@[simp] theorem stamp_dropRecords (q : Nat) (s : State) : stamp (dropRecords q s) = stamp s := by simp [dropRecords]
@[simp] theorem stamp_execEvqSizeWrite (q : Fin 8) (v : Word) (s : State) :
    stampNext (execEvqSizeWrite q v s) = some (stamp s) := by
  simp [execEvqSizeWrite]
@[simp] theorem stamp_execEvqHeadWrite (q : Fin 8) (v : Word) (s : State) :
    stampNext (execEvqHeadWrite q v s) = some (stamp s) := by
  simp [execEvqHeadWrite]
@[simp] theorem stamp_evqBaseWrite (q v : Nat) (s : State) : stamp (evqBaseWrite q v s) = stamp s := by simp [evqBaseWrite]
@[simp] theorem stamp_evqCfgWrite (q v : Nat) (s : State) : stamp (evqCfgWrite q v s) = stamp s := by simp [evqCfgWrite]
@[simp] theorem stamp_lcdRemove (c : Nat) (s : State) : stamp (lcdRemove c s) = stamp s := by simp [lcdRemove]
@[simp] theorem stamp_lcdRead (c req : Nat) (s : State) : stamp (lcdRead c req s) = stamp s := by simp [lcdRead]

/-! ### Machine/Flatten.lean -/

@[simp] theorem stamp_flEnd (code : Nat) (s : State) : stamp (flEnd code s) = stamp s := by simp [flEnd]
@[simp] theorem stamp_flGo (s : State) : stamp (flGo s) = stamp s := by simp [flGo]

/-! ### Machine/Iface.lean -/

@[simp] theorem stamp_setQueueH (q : Nat) (h : QueueH) (s : State) : stamp (setQueueH q h s) = stamp s := by simp [setQueueH]
@[simp] theorem stamp_blockRefuses (q : Nat) (s : State) : stamp (blockRefuses q s) = stamp s := by simp [blockRefuses]
@[simp] theorem stamp_prodWrite (q v : Nat) (s : State) : stamp (prodWrite q v s) = stamp s := by simp [prodWrite]
@[simp] theorem stamp_qSizeWrite (q v : Nat) (s : State) : stamp (qSizeWrite q v s) = stamp s := by simp [qSizeWrite]
@[simp] theorem stamp_qBaseWrite (q v : Nat) (s : State) : stamp (qBaseWrite q v s) = stamp s := by simp [qBaseWrite]
@[simp] theorem stamp_gclCommit (k : Nat) (s : State) : stamp (gclCommit k s) = stamp s := by simp [gclCommit]
@[simp] theorem stamp_cbsWrite (k q v : Nat) (s : State) : stamp (cbsWrite k q v s) = stamp s := by simp [cbsWrite]
@[simp] theorem stamp_mdioGo (c45 : Bool) (op phy reg data : Nat) (s : State) :
    stamp (mdioGo c45 op phy reg data s) = stamp s := by
  simp [mdioGo]
@[simp] theorem stamp_setPcie (h : PcieH) (s : State) : stamp (setPcie h s) = stamp s := by simp [setPcie]
@[simp] theorem stamp_outFails (bit : Nat) (s : State) : stamp (outFails bit s) = stamp s := by simp [outFails]
@[simp] theorem stamp_sendOut (write : Bool) (a n v : Nat) (s : State) :
    stamp (sendOut write a n v s) = stamp s := by simp [sendOut]
@[simp] theorem stamp_pcieRead (a n : Nat) (s : State) : stamp (pcieRead a n s).2 = stamp s := by
  simp only [pcieRead]; (repeat' split) <;> simp_all
@[simp] theorem stamp_pcieWrite (a n v : Nat) (s : State) : stamp (pcieWrite a n v s) = stamp s := by simp [pcieWrite]
@[simp] theorem stamp_msiSend (v : Nat) (s : State) : stamp (msiSend v s) = stamp s := by simp [msiSend]
@[simp] theorem stamp_setCan (k : Nat) (h : CanH) (s : State) : stamp (setCan k h s) = stamp s := by simp [setCan]
@[simp] theorem stamp_canRecover (k : Nat) (s : State) : stamp (canRecover k s) = stamp s := by simp [canRecover]
@[simp] theorem stamp_setUart (tx rx : List Nat) (s : State) : stamp (setUart tx rx s) = stamp s := by simp [setUart]
@[simp] theorem stamp_uartWrite (c : Nat) (s : State) : stamp (uartWrite c s) = stamp s := by simp [uartWrite]
@[simp] theorem stamp_uartRead (s : State) : stamp (uartRead s) = stamp s := by
  simp only [uartRead]
  split <;> simp
@[simp] theorem stamp_i2cEnds (result done : Nat) (s : State) : stamp (i2cEnds result done s) = stamp s := by simp [i2cEnds]
@[simp] theorem stamp_i2cCommand (v : Nat) (s : State) : stamp (i2cCommand v s) = stamp s := by simp [i2cCommand]
@[simp] theorem stamp_setSpi (h : SpiH) (s : State) : stamp (setSpi h s) = stamp s := by simp [setSpi]
@[simp] theorem stamp_spiEnds (s : State) : stamp (spiEnds s) = stamp s := by simp [spiEnds]
@[simp] theorem stamp_spiXfer (v : Nat) (input : List Nat) (s : State) : stamp (spiXfer v input s) = stamp s := by simp [spiXfer]
@[simp] theorem stamp_spiWrite (w : Nat) (s : State) : stamp (spiWrite w s) = stamp s := by simp [spiWrite]
@[simp] theorem stamp_spiRead (s : State) : stamp (spiRead s) = stamp s := by
  simp only [spiRead]
  split <;> simp

/-! ### Machine/Nand.lean -/

@[simp] theorem stamp_setNand (h : NandH) (s : State) : stamp (setNand h s) = stamp s := by simp [setNand]
@[simp] theorem stamp_nandEnable (on : Bool) (s : State) : stamp (nandEnable on s) = stamp s := by simp [nandEnable]
@[simp] theorem stamp_nandPush (s : State) : stamp (nandPush s) = stamp s := by simp [nandPush]
@[simp] theorem stamp_nandDone1 (s : State) : stamp (nandDone1 s) = stamp s := by
  simp only [nandDone1]
  split <;> simp

/-! ### Machine/Sensing.lean -/

@[simp] theorem stamp_tryField (F : Fld) (u v : Nat) (bad : Bool) (refuse : State → State) (s : State)
    (hrefuse : ∀ t, stamp (refuse t) = stamp t) :
    stamp (tryField F u v bad refuse s) = stamp s := by
  simp only [tryField]; (repeat' split) <;> simp_all
@[simp] theorem stamp_setSdf (ch : Nat) (h : SdfH) (s : State) : stamp (setSdf ch h s) = stamp s := by simp [setSdf]
@[simp] theorem stamp_setClk (c : Nat) (h : ClkH) (s : State) : stamp (setClk c h s) = stamp s := by simp [setClk]
@[simp] theorem stamp_updFilling (ch : Nat) (s : State) : stamp (updFilling ch s) = stamp s := by simp [updFilling]
@[simp] theorem stamp_reconfigure (ch : Nat) (s : State) : stamp (reconfigure ch s) = stamp s := by simp [reconfigure]
@[simp] theorem stamp_writeSdfCfg (ch v : Nat) (s : State) : stamp (writeSdfCfg ch v s) = stamp s := by simp [writeSdfCfg]
@[simp] theorem stamp_writeClkSrc (c v : Nat) (s : State) : stamp (writeClkSrc c v s) = stamp s := by simp [writeClkSrc]
@[simp] theorem stamp_writeCmpThr (j v : Nat) (s : State) : stamp (writeCmpThr j v s) = stamp s := by simp [writeCmpThr]
@[simp] theorem stamp_writeCmpCfg (j v : Nat) (s : State) : stamp (writeCmpCfg j v s) = stamp s := by simp [writeCmpCfg]
@[simp] theorem stamp_setQep (u : Nat) (h : QepH) (s : State) : stamp (setQep u h s) = stamp s := by simp [setQep]

/-! ### Machine/Pads.lean -/

@[simp] theorem stamp_padRefuse (gate : Bool) (n : Nat) (s : State) : stamp (padRefuse gate n s) = stamp s := by simp [padRefuse]
@[simp] theorem stamp_padWaits (n : Nat) (s : State) : stamp (padWaits n s) = stamp s := by simp [padWaits]
@[simp] theorem stamp_putPadWord (p v : Nat) (s : State) : stamp (putPadWord p v s) = stamp s := by simp [putPadWord]
@[simp] theorem stamp_execPadCfgWrite (p : Fin 256) (v : Word) (s : State) :
    stampNext (execPadCfgWrite p v s) = some (stamp s) := by
  simp [execPadCfgWrite]
@[simp] theorem stamp_padOutSet (k v : Nat) (s : State) : stamp (padOutSet k v s) = stamp s := by simp [padOutSet]
@[simp] theorem stamp_execPadLegWrite (l : Fin 144) (v : Word) (s : State) :
    stampNext (execPadLegWrite l v s) = some (stamp s) := by
  simp [execPadLegWrite]

/-! ### Machine/Display.lean -/

@[simp] theorem stamp_dpEvent (s : State) : stamp (dpEvent s) = stamp s := by simp [dpEvent]
@[simp] theorem stamp_dpChange (f : State → State) (s : State) (hf : ∀ t, stamp (f t) = stamp t) :
    stamp (dpChange f s) = stamp s := by
  simp [dpChange, hf]
@[simp] theorem stamp_dpTrain (s : State) : stamp (dpTrain s) = stamp s := by simp [dpTrain]
@[simp] theorem stamp_auxGo (s : State) : stamp (auxGo s) = stamp s := by simp [auxGo]

/-! ### Machine/Engine.lean -/

@[simp] theorem stamp_setQueue (c : Nat) (q : List (Nat × Nat)) (s : State) :
    stamp (setQueue c q s) = stamp s := by simp [setQueue]
@[simp] theorem stamp_enqueue (c ctx : Nat) (s : State) : stamp (enqueue c ctx s) = stamp s := by simp [enqueue]
@[simp] theorem stamp_execLpeKick (c : Fin 24) (ctx : Fin 128) (s : State) :
    stampNext (execLpeKick c ctx s) = some (stamp s) := by
  simp [execLpeKick]
@[simp] theorem stamp_applyHeld (w : Nat × Nat × Nat) (s : State) : stamp (applyHeld w s) = stamp s := by simp [applyHeld]
@[simp] theorem stamp_releaseHeld (c : Nat) (s : State) : stamp (releaseHeld c s) = stamp s := by simp [releaseHeld]
@[simp] theorem stamp_stopEngine (c : Nat) (s : State) : stamp (stopEngine c s) = stamp s := by simp [stopEngine]
@[simp] theorem stamp_startMirror (n : Fin 4) (s : State) : stamp (startMirror n s) = stamp s := by simp [startMirror]
@[simp] theorem stamp_execRspCfgWrite (n : Fin 4) (v : Word) (s : State) :
    stampNext (execRspCfgWrite n v s) = some (stamp s) := by
  simp [execRspCfgWrite]
@[simp] theorem stamp_execReturn (n : Fin 4) (s : State) : stampNext (execReturn n s) = some (stamp s) := by simp [execReturn]

/-! ### Machine/Link.lean -/

@[simp] theorem stamp_setPort (p : Nat) (h : PortH) (s : State) : stamp (setPort p h s) = stamp s := by simp [setPort]
@[simp] theorem stamp_portTo (p n : Nat) (s : State) : stamp (portTo p n s) = stamp s := by simp [portTo]
@[simp] theorem stamp_portRefresh (p : Nat) (s : State) : stamp (portRefresh p s) = stamp s := by simp [portRefresh]

/-! ### Machine/MemCtl.lean -/

@[simp] theorem stamp_discardGo (m : Nat) (s : State) : stamp (discardGo m s) = stamp s := by simp [discardGo]
@[simp] theorem stamp_setDma (ch : Nat) (h : DmaH) (s : State) : stamp (setDma ch h s) = stamp s := by simp [setDma]
@[simp] theorem stamp_channelStart (ch : Nat) (s : State) : stamp (channelStart ch s) = stamp s := by simp [channelStart]
@[simp] theorem stamp_channelStop (ch : Nat) (s : State) : stamp (channelStop ch s) = stamp s := by simp [channelStop]

/-! ### Machine/Faults.lean -/

@[simp] theorem stamp_setTrail (i w v : Nat) (s : State) : stamp (setTrail i w v s) = stamp s := by simp [setTrail]
@[simp] theorem stamp_closeEntry (i : Nat) (s : State) : stamp (closeEntry i s) = stamp s := by
  unfold closeEntry
  by_cases h : entryOpen i s
  · rw [if_pos h, stamp_mk, stamp_setTrail]
  · rw [if_neg h]
@[simp] theorem stamp_ackAll (s : State) : stamp (ackAll s) = stamp s := by simp [ackAll]
@[simp] theorem stamp_unfreeze (s : State) : stamp (unfreeze s) = stamp s := by simp [unfreeze]
@[simp] theorem stamp_errRelease (s : State) : stamp (errRelease s) = stamp s := by simp [errRelease]
@[simp] theorem stamp_errForce (on : Bool) (s : State) : stamp (errForce on s) = stamp s := by simp [errForce]
@[simp] theorem stamp_fltCtrlWrite (v : Nat) (s : State) : stamp (fltCtrlWrite v s) = stamp s := by simp [fltCtrlWrite]
@[simp] theorem stamp_fltAckWrite (v : Nat) (s : State) : stamp (fltAckWrite v s) = stamp s := by simp [fltAckWrite]
@[simp] theorem stamp_rctWrite (src v : Nat) (s : State) : stamp (rctWrite src v s) = stamp s := by simp [rctWrite]
@[simp] theorem stamp_fltCfgWrite (v : Nat) (s : State) : stamp (fltCfgWrite v s) = stamp s := by simp [fltCfgWrite]

/-! ### Machine/Fabric.lean -/

@[simp] theorem stamp_execRouteWrite (k : Fin 1728) (v : BitVec 128) (s : State) :
    stampNext (execRouteWrite k v s) = some (stamp s) := by
  simp [execRouteWrite]
@[simp] theorem stamp_execFabPulseWrite (k : Fin 2) (v : Word) (s : State) :
    stampNext (execFabPulseWrite k v s) = some (stamp s) := by
  simp [execFabPulseWrite]
@[simp] theorem stamp_timerShadow (t r v : Nat) (s : State) : stamp (timerShadow t r v s) = stamp s := by simp [timerShadow]
@[simp] theorem stamp_stopRegion (n : Nat) (s : State) : stamp (stopRegion n s) = stamp s := by simp [stopRegion]
@[simp] theorem stamp_startRegion (n : Nat) (s : State) : stamp (startRegion n s) = stamp s := by simp [startRegion]

/-! ### Machine/Image.lean -/

@[simp] theorem stamp_startLoad (k : Nat) (s : State) : stamp (startLoad k s) = stamp s := by simp [startLoad]
@[simp] theorem stamp_startDefault (why sec : Nat) (s : State) :
    stamp (startDefault why sec s) = stamp s := by simp [startDefault]
@[simp] theorem stamp_execFabLoad (k : Fin 4) (s : State) : stampNext (execFabLoad k s) = some (stamp s) := by simp [execFabLoad]
@[simp] theorem stamp_execFabDefault (s : State) : stampNext (execFabDefault s) = some (stamp s) := by simp [execFabDefault]

/-! ### Machine/Power.lean -/

@[simp] theorem stamp_requestFails (why : Nat) (s : State) : stamp (requestFails why s) = stamp s := by simp [requestFails]
@[simp] theorem stamp_stopHosts (ds : List Nat) (s : State) : stamp (stopHosts ds s) = stamp s := by simp [stopHosts]
@[simp] theorem stamp_enter (c : Nat) (ds : List Nat) (s : State) : stamp (enter c ds s) = stamp s := by simp [enter]
@[simp] theorem stamp_recordWake (src idx : Nat) (s : State) : stamp (recordWake src idx s) = stamp s := by simp [recordWake]
@[simp] theorem stamp_beginWake (src idx : Nat) (ds : List Nat) (s : State) : stamp (beginWake src idx ds s) = stamp s := by
  simp [beginWake]
@[simp] theorem stamp_joinWake (src idx : Nat) (ds : List Nat) (s : State) :
    stamp (joinWake src idx ds s) = stamp s := by simp [joinWake]
@[simp] theorem stamp_wakeDomains (src idx : Nat) (ds : List Nat) (s : State) : stamp (wakeDomains src idx ds s) = stamp s := by
  simp [wakeDomains]
@[simp] theorem stamp_acceptWake (src idx : Nat) (s : State) : stamp (acceptWake src idx s) = stamp s := by simp [acceptWake]
@[simp] theorem stamp_powerRequest (c : Nat) (s : State) : stamp (powerRequest c s) = stamp s := by simp [powerRequest]
@[simp] theorem stamp_runoffWrite (v : Nat) (s : State) : stamp (runoffWrite v s) = stamp s := by simp [runoffWrite]

/-! ### Machine/Reset.lean -/

@[simp] theorem stamp_coreStart (i : Nat) (s : State) : stamp (coreStart i s) = stamp s := by simp [coreStart]
@[simp] theorem stamp_bistStart (kind t : Nat) (s : State) : stamp (bistStart kind t s) = stamp s := by simp [bistStart]
@[simp] theorem stamp_bistCommand (kind t : Nat) (s : State) : stamp (bistCommand kind t s) = stamp s := by simp [bistCommand]

/-! ### Machine/Timebase.lean -/

@[simp] theorem stamp_geomCommit (s : State) : stamp (geomCommit s) = stamp s := by
  simp only [geomCommit]
  split <;> simp
@[simp] theorem stamp_modeWrite (m p : Nat) (s : State) : stamp (modeWrite m p s) = stamp s := by simp [modeWrite]
@[simp] theorem stamp_stepArm (s : State) : stamp (stepArm s) = stamp s := by simp [stepArm]
@[simp] theorem stamp_readNow (s : State) : stamp (readNow s) = stamp s := by simp [readNow]

/-! ### Machine/Access.lean -/

@[simp] theorem stamp_answered (f : State → State) (s : State) (hf : ∀ t, stamp (f t) = stamp t) :
    stamp (answered f s).2 = stamp s := by
  simp [answered, hf]
@[simp] theorem stamp_readRow (r : RegRow) (u req : Nat) (s : State) : stamp (readRow r u req s).2 = stamp s := by
  have hooks : ∀ e ∈ readHooks req, ∀ u s, stamp (e.2 u s) = stamp s := by simp [readHooks]
  unfold readRow
  split
  · next e he => exact stamp_answered _ _ fun t => hooks e (List.mem_of_find?_eq_some he) u t
  · exact stamp_forAll _ _ _ fun f t => by split <;> simp
@[simp] theorem stamp_readWord (a req : Nat) (s : State) : stamp (readWord a req s).2 = stamp s := by
  unfold readWord
  (repeat' split) <;> simp
@[simp] theorem stamp_refuseAt (a u : Nat) (s : State) : stamp (refuseAt a u s) = stamp s := by simp [refuseAt]
@[simp] theorem stamp_writeField (f : FieldRow) (a u v : Nat) (s : State) : stamp (writeField f a u v s) = stamp s := by
  simp only [writeField]
  split <;> simp
@[simp] theorem stamp_writeRow (r : RegRow) (a u v : Nat) (s : State) : stamp (writeRow r a u v s) = stamp s := by simp [writeRow]

/-! ### Machine/Writes.lean -/

@[simp] theorem stamp_onBit (v b : Nat) (f : State → State) (s : State) (hf : ∀ t, stamp (f t) = stamp t) :
    stamp (onBit v b f s) = stamp s := by
  simp only [onBit]; (repeat' split) <;> simp_all
@[simp] theorem stamp_w1c (F : Fld) (u v : Nat) (s : State) : stamp (w1c F u v s) = stamp s := by simp [w1c]
@[simp] theorem stamp_plainWrite (a v : Nat) (s : State) : stamp (plainWrite a v s) = stamp s := by
  simp only [plainWrite]
  split <;> simp
@[simp] theorem stamp_legStatWrite (u v : Nat) (s : State) : stamp (legStatWrite u v s) = stamp s := by simp [legStatWrite]
@[simp] theorem stamp_convWrite (c v : Nat) (s : State) : stamp (convWrite c v s) = stamp s := by simp [convWrite]
@[simp] theorem stamp_legCtrlWrite (l v : Nat) (s : State) : stamp (legCtrlWrite l v s) = stamp s := by simp [legCtrlWrite]
@[simp] theorem stamp_qepCfgWrite (u v : Nat) (s : State) : stamp (qepCfgWrite u v s) = stamp s := by
  simp only [qepCfgWrite]
  split <;> simp
@[simp] theorem stamp_fabCtrlWrite (v : Nat) (s : State) : stamp (fabCtrlWrite v s) = stamp s := by simp [fabCtrlWrite]
@[simp] theorem stamp_rgnCtrlWrite (n v : Nat) (s : State) : stamp (rgnCtrlWrite n v s) = stamp s := by simp [rgnCtrlWrite]
@[simp] theorem stamp_tmrCtrlWrite (t v : Nat) (s : State) : stamp (tmrCtrlWrite t v s) = stamp s := by simp [tmrCtrlWrite]
@[simp] theorem stamp_linkWrite (a v : Nat) (s : State) : stamp (linkWrite a v s) = stamp s := by simp [linkWrite]
@[simp] theorem stamp_excCtrlWrite (i v : Nat) (s : State) : stamp (excCtrlWrite i v s) = stamp s := by simp [excCtrlWrite]
@[simp] theorem stamp_memDiscWrite (v : Nat) (s : State) : stamp (memDiscWrite v s) = stamp s := by simp [memDiscWrite]
@[simp] theorem stamp_voiceCfgWrite (u v : Nat) (s : State) : stamp (voiceCfgWrite u v s) = stamp s := by simp [voiceCfgWrite]
@[simp] theorem stamp_voiceAddrWrite (u v : Nat) (s : State) : stamp (voiceAddrWrite u v s) = stamp s := by simp [voiceAddrWrite]
@[simp] theorem stamp_nodeWrite (u v : Nat) (s : State) : stamp (nodeWrite u v s) = stamp s := by simp [nodeWrite]
@[simp] theorem stamp_mdioWrite (v : Nat) (s : State) : stamp (mdioWrite v s) = stamp s := by simp [mdioWrite]
@[simp] theorem stamp_canCtrlWrite (k v : Nat) (s : State) : stamp (canCtrlWrite k v s) = stamp s := by simp [canCtrlWrite]
theorem stamp_hooksA : ∀ e ∈ hooksA, ∀ u v s, stamp (e.2 u v s) = stamp s := by
  simp [hooksA]
theorem stamp_hooksB : ∀ e ∈ hooksB, ∀ u v s, stamp (e.2 u v s) = stamp s := by
  simp [hooksB]
theorem stamp_hooksC : ∀ e ∈ hooksC, ∀ u v s, stamp (e.2 u v s) = stamp s := by
  simp [hooksC]
theorem stamp_hooksD : ∀ e ∈ hooksD, ∀ u v s, stamp (e.2 u v s) = stamp s := by
  simp [hooksD]
@[simp] theorem stamp_writeReg (r : RegRow) (a u v : Nat) (s : State) : stamp (writeReg r a u v s) = stamp s := by
  unfold writeReg
  split
  · next e he =>
    have hm := List.mem_of_find?_eq_some he
    simp only [writeHooks, List.mem_append] at hm
    rcases hm with ((hm | hm) | hm) | hm
    · exact stamp_hooksA e hm u v s
    · exact stamp_hooksB e hm u v s
    · exact stamp_hooksC e hm u v s
    · exact stamp_hooksD e hm u v s
  · simp
@[simp] theorem stamp_holdOrApply (c : Nat) (w : Nat × Nat × Nat) (s : State) :
    stamp (holdOrApply c w s) = stamp s := by simp [holdOrApply]
@[simp] theorem stamp_lpeWrite (a v : Nat) (m : LpeArea) (s : State) : stamp (lpeWrite a v m s) = stamp s := by
  simp only [lpeWrite]
  split <;> simp
@[simp] theorem stamp_cleanWords (ws : List Nat) (s : State) : stamp (cleanWords ws s) = stamp s := by simp [cleanWords]
theorem stamp_slotLocked {k : CapRow} {u : Nat} {s : State} {f : State → State} (h : slotLocked k u s = some f) (t : State) :
    stamp (f t) = stamp t := by
  unfold slotLocked at h
  split at h
  · cases h; simp
  · split at h
    · cases h; simp
    · split at h
      · cases h; simp
      · cases h
@[simp] theorem stamp_writeSlot (k : CapRow) (u : Nat) (c : Cap) (s : State) : stamp (writeSlot k u c s) = stamp s := by
  unfold writeSlot
  split
  · next f hf => simp [stamp_slotLocked hf]
  · simp
@[simp] theorem stamp_writeWord (a v : Nat) (s : State) : stamp (writeWord a v s).2 = stamp s := by
  unfold writeWord
  (repeat' split) <;> simp

/-! ### Machine/Bus.lean -/

@[simp] theorem stamp_wordsFrom (a req n : Nat) (s : State) : stamp (wordsFrom a req n s).2 = stamp s := by
  induction n generalizing a s with
  | zero => rfl
  | succ n ih =>
    unfold wordsFrom
    split
    · next t ht => exact stamp_of_snd ht (stamp_readWord _ _ _)
    · next v t ht =>
      have h := stamp_of_snd ht (stamp_readWord _ _ _)
      split
      · next u hu => exact (stamp_of_snd hu (ih _ _)).trans h
      · next w u hu => exact (stamp_of_snd hu (ih _ _)).trans h
@[simp] theorem stamp_readWords (a req n : Nat) (s : State) : stamp (readWords a req n s).2 = stamp s := by
  simp only [readWords]
  split <;> simp
@[simp] theorem stamp_devRead (a n req : Nat) (s : State) : stamp (devRead a n req s).2 = stamp s := by
  have hc : stamp (if (lpeArea a).isSome && blockPresent a s then checkWords (wordsOf a n) req s else (true, s)).2 = stamp s := by
    split <;> simp
  unfold devRead
  split
  · simp
  · split
    · rfl
    · split
      · next t ht => exact stamp_of_snd ht hc
      · next t ht =>
        have h := stamp_of_snd ht hc
        split
        · split
          · next v u hu => exact (stamp_of_snd hu (stamp_readWord _ _ _)).trans h
          · next u hu => exact (stamp_of_snd hu (stamp_readWord _ _ _)).trans h
        · simp [h]
@[simp] theorem stamp_writeWordBy (req a v : Nat) (s : State) : stamp (writeWordBy req a v s).2 = stamp s := by
  simp only [writeWordBy]
  split <;> simp
@[simp] theorem stamp_wordsTo (req a v n : Nat) (s : State) : stamp (wordsTo req a v n s) = stamp s := by
  induction n generalizing a v s with
  | zero => rfl
  | succ n ih => simp [wordsTo, ih]
@[simp] theorem stamp_writeWords (req a v n : Nat) (s : State) : stamp (writeWords req a v n s).2 = stamp s := by
  simp only [writeWords]
  split <;> simp
theorem stamp_devQuad {a : Nat} {k : Cap} {s t : State} (h : devQuad a k s = some t) : stamp t = stamp s := by
  unfold devQuad at h
  dsimp only at h
  split at h
  · cases h; simp
  · split at h
    · cases h; simp
    · split at h
      · cases h; simp
      · split at h
        · cases h; simp
        · cases h
@[simp] theorem stamp_devWrite (a n v req : Nat) (s : State) : stamp (devWrite a n v req s).2 = stamp s := by
  have hc : stamp (if (lpeArea a).isSome then checkWords (partWords a n) req s else (true, s)).2 = stamp s := by split <;> simp
  unfold devWrite
  split
  · simp
  · split
    · rfl
    · split
      · next t ht =>
        split at ht
        · exact stamp_devQuad ht
        · cases ht
      · split
        · rfl
        · split
          · next t ht => exact stamp_of_snd ht hc
          · next t ht =>
            have h := stamp_of_snd ht hc
            dsimp only
            split <;> simp [h]
@[simp] theorem stamp_dramRead (a n req : Nat) (s : State) : stamp (dramRead a n req s).2 = stamp s := by
  unfold dramRead
  split
  · rfl
  · extract_lets m
    split
    · next t ht => exact stamp_of_snd ht (stamp_readMem _ _ _ _)
    · next v t ht =>
      have h := stamp_of_snd ht (stamp_readMem _ _ _ _)
      split
      · exact h
      · split
        · next u hu => exact (stamp_of_snd hu (stamp_readMem _ _ _ _)).trans h
        · next w u hu => exact (stamp_of_snd hu (stamp_readMem _ _ _ _)).trans h
@[simp] theorem stamp_dramWrite (a n v req : Nat) (s : State) : stamp (dramWrite a n v req s).2 = stamp s := by
  unfold dramWrite
  split
  · rfl
  · extract_lets m
    split
    · simp
    · split
      · next t ht => exact stamp_of_snd ht (stamp_writeMem _ _ _ _ _)
      · next t ht => rw [stamp_writeMem, stamp_of_snd ht (stamp_writeMem _ _ _ _ _)]
@[simp] theorem stamp_busRead (a n req : Nat) (s : State) : stamp (busRead a n req s).2 = stamp s := by
  unfold busRead
  (repeat' split) <;> simp
@[simp] theorem stamp_busWrite (a n v req : Nat) (s : State) : stamp (busWrite a n v req s).2 = stamp s := by
  unfold busWrite
  (repeat' split) <;> simp

/-! ### Machine/CoreMem.lean -/

@[simp] theorem stamp_windowWrite (g o n v : Nat) (s : State) : stamp (windowWrite g o n v s) = stamp s := by simp [windowWrite]
@[simp] theorem stamp_regionRead (i a n : Nat) (s : State) : stamp (regionRead i a n s).2 = stamp s := by
  simp only [regionRead]
  split <;> simp
@[simp] theorem stamp_coreRead (i a n : Nat) (s : State) : stamp (coreRead i a n s).2 = stamp s := by
  unfold coreRead
  split
  · split <;> simp
  · split
    case h_4 =>
      split
      · next t ht => exact stamp_of_snd ht (stamp_checkWords _ _ _)
      · next t ht => exact stamp_of_snd ht (stamp_checkWords _ _ _)
    all_goals simp [apply_ite]
@[simp] theorem stamp_cachedWrite (a n v i : Nat) (s : State) : stamp (cachedWrite a n v i s).2 = stamp s := by
  unfold cachedWrite
  (repeat' split) <;> simp
@[simp] theorem stamp_sramStore (i a n v b : Nat) (tag : Bool) (s : State) : stamp (sramStore i a n v b tag s).2 = stamp s := by
  unfold sramStore
  split
  · simp
  · next t ht => exact stamp_of_snd ht (stamp_busWrite _ _ _ _ _)
@[simp] theorem stamp_coreWrite (i a n v b : Nat) (s : State) : stamp (coreWrite i a n v b s).2 = stamp s := by
  unfold coreWrite
  split
  · split <;> simp
  · split
    case h_4 =>
      split
      · next t ht =>
        have h := stamp_of_snd ht (stamp_checkWords _ _ _)
        dsimp only
        split <;> simp [h]
      · next t ht => exact stamp_of_snd ht (stamp_checkWords _ _ _)
    case h_5 =>
      dsimp only
      split
      · split <;> simp
      · simp
    all_goals simp [apply_ite]

end Sys2Proof.Machine

/-! Block instructions: their elements one after another (R206 to R208), and where one that is not over stands at the end of a dot. -/
namespace Sys2Proof.Machine

open Sys2Proof

/-! ### The dot in which an element is processed -/

@[simp] theorem stamp_gSet (i r v : Nat) (s : State) : stamp (gSet i r v s) = stamp s := by
  unfold gSet
  split <;> simp

@[simp] theorem stamp_countDown (i : Nat) (o : BitVec 16) (s : State) : stamp (countDown i o s) = stamp s := stamp_gSet ..

@[simp] theorem stamp_stepReg (i r n : Nat) (o : BitVec 16) (s : State) : stamp (stepReg i r n o s) = stamp s := stamp_gSet ..

@[simp] theorem stamp_elemRead (i k a n : Nat) (s : State) : stamp (elemRead i k a n s).2.2 = stamp s := by
  unfold elemRead
  split
  · rfl
  · split
    · next t ht => exact stamp_of_snd ht (stamp_coreRead ..)
    · next v t ht => exact stamp_of_snd ht (stamp_coreRead ..)

@[simp] theorem stamp_slotWrite (i k a n : Nat) (f : State → Bool × State) (s : State) (h : stamp (f s).2 = stamp s) :
    stamp (slotWrite i k a n f s).2 = stamp s := by
  unfold slotWrite
  split
  · rfl
  · exact h

@[simp] theorem stamp_elemWrite (i k a n v b : Nat) (s : State) : stamp (elemWrite i k a n v b s).2 = stamp s := by
  have hwrite := stamp_slotWrite i k a n (coreWrite i a n v b) s (stamp_coreWrite ..)
  unfold elemWrite
  split
  · rfl
  · split
    · next t ht => exact stamp_of_snd ht hwrite
    · next t ht => exact stamp_of_snd ht hwrite

theorem stamp_element (i : Nat) (r : BlockRun) (s : State) : stamp (element i r s).s = stamp s := by
  have hread : ∀ {k a n : Nat} {e : Option Exc} {v : Nat} {t : State}, elemRead i k a n s = (e, v, t) → stamp t = stamp s := fun h => by
    rw [← stamp_elemRead i _ _ _ s, h]
  have hwrite : ∀ {k a n v b : Nat} {e : Option Exc} {t u : State}, elemWrite i k a n v b t = (e, u) → stamp u = stamp t := fun h =>
    stamp_of_snd h (stamp_elemWrite ..)
  unfold element
  dsimp only
  split
  · split
    · next h => exact hread h
    · next h =>
      split
      · next h' => exact (hwrite h').trans (hread h)
      · next h' => simpa using (hwrite h').trans (hread h)
  · split
    · next h => exact hwrite h
    · next h => simpa using hwrite h
  · split
    · next h => exact hread h
    · next h =>
      split
      · exact hread h
      · simpa using hread h
  · split
    · next h => exact hread h
    · next h => simpa using hread h

/-! ### What ends a block instruction -/

theorem block_blockEnd (i pc n : Nat) (r : BlockRun) (s : State) : (cpu i (blockEnd i pc n r s)).block = none := by
  rw [blockEnd, cpu_setCpu_same]

theorem cpu_congr {i : Nat} {s t : State} (h : t.cpus = s.cpus) : cpu i t = cpu i s := by rw [cpu, cpu, h]

theorem cpu_report (i src i0 i1 : Nat) (s : State) : cpu i (report src i0 i1 s) = cpu i s := cpu_congr (report_cpus ..)

theorem block_refugeEntry (i why det at_ src : Nat) (r : List Cap) (b : Nat) (s : State) :
    (cpu i (refugeEntry i why det at_ src r b s)).block = none := by
  unfold refugeEntry
  extract_lets _ _ _ u _ v
  have hcpu : cpu i (foff EXC_CTRL_IE i (fon EXC_STAT_IN_REFUGE i (fcount EXC_STAT_REFUGES i 1 v))) = cpu i v := cpu_congr (by simp)
  rw [hcpu, cpu_setCpu_same]

theorem lockCore_eq (i : Nat) (e : Exc) (pc : Nat) (s : State) : ∃ u, lockCore i e pc s
    = report (0x180 + i) (e.cause + 2 ^ 8 * e.detail) pc (setCpu i { cpu i u with pc := pc, state := .run, block := none } u) := ⟨_, rfl⟩

theorem block_lockCore (i : Nat) (e : Exc) (pc : Nat) (s : State) : (cpu i (lockCore i e pc s)).block = none := by
  obtain ⟨u, hu⟩ := lockCore_eq i e pc s
  rw [hu, cpu_report, cpu_setCpu_same]

/-- An exception ends a block instruction in progress (R208). -/
theorem block_takeException (i : Nat) (e : Exc) (imprecise : Bool) (pc b : Nat) (s : State) :
    (cpu i (takeException i e imprecise pc b s)).block = none := by
  generalize hL : takeException = L
  delta takeException at hL
  subst hL
  beta_reduce
  by_cases hr : fbit EXC_STAT_IN_REFUGE i s
  · rw [if_pos hr, block_lockCore]
  · rw [if_neg hr]
    extract_lets r k at_
    generalize pushWords i at_ b r s = w
    obtain ⟨ok, t⟩ := w
    cases pushCheck i s with
    | some d => exact block_refugeEntry ..
    | none =>
      cases ok with
      | false => exact block_refugeEntry ..
      | true =>
        dsimp only
        rw [cpu_congr (foff_cpus ..), cpu_setCpu_same]

theorem block_takeWaiting {i pc b : Nat} {s t : State} (h : takeWaiting i pc b s = some t) : (cpu i t).block = none := by
  unfold takeWaiting at h
  split at h
  · rw [← Option.some.inj h, block_takeException]
  · obtain ⟨q, -, rfl⟩ := Option.map_eq_some_iff.mp h
    rw [block_takeException]

theorem block_blockLeaves (i : Nat) (r : BlockRun) (s : State) : (cpu i (blockLeaves i r s)).block = none := by
  unfold blockLeaves
  extract_lets t
  split
  · rw [takeTrap, block_refugeEntry]
  · cases hw : takeWaiting i r.pc r.at_ t with
    | none => rw [Option.getD_none, block_blockEnd]
    | some u => rw [Option.getD_some, block_takeWaiting hw]

/-! ### One element after another -/

/-- The next element of block instruction `r` is processed in the present dot: it is not over, its cycle has come, nothing stops it. -/
def goes (i : Nat) (r : BlockRun) (s : State) : Prop :=
  gGet i (fieldB r.o) s ≠ 0 ∧ (running s && decide (s.time < r.at_ / cyclesPerDot i)) = false ∧ (r.rep && blockStops i s) = false

/-- Block instruction `r` is over in cycle `c`. -/
def blockDone (i : Nat) (r : BlockRun) (c : Nat) (s : State) : State :=
  setCpu i { cpu i s with block := none, pc := r.next, free := max (cpu i s).free c } s

/-- The block instruction once its element has been processed. -/
def afterElement (i : Nat) (r : BlockRun) (e : Elem) : BlockRun := { r with at_ := r.at_ + perElement i r + e.n, seen := none, more := 0 }

section
variable {i m : Nat} {r : BlockRun} {s : State}

theorem blockGo_of_done (hB : gGet i (fieldB r.o) s = 0) : blockGo i (m + 1) r s = (none, blockDone i r (r.at_ + blockBase i) s) := by
  rw [blockGo, if_pos hB]
  rfl

variable (hgo : goes i r s)
include hgo

theorem blockGo_of_fail {x : Exc} (hexc : (element i r s).exc = some x) : blockGo i (m + 1) r s
    = (some (x, r.at_), setCpu i { cpu i (element i r s).s with block := none, pc := r.pc } (element i r s).s) := by
  obtain ⟨hB, hdot, hstop⟩ := hgo
  simp only [blockGo, hB, hdot, hstop, hexc, if_false, Bool.false_eq_true]

theorem blockGo_of_last (hexc : (element i r s).exc = none) (hlast : ((element i r s).found || !r.rep) = true) : blockGo i (m + 1) r s
    = (none, blockDone i r (r.at_ + perElement i r + (element i r s).n + blockBase i) (element i r s).s) := by
  obtain ⟨hB, hdot, hstop⟩ := hgo
  simp only [blockGo, hB, hdot, hstop, hexc, hlast, if_false, if_true, Bool.false_eq_true]
  rfl

theorem blockGo_of_more (hexc : (element i r s).exc = none) (hmore : ((element i r s).found || !r.rep) = false) : blockGo i (m + 1) r s
    = blockGo i m (afterElement i r (element i r s)) (element i r s).s := by
  obtain ⟨hB, hdot, hstop⟩ := hgo
  simp only [blockGo, hB, hdot, hstop, hexc, hmore, if_false, Bool.false_eq_true]
  rfl

/-- An element that is the last for one of the three reasons: it is not repeated, it matches, the count is over. -/
theorem blockGo_of_one (hexc : (element i r s).exc = none)
    (hlast : r.rep = true → (element i r s).found = true ∨ gGet i (fieldB r.o) (element i r s).s = 0) : blockGo i (m + 2) r s
    = (none, blockDone i r (r.at_ + perElement i r + (element i r s).n + blockBase i) (element i r s).s) := by
  cases hover : ((element i r s).found || !r.rep) with
  | true => exact blockGo_of_last hgo hexc hover
  | false =>
    obtain ⟨hfound, hrep⟩ := Bool.or_eq_false_iff.mp hover
    have hzero := (hlast (by simpa using hrep)).resolve_left (by rw [hfound]; decide)
    rw [blockGo_of_more hgo hexc hover]
    exact blockGo_of_done hzero

end

/-! ### The end of a dot (R206) -/

/-- What is left of block instruction `r` in state `t` goes on in a dot after `T`. -/
def resumes (i T : Nat) (r : BlockRun) (t : State) : Prop := ∀ q ∈ (cpu i t).block,
  q.o = r.o ∧ q.k = r.k ∧ q.size = r.size ∧ q.rep = true ∧ q.pc = r.pc ∧ q.next = r.next ∧ T < q.at_ / cyclesPerDot i

theorem resumes_of_none {i T : Nat} {r : BlockRun} {t : State} (h : (cpu i t).block = none) : resumes i T r t := fun q hq => by
  rw [h] at hq
  cases hq

theorem perElement_pos (i : Nat) (r : BlockRun) : 0 < perElement i r := by
  unfold perElement
  split
  · omega
  · split <;> omega

theorem cyclesPerDot_pos (i : Nat) : 0 < cyclesPerDot i := by
  unfold cyclesPerDot
  split <;> decide

/-- As long as the elements may use up the dot, what is left goes on in a later one. -/
theorem resumes_blockGo {i T : Nat} : ∀ (m : Nat) (r : BlockRun) (s : State), stamp s = T → cyclesPerDot i * (T + 1) ≤ r.at_ + m →
    (r.rep = true ∨ (0 < m ∧ ¬ T < r.at_ / cyclesPerDot i)) → resumes i T r (blockGo i m r s).2 := by
  intro m
  induction m with
  | zero =>
    intro r s hs hfuel hrep q hq
    rw [blockGo, cpu_setCpu_same] at hq
    cases hq
    refine ⟨rfl, rfl, rfl, hrep.resolve_right (by omega), rfl, rfl, ?_⟩
    exact (Nat.le_div_iff_mul_le (cyclesPerDot_pos i)).mpr (by rw [Nat.mul_comm]; exact hfuel)
  | succ m ih =>
    intro r s hs hfuel hrep
    unfold blockGo
    split
    · exact resumes_of_none (block_blockEnd ..)
    · split
      · next hdot =>
        obtain ⟨-, hlater⟩ := Bool.and_eq_true_iff.mp hdot
        have hT : T < r.at_ / cyclesPerDot i := by rw [← hs]; exact of_decide_eq_true hlater
        intro q hq
        rw [cpu_setCpu_same] at hq
        cases hq
        exact ⟨rfl, rfl, rfl, hrep.resolve_right (fun h => h.2 hT), rfl, rfl, hT⟩
      · extract_lets seen e fin ends
        split
        · exact resumes_of_none (block_blockLeaves ..)
        · split
          · exact resumes_of_none (by rw [cpu_setCpu_same])
          · split
            · exact resumes_of_none (block_blockEnd ..)
            · next hmore =>
              have hpos := perElement_pos i r
              refine ih _ e.s ((stamp_element i r s).trans hs) ?_ (.inl (by simp_all))
              show cyclesPerDot i * (T + 1) ≤ fin + m
              omega

end Sys2Proof.Machine

/-! Block instructions where they begin: the count of 0, the failing checks, a single element (R206 to R208, R219). -/
namespace Sys2Proof.Machine

open Sys2Proof

/-! ### Registers that step -/

theorem gGet_gSet_same {i n : Nat} (hn : n ≠ 0) (v : Nat) (s : State) : gGet i n (gSet i n v s) = v % 2 ^ 32 := by
  rw [gGet, gSet, if_neg hn, if_neg hn, cpu_setCpu_same, sget_sset_same, Nat.mod_mod]

theorem gGet_gSet_other {i n m : Nat} (h : m ≠ n) (v : Nat) (s : State) : gGet i m (gSet i n v s) = gGet i m s := by
  unfold gSet
  split
  · rfl
  · rw [gGet, gGet, cpu_setCpu_same, sget_sset_other _ _ (Ne.symm h)]

theorem CoreStep.stepG {i : Nat} {f : Cpu → Cpu} {s r t : State} (hs : CoreStep i f s r t) (n x : Nat) :
    CoreStep i (fun k => stepG n x (f k)) s r (Machine.gSet i n (gGet i n t + x) t) := by
  by_cases hn : n = 0
  · simpa only [Machine.gSet, Machine.stepG, withG, if_pos hn] using hs
  · simpa only [Machine.gSet, Machine.gGet, Machine.stepG, withG, if_neg hn] using hs.setCpu (Machine.stepG n x)

/-- What a change of registers leaves of a core: its place and its block instruction. -/
def KeepsPlace (f : Cpu → Cpu) : Prop := ∀ k, (f k).block = k.block ∧ (f k).pc = k.pc

namespace KeepsPlace

variable {f g : Cpu → Cpu}

theorem id : KeepsPlace (fun k => k) := fun _ => ⟨rfl, rfl⟩

theorem comp (hg : KeepsPlace g) (hf : KeepsPlace f) : KeepsPlace (fun k => g (f k)) := fun k =>
  ⟨(hg _).1.trans (hf k).1, (hg _).2.trans (hf k).2⟩

theorem withG (n v : Nat) : KeepsPlace (withG n v) := fun k => by
  unfold Machine.withG
  split <;> exact ⟨rfl, rfl⟩

theorem stepG (n x : Nat) : KeepsPlace (stepG n x) := fun k => KeepsPlace.withG n _ k

end KeepsPlace

/-! ### The instruction -/

/-- The kinds in the order of their opcodes. -/
def kindCode : BlockKind → Nat
  | .bcpy => 0
  | .bfil => 1
  | .tsrch => 2
  | .bcrc => 3

/-- How a block instruction of kind `j` issues. -/
def blockIss (j : Nat) (o : BitVec 16) (y : Byte) (n : Nat) : Iss :=
  { reads := [fieldB o, fieldA o] ++ (if j = 1 ∧ n = 8 then [fieldA o + 1] else []) ++ [fieldD o]
      ++ (if j = 2 ∧ n = 8 then [fieldD o + 1] else []) ++ [32 + y.toNat % 16, 32 + y.toNat / 16]
    writes := [fieldB o, fieldA o, fieldD o], mem := true, alone := true }

/-- The block instruction that begins at `x`. -/
def blockOf (kind : BlockKind) (o : BitVec 16) (y : Byte) (stop : Option Nat) (n : Nat) (x : Ins) : BlockRun :=
  ⟨kind, o, y, n, hasRepeat x.pre, stop, x.pc, x.next, x.b, none, 0⟩

/-- What its elements in the present dot do. -/
def blockDid (kind : BlockKind) (o : BitVec 16) (y : Byte) (stop : Option Nat) (n : Nat) (x : Ins) (t : State) : Did :=
  let e := blockGo x.i (blockFuel x.i (blockOf kind o y stop n x) t) (blockOf kind o y stop n x) t
  { s := e.2, exc := e.1.map Prod.fst, at_ := (e.1.map (fun p => p.2 - x.b)).getD 0, n := 0, hold := 1 }

theorem blockInst_eq (op : Nat) (kind : BlockKind) (h : Hdr) (o : BitVec 16) (y : Byte) (stop : Option Nat) (legal : Bool) (s : State) :
    blockInst op kind h o y stop legal s = runInst ⟨op, o.toNat + 2 ^ 16 * y.toNat, stop⟩ (blockIss (kindCode kind) o y (elemSize h.pre)) h
      (prefixesOk allowBlock h.pre && legal) (blockDid kind o y stop (elemSize h.pre)) s := by
  have hreads : gr (fieldB o) ++ (if kind = .bfil then elemRegs (fieldA o) (elemSize h.pre) else gr (fieldA o))
      ++ (if kind = .tsrch then elemRegs (fieldD o) (elemSize h.pre) else gr (fieldD o)) ++ cr (srcCapOf y) ++ cr (dstCapOf y)
      = (blockIss (kindCode kind) o y (elemSize h.pre)).reads := by
    by_cases h8 : elemSize h.pre = 8 <;> cases kind <;> simp [gr, cr, elemRegs, srcCapOf, dstCapOf, kindCode, blockIss, h8]
  rw [blockInst, hreads]
  rfl

theorem blockDid_of_done {kind : BlockKind} {o : BitVec 16} {y : Byte} {stop : Option Nat} {n : Nat} {x : Ins} {t t' : State}
    (hgo : blockGo x.i (blockFuel x.i (blockOf kind o y stop n x) t) (blockOf kind o y stop n x) t = (none, t')) :
    blockDid kind o y stop n x t = { s := t', n := 0, hold := 1, lat := 1 } := by
  simp only [blockDid, hgo]
  rfl

theorem blockDid_of_fail {kind : BlockKind} {o : BitVec 16} {y : Byte} {stop : Option Nat} {n : Nat} {x : Ins} {t t' : State} {e : Exc}
    (hgo : blockGo x.i (blockFuel x.i (blockOf kind o y stop n x) t) (blockOf kind o y stop n x) t = (some (e, x.b), t')) :
    blockDid kind o y stop n x t = { s := t', exc := some e, at_ := 0, n := 0, hold := 1 } := by
  simp only [blockDid, hgo, Option.map_some, Option.getD_some, Nat.sub_self]

/-- There is time for one element and what follows it. -/
theorem blockFuel_of_left {i : Nat} {r : BlockRun} {s : State} (hleft : gGet i (fieldB r.o) s ≠ 0) : ∃ m, blockFuel i r s = m + 2 := by
  have hpos := cyclesPerDot_pos i
  refine ⟨blockFuel i r s - 2, ?_⟩
  unfold blockFuel
  split <;> omega

theorem blockFuel_pos (i : Nat) (r : BlockRun) (s : State) : ∃ m, blockFuel i r s = m + 1 := by
  unfold blockFuel
  split <;> exact ⟨_, rfl⟩

/-! ### Where it begins -/

section
variable {h : Hdr} {o : BitVec 16} {y : Byte} {stop : Option Nat} {n : Nat} {u : Iss} {s : State} {kind : BlockKind}

theorem block_of_begins (hb : begins h u 4 s) : (cpu (coreNum h.core) s).block = none := by
  obtain ⟨-, hwaits, -⟩ := hb
  unfold instWaits at hwaits
  simp only at hwaits
  split_ifs at hwaits with _ _ hblock
  simp_all

theorem begins_in_dot (hb : begins h u 4 s) :
    (running s && decide (s.time < beginCycle (coreNum h.core) h.wait u s / cyclesPerDot (coreNum h.core))) = false := by
  obtain ⟨-, hwaits, -⟩ := hb
  unfold instWaits at hwaits
  simp only at hwaits
  split_ifs at hwaits with _ hdot
  simpa using hdot

theorem block_afterIssue (hb : begins h u 4 s) : (cpu (coreNum h.core) (afterIssue h u 4 s)).block = none := by
  obtain ⟨b, d, hcpu⟩ := cpu_afterIssue (h := h) (u := u) (size := 4) (s := s)
  rw [hcpu, begun, block_of_begins hb]

theorem faults_afterIssue : (cpu (coreNum h.core) (afterIssue h u 4 s)).faults = (cpu (coreNum h.core) s).faults := by
  obtain ⟨b, d, hcpu⟩ := cpu_afterIssue (h := h) (u := u) (size := 4) (s := s)
  rw [hcpu, begun]

/-- Nothing but the fault events of the core and the registers stops a block instruction. -/
theorem blockStops_congr {i : Nat} {s t : State} (hregs : t.regs = s.regs) (hfaults : (cpu i t).faults = (cpu i s).faults) :
    blockStops i t = blockStops i s := by
  have hget : ∀ (F : Fld) (v : Nat), fget F v t = fget F v s := fun F v => by rw [fget, fget, hregs]
  have hbit : ∀ (F : Fld) (v : Nat), fbit F v t = fbit F v s := fun F v => by rw [fbit, fbit, hget]
  simp only [blockStops, waitingTrap, waitingFault, waitingInterrupt, hget, hbit, hfaults]

theorem blockStops_afterIssue (hb : begins h u 4 s) : blockStops (coreNum h.core) (afterIssue h u 4 s) = false := by
  obtain ⟨-, -, htrap, hfault, hint, -⟩ := hb
  have hstops : blockStops (coreNum h.core) s = false := by rw [blockStops, htrap, hfault, hint]; rfl
  exact (blockStops_congr (s := s) (t := afterIssue h u 4 s) rfl faults_afterIssue).trans hstops

theorem goes_of_begins (hb : begins h u 4 s) (hleft : gGet (coreNum h.core) (fieldB o) s ≠ 0) :
    goes (coreNum h.core) (blockOf kind o y stop n (insAt h u 4 s)) (afterIssue h u 4 s) :=
  ⟨by rwa [gGet_afterIssue], begins_in_dot hb, by rw [blockStops_afterIssue hb, Bool.and_false]⟩

/-- The use of its cycles by a block instruction that is over. -/
theorem executed_of_blockDone {q : BlockRun} {c m hold : Nat} {f : Cpu → Cpu} {r t : State} (hb : begins h u 4 s)
    (hstep : CoreStep (coreNum h.core) f (afterIssue h u 4 s) r t) (hf : IssueBlind f) (hkeep : KeepsPlace f)
    (hnext : q.next = (insAt h u 4 s).next)
    (hcount : c = beginCycle (coreNum h.core) h.wait u s + if isHost (coreNum h.core) then hold else m)
    (hpos : beginCycle (coreNum h.core) h.wait u s < c) :
    executed h u 4 (beginCycle (coreNum h.core) h.wait u s) m hold 1 f r s (spend (coreNum h.core) (beginCycle (coreNum h.core) h.wait u s)
      (if isHost (coreNum h.core) then 1 else 0) 1 u.writes (blockDone (coreNum h.core) q c t)) := by
  obtain ⟨b, d, hcpu⟩ := cpu_afterIssue (h := h) (u := u) (size := 4) (s := s)
  have hblock := (hkeep (cpu (coreNum h.core) (afterIssue h u 4 s))).1.trans (block_afterIssue hb)
  have hpc : (f (cpu (coreNum h.core) (afterIssue h u 4 s))).pc = q.next := by
    rw [(hkeep _).2, hcpu, begun, hnext, insAt]
  have hfree : (f (cpu (coreNum h.core) (afterIssue h u 4 s))).free = (cpu (coreNum h.core) s).free := by rw [hf.free, hcpu, begun]
  refine executed_of_spend hf (hstep.setCpu (fun k => { k with block := none, pc := q.next, free := max k.free c })) ?_ ?_
  · rw [blockDone, cpu_setCpu_same, hstep.core, ← hblock, ← hpc]
  · rw [blockDone, cpu_setCpu_same, hstep.core]
    show max (max (f _).free c) _ = _
    have hleast : (if isHost (coreNum h.core) then 1 else 0) ≤ 1 := by split <;> decide
    rw [hfree, ← hcount, Nat.max_assoc, Nat.max_eq_left (a := c) (by omega)]

end

end Sys2Proof.Machine

/-! Block instructions: what each comes to where it begins (R206 to R208, R219). -/
namespace Sys2Proof.Machine

open Sys2Proof

/-! ### Tables and cores written twice -/

theorem sput_sput {α : Type} (k : Nat) (v w : α) (m : SMap α) : sput k w (sput k v m) = sput k w m := by
  induction m with
  | nil => simp [sput]
  | cons e m ih =>
    obtain ⟨j, x⟩ := e
    simp only [sput]
    split_ifs with hlt heq
    · simp [sput]
    · simp [sput]
    · simp [sput, hlt, heq, ih]

theorem setCpu_setCpu (i : Nat) {v w : Cpu} (hv : v.state = .run) (hw : w.state = .run) (s : State) : setCpu i w (setCpu i v s) = setCpu i w s := by
  have hne : ∀ {k : Cpu}, k.state = .run → k ≠ Cpu.init := fun hk h => by rw [h] at hk; cases hk
  rw [setCpu, setCpu, setCpu]
  simp only [sset, if_neg (hne hv), if_neg (hne hw), sput_sput]

section
variable {h : Hdr} {o : BitVec 16} {y : Byte} {stop : Option Nat} {n : Nat} {u : Iss} {s : State} {kind : BlockKind}

theorem state_of_begins (hb : begins h u 4 s) : (cpu (coreNum h.core) s).state = .run := by
  obtain ⟨hruns, -⟩ := hb
  unfold coreRuns at hruns
  simp_all

/-- A core that has gone on to the next instruction goes back to its own. -/
theorem advance_back (hb : begins h u 4 s) :
    setCpu (coreNum h.core) { cpu (coreNum h.core) (afterIssue h u 4 s) with block := none, pc := (cpu (coreNum h.core) s).pc } (afterIssue h u 4 s)
      = advance (coreNum h.core) (cpu (coreNum h.core) s).pc (beginCycle (coreNum h.core) h.wait u s) u s := by
  have hrun := state_of_begins hb
  have hblock := block_of_begins hb
  rw [afterIssue, advance, advance, cpu_setCpu_same, setCpu_setCpu]
  · congr 1
    unfold macSettle
    simp only [hblock]
  · exact hrun
  · exact hrun

theorem le_foldl_max (f : Nat → Nat) (l : List Nat) (m : Nat) : m ≤ l.foldl (fun m r => max m (f r)) m := by
  induction l generalizing m with
  | nil => exact Nat.le_refl m
  | cons a l ih => exact (Nat.le_max_left ..).trans (ih _)

/-- No instruction begins before the present dot. -/
theorem dot_le_beginCycle (i wait : Nat) (u : Iss) (s : State) : cyclesPerDot i * s.time ≤ beginCycle i wait u s := by
  have hfold := le_foldl_max (fun r => sget 0 (cpu i s).ready r) u.reads (max (max (cyclesPerDot i * s.time) (cpu i s).free) ((cpu i s).began + wait))
  unfold beginCycle
  extract_lets k now e
  have he : now ≤ e := (Nat.le_max_left ..).trans hfold
  have hnow : cyclesPerDot i * s.time ≤ now := Nat.le_max_left ..
  split
  · split
    · split <;> omega
    · omega
  · exact hnow

/-- What the core makes of an instruction leaves the block instruction in progress, or ends it. -/
theorem resumes_concluded {x : Ins} {T : Nat} {r : BlockRun} {d : Did} (hr : resumes x.i T r d.s) : resumes x.i T r (concluded x u d) := by
  unfold concluded
  split
  · exact resumes_of_none (block_takeException ..)
  · intro q hq
    rw [spend, cpu_setCpu_same] at hq
    exact hr q hq

section
variable {e : Instr} {op : Nat} {legal : Bool} (hexec : exec e s = blockInst op kind h o y stop legal s)
  (hlen : codeLen ⟨op, o.toNat + 2 ^ 16 * y.toNat, stop⟩ = 4) (hn : n = elemSize h.pre) (hu : u = blockIss (kindCode kind) o y n)
include hexec hlen hn hu

theorem illegal_block (hlegal : (prefixesOk allowBlock h.pre && legal) = false) : illegal e h u 4 s := by
  subst hn hu
  exact illegal_of_row (hexec.trans (blockInst_eq ..)) hlen hlegal

variable (hlegal : (prefixesOk allowBlock h.pre && legal) = true)
include hlegal

theorem carriesOut_block {t : State} {P : Nat → State → Prop} (hgo : begins h u 4 s → blockGo (coreNum h.core)
      (blockFuel (coreNum h.core) (blockOf kind o y stop n (insAt h u 4 s)) (afterIssue h u 4 s))
      (blockOf kind o y stop n (insAt h u 4 s)) (afterIssue h u 4 s) = (none, t))
    (hP : begins h u 4 s → P (beginCycle (coreNum h.core) h.wait u s) (spend (coreNum h.core) (beginCycle (coreNum h.core) h.wait u s)
      (if isHost (coreNum h.core) then 1 else 0) 1 u.writes t)) : carriesOut e h u 4 s P := fun hb => by
  subst hn hu
  exact carriesOut_of_done (hexec.trans (blockInst_eq ..)) hlen hlegal (blockDid_of_done (hgo hb)) (hP hb) hb

/-- A count of 0 (R206). -/
theorem acts_block_of_zero (hleft : gGet (coreNum h.core) (fieldB o) s = 0) :
    acts e h u 4 (blockBase (coreNum h.core)) (blockBase (coreNum h.core)) 1 s (fun _ k => k) := by
  obtain ⟨m, hm⟩ := blockFuel_pos (coreNum h.core) (blockOf kind o y stop n (insAt h u 4 s)) (afterIssue h u 4 s)
  refine carriesOut_block hexec hlen hn hu hlegal (fun _ => by rw [hm]; exact blockGo_of_done (by rwa [gGet_afterIssue])) (fun hb => ?_)
  refine executed_of_blockDone hb ((CoreStep.refl _ _).rest rfl rfl) IssueBlind.id KeepsPlace.id rfl ?_ ?_
  · split <;> rfl
  · unfold blockBase
    split
    · exact Nat.lt_add_of_pos_right (by decide)
    · exact Nat.lt_add_of_pos_right (by decide)

/-- An element that fails (R208). -/
theorem carriesOut_block_of_fail (hleft : gGet (coreNum h.core) (fieldB o) s ≠ 0) {x : Exc}
    (hexc : (element (coreNum h.core) (blockOf kind o y stop n (insAt h u 4 s)) (afterIssue h u 4 s)).exc = some x)
    (hstate : (element (coreNum h.core) (blockOf kind o y stop n (insAt h u 4 s)) (afterIssue h u 4 s)).s = afterIssue h u 4 s) :
    carriesOut e h u 4 s (fun b t => t = takeException (coreNum h.core) x false (cpu (coreNum h.core) s).pc b
      (advance (coreNum h.core) (cpu (coreNum h.core) s).pc b u s)) := fun hb => by
  obtain ⟨m, hm⟩ := blockFuel_pos (coreNum h.core) (blockOf kind o y stop n (insAt h u 4 s)) (afterIssue h u 4 s)
  have hgo := blockGo_of_fail (m := m) (goes_of_begins (kind := kind) (y := y) (stop := stop) (n := n) hb hleft) hexc
  rw [← hm, hstate] at hgo
  subst hn
  refine ⟨_, ?_, rfl⟩
  rw [hexec, blockInst_eq, ← hu, runInst_of_begins hb hlen, hlegal, if_pos rfl, blockDid_of_fail hgo, ← advance_back hb]
  rfl

/-- What is not over while the sweep runs (R206). -/
theorem carriesOut_block_of_running (hrun : running s = true) :
    carriesOut e h u 4 s (fun _ t => ∀ r ∈ (cpu (coreNum h.core) t).block, r.o = o ∧ r.k = y ∧ r.size = n ∧ r.rep = true
      ∧ r.pc = (cpu (coreNum h.core) s).pc ∧ r.next = ((cpu (coreNum h.core) s).pc + h.pre.length + 4) % 2 ^ 32
      ∧ s.time < r.at_ / cyclesPerDot (coreNum h.core)) := fun hb => by
  have hfuel : blockFuel (coreNum h.core) (blockOf kind o y stop n (insAt h u 4 s)) (afterIssue h u 4 s) = cyclesPerDot (coreNum h.core) + 1 :=
    if_pos hrun
  have hdot := dot_le_beginCycle (coreNum h.core) h.wait u s
  have hindot := begins_in_dot hb
  rw [hrun, Bool.true_and, decide_eq_false_iff_not] at hindot
  have hresumes := resumes_blockGo (i := coreNum h.core) (T := s.time) (cyclesPerDot (coreNum h.core) + 1)
    (blockOf kind o y stop n (insAt h u 4 s)) (afterIssue h u 4 s) rfl (by
      show _ ≤ beginCycle (coreNum h.core) h.wait u s + _
      rw [Nat.mul_add]
      omega) (.inr ⟨Nat.succ_pos _, hindot⟩)
  rw [← hfuel] at hresumes
  subst hn
  refine ⟨_, by rw [hexec, blockInst_eq, ← hu, runInst_of_begins hb hlen, hlegal, if_pos rfl], ?_⟩
  exact resumes_concluded (x := insAt h u 4 s) (d := blockDid kind o y stop (elemSize h.pre) (insAt h u 4 s) (afterIssue h u 4 s)) hresumes

end

end

end Sys2Proof.Machine

/-! A block instruction's element in plain memory: what it moves, the registers that step, its cycles (R206, R207, R219, R226). -/
namespace Sys2Proof.Machine

open Sys2Proof

/-! ### The accesses of an element -/

section
variable {i q a n : Nat} {s : State}

theorem elemRead_of_fail {d : Nat} (hcap : capCheck (cGet i q s) [permLD] a n false = some d) : elemRead i q a n s = (some ⟨2, d, a, q⟩, 0, s) := by
  simp only [elemRead, hcap]
  rfl

theorem elemWrite_of_fail {d : Nat} (hcap : capCheck (cGet i q s) [permST] a n true = some d) (v b : Nat) :
    elemWrite i q a n v b s = (some ⟨2, d, a, q⟩, s) := by
  simp only [elemWrite, hcap]
  rfl

variable (hs : memorySound s) (hn : 0 < n) {k : Nat} (hk : k ∈ plainKey i a n s)

include hs hn hk in
theorem elemRead_of_plain (hcap : capCheck (cGet i q s) [permLD] a n false = none) : elemRead i q a n s = (none, mread k n s, s) := by
  simp only [elemRead, hcap, coreRead_of_plain hs hn hk]

include hs hn hk in
theorem elemWrite_of_plain (hcap : capCheck (cGet i q s) [permST] a n true = none) (v b : Nat) :
    elemWrite i q a n v b s = (none, putMem k n v s) := by
  simp only [elemWrite, hcap, slotWrite_of_allowed (slotDenied_of_plain hn hk), coreWrite_of_plain hs hn hk]

include hk in
theorem sramCount_of_plain : sramCount i a n s = 0 := by
  unfold sramCount
  split
  · next hplace =>
    cases hhost : isHost i with
    | true => rfl
    | false =>
      rw [plainKey, hhost, if_neg (by decide), hplace] at hk
      cases hk
  · rfl

end

/-! ### The elements -/

/-- A block instruction of the given kind, operand word, capability byte and element size. -/
def isBlock (kind : BlockKind) (o : BitVec 16) (y : Byte) (n : Nat) (r : BlockRun) : Prop := r.kind = kind ∧ r.o = o ∧ r.k = y ∧ r.size = n

theorem isBlock_blockOf (kind : BlockKind) (o : BitVec 16) (y : Byte) (stop : Option Nat) (n : Nat) (x : Ins) :
    isBlock kind o y n (blockOf kind o y stop n x) := ⟨rfl, rfl, rfl, rfl⟩

section
variable {i n : Nat} {kind : BlockKind} {o : BitVec 16} {y : Byte} {r : BlockRun} {s : State}

theorem element_of_readFail (hr : isBlock kind o y n r) (hkind : kind ≠ .bfil) {d : Nat}
    (hcap : capCheck (cGet i (srcCapOf y) s) [permLD] (gGet i (fieldA o) s) n false = some d) :
    (element i r s).exc = some ⟨2, d, gGet i (fieldA o) s, srcCapOf y⟩ ∧ (element i r s).s = s := by
  obtain ⟨hr, rfl, rfl, rfl⟩ := hr
  have hread := elemRead_of_fail hcap
  unfold element
  rw [hr]
  cases kind with
  | bfil => exact absurd rfl hkind
  | _ => simp only [hread, and_self]

theorem element_of_writeFail (hr : isBlock .bfil o y n r) {d : Nat}
    (hcap : capCheck (cGet i (dstCapOf y) s) [permST] (gGet i (fieldD o) s) n true = some d) :
    (element i r s).exc = some ⟨2, d, gGet i (fieldD o) s, dstCapOf y⟩ ∧ (element i r s).s = s := by
  obtain ⟨hr, rfl, rfl, rfl⟩ := hr
  simp only [element, hr, elemWrite_of_fail hcap, and_self]

variable (hs : memorySound s) (hn : 0 < n) {ka kd : Nat}
include hs hn

theorem element_bcpy (hr : isBlock .bcpy o y n r) (ha : ka ∈ plainKey i (gGet i (fieldA o) s) n s)
    (hd : kd ∈ plainKey i (gGet i (fieldD o) s) n s)
    (hread : capCheck (cGet i (srcCapOf y) s) [permLD] (gGet i (fieldA o) s) n false = none)
    (hwrite : capCheck (cGet i (dstCapOf y) s) [permST] (gGet i (fieldD o) s) n true = none) :
    element i r s = ⟨none, false, 0, countDown i o (stepReg i (fieldA o) n o (stepReg i (fieldD o) n o
      (putMem kd n (mread ka n s) s)))⟩ := by
  obtain ⟨hr, rfl, rfl, rfl⟩ := hr
  simp only [element, hr, elemRead_of_plain hs hn ha hread, elemWrite_of_plain hs hn hd hwrite, sramCount_of_plain ha, sramCount_of_plain hd]

theorem element_bfil (hr : isBlock .bfil o y n r) (hd : kd ∈ plainKey i (gGet i (fieldD o) s) n s)
    (hwrite : capCheck (cGet i (dstCapOf y) s) [permST] (gGet i (fieldD o) s) n true = none) :
    element i r s = ⟨none, false, 0, countDown i o (stepReg i (fieldD o) n o (putMem kd n (gElem i (fieldA o) n s) s))⟩ := by
  obtain ⟨hr, rfl, rfl, rfl⟩ := hr
  simp only [element, hr, elemWrite_of_plain hs hn hd hwrite, sramCount_of_plain hd]

theorem element_tsrch (hr : isBlock .tsrch o y n r) (ha : ka ∈ plainKey i (gGet i (fieldA o) s) n s)
    (hread : capCheck (cGet i (srcCapOf y) s) [permLD] (gGet i (fieldA o) s) n false = none) :
    element i r s = if mread ka n s = gElem i (fieldD o) n s then ⟨none, true, 0, s⟩
      else ⟨none, false, 0, countDown i o (stepReg i (fieldA o) n o s)⟩ := by
  obtain ⟨hr, rfl, rfl, rfl⟩ := hr
  simp only [element, hr, elemRead_of_plain hs hn ha hread, sramCount_of_plain ha]

theorem element_bcrc (hr : isBlock .bcrc o y n r) (ha : ka ∈ plainKey i (gGet i (fieldA o) s) n s)
    (hread : capCheck (cGet i (srcCapOf y) s) [permLD] (gGet i (fieldA o) s) n false = none) :
    element i r s = ⟨none, false, 0, countDown i o (stepReg i (fieldA o) n o
      (gSet i (fieldD o) (crcBytes (mread ka n s) n (gGet i (fieldD o) s)) s))⟩ := by
  obtain ⟨hr, rfl, rfl, rfl⟩ := hr
  simp only [element, hr, elemRead_of_plain hs hn ha hread, sramCount_of_plain ha]

end

/-! ### The count that is left -/

theorem index_of_left {i n : Nat} {s : State} (hleft : gGet i n s ≠ 0) : n ≠ 0 := fun hn => hleft (by rw [gGet, if_pos hn])

theorem gGet_countDown {i : Nat} {o : BitVec 16} (hB : fieldB o ≠ 0) (s : State) :
    gGet i (fieldB o) (countDown i o s) = (gGet i (fieldB o) s + (2 ^ 32 - 1)) % 2 ^ 32 := gGet_gSet_same hB _ _

theorem gGet_countDown_of_one {i : Nat} {o : BitVec 16} {s : State} (hone : gGet i (fieldB o) s = 1) : gGet i (fieldB o) (countDown i o s) = 0 := by
  rw [gGet_countDown (index_of_left (by rw [hone]; decide)), hone]
  decide

theorem gGet_putMem {s : State} (hs : memorySound s) (i r k n v : Nat) : gGet i r (putMem k n v s) = gGet i r s :=
  gGet_congr (by rw [putMem_frame hs]; rfl) r

/-! ### One element -/

section
variable {h : Hdr} {o : BitVec 16} {y : Byte} {stop : Option Nat} {n : Nat} {u : Iss} {s : State} {kind : BlockKind}
  {e : Instr} {op : Nat} {legal : Bool} (hexec : exec e s = blockInst op kind h o y stop legal s)
  (hlen : codeLen ⟨op, o.toNat + 2 ^ 16 * y.toNat, stop⟩ = 4) (hn : n = elemSize h.pre) (hu : u = blockIss (kindCode kind) o y n)
  (hlegal : (prefixesOk allowBlock h.pre && legal) = true)
include hexec hlen hn hu hlegal

theorem carriesOut_block_of_one (hleft : gGet (coreNum h.core) (fieldB o) s ≠ 0) {found : Bool} {t : State} {f : Cpu → Cpu} {q : State}
    (helem : element (coreNum h.core) (blockOf kind o y stop n (insAt h u 4 s)) (afterIssue h u 4 s) = ⟨none, found, 0, t⟩)
    (hlast : hasRepeat h.pre = true → found = true ∨ gGet (coreNum h.core) (fieldB o) t = 0)
    (hstep : CoreStep (coreNum h.core) f (afterIssue h u 4 s) q t) (hf : IssueBlind f) (hkeep : KeepsPlace f) {m hold : Nat}
    (hcount : perElement (coreNum h.core) (blockOf kind o y stop n (insAt h u 4 s)) + blockBase (coreNum h.core)
      = if isHost (coreNum h.core) then hold else m) {P : Nat → State → Prop}
    (hP : ∀ b t', t' = { t with cpus := t'.cpus } → executed h u 4 b m hold 1 f q s t' → P b t') : carriesOut e h u 4 s P := by
  obtain ⟨k, hk⟩ := blockFuel_of_left (r := blockOf kind o y stop n (insAt h u 4 s)) (i := coreNum h.core) (s := afterIssue h u 4 s)
    (by rwa [gGet_afterIssue])
  have hpos := perElement_pos (coreNum h.core) (blockOf kind o y stop n (insAt h u 4 s))
  refine carriesOut_block hexec hlen hn hu hlegal (t := blockDone (coreNum h.core) (blockOf kind o y stop n (insAt h u 4 s))
    (beginCycle (coreNum h.core) h.wait u s + if isHost (coreNum h.core) then hold else m) t) (fun hb => ?_) (fun hb => ?_)
  · have hone := blockGo_of_one (m := k) (goes_of_begins (kind := kind) (y := y) (stop := stop) (n := n) hb hleft) (by rw [helem])
      (fun hrep => by rw [helem]; exact hlast hrep)
    rw [hk, hone, helem, ← hcount]
    simp only [Nat.add_zero, Nat.add_assoc]
    rfl
  · exact hP _ _ rfl (executed_of_blockDone hb hstep hf hkeep rfl rfl (by omega))

end

end Sys2Proof.Machine

/-! Block instructions: one element of each over plain memory (R206, R207, R219, R226). -/
namespace Sys2Proof.Machine

open Sys2Proof

/-- By what an address register steps. -/
def stepOf (o : BitVec 16) (n : Nat) : Nat := if optionX o then 2 ^ 32 - n else n

theorem CoreStep.stepReg {i : Nat} {f : Cpu → Cpu} {s r t : State} (hs : CoreStep i f s r t) (d n : Nat) (o : BitVec 16) :
    CoreStep i (fun k => Machine.stepG d (stepOf o n) (f k)) s r (Machine.stepReg i d n o t) := hs.stepG d _

theorem CoreStep.countDown {i : Nat} {f : Cpu → Cpu} {s r t : State} (hs : CoreStep i f s r t) (o : BitVec 16) :
    CoreStep i (fun k => Machine.stepG (fieldB o) (2 ^ 32 - 1) (f k)) s r (Machine.countDown i o t) := hs.stepG _ _

theorem memoryOf_countDown (i : Nat) (o : BitVec 16) (t s : State) : memoryOf (countDown i o t) s = memoryOf t s := memoryOf_gSet ..

theorem memoryOf_stepReg (i r n : Nat) (o : BitVec 16) (t s : State) : memoryOf (stepReg i r n o t) s = memoryOf t s := memoryOf_gSet ..

theorem gGet_stepReg_other {i r m : Nat} (h : m ≠ r) (n : Nat) (o : BitVec 16) (t : State) : gGet i m (stepReg i r n o t) = gGet i m t :=
  gGet_gSet_other h _ _

theorem memoryOf_of_cpus {s t t' : State} (ht : t' = { t with cpus := t'.cpus }) : memoryOf t' s = memoryOf t s := by
  rw [ht]
  rfl

theorem stored_of_memory {k n v : Nat} {s t t' : State} (hv : stored k n v s t) (h : memoryOf t' s = memoryOf t s) : stored k n v s t' :=
  stored_congr hv ⟨rfl, rfl⟩ ⟨(congrArg State.mem h :), (congrArg State.tags h :)⟩

/-- The cycles of one element of a block instruction of kind `k`, with its base count, on a loop core beside general SRAM (R219). -/
def oneCount (i : Nat) (kind : BlockKind) (n : Nat) : Nat :=
  blockBase i + (match kind with
    | .bcpy => 2
    | .bfil => 1
    | .tsrch => 2
    | .bcrc => 1) + if n = 8 then 1 else 0

theorem perElement_add_base {i n : Nat} {kind : BlockKind} {o : BitVec 16} {y : Byte} {r : BlockRun} (hr : isBlock kind o y n r) :
    perElement i r + blockBase i = if isHost i then blockBase i + 1 + (if n = 8 then 1 else 0) else oneCount i kind n := by
  obtain ⟨rfl, rfl, rfl, rfl⟩ := hr
  unfold perElement oneCount
  cases isHost i with
  | true => simp only [if_true]; omega
  | false =>
    simp only [Bool.false_eq_true, if_false]
    cases r.kind <;> simp only <;> omega

section
variable {h : Hdr} {o : BitVec 16} {y : Byte} {stop : Option Nat} {n : Nat} {u : Iss} {s : State}
  {e : Instr} {op : Nat} {legal : Bool} (hlen : codeLen ⟨op, o.toNat + 2 ^ 16 * y.toNat, stop⟩ = 4) (hn : n = elemSize h.pre)
  (hlegal : (prefixesOk allowBlock h.pre && legal) = true) (hs : memorySound s)
  (hleft : gGet (coreNum h.core) (fieldB o) s ≠ 0)
include hlen hn hlegal hs hleft

/-- One element that writes memory. -/
theorem carriesOut_block_stored {kind : BlockKind} (hexec : exec e s = blockInst op kind h o y stop legal s) (hu : u = blockIss (kindCode kind) o y n)
    {t : State} {f : Cpu → Cpu} {kd v : Nat}
    (helem : element (coreNum h.core) (blockOf kind o y stop n (insAt h u 4 s)) (afterIssue h u 4 s) = ⟨none, false, 0, t⟩)
    (hlast : hasRepeat h.pre = true → gGet (coreNum h.core) (fieldB o) t = 0)
    (hstep : CoreStep (coreNum h.core) f (afterIssue h u 4 s) (memoryOf (putMem kd n v (afterIssue h u 4 s)) s) t)
    (hmemory : memoryOf t s = memoryOf (putMem kd n v (afterIssue h u 4 s)) s) (hf : IssueBlind f) (hkeep : KeepsPlace f) :
    carriesOut e h u 4 s (fun b t => stored kd n v s t ∧ executed h u 4 b (oneCount (coreNum h.core) kind n)
      (blockBase (coreNum h.core) + 1 + if n = 8 then 1 else 0) 1 f (memoryOf t s) s t) := by
  have hpos : 0 < n := hn ▸ elemSize_pos _
  have hsound := memorySound_afterIssue (h := h) (u := u) (size := 4) hs
  refine carriesOut_block_of_one hexec hlen hn hu hlegal hleft helem (fun hrep => .inr (hlast hrep)) hstep hf hkeep
    (perElement_add_base (isBlock_blockOf ..)) (fun b t' ht' hexecuted => ?_)
  have hsame := (memoryOf_of_cpus (s := s) ht').trans hmemory
  refine ⟨stored_of_memory (stored_congr (stored_putMem hsound kd n v hpos) ⟨rfl, rfl⟩ ⟨rfl, rfl⟩) hsame, ?_⟩
  rw [hsame]
  exact hexecuted

omit hs in
/-- One element that changes registers alone. -/
theorem acts_block_of_one {kind : BlockKind} (hexec : exec e s = blockInst op kind h o y stop legal s) (hu : u = blockIss (kindCode kind) o y n)
    {found : Bool} {t : State} {f : Cpu → Cpu}
    (helem : element (coreNum h.core) (blockOf kind o y stop n (insAt h u 4 s)) (afterIssue h u 4 s) = ⟨none, found, 0, t⟩)
    (hlast : hasRepeat h.pre = true → found = true ∨ gGet (coreNum h.core) (fieldB o) t = 0)
    (hstep : CoreStep (coreNum h.core) f (afterIssue h u 4 s) (afterIssue h u 4 s) t) (hf : IssueBlind f) (hkeep : KeepsPlace f) :
    acts e h u 4 (oneCount (coreNum h.core) kind n) (blockBase (coreNum h.core) + 1 + if n = 8 then 1 else 0) 1 s (fun _ => f) :=
  carriesOut_block_of_one hexec hlen hn hu hlegal hleft helem hlast (hstep.rest rfl hstep.frame) hf hkeep
    (perElement_add_base (isBlock_blockOf ..)) (fun _ _ _ hexecuted => hexecuted)

variable (hlast : hasRepeat h.pre = true → gGet (coreNum h.core) (fieldB o) s = 1 ∧ fieldB o ≠ fieldA o ∧ fieldB o ≠ fieldD o)
include hlast

theorem carriesOut_bcpy (hexec : exec e s = blockInst op .bcpy h o y stop legal s) (hu : u = blockIss 0 o y n) {ka kd : Nat}
    (ha : ka ∈ plainKey (coreNum h.core) (gGet (coreNum h.core) (fieldA o) s) n s)
    (hd : kd ∈ plainKey (coreNum h.core) (gGet (coreNum h.core) (fieldD o) s) n s)
    (hread : capCheck (cGet (coreNum h.core) (srcCapOf y) s) [permLD] (gGet (coreNum h.core) (fieldA o) s) n false = none)
    (hwrite : capCheck (cGet (coreNum h.core) (dstCapOf y) s) [permST] (gGet (coreNum h.core) (fieldD o) s) n true = none) :
    carriesOut e h u 4 s (fun b t => stored kd n (mread ka n s) s t ∧ executed h u 4 b (oneCount (coreNum h.core) .bcpy n)
      (blockBase (coreNum h.core) + 1 + if n = 8 then 1 else 0) 1
      (fun k => stepG (fieldB o) (2 ^ 32 - 1) (stepG (fieldA o) (stepOf o n) (stepG (fieldD o) (stepOf o n) k))) (memoryOf t s) s t) := by
  have hpos : 0 < n := hn ▸ elemSize_pos _
  have hsound := memorySound_afterIssue (h := h) (u := u) (size := 4) hs
  have helem := element_bcpy (i := coreNum h.core) hsound hpos (isBlock_blockOf .bcpy o y stop n (insAt h u 4 s))
    (by rwa [gGet_afterIssue]) (by rwa [gGet_afterIssue]) (by rwa [gGet_afterIssue, cGet_afterIssue])
    (by rwa [gGet_afterIssue, cGet_afterIssue])
  rw [mread_afterIssue] at helem
  refine carriesOut_block_stored hlen hn hlegal hs hleft hexec hu helem (fun hrep => ?_)
    ((((coreStep_of_memory (putMem_frame hsound ..)).stepReg (fieldD o) n o).stepReg (fieldA o) n o).countDown o)
    (by rw [memoryOf_countDown, memoryOf_stepReg, memoryOf_stepReg])
    ((IssueBlind.stepG _ _).comp ((IssueBlind.stepG _ _).comp (IssueBlind.stepG _ _)))
    ((KeepsPlace.stepG _ _).comp ((KeepsPlace.stepG _ _).comp (KeepsPlace.stepG _ _)))
  obtain ⟨hone, hA, hD⟩ := hlast hrep
  refine gGet_countDown_of_one ?_
  rw [gGet_stepReg_other hA, gGet_stepReg_other hD, gGet_putMem hsound, gGet_afterIssue, hone]

theorem carriesOut_bfil (hexec : exec e s = blockInst op .bfil h o y stop legal s) (hu : u = blockIss 1 o y n) {kd : Nat}
    (hd : kd ∈ plainKey (coreNum h.core) (gGet (coreNum h.core) (fieldD o) s) n s)
    (hwrite : capCheck (cGet (coreNum h.core) (dstCapOf y) s) [permST] (gGet (coreNum h.core) (fieldD o) s) n true = none) :
    carriesOut e h u 4 s (fun b t => stored kd n (gElem (coreNum h.core) (fieldA o) n s) s t
      ∧ executed h u 4 b (oneCount (coreNum h.core) .bfil n) (blockBase (coreNum h.core) + 1 + if n = 8 then 1 else 0) 1
        (fun k => stepG (fieldB o) (2 ^ 32 - 1) (stepG (fieldD o) (stepOf o n) k)) (memoryOf t s) s t) := by
  have hpos : 0 < n := hn ▸ elemSize_pos _
  have hsound := memorySound_afterIssue (h := h) (u := u) (size := 4) hs
  have helem := element_bfil (i := coreNum h.core) hsound hpos (isBlock_blockOf .bfil o y stop n (insAt h u 4 s))
    (by rwa [gGet_afterIssue]) (by rwa [gGet_afterIssue, cGet_afterIssue])
  have hvalue : gElem (coreNum h.core) (fieldA o) n (afterIssue h u 4 s) = gElem (coreNum h.core) (fieldA o) n s := by
    rw [gElem, gElem, gGet_afterIssue, gGet_afterIssue]
  rw [hvalue] at helem
  refine carriesOut_block_stored hlen hn hlegal hs hleft hexec hu helem (fun hrep => ?_)
    (((coreStep_of_memory (putMem_frame hsound ..)).stepReg (fieldD o) n o).countDown o)
    (by rw [memoryOf_countDown, memoryOf_stepReg])
    ((IssueBlind.stepG _ _).comp (IssueBlind.stepG _ _)) ((KeepsPlace.stepG _ _).comp (KeepsPlace.stepG _ _))
  obtain ⟨hone, -, hD⟩ := hlast hrep
  refine gGet_countDown_of_one ?_
  rw [gGet_stepReg_other hD, gGet_putMem hsound, gGet_afterIssue, hone]

theorem acts_tsrch (hexec : exec e s = blockInst op .tsrch h o y stop legal s) (hu : u = blockIss 2 o y n) {ka : Nat}
    (ha : ka ∈ plainKey (coreNum h.core) (gGet (coreNum h.core) (fieldA o) s) n s)
    (hread : capCheck (cGet (coreNum h.core) (srcCapOf y) s) [permLD] (gGet (coreNum h.core) (fieldA o) s) n false = none) :
    acts e h u 4 (oneCount (coreNum h.core) .tsrch n) (blockBase (coreNum h.core) + 1 + if n = 8 then 1 else 0) 1 s (fun _ k =>
      if mread ka n s = gElem (coreNum h.core) (fieldD o) n s then k else stepG (fieldB o) (2 ^ 32 - 1) (stepG (fieldA o) (stepOf o n) k)) := by
  have hpos : 0 < n := hn ▸ elemSize_pos _
  have hsound := memorySound_afterIssue (h := h) (u := u) (size := 4) hs
  have helem := element_tsrch (i := coreNum h.core) hsound hpos (isBlock_blockOf .tsrch o y stop n (insAt h u 4 s))
    (by rwa [gGet_afterIssue]) (by rwa [gGet_afterIssue, cGet_afterIssue])
  have hkey : gElem (coreNum h.core) (fieldD o) n (afterIssue h u 4 s) = gElem (coreNum h.core) (fieldD o) n s := by
    rw [gElem, gElem, gGet_afterIssue, gGet_afterIssue]
  rw [mread_afterIssue, hkey] at helem
  by_cases hmatch : mread ka n s = gElem (coreNum h.core) (fieldD o) n s
  · simp only [hmatch, if_true] at helem ⊢
    exact acts_block_of_one hlen hn hlegal hleft hexec hu helem (fun _ => .inl rfl) (CoreStep.refl _ _) IssueBlind.id KeepsPlace.id
  · simp only [hmatch, if_false] at helem ⊢
    refine acts_block_of_one hlen hn hlegal hleft hexec hu helem (fun hrep => .inr ?_)
      (((CoreStep.refl _ _).stepReg (fieldA o) n o).countDown o) ((IssueBlind.stepG _ _).comp (IssueBlind.stepG _ _))
      ((KeepsPlace.stepG _ _).comp (KeepsPlace.stepG _ _))
    obtain ⟨hone, hA, -⟩ := hlast hrep
    refine gGet_countDown_of_one ?_
    rw [gGet_stepReg_other hA, gGet_afterIssue, hone]

theorem acts_bcrc (hexec : exec e s = blockInst op .bcrc h o y stop legal s) (hu : u = blockIss 3 o y n) {ka : Nat}
    (ha : ka ∈ plainKey (coreNum h.core) (gGet (coreNum h.core) (fieldA o) s) n s)
    (hread : capCheck (cGet (coreNum h.core) (srcCapOf y) s) [permLD] (gGet (coreNum h.core) (fieldA o) s) n false = none) :
    acts e h u 4 (oneCount (coreNum h.core) .bcrc n) (blockBase (coreNum h.core) + 1 + if n = 8 then 1 else 0) 1 s (fun _ k =>
      stepG (fieldB o) (2 ^ 32 - 1) (stepG (fieldA o) (stepOf o n)
        (withG (fieldD o) (crcBytes (mread ka n s) n (gGet (coreNum h.core) (fieldD o) s)) k))) := by
  have hpos : 0 < n := hn ▸ elemSize_pos _
  have hsound := memorySound_afterIssue (h := h) (u := u) (size := 4) hs
  have helem := element_bcrc (i := coreNum h.core) hsound hpos (isBlock_blockOf .bcrc o y stop n (insAt h u 4 s))
    (by rwa [gGet_afterIssue]) (by rwa [gGet_afterIssue, cGet_afterIssue])
  rw [mread_afterIssue, gGet_afterIssue] at helem
  refine acts_block_of_one hlen hn hlegal hleft hexec hu helem (fun hrep => .inr ?_)
    ((((CoreStep.refl _ _).gSet (fieldD o) _).stepReg (fieldA o) n o).countDown o)
    ((IssueBlind.stepG _ _).comp ((IssueBlind.stepG _ _).comp (IssueBlind.withG _ _)))
    ((KeepsPlace.stepG _ _).comp ((KeepsPlace.stepG _ _).comp (KeepsPlace.withG _ _)))
  obtain ⟨hone, hA, hD⟩ := hlast hrep
  refine gGet_countDown_of_one ?_
  rw [gGet_stepReg_other hA, gGet_gSet_other hD, gGet_afterIssue, hone]

end

end Sys2Proof.Machine

/-! A whole fill with the sweep at a stand (R17, R206). -/
namespace Sys2Proof.Machine

open Sys2Proof

/-! ### A part of a plain range -/

theorem regionOf_sram {a : Nat} (hlow : 0x20000000 ≤ a) (hhigh : a < 0x20800000) : regionOf a = .sram := by
  unfold regionOf
  simp only [within_iff]
  rw [if_neg (by omega), if_neg (by omega), if_pos (by omega)]

theorem flat_add {a n : Nat} {s : State} (hlow : 2 ^ 31 ≤ a) (hwindow : a % 2 ^ 28 + n < 2 ^ 28) : flat (a + n) s = flat a s + n := by
  have hdiv : (a + n) / 2 ^ 28 = a / 2 ^ 28 := by omega
  have hmod : (a + n) % 2 ^ 28 = a % 2 ^ 28 + n := by omega
  rw [flat, flat, if_neg (by omega), if_neg (by omega), hdiv, hmod]
  omega

/-- Where a loop core's plain memories lie in its data space (R216). -/
inductive LoopRange (i a n : Nat) (s : State) : Nat → Prop where
  | code (h : a + n ≤ 0x20000) : LoopRange i a n s (codeBase i + a)
  | data (first : 0x100000 ≤ a) (last : a + n ≤ 0x110000) (refuge : fbit EXC_STAT_IN_REFUGE i s = true → a + n ≤ 0x10F000) :
      LoopRange i a n s (codeBase i + 0x20000 + (a - 0x100000))
  | refuge (inside : fbit EXC_STAT_IN_REFUGE i s = true) (first : 0x10F000 ≤ a) (last : a + n ≤ 0x110000) :
      LoopRange i a n s (refugeKey i + (a - 0x10F000))

theorem loopRange_of_plain {i a n k : Nat} {s : State} (h : LoopPlain i a n s k) : LoopRange i a n s k := by
  cases h with
  | code h =>
    unfold loopPlace at h
    split_ifs at h with hcode
    obtain rfl := Place.code.inj h
    exact .code hcode
  | data h =>
    unfold loopPlace at h
    split_ifs at h with _ hdata hrefuge hhigh hlast
    · obtain rfl := Place.data.inj h
      exact .data hdata.1 hdata.2 (fun _ => hlast)
    · obtain rfl := Place.data.inj h
      exact .data hdata.1 hdata.2 (fun hin => absurd hin hrefuge)
  | refuge h =>
    unfold loopPlace at h
    split_ifs at h with _ hdata hrefuge hhigh
    obtain rfl := Place.refuge.inj h
    exact .refuge hrefuge hhigh hdata.2

theorem plainKey_of_loopPlain {i a n k : Nat} {s : State} (hhost : isHost i = false) (h : LoopPlain i a n s k) : k ∈ plainKey i a n s := by
  rw [plainKey, hhost, if_neg (by decide)]
  cases h with
  | code h => rw [h]; rfl
  | data h => rw [h]; rfl
  | refuge h => rw [h]; rfl

theorem loopPlain_of_range {i a n k : Nat} {s : State} (hn : 0 < n) (h : LoopRange i a n s k) : LoopPlain i a n s k := by
  cases h with
  | code h => exact .code (if_pos h)
  | data first last refuge =>
    refine .data ?_
    rw [loopPlace, if_neg (by omega), if_pos ⟨first, last⟩]
    split
    · next hin =>
      have hlast := refuge hin
      rw [if_neg (by omega), if_pos hlast]
    · rfl
  | refuge inside first last =>
    refine .refuge ?_
    rw [loopPlace, if_neg (by omega), if_pos ⟨by omega, last⟩, if_pos inside, if_pos first]

theorem plainKey_of_loopRange {i a n k : Nat} {s : State} (hhost : isHost i = false) (hn : 0 < n) (h : LoopRange i a n s k) :
    k ∈ plainKey i a n s := plainKey_of_loopPlain hhost (loopPlain_of_range hn h)

/-- The first bytes of a plain range, and the rest of it. -/
theorem plainKey_split {i a n m k : Nat} {s : State} (hn : 0 < n) (hm : 0 < m) (hk : k ∈ plainKey i a (n + m) s) :
    k ∈ plainKey i a n s ∧ k + n ∈ plainKey i (a + n) m s := by
  cases hhost : isHost i with
  | false =>
    cases loopRange_of_plain (loopPlain hhost hk) with
    | code h =>
      refine ⟨plainKey_of_loopRange hhost hn (.code (by omega)), ?_⟩
      rw [Nat.add_assoc]
      exact plainKey_of_loopRange hhost hm (.code (by omega))
    | data first last refuge =>
      refine ⟨plainKey_of_loopRange hhost hn (.data first (by omega) (fun hin => by have := refuge hin; omega)), ?_⟩
      rw [Nat.add_assoc, ← Nat.sub_add_comm first]
      exact plainKey_of_loopRange hhost hm (.data (by omega) (by omega) (fun hin => by have := refuge hin; omega))
    | refuge inside first last =>
      refine ⟨plainKey_of_loopRange hhost hn (.refuge inside first (by omega)), ?_⟩
      rw [Nat.add_assoc, ← Nat.sub_add_comm first]
      exact plainKey_of_loopRange hhost hm (.refuge inside (by omega) (by omega))
  | true =>
    unfold plainKey
    rw [if_pos hhost, if_pos hhost]
    cases hostPlain hhost (by omega) hk with
    | sram hfirst hlast =>
      have hlow := region_sram hfirst
      have hhigh := region_sram hlast
      rw [if_pos ⟨hfirst, regionOf_sram (by omega) (by omega)⟩, if_pos ⟨regionOf_sram (by omega) (by omega), regionOf_sram (by omega) (by omega)⟩]
      exact ⟨rfl, rfl⟩
    | dram hfirst hlast hwindow hup =>
      have hlow := region_dram hfirst
      have hhigh := region_dram hlast
      have hnot : ∀ {b : Nat}, regionOf b = .dram → ∀ {c : Prop}, ¬(regionOf b = .sram ∧ c) := fun hb _ hc => by
        rw [hb] at hc
        exact absurd hc.1 (by decide)
      have hrest : regionOf (a + n) = .dram := regionOf_dram (by omega) (by omega)
      rw [if_neg (hnot hfirst), if_neg (hnot hrest), if_pos ⟨hfirst, by omega, hup⟩, if_pos ⟨hrest, by omega, hup⟩,
        flat_add (by omega) (by omega)]
      exact ⟨rfl, rfl⟩

/-- A plain range ends within the addresses of 32 bits. -/
theorem plainKey_end {i a n k : Nat} {s : State} (hn : 0 < n) (hk : k ∈ plainKey i a n s) : a + n ≤ 2 ^ 32 := by
  cases hhost : isHost i with
  | false =>
    have hlow := loopPlain_low (loopPlain hhost hk)
    omega
  | true =>
    cases hostPlain hhost hn hk with
    | sram _ hlast => have := region_sram hlast; omega
    | dram _ hlast _ _ => have := region_dram hlast; omega

/-! ### A capability for a part of what it covers -/

theorem meets_of_part {a n b m lo hi : Nat} (hlow : a ≤ b) (hhigh : b + m ≤ a + n) (h : meets b m lo hi = true) : meets a n lo hi = true := by
  unfold meets at *
  simp only [Bool.and_eq_true, bne_iff_ne, decide_eq_true_eq] at *
  omega

section
variable {c : Cap} {a n b m : Nat} (hlow : a ≤ b) (hhigh : b + m ≤ a + n)
include hlow hhigh

theorem touchesRegister_of_part (h : touchesRegister b m = true) : touchesRegister a n = true := by
  simp only [touchesRegister, Bool.or_eq_true] at h ⊢
  exact h.imp (.imp (meets_of_part hlow hhigh) (meets_of_part hlow hhigh)) (meets_of_part hlow hhigh)

theorem authorities_of_part {p : Nat} (h : p ∈ authorities b m) : p ∈ authorities a n := by
  have hmeets : ∀ lo hi, meets b m lo hi = true → meets a n lo hi = true := fun _ _ => meets_of_part hlow hhigh
  simp only [authorities, List.mem_append, List.mem_ite_nil_right, List.any_eq_true, Bool.or_eq_true] at h ⊢
  rcases h with (((⟨h, hp⟩ | ⟨⟨r, hr, h⟩, hp⟩) | ⟨h, hp⟩) | ⟨h, hp⟩) | ⟨h, hp⟩
  · exact .inl (.inl (.inl (.inl ⟨hmeets _ _ h, hp⟩)))
  · exact .inl (.inl (.inl (.inr ⟨⟨r, hr, hmeets _ _ h⟩, hp⟩)))
  · exact .inl (.inl (.inr ⟨hmeets _ _ h, hp⟩))
  · exact .inl (.inr ⟨h.imp (hmeets _ _) (hmeets _ _), hp⟩)
  · exact .inr ⟨hmeets _ _ h, hp⟩

theorem capCheck_of_part {ps : List Nat} {w : Bool} (h : capCheck c ps a n w = none) : capCheck c ps b m w = none := by
  unfold capCheck at h ⊢
  split_ifs at h with htag hseal hkind hperms hcovers haccess
  have hcovers' : c.covers b m = true := by
    have := Bool.not_eq_true _ ▸ hcovers
    unfold Cap.covers at *
    simp_all
    omega
  have haccess' : ((touchesRegister b m && !c.has permREG) || (w && !(authorities b m).all c.has)) = false := by
    rw [Bool.not_eq_true, Bool.or_eq_false_iff] at haccess
    obtain ⟨hregister, hauthority⟩ := haccess
    rw [Bool.or_eq_false_iff]
    refine ⟨?_, ?_⟩
    · cases htouch : touchesRegister b m with
      | false => rfl
      | true => rw [touchesRegister_of_part hlow hhigh htouch] at hregister; exact hregister
    · cases w with
      | false => rfl
      | true =>
        rw [Bool.true_and, Bool.not_eq_false', List.all_eq_true] at hauthority ⊢
        exact fun p hp => hauthority p (authorities_of_part hlow hhigh hp)
  rw [if_neg htag, if_neg hseal, if_neg hkind, if_neg hperms, hcovers', haccess']
  rfl

end

end Sys2Proof.Machine

/-! A whole fill with the sweep at a stand (R17, R206), element after element. -/
namespace Sys2Proof.Machine

open Sys2Proof

/-! ### Registers written in turn -/

section
variable {α : Type}

theorem sdel_sput (k : Nat) (v : α) (m : SMap α) : sdel k (sput k v m) = sdel k m := by
  induction m with
  | nil => simp [sput, sdel]
  | cons e m ih =>
    obtain ⟨j, x⟩ := e
    simp only [sput]
    split_ifs with hlt heq
    · simp [sdel]
    · simp [sdel, heq]
    · simp [sdel, heq, ih]

theorem sdel_comm (k l : Nat) (m : SMap α) : sdel k (sdel l m) = sdel l (sdel k m) := by
  induction m with
  | nil => rfl
  | cons e m ih =>
    obtain ⟨j, x⟩ := e
    by_cases hk : j = k <;> by_cases hl : j = l <;> simp [sdel, hk, hl, ih] <;> simp_all [sdel]

/-- A number is put in its place whether or not another has been put in since. -/
theorem sput_sput_sput {k l : Nat} (hkl : k ≠ l) (v w x : α) (m : SMap α) : sput k w (sput l x (sput k v m)) = sput l x (sput k w m) := by
  induction m with
  | nil =>
    rcases Nat.lt_or_gt_of_ne hkl with h | h
    · simp [sput, Nat.not_lt_of_gt h, hkl]
    · simp [sput, h, Nat.not_lt_of_gt h, hkl.symm]
  | cons e m ih =>
    obtain ⟨j, y⟩ := e
    simp only [sput]
    rcases Nat.lt_trichotomy k j with hk | rfl | hk
    · rcases Nat.lt_or_gt_of_ne hkl with h | h
      · simp [sput, hk, Nat.not_lt_of_gt h, hkl]
      · simp [sput, hk, h, Nat.not_lt_of_gt h, hkl.symm]
    · rcases Nat.lt_or_gt_of_ne hkl with h | h
      · simp [sput, Nat.not_lt_of_gt h, hkl]
      · simp [sput, h, Nat.not_lt_of_gt h, hkl.symm]
    · rcases Nat.lt_trichotomy l j with hl | rfl | hl
      · simp [sput, hk.ne, Nat.not_lt_of_gt hk, hl, Nat.not_lt_of_gt (hl.trans hk), hkl.symm, sput_sput]
      · simp [sput, hk.ne, Nat.not_lt_of_gt hk, sput_sput]
      · simp [sput, hk.ne, Nat.not_lt_of_gt hk, hl.ne, Nat.not_lt_of_gt hl, ih]

end

/-- Registers that step in turn, of which the last is over at 0: only the last steps count. -/
theorem withG_again {b d v x y : Nat} (hbd : b ≠ d) (hb : b ≠ 0) (hd : d ≠ 0) (hv : v % 2 ^ 32 ≠ 0) (hx : x % 2 ^ 32 ≠ 0) (k : Cpu) :
    withG b 0 (withG d y (withG b v (withG d x k))) = withG b 0 (withG d y k) := by
  simp only [withG, if_neg hb, if_neg hd, sset, if_neg hv, if_neg hx, Nat.zero_mod, if_true]
  congr 1
  split_ifs
  · rw [sdel_comm b d, sdel_sput, sdel_comm d b, sdel_sput]
  · rw [sput_sput_sput hbd.symm, sdel_sput]

/-! ### Steps one after another -/

theorem CoreStep.congr {i : Nat} {f g : Cpu → Cpu} {s r t : State} (hs : CoreStep i f s r t) (hfg : f (cpu i s) = g (cpu i s)) :
    CoreStep i g s r t := ⟨hs.frame, hs.core.trans hfg, hs.others⟩

theorem CoreStep.after_memory {i : Nat} {f g : Cpu → Cpu} {s t u w : State} (hf : CoreStep i f s (memoryOf w s) t)
    (hg : CoreStep i g t (memoryOf u t) u) : CoreStep i (fun k => g (f k)) s (memoryOf u s) u where
  frame := by
    have hframe := hg.frame
    rw [hf.frame] at hframe
    exact hframe
  core := by rw [hg.core, hf.core]
  others j hj := by rw [hg.others j hj, hf.others j hj]

theorem coreStep_putMem {s : State} (hs : memorySound s) (i k n v : Nat) :
    CoreStep i (fun c => c) s (memoryOf (putMem k n v s) s) (putMem k n v s) := by
  have hcpus : (putMem k n v s).cpus = s.cpus := by rw [putMem_frame hs]; rfl
  exact (CoreStep.refl i s).rest hcpus ((putMem_frame hs k n v).trans (by rw [hcpus]; rfl))

/-- What a change of memory and of registers leaves. -/
theorem of_memory_frame {i a n : Nat} {s t w : State} (ht : t = { memoryOf w s with cpus := t.cpus }) :
    plainKey i a n t = plainKey i a n s ∧ running t = running s ∧ t.regs = s.regs ∧ (memorySound t ↔ memorySound s) := by
  rw [ht]
  exact ⟨rfl, rfl, rfl, Iff.rfl⟩

theorem gSet_mod (i r v : Nat) (s : State) : gSet i r (v % 2 ^ 32) s = gSet i r v s := by rw [gSet, gSet, Nat.mod_mod]

theorem withG_kept (r v : Nat) (k : Cpu) : (withG r v k).c = k.c ∧ (withG r v k).faults = k.faults := by
  unfold withG
  split <;> exact ⟨rfl, rfl⟩

/-! ### The elements of a fill -/

theorem mread_of_same_bytes {k n : Nat} {s t : State} (h : ∀ x, k ≤ x → x < k + n → mget x t = mget x s) : mread k n t = mread k n s := by
  induction n generalizing k with
  | zero => rfl
  | succ n ih => rw [mread, mread, h k (Nat.le_refl k) (by omega), ih fun x hlow hhigh => h x (by omega) (by omega)]

/-- The `l` elements of `n` bytes from key `k` on have taken the value `v`. -/
def filled (k n l v : Nat) (s t : State) : Prop :=
  (∀ j, j < l → mread (k + n * j) n t = v % 2 ^ (8 * n)) ∧ ∀ x, x < k ∨ k + n * l ≤ x → mget x t = mget x s

theorem filled_of_stored {k n v : Nat} {s t : State} (h : stored k n v s t) : filled k n 1 v s t := by
  obtain ⟨hread, hother, -⟩ := h
  refine ⟨fun j hj => ?_, fun x hx => hother x (by omega)⟩
  obtain rfl : j = 0 := by omega
  exact hread

/-- The first element, then the others. -/
theorem filled_of_first {k n l v : Nat} {s t w : State} (hfirst : stored k n v s w) (hrest : filled (k + n) n l v w t) : filled k n (l + 1) v s t := by
  obtain ⟨hread, hother, -⟩ := hfirst
  obtain ⟨hreads, hothers⟩ := hrest
  have hsize : n * (l + 1) = n + n * l := by rw [Nat.mul_succ, Nat.add_comm]
  refine ⟨fun j hj => ?_, fun x hx => ?_⟩
  · cases j with
    | zero => exact (mread_of_same_bytes fun x _ hx => hothers x (.inl hx)).trans hread
    | succ j =>
      rw [Nat.mul_succ, Nat.add_comm (n * j), ← Nat.add_assoc]
      exact hreads j (by omega)
  · rw [hothers x (by omega), hother x (by omega)]

theorem cGet_gSet (i q r v : Nat) (s : State) : cGet i q (gSet i r v s) = cGet i q s := by
  unfold gSet
  split
  · rfl
  · exact cGet_congr (by rw [cpu_setCpu_same]) q

section
variable {i n : Nat} {o : BitVec 16} {y : Byte} (hn : 0 < n) (hX : optionX o = false) (hBD : fieldB o ≠ fieldD o) (hD : fieldD o ≠ 0)

include hX hBD in
/-- The registers after an element of a fill. -/
theorem fill_registers {m d : Nat} {s : State} (hleft : gGet i (fieldB o) s = m + 1) (hd : gGet i (fieldD o) s = d) :
    countDown i o (stepReg i (fieldD o) n o s) = gSet i (fieldB o) m (gSet i (fieldD o) (d + n) s) := by
  have hstep : stepReg i (fieldD o) n o s = gSet i (fieldD o) (d + n) s := by rw [stepReg, hX, if_neg (by decide), hd]
  have hcount : (m + 1 + (2 ^ 32 - 1)) % 2 ^ 32 = m % 2 ^ 32 := by omega
  rw [countDown, hstep, gGet_gSet_other hBD, hleft, ← gSet_mod, hcount, gSet_mod]

/-- A fill stands before its next elements in state `s`: `l` of them are left, with the value `v` and key `k`. -/
structure Fills (i n : Nat) (o : BitVec 16) (y : Byte) (l d k v : Nat) (r : BlockRun) (s : State) : Prop where
  block : isBlock .bfil o y n r
  rep : r.rep = true
  still : running s = false
  unstopped : blockStops i s = false
  sound : memorySound s
  left : gGet i (fieldB o) s = l
  dest : gGet i (fieldD o) s = d
  value : gElem i (fieldA o) n s = v
  plain : k ∈ plainKey i d (n * l) s
  allowed : capCheck (cGet i (dstCapOf y) s) [permST] d (n * l) true = none

/-- The state after the next element of a fill. -/
def filledOne (i n : Nat) (o : BitVec 16) (l d k v : Nat) (s : State) : State :=
  gSet i (fieldB o) l (gSet i (fieldD o) (d + n) (putMem k n v s))

theorem filledOne_step {l d k v : Nat} {s : State} (hs : memorySound s) :
    CoreStep i (fun c => withG (fieldB o) l (withG (fieldD o) (d + n) c)) s (memoryOf (filledOne i n o l d k v s) s) (filledOne i n o l d k v s) := by
  have hstep := ((coreStep_putMem hs i k n v).gSet (fieldD o) (d + n)).gSet (fieldB o) l
  rw [filledOne, memoryOf_gSet, memoryOf_gSet]
  exact hstep

include hn in
theorem filledOne_stored {l d k v : Nat} {s : State} (hs : memorySound s) : stored k n v s (filledOne i n o l d k v s) :=
  stored_of_memory (stored_putMem hs k n v hn) (by rw [filledOne, memoryOf_gSet, memoryOf_gSet])

variable {l d k v : Nat} {r : BlockRun} {s : State}

theorem Fills.goes (h : Fills i n o y (l + 1) d k v r s) : goes i r s := by
  obtain ⟨-, ho, -, -⟩ := h.block
  refine ⟨?_, by rw [h.still, Bool.false_and], by rw [h.unstopped, Bool.and_false]⟩
  rw [ho, h.left]
  exact Nat.succ_ne_zero l

include hn in
/-- The next element lies in plain memory, and the capability covers it. -/
theorem Fills.first (h : Fills i n o y (l + 1) d k v r s) :
    k ∈ plainKey i d n s ∧ capCheck (cGet i (dstCapOf y) s) [permST] d n true = none := by
  have hsize : n * (l + 1) = n + n * l := by rw [Nat.mul_succ, Nat.add_comm]
  have hplain := h.plain
  have hallowed := h.allowed
  rw [hsize] at hplain hallowed
  refine ⟨?_, capCheck_of_part (Nat.le_refl d) (by omega) hallowed⟩
  cases l with
  | zero => exact hplain
  | succ l => exact (plainKey_split hn (Nat.mul_pos hn (Nat.succ_pos l)) hplain).1

include hn hX hBD in
theorem Fills.element (h : Fills i n o y (l + 1) d k v r s) : element i r s = ⟨none, false, 0, filledOne i n o l d k v s⟩ := by
  obtain ⟨hplain, hallowed⟩ := h.first hn
  have helem := element_bfil h.sound hn h.block (by rw [h.dest]; exact hplain) (by rw [h.dest]; exact hallowed)
  rw [helem, h.value, fill_registers hX hBD (m := l) (d := d) (by rw [gGet_putMem h.sound, h.left]) (by rw [gGet_putMem h.sound, h.dest])]
  rfl

variable (hB : fieldB o ≠ fieldA o) (hA : fieldD o ≠ fieldA o) (hpair : n = 8 → fieldB o ≠ fieldA o + 1 ∧ fieldD o ≠ fieldA o + 1)
include hn hBD hD hB hA hpair

/-- A fill goes on with the element behind. -/
theorem Fills.next (h : Fills i n o y (l + 2) d k v r s) :
    Fills i n o y (l + 1) (d + n) (k + n) v (afterElement i r (Machine.element i r s)) (filledOne i n o (l + 1) d k v s) := by
  have hsize : n * (l + 2) = n + n * (l + 1) := by rw [Nat.mul_succ, Nat.add_comm]
  have hrest : 0 < n * (l + 1) := Nat.mul_pos hn (Nat.succ_pos l)
  have hplain := h.plain
  have hallowed := h.allowed
  have hend := plainKey_end (by omega) hplain
  have hcount := gGet_lt i (fieldB o) s
  have hstep := filledOne_step (i := i) (n := n) (o := o) (l := l + 1) (d := d) (k := k) (v := v) h.sound
  obtain ⟨-, hrunning, hregs, hsound⟩ := of_memory_frame (i := i) (a := 0) (n := 0) hstep.frame
  rw [h.left] at hcount
  rw [hsize] at hplain hallowed hend
  have hB0 : fieldB o ≠ 0 := index_of_left (by rw [h.left]; exact Nat.succ_ne_zero _)
  have hcap : cGet i (dstCapOf y) (filledOne i n o (l + 1) d k v s) = cGet i (dstCapOf y) s := by
    rw [filledOne, cGet_gSet, cGet_gSet]
    exact cGet_congr (by rw [putMem_frame h.sound]; rfl) _
  have hother : ∀ q, fieldB o ≠ q → fieldD o ≠ q → gGet i q (filledOne i n o (l + 1) d k v s) = gGet i q s := fun q hBq hDq => by
    rw [filledOne, gGet_gSet_other hBq.symm, gGet_gSet_other hDq.symm, gGet_putMem h.sound]
  constructor
  case block => exact h.block
  case rep => exact h.rep
  case still => rw [hrunning, h.still]
  case unstopped =>
    rw [blockStops_congr hregs, h.unstopped]
    rw [hstep.core, (withG_kept ..).2, (withG_kept ..).2]
  case sound => exact hsound.mpr h.sound
  case left => rw [filledOne, gGet_gSet_same hB0, Nat.mod_eq_of_lt (by omega)]
  case dest => rw [filledOne, gGet_gSet_other hBD.symm, gGet_gSet_same hD, Nat.mod_eq_of_lt (by omega)]
  case value =>
    have hvalue := h.value
    unfold gElem at hvalue ⊢
    rw [hother _ hB hA]
    split at hvalue
    · next h8 => rw [if_pos h8, hother _ (hpair h8).1 (hpair h8).2, hvalue]
    · next h8 => rw [if_neg h8, hvalue]
  case plain =>
    rw [(of_memory_frame hstep.frame).1]
    exact (plainKey_split hn hrest hplain).2
  case allowed =>
    rw [hcap]
    exact capCheck_of_part (by omega) (by omega) hallowed

include hX in
/-- All elements of a fill, one after another. -/
theorem blockGo_fill : ∀ (l d k : Nat) (r : BlockRun) (s : State), Fills i n o y (l + 1) d k v r s →
    ∃ t, blockGo i (l + 2) r s = (none, blockDone i r (r.at_ + perElement i r * (l + 1) + blockBase i) t) ∧ filled k n (l + 1) v s t
      ∧ CoreStep i (fun c => withG (fieldB o) 0 (withG (fieldD o) (d + n * (l + 1)) c)) s (memoryOf t s) t := by
  intro l
  induction l with
  | zero =>
    intro d k r s h
    have helem := h.element hn hX hBD
    have hexc : (element i r s).exc = none := by rw [helem]
    have hmore : ((element i r s).found || !r.rep) = false := by rw [helem, h.rep]; rfl
    have hB0 : fieldB o ≠ 0 := index_of_left (by rw [h.left]; exact Nat.one_ne_zero)
    obtain ⟨-, ho, -, -⟩ := h.block
    refine ⟨filledOne i n o 0 d k v s, ?_, filled_of_stored (filledOne_stored hn h.sound), ?_⟩
    · rw [blockGo_of_more h.goes hexc hmore, blockGo_of_done]
      · rw [helem, afterElement, Nat.mul_one]
        rfl
      · rw [helem]
        show gGet i (fieldB r.o) _ = 0
        rw [ho, filledOne, gGet_gSet_same hB0]
        rfl
    · rw [Nat.mul_one]
      exact filledOne_step h.sound
  | succ l ih =>
    intro d k r s h
    have helem := h.element hn hX hBD
    have hexc : (element i r s).exc = none := by rw [helem]
    have hmore : ((element i r s).found || !r.rep) = false := by rw [helem, h.rep]; rfl
    have hB0 : fieldB o ≠ 0 := index_of_left (by rw [h.left]; exact Nat.succ_ne_zero _)
    obtain ⟨t, hgo, hfilled, hrest⟩ := ih (d + n) (k + n) _ _ (h.next hn hBD hD hB hA hpair)
    have hsize : n * (l + 2) = n + n * (l + 1) := by rw [Nat.mul_succ, Nat.add_comm]
    refine ⟨t, ?_, filled_of_first (filledOne_stored hn h.sound) hfilled, ?_⟩
    · have hstate : (element i r s).s = filledOne i n o (l + 1) d k v s := by rw [helem]
      have hcount : (afterElement i r (element i r s)).at_ + perElement i (afterElement i r (element i r s)) * (l + 1) + blockBase i
          = r.at_ + perElement i r * (l + 1 + 1) + blockBase i := by
        rw [helem]
        show r.at_ + perElement i r + 0 + perElement i r * (l + 1) + blockBase i = _
        rw [Nat.mul_succ _ (l + 1)]
        omega
      rw [blockGo_of_more h.goes hexc hmore, hstate, hgo, hcount]
      rfl
    · have hcount := gGet_lt i (fieldB o) s
      have hend := plainKey_end (Nat.mul_pos hn (Nat.succ_pos _)) h.plain
      have hmore : 0 < n * (l + 1) := Nat.mul_pos hn (Nat.succ_pos l)
      rw [h.left] at hcount
      rw [hsize] at hend ⊢
      refine ((filledOne_step h.sound).after_memory hrest).congr ?_
      rw [← Nat.add_assoc]
      exact withG_again hBD hB0 hD (by omega) (by omega) _

end

end Sys2Proof.Machine

/-! O58: the block instructions where they begin. -/
namespace Sys2Proof.Machine

open Sys2Proof

section
variable {h : Hdr} {o : BitVec 16} {y : Byte} {stop : Option Nat} {n : Nat} {u : Iss} {s : State}

theorem gElem_afterIssue_any {u : Iss} {size : Nat} (r n : Nat) :
    gElem (coreNum h.core) r n (afterIssue h u size s) = gElem (coreNum h.core) r n s := by
  rw [gElem, gElem, gGet_afterIssue, gGet_afterIssue]

theorem gElem_lt {i r n : Nat} {s : State} : gElem i r n s < 2 ^ (8 * n) := by
  unfold gElem
  split
  · next h8 =>
    have hlow := gGet_lt i r s
    have hhigh := gGet_lt i (r + 1) s
    rw [h8]
    omega
  · exact Nat.mod_lt _ (Nat.two_pow_pos _)

/-- The four instructions: their kinds, and what their rows ask beside the prefixes (R206). -/
theorem block_rows (hn : n = elemSize h.pre) :
    ∀ e ∈ ([(.coreBcpy h o y stop, 0, true), (.coreBfil h o y stop, 1, y.toNat % 16 == 0 && (n != 8 || pairField (fieldA o))),
      (.coreTsrch h o y stop, 2, y.toNat / 16 == 0 && (n != 8 || pairField (fieldD o))),
      (.coreBcrc h o y stop, 3, y.toNat / 16 == 0)] : List (Instr × Nat × Bool)),
    ∃ op kind, codeLen ⟨op, o.toNat + 2 ^ 16 * y.toNat, stop⟩ = 4 ∧ exec e.1 s = blockInst op kind h o y stop e.2.2 s ∧ kindCode kind = e.2.1 := by
  subst hn
  simp only [List.forall_mem_cons]
  exact ⟨⟨0xB0, .bcpy, rfl, rfl, rfl⟩, ⟨0xB1, .bfil, rfl, rfl, rfl⟩, ⟨0xB2, .tsrch, rfl, rfl, rfl⟩, ⟨0xB3, .bcrc, rfl, rfl, rfl⟩,
    List.forall_mem_nil _⟩

theorem filled_congr {k l v : Nat} {s t s' t' : State} (hfilled : filled k n l v s t) (hs : s'.mem = s.mem) (ht : t'.mem = t.mem) :
    filled k n l v s' t' := by
  obtain ⟨hreads, hothers⟩ := hfilled
  refine ⟨fun j hj => (mread_congr ht _ _).trans (hreads j hj), fun x hx => ?_⟩
  have hx' := hothers x hx
  rw [mget, mget] at hx' ⊢
  rw [hs, ht, hx']

/-- A fill of more than one element with the sweep at a stand (R17). -/
theorem carriesOut_fill {e : Instr} {op : Nat} {legal : Bool} (hlen : codeLen ⟨op, o.toNat + 2 ^ 16 * y.toNat, stop⟩ = 4) (hn : n = elemSize h.pre)
    (hlegal : (prefixesOk allowBlock h.pre && legal) = true) (hs : memorySound s)
    (hexec : exec e s = blockInst op .bfil h o y stop legal s) (hu : u = blockIss 1 o y n) (hrep : hasRepeat h.pre = true)
    (hrun : running s = false) (hX : optionX o = false) (hBD : fieldB o ≠ fieldD o) (hD : fieldD o ≠ 0)
    (hB : fieldB o ≠ fieldA o) (hA : fieldD o ≠ fieldA o) (hpair : n = 8 → fieldB o ≠ fieldA o + 1 ∧ fieldD o ≠ fieldA o + 1)
    {left d kd : Nat} (hleft : gGet (coreNum h.core) (fieldB o) s = left + 1) (hd : gGet (coreNum h.core) (fieldD o) s = d)
    (hk : kd ∈ plainKey (coreNum h.core) d (n * (left + 1)) s)
    (hcap : capCheck (cGet (coreNum h.core) (dstCapOf y) s) [permST] d (n * (left + 1)) true = none) :
    carriesOut e h u 4 s (fun b t => filled kd n (left + 1) (gElem (coreNum h.core) (fieldA o) n s) s t
      ∧ executed h u 4 b (blockBase (coreNum h.core) + (1 + if n = 8 then 1 else 0) * (left + 1))
        (blockBase (coreNum h.core) + (1 + if n = 8 then 1 else 0) * (left + 1)) 1
        (fun k => withG (fieldB o) 0 (withG (fieldD o) (d + n * (left + 1)) k)) (memoryOf t s) s t) := by
  by_cases hb : begins h u 4 s
  case neg => exact fun hb' => absurd hb' hb
  have hpos : 0 < n := hn ▸ elemSize_pos _
  have hfills : Fills (coreNum h.core) n o y (left + 1) d kd (gElem (coreNum h.core) (fieldA o) n s)
      (blockOf .bfil o y stop n (insAt h u 4 s)) (afterIssue h u 4 s) :=
    { block := isBlock_blockOf .., rep := hrep, still := hrun, unstopped := blockStops_afterIssue hb, sound := hs
      left := by rw [gGet_afterIssue, hleft], dest := by rw [gGet_afterIssue, hd], value := gElem_afterIssue_any ..
      plain := hk, allowed := by rw [cGet_afterIssue]; exact hcap }
  obtain ⟨t, hgo, hfilled, hstep⟩ := blockGo_fill hpos hX hBD hD hB hA hpair left d kd _ _ hfills
  have hfuel : blockFuel (coreNum h.core) (blockOf .bfil o y stop n (insAt h u 4 s)) (afterIssue h u 4 s) = left + 2 := by
    have hstill : running (afterIssue h u 4 s) = false := hrun
    rw [blockFuel, hstill, if_neg (by decide)]
    show gGet _ (fieldB o) _ + 1 = _
    rw [gGet_afterIssue, hleft]
  have hper : perElement (coreNum h.core) (blockOf .bfil o y stop n (insAt h u 4 s)) = 1 + if n = 8 then 1 else 0 := by
    unfold perElement
    split <;> rfl
  rw [← hfuel, hper] at hgo
  refine carriesOut_block hexec hlen hn hu hlegal (fun _ => hgo) (fun _ => ⟨?_, ?_⟩)
  · exact filled_congr hfilled rfl rfl
  · have hstep' : CoreStep (coreNum h.core) (fun k => withG (fieldB o) 0 (withG (fieldD o) (d + n * (left + 1)) k)) (afterIssue h u 4 s) (memoryOf t s) t :=
      hstep.rest rfl hstep.frame
    refine executed_of_blockDone hb hstep' ((IssueBlind.withG _ _).comp (IssueBlind.withG _ _)) ((KeepsPlace.withG _ _).comp (KeepsPlace.withG _ _))
      rfl ?_ ?_
    · show beginCycle (coreNum h.core) h.wait u s + _ + _ = _
      rw [ite_self, Nat.add_assoc, Nat.add_comm (_ * _)]
    · show _ < beginCycle (coreNum h.core) h.wait u s + _ + _
      rw [Nat.mul_succ]
      omega

theorem pairLegal {r : Nat} (hpair : n = 8 → pairField r = true) : (true && (0 == 0 && (n != 8 || pairField r))) = true := by
  by_cases h8 : n = 8
  · simp [h8, hpair h8]
  · simp [h8]

theorem stored_ite_mod {c : Prop} [Decidable c] {k v w : Nat} {s t : State} :
    stored k n (if c then v else w % 2 ^ (8 * n)) s t ↔ stored k n (if c then v else w) s t := by
  split
  · rfl
  · exact stored_mod ..

/-- The registers of a fill are not those of its value. -/
theorem fillRegs {a b d : Nat} (h : [b, d].all (fun r => r != 0 && r != a && (n != 8 || r != a + 1)) = true) :
    (b ≠ 0 ∧ b ≠ a ∧ (n = 8 → b ≠ a + 1)) ∧ d ≠ 0 ∧ d ≠ a ∧ (n = 8 → d ≠ a + 1) := by
  simp only [List.all_cons, List.all_nil, Bool.and_true, Bool.and_eq_true, Bool.or_eq_true, bne_iff_ne] at h
  obtain ⟨⟨⟨hb, hba⟩, hb8⟩, ⟨hd, hda⟩, hd8⟩ := h
  exact ⟨⟨hb, hba, fun h8 => hb8.resolve_left (fun hne => hne h8)⟩, hd, hda, fun h8 => hd8.resolve_left (fun hne => hne h8)⟩

end

theorem kind_of_code {kind : BlockKind} (h : kindCode kind = 1) : kind = .bfil := by
  cases kind with
  | bfil => rfl
  | bcpy => exact absurd h (by decide)
  | tsrch => exact absurd h (by decide)
  | bcrc => exact absurd h (by decide)

/-- Settles O58: a failing element, one element, a whole fill, the end of a dot each by the steps of `blockGo`. -/
theorem blockInstructions : Obligations.BlockInstructions := by
  unfold Obligations.BlockInstructions
  rintro h s hs _ rfl _ rfl o _ rfl _ rfl _ rfl n hn y stop _ rfl _ rfl _ rfl _ rfl left hleft dx hdx base rfl _ rfl rs hrs u hu read rfl write rfl
  have hiss : ∀ k, u k = blockIss k o y n := fun k => by rw [hu, hrs, blockIss]
  have hpos : 0 < n := hn ▸ elemSize_pos _
  obtain rfl : dx = stepOf o n := hdx
  subst hleft
  refine ⟨fun e he => ?_, fun hpre hleft hrep => ⟨fun ka ha kd hd hread hwrite => ?_, fun kd hd hwrite hsrc hpair => ?_,
    fun ka ha hread hdst => ⟨fun hpair => ?_, ?_⟩⟩, fun hpre hrep hrun hX hsrc hpair hregs hBD hleft kd hkd hcap => ?_⟩
  · obtain ⟨op, kind, hlen, hexec, hkind⟩ := block_rows (s := s) hn e he
    rw [← hkind]
    refine ⟨fun hlegal => illegal_block hexec hlen hn (hiss _) hlegal, fun hlegal => ⟨fun hzero => ?_, fun hleft x hx => ?_, fun hleft hfil x hx => ?_,
      fun hrun => ?_⟩⟩
    · exact acts_block_of_zero hexec hlen hn (hiss _) hlegal hzero
    · obtain ⟨hnot, hx⟩ : kindCode kind ≠ 1
          ∧ x ∈ capCheck (cGet (coreNum h.core) (srcCapOf y) s) [permLD] (gGet (coreNum h.core) (fieldA o) s) n false := by
        split at hx
        · cases hx
        · next hnot => exact ⟨hnot, hx⟩
      obtain ⟨hexc, hstate⟩ := element_of_readFail (i := coreNum h.core) (s := afterIssue h (u (kindCode kind)) 4 s)
        (isBlock_blockOf kind o y stop n (insAt h (u (kindCode kind)) 4 s)) (fun hk => hnot (by rw [hk]; rfl))
        (by rwa [gGet_afterIssue, cGet_afterIssue])
      rw [gGet_afterIssue] at hexc
      exact carriesOut_block_of_fail hexec hlen hn (hiss _) hlegal hleft hexc hstate
    · obtain rfl := kind_of_code hfil
      obtain ⟨hexc, hstate⟩ := element_of_writeFail (i := coreNum h.core) (s := afterIssue h (u (kindCode .bfil)) 4 s)
        (isBlock_blockOf .bfil o y stop n (insAt h (u (kindCode .bfil)) 4 s)) (by rw [gGet_afterIssue, cGet_afterIssue]; exact hx)
      rw [gGet_afterIssue] at hexc
      exact carriesOut_block_of_fail hexec hlen hn (hiss _) hlegal hleft hexc hstate
    · exact carriesOut_block_of_running hexec hlen hn (hiss _) hlegal hrun
  · exact carriesOut_bcpy (op := 0xB0) (legal := true) rfl hn (by rw [hpre]; rfl) hs hleft hrep rfl (hiss 0) ha hd hread hwrite
  · have hlegal : (prefixesOk allowBlock h.pre && (srcCapOf y == 0 && (n != 8 || pairField (fieldA o)))) = true := by
      rw [hpre, srcCapOf, hsrc]
      exact pairLegal hpair
    have hfill := carriesOut_bfil (op := 0xB1) rfl hn hlegal hs hleft hrep (e := .coreBfil h o y stop) (stop := stop) (by rw [hn]; rfl) (hiss 1) hd hwrite
    simp only [gElem, stored_ite_mod] at hfill
    exact hfill
  · have hlegal : (prefixesOk allowBlock h.pre && (dstCapOf y == 0 && (n != 8 || pairField (fieldD o)))) = true := by
      rw [hpre, dstCapOf, hdst]
      exact pairLegal hpair
    exact acts_tsrch (op := 0xB2) rfl hn hlegal hs hleft hrep (by rw [hn]; rfl) (hiss 2) ha hread
  · exact acts_bcrc (op := 0xB3) (legal := dstCapOf y == 0) rfl hn (by rw [hpre, dstCapOf, hdst]; rfl) hs hleft hrep rfl (hiss 3) ha hread
  · have hlegal : (prefixesOk allowBlock h.pre && (srcCapOf y == 0 && (n != 8 || pairField (fieldA o)))) = true := by
      rw [hpre, srcCapOf, hsrc]
      exact pairLegal hpair
    obtain ⟨⟨-, hBA, hB8⟩, hD0, hDA, hD8⟩ := fillRegs hregs
    obtain ⟨left, hsucc⟩ := Nat.exists_eq_succ_of_ne_zero hleft
    rw [hsucc] at hkd hcap ⊢
    have hfill := carriesOut_fill (op := 0xB1) rfl hn hlegal hs (e := .coreBfil h o y stop) (stop := stop) (by rw [hn]; rfl) (hiss 1) hrep hrun hX hBD hD0
      hBA hDA (fun h8 => ⟨hB8 h8, hD8 h8⟩) hsucc rfl hkd hcap
    refine fun hb => ?_
    obtain ⟨t, ht, ⟨hreads, hothers⟩, hexecuted⟩ := hfill hb
    refine ⟨t, ht, fun j hj => ?_, fun x _ hx => hothers x hx, hexecuted⟩
    rw [hreads j hj, Nat.mod_eq_of_lt gElem_lt, gElem]

end Sys2Proof.Machine
